-- ==== Sys2Proof/Word.lean ====
section
/-! DEFINITION. The plainest data of the model: a byte, and a sparse table of values by key. -/
namespace Sys2Proof

/-- One byte of memory, of a Catalogue value or of a packet. -/
abbrev Byte := BitVec 8

/-- A sparse table: key and value pairs with strictly rising keys; a key that is not listed holds the table's default,
which its accessor names. Memory cells, Catalogue values and the records of cores, ports and channels are kept so. -/
abbrev Tab (α : Type) := List (Nat × α)

/-- A CPLX16 value or its parts, as integers (R55). -/
structure Cplx where
  re : Int
  im : Int
  deriving DecidableEq, Repr

end Sys2Proof
end

