-- ==== Sys2Proof/Syntax.lean ====
section
/-! DEFINITION. The commands the part takes, one constructor for each row of the table of operations and events, and the records of
their operands. -/
namespace Sys2Proof

/-- A Catalogue request (Table 3.4): `port` 0 is PORT-N, 1 the service port; `spare` holds CTRL[1:0]; `data` is every byte received
after the header, padding included. -/
structure Request where
  port : Nat
  op : Nat
  tag : Nat
  pos : Nat
  array : Bool
  asap : Bool
  first : Bool
  last : Bool
  sub : Nat
  index : Nat
  count : Nat
  length : Nat
  offset : Nat
  param : Nat
  spare : Nat
  data : List Byte
  deriving DecidableEq, Repr

/-- What one frame of a housekeeping converter measures (R397): the converter (0 HKA, 1 HKB); whether a conversion did not complete
within 10 µs; the bandgap result; die sensors 16 to 23 in 0.1 °C; the voltages of the remote input in turn in µV (V1 to V3 of a
diode, V of an NTC first); the other channels visited, with the sum of an HKIN's samples, or the millivolts of a rail or readback. -/
structure HkFrame where
  conv : Nat
  timeout : Bool
  bandgap : Nat
  dies : List (Nat × Int)
  remote : Option (Int × Int × Int)
  others : List (Nat × Int)
  deriving DecidableEq, Repr

/-- A check by both converters (R399): their results, and whether a conversion of each did not complete within 10 µs. -/
structure HkCheck where
  a : Nat
  b : Nat
  lateA : Bool
  lateB : Bool
  deriving DecidableEq, Repr

/-- What a training stage gives (R199, R200, Table 8.4): whether its captures held a usable level, whether a read was poisoned, the
coefficients it solved by byte offset in the set, the tiles it chose by byte offset, and at verification each receiving path with A,
D and I in 0.01 dB. -/
structure TrainResult where
  level : Bool
  poison : Bool
  coefs : List (Nat × Cplx)
  tiles : List (Nat × Nat)
  figures : List (Nat × Int × Int × Int)
  deriving DecidableEq, Repr

/-- A tracked solve of one path and subband (R203): its 256 coefficients. -/
structure TrackSolve where
  path : Nat
  subband : Nat
  coefs : List Cplx
  deriving DecidableEq, Repr

/-- A detection by the SPE's correlator (R208, R221): its metric in 0.01 dB, how many samples into the preamble it comes, and in
diversity the energies measured on the current and on the other alternate. -/
structure SpeDetect where
  metric : Int
  into : Nat
  energyHere : Nat
  energyOther : Nat
  deriving DecidableEq, Repr

/-- What the receiver finds at a sync symbol (R222, R223): the word as received, the TIMESTAMP of its first sample corrected by the
path's delay, the power in 0.01 dBm and the carrier offset in Hz. -/
structure SpeSyncFound where
  word : Nat
  stamp : Nat
  rssi : Int
  cfo : Int
  deriving DecidableEq, Repr

/-- A measurement of a calibration kind on a path (R232 to R242), or of kind 0x10 on the device at an array position: whether the LO
was unlocked during it, whether a word read was poisoned; the quantities of the first and the second measurement in the units of
Tables 10.3 and 10.6, in the order of the path or observation record; offsets in µV, I and Q of the ADC's DC and of the LO leakage;
the coarse DC codes; tap offsets, transmit then receive; the SNR in 0.01 dB; M_rx and M_tx by carrier; residuals in the order of
`CalQuality`, or of `CalObsQuality`. -/
structure CalMeasure where
  kind : Nat
  path : Nat
  lost : Bool
  poison : Bool
  q1 : List Int
  q2 : List Int
  uv1 : List Int
  uv2 : List Int
  dc : Nat
  taps : List Int
  snr : Int
  mrx : List Cplx
  mtx : List Cplx
  residuals : List Nat
  deriving DecidableEq, Repr

/-- What the other devices of an ARRAY run report at its end (R237): their largest |c_p|², as a numerator and a denominator. -/
structure CalPeers where
  num : Nat
  den : Nat
  deriving DecidableEq, Repr

/-- Where a mason operation issues (R259, R265): the core, the empty bundles that issue before its bundle, and whether another
operation of the same bundle follows. -/
structure MasonIssue where
  core : Nat
  skip : Nat
  more : Bool
  deriving DecidableEq, Repr

/-- An operation of L format (Table 11.4): VD, ACC or PD, then PN and INC. -/
structure LFormat where
  reg : BitVec 5
  pn : BitVec 4
  inc : BitVec 20
  deriving DecidableEq, Repr

/-- An operation of M format. -/
structure MFormat where
  acca : BitVec 2
  va : BitVec 5
  vb : BitVec 5
  accb : BitVec 2
  deriving DecidableEq, Repr

/-- An operation of A format. -/
structure AFormat where
  vd : BitVec 5
  va : BitVec 5
  vb : BitVec 5
  acc : BitVec 2
  imm : BitVec 15
  deriving DecidableEq, Repr

/-- An operation of C format. -/
structure CFormat where
  pd : BitVec 4
  pa : BitVec 4
  imm : BitVec 24
  deriving DecidableEq, Repr

/-- What a lane brings in one bond (R284, R285): the bits received after the last bit of the brick before it, gap bits first, up to its
last CRC bit and a stuff bit that follows it; and how many UI it comes after the earliest lane. -/
structure LaneBits where
  bits : List Bool
  skew : Nat
  deriving DecidableEq, Repr

/-- Where a packet comes from (Table 13.1): the port it arrives on, 0 PORT-N and 1 PORT-S, POS, ETAG as 32 bits, SEQ. -/
structure PacketHead where
  port : Nat
  pos : Nat
  etag : Nat
  seq : Nat
  deriving DecidableEq, Repr

/-- The addresses of a MEM request (Table 13.6). -/
structure MemAccess where
  tag : Nat
  addr : Nat
  bytes : Nat
  deriving DecidableEq, Repr

/-- A Mortar access whose target does not respond (R14): a MEM request held, by its place among those that wait; a mason's transfer; a
write burst of a DMA channel, by its place; a channel's descriptor fetch. -/
inductive MortarAccess where
  | mem (i : Nat)
  | xfer (core i : Nat)
  | burst (chan i : Nat)
  | fetch (chan : Nat)
  deriving DecidableEq, Repr

/-- Units of the credit classes 1, 2 and 3 in a CREDIT packet (R302). -/
structure CreditUnits where
  c1 : Nat
  c2 : Nat
  c3 : Nat
  deriving DecidableEq, Repr

/-- Who writes an entry (R60, R71): the entry point, 0 PORT-N and 1 the service port; the tag; the array position it addresses. -/
structure Caller where
  port : Nat
  tag : Nat
  pos : Nat
  deriving DecidableEq, Repr

/-- What the symbol that a tick ends has brought (R87 to R89, R165, R194, R418): FFT outputs by path and active subcarrier; by path its
RMS level in 0.01 dBFS and its full-scale samples; saturations after normalisation; the DC offsets that the fine loops estimate, in LSB of
the ADC; the samples at the Lineariser inputs by path; and the paths whose DAC self-check fails, whose ADC gives one code throughout or
full-scale codes in every sample, and whose circuits fail a retest. -/
structure TickInput where
  rx : List (Nat × Nat × Cplx)
  levels : List (Nat × Int × Nat)
  normSat : List (Nat × Nat)
  dc : List (Nat × Int × Int)
  runs : Tab (List Cplx)
  badDac : List Nat
  stuckAdc : List Nat
  fullAdc : List Nat
  badRetest : List Nat
  deriving DecidableEq, Repr

/-- A command of the part: one constructor for each row of the table, with the operands the row has. -/
inductive Instr where
  /-- SYMBOL_TICK (R33): A symbol tick begins a new epoch and drives all per-symbol and slot-boundary work. -/
  | symbolTick (x : TickInput)
  /-- COMMIT_FAIL (R43): A commit still not ready at its last candidate within CommitDeferLimit is discarded. -/
  | commitFail
  /-- MODE_REQUEST (R25): A write of ModeRequest asks for a device-scope mode change, checked against Tables 1.5 and 1.6. -/
  | modeRequest (w : Caller) (v : Nat)
  /-- SAFE_HOLD_REQUEST (R29): A ModeRequest with code 0x07 enters Safe Hold at once, never pending. -/
  | safeHoldRequest (w : Caller)
  /-- ARRAY_MODE_REQUEST (R25): A write of ArrayModeRequest at the head asks for an array-scope mode change. -/
  | arrayModeRequest (w : Caller) (v : Nat)
  /-- PREPARATION_COMPLETE (R27): Preparation of a mode transition completes; a transition overdue at its target comes into force at the next tick. -/
  | preparationComplete
  /-- MODE_DONE (R27): At the target tick of a prepared transition the new mode comes into force and a pending request starts. -/
  | modeDone
  /-- NEXT_SAFE_STEP (R29): The step in progress of a preparation abandoned for Safe Hold completes and MODE_FAIL is raised. -/
  | nextSafeStep
  /-- WAKE (R24): Assertion of the WAKE input leaves Dormant and restarts the time base. -/
  | wake
  /-- DORMANT_CLOCK_CHECK (R364): After 1 ms of checking at a wake from Dormant the device completes the wake on the reference or on the ring oscillator. -/
  | dormantClockCheck (present : Bool)
  /-- DL_CUTOFF (R38): At the downlink cut-off the device checks that every scheduled section of the symbol is complete. -/
  | dlCutoff
  /-- UL_ACCUMULATION_DEADLINE (R309): At the accumulation deadline a device sends each own section whose southern partial has not arrived. -/
  | ulAccumulationDeadline
  /-- READY_REPORT (R314): A chained device sends TIME READY 550 us before an array commit's target. -/
  | readyReport
  /-- COMMIT_DECISION (R44): The head decides GO or DEFER for an array commit 500 us before its target. -/
  | commitDecision
  /-- NO_DECISION (R44): A chained device with no decision at the target tick withholds the commit and enters Safe Hold. -/
  | noDecision
  /-- SYNC_IN_PULSE (R49): A SYNC_IN pulse marks a frame or a second and advances or checks the frame count. -/
  | syncInPulse (width : Nat)
  /-- TIME_LOST (R50): With no reference for two consecutive frames the time base enters holdover. -/
  | timeLost
  /-- TIME_REALIGN (R51): A write of TimeRealign arms a step of the time base to the reference. -/
  | timeRealign (w : Caller) (v : Nat)
  /-- TIME_REALIGN_STEP (R51): At the next reference frame start the time base steps and passed-over commits apply in order. -/
  | timeRealignStep
  /-- READ (R62): A READ request returns the value governing the epoch, or a segment of a DOMAIN entry. -/
  | read (r : Request)
  /-- READ_STAGED (R63): A READ_STAGED request returns the value held in the open staging set. -/
  | readStaged (r : Request)
  /-- SNAPSHOT (R64): A SNAPSHOT request returns up to 64 values all from one epoch. -/
  | snapshot (r : Request)
  /-- WRITE (R58): A WRITE to an entry without behaviour of its own takes effect before the response, segment by segment for DOMAIN entries. -/
  | write (r : Request)
  /-- STAGE (R65): A STAGE request places a value in the open staging set. -/
  | stage (r : Request)
  /-- COMMIT (R66): A COMMIT request seals the open staging set for a target epoch after its checks. -/
  | commit (r : Request)
  /-- DISCARD (R66): A DISCARD request empties the open staging set. -/
  | discard (r : Request)
  /-- DOMAIN_TRANSFER_TIMEOUT (R68): A DOMAIN transfer idle for DomainTransferTimeout is abandoned. -/
  | domainTransferTimeout (index sub : Nat)
  /-- FORWARD_TIMEOUT (R75): No response from a forwarded position within ForwardTimeout aborts the request with POSITION. -/
  | forwardTimeout (tag : Nat)
  /-- REQUEST (R79): A service-port REQUEST transfer delivers one Catalogue request, or is discarded if short or unspaced. -/
  | request (bytes : List Byte)
  /-- RESPONSE (R80): A service-port RESPONSE transfer shifts out the oldest waiting response and removes it if fully clocked. -/
  | response (clocked : Nat)
  /-- STATUS (R79): A service-port STATUS transfer returns only the status byte. -/
  | status
  /-- SPI_FRAMING_ERROR (R79): A service-port transfer with an unknown command is ignored and counted. -/
  | spiFramingError
  /-- EVENT_ACK (R83): A write of EventAck removes the n oldest event records. -/
  | eventAck (w : Caller) (n : Nat)
  /-- EVENT_SEND (R83): With EventRoute 0x01 the oldest event record leaves in an EVENT packet and is removed. -/
  | eventSend
  /-- MASTER_PRESENCE_CLEAR (R73): A write of MasterPresenceClear clears the record of ports seen. -/
  | masterPresenceClear (w : Caller) (v : Nat)
  /-- DC_RANGE (R89): A fine offset estimate held at its limit for 1 s is reported. -/
  | dcRange (path code : Nat)
  /-- SYN_UNLOCK (R91): A synthesiser's lock detector reports loss; the course is muted and a relock starts. -/
  | synUnlock (course : Nat)
  /-- SYN_LOCK (R90): A synthesiser reaches lock with its divider aligned to the time base. -/
  | synLock (course : Nat)
  /-- RELOCK_ATTEMPT_FAIL (R91): A relock attempt without lock after 120 us fails, and a new attempt starts. -/
  | relockAttemptFail (course : Nat)
  /-- LO_BORROW_SWITCH (R92): At the next slot boundary a course without its synthesiser switches to its partner's LO and recalibrates phase. -/
  | loBorrowSwitch (course : Nat)
  /-- LO_BORROW (R92): At the following slot boundary the borrowing course applies its offsets and returns to service. -/
  | loBorrow (course : Nat) (offsets : List Int)
  /-- COURSE_TRANSITION_START (R96): A course transition starts at its scheduled instant before the edge it serves. -/
  | courseTransitionStart (course : Nat)
  /-- COURSE_TRANSITION_DONE (R95): A course transition completes and the course enters its new state. -/
  | courseTransitionDone (course : Nat)
  /-- OBSERVATION_STEP (R173): An observation step of a path falls due, takes the receiver lease and sets FBSEL. -/
  | observationStep (receiver : Nat) (selfCheck : Bool)
  /-- FORWARD_CAPTURE_DONE (R114): A forward capture completes and the power loop measures and updates K_p. -/
  | forwardCaptureDone (receiver : Nat) (pFbin d : Int) (oneCode : Bool) (samples : List Byte)
  /-- REFLECTED_CAPTURE_DONE (R116): A reflected capture completes; return loss is formed and the step releases its lease. -/
  | reflectedCaptureDone (receiver : Nat) (pRef d : Int)
  /-- LIN_UPDATE_READY (R179): A Lineariser solve completes and its corridor-limited tables are committed internally. -/
  | linUpdateReady (path : Nat) (nmse aclr : Int) (cands : List (Tab Cplx)) (coefs : List Byte)
  /-- LIN_RESUME (R180): A write of LinResume clears HOLD for a path or all. -/
  | linResume (w : Caller) (v : Nat)
  /-- FOLIO_SEAL (R136): A write of FolioSeal checks a slot's header and seals it or marks it failed. -/
  | folioSeal (w : Caller) (slot : Nat)
  /-- SOUNDING_WRITE_DONE (R148): The estimator finishes writing an entry and its STATE becomes valid. -/
  | soundingWriteDone
  /-- LIBRARY_VALIDATE (R150): A write of LibraryValidate checks a host-written entry and marks it valid or invalid. -/
  | libraryValidate (w : Caller) (entry : Nat)
  /-- LIBRARY_INVALIDATE (R150): A write of LibraryInvalidate marks an entry invalid. -/
  | libraryInvalidate (w : Caller) (entry : Nat)
  /-- WEIGHT_JOB_SUBMIT (R153): A write of WeightJobSubmit checks, queues and optionally commits a weight job. -/
  | weightJobSubmit (w : Caller) (record : List Byte)
  /-- WEIGHT_JOB_CANCEL (R162): A write of WeightJobCancel fails the named job with CANCELLED. -/
  | weightJobCancel (w : Caller) (job : Nat)
  /-- JOB_START (R155): A queued weight job starts on the masons after the one before it and writes its slot headers. -/
  | jobStart
  /-- JOB_DONE (R155): A weight job completes, seals its folios and releases pins and leases. -/
  | jobDone (micros : Nat)
  /-- GRAM_TIMEOUT (R162): A weight job missing Gram blocks after GramTimeout fails. -/
  | gramTimeout
  /-- CANCEL_SET_SEAL (R196): A write of CancelSetSeal checks and seals a canceller set slot. -/
  | cancelSetSeal (w : Caller) (slot : Nat)
  /-- CANCEL_SET_LOADED (R196): Loading of a selected canceller set into the Leakage Canceller completes. -/
  | cancelSetLoaded (slot : Nat)
  /-- CANCEL_TRAIN (R198): A write of CancelTrain checks a training record and takes the leases. -/
  | cancelTrain (w : Caller) (record : List Byte)
  /-- CANCEL_TRAIN_START (R199): At START training treats every symbol as FLEX and begins its first stage. -/
  | cancelTrainStart
  /-- CANCEL_TRAIN_STAGE_DONE (R199): A training stage is solved and the next stage, or sealing, follows. -/
  | cancelTrainStageDone (r : TrainResult)
  /-- CANCEL_TRACK_READY (R203): A canceller tracking solve completes and its update is committed internally. -/
  | cancelTrackReady (solves : List TrackSolve)
  /-- SPE_TX_SEND (R217): A write of SpeTxSend checks and schedules an SPE transmission. -/
  | speTxSend (w : Caller) (record : List Byte)
  /-- SPE_TX_CANCEL (R220): A write of SpeTxCancel drops or abandons the scheduled or running send. -/
  | speTxCancel (w : Caller) (v : Nat)
  /-- SPE_RX_RELEASE (R226): A write of SpeRxRelease frees a receive slot or all. -/
  | speRxRelease (w : Caller) (v : Nat)
  /-- SPE_TX_READY (R218): The SPE enters TX-READY 1 us before the ramp start, preempting any reception. -/
  | speTxReady
  /-- SPE_TX_START (R219): At the air time the SPE ramps up and sends, or mutes the packet if SYNP is unlocked. -/
  | speTxStart
  /-- SPE_TX_DONE (R220): A transmission completes, latches its timestamp and returns to the return state. -/
  | speTxDone
  /-- SPE_DIVERSITY_DWELL (R208): An armed receiver in diversity switches alternates after its dwell. -/
  | speDiversityDwell
  /-- SPE_DETECT (R221): The correlator detects a preamble, starting reception or updating the candidate. -/
  | speDetect (d : SpeDetect)
  /-- SPE_SYNC (R222): The sync word is found and the timestamp and signal strength are latched. -/
  | speSync (f : SpeSyncFound)
  /-- SPE_SYNC_WINDOW_EXPIRY (R229): A detection whose sync window ends without a sync word ends as false. -/
  | speSyncWindowExpiry
  /-- SPE_HEADER (R225): The header symbol is decoded and the packet continues or ends as false. -/
  | speHeader (word : Nat)
  /-- SPE_RX (R226): A received packet ends and its record is written to the ring. -/
  | speRx (payload : List Byte) (crc : Nat)
  /-- SPE_CFO_MOVE (R224): 1 us after an accepted packet SYNP moves toward the received carrier. -/
  | speCfoMove
  /-- SYNP_LOCK (R215): SYNP locks and the SPE moves from OFF through IDLE to its return state. -/
  | synpLock
  /-- TRIM_RECHECK (R231): A write of TrimRecheck recomputes the trim shadow CRC. -/
  | trimRecheck (w : Caller) (v : Nat)
  /-- CAL_RUN (R239): A write of CalRun checks a calibration run record and takes its leases. -/
  | calRun (w : Caller) (record : List Byte)
  /-- CAL_RUN_CANCEL (R240): A write of CalRunCancel fails the run under way. -/
  | calRunCancel (w : Caller) (v : Nat)
  /-- CAL_RUN_START (R240): At START the run begins measuring. -/
  | calRunStart
  /-- CAL_MEASUREMENT_DONE (R241): A measurement of a kind on a path completes and is judged for acceptance. -/
  | calMeasurementDone (m : CalMeasure)
  /-- CAL_RUN_COMPLETE (R247): A run completes, places its results and commits them internally. -/
  | calRunComplete (peers : CalPeers)
  /-- CAL_ROLL_STEP (R249): Every CalRollInterval slots a rolling calibration step claims its next path. -/
  | calRollStep
  /-- CAL_STORE_SAVE (R251): A write of CalStoreSave snapshots values and writes a record to the older bank. -/
  | calStoreSave (w : Caller) (contents : Nat)
  /-- CAL_STORE_DONE (R251): A save's read-back digest verifies and the save completes. -/
  | calStoreDone (verified : Bool)
  /-- CAL_STORE_TIMEOUT (R251): A save not complete within CalStoreTimeout fails. -/
  | calStoreTimeout
  /-- LDV (R258): Loads a vector from the shelf with linear post-modification. -/
  | ldv (o : MasonIssue) (f : LFormat)
  /-- LDVC (R258): Loads a vector with circular post-modification. -/
  | ldvc (o : MasonIssue) (f : LFormat)
  /-- LDB (R258): Broadcasts a complex word to every lane, linear update. -/
  | ldb (o : MasonIssue) (f : LFormat)
  /-- LDBC (R258): Broadcasts a complex word to every lane, circular update. -/
  | ldbc (o : MasonIssue) (f : LFormat)
  /-- STV (R258): Stores a vector to the shelf, linear update. -/
  | stv (o : MasonIssue) (f : LFormat)
  /-- STVC (R258): Stores a vector to the shelf, circular update. -/
  | stvc (o : MasonIssue) (f : LFormat)
  /-- STA (R263): Stores a scaled move of an accumulator, linear update. -/
  | sta (o : MasonIssue) (f : LFormat)
  /-- STAC (R263): Stores a scaled move of an accumulator, circular update. -/
  | stac (o : MasonIssue) (f : LFormat)
  /-- LDW (R258): Loads a sign-extended word into a pointer register. -/
  | ldw (o : MasonIssue) (f : LFormat)
  /-- STW (R258): Stores the low word of a pointer register. -/
  | stw (o : MasonIssue) (f : LFormat)
  /-- LDAR (R258): Loads an accumulator raw from 80 shelf bytes. -/
  | ldar (o : MasonIssue) (f : LFormat)
  /-- STAR (R258): Stores an accumulator raw to 80 shelf bytes. -/
  | star (o : MasonIssue) (f : LFormat)
  /-- CMAC (R261): Multiply-accumulates complex lanes into an accumulator. -/
  | cmac (o : MasonIssue) (f : MFormat)
  /-- CMACJ (R261): Multiply-accumulates the conjugate of one operand. -/
  | cmacj (o : MasonIssue) (f : MFormat)
  /-- CMUL (R261): Sets an accumulator to the complex lane products. -/
  | cmul (o : MasonIssue) (f : MFormat)
  /-- CMULJ (R261): Sets an accumulator to conjugate lane products. -/
  | cmulj (o : MasonIssue) (f : MFormat)
  /-- CMSUB (R261): Subtracts complex lane products from an accumulator. -/
  | cmsub (o : MasonIssue) (f : MFormat)
  /-- TAPM (R260): Multiply-accumulates and shifts the delay-line register pair. -/
  | tapm (o : MasonIssue) (f : MFormat)
  /-- CLRA (R261): Clears an accumulator. -/
  | clra (o : MasonIssue) (f : MFormat)
  /-- ADDA (R261): Adds one accumulator into another. -/
  | adda (o : MasonIssue) (f : MFormat)
  /-- VMOVA (R263): Moves an accumulator to a vector with scaling, saturation and headroom tracking. -/
  | vmova (o : MasonIssue) (f : AFormat)
  /-- VADD (R261): Adds vectors lane-wise with saturation. -/
  | vadd (o : MasonIssue) (f : AFormat)
  /-- VSUB (R261): Subtracts vectors lane-wise with saturation. -/
  | vsub (o : MasonIssue) (f : AFormat)
  /-- VCONJ (R261): Conjugates a vector lane-wise. -/
  | vconj (o : MasonIssue) (f : AFormat)
  /-- VSHR (R261): Shifts each part right arithmetically. -/
  | vshr (o : MasonIssue) (f : AFormat)
  /-- VBCAST (R259): Broadcasts one lane to every lane. -/
  | vbcast (o : MasonIssue) (f : AFormat)
  /-- VRECIP (R262): Computes a lane-wise reciprocal with exponent. -/
  | vrecip (o : MasonIssue) (f : AFormat)
  /-- VRSQRT (R262): Computes a lane-wise reciprocal square root with exponent. -/
  | vrsqrt (o : MasonIssue) (f : AFormat)
  /-- VEXT (R259): Extracts one part of one lane into a pointer register. -/
  | vext (o : MasonIssue) (f : AFormat)
  /-- MOVI (R259): Loads a sign-extended immediate into a pointer register. -/
  | movi (o : MasonIssue) (f : CFormat)
  /-- MOVH (R259): Sets the high bits of a pointer register. -/
  | movh (o : MasonIssue) (f : CFormat)
  /-- ADDI (R259): Adds an immediate to a pointer register. -/
  | addi (o : MasonIssue) (f : CFormat)
  /-- ADDP (R259): Adds two pointer registers. -/
  | addp (o : MasonIssue) (f : CFormat)
  /-- SUBP (R259): Subtracts two pointer registers. -/
  | subp (o : MasonIssue) (f : CFormat)
  /-- SHLI (R259): Shifts a pointer register left. -/
  | shli (o : MasonIssue) (f : CFormat)
  /-- SHRAI (R259): Shifts a pointer register right arithmetically. -/
  | shrai (o : MasonIssue) (f : CFormat)
  /-- MOVS (R257): Writes a system register from a pointer register. -/
  | movs (o : MasonIssue) (f : CFormat)
  /-- MOVG (R257): Reads a system register into a pointer register. -/
  | movg (o : MasonIssue) (f : CFormat)
  /-- LOOP (R266): Sets up a hardware loop with a register count. -/
  | loop (o : MasonIssue) (f : CFormat)
  /-- LOOPI (R266): Sets up a hardware loop with an immediate count. -/
  | loopi (o : MasonIssue) (f : CFormat)
  /-- BR (R265): Branches on a condition after two delay bundles. -/
  | br (o : MasonIssue) (f : CFormat)
  /-- CALL (R265): Calls with the return address in P15 after two delay bundles. -/
  | call (o : MasonIssue) (f : CFormat)
  /-- RET (R265): Returns to the address in P15. -/
  | ret (o : MasonIssue)
  /-- RTI (R267): Returns from an interrupt and restores IE. -/
  | rti (o : MasonIssue)
  /-- XGET (R268): Queues a Mortar read into the shelf. -/
  | xget (o : MasonIssue) (f : CFormat)
  /-- XPUT (R268): Queues a Mortar write from the shelf. -/
  | xput (o : MasonIssue) (f : CFormat)
  /-- XWAIT (R268): Stalls until few enough transfers are outstanding. -/
  | xwait (o : MasonIssue) (f : CFormat)
  /-- LEASE (R275): Takes or renews the lease of a resource for the task's job. -/
  | lease (o : MasonIssue) (f : CFormat)
  /-- UNLEASE (R275): Releases the lease of a resource. -/
  | unlease (o : MasonIssue) (f : CFormat)
  /-- DONE (R270): Ends the task with a status. -/
  | done (o : MasonIssue) (f : CFormat)
  /-- INTERRUPT_ENTRY (R267): A pending enabled interrupt is taken at a bundle boundary. -/
  | interruptEntry (core : Nat)
  /-- XFER_COMPLETE (R268): A transfer's last Mortar response arrives and sets PXDONE. -/
  | xferComplete (core place : Nat) (error : Bool)
  /-- TIMER_COMPARE (R267): CYCLE reaches TCMP and sets PTIMER. -/
  | timerCompare (core : Nat)
  /-- WATCHDOG_OVERRUN (R272): A task passing its cycle budget is stopped and re-run on a spare. -/
  | watchdogOverrun (core : Nat)
  /-- MASON_RESTORE (R273): A write of MasonRestore block-resets a retired core and starts its self-test. -/
  | masonRestore (w : Caller) (core : Nat)
  /-- MASON_SELFTEST_DONE (R273): A restored core's self-test ends and it rejoins or stays retired. -/
  | masonSelftestDone (core : Nat) (pass : Bool)
  /-- MASON_KERNEL_LOAD (R276): A segmented write of MasonKernelLoad checks, verifies and stores a kernel image. -/
  | masonKernelLoad (r : Request)
  /-- MASON_KERNEL_UNLOAD (R276): A write of MasonKernelUnload empties a user kernel slot. -/
  | masonKernelUnload (w : Caller) (slot : Nat)
  /-- MASON_JOB_SUBMIT (R277): A write of MasonJobSubmit checks and schedules a user job. -/
  | masonJobSubmit (w : Caller) (record : List Byte)
  /-- MASON_JOB_CANCEL (R277): A write of MasonJobCancel cancels a user job at its next epoch. -/
  | masonJobCancel (w : Caller) (job : Nat)
  /-- LEASE_EXPIRY (R275): A lease's duration passes without renewal and the resource is restored. -/
  | leaseExpiry (resource : Nat)
  /-- DETECT_PULSE (R291): Every 100 us in DETECT a port sends receiver-detect pulses and moves to TRAIN if terminations are found. -/
  | detectPulse (port found : Nat)
  /-- TRAIN_DONE (R292): A port in TRAIN with pattern sent and phases set moves to LOCK. -/
  | trainDone (port : Nat) (phases : Bool)
  /-- PORT_STATE_TIMEOUT (R291): A bring-up state that times out returns the port to DETECT. -/
  | portStateTimeout (port : Nat)
  /-- FAILED_TIMEOUT (R291): 10 ms after entering FAILED the port returns to DETECT. -/
  | failedTimeout (port : Nat)
  /-- LOCK (R292): A LOCK control message is received during lock. -/
  | lock (port : Nat) (ready : Bool) (own : Nat) (skews : List Nat)
  /-- CAPS (R292): A CAPS control message is received and judged under Table 12.6. -/
  | caps (port : Nat) (message : List Byte)
  /-- CHAIN (R294): A CHAIN message is received and the device count is passed north. -/
  | chain (port devices : Nat)
  /-- BOND (R288): A bond is received and its bricks judged, used, rebuilt or lost. -/
  | bond (port : Nat) (lanes : List LaneBits)
  /-- LANE_REJOIN (R289): After 4,096 good bricks a failed lane returns at the next FRAME bond. -/
  | laneRejoin (port lane : Nat)
  /-- ALIGN_FORCE (R287): After 256 data bonds without ALIGN the transmitter fills to force an aligned bond. -/
  | alignForce (port : Nat)
  /-- CLOCK_LOSS (R295): No clock-lane edge for 64 UI takes the port down. -/
  | clockLoss (port : Nat)
  /-- LINK_RETRAIN (R295): A write of LinkRetrain takes the port down and retrains it. -/
  | linkRetrain (w : Caller) (port v : Nat)
  /-- LINK_ENABLE (R295): A write of LinkEnable brings the port up or takes it to OFF. -/
  | linkEnable (w : Caller) (port v : Nat)
  /-- LAYER_DL (R308): A LAYER_DL packet is received, its sections matched and it is forwarded south. -/
  | layerDl (h : PacketHead) (payload : List Byte)
  /-- LAYER_UL (R309): A LAYER_UL partial from the south is matched and added to the own section. -/
  | layerUl (h : PacketHead) (payload : List Byte)
  /-- PRACH (R309): A PRACH partial from the south is matched and added. -/
  | prach (h : PacketHead) (payload : List Byte)
  /-- GRAM (R311): A GRAM packet's blocks are summed with own partials or kept as the total and forwarded. -/
  | gram (h : PacketHead) (payload : List Byte)
  /-- CAT_REQ (R75): A CAT_REQ packet is performed or forwarded toward its position. -/
  | catReq (h : PacketHead) (payload : List Byte)
  /-- CAT_RSP (R75): A CAT_RSP packet from the south is forwarded north. -/
  | catRsp (h : PacketHead) (payload : List Byte)
  /-- EVENT (R83): An EVENT packet from the south is forwarded north. -/
  | event (h : PacketHead) (payload : List Byte)
  /-- FRAME (R312): A TIME FRAME marker gives the reference frame start and is forwarded south. -/
  | frame (h : PacketHead) (holdover : Bool) (offset : Nat)
  /-- ECHO_REQ (R313): A received ECHO_REQ is answered with ECHO_RSP. -/
  | echoReq (h : PacketHead) (id : Nat)
  /-- ECHO_RSP (R313): A received ECHO_RSP yields a link delay measurement. -/
  | echoRsp (h : PacketHead) (id turn : Nat)
  /-- READY (R314): The head takes a TIME READY report from a chained device. -/
  | ready (h : PacketHead) (ready : Bool)
  /-- DECISION (R314): A TIME DECISION is forwarded south and applied as GO or DEFER. -/
  | decision (h : PacketHead) (go : Bool) (epoch : Nat)
  /-- MEM_READ (R316): A MEM READ request reads Mortar and is answered in one or more parts. -/
  | memRead (h : PacketHead) (a : MemAccess)
  /-- MEM_WRITE (R316): A MEM WRITE request writes Mortar and is answered once. -/
  | memWrite (h : PacketHead) (a : MemAccess) (data : List Byte)
  /-- MEM_RESPONSE (R299): A MEM response from the south is forwarded north. -/
  | memResponse (h : PacketHead) (payload : List Byte)
  /-- CAPTURE (R299): A CAPTURE packet from the south is forwarded north. -/
  | capture (h : PacketHead) (payload : List Byte)
  /-- TYPE_DROP (R299): A packet of reserved TYPE is skipped and counted. -/
  | typeDrop (h : PacketHead) (typ : Nat) (payload : List Byte)
  /-- RETURN (R302): A CREDIT RETURN adds units to the sender's credit. -/
  | credits (h : PacketHead) (u : CreditUnits)
  /-- RESYNC_REQ (R303): A RESYNC_REQ makes the port finish its packet, stop credited traffic and send RESYNC_ACK. -/
  | resyncReq (h : PacketHead)
  /-- RESYNC_ACK (R303): A RESYNC_ACK makes the receiver send RESYNC_DONE with its free space. -/
  | resyncAck (h : PacketHead)
  /-- RESYNC_DONE (R303): A RESYNC_DONE replaces the sender's credits and credited traffic resumes. -/
  | resyncDone (h : PacketHead) (u : CreditUnits)
  /-- RESYNC_RETRY (R303): No RESYNC_ACK 10 us after a request repeats the request. -/
  | resyncRetry (port : Nat)
  /-- CREDIT_RETURN_SEND (R302): A receiver with units to return sends a CREDIT RETURN within 1 us. -/
  | creditReturnSend (port : Nat)
  /-- ECHO_INTERVAL (R313): Every EchoInterval ms the device sends ECHO_REQ out of PORT-N. -/
  | echoInterval
  /-- FRAME_MARKER_SEND (R312): 200 us before each frame a device sends a FRAME marker out of PORT-S. -/
  | frameMarkerSend
  /-- PACKET_SEND (R304): The transmitter starts the ready packet of highest precedence that has credit. -/
  | packetSend (port : Nat)
  /-- CAPTURE_SEND (R319): A filled CAPTURE chunk is sent, or replaced by a MEM error packet if poisoned. -/
  | captureSend (port : Nat)
  /-- MORTAR_TIMEOUT (R14): A target silent for 1,024 cycles completes the access with an error response. -/
  | mortarTimeout (a : MortarAccess)
  /-- SLOW_PATH_DONE (R326): A page-code decode ends, correcting the page or poisoning its bad words. -/
  | slowPathDone (page : Nat)
  /-- SCRUB_PAGE (R335): The scrubber reads its next page at its paced interval. -/
  | scrubPage
  /-- ECC_LOG_CLEAR (R332): A write of EccLogClear empties the ECC log. -/
  | eccLogClear (w : Caller) (v : Nat)
  /-- PARTITION_COPY_DONE (R324): The copy of moved images and calibration partitions completes. -/
  | partitionCopyDone
  /-- DMA_START (R338): A write of DmaStart checks a start record, takes the channel lease and fetches the head. -/
  | dmaStart (w : Caller) (record : List Byte)
  /-- DMA_ABORT (R350): A write of DmaAbort stops the channel at its next burst boundary. -/
  | dmaAbort (w : Caller) (channel v : Nat)
  /-- DESCRIPTOR_FETCH (R340): A descriptor fetch completes and is checked, or the channel halts. -/
  | descriptorFetch (channel : Nat) (error : Bool)
  /-- DMA_BURST (R345): The engine arbitrates and issues one burst of a channel. -/
  | dmaBurst
  /-- DMA_WRITE_RESPONSE (R347): A write response frees its table entry and handles an error early or late. -/
  | dmaWriteResponse (channel place : Nat)
  /-- APPEND_POLL (R343): A waiting channel re-reads the NEXT word and continues if the chain was extended. -/
  | appendPoll (channel : Nat)
  /-- DOMAIN_READY (R352): A waking domain reports power-good and oscillator-ready and stalled accesses proceed. -/
  | domainReady (domain : Nat) (good osc init : Bool)
  /-- DOMAIN_WAKE_TIMEOUT (R363): A wake without ready signals within DomainWakeTimeout fails. -/
  | domainWakeTimeout (domain : Nat)
  /-- ARCH_INIT_LIMIT (R363): ARCH initialisation not complete 10 ms after power-good fails the wake. -/
  | archInitLimit
  /-- DOMAIN_IDLE_OFF (R362): A demand domain idle for DomainIdleOff switches off. -/
  | domainIdleOff (domain : Nat)
  /-- GOV_PLANNED_WAKE (R358): The Governor starts a planned wake ahead of the next transition. -/
  | govPlannedWake (course : Nat)
  /-- GOV_DORMANT_REQUEST (R361): After GovDormantIdle with no request the Governor requests Dormant. -/
  | govDormantRequest
  /-- GOV_WAKE_NOW (R366): A write of GovWakeNow wakes all courses and the device. -/
  | govWakeNow (w : Caller) (v : Nat)
  /-- REFCLK_LOSS (R365): A reference clock silent for 1 us mutes radio, drops links and forces Standby on the ring oscillator. -/
  | refclkLoss
  /-- CLOCK_RETURN (R364): A reference present for 10 ms is taken back at the next 10 ms boundary. -/
  | clockReturn
  /-- POWER_HOLD (R368): A PowerRequest 0x03 holds a course at depth 3. -/
  | powerHold (w : Caller) (course : Nat)
  /-- POWER_RELEASE (R368): A PowerRequest 0x00 releases a course to the Governor. -/
  | powerRelease (w : Caller) (course : Nat)
  /-- POWER_ON (R374): VDD_SRV below its power-on threshold asserts cold reset. -/
  | powerOn
  /-- BROWN_OUT (R374): A rail below its brown-out threshold for 1 us asserts cold reset. -/
  | brownOut
  /-- RST_N_LOW (R374): RST_N low for 1 us asserts warm reset. -/
  | rstNLow
  /-- RST_N_HIGH (R374): The rising edge of RST_N releases its warm source. -/
  | rstNHigh (straps : Nat)
  /-- KEYSTONE_WATCHDOG (R374): Keystone not restarting its watchdog within WatchdogPeriod asserts warm reset. -/
  | keystoneWatchdog
  /-- CRITICAL_PARITY (R374): A parity error in critical state asserts warm reset. -/
  | criticalParity
  /-- RESET_SOURCE_RELEASE (R375): A reset source releases after its time and blocks leave reset when no source holds them. -/
  | resetSourceRelease (bit straps : Nat)
  /-- RESET_REQUEST_COLD (R381): A ResetRequest 0x5A01 responds and then asserts cold reset. -/
  | resetRequestCold (w : Caller)
  /-- RESET_REQUEST_WARM (R381): A ResetRequest 0x5A02 responds and then asserts warm reset. -/
  | resetRequestWarm (w : Caller)
  /-- LINK_COMMAND_ASSERT (R381): 100 us after the response is queued the requested reset source is asserted. -/
  | linkCommandAssert
  /-- RESET_CAUSE_CLEAR (R377): A write of ResetCauseClear clears the reset-cause record. -/
  | resetCauseClear (w : Caller) (v : Nat)
  /-- DOMAIN_RESET (R382): A write of DomainReset holds one domain in reset. -/
  | domainReset (w : Caller) (domain : Nat)
  /-- DOMAIN_RESET_DONE (R382): The reset domain is reloaded and service resumes at the next slot. -/
  | domainResetDone (domain : Nat)
  /-- BOOT_IMAGE_READ_DONE (R386): A boot image read completes and is verified, accepted or rejected. -/
  | bootImageReadDone
  /-- BOOT_READ_TIMEOUT (R387): A flash image read not complete in 500 ms fails. -/
  | bootReadTimeout
  /-- BOOT_IMAGE_LOAD (R387): A segmented write of BootImageLoad delivers a downloaded image for checking. -/
  | bootImageLoad (r : Request)
  /-- KEY_REVOKE (R390): A write of KeyRevoke checks a signed revocation record. -/
  | keyRevoke (w : Caller) (record : List Byte)
  /-- KEY_REVOKED (R390): The revocation fuse is blown and the slot refused thereafter. -/
  | keyRevoked
  /-- ATTEST_REQUEST (R392): A write of AttestRequest starts building a signed attestation report. -/
  | attestRequest (w : Caller) (nonce : List Byte)
  /-- ATTEST_DONE (R392): The signed attestation report becomes readable. -/
  | attestDone
  /-- IDENTITY_SIGN (R392): A write of IdentitySign starts signing a host digest. -/
  | identitySign (w : Caller) (digest : List Byte)
  /-- SIGN_DONE (R392): The host signature becomes readable. -/
  | signDone
  /-- TEST_LOGIC_RESET (R394): Test-logic reset selects IDCODE. -/
  | testLogicReset (straps : Nat)
  /-- IDCODE (R394): The IDCODE instruction selects the identification register. -/
  | idcode (straps : Nat)
  /-- SAMPLE_PRELOAD (R394): SAMPLE/PRELOAD selects the boundary-scan register. -/
  | samplePreload (cells : List Bool) (straps : Nat)
  /-- EXTEST (R394): EXTEST drives scanned balls and holds the device in warm reset. -/
  | extest
  /-- EXTEST_PULSE (R394): EXTEST_PULSE pulses the AC lanes under IEEE 1149.6. -/
  | extestPulse
  /-- EXTEST_TRAIN (R394): EXTEST_TRAIN sends pulse trains on the AC lanes. -/
  | extestTrain
  /-- CLAMP (R394): CLAMP holds outputs from the boundary-scan register with bypass selected. -/
  | clamp
  /-- HIGHZ (R394): HIGHZ places every scanned output at high impedance. -/
  | highz
  /-- BYPASS (R394): BYPASS selects the 1-bit bypass register. -/
  | bypass (straps : Nat)
  /-- HK_FRAME (R397): Each 1 ms housekeeping frame converts die sensors, a remote input and other channels. -/
  | hkFrame (f : HkFrame)
  /-- HK_CHECK (R399): Both converters convert the check channel and their agreement is judged. -/
  | hkCheck (k : HkCheck)
  /-- HK_TRUST_HKA (R399): HkTrust 0x00 makes HKA carry every channel. -/
  | hkTrustHka (w : Caller)
  /-- HK_TRUST_HKB (R399): HkTrust 0x01 makes HKB carry every channel. -/
  | hkTrustHkb (w : Caller)
  /-- HK_TRUST_BOTH (R399): HkTrust 0x02 returns both converters to their own lists. -/
  | hkTrustBoth (w : Caller)
  /-- BLOAD_N (R403): A falling edge of BLOAD_N strobes every group in BLOAD_N mode. -/
  | bloadN
  /-- BCLR_N_FALL (R405): BCLR_N falling drives every bias output to its clear code. -/
  | bclrNFall
  /-- BCLR_N_RISE (R405): BCLR_N rising ends its clear condition without a strobe. -/
  | bclrNRise
  /-- BIAS_SHORT (R407): A current limit acting for 10 us sets SHORT on the channel. -/
  | biasShort (channel : Nat)
  /-- BIAS_SHORT_CLEAR (R407): Current below the limit for 1 ms clears SHORT. -/
  | biasShortClear (channel : Nat)
  /-- THROTTLE_GRACE (R413): At the end of the grace time enforcement starts if the sensor is still above THROTTLE. -/
  | throttleGrace (sensor : Nat)
  /-- THROTTLE_STEP (R413): Every 100 ms the tile's throttle reduction steps up or down. -/
  | throttleStep (sensor : Nat)
  /-- TILE_MUTE (R413): A tile at its floor for ThrottleMuteDelay enters hold-off. -/
  | tileMute (tile : Nat)
  /-- SHUTDOWN_DEADLINE (R415): An orderly shutdown acts at once when 50 ms pass or SHUTDOWN + 5 C is reached. -/
  | shutdownDeadline
  /-- SHUTDOWN_BIAS_CLEAR (R415): 5 us after hold-off the bias outputs clear and Safe Hold is entered. -/
  | shutdownBiasClear
  /-- DRIVER_OVERCURRENT (R418): A driver overcurrent makes the path faulty from the next tick. -/
  | driverOvercurrent (path : Nat)
  /-- PATH_FAULT_CLEAR (R423): A write of PathFaultClear retests a path at the next slot boundary. -/
  | pathFaultClear (w : Caller) (v : Nat)
  /-- LEASE_REVOKE (R425): A write of LeaseRevoke ends a lease and restores its resource. -/
  | leaseRevoke (w : Caller) (resource : Nat)
  /-- FAULT_LOG_CLEAR (R424): A write of FaultLogClear empties the fault log. -/
  | faultLogClear (w : Caller) (v : Nat)
  /-- SHADOW_UNCORRECTABLE (R231): An uncorrectable word read from the trim or fuse shadow asserts reset source 2, a cold reset. -/
  | shadowUncorrectable
  /-- CORE_PARITY_ERROR (R272): A parity error in a mason core's registers or pipeline stops its task and re-runs it on a spare. -/
  | coreParityError (core : Nat)
  /-- SCRAMBLER_FRAME_START (R292): A port's own next bond with FRAME set is reached; in CAPS with both ACKs exchanged it sends its first data bond and enters ACTIVE. -/
  | scramblerFrameStart (port : Nat)
  /-- DOMAIN_SWITCH_OFF_DONE (R352): A domain in switching off (0x03) completes its switch-off and is shown off. -/
  | domainSwitchOffDone (domain : Nat)
  deriving DecidableEq, Repr

end Sys2Proof
end

