-- ==== Sys2Proof/Decode.lean ====
section
/-! DEFINITION. The command that a word of the table spells. The table of this part gives its rows no bits: no word spells a command. -/
namespace Sys2Proof

/-- The command spelt by a word of `nbits` bits: none, as no row of the table has an encoding. -/
def decodeTableWord (_nbits _w : Nat) : Option Instr := none

end Sys2Proof
end

