-- ==== Sys2Proof/Config.lean ====
section
/-! DEFINITION. What one implementation fixes and the values the spec leaves open, as constants without a body: nothing can
be proved of their values, so a statement holds whatever they are. -/
namespace Sys2Proof

/-- A word read from a link receive buffer: the spec gives the buffers' size and place and not the layout of packets in
them (R318). Applied to the counter of free values and the address. Log entry 8. -/
opaque Config.receiveBufferByte : Nat → Nat → BitVec 8

/-- A destination byte of a DMA copy, split or merge whose ranges overlap: undefined (R341). Applied to the counter of free
values and the byte's place. Log entry 10. -/
opaque Config.overlapByte : Nat → Nat → BitVec 8

/-- SM3, the hash of GB/T 32905, over a byte string: 32 bytes (R385). The spec names it and does not define it. Log entry 9. -/
opaque Config.sm3 : List (BitVec 8) → List (BitVec 8)

/-- SM2 verification of a 64-byte signature over a message under a 64-byte public key (R385). Log entry 9. -/
opaque Config.sm2Verify : List (BitVec 8) → List (BitVec 8) → List (BitVec 8) → Bool

/-- An SM2 signature made with the fused identity key, over a message; the counter stands for the signature's nonce
(R391, R392). Log entry 9. -/
opaque Config.sm2Sign : Nat → List (BitVec 8) → List (BitVec 8)

/-- What another device of the array answers to the head where the head gathers its checks: 0 accepts, another value is the abort
code it refuses with. Applied to the counter of free values and the device's position. Log entry 11. -/
opaque Config.peerAnswer : Nat → Nat → Nat

/-- Does the factorisation of a weight group meet a pivot that is not positive (R159)? The firmware's arithmetic is not given
bit for bit: a function of the kernel version, the algorithm, the layers, SIGMA2, and the total block's exponent and
mantissas. Log entry 12. -/
opaque Config.pivotFails : Nat → Nat → Nat → Nat → List Int → Bool

/-- Is the norm n_l of a layer zero, for the algorithms that solve (Table 6.5)? Of the same figures and the layer. Log entry 12. -/
opaque Config.normZero : Nat → Nat → Nat → Nat → List Int → Nat → Bool

/-- One part of a solved weight before saturation (R160), of the same total and the device's own mean channel, corrections and
gain, then the direction, the layer, the path and which part. Log entry 12. -/
opaque Config.solvedPart : List Nat → List Int → List Int → List Int → List Nat → Int

/-- A figure the spec asks for and does not define on the operands met, such as a mean over no path. Applied to the counter of
free values and a number that names the figure. Log entry 13. -/
opaque Config.freeFigure : Nat → Nat → Int

/-- The half-band filter that decimates a reference for the cancel DACs (R192): the spec does not give its taps. Of one part of the
reference's run, and the place at 491.52 MS/s. Log entry 14. -/
opaque Config.halfBand : List Int → Int → Int

/-- A reference shifted to a subband's centre and decimated (R193): the spec does not give the filters. Of the run's parts in order I,
Q, the subband, the place, and which part. Log entry 14. -/
opaque Config.subbandRef : List Int → Nat → Int → Nat → Int

end Sys2Proof
end

