-- ==== Sys2Proof/Machine/Entries.lean ====
section
/-! DEFINITION. The Catalogue's entries as the tables of the spec list them (Tables 1.7, 2.6, 3.12 and the entry
tables of the other chapters): index, subindices, type, access class, default and the range the Meaning column states.
Defaults follow R9; an entry whose default the spec takes from the fuses, the board profile or the boot image has here
the value log entry 3 names, and the release sequence writes the fused value over it. -/
namespace Sys2Proof.Machine

/-- The types of Table 3.2 (R55). -/
inductive EntryType where
  | bool | u8 | u16 | u32 | u64 | i16 | i32 | q15 | cplx16 | float32 | epoch | domain
  deriving DecidableEq, Repr

/-- The access classes of Table 3.3 (R57). -/
inductive Access where
  | ro | rw | rwe | wo | cmd
  deriving DecidableEq, Repr

/-- The range an entry's Meaning column states for one value. -/
inductive ValueRange where
  | any
  | between (lo hi : Int)
  | oneOf (codes : List Nat)
  | zeroOr (lo hi : Nat)
  deriving DecidableEq, Repr

/-- One row of an entry table: subindices `lo` to `hi` of `index`. -/
structure Entry where
  index : Nat
  lo : Nat
  hi : Nat
  type : EntryType
  access : Access
  dflt : List Nat
  range : ValueRange
  keep : Nat
  deriving DecidableEq, Repr

/-! The indices by the names the spec gives them. -/
/-- `ModeCurrent` (1100). -/
abbrev Ix.ModeCurrent : Nat := 0x1100
/-- `ModeTargetEpoch` (1101). -/
abbrev Ix.ModeTargetEpoch : Nat := 0x1101
/-- `ModeRequest` (1102). -/
abbrev Ix.ModeRequest : Nat := 0x1102
/-- `ArrayModeRequest` (1103). -/
abbrev Ix.ArrayModeRequest : Nat := 0x1103
/-- `ModeUnderWay` (1104). -/
abbrev Ix.ModeUnderWay : Nat := 0x1104
/-- `ModeUnderWayEpoch` (1104:02). -/
abbrev Ix.ModeUnderWayEpoch : Nat := 0x1104
/-- `ModePending` (1104:03). -/
abbrev Ix.ModePending : Nat := 0x1104
/-- `ModePendingEpoch` (1104:04). -/
abbrev Ix.ModePendingEpoch : Nat := 0x1104
/-- `ModeLastChange` (1105). -/
abbrev Ix.ModeLastChange : Nat := 0x1105
/-- `ModeAfterBoot` (1107). -/
abbrev Ix.ModeAfterBoot : Nat := 0x1107
/-- `LayerDiscards` (1108). -/
abbrev Ix.LayerDiscards : Nat := 0x1108
/-- `ObserveReplayBase` (1110). -/
abbrev Ix.ObserveReplayBase : Nat := 0x1110
/-- `ObserveReplaySymbols` (1111). -/
abbrev Ix.ObserveReplaySymbols : Nat := 0x1111
/-- `ObserveCaptureBase` (1112). -/
abbrev Ix.ObserveCaptureBase : Nat := 0x1112
/-- `ObserveReplayBytes` (1113). -/
abbrev Ix.ObserveReplayBytes : Nat := 0x1113
/-- `EpochCurrent` (1200). -/
abbrev Ix.EpochCurrent : Nat := 0x1200
/-- `Numerology` (1201). -/
abbrev Ix.Numerology : Nat := 0x1201
/-- `TimeSource` (1203). -/
abbrev Ix.TimeSource : Nat := 0x1203
/-- `TimeLockState` (1204). -/
abbrev Ix.TimeLockState : Nat := 0x1204
/-- `TimePhaseError` (1205). -/
abbrev Ix.TimePhaseError : Nat := 0x1205
/-- `TimeRefOffset` (1206). -/
abbrev Ix.TimeRefOffset : Nat := 0x1206
/-- `SyncOutMode` (1207). -/
abbrev Ix.SyncOutMode : Nat := 0x1207
/-- `SyncInFrameAtPps` (1208). -/
abbrev Ix.SyncInFrameAtPps : Nat := 0x1208
/-- `TimeRealign` (1209). -/
abbrev Ix.TimeRealign : Nat := 0x1209
/-- `DlUnderruns` (1210). -/
abbrev Ix.DlUnderruns : Nat := 0x1210
/-- `DlLateSections` (1211). -/
abbrev Ix.DlLateSections : Nat := 0x1211
/-- `CommitMissedCount` (1212). -/
abbrev Ix.CommitMissedCount : Nat := 0x1212
/-- `CommitDeferLimit` (1213). -/
abbrev Ix.CommitDeferLimit : Nat := 0x1213
/-- `PendingCommitEpoch` (1214). -/
abbrev Ix.PendingCommitEpoch : Nat := 0x1214
/-- `LastCommitEpoch` (1215). -/
abbrev Ix.LastCommitEpoch : Nat := 0x1215
/-- `PendingCommitCount` (1216). -/
abbrev Ix.PendingCommitCount : Nat := 0x1216
/-- `CatRequestCount` (1400). -/
abbrev Ix.CatRequestCount : Nat := 0x1400
/-- `AbortLastCode` (1401). -/
abbrev Ix.AbortLastCode : Nat := 0x1401
/-- `AbortLastTag` (1401:02). -/
abbrev Ix.AbortLastTag : Nat := 0x1401
/-- `AbortLastIndex` (1401:03). -/
abbrev Ix.AbortLastIndex : Nat := 0x1401
/-- `AbortLastSub` (1401:04). -/
abbrev Ix.AbortLastSub : Nat := 0x1401
/-- `AbortLastDetail` (1401:05). -/
abbrev Ix.AbortLastDetail : Nat := 0x1401
/-- `AbortLastEpoch` (1401:06). -/
abbrev Ix.AbortLastEpoch : Nat := 0x1401
/-- `AbortLastPort` (1401:07). -/
abbrev Ix.AbortLastPort : Nat := 0x1401
/-- `AbortCount` (1402). -/
abbrev Ix.AbortCount : Nat := 0x1402
/-- `TagsInFlight` (1403). -/
abbrev Ix.TagsInFlight : Nat := 0x1403
/-- `StagedEntries` (1404). -/
abbrev Ix.StagedEntries : Nat := 0x1404
/-- `StagedBytes` (1404:02). -/
abbrev Ix.StagedBytes : Nat := 0x1404
/-- `MasterPresence` (1406). -/
abbrev Ix.MasterPresence : Nat := 0x1406
/-- `MasterPresenceClear` (1407). -/
abbrev Ix.MasterPresenceClear : Nat := 0x1407
/-- `SpiFramingErrors` (1408). -/
abbrev Ix.SpiFramingErrors : Nat := 0x1408
/-- `DomainTransfersOpen` (1409). -/
abbrev Ix.DomainTransfersOpen : Nat := 0x1409
/-- `DomainTransferTimeout` (140A). -/
abbrev Ix.DomainTransferTimeout : Nat := 0x140A
/-- `ForwardTimeout` (140B). -/
abbrev Ix.ForwardTimeout : Nat := 0x140B
/-- `EventRoute` (1410). -/
abbrev Ix.EventRoute : Nat := 0x1410
/-- `EventQueueDepth` (1411). -/
abbrev Ix.EventQueueDepth : Nat := 0x1411
/-- `EventsLost` (1412). -/
abbrev Ix.EventsLost : Nat := 0x1412
/-- `EventRead` (1413). -/
abbrev Ix.EventRead : Nat := 0x1413
/-- `EventAck` (1414). -/
abbrev Ix.EventAck : Nat := 0x1414
/-- `AlertEnable` (1415). -/
abbrev Ix.AlertEnable : Nat := 0x1415
/-- `LoFrequency` (2000). -/
abbrev Ix.LoFrequency : Nat := 0x2000
/-- `SynState` (2001). -/
abbrev Ix.SynState : Nat := 0x2001
/-- `LoSource` (2002). -/
abbrev Ix.LoSource : Nat := 0x2002
/-- `LoBorrowPartner` (2003). -/
abbrev Ix.LoBorrowPartner : Nat := 0x2003
/-- `SynRelockCount` (2004). -/
abbrev Ix.SynRelockCount : Nat := 0x2004
/-- `CourseState` (2005). -/
abbrev Ix.CourseState : Nat := 0x2005
/-- `CourseRestState` (2006). -/
abbrev Ix.CourseRestState : Nat := 0x2006
/-- `TxLateCount` (2007). -/
abbrev Ix.TxLateCount : Nat := 0x2007
/-- `RxLostSymbols` (2008). -/
abbrev Ix.RxLostSymbols : Nat := 0x2008
/-- `SlotPlanLength` (2010). -/
abbrev Ix.SlotPlanLength : Nat := 0x2010
/-- `SlotPlan` (2011). -/
abbrev Ix.SlotPlan : Nat := 0x2011
/-- `CourseBursts` (2012). -/
abbrev Ix.CourseBursts : Nat := 0x2012
/-- `SlotPlanStart` (2013). -/
abbrev Ix.SlotPlanStart : Nat := 0x2013
/-- `TxEnLead` (2020). -/
abbrev Ix.TxEnLead : Nat := 0x2020
/-- `TxEnLag` (2021). -/
abbrev Ix.TxEnLag : Nat := 0x2021
/-- `RxEnLead` (2022). -/
abbrev Ix.RxEnLead : Nat := 0x2022
/-- `RxEnLag` (2023). -/
abbrev Ix.RxEnLag : Nat := 0x2023
/-- `PathEnable` (2030). -/
abbrev Ix.PathEnable : Nat := 0x2030
/-- `TxAttenuation` (2100). -/
abbrev Ix.TxAttenuation : Nat := 0x2100
/-- `TxDigitalGain` (2101). -/
abbrev Ix.TxDigitalGain : Nat := 0x2101
/-- `TxPowerMode` (2102). -/
abbrev Ix.TxPowerMode : Nat := 0x2102
/-- `TxManualSetting` (2103). -/
abbrev Ix.TxManualSetting : Nat := 0x2103
/-- `TxPowerTarget` (2104). -/
abbrev Ix.TxPowerTarget : Nat := 0x2104
/-- `TxPowerEffective` (2105). -/
abbrev Ix.TxPowerEffective : Nat := 0x2105
/-- `TxPowerMeasured` (2106). -/
abbrev Ix.TxPowerMeasured : Nat := 0x2106
/-- `TxLoopCorrection` (2107). -/
abbrev Ix.TxLoopCorrection : Nat := 0x2107
/-- `TxLoopCorrMin` (2108). -/
abbrev Ix.TxLoopCorrMin : Nat := 0x2108
/-- `TxLoopCorrMax` (2109). -/
abbrev Ix.TxLoopCorrMax : Nat := 0x2109
/-- `TxLoopStep` (210A). -/
abbrev Ix.TxLoopStep : Nat := 0x210A
/-- `TxGainTempAxis` (2110). -/
abbrev Ix.TxGainTempAxis : Nat := 0x2110
/-- `TxGainVoltAxis` (2111). -/
abbrev Ix.TxGainVoltAxis : Nat := 0x2111
/-- `TxPaGainTable` (2112). -/
abbrev Ix.TxPaGainTable : Nat := 0x2112
/-- `TxAntLoss` (2113). -/
abbrev Ix.TxAntLoss : Nat := 0x2113
/-- `TxPowerStatus` (2114). -/
abbrev Ix.TxPowerStatus : Nat := 0x2114
/-- `FbFwdOffset` (2115). -/
abbrev Ix.FbFwdOffset : Nat := 0x2115
/-- `FbRefOffset` (2116). -/
abbrev Ix.FbRefOffset : Nat := 0x2116
/-- `RxGainMode` (2200). -/
abbrev Ix.RxGainMode : Nat := 0x2200
/-- `RxGainFixed` (2201). -/
abbrev Ix.RxGainFixed : Nat := 0x2201
/-- `RxGain` (2202). -/
abbrev Ix.RxGain : Nat := 0x2202
/-- `RxGainRef` (2203). -/
abbrev Ix.RxGainRef : Nat := 0x2203
/-- `RxAgcTarget` (2204). -/
abbrev Ix.RxAgcTarget : Nat := 0x2204
/-- `RxGainMin` (2205). -/
abbrev Ix.RxGainMin : Nat := 0x2205
/-- `RxGainMax` (2206). -/
abbrev Ix.RxGainMax : Nat := 0x2206
/-- `RxGainStep` (2207). -/
abbrev Ix.RxGainStep : Nat := 0x2207
/-- `RxClipLimit` (2208). -/
abbrev Ix.RxClipLimit : Nat := 0x2208
/-- `RxSatCount` (2209). -/
abbrev Ix.RxSatCount : Nat := 0x2209
/-- `RxDcResidual` (220A). -/
abbrev Ix.RxDcResidual : Nat := 0x220A
/-- `RxDcTrackEnable` (220B). -/
abbrev Ix.RxDcTrackEnable : Nat := 0x220B
/-- `RxDcCoarse` (220C). -/
abbrev Ix.RxDcCoarse : Nat := 0x220C
/-- `TunerMode` (2300). -/
abbrev Ix.TunerMode : Nat := 0x2300
/-- `TunerCode` (2301). -/
abbrev Ix.TunerCode : Nat := 0x2301
/-- `TunerCodeMin` (2302). -/
abbrev Ix.TunerCodeMin : Nat := 0x2302
/-- `TunerCodeMax` (2303). -/
abbrev Ix.TunerCodeMax : Nat := 0x2303
/-- `TunerStep` (2304). -/
abbrev Ix.TunerStep : Nat := 0x2304
/-- `TunerCodeNow` (2305). -/
abbrev Ix.TunerCodeNow : Nat := 0x2305
/-- `ReturnLoss` (2306). -/
abbrev Ix.ReturnLoss : Nat := 0x2306
/-- `MismatchThreshold` (2307). -/
abbrev Ix.MismatchThreshold : Nat := 0x2307
/-- `MismatchFlag` (2308). -/
abbrev Ix.MismatchFlag : Nat := 0x2308
/-- `MismatchAction` (2309). -/
abbrev Ix.MismatchAction : Nat := 0x2309
/-- `MismatchBackoff` (230A). -/
abbrev Ix.MismatchBackoff : Nat := 0x230A
/-- `CarrierCount` (3000). -/
abbrev Ix.CarrierCount : Nat := 0x3000
/-- `CarrierWidth` (3001). -/
abbrev Ix.CarrierWidth : Nat := 0x3001
/-- `CarrierPrbs` (3002). -/
abbrev Ix.CarrierPrbs : Nat := 0x3002
/-- `CarrierOffset` (3003). -/
abbrev Ix.CarrierOffset : Nat := 0x3003
/-- `CarrierFftSize` (3004). -/
abbrev Ix.CarrierFftSize : Nat := 0x3004
/-- `CarrierRate` (3005). -/
abbrev Ix.CarrierRate : Nat := 0x3005
/-- `CarrierTxGain` (3006). -/
abbrev Ix.CarrierTxGain : Nat := 0x3006
/-- `UlFftAdvance` (3007). -/
abbrev Ix.UlFftAdvance : Nat := 0x3007
/-- `ActiveSubcarriers` (3008). -/
abbrev Ix.ActiveSubcarriers : Nat := 0x3008
/-- `DlLayerMap` (3010). -/
abbrev Ix.DlLayerMap : Nat := 0x3010
/-- `UlLayerMap` (3011). -/
abbrev Ix.UlLayerMap : Nat := 0x3011
/-- `DlMixShift` (3012). -/
abbrev Ix.DlMixShift : Nat := 0x3012
/-- `UlMixShift` (3013). -/
abbrev Ix.UlMixShift : Nat := 0x3013
/-- `MixSatCount` (3014). -/
abbrev Ix.MixSatCount : Nat := 0x3014
/-- `SectionRejects` (3015). -/
abbrev Ix.SectionRejects : Nat := 0x3015
/-- `MixPoisonCount` (3016). -/
abbrev Ix.MixPoisonCount : Nat := 0x3016
/-- `DlFolioSelect` (3020). -/
abbrev Ix.DlFolioSelect : Nat := 0x3020
/-- `UlFolioSelect` (3021). -/
abbrev Ix.UlFolioSelect : Nat := 0x3021
/-- `FolioSlotState` (3022). -/
abbrev Ix.FolioSlotState : Nat := 0x3022
/-- `FolioSlotHeader` (3023). -/
abbrev Ix.FolioSlotHeader : Nat := 0x3023
/-- `FolioSeal` (3024). -/
abbrev Ix.FolioSeal : Nat := 0x3024
/-- `StaticFolioOffset` (3030). -/
abbrev Ix.StaticFolioOffset : Nat := 0x3030
/-- `StaticFolioState` (3031). -/
abbrev Ix.StaticFolioState : Nat := 0x3031
/-- `PrachOccasions` (3040). -/
abbrev Ix.PrachOccasions : Nat := 0x3040
/-- `PrachSkipped` (3041). -/
abbrev Ix.PrachSkipped : Nat := 0x3041
/-- `SoundingAlloc` (3400). -/
abbrev Ix.SoundingAlloc : Nat := 0x3400
/-- `SoundingWritten` (3401). -/
abbrev Ix.SoundingWritten : Nat := 0x3401
/-- `SoundingSkipped` (3402). -/
abbrev Ix.SoundingSkipped : Nat := 0x3402
/-- `SoundingDropped` (3403). -/
abbrev Ix.SoundingDropped : Nat := 0x3403
/-- `LibraryEntries` (3410). -/
abbrev Ix.LibraryEntries : Nat := 0x3410
/-- `LibraryBase` (3411). -/
abbrev Ix.LibraryBase : Nat := 0x3411
/-- `LibraryMaxAge` (3412). -/
abbrev Ix.LibraryMaxAge : Nat := 0x3412
/-- `LibraryEntrySelect` (3413). -/
abbrev Ix.LibraryEntrySelect : Nat := 0x3413
/-- `LibraryEntryHeader` (3414). -/
abbrev Ix.LibraryEntryHeader : Nat := 0x3414
/-- `LibraryValidate` (3415). -/
abbrev Ix.LibraryValidate : Nat := 0x3415
/-- `LibraryInvalidate` (3416). -/
abbrev Ix.LibraryInvalidate : Nat := 0x3416
/-- `WeightJobSubmit` (3420). -/
abbrev Ix.WeightJobSubmit : Nat := 0x3420
/-- `WeightJobCancel` (3421). -/
abbrev Ix.WeightJobCancel : Nat := 0x3421
/-- `WeightJobsQueued` (3422). -/
abbrev Ix.WeightJobsQueued : Nat := 0x3422
/-- `WeightJobResults` (3423). -/
abbrev Ix.WeightJobResults : Nat := 0x3423
/-- `WeightKernelVersion` (3424). -/
abbrev Ix.WeightKernelVersion : Nat := 0x3424
/-- `GramRateSpare` (3426). -/
abbrev Ix.GramRateSpare : Nat := 0x3426
/-- `GramTimeout` (3427). -/
abbrev Ix.GramTimeout : Nat := 0x3427
/-- `WeightJobsDone` (3428). -/
abbrev Ix.WeightJobsDone : Nat := 0x3428
/-- `WeightJobsFailed` (3429). -/
abbrev Ix.WeightJobsFailed : Nat := 0x3429
/-- `LinMode` (3800). -/
abbrev Ix.LinMode : Nat := 0x3800
/-- `LinStructure` (3801). -/
abbrev Ix.LinStructure : Nat := 0x3801
/-- `LinCoefCount` (3802). -/
abbrev Ix.LinCoefCount : Nat := 0x3802
/-- `LinTables` (3803). -/
abbrev Ix.LinTables : Nat := 0x3803
/-- `LinCoefSelect` (3804). -/
abbrev Ix.LinCoefSelect : Nat := 0x3804
/-- `LinCoefficients` (3805). -/
abbrev Ix.LinCoefficients : Nat := 0x3805
/-- `LinAdjacency` (3810). -/
abbrev Ix.LinAdjacency : Nat := 0x3810
/-- `LinStepInterval` (3820). -/
abbrev Ix.LinStepInterval : Nat := 0x3820
/-- `LinSolveSamples` (3821). -/
abbrev Ix.LinSolveSamples : Nat := 0x3821
/-- `LinAdaptGain` (3822). -/
abbrev Ix.LinAdaptGain : Nat := 0x3822
/-- `LinRegularisation` (3823). -/
abbrev Ix.LinRegularisation : Nat := 0x3823
/-- `LinRevertMargin` (3824). -/
abbrev Ix.LinRevertMargin : Nat := 0x3824
/-- `LinNmseAlarm` (3825). -/
abbrev Ix.LinNmseAlarm : Nat := 0x3825
/-- `LinGainMin` (3828). -/
abbrev Ix.LinGainMin : Nat := 0x3828
/-- `LinGainMax` (3829). -/
abbrev Ix.LinGainMax : Nat := 0x3829
/-- `LinGainStep` (382A). -/
abbrev Ix.LinGainStep : Nat := 0x382A
/-- `LinPhaseStep` (382B). -/
abbrev Ix.LinPhaseStep : Nat := 0x382B
/-- `LinCaptureBase` (3830). -/
abbrev Ix.LinCaptureBase : Nat := 0x3830
/-- `LinNmse` (3831). -/
abbrev Ix.LinNmse : Nat := 0x3831
/-- `LinAclr` (3832). -/
abbrev Ix.LinAclr : Nat := 0x3832
/-- `LinStatus` (3833). -/
abbrev Ix.LinStatus : Nat := 0x3833
/-- `LinUpdates` (3834). -/
abbrev Ix.LinUpdates : Nat := 0x3834
/-- `LinLastUpdate` (3835). -/
abbrev Ix.LinLastUpdate : Nat := 0x3835
/-- `LinSatCount` (3836). -/
abbrev Ix.LinSatCount : Nat := 0x3836
/-- `LinStepsEmpty` (3837). -/
abbrev Ix.LinStepsEmpty : Nat := 0x3837
/-- `LinUpdatesDiscarded` (3838). -/
abbrev Ix.LinUpdatesDiscarded : Nat := 0x3838
/-- `LinResume` (3839). -/
abbrev Ix.LinResume : Nat := 0x3839
/-- `LoopBound` (3840). -/
abbrev Ix.LoopBound : Nat := 0x3840
/-- `LoopBoundCount` (3841). -/
abbrev Ix.LoopBoundCount : Nat := 0x3841
/-- `FlexSubbands` (3C00). -/
abbrev Ix.FlexSubbands : Nat := 0x3C00
/-- `DuplexAperture` (3C01). -/
abbrev Ix.DuplexAperture : Nat := 0x3C01
/-- `SplitRxTiles` (3C02). -/
abbrev Ix.SplitRxTiles : Nat := 0x3C02
/-- `CancelSubbandRate` (3C03). -/
abbrev Ix.CancelSubbandRate : Nat := 0x3C03
/-- `RxFullScaleRef` (3C05). -/
abbrev Ix.RxFullScaleRef : Nat := 0x3C05
/-- `CancelSetSelect` (3C10). -/
abbrev Ix.CancelSetSelect : Nat := 0x3C10
/-- `CancelSetState` (3C11). -/
abbrev Ix.CancelSetState : Nat := 0x3C11
/-- `CancelSetBase` (3C12). -/
abbrev Ix.CancelSetBase : Nat := 0x3C12
/-- `CancelSetSeal` (3C13). -/
abbrev Ix.CancelSetSeal : Nat := 0x3C13
/-- `CancelTrain` (3C14). -/
abbrev Ix.CancelTrain : Nat := 0x3C14
/-- `CancelTrainState` (3C15). -/
abbrev Ix.CancelTrainState : Nat := 0x3C15
/-- `CancelQuiet` (3C20). -/
abbrev Ix.CancelQuiet : Nat := 0x3C20
/-- `CancelAdapt` (3C21). -/
abbrev Ix.CancelAdapt : Nat := 0x3C21
/-- `CancelNormMin` (3C22). -/
abbrev Ix.CancelNormMin : Nat := 0x3C22
/-- `CancelNormMax` (3C23). -/
abbrev Ix.CancelNormMax : Nat := 0x3C23
/-- `CancelStepMax` (3C24). -/
abbrev Ix.CancelStepMax : Nat := 0x3C24
/-- `CancelAnalogSupp` (3C30). -/
abbrev Ix.CancelAnalogSupp : Nat := 0x3C30
/-- `CancelDigitalSupp` (3C31). -/
abbrev Ix.CancelDigitalSupp : Nat := 0x3C31
/-- `DuplexIsolation` (3C32). -/
abbrev Ix.DuplexIsolation : Nat := 0x3C32
/-- `DuplexNoiseRise` (3C33). -/
abbrev Ix.DuplexNoiseRise : Nat := 0x3C33
/-- `NoiseRiseAlarm` (3C34). -/
abbrev Ix.NoiseRiseAlarm : Nat := 0x3C34
/-- `DuplexFailAction` (3C35). -/
abbrev Ix.DuplexFailAction : Nat := 0x3C35
/-- `CancelClipSymbols` (3C36). -/
abbrev Ix.CancelClipSymbols : Nat := 0x3C36
/-- `CancelStatus` (3C37). -/
abbrev Ix.CancelStatus : Nat := 0x3C37
/-- `SpeEnable` (4400). -/
abbrev Ix.SpeEnable : Nat := 0x4400
/-- `SpeState` (4401). -/
abbrev Ix.SpeState : Nat := 0x4401
/-- `SpeMainPath` (4402). -/
abbrev Ix.SpeMainPath : Nat := 0x4402
/-- `SpeAltPath` (4403). -/
abbrev Ix.SpeAltPath : Nat := 0x4403
/-- `SpeAntennaInUse` (4404). -/
abbrev Ix.SpeAntennaInUse : Nat := 0x4404
/-- `SpeFrequency` (4405). -/
abbrev Ix.SpeFrequency : Nat := 0x4405
/-- `SpeFormat` (4406). -/
abbrev Ix.SpeFormat : Nat := 0x4406
/-- `SpeTxLevel` (4407). -/
abbrev Ix.SpeTxLevel : Nat := 0x4407
/-- `SpeReturnState` (4408). -/
abbrev Ix.SpeReturnState : Nat := 0x4408
/-- `SpeDetectThreshold` (4410). -/
abbrev Ix.SpeDetectThreshold : Nat := 0x4410
/-- `SpeCaptureMargin` (4411). -/
abbrev Ix.SpeCaptureMargin : Nat := 0x4411
/-- `SpeLateCapture` (4412). -/
abbrev Ix.SpeLateCapture : Nat := 0x4412
/-- `SpeSyncWindow` (4413). -/
abbrev Ix.SpeSyncWindow : Nat := 0x4413
/-- `SpeSyncWord` (4414). -/
abbrev Ix.SpeSyncWord : Nat := 0x4414
/-- `SpeSyncErrors` (4415). -/
abbrev Ix.SpeSyncErrors : Nat := 0x4415
/-- `SpeRxBufferSize` (4416). -/
abbrev Ix.SpeRxBufferSize : Nat := 0x4416
/-- `SpeCfoFollow` (4417). -/
abbrev Ix.SpeCfoFollow : Nat := 0x4417
/-- `SpeCfoStepMax` (4418). -/
abbrev Ix.SpeCfoStepMax : Nat := 0x4418
/-- `SpeCfoRange` (4419). -/
abbrev Ix.SpeCfoRange : Nat := 0x4419
/-- `SpeCfoApplied` (441A). -/
abbrev Ix.SpeCfoApplied : Nat := 0x441A
/-- `SpeCfoPpb` (441B). -/
abbrev Ix.SpeCfoPpb : Nat := 0x441B
/-- `SpeWindows` (4420). -/
abbrev Ix.SpeWindows : Nat := 0x4420
/-- `SpeTxSend` (4430). -/
abbrev Ix.SpeTxSend : Nat := 0x4430
/-- `SpeTxCancel` (4431). -/
abbrev Ix.SpeTxCancel : Nat := 0x4431
/-- `SpeRxRelease` (4432). -/
abbrev Ix.SpeRxRelease : Nat := 0x4432
/-- `SpeRxPending` (4433). -/
abbrev Ix.SpeRxPending : Nat := 0x4433
/-- `SpeTxScheduled` (4434). -/
abbrev Ix.SpeTxScheduled : Nat := 0x4434
/-- `SpeCounters` (4440). -/
abbrev Ix.SpeCounters : Nat := 0x4440
/-- `SpeLastTxTimestamp` (4441). -/
abbrev Ix.SpeLastTxTimestamp : Nat := 0x4441
/-- `TrimValid` (4800). -/
abbrev Ix.TrimValid : Nat := 0x4800
/-- `TrimCrc` (4801). -/
abbrev Ix.TrimCrc : Nat := 0x4801
/-- `TrimRecheck` (4802). -/
abbrev Ix.TrimRecheck : Nat := 0x4802
/-- `TrimCorrected` (4803). -/
abbrev Ix.TrimCorrected : Nat := 0x4803
/-- `CalRun` (4810). -/
abbrev Ix.CalRun : Nat := 0x4810
/-- `CalRunCancel` (4811). -/
abbrev Ix.CalRunCancel : Nat := 0x4811
/-- `CalRunState` (4812). -/
abbrev Ix.CalRunState : Nat := 0x4812
/-- `CalProfile` (4813). -/
abbrev Ix.CalProfile : Nat := 0x4813
/-- `CalTolerance` (4814). -/
abbrev Ix.CalTolerance : Nat := 0x4814
/-- `CalArrayTolerance` (4814:05). -/
abbrev Ix.CalArrayTolerance : Nat := 0x4814
/-- `CalRecipMinSnr` (4815). -/
abbrev Ix.CalRecipMinSnr : Nat := 0x4815
/-- `CalDelayTarget` (4816). -/
abbrev Ix.CalDelayTarget : Nat := 0x4816
/-- `CalBoardDelay` (4817). -/
abbrev Ix.CalBoardDelay : Nat := 0x4817
/-- `CalBoardDelayRx` (4818). -/
abbrev Ix.CalBoardDelayRx : Nat := 0x4818
/-- `CalSet` (4820). -/
abbrev Ix.CalSet : Nat := 0x4820
/-- `CalTempSpan` (4821). -/
abbrev Ix.CalTempSpan : Nat := 0x4821
/-- `CalCourseTemp` (4822). -/
abbrev Ix.CalCourseTemp : Nat := 0x4822
/-- `CalRollEnable` (4823). -/
abbrev Ix.CalRollEnable : Nat := 0x4823
/-- `CalRollInterval` (4824). -/
abbrev Ix.CalRollInterval : Nat := 0x4824
/-- `CalRollKinds` (4825). -/
abbrev Ix.CalRollKinds : Nat := 0x4825
/-- `CalRollPath` (4826). -/
abbrev Ix.CalRollPath : Nat := 0x4826
/-- `CalQuality` (4830). -/
abbrev Ix.CalQuality : Nat := 0x4830
/-- `CalObsQuality` (4831). -/
abbrev Ix.CalObsQuality : Nat := 0x4831
/-- `CalCourseCount` (4840). -/
abbrev Ix.CalCourseCount : Nat := 0x4840
/-- `CalCourseLastEpoch` (4841). -/
abbrev Ix.CalCourseLastEpoch : Nat := 0x4841
/-- `CalCourseLastTime` (4842). -/
abbrev Ix.CalCourseLastTime : Nat := 0x4842
/-- `CalClockSet` (4843). -/
abbrev Ix.CalClockSet : Nat := 0x4843
/-- `CalStoreOffset` (4850). -/
abbrev Ix.CalStoreOffset : Nat := 0x4850
/-- `CalStoreSave` (4851). -/
abbrev Ix.CalStoreSave : Nat := 0x4851
/-- `CalStoreAutoApply` (4852). -/
abbrev Ix.CalStoreAutoApply : Nat := 0x4852
/-- `CalStoreBankSeq` (4853). -/
abbrev Ix.CalStoreBankSeq : Nat := 0x4853
/-- `CalStoreBankState` (4854). -/
abbrev Ix.CalStoreBankState : Nat := 0x4854
/-- `CalStoreLoaded` (4855). -/
abbrev Ix.CalStoreLoaded : Nat := 0x4855
/-- `CalStoreState` (4856). -/
abbrev Ix.CalStoreState : Nat := 0x4856
/-- `CalStoreTimeout` (4857). -/
abbrev Ix.CalStoreTimeout : Nat := 0x4857
/-- `MasonCoresOk` (4000). -/
abbrev Ix.MasonCoresOk : Nat := 0x4000
/-- `MasonSpareCount` (4001). -/
abbrev Ix.MasonSpareCount : Nat := 0x4001
/-- `MasonSpareMask` (4002). -/
abbrev Ix.MasonSpareMask : Nat := 0x4002
/-- `MasonRetiredMask` (4003). -/
abbrev Ix.MasonRetiredMask : Nat := 0x4003
/-- `MasonRestore` (4004). -/
abbrev Ix.MasonRestore : Nat := 0x4004
/-- `MasonState` (4005). -/
abbrev Ix.MasonState : Nat := 0x4005
/-- `MasonTaskCount` (4006). -/
abbrev Ix.MasonTaskCount : Nat := 0x4006
/-- `MasonScaleEvents` (4007). -/
abbrev Ix.MasonScaleEvents : Nat := 0x4007
/-- `MasonLoad` (4008). -/
abbrev Ix.MasonLoad : Nat := 0x4008
/-- `MasonUserCores` (4010). -/
abbrev Ix.MasonUserCores : Nat := 0x4010
/-- `MasonKernelLoad` (4020). -/
abbrev Ix.MasonKernelLoad : Nat := 0x4020
/-- `MasonKernelVersion` (4021). -/
abbrev Ix.MasonKernelVersion : Nat := 0x4021
/-- `MasonKernelUnload` (4022). -/
abbrev Ix.MasonKernelUnload : Nat := 0x4022
/-- `MasonJobSubmit` (4030). -/
abbrev Ix.MasonJobSubmit : Nat := 0x4030
/-- `MasonJobCancel` (4031). -/
abbrev Ix.MasonJobCancel : Nat := 0x4031
/-- `MasonJobsActive` (4032). -/
abbrev Ix.MasonJobsActive : Nat := 0x4032
/-- `MasonJobResults` (4033). -/
abbrev Ix.MasonJobResults : Nat := 0x4033
/-- `LinkState` (5000). -/
abbrev Ix.LinkState : Nat := 0x5000
/-- `LinkEnable` (5001). -/
abbrev Ix.LinkEnable : Nat := 0x5001
/-- `LinkProfile` (5002). -/
abbrev Ix.LinkProfile : Nat := 0x5002
/-- `LinkRateInForce` (5003). -/
abbrev Ix.LinkRateInForce : Nat := 0x5003
/-- `LinkRetrain` (5004). -/
abbrev Ix.LinkRetrain : Nat := 0x5004
/-- `LinkUpCount` (5005). -/
abbrev Ix.LinkUpCount : Nat := 0x5005
/-- `LinkDownCount` (5006). -/
abbrev Ix.LinkDownCount : Nat := 0x5006
/-- `LinkLastDown` (5007). -/
abbrev Ix.LinkLastDown : Nat := 0x5007
/-- `LinkDownReason` (5008). -/
abbrev Ix.LinkDownReason : Nat := 0x5008
/-- `LinkTrainFails` (5009). -/
abbrev Ix.LinkTrainFails : Nat := 0x5009
/-- `LaneState` (5010). -/
abbrev Ix.LaneState : Nat := 0x5010
/-- `LaneCrcErrors` (5011). -/
abbrev Ix.LaneCrcErrors : Nat := 0x5011
/-- `LaneStuffBits` (5012). -/
abbrev Ix.LaneStuffBits : Nat := 0x5012
/-- `BondsReconstructed` (5013). -/
abbrev Ix.BondsReconstructed : Nat := 0x5013
/-- `BondsLost` (5014). -/
abbrev Ix.BondsLost : Nat := 0x5014
/-- `LaneFailLimit` (5015). -/
abbrev Ix.LaneFailLimit : Nat := 0x5015
/-- `LaneFailWindow` (5016). -/
abbrev Ix.LaneFailWindow : Nat := 0x5016
/-- `LaneRejoin` (5017). -/
abbrev Ix.LaneRejoin : Nat := 0x5017
/-- `LinkFarCaps` (5018). -/
abbrev Ix.LinkFarCaps : Nat := 0x5018
/-- `LinkFarFailMask` (5019). -/
abbrev Ix.LinkFarFailMask : Nat := 0x5019
/-- `LaneSkew` (501A). -/
abbrev Ix.LaneSkew : Nat := 0x501A
/-- `LinkArraySize` (501B). -/
abbrev Ix.LinkArraySize : Nat := 0x501B
/-- `LinkSeqGaps` (5020). -/
abbrev Ix.LinkSeqGaps : Nat := 0x5020
/-- `LinkTypeDrops` (5021). -/
abbrev Ix.LinkTypeDrops : Nat := 0x5021
/-- `LinkFramingErrors` (5022). -/
abbrev Ix.LinkFramingErrors : Nat := 0x5022
/-- `LinkMisrouted` (5023). -/
abbrev Ix.LinkMisrouted : Nat := 0x5023
/-- `LenDrops` (5024). -/
abbrev Ix.LenDrops : Nat := 0x5024
/-- `StreamOverflows` (5025). -/
abbrev Ix.StreamOverflows : Nat := 0x5025
/-- `DlEarlySections` (5026). -/
abbrev Ix.DlEarlySections : Nat := 0x5026
/-- `CreditResyncs` (5027). -/
abbrev Ix.CreditResyncs : Nat := 0x5027
/-- `StreamRate` (5028). -/
abbrev Ix.StreamRate : Nat := 0x5028
/-- `LinkEtagDrops` (5029). -/
abbrev Ix.LinkEtagDrops : Nat := 0x5029
/-- `UlPartialSent` (5030). -/
abbrev Ix.UlPartialSent : Nat := 0x5030
/-- `UlLatePartials` (5031). -/
abbrev Ix.UlLatePartials : Nat := 0x5031
/-- `UlUnmatchedPartials` (5032). -/
abbrev Ix.UlUnmatchedPartials : Nat := 0x5032
/-- `GramUnmatched` (5033). -/
abbrev Ix.GramUnmatched : Nat := 0x5033
/-- `EchoInterval` (5034). -/
abbrev Ix.EchoInterval : Nat := 0x5034
/-- `LinkDelay` (5035). -/
abbrev Ix.LinkDelay : Nat := 0x5035
/-- `LinkDelayAdjust` (5036). -/
abbrev Ix.LinkDelayAdjust : Nat := 0x5036
/-- `MemRequests` (5037). -/
abbrev Ix.MemRequests : Nat := 0x5037
/-- `MemErrors` (5038). -/
abbrev Ix.MemErrors : Nat := 0x5038
/-- `CaptureChunk` (5039). -/
abbrev Ix.CaptureChunk : Nat := 0x5039
/-- `CaptureStream` (503A). -/
abbrev Ix.CaptureStream : Nat := 0x503A
/-- `CaptureOverruns` (503B). -/
abbrev Ix.CaptureOverruns : Nat := 0x503B
/-- `ArchiveCapacity` (5400). -/
abbrev Ix.ArchiveCapacity : Nat := 0x5400
/-- `PartitionBase` (5401). -/
abbrev Ix.PartitionBase : Nat := 0x5401
/-- `PartitionSize` (5402). -/
abbrev Ix.PartitionSize : Nat := 0x5402
/-- `ArchiveState` (5403). -/
abbrev Ix.ArchiveState : Nat := 0x5403
/-- `EccCorrected` (5410). -/
abbrev Ix.EccCorrected : Nat := 0x5410
/-- `EccUncorrectable` (5411). -/
abbrev Ix.EccUncorrectable : Nat := 0x5411
/-- `SlowPathReads` (5412). -/
abbrev Ix.SlowPathReads : Nat := 0x5412
/-- `EccLog` (5413). -/
abbrev Ix.EccLog : Nat := 0x5413
/-- `EccLogClear` (5414). -/
abbrev Ix.EccLogClear : Nat := 0x5414
/-- `EccLogOverflow` (5415). -/
abbrev Ix.EccLogOverflow : Nat := 0x5415
/-- `PoisonConsumed` (5416). -/
abbrev Ix.PoisonConsumed : Nat := 0x5416
/-- `ScrubPeriod` (5420). -/
abbrev Ix.ScrubPeriod : Nat := 0x5420
/-- `ScrubPosition` (5421). -/
abbrev Ix.ScrubPosition : Nat := 0x5421
/-- `ScrubPasses` (5422). -/
abbrev Ix.ScrubPasses : Nat := 0x5422
/-- `LocksHeld` (5430). -/
abbrev Ix.LocksHeld : Nat := 0x5430
/-- `LockRefusals` (5431). -/
abbrev Ix.LockRefusals : Nat := 0x5431
/-- `DmaChannels` (5800). -/
abbrev Ix.DmaChannels : Nat := 0x5800
/-- `DmaReserved` (5801). -/
abbrev Ix.DmaReserved : Nat := 0x5801
/-- `DmaState` (5802). -/
abbrev Ix.DmaState : Nat := 0x5802
/-- `DmaStatus` (5803). -/
abbrev Ix.DmaStatus : Nat := 0x5803
/-- `DmaCurrentDesc` (5804). -/
abbrev Ix.DmaCurrentDesc : Nat := 0x5804
/-- `DmaErrTarget` (5805). -/
abbrev Ix.DmaErrTarget : Nat := 0x5805
/-- `DmaHopLimit` (5806). -/
abbrev Ix.DmaHopLimit : Nat := 0x5806
/-- `DmaChannelCtrl` (5807). -/
abbrev Ix.DmaChannelCtrl : Nat := 0x5807
/-- `DmaDescCount` (5808). -/
abbrev Ix.DmaDescCount : Nat := 0x5808
/-- `DmaBytes` (5809). -/
abbrev Ix.DmaBytes : Nat := 0x5809
/-- `DmaLateErrCount` (580A). -/
abbrev Ix.DmaLateErrCount : Nat := 0x580A
/-- `DmaLateErrDesc` (580B). -/
abbrev Ix.DmaLateErrDesc : Nat := 0x580B
/-- `DmaHaltReason` (580C). -/
abbrev Ix.DmaHaltReason : Nat := 0x580C
/-- `DmaLeaseOwner` (580D). -/
abbrev Ix.DmaLeaseOwner : Nat := 0x580D
/-- `DmaStart` (5810). -/
abbrev Ix.DmaStart : Nat := 0x5810
/-- `DmaAbort` (5811). -/
abbrev Ix.DmaAbort : Nat := 0x5811
/-- `DmaAppendPoll` (5813). -/
abbrev Ix.DmaAppendPoll : Nat := 0x5813
/-- `GovCourseLatency` (1120). -/
abbrev Ix.GovCourseLatency : Nat := 0x1120
/-- `GovDeviceLatency` (1121). -/
abbrev Ix.GovDeviceLatency : Nat := 0x1121
/-- `GovSlotLatency` (1122). -/
abbrev Ix.GovSlotLatency : Nat := 0x1122
/-- `GovDepthMin` (1123). -/
abbrev Ix.GovDepthMin : Nat := 0x1123
/-- `GovDepthMax` (1124). -/
abbrev Ix.GovDepthMax : Nat := 0x1124
/-- `GovDepthStep` (1125). -/
abbrev Ix.GovDepthStep : Nat := 0x1125
/-- `GovCourseDepth` (1126). -/
abbrev Ix.GovCourseDepth : Nat := 0x1126
/-- `GovDeviceDepth` (1127). -/
abbrev Ix.GovDeviceDepth : Nat := 0x1127
/-- `GovDormantEnable` (1128). -/
abbrev Ix.GovDormantEnable : Nat := 0x1128
/-- `GovDormantIdle` (1129). -/
abbrev Ix.GovDormantIdle : Nat := 0x1129
/-- `GovLateSymbols` (112A). -/
abbrev Ix.GovLateSymbols : Nat := 0x112A
/-- `GovWakeNow` (112B). -/
abbrev Ix.GovWakeNow : Nat := 0x112B
/-- `DomainState` (6000). -/
abbrev Ix.DomainState : Nat := 0x6000
/-- `DomainWakeTimeout` (6001). -/
abbrev Ix.DomainWakeTimeout : Nat := 0x6001
/-- `DomainIdleOff` (6002). -/
abbrev Ix.DomainIdleOff : Nat := 0x6002
/-- `DomainWakeCount` (6003). -/
abbrev Ix.DomainWakeCount : Nat := 0x6003
/-- `DomainWakeFails` (6004). -/
abbrev Ix.DomainWakeFails : Nat := 0x6004
/-- `LastWakeSource` (6005). -/
abbrev Ix.LastWakeSource : Nat := 0x6005
/-- `LastWakeEpoch` (6006). -/
abbrev Ix.LastWakeEpoch : Nat := 0x6006
/-- `WakeEdgesLost` (6007). -/
abbrev Ix.WakeEdgesLost : Nat := 0x6007
/-- `ClockSource` (6008). -/
abbrev Ix.ClockSource : Nat := 0x6008
/-- `PowerRequest` (6010). -/
abbrev Ix.PowerRequest : Nat := 0x6010
/-- `PowerHold` (6011). -/
abbrev Ix.PowerHold : Nat := 0x6011
/-- `PowerPending` (6012). -/
abbrev Ix.PowerPending : Nat := 0x6012
/-- `DevicePart` (1000). -/
abbrev Ix.DevicePart : Nat := 0x1000
/-- `DeviceGrade` (1001). -/
abbrev Ix.DeviceGrade : Nat := 0x1001
/-- `SiliconRevision` (1002). -/
abbrev Ix.SiliconRevision : Nat := 0x1002
/-- `DeviceIdentity` (1003). -/
abbrev Ix.DeviceIdentity : Nat := 0x1003
/-- `DeviceIdentityKey` (1004). -/
abbrev Ix.DeviceIdentityKey : Nat := 0x1004
/-- `IdCode` (1005). -/
abbrev Ix.IdCode : Nat := 0x1005
/-- `BootImageVersion` (1006). -/
abbrev Ix.BootImageVersion : Nat := 0x1006
/-- `ResetCause` (6400). -/
abbrev Ix.ResetCause : Nat := 0x6400
/-- `ResetCauseClear` (6401). -/
abbrev Ix.ResetCauseClear : Nat := 0x6401
/-- `ResetRequest` (6402). -/
abbrev Ix.ResetRequest : Nat := 0x6402
/-- `DomainReset` (6403). -/
abbrev Ix.DomainReset : Nat := 0x6403
/-- `Straps` (6404). -/
abbrev Ix.Straps : Nat := 0x6404
/-- `ReleaseCount` (6405). -/
abbrev Ix.ReleaseCount : Nat := 0x6405
/-- `BlockResetMason` (6410). -/
abbrev Ix.BlockResetMason : Nat := 0x6410
/-- `BlockResetDma` (6411). -/
abbrev Ix.BlockResetDma : Nat := 0x6411
/-- `BlockResetOther` (6412). -/
abbrev Ix.BlockResetOther : Nat := 0x6412
/-- `BootState` (6420). -/
abbrev Ix.BootState : Nat := 0x6420
/-- `BootSource` (6421). -/
abbrev Ix.BootSource : Nat := 0x6421
/-- `BootImageLoad` (6422). -/
abbrev Ix.BootImageLoad : Nat := 0x6422
/-- `BootImageDigest` (6423). -/
abbrev Ix.BootImageDigest : Nat := 0x6423
/-- `ConfigProfileDigest` (6424). -/
abbrev Ix.ConfigProfileDigest : Nat := 0x6424
/-- `KeySlotState` (6430). -/
abbrev Ix.KeySlotState : Nat := 0x6430
/-- `KeyRevoke` (6431). -/
abbrev Ix.KeyRevoke : Nat := 0x6431
/-- `AttestRequest` (6440). -/
abbrev Ix.AttestRequest : Nat := 0x6440
/-- `AttestReport` (6441). -/
abbrev Ix.AttestReport : Nat := 0x6441
/-- `Altered` (6442). -/
abbrev Ix.Altered : Nat := 0x6442
/-- `AlteredAddress` (6443). -/
abbrev Ix.AlteredAddress : Nat := 0x6443
/-- `IdentitySign` (6444). -/
abbrev Ix.IdentitySign : Nat := 0x6444
/-- `IdentitySignature` (6445). -/
abbrev Ix.IdentitySignature : Nat := 0x6445
/-- `AlteredEpoch` (6446). -/
abbrev Ix.AlteredEpoch : Nat := 0x6446
/-- `WatchdogPeriod` (6450). -/
abbrev Ix.WatchdogPeriod : Nat := 0x6450
/-- `HkConverterState` (6801). -/
abbrev Ix.HkConverterState : Nat := 0x6801
/-- `HkTrust` (6802). -/
abbrev Ix.HkTrust : Nat := 0x6802
/-- `HkCheckChannel` (6803). -/
abbrev Ix.HkCheckChannel : Nat := 0x6803
/-- `HkCheckInterval` (6804). -/
abbrev Ix.HkCheckInterval : Nat := 0x6804
/-- `HkCheckTolerance` (6805). -/
abbrev Ix.HkCheckTolerance : Nat := 0x6805
/-- `HkCheckResult` (6806). -/
abbrev Ix.HkCheckResult : Nat := 0x6806
/-- `HkAverage` (6810). -/
abbrev Ix.HkAverage : Nat := 0x6810
/-- `HkGain` (6811). -/
abbrev Ix.HkGain : Nat := 0x6811
/-- `HkOffset` (6812). -/
abbrev Ix.HkOffset : Nat := 0x6812
/-- `HkRaw` (6813). -/
abbrev Ix.HkRaw : Nat := 0x6813
/-- `HkValue` (6814). -/
abbrev Ix.HkValue : Nat := 0x6814
/-- `HkInputEnable` (6815). -/
abbrev Ix.HkInputEnable : Nat := 0x6815
/-- `HkRail` (6820). -/
abbrev Ix.HkRail : Nat := 0x6820
/-- `HkBandgap` (6821). -/
abbrev Ix.HkBandgap : Nat := 0x6821
/-- `BiasCode` (6840). -/
abbrev Ix.BiasCode : Nat := 0x6840
/-- `BiasRange` (6841). -/
abbrev Ix.BiasRange : Nat := 0x6841
/-- `BiasClearCode` (6842). -/
abbrev Ix.BiasClearCode : Nat := 0x6842
/-- `BiasCodeNow` (6843). -/
abbrev Ix.BiasCodeNow : Nat := 0x6843
/-- `BiasRangeNow` (6844). -/
abbrev Ix.BiasRangeNow : Nat := 0x6844
/-- `BiasReadback` (6845). -/
abbrev Ix.BiasReadback : Nat := 0x6845
/-- `BiasStatus` (6846). -/
abbrev Ix.BiasStatus : Nat := 0x6846
/-- `BiasStrobeSource` (6847). -/
abbrev Ix.BiasStrobeSource : Nat := 0x6847
/-- `BiasShortCount` (6848). -/
abbrev Ix.BiasShortCount : Nat := 0x6848
/-- `TempReading` (6C00). -/
abbrev Ix.TempReading : Nat := 0x6C00
/-- `TempWarn` (6C01). -/
abbrev Ix.TempWarn : Nat := 0x6C01
/-- `TempThrottle` (6C02). -/
abbrev Ix.TempThrottle : Nat := 0x6C02
/-- `TempShutdown` (6C03). -/
abbrev Ix.TempShutdown : Nat := 0x6C03
/-- `TempHysteresis` (6C04). -/
abbrev Ix.TempHysteresis : Nat := 0x6C04
/-- `TempRateLimit` (6C05). -/
abbrev Ix.TempRateLimit : Nat := 0x6C05
/-- `ShutdownMode` (6C06). -/
abbrev Ix.ShutdownMode : Nat := 0x6C06
/-- `RemoteSensorType` (6C07). -/
abbrev Ix.RemoteSensorType : Nat := 0x6C07
/-- `DiodeIdeality` (6C08). -/
abbrev Ix.DiodeIdeality : Nat := 0x6C08
/-- `DiodeSeriesR` (6C09). -/
abbrev Ix.DiodeSeriesR : Nat := 0x6C09
/-- `NtcR25` (6C0A). -/
abbrev Ix.NtcR25 : Nat := 0x6C0A
/-- `NtcBeta` (6C0B). -/
abbrev Ix.NtcBeta : Nat := 0x6C0B
/-- `TempStatus` (6C0C). -/
abbrev Ix.TempStatus : Nat := 0x6C0C
/-- `ThrottleMode` (6C10). -/
abbrev Ix.ThrottleMode : Nat := 0x6C10
/-- `ThrottleGrace` (6C11). -/
abbrev Ix.ThrottleGrace : Nat := 0x6C11
/-- `ThrottleFloor` (6C12). -/
abbrev Ix.ThrottleFloor : Nat := 0x6C12
/-- `ThrottleStep` (6C13). -/
abbrev Ix.ThrottleStep : Nat := 0x6C13
/-- `ThrottleMuteDelay` (6C14). -/
abbrev Ix.ThrottleMuteDelay : Nat := 0x6C14
/-- `ThrottleReduction` (6C15). -/
abbrev Ix.ThrottleReduction : Nat := 0x6C15
/-- `TileMuted` (6C16). -/
abbrev Ix.TileMuted : Nat := 0x6C16
/-- `FaultLogCount` (7000). -/
abbrev Ix.FaultLogCount : Nat := 0x7000
/-- `FaultLog` (7001). -/
abbrev Ix.FaultLog : Nat := 0x7001
/-- `FaultLogClear` (7002). -/
abbrev Ix.FaultLogClear : Nat := 0x7002
/-- `FaultLogOverwrites` (7003). -/
abbrev Ix.FaultLogOverwrites : Nat := 0x7003
/-- `PathFault` (7004). -/
abbrev Ix.PathFault : Nat := 0x7004
/-- `PathFaultClear` (7005). -/
abbrev Ix.PathFaultClear : Nat := 0x7005
/-- `PathFaultMargin` (7006). -/
abbrev Ix.PathFaultMargin : Nat := 0x7006
/-- `FaultPathLimit` (7007). -/
abbrev Ix.FaultPathLimit : Nat := 0x7007
/-- `ObsShare` (7008). -/
abbrev Ix.ObsShare : Nat := 0x7008
/-- `LeaseRevoke` (7010). -/
abbrev Ix.LeaseRevoke : Nat := 0x7010
/-- `LeaseTable` (7011). -/
abbrev Ix.LeaseTable : Nat := 0x7011
/-- `LeaseEnds` (7012). -/
abbrev Ix.LeaseEnds : Nat := 0x7012
/-- `SafeHoldCauses` (7020). -/
abbrev Ix.SafeHoldCauses : Nat := 0x7020
/-- `SafeHoldLastEntry` (7021). -/
abbrev Ix.SafeHoldLastEntry : Nat := 0x7021

/-- Entries 1000 to 10FF. -/
def entries10 : List Entry := [
  ⟨0x1000, 0, 0, .u32, .ro, [25700], .any, 0xffffffff⟩,
  ⟨0x1001, 0, 0, .u8, .ro, [69], .any, 0xff⟩,
  ⟨0x1002, 0, 0, .u8, .ro, [176], .any, 0xff⟩,
  ⟨0x1003, 0, 0, .u64, .ro, [0], .any, 0xffffffffffffffff⟩,
  ⟨0x1004, 0, 0, .domain, .ro, [0], .any, 0x0⟩,
  ⟨0x1005, 0, 0, .u32, .ro, [642140731], .any, 0xffffffff⟩,
  ⟨0x1006, 0, 0, .u32, .ro, [0], .any, 0xffffffff⟩]

/-- Entries 1100 to 11FF. -/
def entries11 : List Entry := [
  ⟨0x1100, 0, 0, .u8, .ro, [1], .any, 0xff⟩,
  ⟨0x1101, 0, 0, .epoch, .rw, [0], .any, 0xffffffffffffffff⟩,
  ⟨0x1102, 0, 0, .u16, .cmd, [0], .any, 0x1ff⟩,
  ⟨0x1103, 0, 0, .u16, .cmd, [0], .any, 0x1ff⟩,
  ⟨0x1104, 1, 1, .u8, .ro, [255], .any, 0xff⟩,
  ⟨0x1104, 2, 2, .epoch, .ro, [0], .any, 0xffffffffffffffff⟩,
  ⟨0x1104, 3, 3, .u8, .ro, [255], .any, 0xff⟩,
  ⟨0x1104, 4, 4, .epoch, .ro, [0], .any, 0xffffffffffffffff⟩,
  ⟨0x1105, 0, 0, .epoch, .ro, [0], .any, 0xffffffffffffffff⟩,
  ⟨0x1107, 0, 0, .u8, .rw, [1], (.oneOf [1, 2]), 0xff⟩,
  ⟨0x1108, 0, 0, .u32, .ro, [0], .any, 0xffffffff⟩,
  ⟨0x1110, 0, 0, .u64, .rwe, [3489660928], .any, 0xffffffffffffffff⟩,
  ⟨0x1111, 0, 0, .u16, .rwe, [14], (.between (1) (1120)), 0xffff⟩,
  ⟨0x1112, 0, 0, .u64, .rwe, [2952790016], .any, 0xffffffffffffffff⟩,
  ⟨0x1113, 0, 0, .u64, .rwe, [16777216], .any, 0xffffffffffffffff⟩,
  ⟨0x1120, 1, 4, .u32, .rwe, [20], (.between (0) (100000)), 0xffffffff⟩,
  ⟨0x1121, 0, 0, .u32, .rwe, [20], (.between (0) (1000000)), 0xffffffff⟩,
  ⟨0x1122, 0, 0, .domain, .rwe, [0], .any, 0x0⟩,
  ⟨0x1123, 0, 0, .u8, .rwe, [0], (.between (0) (3)), 0xff⟩,
  ⟨0x1124, 0, 0, .u8, .rwe, [3], (.between (0) (5)), 0xff⟩,
  ⟨0x1125, 0, 0, .u8, .rwe, [5], (.between (1) (5)), 0xff⟩,
  ⟨0x1126, 1, 4, .u8, .ro, [0], .any, 0xff⟩,
  ⟨0x1127, 0, 0, .u8, .ro, [0], .any, 0xff⟩,
  ⟨0x1128, 0, 0, .bool, .rw, [0], .any, 0xff⟩,
  ⟨0x1129, 0, 0, .u32, .rw, [60000], (.between (1000) (86400000)), 0xffffffff⟩,
  ⟨0x112A, 1, 4, .u32, .ro, [0], .any, 0xffffffff⟩,
  ⟨0x112B, 0, 0, .bool, .cmd, [0], .any, 0xff⟩]

/-- Entries 1200 to 12FF. -/
def entries12 : List Entry := [
  ⟨0x1200, 0, 0, .epoch, .ro, [0], .any, 0xffffffffffffffff⟩,
  ⟨0x1201, 0, 0, .u8, .rwe, [1], (.oneOf [0, 1, 2]), 0xff⟩,
  ⟨0x1203, 0, 0, .u8, .rwe, [0], (.oneOf [0, 1, 2]), 0xff⟩,
  ⟨0x1204, 0, 0, .u8, .ro, [1], .any, 0xff⟩,
  ⟨0x1205, 0, 0, .i32, .ro, [0], .any, 0xffffffff⟩,
  ⟨0x1206, 0, 0, .i32, .rwe, [0], (.between (-1000000) (1000000)), 0xffffffff⟩,
  ⟨0x1207, 0, 0, .u8, .rw, [0], (.oneOf [0, 1, 2]), 0xff⟩,
  ⟨0x1208, 0, 0, .u32, .rw, [0], .any, 0xffff03ff⟩,
  ⟨0x1209, 0, 0, .bool, .cmd, [0], .any, 0xff⟩,
  ⟨0x1210, 0, 0, .u32, .ro, [0], .any, 0xffffffff⟩,
  ⟨0x1211, 0, 0, .u32, .ro, [0], .any, 0xffffffff⟩,
  ⟨0x1212, 0, 0, .u32, .ro, [0], .any, 0xffffffff⟩,
  ⟨0x1213, 0, 0, .u16, .rw, [140], (.between (0) (14000)), 0xffff⟩,
  ⟨0x1214, 1, 8, .epoch, .ro, [0], .any, 0xffffffffffffffff⟩,
  ⟨0x1215, 0, 0, .epoch, .ro, [0], .any, 0xffffffffffffffff⟩,
  ⟨0x1216, 0, 0, .u8, .ro, [0], .any, 0xff⟩]

/-- Entries 1400 to 14FF. -/
def entries14 : List Entry := [
  ⟨0x1400, 0, 0, .u32, .ro, [0], .any, 0xffffffff⟩,
  ⟨0x1401, 1, 1, .u8, .ro, [0], .any, 0xff⟩,
  ⟨0x1401, 2, 2, .u8, .ro, [0], .any, 0xff⟩,
  ⟨0x1401, 3, 3, .u16, .ro, [0], .any, 0xffff⟩,
  ⟨0x1401, 4, 4, .u8, .ro, [0], .any, 0xff⟩,
  ⟨0x1401, 5, 5, .u32, .ro, [0], .any, 0xffffffff⟩,
  ⟨0x1401, 6, 6, .epoch, .ro, [0], .any, 0xffffffffffffffff⟩,
  ⟨0x1401, 7, 7, .u8, .ro, [0], .any, 0xff⟩,
  ⟨0x1402, 0, 0, .u32, .ro, [0], .any, 0xffffffff⟩,
  ⟨0x1403, 0, 0, .u16, .ro, [0], .any, 0xffff⟩,
  ⟨0x1404, 1, 1, .u16, .ro, [0], .any, 0xffff⟩,
  ⟨0x1404, 2, 2, .u32, .ro, [0], .any, 0xffffffff⟩,
  ⟨0x1406, 0, 0, .u8, .ro, [0], .any, 0xff⟩,
  ⟨0x1407, 0, 0, .bool, .cmd, [0], .any, 0xff⟩,
  ⟨0x1408, 0, 0, .u32, .ro, [0], .any, 0xffffffff⟩,
  ⟨0x1409, 0, 0, .u8, .ro, [0], .any, 0xff⟩,
  ⟨0x140A, 0, 0, .u16, .rw, [100], (.between (1) (10000)), 0xffff⟩,
  ⟨0x140B, 0, 0, .u16, .rw, [10], (.between (1) (1000)), 0xffff⟩,
  ⟨0x1410, 0, 0, .u8, .rw, [1], (.oneOf [0, 1]), 0xff⟩,
  ⟨0x1411, 0, 0, .u16, .ro, [0], .any, 0xffff⟩,
  ⟨0x1412, 0, 0, .u32, .ro, [0], .any, 0xffffffff⟩,
  ⟨0x1413, 0, 0, .domain, .ro, [0], .any, 0x0⟩,
  ⟨0x1414, 0, 0, .u16, .wo, [0], (.between (1) (64)), 0xffff⟩,
  ⟨0x1415, 0, 0, .bool, .rw, [1], .any, 0xff⟩]

/-- Entries 2000 to 20FF. -/
def entries20 : List Entry := [
  ⟨0x2000, 0, 0, .u32, .rwe, [3500000], (.between (3300000) (5000000)), 0xffffffff⟩,
  ⟨0x2001, 1, 4, .u8, .ro, [0], .any, 0xff⟩,
  ⟨0x2002, 1, 4, .u8, .ro, [0, 1, 2, 3], .any, 0xff⟩,
  ⟨0x2003, 1, 4, .u8, .rwe, [1, 0, 3, 2], .any, 0xff⟩,
  ⟨0x2004, 1, 4, .u32, .ro, [0], .any, 0xffffffff⟩,
  ⟨0x2005, 1, 4, .u8, .ro, [0], .any, 0xff⟩,
  ⟨0x2006, 1, 4, .u8, .rwe, [2], (.oneOf [1, 2]), 0xff⟩,
  ⟨0x2007, 1, 4, .u32, .ro, [0], .any, 0xffffffff⟩,
  ⟨0x2008, 1, 4, .u32, .ro, [0], .any, 0xffffffff⟩,
  ⟨0x2010, 0, 0, .u8, .rwe, [20], (.between (1) (80)), 0xff⟩,
  ⟨0x2011, 0, 0, .domain, .rwe, [0], .any, 0x0⟩,
  ⟨0x2012, 1, 4, .domain, .rwe, [0], .any, 0x0⟩,
  ⟨0x2013, 0, 0, .epoch, .ro, [0], .any, 0xffffffffffffffff⟩,
  ⟨0x2020, 1, 4, .u16, .rwe, [1000], (.between (0) (4000)), 0xffff⟩,
  ⟨0x2021, 1, 4, .u16, .rwe, [200], (.between (0) (2000)), 0xffff⟩,
  ⟨0x2022, 1, 4, .u16, .rwe, [500], (.between (0) (4000)), 0xffff⟩,
  ⟨0x2023, 1, 4, .u16, .rwe, [0], (.between (0) (2000)), 0xffff⟩,
  ⟨0x2030, 1, 64, .u8, .rwe, [3], .any, 0x3⟩]

/-- Entries 2100 to 21FF. -/
def entries21 : List Entry := [
  ⟨0x2100, 1, 64, .u8, .ro, [63], .any, 0xff⟩,
  ⟨0x2101, 1, 64, .i16, .ro, [0], .any, 0xffff⟩,
  ⟨0x2102, 1, 64, .u8, .rwe, [2], (.oneOf [0, 1, 2]), 0xff⟩,
  ⟨0x2103, 1, 64, .u32, .rwe, [63], .any, 0xffff003f⟩,
  ⟨0x2104, 1, 64, .i16, .rwe, [0], (.between (-1000) (5000)), 0xffff⟩,
  ⟨0x2105, 1, 64, .i16, .ro, [0], .any, 0xffff⟩,
  ⟨0x2106, 1, 64, .i16, .ro, [0], .any, 0xffff⟩,
  ⟨0x2107, 1, 64, .i16, .ro, [0], .any, 0xffff⟩,
  ⟨0x2108, 1, 64, .i16, .rwe, [65236], (.between (-1000) (0)), 0xffff⟩,
  ⟨0x2109, 1, 64, .i16, .rwe, [300], (.between (0) (1000)), 0xffff⟩,
  ⟨0x210A, 1, 64, .u16, .rwe, [25], (.between (1) (300)), 0xffff⟩,
  ⟨0x2110, 1, 8, .i16, .rwe, [65136, 65336, 0, 200, 400, 600, 800, 1000], (.between (-550) (1500)), 0xffff⟩,
  ⟨0x2111, 1, 4, .u16, .rwe, [24000, 28000, 32000, 36000], (.between (0) (60000)), 0xffff⟩,
  ⟨0x2112, 0, 0, .domain, .rwe, [0], .any, 0x0⟩,
  ⟨0x2113, 1, 64, .u16, .rwe, [0], (.between (0) (1000)), 0xffff⟩,
  ⟨0x2114, 1, 64, .u8, .ro, [0], .any, 0xff⟩,
  ⟨0x2115, 1, 64, .i16, .rwe, [3000], (.between (-1000) (6000)), 0xffff⟩,
  ⟨0x2116, 1, 64, .i16, .rwe, [3000], (.between (-1000) (6000)), 0xffff⟩]

/-- Entries 2200 to 22FF. -/
def entries22 : List Entry := [
  ⟨0x2200, 1, 64, .u8, .rwe, [1], (.oneOf [0, 1]), 0xff⟩,
  ⟨0x2201, 1, 64, .u8, .rwe, [20], (.between (0) (30)), 0xff⟩,
  ⟨0x2202, 1, 64, .u8, .ro, [20], .any, 0xff⟩,
  ⟨0x2203, 0, 0, .u8, .rwe, [30], (.between (0) (30)), 0xff⟩,
  ⟨0x2204, 1, 64, .i16, .rwe, [63736], (.between (-3000) (-600)), 0xffff⟩,
  ⟨0x2205, 1, 64, .u8, .rwe, [0], (.between (0) (30)), 0xff⟩,
  ⟨0x2206, 1, 64, .u8, .rwe, [30], (.between (0) (30)), 0xff⟩,
  ⟨0x2207, 1, 64, .u8, .rwe, [6], (.between (1) (30)), 0xff⟩,
  ⟨0x2208, 0, 0, .u16, .rwe, [16], (.between (0) (65535)), 0xffff⟩,
  ⟨0x2209, 1, 64, .u32, .ro, [0], .any, 0xffffffff⟩,
  ⟨0x220A, 1, 64, .cplx16, .ro, [0], .any, 0xffffffff⟩,
  ⟨0x220B, 0, 0, .bool, .rwe, [1], .any, 0xff⟩,
  ⟨0x220C, 1, 64, .u16, .ro, [32896], .any, 0xffff⟩]

/-- Entries 2300 to 23FF. -/
def entries23 : List Entry := [
  ⟨0x2300, 1, 64, .u8, .rwe, [0], (.oneOf [0, 1]), 0xff⟩,
  ⟨0x2301, 1, 64, .u16, .rwe, [0], (.between (0) (4095)), 0xffff⟩,
  ⟨0x2302, 1, 64, .u16, .rwe, [0], (.between (0) (4095)), 0xffff⟩,
  ⟨0x2303, 1, 64, .u16, .rwe, [4095], (.between (0) (4095)), 0xffff⟩,
  ⟨0x2304, 1, 64, .u16, .rwe, [16], (.between (1) (512)), 0xffff⟩,
  ⟨0x2305, 1, 64, .u16, .ro, [0], .any, 0xffff⟩,
  ⟨0x2306, 1, 64, .u16, .ro, [0], .any, 0xffff⟩,
  ⟨0x2307, 0, 0, .u16, .rwe, [1000], (.between (300) (2500)), 0xffff⟩,
  ⟨0x2308, 1, 64, .bool, .ro, [0], .any, 0xff⟩,
  ⟨0x2309, 0, 0, .u8, .rwe, [0], (.oneOf [0, 1, 2]), 0xff⟩,
  ⟨0x230A, 0, 0, .u16, .rwe, [300], (.between (0) (2000)), 0xffff⟩]

/-- Entries 3000 to 30FF. -/
def entries30 : List Entry := [
  ⟨0x3000, 0, 0, .u8, .rwe, [1], (.between (1) (4)), 0xff⟩,
  ⟨0x3001, 1, 4, .u8, .rwe, [100], (.oneOf [5, 10, 15, 20, 25, 30, 40, 50, 60, 70, 80, 90, 100]), 0xff⟩,
  ⟨0x3002, 1, 4, .u16, .rwe, [273], (.between (1) (273)), 0xffff⟩,
  ⟨0x3003, 1, 4, .i32, .rwe, [0], (.between (-150000) (150000)), 0xffffffff⟩,
  ⟨0x3004, 1, 4, .u16, .ro, [4096, 0, 0, 0], .any, 0xffff⟩,
  ⟨0x3005, 1, 4, .u8, .ro, [2, 255, 255, 255], .any, 0xff⟩,
  ⟨0x3006, 1, 4, .i16, .rwe, [0], (.between (-3000) (0)), 0xffff⟩,
  ⟨0x3007, 1, 4, .u16, .rwe, [0], (.between (0) (144)), 0xffff⟩,
  ⟨0x3008, 0, 0, .u16, .ro, [3276], .any, 0xffff⟩,
  ⟨0x3010, 0, 0, .domain, .rwe, [0], .any, 0x0⟩,
  ⟨0x3011, 0, 0, .domain, .rwe, [0], .any, 0x0⟩,
  ⟨0x3012, 0, 0, .u8, .rwe, [0], (.between (0) (7)), 0xff⟩,
  ⟨0x3013, 0, 0, .u8, .rwe, [0], (.between (0) (7)), 0xff⟩,
  ⟨0x3014, 1, 2, .u32, .ro, [0], .any, 0xffffffff⟩,
  ⟨0x3015, 1, 4, .u32, .ro, [0], .any, 0xffffffff⟩,
  ⟨0x3016, 1, 2, .u32, .ro, [0], .any, 0xffffffff⟩,
  ⟨0x3020, 0, 0, .u8, .rwe, [255], (.oneOf [0, 1, 255]), 0xff⟩,
  ⟨0x3021, 0, 0, .u8, .rwe, [255], (.oneOf [2, 3, 255]), 0xff⟩,
  ⟨0x3022, 1, 4, .u8, .ro, [0], .any, 0xff⟩,
  ⟨0x3023, 1, 4, .domain, .ro, [0], .any, 0x0⟩,
  ⟨0x3024, 0, 0, .u8, .cmd, [0], (.oneOf [0, 1, 2, 3, 16, 17, 18, 19, 20, 21, 22, 23, 24, 25, 26, 27, 28, 29, 30, 31]), 0xff⟩,
  ⟨0x3030, 1, 16, .u32, .rwe, [4294967295], .any, 0xffffffff⟩,
  ⟨0x3031, 1, 16, .u8, .ro, [0], .any, 0xff⟩,
  ⟨0x3040, 0, 0, .domain, .rwe, [0], .any, 0x0⟩,
  ⟨0x3041, 1, 8, .u32, .ro, [0], .any, 0xffffffff⟩]

/-- Entries 3400 to 34FF. -/
def entries34 : List Entry := [
  ⟨0x3400, 0, 0, .domain, .rwe, [0], .any, 0x0⟩,
  ⟨0x3401, 0, 0, .u32, .ro, [0], .any, 0xffffffff⟩,
  ⟨0x3402, 0, 0, .u32, .ro, [0], .any, 0xffffffff⟩,
  ⟨0x3403, 0, 0, .u32, .ro, [0], .any, 0xffffffff⟩,
  ⟨0x3410, 0, 0, .u16, .ro, [4096], .any, 0xffff⟩,
  ⟨0x3411, 0, 0, .u64, .ro, [0], .any, 0xffffffffffffffff⟩,
  ⟨0x3412, 0, 0, .u32, .rw, [1400], (.between (1) (1000000)), 0xffffffff⟩,
  ⟨0x3413, 0, 0, .u16, .rw, [0], .any, 0xffff⟩,
  ⟨0x3414, 0, 0, .domain, .ro, [0], .any, 0x0⟩,
  ⟨0x3415, 0, 0, .u16, .cmd, [0], .any, 0xffff⟩,
  ⟨0x3416, 0, 0, .u16, .cmd, [0], .any, 0xffff⟩,
  ⟨0x3420, 0, 0, .domain, .cmd, [0], .any, 0x0⟩,
  ⟨0x3421, 0, 0, .u16, .cmd, [0], .any, 0xffff⟩,
  ⟨0x3422, 0, 0, .u8, .ro, [0], .any, 0xff⟩,
  ⟨0x3423, 0, 0, .domain, .ro, [0], .any, 0x0⟩,
  ⟨0x3424, 0, 0, .u32, .ro, [0], .any, 0xffffffff⟩,
  ⟨0x3426, 1, 2, .u32, .ro, [0], .any, 0xffffffff⟩,
  ⟨0x3427, 0, 0, .u16, .rw, [2000], (.between (100) (10000)), 0xffff⟩,
  ⟨0x3428, 0, 0, .u32, .ro, [0], .any, 0xffffffff⟩,
  ⟨0x3429, 0, 0, .u32, .ro, [0], .any, 0xffffffff⟩]

/-- Entries 3800 to 38FF. -/
def entries38 : List Entry := [
  ⟨0x3800, 1, 64, .u8, .rwe, [1], (.oneOf [0, 1, 2]), 0xff⟩,
  ⟨0x3801, 0, 0, .u32, .rwe, [2522030623], .any, 0xffffffff⟩,
  ⟨0x3802, 0, 0, .u8, .ro, [100], .any, 0xff⟩,
  ⟨0x3803, 0, 0, .domain, .rwe, [0], .any, 0x0⟩,
  ⟨0x3804, 0, 0, .u8, .rw, [0], (.between (0) (63)), 0xff⟩,
  ⟨0x3805, 0, 0, .domain, .ro, [0], .any, 0x0⟩,
  ⟨0x3810, 0, 0, .domain, .rwe, [0], .any, 0x0⟩,
  ⟨0x3820, 1, 4, .u16, .rwe, [1000], (.between (250) (16000)), 0xffff⟩,
  ⟨0x3821, 0, 0, .u16, .rwe, [4000], (.between (512) (4094)), 0xffff⟩,
  ⟨0x3822, 0, 0, .q15, .rwe, [16384], (.between (1) (32767)), 0xffff⟩,
  ⟨0x3823, 0, 0, .float32, .rwe, [953267991], .any, 0xffffffff⟩,
  ⟨0x3824, 0, 0, .u16, .rwe, [300], (.between (0) (2000)), 0xffff⟩,
  ⟨0x3825, 0, 0, .i16, .rwe, [62036], (.between (-6000) (0)), 0xffff⟩,
  ⟨0x3828, 1, 64, .i16, .rwe, [65236], (.between (-2000) (0)), 0xffff⟩,
  ⟨0x3829, 1, 64, .i16, .rwe, [600], (.between (0) (1200)), 0xffff⟩,
  ⟨0x382A, 1, 64, .u16, .rwe, [50], (.between (1) (600)), 0xffff⟩,
  ⟨0x382B, 1, 64, .u16, .rwe, [500], (.between (1) (18000)), 0xffff⟩,
  ⟨0x3830, 0, 0, .u64, .rwe, [4219469824], .any, 0xffffffffffffffff⟩,
  ⟨0x3831, 1, 64, .i16, .ro, [0], .any, 0xffff⟩,
  ⟨0x3832, 1, 64, .i16, .ro, [0], .any, 0xffff⟩,
  ⟨0x3833, 1, 64, .u8, .ro, [0], .any, 0xff⟩,
  ⟨0x3834, 1, 64, .u32, .ro, [0], .any, 0xffffffff⟩,
  ⟨0x3835, 1, 64, .epoch, .ro, [0], .any, 0xffffffffffffffff⟩,
  ⟨0x3836, 1, 64, .u32, .ro, [0], .any, 0xffffffff⟩,
  ⟨0x3837, 1, 4, .u32, .ro, [0], .any, 0xffffffff⟩,
  ⟨0x3838, 1, 64, .u32, .ro, [0], .any, 0xffffffff⟩,
  ⟨0x3839, 0, 0, .u8, .cmd, [0], (.oneOf [0, 1, 2, 3, 4, 5, 6, 7, 8, 9, 10, 11, 12, 13, 14, 15, 16, 17, 18, 19, 20, 21, 22, 23, 24, 25, 26, 27, 28, 29, 30, 31, 32, 33, 34, 35, 36, 37, 38, 39, 40, 41, 42, 43, 44, 45, 46, 47, 48, 49, 50, 51, 52, 53, 54, 55, 56, 57, 58, 59, 60, 61, 62, 63, 255]), 0xff⟩,
  ⟨0x3840, 1, 64, .u8, .ro, [0], .any, 0xff⟩,
  ⟨0x3841, 1, 7, .u32, .ro, [0], .any, 0xffffffff⟩]

/-- Entries 3C00 to 3CFF. -/
def entries3C : List Entry := [
  ⟨0x3C00, 0, 0, .domain, .rwe, [0], .any, 0x0⟩,
  ⟨0x3C01, 0, 0, .u8, .rwe, [0], (.oneOf [0, 1]), 0xff⟩,
  ⟨0x3C02, 0, 0, .u16, .rwe, [65280], .any, 0xffff⟩,
  ⟨0x3C03, 1, 8, .u8, .ro, [255], .any, 0xff⟩,
  ⟨0x3C05, 1, 64, .i16, .rwe, [63036], (.between (-10000) (0)), 0xffff⟩,
  ⟨0x3C10, 0, 0, .u8, .rwe, [255], (.oneOf [0, 1, 255]), 0xff⟩,
  ⟨0x3C11, 1, 2, .u8, .ro, [0], .any, 0xff⟩,
  ⟨0x3C12, 0, 0, .u64, .rwe, [4211081216], .any, 0xffffffffffffffff⟩,
  ⟨0x3C13, 0, 0, .u8, .cmd, [0], (.oneOf [0, 1]), 0xff⟩,
  ⟨0x3C14, 0, 0, .domain, .cmd, [0], .any, 0x0⟩,
  ⟨0x3C15, 0, 0, .u8, .ro, [0], .any, 0xff⟩,
  ⟨0x3C20, 0, 0, .domain, .rwe, [0], .any, 0x0⟩,
  ⟨0x3C21, 0, 0, .u8, .rwe, [0], (.oneOf [0, 1]), 0xff⟩,
  ⟨0x3C22, 1, 64, .i16, .rwe, [64936], (.between (-2000) (0)), 0xffff⟩,
  ⟨0x3C23, 1, 64, .i16, .rwe, [600], (.between (0) (2000)), 0xffff⟩,
  ⟨0x3C24, 1, 64, .q15, .rwe, [8192], (.between (1) (32767)), 0xffff⟩,
  ⟨0x3C30, 1, 64, .i16, .ro, [0], .any, 0xffff⟩,
  ⟨0x3C31, 1, 64, .i16, .ro, [0], .any, 0xffff⟩,
  ⟨0x3C32, 1, 64, .i16, .ro, [0], .any, 0xffff⟩,
  ⟨0x3C33, 1, 64, .i16, .ro, [0], .any, 0xffff⟩,
  ⟨0x3C34, 0, 0, .u16, .rwe, [200], (.between (10) (2000)), 0xffff⟩,
  ⟨0x3C35, 0, 0, .u8, .rwe, [0], (.oneOf [0, 1]), 0xff⟩,
  ⟨0x3C36, 1, 64, .u32, .ro, [0], .any, 0xffffffff⟩,
  ⟨0x3C37, 1, 64, .u8, .ro, [0], .any, 0xff⟩]

/-- Entries 4000 to 40FF. -/
def entries40 : List Entry := [
  ⟨0x4000, 0, 0, .u64, .ro, [281474976710655], .any, 0xffffffffffffffff⟩,
  ⟨0x4001, 0, 0, .u8, .rwe, [2], (.between (0) (2)), 0xff⟩,
  ⟨0x4002, 0, 0, .u64, .ro, [211106232532992], .any, 0xffffffffffffffff⟩,
  ⟨0x4003, 0, 0, .u64, .ro, [0], .any, 0xffffffffffffffff⟩,
  ⟨0x4004, 0, 0, .u8, .cmd, [0], (.between (0) (47)), 0xff⟩,
  ⟨0x4005, 1, 48, .u8, .ro, [0], .any, 0xff⟩,
  ⟨0x4006, 1, 48, .u32, .ro, [0], .any, 0xffffffff⟩,
  ⟨0x4007, 1, 48, .u32, .ro, [0], .any, 0xffffffff⟩,
  ⟨0x4008, 0, 0, .u8, .ro, [0], .any, 0xff⟩,
  ⟨0x4010, 0, 0, .u8, .rwe, [0], (.between (0) (46)), 0xff⟩,
  ⟨0x4020, 0, 0, .domain, .wo, [0], .any, 0x0⟩,
  ⟨0x4021, 1, 32, .u32, .ro, [0], .any, 0xffffffff⟩,
  ⟨0x4022, 0, 0, .u8, .cmd, [0], (.between (16) (31)), 0xff⟩,
  ⟨0x4030, 0, 0, .domain, .cmd, [0], .any, 0x0⟩,
  ⟨0x4031, 0, 0, .u16, .cmd, [0], .any, 0xffff⟩,
  ⟨0x4032, 0, 0, .u8, .ro, [0], .any, 0xff⟩,
  ⟨0x4033, 0, 0, .domain, .ro, [0], .any, 0x0⟩]

/-- Entries 4400 to 44FF. -/
def entries44 : List Entry := [
  ⟨0x4400, 0, 0, .bool, .rwe, [0], .any, 0xff⟩,
  ⟨0x4401, 0, 0, .u8, .ro, [0], .any, 0xff⟩,
  ⟨0x4402, 0, 0, .u8, .rwe, [0], (.between (0) (63)), 0xff⟩,
  ⟨0x4403, 1, 2, .u8, .rwe, [1, 2], (.between (0) (63)), 0xff⟩,
  ⟨0x4404, 0, 0, .u8, .ro, [0], .any, 0xff⟩,
  ⟨0x4405, 0, 0, .u32, .rwe, [3500000], (.between (3300000) (5000000)), 0xffffffff⟩,
  ⟨0x4406, 0, 0, .u8, .rwe, [2], .any, 0x7⟩,
  ⟨0x4407, 0, 0, .i16, .rwe, [64536], (.between (-3000) (600)), 0xffff⟩,
  ⟨0x4408, 0, 0, .u8, .rwe, [2], (.oneOf [1, 2, 3]), 0xff⟩,
  ⟨0x4410, 0, 0, .q15, .rwe, [16384], (.between (8192) (32767)), 0xffff⟩,
  ⟨0x4411, 0, 0, .u16, .rwe, [600], (.between (0) (2000)), 0xffff⟩,
  ⟨0x4412, 0, 0, .bool, .rwe, [0], .any, 0xff⟩,
  ⟨0x4413, 0, 0, .u8, .rwe, [4], (.between (4) (16)), 0xff⟩,
  ⟨0x4414, 0, 0, .u32, .rwe, [1513920225], .any, 0xffffffff⟩,
  ⟨0x4415, 0, 0, .u8, .rwe, [2], (.between (0) (6)), 0xff⟩,
  ⟨0x4416, 0, 0, .u16, .rwe, [2048], (.oneOf [256, 512, 768, 1024, 1280, 1536, 1792, 2048]), 0xffff⟩,
  ⟨0x4417, 0, 0, .bool, .rwe, [0], .any, 0xff⟩,
  ⟨0x4418, 0, 0, .u16, .rwe, [2000], (.between (1) (10000)), 0xffff⟩,
  ⟨0x4419, 0, 0, .u16, .rwe, [20000], (.between (0) (50000)), 0xffff⟩,
  ⟨0x441A, 0, 0, .i32, .ro, [0], .any, 0xffffffff⟩,
  ⟨0x441B, 0, 0, .i32, .ro, [0], .any, 0xffffffff⟩,
  ⟨0x4420, 0, 0, .domain, .rwe, [0], .any, 0x0⟩,
  ⟨0x4430, 0, 0, .domain, .cmd, [0], .any, 0x0⟩,
  ⟨0x4431, 0, 0, .bool, .cmd, [0], .any, 0xff⟩,
  ⟨0x4432, 0, 0, .u8, .cmd, [0], (.oneOf [0, 1, 2, 3, 4, 5, 6, 7, 255]), 0xff⟩,
  ⟨0x4433, 0, 0, .u8, .ro, [0], .any, 0xff⟩,
  ⟨0x4434, 0, 0, .u64, .ro, [0], .any, 0xffffffffffffffff⟩,
  ⟨0x4440, 1, 13, .u32, .ro, [0], .any, 0xffffffff⟩,
  ⟨0x4441, 0, 0, .u64, .ro, [0], .any, 0xffffffffffffffff⟩]

/-- Entries 4800 to 48FF. -/
def entries48 : List Entry := [
  ⟨0x4800, 0, 0, .bool, .ro, [0], .any, 0xff⟩,
  ⟨0x4801, 0, 0, .u32, .ro, [0], .any, 0xffffffff⟩,
  ⟨0x4802, 0, 0, .bool, .cmd, [0], .any, 0xff⟩,
  ⟨0x4803, 0, 0, .u32, .ro, [0], .any, 0xffffffff⟩,
  ⟨0x4810, 0, 0, .domain, .cmd, [0], .any, 0x0⟩,
  ⟨0x4811, 0, 0, .bool, .cmd, [0], .any, 0xff⟩,
  ⟨0x4812, 0, 0, .u8, .ro, [0], .any, 0xff⟩,
  ⟨0x4813, 0, 0, .u8, .rwe, [0], (.oneOf [0, 1]), 0xff⟩,
  ⟨0x4814, 1, 4, .u16, .rwe, [100, 100, 5, 500], (.between (1) (10000)), 0xffff⟩,
  ⟨0x4814, 5, 5, .u16, .rwe, [500], (.between (10) (10000)), 0xffff⟩,
  ⟨0x4815, 0, 0, .i16, .rwe, [2000], (.between (0) (6000)), 0xffff⟩,
  ⟨0x4816, 0, 0, .u32, .rwe, [16000], (.between (0) (100000)), 0xffffffff⟩,
  ⟨0x4817, 1, 64, .u16, .rwe, [0], (.between (0) (20000)), 0xffff⟩,
  ⟨0x4818, 1, 64, .u16, .rwe, [0], (.between (0) (20000)), 0xffff⟩,
  ⟨0x4820, 0, 0, .domain, .rwe, [0], .any, 0x0⟩,
  ⟨0x4821, 0, 0, .u16, .rwe, [50], (.between (10) (300)), 0xffff⟩,
  ⟨0x4822, 1, 4, .i16, .ro, [0], .any, 0xffff⟩,
  ⟨0x4823, 0, 0, .bool, .rwe, [0], .any, 0xff⟩,
  ⟨0x4824, 0, 0, .u16, .rwe, [200], (.between (1) (20000)), 0xffff⟩,
  ⟨0x4825, 0, 0, .u8, .rwe, [3], (.oneOf [1, 2, 3]), 0xff⟩,
  ⟨0x4826, 0, 0, .u8, .ro, [0], .any, 0xff⟩,
  ⟨0x4830, 0, 0, .domain, .ro, [0], .any, 0x0⟩,
  ⟨0x4831, 0, 0, .domain, .ro, [0], .any, 0x0⟩,
  ⟨0x4840, 1, 4, .u32, .ro, [0], .any, 0xffffffff⟩,
  ⟨0x4841, 1, 4, .epoch, .ro, [0], .any, 0xffffffffffffffff⟩,
  ⟨0x4842, 1, 4, .u64, .ro, [0], .any, 0xffffffffffffffff⟩,
  ⟨0x4843, 0, 0, .u64, .rw, [0], .any, 0xffffffffffffffff⟩,
  ⟨0x4850, 0, 0, .u32, .rwe, [8388608], .any, 0xffffffff⟩,
  ⟨0x4851, 0, 0, .u8, .cmd, [0], .any, 0xff⟩,
  ⟨0x4852, 0, 0, .u8, .rw, [0], .any, 0x7⟩,
  ⟨0x4853, 1, 2, .u32, .ro, [0], .any, 0xffffffff⟩,
  ⟨0x4854, 1, 2, .u8, .ro, [0], .any, 0xff⟩,
  ⟨0x4855, 0, 0, .u8, .ro, [255], .any, 0xff⟩,
  ⟨0x4856, 0, 0, .u8, .ro, [0], .any, 0xff⟩,
  ⟨0x4857, 0, 0, .u16, .rw, [5000], (.between (100) (60000)), 0xffff⟩]

/-- Entries 5000 to 50FF, part 1. -/
def entries50a : List Entry := [
  ⟨0x5000, 1, 2, .u8, .ro, [0], .any, 0xff⟩,
  ⟨0x5001, 1, 2, .bool, .rw, [1], .any, 0xff⟩,
  ⟨0x5002, 0, 0, .domain, .rw, [0], .any, 0x0⟩,
  ⟨0x5003, 1, 2, .u8, .ro, [0], .any, 0xff⟩,
  ⟨0x5004, 1, 2, .bool, .cmd, [0], .any, 0xff⟩,
  ⟨0x5005, 1, 2, .u32, .ro, [0], .any, 0xffffffff⟩,
  ⟨0x5006, 1, 2, .u32, .ro, [0], .any, 0xffffffff⟩,
  ⟨0x5007, 1, 2, .epoch, .ro, [0], .any, 0xffffffffffffffff⟩,
  ⟨0x5008, 1, 2, .u8, .ro, [0], .any, 0xff⟩,
  ⟨0x5009, 1, 2, .u32, .ro, [0], .any, 0xffffffff⟩,
  ⟨0x5010, 1, 18, .u8, .ro, [0], .any, 0xff⟩,
  ⟨0x5011, 1, 18, .u32, .ro, [0], .any, 0xffffffff⟩,
  ⟨0x5012, 1, 18, .u32, .ro, [0], .any, 0xffffffff⟩,
  ⟨0x5013, 1, 2, .u32, .ro, [0], .any, 0xffffffff⟩,
  ⟨0x5014, 1, 2, .u32, .ro, [0], .any, 0xffffffff⟩,
  ⟨0x5015, 0, 0, .u16, .rw, [16], (.between (1) (65535)), 0xffff⟩,
  ⟨0x5016, 0, 0, .u32, .rw, [65536], (.between (256) (16777216)), 0xffffffff⟩,
  ⟨0x5017, 0, 0, .bool, .rw, [1], .any, 0xff⟩,
  ⟨0x5018, 1, 2, .domain, .ro, [0], .any, 0x0⟩,
  ⟨0x5019, 1, 2, .u16, .ro, [0], .any, 0xffff⟩,
  ⟨0x501A, 1, 18, .u8, .ro, [0], .any, 0xff⟩,
  ⟨0x501B, 0, 0, .u8, .ro, [1], .any, 0xff⟩,
  ⟨0x5020, 1, 2, .u32, .ro, [0], .any, 0xffffffff⟩,
  ⟨0x5021, 1, 2, .u32, .ro, [0], .any, 0xffffffff⟩,
  ⟨0x5022, 1, 2, .u32, .ro, [0], .any, 0xffffffff⟩,
  ⟨0x5023, 1, 2, .u32, .ro, [0], .any, 0xffffffff⟩,
  ⟨0x5024, 1, 2, .u32, .ro, [0], .any, 0xffffffff⟩,
  ⟨0x5025, 1, 2, .u32, .ro, [0], .any, 0xffffffff⟩,
  ⟨0x5026, 0, 0, .u32, .ro, [0], .any, 0xffffffff⟩,
  ⟨0x5027, 1, 2, .u32, .ro, [0], .any, 0xffffffff⟩,
  ⟨0x5028, 1, 2, .u32, .ro, [0], .any, 0xffffffff⟩,
  ⟨0x5029, 1, 2, .u32, .ro, [0], .any, 0xffffffff⟩,
  ⟨0x5030, 0, 0, .u32, .ro, [0], .any, 0xffffffff⟩,
  ⟨0x5031, 0, 0, .u32, .ro, [0], .any, 0xffffffff⟩,
  ⟨0x5032, 0, 0, .u32, .ro, [0], .any, 0xffffffff⟩,
  ⟨0x5033, 0, 0, .u32, .ro, [0], .any, 0xffffffff⟩,
  ⟨0x5034, 0, 0, .u16, .rw, [10], (.between (1) (1000)), 0xffff⟩,
  ⟨0x5035, 1, 2, .i32, .ro, [0], .any, 0xffffffff⟩,
  ⟨0x5036, 1, 2, .i32, .rw, [0], (.between (-1000000) (1000000)), 0xffffffff⟩,
  ⟨0x5037, 1, 2, .u32, .ro, [0], .any, 0xffffffff⟩]

/-- Entries 5000 to 50FF, part 2. -/
def entries50b : List Entry := [
  ⟨0x5038, 1, 2, .u32, .ro, [0], .any, 0xffffffff⟩,
  ⟨0x5039, 1, 2, .u16, .rw, [2048], (.oneOf [1024, 2048, 4096]), 0xffff⟩,
  ⟨0x503A, 1, 2, .u16, .rw, [0], .any, 0xffff⟩,
  ⟨0x503B, 1, 2, .u32, .ro, [0], .any, 0xffffffff⟩]

/-- Entries 5000 to 50FF. -/
def entries50 : List Entry := entries50a ++ entries50b

/-- Entries 5400 to 54FF. -/
def entries54 : List Entry := [
  ⟨0x5400, 0, 0, .u64, .ro, [4294967296], .any, 0xffffffffffffffff⟩,
  ⟨0x5401, 1, 6, .u64, .rwe, [0, 2415919104, 2952790016, 4026531840, 4160749568, 4227858432], .any, 0xffffffffffffffff⟩,
  ⟨0x5402, 1, 6, .u64, .rwe, [2415919104, 536870912, 1073741824, 134217728, 67108864, 67108864], .any, 0xffffffffffffffff⟩,
  ⟨0x5403, 0, 0, .u8, .ro, [0], .any, 0xff⟩,
  ⟨0x5410, 1, 5, .u32, .ro, [0], .any, 0xffffffff⟩,
  ⟨0x5411, 1, 5, .u32, .ro, [0], .any, 0xffffffff⟩,
  ⟨0x5412, 0, 0, .u32, .ro, [0], .any, 0xffffffff⟩,
  ⟨0x5413, 0, 0, .domain, .ro, [0], .any, 0x0⟩,
  ⟨0x5414, 0, 0, .bool, .cmd, [0], .any, 0xff⟩,
  ⟨0x5415, 0, 0, .u32, .ro, [0], .any, 0xffffffff⟩,
  ⟨0x5416, 1, 5, .u32, .ro, [0], .any, 0xffffffff⟩,
  ⟨0x5420, 0, 0, .u32, .rw, [86400], (.zeroOr 60 604800), 0xffffffff⟩,
  ⟨0x5421, 0, 0, .u32, .ro, [0], .any, 0xffffffff⟩,
  ⟨0x5422, 0, 0, .u32, .ro, [0], .any, 0xffffffff⟩,
  ⟨0x5430, 0, 0, .u16, .ro, [0], .any, 0xffff⟩,
  ⟨0x5431, 0, 0, .u32, .ro, [0], .any, 0xffffffff⟩]

/-- Entries 5800 to 58FF. -/
def entries58 : List Entry := [
  ⟨0x5800, 0, 0, .u8, .ro, [16], .any, 0xff⟩,
  ⟨0x5801, 0, 0, .u16, .ro, [49152], .any, 0xffff⟩,
  ⟨0x5802, 1, 16, .u8, .ro, [0], .any, 0xff⟩,
  ⟨0x5803, 1, 16, .u8, .ro, [0], .any, 0xff⟩,
  ⟨0x5804, 1, 16, .u64, .ro, [0], .any, 0xffffffffffffffff⟩,
  ⟨0x5805, 1, 16, .u64, .ro, [0], .any, 0xffffffffffffffff⟩,
  ⟨0x5806, 1, 16, .u32, .rw, [65535], (.between (1) (16777215)), 0xffffffff⟩,
  ⟨0x5807, 1, 16, .u8, .rw, [0], .any, 0x1⟩,
  ⟨0x5808, 1, 16, .u32, .ro, [0], .any, 0xffffffff⟩,
  ⟨0x5809, 1, 16, .u64, .ro, [0], .any, 0xffffffffffffffff⟩,
  ⟨0x580A, 1, 16, .u32, .ro, [0], .any, 0xffffffff⟩,
  ⟨0x580B, 1, 16, .u64, .ro, [0], .any, 0xffffffffffffffff⟩,
  ⟨0x580C, 1, 16, .u8, .ro, [0], .any, 0xff⟩,
  ⟨0x580D, 1, 16, .u32, .ro, [0], .any, 0xffffffff⟩,
  ⟨0x5810, 0, 0, .domain, .cmd, [0], .any, 0x0⟩,
  ⟨0x5811, 1, 16, .bool, .cmd, [0], .any, 0xff⟩,
  ⟨0x5813, 1, 16, .u16, .rw, [1000], (.between (100) (65535)), 0xffff⟩]

/-- Entries 6000 to 60FF. -/
def entries60 : List Entry := [
  ⟨0x6000, 1, 12, .u8, .ro, [0], .any, 0xff⟩,
  ⟨0x6001, 0, 0, .u16, .rw, [500], (.between (500) (10000)), 0xffff⟩,
  ⟨0x6002, 0, 0, .u16, .rw, [1000], (.between (100) (60000)), 0xffff⟩,
  ⟨0x6003, 1, 12, .u32, .ro, [0], .any, 0xffffffff⟩,
  ⟨0x6004, 1, 12, .u32, .ro, [0], .any, 0xffffffff⟩,
  ⟨0x6005, 0, 0, .u16, .ro, [0], .any, 0xffff⟩,
  ⟨0x6006, 0, 0, .epoch, .ro, [0], .any, 0xffffffffffffffff⟩,
  ⟨0x6007, 0, 0, .u32, .ro, [0], .any, 0xffffffff⟩,
  ⟨0x6008, 0, 0, .u8, .ro, [0], .any, 0xff⟩,
  ⟨0x6010, 0, 0, .u16, .cmd, [0], (.oneOf [0, 3, 256, 259, 512, 515, 768, 771]), 0xffff⟩,
  ⟨0x6011, 1, 4, .bool, .ro, [0], .any, 0xff⟩,
  ⟨0x6012, 0, 0, .u16, .ro, [65535], .any, 0xffff⟩]

/-- Entries 6400 to 64FF. -/
def entries64 : List Entry := [
  ⟨0x6400, 0, 0, .u32, .ro, [0], .any, 0xffffffff⟩,
  ⟨0x6401, 0, 0, .bool, .cmd, [0], .any, 0xff⟩,
  ⟨0x6402, 0, 0, .u16, .cmd, [0], (.oneOf [23041, 23042]), 0xffff⟩,
  ⟨0x6403, 0, 0, .u8, .cmd, [0], (.between (3) (11)), 0xff⟩,
  ⟨0x6404, 0, 0, .u8, .ro, [0], .any, 0xff⟩,
  ⟨0x6405, 1, 2, .u32, .ro, [0], .any, 0xffffffff⟩,
  ⟨0x6410, 0, 0, .u64, .rwe, [0], .any, 0xffffffffffff⟩,
  ⟨0x6411, 0, 0, .u16, .rwe, [0], .any, 0xffff⟩,
  ⟨0x6412, 0, 0, .u16, .rwe, [0], .any, 0x1ff⟩,
  ⟨0x6420, 0, 0, .u8, .ro, [0], .any, 0xff⟩,
  ⟨0x6421, 0, 0, .u8, .ro, [255], .any, 0xff⟩,
  ⟨0x6422, 0, 0, .domain, .wo, [0], .any, 0x0⟩,
  ⟨0x6423, 0, 0, .domain, .ro, [0], .any, 0x0⟩,
  ⟨0x6424, 0, 0, .domain, .ro, [0], .any, 0x0⟩,
  ⟨0x6430, 1, 4, .u8, .ro, [0], .any, 0xff⟩,
  ⟨0x6431, 0, 0, .domain, .cmd, [0], .any, 0x0⟩,
  ⟨0x6440, 0, 0, .domain, .cmd, [0], .any, 0x0⟩,
  ⟨0x6441, 0, 0, .domain, .ro, [0], .any, 0x0⟩,
  ⟨0x6442, 0, 0, .bool, .ro, [0], .any, 0xff⟩,
  ⟨0x6443, 0, 0, .u64, .ro, [0], .any, 0xffffffffffffffff⟩,
  ⟨0x6444, 0, 0, .domain, .cmd, [0], .any, 0x0⟩,
  ⟨0x6445, 0, 0, .domain, .ro, [0], .any, 0x0⟩,
  ⟨0x6446, 0, 0, .epoch, .ro, [0], .any, 0xffffffffffffffff⟩,
  ⟨0x6450, 0, 0, .u16, .rw, [100], (.between (10) (10000)), 0xffff⟩]

/-- Entries 6800 to 68FF. -/
def entries68 : List Entry := [
  ⟨0x6801, 1, 2, .u8, .ro, [1], .any, 0xff⟩,
  ⟨0x6802, 0, 0, .u8, .cmd, [0], (.oneOf [0, 1, 2]), 0xff⟩,
  ⟨0x6803, 0, 0, .u16, .rw, [48], .any, 0xffff⟩,
  ⟨0x6804, 0, 0, .u16, .rw, [100], (.between (10) (10000)), 0xffff⟩,
  ⟨0x6805, 0, 0, .u16, .rw, [8], (.between (1) (65535)), 0xffff⟩,
  ⟨0x6806, 1, 2, .u32, .ro, [0], .any, 0xffffffff⟩,
  ⟨0x6810, 1, 48, .u8, .rwe, [68], .any, 0xff⟩,
  ⟨0x6811, 1, 48, .float32, .rwe, [1148846080], .any, 0xffffffff⟩,
  ⟨0x6812, 1, 48, .float32, .rwe, [0], .any, 0xffffffff⟩,
  ⟨0x6813, 1, 48, .u32, .ro, [0], .any, 0xffffffff⟩,
  ⟨0x6814, 1, 48, .float32, .ro, [0], .any, 0xffffffff⟩,
  ⟨0x6815, 0, 0, .u64, .rwe, [281474976710655], .any, 0xffffffffffff⟩,
  ⟨0x6820, 1, 11, .i32, .ro, [0], .any, 0xffffffff⟩,
  ⟨0x6821, 0, 0, .u32, .ro, [0], .any, 0xffffffff⟩,
  ⟨0x6840, 1, 144, .u16, .rwe, [0], (.between (0) (4095)), 0xffff⟩,
  ⟨0x6841, 1, 144, .u8, .rwe, [0], (.oneOf [0, 1, 2, 3]), 0xff⟩,
  ⟨0x6842, 1, 144, .u16, .rwe, [0], (.between (0) (4095)), 0xffff⟩,
  ⟨0x6843, 1, 144, .u16, .ro, [0], .any, 0xffff⟩,
  ⟨0x6844, 1, 144, .u8, .ro, [0], .any, 0xff⟩,
  ⟨0x6845, 1, 144, .i16, .ro, [0], .any, 0xffff⟩,
  ⟨0x6846, 1, 144, .u8, .ro, [1], .any, 0xff⟩,
  ⟨0x6847, 1, 9, .u8, .rwe, [0], (.oneOf [0, 1]), 0xff⟩,
  ⟨0x6848, 1, 144, .u32, .ro, [0], .any, 0xffffffff⟩]

/-- Entries 6C00 to 6CFF. -/
def entries6C : List Entry := [
  ⟨0x6C00, 1, 24, .i16, .ro, [0], .any, 0xffff⟩,
  ⟨0x6C01, 1, 24, .i16, .rwe, [950, 950, 950, 950, 950, 950, 950, 950, 950, 950, 950, 950, 950, 950, 950, 950, 1000, 1000, 1000, 1000, 1000, 1000, 1000, 1000], (.between (-550) (1750)), 0xffff⟩,
  ⟨0x6C02, 1, 24, .i16, .rwe, [1050, 1050, 1050, 1050, 1050, 1050, 1050, 1050, 1050, 1050, 1050, 1050, 1050, 1050, 1050, 1050, 1050, 1050, 1050, 1050, 1050, 1050, 1050, 1050], (.between (-550) (1750)), 0xffff⟩,
  ⟨0x6C03, 1, 24, .i16, .rwe, [1200, 1200, 1200, 1200, 1200, 1200, 1200, 1200, 1200, 1200, 1200, 1200, 1200, 1200, 1200, 1200, 1150, 1150, 1150, 1150, 1150, 1150, 1150, 1150], (.between (-550) (1750)), 0xffff⟩,
  ⟨0x6C04, 0, 0, .u16, .rwe, [30], (.between (5) (200)), 0xffff⟩,
  ⟨0x6C05, 0, 0, .u16, .rwe, [50], (.between (10) (1000)), 0xffff⟩,
  ⟨0x6C06, 1, 4, .u8, .rwe, [0, 0, 0, 1], (.oneOf [0, 1]), 0xff⟩,
  ⟨0x6C07, 1, 16, .u8, .rwe, [0], (.oneOf [0, 1]), 0xff⟩,
  ⟨0x6C08, 1, 16, .u16, .rwe, [10080], (.between (9000) (11000)), 0xffff⟩,
  ⟨0x6C09, 1, 16, .u16, .ro, [0], .any, 0xffff⟩,
  ⟨0x6C0A, 1, 16, .u32, .rwe, [10000], (.between (100) (1000000)), 0xffffffff⟩,
  ⟨0x6C0B, 1, 16, .u16, .rwe, [3435], (.between (1000) (10000)), 0xffff⟩,
  ⟨0x6C0C, 1, 24, .u8, .ro, [0], .any, 0xff⟩,
  ⟨0x6C10, 0, 0, .u8, .rwe, [1], (.oneOf [0, 1]), 0xff⟩,
  ⟨0x6C11, 0, 0, .u16, .rwe, [200], (.between (1) (1000)), 0xffff⟩,
  ⟨0x6C12, 1, 16, .u16, .rwe, [600], (.between (0) (2000)), 0xffff⟩,
  ⟨0x6C13, 1, 16, .u16, .rwe, [100], (.between (1) (600)), 0xffff⟩,
  ⟨0x6C14, 0, 0, .u16, .rwe, [500], (.between (0) (65535)), 0xffff⟩,
  ⟨0x6C15, 1, 16, .u16, .ro, [0], .any, 0xffff⟩,
  ⟨0x6C16, 0, 0, .u16, .ro, [0], .any, 0xffff⟩]

/-- Entries 7000 to 70FF. -/
def entries70 : List Entry := [
  ⟨0x7000, 0, 0, .u16, .ro, [0], .any, 0xffff⟩,
  ⟨0x7001, 0, 0, .domain, .ro, [0], .any, 0x0⟩,
  ⟨0x7002, 0, 0, .bool, .cmd, [0], .any, 0xff⟩,
  ⟨0x7003, 0, 0, .u32, .ro, [0], .any, 0xffffffff⟩,
  ⟨0x7004, 1, 64, .u8, .ro, [0], .any, 0xff⟩,
  ⟨0x7005, 0, 0, .u8, .cmd, [0], (.oneOf [0, 1, 2, 3, 4, 5, 6, 7, 8, 9, 10, 11, 12, 13, 14, 15, 16, 17, 18, 19, 20, 21, 22, 23, 24, 25, 26, 27, 28, 29, 30, 31, 32, 33, 34, 35, 36, 37, 38, 39, 40, 41, 42, 43, 44, 45, 46, 47, 48, 49, 50, 51, 52, 53, 54, 55, 56, 57, 58, 59, 60, 61, 62, 63, 255]), 0xff⟩,
  ⟨0x7006, 0, 0, .u16, .rwe, [600], (.between (100) (3000)), 0xffff⟩,
  ⟨0x7007, 0, 0, .u8, .rwe, [16], (.between (1) (64)), 0xff⟩,
  ⟨0x7008, 1, 4, .u8, .ro, [255], .any, 0xff⟩,
  ⟨0x7010, 0, 0, .u16, .cmd, [0], .any, 0xffff⟩,
  ⟨0x7011, 0, 0, .domain, .ro, [0], .any, 0x0⟩,
  ⟨0x7012, 0, 0, .u32, .ro, [0], .any, 0xffffffff⟩,
  ⟨0x7020, 0, 0, .u8, .ro, [0], .any, 0xff⟩,
  ⟨0x7021, 0, 0, .epoch, .ro, [0], .any, 0xffffffffffffffff⟩]

/-- The entries whose index has this upper byte. -/
def entriesPage : Nat → List Entry
  | 0x10 => entries10
  | 0x11 => entries11
  | 0x12 => entries12
  | 0x14 => entries14
  | 0x20 => entries20
  | 0x21 => entries21
  | 0x22 => entries22
  | 0x23 => entries23
  | 0x30 => entries30
  | 0x34 => entries34
  | 0x38 => entries38
  | 0x3C => entries3C
  | 0x40 => entries40
  | 0x44 => entries44
  | 0x48 => entries48
  | 0x50 => entries50
  | 0x54 => entries54
  | 0x58 => entries58
  | 0x60 => entries60
  | 0x64 => entries64
  | 0x68 => entries68
  | 0x6C => entries6C
  | 0x70 => entries70
  | _ => []

/-- The entry row of an index and subindex, where the tables define one. -/
def findEntry (index sub : Nat) : Option Entry :=
  (entriesPage (index / 256)).find? (fun e => e.index == index && decide (e.lo ≤ sub) && decide (sub ≤ e.hi))

/-- Is the index defined at all (R54)? -/
def indexDefined (index : Nat) : Bool :=
  (entriesPage (index / 256)).any (fun e => e.index == index)

/-- The element count that subindex 0x00 of an array holds (R5): the subindices of the row that starts at 0x01, where the
index carries one name from 0x01 upward; none for 1104, 1401 and 1404, whose subindices carry different names. -/
def arrayCount (index : Nat) : Option Nat :=
  if index = 0x1104 ∨ index = 0x1401 ∨ index = 0x1404 then none
  else match findEntry index 1 with
    | some e => if e.lo = 1 then some e.hi else none
    | none => none

/-- The default of an element (R9), as its raw two's complement value. -/
def entryDefault (index sub : Nat) : Nat :=
  match findEntry index sub with
  | none => 0
  | some e =>
    match e.dflt with
    | [v] => v
    | vs => vs.getD (sub - e.lo) 0

/-- The bytes of one value of a type; 0 for DOMAIN (Table 3.2). -/
def EntryType.size : EntryType → Nat
  | .bool | .u8 => 1
  | .u16 | .i16 | .q15 => 2
  | .u32 | .i32 | .float32 | .cplx16 => 4
  | .u64 | .epoch => 8
  | .domain => 0

end Sys2Proof.Machine
end

