-- ==== Sys2Proof/Machine/State.lean ====
section
/-! DEFINITION. The state of the block as plain data: the Catalogue's values, and every queue, buffer, sequencer, count and
pin that the spec gives the part beside them. Log entry 1 says how it is divided. -/
namespace Sys2Proof.Machine

/-- The master of a Mortar access (R12). Keystone stands also for the device's own copies; `device` is the job controller
and the other device functions that place data without being Mortar masters of their own. -/
inductive Master where
  | port (n : Nat)
  | mason (m : Nat)
  | dma (n : Nat)
  | keystone
  | spe
  | device
  deriving DecidableEq, Repr

/-- The value of a Catalogue entry: the raw two's complement number of a scalar, or the bytes of a DOMAIN entry (R55). -/
inductive CatVal where
  | num (n : Nat)
  | bytes (l : List Byte)
  deriving DecidableEq, Repr

/-- One value in a staging set or a sealed commit (R40). -/
structure StagedItem where
  index : Nat
  sub : Nat
  value : CatVal
  deriving DecidableEq, Repr

/-- Who sealed a commit: the host's COMMIT, or a device function that commits its own result (R18). -/
inductive CommitSource where
  | host
  | weightJob (job : Nat)
  | lineariser (course : Nat)
  | tuner (path : Nat)
  | calRun
  | cancelTrack
  deriving DecidableEq, Repr

/-- A sealed commit not yet in force (R40 to R44). `ready` is what the job, run or copy that supplies an item reports. -/
structure SealedCommit where
  source : CommitSource
  target : Nat
  original : Nat
  asap : Bool
  array : Bool
  deferred : Bool
  missed : Bool
  armed : Bool
  decided : Bool
  items : List StagedItem
  deriving DecidableEq, Repr

/-- An event record (Table 3.9); `epoch` is EPOCH bits [63:28]. -/
structure EventRec where
  epoch : Nat
  index : Nat
  sub : Nat
  pos : Nat
  code : Nat
  data : Nat
  deriving DecidableEq, Repr

/-- One entry of the fault log (Table 19.3). -/
structure FaultEntry where
  record : EventRec
  cls : Nat
  led : Bool
  releases : Nat
  deriving DecidableEq, Repr

/-- The time base (R48 to R51). `tickAt` is the instant, in units of 1/3072 ns, of the tick of the epoch in progress; then whether it
runs, consecutive references within 20 ns, whether it has taken a reference's phase, the epoch and the instant of the last reference,
that reference's frame start and frame, the frame at the last 1PPS pulse of SYNC_IN, whether a step is armed, whether the present
offset has been reported. -/
structure TimeBase where
  tickAt : Nat := 0
  running : Bool := false
  goodRefs : Nat := 0
  acquired : Bool := false
  lastRef : Nat := 0
  refAt : Nat := 0
  refStart : Int := 0
  refFrame : Nat := 0
  ppsFrame : Nat := 0
  realign : Bool := false
  offsetSaid : Bool := false
  deriving DecidableEq, Repr

/-- One DOMAIN transfer in progress (R67, R68). -/
structure DomainTransfer where
  index : Nat
  sub : Nat
  stage : Bool
  total : Nat
  got : List Byte
  lastAt : Nat
  deriving DecidableEq, Repr

/-- A request waiting for another device's response (R75). -/
structure Forwarded where
  request : Request
  sentAt : Nat
  deriving DecidableEq, Repr

/-- A response as Table 3.5 lays it out. -/
structure Response where
  port : Nat
  op : Nat
  tag : Nat
  pos : Nat
  stale : Bool
  asap : Bool
  dup : Bool
  status : Nat
  index : Nat
  sub : Nat
  aux : Nat
  epoch : Nat
  data : List Byte
  deriving DecidableEq, Repr

/-- The Catalogue's request side (R60 to R80): the open staging set, the sealed commits, the DOMAIN transfers, requests forwarded, requests
waiting in order of arrival and the one being performed while it stalls, the port of the last request since `MasterPresence` was
cleared and whether SECOND_MASTER has been raised since, responses waiting for the service port, the status byte and the bytes that the
last service-port transfer shifted out, change counts of DOMAIN entries, the counters and measurements as latched at the last tick. -/
structure HostPort where
  openSet : List StagedItem := []
  commits : List SealedCommit := []
  transfers : List DomainTransfer := []
  forwarded : List Forwarded := []
  stalled : List Request := []
  lastPort : Option Nat := none
  secondRaised : Bool := false
  performing : Option Request := none
  responses : List Response := []
  lastStatus : Nat := 0
  lastOut : List Byte := []
  change : Tab Nat := []
  latched : Tab Nat := []
  deriving DecidableEq, Repr

/-- The event queue and the fault log (R81 to R84, R424). -/
structure Events where
  queue : List EventRec := []
  lostSince : Nat := 0
  log : List FaultEntry := []
  deriving DecidableEq, Repr

/-- A kind of transition: of the mode, or a power-state request of a course (R25, R368). -/
inductive Target where
  | mode (m : Nat)
  | power (course value : Nat)
  deriving DecidableEq, Repr

/-- A mode or power request that is under way or pending (R27, R28). -/
structure Transition where
  target : Target
  epoch : Nat
  asap : Bool
  array : Bool
  prepared : Bool
  missed : Bool
  deriving DecidableEq, Repr

/-- Modes, requests and the Observe sequencers (R19 to R30): the transitions under way and pending, one abandoned whose step goes on, Safe
Hold or Standby due at the next tick, whether a step of preparation is in progress, the replay and capture positions. -/
structure Modes where
  underWay : Option Transition := none
  pending : Option Transition := none
  abandoned : Option Target := none
  safeHoldDue : Bool := false
  standbyDue : Bool := false
  stepBusy : Bool := false
  replayNext : Nat := 0
  captureNext : Nat := 0
  captureFull : Bool := false
  deriving DecidableEq, Repr

/-- A physical upset of one 32-bit word that the next read or scrub meets (R325, R326): `light` when the light code
corrects it; `symbols` is how many of the word's byte symbols are wrong, which the page code adds over the page. -/
structure Upset where
  addr : Nat
  light : Bool
  symbols : Nat
  syndrome : Nat
  deriving DecidableEq, Repr

/-- One entry of `EccLog` (Table 14.3); the list keeps the newest update first. -/
structure EccEntry where
  addr : Nat
  region : Nat
  syndrome : Nat
  kind : Nat
  epoch : Nat
  count : Nat
  deriving DecidableEq, Repr

/-- A page on the slow path (R326), with the instant its decode started. -/
structure SlowPage where
  page : Nat
  since : Nat
  deriving DecidableEq, Repr

/-- A held read-modify-write lock's journal (R330). -/
structure Journal where
  lock : Nat
  holder : Master
  pages : List Nat
  deriving DecidableEq, Repr

/-- The memories of the address map (R320): bytes that are not 0, poisoned words by address, the upsets not yet met, the
pages on the slow path, the locks' journals, and what the error reports hold (R331, R332, R335), the next page of the scrubber and when it read its last; the bank a save writes; whether moved
partitions are still to be copied (R324); shelves whose code
window another master has just written (R255). -/
structure MemSys where
  bytes : Tab Byte := []
  poison : List Nat := []
  upsets : List Upset := []
  slow : List SlowPage := []
  journals : List Journal := []
  eccLog : List EccEntry := []
  eccSince : Tab Nat := []
  eccLast : Tab Nat := []
  scrubAt : Nat := 0
  scrubTime : Nat := 0
  scrubSkipped : List Nat := []
  scrubCorrected : Nat := 0
  scrubBad : Nat := 0
  saving : Option Nat := none
  saveHit : Bool := false
  copying : Bool := false
  codeHits : List Nat := []
  deriving DecidableEq, Repr

/-- A lease held (R275, R425): resource code and owner field of Table 11.10, the epoch of expiry where it has a duration,
the Mortar master that holds it where a lock needs one. -/
structure Lease where
  resource : Nat
  owner : Nat
  expiry : Option Nat
  master : Option Master
  deriving DecidableEq, Repr

/-- A write burst awaiting its response (R345): its destination address and its descriptor's; whether its target answers with an error;
whether its descriptor has completed (R347). -/
structure DmaPending where
  dst : Nat
  desc : Nat
  error : Bool
  past : Bool
  deriving DecidableEq, Repr

/-- A descriptor as fetched (Tables 15.2 to 15.4). -/
structure DmaDesc where
  addr : Nat
  next : Nat
  src : Nat
  dst : Nat
  length : Nat
  control : Nat
  rows : Nat
  cols : Nat
  elem : Nat
  width : Nat
  blocks : Nat
  srcStride : Nat
  dstStride : Nat
  deriving DecidableEq, Repr

/-- One DMA channel's working state beside its Catalogue entries (R338 to R350). -/
structure DmaChan where
  fetchAt : Option Nat := none
  desc : Option DmaDesc := none
  done : Nat := 0
  hops : Nat := 0
  pollAt : Nat := 0
  outstanding : List DmaPending := []
  poisoned : Bool := false
  stopReason : Nat := 0
  lateHalt : Bool := false
  lateSeen : Bool := false
  wbStatus : Tab Nat := []
  wbQueue : List (Nat × List Nat) := []
  turning : Bool := false
  deriving DecidableEq, Repr

/-- The DMA engine: its channels, and the channel last served at each priority (R345). -/
structure DmaSys where
  chans : Tab DmaChan := []
  lastServed : Tab Nat := []
  deriving DecidableEq, Repr

/-- What is fused at manufacture and the board profile in fuses (R2, R293, R376, R390, R391). -/
structure Fuses where
  grade : Nat := 0x45
  identity : Nat := 0
  identityKey : List Byte := []
  keyHash : List (Option (List Byte)) := [none, none, none, none]
  revoked : List Nat := []
  biasRange : Tab Nat := []
  biasClear : Tab Nat := []
  remoteType : Tab Nat := []
  tempWarn : Option (List Nat) := none
  calAutoApply : Nat := 0
  linkProfile : Option (List Byte) := none
  profileFromFlash : Bool := false
  trimWords : List Nat := []
  trimCrc : Nat := 0
  bandgap : Nat := 31457
  deriving DecidableEq, Repr

/-- The wake of a domain in progress (R352, R363): since when, when power-good came, whether oscillator-ready has come, whether it
must still initialise its contents. -/
structure DomainWake where
  domain : Nat
  since : Nat
  powerGood : Option Nat
  oscillator : Bool
  init : Bool
  deriving DecidableEq, Repr

/-- An idle window of a course (R355): when it began, the instant the next transition must start where one is known, the depth chosen,
when its wake began, whether GOV_LATE was raised for it. -/
structure IdleWindow where
  since : Nat
  until_ : Option Nat
  depth : Nat
  wakeAt : Option Nat
  late : Bool
  deriving DecidableEq, Repr

/-- Power control (R351 to R371): wakes in progress; when each domain was last needed and the domains woken on demand; the idle window of
each course and the depth of the one before; when the last request arrived; wake edges lost and not yet reported; whether WAKE came in the last cycles of an entry to Dormant; since when the clock
check of a wake from Dormant runs; the domains domain resets hold, or have held until they are reloaded; what resumes service at the next slot boundary
(a domain code, or 0x100 and a bit of `BlockResetOther`); whether the Archive has still to
initialise since a cold release, and whether it refreshes itself for want of a reference; domains whose failed wake ends the next access
that stalled on them. -/
structure PowerSys where
  wakes : List DomainWake := []
  idleSince : Tab Nat := []
  demand : List Nat := []
  window : Tab IdleWindow := []
  depthPrev : Tab Nat := []
  lastRequestAt : Nat := 0
  edgesPending : List Nat := []
  wakeHeld : Bool := false
  checkAt : Option Nat := none
  resetting : List Nat := []
  resuming : List Nat := []
  archInit : Bool := true
  archHeld : Bool := false
  failed : List Nat := []
  deriving DecidableEq, Repr

/-- A reset source that is asserted (R374): its bit of Table 17.2, and the instant it was asserted. -/
structure ResetSource where
  bit : Nat
  since : Nat
  domain : Nat
  deriving DecidableEq, Repr

/-- Reset and boot (R373 to R393): the sources asserted; the widest reach asserted since the last release sequence completed and its latest
source; a reset command waiting for its 100 µs, with the bit of its source; when the last trim load started; the straps as last sampled; the image being
read, 0 primary, 1 secondary, 3 retained, and since when; the keys loaded by slot and the slot that signed the image in use; whether boot is
complete; the accepted image until it is placed; the configuration profile and, once the image is placed, how many bytes of it
have been performed; slots whose revocation fuse is being blown; a nonce and a digest being
signed; attestation reports built; since when Keystone's firmware runs. -/
structure ResetSys where
  held : List ResetSource := []
  reach : Nat := 1
  source : Nat := 0
  dueCmd : Option (Nat × Nat) := none
  loadAt : Option Nat := none
  straps : Nat := 0
  tryingImage : Nat := 0
  bootReadAt : Nat := 0
  loadedKeys : Tab (List Byte) := []
  bootKeySlot : Nat := 0
  bootDone : Bool := false
  image : List Byte := []
  profile : List Byte := []
  profileAt : Option Nat := none
  revoking : List Nat := []
  attestNonce : Option (List Byte) := none
  signDigest : Option (List Byte) := none
  sequence : Nat := 0
  watchdogAt : Option Nat := none
  deriving DecidableEq, Repr

/-- The test access port (R394, R395): the instruction register, the length of the data register it selects, the cells of the
boundary-scan register, whether the scanned outputs come from those cells or are at high impedance, and what the AC lanes send. -/
structure ScanSys where
  ir : Nat := 1
  register : Nat := 32
  cells : List Bool := []
  fromCells : Bool := false
  highZ : Bool := false
  pulse : Bool := false
  train : Bool := false
  deriving DecidableEq, Repr

/-- A Gram block (R157): group index, exponent, mantissas in row order of the upper triangle. -/
structure GramBlock where
  group : Nat
  exp : Nat
  mant : List Cplx
  deriving DecidableEq, Repr

/-- A weight job queued or running (R152 to R162). `state` follows `WeightJobResults`; `record` is Table 6.4. -/
structure WeightJob where
  job : Nat
  record : List Byte
  state : Nat
  accepted : Nat
  startedAt : Nat
  faulty : List Nat
  keepDl : Nat
  keepUl : Nat
  own : List GramBlock
  summed : List GramBlock
  total : List GramBlock
  deriving DecidableEq, Repr

/-- A finished weight job as `WeightJobResults` keeps it. -/
structure JobResult where
  job : Nat
  state : Nat
  reason : Nat
  accepted : Nat
  completed : Nat
  degraded : Nat
  saturated : Nat
  micros : Nat
  deriving DecidableEq, Repr

/-- A sounding estimate on its way into the Library (R148): the record's index, the entry, the epoch of its symbol, the
points it covers, its saturation and its path data. -/
structure SoundingWrite where
  record : Nat
  entry : Nat
  epoch : Nat
  merge : Bool
  partial_ : Bool
  saturated : Bool
  prbs : List Nat
  points : List (Nat × List Cplx)
  snr : List Int
  deriving DecidableEq, Repr

/-- The Channel Library and the job controller (R141 to R163). -/
structure LibrarySys where
  jobs : List WeightJob := []
  results : List JobResult := []
  writes : List SoundingWrite := []
  slotLease : Tab Nat := []
  deriving DecidableEq, Repr

/-- A user job (R277): its record (Table 11.12), the next run's index and epoch, what its runs have given so far. -/
structure UserJob where
  job : Nat
  record : List Byte
  nextRun : Nat
  nextEpoch : Nat
  running : Bool
  outstanding : Nat
  lastReason : Nat
  runsDone : Nat
  tasksFailed : Nat
  lastEpoch : Nat
  cancel : Bool
  deriving DecidableEq, Repr

/-- What a course holds beside its Catalogue entries (R90 to R102). -/
structure CourseSys where
  moving : Option Nat := none
  relockAt : Option Nat := none
  attempts : Nat := 0
  detected : Bool := false
  borrowFrom : Option Nat := none
  recal : Bool := false
  lostNow : Bool := false
  lateRun : Bool := false
  held : Bool := false
  deriving DecidableEq, Repr

/-- What a path holds beside its Catalogue entries: the settings computed for the next slot, the gain for the next received
symbol, the loops' memories and the detectors' counts (R88, R89, R107, R111 to R119, R418, R423). -/
structure PathSys where
  holdOff : Bool := true
  nextTx : Option (Nat × Int) := none
  nextGain : Option (Nat × Nat) := none
  dcLimitSince : Option Nat := none
  fullSymbols : Nat := 0
  faultDue : Nat := 0
  retestDue : Bool := false
  restoreDue : Bool := false
  refBefore : Option Int := none
  tunerDown : Bool := false
  tunerNext : Option (Nat × Nat) := none
  clearSteps : Nat := 0
  mismatchAct : Bool := false
  lowSteps : Nat := 0
  loOffset : Int := 0
  edge : Option Nat := none
  nextEdge : Option Nat := none
  deriving DecidableEq, Repr

/-- The radio part (R85 to R119): the courses, the paths, and the commit epoch of each burst record (R101). -/
structure RadioSys where
  courses : Tab CourseSys := []
  paths : Tab PathSys := []
  burstEpoch : Tab Nat := []
  deriving DecidableEq, Repr

/-- A packet of the stream (Table 13.1) without its SEQ, which the port gives it as it starts: TYPE, POS, ETAG as 32 bits, and
its payload in bytes, a multiple of four. -/
structure OutPacket where
  typ : Nat
  pos : Nat
  etag : Nat
  payload : List Byte
  deriving DecidableEq, Repr

/-- A section of R128 with its blocks: the exponent and the twelve mantissas of each PRB. -/
structure SectionRec where
  layer : Nat
  carrier : Nat
  first : Nat
  count : Nat
  width : Nat
  contrib : Nat
  blocks : List (Nat × List Cplx)
  deriving DecidableEq, Repr

/-- The layer values of a downlink symbol whose cut-off is past (R38, R130): each scheduled section's descriptor with its
samples in order of frequency. -/
structure DlReady where
  epoch : Nat
  silent : Bool
  parts : List (List Byte × List Cplx)
  deriving DecidableEq, Repr

/-- What the Beam Mixer formed for a downlink symbol (R131 to R133): the paths a poisoned word silences, and the values that
are not zero, by path and active subcarrier. -/
structure DlOut where
  epoch : Nat
  silent : Bool
  dead : List Nat
  values : List (Nat × Nat × Cplx)
  deriving DecidableEq, Repr

/-- An uplink or PRACH section of the device (R128, R309): decompressed values, the positions included and the southmost one. -/
structure UlSection where
  epoch : Nat
  prach : Bool
  layer : Nat
  carrier : Nat
  first : Nat
  count : Nat
  width : Nat
  contrib : Nat
  southmost : Nat
  samples : List Cplx
  deriving DecidableEq, Repr

/-- The Beam Mixer's buffers (R128 to R140): sections received for symbols whose cut-off has not come, sections cut short
by symbol, judged symbols, the symbol formed last and the one on the air, own uplink sections waiting for their partial and those that have left,
saturations of the frame by direction, and the poisoned words already reported. -/
structure MixSys where
  got : List (Nat × SectionRec) := []
  trunc : Tab Nat := []
  judged : List DlReady := []
  out : Option DlOut := none
  air : Option DlOut := none
  waiting : List UlSection := []
  left : List UlSection := []
  sat : Tab Nat := []
  reported : List Nat := []
  mismatched : List (Nat × Nat) := []
  deriving DecidableEq, Repr

/-- A received lane (R284, R285, R289): the last bit and the run of equal bits it ends, the descrambler, the CRC failures as
numbers of the bonds that had them, consecutive lost headers, consecutive good bricks, the instants it failed, whether its
descrambler follows the far end's frame. -/
structure LaneSys where
  last : Bool := false
  run : Nat := 1
  q : Nat := 0
  crcAt : List Nat := []
  lostHeaders : Nat := 0
  good : Nat := 0
  failedAt : List Nat := []
  deriving DecidableEq, Repr

/-- A port (R280 to R304, R312, R313): when it entered its state (in DETECT, its last pulse) and when it entered TRAIN; whether a LOCK
message with READY has been received and READY sent; since when it sends ACK, whether ACK has been received; the received lanes, whether
their descramblers are synchronised and how many bonds have come; whether data bonds are taken; words of the packet in progress, and
whether words are discarded up to the next ALIGN; sequence numbers; credits and units to return by
class; credited traffic held for a resynchronisation, and when the own request was sent; whether fill words force an ALIGN; the packets
started since the port became ACTIVE with their SEQ; control messages to send; echo requests: the last ID, the one outstanding, the
instant it left, when the last was due, those unanswered, whether that was reported, requests to answer with their instants, the delays
measured; when reports were last raised and what they left uncounted; capture packets sent by chunk. -/
structure PortSys where
  since : Nat := 0
  readySeen : Bool := false
  readySent : Bool := false
  ackAt : Option Nat := none
  ackSeen : Bool := false
  lanes : Tab LaneSys := []
  synced : Bool := false
  bonds : Nat := 0
  taking : Bool := false
  words : List Nat := []
  discarding : Bool := false
  rxSeq : Nat := 255
  txSeq : Nat := 0
  credit : Tab Nat := []
  owed : Tab Nat := []
  held : Bool := false
  waitAck : Option Nat := none
  alignFill : Bool := false
  sent : List (Nat × OutPacket) := []
  control : List (List Byte) := []
  echoId : Nat := 0
  echoOut : Option Nat := none
  echoSentAt : Nat := 0
  echoAt : Nat := 0
  echoMissed : Nat := 0
  echoDown : Bool := false
  echoIn : List (Nat × Nat) := []
  delays : List Int := []
  gapAt : Option Nat := none
  gapCount : Nat := 0
  lenAt : Option Nat := none
  lostAt : Option Nat := none
  lostCount : Nat := 0
  captured : Tab Nat := []
  deriving DecidableEq, Repr

/-- A MEM request not yet answered (R316): the port it came on, TAG, whether it writes, ADDR, BYTES, the data of a WRITE, since when the
slow path holds it. -/
structure MemRequest where
  port : Nat
  tag : Nat
  write : Bool
  addr : Nat
  bytes : Nat
  data : List Byte
  heldAt : Option Nat := none
  deriving DecidableEq, Repr

/-- A report of readiness that the head holds (R314): the commit's target, the position, READY, its instant. -/
structure ReadyReport where
  target : Nat
  pos : Nat
  ready : Bool
  at_ : Nat
  deriving DecidableEq, Repr

/-- The two ports, the packets ready on each, MEM requests that wait, the DEVICES last received on PORT-S, whether the position is
fixed and the role decided, the reports of readiness, the frame a marker was sent for last; a chained device keeps its
own last report there (R292, R294, R304, R312, R314, R316). -/
structure LinkSys where
  ports : Tab PortSys := []
  ready : Tab (List OutPacket) := []
  mems : List MemRequest := []
  south : Nat := 0
  fixed : Bool := false
  role : Nat := 0xFF
  reports : List ReadyReport := []
  frameSentFor : Option Nat := none
  deriving DecidableEq, Repr

/-- A kind accepted on a path by a run (R241, R242): the bytes for the path record by offset, those for its tile's observation
record, D transmit and receive in ps, M_rx and M_tx by carrier, the residuals by field of `CalQuality`, or of `CalObsQuality` for
kind 0x04. -/
structure CalAccept where
  kind : Nat
  path : Nat
  patches : List (Nat × List Byte) := []
  obs : List Byte := []
  delays : List Int := []
  mrx : List Cplx := []
  mtx : List Cplx := []
  quality : List (Nat × Nat) := []
  deriving DecidableEq, Repr

/-- A calibration run or a rolling step (R239 to R249): the record's fields; until when a step claims its path; whether it measures,
the course temperatures at START; what was accepted, rejected and repeated, by kind and path; the device's own alignment offset;
the epoch its results come into force. -/
structure CalRunSys where
  run : Nat
  array : Bool
  targeted : Bool
  kinds : Nat
  paths : Nat
  start : Nat
  rolling : Bool := false
  until_ : Nat := 0
  measuring : Bool := false
  temps : List Int := []
  accepted : List CalAccept := []
  rejected : List (Nat × Nat) := []
  repeated : List (Nat × Nat) := []
  offset : Option Int := none
  due : Nat := 0
  deriving DecidableEq, Repr

/-- A save into the flash under way (R251). -/
structure SaveSys where
  bank : Nat
  sequence : Nat
  since : Nat
  poison : Bool
  record : List Byte
  deriving DecidableEq, Repr

/-- Calibration (R230 to R252): the trim shadow; the run and the rolling step under way, and those whose results wait to come into
force; path records and observation records in force; those computed for the next slot; the course temperatures of the last
application and the readings of the last second; paths whose corrections are stale for poison; slots to the next rolling step; when
`CalClockSet` was written and when the last cold release loaded the trims; the save, and one that waits for a boot read to end. -/
structure CalSys where
  shadow : List Nat := []
  run : Option CalRunSys := none
  step : Option CalRunSys := none
  due : List CalRunSys := []
  corr : Tab (List Byte) := []
  obs : Tab (List Byte) := []
  next : Option (Tab (List Byte) × Tab (List Byte)) := none
  appliedAt : Tab Int := []
  readings : Tab (List Int) := []
  stale : List Nat := []
  slotsLeft : Nat := 0
  clockAt : Nat := 0
  coldAt : Nat := 0
  save : Option SaveSys := none
  saveAsked : Option Nat := none
  deriving DecidableEq, Repr

/-- A forward capture whose solve has not ended (R175, R176): the buffer, the sequence of the tables it was taken with, whether
a write spoiled it. -/
structure LinCapture where
  course : Nat
  buffer : Nat
  seq : Nat
  spoiled : Bool
  deriving DecidableEq, Repr

/-- Tables on their way into force (R179, R180): the epoch, the path's table entries that are not 0, the sequence they rest on,
the edge of the update, the NMSE that produced them; `revert` for previous tables. -/
structure LinCommit where
  target : Nat
  entries : Tab Cplx
  base : Nat
  edge : Nat
  nmse : Int
  revert : Bool
  coefs : List Byte
  deriving DecidableEq, Repr

/-- A Lineariser's state beside its entries (R175 to R181). -/
structure LinPath where
  seq : Nat := 0
  previous : Option (Tab Cplx) := none
  nmseBefore : Option Int := none
  reverts : Nat := 0
  bad : Nat := 0
  alarmed : Bool := false
  coefs : List Byte := []
  capture : Option LinCapture := none
  due : Option LinCommit := none
  deriving DecidableEq, Repr

/-- An observation step under way (R174): its path and, after its forward capture, P_FBIN and D. -/
structure ObsStep where
  path : Nat
  forward : Option (Int × Int)
  deriving DecidableEq, Repr

/-- A course's observation receiver (R173, R420): when its cycle started, the steps taken in it, the step under way, the buffer
of the next capture, whether the receiver is faulty, the partner that takes over at the next slot boundary. -/
structure ObsSys where
  cycleAt : Nat := 0
  steps : Nat := 0
  step : Option ObsStep := none
  buffer : Nat := 0
  faulty : Bool := false
  shareDue : Option Nat := none
  deriving DecidableEq, Repr

/-- The Linearisers (R165 to R181): table entries by path × 1,664 + table × 64 + entry, an unlisted one at the identity;
outputs of the last symbol; saturations of the frame; the FBSEL codes of the tiles. -/
structure LinSys where
  tables : Tab Cplx := []
  paths : Tab LinPath := []
  courses : Tab ObsSys := []
  fbsel : Tab Nat := []
  sat : Tab Nat := []
  out : Tab (List Cplx) := []
  deriving DecidableEq, Repr

/-- The bias outputs beside their entries (R403 to R407): the clear conditions that hold (bit 0 BCLR_N, 1 Safe Hold, 2 thermal),
the channels in a range change with the instant it began, and those awaiting the strobe of their new range. -/
structure BiasSys where
  clears : Nat := 0
  held : Tab Nat := []
  deriving DecidableEq, Repr

/-- A temperature sensor (R408 to R414): the reading of each converter that last read it, two-reading counts above WARN, THROTTLE
and SHUTDOWN, readings of the last window with their instants, since when the rise is within its limit, the fault reason, since
when it counts as above THROTTLE with its grace running, and whether enforcement acts. -/
structure SensorSys where
  byConv : Tab Int := []
  above : Tab Nat := []
  history : List (Nat × Int) := []
  calmSince : Nat := 0
  fault : Nat := 0
  counts : Bool := false
  graceAt : Option Nat := none
  enforce : Bool := false
  stepAt : Nat := 0
  deriving DecidableEq, Repr

/-- An orderly shutdown under way (R415): the sensor, since when, and when the transmit paths entered hold-off. -/
structure ShutSys where
  sensor : Nat
  since : Nat
  holdAt : Option Nat
  deriving DecidableEq, Repr

/-- Housekeeping and thermal management (R396 to R416): each converter's next remote input, whether a check follows `HkTrust`, the
check's last run, inputs whose value is stale; sensors; reductions by sensor × 16 + tile and since when a tile is at its floor;
tiles in hold-off; a shutdown under way; the hold-off it made; the latch; a WARN crossing not yet taken as a wake event. -/
structure ThermSys where
  nextRemote : Tab Nat := []
  trusted : Bool := false
  checkAt : Nat := 0
  stopped : Bool := false
  sensors : Tab SensorSys := []
  reduction : Tab Nat := []
  floorSince : Tab Nat := []
  tilesOff : List Nat := []
  shut : Option ShutSys := none
  holdOff : Bool := false
  latched : Bool := false
  warnEdge : Bool := false
  deriving DecidableEq, Repr

/-- Canceller training under way (R198 to R200): the slot, symbols per stage, START, the stage (0 before START). -/
structure TrainSys where
  slot : Nat
  symbols : Nat
  start : Nat
  stage : Nat
  deriving DecidableEq, Repr

/-- A set on its way into the Leakage Canceller (R196): the slot and since when it loads. -/
structure SetLoad where
  slot : Nat
  since : Nat
  deriving DecidableEq, Repr

/-- A tracking update (R203): the epoch it comes into force, the sets' sequence it rests on, new bytes of the set by offset,
and the paths with their edges. -/
structure TrackCommit where
  target : Nat
  base : Nat
  bytes : Tab Byte
  edges : List (Nat × Nat)
  deriving DecidableEq, Repr

/-- Subband full duplex (R186 to R204): the set in force as loaded and as trained, its sequence, copies loaded and not yet in
force, loads under way, training, the references and cancel-DAC codes of the last FLEX symbol, clips not yet reported and the
paths clipped in the last symbol, quiet
measurements by path × 8 + subband (newest first, each a power sum and its count), slots written while in service, counts above and
below the alarm, paths zeroed for noise rise, the action due at the next slot, the course tracked next, the update due. -/
structure DuplexSys where
  current : Tab Byte := []
  trained : Tab Byte := []
  seq : Nat := 0
  copies : Tab (Tab Byte) := []
  loads : List SetLoad := []
  train : Option TrainSys := none
  refs : Tab (List Cplx) := []
  dac : Tab (List Cplx) := []
  clips : Tab Nat := []
  clipped : List Nat := []
  noise : Tab (List (Nat × Nat)) := []
  rewritten : List Nat := []
  above : Tab Nat := []
  below : Tab Nat := []
  alarmed : List Nat := []
  zeroed : List Nat := []
  loStale : List Nat := []
  calStale : List Nat := []
  nextCourse : Nat := 0
  due : Option TrackCommit := none
  deriving DecidableEq, Repr

/-- A scheduled or running send of the SPE (R217 to R220): its record, the instants of its first sample and of the end of its
last, the TIMESTAMP of its sync symbol, the path it uses; whether it is ready, on the air, muted. -/
structure SpeSend where
  buffer : Nat
  typ : Nat
  mod : Nat
  length : Nat
  start : Nat
  finish : Nat
  stamp : Nat
  path : Nat := 0
  phase : Nat := 0
  muted : Bool := false
  deriving DecidableEq, Repr

/-- A detection (R221): its instant and metric in 0.01 dB, and the instant its sync symbol would begin. -/
structure SpeDetection where
  at_ : Nat
  metric : Int
  syncAt : Nat
  deriving DecidableEq, Repr

/-- A reception in progress (R221 to R226): its detection, the path and diversity marks, and what sync and header gave. -/
structure SpeRecv where
  det : SpeDetection
  path : Nat
  diversity : Bool
  incomplete : Bool
  synced : Bool := false
  stamp : Nat := 0
  rssi : Int := 0
  cfo : Int := 0
  header : Option Nat := none
  deriving DecidableEq, Repr

/-- The Sync Packet Engine (R205 to R229): the send, the reception, the candidate; SYNP's lock, since when it locks, and until
when a move holds it unlocked; a move due; diversity, the alternate of the last valid packet, the alternate listened to and since
when; the slot written last; packets of the last frame lost by reason; the constellation points of the packet on the air by symbol, each subcarrier
with I and Q; packets that go to calibration. -/
structure SpeSys where
  send : Option SpeSend := none
  recv : Option SpeRecv := none
  cand : Option SpeDetection := none
  locked : Bool := false
  lockSince : Option Nat := none
  settleUntil : Nat := 0
  move : Option (Nat × Int) := none
  diversity : Bool := false
  lastAlt : Option Nat := none
  alt : Nat := 0
  dwellAt : Nat := 0
  lastSlot : Nat := 7
  written : Nat := 0
  missed : Tab Nat := []
  missedFrame : Tab Nat := []
  air : List (List (Int × Int × Int)) := []
  calPackets : List (List Byte) := []
  deriving DecidableEq, Repr

/-- Where a result of a mason operation goes (R265). -/
inductive MasonDest where
  | vec (n : Nat) (lanes : List Cplx)
  | acc (n : Nat) (lanes : List Cplx)
  | ptr (n : Nat) (v : Nat)
  | sys (code : Nat) (v : Nat)
  | store (a : Nat) (bytes : List Byte)
  deriving DecidableEq, Repr

/-- A result on its way: the cycle from which it is visible. -/
structure MasonWrite where
  due : Nat
  dest : MasonDest
  deriving DecidableEq, Repr

/-- What the operations of the bundle in issue do beside their results: they act when the bundle is whole (R269). -/
inductive MasonAct where
  | mac (n : Nat) (lanes : List Cplx)
  | status (hr : Nat) (ovf : Bool) (shUp : Bool)
  | branch (target : Nat)
  | rti
  | loop (x count body : Nat)
  | get (shelf addr len : Nat)
  | put (shelf addr len : Nat)
  | lease (resource ticks pd : Nat)
  | unlease (resource : Nat)
  | wait (n : Nat)
  | post (n v : Nat)
  | done (status : Nat)
  deriving DecidableEq, Repr

/-- A transfer of a core that is outstanding (R268). -/
structure MasonXfer where
  put : Bool
  shelf : Nat
  addr : Nat
  len : Nat
  deriving DecidableEq, Repr

/-- The task on a core (R270, R272): its job, index, kernel slot, offsets, budget, epoch, the bytes of its argument block, and in a
re-run the core it first ran on with the reason (0 for a block reset). -/
structure MasonTask where
  job : Nat
  index : Nat
  count : Nat
  kernel : Nat
  entry : Nat
  irq : Nat
  exc : Nat
  codeLen : Nat
  budget : Nat
  epoch : Nat
  args : List Byte
  rerunOf : Option (Nat × Nat)
  deriving DecidableEq, Repr

/-- A mason core (R256 to R269). Registers not listed hold 0. `chain` are the accumulators as the MAC family sees them; `flight`
the results on their way, oldest first; `bundle` and `acts` what the bundle in issue has collected, `dests` the registers it names
and `fault` the exception it raised, `slot` the first slot still open in it; `flow` a branch with the bundles still to issue before
it. -/
structure MasonCore where
  v : Tab (List Cplx) := []
  acc : Tab (List Cplx) := []
  chain : Tab (List Cplx) := []
  p : Tab Nat := []
  b : Tab Nat := []
  l : Tab Nat := []
  lc : Tab Nat := []
  ls : Tab Nat := []
  le : Tab Nat := []
  sh : Nat := 0
  st : Nat := 15
  ictl : Nat := 0
  ira : Nat := 0
  epc : Nat := 0
  ecause : Nat := 0
  eaddr : Nat := 0
  cycle : Nat := 0
  tcmp : Nat := 0
  timed : Bool := false
  pc : Nat := 0
  flow : Option (Nat × Nat) := none
  rti : Bool := false
  flight : List MasonWrite := []
  bundle : List MasonWrite := []
  acts : List MasonAct := []
  dests : List Nat := []
  slot : Nat := 0
  fault : Option (Nat × Nat) := none
  inExc : Bool := false
  xfers : List MasonXfer := []
  failed : Nat := 0
  task : Option MasonTask := none
  deriving DecidableEq, Repr

/-- The mason cluster (R253 to R277): the cores, the kernel images by slot, cores whose self-test runs, tasks that wait for their
core, the records of finished user jobs (newest first). -/
structure MasonSys where
  cores : Tab MasonCore := []
  kernels : Tab (List Byte) := []
  selftest : List Nat := []
  queue : List (Nat × MasonTask) := []
  results : List (List Byte) := []
  deriving DecidableEq, Repr

/-- The whole machine. `cat` holds the Catalogue's elements by index and subindex as raw values, an unlisted one at its
default; `dom` the DOMAIN values written since reset; every other field is state the spec gives the part beside them. -/
structure State where
  pending : List Instr
  now : Nat
  epoch : Nat
  pos : Nat
  free : Nat
  cat : Tab Nat
  dom : Tab (List Byte)
  loopEdges : Tab Nat
  tb : TimeBase
  host : HostPort
  ev : Events
  modes : Modes
  mem : MemSys
  leases : List Lease
  dma : DmaSys
  fuse : Fuses
  power : PowerSys
  reset_ : ResetSys
  scan : ScanSys
  lib : LibrarySys
  radio : RadioSys
  userJobs : List UserJob
  mix : MixSys
  lin : LinSys
  cal : CalSys
  link : LinkSys
  bias : BiasSys
  duplex : DuplexSys
  spe : SpeSys
  mason : MasonSys
  therm : ThermSys
  captureFills : Tab Nat
  captureReady : List (Nat × Nat)
  farLimits : Tab Nat
  deriving DecidableEq, Repr

/-- The machine right after reset: power-on has just been asserted (R374, R377), AON is the one domain on (Table 16.1), the bias
outputs are clamped (R404), every Catalogue entry is at its default, and no command waits. -/
def State.reset : State where
  pending := []
  now := 0
  epoch := 0
  pos := 0
  free := 0
  cat := [(0x600001, 2), (0x640000, 0x01000001)] ++ (List.range 144).map (fun n => (0x684601 + n, 1))
  dom := []
  loopEdges := []
  tb := {}
  host := {}
  ev := {}
  modes := {}
  mem := {}
  leases := []
  dma := {}
  fuse := {}
  power := {}
  reset_ := { held := [⟨0, 0, 0⟩] }
  scan := {}
  lib := {}
  radio := {}
  userJobs := []
  mix := {}
  lin := {}
  cal := {}
  link := {}
  bias := {}
  duplex := {}
  spe := {}
  mason := {}
  therm := {}
  captureFills := []
  captureReady := []
  farLimits := []

/-- Why the machine stops with a fault. No command of this part stops it: every condition the spec calls an error has an
effect of its own (an abort, an error response, an event), so no meaning raises one. Safe: nothing rests on it. -/
inductive Fault where
  /-- Raised by no meaning. -/
  | none
  deriving DecidableEq, Repr

/-- Why a command has no meaning. -/
inductive Refusal where
  /-- Raised by an arm of exec whose command has no meaning yet; safe, since the machine stops there. -/
  | notModelled (mnemonic : String)
  deriving DecidableEq, Repr

end Sys2Proof.Machine
end

