-- ==== Sys2Proof/Machine/Ops.lean ====
section
/-! DEFINITION. The named operations every meaning is built from: sparse tables, little-endian bytes, signed values,
Catalogue values, time in units of 1/3072 ns, events and the fault log. -/
namespace Sys2Proof.Machine

/-! Sparse tables -/

/-- The value a table holds under a key, or the table's default. -/
def tget {α : Type} (d : α) (k : Nat) : Tab α → α
  | [] => d
  | (j, v) :: t => if j = k then v else tget d k t

/-- Is a key listed? -/
def thas {α : Type} (k : Nat) (t : Tab α) : Bool := t.any (fun c => c.1 == k)

/-- A table without a key. -/
def tdel {α : Type} (k : Nat) (t : Tab α) : Tab α := t.filter (fun c => c.1 != k)

/-- Insertion before the first greater key. -/
def tadd {α : Type} (k : Nat) (v : α) : Tab α → Tab α
  | [] => [(k, v)]
  | (j, w) :: t => if k < j then (k, v) :: (j, w) :: t else (j, w) :: tadd k v t

/-- Write a record under a key. -/
def tins {α : Type} (k : Nat) (v : α) (t : Tab α) : Tab α := tadd k v (tdel k t)

/-- Write in canonical form: writing the default removes the entry. -/
def tput {α : Type} [DecidableEq α] (d : α) (k : Nat) (v : α) (t : Tab α) : Tab α :=
  if v = d then tdel k t else tadd k v (tdel k t)

/-- Keys strictly rising. -/
def sortedKeys {α : Type} : Tab α → Bool
  | [] => true
  | [_] => true
  | (j, _) :: (k, w) :: t => decide (j < k) && sortedKeys ((k, w) :: t)

/-- Insertion of a number into a strictly rising list. -/
def insertNat (n : Nat) : List Nat → List Nat
  | [] => [n]
  | m :: t => if n < m then n :: m :: t else if n = m then m :: t else m :: insertNat n t

/-! Bytes and bits -/

/-- The number a little-endian byte string holds (R7). -/
def leNat : List Byte → Nat
  | [] => 0
  | b :: t => b.toNat + 256 * leNat t

/-- A number as `n` little-endian bytes (R7). -/
def leBytes : Nat → Nat → List Byte
  | 0, _ => []
  | n + 1, v => BitVec.ofNat 8 v :: leBytes n (v / 256)

/-- `n` bytes of a byte string from an offset; bytes beyond its end are 0. -/
def sliceBytes (l : List Byte) (off n : Nat) : List Byte :=
  let r := (l.drop off).take n
  r ++ List.replicate (n - r.length) 0

/-- A little-endian field of a byte string. -/
def fieldLE (l : List Byte) (off n : Nat) : Nat := leNat (sliceBytes l off n)

/-- Bits hi down to lo of a number. -/
def bitsOf (v hi lo : Nat) : Nat := v / 2 ^ lo % 2 ^ (hi + 1 - lo)

/-- One bit of a number. -/
def bitAt (v i : Nat) : Bool := v / 2 ^ i % 2 == 1

/-- Set or clear one bit of a number. -/
def setBit (v i : Nat) (b : Bool) : Nat :=
  let w := v - (v / 2 ^ i % 2) * 2 ^ i
  if b then w + 2 ^ i else w

/-- 1 for true. -/
def b2n (b : Bool) : Nat := if b then 1 else 0

/-- The integer a two's complement value of `w` bits holds (R55). -/
def toInt (w v : Nat) : Int :=
  let u := v % 2 ^ w
  if u < 2 ^ (w - 1) then (u : Int) else (u : Int) - 2 ^ w

/-- The two's complement value of `w` bits of an integer. -/
def ofInt (w : Nat) (i : Int) : Nat := (i % (2 ^ w : Int)).toNat

/-- Restrict an integer to a range. -/
def clampInt (lo hi x : Int) : Int := if x < lo then lo else if hi < x then hi else x

/-- Round up to a multiple. -/
def roundUp (n m : Nat) : Nat := (n + m - 1) / m * m

/-- Division rounded up. -/
def ceilDiv (n m : Nat) : Nat := (n + m - 1) / m

/-- The bits of an integer square root from bit k - 1 down, above what is already found. -/
def isqrtFrom (n : Nat) : Nat → Nat → Nat
  | 0, r => r
  | k + 1, r =>
    let t : Nat := r + 2 ^ k
    isqrtFrom n k (if t * t ≤ n then t else r)

/-- Integer square root, truncated. -/
def isqrt (n : Nat) : Nat := isqrtFrom n (Nat.log2 n / 2 + 1) 0

/-! Catalogue values -/

/-- The table key of a subindex of an index. -/
def ck (index sub : Nat) : Nat := index * 256 + sub

/-- The raw value an element of the Catalogue holds. -/
def State.rd (s : State) (index sub : Nat) : Nat := tget (entryDefault index sub) (ck index sub) s.cat

/-- Give an element of the Catalogue a raw value. -/
def State.wr (s : State) (index sub v : Nat) : State :=
  { s with cat := tput (entryDefault index sub) (ck index sub) v s.cat }

/-- A Boolean or flag element. -/
def State.rdB (s : State) (index sub : Nat) : Bool := s.rd index sub != 0

/-- A signed element of `w` bits. -/
def State.rdI (s : State) (w index sub : Nat) : Int := toInt w (s.rd index sub)

/-- Give a signed element of `w` bits its value. -/
def State.wrI (s : State) (w index sub : Nat) (v : Int) : State := s.wr index sub (ofInt w v)

/-- A counter that wraps at 2³² steps by `n`. -/
def State.addCount (s : State) (index sub n : Nat) : State := s.wr index sub ((s.rd index sub + n) % 2 ^ 32)

/-- A counter that wraps at 2³² steps by one. -/
def State.bump (s : State) (index sub : Nat) : State := s.addCount index sub 1

/-- Set or clear one bit of an element. -/
def State.wrBit (s : State) (index sub bit : Nat) (b : Bool) : State := s.wr index sub (setBit (s.rd index sub) bit b)

/-- One bit of an element. -/
def State.rdBit (s : State) (index sub bit : Nat) : Bool := bitAt (s.rd index sub) bit

/-- Apply an update to every number of a list in turn. -/
def State.forEach (s : State) (l : List Nat) (f : Nat → State → State) : State := l.foldl (fun s n => f n s) s

/-! Time -/

/-- Units of 1/3072 ns in a microsecond: the unit makes samples at 983.04 MS/s (3,125 units) and nanoseconds exact. -/
def usec (n : Nat) : Nat := n * 3072000

/-- Units in a millisecond. -/
def msec (n : Nat) : Nat := n * 3072000000

/-- Units in a nanosecond. -/
def nsec (n : Nat) : Nat := n * 3072

/-- Has a time passed since an instant? -/
def State.elapsed (s : State) (since period : Nat) : Bool := decide (since + period ≤ s.now)

/-! Epochs: EPOCH bits [63:28] in 36 bits (R35) -/

def epEra (e : Nat) : Nat := e / 2 ^ 20 % 2 ^ 16
def epFrame (e : Nat) : Nat := e / 2 ^ 10 % 2 ^ 10
def epSlot (e : Nat) : Nat := e / 2 ^ 4 % 2 ^ 6
def epSym (e : Nat) : Nat := e % 2 ^ 4

/-- The epoch of an era, frame, slot and symbol (Table 2.2). -/
def mkEpoch (era frame slot sym : Nat) : Nat :=
  (era % 2 ^ 16) * 2 ^ 20 + frame % 2 ^ 10 * 2 ^ 10 + slot % 2 ^ 6 * 2 ^ 4 + sym % 2 ^ 4

/-- An epoch as the 64-bit EPOCH type (Table 2.2). -/
def epochEntry (e : Nat) : Nat := e * 2 ^ 28

/-- The epoch an EPOCH value names; its reserved bits are dropped. -/
def epochOfEntry (v : Nat) : Nat := v / 2 ^ 28 % 2 ^ 36

/-- Record an epoch in an EPOCH element. -/
def State.wrEpoch (s : State) (index sub e : Nat) : State := s.wr index sub (epochEntry e)

/-- The epoch an EPOCH element holds. -/
def State.rdEpoch (s : State) (index sub : Nat) : Nat := epochOfEntry (s.rd index sub)

/-- Does epoch `b` lie at or after epoch `a`, the forward distance being less than half an era cycle (R36)? -/
def epLe (a b : Nat) : Bool := decide ((b + 2 ^ 36 - a) % 2 ^ 36 < 2 ^ 35)

/-! Domains and modes -/

/-- Is the domain of this code (Table 16.1) on? -/
def State.domainOn (s : State) (code : Nat) : Bool := s.rd Ix.DomainState (code + 1) == 2

/-- The mode in force (Table 1.4). -/
def State.mode (s : State) : Nat := s.rd Ix.ModeCurrent 0

/-- The course of a path (R3). -/
def courseOf (p : Nat) : Nat := p / 16

/-- The tile of a path (R3). -/
def tileOf (p : Nat) : Nat := p / 4

/-- Paths 0 to 63. -/
def allPaths : List Nat := List.range 64

/-- The paths of a course. -/
def coursePaths (c : Nat) : List Nat := (List.range 16).map (· + 16 * c)

/-! Events -/

/-- Fields of an event's DATA, each a width and a value, from bit 47 downward (R82). -/
def packData (fields : List (Nat × Nat)) : Nat :=
  (fields.foldl (fun (acc : Nat × Nat) f => (acc.1 - f.1, acc.2 + (f.2 % 2 ^ f.1) * 2 ^ (acc.1 - f.1))) (48, 0)).2

def fEpoch (e : Nat) : Nat × Nat := (36, e)
def fFlag (b : Bool) : Nat × Nat := (1, b2n b)
def f8 (n : Nat) : Nat × Nat := (8, n)
def f16 (n : Nat) : Nat × Nat := (16, n)
def fEntry (index sub : Nat) : Nat × Nat := (24, ck index sub)
def fCount (n : Nat) : Nat × Nat := (12, min n 4095)
def f32 (n : Nat) : Nat × Nat := (32, n)
def fI32 (i : Int) : Nat × Nat := (32, ofInt 32 i)
def f40 (n : Nat) : Nat × Nat := (40, n)

/-- The source entry of an event code (Table 3.14). -/
def eventIndex (code : Nat) : Nat :=
  match code with
  | 0x1101 | 0x1102 => Ix.ModeCurrent
  | 0x1103 => Ix.ObserveCaptureBase
  | 0x1110 => Ix.GovLateSymbols
  | 0x1201 => Ix.DlUnderruns
  | 0x1202 => Ix.CommitMissedCount
  | 0x1203 => Ix.LastCommitEpoch
  | 0x1204 => Ix.CommitDeferLimit
  | 0x1205 | 0x1206 | 0x1207 => Ix.TimeLockState
  | 0x1208 => Ix.UlPartialSent
  | 0x1401 => Ix.EventsLost
  | 0x1402 => Ix.MasterPresence
  | 0x1403 => Ix.DomainTransfersOpen
  | 0x2001 | 0x2002 => Ix.SynState
  | 0x2003 => Ix.LoSource
  | 0x2004 => Ix.TxLateCount
  | 0x2005 => Ix.TxPowerStatus
  | 0x2006 => Ix.MismatchFlag
  | 0x2007 => Ix.RxDcResidual
  | 0x3004 => Ix.MixSatCount
  | 0x3005 => Ix.SectionRejects
  | 0x3006 => Ix.MixPoisonCount
  | 0x3007 => Ix.PrachSkipped
  | 0x3401 => Ix.SoundingSkipped
  | 0x3402 => Ix.SoundingDropped
  | 0x3403 => Ix.LibraryValidate
  | 0x3404 => Ix.WeightJobsDone
  | 0x3405 => Ix.WeightJobsFailed
  | 0x3802 | 0x3803 => Ix.LinStatus
  | 0x3804 => Ix.LinNmse
  | 0x3805 => Ix.LinSatCount
  | 0x3C01 | 0x3C02 => Ix.CancelTrainState
  | 0x3C03 => Ix.DuplexIsolation
  | 0x3C04 => Ix.DuplexNoiseRise
  | 0x3C05 => Ix.CancelClipSymbols
  | 0x3C06 => Ix.CancelStatus
  | 0x3C07 | 0x3C08 | 0x3C09 => Ix.CancelSetState
  | 0x4001 | 0x4002 | 0x4004 => Ix.MasonState
  | 0x4003 => Ix.MasonSpareMask
  | 0x4005 => Ix.MasonJobResults
  | 0x4006 => Ix.MasonKernelVersion
  | 0x4401 => Ix.SpeRxPending
  | 0x4402 | 0x4403 | 0x4404 => Ix.SpeTxScheduled
  | 0x4405 => Ix.SpeCounters
  | 0x4406 => Ix.SpeCfoApplied
  | 0x4407 => Ix.SpeAntennaInUse
  | 0x4801 | 0x4803 => Ix.CalRunState
  | 0x4802 => Ix.CalQuality
  | 0x4804 => Ix.CalRollPath
  | 0x4805 => Ix.CalSet
  | 0x4806 | 0x4808 => Ix.CalStoreState
  | 0x4807 => Ix.CalStoreBankState
  | 0x4809 => Ix.TrimValid
  | 0x5001 | 0x5002 | 0x5006 => Ix.LinkState
  | 0x5003 | 0x5004 => Ix.LaneState
  | 0x5005 => Ix.BondsLost
  | 0x5007 => Ix.LinkProfile
  | 0x5008 => Ix.LinkArraySize
  | 0x5009 => Ix.LinkSeqGaps
  | 0x500A => Ix.LenDrops
  | 0x500B => Ix.StreamRate
  | 0x500C => Ix.LinkDelay
  | 0x500D => Ix.CreditResyncs
  | 0x5401 => Ix.EccCorrected
  | 0x5402 => Ix.EccUncorrectable
  | 0x5403 => Ix.ScrubPasses
  | 0x5404 => Ix.LocksHeld
  | 0x5801 | 0x5802 | 0x5803 | 0x5804 => Ix.DmaState
  | 0x6001 | 0x6002 => Ix.PowerHold
  | 0x6003 | 0x6408 => Ix.DomainState
  | 0x6004 => Ix.ClockSource
  | 0x6005 => Ix.WakeEdgesLost
  | 0x6401 => Ix.ResetCause
  | 0x6402 => Ix.BootState
  | 0x6403 => Ix.ConfigProfileDigest
  | 0x6404 => Ix.KeySlotState
  | 0x6405 => Ix.Altered
  | 0x6406 => Ix.AttestReport
  | 0x6407 => Ix.IdentitySignature
  | 0x6801 | 0x6802 => Ix.HkConverterState
  | 0x6803 | 0x6805 => Ix.BiasStatus
  | 0x6804 => Ix.BiasRangeNow
  | 0x6C01 | 0x6C02 | 0x6C05 | 0x6C06 | 0x6C07 => Ix.TempStatus
  | 0x6C03 => Ix.ThrottleReduction
  | 0x6C04 => Ix.TileMuted
  | 0x7001 => Ix.PathFault
  | 0x7002 => Ix.ObsShare
  | 0x7003 => Ix.LeaseTable
  | 0x7004 => Ix.SafeHoldCauses
  | _ => 0

/-- The class under which an event enters the fault log (R424, Table 19.1); `none` where it is not logged. SENSOR_FAULT is
of a remote sensor below sensor 16 and of a die sensor above; WAKE_FAIL is logged for a course domain. -/
def faultClass (code sub : Nat) : Option Nat :=
  match code with
  | 0x5003 => some 0x01
  | 0x5402 => some 0x02
  | 0x4001 => some 0x03
  | 0x6802 => some 0x04
  | 0x7001 => some 0x05
  | 0x2002 => some 0x06
  | 0x7002 => some 0x07
  | 0x6C07 => if sub ≤ 16 then some 0x08 else some 0x09
  | 0x6803 => some 0x0A
  | 0x4407 => some 0x0B
  | 0x6003 => if 9 ≤ sub then some 0x0C else none
  | 0x7004 | 0x6401 => some 0x00
  | _ => none

/-- Enter a record in the fault log (R424): at 256 entries the oldest is replaced and counted. -/
def State.logFault (s : State) (r : EventRec) (cls : Nat) (led : Bool) : State :=
  let e : FaultEntry := { record := r, cls := cls, led := led, releases := s.rd Ix.ReleaseCount 2 }
  if s.ev.log.length < 256 then { s with ev := { s.ev with log := s.ev.log ++ [e] } }
  else
    let s := { s with ev := { s.ev with log := s.ev.log.drop 1 ++ [e] } }
    s.bump Ix.FaultLogOverwrites 0

/-- Put a record into the event queue; a record raised while it is full is lost and counted (R83). -/
def State.queueEvent (s : State) (r : EventRec) : State :=
  if s.ev.queue.length < 1024 then { s with ev := { s.ev with queue := s.ev.queue ++ [r] } }
  else
    let s := { s with ev := { s.ev with lostSince := s.ev.lostSince + 1 } }
    s.bump Ix.EventsLost 0

/-- Raise an event from a named source entry (R81), with the mark whether it led to Safe Hold. -/
def State.raiseAt (s : State) (code index sub data : Nat) (led : Bool) : State :=
  let r : EventRec := { epoch := s.epoch, index := index, sub := sub, pos := s.pos, code := code, data := data }
  let s := s.queueEvent r
  match faultClass code sub with
  | some c => s.logFault r c led
  | none => s

/-- Raise an event whose source Table 3.14 gives by its code (R81). -/
def State.raise (s : State) (code sub data : Nat) : State := s.raiseAt code (eventIndex code) sub data false

/-- Remove the `n` oldest records; the records lost since the last EVENT_OVERFLOW are then reported (R83). -/
def State.dropEvents (s : State) (n : Nat) : State :=
  let s := { s with ev := { s.ev with queue := s.ev.queue.drop n } }
  if s.ev.lostSince = 0 then s
  else
    let k := s.ev.lostSince
    let s := { s with ev := { s.ev with lostSince := 0 } }
    s.raise 0x1401 0 (packData [fCount k])

/-- Raise LOOP_BOUND (R183): loop code, edge, and whether the loop arrived at it or left it; path 0xFF for the device. -/
def State.raiseLoopBound (s : State) (path loop edge : Nat) (arrived : Bool) : State :=
  let data := packData [f8 path, f8 loop, f8 edge, fFlag arrived]
  if path = 0xFF then s.raiseAt 0x3801 Ix.LoopBoundCount loop data false
  else s.raiseAt 0x3801 Ix.LoopBound (path + 1) data false

/-- The edge a loop is at: 0 for none, else MIN, MAX, STEP or CLAMPED. -/
def State.loopEdge (s : State) (path loop : Nat) : Nat := tget 0 (path * 8 + loop) s.loopEdges

/-- The paths a loop acts on, by its scope (Table 7.2): a path's own, the four of a tile, or all. -/
def loopPaths (path loop : Nat) : List Nat :=
  if path = 0xFF then List.range 64 else if loop = 6 then (List.range 4).map (fun k => path / 4 * 4 + k) else [path]

/-- A loop's bit of `LoopBound`, on each path it acts on. -/
def State.showLoop (s : State) (path loop : Nat) (b : Bool) : State :=
  (loopPaths path loop).foldl (fun s p => s.wrBit Ix.LoopBound (p + 1) (loop - 1) b) s

/-- A value of a loop comes into force at an edge (0: it needed no limit). Arrivals set the bit in `LoopBound`, are counted
and raise LOOP_BOUND with flag 1; the first value that needs no limit clears it and raises flag 0 with the edge left (R183). -/
def State.loopAt (s : State) (path loop edge : Nat) : State :=
  let old := s.loopEdge path loop
  let s' := { s with loopEdges := tput 0 (path * 8 + loop) edge s.loopEdges }
  if edge = old then s
  else if edge = 0 then
    (s'.showLoop path loop false).raiseLoopBound path loop old false
  else
    ((s'.showLoop path loop true).bump Ix.LoopBoundCount loop).raiseLoopBound path loop edge true

end Sys2Proof.Machine
end

