-- ==== Sys2Proof/Machine/Time.lean ====
section
/-! DEFINITION. Symbol lengths, epoch arithmetic and lead times (R32 to R36, R41). -/
namespace Sys2Proof.Machine

/-- Slots per frame of a numerology code (Table 2.1). -/
def slotsPerFrame : Nat → Nat
  | 0 => 10
  | 1 => 20
  | _ => 40

/-- Samples of a normal symbol (Table 2.1). -/
def normalSymbol : Nat → Nat
  | 0 => 70144
  | 1 => 35072
  | _ => 17536

/-- Samples of the useful part of a symbol (Table 2.1). -/
def usefulPart : Nat → Nat
  | 0 => 65536
  | 1 => 32768
  | _ => 16384

/-- Symbols in a half-subframe of 0.5 ms. -/
def symbolsPerHalf : Nat → Nat
  | 0 => 7
  | 1 => 14
  | _ => 28

/-- Is a symbol the long one, symbol 0 of a half-subframe (R32)? -/
def isLongSymbol (nu e : Nat) : Bool := (epSlot e * 14 + epSym e) % symbolsPerHalf nu == 0

/-- The length of a symbol in samples at 983.04 MS/s (Table 2.1). -/
def symbolSamples (nu e : Nat) : Nat := normalSymbol nu + (if isLongSymbol nu e then 512 else 0)

/-- The length of a symbol in units: one sample is 3,125 units. -/
def symbolUnits (nu e : Nat) : Nat := 3125 * symbolSamples nu e

/-- The offset of a symbol's tick from its frame's start, in samples. -/
def symbolOffset (nu e : Nat) : Nat :=
  let k := symbolsPerHalf nu
  let i := epSlot e * 14 + epSym e
  let r := i % k
  i / k * 491520 + (if r = 0 then 0 else r * normalSymbol nu + 512)

/-- The sealed commits that carry `Numerology`, as target and value. -/
def State.numerologyCommits (s : State) : List (Nat × Nat) :=
  s.host.commits.filterMap (fun c =>
    match c.items.find? (fun it => it.index == Ix.Numerology) with
    | some ⟨_, _, .num v⟩ => some (c.target, v)
    | _ => none)

/-- The numerology that will be in force at an epoch, sealed commits taken into account (R35). -/
def State.numerologyAt (s : State) (e : Nat) : Nat :=
  s.numerologyCommits.foldl (fun nu c => if epLe c.1 e then c.2 else nu) (s.rd Ix.Numerology 0)

/-- The epoch after an epoch, in a numerology (R35, R36). -/
def epochNext (nu e : Nat) : Nat :=
  if epSym e < 13 then mkEpoch (epEra e) (epFrame e) (epSlot e) (epSym e + 1)
  else if epSlot e + 1 < slotsPerFrame nu then mkEpoch (epEra e) (epFrame e) (epSlot e + 1) 0
  else if epFrame e < 1023 then mkEpoch (epEra e) (epFrame e + 1) 0 0
  else mkEpoch (epEra e + 1) 0 0 0

/-- The epoch after an epoch. -/
def State.nextEpoch (s : State) (e : Nat) : Nat := epochNext (s.numerologyAt e) e

/-- The epoch before an epoch. -/
def State.prevEpoch (s : State) (e : Nat) : Nat :=
  if 0 < epSym e then e - 1
  else if 0 < epSlot e then mkEpoch (epEra e) (epFrame e) (epSlot e - 1) 13
  else
    let f := (epEra e * 1024 + epFrame e + 65536 * 1024 - 1) % (65536 * 1024)
    mkEpoch (f / 1024) (f % 1024) (slotsPerFrame (s.numerologyAt (mkEpoch (f / 1024) (f % 1024) 0 0)) - 1) 13

/-- The epoch `n` epochs after an epoch. -/
def State.addEpochs (s : State) : Nat → Nat → Nat
  | 0, e => e
  | n + 1, e => s.addEpochs n (s.nextEpoch e)

/-- The linear count of an epoch in one numerology (R36). -/
def linearCount (nu e : Nat) : Nat :=
  ((epEra e * 1024 + epFrame e) * slotsPerFrame nu + epSlot e) * 14 + epSym e

/-- Epochs from `a` forward to `b`, each part counted in the numerology in force at its own epochs (R36). -/
def State.epochsBetween (s : State) (a b : Nat) : Nat :=
  let nu := s.numerologyAt a
  let nv := s.numerologyAt b
  let cycle := 65536 * 1024
  if nu = nv then
    (linearCount nu b + cycle * slotsPerFrame nu * 14 - linearCount nu a) % (cycle * slotsPerFrame nu * 14)
  else
    let change := s.numerologyCommits.foldl (fun m c => if epLe c.1 b && epLe a c.1 then c.1 else m) b
    (linearCount nu change + cycle * slotsPerFrame nu * 14 - linearCount nu a) % (cycle * slotsPerFrame nu * 14)
      + (linearCount nv b + cycle * slotsPerFrame nv * 14 - linearCount nv change) % (cycle * slotsPerFrame nv * 14)

/-- Frames from an epoch's frame forward to another's, in a full era cycle. -/
def framesBetween (a b : Nat) : Nat :=
  (epEra b * 1024 + epFrame b + 65536 * 1024 - (epEra a * 1024 + epFrame a)) % (65536 * 1024)

/-- Units from the tick of the epoch in progress to the tick of a later epoch; 0 where it does not lie later. -/
def State.untilTick (s : State) (e : Nat) : Nat :=
  3125 * (framesBetween s.epoch e * 9830400 + symbolOffset (s.numerologyAt e) e
    - symbolOffset (s.rd Ix.Numerology 0) s.epoch)

/-- The instant of the tick of an epoch at or after the one in progress. -/
def State.tickOf (s : State) (e : Nat) : Nat := s.tb.tickAt + s.untilTick e

/-- The instant of the next tick. -/
def State.nextTickAt (s : State) : Nat := s.tb.tickAt + symbolUnits (s.rd Ix.Numerology 0) s.epoch

/-- The earliest epoch after the one in progress whose tick lies at or after an instant, searched over `fuel` epochs. -/
def State.earliestAtOrAfter (s : State) (at_ : Nat) : Nat → Nat → Nat
  | 0, e => e
  | fuel + 1, e => if at_ ≤ s.tickOf e then e else s.earliestAtOrAfter at_ fuel (s.nextEpoch e)

/-- The earliest epoch at least `t` units after now. -/
def State.earliestAfter (s : State) (t : Nat) : Nat :=
  s.earliestAtOrAfter (s.now + t) (t / (3125 * 17536) + 2) (s.nextEpoch s.epoch)

/-- Is the first symbol of a slot? -/
def isSlotStart (e : Nat) : Bool := epSym e == 0

/-- Is it an epoch of the form E[f.0.0]? -/
def isFrameStart (e : Nat) : Bool := epSym e == 0 && epSlot e == 0

/-- The first slot boundary at or after an epoch. -/
def State.slotStartFrom (s : State) (e : Nat) : Nat :=
  if isSlotStart e then e
  else
    let last := mkEpoch (epEra e) (epFrame e) (epSlot e) 13
    s.nextEpoch last

/-- The first slot boundary after an epoch. -/
def State.nextSlotStart (s : State) (e : Nat) : Nat :=
  s.nextEpoch (mkEpoch (epEra e) (epFrame e) (epSlot e) 13)

/-- Symbol 0 of the first slot that begins at least two epochs after now (R179, R203, R247, R368): two whole epochs lie between, as the worked
example of R179 counts them. -/
def State.slotTwoEpochsOn (s : State) : Nat := s.slotStartFrom (s.addEpochs (if s.now = s.tb.tickAt then 2 else 3) s.epoch)

/-- Is an EPOCH value acceptable (R35)? Its slot must be below the slots per frame in force at the epoch it names and its
symbol at most 13. -/
def State.epochOk (s : State) (v : Nat) : Bool :=
  let e := epochOfEntry v
  decide (epSym e ≤ 13) && decide (epSlot e < slotsPerFrame (s.numerologyAt e))

/-- Does an epoch lie more than 1,024 frames in the future (R36)? -/
def State.beyondLimit (s : State) (e : Nat) : Bool :=
  epLe s.epoch e && !epLe e (mkEpoch (epEra s.epoch + 1) (epFrame s.epoch) (epSlot s.epoch) (epSym s.epoch))

/-- The earliest target of a device-scope commit: e + 3 (R41). -/
def State.earliestCommit (s : State) : Nat := s.addEpochs 3 s.epoch

/-- The earliest target of an array-scope commit: the first tick at least 1 ms after arrival (R41). -/
def State.earliestArrayCommit (s : State) : Nat := s.earliestAfter (msec 1)

end Sys2Proof.Machine
end

