-- ==== Sys2Proof/Machine/Commits.lean ====
section
/-! DEFINITION. Sealed commits as the device's own functions make and lose them, and leases as plain records (R40 to R44,
R154, R275). -/
namespace Sys2Proof.Machine

/-- Add a sealed commit behind the earlier ones (R40). -/
def State.sealCommit (s : State) (c : SealedCommit) : State :=
  { s with host := { s.host with commits := s.host.commits ++ [c] } }

/-- A commit a device function seals for its own result. -/
def internalCommit (source : CommitSource) (target : Nat) (asap array : Bool) (items : List StagedItem) : SealedCommit :=
  { source := source, target := target, original := target, asap := asap, array := array, deferred := false,
    missed := false, armed := false, decided := false, items := items }

/-- Discard the sealed commits a test picks, each with COMMIT_FAIL: its original target and the reason (R43, Table 2.7). -/
def State.failCommits (s : State) (pick : SealedCommit → Bool) (reason : Nat) : State :=
  let gone := s.host.commits.filter pick
  let s := { s with host := { s.host with commits := s.host.commits.filter (fun c => !pick c) } }
  gone.foldl (fun s c => s.raise 0x1204 0 (packData [fEpoch c.original, f8 reason])) s

/-- Give an element a raw value, with nothing else that a commit of it does. -/
def State.putItem (s : State) (it : StagedItem) : State :=
  match it.value with
  | .num v => s.wr it.index it.sub v
  | .bytes l => { s with dom := tins (ck it.index it.sub) l s.dom }

/-- Insertion of a commit behind those whose target is not later (R42: order of target, then of arrival). -/
def insertCommit (c : SealedCommit) : List SealedCommit → List SealedCommit
  | [] => [c]
  | d :: t => if epLe d.target c.target then d :: insertCommit c t else c :: d :: t

/-- Commits in the order in which they come into force (R42). -/
def commitOrder (l : List SealedCommit) : List SealedCommit := l.foldl (fun acc c => insertCommit c acc) []

/-- `CourseBursts` of a course in force. -/
def State.bursts (s : State) (c : Nat) : List Byte :=
  match s.dom.find? (fun x => x.1 == ck Ix.CourseBursts (c + 1)) with
  | some x => x.2
  | none => List.replicate 256 0

/-- The burst records of a course that a commit changes take its epoch (R101). -/
def State.dateBursts (s : State) (c : Nat) (new : List Byte) (target : Nat) : State :=
  let old := s.bursts c
  let changed := (List.range 16).filter (fun r => sliceBytes old (16 * r) 16 != sliceBytes new (16 * r) 16)
  { s with radio := { s.radio with burstEpoch := changed.foldl (fun t r => tput 0 (16 * c + r) target t) s.radio.burstEpoch } }

/-- The values of a commit come into force at an epoch, with the plan's start (R98) and the epochs of the burst records (R101). -/
def State.putCommit (s : State) (target : Nat) (items : List StagedItem) : State :=
  let s := items.foldl (fun s it => match it.value with
    | .bytes l => if it.index = Ix.CourseBursts then s.dateBursts (it.sub - 1) l target else s
    | .num _ => s) s
  let s := items.foldl State.putItem s
  if items.any (fun it => it.index == Ix.SlotPlan || it.index == Ix.SlotPlanLength) then s.wrEpoch Ix.SlotPlanStart 0 target else s

/-- The state as the Catalogue will stand at an epoch, the sealed commits that target it or an earlier epoch and are not to be discarded
applied (R42); only its Catalogue values are meant. -/
def State.viewAt (s : State) (target : Nat) : State :=
  ((commitOrder s.host.commits).filter (fun c => !c.decided && epLe c.target target)).foldl (fun v c => v.putCommit c.target c.items) s

/-- The mode at a later epoch, as it is prepared or due now (R27, R29). -/
def State.modeOnAir (s : State) (target : Nat) : Nat :=
  if s.modes.safeHoldDue then 7
  else if s.modes.standbyDue then 1
  else match s.modes.underWay with
    | some t =>
      match t.target with
      | .mode m => if t.prepared && epLe t.epoch target then m else s.mode
      | .power _ _ => s.mode
    | none => s.mode

/-- The Catalogue as it stands on the air at an epoch: the mode prepared for it, and the commits whose readiness is decided for it or an
earlier one applied (R27, R42, R43); only its Catalogue values are meant. -/
def State.airAt (s : State) (target : Nat) : State :=
  ((commitOrder s.host.commits).filter (fun c => c.armed && epLe c.target target)).foldl (fun v c => v.putCommit c.target c.items)
    (s.wr Ix.ModeCurrent 0 (s.modeOnAir target))

/-- Is an entry STALE because a commit that would change it was found not ready (R43)? -/
def State.commitStale (s : State) (index sub : Nat) : Bool :=
  s.host.commits.any (fun c => c.missed && c.items.any (fun it => it.index == index && it.sub == sub))

/-- The lease held on a resource code of Table 11.10. -/
def State.leaseOf (s : State) (resource : Nat) : Option Lease := s.leases.find? (fun l => l.resource == resource)

/-- Is a resource held? -/
def State.leased (s : State) (resource : Nat) : Bool := (s.leaseOf resource).isSome

/-- Take a resource that is free. -/
def State.takeLease (s : State) (resource owner : Nat) (expiry : Option Nat) (master : Option Master) : State :=
  { s with leases := s.leases.filter (fun l => l.resource != resource) ++
      [{ resource := resource, owner := owner, expiry := expiry, master := master }] }

/-- Remove a lease from the table, with nothing restored: the release side of Table 19.4 is its caller's. -/
def State.freeLease (s : State) (resource : Nat) : State :=
  { s with leases := s.leases.filter (fun l => l.resource != resource) }

/-- The owner field of a device function (Table 11.10). -/
def State.functionOwner (s : State) (fn : Nat) : Nat := 0x05000000 + s.pos * 0x10000 + fn

/-- The owner field of the host, a vendor job or a user job (Table 11.10). -/
def State.ownerField (s : State) (kind number : Nat) : Nat := kind * 0x1000000 + s.pos * 0x10000 + number

/-! The job controller's records (R152 to R162) -/

def WeightJob.dir (j : WeightJob) : Nat := bitsOf (fieldLE j.record 0 1) 1 0
def WeightJob.array (j : WeightJob) : Bool := bitAt (fieldLE j.record 0 1) 7
def WeightJob.commit (j : WeightJob) : Bool := bitAt (fieldLE j.record 0 1) 6
def WeightJob.keep (j : WeightJob) : Bool := bitAt (fieldLE j.record 0 1) 4
def WeightJob.algorithm (j : WeightJob) : Nat := fieldLE j.record 1 1
def WeightJob.layers (j : WeightJob) : Nat := fieldLE j.record 2 1
def WeightJob.group (j : WeightJob) : Nat := fieldLE j.record 3 1
def WeightJob.first (j : WeightJob) : Nat := fieldLE j.record 4 2
def WeightJob.count (j : WeightJob) : Nat := fieldLE j.record 6 2
def WeightJob.dlSlot (j : WeightJob) : Nat := fieldLE j.record 8 1
def WeightJob.ulSlot (j : WeightJob) : Nat := fieldLE j.record 9 1
def WeightJob.sigma2 (j : WeightJob) : Nat := fieldLE j.record 12 4
def WeightJob.source (j : WeightJob) : Nat := fieldLE j.record 32 8

/-- The entries of the first L layers (Table 6.4). -/
def WeightJob.entries (j : WeightJob) : List Nat :=
  if j.algorithm = 3 then [] else (List.range j.layers).map (fun l => fieldLE j.record (40 + 2 * l) 2)

/-- The folio slots a job writes, as DIR gives. -/
def WeightJob.slots (j : WeightJob) : List Nat :=
  (if j.dir = 1 then [] else [j.dlSlot]) ++ (if j.dir = 0 then [] else [j.ulSlot])

/-- Is a Library entry pinned (R149)? -/
def State.pinned (s : State) (entry : Nat) : Bool := s.lib.jobs.any (fun j => j.entries.contains entry)

/-- Keep a finished job's result, newest first, at most 16. -/
def State.keepResult (s : State) (r : JobResult) : State :=
  { s with lib := { s.lib with results := (r :: s.lib.results).take 16 } }

/-- A job ends in JOB_FAIL: it leaves the queue, its pins and slot leases go, its internal commit is discarded with
COMMIT_FAIL (R162, Table 6.6). `at_` is the array position of the failing device. -/
def State.failJob (s : State) (job reason at_ : Nat) : State :=
  match s.lib.jobs.find? (fun j => j.job == job) with
  | none => s
  | some j =>
    let s := { s with lib := { s.lib with jobs := s.lib.jobs.filter (fun k => k.job != job),
                                          slotLease := s.lib.slotLease.filter (fun c => c.2 != job) } }
    let s := s.keepResult ⟨job, 6, reason, j.accepted, s.epoch, 0, 0, 0⟩
    let s := s.bump Ix.WeightJobsFailed 0
    let s := s.failCommits (fun c => c.source == .weightJob job) (if reason = 7 then 2 else 3)
    s.raise 0x3405 0 (packData [f16 job, f8 reason, f8 at_])

end Sys2Proof.Machine
end

