-- ==== Sys2Proof/Machine/Memory.lean ====
section
/-! DEFINITION. The address map, the codes, poison, the read-modify-write locks, and what a Mortar write into a region does
beside storing (R12 to R15, R136, R150, R196, R318 to R336, R393). -/
namespace Sys2Proof.Machine

/-- The code of the region an address lies in (Table 14.1). -/
def regionOf (a : Nat) : Option Nat :=
  if a < 0x100000000 then some 1
  else if 0x1000000000 ≤ a ∧ a < 0x1000000000 + 48 * 0x100000 then some 2
  else if 0x1100000000 ≤ a ∧ a < 0x1100000000 + 48 * 0x40000 then some 3
  else if 0x1200000000 ≤ a ∧ a < 0x1200000000 + 4 * 0x100000 then some 4
  else if 0x1300000000 ≤ a ∧ a < 0x1300000000 + 0xC000 then some 5
  else if 0x1400000000 ≤ a ∧ a < 0x1400000000 + 256 * 0x100000 then some 6
  else none

/-- The domain a region's memory is in (Tables 1.1 and 16.1). -/
def regionDomain (region a : Nat) : Nat :=
  match region with
  | 1 => 5
  | 2 => 2
  | 3 => 4
  | 4 => if a / 0x100000 % 2 = 0 then 6 else 7
  | 5 => 0
  | _ => 2

/-- The domain an access to an address needs. -/
def accessDomain (a : Nat) : Option Nat := (regionOf a).map (fun r => regionDomain r a)

/-- The base of the Weight Stage, of a shelf, of a CAPTURE ring and of the boot flash window (Tables 14.1 and 13.7). -/
def weightStageBase : Nat := 0x1000000000
def shelfBase (m : Nat) : Nat := 0x1100000000 + m * 0x40000
def captureRingBase (port : Nat) : Nat := 0x1200200000 + port * 0x100000
def spe_Base : Nat := 0x1300000000
def flashBase : Nat := 0x1400000000

/-- The base of a folio slot (Table 5.4). -/
def folioSlotBase (slot : Nat) : Nat := weightStageBase + slot * 0x900000

/-- The base of the static region (Table 5.4). -/
def staticRegionBase : Nat := weightStageBase + 0x2400000

/-! Bytes as stored -/

/-- What a byte that nothing has written reads as: 0, which R322 gives the Archive after a cold release; log entry 2 says
it of the other memories. -/
def unwrittenByte : Byte := 0

/-- The canonical form of a memory: addresses strictly rising, and no cell that holds what an unlisted address reads as. -/
def Memory.wf (t : Tab Byte) : Bool := sortedKeys t && t.all (fun c => c.2 != unwrittenByte)

/-- One byte as stored. -/
def State.byteAt (s : State) (a : Nat) : Byte := tget unwrittenByte a s.mem.bytes

/-- Bytes from an address upward, as stored. -/
def State.bytesAt (s : State) (a n : Nat) : List Byte := (List.range n).map (fun i => s.byteAt (a + i))

/-- The little-endian number of `n` bytes as stored. -/
def State.numAt (s : State) (a n : Nat) : Nat := leNat (s.bytesAt a n)

/-- Store one byte in canonical form. -/
def State.storeByte (s : State) (a : Nat) (b : Byte) : State :=
  { s with mem := { s.mem with bytes := tput unwrittenByte a b s.mem.bytes } }

/-- Store bytes from an address upward in canonical form: the entries below the range, the new bytes that differ from an
unwritten byte, the entries above it. -/
def storeRange (a : Nat) (l : List Byte) (t : Tab Byte) : Tab Byte :=
  let new := (l.zipIdx.map (fun c => (a + c.2, c.1))).filter (fun c => c.2 != unwrittenByte)
  t.filter (fun c => decide (c.1 < a)) ++ new ++ t.filter (fun c => decide (a + l.length ≤ c.1))

/-- Store bytes from an address upward. -/
def State.storeBytes (s : State) (a : Nat) (l : List Byte) : State :=
  { s with mem := { s.mem with bytes := storeRange a l s.mem.bytes } }

/-- The word an address lies in. -/
def wordOf (a : Nat) : Nat := a / 4 * 4

/-- Is the word at an address stored poison (R333)? -/
def State.poisoned (s : State) (a : Nat) : Bool := s.mem.poison.contains (wordOf a)

/-- Store a word as poison: zero data bits with the mark (R333). -/
def State.storePoison (s : State) (a : Nat) : State :=
  let s := s.storeBytes (wordOf a) [0, 0, 0, 0]
  { s with mem := { s.mem with poison := insertNat (wordOf a) s.mem.poison,
                               upsets := s.mem.upsets.filter (fun u => u.addr != wordOf a) } }

/-- Does any word of a byte range carry the mark? -/
def State.rangePoisoned (s : State) (a n : Nat) : Bool :=
  s.mem.poison.any (fun w => decide (wordOf a ≤ w) && decide (w < a + n))

/-! Counting and logging errors -/

/-- Log an error in `EccLog` (R332): the entry of the same address is updated, else a free entry is taken, else the oldest
whose KIND is not 0x03 is replaced, else the error is not logged and is counted. The newest update stands first. -/
def State.logEcc (s : State) (addr region syndrome kind : Nat) : State :=
  match s.mem.eccLog.find? (fun e => e.addr == addr) with
  | some e =>
    let e' := { e with syndrome := syndrome, kind := kind, epoch := s.epoch, count := min (e.count + 1) 65535 }
    { s with mem := { s.mem with eccLog := e' :: s.mem.eccLog.filter (fun x => x.addr != addr) } }
  | none =>
    let e : EccEntry :=
      { addr := addr, region := region, syndrome := syndrome, kind := kind, epoch := s.epoch, count := 1 }
    if s.mem.eccLog.length < 32 then { s with mem := { s.mem with eccLog := e :: s.mem.eccLog } }
    else
      match s.mem.eccLog.reverse.find? (fun x => x.kind != 3) with
      | some old => { s with mem := { s.mem with eccLog := e :: s.mem.eccLog.filter (fun x => x.addr != old.addr) } }
      | none => s.bump Ix.EccLogOverflow 0

/-- Report the correctable errors of a region, at most once per second (R331). -/
def State.reportCorrected (s : State) (region : Nat) : State :=
  let n := tget 0 region s.mem.eccSince
  let due := match tget none region (s.mem.eccLast.map (fun c => (c.1, some c.2))) with
    | none => true
    | some t => s.elapsed t (msec 1000)
  if n = 0 ∨ due = false then s
  else
    let s := { s with mem := { s.mem with eccSince := tput 0 region 0 s.mem.eccSince,
                                          eccLast := tins region s.now s.mem.eccLast } }
    s.raise 0x5401 region (packData [f8 region, fCount n])

/-- Count and log a correctable error (R326, R331). -/
def State.countCorrected (s : State) (addr region syndrome kind : Nat) : State :=
  let s := s.bump Ix.EccCorrected region
  let s := { s with mem := { s.mem with eccSince := tput 0 region (tget 0 region s.mem.eccSince + 1) s.mem.eccSince } }
  (s.logEcc addr region syndrome kind).reportCorrected region

/-- Count, log and report an uncorrectable word (R326, R331). -/
def State.countUncorrectable (s : State) (addr region syndrome : Nat) : State :=
  let s := s.bump Ix.EccUncorrectable region
  let s := s.logEcc addr region syndrome 3
  s.raise 0x5402 region (packData [f8 region, f40 addr])

/-- Count a consumption of a poisoned word, by its region of origin (R334). -/
def State.consumePoison (s : State) (a : Nat) : State :=
  match regionOf a with
  | some r => if r ≤ 5 then s.bump Ix.PoisonConsumed r else s
  | none => s

/-! Reading -/

/-- What one read of a word delivers. -/
structure WordRead where
  data : Nat
  poison : Bool
  error : Bool
  deriving DecidableEq, Repr

/-- The first page of a byte range whose read needs the slow path: an Archive word whose light code fails (R326). -/
def State.slowPageOf (s : State) (a n : Nat) : Option Nat :=
  (s.mem.upsets.find? (fun u => !u.light && decide (u.addr < 0x100000000) && decide (wordOf a ≤ u.addr)
    && decide (u.addr < a + n))).map (fun u => u.addr / 2048)

/-- Is any page of a byte range on the slow path (R327)? -/
def State.onSlowPath (s : State) (a n : Nat) : Bool :=
  s.mem.slow.any (fun p => decide (p.page * 2048 < a + n) && decide (a < p.page * 2048 + 2048))

/-- Put a page on the slow path. -/
def State.startSlowPath (s : State) (page : Nat) : State :=
  if s.mem.slow.any (fun p => p.page == page) then s
  else { s with mem := { s.mem with slow := s.mem.slow ++ [{ page := page, since := s.now }] } }

/-- May an access to a byte range be made now? It is held while a page of the range is on the slow path, and it sends a
page there whose light code fails (R326, R327). -/
def State.slowHold (s : State) (a n : Nat) : Bool × State :=
  if s.onSlowPath a n then (true, s)
  else match s.slowPageOf a n with
    | some p => (true, s.startSlowPath p)
    | none => (false, s)

/-- Meet an upset of a word (R326): a light-code error is corrected, counted and written back; a word of an SRAM whose
light code fails becomes stored poison. -/
def State.meetUpset (s : State) (a : Nat) : State :=
  match s.mem.upsets.find? (fun u => u.addr == wordOf a), regionOf a with
  | some u, some r =>
    if u.light then
      let s := { s with mem := { s.mem with upsets := s.mem.upsets.filter (fun v => v.addr != u.addr) } }
      s.countCorrected u.addr r u.syndrome 1
    else if r = 1 then s
    else (s.storePoison u.addr).countUncorrectable u.addr r u.syndrome
  | _, _ => s

/-- Is an access of a master into a page shut out by a lock (R330)? -/
def State.lockedOut (s : State) (m : Master) (a : Nat) : Bool :=
  decide (a < 0x100000000) && s.mem.journals.any (fun j => j.holder != m && j.pages.contains (a / 2048))

/-- Does an access to a region complete with an error response whatever it asks: its domain held by a domain reset (R382) or failed to
wake (R363), or the Archive without a reference (R365)? -/
def State.targetDead (s : State) (r a : Nat) : Bool :=
  (r == 1 && s.power.archHeld) || s.power.resetting.contains (regionDomain r a)
    || s.rd Ix.DomainState (regionDomain r a + 1) == 4

/-- One read of a word by a master: an address outside every region and a page under another's lock complete with an error
response and poisoned data (R14, R320, R330); a stored poison is delivered with its mark. -/
def State.readWord (s : State) (m : Master) (a : Nat) : WordRead × State :=
  match regionOf a with
  | none => (⟨0, true, true⟩, s)
  | some r =>
    if s.targetDead r a then (⟨0, true, true⟩, s)
    else if s.lockedOut m a then (⟨0, true, true⟩, s.bump Ix.LockRefusals 0)
    else if r = 6 ∧ s.mem.saving.isSome then (⟨0, true, true⟩, s)
    else if s.poisoned a then (⟨0, true, false⟩, s)
    else
      let s := s.meetUpset a
      if s.poisoned a then (⟨0, true, false⟩, s)
      else if r = 4 ∧ a < 0x1200200000 then
        (⟨leNat ((List.range 4).map (fun i => Config.receiveBufferByte s.free (wordOf a + i))), false, false⟩,
          { s with free := s.free + 1 })
      else (⟨s.numAt (wordOf a) 4, false, false⟩, s)

/-- Read words upward: their reads in order. -/
def State.readWords (s : State) (m : Master) : Nat → Nat → List WordRead × State
  | 0, _ => ([], s)
  | n + 1, a =>
    let r := s.readWord m a
    let t := r.2.readWords m n (a + 4)
    (r.1 :: t.1, t.2)

/-! Writing -/

/-- The static folio slots whose extent an address lies in: the offset that `StaticFolioOffset` gives and the length its
header states (R135, R139). -/
def State.staticAt (s : State) (a : Nat) : List Nat :=
  (List.range 16).filter (fun i =>
    let off := s.rd Ix.StaticFolioOffset (i + 1)
    let base := staticRegionBase + off
    off != 0xFFFFFFFF && decide (base ≤ a) && decide (a < base + 64 + s.numAt (base + 32) 4))

/-- A write into a folio slot or static folio that is sealed or failed and not in service returns it to open (R136). -/
def State.folioWritten (s : State) (a : Nat) : State :=
  if a < staticRegionBase then
    let slot := (a - weightStageBase) / 0x900000
    let st := s.rd Ix.FolioSlotState (slot + 1)
    if st = 1 ∨ st = 3 then s.wr Ix.FolioSlotState (slot + 1) 0 else s
  else
    (s.staticAt a).foldl (fun s i =>
      let st := s.rd Ix.StaticFolioState (i + 1)
      if st = 1 ∨ st = 3 then s.wr Ix.StaticFolioState (i + 1) 0 else s) s

/-- The Library entry an Archive address lies in (R146). -/
def State.libraryEntryAt (s : State) (a : Nat) : Option Nat :=
  let base := s.rd Ix.LibraryBase 0
  if base ≤ a ∧ a < base + s.rd Ix.LibraryEntries 0 * 589824 then some ((a - base) / 589824) else none

/-- The address of a Library entry. -/
def State.entryBase (s : State) (e : Nat) : Nat := s.rd Ix.LibraryBase 0 + e * 589824

/-- A Mortar write into a Library entry (R150): STATE becomes empty, or every job naming a pinned entry fails. -/
def State.libraryWritten (s : State) (e : Nat) : State :=
  if s.pinned e then
    ((s.lib.jobs.filter (fun j => j.entries.contains e)).map (·.job)).foldl (fun s j => s.failJob j 2 s.pos) s
  else s.storeByte (s.entryBase e + 1) 0

/-- The canceller set slot an Archive address lies in (R195). -/
def State.cancelSlotAt (s : State) (a : Nat) : Option Nat :=
  let base := s.rd Ix.CancelSetBase 0
  if base ≤ a ∧ a < base + 528896 then some 0
  else if base + 0x100000 ≤ a ∧ a < base + 0x100000 + 528896 then some 1
  else none

/-- A write into a canceller set slot returns it to open; the slot in service stays so from its loaded copy until another selection
takes its place (R196). -/
def State.cancelWritten (s : State) (slot : Nat) : State :=
  let st := s.rd Ix.CancelSetState (slot + 1)
  let d := { s.duplex with copies := tdel slot s.duplex.copies, loads := s.duplex.loads.filter (fun l => l.slot != slot) }
  if st = 1 ∨ st = 3 then { s with duplex := d }.wr Ix.CancelSetState (slot + 1) 0
  else if st = 2 then { s with duplex := { s.duplex with rewritten := (slot :: s.duplex.rewritten).eraseDups } }
  else s

/-- A write into a capture buffer whose capture has not been solved spoils that solve (R175). -/
def State.captureWritten (s : State) (a : Nat) : State :=
  let base := s.rd Ix.LinCaptureBase 0
  if a < base ∨ base + 0x800000 ≤ a then s
  else
    let k := (a - base) / 0x100000
    { s with lin := { s.lin with paths := s.lin.paths.map (fun c => (c.1, { c.2 with capture := c.2.capture.map (fun x =>
      if 2 * x.course + x.buffer = k then { x with spoiled := true } else x) })) } }

/-- Does an address lie in a partition of the Archive (Table 14.2)? -/
def State.inPartition (s : State) (k a n : Nat) : Bool :=
  let base := s.rd Ix.PartitionBase k
  decide (base ≤ a) && decide (a + n ≤ base + s.rd Ix.PartitionSize k)

/-- The first Mortar write after boot into the images partition or a shelf's code window is recorded (R393). -/
def State.noteAltered (s : State) (m : Master) (a : Nat) : State :=
  let images := s.inPartition 4 a 1 && m != .keystone && m != .device
  let code := decide (0x1100000000 ≤ a) && decide (a < shelfBase 48) && decide ((a - 0x1100000000) % 0x40000 < 0x10000)
    && m != .device
  if s.reset_.bootDone && !s.rdB Ix.Altered 0 && (images || code) then
    let s := ((s.wr Ix.Altered 0 1).wr Ix.AlteredAddress 0 a).wrEpoch Ix.AlteredEpoch 0 s.epoch
    s.raise 0x6405 0 (packData [f40 a])
  else s

/-- The CAPTURE ring an address lies in, and the chunk of `CaptureChunk` words it falls in (R319). -/
def State.captureChunkAt (s : State) (a : Nat) : Option (Nat × Nat) :=
  if 0x1200200000 ≤ a ∧ a < 0x1200400000 then
    let port := (a - 0x1200200000) / 0x100000
    some (port, (a - captureRingBase port) / (4 * s.rd Ix.CaptureChunk (port + 1)))
  else none

/-- Is a write into a CAPTURE ring refused: the chunk's packet is not yet sent, or the chunk is larger than the far end's
class-3 limit less 1 (R319)? -/
def State.captureRefused (s : State) (port chunk : Nat) : Bool :=
  s.captureReady.contains (port, chunk)
    || decide (tget 0 (port * 4 + 3) s.farLimits < s.rd Ix.CaptureChunk (port + 1) + 1)

/-- Bytes written into a CAPTURE chunk: at the chunk's size its packet is ready (R319). -/
def State.captureFill (s : State) (port chunk n : Nat) : State :=
  let size := 4 * s.rd Ix.CaptureChunk (port + 1)
  let got := tget 0 (port * 1024 + chunk) s.captureFills + n
  if size ≤ got then
    { s with captureFills := tput 0 (port * 1024 + chunk) 0 s.captureFills,
             captureReady := s.captureReady ++ [(port, chunk)] }
  else { s with captureFills := tput 0 (port * 1024 + chunk) got s.captureFills }

/-- The journal rule of a lock holder's write (R330): the page enters the journal of each lock the master holds; a 65th
page is refused. -/
def State.journalWrite (s : State) (m : Master) (a : Nat) : Option State :=
  let page := a / 2048
  if 0x100000000 ≤ a then some s
  else if s.mem.journals.any (fun j => j.holder == m && !j.pages.contains page && decide (64 ≤ j.pages.length)) then none
  else some { s with mem := { s.mem with journals := s.mem.journals.map (fun j =>
    if j.holder == m && !j.pages.contains page then { j with pages := j.pages ++ [page] } else j) } }

/-- Another master's write into the code window of a shelf is noted for the task that runs there (R255). -/
def State.noteCodeHit (s : State) (m : Master) (a : Nat) : State :=
  let k := (a - 0x1100000000) / 0x40000
  if (a - 0x1100000000) % 0x40000 < 0x10000 ∧ m ≠ .mason k ∧ m ≠ .device then
    { s with mem := { s.mem with codeHits := insertNat k s.mem.codeHits } }
  else s

/-- What a Mortar write into a region does beside storing. -/
def State.regionWritten (s : State) (m : Master) (a : Nat) : State :=
  match regionOf a with
  | some 1 =>
    let s := match s.libraryEntryAt a with
      | some e => s.libraryWritten e
      | none => s
    let s := match s.cancelSlotAt a with
      | some k => s.cancelWritten k
      | none => s
    (s.captureWritten a).noteAltered m a
  | some 2 => s.folioWritten a
  | some 3 => (s.noteAltered m a).noteCodeHit m a
  | _ => s

/-- Store up to four bytes inside one word as the codes take them (R328, R333): a write of the whole word clears poison and
upsets; a narrow write meets an upset first and leaves a poisoned word poisoned. -/
def State.storeInWord (s : State) (a : Nat) (l : List Byte) : State :=
  if l.length = 4 then
    let s := { s with mem := { s.mem with poison := s.mem.poison.filter (fun w => w != wordOf a),
                                          upsets := s.mem.upsets.filter (fun u => u.addr != wordOf a) } }
    s.storeBytes a l
  else
    let s := s.meetUpset a
    if s.poisoned a then s else s.storeBytes a l

/-- A Mortar write that falls in the bank a save is writing fails the save, though the flash takes nothing (R251, R320). -/
def State.noteBankWrite (s : State) (a : Nat) : State :=
  match s.mem.saving with
  | some base => if base ≤ a ∧ a < base + 0x200000 then { s with mem := { s.mem with saveHit := true } } else s
  | none => s

/-- A write by a master of bytes inside one word, with or without the poison mark: true where it completes with an error
response, and then nothing is stored (R14, R318 to R320, R330, R333). -/
def State.writeWord (s : State) (m : Master) (a : Nat) (l : List Byte) (poison : Bool) : Bool × State :=
  match regionOf a with
  | none => (true, s)
  | some r =>
    if s.targetDead r a then (true, s)
    else if s.lockedOut m a then (true, s.bump Ix.LockRefusals 0)
    else if r = 6 then (true, s.noteBankWrite a)
    else if r = 4 then
      match s.captureChunkAt a with
      | none => (true, s)
      | some (port, chunk) =>
        if s.captureRefused port chunk then (true, s.bump Ix.CaptureOverruns (port + 1))
        else
          let s := if poison then s.storePoison a else s.storeInWord a l
          (false, s.captureFill port chunk l.length)
    else
      match s.journalWrite m a with
      | none => (true, s)
      | some s =>
        let s := s.regionWritten m a
        (false, if poison then s.storePoison a else s.storeInWord a l)

/-- Write words upward until one completes with an error: the offset of the failing word, if any (R317). -/
def State.writeWords (s : State) (m : Master) : Nat → List (List Byte × Bool) → Option Nat × State
  | _, [] => (none, s)
  | a, (l, p) :: t =>
    let r := s.writeWord m a l p
    if r.1 then (some a, r.2) else r.2.writeWords m (a + l.length) t

/-- Split bytes that start at an address into the parts inside each word. -/
def splitWords : Nat → Nat → List Byte → List (List Byte)
  | 0, _, _ => []
  | fuel + 1, a, l =>
    if l.isEmpty then []
    else
      let n := 4 - a % 4
      l.take n :: splitWords fuel (a + n) (l.drop n)

/-- Bytes a device function writes through Mortar, unmarked. -/
def State.placeBytes (s : State) (m : Master) (a : Nat) (l : List Byte) : State :=
  (s.writeWords m a ((splitWords l.length a l).map (fun w => (w, false)))).2

/-! The page code, the scrubber -/

/-- The upsets of a page. -/
def State.pageUpsets (s : State) (page : Nat) : List Upset := s.mem.upsets.filter (fun u => u.addr / 2048 == page)

/-- Does the page code correct a page: at most 16 erroneous byte symbols (R325)? -/
def State.pageCorrects (s : State) (page : Nat) : Bool :=
  decide (((s.pageUpsets page).map (·.symbols)).sum ≤ 16)

/-- The decode of a page by the page code (R326): where it corrects, every word is written back and counted; where it fails,
the words whose light code fails become stored poison. -/
def State.decodePage (s : State) (page : Nat) : State :=
  let us := s.pageUpsets page
  if s.pageCorrects page then
    let s := { s with mem := { s.mem with upsets := s.mem.upsets.filter (fun u => u.addr / 2048 != page) } }
    let s := us.foldl (fun s u => s.countCorrected u.addr 1 u.syndrome (if u.light then 1 else 2)) s
    s.bump Ix.SlowPathReads 0
  else
    us.foldl (fun s u => if u.light then s else (s.storePoison u.addr).countUncorrectable u.addr 1 u.syndrome) s

/-- A device function reads a byte range through the codes: the pages whose light code fails are decoded, the other upsets
are corrected (R326). The slow path's time is within the function's own. -/
def State.settle (s : State) (a n : Nat) : State :=
  let us := s.mem.upsets.filter (fun u => decide (wordOf a ≤ u.addr) && decide (u.addr < a + n))
  us.foldl (fun s u =>
    if !u.light && decide (u.addr < 0x100000000) then s.decodePage (u.addr / 2048) else s.meetUpset u.addr) s

/-- Bytes a device function stores in memory of its own, with the codes but without what a Mortar write does beside storing. -/
def State.ownBytes (s : State) (a : Nat) (l : List Byte) : State :=
  let s := (s.mem.upsets.filter (fun u => decide (wordOf a ≤ u.addr) && decide (u.addr < a + l.length))).foldl
    (fun s u => if a ≤ u.addr ∧ u.addr + 4 ≤ a + l.length then s else s.meetUpset u.addr) s
  let whole := fun (w : Nat) => decide (a ≤ w) && decide (w + 4 ≤ a + l.length)
  let s := { s with mem := { s.mem with poison := s.mem.poison.filter (fun w => !whole w),
                                        upsets := s.mem.upsets.filter (fun u => !whole u.addr) } }
  s.storeBytes a l

/-- Zeros stored over a byte range that begins and ends on words. -/
def State.zeroRange (s : State) (a n : Nat) : State :=
  let out := fun (w : Nat) => !(decide (a ≤ w) && decide (w < a + n))
  { s with mem := { s.mem with bytes := s.mem.bytes.filter (fun c => out c.1), poison := s.mem.poison.filter out,
                               upsets := s.mem.upsets.filter (fun u => out u.addr) } }

/-- The first word with the mark that a byte range meets. -/
def State.firstPoison (s : State) (a n : Nat) : Option Nat :=
  s.mem.poison.find? (fun w => decide (wordOf a ≤ w) && decide (w < a + n))

/-- Words of a page that carry the mark are left as they are by the scrubber; the others are read as R326 gives. -/
def State.scrubRead (s : State) (page : Nat) : State :=
  let us := s.pageUpsets page
  if us.all (·.light) then us.foldl (fun s u => s.meetUpset u.addr) s else s.decodePage page

end Sys2Proof.Machine
end

