-- ==== Sys2Proof/Machine/Domains.lean ====
section
/-! DEFINITION. Switching domains on and off (R352, R362, R363, R367), and the outcome of a Catalogue command. -/
namespace Sys2Proof.Machine

/-- Why a request is refused: the abort code of Table 3.7 and the 32-bit detail of R70. -/
structure Abort where
  code : Nat
  detail : Nat
  deriving DecidableEq, Repr

/-- A command's effect, or its abort. -/
abbrev Res := Except Abort State

def abNoObject : Nat := 0x01
def abNoSub : Nat := 0x02
def abReadOnly : Nat := 0x03
def abWriteOnly : Nat := 0x04
def abLenHigh : Nat := 0x05
def abLenLow : Nat := 0x06
def abRange : Nat := 0x07
def abLate : Nat := 0x08
def abState : Nat := 0x09
def abPoisoned : Nat := 0x0A
def abDomainFail : Nat := 0x0B
def abStagingFull : Nat := 0x0C
def abTagInUse : Nat := 0x0D
def abPosition : Nat := 0x0E
def abSignature : Nat := 0x0F
def abBudget : Nat := 0x10
def abEntryMissing : Nat := 0x11
def abLeaseHeld : Nat := 0x12

/-- A RANGE abort with the byte offset of the rejected field. -/
def rangeAt (off : Nat) : Abort := ⟨abRange, off⟩

/-- A STATE abort; its detail is the mode in force (R70). -/
def State.stateAbort (s : State) : Abort := ⟨abState, s.mode⟩

/-- A LEASE_HELD abort with the holder's owner field (R70). -/
def leaseAbort (owner : Nat) : Abort := ⟨abLeaseHeld, owner⟩

/-- Start the wake of a domain that is off or failed, on behalf of a wake source (R362, R367). -/
def State.startWake (s : State) (domain source : Nat) : State :=
  let st := s.rd Ix.DomainState (domain + 1)
  if st = 0 ∨ st = 4 then
    let s := s.wr Ix.DomainState (domain + 1) 1
    let s := s.bump Ix.DomainWakeCount (domain + 1)
    let s := { s with power := { s.power with wakes := s.power.wakes ++ [DomainWake.mk domain s.now none false (!(domain == 5 && s.power.archInit))] } }
    (s.wr Ix.LastWakeSource 0 source).wrEpoch Ix.LastWakeEpoch 0 s.epoch
  else s

/-- Switch a domain off. -/
def State.switchOff (s : State) (domain : Nat) : State :=
  let s := { s with power := { s.power with wakes := s.power.wakes.filter (fun w => w.domain != domain) } }
  s.wr Ix.DomainState (domain + 1) 0

/-- An access that needs a domain (R362): true where it goes on now, because the domain is on, or to its error response, because the
domain is held, without its reference, or has just failed to wake; otherwise its wake starts and the access stalls. -/
def State.needDomain (s : State) (domain : Nat) : Bool × State :=
  let s := { s with power := { s.power with idleSince := tins domain s.now s.power.idleSince } }
  if s.domainOn domain || s.power.resetting.contains domain || (domain == 5 && s.power.archHeld) then (true, s)
  else if s.power.failed.contains domain then
    (true, { s with power := { s.power with failed := s.power.failed.filter (· != domain) } })
  else
    let s := { s with power := { s.power with demand := insertNat domain s.power.demand } }
    (false, s.startWake domain 2)

end Sys2Proof.Machine
end

