-- ==== Sys2Proof/Machine/Domain.lean ====
section
/-! DEFINITION. DOMAIN values: their sizes, their defaults byte by byte, and their bytes in force (R55, R56, R67). -/
namespace Sys2Proof.Machine

/-- The smallest and largest size of a DOMAIN entry, as its Meaning column states; equal where the size is fixed. -/
def domSizes (index : Nat) : Nat × Nat :=
  match index with
  | 0x1413 => (0, 1024)
  | 0x2011 | 0x1122 => (320, 320)
  | 0x2012 => (256, 256)
  | 0x2112 => (4096, 4096)
  | 0x3010 | 0x3011 => (0, 1536)
  | 0x3023 | 0x3414 | 0x3C00 | 0x5002 | 0x5018 | 0x1004 | 0x6445 => (64, 64)
  | 0x3040 | 0x3C20 | 0x3420 | 0x4420 | 0x4831 => (128, 128)
  | 0x3400 | 0x4830 => (1024, 1024)
  | 0x3423 | 0x4033 | 0x5413 => (0, 512)
  | 0x3803 => (851968, 851968)
  | 0x3805 => (0, 1024)
  | 0x3810 => (256, 256)
  | 0x3C14 | 0x4430 | 0x4810 | 0x4030 | 0x6440 | 0x6444 | 0x6423 | 0x6424 => (32, 32)
  | 0x4820 => (86272, 86272)
  | 0x4020 => (144, 131200)
  | 0x5810 => (16, 16)
  | 0x6422 => (1024, 3670016)
  | 0x6431 => (80, 80)
  | 0x6441 => (1216, 1216)
  | 0x7001 => (0, 8192)
  | 0x7011 => (0, 4448)
  | _ => (0, 0)

/-- A DOMAIN entry's default (R9), as its table states it. `LinkProfile` is the built-in profile (log entry 3): ports enabled
at 16 Gb/s. LinTables and CalSet hold their values elsewhere and have accessors of their own. -/
def domDefault (index : Nat) : List Byte :=
  match index with
  | 0x2011 => List.replicate 320 0
  | 0x1122 => List.replicate 320 0xFF
  | 0x2012 => List.replicate 256 0
  | 0x2112 => (List.range 2048).flatMap (fun _ => leBytes 2 4000)
  | 0x3023 | 0x3C00 | 0x5018 | 0x1004 | 0x6445 => List.replicate 64 0
  | 0x5002 =>
    let block : List Byte := [1, 0, 0, 0] ++ List.replicate 10 0x40 ++ List.replicate 9 6 ++ List.replicate 9 0
    block ++ block
  | 0x3040 | 0x3C20 | 0x4420 => List.replicate 128 0
  | 0x3400 => List.replicate 1024 0
  | 0x3810 => List.replicate 256 0xFF
  | 0x4830 => List.replicate 1024 0xFF
  | 0x4831 => List.replicate 128 0xFF
  | 0x6423 | 0x6424 => List.replicate 32 0
  | 0x6441 => List.replicate 1216 0
  | _ => []

/-- A DOMAIN entry's bytes in force, for the entries whose value the Catalogue itself holds. -/
def State.domVal (s : State) (index sub : Nat) : List Byte :=
  match (s.dom.find? (fun c => c.1 == ck index sub)) with
  | some c => c.2
  | none => domDefault index

/-- A little-endian field of a DOMAIN entry. -/
def State.domField (s : State) (index sub off n : Nat) : Nat := fieldLE (s.domVal index sub) off n

/-- The change count of a DOMAIN entry steps (R56). -/
def State.stepChange (s : State) (index sub : Nat) : State :=
  let k := ck index sub
  { s with host := { s.host with change := tput 0 k ((tget 0 k s.host.change + 1) % 2 ^ 32) s.host.change } }

/-- Give a DOMAIN entry a value; its change count steps where the value changes (R56). -/
def State.setDom (s : State) (index sub : Nat) (v : List Byte) : State :=
  if s.domVal index sub = v then s
  else { s with dom := tins (ck index sub) v s.dom }.stepChange index sub

/-- The change count of a DOMAIN entry (R56). -/
def State.changeCount (s : State) (index sub : Nat) : Nat := tget 0 (ck index sub) s.host.change

end Sys2Proof.Machine
end

