-- ==== Sys2Proof/Machine/Radio.lean ====
section
/-! DEFINITION. Transmit and receive paths: synthesisers and LO borrowing, course states, the slot plan, path conditions, power
control, receive gain, mismatch and the tuner (R85 to R119), and path faults (R418, R423). -/
namespace Sys2Proof.Machine

def State.course (s : State) (c : Nat) : CourseSys := tget {} c s.radio.courses
def State.setCourse (s : State) (c : Nat) (v : CourseSys) : State :=
  { s with radio := { s.radio with courses := tins c v s.radio.courses } }
def State.path (s : State) (p : Nat) : PathSys := tget {} p s.radio.paths
def State.setPath (s : State) (p : Nat) (v : PathSys) : State :=
  { s with radio := { s.radio with paths := tins p v s.radio.paths } }

/-! Synthesisers -/

/-- The synthesiser state of course c: 0 off, 1 band calibration, 2 locking, 3 locked, 4 failed. -/
def State.synState (s : State) (c : Nat) : Nat := s.rd Ix.SynState (c + 1)

/-- The course whose synthesiser feeds course c; 0xFF for none. -/
def State.loSource (s : State) (c : Nat) : Nat := s.rd Ix.LoSource (c + 1)

/-- Is the LO of course c locked (R91)? -/
def State.loLocked (s : State) (c : Nat) : Bool := decide (s.loSource c < 4) && s.synState (s.loSource c) == 3

/-- The courses a synthesiser feeds. -/
def State.fedBy (s : State) (c : Nat) : List Nat := (List.range 4).filter (fun d => s.loSource d == c)

/-- A full relock starts: band calibration, the first of three attempts (R90, R91). Every course it feeds loses its LO for the
symbol in progress. -/
def State.startRelock (s : State) (c attempts : Nat) : State :=
  let s := s.wr Ix.SynState (c + 1) 1
  let s := s.setCourse c { s.course c with relockAt := some s.now, attempts := attempts, detected := false }
  (s.fedBy c).foldl (fun s d => s.setCourse d { s.course d with lostNow := true }) s

/-- SYN_UNLOCK (R91): a detector that has reported lock reports its loss; the relock is counted and starts. -/
def State.synUnlock (s : State) (c : Nat) : State :=
  if s.synState c = 3 ∧ (s.course c).detected then
    let s := s.bump Ix.SynRelockCount (c + 1)
    let s := s.raise 0x2001 (c + 1) (packData [f8 c])
    s.startRelock c 0
  else s

/-- SYN_LOCK (R90): a relock under way reaches lock. -/
def State.synLock (s : State) (c : Nat) : State :=
  if s.synState c = 1 ∨ s.synState c = 2 then
    let s := s.wr Ix.SynState (c + 1) 3
    s.setCourse c { s.course c with relockAt := none, attempts := 0, detected := true }
  else s

/-- A path becomes faulty (R418); the device acts at the first tick after detection. The first reason stands. -/
def State.detectFault (s : State) (p reason : Nat) : State :=
  let v := s.path p
  if s.rd Ix.PathFault (p + 1) = 0 ∧ v.faultDue = 0 then s.setPath p { v with faultDue := reason } else s

/-- May course c borrow from its partner (R92): a neighbour, its synthesiser locked, feeding no borrower? -/
def State.borrowPartner (s : State) (c : Nat) : Option Nat :=
  let b := s.rd Ix.LoBorrowPartner (c + 1)
  if b < 4 ∧ (b + 1 = c ∨ c + 1 = b) ∧ s.synState b = 3 ∧ s.loSource b = b
      ∧ (List.range 4).all (fun d => d == b || s.loSource d != b) then some b else none

/-- A course is left without an LO (R92, R93): muted, `LoSource` 0xFF, its paths faulty with reason 0x03. -/
def State.loseLo (s : State) (c : Nat) : State :=
  let s := s.wr Ix.LoSource (c + 1) 0xFF
  let s := s.setCourse c { s.course c with borrowFrom := none, recal := false }
  (coursePaths c).foldl (fun s p => s.detectFault p 3) s

/-- The course of a failed synthesiser borrows at the next slot boundary, or is left without an LO; a course that borrowed
from it is left without one (R92, R93). -/
def State.synFailed (s : State) (c : Nat) : State :=
  let others := (s.fedBy c).filter (· != c)
  let s := others.foldl (fun s d => s.loseLo d) s
  if s.loSource c = c then
    match s.borrowPartner c with
    | some b => s.setCourse c { s.course c with borrowFrom := some b }
    | none => s.loseLo c
  else s

/-- RELOCK_ATTEMPT_FAIL (R91): lock has not come 120 µs after the attempt started; the third failure in a row marks the
synthesiser failed and raises SYN_FAIL. -/
def State.relockFail (s : State) (c : Nat) : State :=
  let v := s.course c
  match v.relockAt with
  | none => s
  | some t =>
    if !s.elapsed t (usec 120) then s
    else if v.attempts + 1 < 3 then
      let s := s.wr Ix.SynState (c + 1) 1
      s.setCourse c { v with relockAt := some s.now, attempts := v.attempts + 1 }
    else
      let s := s.wr Ix.SynState (c + 1) 4
      let s := s.setCourse c { v with relockAt := none, attempts := 3 }
      let s := s.raise 0x2002 (c + 1) (packData [f8 c, fCount 3])
      s.synFailed c

/-- The band calibration of a relock ends after 40 µs and phase lock follows (R90). -/
def State.synPhase (s : State) (c : Nat) : State :=
  match (s.course c).relockAt with
  | some t => if s.synState c = 1 ∧ s.elapsed t (usec 40) then s.wr Ix.SynState (c + 1) 2 else s
  | none => s

/-- Relocks go from band calibration to phase lock after 40 µs (R90). -/
def State.synPhases (s : State) : State := [0, 1, 2, 3].foldl State.synPhase s

/-- LO_BORROW_SWITCH (R92 steps 1 and 2): at a slot boundary the course switches to its partner's synthesiser and spends the
slot in phase recalibration. Where the partner no longer qualifies it is left without an LO. -/
def State.loBorrowSwitch (s : State) (c : Nat) : State :=
  match (s.course c).borrowFrom with
  | none => s
  | some b =>
    if !(isSlotStart s.epoch && s.now == s.tb.tickAt) then s
    else if s.borrowPartner c = some b then
      let s := s.wr Ix.LoSource (c + 1) b
      s.setCourse c { s.course c with borrowFrom := none, recal := true }
    else s.loseLo c

/-- Bit [3] of `CancelStatus` follows the two causes of STALE (R197). -/
def State.showStale (s : State) : State :=
  allPaths.foldl (fun s p => s.wrBit Ix.CancelStatus (p + 1) 3 (s.duplex.loStale.contains p || s.duplex.calStale.contains p)) s

/-- The receive paths of a course are stale for the canceller set in force because of its LO: CANCEL_STALE (R197). -/
def State.cancelStaleLo (s : State) (c : Nat) : State :=
  let s := { s with duplex := { s.duplex with loStale := (s.duplex.loStale ++ coursePaths c).eraseDups } }.showStale
  s.raise 0x3C06 (16 * c + 1) (packData [f8 c, f8 1])

/-- LO_BORROW (R92 step 3): at the following slot boundary the measured phase offsets, one per path of the course in 0.01°,
are applied and the course returns to service; a canceller set in force is stale for it (R197). -/
def State.loBorrow (s : State) (c : Nat) (offsets : List Int) : State :=
  if (s.course c).recal && isSlotStart s.epoch && s.now == s.tb.tickAt then
    let s := s.setCourse c { s.course c with recal := false }
    let s := (coursePaths c).zipIdx.foldl
      (fun s q => s.setPath q.1 { s.path q.1 with loOffset := (s.path q.1).loOffset + offsets.getD q.2 0 }) s
    let s := s.raise 0x2003 (c + 1) (packData [f8 c, f8 (s.loSource c)])
    if s.rd Ix.CancelSetState 1 = 2 ∨ s.rd Ix.CancelSetState 2 = 2 then s.cancelStaleLo c else s
  else s

/-- DC_RANGE (R89): a fine offset estimate has stood at its limit for 1 s; `code` is 1 for I, 2 for Q, 3 for both. -/
def State.dcRange (s : State) (p code : Nat) : State :=
  match (s.path p).dcLimitSince with
  | some t =>
    if s.elapsed t (msec 1000) then
      let s := s.setPath p { s.path p with dcLimitSince := some s.now }
      s.raise 0x2007 (p + 1) (packData [f8 p, f8 code])
    else s
  | none => s

/-! The slot plan -/

/-- The mark the plan words of a byte string give symbol `sym` of plan slot `k` (R98). -/
def planMark (plan : List Byte) (k sym : Nat) : Nat := fieldLE plan (4 * k) 4 / 4 ^ sym % 4

/-- Slots from the plan's start to the slot of an epoch (R98). -/
def State.slotsSincePlan (s : State) (e : Nat) : Nat :=
  s.epochsBetween (s.rdEpoch Ix.SlotPlanStart 0) (mkEpoch (epEra e) (epFrame e) (epSlot e) 0) / 14

/-- The plan slot of an epoch. -/
def State.planSlot (s : State) (e : Nat) : Nat := s.slotsSincePlan e % max 1 (s.rd Ix.SlotPlanLength 0)

/-- The mark a course's burst records give an epoch, if any: the lowest-numbered record that covers it, from the record's
commit epoch on (R101). -/
def State.burstMark (s : State) (c e : Nat) : Option Nat :=
  let d := s.domVal Ix.CourseBursts (c + 1)
  (List.range 16).findSome? (fun r =>
    let start := epochOfEntry (fieldLE d (16 * r) 8)
    let n := fieldLE d (16 * r + 8) 2
    let from_ := tget 0 (16 * c + r) s.radio.burstEpoch
    if n != 0 && epLe start e && decide (s.epochsBetween start e < n) && epLe from_ e then some (fieldLE d (16 * r + 10) 1)
    else none)

/-- The mark of a symbol of a course: 0 GUARD, 1 DL, 2 UL, 3 FLEX (R98, R101). -/
def State.mark (s : State) (c e : Nat) : Nat :=
  match s.burstMark c e with
  | some m => m
  | none => planMark (s.domVal Ix.SlotPlan 0) (s.planSlot e) (epSym e)

/-- Do the courses follow the plan for transmission in a mode (R102)? -/
def modeTransmits (m : Nat) : Bool := m == 4 || m == 5 || m == 6

/-- Do the courses follow the plan for reception in a mode (R102)? -/
def modeReceives (m : Nat) : Bool := modeTransmits m || m == 7

/-- Is it a transmit symbol of a course: DL, or FLEX in Duplex Service, in a mode that transmits (R100, R102)? -/
def State.txSymbol (s : State) (c e : Nat) : Bool :=
  let m := s.mark c e
  modeTransmits s.mode && (m == 1 || (m == 3 && s.mode == 5))

/-- Is it a receive symbol of a course: UL, or FLEX in Duplex Service (R100, R102)? -/
def State.rxSymbol (s : State) (c e : Nat) : Bool :=
  let m := s.mark c e
  modeReceives s.mode && (m == 2 || (m == 3 && s.mode == 5))

/-- A downlink symbol of the device: any course marks it so (R126). -/
def State.dlSymbol (s : State) (e : Nat) : Bool :=
  (List.range 4).any (fun c => let m := s.mark c e; m == 1 || (m == 3 && s.mode == 5))

/-- An uplink symbol of the device (R126). -/
def State.ulSymbol (s : State) (e : Nat) : Bool :=
  (List.range 4).any (fun c => let m := s.mark c e; m == 2 || (m == 3 && s.mode == 5))

/-- Is it a FLEX symbol in Duplex Service for a course? -/
def State.flexSymbol (s : State) (c e : Nat) : Bool := s.mode == 5 && s.mark c e == 3

/-- Is a symbol FLEX in Duplex Service on any course? -/
def State.anyFlex (s : State) (e : Nat) : Bool := (List.range 4).any (fun c => s.flexSymbol c e)

/-- Is the tile of a path a receive tile of the split aperture (R189)? -/
def State.splitRx (s : State) (p : Nat) : Bool := s.rdBit Ix.SplitRxTiles 0 (tileOf p)

/-- Is the transmit side of a path muted in FLEX symbols by the split aperture (R190)? -/
def State.flexTxMuted (s : State) (p e : Nat) : Bool :=
  s.flexSymbol (courseOf p) e && s.rd Ix.DuplexAperture 0 == 1 && s.splitRx p

/-- Are the receive samples of a path zero in a FLEX symbol: a transmit tile of the split aperture (R190), an LO other than the
set's (R197), the noise-rise action (R202), an overloaded ADC (R194), the Leakage Canceller held in reset (R383)? -/
def State.flexRxZero (s : State) (p e : Nat) : Bool :=
  s.flexSymbol (courseOf p) e &&
    ((s.rd Ix.DuplexAperture 0 == 1 && !s.splitRx p) || s.duplex.loStale.contains p || s.duplex.zeroed.contains p
      || s.duplex.clipped.contains p || s.rdBit Ix.BlockResetOther 0 7 || s.power.resuming.contains 0x107)

/-- The absolute slot number of an epoch: FRAME times the slots per frame plus SLOT (R145, R201, R209). -/
def State.absSlot (v : State) (e : Nat) : Nat := epFrame e * slotsPerFrame (v.rd Ix.Numerology 0) + epSlot e

/-- Does an SPE window record in force cover a symbol (R209, Table 9.2)? -/
def State.inSpeWindow (v : State) (e : Nat) : Bool :=
  let d := v.domVal Ix.SpeWindows 0
  let total := 1024 * slotsPerFrame (v.rd Ix.Numerology 0)
  (List.range 8).any (fun r =>
    let first := fieldLE d (16 * r + 1) 1
    let count := fieldLE d (16 * r + 2) 1
    let period := max 1 (fieldLE d (16 * r + 4) 2)
    bitAt (fieldLE d (16 * r) 1) 7 && (List.range 3).any (fun b =>
      let slot := (v.absSlot e + total - b) % total
      let pos := 14 * b + epSym e
      slot % period == fieldLE d (16 * r + 6) 2 && decide (first ≤ pos) && decide (pos < first + count)))

/-- Does the mode let the SPE use windows only (Table 9.1)? -/
def windowMode (m : Nat) : Bool := decide (4 ≤ m) && decide (m ≤ 7)

/-- The paths the SPE's windows claim: the main path, with both alternates in diversity (R209). -/
def State.spePaths (s : State) : List Nat :=
  s.rd Ix.SpeMainPath 0 :: (if s.spe.diversity then [s.rd Ix.SpeAltPath 1, s.rd Ix.SpeAltPath 2] else [])

/-- Is a path claimed in a symbol, by an SPE window (R209) or by a rolling calibration step (R249)? -/
def State.claimed (s : State) (p e : Nat) : Bool :=
  (windowMode s.mode && s.rdB Ix.SpeEnable 0 && s.spePaths.contains p && s.inSpeWindow e)
    || (match s.cal.step with
      | some r => bitAt r.paths p && epLe r.start e && !epLe r.until_ e
      | none => false)

/-- Does calibration hold a path: measured by a run or step under way, or with results not yet in force (R248)? -/
def State.calHolds (s : State) (p : Nat) : Bool :=
  let on := fun (r : CalRunSys) => r.measuring && bitAt r.paths p
  let left := fun (r : CalRunSys) => on r && r.accepted.any (fun a => a.kind == 16 || a.path == p || (a.kind == 4 && tileOf a.path == tileOf p))
  s.cal.run.any on || s.cal.step.any on || s.cal.due.any left

/-- The GUARD rule on one sequence of marks (R99): between a DL and a later UL, and back, stands a GUARD or a FLEX symbol. -/
def guardRule : List Nat → Bool
  | [] => true
  | [_] => true
  | a :: b :: t => !((a == 1 && b == 2) || (a == 2 && b == 1)) && guardRule (b :: t)

/-! Course transitions -/

/-- The longest time of a transition in units (Table 4.5). -/
def transitionTime (from_ to_ : Nat) : Nat :=
  match from_, to_ with
  | 3, 2 => nsec 1200
  | 2, 3 => nsec 1000
  | 3, 1 => nsec 1000
  | 2, 1 => nsec 500
  | 1, _ => nsec 3000
  | 0, _ => usec 200
  | _, 0 => usec 10
  | _, _ => 0

/-- The state of a course (Table 4.4). -/
def State.courseState (s : State) (c : Nat) : Nat := s.rd Ix.CourseState (c + 1)

/-- The state the plan asks of a course in an epoch: TX, RX, or its rest state (R97, R100, R102). -/
def State.wantedState (s : State) (c e : Nat) : Nat :=
  if s.txSymbol c e then 3 else if s.rxSymbol c e then 2 else s.rd Ix.CourseRestState (c + 1)

/-- A transition of a course starts: during a change between TX and RX it shows GUARD (R94, R95). -/
def State.startTransition (s : State) (c to_ : Nat) : State :=
  let from_ := s.courseState c
  let s := if (from_ = 3 ∧ to_ = 2) ∨ (from_ = 2 ∧ to_ = 3) then s.wr Ix.CourseState (c + 1) 4 else s
  let s := s.setCourse c { s.course c with moving := some to_ }
  if from_ = 0 ∧ s.synState c ≠ 3 ∧ s.loSource c = c then s.startRelock c 0 else s

/-- COURSE_TRANSITION_START (R96, R97): the transition into the next symbol's run or window once its lead and time reach the
tick, or out of a run or window that has ended, after its lag. A course already in the state of the next symbol's run stays there. -/
def State.courseTransitionStart (s : State) (c : Nat) : State :=
  let st := s.courseState c
  let nextE := s.nextEpoch s.epoch
  let v := s.airAt nextE
  if (s.course c).moving.isSome || st == 0 || (s.course c).held || !(modeReceives s.mode || modeReceives v.mode) then s
  else
    let cur := if modeReceives s.mode then s.wantedState c s.epoch else st
    let nxt := v.wantedState c nextE
    let lead := if nxt = 3 then nsec (s.rd Ix.TxEnLead (c + 1)) else nsec (s.rd Ix.RxEnLead (c + 1))
    let lag := if st = 3 then nsec (s.rd Ix.TxEnLag (c + 1)) else nsec (s.rd Ix.RxEnLag (c + 1))
    let active := v.txSymbol c nextE || v.rxSymbol c nextE
    if active && nxt != st && decide (s.nextTickAt ≤ s.now + lead + transitionTime st nxt)
        && (cur != st || !(s.txSymbol c s.epoch || s.rxSymbol c s.epoch)) then
      s.startTransition c nxt
    else if active ∧ nxt = st ∧ s.nextTickAt ≤ s.now + lead + transitionTime cur st then s
    else if cur ≠ st ∧ s.tb.tickAt + lag ≤ s.now then s.startTransition c cur
    else s

/-- The instant a transition under way may complete: an OFF to IDLE transition includes the lock of the LO (Table 4.5). -/
def State.transitionReady (s : State) (c : Nat) : Bool :=
  let v := s.course c
  match v.moving with
  | none => false
  | some to_ => !(s.courseState c == 0 && to_ != 0) || s.loLocked c

/-- A course transition completes: the course enters its new state (R94, R95). -/
def State.courseTransitionDone (s : State) (c : Nat) : State :=
  match (s.course c).moving with
  | none => s
  | some to_ =>
    if s.transitionReady c then
      let s := s.wr Ix.CourseState (c + 1) to_
      let s := s.setCourse c { s.course c with moving := none }
      if to_ = 0 then s.wr Ix.SynState (c + 1) 0 else s
    else s

/-- A course goes OFF at once: its transition dropped, its synthesiser off (Table 4.4). -/
def State.courseOff (s : State) (c : Nat) : State :=
  let s := s.wr Ix.CourseState (c + 1) 0
  let s := s.wr Ix.SynState (c + 1) 0
  s.setCourse c { s.course c with moving := none, relockAt := none, attempts := 0, detected := false, recal := false,
                                  borrowFrom := none, lateRun := false }

/-- A course returns to its own synthesiser, with a reset named in R92. -/
def State.ownLo (s : State) (c : Nat) : State :=
  let s := s.wr Ix.LoSource (c + 1) c
  (coursePaths c).foldl (fun s p => s.setPath p { s.path p with loOffset := 0 }) s

/-! Conditions of a transmit path (Table 4.7) -/

/-- Is MIX out of service: off, held in a domain reset, or not resumed after one (R382)? -/
def State.mixHeld (s : State) : Bool := !s.domainOn 3 || s.power.resetting.contains 3 || s.power.resuming.contains 3

/-- Is the path in hold-off for a cause of Table 4.7 other than power-up: Safe Hold, `PathEnable` [0] clear, a fault, tile muting, a power
hold of its course, a held reset? -/
def State.forcedOff (s : State) (p : Nat) : Bool :=
  s.mode == 7 || !s.rdBit Ix.PathEnable (p + 1) 0 || s.rd Ix.PathFault (p + 1) != 0
    || s.therm.tilesOff.contains (tileOf p) || s.therm.holdOff || s.rdB Ix.PowerHold (courseOf p + 1) || (s.course (courseOf p)).held
    || s.rdBit Ix.BlockResetOther 0 8 || s.mixHeld || s.power.resuming.contains 0x108

/-- Is the path in hold-off (Table 4.7), that of power-up among it (R107)? -/
def State.heldOff (s : State) (p : Nat) : Bool := (s.path p).holdOff || s.forcedOff p

/-- Is the receive side of a path out of service? -/
def State.rxHeldOff (s : State) (p : Nat) : Bool :=
  !s.rdBit Ix.PathEnable (p + 1) 1 || s.rd Ix.PathFault (p + 1) != 0 || s.rdB Ix.PowerHold (courseOf p + 1)
    || (s.course (courseOf p)).held || s.mixHeld

/-- Is the path muted: its LO unlocked or in a phase-recalibration slot (R91, R92, R108), a receive tile of the split aperture in a
FLEX symbol (R190), or claimed (R209, R249)? -/
def State.muted (s : State) (p : Nat) : Bool :=
  let c := courseOf p
  !s.loLocked c || (s.course c).recal || s.flexTxMuted p s.epoch || s.claimed p s.epoch

/-- A lead or lag in units, realised to the nearest sample period (R103). -/
def edgeUnits (ns : Nat) : Nat := (nsec ns + 1562) / 3125 * 3125

/-- Is a run of symbols in progress, or within the lead before it or the lag after it (R103)? The next symbol follows the commits found
ready (R96). -/
def State.inRun (s : State) (run : State → Nat → Bool) (lead lag : Nat) : Bool :=
  let n := s.nextEpoch s.epoch
  run s s.epoch || (run (s.airAt n) n && decide (s.nextTickAt ≤ s.now + edgeUnits lead))
    || (run s (s.prevEpoch s.epoch) && decide (s.now < s.tb.tickAt + edgeUnits lag))

/-- TXENp: high while its course is in TX through a transmit run, its lead and its lag, unless the path is held off (R103, R106, Table 4.7);
the hold-off of power-up ends with the run it leads into, for which TXENp rises (R107). -/
def State.txEn (s : State) (p : Nat) : Bool :=
  let c := courseOf p
  s.courseState c == 3
    && s.inRun (fun v e => v.txSymbol c e && !v.forcedOff p && !v.flexTxMuted p e) (s.rd Ix.TxEnLead (c + 1)) (s.rd Ix.TxEnLag (c + 1))

/-- RXENp: high while its course is in RX, or in TX for FLEX symbols of Duplex Service, through a receive window, its lead and its lag (R97,
R103, R104). -/
def State.rxEn (s : State) (p : Nat) : Bool :=
  let c := courseOf p
  (s.courseState c == 2 || s.courseState c == 3)
    && s.inRun (fun v e => v.rxSymbol c e && !v.rxHeldOff p && !(v.flexSymbol c e && v.rd Ix.DuplexAperture 0 == 1 && !v.splitRx p))
      (s.rd Ix.RxEnLead (c + 1)) (s.rd Ix.RxEnLag (c + 1))

/-! Power control -/

/-- Floor division of integers, which is how the device truncates (R129). -/
def ifloor (a b : Int) : Int := a / b

/-- The integer part of a binary32 value, toward minus infinity; 0 for NaN and infinities. -/
def floatFloor (v : Nat) : Int :=
  let e := v / 2 ^ 23 % 256
  let m := v % 2 ^ 23
  let neg := bitAt v 31
  if e = 255 ∨ (e = 0 ∧ m = 0) then 0
  else
    let mant : Nat := if e = 0 then m else m + 2 ^ 23
    let sgn : Int := if neg then -(mant : Int) else mant
    let ex := (if e = 0 then 1 else e)
    if 150 ≤ ex then sgn * 2 ^ (ex - 150) else sgn / 2 ^ (150 - ex)

/-- T_tile in 0.1 °C: the reading in force of the tile's remote sensor (R111, R421). -/
def State.tileTemp (s : State) (t : Nat) : Int := s.rdI 16 Ix.TempReading (t + 1)

/-- V_tile in mV: the scaled value of HKINt (R111). -/
def State.tileVolt (s : State) (t : Nat) : Int := floatFloor (s.rd Ix.HkValue (t + 1))

/-- The axis interval a coordinate lies in and its ends, clamped at the axis ends. -/
def axisCell (axis : List Int) (x : Int) : Nat × Int × Int × Int :=
  let n := axis.length
  let i := ((List.range (n - 1)).filter (fun i => decide (axis.getD i 0 ≤ x))).foldl max 0
  let a := axis.getD i 0
  let b := axis.getD (i + 1) 0
  (i, a, b, clampInt a b x)

/-- G_pa of a path in 0.001 dB, truncated: bilinear in temperature and voltage, clamped at the axis ends (R111). -/
def State.paGain (s : State) (p : Nat) : Int :=
  let ta := (List.range 8).map (fun i => s.rdI 16 Ix.TxGainTempAxis (i + 1))
  let va := (List.range 4).map (fun j => (s.rd Ix.TxGainVoltAxis (j + 1) : Int))
  let (i, t0, t1, t) := axisCell ta (s.tileTemp (tileOf p))
  let (j, v0, v1, v) := axisCell va (s.tileVolt (tileOf p))
  let g := fun i j => toInt 16 (s.domField Ix.TxPaGainTable 0 (64 * p + 8 * i + 2 * j) 2)
  let num := (g i j * (t1 - t) + g (i + 1) j * (t - t0)) * (v1 - v)
    + (g i (j + 1) * (t1 - t) + g (i + 1) (j + 1) * (t - t0)) * (v - v0)
  let den := (t1 - t0) * (v1 - v0)
  if den = 0 then 10 * g i j else ifloor (10 * num) den

/-- P_eff of a path in 0.01 dBm (R111): the target less the tile's throttle reduction and the mismatch backoff in action. -/
def State.effectiveTarget (s : State) (p : Nat) : Int :=
  s.rdI 16 Ix.TxPowerTarget (p + 1) - (s.rd Ix.ThrottleReduction (tileOf p + 1) : Int)
    - (if (s.path p).mismatchAct ∧ s.rd Ix.MismatchAction 0 = 1 then (s.rd Ix.MismatchBackoff 0 : Int) else 0)

/-- A setting as R111 computes it: attenuator in 0.5 dB steps, digital gain in 0.01 dB, and the limit reached. -/
structure TxSetting where
  att : Nat
  dig : Int
  limit : Nat
  deriving DecidableEq, Repr

/-- R111 from P_out in 0.001 dB: clamped to 0 and 43.5 dB, attenuator floored to 0.5 dB and at most 31.5 dB, the rest digital
gain truncated to 0.01 dB. -/
def settingOf (pOut : Int) : TxSetting :=
  let a0 := 6000 - pOut
  let a := clampInt 0 43500 a0
  let att := min 63 (a / 500).toNat
  { att := att, dig := ifloor (-(a - 500 * att)) 10, limit := if a0 < 0 then 1 else if 43500 < a0 then 2 else 0 }

/-- The setting R111 gives a path now. -/
def State.txSetting (s : State) (p : Nat) : TxSetting :=
  settingOf (10 * s.effectiveTarget p - s.paGain p + 10 * (s.rd Ix.TxAntLoss (p + 1) : Int)
    + 10 * s.rdI 16 Ix.TxLoopCorrection (p + 1))

/-- Put a setting of attenuator and digital gain into force (R112). -/
def State.applyTx (s : State) (p : Nat) (v : Nat × Int) : State :=
  (s.wr Ix.TxAttenuation (p + 1) v.1).wrI 16 Ix.TxDigitalGain (p + 1) v.2

/-- The status bits and TX_RANGE of a computed setting: reported once when a limit bit is set (R111). -/
def State.txLimits (s : State) (p limit : Nat) : State :=
  let was := s.rd Ix.TxPowerStatus (p + 1) % 4
  let s := (s.wrBit Ix.TxPowerStatus (p + 1) 0 (limit == 1)).wrBit Ix.TxPowerStatus (p + 1) 1 (limit == 2)
  if limit ≠ 0 ∧ was ≠ limit then s.raise 0x2005 (p + 1) (packData [f8 p, f8 limit]) else s

/-- Compute a path's setting by its mode (R111 to R113): the manual setting, or R111 with the effective target shown. -/
def State.computeTx (s : State) (p : Nat) : (Nat × Int) × State :=
  if s.rd Ix.TxPowerMode (p + 1) = 0 then
    let m := s.rd Ix.TxManualSetting (p + 1)
    ((m % 64, toInt 16 (m / 2 ^ 16)), s)
  else
    let v := s.txSetting p
    let s := s.wrI 16 Ix.TxPowerEffective (p + 1) (s.effectiveTarget p)
    let s := s.wrBit Ix.TxPowerStatus (p + 1) 2 (s.rdBit Ix.TempStatus (tileOf p + 1) 5)
    ((v.att, v.dig), s.txLimits p v.limit)

/-- A value of K_p comes into force with its edge, which BOUND shows (R114, R183). -/
def State.powerEdge (s : State) (p : Nat) (edge : Option Nat) : State :=
  match edge with
  | some e => (s.wrBit Ix.TxPowerStatus (p + 1) 3 (e != 0)).loopAt p 1 e
  | none => s

/-- POWER_RECOMPUTE (R112): at a slot boundary the settings computed at the one before come into force, and each path's is
computed for the next. -/
def State.powerRecompute (s : State) : State :=
  allPaths.foldl (fun s p =>
    let v := s.path p
    let s := match v.nextTx with
      | some x => (s.applyTx p x).powerEdge p v.nextEdge
      | none => s
    let r := s.computeTx p
    r.2.setPath p { r.2.path p with nextTx := some r.1, nextEdge := v.edge, edge := none }) s

/-- A commit of a power entry takes effect at its own epoch (R112). -/
def State.powerNow (s : State) (p : Nat) : State :=
  let r := s.computeTx p
  let v := r.2.path p
  let s := (r.2.applyTx p r.1).powerEdge p (match v.edge with
    | some e => some e
    | none => v.nextEdge)
  s.setPath p { s.path p with nextTx := none, edge := none, nextEdge := none }

/-- The edge of a value moved by a limited step and then clamped: MIN, MAX, STEP or none (R183). -/
def edgeOf (lo hi wanted stepped : Int) : Nat :=
  if stepped < lo then 1 else if hi < stepped then 2 else if stepped ≠ wanted then 3 else 0

/-- R114: K_p moves by e limited to the step, clamped to its corridor; its edge is reported when the value comes into force. -/
def State.powerLoop (s : State) (p : Nat) (pMeas : Int) : State :=
  let s := s.wrI 16 Ix.TxPowerMeasured (p + 1) pMeas
  if s.rd Ix.TxPowerMode (p + 1) ≠ 2 then s
  else
    let e := s.effectiveTarget p - pMeas
    let k := s.rdI 16 Ix.TxLoopCorrection (p + 1)
    let step := (s.rd Ix.TxLoopStep (p + 1) : Int)
    let lo := s.rdI 16 Ix.TxLoopCorrMin (p + 1)
    let hi := s.rdI 16 Ix.TxLoopCorrMax (p + 1)
    let moved := k + clampInt (-step) step e
    let edge := edgeOf lo hi (k + e) moved
    let s := s.wrI 16 Ix.TxLoopCorrection (p + 1) (clampInt lo hi moved)
    s.setPath p { s.path p with edge := some edge }

/-! Receive gain -/

/-- R88: the gain of the next received symbol from the level in 0.01 dBFS and the full-scale count, with its edge. -/
def State.agcNext (s : State) (p : Nat) (level : Int) (clips : Nat) : Nat × Nat :=
  let stepMax := (s.rd Ix.RxGainStep (p + 1) : Int)
  let wanted := if s.rd Ix.RxClipLimit 0 < clips then -stepMax
    else (s.rdI 16 Ix.RxAgcTarget (p + 1) - level).tdiv 100
  let step := clampInt (-stepMax) stepMax wanted
  let lo := (s.rd Ix.RxGainMin (p + 1) : Int)
  let hi := (s.rd Ix.RxGainMax (p + 1) : Int)
  let g := (s.rd Ix.RxGain (p + 1) : Int)
  ((clampInt lo hi (g + step)).toNat, edgeOf lo hi (g + wanted) (g + step))

/-- AGC_UPDATE (R88): measured on every received symbol under automatic gain; FLEX symbols of Duplex Service and
calibration hold the gain (R248). -/
def State.agcMeasure (s : State) (p : Nat) (level : Int) (clips : Nat) (flex : Bool) : State :=
  if s.rd Ix.RxGainMode (p + 1) = 1 ∧ flex = false ∧ s.calHolds p = false then
    s.setPath p { s.path p with nextGain := some (s.agcNext p level clips) }
  else s

/-- At the tick of a symbol in which a path receives, the gain automatic control chose for it comes into force (R86, R88); a fixed gain
holds what its commits gave it (R184). -/
def State.gainAtTick (s : State) (p : Nat) : State :=
  match (s.path p).nextGain with
  | some (g, edge) =>
    let s := s.setPath p { s.path p with nextGain := none }
    (s.wr Ix.RxGain (p + 1) g).loopAt p 3 edge
  | none => s

/-! Mismatch and the tuner -/

/-- The mismatch flag from a return loss in 0.01 dB (R117): set below the threshold; cleared at the threshold plus 1 dB in two
consecutive steps. MISMATCH is raised at each change; action 0x02 makes the path faulty (R119, R418). -/
def State.mismatch (s : State) (p : Nat) (rl : Int) : State :=
  let th := (s.rd Ix.MismatchThreshold 0 : Int)
  let flag := s.rdB Ix.MismatchFlag (p + 1)
  let event := fun (s : State) (b : Bool) => s.raise 0x2006 (p + 1) (packData [f8 p, fFlag b, f16 (ofInt 16 rl)])
  if rl < th then
    let s := s.setPath p { s.path p with clearSteps := 0 }
    if flag then s
    else
      let s := event (s.wr Ix.MismatchFlag (p + 1) 1) true
      let s := s.setPath p { s.path p with mismatchAct := true }
      if s.rd Ix.MismatchAction 0 = 2 then s.detectFault p 4 else s
  else if flag && decide (th + 100 ≤ rl) then
    if (s.path p).clearSteps = 0 then s.setPath p { s.path p with clearSteps := 1 }
    else
      let s := s.setPath p { s.path p with clearSteps := 0 }
      event (s.wr Ix.MismatchFlag (p + 1) 0) false
  else s.setPath p { s.path p with clearSteps := 0 }

/-- TUNER_UPDATE (R118): the loop turns back where the last move made the reflected power greater, steps its code within the
corridor and commits it to symbol 0 of the next slot. -/
def State.tunerLoop (s : State) (p : Nat) (pRef : Int) : State :=
  let v := s.path p
  if s.rd Ix.TunerMode (p + 1) ≠ 1 then s.setPath p { v with refBefore := some pRef }
  else
    let down := match v.refBefore with
      | none => false
      | some before => if before < pRef then !v.tunerDown else v.tunerDown
    let code := (s.rd Ix.TunerCodeNow (p + 1) : Int)
    let step := (s.rd Ix.TunerStep (p + 1) : Int)
    let lo := (s.rd Ix.TunerCodeMin (p + 1) : Int)
    let hi := (s.rd Ix.TunerCodeMax (p + 1) : Int)
    let moved := if down then code - step else code + step
    let edge := edgeOf lo hi moved moved
    s.setPath p { v with refBefore := some pRef, tunerDown := down,
                         tunerNext := some ((clampInt lo hi moved).toNat, edge) }

/-! Path faults at the tick (R418, R423) -/

/-- Paths faulty on the device. -/
def State.faultyPaths (s : State) : List Nat := allPaths.filter (fun p => s.rd Ix.PathFault (p + 1) != 0)

/-- PATH_FAULT with its flag; `led` marks the fault log's entry. -/
def State.raisePathFault (s : State) (p reason : Nat) (faulty led : Bool) : State :=
  s.raiseAt 0x7001 Ix.PathFault (p + 1) (packData [f8 p, f8 reason, fFlag faulty]) led

/-- At the tick after its detection a fault puts the path in hold-off; its loops freeze (R418). -/
def State.actOnFaults (s : State) : State :=
  allPaths.foldl (fun s p =>
    let v := s.path p
    if v.faultDue ≠ 0 then
      let s := s.wr Ix.PathFault (p + 1) v.faultDue
      let led := decide (s.rd Ix.FaultPathLimit 0 < s.faultyPaths.length) && s.mode != 7
      let s := s.setPath p { v with faultDue := 0, nextTx := none, nextGain := none, tunerNext := none }
      s.raisePathFault p v.faultDue true led
    else s) s

/-- A path returns to service (R423). -/
def State.restorePath (s : State) (p : Nat) : State :=
  let reason := s.rd Ix.PathFault (p + 1)
  if reason = 0 then s
  else
    let s := s.wr Ix.PathFault (p + 1) 0
    let s := s.setPath p { s.path p with retestDue := false, restoreDue := false, fullSymbols := 0, lowSteps := 0 }
    s.raisePathFault p reason false false

/-- At a slot boundary a retested path is judged, and one that passed at the boundary before returns to service; `bad` are
the paths whose circuits fail the retest (R423). A reason-0x04 fault ends with its action (R119). -/
def State.retestFaults (s : State) (bad : List Nat) : State :=
  allPaths.foldl (fun s p =>
    let v := s.path p
    if v.restoreDue then s.restorePath p
    else if v.retestDue then
      if bad.contains p then
        (s.setPath p { v with retestDue := false }).raisePathFault p (s.rd Ix.PathFault (p + 1)) true false
      else s.setPath p { v with retestDue := false, restoreDue := true }
    else if v.mismatchAct && !s.rdB Ix.MismatchFlag (p + 1) then
      let s := s.setPath p { v with mismatchAct := false }
      if s.rd Ix.PathFault (p + 1) = 4 then s.restorePath p else s
    else s) s

end Sys2Proof.Machine
end

