-- ==== Sys2Proof/Machine/Carriers.lean ====
section
/-! DEFINITION. Carriers, subcarrier numbering and groups, layer maps, the section codec, and the fronthaul rates (R120 to R129,
R305 to R307). Every function takes the state whose Catalogue values are meant, which may be a view of a later epoch. -/
namespace Sys2Proof.Machine

/-- Δf in kHz of a numerology (Table 2.1). -/
def spacing : Nat → Nat
  | 0 => 15
  | 1 => 30
  | _ => 60

/-- The PRB count of carrier k, 0 for a carrier not configured (R120). -/
def State.prbs (v : State) (k : Nat) : Nat := if k < v.rd Ix.CarrierCount 0 then v.rd Ix.CarrierPrbs (k + 1) else 0

/-- N_0 to N_3, as folio and Library headers hold them. -/
def State.prbsList (v : State) : List Nat := (List.range 4).map v.prbs

/-- PRBs before carrier k in the global numbering (R124). -/
def prbBase (n : List Nat) (k : Nat) : Nat := (n.take k).sum

/-- N_SC (R124). -/
def State.activeSubcarriers (v : State) : Nat := 12 * v.prbsList.sum

/-- Is W_k allowed for a spacing (Table 5.1)? -/
def widthAllowed (nu w : Nat) : Bool :=
  match nu with
  | 0 => [5, 10, 15, 20, 25, 30, 40, 50].contains w
  | 1 => [5, 10, 15, 20, 25, 30, 40, 50, 60, 70, 80, 90, 100].contains w
  | _ => [10, 15, 20, 25, 30, 40, 50, 60, 70, 80, 90, 100].contains w

/-- The code of a carrier's rate: the smallest of 30.72, 61.44 and 122.88 MS/s that serves W_k (R122, Table 5.1). -/
def rateCode (w : Nat) : Nat := if w ≤ 25 then 0 else if w ≤ 50 then 1 else 2

/-- The decimation D_k (R122). -/
def decimation (w : Nat) : Nat := 32 / 2 ^ rateCode w

/-- `CarrierFftSize`: f_s / Δf, 0 for a carrier not configured (R122). -/
def State.fftSize (v : State) (k : Nat) : Nat :=
  if k < v.rd Ix.CarrierCount 0 then
    30720 * 2 ^ rateCode (v.rd Ix.CarrierWidth (k + 1)) / spacing (v.rd Ix.Numerology 0)
  else 0

/-- `CarrierRate`: the code, 0xFF for a carrier not configured. -/
def State.carrierRate (v : State) (k : Nat) : Nat :=
  if k < v.rd Ix.CarrierCount 0 then rateCode (v.rd Ix.CarrierWidth (k + 1)) else 0xFF

/-- The bound of `UlFftAdvance` (R123). -/
def State.advanceBound (v : State) (k : Nat) : Nat :=
  let nu := v.rd Ix.Numerology 0
  (normalSymbol nu - usefulPart nu) / (2 * decimation (v.rd Ix.CarrierWidth (k + 1)))

/-- Σ ceil(N_k / G) (R125). -/
def groupCount (n : List Nat) (g : Nat) : Nat := (n.map (fun k => ceilDiv k g)).sum

/-- The carrier and local PRB of a global PRB (R124). -/
def localPrb : List Nat → Nat → Nat × Nat
  | [], b => (0, b)
  | n :: t, b => if b < n then (0, b) else ((localPrb t (b - n)).1 + 1, (localPrb t (b - n)).2)

/-- The weight group of a global PRB under group size G (R125). -/
def groupOfPrb (n : List Nat) (g b : Nat) : Nat :=
  let c := localPrb n b
  ((n.take c.1).map (fun k => ceilDiv k g)).sum + c.2 / g

/-! Layer maps (Table 5.2) -/

/-- The 12-byte descriptors of a map. -/
def descriptors : Nat → List Byte → List (List Byte)
  | 0, _ => []
  | fuel + 1, l => if l.length < 12 then [] else l.take 12 :: descriptors fuel (l.drop 12)

def dValid (d : List Byte) : Bool := bitAt (fieldLE d 0 1) 7
def dStatic (d : List Byte) : Bool := bitAt (fieldLE d 0 1) 6
def dLayer (d : List Byte) : Nat := bitsOf (fieldLE d 0 1) 4 0
def dWidth (d : List Byte) : Nat := bitsOf (fieldLE d 1 1) 7 3
def dCarrier (d : List Byte) : Nat := bitsOf (fieldLE d 1 1) 1 0
def dFirst (d : List Byte) : Nat := fieldLE d 2 2
def dCount (d : List Byte) : Nat := fieldLE d 4 2
def dMask (d : List Byte) : Nat := fieldLE d 6 2
def dFolio (d : List Byte) : Nat := fieldLE d 8 1
def dBeam (d : List Byte) : Nat := fieldLE d 9 1

/-- The VALID descriptors of a layer map. -/
def State.mapOf (v : State) (index : Nat) : List (List Byte) :=
  let b := v.domVal index 0
  (descriptors (b.length / 12) b).filter dValid

/-- The descriptors that schedule a section in a symbol (R126). -/
def State.scheduled (v : State) (index e : Nat) : List (List Byte) :=
  (v.mapOf index).filter (fun d => bitAt (dMask d) (epSym e))

/-! The section codec (R128, R129) -/

/-- Bytes of a section: header and blocks (R128). -/
def sectionBytes (count width : Nat) : Nat := 8 + 4 * ceilDiv (count * (4 + 24 * width)) 32

/-- The bits of bytes, bit 7 of the first byte first (R128). -/
def bitsMsb (l : List Byte) : List Bool := l.flatMap (fun b => (List.range 8).map (fun i => b.getLsbD (7 - i)))

/-- The number a list of bits spells, most significant first. -/
def natOfBits (l : List Bool) : Nat := l.foldl (fun a b => 2 * a + b2n b) 0

/-- A number as `w` bits, most significant first. -/
def bitsOfNat (w v : Nat) : List Bool := (List.range w).map (fun i => bitAt v (w - 1 - i))

/-- Bytes from bits, bit 7 of each byte first; a last byte cut short is filled with zero bits. -/
def bytesMsb : Nat → List Bool → List Byte
  | 0, _ => []
  | fuel + 1, l =>
    if l.isEmpty then []
    else
      let b := l.take 8
      BitVec.ofNat 8 (natOfBits (b ++ List.replicate (8 - b.length) false)) :: bytesMsb fuel (l.drop 8)

/-- The mantissa pairs of a block from its bits. -/
def readPairs (w : Nat) : Nat → List Bool → List Cplx
  | 0, _ => []
  | n + 1, l => ⟨toInt w (natOfBits (l.take w)), toInt w (natOfBits ((l.drop w).take w))⟩ :: readPairs w n (l.drop (2 * w))

/-- The PRB blocks of a bit stream: exponent and twelve mantissa pairs each (R128). -/
def readBlocks (w : Nat) : Nat → List Bool → List (Nat × List Cplx)
  | 0, _ => []
  | n + 1, l => (natOfBits (l.take 4), readPairs w 12 (l.drop 4)) :: readBlocks w n (l.drop (4 + 24 * w))

/-- The section at the start of a payload, whose whole length must be present (Table 5.3). -/
def readSection (l : List Byte) : SectionRec :=
  let w := bitsOf (fieldLE l 1 1) 7 3
  let n := fieldLE l 4 2
  { layer := bitsOf (fieldLE l 0 1) 4 0, carrier := bitsOf (fieldLE l 1 1) 1 0, first := fieldLE l 2 2, count := n,
    width := w, contrib := bitsOf (fieldLE l 6 1) 3 0, blocks := readBlocks w n (bitsMsb ((l.drop 8).take (sectionBytes n w - 8))) }

/-- The sections of a LAYER_DL payload, and whether its end cut one short (R128). -/
def readSections : Nat → List Byte → List SectionRec × Bool
  | 0, _ => ([], false)
  | fuel + 1, l =>
    if l.length < 8 then ([], false)
    else
      let n := sectionBytes (fieldLE l 4 2) (bitsOf (fieldLE l 1 1) 7 3)
      if l.length < n then ([], true)
      else
        let r := readSections fuel (l.drop n)
        (readSection l :: r.1, r.2)

/-- The exponent with which a block of 16-bit values is compressed (R129). -/
def blockExponent (w : Nat) (v : List Cplx) : Nat :=
  let fits := fun (e : Nat) => v.all (fun c =>
    decide (-(2 ^ (w - 1) : Int) ≤ c.re / 2 ^ e) && decide (c.re / 2 ^ e < (2 ^ (w - 1) : Int)) &&
    decide (-(2 ^ (w - 1) : Int) ≤ c.im / 2 ^ e) && decide (c.im / 2 ^ e < (2 ^ (w - 1) : Int)))
  ((List.range (17 - w)).find? fits).getD (16 - w)

/-- The bits of a compressed block (R128, R129). -/
def blockBits (w : Nat) (v : List Cplx) : List Bool :=
  let e := blockExponent w v
  bitsOfNat 4 e ++ v.flatMap (fun c => bitsOfNat w (ofInt w (c.re / 2 ^ e)) ++ bitsOfNat w (ofInt w (c.im / 2 ^ e)))

/-- The bytes of an uplink or PRACH section (R128, Table 5.3). -/
def writeSection (u : UlSection) : List Byte :=
  let bits := (List.range u.count).flatMap (fun j => blockBits u.width ((u.samples.drop (12 * j)).take 12))
  let body := bytesMsb (bits.length / 8 + 1) bits
  leBytes 1 u.layer ++ leBytes 1 (u.width * 8 + u.carrier) ++ leBytes 2 u.first ++ leBytes 2 u.count ++
    leBytes 1 u.contrib ++ [0] ++ sliceBytes body 0 (sectionBytes u.count u.width - 8)

/-- The samples of a received block: m · 2^e, or zeros where e is above 16 − WIDTH (R129). -/
def blockSamples (w : Nat) (b : Nat × List Cplx) : List Cplx :=
  if 16 - w < b.1 then List.replicate 12 ⟨0, 0⟩ else b.2.map (fun c => ⟨c.re * 2 ^ b.1, c.im * 2 ^ b.1⟩)

/-! Fronthaul rates -/

/-- Bits of a section and its packet header (R305). -/
def sectionBits (count width : Nat) : Nat := 128 + 32 * ceilDiv (count * (4 + 24 * width)) 32

/-- The 16-byte occasion records of `PrachOccasions` with VALID set, by number (Table 5.6). -/
def State.occasions (v : State) : List (Nat × List Byte) :=
  ((List.range 8).map (fun q => (q, sliceBytes (v.domVal Ix.PrachOccasions 0) (16 * q) 16))).filter
    (fun q => bitAt (fieldLE q.2 0 1) 7)

def oCarrier (o : List Byte) : Nat := bitsOf (fieldLE o 0 1) 1 0
def oFolio (o : List Byte) : Nat := fieldLE o 1 1
def oBeams (o : List Byte) : Nat := fieldLE o 2 1
def oWidth (o : List Byte) : Nat := fieldLE o 3 1
def oFirst (o : List Byte) : Nat := fieldLE o 4 2
def oCount (o : List Byte) : Nat := fieldLE o 6 2
def oMask (o : List Byte) : Nat := fieldLE o 8 2
def oPeriod (o : List Byte) : Nat := fieldLE o 10 2
def oOffset (o : List Byte) : Nat := fieldLE o 12 2

/-- B(s) of a direction (R305). -/
def State.symbolBits (v : State) (north : Bool) (sym : Nat) : Nat :=
  let m := (v.mapOf (if north then Ix.UlLayerMap else Ix.DlLayerMap)).filter (fun d => bitAt (dMask d) sym)
  let layers := (m.map (fun d => sectionBits (dCount d) (dWidth d))).sum
  let prach := if north then ((v.occasions.filter (fun o => bitAt (oMask o.2) sym)).map
    (fun o => oBeams o.2 * sectionBits (oCount o.2) (oWidth o.2))).sum else 0
  layers + prach

/-- R_stream of a direction in bit/s (R305). -/
def State.streamRate (v : State) (north : Bool) : Nat :=
  ((List.range 14).map (v.symbolBits north)).foldl max 0 * 14000 * (spacing (v.rd Ix.Numerology 0) / 15)

/-- `StreamRate` in Mb/s (R305): Table 13.4's figures are whole; a fraction is dropped. -/
def State.streamMbps (v : State) (north : Bool) : Nat := v.streamRate north / 1000000

/-- Payload rate of a port direction in Mb/s, by rate code (Table 12.2). -/
def payloadMbps (rate : Nat) : Nat := if rate = 2 then 248000 else if rate = 1 then 198400 else 124000

/-- `GramRateSpare` of a port (R307), 0 for PORT-N and 1 for PORT-S: 96 % of the payload rate less the stream load of the
direction that leaves by it, floored at 0; 0 for a port not in ACTIVE. -/
def State.gramSpare (s : State) (port : Nat) : Nat :=
  if s.rd Ix.LinkState (port + 1) ≠ 5 then 0
  else (payloadMbps (s.rd Ix.LinkRateInForce (port + 1)) * 960000 - s.streamRate (port == 0)) / 1000000

/-! Subband layout (R186 to R188) -/

/-- A field of the record of carrier k of `FlexSubbands` (Table 8.1). -/
def State.flexField (v : State) (k off n : Nat) : Nat := v.domField Ix.FlexSubbands 0 (16 * k + off) n

/-- The uplink subbands: number s = 2k + j, carrier, first PRB, count, guard (R186). -/
def State.subbands (v : State) : List (Nat × Nat × Nat × Nat × Nat) :=
  (List.range 4).flatMap (fun k =>
    if bitAt (v.flexField k 0 1) 7 then
      ((List.range 2).map (fun j => (2 * k + j, k, v.flexField k (2 + 4 * j) 2, v.flexField k (4 + 4 * j) 2, v.flexField k 1 1))).filter
        (fun x => x.2.2.2.1 != 0)
    else [])

/-- Does a PRB of carrier k lie in an uplink subband? -/
def State.inUlSubband (v : State) (k b : Nat) : Bool :=
  v.subbands.any (fun (_, c, f, n, _) => c == k && decide (f ≤ b) && decide (b < f + n))

/-- Does a PRB of carrier k lie in a guard band? -/
def State.inGuardBand (v : State) (k b : Nat) : Bool :=
  v.subbands.any (fun (_, c, f, n, g) => c == k && decide (f ≤ b + g) && decide (b < f + n + g)) && !v.inUlSubband k b

/-- Does a PRB range of carrier k lie wholly inside one uplink subband (R188)? -/
def State.insideSubband (v : State) (k first count : Nat) : Bool :=
  v.subbands.any (fun (_, c, f, n, _) => c == k && decide (f ≤ first) && decide (first + count ≤ f + n))

/-- Is active subcarrier n one of an uplink subband (`ul`) or of a downlink subband? -/
def State.flexSubcarrier (v : State) (ul : Bool) (n : Nat) : Bool :=
  let x := localPrb v.prbsList (n / 12)
  if ul then v.inUlSubband x.1 x.2 else !v.inUlSubband x.1 x.2 && !v.inGuardBand x.1 x.2

end Sys2Proof.Machine
end

