-- ==== Sys2Proof/Machine/Mixer.lean ====
section
/-! DEFINITION. Folios, the Beam Mixer, static beams and PRACH, and the sections of a symbol up to their packets (R16, R17, R20 to
R22, R38, R39, R126 to R140, R309). -/
namespace Sys2Proof.Machine

/-! Folio slots (Tables 5.4, 5.5) -/

/-- A field of the folio header at an address. -/
def folioLayers (h : List Byte) : Nat := fieldLE h 2 1
def folioGroup (h : List Byte) : Nat := fieldLE h 3 1
def folioGroups (h : List Byte) : Nat := fieldLE h 4 2
def folioPrbs (h : List Byte) : List Nat := (List.range 4).map (fun k => fieldLE h (8 + 2 * k) 2)
def folioLength (h : List Byte) : Nat := fieldLE h 32 4

/-- Is a number a folio slot or a static folio? -/
def isSlot (n : Nat) : Bool := decide (n < 4) || (decide (16 ≤ n) && decide (n < 32))

/-- The first byte of a folio slot or static folio, by its slot number (Table 5.4, R139). -/
def State.folioBase (s : State) (slot : Nat) : Nat :=
  if slot < 4 then folioSlotBase slot else staticRegionBase + s.rd Ix.StaticFolioOffset (slot - 15)

/-- The state of a folio slot or static folio (R136). -/
def State.folioState (s : State) (slot : Nat) : Nat :=
  if slot < 4 then s.rd Ix.FolioSlotState (slot + 1) else s.rd Ix.StaticFolioState (slot - 15)

/-- Set the state of a folio slot or static folio. -/
def State.setFolioState (s : State) (slot st : Nat) : State :=
  if slot < 4 then s.wr Ix.FolioSlotState (slot + 1) st else s.wr Ix.StaticFolioState (slot - 15) st

/-- Raise a folio event from the slot's element (Table 3.14). -/
def State.raiseFolio (s : State) (code slot data : Nat) : State :=
  if slot < 4 then s.raiseAt code Ix.FolioSlotState (slot + 1) data false
  else s.raiseAt code Ix.StaticFolioState (slot - 15) data false

/-- The header of a folio as it stands in the Weight Stage. -/
def State.folioHeader (s : State) (slot : Nat) : List Byte := s.bytesAt (s.folioBase slot) 64

/-- The offset of the first failing field of a folio's header; none where it passes (R136). -/
def State.folioCheck (s : State) (slot : Nat) : Option Nat :=
  let h := s.folioHeader slot
  let base := s.folioBase slot
  let kindOk := if slot < 2 then fieldLE h 1 1 == 0 else if slot < 4 then fieldLE h 1 1 == 1
    else fieldLE h 1 1 == 2 || fieldLE h 1 1 == 3
  match (List.range 16).find? (fun i => s.poisoned (base + 4 * i)) with
  | some i => some (4 * i)
  | none =>
    if fieldLE h 0 1 ≠ 1 then some 0
    else if !kindOk then some 1
    else if folioLayers h = 0 ∨ 32 < folioLayers h then some 2
    else if folioGroup h = 0 ∨ 16 < folioGroup h then some 3
    else if folioGroups h = 0 ∨ 1092 < folioGroups h ∨ folioGroups h ≠ groupCount (folioPrbs h) (folioGroup h) then some 4
    else if folioLength h ≠ 256 * folioLayers h * folioGroups h then some 32
    else if 16 ≤ slot ∧ staticRegionBase + 0xC00000 < base + 64 + folioLength h then some 32
    else none

/-- Sealing of a slot (R136): on success sealed, its header kept and FOLIO_SEALED; else seal failed and FOLIO_SEAL_FAIL. -/
def State.sealFolio (s : State) (slot : Nat) : State :=
  let s := (List.range 16).foldl (fun s i => s.meetUpset (s.folioBase slot + 4 * i)) s
  match s.folioCheck slot with
  | some off => (s.setFolioState slot 3).raiseFolio 0x3002 slot (packData [f8 slot, f8 off])
  | none =>
    let h := s.folioHeader slot
    let s := s.setFolioState slot 1
    let s := if slot < 4 then s.setDom Ix.FolioSlotHeader (slot + 1) h else s
    s.raiseFolio 0x3001 slot (packData [f8 slot, f8 (folioLayers h), f16 (folioGroups h)])

/-- `FolioSeal` (R136): refused with RANGE for a number that names no slot, with STATE for one in service. -/
def State.folioSeal (s : State) (slot : Nat) : Res :=
  if !isSlot slot then .error (rangeAt 0)
  else if s.folioState slot = 2 then .error s.stateAbort
  else .ok (s.sealFolio slot)

/-- The folio a direction's select entry names, if any. -/
def State.selected (v : State) (index : Nat) : Option Nat := if v.rd index 0 = 0xFF then none else some (v.rd index 0)

/-- Is a folio selection ready for the configuration of a view (R137)? -/
def State.folioReady (s v : State) (slot : Nat) : Bool :=
  (s.folioState slot == 1 || s.folioState slot == 2) && folioPrbs (v.folioHeader slot) == v.prbsList

/-- FOLIO_MISMATCH for a slot that is sealed but does not match, once for a slot and target (R137). -/
def State.folioMismatch (s v : State) (slot target : Nat) : State :=
  if s.folioState slot = 1 ∧ folioPrbs (v.folioHeader slot) ≠ v.prbsList ∧ !s.mix.mismatched.contains (slot, target) then
    let s := { s with mix := { s.mix with mismatched := s.mix.mismatched ++ [(slot, target)] } }
    s.raiseFolio 0x3003 slot (packData [f8 slot, fEpoch target])
  else s

/-- The slots in service as a tick finds them (R138): a downlink slot selected for the epoch in progress unless the next epoch
uses another; an uplink slot selected for the epoch in progress or, for one epoch longer, the one before; the static folios
placed. `prevUl` is the uplink selection that governed the epoch before. -/
def State.serveFolios (s v : State) (prevUl : Nat) : State :=
  let dl := s.rd Ix.DlFolioSelect 0
  let dlNext := v.rd Ix.DlFolioSelect 0
  let ul := s.rd Ix.UlFolioSelect 0
  let s := [0, 1, 2, 3].foldl (fun s k =>
    let serve := if k < 2 then dl == k && dlNext == k else ul == k || prevUl == k
    if serve then s.setFolioState k 2 else if s.folioState k = 2 then s.setFolioState k 1 else s) s
  (List.range 16).foldl (fun s i =>
    if s.rd Ix.StaticFolioOffset (i + 1) ≠ 0xFFFFFFFF then (if s.folioState (i + 16) = 1 then s.setFolioState (i + 16) 2 else s)
    else if s.folioState (i + 16) = 2 then s.setFolioState (i + 16) 1 else s) s

/-! Sections received (R20, R38, R130) -/

/-- The devices of the array as this device knows them: those north of it, itself, and the DEVICES last received on PORT-S
while PORT-S is ACTIVE (R294). -/
def State.arrayN (s : State) : Nat := s.pos + 1 + (if s.rd Ix.LinkState 2 = 5 then s.link.south else 0)

/-- The instant of the downlink cut-off of symbol n at this device (R38): the midpoint of epoch n − 2, less 1.5 µs for each
position south of it. `e` is epoch n − 2. -/
def State.cutOffAt (s : State) (e : Nat) : Nat :=
  s.tickOf e + symbolUnits (s.numerologyAt e) e / 2 - nsec 1500 * (s.arrayN - 1 - s.pos)

/-- Has the cut-off of symbol n passed: n lies two epochs ahead or less, and its instant is past? -/
def State.pastCutOff (s : State) (n : Nat) : Bool :=
  if epLe n (s.nextEpoch s.epoch) then true
  else if n = s.addEpochs 2 s.epoch then decide (s.cutOffAt s.epoch < s.now)
  else if n = s.addEpochs 3 s.epoch then decide (s.cutOffAt (s.nextEpoch s.epoch) < s.now)
  else false

/-- Does a symbol's tick lie more than six symbol durations ahead (R301)? -/
def State.tooEarly (s : State) (n : Nat) : Bool :=
  epLe s.epoch n && decide (s.now + 6 * 3125 * normalSymbol (s.rd Ix.Numerology 0) < s.tickOf n)

/-- Count and report SECTION_REJECT for a symbol (R130). -/
def State.rejectSections (s : State) (reason n : Nat) : State :=
  if n = 0 then s
  else (s.addCount Ix.SectionRejects reason n).raise 0x3005 reason (packData [f8 reason, fCount n])

/-- A mode in which LAYER_DL packets are accepted (Table 1.4). -/
def layerDlMode (m : Nat) : Bool := m == 4 || m == 5

/-- A mode in which LAYER_UL is sent (Table 1.4). -/
def layerUlMode (m : Nat) : Bool := m == 4 || m == 5 || m == 7

/-- The sections of a LAYER_DL payload for symbol n (R20, R38, R128, R301): discarded in a mode that discards, dropped when
too early, counted when late, else kept for the cut-off. -/
def State.takeLayerDl (s : State) (n : Nat) (payload : List Byte) : State :=
  if !layerDlMode s.mode then s.bump Ix.LayerDiscards 0
  else
    let (secs, cut) := readSections (payload.length / 8 + 1) payload
    if s.tooEarly n then s.addCount Ix.DlEarlySections 0 secs.length
    else if s.pastCutOff n then
      let s := s.addCount Ix.DlLateSections 0 secs.length
      if cut then s.rejectSections 4 1 else s
    else
      { s with mix := { s.mix with got := s.mix.got ++ secs.map (fun x => (n, x)),
                                   trunc := if cut then tput 0 n (tget 0 n s.mix.trunc + 1) s.mix.trunc else s.mix.trunc } }

/-- Does a section satisfy a descriptor (R130)? -/
def sectionFits (x : SectionRec) (d : List Byte) : Bool :=
  x.layer == dLayer d && x.carrier == dCarrier d && x.first == dFirst d && x.count == dCount d && x.width == dWidth d

/-- Sections matched to descriptors in order of arrival: the satisfied ones with their samples, and the counts of unmatched
sections, duplicates and invalid blocks (R129, R130). -/
structure Matching where
  parts : List (List Byte × List Cplx)
  unmatched : Nat
  dup : Nat
  invalid : Nat
  deriving DecidableEq, Repr

/-- Match one section. -/
def matchSection (sched : List (List Byte)) (m : Matching) (x : SectionRec) : Matching :=
  match sched.find? (sectionFits x) with
  | none => { m with unmatched := m.unmatched + 1 }
  | some d =>
    if m.parts.any (fun p => p.1 == d) then { m with dup := m.dup + 1 }
    else { m with parts := m.parts ++ [(d, x.blocks.flatMap (blockSamples x.width))],
                  invalid := m.invalid + (x.blocks.filter (fun b => decide (16 - x.width < b.1))).length }

/-- A downlink symbol is judged (R38, R130): rejects reported once, an underrun silences it, and a symbol for which nothing is
scheduled is silent without one. -/
def State.judgeDl (s : State) (n : Nat) (secs : List SectionRec) (cut : Nat) : State :=
  let v := s.viewAt n
  let sched := if v.dlSymbol n then v.scheduled Ix.DlLayerMap n else []
  let m := secs.foldl (matchSection sched) ⟨[], 0, 0, 0⟩
  let s := (((s.rejectSections 1 m.unmatched).rejectSections 2 m.dup).rejectSections 3 m.invalid).rejectSections 4 cut
  let missing := sched.length - m.parts.length
  let s := if 0 < missing then
      (s.bump Ix.DlUnderruns 0).raise 0x1201 0 (packData [fEpoch n, fCount missing])
    else s
  let r : DlReady := { epoch := n, silent := decide (0 < missing) || sched.isEmpty, parts := m.parts }
  { s with mix := { s.mix with judged := (s.mix.judged.filter (fun x => x.epoch != n)) ++ [r] } }

/-- DL_CUTOFF (R38): at the cut-off of the symbol two epochs ahead, the sections kept for it are judged. -/
def State.dlCutoff (s : State) : State :=
  let n := s.addEpochs 2 s.epoch
  if layerDlMode s.mode ∧ s.cutOffAt s.epoch ≤ s.now ∧ !s.mix.judged.any (fun x => x.epoch == n) then
    let secs := (s.mix.got.filter (fun x => x.1 == n)).map (·.2)
    let cut := tget 0 n s.mix.trunc
    let s := { s with mix := { s.mix with got := s.mix.got.filter (fun x => x.1 != n), trunc := tdel n s.mix.trunc } }
    s.judgeDl n secs cut
  else s

/-! Replay (R21, R22) -/

/-- The packets of a replay record's bytes, each its offset and its payload, or none where they do not fill the record exactly (R22). -/
def replayPackets : Nat → Nat → List Byte → Option (List (Nat × List Byte))
  | 0, _, l => if l.isEmpty then some [] else none
  | fuel + 1, off, l =>
    if l.isEmpty then some []
    else if l.length < 8 then none
    else
      let n := 8 + 4 * bitsOf (fieldLE l 0 4) 25 12
      if l.length < n then none
      else (replayPackets fuel (off + n) (l.drop n)).map (fun t => (off, (l.take n).drop 8) :: t)

/-- Where the sections of a payload lie: offset and size of each that is whole (R128). -/
def sectionSpans : Nat → Nat → List Byte → List (Nat × Nat)
  | 0, _, _ => []
  | fuel + 1, off, l =>
    if l.length < 8 then []
    else
      let n := sectionBytes (fieldLE l 4 2) (bitsOf (fieldLE l 1 1) 7 3)
      if l.length < n then [] else (off, n) :: sectionSpans fuel (off + n) (l.drop n)

/-- Where the replay record number k starts: after k records, each from a multiple of 2 KiB (R22). -/
def State.replayRecordAt (s : State) : Nat → Nat → Nat
  | 0, a => a
  | k + 1, a => s.replayRecordAt k (roundUp (a + 4 + s.numAt a 4 - s.rd Ix.ObserveReplayBase 0) 2048 + s.rd Ix.ObserveReplayBase 0)

/-- The sections of a replay packet at an address that no poisoned word touches (Table 14.4), and whether its end cut one short. -/
def State.replaySections (s : State) (a : Nat) (payload : List Byte) : List SectionRec × Bool :=
  let r := readSections (payload.length / 8 + 1) payload
  let spans := sectionSpans (payload.length / 8 + 1) (a + 8) payload
  (((r.1.zip spans).filter (fun x => !s.rangePoisoned x.2.1 x.2.2)).map (·.1), r.2)

/-- OBSERVE_REPLAY: the next replay record's sections are those of symbol n (R21, R22). A section that a poisoned word touches counts as
missing, and a record whose LENGTH or a packet header is poisoned as one without sections (R334, Table 14.4). -/
def State.observeReplay (s : State) (n : Nat) : State :=
  let base := s.rd Ix.ObserveReplayBase 0
  let top := base + s.rd Ix.ObserveReplayBytes 0
  let k := s.modes.replayNext
  let a := s.replayRecordAt k base
  let s := s.settle a 4
  let len := s.numAt a 4
  let s := if top < a + 4 + len then s else s.settle (a + 4) len
  let pk := if top < a + 4 + len || s.poisoned a then none else replayPackets (len / 8 + 1) 0 (s.bytesAt (a + 4) len)
  let pk := (pk.filter (fun l => l.all (fun p => !s.rangePoisoned (a + 4 + p.1) 8))).getD []
  let secs := pk.map (fun p => s.replaySections (a + 4 + p.1) p.2)
  let hit := if top < a + 4 + len then [] else s.mem.poison.filter (fun w => decide (a ≤ w) && decide (w < a + 4 + len))
  let s := hit.foldl State.consumePoison s
  let s := { s with modes := { s.modes with replayNext := (k + 1) % max 1 (s.rd Ix.ObserveReplaySymbols 0) } }
  s.judgeDl n (secs.flatMap (·.1)) ((secs.filter (·.2)).length)

/-! The Beam Mixer (R131 to R133) -/

/-- A CPLX16 value of four bytes. -/
def cplxOf (w : Nat) : Cplx := ⟨toInt 16 (w % 2 ^ 16), toInt 16 (w / 2 ^ 16 % 2 ^ 16)⟩

/-- Product of integers as complex numbers, exact. -/
def cmul (a b : Cplx) : Cplx := ⟨a.re * b.re - a.im * b.im, a.re * b.im + a.im * b.re⟩

/-- Sum, exact. -/
def cadd (a b : Cplx) : Cplx := ⟨a.re + b.re, a.im + b.im⟩

/-- Conjugate. -/
def conj (a : Cplx) : Cplx := ⟨a.re, -a.im⟩

/-- |c|². -/
def cpow (c : Cplx) : Nat := (c.re * c.re + c.im * c.im).toNat

def czero : Cplx := ⟨0, 0⟩

/-- Saturation to CPLX16. -/
def sat16 (x : Int) : Int := clampInt (-32768) 32767 x

/-- An accumulator shifted by 15 + S and saturated, and whether it saturated (R132). -/
def mixOut (shift : Nat) (a : Cplx) : Cplx × Bool :=
  let x : Cplx := ⟨a.re / 2 ^ (15 + shift), a.im / 2 ^ (15 + shift)⟩
  let y : Cplx := ⟨sat16 x.re, sat16 x.im⟩
  (y, x != y)

/-- Offset of a downlink weight W[p, l, g] in a folio of L layers (R135). -/
def dlOffset (layers p l g : Nat) : Nat := 64 + 4 * ((g * 64 + p) * layers + l)

/-- Offset of an uplink weight W[l, p, g]. -/
def ulOffset (layers l p g : Nat) : Nat := 64 + 4 * ((g * layers + l) * 64 + p)

/-- The weight at an offset of a folio. -/
def State.weightAt (s : State) (slot off : Nat) : Cplx := cplxOf (s.numAt (s.folioBase slot + off) 4)

/-- The poisoned words of a folio's weights, as offsets in rising order. -/
def State.folioPoison (s : State) (slot : Nat) : List Nat :=
  let base := s.folioBase slot
  let top := base + 64 + folioLength (s.folioHeader slot)
  (s.mem.poison.filter (fun w => decide (base + 64 ≤ w) && decide (w < top))).map (· - base)

/-- The mixer's reads meet the upsets of a folio's words (R326, R333). -/
def State.folioUpsets (s : State) (slot : Nat) : State :=
  let base := s.folioBase slot
  let top := base + 64 + folioLength (s.folioHeader slot)
  (s.mem.upsets.filter (fun u => decide (base + 64 ≤ u.addr) && decide (u.addr < top))).foldl (fun s u => s.meetUpset u.addr) s

/-- MIX_POISON for the poisoned words a pass read, each reported once until it is written (Table 14.5); the symbol counts
once per direction (R133). -/
def State.mixPoison (s : State) (sub : Nat) (bad : List (Nat × Nat)) : State :=
  if bad.isEmpty then s
  else
    let s := s.bump Ix.MixPoisonCount sub
    bad.foldl (fun s b =>
      let a := s.folioBase b.1 + b.2
      let s := s.consumePoison a
      if s.mix.reported.contains a then s
      else
        let s := { s with mix := { s.mix with reported := insertNat a s.mix.reported } }
        s.raise 0x3006 sub (packData [f8 b.1, f32 b.2])) s

/-- Saturations of a pass (R132). -/
def State.mixSaturated (s : State) (dir n : Nat) : State :=
  if n = 0 then s
  else
    let s := s.addCount Ix.MixSatCount (dir + 1) n
    { s with mix := { s.mix with sat := tput 0 dir (tget 0 dir s.mix.sat + n) s.mix.sat } }

/-- MIX_SATURATION at a frame start, once per direction, with the frame's count (R132). -/
def State.mixSatReport (s : State) : State :=
  let s := [0, 1].foldl (fun s dir =>
    let n := tget 0 dir s.mix.sat
    if n = 0 then s else s.raise 0x3004 (dir + 1) (packData [f8 dir, fCount n])) s
  { s with mix := { s.mix with sat := [] } }

/-- Poisoned words that have been written again may be reported again. -/
def State.mixReportedPrune (s : State) : State :=
  { s with mix := { s.mix with reported := s.mix.reported.filter (fun a => s.mem.poison.contains a) } }

/-- A judged symbol's samples at subcarrier n of the parts a test picks: each part's descriptor and sample. -/
def samplesAt (v : State) (parts : List (List Byte × List Cplx)) (n : Nat) : List (List Byte × Cplx) :=
  let prbs := v.prbsList
  parts.filterMap (fun p =>
    let lo := 12 * (prbBase prbs (dCarrier p.1) + dFirst p.1)
    if lo ≤ n ∧ n < lo + 12 * dCount p.1 then some (p.1, p.2.getD (n - lo) czero) else none)

/-- The accumulator of path p at subcarrier n (R131): the dynamic layers below LAYERS of the folio of a slot, and the static
sections. -/
def State.dlAcc (s v : State) (slot : Option Nat) (at_ : List (List Byte × Cplx)) (p n : Nat) : Cplx :=
  let prbs := v.prbsList
  at_.foldl (fun acc x =>
    if dStatic x.1 then
      let f := 16 + dFolio x.1
      let h := s.folioHeader f
      let g := groupOfPrb prbs (folioGroup h) (n / 12)
      if v.rd Ix.StaticFolioOffset (dFolio x.1 + 1) != 0xFFFFFFFF && decide (dBeam x.1 < folioLayers h) && decide (g < folioGroups h)
      then cadd acc (cmul (s.weightAt f (dlOffset (folioLayers h) p (dBeam x.1) g)) x.2)
      else acc
    else match slot with
      | none => acc
      | some f =>
        let h := s.folioHeader f
        let g := groupOfPrb prbs (folioGroup h) (n / 12)
        if dLayer x.1 < folioLayers h ∧ g < folioGroups h then
          cadd acc (cmul (s.weightAt f (dlOffset (folioLayers h) p (dLayer x.1) g)) x.2)
        else acc) czero

/-- The path a downlink weight word belongs to, by its offset. -/
def dlWordPath (layers off : Nat) : Nat := (off - 64) / 4 / max 1 layers % 64

/-- The beam or layer of a downlink weight word. -/
def dlWordLayer (layers off : Nat) : Nat := (off - 64) / 4 % max 1 layers

/-- BEAM_MIXER_PASS, downlink (R16, R131 to R133): in the epoch before its air epoch, symbol n is formed from its judged sections
with the configuration that governs it. -/
def State.dlPass (s : State) (n : Nat) : State :=
  match s.mix.judged.find? (fun x => x.epoch == n) with
  | none => { s with mix := { s.mix with out := some ⟨n, true, [], []⟩ } }
  | some r =>
    let v := s.airAt n
    let slot := v.selected Ix.DlFolioSelect
    let statics := ((r.parts.map (·.1)).filter dStatic).filter (fun d => v.rd Ix.StaticFolioOffset (dFolio d + 1) != 0xFFFFFFFF)
    let s := match slot with
      | some f => s.folioUpsets f
      | none => s
    let s := statics.foldl (fun s d => s.folioUpsets (16 + dFolio d)) s
    let bad := (match slot with
      | some f => (s.folioPoison f).map (fun o => (f, o))
      | none => []) ++ (statics.flatMap (fun d =>
        let f := 16 + dFolio d
        ((s.folioPoison f).filter (fun o => dlWordLayer (folioLayers (s.folioHeader f)) o == dBeam d)).map (fun o => (f, o)))).eraseDups
    let dead := (bad.map (fun b => dlWordPath (folioLayers (s.folioHeader b.1)) b.2)).foldl (fun l p => insertNat p l) []
    let s := s.mixPoison 1 bad
    let shift := v.rd Ix.DlMixShift 0
    let ns := List.range v.activeSubcarriers
    let vals := if r.silent then [] else ns.flatMap (fun n =>
      let xs := samplesAt v r.parts n
      if xs.all (fun x => x.2 == czero) then []
      else (allPaths.filter (fun p => !v.flexSymbol (courseOf p) r.epoch || v.flexSubcarrier false n)).map (fun p =>
        (p, n, mixOut shift (s.dlAcc v slot xs p n))))
    let s := s.mixSaturated 0 ((vals.filter (fun x => x.2.2.2)).length)
    let out := (vals.map (fun x => (x.1, x.2.1, x.2.2.1))).filter (fun x => x.2.2 != czero)
    { s with mix := { s.mix with out := some ⟨n, r.silent, dead, out⟩, judged := s.mix.judged.filter (fun x => x.epoch != n) } }

/-! Uplink (R131 to R133, R140, R309) -/

/-- Does a path deliver samples in a symbol: its course receives, its receive side is in service, its LO was locked
throughout (R91, R105, R109, R126)? -/
def State.rxDelivers (s : State) (p e : Nat) : Bool :=
  let c := courseOf p
  s.rxSymbol c e && !s.rxHeldOff p && s.loLocked c && !(s.course c).lostNow && !(s.course c).recal
    && !s.flexRxZero p e && !s.claimed p e

/-- The accumulator of layer or beam l at subcarrier n from received samples `rx` (path and value). -/
def State.ulAcc (s : State) (slot l g : Nat) (rx : List (Nat × Cplx)) : Cplx :=
  let layers := folioLayers (s.folioHeader slot)
  rx.foldl (fun acc x => cadd acc (cmul (s.weightAt slot (ulOffset layers l x.1 g)) x.2)) czero

/-- The layer and group of an uplink weight word, by its offset. -/
def ulWord (layers off : Nat) : Nat × Nat :=
  let i := (off - 64) / 4 / 64
  (i % max 1 layers, i / max 1 layers)

/-- The samples of one section (R131, R132): layer or beam l of a folio over a PRB range, zero in a poisoned group, above
LAYERS, or with no folio; and how many values saturated. `rx` are the received samples by subcarrier and path. -/
def State.ulSamples (s : State) (slot : Option Nat) (bad : List (Nat × Nat)) (l prb0 count shift : Nat)
    (rx : List (Nat × Nat × Cplx)) : List Cplx × Nat :=
  match slot with
  | none => (List.replicate (12 * count) czero, 0)
  | some f =>
    let h := s.folioHeader f
    let r := (List.range (12 * count)).map (fun i =>
      let n := 12 * prb0 + i
      let g := groupOfPrb s.prbsList (folioGroup h) (n / 12)
      let xs := rx.filterMap (fun x => if x.2.1 == n then some (x.1, x.2.2) else none)
      if xs.isEmpty || !decide (l < folioLayers h) || !decide (g < folioGroups h) || bad.contains (l, g) then (czero, false)
      else mixOut shift (s.ulAcc f l g xs))
    (r.map (·.1), (r.filter (·.2)).length)

/-- The layers and groups of a folio that a poisoned word zeroes. -/
def State.ulDead (s : State) (slot : Nat) : List (Nat × Nat) :=
  (s.folioPoison slot).map (ulWord (folioLayers (s.folioHeader slot)))

/-- Is the device the southmost of its array (R309)? -/
def State.southmost (s : State) : Bool := decide (s.arrayN ≤ s.pos + 1)

/-- A packet becomes ready on a port: 0 PORT-N, 1 PORT-S. -/
def State.sendPacket (s : State) (port : Nat) (p : OutPacket) : State :=
  { s with link := { s.link with ready := tins port (tget [] port s.link.ready ++ [p]) s.link.ready } }

/-- The LAYER_UL or PRACH packet of a section (Table 13.2). -/
def ulPacket (u : UlSection) : OutPacket :=
  { typ := if u.prach then 3 else 2, pos := u.southmost, etag := u.epoch % 2 ^ 32, payload := writeSection u }

/-- The end of the capture region (R22): the end of the capture partition, or the replay region above it in the partition. -/
def State.captureEnd (s : State) : Nat :=
  let top := s.rd Ix.PartitionBase 3 + s.rd Ix.PartitionSize 3
  let replay := s.rd Ix.ObserveReplayBase 0
  if s.rd Ix.ObserveCaptureBase 0 < replay ∧ s.inPartition 3 replay 1 then replay else top

/-- A combined uplink section leaves: in a packet out of PORT-N, or in Observe a layer's as a LAYER_UL packet in the capture region;
CAPTURE_FULL stops the writing (R21, R140, R309). -/
def State.emitSection (s : State) (u : UlSection) : State :=
  let s := { s with mix := { s.mix with left := (s.mix.left ++ [u]).drop (s.mix.left.length + 1 - 256) } }
  if s.mode = 6 ∧ u.prach = false then
    if s.modes.captureFull then s
    else
      let p := ulPacket u
      let words := p.payload.length / 4
      let bytes := leBytes 8 (p.etag * 2 ^ 32 + p.typ * 2 ^ 28 + p.pos % 4 * 2 ^ 26 + words * 2 ^ 12) ++ p.payload
      let a := s.rd Ix.ObserveCaptureBase 0 + s.modes.captureNext
      if s.captureEnd < a + bytes.length then
        let s := { s with modes := { s.modes with captureFull := true } }
        s.raise 0x1103 0 (packData [f40 a])
      else
        let s := s.placeBytes .device a bytes
        { s with modes := { s.modes with captureNext := s.modes.captureNext + bytes.length } }
  else s.sendPacket 0 (ulPacket u)

/-- An own section is complete: the southmost device sends it, the others keep it for its partial (R309). -/
def State.ownSection (s : State) (u : UlSection) : State :=
  if s.southmost then s.emitSection u
  else { s with mix := { s.mix with waiting := s.mix.waiting ++ [u] } }

/-- Do two sections match (R309)? -/
def sameSection (a b : UlSection) : Bool :=
  a.prach == b.prach && a.layer == b.layer && a.carrier == b.carrier && a.first == b.first && a.count == b.count
    && a.width == b.width && a.epoch == b.epoch

/-- Addition of decompressed values with saturation, and how many saturated (R133). -/
def addSamples (a b : List Cplx) : List Cplx × Nat :=
  let r := (a.zip b).map (fun x =>
    let y := cadd x.1 x.2
    let z : Cplx := ⟨sat16 y.re, sat16 y.im⟩
    (z, y != z))
  (r.map (·.1), (r.filter (·.2)).length)

/-- LAYER_UL and PRACH from the south (R309): the partial is added to the matching own section, which then leaves; a late or
unmatched partial is discarded and counted. `epoch` is the completed ETAG. -/
def State.takePartial (s : State) (prach : Bool) (epoch pos : Nat) (payload : List Byte) : State :=
  let x := readSection payload
  let u : UlSection :=
    { epoch := epoch, prach := prach, layer := x.layer, carrier := x.carrier, first := x.first,
      count := x.count, width := x.width, contrib := x.contrib, southmost := pos,
      samples := x.blocks.flatMap (blockSamples x.width) }
  match s.mix.waiting.find? (sameSection u) with
  | some own =>
    let r := addSamples own.samples u.samples
    let s := { s with mix := { s.mix with waiting := s.mix.waiting.filter (fun w => w != own) } }
    let s := s.mixSaturated 1 r.2
    s.emitSection { own with samples := r.1, contrib := own.contrib ||| u.contrib, southmost := pos }
  | none =>
    if s.mix.left.any (sameSection u) then s.bump Ix.UlLatePartials 0 else s.bump Ix.UlUnmatchedPartials 0

/-- The accumulation deadline of uplink symbol n (R309): tick(n + 2) + 6 µs − 1.5 µs × (a + 1). -/
def State.accumulationDeadline (s : State) (n : Nat) : Nat :=
  (if epLe s.epoch (s.addEpochs 2 n) then s.tickOf (s.addEpochs 2 n) else s.tb.tickAt) + usec 6 - nsec 1500 * (s.pos + 1)

/-- UL_ACCUMULATION_DEADLINE (R309): the sections whose deadline has passed leave without their partial, each counted, and
UL_PARTIAL is raised once per symbol. -/
def State.ulDeadline (s : State) : State :=
  let due := s.mix.waiting.filter (fun w => decide (s.accumulationDeadline w.epoch ≤ s.now))
  let s := { s with mix := { s.mix with waiting := s.mix.waiting.filter (fun w => !decide (s.accumulationDeadline w.epoch ≤ s.now)) } }
  let s := due.foldl (fun s w => (s.bump Ix.UlPartialSent 0).emitSection w) s
  ((due.map (·.epoch)).eraseDups).foldl (fun s e => s.raise 0x1208 0 (packData [fEpoch e, f8 (s.pos + 1)])) s

/-- PRACH_OCCASION and PRACH_SKIPPED (R140) for symbol e; the poison its folios met is returned for the symbol's count. -/
def State.prachPass (s : State) (e : Nat) (rx : List (Nat × Nat × Cplx)) : State × List (Nat × Nat) :=
  s.occasions.foldl (fun acc o =>
    let s := acc.1
    if s.absSlot e % max 1 (oPeriod o.2) ≠ oOffset o.2 ∨ !bitAt (oMask o.2) (epSym e) then acc
    else if !s.ulSymbol e || (s.anyFlex e && !s.insideSubband (oCarrier o.2) (oFirst o.2) (oCount o.2)) then
      let s := s.bump Ix.PrachSkipped (o.1 + 1)
      (s.raise 0x3007 (o.1 + 1) (packData [f8 o.1, f8 (epSym e)]), acc.2)
    else
      let f := 16 + oFolio o.2
      let placed := s.rd Ix.StaticFolioOffset (oFolio o.2 + 1) != 0xFFFFFFFF
      let s := if placed then s.folioUpsets f else s
      let layers := folioLayers (s.folioHeader f)
      let bad := if placed then (s.folioPoison f).filter (fun w => decide ((ulWord layers w).1 < oBeams o.2)) else []
      let dead := bad.map (ulWord layers)
      let prb0 := prbBase s.prbsList (oCarrier o.2) + oFirst o.2
      let s := (List.range (oBeams o.2)).foldl (fun s b =>
        let r := s.ulSamples (if placed then some f else none) dead b prb0 (oCount o.2) (s.rd Ix.UlMixShift 0) rx
        let s := s.mixSaturated 1 r.2
        s.ownSection { epoch := e, prach := true, layer := b, carrier := oCarrier o.2, first := oFirst o.2, count := oCount o.2,
                       width := oWidth o.2, contrib := 2 ^ s.pos, southmost := s.pos, samples := r.1 }) s
      (s, acc.2 ++ bad.map (fun w => (f, w)))) (s, [])

/-- BEAM_MIXER_PASS, uplink (R17, R131 to R133): in the epoch after its air end, symbol e is combined with the configuration
that governed it; `rx` are the FFT outputs by path and active subcarrier, and each section goes its way. -/
def State.ulPass (s : State) (e : Nat) (rx : List (Nat × Nat × Cplx)) : State :=
  if !(layerUlMode s.mode || s.mode == 6) then s
  else
    let rx := rx.filter (fun x => s.rxDelivers x.1 e && (!s.anyFlex e || s.flexSubcarrier true x.2.1))
    let slot := s.selected Ix.UlFolioSelect
    let s := match slot with
      | some f => s.folioUpsets f
      | none => s
    let run := s.ulSymbol e
    let bad := match slot with
      | some f => if run then (s.folioPoison f).map (fun o => (f, o)) else []
      | none => []
    let dead := match slot with
      | some f => s.ulDead f
      | none => []
    let sched := if run then s.scheduled Ix.UlLayerMap e else []
    let s := sched.foldl (fun s d =>
      let prb0 := prbBase s.prbsList (dCarrier d) + dFirst d
      let r := s.ulSamples slot dead (dLayer d) prb0 (dCount d) (s.rd Ix.UlMixShift 0) rx
      let s := s.mixSaturated 1 r.2
      s.ownSection { epoch := e, prach := false, layer := dLayer d, carrier := dCarrier d, first := dFirst d, count := dCount d,
                     width := dWidth d, contrib := 2 ^ s.pos, southmost := s.pos, samples := r.1 }) s
    let r := s.prachPass e rx
    r.1.mixPoison 2 (bad ++ r.2)

end Sys2Proof.Machine
end

