-- ==== Sys2Proof/Machine/Trig.lean ====
section
/-! DEFINITION. Real-valued figures the spec asks to be truncated: sine and cosine of rational angles, ratios in dB, and quotients
by a square root. Each is exact but for the sine series, whose 96 fractional bits leave its truncation to 16 bits right. -/
namespace Sys2Proof.Machine

/-- 2π with 96 fractional bits. -/
def twoPi96 : Int := 497805226624462170461043889244

/-- Terms of a Taylor series in units of 2⁻⁹⁶: each is the one before times x² / (n (n + 1)), with alternating signs. -/
def taylor : Nat → Nat → Int → Int → Int
  | 0, _, _, _ => 0
  | fuel + 1, n, term, x2 => term - taylor fuel (n + 2) (term * x2 / 2 ^ 96 / (n * (n + 1))) x2

/-- cos and sin of a turn's fraction num / den below one eighth, with 96 fractional bits. -/
def cosSinSmall (num den : Nat) : Int × Int :=
  let x := twoPi96 * num / den
  let x2 := x * x / 2 ^ 96
  (taylor 24 1 (2 ^ 96) x2, taylor 24 2 x x2)

/-- cos and sin within a quarter turn. -/
def cosSinQuarter (num den : Nat) : Int × Int :=
  if 8 * num ≤ den then cosSinSmall num den
  else
    let r := cosSinSmall (den - 4 * num) (4 * den)
    (r.2, r.1)

/-- cos and sin of num / den of a turn, with 96 fractional bits; quarter turns are exact. -/
def cosSin (num den : Nat) : Int × Int :=
  let m := num % den
  let quad := 4 * m / den
  let r := cosSinQuarter (4 * m - quad * den) (4 * den)
  match quad with
  | 0 => r
  | 1 => (-r.2, r.1)
  | 2 => (-r.1, -r.2)
  | _ => (r.2, -r.1)

/-- A value with 96 fractional bits times a scale, truncated; a value within 2⁻⁶⁰ of a whole number is that number. -/
def scaled96 (scale : Int) (v : Int) : Int :=
  let x := scale * v
  let near := (x + 2 ^ 95) / 2 ^ 96
  if (x - near * 2 ^ 96).natAbs < 2 ^ 36 then near else x / 2 ^ 96

/-- Largest power test: 10^(t/1000) ≤ p / q, exactly. -/
def dbAtLeast (p q : Nat) (t : Int) : Bool :=
  if 0 ≤ t then decide (10 ^ t.toNat * q ^ 1000 ≤ p ^ 1000) else decide (q ^ 1000 ≤ p ^ 1000 * 10 ^ (-t).toNat)

/-- The largest t from lo on, by halving steps, with 10^(t/1000) ≤ p / q. -/
def dbSearch (p q : Nat) : Nat → Int → Int
  | 0, t => t
  | k + 1, t => dbSearch p q k (if dbAtLeast p q (t + 2 ^ k) then t + 2 ^ k else t)

/-- 10 log₁₀(p / q) in 0.01 dB, truncated and saturated at ±327.67 dB; a zero denominator saturates upward, a zero numerator
downward. -/
def ratioDb (p q : Nat) : Int :=
  if p = 0 then -32767
  else if q = 0 then 32767
  else if dbAtLeast p q 32767 then 32767
  else if dbAtLeast p q (-32767) then dbSearch p q 16 (-32768) else -32767

/-- ⌊x / √y⌋ for y above 0. -/
def divSqrt (x : Int) (y : Nat) : Int :=
  let a := x.natAbs
  let r := isqrt (a * a / y)
  if 0 ≤ x then r else if r * r * y = a * a then -(r : Int) else -(r : Int) - 1

/-- ln 2 with 96 fractional bits. -/
def ln2_96 : Int := 54916777467707473351141471128

/-- Terms of 2 atanh z: z^n / n over odd n, with 96 fractional bits. -/
def atanhTerms : Nat → Nat → Int → Int → Int
  | 0, _, _, _ => 0
  | fuel + 1, n, pow, z2 => pow / n + atanhTerms fuel (n + 2) (pow * z2 / 2 ^ 96) z2

/-- ln (num / den) of a positive ratio, with 96 fractional bits. -/
def ln96 (num den : Nat) : Int :=
  let k : Int := (Nat.log2 num : Int) - Nat.log2 den
  let a := if 0 ≤ k then num else num * 2 ^ (-k).toNat
  let b := if 0 ≤ k then den * 2 ^ k.toNat else den
  let z : Int := ((a : Int) - b) * 2 ^ 96 / (a + b)
  k * ln2_96 + 2 * atanhTerms 64 1 z (z * z / 2 ^ 96)

/-- e^r for 0 ≤ r < 1 in 96 fractional bits: the Taylor sum from its term of order n on. -/
def expTerms : Nat → Nat → Int → Int → Int
  | 0, _, _, _ => 0
  | fuel + 1, n, term, r => term + expTerms fuel (n + 1) (term * r / 2 ^ 96 / n) r

/-- e^x of a number with 96 fractional bits, with 96 fractional bits. -/
def exp96 (x : Int) : Int :=
  let k := x / ln2_96
  let e := expTerms 64 1 (2 ^ 96) (x - k * ln2_96)
  if 0 ≤ k then e * 2 ^ k.toNat else e / 2 ^ (-k).toNat

/-- The angle of a point of the first quadrant as a fraction of a turn in 80 bits, bit k down: the largest angle not beyond it. -/
def angleFrom (re im : Int) : Nat → Nat → Nat
  | 0, a => a
  | k + 1, a =>
    let t : Nat := a + 2 ^ k
    let c := cosSin t (2 ^ 80)
    angleFrom re im k (if re * c.2 ≤ im * c.1 then t else a)

/-- The angle of a number that is not zero, as a fraction of a turn in 80 bits. -/
def angle80 (x : Cplx) : Nat :=
  let q : Nat := 2 ^ 78
  if 0 < x.re ∧ 0 ≤ x.im then angleFrom x.re x.im 78 0
  else if x.re ≤ 0 ∧ 0 < x.im then q + angleFrom x.im (-x.re) 78 0
  else if x.re < 0 then 2 * q + angleFrom (-x.re) (-x.im) 78 0
  else 3 * q + angleFrom (-x.im) x.re 78 0

/-- The value a fraction num / den of the way from a to b, neither zero: the modulus in dB, the angle along the shorter arc, each
part truncated (R246). -/
def polarBetween (a b : Cplx) (num den : Nat) : Cplx :=
  let pa := (a.re * a.re + a.im * a.im).toNat
  let pb := (b.re * b.re + b.im * b.im).toNat
  let mag := exp96 ((ln96 pa 1 * ((den : Int) - num) + ln96 pb 1 * num) / (2 * den))
  let full : Int := 2 ^ 80
  let turn : Int := ((angle80 b : Int) - angle80 a) % full
  let arc := if turn ≤ full / 2 then turn else turn - full
  let ang := ((angle80 a : Int) + arc * num / den) % full
  let c := cosSin ang.toNat (2 ^ 80)
  let part := fun (v : Int) =>
    let near := (mag * v + 2 ^ 191) / 2 ^ 192
    if (mag * v - near * 2 ^ 192).natAbs < 2 ^ 150 then near else mag * v / 2 ^ 192
  ⟨part c.1, part c.2⟩

/-- The value of a binary32 number as mant · 2^exp. -/
def floatParts (v : Nat) : Int × Int :=
  let e : Nat := v / 2 ^ 23 % 256
  let m : Nat := v % 2 ^ 23
  let mant : Nat := if e = 0 then m else m + 2 ^ 23
  (if bitAt v 31 then -(mant : Int) else (mant : Int), if e = 0 then -149 else (e : Int) - 150)

/-- n · 2^exp in binary32, rounded to nearest, ties to even. -/
def floatOf (num exp : Int) : Nat :=
  let n := num.natAbs
  if n = 0 then 0
  else
    let sh0 := (Nat.log2 n : Int) - 23
    let sh := if exp + sh0 < -149 then -149 - exp else sh0
    let m : Nat := if sh ≤ 0 then n * 2 ^ (-sh).toNat
      else
        let q : Nat := n / 2 ^ sh.toNat
        let r : Nat := n % 2 ^ sh.toNat
        let half : Nat := 2 ^ (sh.toNat - 1)
        if half < r ∨ (r = half ∧ q % 2 = 1) then q + 1 else q
    let e := if m = 2 ^ 24 then exp + sh + 1 else exp + sh
    let m : Nat := if m = 2 ^ 24 then 2 ^ 23 else m
    let bits : Nat := if m < 2 ^ 23 then m
      else if 255 ≤ e + 150 then 255 * 2 ^ 23
      else (e + 150).toNat * 2 ^ 23 + (m - 2 ^ 23)
    (if num < 0 then 2 ^ 31 else 0) + bits

end Sys2Proof.Machine
end

