-- ==== Sys2Proof/Machine/Lineariser.lean ====
section
/-! DEFINITION. The Linearisers, the observation receivers' steps, and what their captures drive (R114 to R119, R165 to R185,
R418, R420). -/
namespace Sys2Proof.Machine

def State.linPath (s : State) (p : Nat) : LinPath := tget {} p s.lin.paths
def State.setLinPath (s : State) (p : Nat) (v : LinPath) : State := { s with lin := { s.lin with paths := tins p v s.lin.paths } }
def State.obs (s : State) (c : Nat) : ObsSys := tget {} c s.lin.courses
def State.setObs (s : State) (c : Nat) (v : ObsSys) : State := { s with lin := { s.lin with courses := tins c v s.lin.courses } }

/-! Structure and tables (R166, R169, R171) -/

def linK (w : Nat) : Nat := bitsOf w 31 28
def linM (w : Nat) : Nat := bitsOf w 27 24
def linKc (w : Nat) : Nat := bitsOf w 23 20
def linMc (w : Nat) : Nat := bitsOf w 19 16
def linKn (w : Nat) : Nat := bitsOf w 15 12
def linMn (w : Nat) : Nat := bitsOf w 11 8
def linQa (w : Nat) : Int := toInt 4 (bitsOf w 7 4)
def linQb (w : Nat) : Int := toInt 4 (bitsOf w 3 0)

/-- The coefficient count P (R166). -/
def linCoefs (w : Nat) : Nat := linK w * linM w + 2 * linKc w * linMc w + 4 * linKn w * linMn w

/-- Does a structure break its ranges (R166, Table 7.7)? -/
def linStructureBad (w : Nat) : Bool :=
  let q := fun (x : Int) => x == 0 || decide (x < -3) || decide (3 < x)
  linK w == 0 || decide (9 < linK w) || linM w == 0 || decide (6 < linM w) || decide (9 < linKc w) || decide (6 < linMc w)
    || decide (3 < linKn w) || decide (2 < linMn w) || q (linQa w) || q (linQb w) || linQa w == linQb w
    || (linKc w == 0) != (linMc w == 0) || (linKn w == 0) != (linMn w == 0)

/-- The key of entry i of table τ of path p. -/
def linKey (p tau i : Nat) : Nat := p * 1664 + tau * 64 + i

/-- The identity's entry under a key (R171): (32,768, 0) in T_0, else zero. -/
def linIdentity (k : Nat) : Cplx := if k % 1664 < 64 then ⟨32768, 0⟩ else czero

/-- A table entry in force. -/
def State.linEntry (s : State) (p tau i : Nat) : Cplx := tget (linIdentity (linKey p tau i)) (linKey p tau i) s.lin.tables

/-- Bytes of `LinTables` from an offset (R171). -/
def State.linBytes (s : State) (off n : Nat) : List Byte :=
  (List.range n).map (fun k =>
    let b := off + k
    let e := s.linEntry (b / 13312) (b % 13312 / 512) (b % 512 / 8)
    (leBytes 8 (ofInt 32 e.re + ofInt 32 e.im * 2 ^ 32)).getD (b % 8) 0)

/-- The entries of a path that differ from the identity, keyed within the path. -/
def State.linOfPath (s : State) (p : Nat) : Tab Cplx :=
  (s.lin.tables.filter (fun c => decide (p * 1664 ≤ c.1) && decide (c.1 < p * 1664 + 1664))).map (fun c => (c.1 - p * 1664, c.2))

/-- Replace a path's tables; their sequence steps (Table 7.1). -/
def State.setLinTables (s : State) (p : Nat) (t : Tab Cplx) : State :=
  let lo := s.lin.tables.filter (fun c => decide (c.1 < p * 1664))
  let hi := s.lin.tables.filter (fun c => decide (p * 1664 + 1664 ≤ c.1))
  let new := (t.filter (fun c => c.2 != linIdentity c.1)).map (fun c => (p * 1664 + c.1, c.2))
  let s := { s with lin := { s.lin with tables := lo ++ new ++ hi } }
  s.setLinPath p { s.linPath p with seq := (s.linPath p).seq + 1 }

/-- The entries of a path in the bytes of a `LinTables` value. -/
def linParse (v : List Byte) (p : Nat) : Tab Cplx :=
  (List.range 1664).map (fun k =>
    let b := (v.drop (13312 * p + 8 * k)).take 8
    (k, ⟨toInt 32 (fieldLE b 0 4), toInt 32 (fieldLE b 4 4)⟩))

/-- The first byte offset of a `LinTables` value outside −131,072 to +131,071 (R171). -/
def linTablesBad : Nat → Nat → List Byte → Option Nat
  | 0, _, _ => none
  | n + 1, off, l =>
    let x := toInt 32 (fieldLE l 0 4)
    if l.isEmpty then none
    else if x < -131072 ∨ 131071 < x then some off
    else linTablesBad n (off + 4) (l.drop 4)

/-- A commit of `LinTables` (R171, R180): every path's tables replaced, HOLD ended, coefficients no longer known. -/
def State.commitLinTables (s : State) (v : List Byte) : State :=
  allPaths.foldl (fun s p =>
    let s := s.setLinTables p (linParse v p)
    let s := s.wrBit Ix.LinStatus (p + 1) 4 false
    s.setLinPath p { s.linPath p with coefs := [], previous := none, nmseBefore := none, reverts := 0 }) s

/-- A commit of `LinStructure` resets every path's tables to the identity (R172). -/
def State.resetLinTables (s : State) : State :=
  allPaths.foldl (fun s p =>
    let s := s.setLinTables p []
    s.setLinPath p { s.linPath p with coefs := [], previous := none, nmseBefore := none }) s

/-! The model (R165, R168 to R170) -/

/-- The look-up of R169. -/
def State.linLookup (s : State) (p tau : Nat) (x : Cplx) : Cplx :=
  let a := min 32767 (isqrt (cpow x))
  let i := a / 512
  let f : Int := (a % 512 : Nat)
  let e := s.linEntry p tau i
  if i = 63 then e
  else
    let n := s.linEntry p tau (i + 1)
    ⟨e.re + (n.re - e.re) * f / 512, e.im + (n.im - e.im) * f / 512⟩

/-- A sample of a run, zero before its start and after its end (R165). -/
def sampleAt (l : List Cplx) (n : Int) : Cplx := if n < 0 then czero else l.getD n.toNat czero

/-- The accumulator of u_p[n] (R165); `runs` are the samples at the Lineariser inputs by path. -/
def State.linAcc (s : State) (runs : Tab (List Cplx)) (p : Nat) (n : Nat) : Cplx :=
  let w := s.rd Ix.LinStructure 0
  let x := tget [] p runs
  let at_ := fun (l : List Cplx) (k : Int) => sampleAt l k
  let main := (List.range (linM w)).map (fun (m : Nat) =>
    cmul (at_ x ((n : Int) - m)) (s.linLookup p m (at_ x ((n : Int) - m))))
  let cross := (List.range (linMc w)).map (fun (m : Nat) =>
    cmul (at_ x ((n : Int) - m)) (cadd (s.linLookup p (6 + m) (at_ x ((n : Int) - m - linQa w)))
      (s.linLookup p (12 + m) (at_ x ((n : Int) - m - linQb w)))))
  let near := (List.range 4).flatMap (fun (j : Nat) =>
    let nu := s.domField Ix.LinAdjacency 0 (4 * p + j) 1
    if 64 ≤ nu ∨ s.heldOff nu ∨ s.muted nu then []
    else
      let y := tget [] nu runs
      (List.range (linMn w)).map (fun (m : Nat) =>
        cmul (at_ y ((n : Int) - m)) (s.linLookup p (18 + 2 * j + m) (at_ x ((n : Int) - m)))))
  (main ++ cross ++ near).foldl cadd czero

/-- u_p[n] and whether it saturated (R170); bypass passes the sample (R172). -/
def State.linOut (s : State) (runs : Tab (List Cplx)) (p n : Nat) : Cplx × Bool :=
  if s.rd Ix.LinMode (p + 1) = 0 then (sampleAt (tget [] p runs) n, false)
  else
    let a := s.linAcc runs p n
    let x : Cplx := ⟨a.re / 2 ^ 15, a.im / 2 ^ 15⟩
    let y : Cplx := ⟨sat16 x.re, sat16 x.im⟩
    (y, x != y)

/-- The Linearisers' pass over the runs of a symbol (R165, R170): outputs kept, saturations counted. -/
def State.linPass (s : State) (runs : Tab (List Cplx)) : State :=
  runs.foldl (fun s r =>
    let o := (List.range r.2.length).map (s.linOut runs r.1)
    let n := (o.filter (·.2)).length
    let s := s.addCount Ix.LinSatCount (r.1 + 1) n
    { s with lin := { s.lin with out := tins r.1 (o.map (·.1)) s.lin.out,
                                 sat := tput 0 r.1 (tget 0 r.1 s.lin.sat + n) s.lin.sat } })
    { s with lin := { s.lin with out := [] } }

/-- LIN_SATURATION at a frame start, once per path (R170). -/
def State.linSatReport (s : State) : State :=
  let s := s.lin.sat.foldl (fun s c => s.raise 0x3805 (c.1 + 1) (packData [f8 c.1, fCount c.2])) s
  { s with lin := { s.lin with sat := [] } }

/-! The corridor (R177, R178) -/

/-- The static response S(i/64) of tables, 15 fraction bits (R177). -/
def staticResponse (w : Nat) (e : Nat → Nat → Cplx) (i : Nat) : Cplx :=
  ((List.range (linM w)).map (fun m => e m i) ++ (List.range (linMc w)).flatMap (fun m => [e (6 + m) i, e (12 + m) i])).foldl
    cadd czero

/-- |S| in 0.01 dB, truncated. -/
def responseDb (c : Cplx) : Int := ratioDb ((c.re * c.re + c.im * c.im).toNat) (2 ^ 30)

/-- Does the angle between two responses pass a limit in 0.01°? -/
def angleBeyond (a b : Cplx) (limit : Nat) : Bool :=
  let z := cmul a (conj b)
  let t := cosSin limit 36000
  decide (z.re * z.re + z.im * z.im ≠ 0) && decide (limit < 18000) &&
    decide (z.re * t.2 < z.im.natAbs * t.1)

/-- The edge a normalised candidate meets: 0 inside the corridor, else MIN, MAX or STEP (R178). -/
def State.linCorridor (s : State) (p : Nat) (cand : Tab Cplx) : Nat :=
  let w := s.rd Ix.LinStructure 0
  let lo := s.rdI 16 Ix.LinGainMin (p + 1)
  let hi := s.rdI 16 Ix.LinGainMax (p + 1)
  let step := (s.rd Ix.LinGainStep (p + 1) : Int)
  let new := staticResponse w (fun t i => tget (linIdentity (t * 64 + i)) (t * 64 + i) cand)
  let old := staticResponse w (fun t i => s.linEntry p t i)
  let is := List.range 64
  if is.any (fun i => decide (responseDb (new i) < lo)) then 1
  else if is.any (fun i => decide (hi < responseDb (new i))) then 2
  else if is.any (fun i => decide (step < (responseDb (new i) - responseDb (old i)).natAbs)
      || angleBeyond (new i) (old i) (s.rd Ix.LinPhaseStep (p + 1))) then 3
  else 0

/-! Observation steps (R173, R174, R420) -/

/-- Is the transmit side of a path able to be observed: enabled, in service, not muted, not held by calibration (R174, R248)? -/
def State.observable (s : State) (p : Nat) : Bool := !s.heldOff p && !s.muted p && !s.calHolds p && s.courseState (courseOf p) != 0

/-- The courses a receiver serves, its own first. -/
def State.servedBy (s : State) (r : Nat) : List Nat :=
  (if (s.obs r).faulty then [] else [r]) ++ (List.range 4).filter (fun c => s.rd Ix.ObsShare (c + 1) == r && c != r)

/-- The path of step k of a receiver's cycle: path 16c of each course it serves first, 16 paths for each (R173, R420). -/
def State.stepPath (s : State) (r k : Nat) : Option Nat :=
  let l := s.servedBy r
  if l.isEmpty then none else some (16 * l.getD (k / 16 % l.length) r + k % 16)

/-- Set a tile's FBSEL code (R115). -/
def State.setFbsel (s : State) (tile code : Nat) : State := { s with lin := { s.lin with fbsel := tput 0 tile code s.lin.fbsel } }

/-- A step ends without a usable capture (R174). -/
def State.stepEmpty (s : State) (p : Nat) : State := s.bump Ix.LinStepsEmpty (courseOf p + 1)

/-- The end of a step: FBSEL 0b000, the lease released (R116, R174). -/
def State.endStep (s : State) (r : Nat) : State :=
  match (s.obs r).step with
  | some st =>
    let s := s.setObs r { s.obs r with step := none }
    (s.setFbsel (tileOf st.path) 0).freeLease (0x400 + r)
  | none => s

/-- Cycles of a course start afresh (R173); a step under way ends. -/
def State.startCycle (s : State) (c : Nat) : State :=
  let s := s.endStep c
  s.setObs c { s.obs c with cycleAt := s.tb.tickAt, steps := 0 }

/-- A receiver that fails serves no other course any more: the course it served, or was to serve, is left without one (R420). -/
def State.shareLost (s : State) (r : Nat) : State :=
  ((List.range 4).filter (fun c => c != r && (s.rd Ix.ObsShare (c + 1) == r || (s.obs c).shareDue == some r))).foldl (fun s c =>
    ((s.setObs c { s.obs c with shareDue := none }).wr Ix.ObsShare (c + 1) 0xFF).raise 0x7002 (c + 1) (packData [f8 c, f8 0xFF, fFlag true])) s

/-- An observation receiver fails (R420): the partner of `LoBorrowPartner` takes over from the next slot boundary if it
qualifies; OBS_SHARE. -/
def State.obsFails (s : State) (c : Nat) : State :=
  if (s.obs c).faulty then s
  else
    let b := s.rd Ix.LoBorrowPartner (c + 1)
    let pending := (List.range 4).any (fun k => k != c && (s.obs k).shareDue == some b)
    let ok := decide (b < 4) && !(s.obs b).faulty && (s.servedBy b == [b]) && !pending
    let s := s.setObs c { s.obs c with faulty := true, shareDue := if ok then some b else none }
    let s := s.shareLost c
    s.raise 0x7002 (c + 1) (packData [f8 c, f8 (if ok then b else 0xFF), fFlag true])

/-- A partner's receiver takes over at a slot boundary. -/
def State.shareAtSlot (s : State) : State :=
  (List.range 4).foldl (fun s c =>
    match (s.obs c).shareDue with
    | some b => ((s.setObs c { s.obs c with shareDue := none }).wr Ix.ObsShare (c + 1) b).startCycle b
    | none => s) s

/-- Has a course no steps: OFF, but for the Governor's sleep (R359)? -/
def State.stepIdle (s : State) (c : Nat) : Bool := s.courseState c == 0 && s.rd Ix.GovCourseDepth (c + 1) != 3

/-- The steps of a receiver's cycle that have fallen due. -/
def State.countStep (s : State) (r n : Nat) : State := s.setObs r { s.obs r with steps := n }

/-- OBSERVATION_STEP (R173, R174): the step of receiver r that the time calls for falls due; a step still under way ends, empty where
it has no capture. The step takes the lease and sets FBSEL to the forward port, or is empty. `selfCheck` tells whether the converter's
self-check at the start of a cycle passes (R420). -/
def State.observationStep (s : State) (r : Nat) (selfCheck : Bool) : State :=
  let o := s.obs r
  let k := (s.now - o.cycleAt) / usec (s.rd Ix.LinStepInterval (r + 1))
  if s.mode < 3 ∨ s.now < o.cycleAt ∨ k < o.steps then s
  else if s.stepIdle (courseOf ((s.stepPath r k).getD (16 * r))) then s
  else
    let s := match o.step with
      | some st => (if st.forward.isNone then s.stepEmpty st.path else s).endStep r
      | none => s
    let s := if k % 16 = 0 ∧ selfCheck = false then s.obsFails r else s
    let s := s.countStep r (k + 1)
    match s.stepPath r k with
    | none => if s.rd Ix.ObsShare (r + 1) = 0xFF ∧ (s.obs r).shareDue.isNone then s.stepEmpty (16 * r + k % 16) else s
    | some p =>
      if !s.observable p || s.leased (0x400 + r) then s.stepEmpty p
      else
        let s := s.takeLease (0x400 + r) (s.functionOwner 3) none none
        let s := s.setFbsel (tileOf p) (p % 4)
        s.setObs r { s.obs r with step := some ⟨p, none⟩ }

/-- A path whose measured power stays below its effective target by more than `PathFaultMargin` in three steps in a row
becomes faulty (R418). -/
def State.judgePower (s : State) (p : Nat) (pMeas : Int) : State :=
  if s.rd Ix.TxPowerMode (p + 1) ≠ 2 then s
  else
    let low := decide (pMeas + (s.rd Ix.PathFaultMargin 0 : Int) < s.effectiveTarget p)
    let n := if low then (s.path p).lowSteps + 1 else 0
    let s := s.setPath p { s.path p with lowSteps := n }
    if 3 ≤ n then s.detectFault p 5 else s

/-- The header of a capture buffer (Table 7.1). -/
def State.captureHeader (s : State) (p : Nat) (d : Int) : List Byte :=
  leBytes 1 p ++ [1, 0, 0] ++ leBytes 4 ((s.linPath p).seq % 2 ^ 32) ++ leBytes 8 (epochEntry s.epoch) ++ leBytes 2 (ofInt 16 d)

/-- Is a step's action overridden by a safety action, so that its captures are discarded (R185)? -/
def State.capturesDiscarded (s : State) (p : Nat) : Bool := s.mode == 7 || s.heldOff p

/-- FORWARD_CAPTURE_DONE (R114, R174, R175, R420): the capture goes to the course's buffer with its samples; below −25 dB it is
discarded and the step tries again; one code throughout means a faulty receiver. P_FBIN and D are in 0.01 dB. -/
def State.forwardDone (s : State) (r : Nat) (pFbin d : Int) (oneCode : Bool) (samples : List Byte) : State :=
  match (s.obs r).step with
  | none => s
  | some st =>
    let p := st.path
    if oneCode then ((s.stepEmpty p).endStep r).obsFails r
    else if st.forward.isSome || decide (d < -2500) || s.capturesDiscarded p then s
    else
      let b := (s.obs r).buffer
      let base := s.rd Ix.LinCaptureBase 0 + courseOf p * 0x200000 + b * 0x100000
      let s := (s.ownBytes base (s.captureHeader p d)).ownBytes (base + 4096) samples
      let s := s.setLinPath p { s.linPath p with capture := some ⟨courseOf p, b, (s.linPath p).seq, false⟩ }
      let s := s.setObs r { s.obs r with step := some ⟨p, some (pFbin, d)⟩, buffer := 1 - b }
      let s := s.setFbsel (tileOf p) (4 + p % 4)
      let pMeas := pFbin + s.rdI 16 Ix.FbFwdOffset (p + 1) - d
      if s.rdBit Ix.LinStatus (p + 1) 3 then s
      else (s.judgePower p pMeas).powerLoop p pMeas

/-- Is the tuner of a path frozen by a safety action (R185) or by calibration (R248)? -/
def State.tunerFrozen (s : State) (p : Nat) : Bool :=
  s.mode == 7 || s.calHolds p || s.rdBit Ix.BiasStatus (p + 65) 4 || s.bias.clears != 0

/-- REFLECTED_CAPTURE_DONE (R116 to R118, R174): the return loss is formed where both D are at least −25 dB; mismatch and tuner
follow; the step ends. -/
def State.reflectedDone (s : State) (r : Nat) (pRef d : Int) : State :=
  match (s.obs r).step with
  | some ⟨p, some (pFwd, dFwd)⟩ =>
    let s := if d < -2500 ∨ s.capturesDiscarded p ∨ s.rdBit Ix.LinStatus (p + 1) 3 then s
      else
        let ref := pRef + s.rdI 16 Ix.FbRefOffset (p + 1) - d
        let rl := pFwd + s.rdI 16 Ix.FbFwdOffset (p + 1) - dFwd - ref
        let s := (s.wrI 16 Ix.ReturnLoss (p + 1) rl).mismatch p rl
        if s.tunerFrozen p then s else s.tunerLoop p ref
    s.endStep r
  | _ => s

/-! Adaptation (R176 to R181) -/

/-- Count an update that is not applied. -/
def State.linDiscard (s : State) (p : Nat) : State := s.bump Ix.LinUpdatesDiscarded (p + 1)

/-- The epoch an update comes into force: symbol 0 of the first slot that begins at least two epochs after now (R179). -/
def State.linTarget (s : State) : Nat := s.slotTwoEpochsOn

/-- The NMSE alarm (R181): three steps in a row above it raise LIN_QUALITY once; a step below it arms it again. -/
def State.linQuality (s : State) (p : Nat) (nmse : Int) : State :=
  let v := s.linPath p
  if nmse ≤ s.rdI 16 Ix.LinNmseAlarm 0 then s.setLinPath p { v with bad := 0, alarmed := false }
  else
    let s := s.setLinPath p { v with bad := v.bad + 1, alarmed := v.alarmed || decide (3 ≤ v.bad + 1) }
    if 3 ≤ v.bad + 1 ∧ v.alarmed = false then s.raise 0x3804 (p + 1) (packData [f8 p, f16 (ofInt 16 nmse)]) else s

/-- Put the previous tables on their way into force (R180). -/
def State.linRevert (s : State) (p : Nat) (before nmse : Int) : State :=
  let v := s.linPath p
  let t := v.previous.getD []
  let s := s.raise 0x3802 (p + 1) (packData [f8 p, f16 (ofInt 16 before), f16 (ofInt 16 nmse)])
  let s := s.wrBit Ix.LinStatus (p + 1) 1 true
  let s := s.setLinPath p { v with due := some ⟨s.linTarget, t, v.seq, 0, before, true, []⟩, reverts := v.reverts + 1,
                                   nmseBefore := none }
  if 3 ≤ v.reverts + 1 then
    let s := s.wrBit Ix.LinStatus (p + 1) 4 true
    s.raise 0x3803 (p + 1) (packData [f8 p, f8 1])
  else s

/-- LIN_UPDATE_READY (R176 to R181): the solve of a path's capture ends with its NMSE and ACLR. `cands` are the normalised
candidate tables for α from 1 downward in Table 7's order, none where a pivot was not positive; the first that meets the
corridor is committed internally. -/
def State.linReady (s : State) (p : Nat) (nmse aclr : Int) (cands : List (Tab Cplx)) (coefs : List Byte) : State :=
  let v := s.linPath p
  match v.capture with
  | none => s
  | some cap =>
    let s := s.setLinPath p { v with capture := none }
    if cap.spoiled then s.linDiscard p
    else
      let s := ((s.wrI 16 Ix.LinNmse (p + 1) nmse).wrI 16 Ix.LinAclr (p + 1) aclr).linQuality p nmse
      let adapting := s.rd Ix.LinMode (p + 1) == 2 && !s.rdBit Ix.LinStatus (p + 1) 4 && !s.rdBit Ix.LinStatus (p + 1) 3
        && s.mode != 7 && s.rd Ix.PathFault (p + 1) == 0
      if !adapting then s
      else
        let margin := (s.rd Ix.LinRevertMargin 0 : Int)
        let judged := if cap.seq = v.seq then v.nmseBefore else none
        let worse := match judged with
          | some b => margin != 0 && decide (b + margin < nmse)
          | none => false
        if worse then s.linRevert p (v.nmseBefore.getD 0) nmse
        else
          let s := if judged.isNone then s else s.setLinPath p { s.linPath p with reverts := 0, nmseBefore := none }
          if cands.isEmpty then s.linDiscard p
          else match cands.zipIdx.find? (fun c => s.linCorridor p c.1 == 0) with
            | none => s.linDiscard p
            | some c =>
              let edge := if c.2 = 0 then 0 else s.linCorridor p (cands.headD [])
              s.setLinPath p { s.linPath p with due := some ⟨s.linTarget, c.1, cap.seq, edge, nmse, false, coefs⟩ }

/-- At the tick of its epoch an update or a revert comes into force, unless the tables in force are not those it rests on or the
path is frozen (R179, R184). -/
def State.linAtTick (s : State) (p : Nat) : State :=
  let v := s.linPath p
  match v.due with
  | none => s
  | some d =>
    if d.target ≠ s.epoch then s
    else
      let s := s.setLinPath p { v with due := none }
      if d.base ≠ v.seq ∨ s.rd Ix.LinMode (p + 1) ≠ 2 ∨ s.rdBit Ix.LinStatus (p + 1) 3 ∨ s.capturesDiscarded p then s.linDiscard p
      else
        let old := s.linOfPath p
        let s := s.setLinTables p d.entries
        if d.revert then s.setLinPath p { s.linPath p with previous := none, coefs := [] }
        else
          let s := s.setLinPath p { s.linPath p with previous := some old, nmseBefore := some d.nmse, coefs := d.coefs }
          let s := s.wrBit Ix.LinStatus (p + 1) 1 false
          let s := (s.bump Ix.LinUpdates (p + 1)).wrEpoch Ix.LinLastUpdate (p + 1) s.epoch
          (s.wrBit Ix.LinStatus (p + 1) 2 (d.edge != 0)).loopAt p 2 d.edge

/-- `LinResume` (R180): HOLD cleared for a path, or for all with 0xFF. -/
def State.linResume (s : State) (v : Nat) : Res :=
  if 64 ≤ v ∧ v ≠ 0xFF then .error (rangeAt 0)
  else .ok ((if v = 0xFF then allPaths else [v]).foldl (fun s p =>
    (s.wrBit Ix.LinStatus (p + 1) 4 false).setLinPath p { s.linPath p with reverts := 0 }) s)

end Sys2Proof.Machine
end

