-- ==== Sys2Proof/Machine/Bias.lean ====
section
/-! DEFINITION. Safe Hold causes and what they abandon (R29, R370, R422); the bias outputs: strobes, clears, range changes, current
limits, and the tuner's codes on their way to them (R118, R401 to R407). -/
namespace Sys2Proof.Machine

/-! Safe Hold causes -/

/-- MODE_FAIL or POWER_FAIL for a request (Tables 1.8 and 16.8). -/
def State.failTarget (s : State) (t : Target) (reason : Nat) : State :=
  match t with
  | .mode m => s.raise 0x1102 0 (packData [f8 m, f8 reason])
  | .power c v => s.raise 0x6002 (c + 1) (packData [f8 c, f8 v, f8 reason])

/-- The reason code of a preempted request. -/
def preempted : Target → Nat
  | .mode _ => 3
  | .power _ _ => 1

/-- A transition under way is abandoned at its next safe step and a pending request is dropped (R29 steps 3 and 4, R370). -/
def State.abandonTransitions (s : State) : State :=
  let s := match s.modes.pending with
    | some t => { s with modes := { s.modes with pending := none } }.failTarget t.target (preempted t.target)
    | none => s
  match s.modes.underWay with
  | none => s
  | some t =>
    let s := { s with modes := { s.modes with underWay := none } }
    if s.modes.stepBusy then { s with modes := { s.modes with abandoned := some t.target } }
    else s.failTarget t.target (preempted t.target)

/-- A Safe Hold cause becomes active (R422): recorded, reported, and Safe Hold is entered at the next tick (R29) unless the device
is in it already. -/
def State.causeActive (s : State) (bit : Nat) : State :=
  if s.rdBit Ix.SafeHoldCauses 0 bit then s
  else
    let s := s.wrBit Ix.SafeHoldCauses 0 bit true
    let s := s.raiseAt 0x7004 Ix.SafeHoldCauses 0 (packData [f8 bit, fFlag true]) (s.mode != 7)
    let s := s.abandonTransitions
    if s.mode = 7 then s else { s with modes := { s.modes with safeHoldDue := true } }

/-- A Safe Hold cause clears (Table 19.2). -/
def State.causeCleared (s : State) (bit : Nat) : State :=
  if s.rdBit Ix.SafeHoldCauses 0 bit then
    (s.wrBit Ix.SafeHoldCauses 0 bit false).raise 0x7004 0 (packData [f8 bit, fFlag false])
  else s

/-- The PATHS cause follows the number of faulty paths (Table 19.2). -/
def State.judgePaths (s : State) : State :=
  if s.rd Ix.FaultPathLimit 0 < s.faultyPaths.length then s.causeActive 4 else s.causeCleared 4

/-! Outputs -/

/-- Channels 0 to 143. -/
def allChannels : List Nat := List.range 144

/-- Is a channel a tune output (R401)? -/
def isTune (n : Nat) : Bool := decide (64 ≤ n) && decide (n < 128)

/-- The code in force of a channel: the host's, or the tuner's of R118. -/
def State.biasCode (s : State) (n : Nat) : Nat :=
  if isTune n then s.rd Ix.TunerCodeNow (n - 63) else s.rd Ix.BiasCode (n + 1)

/-- Is a group strobed by BLOAD_N? -/
def State.byBload (s : State) (g : Nat) : Bool := s.rd Ix.BiasStrobeSource (g + 1) == 1

/-- A range change of a channel ends (R406): its range drives with the code in force, or with the clear code during a clear. -/
def State.rangeDone (s : State) (n : Nat) : State :=
  let clear := s.bias.clears != 0
  let r := s.rd Ix.BiasRange (n + 1)
  let s := { s with bias := { s.bias with held := tdel n s.bias.held } }
  let s := s.wr Ix.BiasRangeNow (n + 1) r
  let s := s.wr Ix.BiasCodeNow (n + 1) (if clear then s.rd Ix.BiasClearCode (n + 1) else s.biasCode n)
  let s := (s.wrBit Ix.BiasStatus (n + 1) 2 false).wrBit Ix.BiasStatus (n + 1) 3 clear
  s.raise 0x6804 (n + 1) (packData [f8 n, f8 r])

/-- Has a range change lasted its 20 µs? -/
def State.heldEnough (s : State) (n : Nat) : Bool :=
  match s.bias.held.find? (fun c => c.1 == n) with
  | some c => s.elapsed c.2 (usec 20)
  | none => false

/-- A strobe of one channel (R403, R405, R406). -/
def State.strobeChannel (s : State) (n : Nat) : State :=
  let s := s.wrBit Ix.BiasStatus (n + 1) 1 false
  if s.rdBit Ix.BiasStatus (n + 1) 0 then s
  else if thas n s.bias.held then (if s.heldEnough n then s.rangeDone n else s)
  else if s.rd Ix.BiasRange (n + 1) ≠ s.rd Ix.BiasRangeNow (n + 1) then
    let s := { s with bias := { s.bias with held := tins n s.now s.bias.held } }
    s.wrBit Ix.BiasStatus (n + 1) 2 true
  else if s.bias.clears ≠ 0 then s.wr Ix.BiasCodeNow (n + 1) (s.rd Ix.BiasClearCode (n + 1))
  else (s.wr Ix.BiasCodeNow (n + 1) (s.biasCode n)).wrBit Ix.BiasStatus (n + 1) 3 false

/-- A strobe of a group loads every channel of it (R403). -/
def State.strobeGroup (s : State) (g : Nat) : State := s.forEach ((List.range 16).map (· + 16 * g)) (fun n s => s.strobeChannel n)

/-- Values of channels come into force at a tick: groups in commit mode are strobed, the channels of the others wait (R403). -/
def State.biasCommitted (s : State) (chans : List Nat) : State :=
  let groups := (List.range 9).filter (fun g => chans.any (fun n => n / 16 == g))
  s.forEach groups (fun g s =>
    if s.byBload g then s.forEach (chans.filter (fun n => n / 16 == g)) (fun n s => s.wrBit Ix.BiasStatus (n + 1) 1 true)
    else s.strobeGroup g)

/-- At a tick, groups in commit mode with a range change at least 20 µs old are strobed (R406). -/
def State.biasRangeTick (s : State) : State :=
  let groups := (List.range 9).filter (fun g =>
    !s.byBload g && s.bias.held.any (fun c => c.1 / 16 == g && s.heldEnough c.1))
  s.forEach groups (fun g s => s.strobeGroup g)

/-- A clear that began within the 20 µs of a range change takes effect at their end, in the new range (R406). -/
def State.biasLapse (s : State) : State :=
  if s.bias.clears = 0 then s
  else s.forEach ((s.bias.held.map (·.1)).filter s.heldEnough) (fun n s => s.rangeDone n)

/-- Drive every channel to its clear code (R405), but for those in the 20 µs of a range change and those still clamped. -/
def State.driveClear (s : State) : State :=
  s.forEach allChannels (fun n s =>
    if s.rdBit Ix.BiasStatus (n + 1) 0 then s
    else if thas n s.bias.held then s.wrBit Ix.BiasStatus (n + 1) 3 true
    else (s.wr Ix.BiasCodeNow (n + 1) (s.rd Ix.BiasClearCode (n + 1))).wrBit Ix.BiasStatus (n + 1) 3 true)

/-- A condition that clears the outputs begins: cause 1 BCLR_N, 2 Safe Hold, 3 thermal (R405). -/
def State.clearBegins (s : State) (cause : Nat) : State :=
  if bitAt s.bias.clears (cause - 1) then s
  else
    let s := { s with bias := { s.bias with clears := setBit s.bias.clears (cause - 1) true } }
    (s.driveClear.biasLapse).raise 0x6805 0 (packData [f8 cause, fFlag true])

/-- A condition ends; the end of the last one is reported, and the outputs stay until their next strobe (R405). -/
def State.clearEnds (s : State) (cause : Nat) : State :=
  if !bitAt s.bias.clears (cause - 1) then s
  else
    let s := s.biasLapse
    let s := { s with bias := { s.bias with clears := setBit s.bias.clears (cause - 1) false } }
    if s.bias.clears = 0 then s.raise 0x6805 0 (packData [f8 cause, fFlag false]) else s

/-- BLOAD_N falls: every group in this mode is strobed (R403). -/
def State.bloadFalls (s : State) : State :=
  s.biasLapse.forEach ((List.range 9).filter s.byBload) (fun g s => s.strobeGroup g)

/-- Leaving Safe Hold strobes every group in commit mode (R405). -/
def State.strobeCommitGroups (s : State) : State :=
  s.forEach ((List.range 9).filter (fun g => !s.byBload g)) (fun g s => s.strobeGroup g)

/-- BIAS_SHORT (R407): the limit of a channel has acted for 10 µs. -/
def State.biasShort (s : State) (n : Nat) : State :=
  if s.rdBit Ix.BiasStatus (n + 1) 4 then s
  else
    let s := (s.wrBit Ix.BiasStatus (n + 1) 4 true).bump Ix.BiasShortCount (n + 1)
    s.raise 0x6803 (n + 1) (packData [f8 n, fFlag true])

/-- BIAS_SHORT_CLEAR (R407): the current has stayed below the limit for 1 ms. -/
def State.biasShortClear (s : State) (n : Nat) : State :=
  if s.rdBit Ix.BiasStatus (n + 1) 4 then
    (s.wrBit Ix.BiasStatus (n + 1) 4 false).raise 0x6803 (n + 1) (packData [f8 n, fFlag false])
  else s

/-- Step 3 of the release sequence (R404): each channel takes its fused range and clear code and drives code 0 of the range. A clear
condition that holds then drives its clear code. -/
def State.biasProfile (s : State) : State :=
  let s := s.forEach allChannels (fun n s =>
    let r := tget 0 n s.fuse.biasRange
    let s := (s.wr Ix.BiasRange (n + 1) r).wr Ix.BiasRangeNow (n + 1) r
    let s := s.wr Ix.BiasClearCode (n + 1) (tget 0 n s.fuse.biasClear)
    ((s.wr Ix.BiasCode (n + 1) 0).wr Ix.BiasCodeNow (n + 1) 0).wr Ix.BiasStatus (n + 1) 0)
  if s.bias.clears = 0 then s else s.driveClear

/-- A tuner's new code comes into force and its group is strobed (R118). -/
def State.tunerCode (s : State) (p code : Nat) : State := (s.wr Ix.TunerCodeNow (p + 1) code).biasCommitted [64 + p]

/-- The tuner loops' codes come into force at symbol 0 of the next slot, unless the loop is frozen then (R118, R184, R185). -/
def State.tunersAtSlot (s : State) : State :=
  allPaths.foldl (fun s p =>
    match (s.path p).tunerNext with
    | some (code, edge) =>
      let s := s.setPath p { s.path p with tunerNext := none }
      if s.rd Ix.TunerMode (p + 1) ≠ 1 ∨ s.tunerFrozen p then s
      else (s.wr Ix.TunerCodeNow (p + 1) code |>.loopAt p 4 edge).biasCommitted [64 + p]
    | none => s) s

end Sys2Proof.Machine
end

