-- ==== Sys2Proof/Machine/Library.lean ====
section
/-! DEFINITION. The Channel Library and weight jobs (R141 to R164, R311, R419). -/
namespace Sys2Proof.Machine

/-! Sounding (R141 to R149) -/

/-- The allocation records with VALID set, by number (Table 6.1). -/
def State.soundRecords (v : State) : List (Nat × List Byte) :=
  ((List.range 64).map (fun q => (q, sliceBytes (v.domVal Ix.SoundingAlloc 0) (16 * q) 16))).filter
    (fun q => bitAt (fieldLE q.2 0 1) 7)

def aCarrier (r : List Byte) : Nat := bitsOf (fieldLE r 0 1) 1 0
def aMerge (r : List Byte) : Bool := bitAt (fieldLE r 0 1) 6
def aComb (r : List Byte) : Nat := 2 ^ bitsOf (fieldLE r 1 1) 7 6
def aOffset (r : List Byte) : Nat := bitsOf (fieldLE r 1 1) 2 0
def aSymbol (r : List Byte) : Nat := bitsOf (fieldLE r 3 1) 7 4
def aShift (r : List Byte) : Nat := bitsOf (fieldLE r 3 1) 2 0
def aRoot (r : List Byte) : Nat := fieldLE r 4 2
def aFirst (r : List Byte) : Nat := fieldLE r 6 2
def aCount (r : List Byte) : Nat := fieldLE r 8 2
def aEntry (r : List Byte) : Nat := fieldLE r 10 2
def aPeriod (r : List Byte) : Nat := fieldLE r 12 2
def aSlot (r : List Byte) : Nat := fieldLE r 14 2

/-- Is a record scheduled in a symbol (R141)? -/
def State.sounds (v : State) (r : List Byte) (e : Nat) : Bool :=
  v.absSlot e % max 1 (aPeriod r) == aSlot r && aSymbol r == epSym e

/-- Is a number prime? -/
def isPrime (n : Nat) : Bool := decide (2 ≤ n) && (List.range n).all (fun d => decide (d < 2) || n % d != 0)

/-- The largest prime below a number (R143). -/
def primeBelow : Nat → Nat
  | 0 => 2
  | n + 1 => if isPrime n then n else primeBelow n

/-- Sounding subcarriers M of a record (R143). -/
def soundCount (r : List Byte) : Nat := 12 * aCount r / aComb r

/-- r[m] in Q15 (R143): each part truncated from its value times 32,767. -/
def soundSeq (r : List Byte) (m : Nat) : Cplx :=
  let nzc := primeBelow (soundCount r)
  let k := m % nzc
  let ph : Int := aShift r * m * nzc - 4 * aRoot r * k * (k + 1)
  let t := cosSin (ph % (8 * nzc : Int)).toNat (8 * nzc)
  ⟨scaled96 32767 t.1, scaled96 32767 t.2⟩

/-- The local subcarrier of sounding subcarrier m. -/
def soundSub (r : List Byte) (m : Nat) : Nat := 12 * aFirst r + aOffset r + aComb r * m

/-- The first sounding subcarrier of the window of a frequency point whose lowest local subcarrier is i (R144): the window of 8
whose mean lies nearest the midpoint of subcarriers i + 2 and i + 3, the lower on a tie. -/
def soundWindow (r : List Byte) (i : Nat) : Nat :=
  let dist := fun (m0 : Nat) => ((2 * soundSub r m0 + 7 * aComb r : Int) - (2 * i + 5 : Int)).natAbs
  (List.range (soundCount r - 7)).foldl (fun b m => if dist m < dist b then m else b) 0

/-- LS values of one path over a record: Z[m] = (Y[m] · conj(r[m])) >> 15 (R144). `y` gives the FFT output of a local subcarrier. -/
def soundLs (r : List Byte) (y : Nat → Cplx) : List Cplx :=
  (List.range (soundCount r)).map (fun m =>
    let z := cmul (y (soundSub r m)) (conj (soundSeq r m))
    ⟨z.re / 2 ^ 15, z.im / 2 ^ 15⟩)

/-- Sum of complex values. -/
def csum (l : List Cplx) : Cplx := l.foldl cadd czero

/-- The estimate of a frequency point before clipping (R144). -/
def soundEstimate (r : List Byte) (z : List Cplx) (i : Nat) : Cplx :=
  if soundCount r < 8 then
    let t := csum z
    ⟨t.re * 5461 / 2 ^ 15, t.im * 5461 / 2 ^ 15⟩
  else
    let t := csum ((z.drop (soundWindow r i)).take 8)
    ⟨t.re / 8, t.im / 8⟩

/-- The local subcarriers at which the frequency points of a record start. -/
def soundPoints (r : List Byte) : List Nat := (List.range (2 * aCount r)).map (fun k => 12 * aFirst r + 6 * k)

/-- The SNR of a path (R147): the mean power of the estimates over the mean power of the deviations of Z[m] from the estimate
of the point that holds subcarrier m. -/
def soundSnr (r : List Byte) (z : List Cplx) (est : List Cplx) : Int :=
  let p := (est.map cpow).sum * z.length
  let dev := z.zipIdx.map (fun c =>
    let e := est.getD ((soundSub r c.2 - 12 * aFirst r) / 6) czero
    cpow ⟨c.1.re - e.re, c.1.im - e.im⟩)
  ratioDb p (dev.sum * est.length)

/-- SOUND_DROPPED (R145, R148, R149): 1 LO, 2 PINNED, 3 POISON. -/
def State.soundDropped (s : State) (rec reason entry : Nat) : State :=
  (s.bump Ix.SoundingDropped 0).raise 0x3402 0 (packData [f8 rec, f8 reason, f16 entry])

/-- The header's PRBS of an entry equals the configuration in force. -/
def State.entryPrbsOk (s : State) (e : Nat) : Bool :=
  (List.range 4).map (fun k => s.numAt (s.entryBase e + 32 + 2 * k) 2) == s.prbsList

/-- SOUNDING_ESTIMATE for one record in the uplink symbol e (R144 to R149): at the tick that ends the symbol the entry's STATE
becomes writing, unless the estimate is not to be written. -/
def State.soundOne (s : State) (q : Nat × List Byte) (e : Nat) (rx : List (Nat × Nat × Cplx)) : State :=
  let r := q.2
  let lost := (List.range 4).any (fun c => s.rxSymbol c e && (!s.loLocked c || (s.course c).lostNow || (s.course c).recal)
    && s.loSource c != 0xFF)
  if lost then s.soundDropped q.1 1 (aEntry r)
  else if s.pinned (aEntry r) then s.soundDropped q.1 2 (aEntry r)
  else
    let base := 12 * prbBase s.prbsList (aCarrier r)
    let per := allPaths.map (fun p =>
      if s.rxHeldOff p || !s.rxSymbol (courseOf p) e || s.flexRxZero p e || s.claimed p e then (List.replicate (2 * aCount r) czero, (none : Option Int), false)
      else
        let mine := rx.filter (fun x => x.1 == p)
        let y := fun i => match mine.find? (fun x => x.2.1 == base + i) with
          | some x => x.2.2
          | none => czero
        let z := soundLs r y
        let est := (soundPoints r).map (soundEstimate r z)
        let clip := est.map (fun c => (⟨sat16 c.re, sat16 c.im⟩ : Cplx))
        (clip, some (soundSnr r z est), est != clip))
    let b := s.entryBase (aEntry r)
    let before := s.lib.writes.any (fun w => w.entry == aEntry r && w.epoch == e)
    let valid := s.byteAt (b + 1) == 2 && s.entryPrbsOk (aEntry r)
    let pts := (List.range (2 * aCount r)).map (fun k =>
      (base / 6 + 2 * aFirst r + k, per.map (fun x => x.1.getD k czero)))
    let w : SoundingWrite :=
      { record := q.1, entry := aEntry r, epoch := e, merge := aMerge r && (before || valid),
        partial_ := per.any (fun x => x.2.1.isNone), saturated := per.any (fun x => x.2.2),
        prbs := (List.range (aCount r)).map (fun k => base / 12 + aFirst r + k), points := pts,
        snr := per.map (fun x => x.2.1.getD (-32768)) }
    let s := s.ownBytes (b + 1) [1]
    { s with lib := { s.lib with writes := s.lib.writes ++ [w] } }

/-- The estimator's work on the symbol that has just ended (R145): each scheduled record is estimated, or skipped where the
symbol is not one it runs in. -/
def State.soundingTick (s : State) (e : Nat) (rx : List (Nat × Nat × Cplx)) : State :=
  let usable := (s.mode == 4 || s.mode == 5 || s.mode == 6) && s.ulSymbol e
  (s.soundRecords.filter (fun q => s.sounds q.2 e)).foldl (fun s q =>
    if usable && (!s.anyFlex e || s.insideSubband (aCarrier q.2) (aFirst q.2) (aCount q.2)) then s.soundOne q e rx
    else (s.bump Ix.SoundingSkipped 0).raise 0x3401 0 (packData [f8 q.1])) s

/-- Bytes of a bit map with the bits of a list set. -/
def bitmapBytes (n : Nat) (set : List Nat) : List Byte :=
  (List.range n).map (fun i => BitVec.ofNat 8 (((List.range 8).filter (fun k => set.contains (8 * i + k))).map (2 ^ ·)).sum)

/-- The set bits of a bit map. -/
def bitmapList (l : List Byte) : List Nat :=
  (List.range (8 * l.length)).filter (fun k => (l.getD (k / 8) 0).getLsbD (k % 8))

/-- A CPLX16 value as four bytes. -/
def cplxBytes (c : Cplx) : List Byte := leBytes 2 (ofInt 16 c.re) ++ leBytes 2 (ofInt 16 c.im)

/-- SOUNDING_WRITE_DONE (R148): the estimator completes its oldest write: estimates, coverage, SNR and header, then STATE valid;
a poisoned word met while merging makes the entry invalid. -/
def State.soundingWriteDone (s : State) : State :=
  match s.lib.writes with
  | [] => s
  | w :: rest =>
    let s := { s with lib := { s.lib with writes := rest } }
    let b := s.entryBase w.entry
    let s := if w.merge then s.settle b 336 else s
    match (if w.merge then s.firstPoison b 336 else none) with
    | some a => ((s.consumePoison a).ownBytes (b + 1) [3]).soundDropped w.record 3 w.entry
    | none =>
      let old := s.bytesAt b 336
      let cover := if w.merge then bitmapList (sliceBytes old 64 137) ++ w.prbs else w.prbs
      let en := w.snr.filter (· != -32768)
      let mean := if en.isEmpty then Config.freeFigure s.free 1 else en.sum.tdiv en.length
      let s := if en.isEmpty then { s with free := s.free + 1 } else s
      let flags := (if w.merge then 4 else 0) + 2 * b2n w.saturated + b2n w.partial_
      let first := if w.merge then sliceBytes old 8 8 else leBytes 8 (epochEntry w.epoch)
      let hdr := [1, 2] ++ leBytes 1 flags ++ leBytes 1 w.record ++ leBytes 2 (s.activeSubcarriers / 6) ++ [0, 0] ++ first
        ++ leBytes 8 (epochEntry w.epoch) ++ leBytes 2 (ofInt 16 mean) ++ [0, 0]
        ++ leBytes 4 ((s.numAt (b + 28) 4 + 1) % 2 ^ 32) ++ s.prbsList.flatMap (leBytes 2) ++ List.replicate 24 0
      let s := if w.merge then s else s.zeroRange (b + 1024) 559104
      let s := w.points.foldl (fun s p => s.ownBytes (b + 1024 + 256 * p.1) (p.2.flatMap cplxBytes)) s
      let snr := (w.snr.map (fun x => if x = -32768 then 0 else x)).flatMap (fun x => leBytes 2 (ofInt 16 x))
      let s := s.ownBytes b (hdr ++ bitmapBytes 144 cover ++ snr)
      s.bump Ix.SoundingWritten 0

/-- The offset of the first field of a host-written entry that fails `LibraryValidate` (R150). -/
def State.libraryCheck (s : State) (e : Nat) : Option Nat :=
  let b := s.entryBase e
  match s.firstPoison b 208 with
  | some w => some (w - b)
  | none =>
    if s.numAt b 1 ≠ 1 then some 0
    else if !s.entryPrbsOk e then some 32
    else if (bitmapList (s.bytesAt (b + 64) 144)).any (fun k => decide (s.prbsList.sum ≤ k)) then some 64
    else none

/-- `LibraryValidate` (R150). -/
def State.libraryValidate (s : State) (e : Nat) : Res :=
  if s.rd Ix.LibraryEntries 0 ≤ e then .error (rangeAt 0)
  else
    let b := s.entryBase e
    let s := s.settle b 208
    match s.libraryCheck e with
    | some off => .ok ((s.ownBytes (b + 1) [3]).raise 0x3403 0 (packData [f16 e, f8 off]))
    | none => .ok (s.ownBytes (b + 1) [2, BitVec.ofNat 8 (setBit (s.numAt (b + 2) 1) 3 true), 0xFF])

/-- The first job that names an entry. -/
def State.pinnedBy (s : State) (e : Nat) : Option WeightJob := s.lib.jobs.find? (fun j => j.entries.contains e)

/-- `LibraryInvalidate` (R150): LEASE_HELD on a pinned entry. -/
def State.libraryInvalidate (s : State) (e : Nat) : Res :=
  if s.rd Ix.LibraryEntries 0 ≤ e then .error (rangeAt 0)
  else match s.pinnedBy e with
    | some j => .error (leaseAbort (s.ownerField 2 j.job))
    | none => .ok (s.ownBytes (s.entryBase e + 1) [3])

/-- Is an entry valid for a job over a PRB range (R151)? -/
def State.entryValid (s : State) (e first count : Nat) : Bool :=
  let b := s.entryBase e
  let cover := bitmapList (s.bytesAt (b + 64) 137)
  s.numAt (b + 1) 1 == 2 && s.entryPrbsOk e && (List.range count).all (fun k => cover.contains (first + k))
    && decide (s.epochsBetween (epochOfEntry (s.numAt (b + 16) 8)) s.epoch ≤ s.rd Ix.LibraryMaxAge 0)

/-! Submission and cancellation (R152 to R154, R162) -/

/-- The first field of a job record that Table 6.4 does not allow. -/
def State.jobField (s : State) (j : WeightJob) : Option Nat :=
  let r := j.record
  let n := s.prbsList
  let dlOk := if j.dir = 1 then j.dlSlot == 0xFF else decide (j.dlSlot < 2)
  let ulOk := if j.dir = 0 then j.ulSlot == 0xFF else j.ulSlot == 2 || j.ulSlot == 3
  let edge := fun (b : Nat) => b == n.sum || (let c := localPrb n b; c.2 % max 1 j.group == 0)
  if j.dir = 3 then some 0
  else if 3 < j.algorithm then some 1
  else if j.layers = 0 ∨ 32 < j.layers then some 2
  else if j.group = 0 ∨ 16 < j.group then some 3
  else if !edge j.first ∨ n.sum ≤ j.first then some 4
  else if j.count = 0 ∨ 1092 < j.count ∨ n.sum < j.first + j.count ∨ !edge (j.first + j.count) then some 6
  else if !dlOk then some 8
  else if !ulOk then some 9
  else if fieldLE r 10 2 = 0 then some 10
  else if 0x7B800000 < j.sigma2 ∧ j.sigma2 ≠ 0x80000000 then some 12
  else if fieldLE r 16 2 = 0 ∨ 32767 < fieldLE r 16 2 then some 16
  else if fieldLE r 18 2 = 0 ∨ 32767 < fieldLE r 18 2 then some 18
  else if j.commit && (!s.epochOk (fieldLE r 24 8) || s.beyondLimit (epochOfEntry (fieldLE r 24 8))) then some 24
  else if (if j.algorithm = 3 then j.source % 64 != 0 || decide (0x100000000 ≤ j.source) else j.source != 0) then some 32
  else if j.algorithm = 3 then none
  else ((List.range 32).find? (fun l =>
    let e := fieldLE r (40 + 2 * l) 2
    if l < j.layers then decide (s.rd Ix.LibraryEntries 0 ≤ e) else e != 0xFFFF)).map (fun l => 40 + 2 * l)

/-- Does a sealed commit name a slot? -/
def State.commitNames (s : State) (slot : Nat) : Bool :=
  s.host.commits.any (fun c => c.items.any (fun it =>
    (it.index == Ix.DlFolioSelect || it.index == Ix.UlFolioSelect) && it.value == .num slot))

/-- Is KEEP refused: the direction's folio in service has another L, G or PRBS, or there is none (R153)? -/
def State.keepBad (s : State) (j : WeightJob) : Bool :=
  let bad := fun (sel : Nat) =>
    match s.selected sel with
    | none => true
    | some f =>
      let h := s.folioHeader f
      folioLayers h != j.layers || folioGroup h != j.group || folioPrbs h != s.prbsList
  j.keep && ((j.dir != 1 && bad Ix.DlFolioSelect) || (j.dir != 0 && bad Ix.UlFolioSelect))

/-- The answers of the devices south of the head: the first that refuses, if any. -/
def State.peerRefusal (s : State) : Option Nat × State :=
  let r := (List.range (s.arrayN - 1)).map (fun k => Config.peerAnswer s.free (k + 1))
  (r.find? (fun c => c != 0), if s.arrayN ≤ 1 then s else { s with free := s.free + 1 })

/-- Does the epoch of a target meet the lead time of R41? -/
def State.leadMet (s : State) (array : Bool) (target : Nat) : Bool :=
  if array then epLe s.earliestArrayCommit target else epLe s.earliestCommit target

/-- `WeightJobSubmit` (R152 to R154): the checks in their order, then pins, slot leases, the queue and the internal commit. -/
def State.weightJobSubmit (s : State) (rec : List Byte) : Res :=
  let j : WeightJob :=
    { job := fieldLE rec 10 2, record := rec, state := 0, accepted := s.epoch, startedAt := 0, faulty := [], keepDl := 0xFF,
      keepUl := 0xFF, own := [], summed := [], total := [] }
  let s := if j.algorithm = 3 then s else j.entries.foldl (fun s e =>
    if e < s.rd Ix.LibraryEntries 0 then s.settle (s.entryBase e) 208 else s) s
  let target := epochOfEntry (fieldLE rec 24 8)
  let asap := bitAt (fieldLE rec 0 1) 5
  if j.array ∧ s.pos ≠ 0 then .error ⟨abPosition, 0⟩
  else match s.jobField j with
  | some off => .error (rangeAt off)
  | none =>
    if s.lib.jobs.any (fun k => k.job == j.job) || decide (8 ≤ s.lib.jobs.length)
        || j.slots.any (fun k => s.folioState k == 2 || s.commitNames k) || s.keepBad j then .error s.stateAbort
    else match (j.slots.find? (fun k => thas k s.lib.slotLease)) with
    | some k => .error (leaseAbort (s.ownerField 2 (tget 0 k s.lib.slotLease)))
    | none =>
      if j.entries.any (fun e => !s.entryValid e j.first j.count) then .error ⟨abEntryMissing, 0⟩
      else if j.commit && !asap && !s.leadMet j.array target then .error ⟨abLate, 0⟩
      else if j.commit && decide (8 ≤ s.host.commits.length) then .error ⟨abStagingFull, 0⟩
      else if j.array && decide (1 < s.arrayN) && s.gramSpare 1 == 0 then .error ⟨abBudget, 0⟩
      else
        let peer := if j.array then s.peerRefusal else (none, s)
        match peer.1 with
        | some c => .error ⟨c, 0⟩
        | none =>
          let s := peer.2
          let early := if j.array then s.earliestArrayCommit else s.earliestCommit
          let moved := asap && !s.leadMet j.array target
          let t := if moved then early else target
          let items := (if j.dir = 1 then [] else [StagedItem.mk Ix.DlFolioSelect 0 (.num j.dlSlot)]) ++
            (if j.dir = 0 then [] else [StagedItem.mk Ix.UlFolioSelect 0 (.num j.ulSlot)])
          let s := { s with lib := { s.lib with jobs := s.lib.jobs ++ [j],
                                                slotLease := j.slots.foldl (fun l k => tins k j.job l) s.lib.slotLease } }
          .ok (if j.commit then s.sealCommit (internalCommit (.weightJob j.job) t moved j.array items) else s)

/-- `WeightJobCancel` (R162): an unknown job aborts with RANGE, an ARRAY job away from the head with POSITION. -/
def State.weightJobCancel (s : State) (job : Nat) : Res :=
  match s.lib.jobs.find? (fun j => j.job == job) with
  | none => .error (rangeAt 0)
  | some j => if j.array ∧ s.pos ≠ 0 then .error ⟨abPosition, 0⟩ else .ok (s.failJob job 4 s.pos)

/-! What a job computes (R156 to R161, R419) -/

/-- The groups of a job's range (R125). -/
def State.jobGroups (s : State) (j : WeightJob) : List Nat :=
  ((List.range j.count).map (fun k => groupOfPrb s.prbsList j.group (j.first + k))).eraseDups

/-- The global PRBs of a group. -/
def State.groupPrbs (s : State) (g0 g : Nat) : List Nat :=
  (List.range s.prbsList.sum).filter (fun b => groupOfPrb s.prbsList g0 b == g)

/-- h̄_l[p, g] (R156), zero for a path the job found faulty (R419). -/
def State.meanChannel (s : State) (j : WeightJob) (l p g : Nat) : Cplx :=
  if j.faulty.contains p then czero
  else
    let pts := (s.groupPrbs j.group g).flatMap (fun b => [2 * b, 2 * b + 1])
    let b := s.entryBase (j.entries.getD l 0)
    let k := 32768 / max 1 pts.length
    let t := csum (pts.map (fun f =>
      let h := cplxOf (s.numAt (b + 1024 + 4 * (64 * f + p)) 4)
      ⟨h.re * k, h.im * k⟩))
    ⟨t.re / 2 ^ 15, t.im / 2 ^ 15⟩

/-- The pairs (i, j) of a Gram block in its order (R157). -/
def gramPairs (layers : Nat) : List (Nat × Nat) :=
  (List.range layers).flatMap (fun i => (List.range (layers - i)).map (fun k => (i, i + k)))

/-- The smallest exponent from `e0` on for which every value shifted right fits 16 bits. -/
def fitExponent (v : List Cplx) : Nat → Nat → Nat
  | 0, e => e
  | fuel + 1, e =>
    if v.all (fun c => sat16 (c.re / 2 ^ e) == c.re / 2 ^ e && sat16 (c.im / 2 ^ e) == c.im / 2 ^ e) then e
    else fitExponent v fuel (e + 1)

/-- A block from exact values that stand for v · 2^e0 (R157, R158). -/
def gramCompress (group e0 : Nat) (v : List Cplx) : GramBlock :=
  let e := fitExponent v 64 0
  { group := group, exp := e0 + e, mant := v.map (fun c => ⟨c.re / 2 ^ e, c.im / 2 ^ e⟩) }

/-- The partial Gram of a group, compressed (R156, R157). -/
def State.ownGram (s : State) (j : WeightJob) (g : Nat) : GramBlock :=
  let h := (List.range j.layers).map (fun l => allPaths.map (fun p => s.meanChannel j l p g))
  gramCompress g 0 ((gramPairs j.layers).map (fun c =>
    csum (((h.getD c.1 []).zip (h.getD c.2 [])).map (fun x => cmul (conj x.1) x.2))))

/-- The sum of two blocks of one group (R158). -/
def addBlock (a b : GramBlock) : GramBlock :=
  let e0 := min a.exp b.exp
  gramCompress a.group e0 ((a.mant.zip b.mant).map (fun x =>
    ⟨x.1.re * 2 ^ (a.exp - e0) + x.2.re * 2 ^ (b.exp - e0), x.1.im * 2 ^ (a.exp - e0) + x.2.im * 2 ^ (b.exp - e0)⟩))

/-- A block's bytes (R157). -/
def gramBytes (b : GramBlock) : List Byte := leBytes 4 (b.exp * 2 ^ 24 + b.group) ++ b.mant.flatMap cplxBytes

/-- The blocks of a GRAM packet of L layers (R157, R311). -/
def readGram (layers : Nat) : Nat → List Byte → List GramBlock
  | 0, _ => []
  | fuel + 1, l =>
    let n := 4 * (1 + layers * (layers + 1) / 2)
    if l.length < n then []
    else
      { group := fieldLE l 0 2, exp := fieldLE l 3 1,
        mant := (List.range (layers * (layers + 1) / 2)).map (fun k => cplxOf (fieldLE l (4 + 4 * k) 4)) }
        :: readGram layers fuel (l.drop n)

/-- GRAM packets for blocks, as many blocks in each as it holds (R311). KIND 0 is partial, 1 total. -/
def gramPackets (pos accepted job layers kind : Nat) : Nat → List GramBlock → List OutPacket
  | 0, _ => []
  | fuel + 1, l =>
    if l.isEmpty then []
    else
      let k := max 1 (8197 / (1 + layers * (layers + 1) / 2))
      { typ := 4, pos := pos, etag := accepted % 2 ^ 32,
        payload := leBytes 4 (job * 2 ^ 16 + layers * 2 ^ 8 + kind * 2 ^ 6) ++ (l.take k).flatMap gramBytes }
        :: gramPackets pos accepted job layers kind fuel (l.drop k)

/-- Replace a job's record. -/
def State.setJob (s : State) (j : WeightJob) : State :=
  { s with lib := { s.lib with jobs := s.lib.jobs.map (fun k => if k.job == j.job then j else k) } }

/-- The address of a slot's header as a running job writes it (R155, R160, Table 5.5). -/
def State.jobHeader (s : State) (j : WeightJob) (slot : Nat) : List Byte :=
  let n := s.prbsList
  let g := groupCount n j.group
  [1, if slot < 2 then 0 else 1] ++ leBytes 1 j.layers ++ leBytes 1 j.group ++ leBytes 2 g ++ [0, 0] ++ n.flatMap (leBytes 2)
    ++ leBytes 8 (epochEntry s.epoch) ++ leBytes 4 j.job ++ leBytes 1 j.algorithm ++ [0, 0, 0]
    ++ leBytes 4 (256 * j.layers * g) ++ List.replicate 28 0

/-- JOB_START (R155, R156, R419): the oldest queued job starts when none runs: slot headers written, faulty paths taken, own
partial Gram formed; a standalone device's partial is its total; the southmost device sends its blocks north. -/
def State.jobStart (s : State) : State :=
  match s.lib.jobs with
  | [] => s
  | j :: _ =>
    if j.state ≠ 0 then s
    else
      let s := j.slots.foldl (fun s k => (s.ownBytes (folioSlotBase k) (s.jobHeader j k)).setFolioState k 0) s
      let j := { j with startedAt := s.now, faulty := s.faultyPaths, keepDl := s.rd Ix.DlFolioSelect 0,
                        keepUl := s.rd Ix.UlFolioSelect 0, state := 3 }
      if j.algorithm = 3 then s.setJob j
      else
        let s := j.entries.foldl (fun s e => s.settle (s.entryBase e + 1024) 559104) s
        match j.entries.findSome? (fun e => s.firstPoison (s.entryBase e + 1024) 559104) with
        | some a => (s.consumePoison a).failJob j.job 1 s.pos
        | none =>
          let own := (s.jobGroups j).map (s.ownGram j)
          if !j.array || decide (s.arrayN ≤ 1) then s.setJob { j with own := own, total := own }
          else
            let s := s.setJob { j with own := own, state := 2 }
            if s.southmost then
              (gramPackets s.pos j.accepted j.job j.layers 0 (own.length + 1) own).foldl (fun s p => s.sendPacket 0 p) s
            else s

/-- The total arrives or is formed: kept, and the solve follows when every group is there. -/
def State.gramTotal (s : State) (j : WeightJob) (l : List GramBlock) : State :=
  let total := j.total ++ l.filter (fun b => !j.total.any (fun x => x.group == b.group))
  s.setJob { j with total := total, state := if j.own.length ≤ total.length then 3 else 2 }

/-- GRAM received (R158, R311): KIND partial from the south is added to the own blocks and sent north, or becomes the head's
total, which goes south; KIND total from the north is kept and forwarded. A packet of no running job is dropped. -/
def State.takeGram (s : State) (port : Nat) (payload : List Byte) : State :=
  let w := fieldLE payload 0 4
  let layers := bitsOf w 15 8
  let kind := bitsOf w 7 6
  match s.lib.jobs.find? (fun j => j.job == w / 2 ^ 16 && j.state != 0) with
  | none => s.bump Ix.GramUnmatched 0
  | some j =>
    let blocks := readGram layers (payload.length / 4 + 1) (payload.drop 4)
    if layers ≠ j.layers then s.bump Ix.GramUnmatched 0
    else if kind = 0 ∧ port = 1 then
      let sums := blocks.filterMap (fun b => (j.own.find? (fun o => o.group == b.group)).map (fun o => addBlock o b))
      if s.pos ≠ 0 then
        let s := s.setJob { j with summed := j.summed ++ sums }
        (gramPackets s.pos j.accepted j.job layers 0 (sums.length + 1) sums).foldl (fun s p => s.sendPacket 0 p) s
      else
        let s := s.gramTotal j sums
        (gramPackets s.pos j.accepted j.job layers 1 (sums.length + 1) sums).foldl (fun s p => s.sendPacket 1 p) s
    else if kind = 1 ∧ port = 0 then
      let s := if s.southmost then s
        else s.sendPacket 1 { typ := 4, pos := s.pos, etag := j.accepted % 2 ^ 32, payload := payload }
      s.gramTotal j blocks
    else s.bump Ix.GramUnmatched 0

/-- GRAM_TIMEOUT (R162): the exchange is incomplete `GramTimeout` after the job's start. -/
def State.gramTimeout (s : State) : State :=
  match s.lib.jobs with
  | j :: _ =>
    if j.state = 2 ∧ s.elapsed j.startedAt (usec (s.rd Ix.GramTimeout 0)) then s.failJob j.job 3 s.pos else s
  | [] => s

/-- The reciprocity correction c_p of a path and carrier in force (R160, Table 10.3): the identity where none was derived. -/
def State.reciprocity (s : State) (p k : Nat) : Cplx :=
  match s.cal.corr.find? (fun c => c.1 == p) with
  | some c => cplxOf (fieldLE c.2 (96 + 4 * k) 4)
  | none => ⟨32767, 0⟩

/-- A block as plain integers, for the solver's inputs. -/
def blockInts (b : GramBlock) : List Int := (b.exp : Int) :: b.mant.flatMap (fun c => [c.re, c.im])

/-- The weights of one group and direction by layer and path, how many parts saturated, and whether the group is degraded
(R159, R160). -/
def State.solveGroup (s : State) (j : WeightJob) (b : GramBlock) (dir : Nat) : List (List Cplx) × Nat × Bool :=
  let ver := s.rd Ix.WeightKernelVersion 0
  let total := blockInts b
  let k := (localPrb s.prbsList ((s.groupPrbs j.group b.group).headD 0)).1
  let gain := fieldLE j.record (16 + 2 * dir) 2
  let corr := (allPaths.map (fun p => s.reciprocity p k)).flatMap (fun c => [c.re, c.im])
  let own := (List.range j.layers).flatMap (fun l =>
    allPaths.flatMap (fun p => let h := s.meanChannel j l p b.group; [h.re, h.im]))
  let diag := fun (l : Nat) => (((gramPairs j.layers).zip b.mant).find? (fun x => x.1 == (l, l))).map (fun x => x.2.re)
  let allZero := j.algorithm != 0 && Config.pivotFails ver j.algorithm j.layers j.sigma2 total
  let zero := fun (l : Nat) => allZero || (if j.algorithm = 0 then diag l == some 0
    else Config.normZero ver j.algorithm j.layers j.sigma2 total l)
  let w := (List.range j.layers).map (fun l => allPaths.map (fun p =>
    if zero l || j.faulty.contains p then czero
    else ⟨Config.solvedPart [ver, j.algorithm, j.layers, j.sigma2, gain] total own corr [dir, l, p, 0],
          Config.solvedPart [ver, j.algorithm, j.layers, j.sigma2, gain] total own corr [dir, l, p, 1]⟩))
  let sat := (w.flatMap id).filter (fun c => sat16 c.re != c.re || sat16 c.im != c.im)
  (w.map (fun r => r.map (fun c => ⟨sat16 c.re, sat16 c.im⟩)), sat.length, (List.range j.layers).any zero)

/-- Store a group's weights in a slot (R135). -/
def State.storeGroup (s : State) (j : WeightJob) (slot g : Nat) (w : List (List Cplx)) : State :=
  let base := folioSlotBase slot
  let n := j.layers
  if slot < 2 then
    s.ownBytes (base + dlOffset n 0 0 g) (allPaths.flatMap (fun p => (List.range n).flatMap (fun l =>
      cplxBytes ((w.getD l []).getD p czero))))
  else
    s.ownBytes (base + ulOffset n 0 0 g) ((List.range n).flatMap (fun l => allPaths.flatMap (fun p =>
      cplxBytes ((w.getD l []).getD p czero))))

/-- The groups outside a job's range: copied from the folio in service at its start under KEEP, else zeros (R160). -/
def State.restGroups (s : State) (j : WeightJob) (slot : Nat) : State :=
  let from_ := if slot < 2 then j.keepDl else j.keepUl
  let size := 256 * j.layers
  let mine := s.jobGroups j
  ((List.range (groupCount s.prbsList j.group)).filter (fun g => !mine.contains g)).foldl (fun s g =>
    let off := 64 + size * g
    if j.keep && from_ != 0xFF then s.ownBytes (folioSlotBase slot + off) (s.bytesAt (folioSlotBase from_ + off) size)
    else s.zeroRange (folioSlotBase slot + off) size) s

/-- The first poisoned word a job's copy reads: the source image of an external job, the folio in service under KEEP. -/
def State.jobPoison (s : State) (j : WeightJob) : Option Nat :=
  if j.algorithm = 3 then s.firstPoison j.source (64 + s.numAt (j.source + 32) 4)
  else if j.keep then
    (j.slots.map (fun k => if k < 2 then j.keepDl else j.keepUl)).findSome? (fun f =>
      if f = 0xFF then none else (s.folioPoison f).head?.map (fun o => folioSlotBase f + o))
  else none

/-- JOB_DONE (R155, R160, R161): the running job writes its folios and seals them; JOB_DONE follows, pins and leases go. `micros`
is the mason time the masons report. -/
def State.jobDone (s : State) (micros : Nat) : State :=
  match s.lib.jobs with
  | [] => s
  | j :: _ =>
    if j.state ≠ 3 then s
    else
      let s := if j.algorithm = 3 then s.settle j.source (64 + s.numAt (j.source + 32) 4) else s
      match s.jobPoison j with
      | some a => (s.consumePoison a).failJob j.job 1 s.pos
      | none =>
        let r := if j.algorithm = 3 then
            let img := s.bytesAt j.source (64 + min 0x8FFFC0 (s.numAt (j.source + 32) 4))
            (j.slots.foldl (fun s k => s.ownBytes (folioSlotBase k) img) s, 0, 0)
          else
            j.slots.foldl (fun acc k =>
              let s := (acc.1.ownBytes (folioSlotBase k) (acc.1.jobHeader j k)).restGroups j k
              j.total.foldl (fun acc b =>
                let w := acc.1.solveGroup j b (if k < 2 then 0 else 1)
                (acc.1.storeGroup j k b.group w.1, acc.2.1 + w.2.1, acc.2.2 + (if k = j.slots.headD k then b2n w.2.2 else 0)))
                (s, acc.2.1, acc.2.2)) (s, 0, 0)
        let s := j.slots.foldl (fun s k => s.sealFolio k) r.1
        if j.slots.any (fun k => s.folioState k == 3) then s.failJob j.job 7 s.pos
        else
          let s := { s with lib := { s.lib with jobs := s.lib.jobs.filter (fun k => k.job != j.job),
                                                slotLease := s.lib.slotLease.filter (fun c => c.2 != j.job) } }
          let s := s.keepResult ⟨j.job, 5, 0, j.accepted, s.epoch, r.2.2, r.2.1, micros⟩
          let s := s.bump Ix.WeightJobsDone 0
          s.raise 0x3404 0 (packData [f16 j.job, fCount r.2.2, fCount r.2.1])

/-- A reset of MASON, or of a link port an ARRAY job uses, fails the jobs it touches (R162). -/
def State.jobsReset (s : State) (arrayOnly : Bool) : State :=
  ((s.lib.jobs.filter (fun j => !arrayOnly || j.array)).map (·.job)).foldl (fun s j => s.failJob j 5 s.pos) s

/-- `WeightJobResults`: up to 16 records of 32 bytes, newest first. -/
def State.jobResultBytes (s : State) : List Byte :=
  let live := s.lib.jobs.reverse.map (fun j => (⟨j.job, j.state, 0, j.accepted, 0, 0, 0, 0⟩ : JobResult))
  ((live ++ s.lib.results).take 16).flatMap (fun r =>
    leBytes 2 r.job ++ leBytes 1 r.state ++ leBytes 1 r.reason ++ leBytes 8 (epochEntry r.accepted)
      ++ leBytes 8 (epochEntry r.completed) ++ leBytes 2 (min r.degraded 65535) ++ leBytes 4 r.saturated
      ++ leBytes 4 r.micros ++ [0, 0])

end Sys2Proof.Machine
end

