-- ==== Sys2Proof/Machine/Duplex.lean ====
section
/-! DEFINITION. Subband full duplex: layout checks, the references and the cancellation stages, canceller sets, training, the
noise-rise monitor and tracking (R186 to R204). -/
namespace Sys2Proof.Machine

/-! Layout and aperture (R187, R189) -/

/-- The rate code of a subband: the smallest rate at least 1.2 × 12 × COUNT × Δf (R187); `none` above 122.88 MS/s. -/
def subbandRate (nu count : Nat) : Option Nat :=
  (List.range 5).find? (fun k => decide (144 * count * spacing nu ≤ 76800 * 2 ^ k))

/-- The offset of the first record of `FlexSubbands` that breaks R187. -/
def State.flexBad (v : State) : Option Nat :=
  ((List.range 4).find? (fun k =>
    let g := v.flexField k 1 1
    let n0 := v.flexField k 4 2
    let n1 := v.flexField k 8 2
    let f0 := v.flexField k 2 2
    let f1 := v.flexField k 6 2
    bitAt (v.flexField k 0 1) 7 &&
      (g == 0 || decide (16 < g) || decide (v.prbs k < n0) || decide (v.prbs k < n1)
        || (n0 != 0 && decide (v.prbs k < f0 + n0)) || (n0 == 0 && n1 != 0) || (n1 != 0 && decide (v.prbs k < f1 + n1))
        || (n1 != 0 && decide (f1 < f0 + n0 + 2 * g + 1))))).map (· * 16)

/-- Do the subband rates exceed 122.88 MS/s together (R187)? -/
def State.flexOverBudget (v : State) : Bool :=
  let r := v.subbands.map (fun x => subbandRate (v.rd Ix.Numerology 0) x.2.2.2.1)
  r.any (·.isNone) || decide (16 < (r.map (fun k => 2 ^ k.getD 0)).sum)

/-- `CancelSubbandRate` of subband k. -/
def State.subbandRateEntry (v : State) (k : Nat) : Nat :=
  match v.subbands.find? (fun x => x.1 == k) with
  | some x => (subbandRate (v.rd Ix.Numerology 0) x.2.2.2.1).getD 4
  | none => 0xFF

/-- Is a mask of receive tiles allowed (R189)? -/
def splitMaskOk (m : Nat) : Bool :=
  let nib := (List.range 4).map (fun k => m / 16 ^ k % 16)
  m == 0x5555 || m == 0xAAAA || (nib.all (fun x => x == 0 || x == 15) && nib.contains 0 && nib.contains 15)

/-! The cancellation chain (R191 to R193) -/

/-- A little-endian field of the set in force. -/
def State.setField (s : State) (off n : Nat) : Nat := leNat ((List.range n).map (fun i => tget 0 (off + i) s.duplex.current))

/-- A CPLX16 of the set in force. -/
def State.setCplx (s : State) (off : Nat) : Cplx := cplxOf (s.setField off 4)

/-- ρ_t[n] (R191) from the Lineariser outputs of the symbol. -/
def State.reference (s : State) (t n : Nat) : Cplx :=
  if s.rd Ix.DuplexAperture 0 = 1 ∧ s.rdBit Ix.SplitRxTiles 0 t then czero
  else
    let a := ((List.range 4).map (fun i =>
      let q := 4 * t + i
      if s.heldOff q || s.muted q then czero else cmul (s.setCplx (192 + 4 * q)) (sampleAt (tget [] q s.lin.out) n))).foldl cadd czero
    ⟨sat16 (a.re / 2 ^ 15), sat16 (a.im / 2 ^ 15)⟩

/-- The code of path p's cancel DAC at place m of 491.52 MS/s (R192): bits [15:6] of the saturated sum. -/
def State.cancelDac (s : State) (p : Nat) (m : Nat) : Cplx :=
  let terms := (List.range 4).flatMap (fun (j : Nat) =>
    let t := s.setField (512 + 64 * p + j) 1
    if 16 ≤ t then []
    else
      let run := tget [] t s.duplex.refs
      (List.range 2).map (fun (k : Nat) =>
        let r : Cplx := ⟨Config.halfBand (run.map (·.re)) ((m : Int) - k), Config.halfBand (run.map (·.im)) ((m : Int) - k)⟩
        cmul (s.setCplx (512 + 64 * p + 4 + 4 * (2 * j + k))) r))
  let a := terms.foldl cadd czero
  ⟨sat16 (a.re / 2 ^ 15) / 64, sat16 (a.im / 2 ^ 15) / 64⟩

/-- z_{p,s}[n] (R193): the digital stage's estimate at the subband rate. -/
def State.cancelEstimate (s : State) (p sb n : Nat) : Cplx :=
  let terms := (List.range 16).flatMap (fun (t : Nat) =>
    let run := (tget [] t s.duplex.refs).flatMap (fun c => [c.re, c.im])
    (List.range 16).map (fun (k : Nat) =>
      let r : Cplx := ⟨Config.subbandRef run sb ((n : Int) - k) 0, Config.subbandRef run sb ((n : Int) - k) 1⟩
      cmul (s.setCplx (4608 + 4 * (((8 * p + sb) * 16 + t) * 16 + k))) r))
  let a := terms.foldl cadd czero
  ⟨a.re / 2 ^ 15, a.im / 2 ^ 15⟩

/-- Does a path receive in a FLEX symbol: not a transmit tile of the split aperture (R190)? -/
def State.flexReceives (s : State) (p e : Nat) : Bool :=
  s.flexSymbol (courseOf p) e && !s.rxHeldOff p && !(s.rd Ix.DuplexAperture 0 == 1 && !s.splitRx p)

/-- The references and the cancel-DAC codes of a FLEX symbol (R191, R192): receiving paths of FLEX courses only. -/
def State.cancelPass (s : State) (e : Nat) : State :=
  if !s.anyFlex e || s.lin.out.isEmpty then { s with duplex := { s.duplex with refs := [], dac := [] } }
  else
    let len := (s.lin.out.map (fun c => c.2.length)).foldl max 0
    let refs := ((List.range 16).map (fun t => (t, (List.range len).map (s.reference t)))).filter (fun c => c.2.any (· != czero))
    let s := { s with duplex := { s.duplex with refs := refs } }
    let dac := (allPaths.filter (fun p => s.flexReceives p e && !refs.isEmpty)).map (fun p =>
      (p, (List.range (len / 2)).map (s.cancelDac p)))
    { s with duplex := { s.duplex with dac := dac } }

/-! Sets (R195 to R197) -/

/-- The address of a set slot. -/
def State.setBase (s : State) (slot : Nat) : Nat := s.rd Ix.CancelSetBase 0 + slot * 0x100000

/-- The length of a set. -/
def setLength : Nat := 528896

/-- Show a slot's state. -/
def State.setCancelState (s : State) (slot st : Nat) : State := s.wr Ix.CancelSetState (slot + 1) st

/-- The offset of the first field of a slot's set that fails the seal check (R196). -/
def State.setCheck (s : State) (slot : Nat) : Option Nat :=
  let b := s.setBase slot
  let f := fun off n => s.numAt (b + off) n
  if f 0 1 ≠ 1 then some 0
  else if 1 < f 1 1 then some 1
  else if !(if f 1 1 = 0 then f 2 2 == 0xFFFF else splitMaskOk (f 2 2)) then some 2
  else
    match (List.range 64).find? (fun p => decide (30 < f (128 + p) 1)) with
    | some p => some (128 + p)
    | none =>
      (List.range 256).findSome? (fun i =>
        let off := 512 + 64 * (i / 4) + i % 4
        if f off 1 < 16 ∨ f off 1 = 0xFF then none else some off)

/-- Loading of a slot into the canceller starts (R196). -/
def State.startSetLoad (s : State) (slot : Nat) : State :=
  if s.duplex.loads.any (fun l => l.slot == slot) || thas slot s.duplex.copies || decide (2 ≤ slot) then s
  else { s with duplex := { s.duplex with loads := s.duplex.loads ++ [⟨slot, s.now⟩] } }

/-- Does a sealed commit select a slot? -/
def State.setNamed (s : State) (slot : Nat) : Bool :=
  s.host.commits.any (fun c => c.items.any (fun it => it.index == Ix.CancelSetSelect && it.value == .num slot))

/-- A set passes: its slot is sealed, and loads where a commit names it. -/
def State.sealSet (s : State) (slot : Nat) : State :=
  let s := s.setCancelState slot 1
  if s.setNamed slot then s.startSetLoad slot else s

/-- `CancelSetSeal` (R196). A slot in service stays as it is: STATE. -/
def State.cancelSetSeal (s : State) (slot : Nat) : Res :=
  if 2 ≤ slot then .error (rangeAt 0)
  else if s.rd Ix.CancelSetState (slot + 1) = 2 then .error s.stateAbort
  else
    match s.setCheck slot with
    | none => .ok ((s.sealSet slot).raise 0x3C07 (slot + 1) (packData [f8 slot]))
    | some off => .ok ((s.setCancelState slot 3).raise 0x3C08 (slot + 1) (packData [f8 slot, f32 off]))

/-- The bytes of a slot that are not 0, by offset. -/
def State.setCopy (s : State) (slot : Nat) : Tab Byte :=
  let b := s.setBase slot
  (s.mem.bytes.filter (fun c => decide (b ≤ c.1) && decide (c.1 < b + setLength))).map (fun c => (c.1 - b, c.2))

/-- CANCEL_SET_LOADED (R196): a load completes; a poisoned word leaves the selection not ready and raises CANCEL_SET_POISON. -/
def State.cancelSetLoaded (s : State) (slot : Nat) : State :=
  if !s.duplex.loads.any (fun l => l.slot == slot) then s
  else
    let s := { s with duplex := { s.duplex with loads := s.duplex.loads.filter (fun l => l.slot != slot) } }
    let s := s.settle (s.setBase slot) setLength
    match s.firstPoison (s.setBase slot) setLength with
    | some w => (s.consumePoison w).raise 0x3C09 (slot + 1) (packData [f8 slot, f32 (w - s.setBase slot)])
    | none => { s with duplex := { s.duplex with copies := tins slot (s.setCopy slot) s.duplex.copies } }

/-- A field of a copy. -/
def copyField (t : Tab Byte) (off n : Nat) : Nat := leNat ((List.range n).map (fun i => tget 0 (off + i) t))

/-- Do a set's APERTURE, RXTILES, PRBS, subband copy and LOSRC equal a configuration (R196)? -/
def State.setFits (v : State) (t : Tab Byte) : Bool :=
  copyField t 1 1 == v.rd Ix.DuplexAperture 0
    && copyField t 2 2 == (if v.rd Ix.DuplexAperture 0 = 1 then v.rd Ix.SplitRxTiles 0 else 0xFFFF)
    && (List.range 4).all (fun k => copyField t (4 + 2 * k) 2 == v.prbs k)
    && (List.range 4).all (fun c => copyField t (12 + c) 1 == v.loSource c)
    && (List.range 64).all (fun i => copyField t (64 + i) 1 == v.domField Ix.FlexSubbands 0 i 1)

/-- The slot in service. -/
def State.setInService (s : State) : Option Nat := (List.range 2).find? (fun k => s.rd Ix.CancelSetState (k + 1) == 2)

/-- Is a selection ready in the configuration of a view (R196)? -/
def State.setReady (s v : State) (slot : Nat) : Bool :=
  match s.rd Ix.CancelSetState (slot + 1) with
  | 1 => (match s.duplex.copies.find? (fun c => c.1 == slot) with
    | some c => v.setFits c.2
    | none => false)
  | 2 => v.setFits s.duplex.current
  | _ => false

/-- Does the set in force, or the one committed by a view's epoch, fit it (R26)? -/
def State.setForDuplex (s v : State) : Bool :=
  let sel := v.rd Ix.CancelSetSelect 0
  sel != 0xFF && decide (sel < 2) && s.setReady v sel

/-- A selection comes into force at its commit epoch (R196). -/
def State.selectSet (s : State) (slot : Nat) : State :=
  let old := s.setInService
  if old = some slot then s
  else
    let s := match old with
      | some k => s.setCancelState k (if s.duplex.rewritten.contains k then 0 else 1)
      | none => s
    let copy := if slot = 0xFF then [] else tget [] slot s.duplex.copies
    let d := s.duplex
    let next : DuplexSys := { d with current := copy, trained := copy, seq := d.seq + 1, loStale := [], copies := tdel slot d.copies,
                                     rewritten := [] }
    let s := { s with duplex := next }
    let s := allPaths.foldl (fun s p => s.loopAt p 5 0) s
    (if slot < 2 then s.setCancelState slot 2 else s).showStale

/-- Calibration measures receive paths: their coefficients hold and STALE is set; CANCEL_STALE with reason calibration for each course
(R197). -/
def State.cancelStaleCal (s : State) (paths : List Nat) : State :=
  if s.setInService.isNone then s
  else
    let s := { s with duplex := { s.duplex with calStale := (s.duplex.calStale ++ paths).eraseDups } }.showStale
    ((List.range 4).filter (fun c => paths.any (fun p => courseOf p == c))).foldl
      (fun s c => s.raise 0x3C06 (16 * c + 1) (packData [f8 c, f8 2])) s

/-! Training (R198 to R200) -/

/-- The resource codes training leases: the observation receivers and the calibration slot. -/
def trainLeases : List Nat := [0x400, 0x401, 0x402, 0x403, 0x500]

/-- `CancelTrain` (R198, R199). -/
def State.cancelTrain (s : State) (rec : List Byte) : Res :=
  let slot := fieldLE rec 0 1
  let symbols := fieldLE rec 1 1
  let startV := fieldLE rec 8 8
  let start := epochOfEntry startV
  if s.mode ≠ 3 ∨ s.duplex.train.isSome then .error s.stateAbort
  else if slot < 2 ∧ (s.rd Ix.CancelSetState (slot + 1) = 2 ∨ s.setNamed slot) then .error s.stateAbort
  else if 2 ≤ slot then .error (rangeAt 0)
  else if symbols < 14 then .error (rangeAt 1)
  else if !s.epochOk startV || s.beyondLimit start then .error (rangeAt 8)
  else if !epLe s.earliestCommit start then .error ⟨abLate, 0⟩
  else
    match trainLeases.findSome? s.leaseOf with
    | some l => .error (leaseAbort l.owner)
    | none =>
      let s := trainLeases.foldl (fun s r => s.takeLease r (s.functionOwner 2) none none) s
      .ok { s with duplex := { s.duplex with train := some ⟨slot, symbols, start, 0⟩ } }

/-- CANCEL_TRAIN_START (R199): at START the first stage begins. -/
def State.cancelTrainStart (s : State) : State :=
  match s.duplex.train with
  | some t =>
    if t.stage = 0 ∧ epLe t.start s.epoch then
      let s := { s with duplex := { s.duplex with train := some { t with stage := 1 },
                                                  copies := tdel t.slot s.duplex.copies } }
      let b := s.setBase t.slot
      let s := (s.zeroRange b setLength).ownBytes (b + 128)
        (allPaths.map (fun p => BitVec.ofNat 8 (s.rd Ix.RxGainFixed (p + 1))))
      (s.setCancelState t.slot 0).wr Ix.CancelTrainState 0 1
    else s
  | none => s

/-- Training's leases are released. -/
def State.freeTrainLeases (s : State) : State := trainLeases.foldl (fun s r => s.freeLease r) s

/-- CANCEL_TRAIN_FAIL (R199): 1 mode, 2 lease revoked, 3 poison, 4 no level. -/
def State.trainFails (s : State) (reason : Nat) : State :=
  match s.duplex.train with
  | none => s
  | some t =>
    let s := { s with duplex := { s.duplex with train := none } }.freeTrainLeases
    let s := (s.setCancelState t.slot 0).wr Ix.CancelTrainState 0 6
    s.raise 0x3C02 0 (packData [f8 t.stage, f8 reason])

/-- The header a trained set is sealed with (Table 8.2). -/
def State.setHeader (s : State) : List Byte :=
  let ap := s.rd Ix.DuplexAperture 0
  leBytes 1 1 ++ leBytes 1 ap ++ leBytes 2 (if ap = 1 then s.rd Ix.SplitRxTiles 0 else 0xFFFF)
    ++ (List.range 4).flatMap (fun k => leBytes 2 (s.prbs k)) ++ (List.range 4).flatMap (fun c => leBytes 1 (s.loSource c))
    ++ leBytes 8 (epochEntry s.epoch)

/-- The figures of verification, shown with their status bits (R200): A below 20 dB, D below 40 dB, I below R204's assumption. -/
def State.verifyPath (s : State) (x : Nat × Int × Int × Int) : State :=
  let (p, a, d, i) := x
  let least : Int := if s.rd Ix.DuplexAperture 0 = 1 then 3500 else 2500
  let s := ((s.wrI 16 Ix.CancelAnalogSupp (p + 1) a).wrI 16 Ix.CancelDigitalSupp (p + 1) d).wrI 16 Ix.DuplexIsolation (p + 1) i
  let s := (s.wrBit Ix.CancelStatus (p + 1) 0 (decide (a < 2000))).wrBit Ix.CancelStatus (p + 1) 1 (decide (d < 4000))
  let s := s.wrBit Ix.CancelStatus (p + 1) 2 (decide (i < least))
  if i < least then s.raise 0x3C03 (p + 1) (packData [f8 p, f16 (ofInt 16 i)]) else s

/-- The lowest of the figures; a free value where no path receives. -/
def State.lowestFigure (s : State) : List Int → Int
  | [] => Config.freeFigure s.free 200
  | x :: t => t.foldl min x

/-- CANCEL_TRAIN_STAGE_DONE (R199, R200): a stage's coefficients enter the slot and the next stage begins; verification seals it. -/
def State.trainStageDone (s : State) (r : TrainResult) : State :=
  match s.duplex.train with
  | none => s
  | some t =>
    if t.stage = 0 then s
    else if r.poison then s.trainFails 3
    else if !r.level then s.trainFails 4
    else
      let b := s.setBase t.slot
      let s := r.coefs.foldl (fun s c => s.ownBytes (b + c.1 % setLength) (cplxBytes c.2)) s
      let s := r.tiles.foldl (fun s c => s.ownBytes (b + c.1 % setLength) (leBytes 1 c.2)) s
      if t.stage < 4 then
        { s with duplex := { s.duplex with train := some { t with stage := t.stage + 1 } } }.wr
          Ix.CancelTrainState 0 (t.stage + 1)
      else
        let s := (s.ownBytes b s.setHeader).ownBytes (b + 64) (s.domVal Ix.FlexSubbands 0)
        let s := r.figures.foldl State.verifyPath s
        let s := { s with duplex := { s.duplex with train := none } }.freeTrainLeases
        let s := (s.sealSet t.slot).wr Ix.CancelTrainState 0 5
        let low := fun (l : List Int) => f16 (ofInt 16 (s.lowestFigure l))
        s.raise 0x3C01 0 (packData [f8 t.slot, low (r.figures.map (·.2.1)), low (r.figures.map (·.2.2.1))])

/-! Clipping and the noise-rise monitor (R194, R201, R202) -/

/-- CANCEL_CLIP (R194): in a FLEX symbol the paths whose full-scale count passes `RxClipLimit` deliver zero samples. -/
def State.cancelClips (s : State) (e : Nat) (counts : List (Nat × Nat)) : State :=
  let bad := (counts.filter (fun c => s.flexReceives c.1 e && decide (s.rd Ix.RxClipLimit 0 < c.2))).map (·.1)
  let s := { s with duplex := { s.duplex with clipped := bad } }
  bad.foldl (fun s p =>
    let s := s.bump Ix.CancelClipSymbols (p + 1)
    { s with duplex := { s.duplex with clips := tput 0 p (tget 0 p s.duplex.clips + 1) s.duplex.clips } }) s

/-- CANCEL_CLIP is raised once per frame per path. -/
def State.cancelClipReport (s : State) : State :=
  let s := s.duplex.clips.foldl (fun s c => s.raise 0x3C05 (c.1 + 1) (packData [f8 c.1, fCount c.2])) s
  { s with duplex := { s.duplex with clips := [] } }

/-- The kinds of quiet symbol scheduled at an epoch (R201): false UL, true FLEX. -/
def State.quietKinds (s : State) (e : Nat) : List Bool :=
  let d := s.domVal Ix.CancelQuiet 0
  ((List.range 8).filter (fun r =>
    bitAt (fieldLE d (16 * r) 1) 7 && fieldLE d (16 * r + 1) 1 == epSym e
      && s.absSlot e % max 1 (fieldLE d (16 * r + 2) 2) == fieldLE d (16 * r + 4) 2)).map (fun r => bitAt (fieldLE d (16 * r) 1) 6)

/-- The power of a path in a subband: the sum over its subcarriers, and their number. -/
def State.subbandPower (s : State) (rx : List (Nat × Nat × Cplx)) (p : Nat) (x : Nat × Nat × Nat × Nat × Nat) : Nat × Nat :=
  let lo := 12 * (prbBase s.prbsList x.2.1 + x.2.2.1)
  let n := 12 * x.2.2.2.1
  (((rx.filter (fun y => y.1 == p && decide (lo ≤ y.2.1) && decide (y.2.1 < lo + n))).map (fun y => cpow y.2.2)).sum, n)

/-- NOISE_RISE at its three consecutive quiet FLEX symbols (R202). -/
def State.judgeNoise (s : State) (p : Nat) (rise : Int) : State :=
  let alarm : Int := s.rd Ix.NoiseRiseAlarm 0
  let up := if alarm < rise then tget 0 p s.duplex.above + 1 else 0
  let down := if rise < alarm then tget 0 p s.duplex.below + 1 else 0
  let s := { s with duplex := { s.duplex with above := tput 0 p up s.duplex.above, below := tput 0 p down s.duplex.below } }
  let event := fun (s : State) (b : Bool) => s.raise 0x3C04 (p + 1) (packData [f8 p, f16 (ofInt 16 rise), fFlag b])
  if 3 ≤ up ∧ s.duplex.alarmed.contains p = false then
    event { s with duplex := { s.duplex with alarmed := s.duplex.alarmed ++ [p] } } true
  else if 3 ≤ down ∧ s.duplex.alarmed.contains p then
    event { s with duplex := { s.duplex with alarmed := s.duplex.alarmed.filter (· != p) } } false
  else s

/-- A quiet symbol's measurements (R202): `rx` are the FFT outputs, in a FLEX symbol after cancellation. -/
def State.quietTick (s : State) (e : Nat) (rx : List (Nat × Nat × Cplx)) : State :=
  let kinds := s.quietKinds e
  allPaths.foldl (fun s p =>
    let c := courseOf p
    if s.rxHeldOff p || !s.rxSymbol c e then s
    else if kinds.contains false ∧ s.mark c e = 2 then
      s.subbands.foldl (fun s x =>
        let k := 8 * p + x.1
        { s with duplex := { s.duplex with noise := tins k ((s.subbandPower rx p x :: tget [] k s.duplex.noise).take 8) s.duplex.noise } }) s
    else if kinds.contains true ∧ s.flexReceives p e then
      let rises := s.subbands.filterMap (fun x =>
        let l := tget [] (8 * p + x.1) s.duplex.noise
        if l.isEmpty then none else some (ratioDb ((s.subbandPower rx p x).1 * l.length) (l.map (·.1)).sum))
      if rises.isEmpty then s
      else
        let rise : Int := rises.foldl (fun (a x : Int) => a + x) 0 / rises.length
        (s.wrI 16 Ix.DuplexNoiseRise (p + 1) rise).judgeNoise p rise
    else s) s

/-- At a slot boundary the noise-rise action follows the alarms and `DuplexFailAction` (R202). -/
def State.noiseAtSlot (s : State) : State :=
  let z := if s.rd Ix.DuplexFailAction 0 = 1 then s.duplex.alarmed else []
  let s := { s with duplex := { s.duplex with zeroed := z } }
  allPaths.foldl (fun s p => s.wrBit Ix.CancelStatus (p + 1) 4 (z.contains p)) s

/-! Tracking (R203) -/

/-- Σ|d|² of coefficients. -/
def normSq (l : List Cplx) : Nat := (l.map cpow).sum

/-- The coefficients d of a path and subband in a set. -/
def coefsOf (t : Tab Byte) (p sb : Nat) : List Cplx :=
  (List.range 256).map (fun i => cplxOf (copyField t (4608 + 4 * ((8 * p + sb) * 256 + i)) 4))

/-- The list of R178 as quarters of 1/16: numerators over 64. -/
def alphas : List Nat := [64, 48, 32, 16, 8, 4, 2, 1]

/-- The edge a step to new coefficients meets: 0, or MIN, MAX, STEP (R203). -/
def State.trackEdge (s : State) (p : Nat) (trained old new : List Cplx) : Nat :=
  let db := ratioDb (normSq new) (normSq trained)
  let most : Nat := s.rd Ix.CancelStepMax (p + 1)
  let step : Nat := normSq ((new.zip old).map (fun x => (⟨x.1.re - x.2.re, x.1.im - x.2.im⟩ : Cplx)))
  if db < s.rdI 16 Ix.CancelNormMin (p + 1) then 1
  else if s.rdI 16 Ix.CancelNormMax (p + 1) < db then 2
  else if most * most * normSq old < step * 1073741824 then 3
  else 0

/-- d + α (d′ − d), truncated, with α in 64ths. -/
def trackMove (a : Nat) (old new : List Cplx) : List Cplx :=
  (old.zip new).map (fun x => ⟨x.1.re + a * (x.2.re - x.1.re) / 64, x.1.im + a * (x.2.im - x.1.im) / 64⟩)

/-- Is tracking of a path frozen: calibration (R197), the muted paths of a safety action (R185), a fault? -/
def State.trackFrozen (s : State) (p : Nat) : Bool :=
  s.duplex.calStale.contains p || s.mode != 5 || s.rxHeldOff p || s.bias.clears != 0

/-- CANCEL_TRACK_READY (R203): the solve for the course in turn ends; its corridor-limited coefficients are committed internally. -/
def State.trackReady (s : State) (solves : List TrackSolve) : State :=
  if s.rd Ix.CancelAdapt 0 ≠ 1 ∨ s.setInService.isNone then s
  else
    let c := s.duplex.nextCourse
    let s := { s with duplex := { s.duplex with nextCourse := (c + 1) % 4 } }
    let r := (solves.filter (fun x => courseOf x.path == c && decide (x.subband < 8) && x.coefs.length == 256 && !s.trackFrozen x.path)).filterMap
      (fun x =>
        let old := coefsOf s.duplex.current x.path x.subband
        let trained := coefsOf s.duplex.trained x.path x.subband
        match alphas.find? (fun a => s.trackEdge x.path trained old (trackMove a old x.coefs) == 0) with
        | none => none
        | some a =>
          let edge := if a = 64 then 0 else s.trackEdge x.path trained old x.coefs
          some (x, trackMove a old x.coefs, edge))
    let bytes := r.flatMap (fun x =>
      (x.2.1.flatMap cplxBytes).zipIdx.map (fun b => (4608 + 1024 * (8 * x.1.path + x.1.subband) + b.2, b.1)))
    let edges := r.foldl (fun (t : Tab Nat) x => tins x.1.path (max x.2.2 (tget 0 x.1.path t)) t) []
    { s with duplex := { s.duplex with due := some ⟨s.linTarget, s.duplex.seq, bytes, edges⟩ } }

/-- At its epoch a tracking update comes into force, unless the set in force has changed in between (R179, R203). -/
def State.trackAtTick (s : State) : State :=
  match s.duplex.due with
  | none => s
  | some d =>
    if d.target ≠ s.epoch then s
    else
      let s := { s with duplex := { s.duplex with due := none } }
      if d.base ≠ s.duplex.seq ∨ s.rd Ix.CancelAdapt 0 ≠ 1 then s
      else
        let cur := (d.bytes.filter (fun b => !s.trackFrozen ((b.1 - 4608) / 8192))).foldl (fun t b => tput 0 b.1 b.2 t) s.duplex.current
        let s := { s with duplex := { s.duplex with current := cur, seq := s.duplex.seq + 1 } }
        (d.edges.filter (fun x => !s.trackFrozen x.1)).foldl (fun s x => s.loopAt x.1 5 x.2) s

end Sys2Proof.Machine
end

