-- ==== Sys2Proof/Machine/Spe.lean ====
section
/-! DEFINITION. The Sync Packet Engine: states, the packet format, sends, reception, capture of overlapping packets, diversity and
SYNP (R205 to R229). -/
namespace Sys2Proof.Machine

/-! Format (R210 to R214) -/

/-- The transform size N. -/
def State.speN (s : State) : Nat := if s.rdBit Ix.SpeFormat 0 2 then 128 else 64

/-- One sample in units: 7.68, 15.36 or 30.72 MS/s. -/
def State.speSample (s : State) : Nat := 400000 / 2 ^ min 2 (s.rd Ix.SpeFormat 0 % 4)

/-- T_S in units: 1.25 N samples. -/
def State.speTs (s : State) : Nat := s.speN * 5 / 4 * s.speSample

/-- The used subcarriers (Table 9.4). -/
def speUsed (n : Nat) : List Int :=
  let h : Nat := if n = 64 then 18 else 37
  ((List.range (2 * h + 1)).map (fun (i : Nat) => (i : Int) - h)).filter (· != 0)

/-- Is a subcarrier a pilot? -/
def spePilot (n : Nat) (k : Int) : Bool :=
  if n = 64 then k.natAbs == 6 || k.natAbs == 15 else k.natAbs == 5 || k.natAbs == 18 || k.natAbs == 31

/-- The data subcarriers in their order. -/
def speData (n : Nat) : List Int := (speUsed n).filter (fun k => !spePilot n k)

/-- Data subcarriers D. -/
def speD (n : Nat) : Nat := if n = 64 then 32 else 68

/-- Bits per subcarrier of a modulation. -/
def speBits (mod : Nat) : Nat := if mod = 0 then 1 else if mod = 1 then 2 else 4

/-- Payload symbols P (R214). -/
def speSymbols (n mod len : Nat) : Nat := if len = 0 then 0 else ceilDiv (8 * (len + 4)) (speD n * speBits mod)

/-- Samples of a packet (R211). -/
def spePacketSamples (n mod len : Nat) : Nat := 15 * n / 2 + 5 * n / 4 * speSymbols n mod len

/-- A CRC over bits, most significant first: width, polynomial, initial value. -/
def crcBits (w poly init : Nat) (l : List Bool) : Nat :=
  l.foldl (fun c b => let top := bitAt c (w - 1) != b; (if top then (2 * c % 2 ^ w) ^^^ poly else 2 * c % 2 ^ w)) init

/-- The header's CRC-16 over bits [31:16] (R213). -/
def speHeaderCrc (top16 : Nat) : Nat := crcBits 16 0x1021 0xFFFF (bitsOfNat 16 top16)

/-- The header word (Table 9.6). -/
def speHeader (len typ mod : Nat) : Nat :=
  let t := len * 32 + typ * 4 + mod
  t * 65536 + speHeaderCrc t

/-- The payload's CRC-32 (R214). -/
def speCrc32 (l : List Byte) : Nat := 0xFFFFFFFF - crcBits 32 0x04C11DB7 0xFFFFFFFF (bitsMsb l)

/-- A constellation point of R214 before its scale. -/
def spePoint (mod : Nat) (b : List Bool) : Int × Int :=
  let one := fun (x : Bool) => if x then (-1 : Int) else 1
  let pair := fun (x y : Bool) => match x, y with
    | false, false => (-3 : Int)
    | false, true => -1
    | true, true => 1
    | true, false => 3
  match mod, b with
  | 0, x :: _ => (one x, 0)
  | 1, x :: y :: _ => (one x, one y)
  | _, x :: y :: z :: w :: _ => (pair x y, pair z w)
  | _, _ => (0, 0)

/-- Bits cut into groups of `n`, the last padded with zeros (R214). -/
def groupBits (n : Nat) : Nat → List Bool → List (List Bool)
  | 0, _ => []
  | fuel + 1, l =>
    if l.isEmpty then []
    else (l.take n ++ List.replicate (n - min n l.length) false) :: groupBits n fuel (l.drop n)

/-- One symbol of a packet: its points on the data subcarriers, +1 on the pilots. -/
def speSymbol (n : Nat) (points : List (Int × Int)) : List (Int × Int × Int) :=
  ((speData n).zipIdx.map (fun c => (c.1, points.getD c.2 (0, 0)))) ++ ((speUsed n).filter (spePilot n)).map (fun k => (k, 1, 0))

/-- A sync or header symbol: bit 31 − (d mod 32) on data subcarrier d, BPSK (R213). -/
def speWordSymbol (n w : Nat) : List (Int × Int × Int) :=
  speSymbol n ((List.range (speD n)).map (fun d => spePoint 0 [bitAt w (31 - d % 32)]))

/-- The symbols of a packet after the training fields (R211, R213, R214). -/
def speFrame (n sync len typ mod : Nat) (payload : List Byte) : List (List (Int × Int × Int)) :=
  let bits := if len = 0 then [] else bitsMsb payload ++ bitsOfNat 32 (speCrc32 payload)
  let per := speBits mod * speD n
  let body := (groupBits per (bits.length + 1) bits).map (fun sym =>
    speSymbol n ((groupBits (speBits mod) (sym.length + 1) sym).map (spePoint mod)))
  [speWordSymbol n sync, speWordSymbol n (speHeader len typ mod)] ++ body

/-- The training signals' phases as a fraction of a turn, numerator and denominator (R212): −i² / 2U_S on the short training
subcarriers, −k² / 2U on the long ones. -/
def speShortPhase (n i : Nat) : Int × Nat := (-(i * i : Nat), 2 * (if n = 64 then 8 else 18))
def speLongPhase (n : Nat) (k : Int) : Int × Nat := (-(k * k), 2 * (if n = 64 then 36 else 74))

/-! Timestamps (R218) -/

/-- The TIMESTAMP of an instant at or after the tick of epoch `e`, walking forward. -/
def State.stampFrom (s : State) (t : Nat) : Nat → Nat → Nat
  | 0, e => e * 2 ^ 28 + (t - s.tickOf e) / 3072
  | fuel + 1, e => if s.tickOf (s.nextEpoch e) ≤ t then s.stampFrom t fuel (s.nextEpoch e) else e * 2 ^ 28 + (t - s.tickOf e) / 3072

/-- Is a TIMESTAMP valid: its epoch is, and its nanoseconds lie within it? -/
def State.stampOk (s : State) (v : Nat) : Bool :=
  let e := epochOfEntry v
  s.epochOk v && decide (nsec (v % 2 ^ 28) < symbolUnits (s.numerologyAt e) e) && !s.beyondLimit e

/-! States (R205, R215, R216) -/

def State.setSpe (s : State) (v : SpeSys) : State := { s with spe := v }

/-- The state of Table 9.7. -/
def State.speState (s : State) : Nat := s.rd Ix.SpeState 0

/-- Is the SPE under calibration's lease? -/
def State.speByCal (s : State) : Bool :=
  match s.leaseOf 0x300 with
  | some l => l.owner == s.functionOwner 1
  | none => false

/-- May the SPE run (Table 9.1)? -/
def State.speAllowed (s : State) : Bool :=
  s.rdB Ix.SpeEnable 0 && !s.rdBit Ix.BlockResetOther 0 2 && !s.therm.latched &&
    (s.mode == 2 || windowMode s.mode || (s.mode == 3 && s.speByCal))

/-- Count in `SpeCounters`. -/
def State.speCount (s : State) (k : Nat) : State := s.bump Ix.SpeCounters k

/-- The path reception uses: the main path, or in diversity the alternate listened to (R207, R208). -/
def State.spePathNow (s : State) : Nat := if s.spe.diversity then s.rd Ix.SpeAltPath (s.spe.alt + 1) else s.rd Ix.SpeMainPath 0

/-- At a packet boundary the SPE enters or leaves diversity as the main path's `MismatchFlag` says: SPE_DIVERSITY (R207). -/
def State.speDiversity (s : State) : State :=
  let flag := s.rdB Ix.MismatchFlag (s.rd Ix.SpeMainPath 0 + 1)
  if flag = s.spe.diversity then s
  else
    let s := s.setSpe { s.spe with diversity := flag, lastAlt := none, alt := 0, dwellAt := s.now }
    let p := s.spePathNow
    (s.wr Ix.SpeAntennaInUse 0 p).raise 0x4407 0 (packData [f8 p, fFlag flag])

/-- The SPE goes to its return state (R216). -/
def State.speReturn (s : State) : State :=
  let s := (s.wr Ix.SpeState 0 (s.rd Ix.SpeReturnState 0)).speDiversity
  s.wr Ix.SpeAntennaInUse 0 s.spePathNow

/-! Lost packets (R228, R229) -/

/-- SPE_MISSED at most once per frame per reason (R229): counts kept since the last report. -/
def State.speMissed (s : State) (reason : Nat) : State :=
  let n := tget 0 reason s.spe.missed + 1
  let s := s.setSpe { s.spe with missed := tput 0 reason n s.spe.missed }
  if tget 0 reason s.spe.missedFrame = 1 then s
  else
    let s := s.setSpe { s.spe with missed := tput 0 reason 0 s.spe.missed, missedFrame := tput 0 reason 1 s.spe.missedFrame }
    s.raise 0x4405 0 (packData [f8 reason, fCount n])

/-- At a frame start the marks of the frame before go, and counts it held back are reported. -/
def State.speFrameStart (s : State) : State :=
  let left := s.spe.missed
  let s := s.setSpe { s.spe with missed := [], missedFrame := left.map (fun c => (c.1, 1)) }
  left.foldl (fun s c => s.raise 0x4405 0 (packData [f8 c.1, fCount c.2])) s

/-! Records (R226) -/

/-- The receive slot record (Table 9.10). -/
def State.speRecord (s : State) (r : SpeRecv) (status stored : Nat) : List Byte :=
  let w := r.header.getD 0
  leBytes 1 status ++ leBytes 1 (bitsOf w 20 18 * 4 + bitsOf w 17 16) ++ leBytes 2 (bitsOf w 31 21) ++ leBytes 2 stored
    ++ leBytes 1 r.path ++ leBytes 1 (2 * b2n r.incomplete + b2n r.diversity) ++ leBytes 8 r.stamp ++ leBytes 2 (ofInt 16 r.rssi)
    ++ leBytes 2 (ofInt 16 r.det.metric) ++ leBytes 4 (ofInt 32 r.cfo) ++ leBytes 4 ((s.spe.written + 1) % 2 ^ 32)
    ++ List.replicate 36 0

/-- A reception with a valid header is recorded: in the next free slot, or with calibration, or lost with RING_FULL (R226). -/
def State.speStore (s : State) (r : SpeRecv) (status : Nat) (payload : List Byte) : State :=
  let s := if r.diversity then s.setSpe { s.spe with lastAlt := some (if r.path = s.rd Ix.SpeAltPath 1 then 0 else 1) } else s
  let rec_ := s.speRecord r status payload.length
  if s.speByCal then s.setSpe { s.spe with calPackets := s.spe.calPackets ++ [rec_ ++ payload] }
  else
    match ((List.range 8).map (fun k => (s.spe.lastSlot + 1 + k) % 8)).find? (fun k => !s.rdBit Ix.SpeRxPending 0 k) with
    | none => (s.speCount 0x0B).speMissed 3
    | some k =>
      let s := (s.ownBytes (spe_Base + 0x1000 * k) rec_).ownBytes (spe_Base + 0x1000 * k + 0x40) payload
      let s := (s.setSpe { s.spe with lastSlot := k, written := s.spe.written + 1 }).wrBit Ix.SpeRxPending 0 k true
      s.raise 0x4401 0 (packData [f8 k, f8 status, f16 (bitsOf (r.header.getD 0) 31 21)])

/-- A reception ends without its packet (R218, R224, R228): status 3 CAPTURED or 4 PREEMPTED, recorded where its header was valid. -/
def State.speAbandonRecv (s : State) (status : Nat) : State :=
  match s.spe.recv with
  | none => s
  | some r =>
    let s := (s.setSpe { s.spe with recv := none }).speCount (if status = 3 then 6 else 0x0A)
    if r.header.isSome then s.speStore r status [] else s

/-- A detection ends as false (R229): the candidate is received from its stored samples, or is lost with MISSED_OVERLAP. -/
def State.speFalse (s : State) : State :=
  match s.spe.recv, s.spe.cand with
  | some r, some c =>
    let s := s.setSpe { s.spe with cand := none, recv := none }
    if s.now ≤ c.syncAt then s.setSpe { s.spe with recv := some ⟨c, r.path, r.diversity, r.incomplete, false, 0, 0, 0, none⟩ }
    else (s.speCount 8).speMissed 1
  | some _, none => s.setSpe { s.spe with recv := none }
  | none, _ => s

/-- A packet ends with its record (R216, R224, R226, R228). -/
def State.speComplete (s : State) (r : SpeRecv) (status : Nat) (payload : List Byte) (accepted : Bool) : State :=
  let cand := s.spe.cand
  let s := s.setSpe { s.spe with recv := none, cand := none }
  let s := s.speCount (match status with
    | 0 => 1
    | 1 => 2
    | _ => 5)
  let s := s.speStore r status payload
  let ppb := r.cfo * 1000000 / max 1 (s.rd Ix.SpeFrequency 0)
  let s := if accepted then s.wrI 32 Ix.SpeCfoPpb 0 ppb else s
  let s := if accepted && s.rdB Ix.SpeCfoFollow 0 then s.setSpe { s.spe with move := some (s.now + usec 1, ppb) } else s
  let s := s.speReturn
  match cand with
  | none => s
  | some c =>
    if c.syncAt < s.now then (s.speCount 9).speMissed 2
    else if s.speState = 2 then
      s.setSpe { s.spe with recv := some ⟨c, s.spePathNow, s.spe.diversity, false, false, 0, 0, 0, none⟩ }
    else s

/-! Sends (R217 to R220) -/

/-- The end of a send: the entry that shows it clears. -/
def State.speDropSend (s : State) : State := (s.setSpe { s.spe with send := none, air := [] }).wr Ix.SpeTxScheduled 0 0

/-- SPE_TX_ABORT (R220): 1 POISON, 2 CANCELLED, 3 MODE; a send on the air ramps down at once. -/
def State.speAbort (s : State) (reason : Nat) : State :=
  match s.spe.send with
  | none => s
  | some t =>
    let s := s.speDropSend.raise 0x4404 0 (packData [f8 t.buffer, f8 reason])
    if t.phase = 0 then s else s.speReturn

/-- Start and finish of the interval from TXEN rise to TXEN fall (R206, R218). -/
def State.speSpan (s : State) (start finish : Nat) : Nat × Nat :=
  let c := courseOf (s.rd Ix.SpeMainPath 0)
  (start - usec 2 - nsec (s.rd Ix.TxEnLead (c + 1)), finish + usec 2 + nsec (s.rd Ix.TxEnLag (c + 1)))

/-- The window occurrences that claim a symbol: record and absolute slot (R209). -/
def State.speOccurrences (s : State) (e : Nat) : List (Nat × Nat) :=
  let d := s.domVal Ix.SpeWindows 0
  let total := 1024 * slotsPerFrame (s.rd Ix.Numerology 0)
  (List.range 8).flatMap (fun r =>
    if !bitAt (fieldLE d (16 * r) 1) 7 then []
    else (List.range 3).filterMap (fun b =>
      let slot := (s.absSlot e + total - b) % total
      let pos := 14 * b + epSym e
      if slot % max 1 (fieldLE d (16 * r + 4) 2) = fieldLE d (16 * r + 6) 2 ∧ fieldLE d (16 * r + 1) 1 ≤ pos
          ∧ pos < fieldLE d (16 * r + 1) 1 + fieldLE d (16 * r + 2) 1 then some (r, slot) else none))

/-- The occurrences among `l` that also claim every later symbol that starts before an instant. -/
def State.speCovered (s : State) (until_ : Nat) : Nat → Nat → List (Nat × Nat) → List (Nat × Nat)
  | 0, _, l => l
  | fuel + 1, e, l =>
    let n := s.nextEpoch e
    if until_ ≤ s.tickOf n then l else s.speCovered until_ fuel n (l.filter (s.speOccurrences n).contains)

/-- Does an interval lie wholly inside the symbols of one window occurrence (R217)? `e` is the epoch of its first sample. -/
def State.speFits (s : State) (e rise fall : Nat) : Bool :=
  let first := if rise < s.tickOf e then s.prevEpoch e else e
  !(s.speCovered fall 300 first (s.speOccurrences first)).isEmpty

/-- The epoch of a slot counted from era 0. -/
def State.slotEpoch (s : State) (lin : Nat) : Nat :=
  let spf := slotsPerFrame (s.rd Ix.Numerology 0)
  mkEpoch (lin / spf / 1024) (lin / spf % 1024) (lin % spf) 0

/-- The earliest start of an untimed send of a length (R217): 20 µs after arrival, in a window mode in the first window occurrence
into which it fits; with the epoch to count from. -/
def State.speEarliest (s : State) (len : Nat) : Option (Nat × Nat) :=
  let at_ := s.now + usec 20
  if !windowMode s.mode then some (at_, s.epoch)
  else
    let d := s.domVal Ix.SpeWindows 0
    let spf := slotsPerFrame (s.rd Ix.Numerology 0)
    let lin := (epEra s.epoch * 1024 + epFrame s.epoch) * spf + epSlot s.epoch
    let span := s.speSpan (usec 1000) (usec 1000)
    let before := usec 1000 - span.1
    let after := span.2 - usec 1000
    let found := (List.range 8).flatMap (fun r =>
      if !bitAt (fieldLE d (16 * r) 1) 7 then []
      else
        let period := max 1 (fieldLE d (16 * r + 4) 2)
        let base := lin - lin % period + fieldLE d (16 * r + 6) 2
        ([base - period, base, base + period, base + 2 * period].filter (fun x => decide (lin ≤ x + 2))).filterMap (fun x =>
          let e0 := s.addEpochs (fieldLE d (16 * r + 1) 1) (s.slotEpoch x)
          let e1 := s.addEpochs (fieldLE d (16 * r + 2) 1) e0
          let from_ := max (s.tickOf e0 + before) at_
          if epLe s.epoch e1 && decide (from_ + len + after ≤ s.tickOf e1) then some (from_, if epLe s.epoch e0 then e0 else s.epoch)
          else none))
    found.foldl (fun (b : Option (Nat × Nat)) x => match b with
      | some y => if x.1 < y.1 then some x else b
      | none => some x) none

/-- `SpeTxSend` (R217). -/
def State.speTxSend (s : State) (rec : List Byte) : Res :=
  let flags := fieldLE rec 0 1
  let typ := fieldLE rec 1 1
  let mod := fieldLE rec 2 1
  let len := fieldLE rec 4 2
  let startV := fieldLE rec 8 8
  let timed := bitAt flags 7
  let span := spePacketSamples s.speN mod len * s.speSample
  let tick := s.tickOf (epochOfEntry startV) + nsec (startV % 2 ^ 28)
  let sync := 5 * s.speN * s.speSample
  if s.speState = 0 ∨ s.mode = 7 ∨ s.spe.send.isSome then .error s.stateAbort
  else if 7 < typ then .error (rangeAt 1)
  else if 2 < mod then .error (rangeAt 2)
  else if 2047 < len then .error (rangeAt 4)
  else if timed && !s.stampOk startV then .error (rangeAt 8)
  else if !timed && startV != 0 then .error (rangeAt 8)
  else
    let past := timed && (!epLe s.epoch (epochOfEntry startV) || decide (tick < s.now + usec 20))
    let fits := fun (start e : Nat) => let w := s.speSpan start (start + span); s.speFits e w.1 w.2
    if timed && windowMode s.mode && epLe s.epoch (epochOfEntry startV) && !fits tick (epochOfEntry startV) then .error (rangeAt 8)
    else if past then .error ⟨abLate, 0⟩
    else
      match s.leaseOf 0x300 with
      | some l => .error (leaseAbort l.owner)
      | none =>
        let go := fun (start e : Nat) (shown : Nat) =>
          let t : SpeSend := { buffer := flags % 4, typ := typ, mod := mod, length := len, start := start, finish := start + span,
                               stamp := s.stampFrom (start + sync) 600 e }
          Except.ok ((s.setSpe { s.spe with send := some t }).wr Ix.SpeTxScheduled 0 shown)
        if timed then go tick (epochOfEntry startV) startV
        else match s.speEarliest span with
          | some (start, e) => go start e (s.stampFrom start 600 e)
          | none => .error (rangeAt 8)

/-- `SpeTxCancel` (R220). -/
def State.speTxCancel (s : State) (v : Nat) : Res := .ok (if v = 1 then s.speAbort 2 else s)

/-- `SpeRxRelease` (R226). -/
def State.speRxRelease (s : State) (v : Nat) : Res :=
  if v = 0xFF then .ok (s.wr Ix.SpeRxPending 0 0)
  else if v < 8 then .ok (s.wrBit Ix.SpeRxPending 0 v false)
  else .error (rangeAt 0)

/-- SPE_TX_READY (R218): 1 µs before the ramp start the SPE enters TX-READY; a reception is abandoned with PREEMPTED. -/
def State.speTxReady (s : State) : State :=
  match s.spe.send with
  | some t =>
    if t.phase = 0 ∧ t.start ≤ s.now + usec 3 then
      let s := s.speAbandonRecv 4
      (s.setSpe { s.spe with send := some { t with phase := 1 }, cand := none }).wr Ix.SpeState 0 3
    else s
  | none => s

/-- Is SYNP locked and settled? -/
def State.synpLocked (s : State) : Bool := s.spe.locked && decide (s.spe.settleUntil ≤ s.now)

/-- The path a transmission uses (R207). -/
def State.speTxPath (s : State) : Nat :=
  if s.spe.diversity then s.rd Ix.SpeAltPath (s.spe.lastAlt.getD 0 + 1) else s.rd Ix.SpeMainPath 0

/-- SPE_TX_START (R206, R207, R218, R219): at the air time the SPE ramps up and sends; with SYNP unlocked the packet is muted and
counted; a poisoned word of the buffer abandons it. -/
def State.speTxStart (s : State) : State :=
  match s.spe.send with
  | some t =>
    if t.phase ≠ 1 ∨ s.now + usec 2 < t.start then s
    else
      let s := s.speDiversity
      let p := s.speTxPath
      let a := spe_Base + 0x8000 + 0x800 * t.buffer
      let s := (s.settle a t.length).wr Ix.SpeAntennaInUse 0 p
      match s.firstPoison a t.length with
      | some w => (s.consumePoison w).speAbort 1
      | none =>
        let muted := !s.synpLocked
        let air := if muted then [] else speFrame s.speN (s.rd Ix.SpeSyncWord 0) t.length t.typ t.mod (s.bytesAt a t.length)
        let s := (s.setSpe { s.spe with send := some { t with phase := 2, path := p, muted := muted }, air := air }).wr Ix.SpeState 0 4
        if muted then (s.speCount 0x0D).raise 0x4403 0 (packData [f8 t.buffer]) else s
  | none => s

/-- SPE_TX_DONE (R219, R220): at the end of the ramp-down the timestamp is latched and the SPE goes to its return state. -/
def State.speTxDone (s : State) : State :=
  match s.spe.send with
  | some t =>
    if t.phase ≠ 2 ∨ s.now < t.finish + usec 2 then s
    else
      let s := s.speDropSend
      let s := if t.muted then s
        else ((s.wr Ix.SpeLastTxTimestamp 0 t.stamp).speCount 0x0C).raise 0x4402 0 (packData [f8 t.buffer])
      s.speReturn
  | none => s

/-! Reception (R208, R221 to R229) -/

/-- SPE_DIVERSITY_DWELL (R208): after three short training symbols an armed receiver in diversity turns to the other alternate. -/
def State.speDwell (s : State) : State :=
  if s.speState = 2 ∧ s.spe.diversity ∧ s.spe.recv.isNone ∧ s.elapsed s.spe.dwellAt (3 * s.speN / 4 * s.speSample) then
    let s := s.setSpe { s.spe with alt := 1 - s.spe.alt, dwellAt := s.now }
    s.wr Ix.SpeAntennaInUse 0 s.spePathNow
  else s

/-- The path and marks of a new reception (R208): in diversity the stronger alternate, where the two measurements end before the long
training field begins. -/
def State.speSelect (s : State) (d : SpeDetect) : Bool × State :=
  if !s.spe.diversity then (false, s)
  else if 2 * (d.into + s.speN / 2) ≤ 5 * s.speN then
    (false, if d.energyHere < d.energyOther then s.setSpe { s.spe with alt := 1 - s.spe.alt } else s)
  else (true, s)

/-- The receiver starts on a detection. -/
def State.speStart (s : State) (det : SpeDetection) (d : SpeDetect) : State :=
  let r := s.speSelect d
  let s := r.2.wr Ix.SpeAntennaInUse 0 r.2.spePathNow
  s.setSpe { s.spe with recv := some ⟨det, s.spePathNow, s.spe.diversity, r.1, false, 0, 0, 0, none⟩, cand := none }

/-- The end of a detection's sync window. -/
def State.speWindowEnd (s : State) (at_ : Nat) : Nat := at_ + s.rd Ix.SpeSyncWindow 0 * s.speTs

/-- SPE_DETECT (R221, R227, R228): a detection starts a reception, captures the receiver, or becomes the candidate; outside its
windows the SPE has no antenna (R209). -/
def State.speDetect (s : State) (d : SpeDetect) : State :=
  if s.speState ≠ 2 ∨ (windowMode s.mode && !s.inSpeWindow s.epoch) then s
  else
    let det : SpeDetection := { at_ := s.now, metric := d.metric, syncAt := s.now + (5 * s.speN - d.into) * s.speSample }
    match s.spe.recv with
    | none => s.speStart det d
    | some r =>
      let strong := decide (r.det.metric + (s.rd Ix.SpeCaptureMargin 0 : Int) ≤ d.metric)
      if !r.synced && strong then (s.speCount 7).speStart det d
      else if r.synced && s.rdB Ix.SpeLateCapture 0 && strong then (s.speAbandonRecv 3).speStart det d
      else
        let take := match s.spe.cand with
          | some c => decide (c.metric < d.metric) || decide (s.speWindowEnd c.at_ ≤ s.now)
          | none => true
        if take then s.setSpe { s.spe with cand := some det } else s

/-- Bits in which two words differ. -/
def bitErrors (a b : Nat) : Nat := ((List.range 32).filter (fun i => bitAt a i != bitAt b i)).length

/-- SPE_SYNC (R222, R223): within its window the sync word is found, in all but `SpeSyncErrors` bits, and the instant, the strength
and the carrier offset are latched. -/
def State.speSync (s : State) (f : SpeSyncFound) : State :=
  match s.spe.recv with
  | some r =>
    if s.speState = 2 ∧ r.synced = false ∧ s.now ≤ s.speWindowEnd r.det.at_ + s.speTs
        ∧ bitErrors f.word (s.rd Ix.SpeSyncWord 0) ≤ s.rd Ix.SpeSyncErrors 0 then
      s.setSpe { s.spe with recv := some { r with synced := true, stamp := f.stamp % 2 ^ 64, rssi := f.rssi, cfo := f.cfo } }
    else s
  | none => s

/-- SPE_SYNC_WINDOW_EXPIRY (R222, R229): no sync word within the window: the detection ends as false. -/
def State.speSyncExpiry (s : State) : State :=
  match s.spe.recv with
  | some r => if r.synced = false ∧ s.speWindowEnd r.det.at_ ≤ s.now then (s.speCount 4).speFalse else s
  | none => s

/-- SPE_HEADER (R225): a bad CRC or MOD 0b11 ends the detection as false; a packet of length 0 is complete. -/
def State.speHeaderIn (s : State) (w : Nat) : State :=
  match s.spe.recv with
  | some r =>
    if !r.synced || r.header.isSome then s
    else if w % 65536 ≠ speHeaderCrc (bitsOf w 31 16) ∨ bitsOf w 17 16 = 3 then (s.speCount 3).speFalse
    else
      let r := { r with header := some (w % 2 ^ 32) }
      if bitsOf w 31 21 = 0 then s.speComplete r 0 [] true else s.setSpe { s.spe with recv := some r }
  | none => s

/-- SPE_RX (R225, R226): a packet with a payload ends; its bytes and CRC-32 as received, of which no more than the buffer is kept. -/
def State.speRx (s : State) (payload : List Byte) (crc : Nat) : State :=
  match s.spe.recv with
  | some r =>
    match r.header with
    | none => s
    | some w =>
      let len := bitsOf w 31 21
      let room := s.rd Ix.SpeRxBufferSize 0
      if room < len then s.speComplete r 2 (sliceBytes payload 0 room) false
      else
        let body := sliceBytes payload 0 len
        let ok := crc == speCrc32 body
        s.speComplete r (if ok then 0 else 1) body ok
  | none => s

/-! SYNP (R215, R224) -/

/-- SPE_CFO_MOVE (R224): 1 µs after an accepted packet SYNP moves within its limits and counts as unlocked for 4 µs. -/
def State.speCfoMove (s : State) : State :=
  match s.spe.move with
  | some (t, ppb) =>
    if s.now < t then s
    else
      let step : Int := s.rd Ix.SpeCfoStepMax 0
      let range : Int := s.rd Ix.SpeCfoRange 0
      let was := s.rdI 32 Ix.SpeCfoApplied 0
      let moved := clampInt (-step) step ppb
      let total := clampInt (-range) range (was + moved)
      let s := s.setSpe { s.spe with move := none, settleUntil := s.now + usec 4 }
      let s := s.wrI 32 Ix.SpeCfoApplied 0 total
      if total ≠ was + ppb then s.raise 0x4406 0 (packData [fI32 total]) else s
  | none => s

/-- SYNP_LOCK (R205, R215): SYNP locks; from OFF the SPE goes through IDLE to its return state. -/
def State.synpLock (s : State) : State :=
  match s.spe.lockSince with
  | some _ =>
    let s := s.setSpe { s.spe with locked := true, lockSince := none }
    if s.speState = 0 && s.speAllowed then s.speReturn else s
  | none => s

/-- SYNP relocks at a commit of `SpeFrequency` (R224). -/
def State.synpRelock (s : State) : State :=
  let recorded := s.spe.recv.any (fun r => r.header.isSome)
  let s := (s.speAbandonRecv 4).speAbort 3
  let s := if recorded then s.speReturn else s
  let s := s.wrI 32 Ix.SpeCfoApplied 0 0
  if s.speState = 0 then s else s.setSpe { s.spe with locked := false, lockSince := some s.now, move := none, cand := none }

/-- The SPE goes OFF: a send is abandoned with MODE, a reception with PREEMPTED (R205, R383). -/
def State.speOff (s : State) : State :=
  let s := (s.speAbandonRecv 4).speAbort 3
  (s.setSpe { s.spe with locked := false, lockSince := none, move := none, cand := none }).wr Ix.SpeState 0 0

/-- Does the preparation of Listen lock SYNP (Table 1.6)? -/
def State.speWarming (s : State) : Bool :=
  s.rdB Ix.SpeEnable 0 && !s.rdBit Ix.BlockResetOther 0 2 && !s.therm.latched && (match s.modes.underWay with
    | some t => t.target == .mode 2
    | none => false)

/-- SYNP starts to lock where it is not locked or locking. -/
def State.synpStart (s : State) : State :=
  if s.spe.locked || s.spe.lockSince.isSome then s else s.setSpe { s.spe with lockSince := some s.now }

/-- The SPE follows the mode and its enables (R205, R220): it starts to lock, goes OFF, or abandons a send no longer allowed. -/
def State.speFollow (s : State) : State :=
  if !s.speAllowed then
    if s.speWarming ∧ s.speState = 0 then s.synpStart
    else if s.speState = 0 ∧ s.spe.lockSince.isNone ∧ s.spe.locked = false then s
    else s.speOff
  else if s.speState = 0 then (if s.spe.locked then s.speReturn else s.synpStart)
  else
    match s.spe.send with
    | some t =>
      let w := s.speSpan t.start t.finish
      let outside := windowMode s.mode && decide (w.1 < s.tb.tickAt + symbolUnits (s.rd Ix.Numerology 0) s.epoch) && decide (s.tb.tickAt < w.2)
        && !s.inSpeWindow s.epoch
      if s.mode = 7 ∨ outside then s.speAbort 3 else s
    | none => s

/-- A commit of `SpeReturnState` moves an SPE that neither sends nor receives to it (R216). -/
def State.speReturnChanged (s : State) : State :=
  let still := s.spe.recv.isNone && (match s.spe.send with
    | some t => t.phase == 0
    | none => true)
  if s.speState ≠ 0 ∧ still then s.speReturn else s

/-- The SPE's lease ends otherwise than by release (Table 19.4). -/
def State.speLeaseEnds (s : State) : State :=
  let s := (s.speAbandonRecv 4).speAbort 3
  if s.speState = 0 then s else s.speReturn

/-- TXEN and RXEN of a path as the SPE drives them while it has the path (R206): never high together. -/
def State.speTxEn (s : State) (p : Nat) : Bool :=
  match s.spe.send with
  | some t =>
    let w := s.speSpan t.start t.finish
    decide (t.phase = 2) && t.path == p && decide (w.1 ≤ s.now) && decide (s.now < w.2)
  | none => false
def State.speRxEn (s : State) (p : Nat) : Bool := s.speState == 2 && s.spePathNow == p && !s.speTxEn p

end Sys2Proof.Machine
end

