-- ==== Sys2Proof/Machine/Cal.lean ====
section
/-! DEFINITION. Trims and calibration: runs, acceptance, the calibration set, corrections over temperature, rolling calibration and the
store in the boot flash (R230 to R252). -/
namespace Sys2Proof.Machine

/-! Trims (R230, R231) -/

/-- The CRC-32 of the trim shadow: over its words' bytes in the order of R7. -/
def trimCrcOf (l : List Nat) : Nat := 0xFFFFFFFF - crcBits 32 0x04C11DB7 0xFFFFFFFF (bitsMsb (l.flatMap (leBytes 4)))

/-- The trim load at a cold release: the fuses are copied into the shadow and checked; a second mismatch raises TRIM_FAIL. -/
def State.trimLoad (s : State) : State :=
  let s := { s with cal := { s.cal with shadow := s.fuse.trimWords, coldAt := s.now } }
  let crc := trimCrcOf s.cal.shadow
  let s := s.wr Ix.TrimCrc 0 crc
  if crc = s.fuse.trimCrc then s.wr Ix.TrimValid 0 1
  else (s.wr Ix.TrimValid 0 0).raise 0x4809 0 (packData [f32 s.fuse.trimCrc])

/-- Is the shadow as fused: does its CRC match? The CRC found is shown. -/
def State.trimCheck (s : State) : Bool × State :=
  let crc := trimCrcOf s.cal.shadow
  (crc == s.fuse.trimCrc, s.wr Ix.TrimCrc 0 crc)

/-! The set in the Archive (R244) -/

/-- The address of `CalSet`. -/
def State.calBase (s : State) : Nat := s.rd Ix.PartitionBase 5

/-- The offset of the block of a course's point, of a path's record in it, of a tile's observation record in it. -/
def blockOff (c i : Nat) : Nat := 256 + 2688 * (8 * c + i)
def recordOff (p i : Nat) : Nat := blockOff (courseOf p) i + 64 + 160 * (p % 16)
def obsOff (t i : Nat) : Nat := blockOff (t / 4) i + 2624 + 16 * (t % 4)

/-- A field of the set. -/
def State.calField (s : State) (off n : Nat) : Nat := s.numAt (s.calBase + off) n

/-- A 16-bit signed field. -/
def State.calI16 (s : State) (off : Nat) : Int := toInt 16 (s.calField off 2)

/-- Store bytes in the set. -/
def State.calPut (s : State) (off : Nat) (l : List Byte) : State := s.ownBytes (s.calBase + off) l

/-- Is a point valid, and its temperature in 0.1 °C? -/
def State.calValid (s : State) (c i : Nat) : Bool := s.calField (blockOff c i) 1 == 1
def State.calTemp (s : State) (c i : Nat) : Int := s.calI16 (blockOff c i + 2)

/-- The valid points of a course. -/
def State.calPoints (s : State) (c : Nat) : List Nat := (List.range 8).filter (s.calValid c)

/-- The set with identity corrections: its header, and no point valid. -/
def State.calIdentity (s : State) : State :=
  let s := s.zeroRange s.calBase 86272
  s.calPut 0 (leBytes 4 1 ++ leBytes 8 (s.rd Ix.DeviceIdentity 0))

/-- The offset of the first field of a `CalSet` value a COMMIT refuses: FORMAT, PROFILE, the identity, VALID and kinds of a point, the phases
and tap offsets of a path record (R244). -/
def State.calSetBad (s : State) (v : List Byte) : Option Nat :=
  let f := fun off n => fieldLE v off n
  let far := fun (off : Nat) (lim : Int) => let x := toInt 16 (f off 2); decide (x < -lim) || decide (lim < x)
  if f 0 1 ≠ 1 then some 0
  else if 1 < f 1 1 then some 1
  else if f 4 8 ≠ s.rd Ix.DeviceIdentity 0 then some 4
  else (List.range 4).findSome? (fun c => (List.range 8).findSome? (fun i =>
    let b := blockOff c i
    if 1 < f b 1 then some b
    else if 31 < f (b + 1) 1 then some (b + 1)
    else (List.range 16).findSome? (fun j =>
      let r := recordOff (16 * c + j) i
      if 31 < f (r + 22) 1 then some (r + 22)
      else
        let ph := [2, 6, 10, 14] ++ (List.range 31).map (fun (k : Nat) => 34 + 2 * k)
        match ph.find? (fun o => far (r + o) 18000) with
        | some o => some (r + o)
        | none => ((List.range 16).find? (fun (k : Nat) => far (r + 112 + 2 * k) 1024)).map (fun (k : Nat) => r + 112 + 2 * k))))

/-! Corrections in force (R246) -/

/-- The phase difference along the shorter arc, in 0.01°. -/
def arcDiff (d : Int) : Int := (d + 17999) % 36000 - 17999

/-- A phase brought into −180.00° to +179.99°. -/
def wrapPhase (x : Int) : Int := (x + 18000) % 36000 - 18000

/-- Insertion of a point by temperature, an equal one behind. -/
def insertPoint (x : Int × Nat) : List (Int × Nat) → List (Int × Nat)
  | [] => [x]
  | y :: t => if x.1 < y.1 then x :: y :: t else y :: insertPoint x t

/-- Points in order of temperature. -/
def sortPoints (l : List (Int × Nat)) : List (Int × Nat) := l.foldl (fun acc x => insertPoint x acc) []

/-- The points a temperature lies between, with the fraction of the way: twice the same point at and beyond an end. -/
def bracket (t : Int) : List (Int × Nat) → Option (Nat × Nat × Nat × Nat)
  | [] => none
  | [x] => some (x.2, x.2, 0, 1)
  | x :: y :: l =>
    if t ≤ x.1 then some (x.2, x.2, 0, 1)
    else if t < y.1 then some (x.2, y.2, (t - x.1).toNat, (y.1 - x.1).toNat)
    else bracket t (y :: l)

/-- The points that hold a kind for a path. -/
def State.kindPoints (s : State) (p kind : Nat) : List (Int × Nat) :=
  let c := courseOf p
  sortPoints (((s.calPoints c).filter (fun i => s.calField (recordOff p i + 22) 1 / kind % 2 == 1)).map (fun i => (s.calTemp c i, i)))

/-- A number between two, and a phase between two, a fraction n / d of the way, truncated. -/
def between (a b : Int) (n d : Nat) : Int := a + (b - a) * n / (d : Int)
def phaseBetween (a b : Int) (n d : Nat) : Int := wrapPhase (a + arcDiff (b - a) * n / (d : Int))

/-- A 16-bit number as bytes, saturated. -/
def i16Bytes (x : Int) : List Byte := leBytes 2 (ofInt 16 (clampInt (-32768) 32767 x))

/-- Bytes 0 to 21 and 34 to 95 of a path's corrections for kind 0x01, from its points i and j, as patches. -/
def State.corrPath (s : State) (p i j n d : Nat) : List (Nat × List Byte) :=
  let a := recordOff p i
  let b := recordOff p j
  let near := if 2 * n ≤ d then a else b
  let gain := fun (o : Nat) => (o, i16Bytes (between (s.calI16 (a + o)) (s.calI16 (b + o)) n d))
  let phase := fun (o : Nat) => (o, i16Bytes (phaseBetween (s.calI16 (a + o)) (s.calI16 (b + o)) n d))
  [gain 0, phase 2, gain 4, phase 6, gain 8, phase 10, gain 12, phase 14, gain 16, gain 18,
    (20, s.bytesAt (s.calBase + near + 20) 2)] ++ (List.range 31).map (fun (k : Nat) => phase (34 + 2 * k))

/-- Delays and tap offsets for kind 0x02. -/
def State.corrDelay (s : State) (p i j n d : Nat) : List (Nat × List Byte) :=
  let a := recordOff p i
  let b := recordOff p j
  let near := if 2 * n ≤ d then a else b
  let delay := fun (o : Nat) => (o, leBytes 4 (ofInt 32 (between (toInt 32 (s.calField (a + o) 4)) (toInt 32 (s.calField (b + o) 4)) n d)))
  [delay 24, delay 28, (112, s.bytesAt (s.calBase + near + 112) 32)]

/-- c_p for kind 0x08; where a neighbour is zero its dB are not defined and the value is a free one. -/
def State.corrRecip (s : State) (p i j n d : Nat) : List (Nat × List Byte) :=
  (List.range 4).map (fun (k : Nat) =>
    let o := 96 + 4 * k
    let a := cplxOf (s.calField (recordOff p i + o) 4)
    let b := cplxOf (s.calField (recordOff p j + o) 4)
    if n = 0 then (o, cplxBytes a)
    else if a = czero ∨ b = czero then
      (o, cplxBytes ⟨sat16 (Config.freeFigure s.free (480 + 2 * k)), sat16 (Config.freeFigure s.free (481 + 2 * k))⟩)
    else
      let v := polarBetween a b n d
      (o, cplxBytes ⟨sat16 v.re, sat16 v.im⟩))

/-- Replace bytes of a record. -/
def patch (rec : List Byte) (x : Nat × List Byte) : List Byte := rec.take x.1 ++ x.2 ++ rec.drop (x.1 + x.2.length)

/-- The record of identity corrections: coarse codes at mid-scale, c_p at 32,767. -/
def identityRecord : List Byte :=
  (List.range 4).foldl (fun r (k : Nat) => patch r (96 + 4 * k, cplxBytes ⟨32767, 0⟩)) (patch (List.replicate 160 0) (20, [0x80, 0x80]))

/-- The corrections the set gives a path at a temperature (R246), laid out as its record; byte 22 tells which kinds are derived. -/
def State.corrections (s : State) (p : Nat) (t : Int) : List Byte :=
  let part := fun (rec : List Byte) (kind : Nat) (f : Nat → Nat → Nat → Nat → List (Nat × List Byte)) =>
    match bracket t (s.kindPoints p kind) with
    | none => rec
    | some (i, j, n, d) =>
      let base := (f i j n d).foldl patch rec
      patch base (22, leBytes 1 (fieldLE base 22 1 + kind))
  part (part (part identityRecord 1 (s.corrPath p)) 2 (s.corrDelay p)) 8 (s.corrRecip p)

/-- The observation corrections of a tile at a temperature. -/
def State.obsCorrections (s : State) (t : Nat) (temp : Int) : List Byte :=
  match bracket temp (s.kindPoints (4 * t) 4) with
  | none => List.replicate 16 0
  | some (i, j, n, d) =>
    let a := obsOff t i
    let b := obsOff t j
    (List.range 2).flatMap (fun (r : Nat) =>
      let o := 8 * r
      i16Bytes (between (s.calI16 (a + o)) (s.calI16 (b + o)) n d) ++ i16Bytes (phaseBetween (s.calI16 (a + o + 2)) (s.calI16 (b + o + 2)) n d)
        ++ leBytes 4 (ofInt 32 (between (toInt 32 (s.calField (a + o + 4) 4)) (toInt 32 (s.calField (b + o + 4) 4)) n d)))

/-- The first poisoned word among the point headers and a path's records, as an offset in the set. -/
def State.calPoison (s : State) (p : Nat) : Option Nat :=
  (List.range 8).findSome? (fun i =>
    let look := fun off n => (s.firstPoison (s.calBase + off) n).map (· - s.calBase)
    (look (blockOff (courseOf p) i) 64).orElse (fun _ => (look (recordOff p i) 160).orElse (fun _ => look (obsOff (tileOf p) i) 16)))

/-- Has the temperature of a course moved by 0.1 °C since its corrections were last applied, or were they never? -/
def State.tempMoved (s : State) (c : Nat) : Bool :=
  match s.cal.appliedAt.find? (fun x => x.1 == c) with
  | some x => x.2 != s.rdI 16 Ix.CalCourseTemp (c + 1)
  | none => true

/-- Corrections of the courses of a list derived from the set (R246): a path met by poison keeps its own, flagged STALE, and
CAL_SET_POISON is raised for the course; a path that calibration holds keeps its own (R248). -/
def State.derive (s : State) (courses : List Nat) : (Tab (List Byte) × Tab (List Byte)) × State :=
  let s := courses.foldl (fun s c => s.settle (s.calBase + blockOff c 0) 21504) s
  let paths := courses.flatMap coursePaths
  let bad := paths.filter (fun p => (s.calPoison p).isSome)
  let kept := fun p => bad.contains p || s.calHolds p
  let corr := (paths.filter (fun p => !kept p)).map (fun p => (p, s.corrections p (s.rdI 16 Ix.CalCourseTemp (courseOf p + 1))))
  let obs := ((courses.flatMap (fun c => (List.range 4).map (· + 4 * c))).filter (fun t => !kept (4 * t))).map
    (fun t => (t, s.obsCorrections t (s.rdI 16 Ix.CalCourseTemp (t / 4 + 1))))
  let s := { s with cal := { s.cal with stale := (s.cal.stale.filter (fun p => !paths.contains p)) ++ bad }, free := s.free + 1 }
  let s := courses.foldl (fun s c =>
    match (coursePaths c).findSome? s.calPoison with
    | some off => (s.consumePoison (s.calBase + off)).raise 0x4805 0 (packData [f8 c, f32 off])
    | none => s) s
  ((corr, obs), s)

/-- Put derived corrections into force. -/
def State.putCorr (s : State) (x : Tab (List Byte) × Tab (List Byte)) : State :=
  { s with cal := { s.cal with corr := x.1.foldl (fun t c => tins c.1 c.2 t) s.cal.corr,
                               obs := x.2.foldl (fun t c => tins c.1 c.2 t) s.cal.obs } }

/-- Note the course temperatures the corrections rest on. -/
def State.noteApplied (s : State) (courses : List Nat) : State :=
  courses.foldl (fun s c => { s with cal := { s.cal with appliedAt := tins c (s.rdI 16 Ix.CalCourseTemp (c + 1)) s.cal.appliedAt } }) s

/-- At a slot boundary the corrections computed at the one before come into force, and those of the courses whose temperature has
moved are computed for the next (R246). -/
def State.calAtSlot (s : State) : State :=
  let s := match s.cal.next with
    | some x => { s with cal := { s.cal with next := none } }.putCorr x
    | none => s
  let moved := (List.range 4).filter s.tempMoved
  if moved.isEmpty || !s.domainOn 5 then s
  else
    let r := s.derive moved
    let s := r.2.noteApplied moved
    { s with cal := { s.cal with next := some r.1 } }

/-- The set in force has changed: every correction follows at once. -/
def State.calRenew (s : State) : State :=
  let r := { s with cal := { s.cal with next := none } }.derive (List.range 4)
  (r.2.putCorr r.1).noteApplied (List.range 4)

/-- n_p and r_p of a path (R235), the transmit side or the receive side: whole samples, and the remainder in ps × 98,304; `none`
without a delay in force. -/
def State.delayLine (s : State) (p : Nat) (rx : Bool) : Option (Nat × Nat) :=
  match s.cal.corr.find? (fun c => c.1 == p) with
  | some c =>
    if bitAt (fieldLE c.2 22 1) 1 then
      let delta := (s.rd Ix.CalDelayTarget 0 : Int) - toInt 32 (fieldLE c.2 (if rx then 28 else 24) 4)
      let x := (delta * 98304).toNat
      some (min 15 (x / 100000000), x % 100000000)
    else none
  | none => none

/-! Runs (R239 to R248) -/

/-- The run or step that measures now: the run in Calibrate, else the rolling step. -/
def State.activeCal (s : State) : Option CalRunSys := if s.cal.run.isSome then s.cal.run else s.cal.step

/-- Replace it. -/
def State.setActiveCal (s : State) (r : CalRunSys) : State :=
  if r.rolling then { s with cal := { s.cal with step := some r } } else { s with cal := { s.cal with run := some r } }

/-- The leases of a run (R240). -/
def calLeases (kinds : Nat) : List Nat := [0x500, 0x400, 0x401, 0x402, 0x403] ++ (if kinds / 8 % 4 = 0 then [] else [0x300])

/-- Is the SPE frequency inside the 400 MHz LO window (R85, R237)? -/
def State.speInLo (s : State) : Bool :=
  let lo := s.rd Ix.LoFrequency 0
  let f := s.rd Ix.SpeFrequency 0
  decide (lo ≤ f + 200000) && decide (f ≤ lo + 200000)

/-- `CalRun` (R239, R240). -/
def State.calRun (s : State) (rec : List Byte) : Res :=
  let flags := fieldLE rec 0 1
  let kinds := fieldLE rec 1 1
  let run := fieldLE rec 2 2
  let paths := fieldLE rec 4 8
  let startV := fieldLE rec 12 8
  let targetV := fieldLE rec 20 8
  let array := bitAt flags 7
  let asap := bitAt flags 6
  let targeted := bitAt flags 5
  let start := epochOfEntry startV
  let target := epochOfEntry targetV
  let earliest := if array then s.earliestArrayCommit else s.earliestCommit
  let busy := s.cal.run.isSome || s.cal.due.any (fun r => !r.rolling)
  if s.mode ≠ 3 ∨ busy then .error s.stateAbort
  else if array && s.pos != 0 then .error ⟨abPosition, 0⟩
  else if s.rd Ix.TrimValid 0 = 0 then .error s.stateAbort
  else if flags % 32 ≠ 0 then .error (rangeAt 0)
  else if kinds = 0 ∨ 31 < kinds ∨ (16 ≤ kinds ∧ array = false) then .error (rangeAt 1)
  else if run = 0 then .error (rangeAt 2)
  else if (allPaths.all (fun p => !bitAt paths p || s.rd Ix.PathEnable (p + 1) % 4 == 0)) then .error (rangeAt 4)
  else if !s.epochOk startV || s.beyondLimit start then .error (rangeAt 12)
  else if targeted && (!s.epochOk targetV || s.beyondLimit target) || (!targeted && targetV != 0) then .error (rangeAt 20)
  else if fieldLE rec 28 4 ≠ 0 then .error (rangeAt 28)
  else if bitAt kinds 3 && !s.speInLo then .error (rangeAt 1)
  else if !epLe earliest start || (targeted && !asap && !epLe earliest target) then .error ⟨abLate, 0⟩
  else
    match (calLeases kinds).findSome? s.leaseOf with
    | some l => .error (leaseAbort l.owner)
    | none =>
      if targeted && decide (8 ≤ s.host.commits.length) then .error ⟨abStagingFull, 0⟩
      else
        let s := (calLeases kinds).foldl (fun s r => s.takeLease r (s.functionOwner 1) none none) s
        let at_ := if asap && !epLe earliest target then earliest else target
        let s := if targeted then
            s.sealCommit (internalCommit .calRun at_ asap array [⟨Ix.CalSet, 0, .num 0⟩])
          else s
        let s := s.wr Ix.CalRunState 0 1
        .ok { s with cal := { s.cal with run := some { run := run, array := array, targeted := targeted, kinds := kinds, paths := paths,
                                                       start := start } } }

/-- Are a path's corrections held now, as their status shows: STALE of the Lineariser follows (R181). -/
def State.showCalStale (s : State) : State := allPaths.foldl (fun s p => s.wrBit Ix.LinStatus (p + 1) 3 (s.calHolds p)) s

/-- The paths of a run that are in use. -/
def CalRunSys.pathList (r : CalRunSys) : List Nat := allPaths.filter (bitAt r.paths)

/-- Release a run's leases. -/
def State.freeCalLeases (s : State) (r : CalRunSys) : State :=
  if r.rolling then (s.freeLease 0x500).freeLease (0x400 + courseOf (r.pathList.headD 0))
  else (calLeases r.kinds).foldl (fun s x => s.freeLease x) s

/-- With no run and no result pending, the set's STALE on calibration's account clears (R197, R248). -/
def State.calSettled (s : State) : State :=
  let s := s.showCalStale
  { s with duplex := { s.duplex with calStale := s.duplex.calStale.filter s.calHolds } }.showStale

/-- CAL_FAIL (R240, R247): 1 mode, 2 cancelled, 3 lease, 4 poison, 5 superseded. The run under way, or one whose results wait, writes
nothing. -/
def State.calFails (s : State) (reason : Nat) : State :=
  let gone := s.cal.run.toList ++ s.cal.due.filter (fun r => !r.rolling)
  match gone with
  | [] => s
  | r :: _ =>
    let s := { s with cal := { s.cal with run := none, due := s.cal.due.filter (·.rolling) } }
    let s := if r.due = 0 ∧ r.targeted = false ∨ s.leases.any (fun l => l.resource == 0x500 && l.owner == s.functionOwner 1) then
        s.freeCalLeases r else s
    let s := s.wr Ix.CalRunState 0 5
    let s := s.raise 0x4803 0 (packData [f16 r.run, f8 reason])
    (s.failCommits (fun c => c.source == .calRun) (if reason = 1 then 2 else 3)).calSettled

/-- A rolling step ends and writes nothing (R249). -/
def State.calStepEnds (s : State) : State :=
  match s.cal.step with
  | some r => ({ s with cal := { s.cal with step := none } }.freeCalLeases r).calSettled
  | none => s

/-- `CalRunCancel` (R240). -/
def State.calRunCancel (s : State) (v : Nat) : Res := .ok (if v = 1 then s.calFails 2 else s)

/-- CAL_RUN_START (R240, R248): at START the first measurement begins. -/
def State.calRunStart (s : State) : State :=
  match s.cal.run with
  | some r =>
    if r.measuring = false ∧ epLe r.start s.epoch then
      let temps := (List.range 4).map (fun c => s.rdI 16 Ix.CalCourseTemp (c + 1))
      let s := { s with cal := { s.cal with run := some { r with measuring := true, temps := temps } } }
      let s := (s.wr Ix.CalRunState 0 2).showCalStale
      s.cancelStaleCal (r.pathList.filter (fun p => s.rdBit Ix.PathEnable (p + 1) 1))
    else s
  | none => s

/-! Acceptance (R241, R242) -/

/-- CAL_REJECT: 1 agreement, 2 limit, 3 SNR, 4 LO. -/
def State.calReject (s : State) (r : CalRunSys) (kind path reason : Nat) (worst : Int) : State :=
  let s := s.setActiveCal { r with rejected := r.rejected ++ [(kind, path)] }
  s.raise 0x4802 0 (packData [f8 path, f8 kind, f8 reason, f16 (ofInt 16 (clampInt (-32768) 65535 worst))])

/-- The tolerance class of each quantity of a kind: 1 gain, 2 phase, 3 delay (R241). -/
def quantityClasses (kind : Nat) : List Nat :=
  match kind with
  | 4 => [1, 2, 3, 1, 2, 3]
  | 1 => [1, 2, 1, 2, 1, 2, 1, 2] ++ List.replicate 31 2
  | 2 => [3, 3]
  | 8 => [1, 2, 1, 2, 1, 2, 1, 2]
  | _ => []

/-- The quantities of the two measurements that disagree: the disagreement and the tolerance (R241). -/
def State.disagreements (s : State) (m : CalMeasure) : List (Nat × Nat) :=
  let main := (quantityClasses m.kind).zipIdx.map (fun c =>
    let d := m.q1.getD c.2 0 - m.q2.getD c.2 0
    ((if c.1 = 2 then arcDiff d else d).natAbs, s.rd Ix.CalTolerance c.1))
  let offs := if m.kind = 1 then (List.range 4).map (fun (i : Nat) => ((m.uv1.getD i 0 - m.uv2.getD i 0).natAbs, s.rd Ix.CalTolerance 4)) else []
  let align := if m.kind = 16 then [((m.q1.getD 0 0 - m.q2.getD 0 0).natAbs, s.rd Ix.CalTolerance 5)] else []
  (main ++ offs ++ align).filter (fun x => decide (x.2 < x.1))

/-- The worst of a list, each against its tolerance. -/
def worstOf (l : List (Nat × Nat)) : Nat := (l.foldl (fun (w : Nat × Nat) x => if w.1 * x.2 < x.1 * w.2 then x else w) (0, 1)).1

/-- An accepted quantity: the mean of the two, a phase's along the shorter arc; the one measured under the WK1616 profile. -/
def State.meanOf (s : State) (m : CalMeasure) (cls i : Nat) : Int :=
  let a := m.q1.getD i 0
  let b := m.q2.getD i 0
  if s.rd Ix.CalProfile 0 = 1 then a
  else if cls = 2 then wrapPhase (a + arcDiff (b - a) / 2) else (a + b) / 2

/-- The accepted quantities of a measurement. -/
def State.means (s : State) (m : CalMeasure) : List Int := (quantityClasses m.kind).zipIdx.map (fun c => s.meanOf m c.1 c.2)

/-- D of the transmit and receive side: the loopback delay and the board's (R235). -/
def State.pathDelays (s : State) (m : CalMeasure) : List Int :=
  let q := s.means m
  [q.getD 0 0 + s.rd Ix.CalBoardDelay (m.path + 1), q.getD 1 0 + s.rd Ix.CalBoardDelayRx (m.path + 1)]

/-- Can the delay line realise a delay: Δ from 0 to 16 samples (R235)? -/
def State.delayFits (s : State) (d : Int) : Bool :=
  let delta := (s.rd Ix.CalDelayTarget 0 : Int) - d
  decide (0 ≤ delta) && decide (delta * 98304 ≤ 1600000000)

/-- The first value of a measurement outside its limits: Δ_p always, and under the WK1616 profile those of Table 10.4 that one path
shows (R235, R242). -/
def State.limitBroken (s : State) (m : CalMeasure) : Option Int :=
  let q := s.means m
  let leak := fun (i : Nat) => if s.rd Ix.CalProfile 0 = 1 then m.uv1.getD i 0 else (m.uv1.getD i 0 + m.uv2.getD i 0) / 2
  let outside := fun (l : List (Int × Int × Int)) => (l.find? (fun x => decide (x.1 < x.2.1) || decide (x.2.2 < x.1))).map (·.1)
  let wk := s.rd Ix.CalProfile 0 == 1
  match m.kind with
  | 2 => (s.pathDelays m).find? (fun d => !s.delayFits d)
  | 1 =>
    if !wk then none
    else outside [(q.getD 0 0, -3000, 3000), (q.getD 2 0, -3000, 3000), (q.getD 4 0, -1000, 1000), (q.getD 6 0, -1000, 1000),
      (q.getD 5 0, -800, 800), (q.getD 7 0, -800, 800), (leak 4, -2048, 2047), (leak 5, -2048, 2047),
      ((m.dc / 256 : Nat), 16, 240), ((m.dc % 256 : Nat), 16, 240)]
  | 4 => if wk then outside [(q.getD 0 0, -3000, 3000), (q.getD 3 0, -3000, 3000)] else none
  | _ => none

/-- What an accepted measurement gives the records (Table 10.3). The LO-leakage correction in DAC LSB stands behind the four offsets. -/
def State.accept (s : State) (m : CalMeasure) : CalAccept :=
  let q := s.means m
  let leak := fun (i : Nat) => if s.rd Ix.CalProfile 0 = 1 then m.uv1.getD i 0 else (m.uv1.getD i 0 + m.uv2.getD i 0) / 2
  let res := fun (l : List Nat) => l.zipIdx.map (fun c => (c.1, min 65534 (m.residuals.getD c.2 0)))
  let base : CalAccept := { kind := m.kind, path := m.path }
  match m.kind with
  | 1 =>
    { base with
      patches := [(0, (q.take 8).flatMap i16Bytes), (16, i16Bytes (leak 4) ++ i16Bytes (leak 5)), (20, leBytes 2 m.dc),
        (34, ((q.drop 8).take 31).flatMap i16Bytes)],
      quality := res [0, 1, 2, 3, 6] }
  | 2 =>
    let d := s.pathDelays m
    { base with
      patches := [(24, d.flatMap (fun x => leBytes 4 (ofInt 32 x))),
        (112, (List.range 16).flatMap (fun (k : Nat) => i16Bytes (clampInt (-1024) 1024 (m.taps.getD k 0))))],
      delays := d, quality := res [4, 5] }
  | 8 => { base with mrx := m.mrx, mtx := m.mtx, quality := res [7] }
  | 4 =>
    { base with
      obs := (List.range 2).flatMap (fun (r : Nat) => i16Bytes (q.getD (3 * r) 0) ++ i16Bytes (q.getD (3 * r + 1) 0)
        ++ leBytes 4 (ofInt 32 (q.getD (3 * r + 2) 0))),
      quality := res [0, 1, 2] }
  | _ => base

/-- CAL_MEASUREMENT_DONE (R232 to R242). -/
def State.calMeasured (s : State) (m : CalMeasure) : State :=
  match s.activeCal with
  | none => s
  | some r =>
    let mine := r.measuring && (m.kind == 1 || m.kind == 2 || m.kind == 4 || m.kind == 8 || m.kind == 16) && r.kinds / m.kind % 2 == 1
      && (m.kind == 16 || (decide (m.path < 64) && bitAt r.paths m.path))
    if !mine then s
    else if m.poison then (if r.rolling then s.calStepEnds else s.calFails 4)
    else if m.lost then
      if r.repeated.contains (m.kind, m.path) then s.calReject r m.kind m.path 4 0
      else s.setActiveCal { r with repeated := r.repeated ++ [(m.kind, m.path)] }
    else if m.kind = 8 ∧ m.snr < s.rdI 16 Ix.CalRecipMinSnr 0 then s.calReject r 8 m.path 3 m.snr
    else
      let bad := if s.rd Ix.CalProfile 0 = 1 ∧ m.kind ≠ 16 then [] else s.disagreements m
      if !bad.isEmpty then s.calReject r m.kind m.path 1 (worstOf bad)
      else match s.limitBroken m with
        | some x => s.calReject r m.kind m.path 2 x
        | none =>
          let a := s.accept m
          s.setActiveCal { r with accepted := r.accepted ++ [a], offset := if m.kind = 16 then some 0 else r.offset }

/-! The end of a run (R237, R242, R245, R247) -/

/-- c of an accepted path and carrier before scaling: a complex number over a real one. -/
def CalAccept.ratio (a : CalAccept) (k : Nat) : Cplx × Nat :=
  let rx := a.mrx.getD k czero
  let tx := a.mtx.getD k czero
  (cmul rx (conj tx), cpow tx)

/-- Does |x/d|² exceed the square num / den? -/
def ratioAbove (x : Cplx × Nat) (num den : Nat) : Bool := decide (num * (x.2 * x.2) < cpow x.1 * den)

/-- The square of the largest |c_p| of a run over its paths and the other devices'. -/
def largestRatio (l : List CalAccept) (peers : CalPeers) : Nat × Nat :=
  (l.flatMap (fun a => (List.range 4).map a.ratio)).foldl (fun (m : Nat × Nat) x =>
    if x.2 != 0 && ratioAbove x m.1 m.2 then (cpow x.1, x.2 * x.2) else m) (peers.num, max 1 peers.den)

/-- c_p scaled so that the largest modulus is 32,767; M_tx of zero leaves the ratio open. -/
def State.scaledRatio (s : State) (a : CalAccept) (k : Nat) (big : Nat × Nat) : Cplx :=
  let x := a.ratio k
  if x.2 = 0 ∨ big.1 = 0 then ⟨sat16 (Config.freeFigure s.free (490 + 2 * k)), sat16 (Config.freeFigure s.free (491 + 2 * k))⟩
  else
    let part := fun (v : Int) => sat16 (divSqrt (v * 32767 * big.2) (big.1 * big.2 * (x.2 * x.2)))
    ⟨part x.1.re, part x.1.im⟩

/-- The reference path of reciprocity takes the mean of c over its declared adjacent paths (R167, R237). -/
def State.referenceRatio (s : State) (l : List (Nat × List Cplx)) (ref k : Nat) : Cplx :=
  let near := ((List.range 4).map (fun i => s.domField Ix.LinAdjacency 0 (4 * ref + i) 1)).filter (fun q => decide (q < 64))
  let cs := (l.filter (fun x => near.contains x.1)).map (fun x => x.2.getD k czero)
  if cs.isEmpty then ⟨sat16 (Config.freeFigure s.free (500 + 2 * k)), sat16 (Config.freeFigure s.free (501 + 2 * k))⟩
  else
    let t := csum cs
    ⟨t.re / (cs.length : Int), t.im / (cs.length : Int)⟩

/-- Results of kind 0x08 as patches, the reference path among them; `free` steps. -/
def State.scaleRecip (s : State) (r : CalRunSys) (peers : CalPeers) : CalRunSys × State :=
  let mine := r.accepted.filter (fun a => a.kind == 8)
  if mine.isEmpty then (r, s)
  else
    let big := largestRatio mine peers
    let vals := mine.map (fun a => (a.path, (List.range 4).map (fun k => s.scaledRatio a k big)))
    let ref := s.rd Ix.SpeMainPath 0
    let vals := if bitAt r.paths ref then
        (vals.filter (fun x => x.1 != ref)) ++ [(ref, (List.range 4).map (fun k => s.referenceRatio (vals.filter (fun x => x.1 != ref)) ref k))]
      else vals
    let low := if s.rd Ix.CalProfile 0 = 1 then
        (mine.filter (fun a => (List.range 4).any (fun k =>
          let x := a.ratio k
          x.2 != 0 && !dbAtLeast (cpow x.1 * big.2) (max 1 (x.2 * x.2 * big.1)) (-1200)))).map (·.path)
      else []
    let acc := (vals.filter (fun x => !low.contains x.1)).map (fun x =>
      let q := (mine.find? (fun a => a.path == x.1)).map (·.quality)
      let a : CalAccept := { kind := 8, path := x.1, patches := [(96, x.2.flatMap cplxBytes)], quality := q.getD [] }
      a)
    let r := { r with accepted := r.accepted.filter (fun a => a.kind != 8) ++ acc }
    let s := low.foldl (fun (x : CalRunSys × State) p =>
      let s := x.2.calReject x.1 8 p 2 0
      ({ x.1 with rejected := x.1.rejected ++ [(8, p)] }, s)) (r, { s with free := s.free + 1 })
    s

/-- Under the WK1616 profile a D further than 2,000 ps from the mean D of the accepted paths rejects its path (Table 10.4). -/
def State.judgeDelays (s : State) (r : CalRunSys) : CalRunSys × State :=
  let mine := r.accepted.filter (fun a => a.kind == 2)
  if s.rd Ix.CalProfile 0 = 0 ∨ mine.isEmpty then (r, s)
  else
    let mean := fun (i : Nat) => (mine.map (fun a => a.delays.getD i 0)).foldl (· + ·) 0 / (mine.length : Int)
    let bad := mine.filterMap (fun a =>
      ((List.range 2).find? (fun i => decide (2000 < (a.delays.getD i 0 - mean i).natAbs))).map (fun i => (a.path, a.delays.getD i 0)))
    let r := { r with accepted := r.accepted.filter (fun a => !(a.kind == 2 && bad.any (fun b => b.1 == a.path))) }
    bad.foldl (fun (x : CalRunSys × State) b =>
      let s := x.2.calReject x.1 2 b.1 2 b.2
      ({ x.1 with rejected := x.1.rejected ++ [(2, b.1)] }, s)) (r, s)

/-- The run is over: it no longer measures, its leases go, its results wait for their epoch. -/
def State.calEnds (s : State) (r : CalRunSys) : State :=
  let s := if r.rolling then { s with cal := { s.cal with step := none } } else { s with cal := { s.cal with run := none } }
  let s := s.freeCalLeases r
  let s := if r.rolling then s else s.wr Ix.CalRunState 0 3
  let due := s.slotTwoEpochsOn
  { s with cal := { s.cal with due := s.cal.due ++ [{ r with due := due }] } }

/-- CAL_RUN_COMPLETE (R247). -/
def State.calComplete (s : State) (peers : CalPeers) : State :=
  match s.cal.run with
  | none => s
  | some r =>
    if r.measuring then
      let x := s.scaleRecip r peers
      let y := x.2.judgeDelays x.1
      y.2.calEnds y.1
    else s

/-- The point of a course its results go into, and whether it is new or replaced (R245). -/
def State.choosePoint (s : State) (c : Nat) (t : Int) : Nat × Bool :=
  let valid := s.calPoints c
  let dist := fun i => (s.calTemp c i - t).natAbs
  let order := (sortPoints (valid.map (fun i => (s.calTemp c i, i)))).map (·.2)
  let near := order.foldl (fun (b : Option Nat) i =>
    match b with
    | none => some i
    | some j => if dist i < dist j then some i else some j) none
  match near, (List.range 8).find? (fun i => !valid.contains i) with
  | some i, free => if dist i ≤ s.rd Ix.CalTempSpan 0 then (i, false) else (free.getD i, true)
  | none, free => (free.getD 0, true)

/-- The milliseconds `CalCourseLastTime` records (R243). -/
def State.calClock (s : State) : Nat :=
  let set_ := s.rd Ix.CalClockSet 0
  if set_ = 0 then (s.now - s.cal.coldAt) / 3072000000 else set_ + (s.now - s.cal.clockAt) / 3072000000

/-- The results of one course enter its point (R245). -/
def State.placeCourse (s : State) (r : CalRunSys) (c : Nat) : State :=
  let mine := r.accepted.filter (fun a => a.kind != 16 && courseOf a.path == c)
  if mine.isEmpty then s
  else
    let t := r.temps.getD c 0
    let x := s.choosePoint c t
    let b := blockOff c x.1
    let s := if x.2 then s.zeroRange (s.calBase + b) 2688 else s
    let kinds := mine.foldl (fun k a => if k / a.kind % 2 = 0 then k + a.kind else k) (s.calField (b + 1) 1)
    let s := s.calPut b ([1] ++ leBytes 1 kinds ++ i16Bytes t ++ leBytes 8 (epochEntry s.epoch))
    mine.foldl (fun s a =>
      let mark := fun (s : State) (p : Nat) =>
        let o := recordOff p x.1 + 22
        let k := s.calField o 1
        if k / a.kind % 2 = 0 then s.calPut o (leBytes 1 (k + a.kind)) else s
      if a.kind = 4 then
        (List.range 4).foldl (fun s j => mark s (4 * tileOf a.path + j)) (s.calPut (obsOff (tileOf a.path) x.1) a.obs)
      else mark (a.patches.foldl (fun s q => s.calPut (recordOff a.path x.1 + q.1) q.2) s) a.path) s

/-- The quality figures of accepted kinds (R243). -/
def State.placeQuality (s : State) (r : CalRunSys) : State :=
  r.accepted.foldl (fun s a =>
    let index := if a.kind = 4 then Ix.CalObsQuality else Ix.CalQuality
    let at_ := if a.kind = 4 then 8 * tileOf a.path else 16 * a.path
    let v := a.quality.foldl (fun v q => patch v (at_ + 2 * q.1, leBytes 2 q.2)) (s.domVal index 0)
    if a.quality.isEmpty then s else s.setDom index 0 v) s

/-- Results come into force (R243, R245, R247): the set and its header, quality, the courses' counts and times, CAL_DONE. -/
def State.calApply (s : State) (r : CalRunSys) : State :=
  let s := { s with cal := { s.cal with due := s.cal.due.filter (fun x => x != r) } }
  let s := (List.range 4).foldl (fun s c => s.placeCourse r c) s
  let seq := (s.calField 24 4 + 1) % 2 ^ 32
  let s := s.calPut 1 (leBytes 1 (s.rd Ix.CalProfile 0))
  let s := s.calPut 16 (leBytes 8 (epochEntry s.epoch) ++ leBytes 4 seq)
  let s := match r.offset with
    | some d => s.calPut 12 (leBytes 4 (ofInt 32 d))
    | none => s
  let s := s.placeQuality r
  let s := ((List.range 4).filter (fun c => r.accepted.any (fun a => a.kind != 16 && courseOf a.path == c))).foldl (fun s c =>
    ((s.bump Ix.CalCourseCount (c + 1)).wrEpoch Ix.CalCourseLastEpoch (c + 1) s.epoch).wr Ix.CalCourseLastTime (c + 1) s.calClock) s
  let s := s.calRenew.calSettled
  let s := if r.rolling then s else s.wr Ix.CalRunState 0 4
  let paths := fun (l : List Nat) => fCount l.eraseDups.length
  s.raise 0x4801 0 (packData [f16 r.run, f8 r.kinds, paths (r.accepted.map (·.path)), paths (r.rejected.map (·.2))])

/-- At a tick the results whose epoch it is come into force; those of a TARGETED run follow their sealed commit (R247). -/
def State.calDue (s : State) : State :=
  (s.cal.due.filter (fun r => !r.targeted && epLe r.due s.epoch)).foldl (fun s r => s.calApply r) s

/-- Is a TARGETED run ready (R43)? -/
def State.calReady (s : State) : Bool := s.cal.due.any (·.targeted)

/-- The sealed commit of a TARGETED run comes into force. -/
def State.calTargeted (s : State) : State :=
  match s.cal.due.find? (·.targeted) with
  | some r => s.calApply r
  | none => s

/-- A host commit of `CalSet` comes into force (R244): its bytes with SEQUENCE one on; runs started and results waiting are
superseded (R247). -/
def State.commitCalSet (s : State) (v : List Byte) : State :=
  let seq := (s.calField 24 4 + 1) % 2 ^ 32
  let s := s.calPut 0 (patch v (24, leBytes 4 seq))
  let steps := s.cal.due.filter (·.rolling)
  let s := { s with cal := { s.cal with due := s.cal.due.filter (fun r => !r.rolling) } }
  let s := steps.foldl (fun s r => s.raise 0x4803 0 (packData [f16 r.run, f8 5])) s
  let s := if s.cal.run.any (fun r => epLe r.start s.epoch) || !s.cal.due.isEmpty then s.calFails 5 else s
  s.calRenew.calSettled

/-! Rolling calibration (R249) -/

/-- Slots of at least 0.5 ms. -/
def rollSlots (nu : Nat) : Nat := if nu < 2 then 1 else 2

/-- The next path of rolling calibration: not disabled and not held off on either side. -/
def State.rollPath (s : State) : Option Nat :=
  let from_ := s.rd Ix.CalRollPath 0
  ((List.range 64).map (fun i => (from_ + i) % 64)).find? (fun p => !s.heldOff p && !s.rxHeldOff p)

/-- Do rolling steps run in the mode in force? -/
def rollMode (m : Nat) : Bool := m == 4 || m == 5 || m == 6

/-- CAL_ROLL_STEP (R249): every `CalRollInterval` slots the next path is claimed, or the step is skipped. -/
def State.calRollStep (s : State) : State :=
  if !(s.rdB Ix.CalRollEnable 0 && rollMode s.mode && s.cal.slotsLeft == 0) then s
  else
    let s := { s with cal := { s.cal with slotsLeft := s.rd Ix.CalRollInterval 0 } }
    match s.rollPath with
    | none => s
    | some p =>
      let s := s.wr Ix.CalRollPath 0 ((p + 1) % 64)
      let skip := fun (s : State) (reason : Nat) => s.raise 0x4804 0 (packData [f8 p, f8 reason])
      let c := courseOf p
      if s.leased 0x500 || s.leased (0x400 + c) then skip s 1
      else if !s.loLocked c then skip s 2
      else
        let s := [0x500, 0x400 + c].foldl (fun s r => s.takeLease r (s.functionOwner 4) none none) s
        let start := s.nextSlotStart s.epoch
        let until_ := (List.range (rollSlots (s.rd Ix.Numerology 0))).foldl (fun e _ => s.nextSlotStart e) start
        let r : CalRunSys := { run := 0, array := false, targeted := false, kinds := s.rd Ix.CalRollKinds 0, paths := 2 ^ p, start := start,
                               rolling := true, until_ := until_ }
        { s with cal := { s.cal with step := some r } }

/-- At a slot boundary a step's claim begins, or ends with its results on their way; the count to the next step runs (R249). A mode
that allows no step ends it. -/
def State.calRollAtSlot (s : State) : State :=
  let s := { s with cal := { s.cal with slotsLeft := s.cal.slotsLeft - 1 } }
  match s.cal.step with
  | none => s
  | some r =>
    if !rollMode s.mode then s.calStepEnds
    else if epLe r.until_ s.epoch then
      let x := s.judgeDelays r
      x.2.calEnds x.1
    else if r.measuring = false ∧ epLe r.start s.epoch then
      let temps := (List.range 4).map (fun c => s.rdI 16 Ix.CalCourseTemp (c + 1))
      let s := { s with cal := { s.cal with step := some { r with measuring := true, temps := temps } } }
      s.showCalStale.cancelStaleCal r.pathList
    else s

/-- Is an entry shown STALE for calibration (R246, R248)? -/
def State.calStale (s : State) (index sub : Nat) : Bool :=
  let perPath := index == Ix.TxPowerMeasured || index == Ix.TxLoopCorrection || index == Ix.ReturnLoss || index == Ix.MismatchFlag
    || index == Ix.RxDcResidual
  (perPath && decide (1 ≤ sub) && (s.calHolds (sub - 1) || s.cal.stale.contains (sub - 1)))
    || (index == Ix.CalQuality && (allPaths.any s.calHolds || !s.cal.stale.isEmpty))

/-! The store (R250 to R252) -/

/-- The flash address of a bank. -/
def State.bankBase (s : State) (b : Nat) : Nat := flashBase + s.rd Ix.CalStoreOffset 0 + b * 0x200000

/-- The length CONTENTS implies. -/
def storeLength (contents : Nat) : Nat :=
  86272 + (if bitAt contents 1 then 852224 else 0) + (if bitAt contents 2 then 528896 else 0)

/-- The state of a bank as R252 judges it: 0 erased, 1 valid, 2 DIGEST, 3 FOREIGN, 4 MALFORMED. -/
def State.judgeBank (s : State) (b : Nat) : Nat :=
  let a := s.bankBase b
  let f := fun off n => s.numAt (a + off) n
  let len := f 8 4
  if s.mem.bytes.all (fun c => decide (c.1 < a) || decide (a + 0x200000 ≤ c.1)) then 0
  else if f 0 4 ≠ 0x53434B57 ∨ 0x200000 < 64 + len + 32 ∨ len ≠ storeLength (f 12 1) ∨ f 12 1 % 2 = 0 then 4
  else if f 16 8 ≠ s.rd Ix.DeviceIdentity 0 then 3
  else if s.bytesAt (a + 64 + len) 32 = sliceBytes (Config.sm3 (s.bytesAt a (64 + len))) 0 32 then 1 else 2

/-- Is sequence a ahead of b, modulo 2³²? -/
def seqAfter (a b : Nat) : Bool := decide (0 < (a + 2 ^ 32 - b) % 2 ^ 32) && decide ((a + 2 ^ 32 - b) % 2 ^ 32 < 2 ^ 31)

/-- The valid bank with the higher SEQUENCE. -/
def State.newerBank (s : State) : Option Nat :=
  let v := fun b => s.rd Ix.CalStoreBankState (b + 1) == 1
  if v 0 && v 1 then some (if seqAfter (s.rd Ix.CalStoreBankSeq 2) (s.rd Ix.CalStoreBankSeq 1) then 1 else 0)
  else if v 0 then some 0 else if v 1 then some 1 else none

/-- The snapshot a save writes: header, contents and digest (R250). -/
def State.storeRecord (s : State) (mask seq : Nat) : List Byte :=
  let canc := bitsOf mask 3 2
  let contents := mask % 4 + (if canc = 0 then 0 else 4)
  let body := s.bytesAt s.calBase 86272
    ++ (if bitAt mask 1 then s.linBytes 0 851968 ++ s.domVal Ix.LinAdjacency 0 else [])
    ++ (if canc = 0 then [] else s.bytesAt (s.setBase (canc - 1)) setLength)
  let head := leBytes 4 0x53434B57 ++ leBytes 4 seq ++ leBytes 4 (storeLength contents) ++ leBytes 4 contents
    ++ leBytes 8 (s.rd Ix.DeviceIdentity 0) ++ leBytes 4 (s.rd Ix.LinStructure 0) ++ List.replicate 36 0
  head ++ body ++ sliceBytes (Config.sm3 (head ++ body)) 0 32

/-- CAL_STORE_FAIL: 1 timeout, 2 write, 3 verify, 4 poison. The bank being written is left without a record. -/
def State.storeFails (s : State) (reason : Nat) : State :=
  let s := { s with cal := { s.cal with save := none }, mem := { s.mem with saving := none, saveHit := false } }
  (s.wr Ix.CalStoreState 0 0).raise 0x4808 0 (packData [f8 reason])

/-- A save starts (R251, R439): the snapshot is taken and the older bank erased. -/
def State.startSave (s : State) (mask : Nat) : State :=
  let newer := s.newerBank
  let bank := match newer with
    | some b => 1 - b
    | none => 0
  let seq := match newer with
    | some b => (s.rd Ix.CalStoreBankSeq (b + 1) + 1) % 2 ^ 32
    | none => 1
  let canc := bitsOf mask 3 2
  let s := s.settle s.calBase 86272
  let s := if canc = 0 then s else s.settle (s.setBase (canc - 1)) setLength
  let hit := (s.firstPoison s.calBase 86272).orElse (fun _ => if canc = 0 then none else s.firstPoison (s.setBase (canc - 1)) setLength)
  match hit with
  | some a => (s.consumePoison a).storeFails 4
  | none =>
    let record := s.storeRecord mask seq
    let s := s.zeroRange (s.bankBase bank) 0x200000
    let s := (s.wr Ix.CalStoreBankState (bank + 1) 0).wr Ix.CalStoreBankSeq (bank + 1) 0
    let s := s.wr Ix.CalStoreState 0 1
    { s with cal := { s.cal with save := some ⟨bank, seq, s.now, false, record⟩ },
             mem := { s.mem with saving := some (s.bankBase bank), saveHit := false } }

/-- Is the flash still wanted for the boot (R439): an image is read, or one is accepted and the examination of the banks is to come?
DEDUCED (log entry 43): a save asked for between the two waits for the examination, as the older bank is not known before it. -/
def State.bootReading (s : State) : Bool := s.rd Ix.BootState 0 == 1 || s.rd Ix.BootState 0 == 4

/-- The save that waits for the end of the boot's reads starts (R439). -/
def State.saveWaiting (s : State) : State :=
  match s.cal.saveAsked with
  | some mask => ({ s with cal := { s.cal with saveAsked := none } } : State).startSave mask
  | none => s

/-- `CalStoreSave` (R251). -/
def State.calStoreSave (s : State) (mask : Nat) : Res :=
  if s.mode = 0 ∨ s.cal.save.isSome ∨ s.cal.saveAsked.isSome then .error s.stateAbort
  else if mask % 2 = 0 ∨ 15 < mask ∨ 12 ≤ mask then .error (rangeAt 0)
  else if s.bootReading then .ok ({ s with cal := { s.cal with saveAsked := some mask } }.wr Ix.CalStoreState 0 1)
  else .ok (s.startSave mask)

/-- CAL_STORE_DONE (R251): the flash has taken the record; the read-back matches or it does not. -/
def State.calStoreDone (s : State) (verified : Bool) : State :=
  match s.cal.save with
  | none => s
  | some v =>
    if s.mem.saveHit then s.storeFails 2
    else if !verified then s.storeFails 3
    else
      let s := s.storeBytes (s.bankBase v.bank) v.record
      let s := { s with cal := { s.cal with save := none }, mem := { s.mem with saving := none, saveHit := false } }
      let s := (s.wr Ix.CalStoreBankState (v.bank + 1) 1).wr Ix.CalStoreBankSeq (v.bank + 1) v.sequence
      (s.wr Ix.CalStoreState 0 0).raise 0x4806 0 (packData [f8 v.bank, f32 v.sequence])

/-- CAL_STORE_TIMEOUT (R251). -/
def State.calStoreTimeout (s : State) : State :=
  match s.cal.save with
  | some v => if s.elapsed v.since (msec (s.rd Ix.CalStoreTimeout 0)) then s.storeFails 1 else s
  | none => s

/-- The bank examination of a release (R252): the banks are judged, bad ones reported, the newer valid one loaded as
`CalStoreAutoApply` has it; with no valid bank the set holds identity corrections. -/
def State.examineBanks (s : State) : State :=
  let s := (List.range 2).foldl (fun s b =>
    let st := s.judgeBank b
    let s := (s.wr Ix.CalStoreBankState (b + 1) st).wr Ix.CalStoreBankSeq (b + 1) (if st = 1 then s.numAt (s.bankBase b + 4) 4 else 0)
    if 2 ≤ st then s.raise 0x4807 0 (packData [f8 b, f8 st]) else s) s
  match s.newerBank with
  | none => s.calIdentity.wr Ix.CalStoreLoaded 0 0xFF
  | some b =>
    let a := s.bankBase b + 64
    let contents := s.numAt (s.bankBase b + 12) 1
    let auto := s.rd Ix.CalStoreAutoApply 0
    let s := s.wr Ix.CalStoreLoaded 0 b
    let s := if bitAt auto 0 then s.calPut 0 (s.bytesAt a 86272) else s.calIdentity
    let s := if bitAt auto 1 && bitAt contents 1 then
        let s := s.wr Ix.LinStructure 0 (s.numAt (s.bankBase b + 24) 4)
        (s.commitLinTables (s.bytesAt (a + 86272) 851968)).setDom Ix.LinAdjacency 0 (s.bytesAt (a + 938240) 256)
      else s
    if bitAt auto 2 && bitAt contents 2 then
      let at_ := a + 86272 + (if bitAt contents 1 then 852224 else 0)
      let s := (s.zeroRange (s.setBase 0) setLength).ownBytes (s.setBase 0) (s.bytesAt at_ setLength)
      match s.cancelSetSeal 0 with
      | .ok s => s
      | .error _ => s
    else s

end Sys2Proof.Machine
end

