-- ==== Sys2Proof/Machine/Dma.lean ====
section
/-! DEFINITION. The DMA engine (R337 to R350). -/
namespace Sys2Proof.Machine

/-- A channel's working state. -/
def State.chan (s : State) (n : Nat) : DmaChan := tget {} n s.dma.chans

/-- Set a channel's working state. -/
def State.setChan (s : State) (n : Nat) (c : DmaChan) : State :=
  { s with dma := { s.dma with chans := tins n c s.dma.chans } }

/-- A channel's `DmaState` (Table 15.5). -/
def State.dmaState (s : State) (n : Nat) : Nat := s.rd Ix.DmaState (n + 1)

/-- A channel stops: its state, its halt reason, DMA_HALT, and the end of its lease (R350, Table 15.5). -/
def State.dmaStop (s : State) (n st reason : Nat) : State :=
  let s := s.wr Ix.DmaState (n + 1) st
  let s := s.wr Ix.DmaHaltReason (n + 1) reason
  let s := s.wrBit Ix.DmaStatus (n + 1) 0 true
  let c := s.chan n
  let queue := if st = 6 then [] else c.wbQueue
  let s := s.setChan n { c with desc := none, fetchAt := none, stopReason := 0, lateHalt := false, turning := false, wbQueue := queue }
  let s := s.freeLease (0x100 + n)
  s.raise 0x5802 (n + 1) (packData [f8 n, f8 reason, f32 (s.rd Ix.DmaCurrentDesc (n + 1))])

/-- Stop a channel at its next burst boundary (R350): ABORTING until its outstanding writes are answered, at once where it
waits for an append; no effect on an idle, done or halted channel. -/
def State.dmaAbortWith (s : State) (n reason : Nat) : State :=
  let st := s.dmaState n
  if st = 2 then s.dmaStop n 6 reason
  else if st = 1 then
    if (s.chan n).outstanding.isEmpty then s.dmaStop n 6 reason
    else
      let s := s.wr Ix.DmaState (n + 1) 5
      s.setChan n { s.chan n with stopReason := reason, desc := none, fetchAt := none, turning := false, wbQueue := [] }
  else s

/-- A block, warm or cold reset of a channel: stopped at once, responses discarded, status cleared, IDLE (R350). -/
def State.dmaReset (s : State) (n : Nat) : State :=
  let s := s.setChan n {}
  let s := s.freeLease (0x100 + n)
  let s := (s.raise 0x5802 (n + 1) (packData [f8 n, f8 0x0C, f32 (s.rd Ix.DmaCurrentDesc (n + 1))])).wr Ix.DmaHaltReason (n + 1) 0x0C
  (s.wr Ix.DmaState (n + 1) 0).wr Ix.DmaStatus (n + 1) 0

/-- Is a channel reserved for device functions (R337)? -/
def State.dmaReserved (s : State) (n : Nat) : Bool := s.rdBit Ix.DmaReserved 0 n

/-- Is a number an active user job's (R277)? -/
def State.userJobActive (s : State) (job : Nat) : Bool := s.userJobs.any (fun j => j.job == job)

/-- `DmaStart` (R338): the checks in their order, then the lease and the fetch of the head. -/
def State.dmaStart (s : State) (rec : List Byte) : Res :=
  let head := fieldLE rec 0 5
  let n := fieldLE rec 5 1
  let forJob := bitAt (fieldLE rec 6 1) 0
  let job := fieldLE rec 8 2
  if 15 < n then .error (rangeAt 5)
  else if head % 32 ≠ 0 then .error (rangeAt 0)
  else if forJob && !s.userJobActive job then .error (rangeAt 8)
  else if s.dmaState n = 1 ∨ s.dmaState n = 2 ∨ s.dmaState n = 5 ∨ s.rdBit Ix.BlockResetDma 0 n then .error s.stateAbort
  else if s.dmaReserved n then .error (leaseAbort 0x05000000)
  else
    let owner := if forJob then s.ownerField 3 job else s.ownerField 1 0
    match (s.leaseOf (0x100 + n)).filter (fun l => l.owner != owner) with
    | some l => .error (leaseAbort l.owner)
    | none =>
      let s := if s.leased (0x100 + n) then s else s.takeLease (0x100 + n) owner none none
      let s := s.setChan n { fetchAt := some head,
                             outstanding := (s.chan n).outstanding.map (fun p => { p with past := true }) }
      let s := s.wr Ix.DmaStatus (n + 1) 0
      let s := s.wr Ix.DmaHaltReason (n + 1) 0
      let s := s.wr Ix.DmaCurrentDesc (n + 1) head
      .ok (s.wr Ix.DmaState (n + 1) 1)

/-- `DmaAbort` (R337, R350). -/
def State.dmaAbort (s : State) (n : Nat) : Res :=
  if s.dmaReserved n then .error (leaseAbort 0x05000000) else .ok (s.dmaAbortWith n 0x0A)

/-! Descriptors -/

def DmaDesc.end_ (d : DmaDesc) : Bool := bitAt d.next 0
def DmaDesc.mode (d : DmaDesc) : Nat := bitsOf d.control 27 24
def DmaDesc.priority (d : DmaDesc) : Nat := bitsOf d.control 23 22
def DmaDesc.irq (d : DmaDesc) : Bool := bitAt d.control 21
def DmaDesc.fence (d : DmaDesc) : Bool := bitAt d.control 20
def DmaDesc.wb (d : DmaDesc) : Bool := bitAt d.control 19
def DmaDesc.append (d : DmaDesc) : Bool := bitAt d.control 18
def DmaDesc.ext (d : DmaDesc) : Bool := bitAt d.control 17

/-- The address a NEXT word names. -/
def nextAddr (next : Nat) : Nat := next % 2 ^ 40 / 2 * 2

/-- A descriptor and its extension from the 64 bytes at its address (Tables 15.2, 15.4). -/
def decodeDesc (a : Nat) (l : List Byte) : DmaDesc :=
  { addr := a, next := fieldLE l 0 8, src := fieldLE l 8 8, dst := fieldLE l 16 8, length := fieldLE l 24 4,
    control := fieldLE l 28 4, rows := fieldLE l 32 2, cols := fieldLE l 34 2, elem := fieldLE l 36 1,
    width := fieldLE l 37 1, blocks := fieldLE l 38 2, srcStride := fieldLE l 40 4, dstStride := fieldLE l 44 4 }

/-- Bytes of the stream a bit-plane mode packs, and of its exponent plane and each mantissa plane (R342). -/
def DmaDesc.streamBytes (d : DmaDesc) : Nat := 4 * ceilDiv (d.blocks * (4 + 24 * d.width)) 32
def DmaDesc.expPlane (d : DmaDesc) : Nat := 4 * ceilDiv (4 * d.blocks) 32
def DmaDesc.mantPlane (d : DmaDesc) : Nat := 4 * ceilDiv (24 * d.blocks) 32

/-- Does the extension break R342, or set a field its mode does not use (Table 15.4)? -/
def DmaDesc.extBad (d : DmaDesc) (reserved : Nat) : Bool :=
  if d.mode = 2 then
    d.rows == 0 || d.cols == 0 || !([2, 4, 8, 16].contains d.elem) || d.width != 0 || d.blocks != 0
      || d.srcStride % d.elem != 0 || d.dstStride % d.elem != 0
      || d.length != d.rows * d.cols * d.elem || decide (d.srcStride < d.cols * d.elem)
      || decide (d.dstStride < d.rows * d.elem) || reserved != 0
  else if d.mode = 5 ∨ d.mode = 6 then
    d.rows != 0 || d.cols != 0 || d.elem != 0 || d.srcStride != 0 || d.dstStride != 0
      || decide (d.width < 7) || decide (16 < d.width) || d.blocks == 0 || decide (1092 < d.blocks)
      || d.length != d.streamBytes || reserved != 0
  else
    d.rows != 0 || d.cols != 0 || d.elem != 0 || d.width != 0 || d.blocks != 0 || d.srcStride != 0
      || d.dstStride != 0 || reserved != 0

/-- Is a reserved bit or code set in the descriptor, or an extension missing, or NEXT misaligned (R340 step 5)? -/
def DmaDesc.bad (d : DmaDesc) (extReserved : Nat) : Bool :=
  decide (2 ^ 40 ≤ d.next) || bitsOf d.next 4 1 != 0 || decide (2 ^ 24 ≤ d.length)
    || (if d.mode = 1 then decide (2 ^ 32 ≤ d.src) else decide (2 ^ 40 ≤ d.src)) || decide (2 ^ 40 ≤ d.dst)
    || decide (6 < d.mode) || bitsOf d.control 31 28 != 0 || bitsOf d.control 16 0 != 0
    || ((d.mode == 2 || d.mode == 5 || d.mode == 6) && !d.ext)
    || ((d.mode == 3 || d.mode == 4) && d.length % 4 != 0)
    || (d.ext && d.extBad extReserved)

/-- The first failure of the checks of R340 after a fetch that read the descriptor, as a halt reason. -/
def DmaDesc.failure (d : DmaDesc) (poison : Bool) (extReserved : Nat) : Option Nat :=
  if poison then some 0x07
  else if !d.end_ && nextAddr d.next == d.addr then some 0x02
  else if d.length % 2 ^ 24 = 0 then some 0x01
  else if d.bad extReserved then some 0x06
  else none

/-- What a channel does once a descriptor is behind it (R343, R347): a late error halts it; without END it fetches on, and
with END it waits for an append or reaches DONE. -/
def State.dmaNext (s : State) (n : Nat) (d : DmaDesc) : State :=
  let c := s.chan n
  if c.lateHalt then s.dmaStop n 4 0x09
  else if !d.end_ then
    if s.rd Ix.DmaHopLimit (n + 1) < c.hops + 1 then s.dmaStop n 4 0x03
    else s.setChan n { c with desc := none, fetchAt := some (nextAddr d.next), turning := false }
  else if d.append then
    let s := s.setChan n { c with desc := some d, fetchAt := none, hops := 0, pollAt := s.now, turning := false }
    s.wr Ix.DmaState (n + 1) 2
  else
    let s := s.setChan n { c with desc := none, fetchAt := none, turning := false }
    (s.wr Ix.DmaState (n + 1) 3).freeLease (0x100 + n)

/-- Issue a channel's waiting status write-backs while its outstanding-write table has a free entry (R345, R348). -/
def State.dmaWriteBacks (s : State) (n : Nat) : State :=
  let c := s.chan n
  let room := 16 - c.outstanding.length
  let s := s.setChan n { c with wbQueue := c.wbQueue.drop room }
  (c.wbQueue.take room).foldl (fun (s : State) (q : Nat × List Nat) =>
    let w := s.writeWords (.dma n) (q.1 + 24) (q.2.map (fun v => (leBytes 4 v, false)))
    let c := w.2.chan n
    let c : DmaChan := { c with outstanding := c.outstanding ++ [DmaPending.mk (q.1 + 24) q.1 w.1.isSome true] }
    w.2.setChan n c) s

/-- A descriptor completes (R346): the counts, DMA_DESC_DONE under IRQ, the write-back of R348. -/
def State.dmaComplete (s : State) (n : Nat) (d : DmaDesc) : State :=
  let s := s.bump Ix.DmaDescCount (n + 1)
  let s := s.wr Ix.DmaBytes (n + 1) ((s.rd Ix.DmaBytes (n + 1) + d.length) % 2 ^ 64)
  let s := if d.irq then s.raise 0x5801 (n + 1) (packData [f8 n, f40 d.addr]) else s
  let c := s.chan n
  let status := 2 ^ 31 + b2n c.poisoned * 2 ^ 29 + d.length % 2 ^ 24
  let c : DmaChan := { c with outstanding := c.outstanding.map (fun p => { p with past := true }) }
  let s := if d.wb then
      let c : DmaChan := { c with wbStatus := tins d.addr status c.wbStatus,
                                  wbQueue := c.wbQueue ++ [(d.addr, [status, s.epoch % 2 ^ 32])] }
      (s.setChan n c).dmaWriteBacks n
    else s.setChan n { c with wbStatus := tdel d.addr c.wbStatus }
  s.dmaNext n d

/-- A fetch reads the descriptor's words and the extension's, all of them (R339). -/
def State.dmaFetchRead (s : State) (n a : Nat) : List WordRead × State :=
  let r := s.readWords (.dma n) 8 a
  let control := (r.1.getD 7 ⟨0, true, true⟩).data
  if bitAt control 17 then
    let t := r.2.readWords (.dma n) 8 (a + 32)
    (r.1 ++ t.1, t.2)
  else r

/-- DESCRIPTOR_FETCH (R339, R340, R344): `timeout` tells that the Mortar timeout ended the fetch. A fetch that needs a
domain that is off, or a page on the slow path, waits. -/
def State.descriptorFetch (s : State) (n : Nat) (timeout : Bool) : State :=
  let c := s.chan n
  match c.fetchAt with
  | none => s
  | some a =>
    if s.dmaState n ≠ 1 then s
    else
      match accessDomain a with
      | some d =>
        let w := s.needDomain d
        if !w.1 then w.2
        else
          let s := w.2
          let h := s.slowHold a 64
          if h.1 then h.2
          else
            let s := s.wr Ix.DmaCurrentDesc (n + 1) a
            if timeout then s.dmaStop n 4 0x04
            else
              let r := s.dmaFetchRead n a
              let s := r.2
              if r.1.any (·.error) then s.dmaStop n 4 0x05
              else
                let l := r.1.flatMap (fun w => leBytes 4 w.data)
                let desc := decodeDesc a l
                match desc.failure (r.1.any (·.poison)) (fieldLE l 48 16) with
                | some reason =>
                  let s := if reason = 0x07 then s.consumePoison a else s
                  s.dmaStop n 4 reason
                | none => s.setChan n { c with fetchAt := none, desc := some desc, done := 0,
                                               hops := c.hops + 1, poisoned := false }
      | none => (s.wr Ix.DmaCurrentDesc (n + 1) a).dmaStop n 4 0x05

/-! Modes: the destination address and the source of each output byte -/

/-- Where an output byte comes from: the fill pattern, one source byte, or eight bits of source bytes, each a byte address
and a bit number, `none` for padding. -/
inductive ByteSource where
  | lit (b : Nat)
  | byte (a : Nat)
  | bits (l : List (Option (Nat × Nat)))
  deriving DecidableEq, Repr

/-- Output bytes of a descriptor. -/
def DmaDesc.outLength (d : DmaDesc) : Nat :=
  if d.mode = 5 then d.expPlane + d.width * d.mantPlane else d.length

/-- Row, column and byte of an element for output byte `k` of a corner turn: row tiles of 64 in order, within each the column
tiles of 64, within each the columns, and down each column its rows (R342). -/
def DmaDesc.turnIndex (d : DmaDesc) (k : Nat) : Nat × Nat × Nat :=
  let e := k / d.elem
  let i := e / (64 * d.cols)
  let rows := min 64 (d.rows - 64 * i)
  let r := e % (64 * d.cols)
  let j := r / (rows * 64)
  let q := r % (rows * 64)
  (64 * i + q % rows, 64 * j + q / rows, k % d.elem)

/-- The destination address of output byte `k`. -/
def DmaDesc.outAddr (d : DmaDesc) (k : Nat) : Nat :=
  if d.mode = 2 then
    let t := d.turnIndex k
    d.dst + t.2.1 * d.dstStride + t.1 * d.elem + t.2.2
  else d.dst + k

/-- A bit of a packed plane or stream at `base`, counted from bit 7 of byte 0 downward. -/
def packedBit (base q : Nat) : Option (Nat × Nat) := some (base + q / 8, 7 - q % 8)

/-- Bit `q` of the split's output (R342): the exponent plane, then the mantissa planes. -/
def DmaDesc.splitBit (d : DmaDesc) (k i : Nat) : Option (Nat × Nat) :=
  let block := 4 + 24 * d.width
  if k < d.expPlane then
    let q := 8 * k + i
    if q < 4 * d.blocks then packedBit d.src (q / 4 * block + q % 4) else none
  else
    let j := (k - d.expPlane) / d.mantPlane
    let q := 8 * ((k - d.expPlane) % d.mantPlane) + i
    if q < 24 * d.blocks then packedBit d.src (q / 24 * block + 4 + q % 24 * d.width + j) else none

/-- Bit `q` of the merged stream (R342). -/
def DmaDesc.mergeBit (d : DmaDesc) (q : Nat) : Option (Nat × Nat) :=
  let block := 4 + 24 * d.width
  let b := q / block
  let r := q % block
  if d.blocks ≤ b then none
  else if r < 4 then packedBit d.src (4 * b + r)
  else
    let n := 24 * b + (r - 4) / d.width
    packedBit (d.src + d.expPlane + (r - 4) % d.width * d.mantPlane) n

/-- The source of output byte `k` (R341, R342). -/
def DmaDesc.source (d : DmaDesc) (k : Nat) : ByteSource :=
  match d.mode with
  | 0 => .byte (d.src + k)
  | 1 => .lit (d.src / 256 ^ (k % 4) % 256)
  | 2 =>
    let t := d.turnIndex k
    .byte (d.src + t.1 * d.srcStride + t.2.1 * d.elem + t.2.2)
  | 3 =>
    if k < d.length / 2 then .byte (d.src + 4 * (k / 2) + k % 2)
    else .byte (d.src + 4 * ((k - d.length / 2) / 2) + 2 + k % 2)
  | 4 => .byte (d.src + k % 4 / 2 * (d.length / 2) + 2 * (k / 4) + k % 2)
  | 5 => .bits ((List.range 8).map (fun i => d.splitBit k i))
  | _ => .bits ((List.range 8).map (fun i => d.mergeBit (8 * k + i)))

/-- The source words an output byte needs. -/
def ByteSource.words : ByteSource → List Nat
  | .lit _ => []
  | .byte a => [wordOf a]
  | .bits l => l.filterMap (fun b => b.map (fun c => wordOf c.1))

/-- A byte of a table of words read. -/
def tableByte (t : Tab WordRead) (a : Nat) : Nat := (tget ⟨0, true, true⟩ (wordOf a) t).data / 256 ^ (a % 4) % 256

/-- The value of an output byte from the words read. -/
def ByteSource.value (t : Tab WordRead) : ByteSource → Byte
  | .lit b => BitVec.ofNat 8 b
  | .byte a => BitVec.ofNat 8 (tableByte t a)
  | .bits l => BitVec.ofNat 8 (l.foldl (fun acc b => 2 * acc + match b with
      | none => 0
      | some c => tableByte t c.1 / 2 ^ c.2 % 2) 0)

/-- Does any source word of an output byte carry the mark (R349)? -/
def ByteSource.marked (t : Tab WordRead) (b : ByteSource) : Bool :=
  b.words.any (fun w => (tget ⟨0, true, true⟩ w t).poison)

/-- The output bytes of a burst: at most 256, contiguous at the destination, inside one 256-byte block (R345). -/
def DmaDesc.burstRun (d : DmaDesc) : Nat → Nat → Nat → List Nat
  | 0, _, _ => []
  | fuel + 1, k, want =>
    if d.outLength ≤ k then []
    else if d.outAddr k = want then
      k :: (if (want + 1) % 256 = 0 then [] else d.burstRun fuel (k + 1) (want + 1))
    else []

/-- The destination bytes the spec leaves undefined where the ranges overlap (R341): with DST of a copy above SRC the
bytes that lie in the source, and otherwise every byte of a copy, split or merge; and every byte of a corner turn whose regions
meet, for which the spec states no result. They get free values. -/
def DmaDesc.overlapped (d : DmaDesc) (k : Nat) : Bool :=
  let srcLen := if d.mode = 6 then d.expPlane + d.width * d.mantPlane else d.length
  let overlap := decide (d.dst < d.src + srcLen) && decide (d.src < d.dst + d.outLength)
  match d.mode with
  | 0 => if d.src < d.dst then decide (d.dst + k < d.src + d.length) else overlap
  | 1 => false
  | 2 =>
    decide (d.dst < d.src + (d.rows - 1) * d.srcStride + d.cols * d.elem)
      && decide (d.src < d.dst + (d.cols - 1) * d.dstStride + d.rows * d.elem)
  | _ => overlap

/-- Has a channel a burst ready (R345)? -/
def State.dmaReady (s : State) (n : Nat) : Bool :=
  let c := s.chan n
  match c.desc with
  | none => false
  | some d =>
    s.dmaState n == 1 && c.wbQueue.isEmpty && decide (c.done < d.outLength) && decide (c.outstanding.length < 16)
      && (d.mode != 2 || c.turning || decide (((List.range 16).filter (fun m => (s.chan m).turning)).length < 2))

/-- The channels with a burst ready in the order the engine serves them (R345): the highest priority first, round-robin among
equals from the channel after the one last served at that priority. -/
def State.dmaOrder (s : State) : List Nat :=
  let ready := (List.range 16).filter s.dmaReady
  let prio := fun n => match (s.chan n).desc with
    | some d => d.priority
    | none => 0
  [3, 2, 1, 0].flatMap (fun p =>
    let last := tget 15 p s.dma.lastServed
    ((List.range 16).map (fun i => (last + 1 + i) % 16)).filter (fun n => ready.contains n && prio n == p))

/-- Read the words of a list, each once. -/
def State.readTable (s : State) (m : Master) : List Nat → Tab WordRead → Tab WordRead × State
  | [], t => (t, s)
  | w :: l, t =>
    if thas w t then s.readTable m l t
    else
      let r := s.readWord m w
      r.2.readTable m l (tins w r.1 t)

/-- The parts of a burst inside each word: address, bytes, mark. -/
def burstParts (a : Nat) (l : List (Byte × Bool)) : List (Nat × List Byte × Bool) :=
  let parts := splitWords (l.length + 1) a (l.map (·.1))
  (parts.foldl (fun (acc : List (Nat × List Byte × Bool) × Nat × List (Byte × Bool)) p =>
    let here := acc.2.2.take p.length
    (acc.1 ++ [(acc.2.1, p, here.any (·.2))], acc.2.1 + p.length, acc.2.2.drop p.length)) ([], a, l)).1

/-- The domains a burst touches that are off, woken in turn; true where none is. -/
def State.needDomains (s : State) : List Nat → Bool × State
  | [] => (true, s)
  | d :: l =>
    let r := s.needDomain d
    let t := r.2.needDomains l
    (r.1 && t.1, t.2)

/-- Is any byte range of a list held by the slow path? -/
def State.slowHolds (s : State) : List Nat → Bool × State
  | [] => (false, s)
  | w :: l =>
    let r := s.slowHold w 4
    let t := r.2.slowHolds l
    (r.1 || t.1, t.2)

/-- A burst's source words are read and its bytes written, and the write enters the outstanding-write table (R345, R349). -/
def State.dmaIssue (s : State) (n : Nat) (d : DmaDesc) (ks : List Nat) : State :=
  let c := s.chan n
  let srcs := ks.map (fun k => (k, d.source k))
  let tr := s.readTable (.dma n) (srcs.flatMap (fun b => b.2.words)) []
  let s := tr.2
  let bytes := srcs.map (fun b =>
    (if d.overlapped b.1 then Config.overlapByte s.free b.1 else b.2.value tr.1, b.2.marked tr.1))
  let s := if ks.any d.overlapped then { s with free := s.free + 1 } else s
  let a := d.outAddr c.done
  let w := (burstParts a bytes).foldl (fun (acc : Bool × State) p =>
    let r := acc.2.writeWord (.dma n) p.1 p.2.1 p.2.2
    (acc.1 || r.1, r.2)) (false, s)
  let s := w.2
  let marked := bytes.any (·.2)
  let s := if marked && !c.poisoned then
      (s.wrBit Ix.DmaStatus (n + 1) 2 true).raise 0x5804 (n + 1) (packData [f8 n, f40 d.addr])
    else s
  let s := { s with dma := { s.dma with lastServed := tins d.priority n s.dma.lastServed } }
  s.setChan n { c with done := c.done + ks.length, poisoned := c.poisoned || marked,
                       turning := d.mode == 2,
                       outstanding := c.outstanding ++ [DmaPending.mk a d.addr w.1 false] }

/-- After its last burst a descriptor completes, unless a fence holds it (R346). -/
def State.dmaAfterBurst (s : State) (n : Nat) (d : DmaDesc) : State :=
  let c := s.chan n
  if c.done < d.outLength then s
  else if d.fence && !c.outstanding.isEmpty then s
  else s.dmaComplete n d

/-- The first channel of a list whose burst can go issues it. An access that needs a domain that is off, or a page on the
slow path, stalls the channel that makes it and no other (R345). -/
def State.dmaServe (s : State) : List Nat → State
  | [] => s
  | n :: l =>
    let c := s.chan n
    match c.desc with
    | none => s.dmaServe l
    | some d =>
      let ks := d.burstRun 256 c.done (d.outAddr c.done)
      let words := (ks.flatMap (fun k => (d.source k).words)).eraseDups
      let a := d.outAddr c.done
      let doms := ((words.filterMap accessDomain) ++ (accessDomain a).toList).eraseDups
      let g := s.needDomains doms
      if !g.1 then g.2.dmaServe l
      else
        let h := g.2.slowHolds words
        if h.1 then h.2.dmaServe l
        else (h.2.dmaIssue n d ks).dmaAfterBurst n d

/-- DMA_BURST (R345): the engine chooses a channel and issues one of its bursts. -/
def State.dmaBurst (s : State) : State := s.dmaServe s.dmaOrder

/-- A late error (R347): counted; the first one recorded; the status word written again under WB. -/
def State.dmaLateError (s : State) (n : Nat) (p : DmaPending) : State :=
  let c := s.chan n
  let s := s.bump Ix.DmaLateErrCount (n + 1)
  let s := s.wrBit Ix.DmaStatus (n + 1) 1 true
  let s := if c.lateSeen then s
    else (s.wr Ix.DmaLateErrDesc (n + 1) p.desc).wr Ix.DmaErrTarget (n + 1) p.dst
  let s := s.setChan n { s.chan n with lateSeen := true }
  let s := s.raise 0x5803 (n + 1) (packData [f8 n, f40 p.desc])
  if !thas p.desc c.wbStatus then s
  else
    let status := tget 0 p.desc c.wbStatus
    let c := s.chan n
    let c : DmaChan := { c with wbQueue := c.wbQueue ++ [(p.desc, [setBit status 30 true])] }
    (s.setChan n c).dmaWriteBacks n

/-- DMA_WRITE_RESPONSE (R347): the response of entry `i` of the channel's outstanding-write table. -/
def State.dmaWriteResponse (s : State) (n i : Nat) : State :=
  let c := s.chan n
  match c.outstanding[i]? with
  | none => s
  | some p =>
    let s := s.setChan n { c with outstanding := c.outstanding.eraseIdx i }
    let st := s.dmaState n
    let s :=
      if !p.error then s
      else if !p.past && st == 4 then s
      else if !p.past && st == 1 then
        (s.wr Ix.DmaErrTarget (n + 1) p.dst).dmaStop n 4 0x08
      else
        let s := s.dmaLateError n p
        if st = 5 ∨ s.rdBit Ix.DmaChannelCtrl (n + 1) 0 then s
        else if st = 2 ∨ st = 3 then s.dmaStop n 4 0x09
        else if st = 1 then s.setChan n { s.chan n with lateHalt := true }
        else s
    let s := if (s.chan n).wbQueue.isEmpty || s.dmaState n == 5 then s else s.dmaWriteBacks n
    let c := s.chan n
    if s.dmaState n = 5 ∧ c.outstanding.isEmpty then s.dmaStop n 6 c.stopReason
    else if s.dmaState n = 1 then
      match c.desc with
      | some d => if d.fence && decide (d.outLength ≤ c.done) && c.outstanding.isEmpty then s.dmaComplete n d else s
      | none => s
    else s

/-- APPEND_POLL (R343): a waiting channel re-reads the NEXT word once its poll period has passed, and fetches on where END is
clear, after the checks of R340 on the word. -/
def State.appendPoll (s : State) (n : Nat) : State :=
  let c := s.chan n
  if s.dmaState n ≠ 2 then s
  else match c.desc with
    | none => s
    | some d =>
      if !s.elapsed c.pollAt (nsec (s.rd Ix.DmaAppendPoll (n + 1))) then s
      else
        let g := s.needDomains (accessDomain d.addr).toList
        let h := g.2.slowHold d.addr 8
        if !g.1 then g.2
        else if h.1 then h.2
        else
          let r := h.2.readWords (.dma n) 2 d.addr
          let s := r.2
          let next := (r.1.getD 0 ⟨0, true, true⟩).data + 2 ^ 32 * (r.1.getD 1 ⟨0, true, true⟩).data
          if r.1.any (·.error) then s.dmaStop n 4 0x05
          else if r.1.any (·.poison) then (s.consumePoison d.addr).dmaStop n 4 0x07
          else if bitAt next 0 then s.setChan n { c with pollAt := s.now }
          else if nextAddr next = d.addr then s.dmaStop n 4 0x02
          else if bitsOf next 4 1 ≠ 0 ∨ 2 ^ 40 ≤ next then s.dmaStop n 4 0x06
          else (s.setChan n { c with desc := none, fetchAt := some (nextAddr next) }).wr Ix.DmaState (n + 1) 1

end Sys2Proof.Machine
end

