-- ==== Sys2Proof/Machine/Thermal.lean ====
section
/-! DEFINITION. Housekeeping converters, temperature sensors, limits, the throttle and shutdown (R396 to R400, R408 to R416,
R421). -/
namespace Sys2Proof.Machine

def State.sensor (s : State) (n : Nat) : SensorSys := tget {} n s.therm.sensors
def State.setSensor (s : State) (n : Nat) (v : SensorSys) : State :=
  { s with therm := { s.therm with sensors := tins n v s.therm.sensors } }

/-! Converters (R396 to R400) -/

/-- The state of a converter: 0 off, 1 working, 2 suspect, 3 failed, 4 excluded. -/
def State.hkState (s : State) (c : Nat) : Nat := s.rd Ix.HkConverterState (c + 1)

/-- Does a converter work, suspect or not? -/
def State.hkWorks (s : State) (c : Nat) : Bool := s.hkState c == 1 || s.hkState c == 2

/-- Are both converters suspect (R399)? -/
def State.hkSuspect (s : State) : Bool := s.hkState 0 == 2 && s.hkState 1 == 2

/-- A channel's converter by default (Table 18.1): 0 HKA, 1 HKB, 2 both. -/
def hkOwner (ch : Nat) : Nat :=
  if ch = 0x30 then 2
  else if 0x40 ≤ ch ∧ ch < 0x48 then (if ch < 0x44 then 0 else 1)
  else if 0x50 ≤ ch ∧ ch < 0x60 then (if ch < 0x58 then 0 else 1)
  else ch % 2

/-- Is a channel a temperature: a die sensor or a remote input? -/
def isTempChannel (ch : Nat) : Bool := (decide (0x40 ≤ ch) && decide (ch < 0x48)) || (decide (0x50 ≤ ch) && decide (ch < 0x60))

/-- Does a converter carry a channel (R397, R399, R400)? -/
def State.hkCarries (s : State) (c ch : Nat) : Bool :=
  s.hkWorks c && (!s.hkWorks (1 - c) || hkOwner ch == 2 || hkOwner ch == c || (s.hkSuspect && isTempChannel ch))

/-- Both converters are failed or excluded: readings stop, cause HK (R400). -/
def State.hkStopped (s : State) : State :=
  if s.hkWorks 0 || s.hkWorks 1 then s
  else { s with therm := { s.therm with stopped := true } }.causeActive 2

/-- A converter fails (R400): reason 1 timeout, 2 bandgap. -/
def State.hkFails (s : State) (c reason : Nat) : State :=
  if !s.hkWorks c then s
  else
    let s := s.wr Ix.HkConverterState (c + 1) 3
    let led := !s.hkWorks (1 - c) && s.mode != 7
    (s.raiseAt 0x6802 Ix.HkConverterState (c + 1) (packData [f8 c, f8 reason]) led).hkStopped

/-- Does a bandgap result lie more than 1 % from the trimmed value (R400)? -/
def State.bandgapBad (s : State) (r : Nat) : Bool :=
  decide (s.fuse.bandgap < 100 * ((r : Int) - (s.fuse.bandgap : Int)).natAbs)

/-- The result and scaled value of an external input (R398): the mean code times 2.5 V / 65,536 times the gain, plus the offset, rounded
to the nearest binary32. -/
def State.hkInput (s : State) (i sum : Nat) : State :=
  let avg := s.rd Ix.HkAverage (i + 1)
  let shift := avg / 16
  let logN := avg % 16
  let r := sum / 2 ^ shift
  let g := floatParts (s.rd Ix.HkGain (i + 1))
  let o := floatParts (s.rd Ix.HkOffset (i + 1))
  let m : Int := (r * 2 ^ shift * 5 : Nat) * g.1
  let e : Int := g.2 - (17 + logN : Nat)
  let low := min e o.2
  let v := floatOf (m * 2 ^ (e - low).toNat + o.1 * 2 ^ (o.2 - low).toNat) low
  (s.wr Ix.HkRaw (i + 1) r).wr Ix.HkValue (i + 1) v

/-! Limits (R411, R412) -/

/-- The tiles a throttle on a sensor acts on (Table 18.4). -/
def sensorTiles (n : Nat) : List Nat :=
  if n < 16 then [n] else if n < 20 then (List.range 4).map (· + 4 * (n - 16)) else List.range 16

/-- The shutdown group of a sensor (Table 18.4). -/
def sensorGroup (n : Nat) : Nat := if n < 16 then 1 else if n < 20 then 2 else if n < 22 then 3 else 4

/-- One threshold: two consecutive readings at or above it cross upward; a reading below it less the hysteresis crosses back (R411).
Answers the count and the crossing, if any. -/
def crossing (count : Nat) (set : Bool) (r thr hyst : Int) : Nat × Option Bool :=
  let n := if thr ≤ r then min 2 (count + 1) else 0
  if n = 2 ∧ set = false then (n, some true)
  else if r < thr - hyst ∧ set = true then (n, some false)
  else (n, none)

/-- The limit's count of a sensor is kept and its bit of `TempStatus` follows a crossing. -/
def State.cross (s : State) (n k bit : Nat) (r thr : Int) : Option Bool × State :=
  let v := s.sensor n
  let c := crossing (tget 0 k v.above) (s.rdBit Ix.TempStatus (n + 1) bit) r thr (s.rd Ix.TempHysteresis 0)
  let s := s.setSensor n { v with above := tput 0 k c.1 v.above }
  match c.2 with
  | some b => (c.2, s.wrBit Ix.TempStatus (n + 1) bit b)
  | none => (none, s)

/-- The rise over the last 100 ms in 0.1 °C/s (R412): from the newest reading at least that old. -/
def State.tempRise (s : State) (n : Nat) (r : Int) : Int :=
  match ((s.sensor n).history.filter (fun h => s.elapsed h.1 (msec 100))).getLast? with
  | some h => 10 * (r - h.2)
  | none => 0

/-- The rise rule of R412. -/
def State.judgeRise (s : State) (n : Nat) (r : Int) : State :=
  let rise := s.tempRise n r
  let v := s.sensor n
  let keep := (v.history.filter (fun h => s.elapsed h.1 (msec 100))).getLast?.toList ++ v.history.filter (fun h => !s.elapsed h.1 (msec 100))
  let s := s.setSensor n { v with history := keep ++ [(s.now, r)],
                                  calmSince := if (s.rd Ix.TempRateLimit 0 : Int) < rise then s.now else v.calmSince }
  let set := s.rdBit Ix.TempStatus (n + 1) 4
  let event := fun (s : State) (b : Bool) =>
    (s.wrBit Ix.TempStatus (n + 1) 4 b).raise 0x6C05 (n + 1) (packData [f8 n, f16 (ofInt 16 rise), fFlag b])
  if (s.rd Ix.TempRateLimit 0 : Int) < rise then (if set then s else event s true)
  else if set && s.elapsed v.calmSince (msec 100) then event s false
  else s

/-! Throttle (R413, R414) -/

/-- The reduction a sensor asks of a tile. -/
def State.askedReduction (s : State) (n t : Nat) : Nat := tget 0 (n * 16 + t) s.therm.reduction

/-- A tile's reduction is the largest over the sensors acting on it; since when it stands at its floor is kept. -/
def State.setReduction (s : State) (n t red : Nat) : State :=
  let s := { s with therm := { s.therm with reduction := tput 0 (n * 16 + t) red s.therm.reduction } }
  let all := ((List.range 24).filter (fun k => (sensorTiles k).contains t)).map (fun k => s.askedReduction k t)
  let top : Nat := all.foldl max 0
  let s := s.wr Ix.ThrottleReduction (t + 1) top
  let floor := s.rd Ix.ThrottleFloor (t + 1)
  if floor ≤ top then
    if thas t s.therm.floorSince then s else { s with therm := { s.therm with floorSince := tins t s.now s.therm.floorSince } }
  else { s with therm := { s.therm with floorSince := tdel t s.therm.floorSince } }

/-- A sensor comes to count as above THROTTLE, or stops counting so (R412 to R414). -/
def State.judgeThrottle (s : State) (n : Nat) (r : Int) : State :=
  let v := s.sensor n
  let high := s.rdBit Ix.TempStatus (n + 1) 2 || s.rdBit Ix.TempStatus (n + 1) 4
  let event := fun (s : State) (b : Bool) => s.raise 0x6C02 (n + 1) (packData [f8 n, f16 (ofInt 16 r), fFlag b])
  if high && !v.counts then event (s.setSensor n { v with counts := true, graceAt := some s.now }) true
  else if !high && v.counts then
    event (s.setSensor n { v with counts := false, graceAt := none, enforce := false, stepAt := s.now }) false
  else s

/-- One step of enforcement upward on each tile of a sensor (R413). -/
def State.stepUp (s : State) (n : Nat) : State :=
  (sensorTiles n).foldl (fun s t =>
    let red := s.askedReduction n t
    let floor := s.rd Ix.ThrottleFloor (t + 1)
    if floor ≤ red then s
    else
      let new := min floor (red + s.rd Ix.ThrottleStep (t + 1))
      let s := s.setReduction n t new
      s.raise 0x6C03 (t + 1) (packData [f8 t, f16 (s.rd Ix.ThrottleReduction (t + 1))])) s

/-- One step downward on each tile of a sensor (R414). -/
def State.stepDown (s : State) (n : Nat) : State :=
  (sensorTiles n).foldl (fun s t => s.setReduction n t (s.askedReduction n t - s.rd Ix.ThrottleStep (t + 1))) s

/-- THROTTLE_GRACE (R413): the grace time of a sensor ends; enforcement starts with its first step. -/
def State.throttleGrace (s : State) (n : Nat) : State :=
  let v := s.sensor n
  match v.graceAt with
  | none => s
  | some t =>
    if !s.elapsed t (msec (s.rd Ix.ThrottleGrace 0)) then s
    else if s.rd Ix.ThrottleMode 0 = 1 ∧ v.counts then
      (s.setSensor n { v with graceAt := none, enforce := true, stepAt := s.now }).stepUp n
    else s.setSensor n { v with graceAt := none }

/-- THROTTLE_STEP (R413, R414): 100 ms after the step before, the reductions of a sensor's tiles step up, or down once it has
crossed back; `ThrottleMode` 0x00 freezes them (R184). -/
def State.throttleStep (s : State) (n : Nat) : State :=
  let v := s.sensor n
  if s.rd Ix.ThrottleMode 0 ≠ 1 ∨ s.elapsed v.stepAt (msec 100) = false then s
  else if v.enforce then (s.setSensor n { v with stepAt := v.stepAt + msec 100 }).stepUp n
  else if !v.counts && (sensorTiles n).any (fun t => s.askedReduction n t != 0) then
    (s.setSensor n { v with stepAt := v.stepAt + msec 100 }).stepDown n
  else s

/-- Is a tile held at its reduction by a sensor still above THROTTLE? -/
def State.tileEnforced (s : State) (t : Nat) : Bool :=
  (List.range 24).any (fun n => (sensorTiles n).contains t && (s.sensor n).enforce && (s.sensor n).counts)

/-- The tiles of `TileMuted` enter hold-off, the others leave it. -/
def State.mutedTilesOff (s : State) : State :=
  { s with therm := { s.therm with tilesOff := (List.range 16).filter (fun t => s.rdBit Ix.TileMuted 0 t) } }

/-- TILE_MUTE (R413): a tile at its floor for `ThrottleMuteDelay` with the sensor still above THROTTLE is muted; its paths enter
hold-off at the next slot boundary. -/
def State.tileMute (s : State) (t : Nat) : State :=
  let delay := s.rd Ix.ThrottleMuteDelay 0
  match s.therm.floorSince.find? (fun c => c.1 == t) with
  | some c =>
    if delay = 65535 ∨ s.elapsed c.2 (msec delay) = false ∨ s.rdBit Ix.TileMuted 0 t ∨ s.tileEnforced t = false
        ∨ s.rd Ix.ThrottleMode 0 ≠ 1 then s
    else
      let s := (s.wrBit Ix.TileMuted 0 t true).raise 0x6C04 (t + 1) (packData [f8 t, fFlag true])
      if isSlotStart s.epoch && s.now == s.tb.tickAt then s.mutedTilesOff else s
  | none => s

/-- At a slot boundary (R183, R413, R414): tiles no longer enforced leave their mute, muted ones enter hold-off, and edges of the
reductions that come into force are reported. -/
def State.throttleAtSlot (s : State) : State :=
  let s := (List.range 16).foldl (fun s t =>
    if s.rdBit Ix.TileMuted 0 t && !s.tileEnforced t then
      (s.wrBit Ix.TileMuted 0 t false).raise 0x6C04 (t + 1) (packData [f8 t, fFlag false])
    else s) s
  let s := s.mutedTilesOff
  (List.range 16).foldl (fun s t =>
    let red := s.rd Ix.ThrottleReduction (t + 1)
    let atFloor := red != 0 && decide (s.rd Ix.ThrottleFloor (t + 1) ≤ red)
    s.loopAt (4 * t) 6 (if atFloor then (if s.loopEdge (4 * t) 6 = 4 then 4 else 2) else 0)) s

/-- A committed floor below the reduction in force moves it there at once (R184). -/
def State.clampReduction (s : State) (t : Nat) : State :=
  let floor := s.rd Ix.ThrottleFloor (t + 1)
  if s.rd Ix.ThrottleReduction (t + 1) ≤ floor then s
  else
    let s := (List.range 24).foldl (fun s n =>
      if floor < s.askedReduction n t then s.setReduction n t floor else s) s
    s.loopAt (4 * t) 6 4

/-! Shutdown (R415, R416) -/

/-- A latched shutdown acts at once (R416): hold-off, clear codes, THERM_N low, every domain but AON off. -/
def State.latchShutdown (s : State) : State :=
  let s := { s with therm := { s.therm with holdOff := true, latched := true } }
  let s := s.clearBegins 3
  s.forEach ((List.range 11).map (· + 1)) (fun d s => s.switchOff d)

/-- THERM_SHUTDOWN: a sensor crosses SHUTDOWN upward (R415). -/
def State.shutdownCross (s : State) (n : Nat) (r : Int) : State :=
  let m := s.rd Ix.ShutdownMode (sensorGroup n)
  let s := s.raiseAt 0x6C06 Ix.TempStatus (n + 1) (packData [f8 n, f8 m, f16 (ofInt 16 r)]) true
  if m = 1 then s.latchShutdown
  else if s.therm.shut.isSome then s
  else { s with therm := { s.therm with shut := some ⟨n, s.now, none⟩ } }

/-- An orderly shutdown acts: every transmit path enters hold-off (R415). -/
def State.shutdownActs (s : State) : State :=
  match s.therm.shut with
  | some ⟨n, since, none⟩ =>
    { s with therm := { s.therm with holdOff := true, shut := some ⟨n, since, some s.now⟩ } }
  | _ => s

/-- SHUTDOWN_DEADLINE (R415): at SHUTDOWN + 5.0 °C, or after 50 ms, the shutdown acts at once. -/
def State.shutdownDeadline (s : State) : State :=
  match s.therm.shut with
  | some sh =>
    if s.elapsed sh.since (msec 50)
        || (List.range 24).any (fun n => s.rdBit Ix.TempStatus (n + 1) 3
          && decide (s.rdI 16 Ix.TempShutdown (n + 1) + 50 ≤ s.rdI 16 Ix.TempReading (n + 1))) then s.shutdownActs
    else s
  | none => s

/-- SHUTDOWN_BIAS_CLEAR (R415): 5 µs after hold-off the bias outputs clear and Safe Hold is entered with cause THERMAL. -/
def State.shutdownBiasClear (s : State) : State :=
  match s.therm.shut with
  | some ⟨_, _, some t⟩ =>
    if s.elapsed t (usec 5) then
      (({ s with therm := { s.therm with shut := none } }).clearBegins 3).causeActive 1
    else s
  | _ => s

/-- The THERMAL cause ends when no sensor is above SHUTDOWN any more (R415, Table 19.2). -/
def State.thermalOver (s : State) : State :=
  if s.rdBit Ix.SafeHoldCauses 0 1 && s.therm.shut.isNone && !s.therm.latched
      && (List.range 24).all (fun n => !s.rdBit Ix.TempStatus (n + 1) 3) then
    ({ s with therm := { s.therm with holdOff := false } }.causeCleared 1).clearEnds 3
  else s

/-! Readings (R408 to R410, R421) -/

/-- The reading that stands in for a faulted sensor: of the nearest valid remote sensor of the course, the lower tile first, else of
the course's die sensor (R421); for a die sensor the highest valid die reading (R410). -/
def State.substitute (s : State) (n : Nat) : Int :=
  let ok := fun k => (s.sensor k).fault == 0
  let val := fun k => s.rdI 16 Ix.TempReading (k + 1)
  if n < 16 then
    let near := ((List.range 4).map (· + 1)).flatMap (fun d => (if d ≤ n then [n - d] else []) ++ [n + d])
    match near.find? (fun t => decide (t < 16) && t / 4 == n / 4 && ok t) with
    | some t => val t
    | none => val (16 + n / 4)
  else
    let good := ((List.range 8).map (· + 16)).filter (fun k => k != n && ok k)
    match good.map val with
    | [] => val n
    | v :: t => t.foldl max v

/-- SENSOR_FAULT when a sensor becomes faulted or valid again, or its reason changes (R410). -/
def State.sensorFault (s : State) (n reason : Nat) : State :=
  let v := s.sensor n
  if v.fault = reason then s
  else
    let s := (s.setSensor n { v with fault := reason }).wrBit Ix.TempStatus (n + 1) 6 (reason != 0)
    let s := s.wrBit Ix.TempStatus (n + 1) 5 (reason != 0)
    let flag := reason != 0
    s.raise 0x6C07 (n + 1) (packData [f8 n, f8 (if flag then reason else v.fault), fFlag flag])

/-- The course temperature (R245): die sensor 16 + c averaged over the readings of the last second, one each millisecond. -/
def State.courseTemp (s : State) (n : Nat) (r : Int) : State :=
  if 16 ≤ n ∧ n < 20 then
    let c := n - 16
    let l := (r :: tget [] c s.cal.readings).take 1000
    ({ s with cal := { s.cal with readings := tins c l s.cal.readings } }).wrI 16 Ix.CalCourseTemp (c + 1) (l.foldl (· + ·) 0 / (l.length : Int))
  else s

/-- A reading of a sensor by a converter: the limits act on it, on its substitute, or while both converters are suspect on the higher
of their two (R399, R410 to R412). -/
def State.sensorReads (s : State) (c n : Nat) (raw : Int) (fault : Nat) : State :=
  let s := s.sensorFault n fault
  let raw := if fault = 0 then clampInt (-32768) 32767 raw else s.substitute n
  let v := s.sensor n
  let s := s.setSensor n { v with byConv := tins c raw v.byConv }
  let r := if s.hkSuspect then max raw (tget raw (1 - c) v.byConv) else raw
  let s := (s.wrI 16 Ix.TempReading (n + 1) r).courseTemp n r
  let w := s.cross n 0 1 r (s.rdI 16 Ix.TempWarn (n + 1))
  let s := match w.1 with
    | some b =>
      let s := w.2.raise 0x6C01 (n + 1) (packData [f8 n, f16 (ofInt 16 r), fFlag b])
      if b then { s with therm := { s.therm with warnEdge := true } } else s
    | none => w.2
  let s := (s.cross n 1 2 r (s.rdI 16 Ix.TempThrottle (n + 1))).2
  let s := (s.judgeRise n r).judgeThrottle n r
  let x := s.cross n 2 3 r (s.rdI 16 Ix.TempShutdown (n + 1))
  match x.1 with
  | some true => x.2.shutdownCross n r
  | _ => x.2

/-- A diode's temperature in 0.1 °C and its series resistance in 0.1 Ω (R409), from V1 to V3 in µV; q / k is 16,021,766,340 /
1,380,649 kelvin per volt. -/
def State.diodeTemp (s : State) (t : Nat) (v1 v2 v3 : Int) : Int × Nat :=
  let a := v2 - v1
  let b := v3 - v2
  let eta : Int := s.rd Ix.DiodeIdeality (t + 1)
  let num : Int := 10 * 16021766340 * 10000 * (4 * a - b) * 2 ^ 96
  let den : Int := 1380649 * 3000000 * eta * (2 * ln2_96)
  ((2 * num - 5463 * den) / (2 * den), (clampInt 0 65535 (10 * (b - a) / 72)).toNat)

/-- An NTC's temperature in 0.1 °C from V in µV (R410); a figure outside every temperature is a free value. -/
def State.ntcTemp (s : State) (t : Nat) (v : Int) : Int :=
  let beta : Int := s.rd Ix.NtcBeta (t + 1)
  let l := ln96 (10000 * v.toNat) ((2500000 - v).toNat * s.rd Ix.NtcR25 (t + 1))
  let den := 100 * beta * 2 ^ 96 + 29815 * l
  if den ≤ 0 then Config.freeFigure s.free 410 else (20 * 29815 * beta * 2 ^ 96 - 5463 * den) / (2 * den)

/-- A remote input's reading (R409, R410): its temperature and its fault, 1 open, 2 short. -/
def State.remoteReads (s : State) (c t : Nat) (v : Int × Int × Int) : State :=
  if s.rd Ix.RemoteSensorType (t + 1) = 0 then
    let x := s.diodeTemp t v.1 v.2.1 v.2.2
    let fault := if 1000000 < v.1 then 1 else if v.1 < 200000 then 2 else 0
    (s.wr Ix.DiodeSeriesR (t + 1) x.2).sensorReads c t x.1 fault
  else
    let open_ := decide (2500000 ≤ v.1) || decide (2000000 * (2500000 - v.1) < 10000 * v.1)
    let fault := if open_ then 1 else if 10000 * v.1 < 50 * (2500000 - v.1) then 2 else 0
    s.sensorReads c t (if fault = 0 then s.ntcTemp t v.1 else 0) fault

/-- The remote inputs of a converter in their order. -/
def State.remotesOf (s : State) (c : Nat) : List Nat := (List.range 16).filter (fun t => s.hkCarries c (0x50 + t))

/-- HK_FRAME (R397, R398, R400): a converter's frame of 1 ms. -/
def State.hkFrame (s : State) (f : HkFrame) : State :=
  let c := f.conv
  if !s.hkWorks c then s
  else if f.timeout then s.hkFails c 1
  else if s.bandgapBad f.bandgap then s.hkFails c 2
  else
    let s := s.wr Ix.HkBandgap 0 (f.bandgap * 2500000 / 65536)
    let s := f.dies.foldl (fun s d =>
      if s.hkCarries c (0x30 + d.1) && decide (16 ≤ d.1) && decide (d.1 < 24) then
        s.sensorReads c d.1 d.2 (if d.2 < -600 ∨ 1750 < d.2 then 3 else 0)
      else s) s
    let list := s.remotesOf c
    let k := tget 0 c s.therm.nextRemote
    let s := match f.remote with
      | some v =>
        if list.isEmpty then s
        else
          let t := list.getD (k % list.length) 0
          let s := { s with therm := { s.therm with nextRemote := tput 0 c (k + 1) s.therm.nextRemote } }
          s.remoteReads c t v
      | none => s
    let s := f.others.foldl (fun s o =>
      if !s.hkCarries c o.1 then s
      else if o.1 < 0x30 then (if s.rdBit Ix.HkInputEnable 0 o.1 then s.hkInput o.1 o.2.toNat else s)
      else if 0x31 ≤ o.1 ∧ o.1 < 0x3C then s.wrI 32 Ix.HkRail (o.1 - 0x30) o.2
      else if 0x100 ≤ o.1 ∧ o.1 < 0x190 then s.wrI 16 Ix.BiasReadback (o.1 - 0xFF) o.2
      else s) s
    s.thermalOver

/-- HK_CHECK (R399): both converters convert the check channel, or the trusted one alone against the trimmed bandgap value. -/
def State.hkCheck (s : State) (k : HkCheck) : State :=
  if !s.elapsed s.therm.checkAt (msec (s.rd Ix.HkCheckInterval 0)) then s
  else
    let s := { s with therm := { s.therm with checkAt := s.now } }
    let ch := s.rd Ix.HkCheckChannel 0
    let one := fun (s : State) (c r : Nat) (late : Bool) =>
      if !s.hkWorks c then s
      else if late then s.hkFails c 1
      else
        let s := s.wr Ix.HkCheckResult (c + 1) r
        if ch = 0x30 ∧ s.bandgapBad r then s.hkFails c 2 else s
    let s := one (one s 0 k.a k.lateA) 1 k.b k.lateB
    let report := fun (s : State) (d : Nat) => s.raise 0x6801 0 (packData [f16 ch, f32 d])
    let differ := fun (x y : Nat) => ((x : Int) - y).natAbs
    let tol := s.rd Ix.HkCheckTolerance 0
    if s.hkWorks 0 && s.hkWorks 1 then
      let d := differ k.a k.b
      if tol < d then ((report s d).wr Ix.HkConverterState 1 2).wr Ix.HkConverterState 2 2 else s
    else if s.therm.trusted then
      let d := differ (if s.hkWorks 0 then k.a else k.b) s.fuse.bandgap
      if (s.hkWorks 0 || s.hkWorks 1) && decide (tol < d) then report s d else s
    else s

/-- `HkTrust` (R399): a converter named carries every channel and the other is excluded, or both return to their own lists. -/
def State.hkTrust (s : State) (v : Nat) : Res :=
  if 2 < v then .error (rangeAt 0)
  else
    let s := { s with therm := { s.therm with trusted := v != 2, stopped := false } }
    let other := fun (s : State) (c : Nat) => if s.hkState c = 3 then s else s.wr Ix.HkConverterState (c + 1) 4
    let s := match v with
      | 0 => other (s.wr Ix.HkConverterState 1 1) 1
      | 1 => other (s.wr Ix.HkConverterState 2 1) 0
      | _ => (s.wr Ix.HkConverterState 1 1).wr Ix.HkConverterState 2 1
    .ok (s.causeCleared 2)

/-- Does a housekeeping value carry STALE in read responses (R398 to R400)? -/
def State.hkStale (s : State) (index sub : Nat) : Bool :=
  if index = Ix.HkRaw ∨ index = Ix.HkValue then
    s.hkSuspect || s.therm.stopped || (sub != 0 && !s.rdBit Ix.HkInputEnable 0 (sub - 1))
  else if index = Ix.HkRail ∨ index = Ix.HkBandgap ∨ index = Ix.BiasReadback then s.hkSuspect || s.therm.stopped
  else if index = Ix.TempReading then s.therm.stopped
  else false

/-! Drivers (R418) -/

/-- DRIVER_OVERCURRENT (R418): the path becomes faulty from the next tick. -/
def State.driverOvercurrent (s : State) (p : Nat) : State := s.detectFault p 1

/-- `PathFaultClear` (R423): a path's circuits, or those of every faulty path, are tested again at the next slot boundary. -/
def State.pathFaultClear (s : State) (v : Nat) : Res :=
  if 64 ≤ v ∧ v ≠ 0xFF then .error (rangeAt 0)
  else .ok (((if v = 0xFF then allPaths else [v]).filter (fun p => s.rd Ix.PathFault (p + 1) != 0)).foldl
    (fun s p => s.setPath p { s.path p with retestDue := true }) s)

end Sys2Proof.Machine
end

