-- ==== Sys2Proof/Machine/Leases.lean ====
section
/-! DEFINITION. The ends of leases and the restoration of their resources (R275, R330, R425, R426, Table 19.4). -/
namespace Sys2Proof.Machine

/-- The read-modify-write lock a resource code names, where it names one. -/
def lockOf (resource : Nat) : Option Nat := if resource / 256 = 2 then some (resource % 256) else none

/-- A lock's journal empties and its pages reopen (R330). -/
def State.dropJournal (s : State) (lock : Nat) : State :=
  { s with mem := { s.mem with journals := s.mem.journals.filter (fun j => j.lock != lock) } }

/-- The end of a lease by release (Table 19.4, left column): UNLEASE, or the end of its job. -/
def State.releaseLease (s : State) (resource : Nat) : State :=
  let s := match lockOf resource with
    | some n => s.dropJournal n
    | none => s
  s.freeLease resource

/-- An observation receiver's lease ends otherwise: FBSEL 0b000, the capture in progress and the solve of its buffer discarded. -/
def State.receiverEnds (s : State) (c : Nat) : State :=
  let s := match (s.obs c).step with
    | some st =>
      let s := if st.forward.isNone then s.stepEmpty st.path else s
      let s := s.setObs c { s.obs c with step := none }
      let v := s.linPath st.path
      (s.setLinPath st.path { v with capture := v.capture.map (fun x => { x with spoiled := true }) }).setFbsel (tileOf st.path) 0
    | none => s
  (List.range 4).foldl (fun s t => s.setFbsel (4 * c + t) 0) s

/-- The device function that held a lease fails or ends: a calibration run, canceller training, a rolling step. -/
def State.functionEnds (s : State) (owner : Nat) : State :=
  if owner / 0x1000000 ≠ 5 then s
  else match owner % 0x10000 with
    | 1 => s.calFails 3
    | 2 => s.trainFails 2
    | 4 => s.calStepEnds
    | _ => s

/-- What a resource is restored to when its lease ends otherwise than by release (Table 19.4, right column). -/
def State.restoreResource (s : State) (l : Lease) : State :=
  match l.resource / 256 with
  | 1 => s.dmaAbortWith (l.resource % 256) 0x0B
  | 2 => (s.dropJournal (l.resource % 256)).raise 0x5404 0 (packData [f8 (l.resource % 256), f32 l.owner])
  | 3 => s.speLeaseEnds
  | 4 => s.receiverEnds (l.resource % 256)
  | _ => s

/-- The end of a lease by expiry (1), a watchdog (2), a reset of its holder (3) or revocation (4): the resource is restored, and
LEASE_ENDED is raised (R425). -/
def State.endLease (s : State) (l : Lease) (reason : Nat) : State :=
  let s := ((s.restoreResource l).freeLease l.resource).functionEnds l.owner
  let s := s.bump Ix.LeaseEnds 0
  s.raise 0x7003 0 (packData [f16 l.resource, f8 reason, f8 (l.owner / 0x1000000), f16 l.owner])

/-- `LeaseRevoke` (R425): a free resource aborts with RANGE. -/
def State.leaseRevoke (s : State) (resource : Nat) : Res :=
  match s.leaseOf resource with
  | some l => .ok (s.endLease l 4)
  | none => .error (rangeAt 0)

/-- LEASE_EXPIRY (R275): the lease's duration has passed without renewal. -/
def State.leaseExpiry (s : State) (resource : Nat) : State :=
  match s.leaseOf resource with
  | some l =>
    match l.expiry with
    | some e => if epLe e s.epoch then s.endLease l 1 else s
    | none => s
  | none => s

/-- The leases of an owner. -/
def State.leasesOf (s : State) (owner : Nat) : List Lease := s.leases.filter (fun l => l.owner == owner)

/-- Every lease of an owner ends for one reason. -/
def State.endLeasesOf (s : State) (owner reason : Nat) : State := (s.leasesOf owner).foldl (fun s l => s.endLease l reason) s

/-- Every lease of an owner is released. -/
def State.releaseLeasesOf (s : State) (owner : Nat) : State := (s.leasesOf owner).foldl (fun s l => s.releaseLease l.resource) s

end Sys2Proof.Machine
end

