-- ==== Sys2Proof/Machine/MasonCore.lean ====
section
/-! DEFINITION. One mason core: its registers, addressing, arithmetic, and what each operation of Table 11.5 reads and gives (R256 to
R269). -/
namespace Sys2Proof.Machine

/-! Registers -/

/-- Eight lanes of zero. -/
def zero8 : List Cplx := List.replicate 8 czero

def State.core (s : State) (m : Nat) : MasonCore := tget {} m s.mason.cores
def State.setCore (s : State) (m : Nat) (c : MasonCore) : State := { s with mason := { s.mason with cores := tins m c s.mason.cores } }

def MasonCore.getV (c : MasonCore) (n : Nat) : List Cplx := tget zero8 n c.v
def MasonCore.getAcc (c : MasonCore) (n : Nat) : List Cplx := tget zero8 n c.acc
def MasonCore.getChain (c : MasonCore) (n : Nat) : List Cplx := tget zero8 n c.chain
def MasonCore.getP (c : MasonCore) (n : Nat) : Nat := tget 0 n c.p
def MasonCore.setP (c : MasonCore) (n v : Nat) : MasonCore := { c with p := tput 0 n (v % 2 ^ 40) c.p }

/-- A pointer as a signed number. -/
def MasonCore.pInt (c : MasonCore) (n : Nat) : Int := toInt 40 (c.getP n)

/-- The fields of ST (Table 11.3). -/
def MasonCore.hr (c : MasonCore) : Nat := c.st % 16
def MasonCore.autoScale (c : MasonCore) : Bool := bitAt c.st 8

/-- Interrupts enabled (Table 11.6). -/
def MasonCore.ie (c : MasonCore) : Bool := bitAt c.ictl 15

/-- A system register read by MOVG (R257); `none` for a code that is none. -/
def MasonCore.sysRead (c : MasonCore) (m code : Nat) : Option Nat :=
  if code < 8 then some (tget 0 code c.b)
  else if code < 16 then some (tget 0 (code - 8) c.l)
  else match code with
    | 0x10 => some (tget 0 0 c.lc)
    | 0x11 => some (tget 0 1 c.lc)
    | 0x12 => some (tget 0 0 c.ls)
    | 0x13 => some (tget 0 1 c.ls)
    | 0x14 => some (tget 0 0 c.le)
    | 0x15 => some (tget 0 1 c.le)
    | 0x16 => some c.sh
    | 0x17 => some c.st
    | 0x18 => some c.ictl
    | 0x19 => some c.ira
    | 0x1A => some c.epc
    | 0x1B => some c.ecause
    | 0x1C => some c.eaddr
    | 0x1D => some c.tcmp
    | 0x1E => some c.cycle
    | 0x1F => some m
    | _ => none

/-- ICTL after a write: IE, PIE and the enables stored, pending bits cleared by ones; IE stays 0 without an interrupt handler
(R267, Table 11.6). -/
def MasonCore.ictlWritten (c : MasonCore) (v : Nat) : Nat :=
  let ie := bitAt v 15 && (c.task.all (fun t => t.irq != 0))
  let pend := fun (k : Nat) => b2n (bitAt c.ictl k && !bitAt v k) * 2 ^ k
  b2n ie * 2 ^ 15 + b2n (bitAt v 14) * 2 ^ 14 + pend 10 + pend 9 + pend 8 + v % 8

/-- A system register written by MOVS (R256, R257): each register keeps its own width and reserved bits. -/
def MasonCore.sysWrite (c : MasonCore) (code v : Nat) : MasonCore :=
  if code < 8 then { c with b := tput 0 code (v % 2 ^ 18 / 4 * 4) c.b }
  else if code < 16 then { c with l := tput 0 (code - 8) (v % 2 ^ 18 / 4 * 4) c.l }
  else match code with
    | 0x10 => { c with lc := tput 0 0 (v % 2 ^ 16) c.lc }
    | 0x11 => { c with lc := tput 0 1 (v % 2 ^ 16) c.lc }
    | 0x12 => { c with ls := tput 0 0 (v % 2 ^ 16) c.ls }
    | 0x13 => { c with ls := tput 0 1 (v % 2 ^ 16) c.ls }
    | 0x14 => { c with le := tput 0 0 (v % 2 ^ 16) c.le }
    | 0x15 => { c with le := tput 0 1 (v % 2 ^ 16) c.le }
    | 0x16 => { c with sh := min 39 v }
    | 0x17 => { c with st := bitsOf v 8 7 * 2 ^ 7 + v % 16 }
    | 0x18 => { c with ictl := c.ictlWritten v }
    | 0x19 => { c with ira := v % 2 ^ 16 }
    | 0x1A => { c with epc := v % 2 ^ 16 }
    | 0x1B => { c with ecause := v % 2 ^ 8 }
    | 0x1C => { c with eaddr := v % 2 ^ 18 }
    | 0x1D => { c with tcmp := v % 2 ^ 32, timed := decide (v % 2 ^ 32 ≤ c.cycle) }
    | _ => c

/-! Names of destinations (R259) -/

def nameV (n : Nat) : Nat := n
def nameAcc (n : Nat) : Nat := 32 + n
def nameP (n : Nat) : Nat := 40 + n
def nameSys (code : Nat) : Nat := 64 + code

/-! The shelf -/

/-- Is a range of a shelf whole below its top? -/
def State.shelfSettle (s : State) (m off n : Nat) : State :=
  if off + n ≤ 0x40000 then s.settle (shelfBase m + off) n
  else (s.settle (shelfBase m + off) (0x40000 - off)).settle (shelfBase m) (off + n - 0x40000)

/-- Bytes of a shelf from an offset on, which wraps at its size. -/
def State.shelfBytes (s : State) (m off n : Nat) : List Byte := (List.range n).map (fun i => s.byteAt (shelfBase m + (off + i) % 0x40000))

/-- The offset of the first poisoned word of a shelf range that begins on a word. -/
def State.shelfPoison (s : State) (m off n : Nat) : Option Nat :=
  ((List.range (n / 4)).map (fun i => (off + 4 * i) % 0x40000)).find? (fun o => s.poisoned (shelfBase m + o))

/-- Store whole words in a shelf through the core's port. -/
def State.shelfStore (s : State) (m off : Nat) (l : List Byte) : State :=
  (List.range (l.length / 4)).foldl (fun s i => s.storeInWord (shelfBase m + (off + 4 * i) % 0x40000) ((l.drop (4 * i)).take 4)) s

/-! Values -/

/-- A lane of a vector from its 4 bytes, and eight lanes from 32. -/
def laneOf (l : List Byte) : Cplx := cplxOf (leNat (l.take 4))
def lanesOf (l : List Byte) : List Cplx := (List.range 8).map (fun i => laneOf (l.drop (4 * i)))

/-- The bytes of a vector. -/
def laneBytes (l : List Cplx) : List Byte := l.flatMap cplxBytes

/-- 40-bit wrap of a sum (R261). -/
def wrap40 (x : Int) : Int := toInt 40 (ofInt 40 x)
def cwrap (x : Cplx) : Cplx := ⟨wrap40 x.re, wrap40 x.im⟩

/-- The raw bytes of an accumulator: lane i I at 10i, Q at 10i + 5. -/
def rawBytes (l : List Cplx) : List Byte := l.flatMap (fun c => leBytes 5 (ofInt 40 c.re) ++ leBytes 5 (ofInt 40 c.im))
def rawLanes (l : List Byte) : List Cplx := (List.range 8).map (fun i => ⟨toInt 40 (fieldLE l (10 * i) 5), toInt 40 (fieldLE l (10 * i + 5) 5)⟩)

/-- Per-lane results of two vectors. -/
def lanes2 (f : Cplx → Cplx → Cplx) (a b : List Cplx) : List Cplx := (List.range 8).map (fun i => f (a.getD i czero) (b.getD i czero))

/-- Does saturation to 16 bits change a part? -/
def satChanges (x : Cplx) : Bool := sat16 x.re != x.re || sat16 x.im != x.im
def csat (x : Cplx) : Cplx := ⟨sat16 x.re, sat16 x.im⟩

/-- Leading bits equal to the sign bit, minus 1, of a 16-bit result; 0 where it saturates (R264). -/
def headroom (x : Int) : Nat :=
  if x < -32768 ∨ 32767 < x then 0
  else
    let y : Nat := if x < 0 then (-1 - x).toNat else x.toNat
    15 - (if y = 0 then 0 else Nat.log2 y + 1)

/-- What a scaled move gives (R263, R264): the lanes, whether a part saturates, the headroom, whether AUTO raises SH. -/
structure ScaledMove where
  lanes : List Cplx
  ovf : Bool
  hr : Nat
  up : Bool
  deriving DecidableEq, Repr

/-- The scaled move of an accumulator. -/
def MasonCore.scaledMove (c : MasonCore) (n : Nat) : ScaledMove :=
  let l := (c.getAcc n).map (fun x => Cplx.mk (x.re / 2 ^ c.sh) (x.im / 2 ^ c.sh))
  let parts := l.flatMap (fun x => [x.re, x.im])
  { lanes := l.map csat, ovf := l.any satChanges, hr := parts.foldl (fun m x => min m (headroom x)) 15,
    up := c.autoScale && parts.any (fun x => decide (x < -16384) || decide (16383 < x)) }

/-- Doublings, by `step` bits up to 14, that bring x to a bound (R262). -/
def normShift (x bound step : Nat) : Nat := (((List.range (14 / step + 1)).map (· * step)).find? (fun s => decide (bound ≤ x * 2 ^ s))).getD 14

/-- VRECIP of a lane, and whether its input is not positive (R262). -/
def recipLane (a : Cplx) : Cplx × Bool :=
  if a.re ≤ 0 then (⟨32767, 15⟩, true)
  else
    let x := a.re.toNat
    let s := normShift x 16384 1
    let y : Nat := min 32767 (2 ^ 29 / (x * 2 ^ s))
    (⟨y, s⟩, false)

/-- VRSQRT of a lane (R262). -/
def rsqrtLane (a : Cplx) : Cplx × Bool :=
  if a.re ≤ 0 then (⟨32767, 15⟩, true)
  else
    let x := a.re.toNat
    let s := normShift x 8192 2
    let y : Nat := isqrt (2 ^ 42 / (x * 2 ^ s))
    (⟨y, (s / 2 : Nat)⟩, false)

/-! Addressing (R258) -/

/-- The address a circular access leaves in PN[17:0]. -/
def circular (a : Nat) (inc : Int) (b l : Nat) : Nat :=
  let n : Int := a + inc
  if l = 0 then (n % 0x40000).toNat
  else
    let n1 := if (b : Int) + l ≤ n then n - l else n
    let n2 := if n1 < b then n1 + l else n1
    (n2 % 0x40000).toNat

/-- PN after its post-modification. -/
def MasonCore.postModify (c : MasonCore) (circ : Bool) (n : Nat) (inc : Int) : Nat :=
  let p := c.getP n
  if circ then p / 2 ^ 18 * 2 ^ 18 + circular (p % 2 ^ 18) inc (tget 0 n c.b) (tget 0 n c.l)
  else ofInt 40 ((p : Int) + inc)

/-! What an operation gives -/

/-- Results with their latency, acts, the destinations named, and the exception raised: its code and the word's offset. -/
structure OpResult where
  writes : List MasonWrite := []
  acts : List MasonAct := []
  dests : List Nat := []
  fault : Option (Nat × Nat) := none
  deriving DecidableEq, Repr

/-- ILLEGAL. -/
def illegal : OpResult := { fault := some (2, 0) }

/-- INC of an L-format operation. -/
def incOf (f : LFormat) : Int := toInt 20 f.inc.toNat

/-- The post-modification of PN: visible to the next bundle. -/
def MasonCore.post (c : MasonCore) (f : LFormat) (circ : Bool) : MasonAct := .post f.pn.toNat (c.postModify circ f.pn.toNat (incOf f))

/-- The shelf offset of an access, its low bits cleared to a multiple. -/
def MasonCore.at_ (c : MasonCore) (f : LFormat) (align : Nat) : Nat := c.getP f.pn.toNat % 0x40000 / align * align

/-- A circular operation needs N at most 7 (R258). -/
def badCircular (f : LFormat) (circ : Bool) : Bool := circ && decide (7 < f.pn.toNat)

/-- A load of n bytes: POISON where a word it reads carries the mark (R269), else the results with latency 3. -/
def loadOp (s : State) (m : Nat) (c : MasonCore) (f : LFormat) (circ : Bool) (align n : Nat) (name : Nat) (dest : List Byte → MasonDest) : OpResult :=
  if badCircular f circ then illegal
  else
    let a := c.at_ f align
    match s.shelfPoison m a n with
    | some w => { fault := some (1, w) }
    | none => { writes := [⟨3, dest (s.shelfBytes m a n)⟩], acts := [c.post f circ], dests := [name, nameP f.pn.toNat].eraseDups }

/-- A store of bytes: CODE in the core's own code window (R255), else the bytes with latency 2. -/
def storeOp (c : MasonCore) (f : LFormat) (circ : Bool) (align : Nat) (bytes : List Byte) (acts : List MasonAct) : OpResult :=
  if badCircular f circ then illegal
  else
    let a := c.at_ f align
    if a < 0x10000 then { fault := some (3, a) }
    else if 0x40000 < a + bytes.length then { fault := some (3, 0) }
    else { writes := [⟨2, .store a bytes⟩], acts := c.post f circ :: acts, dests := [nameP f.pn.toNat] }

/-- The status act of a scaled move. -/
def ScaledMove.act (x : ScaledMove) : MasonAct := .status x.hr x.ovf x.up

/-- A MAC-family operation: the new accumulator, chained at once and visible after 4 cycles (R265). -/
def macOp (n : Nat) (lanes : List Cplx) : OpResult :=
  { writes := [⟨4, .acc n (lanes.map cwrap)⟩], acts := [.mac n (lanes.map cwrap)], dests := [nameAcc n] }

/-- A vector result, with OVF where asked. -/
def vecOp (n latency : Nat) (lanes : List Cplx) (ovf : Bool) : OpResult :=
  { writes := [⟨latency, .vec n lanes⟩], acts := if ovf then [.status 15 true false] else [], dests := [nameV n] }

/-- A pointer result. -/
def ptrOp (n : Nat) (v : Int) : OpResult := { writes := [⟨1, .ptr n (ofInt 40 v)⟩], dests := [nameP n] }

/-- IMM24 of a C-format operation, as a signed number. -/
def simmOf (f : CFormat) : Int := toInt 24 f.imm.toNat

/-- A branch target from the bundle's own address. -/
def MasonCore.target (c : MasonCore) (f : CFormat) : Nat := ofInt 16 ((c.pc : Int) + 16 * simmOf f)

/-- Does a branch condition hold; `none` for a code that is none (R259). -/
def condition (code : Nat) (x : Int) : Option Bool :=
  match code with
  | 0 => some true
  | 1 => some (x == 0)
  | 2 => some (x != 0)
  | 3 => some (decide (x < 0))
  | 4 => some (decide (0 ≤ x))
  | _ => none

/-- A queued transfer (R268): 4 to 65,536 bytes, a multiple of 4, at most 8 outstanding. -/
def xferBad (c : MasonCore) (n : Nat) : Bool := decide (n < 4) || decide (65536 < n) || n % 4 != 0 || decide (8 ≤ c.xfers.length)

/-- Is a resource code one of Table 11.10? -/
def resourceOk (r : Nat) : Bool :=
  match r / 256 with
  | 1 => decide (r % 256 < 16)
  | 2 => true
  | 3 => r % 256 == 0
  | 4 => decide (r % 256 < 4)
  | 5 => r % 256 == 0
  | _ => false

/-- The owner field of the job of a core's task. -/
def State.taskOwner (s : State) (c : MasonCore) : Nat :=
  match c.task with
  | some t => s.ownerField 3 t.job
  | none => 0

/-- LEASE (R275): PD, and the lease taken where it is granted. -/
def leaseOp (s : State) (c : MasonCore) (pd resource ticks : Nat) : OpResult :=
  if !resourceOk resource || ticks == 0 then ptrOp pd (7 * 2 ^ 32)
  else if resource / 256 = 1 ∧ s.dmaReserved (resource % 256) then ptrOp pd (0x12 * 2 ^ 32 + 0x05000000)
  else match (s.leaseOf resource).filter (fun l => l.owner != s.taskOwner c) with
    | some l => ptrOp pd (0x12 * 2 ^ 32 + (l.owner : Int))
    | none => { ptrOp pd 0 with acts := [.lease resource ticks pd] }

end Sys2Proof.Machine
end

