-- ==== Sys2Proof/Machine/Mason.lean ====
section
/-! DEFINITION. The mason cluster: bundles, exceptions and interrupts, tasks, re-runs and spares, kernel images and user jobs (R253 to
R277). -/
namespace Sys2Proof.Machine

/-! Masks and spares (R273, R274) -/

def State.isSpare (s : State) (m : Nat) : Bool := s.rdBit Ix.MasonSpareMask 0 m
def State.isRetired (s : State) (m : Nat) : Bool := s.rdBit Ix.MasonRetiredMask 0 m
def State.heldMason (s : State) (m : Nat) : Bool := s.rdBit Ix.BlockResetMason 0 m
def allCores : List Nat := List.range 48

/-- Spares held. -/
def State.sparesHeld (s : State) : Nat := (allCores.filter s.isSpare).length

/-- The state a core without a task shows (4005). -/
def State.restingState (s : State) (m : Nat) : Nat := if s.isRetired m then 3 else if s.isSpare m then 2 else 0

/-- Show a core's resting state. -/
def State.showCore (s : State) (m : Nat) : State :=
  if (s.core m).task.isSome then s else s.wr Ix.MasonState (m + 1) (s.restingState m)

/-- Make a core a spare, or a working core. -/
def State.setSpare (s : State) (m : Nat) (b : Bool) : State := (s.wrBit Ix.MasonSpareMask 0 m b).showCore m

/-- Retire a core, or bring it back. -/
def State.setRetired (s : State) (m : Nat) (b : Bool) : State :=
  ((s.wrBit Ix.MasonRetiredMask 0 m b).wrBit Ix.MasonCoresOk 0 m (!b)).showCore m

/-- SPARE_LOW where the spares held have fallen below `MasonSpareCount`. -/
def State.judgeSpares (s : State) : State :=
  if s.sparesHeld < s.rd Ix.MasonSpareCount 0 then s.raise 0x4003 0 (packData [fCount s.sparesHeld]) else s

/-- Cores a commit of `MasonSpareCount` may take or return, highest first: neither retired nor running a task. -/
def State.freeCores (s : State) : List Nat := allCores.reverse.filter (fun m => !s.isRetired m && (s.core m).task.isNone)

/-- Spares designated at a release or by a commit (R273): the highest-numbered cores taken or returned. -/
def State.designateSpares (s : State) : State :=
  let want := s.rd Ix.MasonSpareCount 0
  let have_ := s.sparesHeld
  if have_ < want then
    ((s.freeCores.filter (fun m => !s.isSpare m)).take (want - have_)).foldl (fun s m => s.setSpare m true) s
  else ((s.freeCores.filter s.isSpare).take (have_ - want)).foldl (fun s m => s.setSpare m false) s

/-! Tasks (R270, R272) -/

/-- The kernel image of a slot (Table 11.11). -/
def State.kernel (s : State) (slot : Nat) : List Byte := tget [] slot s.mason.kernels

/-- A core at the start of a task: every register at its reset value but P0 to P2 (R256, R270). -/
def freshCore (old : MasonCore) (t : MasonTask) : MasonCore :=
  { xfers := old.xfers, timed := true, pc := t.entry, task := some t,
    p := tput 0 2 t.count (tput 0 1 t.index (tput 0 0 0x10000 [])) }

/-- A task's kernel code, argument block and data image stand in the core's shelf, and it starts (R255, R270). -/
def State.startTask (s : State) (m : Nat) (t : MasonTask) : State :=
  let k := s.kernel t.kernel
  let dataLen := fieldLE k 16 4
  let s := s.ownBytes (shelfBase m) (sliceBytes k 64 t.codeLen)
  let s := s.ownBytes (shelfBase m + 0x10000) t.args
  let s := s.ownBytes (shelfBase m + 0x20000) (sliceBytes k (64 + t.codeLen) dataLen)
  (s.setCore m (freshCore (s.core m) t)).wr Ix.MasonState (m + 1) 1

/-- The next task that waits for a core starts. -/
def State.startNext (s : State) (m : Nat) : State :=
  if (s.core m).task.isSome || s.heldMason m then s
  else match s.mason.queue.find? (fun q => q.1 == m) with
    | some q => { s with mason := { s.mason with queue := s.mason.queue.erase q } }.startTask m q.2
    | none => s

/-- A core's task is over. -/
def State.clearTask (s : State) (m : Nat) : State :=
  let c := s.core m
  (s.setCore m { ({} : MasonCore) with xfers := c.xfers }).showCore m

/-- Runs of a user job. -/
def jobRuns (record : List Byte) : Nat := if fieldLE record 16 2 = 0 then 1 else fieldLE record 18 2

/-- The record `MasonJobResults` keeps of a user job. -/
def UserJob.result (j : UserJob) (state : Nat) : List Byte :=
  leBytes 2 j.job ++ leBytes 1 state ++ leBytes 1 j.lastReason ++ leBytes 2 j.runsDone ++ leBytes 2 j.tasksFailed
    ++ leBytes 8 (epochEntry j.lastEpoch) ++ List.replicate 16 0

/-- A user job ends: it leaves the table, its leases are released, its record is kept (R275, R277). -/
def State.endJob (s : State) (j : UserJob) (state : Nat) : State :=
  let s := { s with userJobs := s.userJobs.filter (fun k => k.job != j.job),
                    mason := { s.mason with results := (j.result state :: s.mason.results).take 16 } }
  let s := s.releaseLeasesOf (s.ownerField 3 j.job)
  if state = 2 then s.raise 0x4005 0 (packData [f16 j.job, fCount j.runsDone]) else s

/-- One task of a user job has ended: with its last, the run is complete, and after the last run the job. -/
def State.jobTaskEnds (s : State) (job : Nat) (reason : Nat) : State :=
  match s.userJobs.find? (fun j => j.job == job) with
  | none => s
  | some j =>
    let j := if reason = 0 then j else { j with tasksFailed := j.tasksFailed + 1, lastReason := reason }
    let j := { j with outstanding := j.outstanding - 1 }
    let j := if j.outstanding = 0 then { j with runsDone := j.nextRun, running := false } else j
    let s := { s with userJobs := s.userJobs.map (fun k => if k.job = job then j else k) }
    if j.outstanding = 0 ∧ jobRuns j.record ≤ j.nextRun then s.endJob j (if j.tasksFailed = 0 then 2 else 3) else s

/-- A task fails: 1 POISON, 2 ILLEGAL, 3 CODE, 4 OVERRUN, 5 XFER, 6 STATUS, 7 NO_SPARE. -/
def State.taskFails (s : State) (m reason : Nat) : State :=
  match (s.core m).task with
  | none => s
  | some t =>
    let s := s.clearTask m
    let s := s.raise 0x4004 0 (packData [f16 t.job, f8 m, f8 reason])
    let s := (s.jobTaskEnds t.job reason).startNext m
    match t.rerunOf with
    | some (old, _) => s.startNext old
    | none => s

/-- DONE with status 0: a task completes; a re-run that succeeds retires the first core, and the spare takes its place (R272). -/
def State.taskDone (s : State) (m : Nat) : State :=
  match (s.core m).task with
  | none => s
  | some t =>
    let s := (s.clearTask m).bump Ix.MasonTaskCount (m + 1)
    let s := match t.rerunOf with
      | none => s
      | some (old, reason) =>
        let rerun := fun (s : State) => s.raise 0x4002 0 (packData [f8 old, f8 m, f16 t.job])
        if reason = 0 then rerun s
        else
          let s := rerun ((s.setRetired old true).setSpare m false)
          let s := s.raise 0x4001 (old + 1) (packData [f8 old, f8 reason])
          let s := { s with mason := { s.mason with queue := s.mason.queue.map (fun (q : Nat × MasonTask) => if q.1 = old then (m, q.2) else q) } }
          s.judgeSpares
    let s := (s.jobTaskEnds t.job 0).startNext m
    match t.rerunOf with
    | some (old, 0) => s.startNext old
    | _ => s

/-- Is a core the first core of a task that re-runs now? -/
def State.suspect (s : State) (m : Nat) : Bool :=
  s.mason.cores.any (fun c => match c.2.task with
    | some t => t.rerunOf.any (fun r => r.1 == m)
    | none => false)

/-- The lowest-numbered idle spare. -/
def State.idleSpare (s : State) : Option Nat :=
  allCores.find? (fun m => s.isSpare m && (s.core m).task.isNone && !s.heldMason m && !s.mason.selftest.contains m)

/-- A task stopped by its watchdog (2), by a parity error (1) or by a block reset (0) is re-run on a spare (R272); a re-run that is
stopped fails the task. A stop for parity has no reason of its own in TASK_FAIL: it is a free value. -/
def State.stopTask (s : State) (m reason : Nat) : State :=
  match (s.core m).task with
  | none => s
  | some t =>
    match t.rerunOf, s.idleSpare with
    | some _, _ =>
      if reason = 2 then s.taskFails m 4
      else { s with free := s.free + 1 }.taskFails m ((Config.freeFigure s.free 510).toNat % 256)
    | none, none => s.taskFails m 7
    | none, some k => ((s.clearTask m).startTask k { t with rerunOf := some (m, reason) })

/-! Bundles (R258, R259, R265 to R269) -/

/-- A result lands in its register; an accumulator's chain follows it where no later result is on its way to it. -/
def MasonCore.land (c : MasonCore) (later : List MasonWrite) : MasonDest → MasonCore
  | .vec n l => { c with v := tput zero8 n l c.v }
  | .acc n l =>
    let c := { c with acc := tput zero8 n l c.acc }
    if later.any (fun w => match w.dest with
      | .acc k _ => k == n
      | _ => false) then c else { c with chain := tput zero8 n l c.chain }
  | .ptr n v => c.setP n v
  | .sys code v => c.sysWrite code v
  | .store _ _ => c

/-- The results due by a core's cycle count reach their registers and the shelf, in the order of issue. -/
def State.landDue (s : State) (m : Nat) : List MasonWrite → State
  | [] => s
  | w :: t =>
    let c := s.core m
    if w.due ≤ c.cycle then
      let s := match w.dest with
        | .store a l => s.shelfStore m a l
        | d => s.setCore m (c.land t d)
      s.landDue m t
    else
      let s := s.setCore m { c with flight := c.flight ++ [w] }
      s.landDue m t

/-- Land what is due. -/
def State.settleFlight (s : State) (m : Nat) : State :=
  let c := s.core m
  (s.setCore m { c with flight := [] }).landDue m c.flight

/-- Every operation already issued drains and writes back (R267, R269). -/
def State.drain (s : State) (m : Nat) : State :=
  let c := s.core m
  (s.setCore m { c with cycle := c.flight.foldl (fun n w => max n w.due) c.cycle }).settleFlight m

/-- A cycle passes on a core: CYCLE counts, results land. -/
def State.coreCycle (s : State) (m : Nat) : State :=
  let c := s.core m
  (s.setCore m { c with cycle := (c.cycle + 1) % 2 ^ 32 }).settleFlight m

/-- The bundle in issue is emptied. -/
def MasonCore.emptied (c : MasonCore) : MasonCore := { c with bundle := [], acts := [], dests := [], slot := 0, fault := none }

/-- An exception (R269): nothing of its bundle is written back; the handler runs, or the task fails. -/
def State.coreException (s : State) (m cause ea : Nat) : State :=
  let s := (s.setCore m (s.core m).emptied).drain m
  let c := s.core m
  match c.task with
  | none => s
  | some t =>
    if t.exc = 0 ∨ c.inExc then s.taskFails m cause
    else
      let c := { c with epc := c.pc, ecause := cause, eaddr := if cause = 1 ∨ cause = 3 then ea else c.eaddr, pc := t.exc,
                        ictl := setBit c.ictl 15 false, inExc := true, flow := none, rti := false }
      ((s.setCore m c).coreCycle m).wr Ix.MasonState (m + 1) 4

/-- ST and SH after a scaled move or a saturating operation (R263, R264). -/
def MasonCore.status (c : MasonCore) (hr : Nat) (ovf up : Bool) : MasonCore :=
  let st := c.st - c.hr + min c.hr hr
  { c with st := if ovf then setBit st 7 true else st, sh := if up then min 39 (c.sh + 1) else c.sh }

/-- What one act of a bundle does at its issue. -/
def State.coreAct (s : State) (m : Nat) (a : MasonAct) : State :=
  let c := s.core m
  match a with
  | .mac n l => s.setCore m { c with chain := tput zero8 n l c.chain }
  | .status hr ovf up =>
    let s := s.setCore m (c.status hr ovf up)
    if up && decide (c.sh < 39) then s.bump Ix.MasonScaleEvents (m + 1) else s
  | .post n v => s.setCore m { c with bundle := c.bundle ++ [⟨1, .ptr n v⟩] }
  | .branch t => s.setCore m { c with flow := some (t, 3) }
  | .rti => s.setCore m { c with flow := some (c.ira, 3), rti := true }
  | .loop _ _ _ => s
  | .get shelf addr len => s.setCore m { c with xfers := c.xfers ++ [⟨false, shelf, addr, len⟩] }
  | .put shelf addr len => s.setCore m { c with xfers := c.xfers ++ [⟨true, shelf, addr, len⟩] }
  | .lease r ticks _ =>
    let s := s.takeLease r (s.taskOwner c) (some (s.addEpochs ticks s.epoch)) (some (.mason m))
    match lockOf r with
    | some n =>
      if s.mem.journals.any (fun j => j.lock == n) then s
      else { s with mem := { s.mem with journals := s.mem.journals ++ [⟨n, .mason m, []⟩] } }
    | none => s
  | .unlease r =>
    match s.leaseOf r with
    | some l => if l.owner = s.taskOwner c then s.releaseLease r else s
    | none => s
  | .wait _ => s
  | .done _ => s

/-- The loop check after a bundle (R266): the address of the next bundle, with the counter. -/
def MasonCore.loopCheck (c : MasonCore) : MasonCore × Nat :=
  let next := (c.pc + 16) % 2 ^ 16
  let at_ := fun (c : MasonCore) (x : Nat) => tget 0 x c.le == c.pc && tget 0 x c.lc != 0
  let try_ := fun (c : MasonCore) (x : Nat) =>
    if !at_ c x then (c, (none : Option Nat))
    else if 1 < tget 0 x c.lc then ({ c with lc := tput 0 x (tget 0 x c.lc - 1) c.lc }, some (tget 0 x c.ls))
    else ({ c with lc := tput 0 x 0 c.lc }, none)
  let r := try_ c 0
  match r.2 with
  | some t => (r.1, t)
  | none =>
    let q := try_ r.1 1
    (q.1, q.2.getD next)

/-- LOOP and LOOPI (R266): the next bundle's address follows, or the one after the body where the count is 0. -/
def MasonCore.setLoop (c : MasonCore) (x count body : Nat) : MasonCore × Nat :=
  let ls : Nat := (c.pc + 16) % 2 ^ 16
  let le : Nat := ofInt 16 ((ls : Int) + 16 * ((body : Int) - 1))
  ({ c with lc := tput 0 x (count % 2 ^ 16) c.lc, ls := tput 0 x ls c.ls, le := tput 0 x le c.le },
    if count = 0 then (le + 16) % 2 ^ 16 else ls)

/-- The flow of control after a bundle (R265, R266): the delay bundles of a branch count down; a branch in either of the last two
bundles of a body takes precedence over the loop check. -/
def MasonCore.advance (c : MasonCore) (loop : Option (Nat × Nat × Nat)) : MasonCore × Bool :=
  let branchNow := c.flow.any (fun f => f.2 == 3)
  let branchBefore := c.flow.any (fun f => f.2 == 2)
  let r := if branchNow || branchBefore then (c, (c.pc + 16) % 2 ^ 16) else c.loopCheck
  let r := match loop with
    | some (x, count, body) => ({ r.1 with lc := (c.setLoop x count body).1.lc, ls := (c.setLoop x count body).1.ls,
                                            le := (c.setLoop x count body).1.le }, (c.setLoop x count body).2)
    | none => r
  match r.1.flow with
  | none => ({ r.1 with pc := r.2 }, false)
  | some (t, k) =>
    if k = 1 then ({ r.1 with pc := t % 2 ^ 16, flow := none }, true) else ({ r.1 with pc := r.2, flow := some (t, k - 1) }, false)

/-- RTI's end (R267, R269): IE takes PIE; in an exception handler the task fails. -/
def State.rtiEnds (s : State) (m : Nat) : State :=
  let c := s.core m
  if !c.rti then s
  else if c.inExc then s.taskFails m 2
  else
    let ie := bitAt c.ictl 14 && c.task.all (fun t => t.irq != 0)
    (s.setCore m { c with rti := false, ictl := setBit c.ictl 15 ie }).wr Ix.MasonState (m + 1) 1

/-- The loop act of a bundle, the count an XWAIT waits for, the status of DONE. -/
def loopOf (l : List MasonAct) : Option (Nat × Nat × Nat) := l.findSome? (fun a => match a with
  | .loop x n b => some (x, n, b)
  | _ => none)
def waitOf (l : List MasonAct) : Option Nat := l.findSome? (fun a => match a with
  | .wait n => some n
  | _ => none)
def doneOf (l : List MasonAct) : Option Nat := l.findSome? (fun a => match a with
  | .done v => some v
  | _ => none)

/-- A bundle issues whole (R265): its results set out, its acts happen, a cycle passes, control goes on. -/
def State.issueBundle (s : State) (m : Nat) : State :=
  let acts := (s.core m).acts
  let s := acts.foldl (fun s a => s.coreAct m a) s
  let c := s.core m
  let c := MasonCore.emptied { c with flight := c.flight ++ c.bundle.map (fun w => { w with due := c.cycle + w.due }) }
  match doneOf acts with
  | some v =>
    let s := (s.setCore m c).drain m
    if v = 0 then s.taskDone m else s.taskFails m 6
  | none =>
    let r := c.advance (loopOf acts)
    let s := (s.setCore m r.1).coreCycle m
    if r.2 then s.rtiEnds m else s

/-- The end of a bundle: its exception, an XWAIT that stalls or meets a failed transfer, or its issue (R268, R269). A stalled XWAIT
lets one cycle pass, and the bundle stays open for it. -/
def State.endBundle (s : State) (m : Nat) : State :=
  let c := s.core m
  match c.fault with
  | some (cause, ea) => s.coreException m cause ea
  | none =>
    match waitOf c.acts with
    | some n =>
      if n < c.xfers.length then
        (s.setCore m { c with slot := 2, acts := c.acts.filter (fun a => a != .wait n) }).coreCycle m
      else if c.failed ≠ 0 then (s.setCore m { c with failed := 0 }).coreException m 5 0
      else s.issueBundle m
    | none => s.issueBundle m

/-- An operation joins the bundle in issue of a core that runs a task (R259): empty bundles before it issue first; a destination
named twice is ILLEGAL; the last operation of the bundle ends it. `touch` is the shelf range it reads. -/
def State.issue (s : State) (o : MasonIssue) (slot : Nat) (touch : MasonCore → Option (Nat × Nat)) (f : State → MasonCore → OpResult) : State :=
  let m := o.core
  if (s.core m).task.isNone then s
  else
    let s := if slot < (s.core m).slot then s.endBundle m else s
    let s := if (s.core m).slot = 0 then (List.range o.skip).foldl (fun s _ => s.issueBundle m) s else s
    let c := s.core m
    if c.task.isNone then s
    else
      let s := match touch c with
        | some (a, n) => s.shelfSettle m a n
        | none => s
      let r := f s c
      let clash := r.dests.any (fun d => c.dests.contains d)
      let fault := match c.fault, r.fault with
        | some x, _ => some x
        | none, some x => some x
        | none, none => if clash then some (2, 0) else none
      let s := match r.fault with
        | some (1, w) => s.consumePoison (shelfBase m + w)
        | _ => s
      let s := s.setCore m { c with bundle := c.bundle ++ r.writes, acts := c.acts ++ r.acts, dests := c.dests ++ r.dests,
                                    fault := fault, slot := slot + 1 }
      if o.more && slot != 2 then s else s.endBundle m

/-- INTERRUPT_ENTRY (R267). -/
def State.interruptEntry (s : State) (m : Nat) : State :=
  let c := s.core m
  match c.task with
  | none => s
  | some t =>
    if c.ie && bitsOf c.ictl 10 8 &&& c.ictl % 8 != 0 && c.flow.isNone && c.slot == 0 && t.irq != 0 then
      let s := s.drain m
      let c := s.core m
      (s.setCore m { c with ira := c.pc, ictl := setBit (setBit c.ictl 14 true) 15 false, pc := t.irq }).wr Ix.MasonState (m + 1) 4
    else s

/-- TIMER_COMPARE: CYCLE has reached TCMP (Table 11.6). -/
def State.timerCompare (s : State) (m : Nat) : State :=
  let c := s.core m
  if c.task.isSome ∧ c.timed = false ∧ c.tcmp ≤ c.cycle then s.setCore m { c with timed := true, ictl := setBit c.ictl 8 true } else s

/-- At a symbol tick PTICK is set on every core that runs a task. -/
def State.masonTick (s : State) : State :=
  allCores.foldl (fun s m =>
    let c := s.core m
    if c.task.isSome then s.setCore m { c with ictl := setBit c.ictl 10 true } else s) s

/-! Transfers (R268) -/

/-- Words moved by a transfer with their marks: the addresses read and written, word by word. -/
def State.moveWords (s : State) (mas : Master) : Nat → Nat → Nat → Bool × State
  | 0, _, _ => (true, s)
  | n + 1, src, dst =>
    let r := s.readWord mas src
    let w := r.2.writeWord mas dst (leBytes 4 r.1.data) r.1.poison
    let t := w.2.moveWords mas n (src + 4) (dst + 4)
    (!r.1.error && !w.1 && t.1, t.2)

/-- Tasks whose code window another master has written stop and fail with reason CODE (R255). -/
def State.codeFaults (s : State) : State :=
  let hits := s.mem.codeHits
  hits.foldl (fun s m => s.taskFails m 3) { s with mem := { s.mem with codeHits := [] } }

/-- The end of a transfer: the words cross, PXDONE is set, a failure is kept for the next XWAIT. -/
def State.xferEnds (s : State) (m i : Nat) (x : MasonXfer) (error : Bool) : State :=
  let shelf := shelfBase m + x.shelf % 0x40000
  let r := if error then (false, s)
    else if x.put then s.moveWords (.mason m) (x.len / 4) shelf x.addr
    else s.moveWords (.mason m) (x.len / 4) x.addr shelf
  let s := r.2
  let c := s.core m
  let s := s.setCore m { c with xfers := c.xfers.eraseIdx i, failed := c.failed + b2n (!r.1), ictl := setBit c.ictl 9 true }
  s.codeFaults

/-- XFER_COMPLETE (R268): the last Mortar response of a core's outstanding transfer `i` arrives; `error` tells that a target answered
with an error of its own. An access to a domain that is off, or to a page on the slow path, waits. -/
def State.xferComplete (s : State) (m i : Nat) (error : Bool) : State :=
  match (s.core m).xfers[i]? with
  | none => s
  | some x =>
    match accessDomain x.addr with
    | some d =>
      let w := s.needDomain d
      if !w.1 then w.2
      else
        let h := w.2.slowHold x.addr x.len
        if h.1 && !x.put then h.2
        else h.2.xferEnds m i x error
    | none => s.xferEnds m i x true

/-! Watchdog, parity, restore (R272, R273) -/

/-- WATCHDOG_OVERRUN (R272): CYCLE has passed the budget; the leases of the job expire and the task is re-run. -/
def State.watchdog (s : State) (m : Nat) : State :=
  let c := s.core m
  match c.task with
  | some t =>
    if t.budget < c.cycle then (s.endLeasesOf (s.ownerField 3 t.job) 2).stopTask m 2 else s
  | none => s

/-- CORE_PARITY_ERROR (R272). -/
def State.coreParity (s : State) (m : Nat) : State := s.stopTask m 1

/-- `MasonRestore` (R273): a retired core is block-reset and its self-test starts; STATE for a core that is not retired. -/
def State.masonRestore (s : State) (m : Nat) : Res :=
  if 48 ≤ m then .error (rangeAt 0)
  else if !s.isRetired m || s.mason.selftest.contains m then .error s.stateAbort
  else .ok { s.setCore m {} with mason := { (s.setCore m {}).mason with selftest := s.mason.selftest ++ [m] } }

/-- A core that passed its self-test rejoins, as a spare where one is needed (R273). -/
def State.rejoin (s : State) (m : Nat) : State :=
  let s := s.setRetired m false
  (s.setSpare m (decide (s.sparesHeld < s.rd Ix.MasonSpareCount 0))).startNext m

/-- MASON_SELFTEST_DONE (R273). -/
def State.selftestDone (s : State) (m : Nat) (pass : Bool) : State :=
  if !s.mason.selftest.contains m then s
  else
    let s := { s with mason := { s.mason with selftest := s.mason.selftest.filter (· != m) } }
    if pass then s.rejoin m
    else (s.setRetired m true).raise 0x4001 (m + 1) (packData [f8 m, f8 3])

/-- A mason held in reset by its block bit (Table 17.5): its task is re-run and it is not retired; its leases end. -/
def State.masonHeld (s : State) (m : Nat) : State :=
  let s := (s.leases.filter (fun l => l.master == some (.mason m))).foldl (fun s l => s.endLease l 3) s
  (s.stopTask m 0).clearTask m

/-- Its block bit cleared: self-test, then it rejoins. -/
def State.masonFreed (s : State) (m : Nat) : State :=
  if s.mason.selftest.contains m then s else { s with mason := { s.mason with selftest := s.mason.selftest ++ [m] } }

/-! Kernel images (R276) -/

/-- Does a queued or running user job use a slot? -/
def State.slotUsed (s : State) (slot : Nat) : Bool := s.userJobs.any (fun j => fieldLE j.record 2 1 == slot)

/-- The offset of the first field of an image that breaks Table 11.11. -/
def imageBad (l : List Byte) : Option Nat :=
  let f := fun off n => fieldLE l off n
  let code := f 12 4
  let data := f 16 4
  let offset := fun (x : Nat) => x % 16 == 0 && decide (x < code)
  if f 0 4 ≠ 0x4E534D57 then some 0
  else if f 4 1 < 16 ∨ 31 < f 4 1 then some 4
  else if f 5 1 ≠ 1 then some 5
  else if 3 < f 6 1 then some 6
  else if f 8 4 = 0 then some 8
  else if code % 16 ≠ 0 ∨ code < 16 ∨ 65536 < code ∨ l.length ≠ 128 + code + data then some 12
  else if data % 4 ≠ 0 ∨ 65536 < data then some 16
  else if !offset (f 20 4) then some 20
  else if !(f 24 4 == 0 || offset (f 24 4)) then some 24
  else if !(f 28 4 == 0 || offset (f 28 4)) then some 28
  else none

/-- Is a key slot loaded, and does a signature over bytes verify with its key (R386)? -/
def State.signedBy (s : State) (slot : Nat) (msg sig : List Byte) : Bool :=
  match s.reset_.loadedKeys.find? (fun k => k.1 == slot) with
  | some k => Config.sm2Verify k.2 msg sig
  | none => false

/-- Put an image in a slot. -/
def State.placeKernel (s : State) (slot : Nat) (image : List Byte) : State :=
  { s with mason := { s.mason with kernels := tins slot image s.mason.kernels } }.wr Ix.MasonKernelVersion (slot + 1) (fieldLE image 8 4)

/-- The LAST segment of `MasonKernelLoad` (R276). -/
def State.kernelLoad (s : State) (image : List Byte) : Res :=
  match imageBad image with
  | some off => .error (rangeAt off)
  | none =>
    let slot := fieldLE image 4 1
    if s.slotUsed slot then .error s.stateAbort
    else
      let body := image.take (image.length - 64)
      if !s.signedBy (fieldLE image 6 1) (Config.sm3 body) (image.drop (image.length - 64)) then .error ⟨abSignature, 0⟩
      else .ok ((s.placeKernel slot image).raise 0x4006 (slot + 1) (packData [f8 slot, f32 (fieldLE image 8 4)]))

/-- `MasonKernelUnload`. -/
def State.kernelUnload (s : State) (slot : Nat) : Res :=
  if slot < 16 ∨ 31 < slot then .error (rangeAt 0)
  else if s.slotUsed slot then .error s.stateAbort
  else .ok ({ s with mason := { s.mason with kernels := tdel slot s.mason.kernels } }.wr Ix.MasonKernelVersion (slot + 1) 0)

/-! User jobs (R271, R274, R277) -/

/-- Table 11.8: the largest task budget and the budget of a core in an epoch. -/
def taskBudget : Nat → Nat
  | 0 => 39286
  | 1 => 19307
  | _ => 9317
def coreBudget : Nat → Nat
  | 0 => 72959
  | 1 => 35855
  | _ => 17304

/-- The cores user tasks run on (R274). -/
def State.userCores (s : State) : List Nat :=
  (List.range (min 48 (s.rd Ix.MasonUserCores 0))).filter (fun m => !s.isRetired m && !s.isSpare m && !s.heldMason m)

/-- Cycles a job's run budgets on the `i`-th user core. -/
def jobLoad (record : List Byte) (n i : Nat) : Nat :=
  let tasks := fieldLE record 3 1
  if n = 0 then 0 else ((tasks + n - 1 - i) / n) * fieldLE record 4 4

/-- Does a job run `x` epochs after a reference epoch from which its START lies `off` epochs on? -/
def runsAt (record : List Byte) (off x : Int) : Bool :=
  let period := fieldLE record 16 2
  if period = 0 then x == off
  else decide (off ≤ x) && (x - off) % period == 0 && decide ((x - off) / period < fieldLE record 18 2)

/-- Epochs from one epoch to another, either way. -/
def State.epochOffset (s : State) (a b : Nat) : Int := if epLe a b then s.epochsBetween a b else -(s.epochsBetween b a : Int)

/-- Can the budgets of R271 be met in every epoch of a job, with the user jobs already active? -/
def State.budgetFits (s : State) (record : List Byte) : Bool :=
  let n := s.userCores.length
  let limit := coreBudget (s.rd Ix.Numerology 0)
  let start := epochOfEntry (fieldLE record 8 8)
  let others := s.userJobs.map (fun j => (j.record, s.epochOffset start (epochOfEntry (fieldLE j.record 8 8))))
  n != 0 && (List.range n).all (fun i => decide (jobLoad record n i ≤ limit)) &&
    (others.isEmpty || (List.range (jobRuns record)).all (fun k =>
      let x : Int := (k * fieldLE record 16 2 : Nat)
      (List.range n).all (fun i =>
        decide (jobLoad record n i + ((others.filter (fun o => runsAt o.1 o.2 x)).map (fun o => jobLoad o.1 n i)).sum ≤ limit))))

/-- The offset of the first field of a record outside Table 11.12. -/
def State.jobBad (s : State) (record : List Byte) : Option Nat :=
  let f := fun off n => fieldLE record off n
  let startV := f 8 8
  if f 0 2 = 0 then some 0
  else if f 2 1 < 16 ∨ 31 < f 2 1 then some 2
  else if f 3 1 = 0 ∨ s.rd Ix.MasonUserCores 0 < f 3 1 then some 3
  else if f 4 4 = 0 ∨ taskBudget (s.rd Ix.Numerology 0) < f 4 4 then some 4
  else if !s.epochOk startV || s.beyondLimit (epochOfEntry startV) then some 8
  else if 14000 < f 16 2 then some 16
  else if f 16 2 ≠ 0 ∧ f 18 2 = 0 then some 18
  else if f 20 4 % 4 ≠ 0 ∨ 65536 < f 20 4 then some 20
  else if f 24 8 % 4 ≠ 0 ∨ 2 ^ 32 < f 24 8 + f 20 4 then some 24
  else none

/-- `MasonJobSubmit` (R277). -/
def State.jobSubmit (s : State) (record : List Byte) : Res :=
  let job := fieldLE record 0 2
  let slot := fieldLE record 2 1
  let start := epochOfEntry (fieldLE record 8 8)
  let empty := decide (16 ≤ slot) && decide (slot < 32) && (s.kernel slot).isEmpty
  if s.mode = 0 ∨ empty ∨ s.userJobActive job ∨ 16 ≤ s.userJobs.length then .error s.stateAbort
  else match s.jobBad record with
    | some off => .error (rangeAt off)
    | none =>
      if !epLe s.earliestCommit start then .error ⟨abLate, 0⟩
      else if !s.budgetFits record then .error ⟨abBudget, 0⟩
      else .ok { s with userJobs := s.userJobs ++ [UserJob.mk job record 0 start false 0 0 0 0 0 false] }

/-- `MasonJobCancel`: the job ends at its next epoch; RANGE for a job that is not active. -/
def State.jobCancel (s : State) (job : Nat) : Res :=
  if s.userJobActive job then
    .ok { s with userJobs := s.userJobs.map (fun j => if j.job = job then { j with cancel := true } else j) }
  else .error (rangeAt 0)

/-- The task of index `i` of a job's run. -/
def State.taskOf (s : State) (j : UserJob) (i : Nat) : MasonTask :=
  let slot := fieldLE j.record 2 1
  let k := s.kernel slot
  let args := s.bytesAt (fieldLE j.record 24 8) (fieldLE j.record 20 4)
  { job := j.job, index := i, count := fieldLE j.record 3 1, kernel := slot, entry := fieldLE k 20 4, irq := fieldLE k 24 4,
    exc := fieldLE k 28 4, codeLen := fieldLE k 12 4, budget := fieldLE j.record 4 4, epoch := s.epoch, args := args, rerunOf := none }

/-- A cancelled job ends at its next epoch: its tasks leave the cores. -/
def State.cancelJob (s : State) (j : UserJob) : State :=
  let s := { s with mason := { s.mason with queue := s.mason.queue.filter (fun q => q.2.job != j.job) } }
  let s := allCores.foldl (fun s m => if (s.core m).task.any (fun t => t.job == j.job) then s.clearTask m else s) s
  s.endJob j 4

/-- A run of a job begins: its tasks go to the user cores in turn, and start where the core is free (R270). -/
def State.startRun (s : State) (j : UserJob) : State :=
  let s := s.settle (fieldLE j.record 24 8) (fieldLE j.record 20 4)
  let tasks := fieldLE j.record 3 1
  let cores := s.userCores
  let j' := { j with nextRun := j.nextRun + 1, nextEpoch := s.addEpochs (fieldLE j.record 16 2) s.epoch, running := true,
                     outstanding := j.outstanding + tasks, lastEpoch := s.epoch }
  let s := { s with userJobs := s.userJobs.map (fun (k : UserJob) => if k.job = j.job then j' else k) }
  let q := (List.range tasks).map (fun i => (cores.getD (i % max 1 cores.length) 0, s.taskOf j i))
  let s := { s with mason := { s.mason with queue := s.mason.queue ++ q } }
  cores.foldl (fun s m => if s.suspect m then s else s.startNext m) s

/-- TASK_DISPATCH (R270, R277): at a tick the user jobs whose epoch it is start their runs; cancelled ones end. -/
def State.dispatchJobs (s : State) : State :=
  (s.userJobs.filter (fun j => epLe j.nextEpoch s.epoch && decide (j.nextRun < jobRuns j.record))).foldl (fun s j =>
    if j.cancel then s.cancelJob j
    else if !s.domainOn 4 then (s.needDomain 4).2
    else s.startRun j) s

/-- `MasonJobResults`: active jobs, the newest first, then the finished ones. -/
def State.jobResults (s : State) : List Byte :=
  ((s.userJobs.reverse.map (fun j => j.result (if j.running then 1 else 0)) ++ s.mason.results).take 16).flatten

/-- `MasonLoad` at a frame start: what vendor firmware budgets is not given, so the share is a free value (R271). -/
def State.masonLoad (s : State) : State :=
  { s with free := s.free + 1 }.wr Ix.MasonLoad 0 ((Config.freeFigure s.free 511).toNat % 101)

/-- A MASON reset fails every running task with NO_SPARE (R382). -/
def State.masonsReset (s : State) : State :=
  allCores.foldl (fun s m => (s.taskFails m 7).setCore m {}) { s with mason := { s.mason with queue := [], selftest := [] } }

end Sys2Proof.Machine
end

