-- ==== Sys2Proof/Machine/LinkPhy.lean ====
section
/-! DEFINITION. Vyaris Link: lanes, bonds, bring-up and the array's size (R278 to R296), and the stream budget of a direction
(R305, R306). Port 0 is PORT-N, port 1 PORT-S. -/
namespace Sys2Proof.Machine

def State.port (s : State) (p : Nat) : PortSys := tget {} p s.link.ports
def State.setPort (s : State) (p : Nat) (v : PortSys) : State := { s with link := { s.link with ports := tins p v s.link.ports } }

/-- A port's state (Table 12.5). -/
def State.linkState (s : State) (p : Nat) : Nat := s.rd Ix.LinkState (p + 1)

/-- Is a port ACTIVE? -/
def State.portActive (s : State) (p : Nat) : Bool := s.linkState p == 5

/-- A per-lane subindex. -/
def laneIx (p k : Nat) : Nat := 9 * p + k + 1

/-- Lanes 0 to 8. -/
def allLanes : List Nat := List.range 9

/-- Enter a state (R291). In DETECT `since` is set back so that the first pulse is due at once. -/
def State.enterPort (s : State) (p st : Nat) : State :=
  let s := s.wr Ix.LinkState (p + 1) st
  s.setPort p { s.port p with since := if st = 1 then s.now - usec 100 else s.now }

/-- The RATE of a port's block in the link profile (Table 12.7). -/
def State.profileRate (s : State) (p : Nat) : Nat := s.domField Ix.LinkProfile 0 (32 * p + 1) 1

/-- May a port leave OFF (R291, R364, R383, Table 12.6)? -/
def State.portMayRun (s : State) (p : Nat) : Bool :=
  s.domainOn (6 + p) && s.rdB Ix.LinkEnable (p + 1) && !s.rdBit Ix.BlockResetOther 0 p && s.rd Ix.ClockSource 0 != 2
    && !(p == 1 && s.link.role == 3)

/-- Bring a port that is OFF into DETECT where it may run. -/
def State.portStart (s : State) (p : Nat) : State :=
  if s.linkState p = 0 ∧ s.portMayRun p then s.enterPort p 1 else s

/-- No lane is locked. -/
def State.clearLanes (s : State) (p : Nat) : State :=
  let s := s.setPort p { s.port p with lanes := [], bonds := 0, synced := false, taking := false, words := [], discarding := false }
  allLanes.foldl (fun s k => s.wr Ix.LaneState (laneIx p k) 0) s

/-- Lanes in service. -/
def State.lanesInService (s : State) (p : Nat) : List Nat := allLanes.filter (fun k => s.rd Ix.LaneState (laneIx p k) == 1)

/-! The budget (R306) -/

/-- Does the stream of a direction exceed 90 % of the payload rate of a link? -/
def State.streamOver (v : State) (north : Bool) (rate : Nat) : Bool :=
  decide (90 * payloadMbps rate * 1000000 < 100 * v.streamRate north)

/-- The rate in force at PORT-N: of its present bring-up while ACTIVE, otherwise the RATE of its block. -/
def State.northRate (s : State) : Nat := if s.portActive 0 then s.rd Ix.LinkRateInForce 1 else s.profileRate 0

/-- Does a direction exceed the budget on a link of this device that carries it (R306)? -/
def State.overBudget (s v : State) (north : Bool) : Bool :=
  v.streamOver north s.northRate || (s.portActive 1 && v.streamOver north (s.rd Ix.LinkRateInForce 2))

/-- BUDGET_EXCEEDED at a LINK_UP (R306). -/
def State.budgetReport (s : State) : State :=
  [false, true].foldl (fun s north =>
    if s.overBudget s north then s.raise 0x500B (1 + b2n north) (packData [f8 (b2n north), f32 (s.streamMbps north)]) else s) s

/-! The size of the array (R294) -/

/-- DEVICES of this device. -/
def State.devices (s : State) : Nat := 1 + (if s.portActive 1 then s.link.south else 0)

/-- CHAIN goes north, and the head shows the array's size. -/
def State.chainNorth (s : State) : State :=
  let d := s.devices
  let s := if s.portActive 0 then
      s.setPort 0 { s.port 0 with control := (s.port 0).control ++ [[3, 1, 0, 0, BitVec.ofNat 8 d]] }
    else s
  if s.pos = 0 ∧ s.rd Ix.LinkArraySize 0 ≠ d then (s.wr Ix.LinkArraySize 0 d).raise 0x5008 0 (packData [fCount d]) else s

/-- CHAIN received (R294): taken on PORT-S. -/
def State.chainIn (s : State) (p devices : Nat) : State :=
  if p = 1 ∧ s.portActive 1 ∧ 1 ≤ devices ∧ devices ≤ 4 then
    { s with link := { s.link with south := devices } }.chainNorth
  else s

/-! Going down (R295) -/

/-- A port leaves what it is doing for DETECT, or for OFF where it may not run. -/
def State.portBack (s : State) (p : Nat) : State :=
  let s := s.clearLanes p
  s.enterPort p (if s.portMayRun p then 1 else 0)

/-- A port in ACTIVE goes down: every bond in flight is discarded; the packets ready on it are discarded with them. -/
def State.portDown (s : State) (p reason : Nat) : State :=
  if s.portActive p then
    let s := s.portBack p
    let s := { s with link := { s.link with ready := tdel p s.link.ready, mems := s.link.mems.filter (fun m => m.port != p) } }
    let s := ((s.bump Ix.LinkDownCount (p + 1)).wr Ix.LinkDownReason (p + 1) reason).wrEpoch Ix.LinkLastDown (p + 1) s.epoch
    let s := s.raise 0x5002 (p + 1) (packData [f8 p, f8 reason])
    if p = 1 then { s with link := { s.link with south := 0 } }.chainNorth else s
  else s

/-- A port is taken to OFF whatever its state: with LINK_DOWN where it was ACTIVE. -/
def State.portToOff (s : State) (p reason : Nat) : State :=
  let s := s.portDown p reason
  if s.linkState p = 0 then s else (s.clearLanes p).enterPort p 0

/-! Bring-up (R291, R292) -/

/-- DETECT_PULSE (R291): every 100 µs; `found` has a bit for each data lane with the far-end termination. -/
def State.detectPulse (s : State) (p found : Nat) : State :=
  if s.linkState p = 1 ∧ s.elapsed (s.port p).since (usec 100) then
    if 8 ≤ (allLanes.filter (bitAt found)).length then
      let s := (s.clearLanes p).enterPort p 2
      s.wr Ix.LinkRateInForce (p + 1) (s.profileRate p)
    else s.setPort p { s.port p with since := s.now }
  else s

/-- TRAIN_DONE (R291): the pattern has been sent for 20 µs and every lane's sampling phase is set. -/
def State.trainDone (s : State) (p : Nat) (phases : Bool) : State :=
  if s.linkState p = 2 ∧ phases ∧ s.elapsed (s.port p).since (usec 20) then
    let s := s.enterPort p 3
    s.setPort p { s.port p with readySeen := false, readySent := false, ackAt := none, ackSeen := false }
  else s

/-- The timeout of a state of bring-up (Table 12.5). -/
def portTimeout : Nat → Option Nat
  | 2 => some (usec 500)
  | 3 => some (usec 700)
  | 4 => some (usec 500)
  | _ => none

/-- PORT_STATE_TIMEOUT (R291). -/
def State.portStateTimeout (s : State) (p : Nat) : State :=
  match portTimeout (s.linkState p) with
  | some t =>
    if s.elapsed (s.port p).since t then
      let st := s.linkState p
      ((s.portBack p).bump Ix.LinkTrainFails (p + 1)).wr Ix.LinkDownReason (p + 1) (16 + st)
    else s
  | none => s

/-- FAILED_TIMEOUT (R291): 10 ms after entry to FAILED the port returns to DETECT. -/
def State.failedTimeout (s : State) (p : Nat) : State :=
  if s.linkState p = 6 ∧ s.elapsed (s.port p).since (msec 10) then s.portBack p else s

/-- READY is set and sent (R292): PORT-S waits until the own position is fixed. -/
def State.judgeReady (s : State) (p : Nat) : State :=
  let s := if s.linkState p = 3 ∧ (p = 0 ∨ s.link.fixed) ∧ 8 ≤ (s.lanesInService p).length then
      s.setPort p { s.port p with readySent := true }
    else s
  if s.linkState p = 3 ∧ (s.port p).readySent ∧ (s.port p).readySeen then s.enterPort p 4 else s

/-- LOCK received (R292): READY of the far end; `own` has a bit for each own lane that has given 16 good bricks after the FRAME bond,
and `skews` their skew. -/
def State.lockIn (s : State) (p : Nat) (ready : Bool) (own : Nat) (skews : List Nat) : State :=
  if s.linkState p = 3 then
    let s := (allLanes.filter (bitAt own)).foldl (fun s k =>
      (s.wr Ix.LaneState (laneIx p k) 1).wr Ix.LaneSkew (laneIx p k) (skews.getD k 0 % 256)) s
    let s := s.setPort p { s.port p with readySeen := (s.port p).readySeen || ready, synced := (s.port p).synced || own != 0 }
    s.judgeReady p
  else s

/-- What Table 12.6 decides for a CAPS message: the position and the role, or the reason of CAPS_FAIL. -/
def State.capsOutcome (s : State) (p : Nat) (m : List Byte) : Except Nat (Nat × Nat) :=
  let sender := fieldLE m 4 1
  let far := fieldLE m 6 1
  let role := s.rd Ix.Straps 0 % 4
  let fixedAt (x : Nat × Nat) : Except Nat (Nat × Nat) := if s.link.fixed && x.1 != s.pos then .error 2 else .ok x
  if fieldLE m 7 1 ≠ s.rd Ix.LinkRateInForce (p + 1) then .error 4
  else if p = 1 then (if sender = 1 ∧ far = 0xFF then .ok (s.pos, s.link.role) else .error 3)
  else if sender = 0 ∨ sender = 3 then
    if role = 2 then .error 1 else fixedAt (0, if role = 3 then 3 else 1)
  else if sender = 2 then
    if role = 1 ∨ role = 3 then .error 1
    else if 3 ≤ far then .error 2
    else fixedAt (far + 1, 2)
  else .error 3

/-- CAPS received (R292, Table 12.6): kept in `LinkFarCaps`, then accepted or refused. -/
def State.capsIn (s : State) (p : Nat) (m : List Byte) : State :=
  if s.linkState p = 4 then
    let s := s.setDom Ix.LinkFarCaps (p + 1) (sliceBytes m 0 64)
    match s.capsOutcome p m with
    | .error reason =>
      let s := (s.clearLanes p).enterPort p 6
      (s.wr Ix.LinkDownReason (p + 1) 0x16).raise 0x5006 (p + 1) (packData [f8 p, f8 reason])
    | .ok _ =>
      let c := s.port p
      s.setPort p { c with ackAt := if c.ackAt.isSome then c.ackAt else some s.now, ackSeen := c.ackSeen || bitAt (fieldLE m 2 1) 0 }
  else s

/-- The time of a bond without stuff bits (Table 12.2). -/
def bondTime (rate : Nat) : Nat := if rate = 2 then nsec 32 else if rate = 1 then nsec 40 else nsec 64

/-- A port enters ACTIVE (R292, R298, R302): sequences and credits start, the lanes that did not lock are failed, the position is fixed
at the first ACTIVE of PORT-N. -/
def State.linkUp (s : State) (p : Nat) : State :=
  let caps := s.domVal Ix.LinkFarCaps (p + 1)
  let s := s.enterPort p 5
  let units (c : Nat) : Nat := fieldLE caps (30 + 4 * c) 2
  let limit (c : Nat) : Nat := fieldLE caps (28 + 4 * c) 2
  let credit : Tab Nat := [(1, units 1), (2, units 2), (3, units 3)]
  let s := s.setPort p { s.port p with
    taking := true, words := [], discarding := false, rxSeq := 255, txSeq := 0, credit := credit, owed := [],
    held := false, waitAck := none, alignFill := false, sent := [], control := [], echoIn := [], echoOut := none, echoMissed := 0 }
  let s := { s with link := { s.link with ready := tdel p s.link.ready },
                    farLimits := [1, 2, 3].foldl (fun t c => tput 0 (p * 4 + c) (limit c) t) s.farLimits }
  let s := allLanes.foldl (fun s k =>
    if s.rd Ix.LaneState (laneIx p k) = 0 then s.wr Ix.LaneState (laneIx p k) 2 else s) s
  let s := match s.capsOutcome p caps with
    | .ok (pos, role) =>
      if p = 0 ∧ s.link.fixed = false then { s with pos := pos, link := { s.link with fixed := true, role := role } } else s
    | .error _ => s
  let s := if p = 1 then { s with link := { s.link with south := 0 } } else s
  let s := s.bump Ix.LinkUpCount (p + 1)
  let s := s.raise 0x5001 (p + 1) (packData [f8 p, f8 (s.rd Ix.LinkRateInForce (p + 1)), fCount (s.lanesInService p).length])
  s.chainNorth.budgetReport

/-- SCRAMBLER_FRAME_START (R282, R292): the port's own next bond with FRAME set; in CAPS, with 16 CAPS messages with ACK sent and one
received, it sends its first data bond. -/
def State.scramblerFrame (s : State) (p : Nat) : State :=
  match (s.port p).ackAt with
  | some t =>
    if s.linkState p = 4 ∧ (s.port p).ackSeen ∧ s.elapsed t (16 * bondTime (s.rd Ix.LinkRateInForce (p + 1))) then s.linkUp p else s
  | none => s

/-- The CAPS message a port sends (Table 12.4, R302). -/
def State.capsOut (s : State) (p : Nat) : List Byte :=
  let lanes := (s.lanesInService p).foldl (fun a k => a + 2 ^ k) 0
  [2, 1, BitVec.ofNat 8 (b2n (s.port p).ackAt.isSome), 0, BitVec.ofNat 8 (1 + p), BitVec.ofNat 8 (if s.link.fixed then s.link.role else 0xFF),
    BitVec.ofNat 8 (if s.link.fixed then s.pos else 0xFF), BitVec.ofNat 8 (s.rd Ix.LinkRateInForce (p + 1))]
    ++ leBytes 2 lanes ++ [0, 0] ++ leBytes 8 (s.rd Ix.DeviceIdentity 0) ++ sliceBytes (s.domVal Ix.LinkProfile 0) 60 4
    ++ List.replicate 8 0 ++ [16383, 1024, 8198, 1024, 16383, 2048].flatMap (leBytes 2) ++ [1] ++ List.replicate 19 0

/-! Host commands and pins (R291, R295) -/

/-- CLOCK_LOSS (R295): no clock-lane edge for 64 UI. -/
def State.clockLoss (s : State) (p : Nat) : State := s.portDown p 2

/-- LINK_RETRAIN (R295). -/
def State.linkRetrain (s : State) (p v : Nat) : State := if v = 1 then s.portDown p 4 else s

/-- LINK_ENABLE written (R291, R295). -/
def State.linkEnabled (s : State) (p v : Nat) : State :=
  let s := s.wr Ix.LinkEnable (p + 1) v
  if v = 0 then s.portToOff p 4 else s.portStart p

/-! Bricks (R281 to R286) -/

/-- Remove the stuff bits from the next `n` bits of a lane: the bits, the last bit with the run it ends, the stuff bits removed, and the
bits left (R284). -/
def destuff : Nat → Bool → Nat → List Bool → List Bool × Bool × Nat × Nat × List Bool
  | _, last, run, [] => ([], last, run, 0, [])
  | 0, last, run, rest => ([], last, run, 0, rest)
  | n + 1, last, run, b :: t =>
    if run = 31 then
      let r := destuff (n + 1) b 1 t
      (r.1, r.2.1, r.2.2.1, r.2.2.2.1 + 1, r.2.2.2.2)
    else
      let r := destuff n b (if b = last then run + 1 else 1) t
      (b :: r.1, r.2)

/-- Skip gap bits: the header begins at the first bit that equals the bit before it (R285). -/
def skipGap : Bool → Nat → List Bool → Bool × Nat × List Bool
  | last, run, [] => (last, run, [])
  | last, run, b :: t => if b = last then (last, run, b :: t) else skipGap b 1 t

/-- A brick as received: its header, whether it is whole and keeps the SYNC rule, its scrambled payload, whether its CRC holds, the
stuff bits removed. -/
structure Brick where
  header : Nat
  sync : Bool
  payload : List Bool
  crc : Bool
  stuff : Nat
  deriving DecidableEq, Repr

def Brick.kind (b : Brick) : Nat := bitsOf b.header 13 13
def Brick.lane (b : Brick) : Nat := bitsOf b.header 12 9
def Brick.bseq (b : Brick) : Nat := bitsOf b.header 8 7
def Brick.frame (b : Brick) : Nat := bitsOf b.header 6 6
def Brick.align (b : Brick) : Nat := bitsOf b.header 5 5
def Brick.farFail (b : Brick) : Bool := bitAt b.header 4
def Brick.nlane (b : Brick) : Nat := bitsOf b.header 3 0

/-- Read a brick from a lane's bits (R281, R283 to R285), and what the lane's receiver keeps. -/
def readBrick (l : LaneSys) (bits : List Bool) : Brick × LaneSys :=
  let (last, run, bits, stuffed) : Bool × Nat × List Bool × Nat := match l.run, bits with
    | 31, b :: t => (b, 1, t, 1)
    | r, t => (l.last, r, t, 0)
  let g := skipGap last run bits
  let r := destuff 1024 g.1 g.2.1 g.2.2
  let body := r.1.take 1008
  let header := natOfBits (r.1.take 16)
  let whole := decide (r.1.length = 1024)
  let after : Bool × Nat × Nat := match r.2.2.1, r.2.2.2.2 with
    | 31, b :: _ => (b, 1, 1)
    | n, _ => (r.2.1, n, 0)
  let sync := whole && bitsOf header 15 14 == (if g.1 then 3 else 0)
  (⟨header, sync, (body.drop 16) ++ List.replicate (992 - (body.length - 16)) false,
    whole && crcBits 16 0x8BB7 0xFFFF body == natOfBits (r.1.drop 1008), stuffed + r.2.2.2.1 + after.2.2⟩,
    { l with last := after.1, run := after.2.1 })

/-- The seed of a lane's scrambler (R282). -/
def scramblerSeed (k : Nat) : Nat := 0x5C3A1F + 0x1301 * k

/-- Scramble or descramble payload bits (R282): the register steps on each. -/
def scramble : Nat → List Bool → List Bool × Nat
  | q, [] => ([], q)
  | q, b :: t =>
    let f := bitAt q 22 != bitAt q 17
    let r := scramble ((2 * q + b2n f) % 2 ^ 23) t
    ((b != f) :: r.1, r.2)

/-- The 31 lane words of a payload (R281). -/
def laneWords (l : List Bool) : List Nat := (groupBits 32 31 l).map natOfBits

/-- The bitwise XOR of lane words. -/
def xorWords (a b : List Nat) : List Nat := (a.zip b).map (fun x => x.1 ^^^ x.2)

/-- The value most of a bond's bricks carry, the first among equals. -/
def majority (l : List Nat) : Nat :=
  (l.foldl (fun (best : Nat × Nat) v =>
    let n := (l.filter (· == v)).length
    if best.2 < n then (v, n) else best) (0, 0)).1

/-- The bond words of eight lanes (R281): lane word j of lane k is bond word 8 j + k. -/
def bondWords (lanes : List (List Nat)) : List Nat :=
  (List.range 31).flatMap (fun j => lanes.map (fun l => l.getD j 0))

/-! Judging a bond (R288, R289) -/

/-- A lane of the incoming direction fails (R289): a third time within 10 s it stays failed; a second failed lane takes the port down. -/
def State.laneFails (s : State) (p k reason : Nat) : State :=
  if s.rd Ix.LaneState (laneIx p k) ≠ 1 then s
  else
    let c := s.port p
    let l := tget {} k c.lanes
    let at_ := l.failedAt.filter (fun t => decide (s.now < t + msec 10000)) ++ [s.now]
    let others := allLanes.any (fun j => j != k && decide (2 ≤ s.rd Ix.LaneState (laneIx p j)))
    let s := s.setPort p { c with lanes := tins k { l with failedAt := at_, good := 0, crcAt := [], lostHeaders := 0 } c.lanes }
    let s := s.wr Ix.LaneState (laneIx p k) (if 3 ≤ at_.length then 4 else 2)
    let s := s.raise 0x5003 (laneIx p k) (packData [f8 p, f8 k, f8 reason])
    if others then s.portDown p 1 else s

/-- LANE_REJOIN (R289): after 4,096 good bricks a failed lane returns to service. -/
def State.laneRejoin (s : State) (p k : Nat) : State :=
  let c := s.port p
  let l := tget {} k c.lanes
  if s.portActive p ∧ s.rdB Ix.LaneRejoin 0 ∧ s.rd Ix.LaneState (laneIx p k) = 3 ∧ 4096 ≤ l.good then
    let s := s.setPort p { c with lanes := tins k { l with good := 0, crcAt := [], lostHeaders := 0 } c.lanes }
    (s.wr Ix.LaneState (laneIx p k) 1).raise 0x5004 (laneIx p k) (packData [f8 p, f8 k])
  else s

/-- CREDIT packets (R302). -/
def creditPacket (pos etag kind c1 c2 c3 : Nat) : OutPacket :=
  { typ := 11, pos := pos, etag := etag, payload := leBytes 4 (kind * 2 ^ 30) ++ leBytes 2 c1 ++ leBytes 2 c2 ++ leBytes 4 (c3 % 65536) }

/-- A packet of this device with the ETAG of the epoch in progress becomes ready on a port. -/
def State.sendNow (s : State) (port typ pos : Nat) (payload : List Byte) : State :=
  s.sendPacket port { typ := typ, pos := pos, etag := s.epoch % 2 ^ 32, payload := payload }

/-- Credits are resynchronised after a lost bond or a framing error (R303): RESYNC_REQ goes out of the same port. -/
def State.askResync (s : State) (p : Nat) : State :=
  let s := s.setPort p { s.port p with waitAck := some s.now }
  s.sendPacket p (creditPacket s.pos (s.epoch % 2 ^ 32) 1 0 0 0)

/-- The words of a data bond are lost up to the next bond with ALIGN set (R288, R297, R303). -/
def State.loseWords (s : State) (p : Nat) : State :=
  (s.setPort p { s.port p with words := [], discarding := true }).askResync p

/-- A lost data bond (R288): BOND_LOST is raised at most once per millisecond per port, with the count. -/
def State.bondLost (s : State) (p : Nat) : State :=
  let s := (s.loseWords p).bump Ix.BondsLost (p + 1)
  let c := s.port p
  let due := match c.lostAt with
    | some t => s.elapsed t (msec 1)
    | none => true
  if due then
    let s := s.setPort p { c with lostAt := some s.now, lostCount := 0 }
    s.raise 0x5005 (p + 1) (packData [f8 p, fCount (c.lostCount + 1)])
  else s.setPort p { c with lostCount := c.lostCount + 1 }

/-- What a bond gives: nothing, a control message, or packet words with the ALIGN mark. -/
inductive BondResult where
  | nothing
  | control (message : List Byte)
  | data (align : Bool) (words : List Nat)
  deriving DecidableEq, Repr

/-- One lane's brick in a bond: what the receiver keeps and counts (R288, R289). `good` tells whether the brick would be good on a lane
in service. -/
def State.judgeLane (s : State) (p k : Nat) (b : Brick) (l : LaneSys) (good : Bool) (idle : Bool) : State :=
  let s := s.addCount Ix.LaneStuffBits (laneIx p k) b.stuff
  let s := if b.crc then s else s.bump Ix.LaneCrcErrors (laneIx p k)
  let c := s.port p
  let st := s.rd Ix.LaneState (laneIx p k)
  let lost := !b.sync || b.lane != k || b.nlane != 15 - k
  let window := s.rd Ix.LaneFailWindow 0
  let crcAt := (if b.crc then l.crcAt else l.crcAt ++ [c.bonds]).filter (fun n => decide (c.bonds < n + window))
  let headers := if lost then l.lostHeaders + 1 else 0
  let run := if good then l.good + 1 else 0
  let s := s.setPort p { c with lanes := tins k { l with crcAt := crcAt, lostHeaders := headers, good := run } c.lanes }
  let s := if good && b.sync then s.wrBit Ix.LinkFarFailMask (p + 1) k b.farFail else s
  if idle then s
  else if st = 1 then
    if 4 ≤ headers then s.laneFails p k 2
    else if s.rd Ix.LaneFailLimit 0 ≤ crcAt.length then s.laneFails p k 1
    else s
  else if (st = 2 ∨ st = 3) ∧ s.rdB Ix.LaneRejoin 0 then s.wr Ix.LaneState (laneIx p k) (if good then 3 else 2)
  else s

/-- A bond is received (R284 to R289, R292). In LOCK its bricks give the skews, the descramblers' synchronisation and READY; later they
are judged, and the payload is used, rebuilt or lost. -/
def State.receiveBond (s : State) (p : Nat) (lanes : List LaneBits) : BondResult × State :=
  let st := s.linkState p
  if st < 3 ∨ 5 < st then (.nothing, s)
  else
    let c := s.port p
    let read := allLanes.map (fun k => readBrick (tget {} k c.lanes) (lanes.getD k ⟨[], 0⟩).bits)
    let sound := read.zipIdx.map (fun x => x.1.1.crc && x.1.1.lane == x.2 && x.1.1.nlane == 15 - x.2)
    let voters := (read.zip sound).filterMap (fun x => if x.2 then some x.1.1 else none)
    let bseq := majority (voters.map Brick.bseq)
    let frame := majority (voters.map Brick.frame)
    let kind := majority (voters.map Brick.kind)
    let good := (read.zip sound).map (fun x => x.2 && x.1.1.bseq == bseq && x.1.1.frame == frame && x.1.1.kind == kind)
    let plain := read.zipIdx.map (fun x => scramble (if frame = 1 then scramblerSeed x.2 else x.1.2.q) x.1.1.payload)
    let kept := (read.zip plain).map (fun x => { x.1.2 with q := x.2.2 })
    let s := s.setPort p { c with bonds := c.bonds + 1 }
    let lostAll := (read.take 8).zipIdx.all (fun x => !x.1.1.sync || x.1.1.lane != x.2 || x.1.1.nlane != 15 - x.2)
    if st = 5 ∧ lostAll then (.nothing, s.portDown p 3)
    else
      let service := allLanes.map (fun k => s.rd Ix.LaneState (laneIx p k) == 1)
      let s := allLanes.foldl (fun s k =>
        s.judgeLane p k (read.getD k ⟨⟨0, false, [], false, 0⟩, {}⟩).1 (kept.getD k {}) (good.getD k false) (!(s.port p).taking)) s
      if s.linkState p = 3 then
        let c := s.port p
        let s := if frame = 1 ∧ c.synced = false ∧ 8 ≤ (allLanes.filter (fun k => decide (4 ≤ (tget {} k c.lanes).good))).length then
            allLanes.foldl (fun s k => s.wr Ix.LaneSkew (laneIx p k) ((lanes.getD k ⟨[], 0⟩).skew % 256))
              (s.setPort p { c with synced := true, lanes := c.lanes.map (fun x => (x.1, { x.2 with good := 0 })) })
          else s
        let c := s.port p
        let s := if c.synced then
            allLanes.foldl (fun s k => if 16 ≤ (tget {} k c.lanes).good then s.wr Ix.LaneState (laneIx p k) 1 else s) s
          else s
        let s := s.judgeReady p
        let words := bondWords ((plain.take 8).map (fun x => laneWords x.1))
        (if c.synced && kind == 1 && good.all id then .control (words.flatMap (leBytes 4)) else .nothing, s)
      else if s.linkState p < 4 ∨ 5 < s.linkState p then (.nothing, s)
      else
        let s := if s.linkState p = 4 ∧ kind = 0 ∧ (s.port p).ackAt.isSome then s.setPort p { s.port p with taking := true } else s
        let usable := (good.zip service).map (fun x => x.1 && x.2)
        let bad := (usable.filter (! ·)).length
        let words := plain.map (fun x => laneWords x.1)
        if 2 ≤ bad then (.nothing, if kind = 0 ∧ (s.port p).taking then s.bondLost p else s)
        else
          let rebuild := bad == 1 && (usable.getD 8 true)
          let s := if rebuild && kind == 0 then s.bump Ix.BondsReconstructed (p + 1) else s
          let data := if rebuild then
              (words.zip usable).zipIdx.map (fun x => if x.1.2 then x.1.1
                else ((words.zip usable).filterMap (fun y => if y.2 then some y.1 else none)).foldl xorWords (List.replicate 31 0))
            else words
          let out := bondWords (data.take 8)
          let align := majority (((read.zip usable).filterMap (fun x => if x.2 then some x.1.1 else none)).map Brick.align) == 1
          if kind = 1 then (.control (out.flatMap (leBytes 4)), s)
          else if (s.port p).taking then (.data align out, s)
          else (.nothing, s)

/-- LINK_PROFILE loaded at a release (R293): from fuses, or from the record in the boot flash; the built-in profile where it fails. -/
def State.loadProfile (s : State) : State :=
  let builtIn := domDefault Ix.LinkProfile
  let rec_ := s.bytesAt (flashBase + 0x10000) 80
  let body := rec_.drop 16
  let good := fieldLE rec_ 0 4 == 0x4B4C5657 && fieldLE rec_ 4 4 == 64 && fieldLE rec_ 8 4 == speCrc32 body
    && decide (fieldLE body 1 1 < 3) && decide (fieldLE body 33 1 < 3)
  let pick : List Byte × Bool := if s.fuse.profileFromFlash then (if good then (body, false) else (builtIn, true))
    else (s.fuse.linkProfile.getD builtIn, false)
  let s := { s with dom := tins (ck Ix.LinkProfile 0) pick.1 s.dom }
  let s := [0, 1].foldl (fun s p => s.wr Ix.LinkEnable (p + 1) (fieldLE pick.1 (32 * p) 1 % 2)) s
  if pick.2 then s.raise 0x5007 0 (packData [f8 1]) else s

end Sys2Proof.Machine
end

