-- ==== Sys2Proof/Machine/TimeBase.lean ====
section
/-! DEFINITION. The time base and its references (R48 to R51, R238, R312). Picoseconds become units of 1/3072 ns with the fraction
dropped. -/
namespace Sys2Proof.Machine

/-- Units of 1/3072 ns in a number of picoseconds. -/
def psUnits (ps : Int) : Int := ps * 3072 / 1000

/-- Picoseconds in a number of units. -/
def unitsPs (u : Int) : Int := u * 1000 / 3072

/-- Units in a frame of 10 ms. -/
def frameUnits : Nat := 30720000000

/-- Frames since E[0:0.0.0]. -/
def frameOf (e : Nat) : Nat := epEra e * 1024 + epFrame e

/-- The epoch E[f.0.0] of a frame number. -/
def frameStart (f : Nat) : Nat := mkEpoch (f / 1024) (f % 1024) 0 0

/-- The instant the frame in progress started. -/
def State.frameBegan (s : State) : Int := (s.tb.tickAt : Int) - 3125 * symbolOffset (s.rd Ix.Numerology 0) s.epoch

/-- From an epoch whose tick was at an instant, the epoch in progress with its tick. -/
def State.walkTo (s : State) : Nat → Nat → Int → Nat × Int
  | 0, e, t => (e, t)
  | fuel + 1, e, t =>
    let u := symbolUnits (s.rd Ix.Numerology 0) e
    if t + u ≤ s.now then s.walkTo fuel (epochNext (s.rd Ix.Numerology 0) e) (t + u) else (e, t)

/-- Set the time base so that a frame starts at an instant (R49 to R51). -/
def State.setTime (s : State) (frame : Nat) (at_ : Int) : State :=
  let k := ((s.now : Int) - at_) / frameUnits
  let f := (((frame : Int) + k) % (65536 * 1024)).toNat
  let r := s.walkTo 560 (frameStart f) (at_ + k * frameUnits)
  { s with epoch := r.1, tb := { s.tb with tickAt := r.2.toNat } }.wrEpoch Ix.EpochCurrent 0 r.1

/-- The delays the time base adds to its reference: `TimeRefOffset` and DEVICE_OFFSET (R48, R238). -/
def State.refOffset (s : State) : Int := psUnits (s.rdI 32 Ix.TimeRefOffset 0) + psUnits (toInt 32 (s.calField 12 4))

/-- The phase of a reference minus the time base, in units. A named frame is compared with the frame of that name, a pulse with the
nearest frame start. -/
def State.phaseOf (s : State) (named : Bool) (frame : Nat) (at_ : Int) : Int :=
  let d := at_ - s.frameBegan
  if named then
    let n := ((frame : Int) - frameOf s.epoch + 65536 * 512) % (65536 * 1024) - 65536 * 512
    d - n * frameUnits
  else (d + frameUnits / 2) % frameUnits - frameUnits / 2

/-- A number in a field of 32 bits, saturated. -/
def sat32 (x : Int) : Int := clampInt (-2147483648) 2147483647 x

/-- TIME_OFFSET, once for an offset that lasts (R50). -/
def State.timeOffset (s : State) (ps : Int) : State :=
  if s.tb.offsetSaid then s
  else { s with tb := { s.tb with offsetSaid := true } }.raise 0x1207 0 (packData [f8 (s.rd Ix.TimeSource 0), fI32 (sat32 ps)])

/-- The time base moves toward the reference by at most 2 ns (R50). -/
def State.slew (s : State) (phase : Int) : State :=
  { s with tb := { s.tb with tickAt := ((s.tb.tickAt : Int) + clampInt (-6144) 6144 phase).toNat } }

/-- The time base becomes locked. -/
def State.timeLocked (s : State) : State := s.wr Ix.TimeLockState 0 2

/-- A frame reference of the selected source: the instant at which it says its frame starts (R50). -/
def State.timeRef (s : State) (named : Bool) (frame : Nat) (start : Int) : State :=
  let at_ := start + s.refOffset
  let s := { s with tb := { s.tb with lastRef := s.epoch, refAt := s.now, refStart := at_, refFrame := frame } }
  let st := s.rd Ix.TimeLockState 0
  if st = 1 ∧ s.tb.acquired = false then
    { s with tb := { s.tb with acquired := true, goodRefs := 0 } }.setTime frame at_
  else
    let phase := s.phaseOf named frame at_
    let ps := unitsPs phase
    let s := s.wrI 32 Ix.TimePhaseError 0 (sat32 ps)
    if st = 1 then
      if phase.natAbs ≤ nsec 20 then
        let n := s.tb.goodRefs + 1
        let s := { s with tb := { s.tb with goodRefs := n } }
        if 3 ≤ n then s.timeLocked.raise 0x1205 0 (packData [f8 (s.rd Ix.TimeSource 0), fI32 ps]) else s
      else { s with tb := { s.tb with goodRefs := 0 } }.setTime frame at_
    else if st = 2 ∨ st = 3 then
      if phase.natAbs ≤ nsec 100 then
        let s := { s.slew phase with tb := { (s.slew phase).tb with offsetSaid := false } }
        if st = 3 ∧ phase.natAbs ≤ nsec 22 then s.timeLocked else s
      else s.timeOffset ps
    else s

/-- SYNC_IN_PULSE (R49, R436): a rising edge now, of a pulse of the width given in ns. -/
def State.syncPulse (s : State) (width : Nat) : State :=
  let pps := decide (4000 ≤ width)
  if s.rd Ix.TimeSource 0 ≠ 1 ∨ s.tb.running = false then s
  else if s.tb.acquired = false then
    if pps then
      let w := s.rd Ix.SyncInFrameAtPps 0
      let f := bitsOf w 31 16 * 1024 + bitsOf w 9 0
      { s with tb := { s.tb with ppsFrame := f } }.timeRef true f s.now
    else s
  else
    let f := (s.tb.refFrame + 1) % (65536 * 1024)
    let gone := (f + 65536 * 1024 - s.tb.ppsFrame) % 1024
    let s := if pps then
        let s := { s with tb := { s.tb with ppsFrame := f } }
        if gone = 100 then s
        else s.raise 0x1207 0 (packData [f8 1, fI32 (sat32 (((gone : Int) - 100) * 10000000000))])
      else s
    s.timeRef false f s.now

/-- TIME_LOST (R50): a locked time base without a reference for two consecutive frames enters holdover. -/
def State.timeLost (s : State) : State :=
  if s.rd Ix.TimeLockState 0 = 2 ∧ s.rd Ix.TimeSource 0 ≠ 2 ∧ s.elapsed s.tb.refAt (2 * frameUnits) then
    (s.wr Ix.TimeLockState 0 3).raise 0x1206 0 (packData [f8 (s.rd Ix.TimeSource 0), fEpoch s.tb.lastRef])
  else s

/-- The modes in which `TimeRealign` is accepted (R51). -/
def realignMode (m : Nat) : Bool := m == 1 || m == 2 || m == 3 || m == 7

/-- TIME_REALIGN (R51): arms the step. -/
def State.timeRealign (s : State) (v : Nat) : State :=
  if v = 1 then { s with tb := { s.tb with realign := true } } else s

/-- TIME_REALIGN_STEP (R51): the time base steps to the reference, and acquires again from there. -/
def State.realignStep (s : State) : State :=
  if s.tb.realign ∧ s.tb.acquired then
    let s := { s with tb := { s.tb with realign := false, offsetSaid := false, goodRefs := 0 } }
    (s.setTime s.tb.refFrame s.tb.refStart).wr Ix.TimeLockState 0 1
  else s

/-- A change of `TimeSource` starts acquisition again; free run has no lock (R50). -/
def State.sourceChanged (s : State) : State :=
  { s with tb := { s.tb with acquired := false, goodRefs := 0, realign := false, offsetSaid := false } }.wr Ix.TimeLockState 0
    (if s.rd Ix.TimeSource 0 = 2 then 0 else 1)

end Sys2Proof.Machine
end

