-- ==== Sys2Proof/Machine/Power.lean ====
section
/-! DEFINITION. Power domains, the Latency Governor, mode and power requests and their transitions, the reference clock (R19 to R30,
R351 to R370). -/
namespace Sys2Proof.Machine

/-! Wakes and switch-offs (R352, R362, R363, R366, R367) -/

/-- A wake is recorded; wake edges lost in an entry before it are reported (R366, R367). -/
def State.recordWake (s : State) (source : Nat) : State :=
  let s := (s.wr Ix.LastWakeSource 0 source).wrEpoch Ix.LastWakeEpoch 0 s.epoch
  let lost := s.power.edgesPending
  let s := { s with power := { s.power with edgesPending := [] } }
  (lost.eraseDups).foldl (fun s x => s.raise 0x6005 0 (packData [f8 x, fCount (lost.filter (· == x)).length])) s

/-- Switch a domain on for a transition, with no wake source of Table 16.3. -/
def State.wakeFor (s : State) (d : Nat) : State :=
  let st := s.rd Ix.DomainState (d + 1)
  if st = 0 ∨ st = 4 then
    let s := (s.wr Ix.DomainState (d + 1) 1).bump Ix.DomainWakeCount (d + 1)
    { s with power := { s.power with wakes := s.power.wakes ++ [DomainWake.mk d s.now none false (!(d == 5 && s.power.archInit))] } }
  else s

/-- A domain that is on begins to switch off (R352). -/
def State.beginSwitchOff (s : State) (d : Nat) : State :=
  let st := s.rd Ix.DomainState (d + 1)
  if st = 1 ∨ st = 2 then
    let s := { s with power := { s.power with wakes := s.power.wakes.filter (fun w => w.domain != d),
                                              demand := s.power.demand.filter (· != d) } }
    let s := s.wr Ix.DomainState (d + 1) 3
    let s := if d = 6 ∨ d = 7 then s.portToOff (d - 6) 4 else s
    if 8 ≤ d then s.courseOff (d - 8) else s
  else s

/-- DOMAIN_SWITCH_OFF_DONE (R352). -/
def State.switchOffDone (s : State) (d : Nat) : State :=
  if s.rd Ix.DomainState (d + 1) = 3 then s.switchOff d else s

/-- A waking domain reports (R352): power-good, oscillator-ready, and for an ARCH that has to initialise, its completion; true where
the domain is now ready. -/
def State.domainSignals (s : State) (d : Nat) (good osc init : Bool) : Bool × State :=
  match s.power.wakes.find? (fun w => w.domain == d) with
  | none => (false, s)
  | some w =>
    let w := { w with powerGood := if w.powerGood.isSome then w.powerGood else if good then some s.now else none,
                      oscillator := w.oscillator || osc }
    let w := { w with init := w.init || (init && w.powerGood.isSome && w.oscillator) || !(d == 5 && s.power.archInit) }
    if w.powerGood.isSome ∧ w.oscillator ∧ w.init then
      let s := { s with power := { s.power with wakes := s.power.wakes.filter (fun x => x.domain != d),
                                                idleSince := tins d s.now s.power.idleSince,
                                                archInit := s.power.archInit && d != 5 } }
      let s := s.wr Ix.DomainState (d + 1) 2
      let s := if d = 6 ∨ d = 7 then s.portStart (d - 6) else s
      (true, if 8 ≤ d then s.ownLo (d - 8) else s)
    else
      (false, { s with power := { s.power with wakes := s.power.wakes.map (fun x => if x.domain = d then w else x) } })

/-! The domains a mode needs (Table 1.4) -/

/-- The course of the SPE's main path. -/
def State.mainCourse (s : State) : Nat := courseOf (s.rd Ix.SpeMainPath 0)

/-- Does a mode have a domain on? -/
def State.modeNeeds (s : State) (m d : Nat) : Bool :=
  if d = 0 then true
  else if m = 0 then false
  else if d = 7 then s.rdB Ix.LinkEnable 2
  else if d = 1 ∨ d = 2 ∨ d = 5 ∨ d = 6 then true
  else if m = 1 then false
  else if m = 2 then d == 8 + s.mainCourse
  else !(decide (8 ≤ d) && s.rdB Ix.PowerHold (d - 8 + 1))

/-- The domains. -/
def allDomains : List Nat := List.range 12

/-- Switch on every domain a mode needs. -/
def State.wakeForMode (s : State) (m : Nat) : State :=
  allDomains.foldl (fun s d => if s.modeNeeds m d then s.wakeFor d else s) s

/-- Switch off every domain a mode does not have on. MASON stays on while a mason runs a task, and is then switched off as a demand domain
is. -/
def State.sleepForMode (s : State) (m : Nat) : State :=
  allDomains.foldl (fun s d =>
    if s.modeNeeds m d then s
    else if d = 4 ∧ m ≠ 0 ∧ allCores.any (fun k => (s.core k).task.isSome) then
      { s with power := { s.power with demand := insertNat 4 s.power.demand, idleSince := tins 4 s.now s.power.idleSince } }
    else s.beginSwitchOff d) s

/-! The Latency Governor (R353 to R361) -/

def wakeTime (d : Nat) : Nat := [0, usec 2, usec 20, usec 200].getD d 0
def entryTime (d : Nat) : Nat := [0, nsec 500, usec 2, usec 10].getD d 0

/-- Does a course act in an epoch, as the state will stand then (R355)? -/
def State.courseActs (s : State) (c e : Nat) : Bool :=
  let v := if s.host.commits.isEmpty then s else s.viewAt e
  v.txSymbol c e || v.rxSymbol c e || (coursePaths c).any (fun p => v.claimed p e)

/-- The first epoch from an epoch on, within a number of epochs, in which a course acts. -/
def State.nextActivity (s : State) (c : Nat) : Nat → Nat → Option Nat
  | 0, _ => none
  | fuel + 1, e => if s.courseActs c e then some e else s.nextActivity c fuel (s.nextEpoch e)

/-- The instant the transition into an activity must start (R96): its tick less the lead and the time from IDLE. -/
def State.startOf (s : State) (c e : Nat) : Nat :=
  let lead := if s.txSymbol c e then s.rd Ix.TxEnLead (c + 1) else s.rd Ix.RxEnLead (c + 1)
  s.tickOf e - (nsec lead + transitionTime 1 3)

/-- The end of a window that begins now: within 80 slots, the longest plan. -/
def State.windowEnd (s : State) (c : Nat) : Option (Nat × Nat) :=
  (s.nextActivity c 1120 (s.nextEpoch s.epoch)).map (fun e => (e, s.startOf c e))

/-- The depth of a window of length W (none: longer than any wake) for tolerance Λ in µs, with the edge that limited it (R356). -/
def State.chooseDepth (s : State) (c : Nat) (w : Option Nat) : Nat × Nat :=
  let slot := s.domField Ix.GovSlotLatency 0 (4 * s.planSlot s.epoch) 4
  let tol0 := min (s.rd Ix.GovCourseLatency (c + 1)) (s.rd Ix.GovDeviceLatency 0)
  let tol := if slot = 0xFFFFFFFF then tol0 else min tol0 slot
  let deepest (f : Nat → Bool) : Nat := ([3, 2, 1].find? f).getD 0
  let lat := deepest (fun d => decide (wakeTime d ≤ usec tol))
  let lo := min 3 (s.rd Ix.GovDepthMin 0)
  let hi := min 3 (s.rd Ix.GovDepthMax 0)
  let d1 := max lo (min hi lat)
  let e1 := if d1 < lat then 2 else if lat < d1 then 1 else 0
  let bound := tget 0 c s.power.depthPrev + s.rd Ix.GovDepthStep 0
  let d2 := min d1 bound
  let e2 := if d2 < d1 then 3 else e1
  match w with
  | none => (d2, e2)
  | some w => (min d2 (deepest (fun d => decide (entryTime d + wakeTime d ≤ w))), e2)

/-- May the device go to depth 4 (R360)? -/
def State.deviceSleeps (s : State) : Bool :=
  [0, 1, 2, 3].all (fun c => s.rd Ix.GovCourseDepth (c + 1) == 3)
    && decide (2000 ≤ s.rd Ix.GovDeviceLatency 0) && decide (4 ≤ s.rd Ix.GovDepthMax 0)
    && allCores.all (fun m => (s.core m).task.isNone) && s.lib.jobs.isEmpty && s.userJobs.isEmpty && s.lib.writes.isEmpty
    && [0, 1, 2, 3].all (fun c => match tget none c (s.power.window.map (fun x => (x.1, some x.2))) with
      | some w => (match w.until_ with
        | some t => decide (s.now + usec 2100 ≤ t)
        | none => true)
      | none => false)

def State.setWindow (s : State) (c : Nat) (w : IdleWindow) : State :=
  { s with power := { s.power with window := tins c w s.power.window } }
def State.window (s : State) (c : Nat) : Option IdleWindow := (s.power.window.find? (fun x => x.1 == c)).map (·.2)

/-- Modes in which the Governor acts on courses (R354). -/
def govMode (m : Nat) : Bool := m == 4 || m == 5 || m == 6 || m == 7

/-- GOV_WINDOW (R355, R356): a course has reached IDLE and its idle window begins at the depth chosen. -/
def State.govWindow (s : State) (c : Nat) : State :=
  if govMode s.mode && s.rd Ix.CourseRestState (c + 1) == 1 && s.courseState c == 1 && (s.course c).moving.isNone
      && (s.window c).isNone && !s.courseActs c s.epoch then
    let end_ := (s.windowEnd c).map (·.2)
    let r := s.chooseDepth c (end_.map (fun t => t - s.now))
    let s := { s with power := { s.power with depthPrev := tins c r.1 s.power.depthPrev } }
    let s := s.loopAt 0xFF 7 r.2
    let s := (s.setWindow c ⟨s.now, end_, r.1, none, false⟩).wr Ix.GovCourseDepth (c + 1) r.1
    let s := if r.1 = 3 then s.beginSwitchOff (8 + c) else s
    if s.deviceSleeps then ((s.wr Ix.GovDeviceDepth 0 4).beginSwitchOff 3).beginSwitchOff 4 else s
  else s

/-- A course leaves its window. -/
def State.endWindow (s : State) (c : Nat) : State :=
  { s with power := { s.power with window := tdel c s.power.window } }.wr Ix.GovCourseDepth (c + 1) 0

/-- Is a course awake: in no window deeper than 0, or its wake time has passed and its domain is on? -/
def State.courseAwake (s : State) (c : Nat) : Bool :=
  match s.window c with
  | none => true
  | some w => w.depth == 0 || (s.domainOn (8 + c) && (match w.wakeAt with
    | some t => s.elapsed t (wakeTime w.depth)
    | none => false))

/-- A course's wake begins. -/
def State.wakeCourse (s : State) (c source : Nat) : State :=
  match s.window c with
  | some w =>
    if w.depth = 0 ∨ w.wakeAt.isSome then s
    else
      let s := (s.setWindow c { w with wakeAt := some s.now }).recordWake source
      if w.depth = 3 then s.wakeFor (8 + c) else s
  | none => s

/-- The device's depth 4 ends: MIX and MASON wake (R360). -/
def State.wakeDevice (s : State) (source : Nat) : State :=
  if s.rd Ix.GovDeviceDepth 0 = 4 then (((s.wr Ix.GovDeviceDepth 0 0).recordWake source).wakeFor 3).wakeFor 4 else s

/-- Symbols of a course's coming activity whose tick lies before an instant, over a number of epochs. -/
def State.lateSymbols (s : State) (c ready : Nat) : Nat → Nat → Nat
  | 0, _ => 0
  | fuel + 1, e =>
    if ready ≤ s.tickOf e then 0 else b2n (s.courseActs c e) + s.lateSymbols c ready fuel (s.nextEpoch e)

/-- GOV_LATE (R358): once per window, with the symbols a wake that begins now or as planned makes late. -/
def State.govLate (s : State) (c : Nat) : State :=
  match s.window c with
  | some w =>
    match s.windowEnd c with
    | some (e, start) =>
      let wake := match w.wakeAt with
        | some t => t
        | none => max s.now (start - wakeTime w.depth)
      let ready := wake + wakeTime w.depth + (s.tickOf e - start)
      let n := s.lateSymbols c ready 64 e
      if n = 0 ∨ w.depth = 0 ∨ w.late then s
      else
        let s := s.setWindow c { w with late := true }
        (s.addCount Ix.GovLateSymbols (c + 1) n).raise 0x1110 (c + 1) (packData [f8 c, fCount n])
    | none => s
  | none => s

/-- A demand during a window (R358): its end is assessed again, and a course needed sooner wakes at once where its time has come. -/
def State.govDemand (s : State) : State :=
  [0, 1, 2, 3].foldl (fun s c =>
    match s.window c with
    | some w =>
      let end_ := (s.windowEnd c).map (·.2)
      let sooner := match w.until_, end_ with
        | some a, some b => decide (b < a)
        | none, some _ => true
        | _, none => false
      if sooner then
        let s := (s.setWindow c { w with until_ := end_ }).govLate c
        match end_ with
        | some t => if t ≤ s.now + wakeTime w.depth then s.wakeCourse c 3 else s
        | none => s
      else s.setWindow c { w with until_ := end_ }
    | none => s) s

/-- GOV_PLANNED_WAKE (R358, R360): the wake of a course starts at the start of its next transition less its wake time; MIX and MASON
wake 2 ms ahead. -/
def State.plannedWake (s : State) (c : Nat) : State :=
  match s.window c with
  | some w =>
    match w.until_ with
    | some t =>
      let s := if t ≤ s.now + msec 2 then s.wakeDevice 3 else s
      if t ≤ s.now + wakeTime w.depth then (s.wakeCourse c 3).govLate c else s
    | none => s
  | none => s

/-- Is an entry in its last 8 AON cycles, in which an edge is lost (R366)? -/
def State.edgeLost (s : State) : Bool :=
  [0, 1, 2, 3].any (fun c => match s.window c with
    | some w => w.depth == 3 && w.wakeAt.isNone && decide (w.since + entryTime 3 < s.now + nsec 2560) && decide (s.now < w.since + entryTime 3)
    | none => false)

/-- A wake event of kind edge (R366): all courses and the device go to depth 0, or the edge is lost. -/
def State.edgeWake (s : State) (source : Nat) : State :=
  if s.edgeLost then
    let s := s.bump Ix.WakeEdgesLost 0
    { s with power := { s.power with edgesPending := s.power.edgesPending ++ [source] } }
  else [0, 1, 2, 3].foldl (fun s c => s.wakeCourse c source) (s.wakeDevice source)

/-- A frozen Governor wakes the courses that are deeper (R357). -/
def State.govFrozen (s : State) : State :=
  if s.rd Ix.GovDepthMax 0 = 0 then [0, 1, 2, 3].foldl (fun s c => s.wakeCourse c 3) s else s

/-- COURSE_TRANSITION_START (R94 to R97, R102): from OFF once the domain is on and the mode in force or under way has the course, else
as the plan asks once the course is awake. -/
def State.courseStart (s : State) (c : Nat) : State :=
  let to_ := match s.modes.underWay with
    | some ⟨.mode m, _, _, _, _, _⟩ => m
    | _ => s.mode
  if s.courseState c = 0 then
    let wanted := (decide (3 ≤ s.mode) || decide (3 ≤ to_)) && s.domainOn (8 + c) && s.domainOn 3 && !s.rdB Ix.PowerHold (c + 1)
      && !(s.course c).held && (s.course c).moving.isNone
      && (match s.window c with
        | some w => w.wakeAt.isSome
        | none => true)
    if wanted then s.startTransition c 1 else s
  else if s.courseAwake c then
    let t := s.courseTransitionStart c
    if (t.course c).moving.isSome ∧ (s.course c).moving.isNone then t.endWindow c else t
  else s

/-- COURSE_TRANSITION_DONE (R94, R95): the course enters its new state; in IDLE its idle window may begin (R355). -/
def State.courseDone (s : State) (c : Nat) : State :=
  let woke := (s.window c).isSome && s.courseState c == 0
  let t := s.courseTransitionDone c
  if (t.course c).moving.isNone ∧ (s.course c).moving.isSome then
    if woke then t.endWindow c else t.govWindow c
  else t

/-! Mode requests (R25 to R30) -/

/-- Table 1.5: may a mode be left for another? -/
def modeAllowed : Nat → Nat → Bool
  | 1, m => m == 0 || m == 2 || m == 3 || m == 4 || m == 6 || m == 7
  | 2, m => m == 0 || m == 1 || m == 3 || m == 4 || m == 6 || m == 7
  | 3, m => m == 1 || m == 2 || m == 4 || m == 5 || m == 6 || m == 7
  | 4, m => m == 1 || m == 3 || m == 5 || m == 6 || m == 7
  | 5, m => m == 1 || m == 3 || m == 4 || m == 7
  | 6, m => m == 1 || m == 3 || m == 4 || m == 7
  | 7, m => m == 1 || m == 3 || m == 4
  | _, _ => false

/-- The earliest epoch that meets the lead time of Table 1.6 from now; in array scope also that of R41. -/
def State.modeEarliest (s : State) (from_ to_ : Nat) (array : Bool) : Nat :=
  let own := if from_ < 3 then
      (if to_ = 3 ∨ to_ = 4 ∨ to_ = 6 then s.earliestAfter (msec 2) else s.earliestAfter (msec 1))
    else if to_ = 2 then s.earliestAfter (msec 1)
    else s.addEpochs 2 s.epoch
  if array then
    let other := s.earliestArrayCommit
    if epLe own other then other else own
  else own

/-- Has a transition preparation to do (Table 1.6)? -/
def modePrepares (from_ to_ : Nat) : Bool :=
  if to_ = 0 ∨ to_ = 1 then false
  else if from_ < 3 then true
  else to_ == 2 || to_ == 5 || to_ == 6

/-- The mode against which a request is checked (R25). -/
def State.modeFrom (s : State) : Nat :=
  match s.modes.underWay with
  | some ⟨.mode m, _, _, _, _, _⟩ => m
  | _ => s.mode

/-- Does Table 1.5 or R26 refuse a mode from another? -/
def State.modeRefused (s : State) (from_ to_ target : Nat) : Bool :=
  !modeAllowed from_ to_ || (s.rd Ix.TrimValid 0 == 0 && to_ != 0 && to_ != 1) || (to_ == 5 && !s.setForDuplex (s.viewAt target)) || (from_ == 7 && s.rd Ix.SafeHoldCauses 0 != 0)

/-- A request starts: its preparation begins. -/
def State.beginTransition (s : State) (t : Transition) : State :=
  match t.target with
  | .mode m =>
    let prep := modePrepares s.mode m
    let s := { s with modes := { s.modes with underWay := some { t with prepared := !prep }, stepBusy := prep } }
    if prep then (s.wakeForMode m).speFollow else s
  | .power c v =>
    let s := { s with modes := { s.modes with underWay := some { t with prepared := true }, stepBusy := true } }
    if v = 0 then (if s.modeNeeds s.mode (8 + c) || decide (3 ≤ s.mode) then s.wakeFor (8 + c) else s) else s

/-- The epoch from which a hold is in force (R368): symbol 0 of the first slot that begins at least two epochs later. -/
def State.holdEpoch (s : State) : Nat := s.slotTwoEpochsOn

/-- The pending request starts when the transition under way has ended (R28, R30, R369): refused with MODE_FAIL where it no longer meets its
lead time, or after a failure is no longer allowed. -/
def State.startPending (s : State) (failed : Bool) : State :=
  match s.modes.underWay, s.modes.pending with
  | none, some t =>
    let s := { s with modes := { s.modes with pending := none } }
    match t.target with
    | .mode m =>
      let early := s.modeEarliest s.mode m t.array
      if failed && s.modeRefused s.mode m t.epoch then s.failTarget t.target 4
      else if m = s.mode then s
      else if epLe early t.epoch then s.beginTransition t
      else if t.asap then s.beginTransition { t with epoch := early, missed := true }
      else s.failTarget t.target 1
    | .power _ v => s.beginTransition { t with epoch := if v = 0 then s.epoch else s.holdEpoch }
  | _, _ => s

/-- A request accepted while a transition is under way replaces the pending one (R28, R369). -/
def State.holdPending (s : State) (t : Transition) : State :=
  let s := match s.modes.pending with
    | some old => s.failTarget old.target (preempted old.target)
    | none => s
  { s with modes := { s.modes with pending := some t } }

/-- `ModeRequest` and `ArrayModeRequest` for a mode other than Safe Hold (R25, R26, R28, R369). `missed` of the transition marks an ASAP
that moved the target. -/
def State.modeRequest (s : State) (v : Nat) (array : Bool) : Res :=
  let m := v % 256
  let asap := bitAt v 8
  let target := s.rdEpoch Ix.ModeTargetEpoch 0
  let from_ := s.modeFrom
  if 7 < m then .error (rangeAt 0)
  else if m = from_ then .ok s
  else if s.modeRefused from_ m target then .error s.stateAbort
  else if s.beyondLimit target then .error (rangeAt 0)
  else
    let t : Transition := ⟨.mode m, target, asap, array, false, false⟩
    if s.modes.underWay.isSome ∨ s.modes.abandoned.isSome then .ok (s.holdPending t)
    else
      let early := s.modeEarliest from_ m array
      if epLe early target then .ok (s.beginTransition t)
      else if asap then .ok (s.beginTransition { t with epoch := early, missed := true })
      else .error ⟨abLate, 0⟩

/-- `ModeRequest` with code 0x07 (R29, R422): the HOST cause; in Safe Hold it is set and cleared at once. -/
def State.safeHoldRequest (s : State) : State :=
  let s := if s.mode = 1 ∨ s.mode = 2 then s.wakeForMode 7 else s
  if s.mode = 7 then (s.causeActive 0).causeCleared 0 else s.causeActive 0

/-- PREPARATION_COMPLETE (R27): the domains are on, the courses out of OFF, the canceller set loaded. -/
def State.preparationComplete (s : State) : State :=
  match s.modes.underWay with
  | some t =>
    match t.target with
    | .mode m =>
      let up := allDomains.all (fun d => !s.modeNeeds m d || s.domainOn d)
      let courses := decide (m < 3) || [0, 1, 2, 3].all (fun c =>
        s.courseState c != 0 || s.rdB Ix.PowerHold (c + 1) || (s.course c).held || s.synState c == 4)
      let set := (m != 5 || s.setForDuplex s) && (m != 2 || s.spe.locked || !s.rdB Ix.SpeEnable 0)
      if t.prepared = false ∧ up ∧ courses ∧ set then
        { s with modes := { s.modes with underWay := some { t with prepared := true }, stepBusy := false } }
      else s
    | .power _ _ => s
  | none => s

/-- The wake from Dormant starts (R24): the domains of Standby wake and the reference clock is checked. -/
def State.dormantWake (s : State) : State :=
  if s.power.checkAt.isNone ∧ s.therm.latched = false then
    { s with power := { s.power with checkAt := some s.now } }.wakeForMode 1
  else s

/-- WAKE, of kind level (R24, R366): it leaves Dormant; in an entry to Dormant it abandons the entry, or in the last 8 AON cycles starts the
wake as soon as the entry completes. In any other state it does nothing. -/
def State.wakePin (s : State) : State :=
  if s.mode = 0 then s.dormantWake
  else match s.modes.underWay with
    | some ⟨.mode 0, e, _, _, _, _⟩ =>
      if s.now + nsec 2560 < s.tickOf e then
        ({ s with modes := { s.modes with underWay := none, stepBusy := false } }.failTarget (.mode 0) 3).speFollow.startPending false
      else { s with power := { s.power with wakeHeld := true } }
    | _ => s

/-- Everything that follows a mode's coming into force (R19 to R21, R102, R173, R205, R240, R405). -/
def State.followMode (s : State) (old m : Nat) : State :=
  let s := if old = 7 then (s.clearEnds 2).strobeCommitGroups else s
  let s := if old = 3 ∧ m ≠ 3 then (s.calFails 1).trainFails 1 else s
  let claimed := s.cal.step.any (fun r => r.measuring && !epLe r.until_ s.epoch)
  let s := if rollMode m && !claimed then s else s.calStepEnds
  let s := if m < 3 then [0, 1, 2, 3].foldl (fun s c => (s.courseOff c).endWindow c) s else s
  let s := if m = 3 then [0, 1, 2, 3].foldl (fun s c => s.endWindow c) s else s
  let s := (s.wakeForMode m).sleepForMode m
  let s := if 3 ≤ m ∧ old < 3 then [0, 1, 2, 3].foldl (fun s c => s.startCycle c) s else s
  let s := if m = 6 then { s with modes := { s.modes with replayNext := 0, captureNext := 0, captureFull := false } } else s
  let held := s.power.wakeHeld
  let s := { s with power := { s.power with wakeHeld := false } }
  let s := if m = 0 then { s with tb := { s.tb with running := false } } else s
  let s := if m = 0 && held then s.dormantWake else s
  s.speFollow

/-- A mode comes into force in the epoch in progress (R27): MODE_DONE. -/
def State.enterMode (s : State) (m : Nat) (asap : Bool) : State :=
  let old := s.mode
  let s := (s.wr Ix.ModeCurrent 0 m).wrEpoch Ix.ModeLastChange 0 s.epoch
  let s := s.raise 0x1101 0 (packData [f8 m, fEpoch s.epoch, fFlag asap])
  s.followMode old m

/-- The transition of the mode under way comes into force at the tick that begins the epoch in progress (R27), and the pending request starts;
one that is not prepared at its target is reported once. -/
def State.modeAtTick (s : State) : State :=
  match s.modes.underWay with
  | some t =>
    match t.target with
    | .mode m =>
      if !epLe t.epoch s.epoch then s
      else if t.prepared then
        let s := { s with modes := { s.modes with underWay := none, stepBusy := false } }
        (s.enterMode m (t.asap && t.missed)).startPending false
      else if t.epoch = s.epoch then
        (s.bump Ix.CommitMissedCount 0).raise 0x1202 0 (packData [fEpoch t.epoch, f8 1])
      else s
    | .power _ _ => s
  | none => s

/-- MODE_DONE (R27, R28): at the instant of the tick. -/
def State.modeDone (s : State) : State :=
  match s.modes.underWay with
  | some t => if t.prepared ∧ s.now = s.tb.tickAt then s.modeAtTick else s
  | none => s

/-- Safe Hold comes into force at the tick after its cause (R29). -/
def State.enterSafeHold (s : State) : State :=
  if s.modes.safeHoldDue then
    let s := { s with modes := { s.modes with safeHoldDue := false } }
    if s.mode = 7 then s
    else
      let s := (s.enterMode 7 false).wrEpoch Ix.SafeHoldLastEntry 0 s.epoch
      let s := ((s.clearBegins 2).calFails 1).trainFails 1
      let s := allPaths.foldl (fun s p => s.setPath p { s.path p with holdOff := true }) s
      s.causeCleared 0
  else s

/-- NEXT_SAFE_STEP (R29, R370): the step in progress of the abandoned preparation completes. -/
def State.nextSafeStep (s : State) : State :=
  match s.modes.abandoned with
  | some t => { s with modes := { s.modes with abandoned := none, stepBusy := false } }.failTarget t (preempted t) |>.speFollow
  | none => s

/-- A domain's failed wake fails the transition that needs it (R30). -/
def State.transitionFails (s : State) (d : Nat) : State :=
  match s.modes.underWay with
  | some t =>
    let needs := match t.target with
      | .mode m => s.modeNeeds m d && !t.prepared
      | .power c v => v == 0 && d == 8 + c
    if needs then
      let s := { s with modes := { s.modes with underWay := none, stepBusy := false } }
      (s.failTarget t.target 2).speFollow.startPending true
    else s
  | none => s

/-- A failed wake (R363): the domain switches off and shows failed; the transition that needed it fails; a course's paths are handled as
failed paths. -/
def State.wakeFails (s : State) (d reason : Nat) : State :=
  let s := (s.switchOff d).wr Ix.DomainState (d + 1) 4
  let s := (s.bump Ix.DomainWakeFails (d + 1)).raise 0x6003 (d + 1) (packData [f8 d, f8 reason])
  let s := s.transitionFails d
  if 8 ≤ d ∧ (s.window (d - 8)).isSome then
    let s := match s.window (d - 8) with
      | some w => s.setWindow (d - 8) { w with wakeAt := none }
      | none => s
    (coursePaths (d - 8)).foldl (fun s p => s.detectFault p 6) s
  else s

/-- DOMAIN_WAKE_TIMEOUT (R363): the reason names the first signal missing. -/
def State.wakeTimeout (s : State) (d : Nat) : State :=
  match s.power.wakes.find? (fun w => w.domain == d) with
  | some w =>
    if s.elapsed w.since (usec (s.rd Ix.DomainWakeTimeout 0)) then
      if w.powerGood.isNone then s.wakeFails d 1
      else if w.oscillator = false then s.wakeFails d 2
      else s
    else s
  | none => s

/-- ARCH_INIT_LIMIT (R363): 10 ms from power-good. -/
def State.archInitLimit (s : State) : State :=
  match s.power.wakes.find? (fun w => w.domain == 5) with
  | some ⟨_, _, some t, true, false⟩ => if s.elapsed t (msec 10) then s.wakeFails 5 3 else s
  | _ => s

/-- DOMAIN_IDLE_OFF (R362): a demand domain without an access for `DomainIdleOff`, unless the mode or the Governor needs it. -/
def State.idleOff (s : State) (d : Nat) : State :=
  if s.power.demand.contains d && s.domainOn d && !(s.modeNeeds s.mode d && !(s.rd Ix.GovDeviceDepth 0 == 4 && (d == 3 || d == 4)))
      && s.elapsed (tget 0 d s.power.idleSince) (usec (s.rd Ix.DomainIdleOff 0))
      && !(d == 4 && allCores.any (fun k => (s.core k).task.isSome)) then s.beginSwitchOff d
  else s

/-! Power requests (R368 to R370) -/

/-- `PowerRequest` (R368, R369). -/
def State.powerRequest (s : State) (v : Nat) : Res :=
  let c := v / 256
  let req := v % 256
  if 3 < c ∨ (req ≠ 0 ∧ req ≠ 3) then .error (rangeAt 0)
  else if s.modeFrom = 0 ∨ s.modeFrom = 3 then .error s.stateAbort
  else if req = 3 ∧ s.rdB Ix.SpeEnable 0 ∧ s.mainCourse = c then .error s.stateAbort
  else
    let inForce : Nat := match s.modes.underWay with
      | some ⟨.power d r, _, _, _, _, _⟩ => if d = c then r else if s.rdB Ix.PowerHold (c + 1) then 3 else 0
      | _ => if s.rdB Ix.PowerHold (c + 1) then 3 else 0
    if inForce = req then .ok s
    else
      let t : Transition := ⟨.power c req, if req = 3 then s.holdEpoch else s.epoch, false, false, true, false⟩
      if s.modes.underWay.isSome ∨ s.modes.abandoned.isSome then .ok (s.holdPending t) else .ok (s.beginTransition t)

/-- A power request comes into force at a slot boundary (R368): a hold at its epoch; a release once its course has reached IDLE, or where the
mode has the course OFF. -/
def State.powerAtSlot (s : State) : State :=
  match s.modes.underWay with
  | some t =>
    match t.target with
    | .power c v =>
      let ready := if v = 3 then epLe t.epoch s.epoch
        else decide (s.mode < 3) || (s.courseState c != 0 && (s.course c).moving.isNone)
      if ready then
        let s := { s with modes := { s.modes with underWay := none, stepBusy := false } }
        let s := s.wr Ix.PowerHold (c + 1) (b2n (v == 3))
        let s := if v = 3 then (s.courseOff c).beginSwitchOff (8 + c) |>.wr Ix.GovCourseDepth (c + 1) 3 else s.endWindow c
        (s.raise 0x6001 (c + 1) (packData [f8 c, f8 v])).startPending false
      else if v = 0 ∧ s.domainOn (8 + c) = false then s.wakeFor (8 + c)
      else s
    | .mode _ => s
  | none => s

/-! Dormant and the reference clock (R24, R361, R364, R365) -/

/-- GOV_DORMANT_REQUEST (R361). -/
def State.dormantRequest (s : State) : State :=
  if s.mode = 1 ∧ s.rdB Ix.GovDormantEnable 0 ∧ 50000 ≤ s.rd Ix.GovDeviceLatency 0 ∧ s.rd Ix.GovDepthMax 0 = 5
      ∧ s.elapsed s.power.lastRequestAt (msec (s.rd Ix.GovDormantIdle 0)) ∧ s.modes.underWay.isNone then
    s.beginTransition ⟨.mode 0, s.earliestAfter (msec 1), false, false, true, false⟩
  else s

/-- The clock source CLKM selects (R384). -/
def State.selectedClock (s : State) : Nat := if bitsOf (s.rd Ix.Straps 0) 3 2 = 3 then 1 else 0

/-- A change of clock source is reported (R364). -/
def State.setClock (s : State) (v : Nat) : State := (s.wr Ix.ClockSource 0 v).raise 0x6004 0 (packData [f8 v])

/-- DORMANT_CLOCK_CHECK (R24, R364): after 1 ms the wake is completed on the reference, or on the ring oscillator where it is absent. The time
base runs again from the next epoch, in Standby. -/
def State.dormantCheck (s : State) (present : Bool) : State :=
  match s.power.checkAt with
  | some t =>
    if s.elapsed t (msec 1) then
      let s := { s with power := { s.power with checkAt := none } }
      let s := if present then (if s.rd Ix.ClockSource 0 = 2 then s.setClock s.selectedClock else s)
        else ((s.setClock 2).portToOff 0 2).portToOff 1 2
      let e := s.nextEpoch s.epoch
      let s := { s with epoch := e, tb := { s.tb with running := true, tickAt := s.now } }.wrEpoch Ix.EpochCurrent 0 e
      (s.sourceChanged.enterMode 1 false).recordWake 0x8001
    else s
  | none => s

/-- The requests of PORT-N in flight are discarded, their tags freed (R365). -/
def State.dropNorthRequests (s : State) : State :=
  { s with host := { s.host with stalled := s.host.stalled.filter (fun r => r.port != 0),
                                 performing := s.host.performing.filter (fun r => r.port != 0),
                                 forwarded := s.host.forwarded.filter (fun f => f.request.port != 0) } }

/-- The Archive refreshes itself, or serves again (R365). -/
def State.holdArchive (s : State) (b : Bool) : State := { s with power := { s.power with archHeld := b } }

/-- Transitions and requests are dropped, and Standby is due at the next tick (R365). -/
def State.dropForStandby (s : State) : State :=
  let s := { s with modes := { s.modes with stepBusy := false } }.abandonTransitions.nextSafeStep
  { s with modes := { s.modes with safeHoldDue := false, standbyDue := s.mode != 1 } }

/-- REFCLK_LOSS (R365): no edge of the reference for 1 µs while the device runs on it. -/
def State.refclkLoss (s : State) : State :=
  if s.mode = 0 ∨ s.rd Ix.ClockSource 0 = 2 then s
  else
    let s := ((s.speOff.portToOff 0 2).portToOff 1 2).dropNorthRequests
    let s := (((s.masonsReset.jobsReset false).calFails 1).trainFails 1).calStepEnds
    let s := [3, 4, 8, 9, 10, 11].foldl State.beginSwitchOff s
    let s := [0, 1, 2, 3].foldl State.endWindow s
    let s := s.dropForStandby.holdArchive true
    let s := if s.rd Ix.TimeSource 0 = 2 then s else s.wr Ix.TimeLockState 0 3
    s.setClock 2

/-- Standby from the tick after a loss of the reference (R365). -/
def State.standbyAtTick (s : State) : State :=
  if s.modes.standbyDue then
    { s with modes := { s.modes with standbyDue := false } }.enterMode 1 false
  else s

/-- CLOCK_RETURN (R364): the selected clock, present for 10 ms, is taken back. -/
def State.clockReturn (s : State) : State :=
  if s.rd Ix.ClockSource 0 = 2 then
    let s := (s.holdArchive false).setClock s.selectedClock
    (s.portStart 0).portStart 1
  else s

end Sys2Proof.Machine
end

