-- ==== Sys2Proof/Machine/Reset.lean ====
section
/-! DEFINITION. Reset sources, reaches and the release sequence; domain resets and block bits; keys, signing and attestation; the test
access port (R373 to R384, R390 to R395). -/
namespace Sys2Proof.Machine

/-! The reset-cause record (R377) -/

/-- The reach of a source (Table 17.2): 1 cold, 2 warm, 3 domain, 4 block. -/
def resetReach (bit : Nat) : Nat := if bit ≤ 4 then 1 else if bit ≤ 9 then 2 else if bit = 10 then 3 else 4

/-- The record after the assertion of a source: a power-on clears it first; WIDEST and SOURCE follow where the reach is at least as
wide as the one recorded. -/
def causeAfter (rec_ bit : Nat) : Nat :=
  let r := if bit = 0 then 0 else rec_
  let seen := setBit (r % 4096) bit true
  let widest := bitsOf r 31 24
  if widest = 0 ∨ resetReach bit ≤ widest then resetReach bit * 2 ^ 24 + bit * 2 ^ 16 + seen
  else r / 2 ^ 16 * 2 ^ 16 + seen

def State.noteReset (s : State) (bit : Nat) : State := s.wr Ix.ResetCause 0 (causeAfter (s.rd Ix.ResetCause 0) bit)

/-- RESET_CAUSE_CLEAR (R377). -/
def State.resetCauseClear (s : State) (v : Nat) : State := if v = 1 then s.wr Ix.ResetCause 0 0 else s

/-! Assertion (R373 to R375, R378) -/

/-- Is the device held in a cold or warm reset? -/
def State.inReset (s : State) : Bool := s.reset_.held.any (fun h => decide (h.bit ≤ 9))

/-- Is an instruction of the test access port a test-mode instruction (R394)? -/
def testMode (ir : Nat) : Bool := decide (3 ≤ ir) && decide (ir ≤ 7)

/-- The domains that drive scanned balls: CORE, the ports, the courses, and MIX for the tiles' routes (R394). -/
def scannedDomains : List Nat := [2, 3, 6, 7, 8, 9, 10, 11]

/-- What is left of the memories: the flash always, the Archive after a warm reset (R322). -/
def MemSys.surviving (m : MemSys) (cold : Bool) : MemSys :=
  let keep := fun (a : Nat) => decide (flashBase ≤ a) || (!cold && decide (a < 0x100000000))
  { bytes := m.bytes.filter (fun c => keep c.1), poison := m.poison.filter keep, upsets := m.upsets.filter (fun u => keep u.addr) }

/-- What reset control itself keeps: the sources asserted, the reach, the straps as sampled, the count of reports since a cold release. -/
def ResetSys.surviving (r : ResetSys) (cold : Bool) : ResetSys :=
  { held := r.held, reach := r.reach, source := r.source, straps := r.straps, sequence := if cold then 0 else r.sequence }

/-- The Catalogue values that outlive a cold or warm reset: the reset-cause record and the release counts; after a warm one also the last
wake and what is shown of the trim shadow (Table 17.1). -/
def State.survivingCat (s : State) (cold : Bool) : List (Nat × Nat) :=
  [ck Ix.ResetCause 0, ck Ix.ReleaseCount 1, ck Ix.ReleaseCount 2]
    ++ (if cold then [] else [ck Ix.LastWakeSource 0, ck Ix.LastWakeEpoch 0, ck Ix.TrimValid 0, ck Ix.TrimCrc 0]) |>.map
      (fun k => (k, s.rd (k / 256) (k % 256)))

/-- The part held in a cold or warm reset (Table 17.1): all as `State.reset` but for what survives the reach, the fuses, the levels of the
pins, a thermal latch (R416), and the commands that wait. -/
def State.rebuilt (s : State) (cold : Bool) : State :=
  let latched := s.therm.latched
  let t : State := { State.reset with
    pending := s.pending, now := s.now, free := s.free, fuse := s.fuse, scan := s.scan, mem := s.mem.surviving cold,
    tb := { tickAt := s.now }, bias := { clears := s.bias.clears % 2 + (if latched then 4 else 0) }, therm := { latched := latched } }
  let t := { t with
    ev := { log := if cold then [] else s.ev.log }, power := { archInit := cold || s.power.archInit },
    cal := { shadow := if cold then [] else s.cal.shadow, coldAt := s.cal.coldAt }, reset_ := s.reset_.surviving cold }
  let t := (s.survivingCat cold).foldl (fun t c => t.wr (c.1 / 256) (c.1 % 256) c.2) t
  if testMode s.scan.ir && !latched then scannedDomains.foldl (fun t d => t.wr Ix.DomainState (d + 1) 2) t else t

/-- The widest reach and its latest source since the last release sequence completed. -/
def State.noteReach (s : State) (bit : Nat) : State :=
  let r := s.reset_
  let fresh := r.bootDone || decide (resetReach bit ≤ r.reach)
  { s with reset_ := { r with bootDone := false, reach := if fresh then resetReach bit else r.reach,
                              source := if fresh then bit else r.source } }

/-- A trim load that runs is aborted: the shadow is cleared and not valid (R378). -/
def State.abortLoad (s : State) : State :=
  match s.reset_.loadAt with
  | some t =>
    if s.elapsed t (usec 180) then s
    else { s with cal := { s.cal with shadow := [] } }.wr Ix.TrimValid 0 0
  | none => s

/-- A cold or warm source is asserted. A latched thermal shutdown ignores every source but power-on and a brown-out, and only power-on
ends it (R416). -/
def State.assertSource (s : State) (bit : Nat) : State :=
  if s.therm.latched ∧ 1 < bit then s
  else
    let s := (s.noteReset bit).noteReach bit
    let held := s.reset_.held.filter (fun h => h.bit != bit) ++ [ResetSource.mk bit s.now 0]
    let s := { s with reset_ := { s.reset_ with held := held } }
    let s := if bit = 0 then { s with therm := { s.therm with latched := false } } else s
    let s := if bit = 0 then (s.wr Ix.ReleaseCount 1 0).wr Ix.ReleaseCount 2 0 else s
    s.abortLoad.rebuilt (decide (s.reset_.reach = 1))

/-! The release sequence (R376, R379, R384) -/

/-- The states of the key slots (R390). -/
def State.keyState (s : State) (k : Nat) : Nat :=
  if s.fuse.revoked.contains k then 3
  else if (s.fuse.keyHash.getD k none).isNone then 0
  else if thas k s.reset_.loadedKeys then 2 else 1

def State.showKeys (s : State) : State := [0, 1, 2, 3].foldl (fun s k => s.wr Ix.KeySlotState (k + 1) (s.keyState k)) s

/-- What the fuses and the board profile show in the Catalogue (R1, R2, R252, R391, R400, R409). -/
def State.showFuses (s : State) : State :=
  let s := (s.wr Ix.DeviceGrade 0 s.fuse.grade).wr Ix.DeviceIdentity 0 s.fuse.identity
  let s := if s.fuse.identityKey.isEmpty then s else { s with dom := tins (ck Ix.DeviceIdentityKey 0) s.fuse.identityKey s.dom }
  let s := (List.range 16).foldl (fun s t => s.wr Ix.RemoteSensorType (t + 1) (tget 0 t s.fuse.remoteType)) s
  let s : State := match s.fuse.tempWarn with
    | some l => (List.range 16).foldl (fun s n => s.wr Ix.TempWarn (n + 1) (l.getD n 0)) s
    | none => s
  let s := if s.fuse.grade = 0x43 then
      (List.range 8).foldl (fun s k => ((s.wr Ix.TempWarn (k + 17) 900).wr Ix.TempThrottle (k + 17) 950).wr Ix.TempShutdown (k + 17) 1050) s
    else s
  (s.wr Ix.CalStoreAutoApply 0 s.fuse.calAutoApply).showKeys

/-- The board profile and the start of the boot (R376 steps 3 and 4, R384, R387, R388): KEY, CORE, ARCH and the ports wake, the time base
counts from E[0:0.0.0], and `BootState` follows the BOOT strap. -/
def State.startBoot (s : State) : State :=
  let s := s.biasProfile.loadProfile.showFuses
  let cold := s.reset_.reach == 1
  let s := s.bump Ix.ReleaseCount (if cold then 1 else 2)
  let s := { s with epoch := 0, tb := { running := true, tickAt := s.now }, power := { s.power with archInit := s.power.archInit || cold } }
  let s := s.designateSpares
  let s := [1, 2, 5, 6, 7].foldl (fun s d => if d = 7 ∧ !s.rdB Ix.LinkEnable 2 then s else s.wakeFor d) s
  let boot := bitsOf (s.rd Ix.Straps 0) 6 4
  let s := { s with reset_ := { s.reset_ with bootReadAt := s.now, tryingImage := if boot = 3 ∧ !cold then 3 else 0 } }
  if 4 ≤ boot then (s.wr Ix.BootState 0 6).raise 0x6402 0 (packData [f8 4, f8 5])
  else s.wr Ix.BootState 0 (if boot = 1 ∨ boot = 2 then 3 else 1)

/-- The release sequence runs at the release of the last cold or warm source: the straps are sampled, and the trims are loaded, or checked at a
warm release; a mismatch of the check asserts source 3. -/
def State.releaseSequence (s : State) (straps : Nat) : State :=
  if s.therm.latched then s
  else
    let s : State := { s with reset_ := { s.reset_ with straps := straps % 128 } }
    let s := s.wr Ix.Straps 0 (straps % 128)
    let s := s.wr Ix.ClockSource 0 (if bitsOf straps 3 2 = 3 then 1 else 0)
    if s.reset_.reach = 1 ∨ s.rd Ix.TrimValid 0 = 0 then
      let s := s.trimLoad
      State.startBoot { s with reset_ := { s.reset_ with loadAt := some s.now } }
    else
      let r := s.trimCheck
      if r.1 then r.2.startBoot else r.2.assertSource 3

/-- A cold or warm source lets go; the release sequence runs when none is left (R375, R376). -/
def State.letGo (s : State) (bit straps : Nat) : State :=
  if s.reset_.held.any (fun h => h.bit == bit) then
    let s := { s with reset_ := { s.reset_ with held := s.reset_.held.filter (fun h => h.bit != bit) } }
    if s.inReset then s else s.releaseSequence straps
  else s

/-- RST_N_LOW and RST_N_HIGH: the pin's warm source (R374). -/
def State.rstLow (s : State) : State := s.assertSource 5
def State.rstHigh (s : State) (straps : Nat) : State := s.letGo 5 straps

/-! Domain resets and block bits (R382, R383) -/

/-- A MASON reset: tasks fail with NO_SPARE, weight jobs with RESET (R382). -/
def State.masonDomainHeld (s : State) : State := s.masonsReset.jobsReset false

/-- What the reset of a domain does while the domain is held. -/
def State.domainHeld (s : State) (d : Nat) : State :=
  let s := { s with power := { s.power with resetting := insertNat d s.power.resetting } }.switchOff d
  if d = 3 then { s with mix := {} }
  else if d = 4 then s.masonDomainHeld
  else if d = 6 ∨ d = 7 then (s.portToOff (d - 6) 5).jobsReset true
  else if 8 ≤ d then
    let s := ((s.courseOff (d - 8)).ownLo (d - 8)).endWindow (d - 8)
    s.setCourse (d - 8) { s.course (d - 8) with held := true }
  else s

/-- `DomainReset` (R382). -/
def State.domainReset (s : State) (d : Nat) : Res :=
  if d < 3 ∨ 11 < d then .error (rangeAt 0)
  else
    let s := s.noteReset 10
    let s := { s with reset_ := { s.reset_ with held := s.reset_.held ++ [ResetSource.mk 10 s.now d] } }
    .ok (s.domainHeld d)

/-- The sources of domain resets let go 10 µs after their assertion; a domain its mode requires then wakes. -/
def State.domainRelease (s : State) : State :=
  let due := s.reset_.held.filter (fun h => h.bit == 10 && s.elapsed h.since (usec 10))
  let s := { s with reset_ := { s.reset_ with held := s.reset_.held.filter (fun h => !(h.bit == 10 && s.elapsed h.since (usec 10))) } }
  due.foldl (fun s h => if s.modeNeeds s.mode h.domain then s.wakeFor h.domain else s) s

/-- RESET_SOURCE_RELEASE (R374, R375): 2 ms after a power-on or brown-out, 10 µs after a source of fixed length. RST_N, the test access port and
the block bits let go by rows of their own. -/
def State.sourceRelease (s : State) (bit straps : Nat) : State :=
  if bit = 10 then s.domainRelease
  else
    match s.reset_.held.find? (fun h => h.bit == bit) with
    | some h =>
      if bit ≠ 5 ∧ bit ≠ 9 ∧ s.elapsed h.since (if bit ≤ 1 then msec 2 else usec 10) then s.letGo bit straps else s
    | none => s

/-- DOMAIN_RESET_DONE (R382): the configuration in force is reloaded; service resumes at the next slot boundary. -/
def State.domainResetDone (s : State) (d : Nat) : State :=
  if s.power.resetting.contains d && !s.reset_.held.any (fun h => h.bit == 10 && h.domain == d)
      && (s.domainOn d || !s.modeNeeds s.mode d) then
    let s := { s with power := { s.power with resetting := s.power.resetting.filter (· != d), resuming := insertNat d s.power.resuming } }
    s.raise 0x6408 (d + 1) (packData [f8 d])
  else s

/-- Service resumes at a slot boundary after a domain reset, or after the bit of the canceller or the Lineariser bank (Table 17.5). -/
def State.resumeAtSlot (s : State) : State :=
  let due := s.power.resuming
  let s := { s with power := { s.power with resuming := [] } }
  due.foldl (fun s d =>
    if 8 ≤ d ∧ d < 12 ∧ s.rdBit Ix.BlockResetOther 0 (d - 5) = false then s.setCourse (d - 8) { s.course (d - 8) with held := false }
    else s) s

/-- A bit of `BlockResetOther` comes into force or is cleared (Table 17.5). The reset of a course restores its faulty paths (R423). -/
def State.otherBit (s : State) (k : Nat) (set : Bool) : State :=
  if k ≤ 1 then (if set then s.portToOff k 5 else s.portStart k)
  else if k = 2 then
    (if set then
      let s := s.speOff
      match s.leaseOf 0x300 with
      | some l => s.endLease l 3
      | none => s
    else s.speFollow)
  else if k ≤ 6 then
    let c := k - 3
    let s := if set then ((s.courseOff c).ownLo c).endWindow c else (coursePaths c).foldl State.restorePath s
    s.setCourse c { s.course c with held := set }
  else if set then s
  else { s with power := { s.power with resuming := insertNat (0x100 + k) s.power.resuming } }

/-- Block bits change at a commit (R383): source 11 is recorded where a bit is set, and each block that changes is held or let go. -/
def State.blockBits (s : State) (index old new : Nat) : State :=
  let n := if index = Ix.BlockResetMason then 48 else if index = Ix.BlockResetDma then 16 else 9
  let changed := (List.range n).filter (fun k => bitAt old k != bitAt new k)
  let s := if changed.any (bitAt new) then s.noteReset 11 else s
  changed.foldl (fun s k =>
    let set := bitAt new k
    if index = Ix.BlockResetMason then (if set then s.masonHeld k else s.masonFreed k)
    else if index = Ix.BlockResetDma then (if set then s.dmaReset k else s)
    else s.otherBit k set) s

/-! Reset commands and the other sources (R374, R381) -/

/-- `ResetRequest` (R381): the source is asserted 100 µs after the response. -/
def State.resetRequest (s : State) (v : Nat) : Res :=
  let due := fun (bit : Nat) =>
    if s.reset_.dueCmd.isSome then s else { s with reset_ := { s.reset_ with dueCmd := some (s.now, bit) } }
  if v = 0x5A01 then .ok (due 4) else if v = 0x5A02 then .ok (due 8) else .error (rangeAt 0)

/-- LINK_COMMAND_ASSERT (R381). -/
def State.linkCommandAssert (s : State) : State :=
  match s.reset_.dueCmd with
  | some (t, bit) => if s.elapsed t (usec 100) then s.assertSource bit else s
  | none => s

/-- KEYSTONE_WATCHDOG (Table 17.2): Keystone's firmware has not restarted its watchdog within its period. -/
def State.keystoneWatchdog (s : State) : State :=
  match s.reset_.watchdogAt with
  | some t => if s.elapsed t (msec (s.rd Ix.WatchdogPeriod 0)) then s.assertSource 6 else s
  | none => s

/-- `TrimRecheck` (R231): a mismatch is an uncorrectable shadow word. -/
def State.trimRecheck (s : State) (v : Nat) : State :=
  if v = 1 ∧ s.mode ≠ 0 then
    let r := s.trimCheck
    if r.1 then r.2 else r.2.assertSource 2
  else s

/-! Keys, signing, attestation (R390 to R392) -/

/-- `KeyRevoke` (R390): the checks in order; the offset of a refused field is its place in the record. -/
def State.keyRevoke (s : State) (rec_ : List Byte) : Res :=
  let slot := fieldLE rec_ 0 1
  let signer := fieldLE rec_ 1 1
  let left := [0, 1, 2, 3].any (fun k => k != slot && (s.fuse.keyHash.getD k none).isSome && !s.fuse.revoked.contains k)
  if 3 < slot then .error (rangeAt 0)
  else if 3 < signer then .error (rangeAt 1)
  else if fieldLE rec_ 8 8 ≠ s.rd Ix.DeviceIdentity 0 then .error (rangeAt 8)
  else if signer = slot ∨ s.keyState signer ≠ 2 ∨ left = false then .error s.stateAbort
  else if Config.sm2Verify (tget [] signer s.reset_.loadedKeys) (rec_.take 16) (sliceBytes rec_ 16 64) = false then .error ⟨abSignature, 0⟩
  else .ok { s with reset_ := { s.reset_ with revoking := s.reset_.revoking ++ [slot] } }

/-- KEY_REVOKED (R390): the fuse is blown. -/
def State.keyRevoked (s : State) : State :=
  match s.reset_.revoking with
  | slot :: rest =>
    let s := { s with reset_ := { s.reset_ with revoking := rest, loadedKeys := tdel slot s.reset_.loadedKeys },
                      fuse := { s.fuse with revoked := insertNat slot s.fuse.revoked } }
    s.showKeys.raise 0x6404 (slot + 1) (packData [f8 slot])
  | [] => s

/-- Is the signing unit in use (R392)? -/
def State.signing (s : State) : Bool := s.reset_.attestNonce.isSome || s.reset_.signDigest.isSome

/-- `AttestRequest` and `IdentitySign` (R392). -/
def State.attestRequest (s : State) (nonce : List Byte) : Res :=
  if s.signing then .error s.stateAbort else .ok { s with reset_ := { s.reset_ with attestNonce := some nonce } }
def State.identitySign (s : State) (d : List Byte) : Res :=
  if s.signing then .error s.stateAbort else .ok { s with reset_ := { s.reset_ with signDigest := some d } }

/-- Keys and values of a table of 8-bit fuses as bytes. -/
def fuseBytes (t : Tab Nat) (n : Nat) : List Byte := (List.range n).map (fun k => BitVec.ofNat 8 (tget 0 k t))

/-- The board-profile fuses as bytes, in an order the spec does not give (R392; log entry 31). -/
def Fuses.profileBytes (f : Fuses) : List Byte :=
  fuseBytes f.biasRange 144 ++ (List.range 144).flatMap (fun k => leBytes 2 (tget 0 k f.biasClear)) ++ fuseBytes f.remoteType 16
    ++ (f.tempWarn.getD []).flatMap (leBytes 2) ++ leBytes 1 f.calAutoApply ++ leBytes 1 (b2n f.profileFromFlash) ++ f.linkProfile.getD []

/-- CONFIG_DIGEST of Table 17.9, which `ConfigProfileDigest` shows. -/
def State.configDigest (s : State) : List Byte :=
  if s.reset_.profileAt.isNone then List.replicate 32 0
  else Config.sm3 (s.fuse.profileBytes ++ s.domVal Ix.LinkProfile 0 ++ s.reset_.profile)

/-- A 32-byte value, as long as SM3 makes it. -/
def digest32 (l : List Byte) : List Byte := sliceBytes l 0 32

/-- The report of Table 17.9 before its signature. -/
def State.attestBody (s : State) (nonce : List Byte) (seq : Nat) : List Byte :=
  let src := s.rd Ix.BootSource 0
  let flags := 4 * s.rd Ix.TrimValid 0 + 2 * b2n (src == 1 || src == 4) + s.rd Ix.Altered 0
  leBytes 4 0x54534157 ++ leBytes 1 1 ++ leBytes 1 flags ++ leBytes 1 src ++ leBytes 1 s.reset_.bootKeySlot
    ++ leBytes 8 (s.rd Ix.DeviceIdentity 0) ++ leBytes 8 (epochEntry s.epoch) ++ leBytes 4 (s.rd Ix.BootImageVersion 0) ++ leBytes 4 seq
    ++ sliceBytes nonce 0 32 ++ digest32 (s.domVal Ix.BootImageDigest 0) ++ digest32 s.configDigest
    ++ (List.range 32).flatMap (fun k => if (s.kernel k).isEmpty then List.replicate 32 0 else digest32 (Config.sm3 (s.kernel k)))

/-- ATTEST_DONE (R392). -/
def State.attestDone (s : State) : State :=
  match s.reset_.attestNonce with
  | some nonce =>
    let seq := (s.reset_.sequence + 1) % 2 ^ 32
    let body := s.attestBody nonce seq
    let sig := Config.sm2Sign s.free ([0x41, 0x54, 0x53, 0x54] ++ body)
    let s := { s with free := s.free + 1, reset_ := { s.reset_ with attestNonce := none, sequence := seq } }
    (s.setDom Ix.AttestReport 0 (body ++ sliceBytes sig 0 64)).raise 0x6406 0 (packData [f32 seq])
  | none => s

/-- SIGN_DONE (R392). -/
def State.signDone (s : State) : State :=
  match s.reset_.signDigest with
  | some d =>
    let sig := Config.sm2Sign s.free ([0x48, 0x53, 0x49, 0x47] ++ sliceBytes d 0 32)
    let s := { s with free := s.free + 1, reset_ := { s.reset_ with signDigest := none } }
    (s.setDom Ix.IdentitySignature 0 (sliceBytes sig 0 64)).raise 0x6407 0 0
  | none => s

/-! The test access port (R394, R395) -/

/-- The length of the data register an instruction selects (Table 17.10). -/
def scanRegister (ir : Nat) : Nat := if ir = 1 then 32 else if 2 ≤ ir ∧ ir ≤ 5 then 243 else 1

/-- The instruction register takes an instruction: the register it selects, the state of the scanned outputs and lanes. -/
def State.setIr (s : State) (ir : Nat) : State :=
  { s with scan := { s.scan with ir := ir, register := scanRegister ir, fromCells := decide (3 ≤ ir) && decide (ir ≤ 6), highZ := ir == 7,
                                 pulse := ir == 4, train := ir == 5 } }

/-- A test-mode instruction holds the device in warm reset, with the domains of the scanned balls on. -/
def State.scanTest (s : State) (ir : Nat) : State :=
  let s := s.setIr ir
  if s.reset_.held.any (fun h => h.bit == 9) then s else s.assertSource 9

/-- Any other instruction lets the device go. -/
def State.scanOther (s : State) (ir straps : Nat) : State := (s.setIr ir).letGo 9 straps

/-- SAMPLE/PRELOAD: the cells take what is shifted in. -/
def State.scanPreload (s : State) (cells : List Bool) (straps : Nat) : State :=
  let l := cells.take 243
  let s := { s with scan := { s.scan with cells := l ++ List.replicate (243 - l.length) false } }
  s.scanOther 2 straps

end Sys2Proof.Machine
end

