-- ==== Sys2Proof/Machine/CommitChecks.lean ====
section
/-! DEFINITION. The checks of a COMMIT that span entries, made at COMMIT and again at readiness (R43, R66): every RANGE check, then
every BUDGET check. `s` is the state now, `v` the Catalogue as it will stand at the target, and a check runs where the commit carries one
of the entries it rests on (log entry 32). A failed check answers the detail of R70. -/
namespace Sys2Proof.Machine

/-- The detail that names an entry (R70). -/
def entryDetail (index sub : Nat) : Nat := index * 65536 + sub * 256

/-- Does a commit carry an entry? -/
def carries (items : List StagedItem) (index sub : Nat) : Bool := items.any (fun it => it.index == index && it.sub == sub)

/-- Does a commit carry an element of one of the indices? -/
def carriesAny (items : List StagedItem) (l : List Nat) : Bool := items.any (fun it => l.contains it.index)

/-- The smallest entry of the indices that a commit carries, as a detail. -/
def firstCarried (items : List StagedItem) (l : List Nat) : Nat :=
  ((items.filter (fun it => l.contains it.index)).map (fun it => entryDetail it.index it.sub)).foldl
    (fun m d => if m = 0 then d else min m d) 0

/-- The first condition of a list that holds, by its detail. -/
def firstFault : List (Bool × Nat) → Option Nat
  | [] => none
  | (b, d) :: t => if b then some d else firstFault t

/-- Does an epoch lie after another? -/
def epAfter (a b : Nat) : Bool := epLe a b && a != b

/-! R34, R98, R121, R187, R189: the symbol a commit must target -/

/-- Entries that must be committed to symbol 0 of a slot (R43, R98, R121, R187, R189). -/
def slotStartEntries : List Nat :=
  [Ix.SlotPlan, Ix.SlotPlanLength, Ix.CarrierCount, Ix.CarrierWidth, Ix.CarrierPrbs, Ix.CarrierOffset, Ix.FlexSubbands,
   Ix.DuplexAperture, Ix.SplitRxTiles]

/-- The STARTs of the burst records in use in a value of `CourseBursts`. -/
def burstStarts (l : List Byte) : List Nat :=
  ((List.range 16).filter (fun r => fieldLE l (16 * r + 8) 2 != 0)).map (fun r => epochOfEntry (fieldLE l (16 * r) 8))

/-- The epochs the device holds that R34 names: targets of sealed commits and of transitions, STARTs of burst records. -/
def State.heldEpochs (s v : State) : List Nat :=
  s.host.commits.map (·.target)
    ++ (s.modes.underWay.toList ++ s.modes.pending.toList).map (·.epoch)
    ++ (List.range 4).flatMap (fun c => burstStarts (v.bursts c))
    ++ s.host.commits.flatMap (fun c => c.items.flatMap (fun it => match it.value with
        | .bytes l => if it.index = Ix.CourseBursts then burstStarts l else []
        | .num _ => []))

/-- The numerology check of R34. -/
def State.checkNumerology (s v : State) (target : Nat) (items : List StagedItem) : Option Nat :=
  if !carries items Ix.Numerology 0 then none
  else
    let slots := slotsPerFrame (v.rd Ix.Numerology 0)
    firstFault [(!isFrameStart target || (s.heldEpochs v).any (fun e => epAfter target e && decide (slots ≤ epSlot e)),
      entryDetail Ix.Numerology 0)]

/-- The entries that need symbol 0 of a slot (R98, R121, R187, R189). -/
def checkSlotStart (target : Nat) (items : List StagedItem) : Option Nat :=
  if carriesAny items slotStartEntries && !isSlotStart target then some (firstCarried items slotStartEntries) else none

/-! R99 -/

/-- The marks of a course from an epoch on. -/
def State.marksFrom (v : State) (c : Nat) : Nat → Nat → List Nat
  | 0, _ => []
  | n + 1, e => v.mark c e :: v.marksFrom c n (v.nextEpoch e)

/-- The marks of the plan over one period and the first symbol of the next. -/
def State.planMarks (v : State) : List Nat :=
  let plan := v.domVal Ix.SlotPlan 0
  let n := v.rd Ix.SlotPlanLength 0
  (List.range n).flatMap (fun k => (List.range 14).map (planMark plan k)) ++ [planMark plan 0 0]

/-- Does a course's sequence keep the rule around its burst records: from the symbol before a record, or the target where that lies
later, to the symbol after it? -/
def State.burstsKeepGuard (v : State) (c target : Nat) : Bool :=
  let d := v.bursts c
  (List.range 16).all (fun r =>
    let n := fieldLE d (16 * r + 8) 2
    let start := epochOfEntry (fieldLE d (16 * r) 8)
    let last := v.addEpochs n start
    let first := if epAfter target start then v.prevEpoch start else target
    n == 0 || !epLe target last || guardRule (v.marksFrom c (v.epochsBetween first last + 1) first))

/-- The GUARD rule on every course whose sequence a commit changes (R99). -/
def State.checkGuard (v : State) (target : Nat) (items : List StagedItem) : Option Nat :=
  let plan := carriesAny items [Ix.SlotPlan, Ix.SlotPlanLength, Ix.Numerology]
  let word := if carries items Ix.SlotPlan 0 then entryDetail Ix.SlotPlan 0 else entryDetail Ix.SlotPlanLength 0
  let planBad := plan && !guardRule v.planMarks
  firstFault ((List.range 4).map (fun c =>
    let mine := carries items Ix.CourseBursts (c + 1)
    ((plan || mine) && (planBad || !v.burstsKeepGuard c target), if mine then entryDetail Ix.CourseBursts (c + 1) else word)))

/-! R121 to R124 -/

/-- The carrier configuration and what it rests on. -/
def carrierEntries : List Nat :=
  [Ix.Numerology, Ix.LoFrequency, Ix.CarrierCount, Ix.CarrierWidth, Ix.CarrierPrbs, Ix.CarrierOffset, Ix.UlFftAdvance]

/-- Carriers in use. -/
def State.carriers (v : State) : List Nat := List.range (v.rd Ix.CarrierCount 0)

def State.widthOf (v : State) (k : Nat) : Nat := v.rd Ix.CarrierWidth (k + 1)
def State.offsetOf (v : State) (k : Nat) : Int := v.rdI 32 Ix.CarrierOffset (k + 1)

/-- The carrier configuration (R121). -/
def State.checkCarriers (v : State) (items : List StagedItem) : Option Nat :=
  if !carriesAny items carrierEntries then none
  else
    let nu := v.rd Ix.Numerology 0
    let far := fun (k : Nat) => decide (400000 < (2 * v.offsetOf k + 1000 * (v.widthOf k : Int)).natAbs)
      || decide (400000 < (2 * v.offsetOf k - 1000 * (v.widthOf k : Int)).natAbs)
    let past := fun (k : Nat) => (List.range k).any (fun j =>
      decide (2 * (v.offsetOf k - v.offsetOf j).natAbs < 1000 * (v.widthOf k + v.widthOf j)))
    firstFault (v.carriers.map (fun k => (!widthAllowed nu (v.widthOf k), entryDetail Ix.CarrierWidth (k + 1)))
      ++ v.carriers.map (fun k => (decide (983 * v.widthOf k < 12 * v.prbs k * spacing nu), entryDetail Ix.CarrierPrbs (k + 1)))
      ++ v.carriers.map (fun k => (far k || past k, entryDetail Ix.CarrierOffset (k + 1)))
      ++ v.carriers.map (fun k =>
        (decide (v.advanceBound k < v.rd Ix.UlFftAdvance (k + 1)), entryDetail Ix.UlFftAdvance (k + 1))))

/-- The processing limit (R124). -/
def State.checkProcessing (v : State) (items : List StagedItem) : Option Nat :=
  let n := v.activeSubcarriers
  firstFault [(carriesAny items carrierEntries && (decide (13104 < n)
    || decide (366912000 < n * (14000 * 2 ^ v.rd Ix.Numerology 0))), firstCarried items carrierEntries)]

/-! R127, R139, R140, R142 -/

/-- Do two ranges of numbers meet? -/
def rangesMeet (a n b m : Nat) : Bool := decide (a < b + m) && decide (b < a + n)

/-- The first record of a list, by its number, that breaks a test of it and the records before it. -/
def badRecord (bad : List (List Byte) → List Byte → Bool) : List (List Byte) → List (Nat × List Byte) → Option Nat
  | _, [] => none
  | seen, (i, r) :: t => if bad seen r then some i else badRecord bad (seen ++ [r]) t

/-- Is a descriptor refused (R127), with those before it? -/
def State.descriptorBad (v : State) (ul : Bool) (seen : List (List Byte)) (d : List Byte) : Bool :=
  decide (v.rd Ix.CarrierCount 0 ≤ dCarrier d) || decide (v.prbs (dCarrier d) < dFirst d + dCount d) || dCount d == 0
    || decide (273 < dCount d) || decide (dWidth d < 7) || decide (16 < dWidth d) || (ul && dStatic d)
    || (dStatic d && decide (15 < dFolio d))
    || seen.any (fun x => dLayer x == dLayer d && dCarrier x == dCarrier d && rangesMeet (dFirst x) (dCount x) (dFirst d) (dCount d)
      && (List.range 14).any (fun i => bitAt (dMask x) i && bitAt (dMask d) i))

/-- The layer maps against the carriers (R127); DEDUCED: COUNT and SFOLIO are held to Table 5.2 here too. -/
def State.checkMaps (v : State) (items : List StagedItem) : Option Nat :=
  let check := fun (index : Nat) (ul : Bool) =>
    if carriesAny items (index :: carrierEntries) then
      let b := v.domVal index 0
      let l := ((descriptors (b.length / 12) b).zipIdx.map (fun x => (x.2, x.1))).filter (fun x => dValid x.2)
      (badRecord (v.descriptorBad ul) [] l).map (· * 12)
    else none
  (check Ix.DlLayerMap false).orElse (fun _ => check Ix.UlLayerMap true)

/-- The bytes a static folio takes at its offset in a view: header and LENGTH (R135, R139). -/
def State.staticExtent (s v : State) (i : Nat) : Option (Nat × Nat) :=
  let off := v.rd Ix.StaticFolioOffset (i + 1)
  let st := s.rd Ix.StaticFolioState (i + 1)
  if off = 0xFFFFFFFF ∨ ¬ (st = 1 ∨ st = 2) then none
  else some (off, 64 + s.numAt (staticRegionBase + off + 32) 4)

/-- Static folios do not overlap (R139). -/
def State.checkStatic (s v : State) (items : List StagedItem) : Option Nat :=
  if !carriesAny items [Ix.StaticFolioOffset] then none
  else firstFault ((List.range 16).map (fun i =>
    ((List.range i).any (fun j => match s.staticExtent v i, s.staticExtent v j with
      | some a, some b => rangesMeet a.1 a.2 b.1 b.2
      | _, _ => false), entryDetail Ix.StaticFolioOffset (i + 1))))

/-- Is a period of a record a divisor of 1,024 slots-per-frame, with its offset below it? -/
def State.periodBad (v : State) (period offset : Nat) : Bool :=
  period == 0 || 1024 * slotsPerFrame (v.rd Ix.Numerology 0) % period != 0 || decide (period ≤ offset)

/-- The PRACH occasions (R140). -/
def State.checkPrach (v : State) (items : List StagedItem) : Option Nat :=
  if !carriesAny items (Ix.PrachOccasions :: carrierEntries) then none
  else firstFault (v.occasions.map (fun q =>
    let o := q.2
    (decide (15 < oFolio o) || oBeams o == 0 || decide (16 < oBeams o) || decide (oWidth o < 7) || decide (16 < oWidth o)
      || oCount o == 0 || decide (24 < oCount o) || v.periodBad (oPeriod o) (oOffset o)
      || decide (v.prbs (oCarrier o) < oFirst o + oCount o), 16 * q.1)))

/-- Do two sounding records sound in the same slot and symbol? -/
def soundTogether (a b : List Byte) : Bool :=
  aSymbol a == aSymbol b && aSlot a % Nat.gcd (aPeriod a) (aPeriod b) == aSlot b % Nat.gcd (aPeriod a) (aPeriod b)

/-- Is a sounding record refused (R142), with those before it? -/
def State.soundingBad (v : State) (seen : List (List Byte)) (r : List Byte) : Bool :=
  bitsOf (fieldLE r 1 1) 7 6 == 0 || decide (aComb r ≤ aOffset r) || decide (13 < aSymbol r) || aRoot r == 0
    || decide (primeBelow (soundCount r) ≤ aRoot r) || aCount r % 4 != 0 || aCount r == 0 || decide (272 < aCount r)
    || decide (v.rd Ix.LibraryEntries 0 ≤ aEntry r) || v.periodBad (aPeriod r) (aSlot r)
    || decide (v.prbs (aCarrier r) < aFirst r + aCount r)
    || seen.any (fun x => soundTogether x r &&
      ((aEntry x == aEntry r && !(aMerge x && aMerge r))
        || (aCarrier x == aCarrier r && aComb x == aComb r && aOffset x == aOffset r
          && rangesMeet (aFirst x) (aCount x) (aFirst r) (aCount r)
          && (aFirst x != aFirst r || aCount x != aCount r || aRoot x != aRoot r || aShift x == aShift r
            || (aComb r == 8 && aCount r == 4 && aCount x == 4)))))

/-- The sounding records (R142). -/
def State.checkSounding (v : State) (items : List StagedItem) : Option Nat :=
  if carriesAny items (Ix.SoundingAlloc :: Ix.PartitionSize :: carrierEntries) then
    (badRecord v.soundingBad [] v.soundRecords).map (· * 16)
  else none

/-! R166, R167, R171 -/

/-- The Linearisers' structure and adjacency (R166, R167). -/
def State.checkLin (v : State) (items : List StagedItem) : Option Nat :=
  let adj := v.domVal Ix.LinAdjacency 0
  let slotBad := fun (i : Nat) =>
    let x := fieldLE adj i 1
    x != 0xFF && (decide (63 < x) || x == i / 4 || (List.range (i % 4)).any (fun j => fieldLE adj (i / 4 * 4 + j) 1 == x))
  firstFault ((carries items Ix.LinStructure 0 && linStructureBad (v.rd Ix.LinStructure 0), entryDetail Ix.LinStructure 0)
    :: (if carries items Ix.LinAdjacency 0 then (List.range 256).map (fun i => (slotBad i, i)) else []))

/-- The coefficient count (R166). -/
def State.checkLinCount (v : State) (items : List StagedItem) : Option Nat :=
  firstFault [(carries items Ix.LinStructure 0 && decide (128 < linCoefs (v.rd Ix.LinStructure 0)), entryDetail Ix.LinStructure 0)]

/-! R187, R189, R201, R206, R209 -/

/-- The FLEX layout and the aperture (R187, R189). -/
def State.checkFlex (v : State) (items : List StagedItem) : Option Nat :=
  let layout := if carriesAny items (Ix.FlexSubbands :: carrierEntries) then v.flexBad else none
  layout.orElse (fun _ => firstFault
    [(carries items Ix.SplitRxTiles 0 && !splitMaskOk (v.rd Ix.SplitRxTiles 0), entryDetail Ix.SplitRxTiles 0)])

/-- The subband rates (R187). -/
def State.checkFlexRate (v : State) (items : List StagedItem) : Option Nat :=
  firstFault [(carriesAny items (Ix.FlexSubbands :: carrierEntries) && v.flexOverBudget,
    if carries items Ix.FlexSubbands 0 then 0 else firstCarried items carrierEntries)]

/-- The quiet and window records' limits (Tables 8.5 and 9.2); DEDUCED: checked at COMMIT as the periods rest on the numerology. -/
def State.checkWindows (v : State) (items : List StagedItem) : Option Nat :=
  let quiet := v.domVal Ix.CancelQuiet 0
  let win := v.domVal Ix.SpeWindows 0
  firstFault
    ((if carriesAny items [Ix.CancelQuiet, Ix.Numerology] then (List.range 8).map (fun i =>
      (bitAt (fieldLE quiet (16 * i) 1) 7 && (decide (13 < fieldLE quiet (16 * i + 1) 1)
        || v.periodBad (fieldLE quiet (16 * i + 2) 2) (fieldLE quiet (16 * i + 4) 2)), 16 * i)) else [])
    ++ (if carriesAny items [Ix.SpeWindows, Ix.Numerology] then (List.range 8).map (fun i =>
      (bitAt (fieldLE win (16 * i) 1) 7 && (decide (13 < fieldLE win (16 * i + 1) 1) || fieldLE win (16 * i + 2) 1 == 0
        || decide (28 < fieldLE win (16 * i + 2) 1) || v.periodBad (fieldLE win (16 * i + 4) 2) (fieldLE win (16 * i + 6) 2)), 16 * i))
      else []))

/-- The SPE's paths (R206). -/
def State.checkSpePaths (v : State) (items : List StagedItem) : Option Nat :=
  let m := v.rd Ix.SpeMainPath 0
  let a := v.rd Ix.SpeAltPath 1
  let b := v.rd Ix.SpeAltPath 2
  let l := [Ix.SpeMainPath, Ix.SpeAltPath]
  firstFault [(carriesAny items l && (m == a || m == b || a == b || courseOf m != courseOf a || courseOf m != courseOf b),
    firstCarried items l)]

/-! The pairs of limits, R111 and R411 -/

/-- The axes of R111 strictly increase. -/
def State.checkAxes (v : State) (items : List StagedItem) : Option Nat :=
  firstFault
    ((if carriesAny items [Ix.TxGainTempAxis] then (List.range 7).map (fun i =>
      (decide (v.rdI 16 Ix.TxGainTempAxis (i + 2) ≤ v.rdI 16 Ix.TxGainTempAxis (i + 1)), entryDetail Ix.TxGainTempAxis (i + 2))) else [])
    ++ (if carriesAny items [Ix.TxGainVoltAxis] then (List.range 3).map (fun i =>
      (decide (v.rd Ix.TxGainVoltAxis (i + 2) ≤ v.rd Ix.TxGainVoltAxis (i + 1)), entryDetail Ix.TxGainVoltAxis (i + 2))) else []))

/-- A maximum is not below its minimum (the Meaning columns of `RxGainMax`, `TunerCodeMax`, `GovDepthMax`). -/
def State.checkLimits (v : State) (items : List StagedItem) : Option Nat :=
  let pair := fun (lo hi p : Nat) =>
    ((carries items lo p || carries items hi p) && decide (v.rd hi p < v.rd lo p), entryDetail hi p)
  firstFault (pair Ix.GovDepthMin Ix.GovDepthMax 0
    :: ((List.range 64).map (fun p => pair Ix.RxGainMin Ix.RxGainMax (p + 1))
      ++ (List.range 64).map (fun p => pair Ix.TunerCodeMin Ix.TunerCodeMax (p + 1))))

/-- The thermal thresholds (R411); the grade bounds SHUTDOWN of a die sensor. -/
def State.checkThermal (s v : State) (items : List StagedItem) : Option Nat :=
  if !carriesAny items [Ix.TempWarn, Ix.TempThrottle, Ix.TempShutdown, Ix.TempHysteresis] then none
  else
    let w := fun (n : Nat) => v.rdI 16 Ix.TempWarn (n + 1)
    let t := fun (n : Nat) => v.rdI 16 Ix.TempThrottle (n + 1)
    let d := fun (n : Nat) => v.rdI 16 Ix.TempShutdown (n + 1)
    let top : Int := if s.fuse.grade = 0x45 then 1250 else 1150
    firstFault ((List.range 24).map (fun n => (decide (t n < w n), entryDetail Ix.TempWarn (n + 1)))
      ++ (List.range 24).map (fun n =>
        (decide (d n < t n + (v.rd Ix.TempHysteresis 0 : Int)), entryDetail Ix.TempThrottle (n + 1)))
      ++ (List.range 24).map (fun n => (decide (16 ≤ n) && decide (top < d n), entryDetail Ix.TempShutdown (n + 1))))

/-! R22, R323 -/

/-- The partitions by number, base and size. -/
def State.partitions (v : State) : List (Nat × Nat × Nat) :=
  (List.range 6).map (fun i => (i + 1, v.rd Ix.PartitionBase (i + 1), v.rd Ix.PartitionSize (i + 1)))

/-- Does a byte range lie in a partition? -/
def State.within (v : State) (k a n : Nat) : Bool := v.inPartition k a n

/-- The replay and capture regions (R22). -/
def State.checkObserve (v : State) (items : List StagedItem) : Option Nat :=
  if !carriesAny items [Ix.ObserveReplayBase, Ix.ObserveReplayBytes, Ix.ObserveCaptureBase, Ix.PartitionBase, Ix.PartitionSize] then none
  else
    let base := v.rd Ix.ObserveReplayBase 0
    let n := v.rd Ix.ObserveReplayBytes 0
    let cap := v.rd Ix.ObserveCaptureBase 0
    firstFault [(!(v.within 3 base n || v.within 6 base n), entryDetail Ix.ObserveReplayBase 0),
      (!v.within 3 cap 1 || (decide (base ≤ cap) && decide (cap < base + n)), entryDetail Ix.ObserveCaptureBase 0)]

/-- The partition map and the addresses that must lie in it (R323). A base of 0 is allowed, as Table 14.2 has one (DEDUCED).
The images it holds, 3,670,016 bytes and 32 of 131,200, fit any images partition of 32 MiB. -/
def State.checkPartitions (v : State) (items : List StagedItem) : Option Nat :=
  if !carriesAny items [Ix.PartitionBase, Ix.PartitionSize, Ix.LinCaptureBase, Ix.CancelSetBase] then none
  else
    let mib := 0x100000
    let l := v.partitions
    firstFault (l.map (fun x => (x.2.1 % mib != 0, entryDetail Ix.PartitionBase x.1))
      ++ l.map (fun x => (x.2.2 % mib != 0 || x.2.2 == 0, entryDetail Ix.PartitionSize x.1))
      ++ l.map (fun x => (decide (0x100000000 < x.2.1 + x.2.2)
        || l.any (fun y => decide (y.1 < x.1) && rangesMeet y.2.1 y.2.2 x.2.1 x.2.2), entryDetail Ix.PartitionBase x.1))
      ++ [(decide (v.rd Ix.PartitionSize 4 < 32 * mib), entryDetail Ix.PartitionSize 4),
          (decide (v.rd Ix.PartitionSize 5 < 64 * mib), entryDetail Ix.PartitionSize 5),
          (!v.within 5 (v.rd Ix.LinCaptureBase 0) (8 * mib), entryDetail Ix.LinCaptureBase 0),
          (!v.within 5 (v.rd Ix.CancelSetBase 0) (mib + 528896), entryDetail Ix.CancelSetBase 0)])

/-! The values of DOMAIN entries checked at COMMIT -/

/-- `CalSet` and `LinTables` as a commit carries them (R171, R244). -/
def State.checkValues (s : State) (items : List StagedItem) : Option Nat :=
  items.findSome? (fun it => match it.value with
    | .bytes l => if it.index = Ix.CalSet then s.calSetBad l else none
    | .num _ => none)

/-! R305, R306 -/

/-- The entries whose commit the fronthaul check covers (R306). -/
def streamEntries : List Nat :=
  [Ix.DlLayerMap, Ix.UlLayerMap, Ix.PrachOccasions, Ix.Numerology, Ix.CarrierCount, Ix.CarrierWidth, Ix.CarrierPrbs, Ix.CarrierOffset]

/-- The fronthaul budget (R306): each direction on this device's links, and for a layer map that is not empty in an array every
link of this device to a neighbour ACTIVE at 32 Gb/s. -/
def State.checkStream (s v : State) (items : List StagedItem) : Option Nat :=
  let mapped := !(v.mapOf Ix.DlLayerMap).isEmpty || !(v.mapOf Ix.UlLayerMap).isEmpty
  let slow := fun (p : Nat) => !(s.portActive p && s.rd Ix.LinkRateInForce (p + 1) == 2)
  let links := decide (1 < s.arrayN) && mapped && carriesAny items [Ix.DlLayerMap, Ix.UlLayerMap]
    && ((decide (s.pos + 1 < s.arrayN) && slow 1) || (decide (0 < s.pos) && slow 0))
  firstFault [(carriesAny items streamEntries && (s.overBudget v false || s.overBudget v true || links), firstCarried items streamEntries)]

/-! The whole -/

/-- The first answer of a list of checks. -/
def firstCheck : List (Unit → Option Nat) → Option Nat
  | [] => none
  | f :: t => match f () with
    | some d => some d
    | none => firstCheck t

/-- The RANGE checks that span entries: the detail of the first that fails. -/
def State.spanRange (s v : State) (target : Nat) (items : List StagedItem) : Option Nat :=
  firstCheck [fun _ => s.checkNumerology v target items, fun _ => checkSlotStart target items, fun _ => v.checkGuard target items,
    fun _ => v.checkCarriers items, fun _ => v.checkMaps items, fun _ => s.checkStatic v items, fun _ => v.checkPrach items,
    fun _ => v.checkSounding items, fun _ => v.checkLin items, fun _ => v.checkFlex items, fun _ => v.checkWindows items,
    fun _ => v.checkSpePaths items, fun _ => v.checkAxes items, fun _ => v.checkLimits items, fun _ => s.checkThermal v items,
    fun _ => v.checkObserve items, fun _ => v.checkPartitions items, fun _ => s.checkValues items]

/-- The BUDGET checks that span entries. -/
def State.spanBudget (s v : State) (items : List StagedItem) : Option Nat :=
  firstCheck [fun _ => v.checkProcessing items, fun _ => v.checkLinCount items, fun _ => v.checkFlexRate items, fun _ => s.checkStream v items]

/-- The entries that only Standby may commit (R34, R323). -/
def standbyEntries : List Nat := [Ix.Numerology, Ix.PartitionBase, Ix.PartitionSize]

/-- The abort of a COMMIT, or of its repetition at readiness, for what spans entries (R66). -/
def State.spanCheck (s : State) (c : SealedCommit) : Option Abort :=
  let v := s.viewAt c.target
  match s.spanRange v c.target c.items with
  | some d => some ⟨abRange, d⟩
  | none => (s.spanBudget v c.items).map (fun d => ⟨abBudget, d⟩)

end Sys2Proof.Machine
end

