-- ==== Sys2Proof/Machine/Values.lean ====
section
/-! DEFINITION. Whether a value may be written or staged: types, stated ranges and reserved bits (R8, R35, R55, and the Meaning
columns). -/
namespace Sys2Proof.Machine

/-! Scalars -/

/-- The magnitude bits and the sign of a binary32 value. -/
def floatMag (v : Nat) : Nat := v % 2 ^ 31

/-- The bounds of the FLOAT32 entries: λ from 0 to 1, gain and offset within ±10⁹; no NaN and no infinity (R55). -/
def floatOk (index v : Nat) : Bool :=
  if index = Ix.LinRegularisation then (decide (v < 2 ^ 31) || floatMag v == 0) && decide (floatMag v ≤ 0x3F800000)
  else decide (floatMag v ≤ 0x4E6E6B28)

/-- Is a type signed, and with how many bits? -/
def EntryType.signed : EntryType → Option Nat
  | .i16 | .q15 => some 16
  | .i32 => some 32
  | _ => none

/-- Does a raw value lie in the range an entry's row states? -/
def rangeOk (e : Entry) (v : Nat) : Bool :=
  let x : Int := match e.type.signed with
    | some w => toInt w v
    | none => (v : Int)
  match e.range with
  | .any => true
  | .between lo hi => decide (lo ≤ x) && decide (x ≤ hi)
  | .oneOf l => l.contains v
  | .zeroOr lo hi => v == 0 || (decide (lo ≤ v) && decide (v ≤ hi))

/-- A channel of Table 18.1. -/
def isHkChannel (c : Nat) : Bool :=
  decide (c ≤ 0x3B) || (decide (0x40 ≤ c) && decide (c ≤ 0x47)) || (decide (0x50 ≤ c) && decide (c ≤ 0x5F))
    || (decide (0x100 ≤ c) && decide (c ≤ 0x18F))

/-- What the Meaning columns ask of a value beyond its range. -/
def State.meaningOk (s : State) (index sub v : Nat) : Bool :=
  if index = Ix.ObserveReplayBase ∨ index = Ix.ObserveCaptureBase then v % 2048 == 0
  else if index = Ix.ObserveReplayBytes then v % 2048 == 0 && v != 0
  else if index = Ix.LinCaptureBase ∨ index = Ix.CancelSetBase then v % 0x100000 == 0
  else if index = Ix.CalStoreOffset then v % 0x10000 == 0
  else if index = Ix.StaticFolioOffset then v % 64 == 0 || v == 0xFFFFFFFF
  else if index = Ix.LoBorrowPartner then v == 0xFF || (decide (v < 4) && (v + 1 == sub - 1 || v == sub))
  else if index = Ix.TxManualSetting then
    let g := toInt 16 (v / 65536)
    decide (-1200 ≤ g) && decide (g ≤ 0)
  else if index = Ix.HkAverage then
    decide (v / 16 ≤ 8) && decide (1 ≤ v % 16) && decide (v % 16 ≤ 8)
  else if index = Ix.SpeFormat then v % 4 != 3
  else if index = Ix.HkCheckChannel then isHkChannel v
  else if index = Ix.LibraryEntrySelect then decide (v < s.rd Ix.LibraryEntries 0)
  else if index = Ix.BlockResetDma then (List.range 16).all (fun n => !(bitAt v n && s.dmaReserved n))
  else true

/-- Is a raw scalar accepted (R8, R35, R55)? -/
def State.scalarOk (s : State) (e : Entry) (index sub v : Nat) : Bool :=
  match e.type with
  | .bool => decide (v < 2)
  | .float32 => floatOk index v
  | .epoch => s.epochOk v
  | _ => rangeOk e v && s.meaningOk index sub v

/-- Bits that a type keeps: reserved bits read as 0, and what is written to them is ignored (R8, Table 2.2). -/
def keptValue (e : Entry) (v : Nat) : Nat :=
  match e.type with
  | .epoch => v / 2 ^ 28 * 2 ^ 28
  | .bool => v
  | _ => Nat.land v e.keep

/-! DOMAIN values -/

/-- The masks of a record's bytes where a DOMAIN entry is made of records with reserved bits; empty where it has none. -/
def recordMask (index : Nat) : List Nat :=
  let f := 0xFF
  match index with
  | 0x2011 => [f, f, f, 0x0F]
  | 0x2012 => [0, 0, 0, 0xF0, f, f, f, f, f, f, f, 0, 0, 0, 0, 0]
  | 0x3010 | 0x3011 => [0xDF, 0xFB, f, f, f, f, f, 0x3F, f, f, 0, 0]
  | 0x3040 => [0x83, f, f, f, f, f, f, f, f, 0x3F, f, f, f, f, 0, 0]
  | 0x3400 => [0xC3, 0xC7, 0, 0xF7, f, f, f, f, f, f, f, f, f, f, f, f]
  | 0x3C00 => [0x80, f, f, f, f, f, f, f, f, f, 0, 0, 0, 0, 0, 0]
  | 0x3C20 => [0xC0, f, f, f, f, f, 0, 0, 0, 0, 0, 0, 0, 0, 0, 0]
  | 0x4420 => [0x80, f, f, 0, f, f, f, f, 0, 0, 0, 0, 0, 0, 0, 0]
  | _ => []

/-- Is a byte of `CalSet` a reserved one (R244, Table 10.3)? -/
def calSetReserved (off : Nat) : Bool :=
  if off < 256 then !(decide (off < 2) || (decide (4 ≤ off) && decide (off < 28)))
  else
    let r := (off - 256) % 2688
    if r < 64 then decide (12 ≤ r)
    else if r < 2624 then
      let q := (r - 64) % 160
      q == 23 || q == 32 || q == 33 || decide (144 ≤ q)
    else false

/-- The mask of a byte of `LinkProfile` (Table 12.7). -/
def profileMask (off : Nat) : Nat :=
  let b := off % 32
  if b < 2 ∨ 60 ≤ off then 0xFF else if b < 4 then 0 else if b < 14 then 0xF7 else if b < 23 then 0x0F else 0

/-- A DOMAIN value with its reserved bits at 0 (R8). -/
def cleanDom (index : Nat) (l : List Byte) : List Byte :=
  if index = Ix.CalSet then l.zipIdx.map (fun x => if calSetReserved x.2 then 0 else x.1)
  else if index = Ix.LinkProfile then l.zipIdx.map (fun x => x.1 &&& BitVec.ofNat 8 (profileMask x.2))
  else
    let m := recordMask index
    if m.isEmpty then l else l.zipIdx.map (fun x => x.1 &&& BitVec.ofNat 8 (m.getD (x.2 % m.length) 0))

/-- The first byte offset of a DOMAIN value that its entry refuses at its last segment (R8, R35, R55, R101, R126, R171). -/
def State.domValueBad (s : State) (index : Nat) (l : List Byte) : Option Nat :=
  if index = Ix.CourseBursts then
    (List.range 16).findSome? (fun r =>
      let b := 16 * r
      if !s.epochOk (fieldLE l b 8) then some b
      else if 1120 < fieldLE l (b + 8) 2 then some (b + 8)
      else if 3 < fieldLE l (b + 10) 1 then some (b + 10)
      else none)
  else if index = Ix.DlLayerMap ∨ index = Ix.UlLayerMap then (if l.length % 12 != 0 then some (l.length / 12 * 12) else none)
  else if index = Ix.TxPaGainTable then
    ((List.range 2048).find? (fun i =>
      let g := toInt 16 (fieldLE l (2 * i) 2)
      decide (g < -1000) || decide (6000 < g))).map (· * 2)
  else if index = Ix.LinTables then linTablesBad 212992 0 l
  else if index = Ix.LinkProfile then
    [0, 32].findSome? (fun b =>
      if 1 < fieldLE l b 1 then some b
      else if 2 < fieldLE l (b + 1) 1 then some (b + 1)
      else none)
  else none

/-! Modes -/

/-- Does the mode mark of an entry, or R401, refuse a write or stage of it (R34, R65, R323, R401)? -/
def State.modeMarkRefuses (s : State) (index sub : Nat) : Bool :=
  (standbyEntries.contains index && s.mode != 1) || (index == Ix.BiasCode && decide (0x41 ≤ sub) && decide (sub ≤ 0x80))

end Sys2Proof.Machine
end

