-- ==== Sys2Proof/Machine/Derived.lean ====
section
/-! DEFINITION. What reads of the Catalogue return: entries that show other state, DOMAIN values held in memory, the marks STALE and
poisoned, and the sizes of entries (R5, R46, R56, R59, R62). -/
namespace Sys2Proof.Machine

/-! Scalars that show other state -/

/-- Bytes of a staged value. -/
def CatVal.size (index sub : Nat) : CatVal → Nat
  | .num _ => match findEntry index sub with
    | some e => e.type.size
    | none => 0
  | .bytes l => l.length

/-- Bytes of values in the open staging set (R65). -/
def stagedBytes (l : List StagedItem) : Nat := (l.map (fun it => it.value.size it.index it.sub)).sum

/-- The requests in flight that came in at this entry point and are addressed to this device (R71): what comes to a chained device on
PORT-N entered at the head. -/
def State.ownRequests (s : State) : List Request :=
  (s.host.performing.toList ++ s.host.stalled).filter (fun r => s.pos == 0 || r.port == 1)

/-- Tags in flight at this entry point (R71): of requests waiting or being performed, and of those forwarded. -/
def State.tagsInFlight (s : State) : List Nat := s.ownRequests.map (·.tag) ++ s.host.forwarded.map (·.request.tag)

/-- The targets of the sealed commits, earliest first (R40). -/
def State.pendingTargets (s : State) : List Nat := (commitOrder s.host.commits).map (·.target)

/-- The mode of a transition, 0xFF for none, and its epoch. -/
def transitionMode (t : Option Transition) : Nat × Nat :=
  match t with
  | some { target := .mode m, epoch := e, .. } => (m, e)
  | _ => (0xFF, 0)

/-- `PowerPending`: the pending request in the layout of `PowerRequest`. -/
def State.powerPending (s : State) : Nat :=
  match s.modes.pending with
  | some { target := .power c v, .. } => c * 256 + v
  | _ => 0xFFFF

/-- `ArchiveState`. -/
def State.archiveState (s : State) : Nat :=
  match s.rd Ix.DomainState 6 with
  | 2 => if s.power.archHeld then 3 else 2
  | 1 => 1
  | _ => if s.power.archInit then 0 else 3

/-- The value of a scalar that shows other state; `none` where the Catalogue holds the value itself. -/
def State.derived (s : State) (index sub : Nat) : Option Nat :=
  let k := sub - 1
  match index with
  | 0x1104 => match sub with
    | 1 => some (transitionMode s.modes.underWay).1
    | 2 => some (epochEntry (transitionMode s.modes.underWay).2)
    | 3 => some (transitionMode s.modes.pending).1
    | _ => some (epochEntry (transitionMode s.modes.pending).2)
  | 0x1200 => some (epochEntry s.epoch)
  | 0x1214 => if sub = 0 then some 8 else some (epochEntry ((s.pendingTargets).getD k 0))
  | 0x1216 => some s.pendingTargets.length
  | 0x1403 => some s.tagsInFlight.length
  | 0x1404 => if sub = 1 then some s.host.openSet.length else some (stagedBytes s.host.openSet)
  | 0x1409 => some s.host.transfers.length
  | 0x1411 => some s.ev.queue.length
  | 0x2202 => some (if s.flexSymbol (courseOf k) s.epoch && s.setInService.isSome then s.setField (128 + k) 1 else s.rd index sub)
  | 0x220C => some (fieldLE (tget identityRecord k s.cal.corr) 20 2)
  | 0x3004 => some (s.fftSize k)
  | 0x3005 => some (s.carrierRate k)
  | 0x3008 => some s.activeSubcarriers
  | 0x3422 => some s.lib.jobs.length
  | 0x3426 => some (s.gramSpare k)
  | 0x3802 => some (linCoefs (s.rd Ix.LinStructure 0))
  | 0x3833 => some (setBit (s.rd index sub) 0 (s.rd Ix.LinMode sub == 2))
  | 0x3C03 => some (s.subbandRateEntry k)
  | 0x4032 => some s.userJobs.length
  | 0x5028 => some (s.streamMbps (sub == 2))
  | 0x5403 => some s.archiveState
  | 0x5421 => some s.mem.scrubAt
  | 0x5430 => some (s.leases.filter (fun l => l.resource / 256 == 2)).length
  | 0x580D => some (match s.leaseOf (0x100 + k) with
    | some l => l.owner
    | none => 0)
  | 0x6012 => some s.powerPending
  | 0x7000 => some s.ev.log.length
  | _ => none

/-- The elements that `derived` shows. -/
def derivedElements : List (Nat × Nat) :=
  let arr := fun (index n : Nat) => (List.range n).map (fun k => (index, k + 1))
  [(0x1200, 0), (0x1214, 0), (0x1216, 0), (0x1403, 0), (0x1409, 0), (0x1411, 0), (0x3008, 0), (0x3422, 0), (0x3802, 0), (0x4032, 0),
    (0x5403, 0), (0x5421, 0), (0x5430, 0), (0x6012, 0), (0x7000, 0)]
    ++ arr 0x1104 4 ++ arr 0x1214 8 ++ arr 0x1404 2 ++ arr 0x2202 64 ++ arr 0x220C 64 ++ arr 0x3004 4 ++ arr 0x3005 4 ++ arr 0x3426 2
    ++ arr 0x3833 64 ++ arr 0x3C03 8 ++ arr 0x5028 2 ++ arr 0x580D 16

/-- The live value of a scalar (R46): configuration as it governs the epoch in progress, counters and measurements as they stand. -/
def State.scalar (s : State) (index sub : Nat) : Nat := (s.derived index sub).getD (s.rd index sub)

/-! DOMAIN values that show other state or lie in memory -/

/-- An event record's 16 bytes (Table 3.9). -/
def eventBytes (r : EventRec) : List Byte :=
  leBytes 8 (r.code * 2 ^ 48 + r.data)
    ++ leBytes 8 (r.epoch * 2 ^ 28 + r.index * 2 ^ 12 + r.sub * 16 + r.pos * 4)

/-- A fault log entry's 32 bytes (Table 19.3). -/
def faultBytes (e : FaultEntry) : List Byte :=
  eventBytes e.record ++ leBytes 1 e.cls ++ leBytes 1 (b2n e.led) ++ leBytes 2 0 ++ leBytes 4 e.releases ++ List.replicate 8 0

/-- An `EccLog` entry's 16 bytes (Table 14.3). -/
def eccBytes (e : EccEntry) : List Byte :=
  leBytes 5 e.addr ++ leBytes 1 e.region ++ leBytes 1 (e.syndrome % 128) ++ leBytes 1 e.kind ++ leBytes 5 e.epoch ++ leBytes 1 0
    ++ leBytes 2 e.count

/-- A `LeaseTable` record. -/
def leaseBytes (l : Lease) : List Byte :=
  leBytes 2 l.resource ++ leBytes 2 0 ++ leBytes 4 l.owner ++ leBytes 8 (match l.expiry with
    | some e => epochEntry e
    | none => 0)

/-- The Archive range a DOMAIN entry's value lies in (R56): its address. -/
def State.domRegion (s : State) (index : Nat) : Option Nat :=
  if index = Ix.CalSet then some s.calBase
  else if index = Ix.LibraryEntryHeader then some (s.entryBase (s.rd Ix.LibraryEntrySelect 0))
  else none

/-- The size of a DOMAIN value as it stands (R55, R62). -/
def State.domSize (s : State) (index sub : Nat) : Nat :=
  let z := domSizes index
  if z.1 = z.2 then z.1
  else match index with
  | 0x1413 => 16 * min 64 s.ev.queue.length
  | 0x3423 => s.jobResultBytes.length
  | 0x3805 => (s.linPath (s.rd Ix.LinCoefSelect 0)).coefs.length
  | 0x4033 => s.jobResults.length
  | 0x5413 => 16 * s.mem.eccLog.length
  | 0x7001 => 32 * s.ev.log.length
  | 0x7011 => 16 * s.leases.length
  | _ => (s.domVal index sub).length

/-- Bytes of a DOMAIN value from an offset. -/
def State.domBytes (s : State) (index sub off n : Nat) : List Byte :=
  let part := fun (l : List Byte) => sliceBytes l off n
  match index with
  | 0x1004 => part s.fuse.identityKey
  | 0x1413 => part ((s.ev.queue.take 64).flatMap eventBytes)
  | 0x3423 => part s.jobResultBytes
  | 0x3803 => s.linBytes off n
  | 0x3805 => part (s.linPath (s.rd Ix.LinCoefSelect 0)).coefs
  | 0x4033 => part s.jobResults
  | 0x5413 => part (s.mem.eccLog.flatMap eccBytes)
  | 0x6424 => part s.configDigest
  | 0x7001 => part (s.ev.log.flatMap faultBytes)
  | 0x7011 => part (s.leases.flatMap leaseBytes)
  | _ => match s.domRegion index with
    | some a => s.bytesAt (a + off) n
    | none => part (s.domVal index sub)

/-! STALE -/

/-- The domain of the block a measurement or counter belongs to (R59, Tables 1.1 and 16.1). -/
def blockDomain (index sub : Nat) : Option Nat :=
  let k := sub - 1
  match index with
  | 0x2004 | 0x2007 | 0x2008 => some (8 + k)
  | 0x2106 | 0x2209 | 0x220A | 0x2306 => some (8 + courseOf k)
  | 0x3014 | 0x3015 | 0x3016 | 0x3041 | 0x3401 | 0x3402 | 0x3403 | 0x3831 | 0x3832 | 0x3834 | 0x3836 | 0x3837 | 0x3838
  | 0x3C30 | 0x3C31 | 0x3C32 | 0x3C33 | 0x3C36 => some 3
  | 0x4006 | 0x4007 | 0x4008 => some 4
  | 0x5005 | 0x5006 | 0x5009 | 0x5013 | 0x5014 | 0x5020 | 0x5021 | 0x5022 | 0x5023 | 0x5024 | 0x5025 | 0x5027 | 0x5029 | 0x5035
  | 0x5037 | 0x5038 | 0x503B => some (6 + k)
  | 0x5011 | 0x5012 | 0x501A => some (if k < 9 then 6 else 7)
  | 0x5412 | 0x5422 | 0x5431 => some 5
  | 0x5410 | 0x5411 | 0x5416 => some (if sub = 1 then 5 else if sub = 3 then 4 else 2)
  | _ => none

/-- Is an entry flagged STALE in read responses (R43, R59, R246, R248, R398 to R400)? -/
def State.stale (s : State) (index sub : Nat) : Bool :=
  s.commitStale index sub || s.calStale index sub || s.hkStale index sub
    || (match blockDomain index sub with
      | some d => !s.domainOn d
      | none => false)

/-- Does an address range of the Archive that a read returns hold a poisoned word? The first one. -/
def State.domPoison (s : State) (index off n : Nat) : Option Nat :=
  match s.domRegion index with
  | some a => s.firstPoison (a + off) n
  | none => none

end Sys2Proof.Machine
end

