-- ==== Sys2Proof/Machine/Apply.lean ====
section
/-! DEFINITION. Sealed commits at a tick: readiness, deferral, coming into force, and everything that a committed value brings with it
(R40 to R44, R184 and the rules of the entries). -/
namespace Sys2Proof.Machine

/-! Readiness (R43) -/

/-- The entries of R196 whose commit in Duplex Service must carry a matching canceller selection. -/
def duplexEntries : List Nat :=
  [Ix.Numerology, Ix.CarrierCount, Ix.CarrierWidth, Ix.CarrierPrbs, Ix.CarrierOffset, Ix.FlexSubbands, Ix.DuplexAperture, Ix.SplitRxTiles]

/-- Does a commit that changes the layout leave Duplex Service, in force or entered at its target, a matching set (R196)? -/
def State.duplexReady (s v : State) (c : SealedCommit) : Bool :=
  let duplex := s.mode == 5 || (match s.modes.underWay with
    | some ⟨.mode 5, e, _, _, _, _⟩ => e == c.target
    | _ => false)
  !(duplex && carriesAny c.items duplexEntries) || s.setForDuplex v

/-- Is an item of a commit ready for the configuration of a view (R43, R59, R137, R196, R247, R324)? -/
def State.itemReady (s v : State) (it : StagedItem) : Bool :=
  match it.value with
  | .num n =>
    if it.index = Ix.DlFolioSelect ∨ it.index = Ix.UlFolioSelect then n == 0xFF || s.folioReady v n
    else if it.index = Ix.StaticFolioOffset then n == 0xFFFFFFFF || s.folioReady v (15 + it.sub)
    else if it.index = Ix.CancelSetSelect then n == 0xFF || s.setReady v n
    else if it.index = Ix.CalSet then s.calReady
    else if it.index = Ix.PartitionBase ∨ it.index = Ix.PartitionSize then !s.mem.copying
    else true
  | .bytes _ => it.index != Ix.CalSet || (s.domainOn 5 && !s.power.archHeld)

/-- Are the occasions' BEAMS within the LAYERS of the static folios that a view places, for a commit that carries either (Table 5.6)? -/
def State.beamsReady (s v : State) (c : SealedCommit) : Bool :=
  !carriesAny c.items [Ix.PrachOccasions, Ix.StaticFolioOffset] || v.occasions.all (fun o =>
    v.rd Ix.StaticFolioOffset (oFolio o.2 + 1) == 0xFFFFFFFF
      || decide (oBeams o.2 ≤ folioLayers (s.bytesAt (v.folioBase (16 + oFolio o.2)) 64)))

/-- Why a commit is not ready: 3 a check that spans entries or the mode mark of R34 and R323, 1 an item (R43, Table 2.7). -/
def State.commitFault (s : State) (c : SealedCommit) : Option Nat :=
  if (carriesAny c.items standbyEntries && s.mode != 1) || (s.spanCheck c).isSome then some 3
  else
    let v := s.viewAt c.target
    if c.items.all (s.itemReady v) && s.duplexReady v c && s.beamsReady v c then none else some 1

/-- What asking for readiness itself does: ARCH wakes for a `CalSet` (R59), and a sealed folio that does not match is reported (R137). -/
def State.askReady (s : State) (c : SealedCommit) : State :=
  let v := s.viewAt c.target
  c.items.foldl (fun s it => match it.value with
    | .num n =>
      if (it.index = Ix.DlFolioSelect ∨ it.index = Ix.UlFolioSelect) ∧ n ≠ 0xFF then s.folioMismatch v n c.target
      else if it.index = Ix.StaticFolioOffset ∧ n ≠ 0xFFFFFFFF then s.folioMismatch v (15 + it.sub) c.target
      else s
    | .bytes _ => if it.index = Ix.CalSet then (s.needDomain 5).2 else s) s

/-- COMMIT_MISSED (R43, R44): 1 NOT_READY, 2 NO_DECISION, 3 CHECK. -/
def State.commitMissed (s : State) (target reason : Nat) : State :=
  (s.bump Ix.CommitMissedCount 0).raise 0x1202 0 (packData [fEpoch target, f8 reason])

/-- The first candidate epoch of a commit after an epoch (R43). -/
def State.candidateAfter (s : State) (c : SealedCommit) (e : Nat) : Nat :=
  if carries c.items Ix.Numerology 0 then frameStart ((frameOf e + 1) % 67108864)
  else if carriesAny c.items slotStartEntries then s.nextSlotStart e
  else s.nextEpoch e

/-- Does an epoch lie within `CommitDeferLimit` of a commit's original target (R43)? -/
def State.withinDefer (s : State) (c : SealedCommit) (e : Nat) : Bool :=
  epLe c.original e && decide (s.epochsBetween c.original e ≤ s.rd Ix.CommitDeferLimit 0)

/-- The check of one device-scope commit at the tick before its target (R43): ready, or deferred to the next candidate, or at its last one
marked to be discarded. -/
def State.checkCommit (s : State) (c : SealedCommit) : SealedCommit × State :=
  match s.commitFault c with
  | none => ({ c with armed := true }, s.askReady c)
  | some reason =>
    let s := s.askReady c
    let s := if c.missed then s else s.commitMissed c.target reason
    let c := { c with armed := false, missed := true }
    let next := s.candidateAfter c (if epLe s.epoch c.target then c.target else s.epoch)
    if s.withinDefer c next then ({ c with target := next, deferred := true }, s) else ({ c with decided := true }, s)

/-- Replace the sealed commits of a list that a test picks, one after the other, those before it as already replaced. -/
def State.mapCommitsFrom (pick : SealedCommit → Bool) (f : State → SealedCommit → SealedCommit × State) :
    List SealedCommit → List SealedCommit → State → State
  | done, [], s => { s with host := { s.host with commits := done } }
  | done, c :: t, s =>
    if pick c then
      let x := f { s with host := { s.host with commits := done ++ c :: t } } c
      mapCommitsFrom pick f (done ++ [x.1]) t x.2
    else mapCommitsFrom pick f (done ++ [c]) t s

/-- Replace the sealed commits a test picks, one after the other. -/
def State.mapCommits (s : State) (pick : SealedCommit → Bool) (f : State → SealedCommit → SealedCommit × State) : State :=
  State.mapCommitsFrom pick f [] s.host.commits s

/-- COMMIT_FAIL (R43, R44): commits not ready at their last candidate are discarded, those of array scope once their limit has passed. -/
def State.commitFail (s : State) : State :=
  s.failCommits (fun c => if c.array then c.missed && !c.armed && epLe c.original s.epoch && !s.withinDefer c (s.nextEpoch s.epoch)
    else c.decided) 1

/-! Corridors (R184): a corridor that shuts out the value in force moves it to the nearer edge at once -/

/-- The transmit-power corridor: K_p. -/
def State.clampPower (s : State) (p : Nat) : State :=
  let k := s.rdI 16 Ix.TxLoopCorrection (p + 1)
  let new := clampInt (s.rdI 16 Ix.TxLoopCorrMin (p + 1)) (s.rdI 16 Ix.TxLoopCorrMax (p + 1)) k
  if new = k then s
  else
    let s := (s.wrI 16 Ix.TxLoopCorrection (p + 1) new).powerEdge p (some 4)
    s.setPath p { s.path p with edge := none, nextEdge := none }

/-- The receive-gain corridor, under automatic gain; what the loop chose outside it does not come into force. -/
def State.clampGain (s : State) (p : Nat) : State :=
  let outside := match (s.path p).nextGain with
    | some x => decide (x.1 < s.rd Ix.RxGainMin (p + 1)) || decide (s.rd Ix.RxGainMax (p + 1) < x.1)
    | none => false
  let s := if outside then s.setPath p { s.path p with nextGain := none } else s
  let g : Int := s.rd Ix.RxGain (p + 1)
  let new := clampInt (s.rd Ix.RxGainMin (p + 1)) (s.rd Ix.RxGainMax (p + 1)) g
  if s.rd Ix.RxGainMode (p + 1) ≠ 1 ∨ new = g then s
  else
    let s := (s.wr Ix.RxGain (p + 1) new.toNat).loopAt p 3 4
    s.setPath p { s.path p with nextGain := none }

/-- The tuner's corridor, while its loop runs. -/
def State.clampTuner (s : State) (p : Nat) : State :=
  let g : Int := s.rd Ix.TunerCodeNow (p + 1)
  let new := clampInt (s.rd Ix.TunerCodeMin (p + 1)) (s.rd Ix.TunerCodeMax (p + 1)) g
  if s.rd Ix.TunerMode (p + 1) ≠ 1 ∨ new = g then s
  else
    let s := (s.tunerCode p new.toNat).loopAt p 4 4
    s.setPath p { s.path p with tunerNext := none }

/-- The Lineariser's corridor, while it adapts. Which tables lie at the nearer edge is not stated: they are free values (log entry 33). -/
def State.clampLin (s : State) (p : Nat) : State :=
  if s.rd Ix.LinMode (p + 1) ≠ 2 ∨ s.linCorridor p (s.linOfPath p) = 0 then s
  else
    let part := fun (k : Nat) => Config.freeFigure s.free (6000 + k) % 262144 - 131072
    let t : Tab Cplx := ((List.range 1664).map (fun k => (k, (⟨part (2 * k), part (2 * k + 1)⟩ : Cplx)))).filter
      (fun x => x.2 != linIdentity x.1)
    let s := { s with free := s.free + 1 }.setLinTables p t
    (s.wrBit Ix.LinStatus (p + 1) 2 true).loopAt p 2 4

/-- The canceller's corridor. Which coefficients lie at the nearer edge is not stated: they are free values (log entry 33). -/
def State.clampCancel (s : State) (p : Nat) : State :=
  let bad := (List.range 8).filter (fun sb =>
    let d := coefsOf s.duplex.current p sb
    let t := coefsOf s.duplex.trained p sb
    normSq t != 0 && s.trackEdge p t d d != 0)
  if s.setInService.isNone ∨ bad = [] then s
  else
    let part := fun (k : Nat) => sat16 (Config.freeFigure s.free (1000 + k))
    let bytes := bad.flatMap (fun sb =>
      (((List.range 256).flatMap (fun i => cplxBytes ⟨part (512 * sb + 2 * i), part (512 * sb + 2 * i + 1)⟩)).zipIdx.map
        (fun b => (4608 + 1024 * (8 * p + sb) + b.2, b.1))))
    let cur := bytes.foldl (fun t b => tput 0 b.1 b.2 t) s.duplex.current
    { s with free := s.free + 1, duplex := { s.duplex with current := cur, seq := s.duplex.seq + 1 } }.loopAt p 5 4

/-! What a committed value brings with it -/

/-- The elements of some indices that a commit carries, counted from 0. -/
def carried (items : List StagedItem) (l : List Nat) : List Nat :=
  ((items.filter (fun it => l.contains it.index)).map (fun it => it.sub - 1)).eraseDups

/-- Transmit power (R112, R113, R184). -/
def State.followTx (s : State) (items : List StagedItem) : State :=
  let s := (carried items [Ix.TxLoopCorrMin, Ix.TxLoopCorrMax]).foldl State.clampPower s
  let all := carriesAny items [Ix.TxPaGainTable, Ix.TxGainTempAxis, Ix.TxGainVoltAxis]
  (if all then allPaths else carried items [Ix.TxPowerTarget, Ix.TxAntLoss, Ix.TxPowerMode, Ix.TxManualSetting]).foldl State.powerNow s

/-- Receive gain (R88, R184): a fixed gain from its commit on; a change of mode discards what the loop computed. -/
def State.followGain (s : State) (items : List StagedItem) : State :=
  let s := (carried items [Ix.RxGainMode]).foldl (fun s p => s.setPath p { s.path p with nextGain := none }) s
  let s := ((carried items [Ix.RxGainFixed]).filter (fun p => s.rd Ix.RxGainMode (p + 1) == 0)).foldl
    (fun s p => s.wr Ix.RxGain (p + 1) (s.rd Ix.RxGainFixed (p + 1))) s
  (carried items [Ix.RxGainMin, Ix.RxGainMax]).foldl State.clampGain s

/-- The tuner (R118, R184): the host's code from its commit on. -/
def State.followTuner (s : State) (items : List StagedItem) : State :=
  let s := (carried items [Ix.TunerMode]).foldl (fun s p => s.setPath p { s.path p with tunerNext := none, refBefore := none }) s
  let s := ((carried items [Ix.TunerCode]).filter (fun p => s.rd Ix.TunerMode (p + 1) == 0)).foldl
    (fun s p => s.tunerCode p (s.rd Ix.TunerCode (p + 1))) s
  (carried items [Ix.TunerCodeMin, Ix.TunerCodeMax]).foldl State.clampTuner s

/-- The Linearisers (R171 to R173, R180, R184). -/
def State.followLin (s old : State) (items : List StagedItem) : State :=
  let tables := items.findSome? (fun it => match it.value with
    | .bytes l => if it.index = Ix.LinTables then some l else none
    | .num _ => none)
  let s := match tables with
    | some l => s.commitLinTables l
    | none => if s.rd Ix.LinStructure 0 ≠ old.rd Ix.LinStructure 0 then s.resetLinTables else s
  let s := (carried items [Ix.LinMode]).foldl (fun s p =>
    let v := s.linPath p
    let frozen := decide (s.rd Ix.LinMode (p + 1) ≠ 2) && v.due.isSome
    let s := (s.wrBit Ix.LinStatus (p + 1) 4 false).setLinPath p { v with reverts := 0, due := if frozen then none else v.due }
    if frozen then s.linDiscard p else s) s
  let s := (carried items [Ix.LinGainMin, Ix.LinGainMax]).foldl State.clampLin s
  (carried items [Ix.LinStepInterval]).foldl State.startCycle s

/-- The canceller (R184, R196, R203). -/
def State.followCancel (s : State) (items : List StagedItem) : State :=
  let s := if carries items Ix.CancelSetSelect 0 then s.selectSet (s.rd Ix.CancelSetSelect 0) else s
  let s := if carries items Ix.CancelAdapt 0 ∧ s.rd Ix.CancelAdapt 0 = 0 then { s with duplex := { s.duplex with due := none } } else s
  (carried items [Ix.CancelNormMin, Ix.CancelNormMax]).foldl State.clampCancel s

/-- The synthesisers and the SPE (R90, R205, R224). -/
def State.followSyn (s old : State) (items : List StagedItem) : State :=
  let s := if s.rd Ix.LoFrequency 0 = old.rd Ix.LoFrequency 0 then s
    else ((List.range 4).filter (fun c => s.synState c != 0)).foldl (fun s c => s.startRelock c 0) s
  let s := if carries items Ix.SpeFrequency 0 then s.synpRelock else s
  let s := if items.any (fun it => it.index / 256 == 0x44) then s.speFollow else s
  if carries items Ix.SpeReturnState 0 then s.speReturnChanged else s

/-- The Library and its entries follow their partition (R146, R324): every entry of a moved one reads as empty. -/
def State.followPartitions (s old : State) : State :=
  let base := s.rd Ix.PartitionBase 1
  let size := s.rd Ix.PartitionSize 1
  if base = old.rd Ix.PartitionBase 1 ∧ size = old.rd Ix.PartitionSize 1 then s
  else
    let n := size / 589824
    let mark := fun (a : Nat) => decide (base ≤ a) && decide (a < base + 589824 * n) && (a - base) % 589824 == 1
    let s := (s.wr Ix.LibraryBase 0 base).wr Ix.LibraryEntries 0 n
    { s with mem := { s.mem with bytes := s.mem.bytes.filter (fun c => !mark c.1) } }

/-- Bias channels whose values a commit carries (R403). -/
def State.followBias (s : State) (items : List StagedItem) : State :=
  let l := carried items [Ix.BiasCode, Ix.BiasRange, Ix.BiasClearCode]
  if l = [] then s else s.biasCommitted l

/-- Block bits (R383). -/
def State.followBlocks (s old : State) (items : List StagedItem) : State :=
  [Ix.BlockResetMason, Ix.BlockResetDma, Ix.BlockResetOther].foldl (fun s i =>
    if carries items i 0 then s.blockBits i (old.rd i 0) (s.rd i 0) else s) s

/-- Calibration (R244, R247, R249). -/
def State.followCal (s : State) (items : List StagedItem) : State :=
  let s := if carries items Ix.CalRollInterval 0 then { s with cal := { s.cal with slotsLeft := s.rd Ix.CalRollInterval 0 } } else s
  items.foldl (fun s it => match it.value with
    | .bytes l => if it.index = Ix.CalSet then s.commitCalSet l else s
    | .num _ => if it.index = Ix.CalSet then s.calTargeted else s) s

/-- The other units (R50, R119, R184, R273, R357, R413). -/
def State.followRest (s old : State) (items : List StagedItem) : State :=
  let s := if s.rd Ix.TimeSource 0 = old.rd Ix.TimeSource 0 then s else s.sourceChanged
  let s := if carries items Ix.MasonSpareCount 0 then s.designateSpares else s
  let s := if carries items Ix.GovDepthMax 0 then s.govFrozen else s
  let s := if carries items Ix.MismatchAction 0 ∧ s.rd Ix.MismatchAction 0 = 2 then
      (allPaths.filter (fun p => (s.path p).mismatchAct)).foldl (fun s p => s.detectFault p 4) s
    else s
  (carried items [Ix.ThrottleFloor]).foldl State.clampReduction s

/-- Everything that follows the values of a commit. -/
def State.followItems (s old : State) (items : List StagedItem) : State :=
  let s := ((s.followTx items).followGain items).followTuner items
  let s := ((s.followLin old items).followCancel items).followSyn old items
  let s := ((s.followPartitions old).followBias items).followBlocks old items
  (s.followCal items).followRest old items

/-! Coming into force -/

/-- The value of an item comes into force; those of `LinTables` and `CalSet` follow with their units. -/
def State.placeItem (s : State) (it : StagedItem) : State :=
  match it.value with
  | .num v => if it.index = Ix.CalSet then s else s.wr it.index it.sub v
  | .bytes l =>
    if it.index = Ix.LinTables ∨ it.index = Ix.CalSet then s.stepChange it.index it.sub
    else if it.index = Ix.CourseBursts then (s.dateBursts (it.sub - 1) l s.epoch).setDom it.index it.sub l
    else s.setDom it.index it.sub l

/-- A sealed commit comes into force in the epoch in progress: COMMIT_DONE (R42, R43, R98). -/
def State.applyCommit (s : State) (c : SealedCommit) : State :=
  let old := s
  let s := c.items.foldl State.placeItem s
  let s := if carriesAny c.items [Ix.SlotPlan, Ix.SlotPlanLength] then s.wrEpoch Ix.SlotPlanStart 0 s.epoch else s
  let s := s.followItems old c.items
  (s.wrEpoch Ix.LastCommitEpoch 0 s.epoch).raise 0x1203 0 (packData [fEpoch s.epoch, fFlag c.asap, fFlag c.deferred])

/-- The commits whose target is the epoch in progress, or that a step of the time base passed over, come into force in order (R42, R51). -/
def State.applyCommits (s : State) : State :=
  let due := (commitOrder s.host.commits).filter (fun c => c.armed && epLe c.target s.epoch)
  let s := { s with host := { s.host with commits := s.host.commits.filter (fun c => !(c.armed && epLe c.target s.epoch)) } }
  due.foldl State.applyCommit s

/-- The commits at a tick: those at the end of their deferral go, those passed over are judged, those due come into force, and those of the
next epoch are checked (R42, R43, R51). -/
def State.commitsAtTick (s : State) : State :=
  let s := s.commitFail
  let s := s.mapCommits (fun c => !c.array && !c.armed && !c.decided && epLe c.target s.epoch) State.checkCommit
  let s := s.applyCommits
  s.mapCommits (fun c => !c.array && !c.decided && c.target == s.nextEpoch s.epoch) State.checkCommit

/-! Partitions that move (R324) -/

/-- Does a commit move the images or the calibration partition? -/
def State.movesPartition (s v : State) (k : Nat) : Bool := s.rd Ix.PartitionBase k != v.rd Ix.PartitionBase k

/-- Entries of a table from a range of keys, shifted to another, in place of what stood there. -/
def moveKeys {α : Type} (src dst n : Nat) (t : Tab α) : Tab α :=
  let moved := (t.filter (fun c => decide (src ≤ c.1) && decide (c.1 < src + n))).map (fun c => (c.1 - src + dst, c.2))
  moved.foldl (fun t c => tins c.1 c.2 t) (t.filter (fun c => !(decide (dst ≤ c.1) && decide (c.1 < dst + n))))

/-- The contents of a partition, with their poison marks, at another place of the Archive. -/
def State.copyPartition (s v : State) (k : Nat) : State :=
  let src := s.rd Ix.PartitionBase k
  let dst := v.rd Ix.PartitionBase k
  let n := min (s.rd Ix.PartitionSize k) (v.rd Ix.PartitionSize k)
  let s := s.settle src n
  let at_ := fun (lo a : Nat) => decide (lo ≤ a) && decide (a < lo + n)
  let marks := (s.mem.poison.filter (at_ src)).map (fun a => a - src + dst)
  { s with mem := { s.mem with bytes := moveKeys src dst n s.mem.bytes,
                               poison := marks.foldl (fun t a => insertNat a t) (s.mem.poison.filter (fun a => !at_ dst a)),
                               upsets := s.mem.upsets.filter (fun u => !at_ dst u.addr) } }

/-- PARTITION_COPY_DONE (R324): the images and calibration partitions that a sealed commit moves stand at their new places too. -/
def State.partitionCopyDone (s : State) : State :=
  if !s.mem.copying then s
  else
    let s := { s with mem := { s.mem with copying := false } }
    match s.host.commits.find? (fun c => carriesAny c.items [Ix.PartitionBase, Ix.PartitionSize]) with
    | none => s
    | some c =>
      let v := s.viewAt c.target
      [4, 5].foldl (fun s k => if s.movesPartition v k then s.copyPartition v k else s) s

end Sys2Proof.Machine
end

