-- ==== Sys2Proof/Machine/BootImage.lean ====
section
/-! DEFINITION. Boot images: their layout, their verification and their acceptance (R385 to R388). -/
namespace Sys2Proof.Machine

/-- The sections of an image: type, slot, offset, length (Table 17.7). -/
def imageSections (l : List Byte) : List (Nat × Nat × Nat × Nat) :=
  (List.range (fieldLE l 16 1)).map (fun k =>
    let b := 320 + 16 * k
    (fieldLE l b 1, fieldLE l (b + 1) 1, fieldLE l (b + 4) 4, fieldLE l (b + 8) 4))

/-- Is a section of an image misplaced, or of a type or slot that Table 17.7 does not give? -/
def sectionBad (n total : Nat) (x : Nat × Nat × Nat × Nat) : Bool :=
  x.1 == 0 || decide (4 < x.1) || (if x.1 = 3 then decide (15 < x.2.1) else x.2.1 != 0) || x.2.2.1 % 64 != 0
    || decide (x.2.2.1 < 320 + 16 * n) || decide (total - 64 < x.2.2.1 + x.2.2.2)

/-- Do two sections share a byte? -/
def sectionsMeet (a b : Nat × Nat × Nat × Nat) : Bool := rangesMeet a.2.2.1 a.2.2.2 b.2.2.1 b.2.2.2 && a.2.2.2 != 0 && b.2.2.2 != 0

/-- Does any section of a list meet a later one? -/
def anyMeet : List (Nat × Nat × Nat × Nat) → Bool
  | [] => false
  | a :: t => t.any (sectionsMeet a) || anyMeet t

/-- Is an image consistent (R386 step 1)? -/
def imageFormOk (l : List Byte) : Bool :=
  let n := fieldLE l 16 1
  let total := fieldLE l 12 4
  let ss := imageSections l
  let once := fun (t : Nat) => (ss.filter (fun x => x.1 == t)).length == 1
  fieldLE l 0 4 == 0x54424B57 && fieldLE l 4 1 == 1 && fieldLE l 8 4 != 0 && total == l.length && decide (1024 ≤ total)
    && decide (total ≤ 3670016) && decide (1 ≤ n) && decide (n ≤ 32) && ss.all (fun x => !sectionBad n total x) && !anyMeet ss
    && once 1 && once 2 && once 4

/-- The KEYS entry of a slot. -/
def imageKey (l : List Byte) (k : Nat) : List Byte := sliceBytes l (64 + 64 * k) 64

/-- Is a slot fused and not revoked, and does its entry of an image match the fused hash (R386)? -/
def State.keyMatches (s : State) (l : List Byte) (k : Nat) : Bool :=
  !s.fuse.revoked.contains k && (match s.fuse.keyHash.getD k none with
    | some h => Config.sm3 (imageKey l k) == h
    | none => false)

/-- The bytes an image's signature covers. -/
def imageBody (l : List Byte) : List Byte := l.take (l.length - 64)

/-- Why an image is not accepted: 1 FORMAT, 2 KEY, 3 SIGNATURE (R386). -/
def State.imageFault (s : State) (l : List Byte) : Option Nat :=
  let k := fieldLE l 5 1
  if !imageFormOk l then some 1
  else if decide (3 < k) || !s.keyMatches l k then some 2
  else if !Config.sm2Verify (imageKey l k) (imageBody l) (l.drop (l.length - 64)) then some 3
  else none

/-- An image is accepted (R386, R387): its keys are loaded, it is shown, its firmware starts, and it waits to be placed. -/
def State.acceptImage (s : State) (l : List Byte) (source : Nat) : State :=
  let keys := ([0, 1, 2, 3].filter (s.keyMatches l)).map (fun k => (k, imageKey l k))
  let s := { s with reset_ := { s.reset_ with image := l, loadedKeys := keys, bootKeySlot := fieldLE l 5 1, watchdogAt := some s.now } }
  let s := ((s.wr Ix.BootState 0 4).wr Ix.BootSource 0 source).wr Ix.BootImageVersion 0 (fieldLE l 8 4)
  (s.setDom Ix.BootImageDigest 0 (Config.sm3 (imageBody l))).showKeys

/-- BOOT_FAIL (Table 17.9): the image and the reason. -/
def State.bootFail (s : State) (image reason : Nat) : State := s.raise 0x6402 0 (packData [f8 image, f8 reason])

/-- A flash or retained image fails: the next source of R387 is read, or the device halts (R388). -/
def State.nextImage (s : State) (reason : Nat) : State :=
  let was := s.reset_.tryingImage
  let s := s.bootFail was reason
  if was = 1 then s.wr Ix.BootState 0 6
  else { s with reset_ := { s.reset_ with tryingImage := if was = 3 then 0 else 1, bootReadAt := s.now } }

/-- Where the image being read stands. -/
def State.imageAt (s : State) : Nat :=
  match s.reset_.tryingImage with
  | 0 => flashBase + 0x00100000
  | 1 => flashBase + 0x00480000
  | _ => s.rd Ix.PartitionBase 4

/-- BOOT_IMAGE_READ_DONE (R386, R387): the image read is verified, and accepted or rejected; the retained one is read once ARCH serves. -/
def State.imageReadDone (s : State) : State :=
  let t := s.reset_.tryingImage
  if s.inReset || s.reset_.bootDone || s.rd Ix.BootState 0 != 1 || !s.domainOn 2 || (t == 3 && !s.domainOn 5) then s
  else
    let a := s.imageAt
    let total := s.numAt (a + 12) 4
    let n := if 1024 ≤ total ∧ total ≤ 3670016 then total else 1024
    let s := s.settle a n
    if s.rangePoisoned a n then s.nextImage 4
    else
      let l := s.bytesAt a n
      match s.imageFault l with
      | some r => s.nextImage r
      | none => s.acceptImage l (if t = 3 then 4 else t)

/-- BOOT_READ_TIMEOUT (R387): a read of the flash not complete in 500 ms. -/
def State.bootReadTimeout (s : State) : State :=
  if !s.inReset && !s.reset_.bootDone && s.rd Ix.BootState 0 == 1 && s.reset_.tryingImage != 3 && s.elapsed s.reset_.bootReadAt (msec 500) then
    s.nextImage 4
  else s

/-- The LAST segment of `BootImageLoad` on a port (R387): accepted, or the abort that a failure takes. -/
def State.bootImageLoad (s : State) (l : List Byte) (port : Nat) : Res :=
  match s.imageFault l with
  | some 1 => .error (rangeAt 0)
  | some _ => .error ⟨abSignature, 0⟩
  | none => .ok (s.acceptImage l (2 + port))

end Sys2Proof.Machine
end

