-- ==== Sys2Proof/Machine/Effects.lean ====
section
/-! DEFINITION. What a write of each command entry, write-only entry and register with behaviour of its own does (R58), and which domain
it needs first (R58, R59). -/
namespace Sys2Proof.Machine

/-! Small commands of the Catalogue's own units -/

/-- `EventAck` (R83). -/
def State.eventAck (s : State) (n : Nat) : Res :=
  if n = 0 ∨ 64 < n ∨ s.ev.queue.length < n then .error (rangeAt 0) else .ok (s.dropEvents n)

/-- `MasterPresenceClear` (R73). -/
def State.presenceClear (s : State) (v : Nat) : State :=
  if v = 1 then { s with host := { s.host with lastPort := none, secondRaised := false } }.wr Ix.MasterPresence 0 0 else s

/-- `EccLogClear` (R332). -/
def State.eccLogClear (s : State) (v : Nat) : State := if v = 1 then { s with mem := { s.mem with eccLog := [] } } else s

/-- `FaultLogClear` (R424). -/
def State.faultLogClear (s : State) (v : Nat) : State := if v = 1 then { s with ev := { s.ev with log := [] } } else s

/-- `GovWakeNow` (R366, Table 16.3). -/
def State.wakeNow (s : State) (v : Nat) : State := if v = 1 then s.edgeWake 4 else s

/-- `ModeRequest` (R25, R29). -/
def State.modeAsked (s : State) (v : Nat) : Res := if v % 256 = 7 then .ok s.safeHoldRequest else s.modeRequest v false

/-- `ArrayModeRequest` (R25, R77): every device of the array accepts it, or the head withdraws it with the refusing device's code. -/
def State.arrayModeAsked (s : State) (v : Nat) : Res :=
  match (if v % 256 = 7 then .ok s.safeHoldRequest else s.modeRequest v true) with
  | .error a => .error a
  | .ok t =>
    match s.peerRefusal with
    | (some c, _) => .error ⟨c, 0⟩
    | (none, u) => .ok { t with free := u.free }

/-- `TimeRealign` (R51). -/
def State.realignAsked (s : State) (v : Nat) : Res := .ok (s.timeRealign v)

/-- `DmaAbort` of an element (R350). -/
def State.dmaAbortAsked (s : State) (n v : Nat) : Res := if v = 1 then s.dmaAbort n else .ok s

/-! Every write that does more than hold a value -/

/-- The writes of scalars that act, by index; `none` for an entry that only holds its value. -/
def State.scalarAct (s : State) (index sub v : Nat) : Option Res :=
  match index with
  | 0x1102 => some (s.modeAsked v)
  | 0x1103 => some (s.arrayModeAsked v)
  | 0x112B => some (.ok (s.wakeNow v))
  | 0x1209 => some (s.realignAsked v)
  | 0x1407 => some (.ok (s.presenceClear v))
  | 0x1414 => some (s.eventAck v)
  | 0x3024 => some (s.folioSeal v)
  | 0x3415 => some (s.libraryValidate v)
  | 0x3416 => some (s.libraryInvalidate v)
  | 0x3421 => some (s.weightJobCancel v)
  | 0x3839 => some (s.linResume v)
  | 0x3C13 => some (s.cancelSetSeal v)
  | 0x4004 => some (s.masonRestore v)
  | 0x4022 => some (s.kernelUnload v)
  | 0x4031 => some (s.jobCancel v)
  | 0x4431 => some (s.speTxCancel v)
  | 0x4432 => some (s.speRxRelease v)
  | 0x4802 => some (.ok (s.trimRecheck v))
  | 0x4811 => some (s.calRunCancel v)
  | 0x4843 => some (.ok ({ s with cal := { s.cal with clockAt := s.now } }.wr index sub v))
  | 0x4851 => some (s.calStoreSave v)
  | 0x5001 => some (.ok (s.linkEnabled (sub - 1) v))
  | 0x5004 => some (.ok (s.linkRetrain (sub - 1) v))
  | 0x5414 => some (.ok (s.eccLogClear v))
  | 0x5811 => some (s.dmaAbortAsked (sub - 1) v)
  | 0x6010 => some (s.powerRequest v)
  | 0x6401 => some (.ok (s.resetCauseClear v))
  | 0x6402 => some (s.resetRequest v)
  | 0x6403 => some (s.domainReset v)
  | 0x6802 => some (s.hkTrust v)
  | 0x7002 => some (.ok (s.faultLogClear v))
  | 0x7005 => some (s.pathFaultClear v)
  | 0x7010 => some (s.leaseRevoke v)
  | _ => none

/-- A write of a scalar takes effect (R58). -/
def State.writeScalar (s : State) (index sub v : Nat) : Res := (s.scalarAct index sub v).getD (.ok (s.wr index sub v))

/-- The Governor looks again at what commands have put into its future (R353). -/
def State.thenDemand (r : Res) : Res := r.map State.govDemand

/-- A write of a DOMAIN value takes effect (R58, R67); `port` is the one it came on. -/
def State.writeDomain (s : State) (index sub port : Nat) (l : List Byte) : Res :=
  match index with
  | 0x3420 => s.weightJobSubmit l
  | 0x3C14 => State.thenDemand (s.cancelTrain l)
  | 0x4020 => s.kernelLoad l
  | 0x4030 => s.jobSubmit l
  | 0x4430 => State.thenDemand (s.speTxSend l)
  | 0x4810 => State.thenDemand (s.calRun l)
  | 0x5810 => s.dmaStart l
  | 0x6422 => s.bootImageLoad l port
  | 0x6431 => s.keyRevoke l
  | 0x6440 => s.attestRequest l
  | 0x6444 => s.identitySign l
  | _ => .ok (s.setDom index sub (cleanDom index l))

/-- The domain that a write of an entry needs on (R58). -/
def writeDomainCode (index : Nat) : Option Nat :=
  match index with
  | 0x3024 => some 3
  | 0x3415 | 0x3416 | 0x3C13 | 0x4020 | 0x4022 | 0x4851 => some 5
  | 0x3420 | 0x4004 | 0x4030 => some 4
  | _ => none

/-- The domain that a read of an entry needs on: ARCH where the value lies in one of its regions (R56, R59). -/
def readDomainCode (index : Nat) : Option Nat := if index = Ix.CalSet ∨ index = Ix.LibraryEntryHeader then some 5 else none

/-- Is a refusal found before any domain is asked for (R69)? Not one that only the memories' contents show. -/
def earlyCode (code : Nat) : Bool := code == abRange || code == abLate || code == abState || code == abSignature || code == abLeaseHeld

end Sys2Proof.Machine
end

