-- ==== Sys2Proof/Machine/Serve.lean ====
section
/-! DEFINITION. Catalogue requests: their checks in order, the seven operations, DOMAIN transfers, commits, responses, order and tags,
forwarding, and the service port (R54 to R80). -/
namespace Sys2Proof.Machine

/-- What a successful operation answers: the flags, AUX, EPOCH and the data of Table 3.5. -/
structure Answer where
  stale : Bool := false
  asap : Bool := false
  aux : Nat := 0
  epoch : Nat
  data : List Byte := []
  deriving DecidableEq, Repr

/-- The outcome of an attempt to perform a request. -/
inductive Served where
  | answer (a : Answer) (s : State)
  | abort (a : Abort) (s : State)
  | stalled (s : State)
  deriving DecidableEq, Repr

/-- A successful write, stage or discard: the epoch in progress (R61). -/
def State.done (s : State) : Served := .answer { epoch := epochEntry s.epoch } s

/-! Bytes (Tables 3.4, 3.5) -/

/-- A request as its bytes spell it. -/
def parseRequest (port : Nat) (l : List Byte) : Request :=
  let ctrl := fieldLE l 2 1
  { port := port, op := fieldLE l 0 1, tag := fieldLE l 1 1, pos := bitsOf ctrl 7 6, array := bitAt ctrl 5, asap := bitAt ctrl 4,
    first := bitAt ctrl 3, last := bitAt ctrl 2, sub := fieldLE l 3 1, index := fieldLE l 4 2, count := fieldLE l 6 2,
    length := fieldLE l 8 4, offset := fieldLE l 12 4, param := fieldLE l 16 8, spare := bitsOf ctrl 1 0, data := l.drop 24 }

/-- The CTRL byte of a request. -/
def ctrlByte (r : Request) : Nat :=
  r.pos % 4 * 64 + b2n r.array * 32 + b2n r.asap * 16 + b2n r.first * 8 + b2n r.last * 4 + r.spare % 4

/-- The bytes of a request. -/
def requestBytes (r : Request) : List Byte :=
  leBytes 1 r.op ++ leBytes 1 r.tag ++ leBytes 1 (ctrlByte r) ++ leBytes 1 r.sub ++ leBytes 2 r.index ++ leBytes 2 r.count
    ++ leBytes 4 r.length ++ leBytes 4 r.offset ++ leBytes 8 r.param ++ r.data

/-- Zero bytes up to a multiple of four. -/
def padded (l : List Byte) : List Byte := l ++ List.replicate (roundUp l.length 4 - l.length) 0

/-- The bytes of a response. -/
def responseBytes (x : Response) : List Byte :=
  leBytes 1 (x.op + 128) ++ leBytes 1 x.tag
    ++ leBytes 1 (x.pos % 4 * 64 + b2n x.stale * 32 + b2n x.asap * 16 + b2n x.dup * 8) ++ leBytes 1 x.status ++ leBytes 2 x.index
    ++ leBytes 1 x.sub ++ leBytes 1 0 ++ leBytes 4 x.data.length ++ leBytes 4 x.aux ++ leBytes 8 x.epoch ++ padded x.data

/-! Responses and aborts (R61, R70) -/

/-- A response leaves through the port its request came on; CAT_RSP packets carry it on PORT-N. -/
def State.respond (s : State) (x : Response) : State :=
  let s := s.bump Ix.CatRequestCount 0
  if x.port = 0 then s.sendNow 0 6 s.pos (responseBytes x)
  else { s with host := { s.host with responses := s.host.responses ++ [x] } }

/-- The response to a request. -/
def State.responseTo (s : State) (r : Request) (status : Nat) (dup : Bool) (a : Answer) : Response :=
  { port := r.port, op := r.op, tag := r.tag, pos := s.pos, stale := a.stale, asap := a.asap, dup := dup, status := status,
    index := r.index, sub := r.sub, aux := a.aux, epoch := a.epoch, data := a.data }

/-- The abort-detail entries (R70). -/
def State.recordAbort (s : State) (r : Request) (a : Abort) : State :=
  let s := (s.bump Ix.AbortCount 0).wr 0x1401 1 a.code
  let s := ((s.wr 0x1401 2 r.tag).wr 0x1401 3 r.index).wr 0x1401 4 r.sub
  ((s.wr 0x1401 5 a.detail).wrEpoch 0x1401 6 s.epoch).wr 0x1401 7 r.port

/-- The earliest legal target that a LATE abort reports, as an EPOCH value (R61). -/
def State.lateEpoch (s : State) (r : Request) : Nat :=
  let arrayScope := if r.op = 6 then r.array
    else (r.index == Ix.WeightJobSubmit || r.index == Ix.CalRun) && bitAt (fieldLE r.data 0 1) 7
  if r.op ≠ 6 ∧ (r.index = Ix.ModeRequest ∨ r.index = Ix.ArrayModeRequest) then
    epochEntry (s.modeEarliest s.modeFrom (fieldLE r.data 0 1) (r.index == Ix.ArrayModeRequest))
  else if r.op ≠ 6 ∧ r.index = Ix.SpeTxSend then s.stampFrom (s.now + usec 20) 600 s.epoch
  else epochEntry (if arrayScope then s.earliestArrayCommit else s.earliestCommit)

/-- EPOCH of an abort: of LATE the earliest legal target; for other codes the spec states no value, so it is free (log entry 13). -/
def State.abortEpoch (s : State) (r : Request) (a : Abort) : Nat :=
  if a.code = abLate then s.lateEpoch r else (Config.freeFigure s.free 520 % 2 ^ 64).toNat

/-- The transfer of a DOMAIN entry that is open. -/
def State.transferOf (s : State) (index sub : Nat) : Option DomainTransfer :=
  s.host.transfers.find? (fun t => t.index == index && t.sub == sub)

/-- A transfer is abandoned with nothing written: DOMAIN_ABANDONED (R67, R68). -/
def State.abandonTransfer (s : State) (index sub reason : Nat) : State :=
  { s with host := { s.host with transfers := s.host.transfers.filter (fun t => !(t.index == index && t.sub == sub)) } }.raise
    0x1403 0 (packData [fEntry index sub, f8 reason])

/-- A request aborts: a later segment takes its transfer with it (R67), the abort is recorded and answered. -/
def State.refuse (s : State) (r : Request) (dup : Bool) (a : Abort) : State :=
  let s := { s with free := s.free + 1 }
  let s := if (r.op = 4 ∨ r.op = 5) ∧ r.first = false ∧ r.pos = s.pos ∧ (s.transferOf r.index r.sub).isSome then
      s.abandonTransfer r.index r.sub 3
    else s
  let s := s.recordAbort r a
  s.respond (s.responseTo r a.code dup { epoch := s.abortEpoch r a })

/-! Checks (R69) -/

/-- The size in bytes that a header implies (R60). -/
def impliedSize (r : Request) : Nat := if r.op = 3 ∨ r.op = 4 ∨ r.op = 5 then 24 + roundUp r.length 4 else 24

/-- A fault of the header (R57, R60, R64). -/
def headerFault (r : Request) : Option Abort :=
  if r.op = 0 ∨ 7 < r.op then some (rangeAt 0xFFFFFFFF)
  else if impliedSize r < 24 + r.data.length then some ⟨abLenHigh, 0⟩
  else if 24 + r.data.length < impliedSize r then some ⟨abLenLow, 0⟩
  else if r.op = 3 ∧ (r.count = 0 ∨ 64 < r.count ∨ r.length ≠ 4 * r.count) then some (rangeAt 0xFFFFFFFF)
  else none

/-- The row of an element; subindex 0x00 of an array is its count, a readable U8 (R5). -/
def entryOf (index sub : Nat) : Option Entry :=
  match findEntry index sub with
  | some e => some e
  | none => if sub = 0 then (arrayCount index).map (fun n => ⟨index, 0, 0, .u8, .ro, [n], .any, 0xFF⟩) else none

/-- What an element reads as. -/
def State.valueOf (s : State) (index sub : Nat) : Nat :=
  if sub = 0 ∧ (findEntry index 0).isNone then (arrayCount index).getD 0 else s.scalar index sub

/-- The refusals of Table 3.3. -/
def State.classFault (s : State) (op : Nat) (c : Access) : Option Abort :=
  match c with
  | .ro => if op = 2 then some s.stateAbort else if op = 4 ∨ op = 5 then some ⟨abReadOnly, 0⟩ else none
  | .rw => if op = 2 ∨ op = 5 then some s.stateAbort else none
  | .rwe => if op = 4 then some s.stateAbort else none
  | .wo | .cmd => if op = 5 then some s.stateAbort else if op = 4 then none else some ⟨abWriteOnly, 0⟩

/-- Does the boot ROM refuse an operation on an entry (R388)? -/
def State.romRefuses (s : State) (op index : Nat) : Bool :=
  !s.reset_.bootDone && (if op = 1 then !(index / 256 == 0x10 || index / 256 == 0x64)
    else !(op == 4 && (index == Ix.BootImageLoad || index == Ix.ResetRequest || index == Ix.ResetCauseClear)))

/-- The mode check of an entry (R34, R51, R65, R387, R388). -/
def State.modeFault (s : State) (op index sub : Nat) : Bool :=
  s.romRefuses op index
    || ((op == 4 || op == 5) && (s.modeMarkRefuses index sub || (index == Ix.TimeRealign && !realignMode s.mode)
      || (index == Ix.BootImageLoad && s.rd Ix.BootState 0 != 3 && s.rd Ix.BootState 0 != 6)))

/-- The checks of R69 on an entry up to the mode. -/
def State.entryFault (s : State) (op index sub : Nat) : Except Abort Entry :=
  if 0xF000 ≤ index || !indexDefined index then .error ⟨abNoObject, 0⟩
  else match entryOf index sub with
    | none => .error ⟨abNoSub, 0⟩
    | some e =>
      match s.classFault op e.access with
      | some a => .error a
      | none =>
        if (op = 4 ∨ op = 5) ∧ index = Ix.ArrayModeRequest ∧ s.pos ≠ 0 then .error ⟨abPosition, 0⟩
        else if s.modeFault op index sub then .error s.stateAbort
        else .ok e

/-- A domain that an operation needs: on now, asked for with the request stalled, or failing (R58, R59). -/
inductive DomainAnswer where
  | ready | wait | failed
  deriving DecidableEq, Repr

/-- Ask for a domain. -/
def State.askDomain (s : State) (d : Option Nat) : DomainAnswer × State :=
  match d with
  | none => (.ready, s)
  | some d =>
    let r := s.needDomain d
    if !r.1 then (.wait, r.2)
    else if r.2.domainOn d && !(d == 5 && r.2.power.archHeld) && !r.2.power.resetting.contains d then (.ready, r.2)
    else (.failed, r.2)

/-! Reads (R46, R59, R62 to R64) -/

/-- Does a response of a size pass the far end's limit for its class (R304)? -/
def State.responseTooLong (s : State) (r : Request) (n : Nat) : Bool :=
  r.port == 0 && thas 2 s.farLimits && decide (tget 0 2 s.farLimits < (24 + roundUp n 4) / 4)

/-- Bytes of a DOMAIN value of a size, as READ and READ_STAGED ask for them (R62): LENGTH 0 asks for the size. -/
def segmentOf (r : Request) (size : Nat) (get : Nat → Nat → List Byte) : Except Abort (List Byte) :=
  if r.length = 0 then .ok (leBytes 4 size)
  else if 32768 < r.length ∨ size < r.offset + r.length then .error ⟨abLenHigh, size⟩
  else .ok (get r.offset r.length)

/-- Does the region that holds a DOMAIN value lie outside its partition (R56)? -/
def State.regionOutside (s : State) (index : Nat) : Bool :=
  if index = Ix.CalSet then !s.inPartition 5 s.calBase 86272
  else if index = Ix.LibraryEntryHeader then !s.inPartition 1 (s.entryBase (s.rd Ix.LibraryEntrySelect 0)) 64
  else false

/-- READ of a DOMAIN entry (R62); a word met on its way is decoded, and a poisoned one aborts the read (R333). -/
def State.readDomain (s : State) (r : Request) : Served :=
  if s.regionOutside r.index then .abort (rangeAt 0xFFFFFFFF) s
  else
    let size := s.domSize r.index r.sub
    if r.length ≠ 0 ∧ (32768 < r.length ∨ size < r.offset + r.length ∨ s.responseTooLong r r.length) then .abort ⟨abLenHigh, size⟩ s
    else match s.askDomain (if r.length = 0 then none else readDomainCode r.index) with
      | (.wait, s) => .stalled s
      | (.failed, s) => .abort ⟨abDomainFail, 0⟩ s
      | (.ready, s) =>
        let s := match s.domRegion r.index with
          | some a => if r.length = 0 then s else s.settle (a + r.offset) r.length
          | none => s
        match (if r.length = 0 then none else s.domPoison r.index r.offset r.length) with
        | some a => .abort ⟨abPoisoned, 0⟩ (s.consumePoison a)
        | none =>
          .answer { stale := s.stale r.index r.sub, aux := s.changeCount r.index r.sub, epoch := epochEntry s.epoch,
                    data := if r.length = 0 then leBytes 4 size else s.domBytes r.index r.sub r.offset r.length } s

/-- READ (R62). -/
def State.opRead (s : State) (r : Request) (e : Entry) : Served :=
  if e.type = .domain then s.readDomain r
  else .answer { stale := s.stale r.index r.sub, epoch := epochEntry s.epoch, data := leBytes e.type.size (s.valueOf r.index r.sub) } s

/-- READ_STAGED (R63). -/
def State.opReadStaged (s : State) (r : Request) (e : Entry) : Served :=
  match s.host.openSet.find? (fun it => it.index == r.index && it.sub == r.sub) with
  | none => .abort s.stateAbort s
  | some it =>
    match it.value with
    | .num v => .answer { epoch := epochEntry s.epoch, data := leBytes e.type.size v } s
    | .bytes l =>
      if s.responseTooLong r r.length then .abort ⟨abLenHigh, l.length⟩ s
      else match segmentOf r l.length (fun off n => sliceBytes l off n) with
        | .error a => .abort a s
        | .ok d => .answer { epoch := epochEntry s.epoch, data := d } s

/-- The value of a SNAPSHOT item: configuration that governs the epoch, counters and measurements as latched at its tick (R47). -/
def State.snapValue (s : State) (e : Entry) (index sub : Nat) : Nat :=
  if e.access = .ro ∧ !s.host.latched.isEmpty ∧ (findEntry index sub).isSome then
    tget (entryDefault index sub) (ck index sub) s.host.latched
  else s.valueOf index sub

/-- One item of a SNAPSHOT response (R64). -/
def State.snapItem (s : State) (index sub : Nat) : List Byte :=
  match s.entryFault 3 index sub with
  | .error a => leBytes 1 a.code ++ leBytes 3 0
  | .ok e =>
    if e.type = .domain then leBytes 1 abRange ++ leBytes 3 0
    else leBytes 1 0 ++ leBytes 1 (b2n (s.stale index sub)) ++ leBytes 2 e.type.size
      ++ padded (leBytes e.type.size (s.snapValue e index sub))

/-- SNAPSHOT (R64). -/
def State.opSnapshot (s : State) (r : Request) : Served :=
  let data := (List.range r.count).flatMap (fun k => s.snapItem (fieldLE r.data (4 * k) 2) (fieldLE r.data (4 * k + 2) 1))
  if s.responseTooLong r data.length then .abort ⟨abLenHigh, 0⟩ s
  else .answer { aux := r.count, epoch := epochEntry s.epoch, data := data } s

/-! Staging (R40, R65) -/

/-- A value in the place of an earlier one of the same element, else behind the others. -/
def putStaged (it : StagedItem) : List StagedItem → List StagedItem
  | [] => [it]
  | x :: t => if x.index = it.index ∧ x.sub = it.sub then it :: t else x :: putStaged it t

/-- A value enters the open staging set, within its limits. -/
def State.stage (s : State) (it : StagedItem) : Except Abort State :=
  let l := putStaged it s.host.openSet
  if 4096 < l.length ∨ 8388608 < stagedBytes l then .error ⟨abStagingFull, 0⟩
  else .ok { s with host := { s.host with openSet := l } }

/-! Writes of scalars (R58) -/

/-- Is a channel's element of an entry under a reservation (R338, Table 15.5)? -/
def State.reservedElement (s : State) (index sub : Nat) : Bool :=
  (index == Ix.DmaHopLimit || index == Ix.DmaChannelCtrl || index == Ix.DmaAppendPoll || index == Ix.DmaAbort) && s.dmaReserved (sub - 1)

/-- A command's effect with the domain it needs: an early refusal first, then the domain, then the effect (R58, R69). -/
def State.acting (s : State) (d : Option Nat) (f : State → Res) : Served :=
  match f s with
  | .error a => if earlyCode a.code then .abort a s else
    match s.askDomain d with
    | (.wait, t) => .stalled t
    | (.failed, t) => .abort ⟨abDomainFail, 0⟩ t
    | (.ready, t) => match f t with
      | .error b => .abort b t
      | .ok u => u.done
  | .ok _ =>
    match s.askDomain d with
    | (.wait, t) => .stalled t
    | (.failed, t) => .abort ⟨abDomainFail, 0⟩ t
    | (.ready, t) => match f t with
      | .error b => .abort b t
      | .ok u => u.done

/-- WRITE or STAGE of an entry that is not a DOMAIN (R58, R65). -/
def State.opScalar (s : State) (r : Request) (e : Entry) : Served :=
  if e.type.size < r.length then .abort ⟨abLenHigh, e.type.size⟩ s
  else if r.length < e.type.size then .abort ⟨abLenLow, e.type.size⟩ s
  else
    let v := keptValue e (fieldLE r.data 0 e.type.size)
    if !s.scalarOk e r.index r.sub v then .abort (rangeAt 0) s
    else if r.op = 5 then
      match s.stage ⟨r.index, r.sub, .num v⟩ with
      | .error a => .abort a s
      | .ok t => t.done
    else if s.reservedElement r.index r.sub then .abort (leaseAbort 0x05000000) s
    else if e.type = .bool ∧ e.access = .cmd ∧ v = 0 then s.done
    else s.acting (writeDomainCode r.index) (fun s => s.writeScalar r.index r.sub v)

/-! DOMAIN transfers (R67, R68) -/

/-- The bytes a segment carries. -/
def segData (r : Request) : List Byte := r.data.take r.length

/-- A fault of a FIRST segment. -/
def State.firstFault (s : State) (r : Request) : Option Abort :=
  let z := domSizes r.index
  let size := s.domSize r.index r.sub
  if (s.transferOf r.index r.sub).isNone ∧ 4 ≤ s.host.transfers.length then some s.stateAbort
  else if z.2 < r.param then some ⟨abLenHigh, size⟩
  else if r.param < z.1 then some ⟨abLenLow, size⟩
  else if 32768 < r.length ∨ r.param < r.length then some ⟨abLenHigh, size⟩
  else if r.length = 0 ∧ !(r.param == 0 && r.last) then some ⟨abLenLow, size⟩
  else if r.last ∧ r.length < r.param then some ⟨abLenLow, size⟩
  else if r.offset ≠ 0 then some (rangeAt 0xFFFFFFFF)
  else if !r.last ∧ r.length = r.param then some (rangeAt 0xFFFFFFFF)
  else none

/-- A fault of a later segment of an open transfer. -/
def State.laterFault (s : State) (r : Request) (t : DomainTransfer) : Option Abort :=
  let size := s.domSize r.index r.sub
  let have_ := t.got.length
  if 32768 < r.length ∨ t.total < have_ + r.length then some ⟨abLenHigh, size⟩
  else if r.length = 0 then some ⟨abLenLow, size⟩
  else if r.last ∧ have_ + r.length < t.total then some ⟨abLenLow, size⟩
  else if t.stage ≠ (r.op == 5) then some (rangeAt 0xFFFFFFFF)
  else if r.offset ≠ have_ then some (rangeAt 0xFFFFFFFF)
  else if !r.last ∧ have_ + r.length = t.total then some (rangeAt 0xFFFFFFFF)
  else none

/-- The transfers without those of one entry. -/
def State.dropTransfer (s : State) (index sub : Nat) : State :=
  { s with host := { s.host with transfers := s.host.transfers.filter (fun t => !(t.index == index && t.sub == sub)) } }

/-- A FIRST segment that passes its checks abandons an earlier transfer of its entry. -/
def State.newFirst (s : State) (r : Request) : State :=
  if r.first ∧ (s.transferOf r.index r.sub).isSome then s.abandonTransfer r.index r.sub 2 else s

/-- The whole value is there: it enters the open set, or takes effect (R67 rule 5). -/
def State.wholeValue (s : State) (r : Request) (l : List Byte) : Served :=
  match s.domValueBad r.index l with
  | some off => .abort (rangeAt off) s
  | none =>
    let clear := fun (s : State) => (s.newFirst r).dropTransfer r.index r.sub
    if r.op = 5 then
      match s.stage ⟨r.index, r.sub, .bytes (cleanDom r.index l)⟩ with
      | .error a => .abort a s
      | .ok t => (clear t).done
    else s.acting (writeDomainCode r.index) (fun s => (s.writeDomain r.index r.sub r.port l).map clear)

/-- A segment that does not complete its value is kept. -/
def State.keepSegment (s : State) (r : Request) (total : Nat) (got : List Byte) : Served :=
  let s := (s.newFirst r).dropTransfer r.index r.sub
  State.done { s with host := { s.host with transfers := s.host.transfers ++
    [⟨r.index, r.sub, r.op == 5, total, got ++ segData r, s.now⟩] } }

/-- WRITE or STAGE of a DOMAIN entry: one segment (R67). -/
def State.opSegment (s : State) (r : Request) : Served :=
  if r.first then
    match s.firstFault r with
    | some a => .abort a s
    | none => if r.last then s.wholeValue r (segData r) else s.keepSegment r r.param []
  else match s.transferOf r.index r.sub with
    | none => .abort (rangeAt 0xFFFFFFFF) s
    | some t =>
      match s.laterFault r t with
      | some a => .abort a s
      | none => if r.last then s.wholeValue r (t.got ++ segData r) else s.keepSegment r t.total t.got

/-- What the answer to a write of WeightJobSubmit carries in EPOCH (R154): the target of the commit sealed last for the job queued last. -/
def State.jobTarget (r : Request) (x : Served) : Served :=
  match x with
  | .answer a s =>
    if r.op = 4 ∧ r.index = Ix.WeightJobSubmit then
      match s.host.commits.reverse.find? (fun c => c.source == .weightJob (match s.lib.jobs.getLast? with
        | some j => j.job
        | none => 0)) with
      | some c => if (match s.lib.jobs.getLast? with
          | some j => j.commit
          | none => false) then .answer { a with epoch := epochEntry c.target, asap := c.asap } s else x
      | none => x
    else x
  | _ => x

/-! COMMIT and DISCARD (R40, R41, R45, R66, R78) -/

/-- Does the mode refuse a COMMIT or DISCARD: in the boot ROM, or for entries of the Standby mark (R34, R69, R323, R388)? -/
def State.setRefused (s : State) (op : Nat) : Bool :=
  !s.reset_.bootDone || (op == 6 && s.mode != 1 && carriesAny s.host.openSet standbyEntries)

/-- What a sealed commit starts at once: a partition copy (R324), the loading of a canceller set already sealed (R196). -/
def State.afterSeal (s : State) (c : SealedCommit) : State :=
  let v := s.viewAt c.target
  let moves := carriesAny c.items [Ix.PartitionBase, Ix.PartitionSize] && (s.movesPartition v 4 || s.movesPartition v 5)
  let s := if moves then { s with mem := { s.mem with copying := true } } else s
  let s := c.items.foldl (fun s it => match it.value with
    | .num n => if it.index = Ix.CancelSetSelect ∧ n ≠ 0xFF ∧ s.rd Ix.CancelSetState (n + 1) = 1 then s.startSetLoad n else s
    | .bytes _ => s) s
  s.govDemand

/-- COMMIT (R66): the checks of R69 in order, then the open set is sealed. -/
def State.opCommit (s : State) (r : Request) : Served :=
  if r.array ∧ s.pos ≠ 0 then .abort ⟨abPosition, 0⟩ s
  else if s.setRefused 6 then .abort s.stateAbort s
  else if !s.epochOk r.param then .abort (rangeAt 0xFFFFFFFF) s
  else
    let asked := epochOfEntry r.param
    let early := if r.array then s.earliestArrayCommit else s.earliestCommit
    let near := !epLe early asked
    if near ∧ !r.asap then .abort ⟨abLate, 0⟩ s
    else
      let target := if near then early else asked
      if s.beyondLimit target then .abort (rangeAt 0xFFFFFFFF) s
      else
        let c : SealedCommit := { source := .host, target := target, original := target, asap := near, array := r.array,
                                  deferred := false, missed := false, armed := false, decided := false, items := s.host.openSet }
        match (s.sealCommit c).spanCheck c with
        | some a => .abort a s
        | none =>
          if 8 ≤ s.host.commits.length then .abort ⟨abStagingFull, 0⟩ s
          else
            let peer := if r.array then s.peerRefusal else (none, s)
            match peer.1 with
            | some code => .abort ⟨code, 0⟩ peer.2
            | none =>
              let t := peer.2.sealCommit c
              let t := { t with host := { t.host with openSet := [] } }.afterSeal c
              .answer { asap := near, epoch := epochEntry target } t

/-- DISCARD (R66): the open set is emptied. Its response's EPOCH is not stated: a free value (log entry 13). -/
def State.opDiscard (s : State) (r : Request) : Served :=
  if r.array ∧ s.pos ≠ 0 then .abort ⟨abPosition, 0⟩ s
  else if s.setRefused 7 then .abort s.stateAbort s
  else .answer { epoch := (Config.freeFigure s.free 520 % 2 ^ 64).toNat } { s with host := { s.host with openSet := [] } }

/-! Performing (R58, R69, R72) -/

/-- A request addressed to this device is performed, refused, or stalls on a domain. -/
def State.perform (s : State) (r : Request) : Served :=
  let s := { s with free := s.free + 1 }
  match headerFault r with
  | some a => .abort a s
  | none =>
    if r.op = 6 then s.opCommit r
    else if r.op = 7 then s.opDiscard r
    else if r.op = 3 then
      (if s.romRefuses 3 0 then .abort s.stateAbort s else s.opSnapshot r)
    else match s.entryFault r.op r.index r.sub with
      | .error a => .abort a s
      | .ok e =>
        if r.op = 1 then s.opRead r e
        else if r.op = 2 then s.opReadStaged r e
        else if e.type = .domain then State.jobTarget r (s.opSegment r)
        else s.opScalar r e

/-- A boot image that fails on its last segment is reported beside its abort (R387). -/
def State.imageRefused (s : State) (r : Request) (a : Abort) : State :=
  if r.op = 4 ∧ r.index = Ix.BootImageLoad ∧ r.last ∧ (a.code = abRange ∨ a.code = abSignature) then
    match (s.transferOf r.index r.sub), r.first with
    | some t, false => match s.imageFault (t.got ++ segData r) with
      | some x => s.bootFail 2 x
      | none => s
    | _, true => match s.imageFault (segData r) with
      | some x => s.bootFail 2 x
      | none => s
    | none, false => s
  else s

/-- A request is performed to its response, or stays in performance while it stalls. -/
def State.performOne (s : State) (r : Request) : State :=
  match ({ s with host := { s.host with performing := none } }).perform r with
  | .answer a t => t.respond (t.responseTo r 0 false a)
  | .abort a t => (t.imageRefused r a).refuse r false a
  | .stalled t => { t with host := { t.host with performing := some r } }

/-- Bytes of responses that wait for the service port (R80). -/
def State.responseSpace (s : State) : Nat := 65536 - (s.host.responses.map (fun x => 24 + roundUp x.data.length 4)).sum

/-- May the device perform a waiting request: from the service port only while the response space takes the largest response (R80)? -/
def State.mayPerform (s : State) (r : Request) : Bool := r.port == 0 || decide (32792 ≤ s.responseSpace)

/-- Take the first request that may be performed out of those that wait. -/
def State.takeRequest (s : State) : Option (Request × State) :=
  match s.host.stalled.find? s.mayPerform with
  | none => none
  | some r => some (r, { s with host := { s.host with stalled := s.host.stalled.erase r } })

/-- Requests are performed one after the other in order of arrival (R72), as far as they go. -/
def State.pumpFuel : Nat → State → State
  | 0, s => s
  | n + 1, s =>
    match s.host.performing with
    | some r =>
      let t := s.performOne r
      if t.host.performing.isSome then t else State.pumpFuel n t
    | none =>
      match s.takeRequest with
      | none => s
      | some (r, t) => State.pumpFuel n { t with host := { t.host with performing := some r } }

/-- The requests that wait are taken up again. -/
def State.pump (s : State) : State := State.pumpFuel (2 * s.host.stalled.length + 2) s

/-! Arrival (R69, R71, R73, R75, R76) -/

/-- Does the device serve requests: CORE on and neither reset nor shut down (R24, R79, R388, R416)? -/
def State.serving (s : State) : Bool := s.domainOn 2 && !s.inReset && !s.therm.latched && s.mode != 0

/-- The masters seen (R73), and the Governor's record of the last request (R361). -/
def State.noteMaster (s : State) (port : Nat) : State :=
  let s := s.wrBit Ix.MasterPresence 0 port true
  let second := !s.host.secondRaised && (match s.host.lastPort with
    | some p => p != port
    | none => false)
  let s := { s with host := { s.host with lastPort := some port, secondRaised := s.host.secondRaised || second },
                    power := { s.power with lastRequestAt := s.now } }
  if second then s.raise 0x1402 0 (packData [f8 port]) else s

/-- Can a request reach its position from the port it came on (R75, R76)? -/
def State.reaches (s : State) (r : Request) : Bool :=
  r.pos == s.pos || (decide (r.pos < s.arrayN) && decide (s.pos < r.pos) && s.portActive 1 && (r.port == 0 || s.pos == 0))

/-- Does a tag in flight at this entry point meet a request that enters here (R71)? -/
def State.tagTaken (s : State) (r : Request) : Bool := (s.pos == 0 || r.port == 1) && s.tagsInFlight.contains r.tag

/-- A request leaves south for its position, unchanged (R75). -/
def State.forward (s : State) (r : Request) : State :=
  { s with host := { s.host with forwarded := s.host.forwarded ++ [Forwarded.mk r s.now] } }.sendNow 1 5 r.pos (requestBytes r)

/-- A request arrives: refused at this entry point, forwarded, or in turn performed. -/
def State.arrive (s : State) (r : Request) : State :=
  if !s.serving then s
  else
    let s := s.noteMaster r.port
    if s.tagTaken r then s.refuse r true ⟨abTagInUse, 0⟩
    else if (headerFault r).isNone ∧ !s.reaches r then s.refuse r false ⟨abPosition, 0⟩
    else if (headerFault r).isNone ∧ r.pos ≠ s.pos then s.forward r
    else { s with host := { s.host with stalled := s.host.stalled ++ [r] } }.pump

/-- DOMAIN_TRANSFER_TIMEOUT (R68). -/
def State.transferTimeout (s : State) (index sub : Nat) : State :=
  match s.transferOf index sub with
  | some t => if s.elapsed t.lastAt (msec (s.rd Ix.DomainTransferTimeout 0)) then s.abandonTransfer index sub 1 else s
  | none => s

/-- FORWARD_TIMEOUT (R75): a forwarded request without a response aborts with POSITION. -/
def State.forwardTimeout (s : State) (tag : Nat) : State :=
  match s.host.forwarded.find? (fun f => f.request.tag == tag) with
  | some f =>
    if s.elapsed f.sentAt (msec (s.rd Ix.ForwardTimeout 0)) then
      { s with host := { s.host with forwarded := s.host.forwarded.erase f } }.refuse f.request false ⟨abPosition, 0⟩
    else s
  | none => s

/-! The service port (R79, R80, R84) -/

/-- ALERT_N is low (R84, R388): a record waits, or the device is halted. -/
def State.alertLow (s : State) : Bool :=
  (s.rdB Ix.AlertEnable 0 && !s.ev.queue.isEmpty) || (!s.reset_.bootDone && s.rd Ix.BootState 0 == 6)

/-- Can the request buffer take a request (R80)? -/
def State.reqSpace (s : State) : Bool := !s.host.stalled.any (fun r => r.port == 1)

/-- The status byte (R79). -/
def State.spiStatus (s : State) : Nat := b2n s.alertLow * 4 + b2n s.reqSpace * 2 + b2n (!s.host.responses.isEmpty)

/-- A transfer begins: its status byte is shifted out. -/
def State.spiBegin (s : State) (out : List Byte) : State :=
  { s with host := { s.host with lastStatus := s.spiStatus, lastOut := out } }

/-- STATUS (R79). -/
def State.spiStatusOnly (s : State) : State := if s.serving then s.spiBegin [] else s

/-- SPI_FRAMING_ERROR (R79): a transfer with another command. -/
def State.spiError (s : State) : State := if s.serving then (s.spiBegin []).bump Ix.SpiFramingErrors 0 else s

/-- REQUEST (R79, R80): a transfer that ends short of what its header implies, or that finds the buffer full, is discarded. -/
def State.spiRequest (s : State) (l : List Byte) : State :=
  if !s.serving then s
  else
    let t := s.spiBegin []
    if l.length < 24 ∨ l.length < impliedSize (parseRequest 1 l) ∨ !s.reqSpace then t.bump Ix.SpiFramingErrors 0
    else t.arrive (parseRequest 1 l)

/-- RESPONSE (R80): the oldest response is shifted out, and leaves once the host has clocked all its bytes; what was then blocked goes on. -/
def State.spiResponse (s : State) (clocked : Nat) : State :=
  if !s.serving then s
  else match s.host.responses with
    | [] => s.spiBegin (List.replicate clocked 0)
    | x :: rest =>
      let l := responseBytes x
      let t := s.spiBegin (sliceBytes l 0 clocked)
      if l.length ≤ clocked then State.pump { t with host := { t.host with responses := rest } } else t

end Sys2Proof.Machine
end

