-- ==== Sys2Proof/Machine/Boot.lean ====
section
/-! DEFINITION. The completion of a boot (R389). -/
namespace Sys2Proof.Machine

/-- The bytes of an image's section. -/
def sectionData (image : List Byte) (x : Nat × Nat × Nat × Nat) : List Byte := sliceBytes image x.2.2.1 x.2.2.2

/-- Steps 1 and 2: the image and its kernels go into the images partition, and the profile is taken out. -/
def State.bootPlace (s : State) : State :=
  let image := s.reset_.image
  let kernels := (imageSections image).filter (fun x => x.1 == 3)
  let s := s.ownBytes (s.rd Ix.PartitionBase 4) image
  let s := kernels.foldl (fun s x => s.placeKernel x.2.1 (sectionData image x)) s
  let profile : List Byte := match (imageSections image).find? (fun x => x.1 == 4) with
    | some x => sectionData image x
    | none => []
  { s with reset_ := { s.reset_ with profile := profile, profileAt := some 0 } }

/-- A request of the profile that aborts (R389): BOOT_CONFIG. It came on no port: `AbortLastPort` is a free value (log entry 13). -/
def State.profileAbort (s : State) (r : Request) (a : Abort) : State :=
  let s := { s with free := s.free + 1 }
  let s := s.recordAbort { r with port := (Config.freeFigure s.free 521 % 256).toNat } a
  s.raise 0x6403 0 (packData [fEntry r.index r.sub, f8 a.code])

/-- The next request of the profile, performed outside the boot ROM's service; true where it stalls. -/
def State.profileStep (s : State) (at_ : Nat) : Bool × State :=
  let l := s.reset_.profile.drop at_
  let head := parseRequest 0 l
  let n := impliedSize head
  let r := { head with data := (l.take n).drop 24, pos := s.pos }
  let done := fun (s : State) => { s with reset_ := { s.reset_ with bootDone := false, profileAt := some (at_ + n) } }
  match ({ s with reset_ := { s.reset_ with bootDone := true } }).perform r with
  | .answer _ t => if t.inReset then (true, t) else (false, done t)
  | .abort a t => (false, done (t.profileAbort r a))
  | .stalled t => (true, { t with reset_ := { t.reset_ with bootDone := false } })

/-- Step 3: the requests of the profile in order, while none stalls; true where one does. -/
def State.profileRun : Nat → State → Bool × State
  | 0, s => (false, s)
  | n + 1, s =>
    match s.reset_.profileAt with
    | none => (false, s)
    | some at_ =>
      if s.reset_.profile.length < at_ + 24 then (false, s)
      else
        let x := s.profileStep at_
        if x.1 then x else State.profileRun n x.2

/-- Steps 4 to 6: the calibration store, then a save that waited for it (R439), the mode after boot, RESET_DONE. Without valid trims the mode is Standby (R230). -/
def State.bootEnds (s : State) : State :=
  let s := s.examineBanks.saveWaiting
  let mode := if s.rd Ix.TrimValid 0 = 0 then 1 else s.rd Ix.ModeAfterBoot 0
  let s := { s with reset_ := { s.reset_ with bootDone := true, image := [] } }.wr Ix.BootState 0 5
  (s.enterMode mode false).raise 0x6401 0 (packData [f8 s.reset_.reach, f8 s.reset_.source, f8 (s.rd Ix.BootSource 0)])

/-- The boot goes on as far as it can (R389): once an image is accepted and ARCH serves. -/
def State.bootContinue (s : State) : State :=
  if s.reset_.bootDone || s.inReset || s.reset_.image.isEmpty || s.rd Ix.BootState 0 != 4 || !s.domainOn 5 || !s.domainOn 2 then s
  else
    let s := if s.reset_.profileAt.isNone then s.bootPlace else s
    let x := State.profileRun (s.reset_.profile.length / 24 + 1) s
    if x.1 then x.2 else x.2.bootEnds

/-- Everything that waits for a domain, or for a page on the slow path, is taken up again: requests, and the boot. -/
def State.resumeWaiting (s : State) : State := s.pump.bootContinue

/-- A request arrives on its own: what it delivers may complete a download. -/
def State.take (s : State) (r : Request) : State := (s.arrive r).bootContinue

end Sys2Proof.Machine
end

