-- ==== Sys2Proof/Machine/Archive.lean ====
section
/-! DEFINITION. MEM accesses over the link, the slow path's end, the Mortar timeout, the scrubber (R14, R316, R317, R326, R327, R335, R336). -/
namespace Sys2Proof.Machine

/-! MEM responses (R316, R317, Table 13.6) -/

/-- The words of a MEM response. -/
def memResponse (op tag status addr bytes firstBad : Nat) (data : List Byte) : List Byte :=
  leBytes 1 0 ++ leBytes 1 status ++ leBytes 1 tag ++ leBytes 1 op ++ leBytes 8 (addr % 2 ^ 40) ++ leBytes 4 bytes ++ leBytes 4 firstBad
    ++ data

/-- A MEM response becomes ready, and is counted. -/
def State.memAnswer (s : State) (port status : Nat) (payload : List Byte) : State :=
  let s := s.bump Ix.MemRequests (port + 1)
  let s := if status = 0 then s else s.bump Ix.MemErrors (port + 1)
  s.sendNow port 9 s.pos payload

/-- Bytes of a response part: the larger packets the device and the far end take (R304, R316). -/
def State.memPart (s : State) (port : Nat) : Nat := (min 8198 (tget 8198 (port * 4 + 3) s.farLimits) - 5) * 4

/-- STATUS and FIRST_BAD of a part of a READ, and its words: nothing after an error response, poisoned words as zero (R317). -/
def memStatus (words : List WordRead) : Nat × Nat :=
  match words.zipIdx.find? (fun x => x.1.error) with
  | some x => (1, 4 * x.2)
  | none => match words.zipIdx.find? (fun x => x.1.poison) with
    | some x => (2, 4 * x.2)
    | none => (0, 0xFFFFFFFF)

/-- The data of a part of a READ. -/
def memData (words : List WordRead) : List Byte :=
  let good := words.takeWhile (fun w => !w.error)
  (good.flatMap (fun w => leBytes 4 (if w.poison then 0 else w.data))) ++ List.replicate (4 * (words.length - good.length)) 0

/-- The parts of a READ in address order; once an error has ended it the rest are zero. -/
def State.memParts (s : State) (m : MemRequest) (part : Nat) : Nat → Nat → Bool → List WordRead → State
  | 0, _, _, _ => s
  | n + 1, off, ended, words =>
    if words.isEmpty then s
    else
      let here := words.take (part / 4)
      let st := if ended then (1, 0) else memStatus here
      let data := if ended then List.replicate (4 * here.length) 0 else memData here
      let s := s.memAnswer m.port st.1 (memResponse 0x81 m.tag st.1 (m.addr + off) (4 * here.length) st.2 data)
      State.memParts s m part n (off + 4 * here.length) (ended || here.any (·.error)) (words.drop (part / 4))

/-- A READ: its words, the consumption of the poisoned ones, and its responses. -/
def State.memRead (s : State) (m : MemRequest) : State :=
  let r := s.readWords (.port m.port) (m.bytes / 4) m.addr
  let delivered := r.1.zipIdx.take ((r.1.takeWhile (fun w => !w.error)).length)
  let s := delivered.foldl (fun s x => if x.1.poison then s.consumePoison (m.addr + 4 * x.2) else s) r.2
  State.memParts s m (s.memPart m.port) (m.bytes / 4) 0 false r.1

/-- A WRITE, up to the failing word. -/
def State.memWrite (s : State) (m : MemRequest) : State :=
  let words := (splitWords (m.bytes / 4 + 1) m.addr (m.data.take m.bytes)).map (fun w => (w, false))
  let w := s.writeWords (.port m.port) m.addr words
  let s := w.2.codeFaults
  match w.1 with
  | some a => s.memAnswer m.port 1 (memResponse 0x82 m.tag 1 m.addr m.bytes (a - m.addr) [])
  | none => s.memAnswer m.port 0 (memResponse 0x82 m.tag 0 m.addr m.bytes 0xFFFFFFFF [])

/-- Does a MEM request ask for what R316 allows? -/
def memOk (m : MemRequest) : Bool :=
  m.addr % 4 == 0 && m.bytes % 4 == 0 && decide (4 ≤ m.bytes) && decide (m.bytes ≤ 65504) && (!m.write || decide (m.bytes ≤ m.data.length))

/-- The addresses of a request's words. -/
def memWords (m : MemRequest) : List Nat := (List.range (m.bytes / 4)).map (fun k => m.addr + 4 * k)

/-- A MEM request is performed, or waits for a domain or for a page on the slow path (R14, R316, R327). -/
def State.memTry (s : State) (m : MemRequest) : State :=
  let wait := fun (s : State) (m : MemRequest) => { s with link := { s.link with mems := s.link.mems ++ [m] } }
  if !memOk m then
    s.memAnswer m.port 3 (memResponse (if m.write then 0x82 else 0x81) m.tag 3 m.addr m.bytes 0xFFFFFFFF [])
  else
    let g := s.needDomains ((memWords m).filterMap accessDomain).eraseDups
    if !g.1 then wait g.2 m
    else
      let h := if m.write then (g.2.onSlowPath m.addr m.bytes, g.2) else g.2.slowHold m.addr m.bytes
      if h.1 then wait h.2 { m with heldAt := if m.heldAt.isSome then m.heldAt else some s.now }
      else if m.write then h.2.memWrite m else h.2.memRead m

/-- The MEM requests that wait are tried again, in order of arrival. -/
def State.memRetry (s : State) : State :=
  s.link.mems.foldl State.memTry { s with link := { s.link with mems := [] } }

/-- What waits for a domain or a page goes on. -/
def State.goOn (s : State) : State := s.memRetry.resumeWaiting

/-! The slow path and the Mortar timeout -/

/-- SLOW_PATH_DONE (R326, R327): the decode of a page ends, and what was held goes on. -/
def State.slowPathDone (s : State) (page : Nat) : State :=
  if s.mem.slow.any (fun p => p.page == page) then
    let s := { s with mem := { s.mem with slow := s.mem.slow.filter (fun p => p.page != page) } }
    (s.decodePage page).goOn
  else s

/-- MORTAR_TIMEOUT (R14, R327): an access completes with an error response. A MEM request that the slow path holds does so once it has
been held for 8 µs. The count starts only when the target's domain is ready. -/
def State.mortarTimeout (s : State) (a : MortarAccess) : State :=
  match a with
  | .mem i =>
    match s.link.mems[i]? with
    | some m =>
      match m.heldAt with
      | some t =>
        if s.elapsed t (usec 8) then
          let s := { s with link := { s.link with mems := s.link.mems.eraseIdx i } }
          if m.write then s.memAnswer m.port 1 (memResponse 0x82 m.tag 1 m.addr m.bytes 0 [])
          else State.memParts s m (s.memPart m.port) (m.bytes / 4) 0 false (List.replicate (m.bytes / 4) ⟨0, true, true⟩)
        else s
      | none => s
    | none => s
  | .xfer m i =>
    match (s.core m).xfers[i]? with
    | some x =>
      match accessDomain x.addr with
      | some d => if s.domainOn d then s.xferEnds m i x true else s
      | none => s.xferEnds m i x true
    | none => s
  | .burst n i =>
    let c := s.chan n
    match c.outstanding[i]? with
    | some p => s.setChan n { c with outstanding := c.outstanding.set i { p with error := true } }
    | none => s
  | .fetch n => s.descriptorFetch n true

/-! The scrubber (R335, R336) -/

/-- Is a page journalled under a lock? -/
def State.pageJournalled (s : State) (page : Nat) : Bool := s.mem.journals.any (fun j => j.pages.contains page)

/-- Is the next page due: 2,097,152 pages spread evenly over `ScrubPeriod` seconds? -/
def State.scrubDue (s : State) : Bool :=
  s.domainOn 5 && !s.power.archHeld && s.rd Ix.ScrubPeriod 0 != 0
    && decide (s.rd Ix.ScrubPeriod 0 * 3072000000000 ≤ (s.now - s.mem.scrubTime) * 2097152)

/-- A page is read, and the errors it gave are added to those of the pass. -/
def State.scrubOne (s : State) (page : Nat) : State :=
  let t := s.scrubRead page
  { t with mem := { t.mem with
      scrubCorrected := t.mem.scrubCorrected + (t.rd Ix.EccCorrected 1 + 2 ^ 32 - s.rd Ix.EccCorrected 1) % 2 ^ 32,
      scrubBad := t.mem.scrubBad + (t.rd Ix.EccUncorrectable 1 + 2 ^ 32 - s.rd Ix.EccUncorrectable 1) % 2 ^ 32 } }

/-- The end of a pass. -/
def State.scrubPass (s : State) : State :=
  let c := s.mem.scrubCorrected
  let b := s.mem.scrubBad
  ({ s with mem := { s.mem with scrubAt := 0, scrubCorrected := 0, scrubBad := 0 } }.bump Ix.ScrubPasses 0).raise 0x5403 0
    (packData [fCount c, fCount b])

/-- SCRUB_PAGE (R335): pages passed over under a lock that has ended, then the next page; after the last one the pass ends. -/
def State.scrubPage (s : State) : State :=
  if !s.scrubDue then s
  else
    let s := { s with mem := { s.mem with scrubTime := s.now } }
    let free := s.mem.scrubSkipped.filter (fun p => !s.pageJournalled p)
    let s := { s with mem := { s.mem with scrubSkipped := s.mem.scrubSkipped.filter s.pageJournalled } }
    let s := free.foldl State.scrubOne s
    let page := s.mem.scrubAt
    let s := if s.pageJournalled page then { s with mem := { s.mem with scrubSkipped := s.mem.scrubSkipped ++ [page] } }
      else s.scrubOne page
    if 2097151 ≤ page then s.scrubPass else { s with mem := { s.mem with scrubAt := page + 1 } }

end Sys2Proof.Machine
end

