-- ==== Sys2Proof/Machine/LinkPkt.lean ====
section
/-! DEFINITION. The packet stream: reception, routing, credits, TIME packets, array commits, transmission (R297 to R319). -/
namespace Sys2Proof.Machine

/-! Types, classes, tags (R298 to R301) -/

/-- The class of a type (Table 13.2). -/
def packetClass (typ : Nat) : Nat :=
  if typ = 4 then 1 else if typ = 5 ∨ typ = 6 ∨ typ = 7 then 2 else if typ = 9 ∨ typ = 10 then 3 else 0

/-- The largest LENGTH of a class at the device's receivers (Table 13.3). -/
def classLimit (c : Nat) : Nat := if c = 0 then 4094 else if c = 2 then 8198 else 16383

/-- The buffer units of a class (Table 13.3). -/
def classUnits (c : Nat) : Nat := if c = 3 then 2048 else 1024

/-- The units that a packet of some payload words consumes (R300). -/
def packetUnits (words : Nat) : Nat := ceilDiv (words + 2) 64

/-- An ETAG completed with the era that puts its epoch nearest to the device's own (R298). -/
def State.completeTag (s : State) (etag : Nat) : Nat :=
  let low := etag % 2 ^ 32
  let d := (low + 2 ^ 32 - s.epoch % 2 ^ 32) % 2 ^ 32
  if d < 2 ^ 31 then (s.epoch + d) % 2 ^ 36 else (s.epoch + 2 ^ 36 + d - 2 ^ 32) % 2 ^ 36

/-- Does a completed tag name an epoch of the numerology in force (R298)? -/
def State.tagOk (s : State) (e : Nat) : Bool := decide (epSlot e < slotsPerFrame (s.rd Ix.Numerology 0)) && decide (epSym e ≤ 13)

/-- Is the ETAG of a type used? -/
def usesTag (typ : Nat) : Bool := typ == 1 || typ == 2 || typ == 3 || typ == 4 || typ == 8

/-- Units that a received packet has freed are to be returned (R302). -/
def State.owe (s : State) (p c n : Nat) : State :=
  if c = 0 then s
  else
    let v := s.port p
    s.setPort p { v with owed := tput 0 c (tget 0 c v.owed + n) v.owed }

/-- The SEQ of a received packet (R298): gaps are counted, SEQ_GAP at most once per millisecond per port. -/
def State.noteSeq (s : State) (p seq : Nat) : State :=
  let v := s.port p
  let gap := (seq + 512 - v.rxSeq - 1) % 256
  let s := s.setPort p { v with rxSeq := seq % 256 }
  if gap = 0 then s
  else
    let s := s.addCount Ix.LinkSeqGaps (p + 1) gap
    let v := s.port p
    let due := match v.gapAt with
      | some t => s.elapsed t (msec 1)
      | none => true
    if due then
      (s.setPort p { v with gapAt := some s.now, gapCount := 0 }).raise 0x5009 (p + 1) (packData [f8 p, fCount (v.gapCount + gap)])
    else s.setPort p { v with gapCount := v.gapCount + gap }

/-- A packet above its class's limit is dropped (R301). -/
def State.lenDrop (s : State) (p typ words : Nat) : State :=
  let s := (s.bump Ix.LenDrops (p + 1)).owe p (packetClass typ) (packetUnits words)
  let v := s.port p
  let due := match v.lenAt with
    | some t => s.elapsed t (msec 1)
    | none => true
  if due then
    (s.setPort p { v with lenAt := some s.now }).raise 0x500A (p + 1) (packData [f8 p, f8 typ, f16 words])
  else s

def State.misroute (s : State) (p : Nat) : State := s.bump Ix.LinkMisrouted (p + 1)

/-- A packet goes on out of the other port, unchanged but for SEQ, where that port is ACTIVE. -/
def State.passOn (s : State) (out : Nat) (k : OutPacket) : State := if s.portActive out then s.sendPacket out k else s

/-! Link delay (R313) -/

/-- Does the far end of a port answer ECHO_REQ (FEATURES [0] of its CAPS message)? -/
def State.farAnswers (s : State) (p : Nat) : Bool := bitAt (s.domField Ix.LinkFarCaps (p + 1) 44 1) 0

/-- A TIME packet's payload of a kind and its further words. -/
def timePayload (kind low : Nat) (words : List Nat) : List Byte := leBytes 4 (kind * 2 ^ 24 + low) ++ words.flatMap (leBytes 4)

/-- ECHO_REQ received (R313): it is answered on its port. -/
def State.echoReq (s : State) (p id : Nat) : State :=
  let s := s.setPort p { s.port p with echoIn := (s.port p).echoIn ++ [(id, s.now)] }
  s.sendNow p 8 s.pos (timePayload 3 0 [id, 0])

/-- The mean of the last measurements, in whole ps. -/
def meanDelay (l : List Int) : Int := if l.isEmpty then 0 else l.sum / (l.length : Int)

/-- ECHO_RSP received (R313): one measurement of the delay. -/
def State.echoRsp (s : State) (p id turn : Nat) : State :=
  let v := s.port p
  if v.echoOut = some id then
    let rt := unitsPs (((s.now - v.echoSentAt : Nat)) : Int)
    let d := (rt - (turn : Int)) / 2 + s.rdI 32 Ix.LinkDelayAdjust (p + 1)
    let l := ((v.delays ++ [d]).reverse.take 8).reverse
    let s := s.setPort p { v with echoOut := none, echoMissed := 0, echoDown := false, delays := l }
    let s := s.wrI 32 Ix.LinkDelay (p + 1) (meanDelay l)
    if v.echoDown then s.raise 0x500C (p + 1) (packData [f8 p, fFlag false]) else s
  else s

/-- ECHO_INTERVAL (R313): a request leaves PORT-N; a third one unanswered is reported. A far end that does not answer gets none, and
`LinkDelayAdjust` is the delay. -/
def State.echoInterval (s : State) : State :=
  let v := s.port 0
  if !s.portActive 0 || !s.elapsed v.echoAt (msec (s.rd Ix.EchoInterval 0)) then s
  else if !s.farAnswers 0 then
    (s.setPort 0 { v with echoAt := s.now }).wrI 32 Ix.LinkDelay 1 (s.rdI 32 Ix.LinkDelayAdjust 1)
  else
    let missed := if v.echoOut.isSome then v.echoMissed + 1 else 0
    let down := v.echoDown || decide (3 ≤ missed)
    let id := (v.echoId + 1) % 2 ^ 32
    let s := s.setPort 0 { v with echoId := id, echoOut := some id, echoSentAt := s.now, echoAt := s.now, echoMissed := missed,
                                  echoDown := down }
    let s := if down && !v.echoDown then s.raise 0x500C 1 (packData [f8 0, fFlag true]) else s
    s.sendNow 0 8 s.pos (timePayload 2 0 [id])

/-! FRAME (R312) -/

/-- FRAME received: the reference of R50 under `TimeSource` 0x00, once a delay is known. -/
def State.frameIn (s : State) (p epoch offset : Nat) : State :=
  let known := !(s.port p).delays.isEmpty || !s.farAnswers p
  if p = 0 ∧ s.rd Ix.TimeSource 0 = 0 ∧ known then
    let d := if s.farAnswers p then s.rdI 32 Ix.LinkDelay (p + 1) else s.rdI 32 Ix.LinkDelayAdjust (p + 1)
    s.timeRef true (frameOf epoch) ((s.now : Int) + psUnits ((offset : Int) - d))
  else s

/-- FRAME_MARKER_SEND (R312): 200 µs before each frame, out of PORT-S, while locked or in holdover. -/
def State.frameMarker (s : State) : State :=
  let lock := s.rd Ix.TimeLockState 0
  let f := (frameOf s.epoch + 1) % 67108864
  let start := s.tickOf (frameStart f)
  if s.portActive 1 ∧ (lock = 2 ∨ lock = 3) ∧ s.tb.running ∧ start ≤ s.now + usec 200 ∧ s.now < start ∧ s.link.frameSentFor ≠ some f then
    let offset := (unitsPs ((start - s.now : Nat) : Int)).toNat
    { s with link := { s.link with frameSentFor := some f } }.sendPacket 1
      { typ := 8, pos := s.pos, etag := frameStart f % 2 ^ 32, payload := timePayload 1 (b2n (lock == 3)) [offset] }
  else s

/-! Array commits (R44, R314) -/

/-- The array commits whose decision has not come. -/
def State.undecided (s : State) : List SealedCommit := s.host.commits.filter (fun c => c.array && !c.armed)

/-- The report held for a position of the commit with an original target. -/
def State.reportOf (s : State) (target pos : Nat) : Option ReadyReport :=
  s.link.reports.find? (fun r => r.target == target && r.pos == pos)

/-- Keep a position's report. -/
def State.keepReport (s : State) (r : ReadyReport) : State :=
  { s with link := { s.link with reports := s.link.reports.filter (fun x => !(x.target == r.target && x.pos == r.pos)) ++ [r] } }

/-- READY received (R314): the head keeps it, another device sends it on north. -/
def State.readyIn (s : State) (target pos : Nat) (ready : Bool) (k : OutPacket) : State :=
  if s.pos = 0 then s.keepReport ⟨target, pos, ready, s.now⟩ else s.passOn 0 k

/-- READY_REPORT (R314): from 550 µs before the target, each change of a commit's readiness is reported north until a decision comes. -/
def State.readyReport (s : State) : State :=
  if s.pos = 0 then s
  else s.undecided.foldl (fun s c =>
    let ready := (s.commitFault c).isNone
    let said := (s.reportOf c.original s.pos).map (·.ready)
    if s.tickOf c.target ≤ s.now + usec 550 ∧ said ≠ some ready then
      (s.keepReport ⟨c.original, s.pos, ready, s.now⟩).sendPacket 0
        { typ := 8, pos := s.pos, etag := c.original % 2 ^ 32, payload := timePayload 4 0 [b2n ready] }
    else s) s

/-- A decision takes effect on this device (R44): GO with the epoch at which the commit applies, or DEFER. -/
def State.applyDecision (s : State) (original : Nat) (go : Bool) (epoch : Nat) : State :=
  s.mapCommits (fun c => c.array && c.original == original && !c.armed) (fun s c =>
    if go then ({ c with target := epoch, armed := true, decided := true, deferred := decide (epoch ≠ c.original) }, s)
    else if c.missed then (c, s)
    else ({ c with missed := true, deferred := true }, s.commitMissed c.target 1))

/-- The DECISION packet of a commit. -/
def decisionPacket (original : Nat) (go : Bool) (epoch : Nat) : OutPacket :=
  let e := if go then epochEntry epoch else 0
  { typ := 8, pos := 0, etag := original % 2 ^ 32, payload := timePayload 5 0 [if go then 1 else 2, e % 2 ^ 32, e / 2 ^ 32] }

/-- DECISION received (R314): sent on south, then applied. -/
def State.decisionIn (s : State) (original : Nat) (go : Bool) (epoch : Nat) (k : OutPacket) : State :=
  (s.passOn 1 k).applyDecision original go epoch

/-- The head's decision goes south, then takes effect on itself. -/
def State.sendDecision (s : State) (c : SealedCommit) (go : Bool) (epoch : Nat) : State :=
  (s.passOn 1 (decisionPacket c.original go epoch)).applyDecision c.original go epoch

/-- The first candidate epoch of a commit at or after an epoch. -/
def State.candidateFrom (s : State) (c : SealedCommit) (e : Nat) : Nat :=
  if carries c.items Ix.Numerology 0 then (if isFrameStart e then e else s.candidateAfter c e)
  else if carriesAny c.items slotStartEntries then (if isSlotStart e then e else s.nextSlotStart e)
  else e

/-- The head judges one of its array commits: GO or DEFER 500 µs before the target, and after a DEFER a new target once every position
reports ready (R44, R314). -/
def State.judgeArray (s : State) (c : SealedCommit) : State :=
  let own := (s.commitFault c).isNone
  let s := if (s.reportOf c.original 0).map (·.ready) = some own then s else s.keepReport ⟨c.original, 0, own, s.now⟩
  let reports := (List.range s.arrayN).map (fun p => s.reportOf c.original p)
  let all := reports.all (fun r => match r with
    | some r => r.ready
    | none => false)
  if !c.missed then
    if s.tickOf c.target ≤ s.now + usec 500 then s.sendDecision c all c.target else s
  else if all then
    let last := reports.foldl (fun t r => match r with
      | some r => max t r.at_
      | none => t) 0
    let wait := last + usec 500 - s.now
    let e := s.candidateFrom c (s.earliestAfter wait)
    if s.withinDefer c e then s.sendDecision c true e else s
  else s

/-- COMMIT_DECISION (R44). -/
def State.commitDecision (s : State) : State := if s.pos = 0 then s.undecided.foldl State.judgeArray s else s

/-- NO_DECISION (R44): a chained device withholds a commit whose target has come without a decision, and enters Safe Hold. -/
def State.noDecision (s : State) : State :=
  let late := fun (c : SealedCommit) => c.array && !c.armed && !c.missed && epLe c.target s.epoch
  if s.pos ≠ 0 ∧ s.host.commits.any late then
    (s.mapCommits late (fun s c => ({ c with missed := true }, s.commitMissed c.target 2))).causeActive 3
  else s

/-- The ARRAY cause of Safe Hold clears once PORT-N is ACTIVE and the time base locked (Table 19.2). -/
def State.judgeArrayCause (s : State) : State :=
  if s.rdBit Ix.SafeHoldCauses 0 3 ∧ s.portActive 0 ∧ s.rd Ix.TimeLockState 0 = 2 then s.causeCleared 3 else s

/-! Credits (R302, R303) -/

/-- A CREDIT packet of the device. -/
def State.credit (s : State) (p kind c1 c2 c3 : Nat) : State :=
  s.sendPacket p (creditPacket s.pos (s.epoch % 2 ^ 32) kind c1 c2 c3)

/-- RETURN received: units come back to the sender's credit. -/
def State.creditReturn (s : State) (p : Nat) (u : CreditUnits) : State :=
  let v := s.port p
  let add := fun (c n : Nat) (t : Tab Nat) => tput 0 c (tget 0 c t + n) t
  s.setPort p { v with credit := add 1 u.c1 (add 2 u.c2 (add 3 u.c3 v.credit)) }

/-- A resynchronisation is counted and reported (R303). -/
def State.countResync (s : State) (p : Nat) : State :=
  let s := s.bump Ix.CreditResyncs (p + 1)
  s.raise 0x500D (p + 1) (packData [f8 p, fCount (s.rd Ix.CreditResyncs (p + 1))])

/-- RESYNC_REQ received: no further credited packet starts, and the ACK goes out. -/
def State.resyncReq (s : State) (p : Nat) : State := (s.setPort p { s.port p with held := true }).credit p 2 0 0 0

/-- RESYNC_ACK received: the free space goes out, units still owed with it. -/
def State.resyncAck (s : State) (p : Nat) : State :=
  let s := s.setPort p { s.port p with waitAck := none, owed := [] }
  (s.countResync p).credit p 3 (classUnits 1) (classUnits 2) (classUnits 3)

/-- RESYNC_DONE received: the credits are replaced, and credited traffic resumes. -/
def State.resyncDone (s : State) (p : Nat) (u : CreditUnits) : State :=
  let credit : Tab Nat := [(1, u.c1), (2, u.c2), (3, u.c3)]
  (s.setPort p { s.port p with credit := credit, held := false }).countResync p

/-- RESYNC_RETRY: no ACK 10 µs after a request. -/
def State.resyncRetry (s : State) (p : Nat) : State :=
  match (s.port p).waitAck with
  | some t => if s.portActive p ∧ s.elapsed t (usec 10) then s.askResync p else s
  | none => s

/-- CREDIT_RETURN_SEND (R302). -/
def State.creditReturnSend (s : State) (p : Nat) : State :=
  let v := s.port p
  if s.portActive p ∧ v.owed.any (fun c => c.2 != 0) then
    (s.setPort p { v with owed := [] }).credit p 0 (tget 0 1 v.owed) (tget 0 2 v.owed) (tget 0 3 v.owed)
  else s

/-! Routing (R299) -/

/-- A Catalogue response as its bytes spell it. -/
def parseResponse (port : Nat) (l : List Byte) : Response :=
  let ctrl := fieldLE l 2 1
  { port := port, op := fieldLE l 0 1 % 128, tag := fieldLE l 1 1, pos := bitsOf ctrl 7 6, stale := bitAt ctrl 5, asap := bitAt ctrl 4,
    dup := bitAt ctrl 3, status := fieldLE l 3 1, index := fieldLE l 4 2, sub := fieldLE l 6 1, aux := fieldLE l 12 4,
    epoch := fieldLE l 16 8, data := sliceBytes l 24 (min (fieldLE l 8 4) l.length) }

/-- CAT_REQ on PORT-N (R75, R299): for this device, for one further south, or misrouted. -/
def State.catReqIn (s : State) (p : Nat) (k : OutPacket) : State :=
  if p ≠ 0 then s.misroute p
  else if k.pos = s.pos then s.take (parseRequest 0 k.payload)
  else if s.pos = 0 then s.take (parseRequest 0 k.payload)
  else if s.pos < k.pos then s.passOn 1 k
  else s.misroute p

/-- CAT_RSP from the south (R71, R75): the entry point gives it to the port its request came on, or drops it as late. -/
def State.catRspIn (s : State) (p : Nat) (k : OutPacket) : State :=
  if p = 0 then s.misroute p
  else if s.pos ≠ 0 then s.passOn 0 k
  else
    let x := parseResponse 1 k.payload
    match s.host.forwarded.find? (fun f => f.request.tag == x.tag && f.request.pos == k.pos) with
    | none => s
    | some f =>
      let s := { s with host := { s.host with forwarded := s.host.forwarded.erase f } }
      if f.request.port = 1 then State.pump { s with host := { s.host with responses := s.host.responses ++ [x] } }
      else s.passOn 0 k

/-- A packet that only goes north (R299). -/
def State.northIn (s : State) (p : Nat) (k : OutPacket) : State := if p = 1 then s.passOn 0 k else s.misroute p

/-- MEM (R299, R316): a request for this device, one for further south, or a response from the south. -/
def State.memIn (s : State) (p : Nat) (k : OutPacket) : State :=
  let op := fieldLE k.payload 3 1
  if op = 1 ∨ op = 2 then
    if k.pos = s.pos then
      s.memTry { port := p, tag := fieldLE k.payload 2 1, write := op == 2, addr := fieldLE k.payload 4 5, bytes := fieldLE k.payload 12 4,
                 data := k.payload.drop 16 }
    else if p = 0 ∧ s.pos < k.pos then s.passOn 1 k
    else s.misroute p
  else s.northIn p k

/-- TIME (Table 13.5) with its completed ETAG. -/
def State.timeIn (s : State) (p e : Nat) (k : OutPacket) : State :=
  let w (i : Nat) : Nat := fieldLE k.payload (4 * i) 4
  match w 0 / 2 ^ 24 with
  | 1 => if p = 0 then (s.passOn 1 k).frameIn 0 e (w 1) else s.misroute p
  | 2 => s.echoReq p (w 1)
  | 3 => s.echoRsp p (w 1) (w 2)
  | 4 => if p = 1 then s.readyIn e k.pos (bitAt (w 1) 0) k else s.misroute p
  | 5 => if p = 0 then s.decisionIn e (w 1 % 256 == 1) (epochOfEntry (w 2 + w 3 * 2 ^ 32)) k else s.misroute p
  | _ => s

/-- CREDIT (R302). -/
def State.creditIn (s : State) (p : Nat) (k : OutPacket) : State :=
  let u : CreditUnits := ⟨fieldLE k.payload 4 2, fieldLE k.payload 6 2, fieldLE k.payload 8 2⟩
  match bitsOf (fieldLE k.payload 0 4) 31 30 with
  | 0 => s.creditReturn p u
  | 1 => s.resyncReq p
  | 2 => s.resyncAck p
  | _ => s.resyncDone p u

/-- A packet of a used type is routed (R299). -/
def State.route (s : State) (p e : Nat) (k : OutPacket) : State :=
  match k.typ with
  | 1 => if p = 0 then (s.passOn 1 k).takeLayerDl e k.payload else s.misroute p
  | 2 => if p = 1 then s.takePartial false e k.pos k.payload else s.misroute p
  | 3 => if p = 1 then s.takePartial true e k.pos k.payload else s.misroute p
  | 4 => s.takeGram p k.payload
  | 5 => s.catReqIn p k
  | 6 => s.catRspIn p k
  | 7 => s.northIn p k
  | 8 => s.timeIn p e k
  | 9 => s.memIn p k
  | 10 => s.northIn p k
  | _ => s.creditIn p k

/-- A packet is received on a port (R297 to R302). -/
def State.packetIn (s : State) (p seq : Nat) (k : OutPacket) : State :=
  if !s.portActive p then s
  else
    let words := ceilDiv k.payload.length 4
    let s := s.noteSeq p seq
    let e := s.completeTag k.etag
    let c := packetClass k.typ
    if 12 ≤ k.typ then s.bump Ix.LinkTypeDrops (p + 1)
    else if classLimit c < words then s.lenDrop p k.typ words
    else if usesTag k.typ && !s.tagOk e then (s.bump Ix.LinkEtagDrops (p + 1)).owe p c (packetUnits words)
    else
      let t := s.owe p c (packetUnits words)
      t.route p e k

/-- A packet of a type and payload under a head (Table 13.1). -/
def State.headIn (s : State) (h : PacketHead) (typ : Nat) (payload : List Byte) : State :=
  s.packetIn h.port h.seq { typ := typ, pos := h.pos % 4, etag := h.etag, payload := payload }

/-! The stream as words (R287, R288, R297) -/

/-- Words of a port's stream become packets, as far as they are whole. -/
def State.feed : Nat → Nat → State → State
  | 0, _, s => s
  | n + 1, p, s =>
    let v := s.port p
    match v.words with
    | [] => s
    | w0 :: rest =>
      if w0 = 0 then State.feed n p (s.setPort p { v with words := rest })
      else if w0 / 2 ^ 28 % 16 = 0 then (s.bump Ix.LinkFramingErrors (p + 1)).loseWords p
      else
        let len := bitsOf w0 25 12
        match rest with
        | [] => s
        | w1 :: body =>
          if body.length < len then s
          else
            let k : OutPacket := { typ := w0 / 2 ^ 28 % 16, pos := bitsOf w0 27 26, etag := w1,
                                   payload := (body.take len).flatMap (leBytes 4) }
            State.feed n p ((s.setPort p { v with words := body.drop len }).packetIn p (bitsOf w0 11 4) k)

/-- The words of a data bond (R288): after a loss, from the next bond with ALIGN on. -/
def State.dataBond (s : State) (p : Nat) (align : Bool) (words : List Nat) : State :=
  let v := s.port p
  if v.discarding && !align then s
  else
    let kept := if v.discarding then [] else v.words
    let all := kept ++ words
    State.feed (all.length + 1) p (s.setPort p { v with discarding := false, words := all })

/-- A control message is received (R290). -/
def State.controlIn (s : State) (p : Nat) (m : List Byte) : State :=
  if fieldLE m 1 1 ≠ 1 then s
  else match fieldLE m 0 1 with
    | 1 => s.lockIn p (bitAt (fieldLE m 2 1) 0) 0 []
    | 2 => s.capsIn p m
    | 3 => s.chainIn p (fieldLE m 4 1)
    | _ => s

/-- BOND (R285 to R290). -/
def State.bondIn (s : State) (p : Nat) (lanes : List LaneBits) : State :=
  let r := s.receiveBond p lanes
  match r.1 with
  | .nothing => r.2
  | .control m => r.2.controlIn p m
  | .data align words => r.2.dataBond p align words

/-! Transmission (R287, R304) -/

/-- The precedence of a type (R304), lowest first. -/
def precedence (typ : Nat) : Nat :=
  match typ with
  | 11 => 0
  | 8 => 1
  | 1 => 2
  | 2 | 3 => 3
  | 5 | 6 | 7 => 4
  | 4 => 5
  | 9 => 6
  | _ => 7

/-- Is a packet above what the device, or the far end, takes (R304)? -/
def State.tooLarge (s : State) (p : Nat) (k : OutPacket) : Bool :=
  let words := ceilDiv k.payload.length 4
  let c := packetClass k.typ
  decide (8198 < words) || (c != 0 && decide (tget 0 (p * 4 + c) s.farLimits < words))

/-- Has a packet the credit it needs (R302, R303)? -/
def State.mayStart (s : State) (p : Nat) (k : OutPacket) : Bool :=
  let v := s.port p
  let c := packetClass k.typ
  c == 0 || (!v.held && decide (packetUnits (ceilDiv k.payload.length 4) ≤ tget 0 c v.credit))

/-- The packet that starts next: of those that may, the first of the highest precedence. -/
def State.nextPacket (s : State) (p : Nat) (l : List OutPacket) : Option OutPacket :=
  (List.range 8).findSome? (fun k => l.find? (fun x => precedence x.typ == k && s.mayStart p x))

/-- What a packet carries once it starts: an ECHO_RSP the time since its request (R313). -/
def State.stamped (s : State) (p : Nat) (k : OutPacket) : OutPacket :=
  if k.typ = 8 ∧ fieldLE k.payload 3 1 = 3 then
    match (s.port p).echoIn.find? (fun x => x.1 == fieldLE k.payload 4 4) with
    | some x => { k with payload := k.payload.take 8 ++ leBytes 4 ((unitsPs ((s.now - x.2 : Nat) : Int)).toNat) }
    | none => k
  else k

/-- What the port notes of a TIME packet that starts: an answer given, the instant of a request. -/
def State.noteStart (s : State) (p : Nat) (k : OutPacket) : State :=
  let v := s.port p
  if k.typ ≠ 8 then s
  else if fieldLE k.payload 3 1 = 3 then
    s.setPort p { v with echoIn := v.echoIn.filter (fun x => x.1 != fieldLE k.payload 4 4) }
  else if fieldLE k.payload 3 1 = 2 then s.setPort p { v with echoSentAt := s.now }
  else s

/-- PACKET_SEND (R298, R302, R304): the ready packet of highest precedence that has credit starts; one too large for the device or the far
end is never sent (log entry 34). -/
def State.packetSend (s : State) (p : Nat) : State :=
  if !s.portActive p then s
  else
    let all := (tget [] p s.link.ready).filter (fun k => !s.tooLarge p k)
    let s := { s with link := { s.link with ready := tins p all s.link.ready } }
    match s.nextPacket p all with
    | none => s
    | some k =>
      let s := { s with link := { s.link with ready := tins p (all.erase k) s.link.ready } }
      let out := s.stamped p k
      let s := s.noteStart p k
      let v := s.port p
      let c := packetClass k.typ
      let credit := if c = 0 then v.credit else tput 0 c (tget 0 c v.credit - packetUnits (ceilDiv k.payload.length 4)) v.credit
      s.setPort p { v with credit := credit, txSeq := (v.txSeq + 1) % 256, sent := v.sent ++ [(v.txSeq, out)], alignFill := false }

/-- ALIGN_FORCE (R287): fill words follow the packet in progress up to the end of the bond. -/
def State.alignForce (s : State) (p : Nat) : State := if s.portActive p then s.setPort p { s.port p with alignFill := true } else s

/-- EVENT_SEND (R83): the oldest record leaves north. -/
def State.eventSend (s : State) : State :=
  match s.ev.queue with
  | r :: _ => if s.rd Ix.EventRoute 0 = 1 ∧ s.portActive 0 then (s.sendNow 0 7 s.pos (eventBytes r)).dropEvents 1 else s
  | [] => s

/-- The bytes of a port's CAPTURE chunk. -/
def State.chunkBytes (s : State) (p : Nat) : Nat := 4 * s.rd Ix.CaptureChunk (p + 1)

/-- A chunk is free again, and has been sent once more. -/
def State.chunkFreed (s : State) (p chunk : Nat) : State :=
  let v := s.port p
  { s.setPort p { v with captured := tput 0 chunk (tget 0 chunk v.captured + 1) v.captured } with
    captureReady := s.captureReady.erase (p, chunk) }

/-- CAPTURE_SEND (R319): the oldest filled chunk, or in its place a MEM error packet where a word of it is poisoned. -/
def State.captureSend (s : State) (p : Nat) : State :=
  match s.captureReady.find? (fun c => c.1 == p) with
  | none => s
  | some (_, chunk) =>
    if !s.portActive p then s
    else
      let n := s.chunkBytes p
      let a := captureRingBase p + chunk * n
      let s := s.settle a n
      match s.firstPoison a n with
      | some w =>
        (((s.consumePoison w).sendNow p 9 s.pos (memResponse 0x83 0 2 a n (w - a) []))).chunkFreed p chunk
      | none =>
        let k := tget 0 chunk (s.port p).captured * (0x100000 / n) + chunk
        (s.sendNow p 10 s.pos (leBytes 2 k ++ leBytes 2 (s.rd Ix.CaptureStream (p + 1)) ++ s.bytesAt a n)).chunkFreed p chunk

end Sys2Proof.Machine
end

