-- ==== Sys2Proof/Machine/Tick.lean ====
section
/-! DEFINITION. The symbol tick: a new epoch begins, with everything that happens per symbol, at slot boundaries and at frame starts
(R33 and the rules of the units). -/
namespace Sys2Proof.Machine

/-! The symbol that ends -/

/-- The fine offset loop of a path takes its estimate (R89): it runs while its course is in RX and RXENp is low, and its estimate is limited
to ±32 LSB of the 12-bit ADC, shown in Q15 of full scale. -/
def State.dcLoop (s : State) (x : Nat × Int × Int) : State :=
  let p := x.1
  if !s.rdB Ix.RxDcTrackEnable 0 || s.courseState (courseOf p) != 2 || s.rxEn p || s.calHolds p then s
  else
    let i := clampInt (-32) 32 x.2.1
    let q := clampInt (-32) 32 x.2.2
    let v := s.path p
    let since := if i.natAbs = 32 ∨ q.natAbs = 32 then some (v.dcLimitSince.getD s.now) else none
    (s.setPath p { v with dcLimitSince := since }).wr Ix.RxDcResidual (p + 1) (ofInt 16 (16 * i) + 65536 * ofInt 16 (16 * q))

/-- A new epoch begins at the instant of its tick (R33). -/
def State.beginEpoch (s : State) : State :=
  let at_ := s.nextTickAt
  { s with now := at_, epoch := s.nextEpoch s.epoch, tb := { s.tb with tickAt := at_ } }

/-- Does a path receive in a symbol? -/
def State.receives (s : State) (p e : Nat) : Bool := s.rxSymbol (courseOf p) e && !s.rxHeldOff p

/-- What the ADC of a path shows for a received symbol (R418): one code throughout, or full-scale codes in every sample of 14 consecutive
received symbols. -/
def State.judgeAdc (s : State) (x : TickInput) (p : Nat) : State :=
  let full := if x.fullAdc.contains p then (s.path p).fullSymbols + 1 else 0
  let s := s.setPath p { s.path p with fullSymbols := full % 14 }
  if full = 14 ∨ x.stuckAdc.contains p then s.detectFault p 2 else s

/-- A received symbol's level and normalisation (R87, R88). -/
def State.measurePaths (s : State) (x : TickInput) (e : Nat) : State :=
  let s := (x.levels.filter (fun l => s.receives l.1 e)).foldl (fun s l =>
    s.agcMeasure l.1 l.2.1 l.2.2 (s.flexSymbol (courseOf l.1) e)) s
  let s := (x.normSat.filter (fun n => s.receives n.1 e)).foldl (fun s n => s.addCount Ix.RxSatCount (n.1 + 1) n.2) s
  (allPaths.filter (fun p => s.receives p e)).foldl (fun s p => s.judgeAdc x p) s

/-- May a symbol of a course count as late or lost for its LO (R92, R109): the course is in service and not left without an LO? -/
def State.loCounts (s : State) (c : Nat) : Bool :=
  s.loSource c != 0xFF && !s.rdB Ix.PowerHold (c + 1) && !(s.course c).held

/-- Receive symbols during which an LO was unlocked are counted (R109). -/
def State.countLost (s : State) (e : Nat) : State :=
  [0, 1, 2, 3].foldl (fun s c =>
    if s.rxSymbol c e && s.loCounts c && (!s.loLocked c || (s.course c).lostNow || (s.course c).recal) then s.bump Ix.RxLostSymbols (c + 1)
    else s) s

/-- The uplink symbol that has ended is processed with the configuration that governed it (R17, R88, R131, R145, R194, R202). -/
def State.uplinkEnds (s : State) (x : TickInput) (e : Nat) : State :=
  let s := (s.measurePaths x e).cancelClips e (x.levels.map (fun l => (l.1, l.2.2)))
  let s := (s.countLost e).ulPass e x.rx
  (s.soundingTick e x.rx).quietTick e x.rx

/-- The downlink symbol that has ended: its Lineariser outputs, saturations and canceller references (R165, R170, R191). -/
def State.downlinkEnds (s : State) (x : TickInput) (e : Nat) : State :=
  (s.linPass (x.runs.filter (fun r => s.txSymbol (courseOf r.1) e && !s.heldOff r.1))).cancelPass e

/-! The configuration of the new epoch -/

/-- Modes and commits come into force (R27, R29, R42, R43, R365), and the folios in service follow (R138). -/
def State.configAtTick (s : State) : State :=
  let prevUl := s.rd Ix.UlFolioSelect 0
  let s := s.enterSafeHold.standbyAtTick.modeAtTick.commitsAtTick
  s.serveFolios (s.airAt (s.nextEpoch s.epoch)) prevUl

/-- Loops' and runs' results whose epoch it is come into force (R179, R203, R247), and bias ranges that have been held (R406). -/
def State.loopsAtTick (s : State) : State :=
  let s := allPaths.foldl State.linAtTick s
  s.trackAtTick.calDue.biasRangeTick.biasLapse.synPhases

/-- Slot boundaries: loops and settings that change there (R112, R118, R183, R202, R246, R249, R413, R415), retests and restorations
(R423), power requests and services that resume (R368, R382, R420), and the DACs' self-check (R418). -/
def State.slotActs (s : State) (x : TickInput) : State :=
  let s := s.tunersAtSlot.throttleAtSlot.shutdownActs.noiseAtSlot.powerRecompute
  let s := s.calAtSlot.calRollAtSlot.shareAtSlot.powerAtSlot.resumeAtSlot
  let s := (s.retestFaults x.badRetest).mixReportedPrune
  (x.badDac.filter (fun p => s.domainOn (8 + courseOf p))).foldl (fun s p => s.detectFault p 1) s

/-! The courses in the new epoch -/

/-- A course at a tick (R91, R107 to R109): whether its LO is lost to the symbol, a late transmit symbol, the end of its paths' hold-off. No
symbol of a recalibration slot is late, the slot that starts where a switch to the partner is due among them (R92). -/
def State.courseAtTick (s : State) (c : Nat) : State :=
  let locked := s.loLocked c
  let tx := s.txSymbol c s.epoch
  let switching := isSlotStart s.epoch && (s.course c).borrowFrom.isSome
  let late := tx && !locked && !(s.course c).recal && !switching && s.loCounts c
  let first := late && !(s.course c).lateRun
  let run := tx && (late || (s.course c).lateRun)
  let s := s.setCourse c { s.course c with lostNow := !locked, lateRun := run }
  let s := if late then s.bump Ix.TxLateCount (c + 1) else s
  let s := if first then s.raise 0x2004 (c + 1) (packData [f8 c]) else s
  if tx then (coursePaths c).foldl (fun s p => s.setPath p { s.path p with holdOff := false }) s else s

/-- Gains that automatic control chose come into force for the paths that receive (R88); FLEX symbols take the canceller set's. -/
def State.gainsAtTick (s : State) : State :=
  (allPaths.filter (fun p => s.receives p s.epoch && !s.flexSymbol (courseOf p) s.epoch)).foldl State.gainAtTick s

/-- The next downlink symbol is formed (R16, R131), in Observe from the next replay record (R21). -/
def State.downlinkNext (s : State) : State :=
  let n := s.nextEpoch s.epoch
  let s := if s.mode = 6 ∧ s.dlSymbol n then s.observeReplay n else s
  let s := { s with mix := { s.mix with air := s.mix.out } }
  s.dlPass n

/-- Reports of a frame, at the start of the next (R132, R170, R194, R228, R271). -/
def State.frameActs (s : State) : State :=
  s.mixSatReport.linSatReport.cancelClipReport.speFrameStart.masonLoad

/-- The values that SNAPSHOT returns until the next tick (R47). -/
def State.latch (s : State) : State :=
  let shown := derivedElements.foldl (fun t x => tput (entryDefault x.1 x.2) (ck x.1 x.2) (s.scalar x.1 x.2) t) s.cat
  { s with host := { s.host with latched := shown } }

/-- Everything that a tick brings once its epoch has begun; `e` is the epoch that ended. -/
def State.tickActs (s : State) (x : TickInput) (e : Nat) : State :=
  let s := ((s.uplinkEnds x e).downlinkEnds x e).configAtTick.loopsAtTick.actOnFaults
  let s := if isSlotStart s.epoch then s.slotActs x else s
  let s := s.judgePaths.judgeArrayCause.masonTick.dispatchJobs
  let s := ([0, 1, 2, 3].foldl State.courseAtTick s).gainsAtTick.downlinkNext
  let s := if isFrameStart s.epoch then s.frameActs else s
  s.latch

/-- SYMBOL_TICK (R33): the next tick, with what the symbol it ends has brought. A time base that does not run ticks no symbol. Nothing that a
tick brings moves the clock. -/
def State.symbolTick (s : State) (x : TickInput) : State :=
  if s.tb.running then
    let b := (x.dc.foldl State.dcLoop s).beginEpoch
    let t := b.tickActs x s.epoch
    { t with now := b.now, epoch := b.epoch, tb := { t.tb with tickAt := b.tb.tickAt } }
  else s

/-- The time that passes on an empty queue: one unit of 1/3072 ns, not past the next tick (log entry 4). -/
def State.idle (s : State) : State :=
  if s.tb.running ∧ s.nextTickAt ≤ s.now then s else { s with now := s.now + 1 }.biasLapse.synPhases

/-! Pins that follow the time base -/

/-- SYNC_OUT (R49): low; frame pulses of 1 µs, those of seconds 8 µs long; or a pulse of 100 ns at each tick. -/
def State.syncOut (s : State) : Bool :=
  let inFrame := (s.now : Int) - s.frameBegan
  s.tb.running && (match s.rd Ix.SyncOutMode 0 with
    | 1 => decide (inFrame < (if ((frameOf s.epoch : Int) - s.tb.ppsFrame) % 100 = 0 then usec 8 else usec 1 : Nat))
    | 2 => decide (s.now < s.tb.tickAt + nsec 100)
    | _ => false)

end Sys2Proof.Machine
end

