-- ==== Sys2Proof/Machine/MasonOps.lean ====
section
/-! DEFINITION. The operations of a mason's bundles (Table 11.5), each a meaning of its own over the core's shared operations (R258 to
R270, R275). -/
namespace Sys2Proof.Machine

/-- What a command answers. -/
abbrev Answered := Host.Outcome State Fault Refusal

/-- The shelf range an L-format operation reads. -/
def readsAt (f : LFormat) (align n : Nat) (c : MasonCore) : Option (Nat × Nat) := some (c.at_ f align, n)

/-- An operation reads nothing from the shelf. -/
def readsNone (_ : MasonCore) : Option (Nat × Nat) := none

/-- The number of the accumulator that an L-format operation names. -/
def accNum (f : LFormat) : Nat := f.reg.toNat % 4

/-- The number of the pointer that an L-format operation names as PD. -/
def pdNum (f : LFormat) : Nat := f.reg.toNat % 16

/-! Slot 0: loads and stores -/

/-- A vector load (LDV, LDVC). -/
def loadVec (circ : Bool) (o : MasonIssue) (f : LFormat) (s : State) : State :=
  s.issue o 0 (readsAt f 32 32) (fun s c =>
    loadOp s o.core c f circ 32 32 (nameV f.reg.toNat) (fun l => .vec f.reg.toNat (lanesOf l)))

/-- LDV. -/
def execLdv (o : MasonIssue) (f : LFormat) (s : State) : Answered := .next (loadVec false o f s)
/-- LDVC. -/
def execLdvc (o : MasonIssue) (f : LFormat) (s : State) : Answered := .next (loadVec true o f s)

/-- A broadcast load (LDB, LDBC): every lane takes the complex value. -/
def loadBroadcast (circ : Bool) (o : MasonIssue) (f : LFormat) (s : State) : State :=
  s.issue o 0 (readsAt f 4 4) (fun s c =>
    loadOp s o.core c f circ 4 4 (nameV f.reg.toNat) (fun l => .vec f.reg.toNat (List.replicate 8 (laneOf l))))

/-- LDB. -/
def execLdb (o : MasonIssue) (f : LFormat) (s : State) : Answered := .next (loadBroadcast false o f s)
/-- LDBC. -/
def execLdbc (o : MasonIssue) (f : LFormat) (s : State) : Answered := .next (loadBroadcast true o f s)

/-- A vector store (STV, STVC). -/
def storeVec (circ : Bool) (o : MasonIssue) (f : LFormat) (s : State) : State :=
  s.issue o 0 readsNone (fun _ c => storeOp c f circ 32 (laneBytes (c.getV f.reg.toNat)) [])

/-- STV. -/
def execStv (o : MasonIssue) (f : LFormat) (s : State) : Answered := .next (storeVec false o f s)
/-- STVC. -/
def execStvc (o : MasonIssue) (f : LFormat) (s : State) : Answered := .next (storeVec true o f s)

/-- A store of a scaled move (STA, STAC), with its status (R263, R264). -/
def storeScaled (circ : Bool) (o : MasonIssue) (f : LFormat) (s : State) : State :=
  s.issue o 0 readsNone (fun _ c =>
    let x := c.scaledMove (accNum f)
    storeOp c f circ 32 (laneBytes x.lanes) [x.act])

/-- STA. -/
def execSta (o : MasonIssue) (f : LFormat) (s : State) : Answered := .next (storeScaled false o f s)
/-- STAC. -/
def execStac (o : MasonIssue) (f : LFormat) (s : State) : Answered := .next (storeScaled true o f s)

/-- LDW: a word, sign-extended. -/
def execLdw (o : MasonIssue) (f : LFormat) (s : State) : Answered :=
  .next (s.issue o 0 (readsAt f 4 4) (fun s c =>
    loadOp s o.core c f false 4 4 (nameP (pdNum f)) (fun l => .ptr (pdNum f) (ofInt 40 (toInt 32 (leNat l))))))

/-- STW: the low word of a pointer register. -/
def execStw (o : MasonIssue) (f : LFormat) (s : State) : Answered :=
  .next (s.issue o 0 readsNone (fun _ c => storeOp c f false 4 (leBytes 4 (c.getP (pdNum f))) []))

/-- LDAR: the raw accumulator. -/
def execLdar (o : MasonIssue) (f : LFormat) (s : State) : Answered :=
  .next (s.issue o 0 (readsAt f 16 80) (fun s c =>
    loadOp s o.core c f false 16 80 (nameAcc (accNum f)) (fun l => .acc (accNum f) (rawLanes l))))

/-- STAR: the raw accumulator. -/
def execStar (o : MasonIssue) (f : LFormat) (s : State) : Answered :=
  .next (s.issue o 0 readsNone (fun _ c => storeOp c f false 16 (rawBytes (c.getAcc (accNum f))) []))

/-! Slot 1: the MAC family -/

/-- A MAC-family operation: `g` gives the new lane from the accumulator's, and the lanes of VA and VB (R261). -/
def macLanes (o : MasonIssue) (f : MFormat) (g : Cplx → Cplx → Cplx → Cplx) (s : State) : State :=
  s.issue o 1 readsNone (fun _ c =>
    let acc := c.getChain f.acca.toNat
    macOp f.acca.toNat ((List.range 8).map (fun i =>
      g (acc.getD i czero) ((c.getV f.va.toNat).getD i czero) ((c.getV f.vb.toNat).getD i czero))))

/-- CMAC. -/
def execCmac (o : MasonIssue) (f : MFormat) (s : State) : Answered := .next (macLanes o f (fun z a b => cadd z (cmul a b)) s)
/-- CMACJ. -/
def execCmacj (o : MasonIssue) (f : MFormat) (s : State) : Answered := .next (macLanes o f (fun z a b => cadd z (cmul (conj a) b)) s)
/-- CMUL. -/
def execCmul (o : MasonIssue) (f : MFormat) (s : State) : Answered := .next (macLanes o f (fun _ a b => cmul a b) s)
/-- CMULJ. -/
def execCmulj (o : MasonIssue) (f : MFormat) (s : State) : Answered := .next (macLanes o f (fun _ a b => cmul (conj a) b) s)
/-- CMSUB. -/
def execCmsub (o : MasonIssue) (f : MFormat) (s : State) : Answered :=
  .next (macLanes o f (fun z a b => ⟨z.re - (cmul a b).re, z.im - (cmul a b).im⟩) s)
/-- CLRA. -/
def execClra (o : MasonIssue) (f : MFormat) (s : State) : Answered := .next (macLanes o f (fun _ _ _ => czero) s)

/-- The delay-line move of R260: every sample one lane older, a zero behind the pair. -/
def tapMove (newer older : List Cplx) : List Cplx × List Cplx :=
  ((older.getD 7 czero) :: newer.take 7, czero :: older.take 7)

/-- TAPM: the product, then the move of the pair VB:VB+1; an odd VB is ILLEGAL (R260). -/
def tapOp (f : MFormat) (c : MasonCore) : OpResult :=
  let vb := f.vb.toNat
  if vb % 2 = 1 then illegal
  else
    let mac := macOp f.acca.toNat (lanes2 cadd (c.getChain f.acca.toNat) (lanes2 cmul (c.getV f.va.toNat) (c.getV vb)))
    let m := tapMove (c.getV vb) (c.getV (vb + 1))
    { mac with writes := mac.writes ++ [⟨1, .vec vb m.1⟩, ⟨1, .vec (vb + 1) m.2⟩], dests := mac.dests ++ [nameV vb, nameV (vb + 1)] }

/-- TAPM. -/
def execTapm (o : MasonIssue) (f : MFormat) (s : State) : Answered := .next (s.issue o 1 readsNone (fun _ c => tapOp f c))

/-- ADDA: ACCB is read as it is visible, not chained (R265). -/
def execAdda (o : MasonIssue) (f : MFormat) (s : State) : Answered :=
  .next (s.issue o 1 readsNone (fun _ c =>
    macOp f.acca.toNat (lanes2 cadd (c.getChain f.acca.toNat) (c.getAcc f.accb.toNat))))

/-! Slot 2: vectors -/

/-- VMOVA: a scaled move into a vector, with its status (R263, R264). -/
def execVmova (o : MasonIssue) (f : AFormat) (s : State) : Answered :=
  .next (s.issue o 2 readsNone (fun _ c =>
    let x := c.scaledMove f.acc.toNat
    { vecOp f.vd.toNat 2 x.lanes false with acts := [x.act] }))

/-- A per-lane result that saturates and sets OVF where it does (R261). -/
def satLanes (o : MasonIssue) (f : AFormat) (g : Cplx → Cplx → Cplx) (s : State) : State :=
  s.issue o 2 readsNone (fun _ c =>
    let l := lanes2 g (c.getV f.va.toNat) (c.getV f.vb.toNat)
    vecOp f.vd.toNat 1 (l.map csat) (l.any satChanges))

/-- VADD. -/
def execVadd (o : MasonIssue) (f : AFormat) (s : State) : Answered := .next (satLanes o f cadd s)
/-- VSUB. -/
def execVsub (o : MasonIssue) (f : AFormat) (s : State) : Answered :=
  .next (satLanes o f (fun a b => ⟨a.re - b.re, a.im - b.im⟩) s)
/-- VCONJ. -/
def execVconj (o : MasonIssue) (f : AFormat) (s : State) : Answered := .next (satLanes o f (fun a _ => conj a) s)

/-- VSHR: each part shifted right arithmetically (R261). -/
def execVshr (o : MasonIssue) (f : AFormat) (s : State) : Answered :=
  .next (s.issue o 2 readsNone (fun _ c =>
    let k := f.imm.toNat % 16
    vecOp f.vd.toNat 1 ((c.getV f.va.toNat).map (fun a => Cplx.mk (a.re / 2 ^ k) (a.im / 2 ^ k))) false))

/-- VBCAST. -/
def execVbcast (o : MasonIssue) (f : AFormat) (s : State) : Answered :=
  .next (s.issue o 2 readsNone (fun _ c =>
    vecOp f.vd.toNat 1 (List.replicate 8 ((c.getV f.va.toNat).getD (f.imm.toNat % 8) czero)) false))

/-- A per-lane function of VA with latency 6 that may set OVF (R262). -/
def laneFunction (o : MasonIssue) (f : AFormat) (g : Cplx → Cplx × Bool) (s : State) : State :=
  s.issue o 2 readsNone (fun _ c =>
    let l := (c.getV f.va.toNat).map g
    vecOp f.vd.toNat 6 (l.map (·.1)) (l.any (·.2)))

/-- VRECIP. -/
def execVrecip (o : MasonIssue) (f : AFormat) (s : State) : Answered := .next (laneFunction o f recipLane s)
/-- VRSQRT. -/
def execVrsqrt (o : MasonIssue) (f : AFormat) (s : State) : Answered := .next (laneFunction o f rsqrtLane s)

/-- VEXT: a part of a lane into a pointer register, sign-extended. -/
def execVext (o : MasonIssue) (f : AFormat) (s : State) : Answered :=
  .next (s.issue o 2 readsNone (fun _ c =>
    let a := (c.getV f.va.toNat).getD (f.imm.toNat % 8) czero
    ptrOp (f.vd.toNat % 16) (if f.imm.getLsbD 3 then a.im else a.re)))

/-! Slot 2: scalars -/

/-- A scalar operation: PD takes a value of PD and PA (R259). -/
def scalarOp (o : MasonIssue) (f : CFormat) (g : Int → Int → Int) (s : State) : State :=
  s.issue o 2 readsNone (fun _ c => ptrOp f.pd.toNat (g (c.pInt f.pd.toNat) (c.pInt f.pa.toNat)))

/-- MOVI. -/
def execMovi (o : MasonIssue) (f : CFormat) (s : State) : Answered := .next (scalarOp o f (fun _ _ => simmOf f) s)
/-- MOVH: bits [39:24] alone. -/
def execMovh (o : MasonIssue) (f : CFormat) (s : State) : Answered :=
  .next (scalarOp o f (fun d _ => d % 2 ^ 24 + 2 ^ 24 * (f.imm.toNat % 2 ^ 16 : Nat)) s)
/-- ADDI. -/
def execAddi (o : MasonIssue) (f : CFormat) (s : State) : Answered := .next (scalarOp o f (fun _ a => a + simmOf f) s)
/-- ADDP. -/
def execAddp (o : MasonIssue) (f : CFormat) (s : State) : Answered := .next (scalarOp o f (fun d a => d + a) s)
/-- SUBP. -/
def execSubp (o : MasonIssue) (f : CFormat) (s : State) : Answered := .next (scalarOp o f (fun d a => d - a) s)
/-- SHLI. -/
def execShli (o : MasonIssue) (f : CFormat) (s : State) : Answered :=
  .next (scalarOp o f (fun _ a => a * 2 ^ (f.imm.toNat % 64)) s)
/-- SHRAI. -/
def execShrai (o : MasonIssue) (f : CFormat) (s : State) : Answered :=
  .next (scalarOp o f (fun _ a => a / 2 ^ (f.imm.toNat % 64)) s)

/-- MOVS: ILLEGAL for a read-only code or none (R257). -/
def execMovs (o : MasonIssue) (f : CFormat) (s : State) : Answered :=
  .next (s.issue o 2 readsNone (fun _ c =>
    let code := f.imm.toNat
    if 0x1D < code then illegal
    else { writes := [⟨1, .sys code (c.getP f.pa.toNat)⟩], dests := [nameSys code] }))

/-- MOVG: ILLEGAL for a code that names no register (R257). -/
def execMovg (o : MasonIssue) (f : CFormat) (s : State) : Answered :=
  .next (s.issue o 2 readsNone (fun _ c =>
    match c.sysRead o.core f.imm.toNat with
    | some v => ptrOp f.pd.toNat v
    | none => illegal))

/-! Slot 2: control -/

/-- A loop of a count and a body (R266); PD names loop 0 or 1, another value is ILLEGAL. -/
def loopOp (o : MasonIssue) (f : CFormat) (count : MasonCore → Nat) (s : State) : State :=
  s.issue o 2 readsNone (fun _ c =>
    if 1 < f.pd.toNat then illegal else { acts := [.loop f.pd.toNat (count c) (f.imm.toNat % 2 ^ 12)] })

/-- LOOP. -/
def execLoop (o : MasonIssue) (f : CFormat) (s : State) : Answered := .next (loopOp o f (fun c => c.getP f.pa.toNat % 2 ^ 16) s)
/-- LOOPI. -/
def execLoopi (o : MasonIssue) (f : CFormat) (s : State) : Answered := .next (loopOp o f (fun _ => f.imm.toNat / 2 ^ 12) s)

/-- BR: a condition code that is none is ILLEGAL (R259, R265). -/
def execBr (o : MasonIssue) (f : CFormat) (s : State) : Answered :=
  .next (s.issue o 2 readsNone (fun _ c =>
    match condition f.pd.toNat (c.pInt f.pa.toNat) with
    | none => illegal
    | some true => { acts := [.branch (c.target f)] }
    | some false => {}))

/-- CALL: P15 takes the address after the delay bundles. -/
def execCall (o : MasonIssue) (f : CFormat) (s : State) : Answered :=
  .next (s.issue o 2 readsNone (fun _ c => { ptrOp 15 (c.pc + 48 : Nat) with acts := [.branch (c.target f)] }))

/-- RET. -/
def execRet (o : MasonIssue) (s : State) : Answered :=
  .next (s.issue o 2 readsNone (fun _ c => { acts := [.branch (c.getP 15 % 2 ^ 16)] }))

/-- RTI (R267, R269). -/
def execRti (o : MasonIssue) (s : State) : Answered := .next (s.issue o 2 readsNone (fun _ _ => { acts := [.rti] }))

/-- XGET: a transfer into the shelf is queued (R268). -/
def execXget (o : MasonIssue) (f : CFormat) (s : State) : Answered :=
  .next (s.issue o 2 readsNone (fun _ c =>
    if xferBad c f.imm.toNat then illegal
    else { acts := [.get (c.getP f.pd.toNat % 0x40000) (c.getP f.pa.toNat) f.imm.toNat] }))

/-- XPUT: a transfer out of the shelf is queued; a poisoned word of its source raises POISON (R268, R269). -/
def xputOp (s : State) (m : Nat) (c : MasonCore) (f : CFormat) : OpResult :=
  let a := c.getP f.pd.toNat % 0x40000
  if xferBad c f.imm.toNat then illegal
  else match s.shelfPoison m (a / 4 * 4) f.imm.toNat with
    | some w => { fault := some (1, w) }
    | none => { acts := [.put a (c.getP f.pa.toNat) f.imm.toNat] }

/-- XPUT. -/
def execXput (o : MasonIssue) (f : CFormat) (s : State) : Answered :=
  .next (s.issue o 2 (fun c => if xferBad c f.imm.toNat then none else some (c.getP f.pd.toNat % 0x40000 / 4 * 4, f.imm.toNat))
    (fun s c => xputOp s o.core c f))

/-- XWAIT: the bundle stalls while more transfers are outstanding; a failed one raises XFER (R265, R268). -/
def execXwait (o : MasonIssue) (f : CFormat) (s : State) : Answered :=
  .next (s.issue o 2 readsNone (fun _ _ => { acts := [.wait (f.imm.toNat % 16)] }))

/-- LEASE (R275). -/
def execLease (o : MasonIssue) (f : CFormat) (s : State) : Answered :=
  .next (s.issue o 2 readsNone (fun s c => leaseOp s c f.pd.toNat (c.getP f.pa.toNat % 2 ^ 16) (f.imm.toNat % 2 ^ 16)))

/-- UNLEASE (R275). -/
def execUnlease (o : MasonIssue) (f : CFormat) (s : State) : Answered :=
  .next (s.issue o 2 readsNone (fun _ c => { acts := [.unlease (c.getP f.pa.toNat % 2 ^ 16)] }))

/-- DONE: the task ends with a status (R270). -/
def execDone (o : MasonIssue) (f : CFormat) (s : State) : Answered :=
  .next (s.issue o 2 readsNone (fun _ c => { acts := [.done (c.getP f.pa.toNat % 2 ^ 32)] }))

end Sys2Proof.Machine
end

