-- ==== Sys2Proof/Machine/Commands.lean ====
section
/-! DEFINITION. What several commands share: the requests that a write of an entry is (R57, R60, R67), and what a failed wake, a WARN crossing
or a write into a code window brings with it (R255, R363, R366). -/
namespace Sys2Proof.Machine

/-- The request that writes a scalar entry. -/
def scalarWrite (w : Caller) (index sub v : Nat) : Request :=
  let n := ((findEntry index sub).map (fun e => e.type.size)).getD 0
  { port := w.port, op := 4, tag := w.tag, pos := w.pos, array := false, asap := false, first := false, last := false, sub := sub,
    index := index, count := 0, length := n, offset := 0, param := 0, spare := 0, data := padded (leBytes n v) }

/-- The request that writes a DOMAIN entry in one segment. -/
def recordWrite (w : Caller) (index : Nat) (l : List Byte) : Request :=
  { port := w.port, op := 4, tag := w.tag, pos := w.pos, array := false, asap := false, first := true, last := true, sub := 0,
    index := index, count := 0, length := l.length, offset := 0, param := l.length, spare := 0, data := padded l }

/-- A command of the Catalogue that a scalar names. -/
def State.order (s : State) (w : Caller) (index sub v : Nat) : State := s.take (scalarWrite w index sub v)

/-- A command of the Catalogue that a record names. -/
def State.orderRecord (s : State) (w : Caller) (index : Nat) (l : List Byte) : State := s.take (recordWrite w index l)

/-- A command of the Catalogue whose record may take several segments: the one that ends it. -/
def State.orderSegment (s : State) (index : Nat) (r : Request) : State := s.take { r with op := 4, index := index, sub := 0 }

/-- An operation of the Catalogue. -/
def State.operate (s : State) (op : Nat) (r : Request) : State := s.take { r with op := op }

/-- DOMAIN_READY (R352): what waited for the domain goes on. -/
def State.domainReady (s : State) (d : Nat) (good osc init : Bool) : State :=
  let r := s.domainSignals d good osc init
  if r.1 then r.2.goOn else r.2

/-- A domain whose wake has failed ends the next access to it with an error. -/
def State.markFailed (s : State) (d : Nat) : State := { s with power := { s.power with failed := insertNat d s.power.failed } }

/-- After a failed wake every access that stalls on the domain completes with an error (R363): the MEM requests and the Catalogue request;
DMA channels and masons meet it when their next response comes. `before` is the state before the wake failed. -/
def State.failStalled (s before : State) (d : Nat) : State :=
  if s.rd Ix.DomainState (d + 1) ≠ 4 ∨ before.rd Ix.DomainState (d + 1) = 4 then s
  else
    let t := s.link.mems.foldl (fun t m => (t.markFailed d).memTry m) { s with link := { s.link with mems := [] } }
    let t := if t.host.performing.isSome then (t.markFailed d).resumeWaiting else t
    let busy := (List.range 16).any (fun n => t.dmaState n == 1 || t.dmaState n == 2) || allCores.any (fun m => !(t.core m).xfers.isEmpty)
    if busy then t.markFailed d else { t with power := { t.power with failed := t.power.failed.filter (· != d) } }

/-- A WARN crossing is a wake event (R366, Table 16.3). -/
def State.warnWakes (s : State) : State :=
  if s.therm.warnEdge then { s with therm := { s.therm with warnEdge := false } }.edgeWake 5 else s

/-- What a latched shutdown takes with it when it switches every domain but AON off (R416): the ports, the SPE, tasks and jobs, runs and
training, the courses, and transitions. -/
def State.latchFollows (s : State) : State :=
  let s := ((s.speOff.portToOff 0 2).portToOff 1 2).dropNorthRequests
  let s := (((s.masonsReset.jobsReset false).calFails 1).trainFails 1).calStepEnds
  let s := [0, 1, 2, 3].foldl (fun (s : State) c => (s.courseOff c).endWindow c) s
  { s with modes := { s.modes with stepBusy := false } }.abandonTransitions

/-- A reading that latches a thermal shutdown (R416). -/
def State.hkReads (s : State) (f : HkFrame) : State :=
  let t := s.hkFrame f
  if t.therm.latched && !s.therm.latched then t.latchFollows else t.warnWakes

/-- The payload of a MEM request (Table 13.6). -/
def memRequest (op : Nat) (a : MemAccess) (data : List Byte) : List Byte :=
  leBytes 4 (op * 2 ^ 24 + a.tag % 256 * 2 ^ 16) ++ leBytes 8 a.addr ++ leBytes 4 a.bytes ++ data

/-- The payload of a CREDIT packet (R302). -/
def creditPayload (kind : Nat) (u : CreditUnits) : List Byte := (creditPacket 0 0 kind u.c1 u.c2 u.c3).payload

end Sys2Proof.Machine
end

