-- ==== Sys2Proof/Machine/ExecArchive.lean ====
section
/-! DEFINITION. The commands of the memories and of the DMA engine: one meaning each. -/
namespace Sys2Proof.Machine

/-- MORTAR_TIMEOUT (R14). -/
def execMortarTimeout (a : MortarAccess) (s : State) : Answered := .next (s.mortarTimeout a)
/-- SLOW_PATH_DONE (R326): the decode of a page ends. -/
def execSlowPathDone (page : Nat) (s : State) : Answered := .next (s.slowPathDone page)
/-- SCRUB_PAGE (R335). -/
def execScrubPage (s : State) : Answered := .next s.scrubPage
/-- ECC_LOG_CLEAR (R332): a write of `EccLogClear`. -/
def execEccLogClear (w : Caller) (v : Nat) (s : State) : Answered := .next (s.order w Ix.EccLogClear 0 v)
/-- PARTITION_COPY_DONE (R324). -/
def execPartitionCopyDone (s : State) : Answered := .next s.partitionCopyDone
/-- DMA_START (R338): a write of `DmaStart`. -/
def execDmaStart (w : Caller) (record : List Byte) (s : State) : Answered := .next (s.orderRecord w Ix.DmaStart record)
/-- DMA_ABORT (R350): a write of `DmaAbort` of a channel. -/
def execDmaAbort (w : Caller) (channel v : Nat) (s : State) : Answered := .next (s.order w Ix.DmaAbort (channel + 1) v)
/-- DESCRIPTOR_FETCH (R340): whether the read completes with an error of its own. -/
def execDescriptorFetch (channel : Nat) (error : Bool) (s : State) : Answered := .next (s.descriptorFetch channel error)
/-- DMA_BURST (R345). -/
def execDmaBurst (s : State) : Answered := .next s.dmaBurst.codeFaults
/-- DMA_WRITE_RESPONSE (R347): the write by its place in the channel's table. -/
def execDmaWriteResponse (channel place : Nat) (s : State) : Answered := .next (s.dmaWriteResponse channel place).codeFaults
/-- APPEND_POLL (R343). -/
def execAppendPoll (channel : Nat) (s : State) : Answered := .next (s.appendPoll channel)

end Sys2Proof.Machine
end

