-- ==== Sys2Proof/Machine/ExecHk.lean ====
section
/-! DEFINITION. The commands of housekeeping, the bias outputs, thermal management and fault handling: one meaning each. -/
namespace Sys2Proof.Machine

/-! Housekeeping -/

/-- HK_FRAME (R397). -/
def execHkFrame (f : HkFrame) (s : State) : Answered := .next (s.hkReads f)
/-- HK_CHECK (R399). -/
def execHkCheck (k : HkCheck) (s : State) : Answered := .next (s.hkCheck k)
/-- HK_TRUST_HKA (R399): a write of `HkTrust` with 0x00. -/
def execHkTrustHka (w : Caller) (s : State) : Answered := .next (s.order w Ix.HkTrust 0 0)
/-- HK_TRUST_HKB (R399): a write of `HkTrust` with 0x01. -/
def execHkTrustHkb (w : Caller) (s : State) : Answered := .next (s.order w Ix.HkTrust 0 1)
/-- HK_TRUST_BOTH (R399): a write of `HkTrust` with 0x02. -/
def execHkTrustBoth (w : Caller) (s : State) : Answered := .next (s.order w Ix.HkTrust 0 2)

/-! Bias outputs -/

/-- BLOAD_N (R403): the pin falls. -/
def execBloadN (s : State) : Answered := .next s.bloadFalls
/-- BCLR_N_FALL (R405). -/
def execBclrNFall (s : State) : Answered := .next (s.clearBegins 1)
/-- BCLR_N_RISE (R405). -/
def execBclrNRise (s : State) : Answered := .next (s.clearEnds 1)
/-- BIAS_SHORT (R407): a channel. -/
def execBiasShort (channel : Nat) (s : State) : Answered := .next (s.biasShort channel)
/-- BIAS_SHORT_CLEAR (R407). -/
def execBiasShortClear (channel : Nat) (s : State) : Answered := .next (s.biasShortClear channel)

/-! Thermal management -/

/-- THROTTLE_GRACE (R413): a sensor. -/
def execThrottleGrace (sensor : Nat) (s : State) : Answered := .next (s.throttleGrace sensor)
/-- THROTTLE_STEP (R413): a sensor. -/
def execThrottleStep (sensor : Nat) (s : State) : Answered := .next (s.throttleStep sensor)
/-- TILE_MUTE (R413): a tile. -/
def execTileMute (tile : Nat) (s : State) : Answered := .next (s.tileMute tile)
/-- SHUTDOWN_DEADLINE (R415). -/
def execShutdownDeadline (s : State) : Answered := .next s.shutdownDeadline
/-- SHUTDOWN_BIAS_CLEAR (R415). -/
def execShutdownBiasClear (s : State) : Answered := .next s.shutdownBiasClear

/-! Faults -/

/-- DRIVER_OVERCURRENT (R418): a path. -/
def execDriverOvercurrent (path : Nat) (s : State) : Answered := .next (s.driverOvercurrent path)
/-- PATH_FAULT_CLEAR (R423): a write of `PathFaultClear`. -/
def execPathFaultClear (w : Caller) (v : Nat) (s : State) : Answered := .next (s.order w Ix.PathFaultClear 0 v)
/-- LEASE_REVOKE (R425): a write of `LeaseRevoke`. -/
def execLeaseRevoke (w : Caller) (resource : Nat) (s : State) : Answered := .next (s.order w Ix.LeaseRevoke 0 resource)
/-- FAULT_LOG_CLEAR (R424): a write of `FaultLogClear`. -/
def execFaultLogClear (w : Caller) (v : Nat) (s : State) : Answered := .next (s.order w Ix.FaultLogClear 0 v)

end Sys2Proof.Machine
end

