-- ==== Sys2Proof/Machine/ExecLink.lean ====
section
/-! DEFINITION. The commands of the Vyaris Link: its ports, its lanes and its packets; one meaning each. Port 0 is PORT-N, 1 PORT-S. -/
namespace Sys2Proof.Machine

/-! Ports and lanes -/

/-- DETECT_PULSE (R291): the lanes, as a mask, on which a far end was found. -/
def execDetectPulse (port found : Nat) (s : State) : Answered := .next (s.detectPulse port found)
/-- TRAIN_DONE (R292): whether the phases are found. -/
def execTrainDone (port : Nat) (phases : Bool) (s : State) : Answered := .next (s.trainDone port phases)
/-- PORT_STATE_TIMEOUT (R291). -/
def execPortStateTimeout (port : Nat) (s : State) : Answered := .next (s.portStateTimeout port)
/-- FAILED_TIMEOUT (R291). -/
def execFailedTimeout (port : Nat) (s : State) : Answered := .next (s.failedTimeout port)
/-- LOCK (R292): the far end's READY, the lanes locked here as a mask, their skews in UI. -/
def execLock (port : Nat) (ready : Bool) (own : Nat) (skews : List Nat) (s : State) : Answered := .next (s.lockIn port ready own skews)
/-- CAPS (R292): the 64 bytes of the message. -/
def execCaps (port : Nat) (message : List Byte) (s : State) : Answered := .next (s.capsIn port message)
/-- CHAIN (R294). -/
def execChain (port devices : Nat) (s : State) : Answered := .next (s.chainIn port devices)
/-- BOND (R288): what the nine lanes bring. -/
def execBond (port : Nat) (lanes : List LaneBits) (s : State) : Answered := .next (s.bondIn port lanes)
/-- LANE_REJOIN (R289). -/
def execLaneRejoin (port lane : Nat) (s : State) : Answered := .next (s.laneRejoin port lane)
/-- ALIGN_FORCE (R287). -/
def execAlignForce (port : Nat) (s : State) : Answered := .next (s.alignForce port)
/-- CLOCK_LOSS (R295). -/
def execClockLoss (port : Nat) (s : State) : Answered := .next (s.clockLoss port)
/-- LINK_RETRAIN (R295): a write of `LinkRetrain` of a port. -/
def execLinkRetrain (w : Caller) (port v : Nat) (s : State) : Answered := .next (s.order w Ix.LinkRetrain (port + 1) v)
/-- LINK_ENABLE (R295): a write of `LinkEnable` of a port. -/
def execLinkEnable (w : Caller) (port v : Nat) (s : State) : Answered := .next (s.order w Ix.LinkEnable (port + 1) v)
/-- SCRAMBLER_FRAME_START (R292). -/
def execScramblerFrameStart (port : Nat) (s : State) : Answered := .next (s.scramblerFrame port)

/-! Packets received -/

/-- LAYER_DL (R308). -/
def execLayerDl (h : PacketHead) (payload : List Byte) (s : State) : Answered := .next (s.headIn h 1 payload)
/-- LAYER_UL (R309). -/
def execLayerUl (h : PacketHead) (payload : List Byte) (s : State) : Answered := .next (s.headIn h 2 payload)
/-- PRACH (R309). -/
def execPrach (h : PacketHead) (payload : List Byte) (s : State) : Answered := .next (s.headIn h 3 payload)
/-- GRAM (R311). -/
def execGram (h : PacketHead) (payload : List Byte) (s : State) : Answered := .next (s.headIn h 4 payload)
/-- CAT_REQ (R75). -/
def execCatReq (h : PacketHead) (payload : List Byte) (s : State) : Answered := .next (s.headIn h 5 payload).bootContinue
/-- CAT_RSP (R75). -/
def execCatRsp (h : PacketHead) (payload : List Byte) (s : State) : Answered := .next (s.headIn h 6 payload)
/-- EVENT (R83). -/
def execEvent (h : PacketHead) (payload : List Byte) (s : State) : Answered := .next (s.headIn h 7 payload)
/-- FRAME (R312): whether the sender is in holdover, and the offset in ps. -/
def execFrame (h : PacketHead) (holdover : Bool) (offset : Nat) (s : State) : Answered :=
  .next (s.headIn h 8 (timePayload 1 (b2n holdover) [offset]))
/-- ECHO_REQ (R313). -/
def execEchoReq (h : PacketHead) (id : Nat) (s : State) : Answered := .next (s.headIn h 8 (timePayload 2 0 [id]))
/-- ECHO_RSP (R313): the identifier and the turnaround time. -/
def execEchoRsp (h : PacketHead) (id turn : Nat) (s : State) : Answered := .next (s.headIn h 8 (timePayload 3 0 [id, turn]))
/-- READY (R314). -/
def execReady (h : PacketHead) (ready : Bool) (s : State) : Answered := .next (s.headIn h 8 (timePayload 4 0 [b2n ready]))
/-- DECISION (R314): GO or not, and the epoch it goes at. -/
def execDecision (h : PacketHead) (go : Bool) (epoch : Nat) (s : State) : Answered :=
  .next (s.headIn h 8 (timePayload 5 0 [if go then 1 else 2, epochEntry epoch % 2 ^ 32, epochEntry epoch / 2 ^ 32]))
/-- MEM_READ (R316). -/
def execMemRead (h : PacketHead) (a : MemAccess) (s : State) : Answered := .next (s.headIn h 9 (memRequest 1 a []))
/-- MEM_WRITE (R316). -/
def execMemWrite (h : PacketHead) (a : MemAccess) (data : List Byte) (s : State) : Answered := .next (s.headIn h 9 (memRequest 2 a data))
/-- MEM_RESPONSE (R299). -/
def execMemResponse (h : PacketHead) (payload : List Byte) (s : State) : Answered := .next (s.headIn h 9 payload)
/-- CAPTURE (R299). -/
def execCapture (h : PacketHead) (payload : List Byte) (s : State) : Answered := .next (s.headIn h 10 payload)
/-- TYPE_DROP (R299): a packet of a reserved type. -/
def execTypeDrop (h : PacketHead) (typ : Nat) (payload : List Byte) (s : State) : Answered := .next (s.headIn h typ payload)

/-! Credits -/

/-- RETURN (R302). -/
def execReturn (h : PacketHead) (u : CreditUnits) (s : State) : Answered := .next (s.headIn h 11 (creditPayload 0 u))
/-- RESYNC_REQ (R303). -/
def execResyncReq (h : PacketHead) (s : State) : Answered := .next (s.headIn h 11 (creditPayload 1 ⟨0, 0, 0⟩))
/-- RESYNC_ACK (R303). -/
def execResyncAck (h : PacketHead) (s : State) : Answered := .next (s.headIn h 11 (creditPayload 2 ⟨0, 0, 0⟩))
/-- RESYNC_DONE (R303). -/
def execResyncDone (h : PacketHead) (u : CreditUnits) (s : State) : Answered := .next (s.headIn h 11 (creditPayload 3 u))
/-- RESYNC_RETRY (R303). -/
def execResyncRetry (port : Nat) (s : State) : Answered := .next (s.resyncRetry port)
/-- CREDIT_RETURN_SEND (R302). -/
def execCreditReturnSend (port : Nat) (s : State) : Answered := .next (s.creditReturnSend port)

/-! Packets sent -/

/-- ECHO_INTERVAL (R313). -/
def execEchoInterval (s : State) : Answered := .next s.echoInterval
/-- FRAME_MARKER_SEND (R312). -/
def execFrameMarkerSend (s : State) : Answered := .next s.frameMarker
/-- PACKET_SEND (R304). -/
def execPacketSend (port : Nat) (s : State) : Answered := .next (s.packetSend port)
/-- CAPTURE_SEND (R319). -/
def execCaptureSend (port : Nat) (s : State) : Answered := .next (s.captureSend port)

end Sys2Proof.Machine
end

