-- ==== Sys2Proof/Machine/ExecMason.lean ====
section
/-! DEFINITION. The events of the mason cluster and its Catalogue commands: one meaning each. -/
namespace Sys2Proof.Machine

/-- INTERRUPT_ENTRY (R267). -/
def execInterruptEntry (core : Nat) (s : State) : Answered := .next (s.interruptEntry core)
/-- XFER_COMPLETE (R268): the transfer by its place among those outstanding; whether its target answered with an error. -/
def execXferComplete (core place : Nat) (error : Bool) (s : State) : Answered := .next (s.xferComplete core place error)
/-- TIMER_COMPARE (R267). -/
def execTimerCompare (core : Nat) (s : State) : Answered := .next (s.timerCompare core)
/-- WATCHDOG_OVERRUN (R272). -/
def execWatchdogOverrun (core : Nat) (s : State) : Answered := .next (s.watchdog core)
/-- CORE_PARITY_ERROR (R272). -/
def execCoreParityError (core : Nat) (s : State) : Answered := .next (s.coreParity core)
/-- MASON_RESTORE (R273): a write of `MasonRestore`. -/
def execMasonRestore (w : Caller) (core : Nat) (s : State) : Answered := .next (s.order w Ix.MasonRestore 0 core)
/-- MASON_SELFTEST_DONE (R273). -/
def execMasonSelftestDone (core : Nat) (pass : Bool) (s : State) : Answered := .next (s.selftestDone core pass)
/-- MASON_KERNEL_LOAD (R276): the segment that ends a write of `MasonKernelLoad`. -/
def execMasonKernelLoad (r : Request) (s : State) : Answered := .next (s.orderSegment Ix.MasonKernelLoad r)
/-- MASON_KERNEL_UNLOAD (R276): a write of `MasonKernelUnload`. -/
def execMasonKernelUnload (w : Caller) (slot : Nat) (s : State) : Answered := .next (s.order w Ix.MasonKernelUnload 0 slot)
/-- MASON_JOB_SUBMIT (R277): a write of `MasonJobSubmit`. -/
def execMasonJobSubmit (w : Caller) (record : List Byte) (s : State) : Answered := .next (s.orderRecord w Ix.MasonJobSubmit record)
/-- MASON_JOB_CANCEL (R277): a write of `MasonJobCancel`. -/
def execMasonJobCancel (w : Caller) (job : Nat) (s : State) : Answered := .next (s.order w Ix.MasonJobCancel 0 job)
/-- LEASE_EXPIRY (R275): the lease of a resource. -/
def execLeaseExpiry (resource : Nat) (s : State) : Answered := .next (s.leaseExpiry resource)

end Sys2Proof.Machine
end

