-- ==== Sys2Proof/Machine/ExecPower.lean ====
section
/-! DEFINITION. The commands of power control, reset, boot, keys and boundary scan: one meaning each. -/
namespace Sys2Proof.Machine

/-! Domains, the Governor and clocks -/

/-- DOMAIN_READY (R352): the signals of a waking domain that have come. -/
def execDomainReady (domain : Nat) (good osc init : Bool) (s : State) : Answered := .next (s.domainReady domain good osc init)
/-- DOMAIN_WAKE_TIMEOUT (R363). -/
def execDomainWakeTimeout (domain : Nat) (s : State) : Answered := .next ((s.wakeTimeout domain).failStalled s domain)
/-- ARCH_INIT_LIMIT (R363). -/
def execArchInitLimit (s : State) : Answered := .next (s.archInitLimit.failStalled s 5)
/-- DOMAIN_IDLE_OFF (R362). -/
def execDomainIdleOff (domain : Nat) (s : State) : Answered := .next (s.idleOff domain)
/-- DOMAIN_SWITCH_OFF_DONE (R352). -/
def execDomainSwitchOffDone (domain : Nat) (s : State) : Answered := .next (s.switchOffDone domain).goOn
/-- GOV_PLANNED_WAKE (R358). -/
def execGovPlannedWake (course : Nat) (s : State) : Answered := .next (s.plannedWake course)
/-- GOV_DORMANT_REQUEST (R361). -/
def execGovDormantRequest (s : State) : Answered := .next s.dormantRequest
/-- GOV_WAKE_NOW (R366): a write of `GovWakeNow`. -/
def execGovWakeNow (w : Caller) (v : Nat) (s : State) : Answered := .next (s.order w Ix.GovWakeNow 0 v)
/-- REFCLK_LOSS (R365). -/
def execRefclkLoss (s : State) : Answered := .next s.refclkLoss
/-- CLOCK_RETURN (R364). -/
def execClockReturn (s : State) : Answered := .next s.clockReturn.goOn
/-- POWER_HOLD (R368): a write of `PowerRequest` that holds a course. -/
def execPowerHold (w : Caller) (course : Nat) (s : State) : Answered := .next (s.order w Ix.PowerRequest 0 (course * 256 + 3))
/-- POWER_RELEASE (R368): a write of `PowerRequest` that releases a course. -/
def execPowerRelease (w : Caller) (course : Nat) (s : State) : Answered := .next (s.order w Ix.PowerRequest 0 (course * 256))

/-! Resets -/

/-- POWER_ON (R374): the supply is below its power-on threshold. -/
def execPowerOn (s : State) : Answered := .next (s.assertSource 0)
/-- BROWN_OUT (R374). -/
def execBrownOut (s : State) : Answered := .next (s.assertSource 1)
/-- RST_N_LOW (R374). -/
def execRstNLow (s : State) : Answered := .next s.rstLow
/-- RST_N_HIGH (R374): with the straps as they stand. -/
def execRstNHigh (straps : Nat) (s : State) : Answered := .next (s.rstHigh straps)
/-- KEYSTONE_WATCHDOG (R374). -/
def execKeystoneWatchdog (s : State) : Answered := .next s.keystoneWatchdog
/-- CRITICAL_PARITY (R374). -/
def execCriticalParity (s : State) : Answered := .next (s.assertSource 7)
/-- SHADOW_UNCORRECTABLE (R231). -/
def execShadowUncorrectable (s : State) : Answered := .next (s.assertSource 2)
/-- RESET_SOURCE_RELEASE (R375): the source by its bit of Table 17.2, with the straps as they stand. -/
def execResetSourceRelease (bit straps : Nat) (s : State) : Answered := .next (s.sourceRelease bit straps)
/-- RESET_REQUEST_COLD (R381): a write of `ResetRequest`. -/
def execResetRequestCold (w : Caller) (s : State) : Answered := .next (s.order w Ix.ResetRequest 0 0x5A01)
/-- RESET_REQUEST_WARM (R381): a write of `ResetRequest`. -/
def execResetRequestWarm (w : Caller) (s : State) : Answered := .next (s.order w Ix.ResetRequest 0 0x5A02)
/-- LINK_COMMAND_ASSERT (R381). -/
def execLinkCommandAssert (s : State) : Answered := .next s.linkCommandAssert
/-- RESET_CAUSE_CLEAR (R377): a write of `ResetCauseClear`. -/
def execResetCauseClear (w : Caller) (v : Nat) (s : State) : Answered := .next (s.order w Ix.ResetCauseClear 0 v)
/-- DOMAIN_RESET (R382): a write of `DomainReset`. -/
def execDomainReset (w : Caller) (domain : Nat) (s : State) : Answered := .next (s.order w Ix.DomainReset 0 domain)
/-- DOMAIN_RESET_DONE (R382). -/
def execDomainResetDone (domain : Nat) (s : State) : Answered := .next (s.domainResetDone domain).goOn

/-! Boot, keys and identity -/

/-- BOOT_IMAGE_READ_DONE (R386). -/
def execBootImageReadDone (s : State) : Answered := .next s.imageReadDone.bootContinue
/-- BOOT_READ_TIMEOUT (R387). -/
def execBootReadTimeout (s : State) : Answered := .next s.bootReadTimeout.bootContinue
/-- BOOT_IMAGE_LOAD (R387): the segment that ends a write of `BootImageLoad`. -/
def execBootImageLoad (r : Request) (s : State) : Answered := .next (s.orderSegment Ix.BootImageLoad r)
/-- KEY_REVOKE (R390): a write of `KeyRevoke`. -/
def execKeyRevoke (w : Caller) (record : List Byte) (s : State) : Answered := .next (s.orderRecord w Ix.KeyRevoke record)
/-- KEY_REVOKED (R390). -/
def execKeyRevoked (s : State) : Answered := .next s.keyRevoked
/-- ATTEST_REQUEST (R392): a write of `AttestRequest`. -/
def execAttestRequest (w : Caller) (nonce : List Byte) (s : State) : Answered := .next (s.orderRecord w Ix.AttestRequest nonce)
/-- ATTEST_DONE (R392). -/
def execAttestDone (s : State) : Answered := .next s.attestDone
/-- IDENTITY_SIGN (R392): a write of `IdentitySign`. -/
def execIdentitySign (w : Caller) (digest : List Byte) (s : State) : Answered := .next (s.orderRecord w Ix.IdentitySign digest)
/-- SIGN_DONE (R392). -/
def execSignDone (s : State) : Answered := .next s.signDone

/-! Boundary scan (R394) -/

/-- TEST_LOGIC_RESET (R394): IDCODE is selected. -/
def execTestLogicReset (straps : Nat) (s : State) : Answered := .next (s.scanOther 1 straps)
/-- IDCODE (R394). -/
def execIdcode (straps : Nat) (s : State) : Answered := .next (s.scanOther 1 straps)
/-- SAMPLE_PRELOAD (R394): the cells shifted in. -/
def execSamplePreload (cells : List Bool) (straps : Nat) (s : State) : Answered := .next (s.scanPreload cells straps)
/-- EXTEST (R394). -/
def execExtest (s : State) : Answered := .next (s.scanTest 3)
/-- EXTEST_PULSE (R394). -/
def execExtestPulse (s : State) : Answered := .next (s.scanTest 4)
/-- EXTEST_TRAIN (R394). -/
def execExtestTrain (s : State) : Answered := .next (s.scanTest 5)
/-- CLAMP (R394). -/
def execClamp (s : State) : Answered := .next (s.scanTest 6)
/-- HIGHZ (R394). -/
def execHighz (s : State) : Answered := .next (s.scanTest 7)
/-- BYPASS (R394). -/
def execBypass (straps : Nat) (s : State) : Answered := .next (s.scanOther 0xFF straps)

end Sys2Proof.Machine
end

