-- ==== Sys2Proof/Machine/ExecRadio.lean ====
section
/-! DEFINITION. The commands of the radio paths, the Linearisers, the folios, the Channel Library and the canceller: one meaning each. -/
namespace Sys2Proof.Machine

/-! Radio paths -/

/-- DC_RANGE (R89): a path; 1 for I, 2 for Q, 3 for both. -/
def execDcRange (path code : Nat) (s : State) : Answered := .next (s.dcRange path code)
/-- SYN_UNLOCK (R91): a course's detector reports loss of lock. -/
def execSynUnlock (course : Nat) (s : State) : Answered := .next (s.synUnlock course)
/-- SYN_LOCK (R90). -/
def execSynLock (course : Nat) (s : State) : Answered := .next (s.synLock course)
/-- RELOCK_ATTEMPT_FAIL (R91). -/
def execRelockAttemptFail (course : Nat) (s : State) : Answered := .next (s.relockFail course)
/-- LO_BORROW_SWITCH (R92). -/
def execLoBorrowSwitch (course : Nat) (s : State) : Answered := .next (s.loBorrowSwitch course)
/-- LO_BORROW (R92): the phase offsets measured, in 0.01° by path of the course. -/
def execLoBorrow (course : Nat) (offsets : List Int) (s : State) : Answered := .next (s.loBorrow course offsets)
/-- COURSE_TRANSITION_START (R96). -/
def execCourseTransitionStart (course : Nat) (s : State) : Answered := .next (s.courseStart course)
/-- COURSE_TRANSITION_DONE (R95). -/
def execCourseTransitionDone (course : Nat) (s : State) : Answered := .next (s.courseDone course)

/-! Observation receivers and Linearisers -/

/-- OBSERVATION_STEP (R173): the next step of a receiver; whether its self-check passes. -/
def execObservationStep (receiver : Nat) (selfCheck : Bool) (s : State) : Answered := .next (s.observationStep receiver selfCheck)
/-- FORWARD_CAPTURE_DONE (R114): P_FBIN and D in 0.01 dB, whether one code was delivered throughout, the samples. -/
def execForwardCaptureDone (receiver : Nat) (pFbin d : Int) (oneCode : Bool) (samples : List Byte) (s : State) : Answered :=
  .next (s.forwardDone receiver pFbin d oneCode samples)
/-- REFLECTED_CAPTURE_DONE (R116): P_ref and D in 0.01 dB. -/
def execReflectedCaptureDone (receiver : Nat) (pRef d : Int) (s : State) : Answered := .next (s.reflectedDone receiver pRef d)
/-- LIN_UPDATE_READY (R179): the solve of a path's capture, with its figures, its candidate tables and coefficients. -/
def execLinUpdateReady (path : Nat) (nmse aclr : Int) (cands : List (Tab Cplx)) (coefs : List Byte) (s : State) : Answered :=
  .next (s.linReady path nmse aclr cands coefs)
/-- LIN_RESUME (R180): a write of `LinResume`. -/
def execLinResume (w : Caller) (v : Nat) (s : State) : Answered := .next (s.order w Ix.LinResume 0 v)

/-! Folios, sounding and the Channel Library -/

/-- FOLIO_SEAL (R136): a write of `FolioSeal`. -/
def execFolioSeal (w : Caller) (slot : Nat) (s : State) : Answered := .next (s.order w Ix.FolioSeal 0 slot)
/-- SOUNDING_WRITE_DONE (R148). -/
def execSoundingWriteDone (s : State) : Answered := .next s.soundingWriteDone
/-- LIBRARY_VALIDATE (R150): a write of `LibraryValidate`. -/
def execLibraryValidate (w : Caller) (entry : Nat) (s : State) : Answered := .next (s.order w Ix.LibraryValidate 0 entry)
/-- LIBRARY_INVALIDATE (R150): a write of `LibraryInvalidate`. -/
def execLibraryInvalidate (w : Caller) (entry : Nat) (s : State) : Answered := .next (s.order w Ix.LibraryInvalidate 0 entry)
/-- WEIGHT_JOB_SUBMIT (R153): a write of `WeightJobSubmit`. -/
def execWeightJobSubmit (w : Caller) (record : List Byte) (s : State) : Answered := .next (s.orderRecord w Ix.WeightJobSubmit record)
/-- WEIGHT_JOB_CANCEL (R162): a write of `WeightJobCancel`. -/
def execWeightJobCancel (w : Caller) (job : Nat) (s : State) : Answered := .next (s.order w Ix.WeightJobCancel 0 job)
/-- JOB_START (R155). -/
def execJobStart (s : State) : Answered := .next s.jobStart
/-- JOB_DONE (R155): with the mason time it took, in µs. -/
def execJobDone (micros : Nat) (s : State) : Answered := .next (s.jobDone micros)
/-- GRAM_TIMEOUT (R162). -/
def execGramTimeout (s : State) : Answered := .next s.gramTimeout

/-! The canceller -/

/-- CANCEL_SET_SEAL (R196): a write of `CancelSetSeal`. -/
def execCancelSetSeal (w : Caller) (slot : Nat) (s : State) : Answered := .next (s.order w Ix.CancelSetSeal 0 slot)
/-- CANCEL_SET_LOADED (R196). -/
def execCancelSetLoaded (slot : Nat) (s : State) : Answered := .next (s.cancelSetLoaded slot)
/-- CANCEL_TRAIN (R198): a write of `CancelTrain`. -/
def execCancelTrain (w : Caller) (record : List Byte) (s : State) : Answered := .next (s.orderRecord w Ix.CancelTrain record)
/-- CANCEL_TRAIN_START (R199). -/
def execCancelTrainStart (s : State) : Answered := .next s.cancelTrainStart
/-- CANCEL_TRAIN_STAGE_DONE (R199). -/
def execCancelTrainStageDone (r : TrainResult) (s : State) : Answered := .next (s.trainStageDone r)
/-- CANCEL_TRACK_READY (R203). -/
def execCancelTrackReady (solves : List TrackSolve) (s : State) : Answered := .next (s.trackReady solves)

end Sys2Proof.Machine
end

