-- ==== Sys2Proof/Machine/ExecSpeCal.lean ====
section
/-! DEFINITION. The commands of the Sync Packet Engine and of calibration: one meaning each. -/
namespace Sys2Proof.Machine

/-! The Sync Packet Engine -/

/-- SPE_TX_SEND (R217): a write of `SpeTxSend`. -/
def execSpeTxSend (w : Caller) (record : List Byte) (s : State) : Answered := .next (s.orderRecord w Ix.SpeTxSend record)
/-- SPE_TX_CANCEL (R220): a write of `SpeTxCancel`. -/
def execSpeTxCancel (w : Caller) (v : Nat) (s : State) : Answered := .next (s.order w Ix.SpeTxCancel 0 v)
/-- SPE_RX_RELEASE (R226): a write of `SpeRxRelease`. -/
def execSpeRxRelease (w : Caller) (v : Nat) (s : State) : Answered := .next (s.order w Ix.SpeRxRelease 0 v)
/-- SPE_TX_READY (R218). -/
def execSpeTxReady (s : State) : Answered := .next s.speTxReady
/-- SPE_TX_START (R219). -/
def execSpeTxStart (s : State) : Answered := .next s.speTxStart
/-- SPE_TX_DONE (R220). -/
def execSpeTxDone (s : State) : Answered := .next s.speTxDone
/-- SPE_DIVERSITY_DWELL (R208). -/
def execSpeDiversityDwell (s : State) : Answered := .next s.speDwell
/-- SPE_DETECT (R221). -/
def execSpeDetect (d : SpeDetect) (s : State) : Answered := .next (s.speDetect d)
/-- SPE_SYNC (R222). -/
def execSpeSync (f : SpeSyncFound) (s : State) : Answered := .next (s.speSync f)
/-- SPE_SYNC_WINDOW_EXPIRY (R229). -/
def execSpeSyncWindowExpiry (s : State) : Answered := .next s.speSyncExpiry
/-- SPE_HEADER (R225): the header word as decoded. -/
def execSpeHeader (word : Nat) (s : State) : Answered := .next (s.speHeaderIn word)
/-- SPE_RX (R226): the payload and the CRC-32 as received. -/
def execSpeRx (payload : List Byte) (crc : Nat) (s : State) : Answered := .next (s.speRx payload crc)
/-- SPE_CFO_MOVE (R224). -/
def execSpeCfoMove (s : State) : Answered := .next s.speCfoMove
/-- SYNP_LOCK (R215). -/
def execSynpLock (s : State) : Answered := .next s.synpLock

/-! Trims and calibration -/

/-- TRIM_RECHECK (R231): a write of `TrimRecheck`. -/
def execTrimRecheck (w : Caller) (v : Nat) (s : State) : Answered := .next (s.order w Ix.TrimRecheck 0 v)
/-- CAL_RUN (R239): a write of `CalRun`. -/
def execCalRun (w : Caller) (record : List Byte) (s : State) : Answered := .next (s.orderRecord w Ix.CalRun record)
/-- CAL_RUN_CANCEL (R240): a write of `CalRunCancel`. -/
def execCalRunCancel (w : Caller) (v : Nat) (s : State) : Answered := .next (s.order w Ix.CalRunCancel 0 v)
/-- CAL_RUN_START (R240). -/
def execCalRunStart (s : State) : Answered := .next s.calRunStart
/-- CAL_MEASUREMENT_DONE (R241). -/
def execCalMeasurementDone (m : CalMeasure) (s : State) : Answered := .next (s.calMeasured m)
/-- CAL_RUN_COMPLETE (R247). -/
def execCalRunComplete (peers : CalPeers) (s : State) : Answered := .next (s.calComplete peers)
/-- CAL_ROLL_STEP (R249). -/
def execCalRollStep (s : State) : Answered := .next s.calRollStep
/-- CAL_STORE_SAVE (R251): a write of `CalStoreSave`. -/
def execCalStoreSave (w : Caller) (contents : Nat) (s : State) : Answered := .next (s.order w Ix.CalStoreSave 0 contents)
/-- CAL_STORE_DONE (R251): whether the record read back is the one written. -/
def execCalStoreDone (verified : Bool) (s : State) : Answered := .next (s.calStoreDone verified)
/-- CAL_STORE_TIMEOUT (R251). -/
def execCalStoreTimeout (s : State) : Answered := .next s.calStoreTimeout

end Sys2Proof.Machine
end

