-- ==== Sys2Proof/Machine/ExecTime.lean ====
section
/-! DEFINITION. The commands of the epochs, the modes, the time base and the Catalogue: one meaning each. -/
namespace Sys2Proof.Machine

/-! Epochs, commits and modes -/

/-- SYMBOL_TICK (R33). -/
def execSymbolTick (x : TickInput) (s : State) : Answered := .next (s.symbolTick x)
/-- COMMIT_FAIL (R43). -/
def execCommitFail (s : State) : Answered := .next s.commitFail
/-- MODE_REQUEST (R25): a write of `ModeRequest`. -/
def execModeRequest (w : Caller) (v : Nat) (s : State) : Answered := .next (s.order w Ix.ModeRequest 0 v)
/-- SAFE_HOLD_REQUEST (R29): `ModeRequest` with code 0x07. -/
def execSafeHoldRequest (w : Caller) (s : State) : Answered := .next (s.order w Ix.ModeRequest 0 7)
/-- ARRAY_MODE_REQUEST (R25). -/
def execArrayModeRequest (w : Caller) (v : Nat) (s : State) : Answered := .next (s.order w Ix.ArrayModeRequest 0 v)
/-- PREPARATION_COMPLETE (R27). -/
def execPreparationComplete (s : State) : Answered := .next s.preparationComplete
/-- MODE_DONE (R27). -/
def execModeDone (s : State) : Answered := .next s.modeDone
/-- NEXT_SAFE_STEP (R29). -/
def execNextSafeStep (s : State) : Answered := .next s.nextSafeStep
/-- WAKE (R24). -/
def execWake (s : State) : Answered := .next s.wakePin
/-- DORMANT_CLOCK_CHECK (R364): whether the reference clock is present. -/
def execDormantClockCheck (present : Bool) (s : State) : Answered := .next (s.dormantCheck present)
/-- DL_CUTOFF (R38). -/
def execDlCutoff (s : State) : Answered := .next s.dlCutoff
/-- UL_ACCUMULATION_DEADLINE (R309). -/
def execUlAccumulationDeadline (s : State) : Answered := .next s.ulDeadline
/-- READY_REPORT (R314). -/
def execReadyReport (s : State) : Answered := .next s.readyReport
/-- COMMIT_DECISION (R44). -/
def execCommitDecision (s : State) : Answered := .next s.commitDecision
/-- NO_DECISION (R44). -/
def execNoDecision (s : State) : Answered := .next s.noDecision

/-! The time base -/

/-- SYNC_IN_PULSE (R49): a rising edge of a pulse of a width in ns. -/
def execSyncInPulse (width : Nat) (s : State) : Answered := .next (s.syncPulse width)
/-- TIME_LOST (R50). -/
def execTimeLost (s : State) : Answered := .next s.timeLost
/-- TIME_REALIGN (R51): a write of `TimeRealign`. -/
def execTimeRealign (w : Caller) (v : Nat) (s : State) : Answered := .next (s.order w Ix.TimeRealign 0 v)
/-- TIME_REALIGN_STEP (R51). -/
def execTimeRealignStep (s : State) : Answered := .next s.realignStep

/-! Catalogue operations (R57) -/

/-- READ (R62). -/
def execRead (r : Request) (s : State) : Answered := .next (s.operate 1 r)
/-- READ_STAGED (R63). -/
def execReadStaged (r : Request) (s : State) : Answered := .next (s.operate 2 r)
/-- SNAPSHOT (R64). -/
def execSnapshot (r : Request) (s : State) : Answered := .next (s.operate 3 r)
/-- WRITE (R58). -/
def execWrite (r : Request) (s : State) : Answered := .next (s.operate 4 r)
/-- STAGE (R65). -/
def execStage (r : Request) (s : State) : Answered := .next (s.operate 5 r)
/-- COMMIT (R66). -/
def execCommit (r : Request) (s : State) : Answered := .next (s.operate 6 r)
/-- DISCARD (R66). -/
def execDiscard (r : Request) (s : State) : Answered := .next (s.operate 7 r)
/-- DOMAIN_TRANSFER_TIMEOUT (R68): the transfer of an element. -/
def execDomainTransferTimeout (index sub : Nat) (s : State) : Answered := .next (s.transferTimeout index sub)
/-- FORWARD_TIMEOUT (R75): the forwarded request of a tag. -/
def execForwardTimeout (tag : Nat) (s : State) : Answered := .next (s.forwardTimeout tag)

/-! The service port and the events -/

/-- REQUEST (R79): the bytes after the command byte. -/
def execRequest (bytes : List Byte) (s : State) : Answered := .next ((s.spiRequest bytes).bootContinue)
/-- RESPONSE (R80): the bytes the host clocks. -/
def execResponse (clocked : Nat) (s : State) : Answered := .next ((s.spiResponse clocked).bootContinue)
/-- STATUS (R79). -/
def execStatus (s : State) : Answered := .next s.spiStatusOnly
/-- SPI_FRAMING_ERROR (R79). -/
def execSpiFramingError (s : State) : Answered := .next s.spiError
/-- EVENT_ACK (R83): a write of `EventAck`. -/
def execEventAck (w : Caller) (n : Nat) (s : State) : Answered := .next (s.order w Ix.EventAck 0 n)
/-- EVENT_SEND (R83). -/
def execEventSend (s : State) : Answered := .next s.eventSend
/-- MASTER_PRESENCE_CLEAR (R73): a write of `MasterPresenceClear`. -/
def execMasterPresenceClear (w : Caller) (v : Nat) (s : State) : Answered := .next (s.order w Ix.MasterPresenceClear 0 v)

end Sys2Proof.Machine
end

