-- ==== Sys2Proof/Machine/Dispatch.lean ====
section
/-! DEFINITION. The effect of every command on everything but the queue: one arm for each constructor, each a call of its meaning. -/
namespace Sys2Proof.Machine

def exec (i : Instr) (s : State) : Host.Outcome State Fault Refusal :=
  match i with
  | .symbolTick x => Sys2Proof.Machine.execSymbolTick x s
  | .commitFail => Sys2Proof.Machine.execCommitFail s
  | .modeRequest w v => Sys2Proof.Machine.execModeRequest w v s
  | .safeHoldRequest w => Sys2Proof.Machine.execSafeHoldRequest w s
  | .arrayModeRequest w v => Sys2Proof.Machine.execArrayModeRequest w v s
  | .preparationComplete => Sys2Proof.Machine.execPreparationComplete s
  | .modeDone => Sys2Proof.Machine.execModeDone s
  | .nextSafeStep => Sys2Proof.Machine.execNextSafeStep s
  | .wake => Sys2Proof.Machine.execWake s
  | .dormantClockCheck present => Sys2Proof.Machine.execDormantClockCheck present s
  | .dlCutoff => Sys2Proof.Machine.execDlCutoff s
  | .ulAccumulationDeadline => Sys2Proof.Machine.execUlAccumulationDeadline s
  | .readyReport => Sys2Proof.Machine.execReadyReport s
  | .commitDecision => Sys2Proof.Machine.execCommitDecision s
  | .noDecision => Sys2Proof.Machine.execNoDecision s
  | .syncInPulse width => Sys2Proof.Machine.execSyncInPulse width s
  | .timeLost => Sys2Proof.Machine.execTimeLost s
  | .timeRealign w v => Sys2Proof.Machine.execTimeRealign w v s
  | .timeRealignStep => Sys2Proof.Machine.execTimeRealignStep s
  | .read r => Sys2Proof.Machine.execRead r s
  | .readStaged r => Sys2Proof.Machine.execReadStaged r s
  | .snapshot r => Sys2Proof.Machine.execSnapshot r s
  | .write r => Sys2Proof.Machine.execWrite r s
  | .stage r => Sys2Proof.Machine.execStage r s
  | .commit r => Sys2Proof.Machine.execCommit r s
  | .discard r => Sys2Proof.Machine.execDiscard r s
  | .domainTransferTimeout index sub => Sys2Proof.Machine.execDomainTransferTimeout index sub s
  | .forwardTimeout tag => Sys2Proof.Machine.execForwardTimeout tag s
  | .request bytes => Sys2Proof.Machine.execRequest bytes s
  | .response clocked => Sys2Proof.Machine.execResponse clocked s
  | .status => Sys2Proof.Machine.execStatus s
  | .spiFramingError => Sys2Proof.Machine.execSpiFramingError s
  | .eventAck w n => Sys2Proof.Machine.execEventAck w n s
  | .eventSend => Sys2Proof.Machine.execEventSend s
  | .masterPresenceClear w v => Sys2Proof.Machine.execMasterPresenceClear w v s
  | .dcRange path code => Sys2Proof.Machine.execDcRange path code s
  | .synUnlock course => Sys2Proof.Machine.execSynUnlock course s
  | .synLock course => Sys2Proof.Machine.execSynLock course s
  | .relockAttemptFail course => Sys2Proof.Machine.execRelockAttemptFail course s
  | .loBorrowSwitch course => Sys2Proof.Machine.execLoBorrowSwitch course s
  | .loBorrow course offsets => Sys2Proof.Machine.execLoBorrow course offsets s
  | .courseTransitionStart course => Sys2Proof.Machine.execCourseTransitionStart course s
  | .courseTransitionDone course => Sys2Proof.Machine.execCourseTransitionDone course s
  | .observationStep receiver selfCheck => Sys2Proof.Machine.execObservationStep receiver selfCheck s
  | .forwardCaptureDone receiver pFbin d oneCode samples => Sys2Proof.Machine.execForwardCaptureDone receiver pFbin d oneCode samples s
  | .reflectedCaptureDone receiver pRef d => Sys2Proof.Machine.execReflectedCaptureDone receiver pRef d s
  | .linUpdateReady path nmse aclr cands coefs => Sys2Proof.Machine.execLinUpdateReady path nmse aclr cands coefs s
  | .linResume w v => Sys2Proof.Machine.execLinResume w v s
  | .folioSeal w slot => Sys2Proof.Machine.execFolioSeal w slot s
  | .soundingWriteDone => Sys2Proof.Machine.execSoundingWriteDone s
  | .libraryValidate w entry => Sys2Proof.Machine.execLibraryValidate w entry s
  | .libraryInvalidate w entry => Sys2Proof.Machine.execLibraryInvalidate w entry s
  | .weightJobSubmit w record => Sys2Proof.Machine.execWeightJobSubmit w record s
  | .weightJobCancel w job => Sys2Proof.Machine.execWeightJobCancel w job s
  | .jobStart => Sys2Proof.Machine.execJobStart s
  | .jobDone micros => Sys2Proof.Machine.execJobDone micros s
  | .gramTimeout => Sys2Proof.Machine.execGramTimeout s
  | .cancelSetSeal w slot => Sys2Proof.Machine.execCancelSetSeal w slot s
  | .cancelSetLoaded slot => Sys2Proof.Machine.execCancelSetLoaded slot s
  | .cancelTrain w record => Sys2Proof.Machine.execCancelTrain w record s
  | .cancelTrainStart => Sys2Proof.Machine.execCancelTrainStart s
  | .cancelTrainStageDone r => Sys2Proof.Machine.execCancelTrainStageDone r s
  | .cancelTrackReady solves => Sys2Proof.Machine.execCancelTrackReady solves s
  | .speTxSend w record => Sys2Proof.Machine.execSpeTxSend w record s
  | .speTxCancel w v => Sys2Proof.Machine.execSpeTxCancel w v s
  | .speRxRelease w v => Sys2Proof.Machine.execSpeRxRelease w v s
  | .speTxReady => Sys2Proof.Machine.execSpeTxReady s
  | .speTxStart => Sys2Proof.Machine.execSpeTxStart s
  | .speTxDone => Sys2Proof.Machine.execSpeTxDone s
  | .speDiversityDwell => Sys2Proof.Machine.execSpeDiversityDwell s
  | .speDetect d => Sys2Proof.Machine.execSpeDetect d s
  | .speSync f => Sys2Proof.Machine.execSpeSync f s
  | .speSyncWindowExpiry => Sys2Proof.Machine.execSpeSyncWindowExpiry s
  | .speHeader word => Sys2Proof.Machine.execSpeHeader word s
  | .speRx payload crc => Sys2Proof.Machine.execSpeRx payload crc s
  | .speCfoMove => Sys2Proof.Machine.execSpeCfoMove s
  | .synpLock => Sys2Proof.Machine.execSynpLock s
  | .trimRecheck w v => Sys2Proof.Machine.execTrimRecheck w v s
  | .calRun w record => Sys2Proof.Machine.execCalRun w record s
  | .calRunCancel w v => Sys2Proof.Machine.execCalRunCancel w v s
  | .calRunStart => Sys2Proof.Machine.execCalRunStart s
  | .calMeasurementDone m => Sys2Proof.Machine.execCalMeasurementDone m s
  | .calRunComplete peers => Sys2Proof.Machine.execCalRunComplete peers s
  | .calRollStep => Sys2Proof.Machine.execCalRollStep s
  | .calStoreSave w contents => Sys2Proof.Machine.execCalStoreSave w contents s
  | .calStoreDone verified => Sys2Proof.Machine.execCalStoreDone verified s
  | .calStoreTimeout => Sys2Proof.Machine.execCalStoreTimeout s
  | .ldv o f => Sys2Proof.Machine.execLdv o f s
  | .ldvc o f => Sys2Proof.Machine.execLdvc o f s
  | .ldb o f => Sys2Proof.Machine.execLdb o f s
  | .ldbc o f => Sys2Proof.Machine.execLdbc o f s
  | .stv o f => Sys2Proof.Machine.execStv o f s
  | .stvc o f => Sys2Proof.Machine.execStvc o f s
  | .sta o f => Sys2Proof.Machine.execSta o f s
  | .stac o f => Sys2Proof.Machine.execStac o f s
  | .ldw o f => Sys2Proof.Machine.execLdw o f s
  | .stw o f => Sys2Proof.Machine.execStw o f s
  | .ldar o f => Sys2Proof.Machine.execLdar o f s
  | .star o f => Sys2Proof.Machine.execStar o f s
  | .cmac o f => Sys2Proof.Machine.execCmac o f s
  | .cmacj o f => Sys2Proof.Machine.execCmacj o f s
  | .cmul o f => Sys2Proof.Machine.execCmul o f s
  | .cmulj o f => Sys2Proof.Machine.execCmulj o f s
  | .cmsub o f => Sys2Proof.Machine.execCmsub o f s
  | .tapm o f => Sys2Proof.Machine.execTapm o f s
  | .clra o f => Sys2Proof.Machine.execClra o f s
  | .adda o f => Sys2Proof.Machine.execAdda o f s
  | .vmova o f => Sys2Proof.Machine.execVmova o f s
  | .vadd o f => Sys2Proof.Machine.execVadd o f s
  | .vsub o f => Sys2Proof.Machine.execVsub o f s
  | .vconj o f => Sys2Proof.Machine.execVconj o f s
  | .vshr o f => Sys2Proof.Machine.execVshr o f s
  | .vbcast o f => Sys2Proof.Machine.execVbcast o f s
  | .vrecip o f => Sys2Proof.Machine.execVrecip o f s
  | .vrsqrt o f => Sys2Proof.Machine.execVrsqrt o f s
  | .vext o f => Sys2Proof.Machine.execVext o f s
  | .movi o f => Sys2Proof.Machine.execMovi o f s
  | .movh o f => Sys2Proof.Machine.execMovh o f s
  | .addi o f => Sys2Proof.Machine.execAddi o f s
  | .addp o f => Sys2Proof.Machine.execAddp o f s
  | .subp o f => Sys2Proof.Machine.execSubp o f s
  | .shli o f => Sys2Proof.Machine.execShli o f s
  | .shrai o f => Sys2Proof.Machine.execShrai o f s
  | .movs o f => Sys2Proof.Machine.execMovs o f s
  | .movg o f => Sys2Proof.Machine.execMovg o f s
  | .loop o f => Sys2Proof.Machine.execLoop o f s
  | .loopi o f => Sys2Proof.Machine.execLoopi o f s
  | .br o f => Sys2Proof.Machine.execBr o f s
  | .call o f => Sys2Proof.Machine.execCall o f s
  | .ret o => Sys2Proof.Machine.execRet o s
  | .rti o => Sys2Proof.Machine.execRti o s
  | .xget o f => Sys2Proof.Machine.execXget o f s
  | .xput o f => Sys2Proof.Machine.execXput o f s
  | .xwait o f => Sys2Proof.Machine.execXwait o f s
  | .lease o f => Sys2Proof.Machine.execLease o f s
  | .unlease o f => Sys2Proof.Machine.execUnlease o f s
  | .done o f => Sys2Proof.Machine.execDone o f s
  | .interruptEntry core => Sys2Proof.Machine.execInterruptEntry core s
  | .xferComplete core place error => Sys2Proof.Machine.execXferComplete core place error s
  | .timerCompare core => Sys2Proof.Machine.execTimerCompare core s
  | .watchdogOverrun core => Sys2Proof.Machine.execWatchdogOverrun core s
  | .masonRestore w core => Sys2Proof.Machine.execMasonRestore w core s
  | .masonSelftestDone core pass => Sys2Proof.Machine.execMasonSelftestDone core pass s
  | .masonKernelLoad r => Sys2Proof.Machine.execMasonKernelLoad r s
  | .masonKernelUnload w slot => Sys2Proof.Machine.execMasonKernelUnload w slot s
  | .masonJobSubmit w record => Sys2Proof.Machine.execMasonJobSubmit w record s
  | .masonJobCancel w job => Sys2Proof.Machine.execMasonJobCancel w job s
  | .leaseExpiry resource => Sys2Proof.Machine.execLeaseExpiry resource s
  | .detectPulse port found => Sys2Proof.Machine.execDetectPulse port found s
  | .trainDone port phases => Sys2Proof.Machine.execTrainDone port phases s
  | .portStateTimeout port => Sys2Proof.Machine.execPortStateTimeout port s
  | .failedTimeout port => Sys2Proof.Machine.execFailedTimeout port s
  | .lock port ready own skews => Sys2Proof.Machine.execLock port ready own skews s
  | .caps port message => Sys2Proof.Machine.execCaps port message s
  | .chain port devices => Sys2Proof.Machine.execChain port devices s
  | .bond port lanes => Sys2Proof.Machine.execBond port lanes s
  | .laneRejoin port lane => Sys2Proof.Machine.execLaneRejoin port lane s
  | .alignForce port => Sys2Proof.Machine.execAlignForce port s
  | .clockLoss port => Sys2Proof.Machine.execClockLoss port s
  | .linkRetrain w port v => Sys2Proof.Machine.execLinkRetrain w port v s
  | .linkEnable w port v => Sys2Proof.Machine.execLinkEnable w port v s
  | .layerDl h payload => Sys2Proof.Machine.execLayerDl h payload s
  | .layerUl h payload => Sys2Proof.Machine.execLayerUl h payload s
  | .prach h payload => Sys2Proof.Machine.execPrach h payload s
  | .gram h payload => Sys2Proof.Machine.execGram h payload s
  | .catReq h payload => Sys2Proof.Machine.execCatReq h payload s
  | .catRsp h payload => Sys2Proof.Machine.execCatRsp h payload s
  | .event h payload => Sys2Proof.Machine.execEvent h payload s
  | .frame h holdover offset => Sys2Proof.Machine.execFrame h holdover offset s
  | .echoReq h id => Sys2Proof.Machine.execEchoReq h id s
  | .echoRsp h id turn => Sys2Proof.Machine.execEchoRsp h id turn s
  | .ready h ready => Sys2Proof.Machine.execReady h ready s
  | .decision h go epoch => Sys2Proof.Machine.execDecision h go epoch s
  | .memRead h a => Sys2Proof.Machine.execMemRead h a s
  | .memWrite h a data => Sys2Proof.Machine.execMemWrite h a data s
  | .memResponse h payload => Sys2Proof.Machine.execMemResponse h payload s
  | .capture h payload => Sys2Proof.Machine.execCapture h payload s
  | .typeDrop h typ payload => Sys2Proof.Machine.execTypeDrop h typ payload s
  | .credits h u => Sys2Proof.Machine.execReturn h u s
  | .resyncReq h => Sys2Proof.Machine.execResyncReq h s
  | .resyncAck h => Sys2Proof.Machine.execResyncAck h s
  | .resyncDone h u => Sys2Proof.Machine.execResyncDone h u s
  | .resyncRetry port => Sys2Proof.Machine.execResyncRetry port s
  | .creditReturnSend port => Sys2Proof.Machine.execCreditReturnSend port s
  | .echoInterval => Sys2Proof.Machine.execEchoInterval s
  | .frameMarkerSend => Sys2Proof.Machine.execFrameMarkerSend s
  | .packetSend port => Sys2Proof.Machine.execPacketSend port s
  | .captureSend port => Sys2Proof.Machine.execCaptureSend port s
  | .mortarTimeout a => Sys2Proof.Machine.execMortarTimeout a s
  | .slowPathDone page => Sys2Proof.Machine.execSlowPathDone page s
  | .scrubPage => Sys2Proof.Machine.execScrubPage s
  | .eccLogClear w v => Sys2Proof.Machine.execEccLogClear w v s
  | .partitionCopyDone => Sys2Proof.Machine.execPartitionCopyDone s
  | .dmaStart w record => Sys2Proof.Machine.execDmaStart w record s
  | .dmaAbort w channel v => Sys2Proof.Machine.execDmaAbort w channel v s
  | .descriptorFetch channel error => Sys2Proof.Machine.execDescriptorFetch channel error s
  | .dmaBurst => Sys2Proof.Machine.execDmaBurst s
  | .dmaWriteResponse channel place => Sys2Proof.Machine.execDmaWriteResponse channel place s
  | .appendPoll channel => Sys2Proof.Machine.execAppendPoll channel s
  | .domainReady domain good osc init => Sys2Proof.Machine.execDomainReady domain good osc init s
  | .domainWakeTimeout domain => Sys2Proof.Machine.execDomainWakeTimeout domain s
  | .archInitLimit => Sys2Proof.Machine.execArchInitLimit s
  | .domainIdleOff domain => Sys2Proof.Machine.execDomainIdleOff domain s
  | .govPlannedWake course => Sys2Proof.Machine.execGovPlannedWake course s
  | .govDormantRequest => Sys2Proof.Machine.execGovDormantRequest s
  | .govWakeNow w v => Sys2Proof.Machine.execGovWakeNow w v s
  | .refclkLoss => Sys2Proof.Machine.execRefclkLoss s
  | .clockReturn => Sys2Proof.Machine.execClockReturn s
  | .powerHold w course => Sys2Proof.Machine.execPowerHold w course s
  | .powerRelease w course => Sys2Proof.Machine.execPowerRelease w course s
  | .powerOn => Sys2Proof.Machine.execPowerOn s
  | .brownOut => Sys2Proof.Machine.execBrownOut s
  | .rstNLow => Sys2Proof.Machine.execRstNLow s
  | .rstNHigh straps => Sys2Proof.Machine.execRstNHigh straps s
  | .keystoneWatchdog => Sys2Proof.Machine.execKeystoneWatchdog s
  | .criticalParity => Sys2Proof.Machine.execCriticalParity s
  | .resetSourceRelease bit straps => Sys2Proof.Machine.execResetSourceRelease bit straps s
  | .resetRequestCold w => Sys2Proof.Machine.execResetRequestCold w s
  | .resetRequestWarm w => Sys2Proof.Machine.execResetRequestWarm w s
  | .linkCommandAssert => Sys2Proof.Machine.execLinkCommandAssert s
  | .resetCauseClear w v => Sys2Proof.Machine.execResetCauseClear w v s
  | .domainReset w domain => Sys2Proof.Machine.execDomainReset w domain s
  | .domainResetDone domain => Sys2Proof.Machine.execDomainResetDone domain s
  | .bootImageReadDone => Sys2Proof.Machine.execBootImageReadDone s
  | .bootReadTimeout => Sys2Proof.Machine.execBootReadTimeout s
  | .bootImageLoad r => Sys2Proof.Machine.execBootImageLoad r s
  | .keyRevoke w record => Sys2Proof.Machine.execKeyRevoke w record s
  | .keyRevoked => Sys2Proof.Machine.execKeyRevoked s
  | .attestRequest w nonce => Sys2Proof.Machine.execAttestRequest w nonce s
  | .attestDone => Sys2Proof.Machine.execAttestDone s
  | .identitySign w digest => Sys2Proof.Machine.execIdentitySign w digest s
  | .signDone => Sys2Proof.Machine.execSignDone s
  | .testLogicReset straps => Sys2Proof.Machine.execTestLogicReset straps s
  | .idcode straps => Sys2Proof.Machine.execIdcode straps s
  | .samplePreload cells straps => Sys2Proof.Machine.execSamplePreload cells straps s
  | .extest => Sys2Proof.Machine.execExtest s
  | .extestPulse => Sys2Proof.Machine.execExtestPulse s
  | .extestTrain => Sys2Proof.Machine.execExtestTrain s
  | .clamp => Sys2Proof.Machine.execClamp s
  | .highz => Sys2Proof.Machine.execHighz s
  | .bypass straps => Sys2Proof.Machine.execBypass straps s
  | .hkFrame f => Sys2Proof.Machine.execHkFrame f s
  | .hkCheck k => Sys2Proof.Machine.execHkCheck k s
  | .hkTrustHka w => Sys2Proof.Machine.execHkTrustHka w s
  | .hkTrustHkb w => Sys2Proof.Machine.execHkTrustHkb w s
  | .hkTrustBoth w => Sys2Proof.Machine.execHkTrustBoth w s
  | .bloadN => Sys2Proof.Machine.execBloadN s
  | .bclrNFall => Sys2Proof.Machine.execBclrNFall s
  | .bclrNRise => Sys2Proof.Machine.execBclrNRise s
  | .biasShort channel => Sys2Proof.Machine.execBiasShort channel s
  | .biasShortClear channel => Sys2Proof.Machine.execBiasShortClear channel s
  | .throttleGrace sensor => Sys2Proof.Machine.execThrottleGrace sensor s
  | .throttleStep sensor => Sys2Proof.Machine.execThrottleStep sensor s
  | .tileMute tile => Sys2Proof.Machine.execTileMute tile s
  | .shutdownDeadline => Sys2Proof.Machine.execShutdownDeadline s
  | .shutdownBiasClear => Sys2Proof.Machine.execShutdownBiasClear s
  | .driverOvercurrent path => Sys2Proof.Machine.execDriverOvercurrent path s
  | .pathFaultClear w v => Sys2Proof.Machine.execPathFaultClear w v s
  | .leaseRevoke w resource => Sys2Proof.Machine.execLeaseRevoke w resource s
  | .faultLogClear w v => Sys2Proof.Machine.execFaultLogClear w v s
  | .shadowUncorrectable => Sys2Proof.Machine.execShadowUncorrectable s
  | .coreParityError core => Sys2Proof.Machine.execCoreParityError core s
  | .scramblerFrameStart port => Sys2Proof.Machine.execScramblerFrameStart port s
  | .domainSwitchOffDone domain => Sys2Proof.Machine.execDomainSwitchOffDone domain s

end Sys2Proof.Machine
end

