-- ==== Sys2Proof/Safety.lean ====
section
/-! DEFINITION. What the claims say of a state in terms of the spec: a step that answers a next state, a device that serves a request at once, the
state in which it is performed, how a command of the Catalogue ends, the machine's invariant and its parts, a mason between two bundles, and a
packet that a port takes. -/
namespace Sys2Proof.Machine

/-- A step is safe when it answers a next state. -/
def stepSafe (s : State) : Prop := ∃ t, step s = .next t

/-- The device performs a request of this caller as soon as it arrives (R58, R69, R71, R72, R80): it serves, boot is complete, the request is for
its own position, no other request waits or is being performed, the tag is not in flight, and the response space takes the largest response. -/
structure State.Attends (s : State) (w : Caller) : Prop where
  serving : s.serving = true
  booted : s.reset_.bootDone = true
  own : w.pos = s.pos
  alone : s.host.stalled = []
  nothing : s.host.performing = none
  tag : ¬((s.pos = 0 ∨ w.port = 1) ∧ w.tag ∈ s.host.forwarded.map (·.request.tag))
  space : w.port = 0 ∨ 32792 ≤ s.responseSpace

/-- The state in which a request that came on a port is performed: the master is noted (R73), and a free value is at hand. -/
def State.met (s : State) (port : Nat) : State := { s.noteMaster port with free := s.free + 1 }

/-- The same once the domain that the request needs has been asked for and found on (R58, R362). -/
def State.metOn (s : State) (port domain : Nat) : State := ((s.met port).needDomain domain).2

/-- Does a domain serve: on, not held by a reset of its own, and, for the Archive, with its reference (R58, R365, R382)? -/
structure State.Serves (s : State) (domain : Nat) : Prop where
  on : s.domainOn domain = true
  free : s.power.resetting.contains domain = false
  held : domain = 5 → s.power.archHeld = false

/-- The response that ends a successful write: status 0 and the epoch in progress (R61). -/
def State.accepted (s : State) (r : Request) : State := s.respond (s.responseTo r 0 false { epoch := epochEntry s.epoch })

/-- What R69 asks before a scalar command acts, on the state that performs it. -/
structure State.Accepts (n : State) (e : Entry) (index sub v : Nat) : Prop where
  row : findEntry index sub = some e
  defined : indexDefined index = true
  low : index < 0xF000
  scalar : e.type ≠ .domain
  cls : n.classFault 4 e.access = none
  head : index = Ix.ArrayModeRequest → n.pos = 0
  mode : n.modeFault 4 index sub = false
  fits : v < 256 ^ e.type.size
  kept : keptValue e v = v
  ok : n.scalarOk e index sub v = true
  free : n.reservedElement index sub = false
  acts : ¬(e.type = .bool ∧ e.access = .cmd ∧ v = 0)

/-- What R67 and R69 ask before a record in one segment acts. -/
structure State.Records (n : State) (e : Entry) (index : Nat) (l : List Byte) : Prop where
  row : findEntry index 0 = some e
  defined : indexDefined index = true
  low : index < 0xF000
  domain : e.type = .domain
  cls : n.classFault 4 e.access = none
  mode : n.modeFault 4 index 0 = false
  min : (domSizes index).1 ≤ l.length
  max : l.length ≤ (domSizes index).2
  one : l.length ≤ 32768
  some : l.length ≠ 0
  notHead : index ≠ Ix.ArrayModeRequest
  ok : n.domValueBad index l = none
  none : n.transferOf index 0 = .none
  room : n.host.transfers.length < 4

/-- The host writes a value into an entry of the device, which performs the write at once and lets it act (R58, R69). -/
structure State.Orders (s : State) (w : Caller) (index sub v : Nat) : Prop where
  attends : s.Attends w
  accepts : ∃ e, (s.met w.port).Accepts e index sub v

/-- The same for a record written in one segment (R67). -/
structure State.OrdersRecord (s : State) (w : Caller) (index : Nat) (l : List Byte) : Prop where
  attends : s.Attends w
  accepts : ∃ e, (s.met w.port).Records e index l

/-- Who sends a request. -/
def callerOf (r : Request) : Caller := ⟨r.port, r.tag, r.pos⟩

/-- The state after a write of a scalar whose effect gives a state: its response is on its way. -/
def State.ended (s : State) (w : Caller) (index sub v : Nat) : State := s.accepted (scalarWrite w index sub v)

/-- The same for a record. -/
def State.endedRecord (s : State) (w : Caller) (index : Nat) (l : List Byte) : State := s.accepted (recordWrite w index l)

/-- What no command undoes in the fuses: a key slot revoked stays revoked (R390), and nothing else that is fused changes. -/
def Fuses.Kept (f g : Fuses) : Prop := (∀ k ∈ f.revoked, k ∈ g.revoked) ∧ g = { f with revoked := g.revoked }

/-- The invariant of the machine: memory and the queues of the Catalogue service keep their forms and their bounds. The event queue holds at most
1024 records and the fault log 256 (R121), the list of corrected words 32, at most four transfers are under way, each of an entry of its own (R56),
and an open commit set holds at most 4096 writes and 8 MiB (R83). -/
structure State.Inv (s : State) : Prop where
  mem : Memory.wf s.mem.bytes = true
  queue : s.ev.queue.length ≤ 1024
  log : s.ev.log.length ≤ 256
  ecc : s.mem.eccLog.length ≤ 32
  transfers : s.host.transfers.length ≤ 4
  one : s.host.transfers.Pairwise (fun a b => ¬(a.index = b.index ∧ a.sub = b.sub))
  openSet : s.host.openSet.length ≤ 4096
  openBytes : stagedBytes s.host.openSet ≤ 8388608

/-- The parts of the machine: the fields of its state. -/
inductive Part where
  | pending | now | epoch | pos | free | cat | dom | loopEdges | tb | host | ev | modes | mem | leases | dma | fuse | power | reset_ | scan
  | lib | radio | userJobs | mix | lin | cal | link | bias | duplex | spe | mason | therm | captureFills | captureReady | farLimits
  deriving DecidableEq, Repr

/-- A part stands in the second state as in the first. -/
def State.same (s t : State) : Part → Prop
  | .pending => t.pending = s.pending
  | .now => t.now = s.now
  | .epoch => t.epoch = s.epoch
  | .pos => t.pos = s.pos
  | .free => t.free = s.free
  | .cat => t.cat = s.cat
  | .dom => t.dom = s.dom
  | .loopEdges => t.loopEdges = s.loopEdges
  | .tb => t.tb = s.tb
  | .host => t.host = s.host
  | .ev => t.ev = s.ev
  | .modes => t.modes = s.modes
  | .mem => t.mem = s.mem
  | .leases => t.leases = s.leases
  | .dma => t.dma = s.dma
  | .fuse => t.fuse = s.fuse
  | .power => t.power = s.power
  | .reset_ => t.reset_ = s.reset_
  | .scan => t.scan = s.scan
  | .lib => t.lib = s.lib
  | .radio => t.radio = s.radio
  | .userJobs => t.userJobs = s.userJobs
  | .mix => t.mix = s.mix
  | .lin => t.lin = s.lin
  | .cal => t.cal = s.cal
  | .link => t.link = s.link
  | .bias => t.bias = s.bias
  | .duplex => t.duplex = s.duplex
  | .spe => t.spe = s.spe
  | .mason => t.mason = s.mason
  | .therm => t.therm = s.therm
  | .captureFills => t.captureFills = s.captureFills
  | .captureReady => t.captureReady = s.captureReady
  | .farLimits => t.farLimits = s.farLimits

/-- The second state differs from the first in no part but those of a list. -/
def State.changesOnly (s t : State) (l : List Part) : Prop := ∀ p : Part, p ∉ l → s.same t p

/-- A core that runs a task stands between two bundles (R265): no operation of a bundle waits, no result is on its way, no branch is pending. -/
structure State.Between (s : State) (m : Nat) (c : MasonCore) : Prop where
  core : s.core m = c
  task : c.task.isSome = true
  bundle : c.bundle = []
  acts : c.acts = []
  dests : c.dests = []
  slot : c.slot = 0
  fault : c.fault = none
  flight : c.flight = []
  flow : c.flow = none
  cycle : c.cycle + 1 < 2 ^ 32

/-- The operation that is a bundle of its own. -/
def alone (m : Nat) : MasonIssue := ⟨m, 0, false⟩

/-- A core after a bundle that does not branch (R265, R266): one cycle on, at the address the loop check gives. -/
def MasonCore.stepped (c : MasonCore) : MasonCore := { c with lc := c.loopCheck.1.lc, pc := c.loopCheck.2, cycle := c.cycle + 1 }

/-- A core after a bundle with a branch (R265): the two delay bundles follow. -/
def MasonCore.branching (c : MasonCore) (target : Nat) : MasonCore :=
  { c with flow := some (target, 2), pc := (c.pc + 16) % 2 ^ 16, cycle := c.cycle + 1 }


/-- A packet of a type in use, with some payload words, reaches an ACTIVE port and is taken: within its class's limit, and with an ETAG of the
numerology in force where the type uses it (R298, R301). -/
structure State.Hears (s : State) (h : PacketHead) (typ words : Nat) : Prop where
  active : s.linkState h.port = 5
  used : typ < 12
  fits : words ≤ classLimit (packetClass typ)
  tag : usesTag typ = true → s.tagOk (s.completeTag h.etag) = true

/-- The state in which a packet is routed: its SEQ is noted, and the units that it freed are owed (R298, R302). -/
def State.heard (s : State) (h : PacketHead) (typ words : Nat) : State :=
  (s.noteSeq h.port h.seq).owe h.port (packetClass typ) (packetUnits words)

/-- A received packet as it is passed on. -/
def asSent (h : PacketHead) (typ : Nat) (payload : List Byte) : OutPacket := ⟨typ, h.pos % 4, h.etag, payload⟩

end Sys2Proof.Machine
end

