-- ==== Sys2Proof/WellFormed.lean ====
section
/-! DEFINITION. The commands that the part can meet: operands within what numbers, fields and byte strings of the hardware can hold. -/
namespace Sys2Proof

/-- An entry point is one of two ports, a tag one byte, a position two bits (Table 3.4). -/
def Caller.wf (w : Caller) : Bool := decide (w.port < 2) && decide (w.tag < 256) && decide (w.pos < 4)

/-- The fields of a request keep their widths (Table 3.4), and its data are whole words (R60). -/
def Request.wf (r : Request) : Bool :=
  decide (r.port < 2) && decide (r.op < 256) && decide (r.tag < 256) && decide (r.pos < 4) && decide (r.sub < 256)
    && decide (r.index < 65536) && decide (r.count < 65536) && decide (r.length < 2 ^ 32) && decide (r.offset < 2 ^ 32)
    && decide (r.param < 2 ^ 64) && decide (r.spare < 4) && decide (r.data.length % 4 = 0)

/-- The fields of a packet header keep their widths (Table 13.1). -/
def PacketHead.wf (h : PacketHead) : Bool :=
  decide (h.port < 2) && decide (h.pos < 4) && decide (h.etag < 2 ^ 32) && decide (h.seq < 256)

/-- A payload is whole words, at most 16,383 (Table 13.1). -/
def wordsOk (l : List Byte) : Bool := decide (l.length % 4 = 0) && decide (l.length ≤ 65532)

/-- A core is one of 48 (R253). -/
def MasonIssue.wf (o : MasonIssue) : Bool := decide (o.core < 48)

/-- A MEM request's tag is a byte, its address has 40 bits (Table 13.6). -/
def MemAccess.wf (a : MemAccess) : Bool := decide (a.tag < 256) && decide (a.addr < 2 ^ 40) && decide (a.bytes < 2 ^ 32)

/-- The counts of a CREDIT packet have 16 bits (R302). -/
def CreditUnits.wf (u : CreditUnits) : Bool := decide (u.c1 < 65536) && decide (u.c2 < 65536) && decide (u.c3 < 65536)

/-- The access that times out is of a core or a channel of the part. -/
def MortarAccess.wf : MortarAccess → Bool
  | .mem _ => true
  | .xfer core _ => decide (core < 48)
  | .burst chan _ => decide (chan < 16)
  | .fetch chan => decide (chan < 16)

/-- Every path that a symbol's measurements name is one of 64, and each has one figure of a kind. -/
def TickInput.wf (x : TickInput) : Bool :=
  x.rx.all (fun y => decide (y.1 < 64)) && x.levels.all (fun y => decide (y.1 < 64)) && x.normSat.all (fun y => decide (y.1 < 64))
    && x.dc.all (fun y => decide (y.1 < 64)) && x.runs.all (fun y => decide (y.1 < 64))
    && (x.badDac ++ x.stuckAdc ++ x.fullAdc ++ x.badRetest).all (fun p => decide (p < 64))

/-- Is a command one the part can meet? -/
def Instr.wf : Instr → Bool
  | .symbolTick x => x.wf
  | .commitFail => true
  | .modeRequest w v => w.wf && decide (v < 65536)
  | .safeHoldRequest w => w.wf
  | .arrayModeRequest w v => w.wf && decide (v < 65536)
  | .preparationComplete => true
  | .modeDone => true
  | .nextSafeStep => true
  | .wake => true
  | .dormantClockCheck _ => true
  | .dlCutoff => true
  | .ulAccumulationDeadline => true
  | .readyReport => true
  | .commitDecision => true
  | .noDecision => true
  | .syncInPulse _ => true
  | .timeLost => true
  | .timeRealign w v => w.wf && decide (v < 65536)
  | .timeRealignStep => true
  | .read r => r.wf
  | .readStaged r => r.wf
  | .snapshot r => r.wf
  | .write r => r.wf
  | .stage r => r.wf
  | .commit r => r.wf
  | .discard r => r.wf
  | .domainTransferTimeout index sub => decide (index < 65536) && decide (sub < 256)
  | .forwardTimeout tag => decide (tag < 256)
  | .request _ => true
  | .response _ => true
  | .status => true
  | .spiFramingError => true
  | .eventAck w n => w.wf && decide (n < 65536)
  | .eventSend => true
  | .masterPresenceClear w v => w.wf && decide (v < 65536)
  | .dcRange path code => decide (path < 64) && decide (1 ≤ code) && decide (code ≤ 3)
  | .synUnlock course => decide (course < 4)
  | .synLock course => decide (course < 4)
  | .relockAttemptFail course => decide (course < 4)
  | .loBorrowSwitch course => decide (course < 4)
  | .loBorrow course offsets => decide (course < 4) && decide (offsets.length = 16)
  | .courseTransitionStart course => decide (course < 4)
  | .courseTransitionDone course => decide (course < 4)
  | .observationStep receiver _ => decide (receiver < 4)
  | .forwardCaptureDone receiver _ _ _ _ => decide (receiver < 4)
  | .reflectedCaptureDone receiver _ _ => decide (receiver < 4)
  | .linUpdateReady path _ _ _ _ => decide (path < 64)
  | .linResume w v => w.wf && decide (v < 65536)
  | .folioSeal w slot => w.wf && decide (slot < 256)
  | .soundingWriteDone => true
  | .libraryValidate w entry => w.wf && decide (entry < 65536)
  | .libraryInvalidate w entry => w.wf && decide (entry < 65536)
  | .weightJobSubmit w record => w.wf && decide (record.length ≤ 32768)
  | .weightJobCancel w job => w.wf && decide (job < 65536)
  | .jobStart => true
  | .jobDone _ => true
  | .gramTimeout => true
  | .cancelSetSeal w slot => w.wf && decide (slot < 256)
  | .cancelSetLoaded slot => decide (slot < 2)
  | .cancelTrain w record => w.wf && decide (record.length ≤ 32768)
  | .cancelTrainStart => true
  | .cancelTrainStageDone _ => true
  | .cancelTrackReady _ => true
  | .speTxSend w record => w.wf && decide (record.length ≤ 32768)
  | .speTxCancel w v => w.wf && decide (v < 65536)
  | .speRxRelease w v => w.wf && decide (v < 65536)
  | .speTxReady => true
  | .speTxStart => true
  | .speTxDone => true
  | .speDiversityDwell => true
  | .speDetect _ => true
  | .speSync _ => true
  | .speSyncWindowExpiry => true
  | .speHeader word => decide (word < 2 ^ 32)
  | .speRx payload crc => decide (payload.length ≤ 4095) && decide (crc < 2 ^ 32)
  | .speCfoMove => true
  | .synpLock => true
  | .trimRecheck w v => w.wf && decide (v < 65536)
  | .calRun w record => w.wf && decide (record.length ≤ 32768)
  | .calRunCancel w v => w.wf && decide (v < 65536)
  | .calRunStart => true
  | .calMeasurementDone m => decide (m.path < 64)
  | .calRunComplete _ => true
  | .calRollStep => true
  | .calStoreSave w contents => w.wf && decide (contents < 256)
  | .calStoreDone _ => true
  | .calStoreTimeout => true
  | .ldv o _ => o.wf
  | .ldvc o _ => o.wf
  | .ldb o _ => o.wf
  | .ldbc o _ => o.wf
  | .stv o _ => o.wf
  | .stvc o _ => o.wf
  | .sta o _ => o.wf
  | .stac o _ => o.wf
  | .ldw o _ => o.wf
  | .stw o _ => o.wf
  | .ldar o _ => o.wf
  | .star o _ => o.wf
  | .cmac o _ => o.wf
  | .cmacj o _ => o.wf
  | .cmul o _ => o.wf
  | .cmulj o _ => o.wf
  | .cmsub o _ => o.wf
  | .tapm o _ => o.wf
  | .clra o _ => o.wf
  | .adda o _ => o.wf
  | .vmova o _ => o.wf
  | .vadd o _ => o.wf
  | .vsub o _ => o.wf
  | .vconj o _ => o.wf
  | .vshr o _ => o.wf
  | .vbcast o _ => o.wf
  | .vrecip o _ => o.wf
  | .vrsqrt o _ => o.wf
  | .vext o _ => o.wf
  | .movi o _ => o.wf
  | .movh o _ => o.wf
  | .addi o _ => o.wf
  | .addp o _ => o.wf
  | .subp o _ => o.wf
  | .shli o _ => o.wf
  | .shrai o _ => o.wf
  | .movs o _ => o.wf
  | .movg o _ => o.wf
  | .loop o _ => o.wf
  | .loopi o _ => o.wf
  | .br o _ => o.wf
  | .call o _ => o.wf
  | .ret o => o.wf
  | .rti o => o.wf
  | .xget o _ => o.wf
  | .xput o _ => o.wf
  | .xwait o _ => o.wf
  | .lease o _ => o.wf
  | .unlease o _ => o.wf
  | .done o _ => o.wf
  | .interruptEntry core => decide (core < 48)
  | .xferComplete core place _ => decide (core < 48) && decide (place < 32)
  | .timerCompare core => decide (core < 48)
  | .watchdogOverrun core => decide (core < 48)
  | .masonRestore w core => w.wf && decide (core < 48)
  | .masonSelftestDone core _ => decide (core < 48)
  | .masonKernelLoad r => r.wf
  | .masonKernelUnload w slot => w.wf && decide (slot < 256)
  | .masonJobSubmit w record => w.wf && decide (record.length ≤ 32768)
  | .masonJobCancel w job => w.wf && decide (job < 65536)
  | .leaseExpiry resource => decide (resource < 65536)
  | .detectPulse port found => decide (port < 2) && decide (found < 512)
  | .trainDone port _ => decide (port < 2)
  | .portStateTimeout port => decide (port < 2)
  | .failedTimeout port => decide (port < 2)
  | .lock port _ own skews => decide (port < 2) && decide (own < 512) && decide (skews.length ≤ 9)
  | .caps port message => decide (port < 2) && decide (message.length = 64)
  | .chain port devices => decide (port < 2) && decide (devices < 256)
  | .bond port lanes => decide (port < 2) && decide (lanes.length = 9)
  | .laneRejoin port lane => decide (port < 2) && decide (lane < 9)
  | .alignForce port => decide (port < 2)
  | .clockLoss port => decide (port < 2)
  | .linkRetrain w port v => w.wf && decide (port < 2) && decide (v < 65536)
  | .linkEnable w port v => w.wf && decide (port < 2) && decide (v < 65536)
  | .layerDl h payload => h.wf && wordsOk payload
  | .layerUl h payload => h.wf && wordsOk payload
  | .prach h payload => h.wf && wordsOk payload
  | .gram h payload => h.wf && wordsOk payload
  | .catReq h payload => h.wf && wordsOk payload
  | .catRsp h payload => h.wf && wordsOk payload
  | .event h payload => h.wf && wordsOk payload
  | .frame h _ offset => h.wf && decide (offset < 2 ^ 32)
  | .echoReq h id => h.wf && decide (id < 2 ^ 32)
  | .echoRsp h id turn => h.wf && decide (id < 2 ^ 32) && decide (turn < 2 ^ 32)
  | .ready h _ => h.wf
  | .decision h _ epoch => h.wf && decide (epoch < 2 ^ 36)
  | .memRead h a => h.wf && a.wf
  | .memWrite h a data => h.wf && a.wf && wordsOk data
  | .memResponse h payload => h.wf && wordsOk payload
  | .capture h payload => h.wf && wordsOk payload
  | .typeDrop h typ payload => h.wf && decide (12 ≤ typ) && decide (typ < 16) && wordsOk payload
  | .credits h u => h.wf && u.wf
  | .resyncReq h => h.wf
  | .resyncAck h => h.wf
  | .resyncDone h u => h.wf && u.wf
  | .resyncRetry port => decide (port < 2)
  | .creditReturnSend port => decide (port < 2)
  | .echoInterval => true
  | .frameMarkerSend => true
  | .packetSend port => decide (port < 2)
  | .captureSend port => decide (port < 2)
  | .mortarTimeout a => a.wf
  | .slowPathDone page => decide (page < 2097152)
  | .scrubPage => true
  | .eccLogClear w v => w.wf && decide (v < 65536)
  | .partitionCopyDone => true
  | .dmaStart w record => w.wf && decide (record.length ≤ 32768)
  | .dmaAbort w channel v => w.wf && decide (channel < 16) && decide (v < 65536)
  | .descriptorFetch channel _ => decide (channel < 16)
  | .dmaBurst => true
  | .dmaWriteResponse channel place => decide (channel < 16) && decide (place < 32)
  | .appendPoll channel => decide (channel < 16)
  | .domainReady domain _ _ _ => decide (domain < 12)
  | .domainWakeTimeout domain => decide (domain < 12)
  | .archInitLimit => true
  | .domainIdleOff domain => decide (domain < 12)
  | .govPlannedWake course => decide (course < 4)
  | .govDormantRequest => true
  | .govWakeNow w v => w.wf && decide (v < 65536)
  | .refclkLoss => true
  | .clockReturn => true
  | .powerHold w course => w.wf && decide (course < 4)
  | .powerRelease w course => w.wf && decide (course < 4)
  | .powerOn => true
  | .brownOut => true
  | .rstNLow => true
  | .rstNHigh straps => decide (straps < 128)
  | .keystoneWatchdog => true
  | .criticalParity => true
  | .resetSourceRelease bit straps => decide (bit < 12) && decide (straps < 128)
  | .resetRequestCold w => w.wf
  | .resetRequestWarm w => w.wf
  | .linkCommandAssert => true
  | .resetCauseClear w v => w.wf && decide (v < 65536)
  | .domainReset w domain => w.wf && decide (domain < 12)
  | .domainResetDone domain => decide (domain < 12)
  | .bootImageReadDone => true
  | .bootReadTimeout => true
  | .bootImageLoad r => r.wf
  | .keyRevoke w record => w.wf && decide (record.length ≤ 32768)
  | .keyRevoked => true
  | .attestRequest w nonce => w.wf && decide (nonce.length ≤ 32768)
  | .attestDone => true
  | .identitySign w digest => w.wf && decide (digest.length ≤ 32768)
  | .signDone => true
  | .testLogicReset straps => decide (straps < 128)
  | .idcode straps => decide (straps < 128)
  | .samplePreload cells straps => decide (cells.length = 243) && decide (straps < 128)
  | .extest => true
  | .extestPulse => true
  | .extestTrain => true
  | .clamp => true
  | .highz => true
  | .bypass straps => decide (straps < 128)
  | .hkFrame f => decide (f.conv < 2)
  | .hkCheck _ => true
  | .hkTrustHka w => w.wf
  | .hkTrustHkb w => w.wf
  | .hkTrustBoth w => w.wf
  | .bloadN => true
  | .bclrNFall => true
  | .bclrNRise => true
  | .biasShort channel => decide (channel < 144)
  | .biasShortClear channel => decide (channel < 144)
  | .throttleGrace sensor => decide (sensor < 24)
  | .throttleStep sensor => decide (sensor < 24)
  | .tileMute tile => decide (tile < 16)
  | .shutdownDeadline => true
  | .shutdownBiasClear => true
  | .driverOvercurrent path => decide (path < 64)
  | .pathFaultClear w v => w.wf && decide (v < 65536)
  | .leaseRevoke w resource => w.wf && decide (resource < 65536)
  | .faultLogClear w v => w.wf && decide (v < 65536)
  | .shadowUncorrectable => true
  | .coreParityError core => decide (core < 48)
  | .scramblerFrameStart port => decide (port < 2)
  | .domainSwitchOffDone domain => decide (domain < 12)

end Sys2Proof
end

