-- ==== Sys2Proof/Certificates/Slice0/Obligations.lean ====
section
/-! DEFINITION. The statements for the provers: what the block's commands do, by the rules of the spec, family by family. A result is an equation for
the next state wherever the rules give it whole: what the equation does not name is unchanged. -/
open Sys2Proof Sys2Proof.Machine

/-- A step takes the command at the front of the queue and gives its effect on the state with the rest of the queue. -/
def Obligations.StepRunsFrontCommand : Prop :=
  ∀ (s : State) (c : Instr) (rest : List Instr), s.pending = c :: rest → step s = exec c { s with pending := rest }

/-- On an empty queue the block idles: a step answers a next state in which at most one unit of 1/3072 ns has passed and the epoch, the Catalogue's
commits and the queues are as before. The model's choice (log entry 4): the table has no row for the passing of time. -/
def Obligations.StepIdlesOnEmptyQueue : Prop :=
  ∀ s : State, s.pending = [] → ∃ t, step s = .next t ∧ t.pending = [] ∧ t.epoch = s.epoch ∧ s.now ≤ t.now ∧ t.now ≤ s.now + 1
    ∧ (s.tb.running = true → s.nextTickAt ≤ s.now → t = s)

/-- Every command of the block, with any operands and in any state, answers a next state and leaves the commands that wait behind it as they stand:
no command faults and none is refused. -/
def Obligations.EveryCommandAnswersANextState : Prop :=
  ∀ (c : Instr) (s : State), ∃ t, exec c s = .next t ∧ t.pending = s.pending

/-- The invariant of the machine holds after reset. -/
def Obligations.ResetHasTheInvariant : Prop :=
  State.reset.Inv

/-- Every step keeps the invariant: the memory's canonical form, at most 1,024 records in the event queue (R83), at most 256 entries in the fault
log (R424), at most 32 in the ECC log, at most four DOMAIN transfers, each of an entry of its own (R67), and at most 4,096 values and 8 MiB in the
open staging set. -/
def Obligations.StepKeepsTheInvariant : Prop :=
  ∀ s t : State, s.Inv → step s = .next t → t.Inv

/-- No command restores a revoked key slot, and none changes anything else that is fused (R390). -/
def Obligations.RevokedKeySlotsStayRevoked : Prop :=
  ∀ (s t : State) (c : Instr), exec c s = .next t → (∀ k ∈ s.fuse.revoked, k ∈ t.fuse.revoked) ∧ t.fuse = { s.fuse with revoked := t.fuse.revoked }

/-- The epoch after an epoch is one further in the linear count of R36, which wraps at a full era cycle. The symbols of Table 2.1 fill time without
a gap (R32): the tick after a symbol lies the symbol's length further in the frame, or begins the next frame 9,830,400 samples after the frame's
start; and each half-subframe starts at a multiple of 491,520 samples. -/
def Obligations.EpochsFollowOneAnother : Prop :=
  (∀ nu e : Nat, nu ≤ 2 → epSym e ≤ 13 → epSlot e < slotsPerFrame nu →
    linearCount nu (epochNext nu e) = (linearCount nu e + 1) % (65536 * 1024 * slotsPerFrame nu * 14)
      ∧ epSym (epochNext nu e) ≤ 13 ∧ epSlot (epochNext nu e) < slotsPerFrame nu)
  ∧ (∀ nu e : Nat, nu ≤ 2 → epSym e ≤ 13 → epSlot e < slotsPerFrame nu →
    (isFrameStart (epochNext nu e) = false → symbolOffset nu (epochNext nu e) = symbolOffset nu e + symbolSamples nu e)
    ∧ (isFrameStart (epochNext nu e) = true → symbolOffset nu e + symbolSamples nu e = 9830400)
    ∧ (isLongSymbol nu e = true → symbolOffset nu e % 491520 = 0))

/-- A request written out as Table 3.4 lays it out and read again is the same request, for every field at every value its width admits. -/
def Obligations.RequestsReadAsWritten : Prop :=
  ∀ r : Request, r.wf = true → parseRequest r.port (requestBytes r) = r

/-- READ and SNAPSHOT (R62, R64) of a device that performs the request at once: the value in force, or the items of one epoch are answered with
status 0, the epoch in progress and, for a READ, the STALE mark; but for the response and the record of the master, nothing changes. -/
def Obligations.ReadsAnswerTheValue : Prop :=
  (∀ (s : State) (r q : Request) (e : Entry), q = { r with op := 1 } → s.Attends (callerOf q) → headerFault q = none →
    (s.met q.port).entryFault 1 q.index q.sub = .ok e → e.type ≠ .domain →
    exec (.read r) s = .next ((s.met q.port).respond ((s.met q.port).responseTo q 0 false
      { stale := (s.met q.port).stale q.index q.sub, epoch := epochEntry s.epoch,
        data := leBytes e.type.size ((s.met q.port).valueOf q.index q.sub) })))
  ∧ (∀ (s : State) (r q : Request) (d : List Byte), q = { r with op := 3 } → s.Attends (callerOf q) → headerFault q = none →
    d = (List.range q.count).flatMap (fun k => (s.met q.port).snapItem (fieldLE q.data (4 * k) 2) (fieldLE q.data (4 * k + 2) 1)) →
    (s.met q.port).responseTooLong q d.length = false →
    exec (.snapshot r) s = .next ((s.met q.port).respond ((s.met q.port).responseTo q 0 false
      { aux := q.count, epoch := epochEntry s.epoch, data := d })))

/-- READ_STAGED (R63): the value held in the open staging set is answered, STALE clear and EPOCH the epoch in progress, whole for a scalar and by
the segment asked for, or by its size, for a DOMAIN value; an entry without a value in the open set aborts with STATE, whatever the sealed commits
hold. -/
def Obligations.StagedValuesAreReadBack : Prop :=
  ∀ (s : State) (r q : Request) (e : Entry), q = { r with op := 2 } → s.Attends (callerOf q) → headerFault q = none →
    (s.met q.port).entryFault 2 q.index q.sub = .ok e →
    (∀ (v : Nat), s.host.openSet.find? (fun it => it.index == q.index && it.sub == q.sub) = some ⟨q.index, q.sub, .num v⟩ →
      exec (.readStaged r) s = .next ((s.met q.port).respond ((s.met q.port).responseTo q 0 false
        { stale := false, epoch := epochEntry s.epoch, data := leBytes e.type.size v })))
    ∧ (∀ (l d : List Byte), s.host.openSet.find? (fun it => it.index == q.index && it.sub == q.sub) = some ⟨q.index, q.sub, .bytes l⟩ →
      q.length = 0 ∧ d = leBytes 4 l.length ∨ 1 ≤ q.length ∧ q.length ≤ 32768 ∧ q.offset + q.length ≤ l.length ∧ d = sliceBytes l q.offset q.length →
      (s.met q.port).responseTooLong q q.length = false →
      exec (.readStaged r) s = .next ((s.met q.port).respond ((s.met q.port).responseTo q 0 false
        { stale := false, epoch := epochEntry s.epoch, data := d })))
    ∧ ((∀ it ∈ s.host.openSet, ¬(it.index = q.index ∧ it.sub = q.sub)) →
      exec (.readStaged r) s = .next ((s.met q.port).refuse q false ⟨abState, (s.met q.port).mode⟩))

/-- WRITE of an entry that only holds its value, STAGE and DISCARD (R58, R65, R66): the value stands in the Catalogue before the response; it stands
in the open staging set in place of an earlier one; or the open set is empty, and the sealed commits stay. -/
def Obligations.WritesTakeEffectBeforeTheResponse : Prop :=
  (∀ (s t : State) (r q : Request) (e : Entry) (v : Nat), q = { r with op := 4 } → s.Attends (callerOf q) → headerFault q = none →
    (s.met q.port).entryFault 4 q.index q.sub = .ok e → e.type ≠ .domain → q.length = e.type.size →
    v = keptValue e (fieldLE q.data 0 e.type.size) → (s.met q.port).scalarOk e q.index q.sub v = true →
    (s.met q.port).reservedElement q.index q.sub = false → ¬(e.type = .bool ∧ e.access = .cmd ∧ v = 0) →
    writeDomainCode q.index = none → (s.met q.port).scalarAct q.index q.sub v = none →
    t = (s.met q.port).wr q.index q.sub v →
    exec (.write r) s = .next (t.respond (t.responseTo q 0 false { epoch := epochEntry s.epoch })))
  ∧ (∀ (s t : State) (r q : Request) (e : Entry) (v : Nat) (l : List StagedItem), q = { r with op := 5 } → s.Attends (callerOf q) →
    headerFault q = none → (s.met q.port).entryFault 5 q.index q.sub = .ok e → e.type ≠ .domain → q.length = e.type.size →
    v = keptValue e (fieldLE q.data 0 e.type.size) → (s.met q.port).scalarOk e q.index q.sub v = true →
    l = putStaged ⟨q.index, q.sub, .num v⟩ s.host.openSet → l.length ≤ 4096 → stagedBytes l ≤ 8388608 →
    t = { s.met q.port with host := { (s.met q.port).host with openSet := l } } →
    exec (.stage r) s = .next (t.respond (t.responseTo q 0 false { epoch := epochEntry s.epoch })))
  ∧ (∀ (s t : State) (r q : Request), q = { r with op := 7 } → s.Attends (callerOf q) → headerFault q = none → (q.array = true → s.pos = 0) →
    t = { s.met q.port with host := { (s.met q.port).host with openSet := [] } } →
    ∃ a : Answer, exec (.discard r) s = .next (t.respond (t.responseTo q 0 false a)))

/-- COMMIT of a device-scope set that meets its lead time and its checks (R40, R41, R66): the open set becomes a sealed commit for the target, a new
empty set opens, and the response names the target; with ASAP a target too near becomes the earliest one, and the response says so. Copies of a
moved partition and the loading of a sealed canceller set that the commit selects start at once (R196, R324). -/
def Obligations.CommitSealsTheOpenSet : Prop :=
  ∀ (s t : State) (r q : Request) (c : SealedCommit) (near : Bool) (target : Nat), q = { r with op := 6 } → s.Attends (callerOf q) →
    headerFault q = none → q.array = false → (s.met q.port).setRefused 6 = false → (s.met q.port).epochOk q.param = true →
    near = !epLe (s.met q.port).earliestCommit (epochOfEntry q.param) → (near = true → q.asap = true) →
    target = (if near then (s.met q.port).earliestCommit else epochOfEntry q.param) → (s.met q.port).beyondLimit target = false →
    c = { source := .host, target := target, original := target, asap := near, array := false, deferred := false,
          missed := false, armed := false, decided := false, items := s.host.openSet } →
    ((s.met q.port).sealCommit c).spanCheck c = none → s.host.commits.length < 8 →
    t = ({ (s.met q.port).sealCommit c with host := { ((s.met q.port).sealCommit c).host with openSet := [] } } : State).afterSeal c →
    exec (.commit r) s = .next (t.respond (t.responseTo q 0 false { asap := near, epoch := epochEntry target }))

/-- MODE_REQUEST and ARRAY_MODE_REQUEST (R25, R28): a request that Table 1.5 and R26 allow starts, with its target where that meets the lead time of
Table 1.6 and with ASAP otherwise at the earliest epoch that does; while a transition is under way it is held as pending, and one that it replaces
is reported. In array scope the head's devices all accept (a device alone has no other to ask). SAFE_HOLD_REQUEST (R29, R422): outside Safe Hold,
with no cause of the host's active, the HOST cause becomes active: recorded in `SafeHoldCauses`, the transition under way abandoned, the pending
request dropped, and Safe Hold due at the next tick; memory, DOMAIN values, the epoch and the sealed commits stay. -/
def Obligations.ModeRequestsAreTaken : Prop :=
  (∀ (s m t : State) (w : Caller) (v to_ target : Nat) (asap : Bool), m = s.met w.port → v = to_ + (if asap then 256 else 0) → to_ < 7 →
    s.Orders w Ix.ModeRequest 0 v → target = m.rdEpoch Ix.ModeTargetEpoch 0 → m.modeRefused m.modeFrom to_ target = false →
    to_ ≠ m.modeFrom → m.beyondLimit target = false → m.modes.abandoned = none → m.modes.underWay = none →
    (epLe (m.modeEarliest m.modeFrom to_ false) target = true ∧ t = m.beginTransition ⟨.mode to_, target, asap, false, false, false⟩
      ∨ epLe (m.modeEarliest m.modeFrom to_ false) target = false ∧ asap = true ∧
        t = m.beginTransition ⟨.mode to_, m.modeEarliest m.modeFrom to_ false, asap, false, false, true⟩) →
    exec (.modeRequest w v) s = .next (t.ended w Ix.ModeRequest 0 v))
  ∧ (∀ (s m : State) (w : Caller) (v to_ target : Nat) (asap : Bool), m = s.met w.port → v = to_ + (if asap then 256 else 0) → to_ < 7 →
    s.Orders w Ix.ModeRequest 0 v → target = m.rdEpoch Ix.ModeTargetEpoch 0 → m.modeRefused m.modeFrom to_ target = false →
    to_ ≠ m.modeFrom → m.beyondLimit target = false → m.modes.underWay ≠ none →
    exec (.modeRequest w v) s = .next ((m.holdPending ⟨.mode to_, target, asap, false, false, false⟩).ended w Ix.ModeRequest 0 v))
  ∧ (∀ (s m : State) (w : Caller) (v to_ target : Nat) (asap : Bool), m = s.met w.port → v = to_ + (if asap then 256 else 0) → to_ < 7 →
    s.Orders w Ix.ArrayModeRequest 0 v → target = m.rdEpoch Ix.ModeTargetEpoch 0 → m.modeRefused m.modeFrom to_ target = false →
    to_ ≠ m.modeFrom → m.beyondLimit target = false → m.modes.abandoned = none → m.modes.underWay = none →
    epLe (m.modeEarliest m.modeFrom to_ true) target = true → m.arrayN ≤ 1 →
    exec (.arrayModeRequest w v) s = .next (({ m.beginTransition ⟨.mode to_, target, asap, true, false, false⟩ with free := m.free } : State).ended
      w Ix.ArrayModeRequest 0 v))
  ∧ (∀ (s m : State) (w : Caller), m = s.met w.port → s.Orders w Ix.ModeRequest 0 7 → m.mode ≠ 1 → m.mode ≠ 2 → m.mode ≠ 7 →
    m.rdBit Ix.SafeHoldCauses 0 0 = false →
    ∃ t : State, exec (.safeHoldRequest w) s = .next (t.ended w Ix.ModeRequest 0 7) ∧ t.modes.safeHoldDue = true ∧ t.modes.pending = none
      ∧ t.modes.underWay = none ∧ t.rdBit Ix.SafeHoldCauses 0 0 = true ∧ t.mem = m.mem ∧ t.dom = m.dom ∧ t.epoch = m.epoch
      ∧ t.host = m.host)

/-- PREPARATION_COMPLETE, MODE_DONE and NEXT_SAFE_STEP (R27, R29): a transition whose domains are on, whose courses are out of OFF and whose loads
have ended is prepared; at the tick of its target, or a later one, the new mode comes into force, is recorded with its epoch and reported, and the
pending request starts; the step of an abandoned preparation ends and is reported with reason PREEMPTED. WAKE and DORMANT_CLOCK_CHECK (R24, R364):
WAKE in Dormant starts the clock check and wakes the domains of Standby; 1 ms later, with the reference present, the time base runs from the next
epoch on, a lock is sought again, Standby comes into force and the wake is recorded. With the reference absent the device first takes the ring
oscillator and its link ports go off. -/
def Obligations.TransitionsEndAtTheirTick : Prop :=
  (∀ (s : State) (t : Transition) (to_ : Nat), s.modes.underWay = some t → t.target = .mode to_ → t.prepared = false →
    (∀ d < 12, s.modeNeeds to_ d = true → s.domainOn d = true) →
    (to_ < 3 ∨ ∀ c < 4, s.courseState c ≠ 0 ∨ s.rdB Ix.PowerHold (c + 1) = true ∨ (s.course c).held = true ∨ s.synState c = 4) →
    (to_ = 5 → s.setForDuplex s = true) → (to_ = 2 → s.rdB Ix.SpeEnable 0 = true → s.spe.locked = true) →
    exec .preparationComplete s = .next { s with modes := { s.modes with underWay := some { t with prepared := true }, stepBusy := false } })
  ∧ (∀ (s t : State) (x : Transition) (to_ : Nat), s.modes.underWay = some x → x.target = .mode to_ → x.prepared = true →
    s.now = s.tb.tickAt → epLe x.epoch s.epoch = true →
    t = ((({ s with modes := { s.modes with underWay := none, stepBusy := false } } : State).wr Ix.ModeCurrent 0 to_).wrEpoch
      Ix.ModeLastChange 0 s.epoch).raise 0x1101 0 (packData [f8 to_, fEpoch s.epoch, fFlag (x.asap && x.missed)]) →
    exec .modeDone s = .next ((t.followMode s.mode to_).startPending false))
  ∧ (∀ (s : State) (t : Target), s.modes.abandoned = some t →
    exec .nextSafeStep s = .next (({ s with modes := { s.modes with abandoned := none, stepBusy := false } } : State).failTarget t
      (preempted t)).speFollow)
  ∧ (∀ s : State, s.mode = 0 → s.power.checkAt = none → s.therm.latched = false →
    exec .wake s = .next (({ s with power := { s.power with checkAt := some s.now } } : State).wakeForMode 1))
  ∧ (∀ (s t u : State) (since : Nat) (present : Bool), s.power.checkAt = some since → since + msec 1 ≤ s.now →
    (present = true → s.rd Ix.ClockSource 0 ≠ 2) →
    t = (if present then ({ s with power := { s.power with checkAt := none } } : State)
      else ((({ s with power := { s.power with checkAt := none } } : State).setClock 2).portToOff 0 2).portToOff 1 2) →
    u = { t with epoch := t.nextEpoch t.epoch, tb := { t.tb with running := true, tickAt := t.now } } →
    exec (.dormantClockCheck present) s = .next ((((u.wrEpoch Ix.EpochCurrent 0 u.epoch).sourceChanged).enterMode 1 false).recordWake 0x8001))

/-- SYMBOL_TICK (R33, R36): where the time base runs, a tick begins the next epoch, at the instant at which the symbol in progress ends; everything
else that it brings leaves epoch and clock alone. A time base that does not run ticks no symbol. SYNC_IN_PULSE and TIME_LOST (R49, R50): at a frame
pulse that a locked time base meets within 100 ns, the phase error is recorded, the frame counted, and the time base moves by at most 2 ns toward
the reference, still locked; without a reference for two frames it enters holdover, with TIME_LOST naming the source and the last epoch with a
reference. TIME_REALIGN and TIME_REALIGN_STEP (R51): a write of 1 arms the step; at the next reference the time base steps to it and acquires again
from there. -/
def Obligations.TicksAndReferencesKeepTime : Prop :=
  (∀ (s : State) (x : TickInput), s.tb.running = true → ∃ t, exec (.symbolTick x) s = .next t ∧ t.epoch = s.nextEpoch s.epoch
    ∧ t.now = s.tb.tickAt + symbolUnits (s.rd Ix.Numerology 0) s.epoch ∧ t.tb.tickAt = t.now ∧ t.fuse.identity = s.fuse.identity)
  ∧ ∀ (s : State) (x : TickInput), s.tb.running = false → exec (.symbolTick x) s = .next s
  ∧ (∀ (s : State) (width : Nat) (phase : Int), s.rd Ix.TimeSource 0 = 1 → s.tb.running = true → s.tb.acquired = true → width < 4000 →
    s.rd Ix.TimeLockState 0 = 2 → phase = s.phaseOf false 0 ((s.now : Int) + s.refOffset) → phase.natAbs ≤ nsec 100 →
    ∃ t, exec (.syncInPulse width) s = .next t ∧ t.tb.tickAt = ((s.tb.tickAt : Int) + clampInt (-6144) 6144 phase).toNat
      ∧ t.rd Ix.TimePhaseError 0 = ofInt 32 (unitsPs phase) ∧ t.rd Ix.TimeLockState 0 = 2 ∧ t.epoch = s.epoch
      ∧ t.tb.refFrame = (s.tb.refFrame + 1) % (65536 * 1024) ∧ t.tb.refAt = s.now)
  ∧ (∀ s : State, s.rd Ix.TimeLockState 0 = 2 → s.rd Ix.TimeSource 0 ≠ 2 → s.tb.refAt + 2 * frameUnits ≤ s.now →
    exec .timeLost s = .next ((s.wr Ix.TimeLockState 0 3).raise 0x1206 0 (packData [f8 (s.rd Ix.TimeSource 0), fEpoch s.tb.lastRef])))
  ∧ (∀ (s m : State) (w : Caller), m = s.met w.port → s.Orders w Ix.TimeRealign 0 1 →
    exec (.timeRealign w 1) s = .next (({ m with tb := { m.tb with realign := true } } : State).ended w Ix.TimeRealign 0 1))
  ∧ (∀ s t : State, s.tb.realign = true → s.tb.acquired = true →
    t = { s with tb := { s.tb with realign := false, offsetSaid := false, goodRefs := 0 } } →
    exec .timeRealignStep s = .next ((t.setTime s.tb.refFrame s.tb.refStart).wr Ix.TimeLockState 0 1))

/-- COMMIT_FAIL, READY_REPORT, COMMIT_DECISION and NO_DECISION (R43, R44, R314): commits not ready at their last candidate are discarded, each
reported with its original target and reason LIMIT; a chained device reports a change of readiness from 550 µs before the target; the head decides
500 µs before it, GO where every position is ready and else DEFER; a chained device without a decision at the target withholds the commit and enters
Safe Hold. -/
def Obligations.CommitsAreDecided : Prop :=
  (∀ (s : State) (gone : List SealedCommit), (∀ c ∈ s.host.commits, c.array = false) → gone = s.host.commits.filter (·.decided) →
    exec .commitFail s = .next (gone.foldl (fun t c => t.raise 0x1204 0 (packData [fEpoch c.original, f8 1]))
      { s with host := { s.host with commits := s.host.commits.filter (fun c => !c.decided) } }))
  ∧ (∀ (s : State) (c : SealedCommit) (ready : Bool), s.pos ≠ 0 → s.undecided = [c] → ready = (s.commitFault c).isNone →
    s.tickOf c.target ≤ s.now + usec 550 → (s.reportOf c.original s.pos).map (·.ready) ≠ some ready →
    exec .readyReport s = .next ((s.keepReport ⟨c.original, s.pos, ready, s.now⟩).sendPacket 0
      { typ := 8, pos := s.pos, etag := c.original % 2 ^ 32, payload := timePayload 4 0 [b2n ready] }))
  ∧ (∀ (s t : State) (c : SealedCommit) (own go : Bool), s.pos = 0 → s.undecided = [c] → c.missed = false →
    s.tickOf c.target ≤ s.now + usec 500 → own = (s.commitFault c).isNone →
    t = (if (s.reportOf c.original 0).map (·.ready) = some own then s else s.keepReport ⟨c.original, 0, own, s.now⟩) →
    go = (List.range s.arrayN).all (fun p => ((t.reportOf c.original p).map (·.ready)).getD false) →
    exec .commitDecision s = .next (t.sendDecision c go c.target))
  ∧ (∀ (s : State) (c : SealedCommit), s.pos ≠ 0 → s.host.commits = [c] → c.array = true → c.armed = false → c.missed = false →
    epLe c.target s.epoch = true → s.mode ≠ 7 → s.rdBit Ix.SafeHoldCauses 0 3 = false →
    ∃ t, exec .noDecision s = .next t ∧ t.host.commits = [{ c with missed := true }] ∧ t.modes.safeHoldDue = true
      ∧ t.rdBit Ix.SafeHoldCauses 0 3 = true ∧ t.rd Ix.CommitMissedCount 0 = (s.rd Ix.CommitMissedCount 0 + 1) % 2 ^ 32)

/-- DOMAIN_TRANSFER_TIMEOUT and FORWARD_TIMEOUT (R68, R75): a transfer idle for `DomainTransferTimeout` is abandoned with nothing written, and a
forwarded request without a response for `ForwardTimeout` aborts with POSITION. REQUEST, RESPONSE, STATUS and a transfer with another command (R79,
R80): every transfer shifts the status byte out; a whole request that the buffer can take is delivered, and one that ends short is counted and
discarded; the oldest response leaves once all its bytes are clocked, and stays otherwise; another command is only counted. EVENT_ACK, EVENT_SEND
and MASTER_PRESENCE_CLEAR (R73, R83): the n oldest records leave the queue, and records lost since the last report are then reported; routed north,
the oldest record leaves in an EVENT packet; the record of ports seen is cleared. -/
def Obligations.RequestsAndEventsAreServed : Prop :=
  (∀ (s : State) (index sub : Nat) (x : DomainTransfer), s.transferOf index sub = some x →
    x.lastAt + msec (s.rd Ix.DomainTransferTimeout 0) ≤ s.now →
    exec (.domainTransferTimeout index sub) s = .next (({ s with host := { s.host with
      transfers := s.host.transfers.filter (fun t => !(t.index == index && t.sub == sub)) } } : State).raise 0x1403 0
        (packData [fEntry index sub, f8 1])))
  ∧ (∀ (s : State) (tag : Nat) (f : Forwarded), s.host.forwarded.find? (fun f => f.request.tag == tag) = some f →
    f.sentAt + msec (s.rd Ix.ForwardTimeout 0) ≤ s.now →
    exec (.forwardTimeout tag) s = .next (({ s with host := { s.host with forwarded := s.host.forwarded.erase f } } : State).refuse f.request
      false ⟨abPosition, 0⟩))
  ∧ (∀ (s : State) (l : List Byte), s.serving = true → 24 ≤ l.length → impliedSize (parseRequest 1 l) ≤ l.length → s.reqSpace = true →
    exec (.request l) s = .next (((s.spiBegin []).arrive (parseRequest 1 l)).bootContinue))
  ∧ (∀ (s : State) (l : List Byte), s.serving = true → s.reset_.bootDone = true → l.length < 24 →
    exec (.request l) s = .next ((s.spiBegin []).bump Ix.SpiFramingErrors 0))
  ∧ (∀ (s : State) (n : Nat) (x : Response) (rest : List Response), s.serving = true → s.reset_.bootDone = true →
    s.host.responses = x :: rest → s.host.stalled = [] → s.host.performing = none →
    exec (.response n) s = .next (if (responseBytes x).length ≤ n
      then { s.spiBegin (sliceBytes (responseBytes x) 0 n) with host := { (s.spiBegin (sliceBytes (responseBytes x) 0 n)).host with
        responses := rest } }
      else s.spiBegin (sliceBytes (responseBytes x) 0 n)))
  ∧ (∀ s : State, s.serving = true → exec .status s = .next (s.spiBegin []))
  ∧ (∀ s : State, s.serving = true → exec .spiFramingError s = .next ((s.spiBegin []).bump Ix.SpiFramingErrors 0))
  ∧ (∀ (s m : State) (w : Caller) (n : Nat), m = s.met w.port → s.Orders w Ix.EventAck 0 n → 1 ≤ n → n ≤ 64 → n ≤ m.ev.queue.length →
    m.ev.lostSince = 0 →
    exec (.eventAck w n) s = .next (({ m with ev := { m.ev with queue := m.ev.queue.drop n } } : State).ended w Ix.EventAck 0 n))
  ∧ (∀ (s m : State) (w : Caller) (n : Nat), m = s.met w.port → s.Orders w Ix.EventAck 0 n → 1 ≤ n → n ≤ 64 → n ≤ m.ev.queue.length →
    m.ev.lostSince ≠ 0 →
    exec (.eventAck w n) s = .next ((({ m with ev := { m.ev with queue := m.ev.queue.drop n, lostSince := 0 } } : State).raise 0x1401 0
      (packData [fCount m.ev.lostSince])).ended w Ix.EventAck 0 n))
  ∧ (∀ (s : State) (r : EventRec) (rest : List EventRec), s.ev.queue = r :: rest → s.rd Ix.EventRoute 0 = 1 → s.rd Ix.LinkState 1 = 5 →
    exec .eventSend s = .next ((s.sendNow 0 7 s.pos (eventBytes r)).dropEvents 1))
  ∧ (∀ (s m : State) (w : Caller), m = s.met w.port → s.Orders w Ix.MasterPresenceClear 0 1 →
    exec (.masterPresenceClear w 1) s = .next ((({ m with host := { m.host with lastPort := none, secondRaised := false } } : State).wr
      Ix.MasterPresence 0 0).ended w Ix.MasterPresenceClear 0 1))

/-- SYN_UNLOCK, SYN_LOCK and RELOCK_ATTEMPT_FAIL (R90, R91): a locked detector that reports loss starts a counted relock; a relock that reaches lock
ends it; an attempt without lock after 120 µs is followed by a new one, and the third in a row marks the synthesiser failed. LO_BORROW_SWITCH and
LO_BORROW (R92): at a slot boundary a course whose partner still qualifies takes its LO and spends the slot in phase recalibration; at the next the
measured offsets are applied, the course returns to service and the borrowing is reported. DC_RANGE (R89): a fine offset estimate that has stood at
its limit for 1 s is reported, and its second begins again. -/
def Obligations.SynthesisersAndOffsetsAreFollowed : Prop :=
  (∀ (s : State) (c : Nat), s.rd Ix.SynState (c + 1) = 3 → (s.course c).detected = true →
    exec (.synUnlock c) s = .next (((s.bump Ix.SynRelockCount (c + 1)).raise 0x2001 (c + 1) (packData [f8 c])).startRelock c 0))
  ∧ (∀ (s : State) (c : Nat), s.rd Ix.SynState (c + 1) = 1 ∨ s.rd Ix.SynState (c + 1) = 2 →
    exec (.synLock c) s = .next ((s.wr Ix.SynState (c + 1) 3).setCourse c { s.course c with relockAt := none, attempts := 0, detected := true }))
  ∧ (∀ (s : State) (c t : Nat), (s.course c).relockAt = some t → t + usec 120 ≤ s.now → (s.course c).attempts < 2 →
    exec (.relockAttemptFail c) s = .next ((s.wr Ix.SynState (c + 1) 1).setCourse c
      { s.course c with relockAt := some s.now, attempts := (s.course c).attempts + 1 }))
  ∧ (∀ (s : State) (c t : Nat), (s.course c).relockAt = some t → t + usec 120 ≤ s.now → 2 ≤ (s.course c).attempts →
    exec (.relockAttemptFail c) s = .next ((((s.wr Ix.SynState (c + 1) 4).setCourse c
      { s.course c with relockAt := none, attempts := 3 }).raise 0x2002 (c + 1) (packData [f8 c, fCount 3])).synFailed c))
  ∧ (∀ (s : State) (c b : Nat), (s.course c).borrowFrom = some b → epSym s.epoch = 0 → s.now = s.tb.tickAt → s.borrowPartner c = some b →
    exec (.loBorrowSwitch c) s = .next ((s.wr Ix.LoSource (c + 1) b).setCourse c { s.course c with borrowFrom := none, recal := true }))
  ∧ (∀ (s t : State) (c : Nat) (offsets : List Int), (s.course c).recal = true → epSym s.epoch = 0 → s.now = s.tb.tickAt →
    s.rd Ix.CancelSetState 1 ≠ 2 → s.rd Ix.CancelSetState 2 ≠ 2 →
    t = (coursePaths c).zipIdx.foldl (fun s q => s.setPath q.1 { s.path q.1 with loOffset := (s.path q.1).loOffset + offsets.getD q.2 0 })
      (s.setCourse c { s.course c with recal := false }) →
    ∃ u, exec (.loBorrow c offsets) s = .next u ∧ u = t.raise 0x2003 (c + 1) (packData [f8 c, f8 (t.loSource c)])
      ∧ (u.course c).recal = false)
  ∧ (∀ (s : State) (p code t : Nat), (s.path p).dcLimitSince = some t → t + msec 1000 ≤ s.now →
    exec (.dcRange p code) s = .next ((s.setPath p { s.path p with dcLimitSince := some s.now }).raise 0x2007 (p + 1)
      (packData [f8 p, f8 code])))

/-- COURSE_TRANSITION_START and COURSE_TRANSITION_DONE (R94 to R97): out of OFF, once its domains are on and the mode has the course, the transition
to IDLE starts, and with it a relock where the synthesiser is not locked; a transition whose time has come leaves the course in its new state. -/
def Obligations.CoursesChangeState : Prop :=
  (∀ (s : State) (c : Nat), s.rd Ix.CourseState (c + 1) = 0 → 3 ≤ s.mode → s.modes.underWay = none → s.domainOn (8 + c) = true →
    s.domainOn 3 = true → s.rdB Ix.PowerHold (c + 1) = false → (s.course c).held = false → (s.course c).moving = none →
    s.window c = none → s.rd Ix.SynState (c + 1) = 3 →
    exec (.courseTransitionStart c) s = .next (s.setCourse c { s.course c with moving := some 1 }))
  ∧ (∀ (s : State) (c to_ : Nat), (s.course c).moving = some to_ → s.transitionReady c = true → to_ ≠ 0 → to_ ≠ 1 → s.window c = none →
    exec (.courseTransitionDone c) s = .next (((s.wr Ix.CourseState (c + 1) to_).setCourse c { s.course c with moving := none })))

/-- OBSERVATION_STEP, FORWARD_CAPTURE_DONE and REFLECTED_CAPTURE_DONE (R115, R116, R173 to R175): a step that falls due takes the receiver's lease
and sets FBSEL to the path's forward port; a usable forward capture goes to the course's buffer, FBSEL to the reflected port, and the buffers
alternate; the reflected capture ends the step, with FBSEL 0b000 and the lease released. LIN_UPDATE_READY and LIN_RESUME (R178 to R180): the first
candidate that meets the corridor is committed internally to the first slot two epochs on, with the sequence of the tables it was measured with; a
spoiled capture makes no update and is counted; a resume clears HOLD of the path named, or of every path with 0xFF. -/
def Obligations.ObservationAndLinearisersRun : Prop :=
  (∀ (s t : State) (r k p : Nat), 3 ≤ s.mode → (s.obs r).cycleAt ≤ s.now → k = (s.now - (s.obs r).cycleAt) / usec (s.rd Ix.LinStepInterval (r + 1)) →
    (s.obs r).steps ≤ k → (s.obs r).step = none → t = s.setObs r { s.obs r with steps := k + 1 } → s.stepPath r k = some p →
    t.stepPath r k = some p → s.stepIdle (courseOf p) = false → t.observable p = true → t.leased (0x400 + r) = false →
    ∃ u, exec (.observationStep r true) s = .next u ∧ (u.obs r).step = some ⟨p, none⟩ ∧ (u.obs r).steps = k + 1
      ∧ tget 0 (tileOf p) u.lin.fbsel = p % 4 ∧ u.leases = (t.takeLease (0x400 + r) (t.functionOwner 3) none none).leases)
  ∧ (∀ (s : State) (r p : Nat) (pFbin d : Int) (samples : List Byte), (s.obs r).step = some ⟨p, none⟩ → -2500 ≤ d →
    s.capturesDiscarded p = false → s.rdBit Ix.LinStatus (p + 1) 3 = true →
    ∃ u, exec (.forwardCaptureDone r pFbin d false samples) s = .next u ∧ (u.obs r).step = some ⟨p, some (pFbin, d)⟩
      ∧ (u.obs r).buffer = 1 - (s.obs r).buffer ∧ tget 0 (tileOf p) u.lin.fbsel = 4 + p % 4
      ∧ (u.linPath p).capture = some ⟨courseOf p, (s.obs r).buffer, (s.linPath p).seq, false⟩)
  ∧ (∀ (s : State) (r p : Nat) (pFwd dFwd pRef d : Int), (s.obs r).step = some ⟨p, some (pFwd, dFwd)⟩ → d < -2500 →
    exec (.reflectedCaptureDone r pRef d) s = .next ((((s.setObs r { s.obs r with step := none }).setFbsel (tileOf p) 0)).freeLease (0x400 + r)))
  ∧ (∀ (s : State) (p : Nat) (nmse aclr : Int) (cands : List (Tab Cplx)) (coefs : List Byte) (cap : LinCapture), (s.linPath p).capture = some cap →
    cap.spoiled = true →
    exec (.linUpdateReady p nmse aclr cands coefs) s = .next ((s.setLinPath p { s.linPath p with capture := none }).bump
      Ix.LinUpdatesDiscarded (p + 1)))
  ∧ (∀ (s : State) (p : Nat) (nmse aclr : Int) (cand : Tab Cplx) (coefs : List Byte) (cap : LinCapture), (s.linPath p).capture = some cap →
    cap.spoiled = false → s.rd Ix.LinMode (p + 1) = 2 → s.rd Ix.LinStatus (p + 1) = 0 → s.mode ≠ 7 → s.rd Ix.PathFault (p + 1) = 0 → p < 64 →
    (s.linPath p).nmseBefore = none → s.linCorridor p cand = 0 →
    ∃ u, exec (.linUpdateReady p nmse aclr [cand] coefs) s = .next u
      ∧ (u.linPath p).due = some ⟨s.slotTwoEpochsOn, cand, cap.seq, 0, nmse, false, coefs⟩ ∧ u.lin.tables = s.lin.tables
      ∧ u.rd Ix.LinNmse (p + 1) = ofInt 16 nmse ∧ u.rd Ix.LinAclr (p + 1) = ofInt 16 aclr)
  ∧ (∀ (s m : State) (w : Caller) (p : Nat), m = s.met w.port → s.Orders w Ix.LinResume 0 p → p < 64 →
    exec (.linResume w p) s = .next (((m.wrBit Ix.LinStatus (p + 1) 4 false).setLinPath p
      { (m.wrBit Ix.LinStatus (p + 1) 4 false).linPath p with reverts := 0 }).ended w Ix.LinResume 0 p))

/-- FOLIO_SEAL (R136): a seal of a slot not in service checks the header where it stands. Where every field passes, the slot is sealed, the header
of a numbered slot is shown, and FOLIO_SEALED carries its layers and groups; else its state is seal failed and FOLIO_SEAL_FAIL carries the offset of
the first failing field. -/
def Obligations.FoliosAreSealed : Prop :=
  (∀ (s n : State) (w : Caller) (slot : Nat) (h : List Byte), n = s.metOn w.port 3 → (s.met w.port).Serves 3 → s.Orders w Ix.FolioSeal 0 slot →
    slot < 4 → n.folioState slot ≠ 2 → n.mem.upsets = [] → h = n.folioHeader slot → n.folioCheck slot = none →
    exec (.folioSeal w slot) s = .next ((((n.setFolioState slot 1).setDom Ix.FolioSlotHeader (slot + 1) h).raiseFolio 0x3001 slot
      (packData [f8 slot, f8 (folioLayers h), f16 (folioGroups h)])).ended w Ix.FolioSeal 0 slot))
  ∧ (∀ (s n : State) (w : Caller) (slot off : Nat), n = s.metOn w.port 3 → (s.met w.port).Serves 3 → s.Orders w Ix.FolioSeal 0 slot →
    isSlot slot = true → n.folioState slot ≠ 2 → n.mem.upsets = [] → n.folioCheck slot = some off →
    exec (.folioSeal w slot) s = .next (((n.setFolioState slot 3).raiseFolio 0x3002 slot (packData [f8 slot, f8 off])).ended
      w Ix.FolioSeal 0 slot))

/-- DL_CUTOFF and UL_ACCUMULATION_DEADLINE (R38, R130, R309): at its cut-off a downlink symbol for which sections are scheduled and none has come is
silent and counts an underrun, and one whose sections are all there waits with them for the Beam Mixer; an own uplink section whose deadline has
passed leaves without its partial, is counted, and its symbol reported. -/
def Obligations.SectionsMeetTheirDeadlines : Prop :=
  (∀ (s v : State) (n : Nat) (sched : List (List Byte)), n = s.addEpochs 2 s.epoch → layerDlMode s.mode = true → s.cutOffAt s.epoch ≤ s.now →
    s.mix.judged = [] → s.mix.got = [] → s.mix.trunc = [] → v = s.viewAt n → v.dlSymbol n = true → sched = v.scheduled Ix.DlLayerMap n →
    sched ≠ [] → ∃ t : State, t = (s.bump Ix.DlUnderruns 0).raise 0x1201 0 (packData [fEpoch n, fCount sched.length])
      ∧ exec .dlCutoff s = .next { t with mix := { t.mix with judged := [{ epoch := n, silent := true, parts := [] }] } })
  ∧ (∀ (s v : State) (n : Nat) (d : List Byte) (x : SectionRec), n = s.addEpochs 2 s.epoch → layerDlMode s.mode = true →
    s.cutOffAt s.epoch ≤ s.now → s.mix.judged = [] → s.mix.got = [(n, x)] → s.mix.trunc = [] → v = s.viewAt n → v.dlSymbol n = true →
    v.scheduled Ix.DlLayerMap n = [d] → sectionFits x d = true → (∀ b ∈ x.blocks, b.1 ≤ 16 - x.width) →
    exec .dlCutoff s = .next { s with mix := { s.mix with got := [], judged :=
      [{ epoch := n, silent := false, parts := [(d, x.blocks.flatMap (blockSamples x.width))] }] } })
  ∧ (∀ (s : State) (u : UlSection), s.mix.waiting = [u] → s.accumulationDeadline u.epoch ≤ s.now →
    exec .ulAccumulationDeadline s = .next ((((({ s with mix := { s.mix with waiting := [] } } : State).bump Ix.UlPartialSent 0).emitSection u).raise
      0x1208 0 (packData [fEpoch u.epoch, f8 (s.pos + 1)]))))

/-- SOUNDING_WRITE_DONE, LIBRARY_VALIDATE and LIBRARY_INVALIDATE (R148, R150): the oldest estimate enters its entry, points first, then the header
with state valid, and is counted; a poisoned word met while merging makes the entry invalid. An entry the host wrote becomes valid where its header
passes, and invalid, with the offset of the failing field, where it does not; an entry that is not pinned is made invalid on request. -/
def Obligations.LibraryEntriesChangeState : Prop :=
  (∀ (s t : State) (x : SoundingWrite) (rest : List SoundingWrite) (b : Nat) (snr : List Int) (hdr : List Byte), s.lib.writes = x :: rest →
    x.merge = false → b = s.entryBase x.entry → snr = x.snr.filter (· != -32768) → snr ≠ [] →
    hdr = [1, 2] ++ leBytes 1 (2 * b2n x.saturated + b2n x.partial_) ++ leBytes 1 x.record ++ leBytes 2 (s.activeSubcarriers / 6) ++ [0, 0]
      ++ leBytes 8 (epochEntry x.epoch) ++ leBytes 8 (epochEntry x.epoch) ++ leBytes 2 (ofInt 16 (snr.sum.tdiv snr.length)) ++ [0, 0]
      ++ leBytes 4 ((s.numAt (b + 28) 4 + 1) % 2 ^ 32) ++ s.prbsList.flatMap (leBytes 2) ++ List.replicate 24 0 →
    t = x.points.foldl (fun s p => s.ownBytes (b + 1024 + 256 * p.1) (p.2.flatMap cplxBytes))
      (({ s with lib := { s.lib with writes := rest } } : State).zeroRange (b + 1024) 559104) →
    exec .soundingWriteDone s = .next ((t.ownBytes b (hdr ++ bitmapBytes 144 x.prbs
      ++ (x.snr.map (fun y => if y = -32768 then 0 else y)).flatMap (fun y => leBytes 2 (ofInt 16 y)))).bump Ix.SoundingWritten 0))
  ∧ (∀ (s t : State) (x : SoundingWrite) (rest : List SoundingWrite) (b a : Nat), s.lib.writes = x :: rest → x.merge = true →
    b = s.entryBase x.entry → s.mem.upsets = [] → s.firstPoison b 336 = some a → t = { s with lib := { s.lib with writes := rest } } →
    exec .soundingWriteDone s = .next (((t.consumePoison a).ownBytes (b + 1) [3]).soundDropped x.record 3 x.entry))
  ∧ (∀ (s n : State) (w : Caller) (e b : Nat), n = s.metOn w.port 5 → (s.met w.port).Serves 5 → s.Orders w Ix.LibraryValidate 0 e →
    e < n.rd Ix.LibraryEntries 0 → n.mem.upsets = [] → b = n.entryBase e → n.libraryCheck e = none →
    exec (.libraryValidate w e) s = .next ((n.ownBytes (b + 1) [2, BitVec.ofNat 8 (setBit (n.numAt (b + 2) 1) 3 true), 0xFF]).ended
      w Ix.LibraryValidate 0 e))
  ∧ (∀ (s n : State) (w : Caller) (e off : Nat), n = s.metOn w.port 5 → (s.met w.port).Serves 5 → s.Orders w Ix.LibraryValidate 0 e →
    e < n.rd Ix.LibraryEntries 0 → n.mem.upsets = [] → n.libraryCheck e = some off →
    exec (.libraryValidate w e) s = .next (((n.ownBytes (n.entryBase e + 1) [3]).raise 0x3403 0 (packData [f16 e, f8 off])).ended
      w Ix.LibraryValidate 0 e))
  ∧ (∀ (s n : State) (w : Caller) (e : Nat), n = s.metOn w.port 5 → (s.met w.port).Serves 5 → s.Orders w Ix.LibraryInvalidate 0 e →
    e < n.rd Ix.LibraryEntries 0 → n.pinnedBy e = none →
    exec (.libraryInvalidate w e) s = .next ((n.ownBytes (n.entryBase e + 1) [3]).ended w Ix.LibraryInvalidate 0 e))

/-- WEIGHT_JOB_SUBMIT and WEIGHT_JOB_CANCEL (R153, R154, R162): an accepted job of this device alone pins its entries, leases its target slots and
queues behind the earlier jobs; with COMMIT it also seals the internal commit of its select entries, and the response carries the target. A
cancelled job fails with reason CANCELLED. JOB_START, JOB_DONE and GRAM_TIMEOUT (R155, R161, R162): the oldest queued job starts by writing its
slots' headers, which opens them; an external job then copies its image into every slot, seals them, gives up its pins and leases and reports
JOB_DONE; an exchange that is incomplete `GramTimeout` after the start fails the job. -/
def Obligations.WeightJobsAreQueuedAndRun : Prop :=
  (∀ (s n t : State) (w : Caller) (l : List Byte) (j : WeightJob) (target : Nat), n = s.metOn w.port 4 → (s.met w.port).Serves 4 →
    s.OrdersRecord w Ix.WeightJobSubmit l → j = ⟨fieldLE l 10 2, l, 0, n.epoch, 0, [], 0xFF, 0xFF, [], [], []⟩ → j.array = false →
    n.mem.upsets = [] → n.jobField j = none → n.lib.jobs.length < 8 → (∀ k ∈ n.lib.jobs, k.job ≠ j.job) →
    (∀ k ∈ j.slots, n.folioState k ≠ 2 ∧ n.commitNames k = false ∧ thas k n.lib.slotLease = false) → n.keepBad j = false →
    (∀ e ∈ j.entries, n.entryValid e j.first j.count = true) → target = epochOfEntry (fieldLE l 24 8) →
    t = { n with lib := { n.lib with jobs := n.lib.jobs ++ [j], slotLease := j.slots.foldl (fun l k => tins k j.job l) n.lib.slotLease } } →
    (j.commit = false → exec (.weightJobSubmit w l) s = .next (t.endedRecord w Ix.WeightJobSubmit l))
    ∧ (∀ (u : State) (q : Request), j.commit = true → n.leadMet false target = true → n.host.commits.length < 8 →
      q = recordWrite w Ix.WeightJobSubmit l →
      u = t.sealCommit (internalCommit (.weightJob j.job) target false false
        ((if j.dir = 1 then [] else [⟨Ix.DlFolioSelect, 0, .num j.dlSlot⟩]) ++ (if j.dir = 0 then [] else [⟨Ix.UlFolioSelect, 0, .num j.ulSlot⟩]))) →
      exec (.weightJobSubmit w l) s = .next (u.respond (u.responseTo q 0 false { epoch := epochEntry target }))))
  ∧ (∀ (s m : State) (w : Caller) (job : Nat) (j : WeightJob), m = s.met w.port → s.Orders w Ix.WeightJobCancel 0 job →
    m.lib.jobs.find? (fun k => k.job == job) = some j → j.array = false ∨ m.pos = 0 →
    exec (.weightJobCancel w job) s = .next ((m.failJob job 4 m.pos).ended w Ix.WeightJobCancel 0 job))
  ∧ (∀ (s t : State) (j k : WeightJob) (rest : List WeightJob), s.lib.jobs = j :: rest → j.state = 0 →
    t = j.slots.foldl (fun s k => (s.ownBytes (folioSlotBase k) (s.jobHeader j k)).setFolioState k 0) s →
    k = { j with startedAt := t.now, faulty := t.faultyPaths, keepDl := t.rd Ix.DlFolioSelect 0, keepUl := t.rd Ix.UlFolioSelect 0, state := 3 } →
    (j.algorithm = 3 → exec .jobStart s = .next (t.setJob k))
    ∧ (∀ own : List GramBlock, j.algorithm ≠ 3 → j.array = false → t.mem.upsets = [] →
      (∀ e ∈ j.entries, t.firstPoison (t.entryBase e + 1024) 559104 = none) → own = (t.jobGroups k).map (t.ownGram k) →
      exec .jobStart s = .next (t.setJob { k with own := own, total := own })))
  ∧ (∀ (s t u : State) (j : WeightJob) (img : List Byte) (micros : Nat) (rest : List WeightJob), s.lib.jobs = j :: rest → j.state = 3 →
    j.algorithm = 3 → s.mem.upsets = [] → s.jobPoison j = none → img = s.bytesAt j.source (64 + min 0x8FFFC0 (s.numAt (j.source + 32) 4)) →
    t = j.slots.foldl (fun s k => s.sealFolio k) (j.slots.foldl (fun s k => s.ownBytes (folioSlotBase k) img) s) →
    (∀ k ∈ j.slots, t.folioState k ≠ 3) →
    u = { t with lib := { t.lib with jobs := t.lib.jobs.filter (fun k => k.job != j.job),
                                     slotLease := t.lib.slotLease.filter (fun c => c.2 != j.job) } } →
    exec (.jobDone micros) s = .next (((u.keepResult ⟨j.job, 5, 0, j.accepted, u.epoch, 0, 0, micros⟩).bump Ix.WeightJobsDone 0).raise 0x3404 0
      (packData [f16 j.job, fCount 0, fCount 0])))
  ∧ (∀ (s : State) (j : WeightJob) (rest : List WeightJob), s.lib.jobs = j :: rest → j.state = 2 →
    j.startedAt + usec (s.rd Ix.GramTimeout 0) ≤ s.now → exec .gramTimeout s = .next (s.failJob j.job 3 s.pos))

/-- CANCEL_SET_SEAL and CANCEL_SET_LOADED (R196): a slot not in service whose set passes becomes sealed, loads where a commit names it and is
reported; one that fails becomes seal failed, with the offset of the first failing field. A load that ends keeps the copy, or, where it met a
poisoned word, raises CANCEL_SET_POISON and keeps none. CANCEL_TRAIN, CANCEL_TRAIN_START and CANCEL_TRAIN_STAGE_DONE (R198 to R200): training
accepted in Calibrate takes the leases of the four observation receivers and of the calibration slot; at START it opens the slot and records the
receive gains; each stage's coefficients enter the slot and the next stage begins; a poisoned read and captures without a usable level fail it.
CANCEL_TRACK_READY (R203): with tracking on and a set in service, the captures serve the courses in turn, and what they give is committed internally
to the first slot two epochs on, together with the sequence of the set it was measured with; nothing of the set in force changes yet. -/
def Obligations.CancellerSetsAreTrainedAndLoaded : Prop :=
  (∀ (s n : State) (w : Caller) (slot : Nat), n = s.metOn w.port 5 → (s.met w.port).Serves 5 → s.Orders w Ix.CancelSetSeal 0 slot → slot < 2 →
    n.rd Ix.CancelSetState (slot + 1) ≠ 2 → n.setCheck slot = none → n.setNamed slot = false →
    exec (.cancelSetSeal w slot) s = .next (((n.wr Ix.CancelSetState (slot + 1) 1).raise 0x3C07 (slot + 1) (packData [f8 slot])).ended
      w Ix.CancelSetSeal 0 slot))
  ∧ (∀ (s n : State) (w : Caller) (slot off : Nat), n = s.metOn w.port 5 → (s.met w.port).Serves 5 → s.Orders w Ix.CancelSetSeal 0 slot →
    slot < 2 → n.rd Ix.CancelSetState (slot + 1) ≠ 2 → n.setCheck slot = some off →
    exec (.cancelSetSeal w slot) s = .next (((n.wr Ix.CancelSetState (slot + 1) 3).raise 0x3C08 (slot + 1) (packData [f8 slot, f32 off])).ended
      w Ix.CancelSetSeal 0 slot))
  ∧ (∀ (s t : State) (slot : Nat), (∃ l ∈ s.duplex.loads, l.slot = slot) → s.mem.upsets = [] →
    t = { s with duplex := { s.duplex with loads := s.duplex.loads.filter (fun l => l.slot != slot) } } →
    (s.firstPoison (s.setBase slot) setLength = none →
      exec (.cancelSetLoaded slot) s = .next { t with duplex := { t.duplex with copies := tins slot (s.setCopy slot) t.duplex.copies } })
    ∧ (∀ a : Nat, s.firstPoison (s.setBase slot) setLength = some a →
      exec (.cancelSetLoaded slot) s = .next ((t.consumePoison a).raise 0x3C09 (slot + 1) (packData [f8 slot, f32 (a - s.setBase slot)]))))
  ∧ (∀ (s m t : State) (w : Caller) (l : List Byte) (slot symbols start : Nat), m = s.met w.port → s.OrdersRecord w Ix.CancelTrain l →
    slot = fieldLE l 0 1 → symbols = fieldLE l 1 1 → start = epochOfEntry (fieldLE l 8 8) → m.mode = 3 → m.duplex.train = none → slot < 2 →
    m.rd Ix.CancelSetState (slot + 1) ≠ 2 → m.setNamed slot = false → 14 ≤ symbols → m.epochOk (fieldLE l 8 8) = true →
    m.beyondLimit start = false → epLe m.earliestCommit start = true → (∀ r ∈ trainLeases, m.leaseOf r = none) →
    t = trainLeases.foldl (fun s r => s.takeLease r (m.functionOwner 2) none none) m →
    exec (.cancelTrain w l) s = .next ((({ t with duplex := { t.duplex with train := some ⟨slot, symbols, start, 0⟩ } } : State).govDemand).endedRecord
      w Ix.CancelTrain l))
  ∧ (∀ (s t : State) (x : TrainSys) (b : Nat), s.duplex.train = some x → x.stage = 0 → epLe x.start s.epoch = true → b = s.setBase x.slot →
    t = { s with duplex := { s.duplex with train := some { x with stage := 1 }, copies := tdel x.slot s.duplex.copies } } →
    exec .cancelTrainStart s = .next (((((t.zeroRange b setLength).ownBytes (b + 128)
      (allPaths.map (fun p => BitVec.ofNat 8 (s.rd Ix.RxGainFixed (p + 1))))).wr Ix.CancelSetState (x.slot + 1) 0).wr Ix.CancelTrainState 0 1)))
  ∧ (∀ (s t : State) (x : TrainSys) (b : Nat) (r : TrainResult), s.duplex.train = some x → x.stage ≠ 0 → x.stage < 4 → r.poison = false →
    r.level = true → b = s.setBase x.slot →
    t = r.tiles.foldl (fun s c => s.ownBytes (b + c.1 % setLength) (leBytes 1 c.2))
      (r.coefs.foldl (fun s c => s.ownBytes (b + c.1 % setLength) (cplxBytes c.2)) s) →
    exec (.cancelTrainStageDone r) s = .next (({ t with duplex := { t.duplex with train := some { x with stage := x.stage + 1 } } } : State).wr
      Ix.CancelTrainState 0 (x.stage + 1)))
  ∧ (∀ (s t a u v : State) (x : TrainSys) (b : Nat) (r : TrainResult), s.duplex.train = some x → x.stage = 4 → r.poison = false → r.level = true →
    b = s.setBase x.slot →
    t = r.tiles.foldl (fun s c => s.ownBytes (b + c.1 % setLength) (leBytes 1 c.2))
      (r.coefs.foldl (fun s c => s.ownBytes (b + c.1 % setLength) (cplxBytes c.2)) s) →
    a = t.ownBytes b t.setHeader → u = r.figures.foldl State.verifyPath (a.ownBytes (b + 64) (a.domVal Ix.FlexSubbands 0)) →
    v = trainLeases.foldl (fun s r => s.freeLease r) { u with duplex := { u.duplex with train := none } } → v.setNamed x.slot = false →
    ∃ data : Nat, exec (.cancelTrainStageDone r) s = .next (((v.wr Ix.CancelSetState (x.slot + 1) 1).wr Ix.CancelTrainState 0 5).raise 0x3C01 0 data))
  ∧ (∀ (s t : State) (x : TrainSys) (r : TrainResult), s.duplex.train = some x → x.stage ≠ 0 → r.poison = true ∨ r.level = false →
    t = trainLeases.foldl (fun s r => s.freeLease r) { s with duplex := { s.duplex with train := none } } →
    exec (.cancelTrainStageDone r) s = .next (((t.wr Ix.CancelSetState (x.slot + 1) 0).wr Ix.CancelTrainState 0 6).raise 0x3C02 0
      (packData [f8 x.stage, f8 (if r.poison then 3 else 4)])))
  ∧ (∀ (s : State) (solves : List TrackSolve), s.rd Ix.CancelAdapt 0 = 1 → s.setInService ≠ none →
    ∃ t x, exec (.cancelTrackReady solves) s = .next t ∧ t.duplex.due = some x ∧ x.target = s.slotTwoEpochsOn ∧ x.base = s.duplex.seq
      ∧ t = { s with duplex := { s.duplex with nextCourse := (s.duplex.nextCourse + 1) % 4, due := some x } })
  ∧ (∀ (s : State) (y : TrackSolve) (old : List Cplx), s.rd Ix.CancelAdapt 0 = 1 → s.setInService ≠ none →
    courseOf y.path = s.duplex.nextCourse → y.subband < 8 → y.coefs.length = 256 → s.trackFrozen y.path = false →
    old = coefsOf s.duplex.current y.path y.subband →
    s.trackEdge y.path (coefsOf s.duplex.trained y.path y.subband) old (trackMove 64 old y.coefs) = 0 →
    ∃ t x, exec (.cancelTrackReady [y]) s = .next t ∧ t.duplex.due = some x ∧ x.bytes = ((trackMove 64 old y.coefs).flatMap cplxBytes).zipIdx.map (fun b => (4608 + 1024 * (8 * y.path + y.subband) + b.2, b.1)))

/-- SPE_TX_SEND, SPE_TX_CANCEL and SPE_RX_RELEASE (R217, R218, R220, R226): in Listen a timed send whose record is within Table 9.9 and whose START
lies 20 µs ahead is scheduled, with the packet's length and the TIMESTAMP its sync word will leave at; a cancelled send that has not left TX-READY's
wait is dropped and reported with reason CANCELLED; a release clears the bit of its slot, or with 0xFF every bit. SPE_TX_READY, SPE_TX_START and
SPE_TX_DONE (R206, R218 to R220): 1 µs before its ramp a send takes the SPE to TX-READY; at its air time, with SYNP locked and the buffer clean, the
packet goes on the air from the main path, and with SYNP unlocked it is muted, counted and reported; at the end of the ramp-down the instant its
sync word left is latched, it is counted and reported, and the SPE goes to its return state. -/
def Obligations.SpeSendsAreScheduledAndRun : Prop :=
  (∀ (s m : State) (w : Caller) (l : List Byte) (t : SpeSend) (startV start span : Nat), m = s.met w.port → s.OrdersRecord w Ix.SpeTxSend l →
    m.speState ≠ 0 → m.mode = 2 → m.spe.send = none → fieldLE l 1 1 ≤ 7 → fieldLE l 2 1 ≤ 2 → fieldLE l 4 2 ≤ 2047 →
    bitAt (fieldLE l 0 1) 7 = true → startV = fieldLE l 8 8 → m.stampOk startV = true → epLe m.epoch (epochOfEntry startV) = true →
    start = m.tickOf (epochOfEntry startV) + nsec (startV % 2 ^ 28) → m.now + usec 20 ≤ start → m.leaseOf 0x300 = none →
    span = spePacketSamples m.speN (fieldLE l 2 1) (fieldLE l 4 2) * m.speSample →
    t = ⟨fieldLE l 0 1 % 4, fieldLE l 1 1, fieldLE l 2 1, fieldLE l 4 2, start, start + span,
      m.stampFrom (start + 5 * m.speN * m.speSample) 600 (epochOfEntry startV), 0, 0, false⟩ →
    exec (.speTxSend w l) s = .next (((({ m with spe := { m.spe with send := some t } } : State).wr Ix.SpeTxScheduled 0 startV).govDemand).endedRecord
      w Ix.SpeTxSend l))
  ∧ (∀ (s m : State) (w : Caller) (t : SpeSend), m = s.met w.port → s.Orders w Ix.SpeTxCancel 0 1 → m.spe.send = some t → t.phase = 0 →
    exec (.speTxCancel w 1) s = .next (((({ m with spe := { m.spe with send := none, air := [] } } : State).wr Ix.SpeTxScheduled 0 0).raise 0x4404 0
      (packData [f8 t.buffer, f8 2])).ended w Ix.SpeTxCancel 0 1))
  ∧ (∀ (s m : State) (w : Caller) (k : Nat), m = s.met w.port → s.Orders w Ix.SpeRxRelease 0 k → k < 8 →
    exec (.speRxRelease w k) s = .next ((m.wrBit Ix.SpeRxPending 0 k false).ended w Ix.SpeRxRelease 0 k))
  ∧ (∀ (s m : State) (w : Caller), m = s.met w.port → s.Orders w Ix.SpeRxRelease 0 0xFF →
    exec (.speRxRelease w 0xFF) s = .next ((m.wr Ix.SpeRxPending 0 0).ended w Ix.SpeRxRelease 0 0xFF))
  ∧ (∀ (s : State) (t : SpeSend), s.spe.send = some t → t.phase = 0 → t.start ≤ s.now + usec 3 → s.spe.recv = none →
    exec .speTxReady s = .next (({ s with spe := { s.spe with send := some { t with phase := 1 }, cand := none } } : State).wr Ix.SpeState 0 3))
  ∧ (∀ (s n : State) (t : SpeSend) (a p : Nat) (air : List (List (Int × Int × Int))), s.spe.send = some t → t.phase = 1 → t.start ≤ s.now + usec 2 → s.spe.diversity = false →
    p = s.rd Ix.SpeMainPath 0 → s.rdB Ix.MismatchFlag (p + 1) = false → a = spe_Base + 0x8000 + 0x800 * t.buffer → s.mem.upsets = [] →
    n = s.wr Ix.SpeAntennaInUse 0 p → air = speFrame s.speN (s.rd Ix.SpeSyncWord 0) t.length t.typ t.mod (s.bytesAt a t.length) →
    (s.synpLocked = true → s.firstPoison a t.length = none →
      exec .speTxStart s = .next (({ n with spe := { s.spe with send := some { t with phase := 2, path := p, muted := false },
                                                                air := air } } : State).wr Ix.SpeState 0 4))
    ∧ (s.synpLocked = false → s.firstPoison a t.length = none →
      exec .speTxStart s = .next ((((({ n with spe := { s.spe with send := some { t with phase := 2, path := p, muted := true },
                                                                    air := [] } } : State).wr Ix.SpeState 0 4).bump Ix.SpeCounters 0x0D).raise 0x4403 0 (packData [f8 t.buffer]))))
    ∧ (∀ x : Nat, s.firstPoison a t.length = some x → exec .speTxStart s = .next ((n.consumePoison x).speAbort 1)))
  ∧ (∀ (s n : State) (t : SpeSend), s.spe.send = some t → t.phase = 2 → t.finish + usec 2 ≤ s.now → t.muted = false →
    n = ({ s with spe := { s.spe with send := none, air := [] } } : State).wr Ix.SpeTxScheduled 0 0 →
    exec .speTxDone s = .next ((((n.wr Ix.SpeLastTxTimestamp 0 t.stamp).bump Ix.SpeCounters 0x0C).raise 0x4402 0 (packData [f8 t.buffer])).speReturn))

/-- SPE_DETECT, SPE_SYNC and SPE_SYNC_WINDOW_EXPIRY (R221, R222, R227 to R229): in RX a detection starts a reception on the path in use; during one
that has found its sync word, without late capture, it becomes the candidate; before the sync word a detection stronger by the capture margin
restarts the receiver. A sync word within its window and its bit errors is found and its latched values kept; at the end of the window the detection
ends as false. -/
def Obligations.SpeDetectsAndSynchronises : Prop :=
  (∀ (s : State) (d : SpeDetect) (x : SpeDetection), s.speState = 2 → s.mode = 2 → s.spe.diversity = false →
    x = ⟨s.now, d.metric, s.now + (5 * s.speN - d.into) * s.speSample⟩ →
    (s.spe.recv = none → ∃ t, exec (.speDetect d) s = .next t ∧ t.rd Ix.SpeAntennaInUse 0 = s.rd Ix.SpeMainPath 0
      ∧ t.spe = { s.spe with recv := some ⟨x, s.rd Ix.SpeMainPath 0, false, false, false, 0, 0, 0, none⟩, cand := none })
    ∧ (∀ r : SpeRecv, s.spe.recv = some r → r.synced = false → r.det.metric + (s.rd Ix.SpeCaptureMargin 0 : Int) ≤ d.metric →
      ∃ t, exec (.speDetect d) s = .next t ∧ t.rd Ix.SpeCounters 7 = (s.rd Ix.SpeCounters 7 + 1) % 2 ^ 32
        ∧ t.spe = { s.spe with recv := some ⟨x, s.rd Ix.SpeMainPath 0, false, false, false, 0, 0, 0, none⟩, cand := none })
    ∧ (∀ r : SpeRecv, s.spe.recv = some r → r.synced = true → s.rdB Ix.SpeLateCapture 0 = false → s.spe.cand = none →
      exec (.speDetect d) s = .next { s with spe := { s.spe with cand := some x } }))
  ∧ (∀ (s : State) (f : SpeSyncFound) (r : SpeRecv), s.spe.recv = some r → s.speState = 2 → r.synced = false →
    s.now ≤ s.speWindowEnd r.det.at_ + s.speTs → bitErrors f.word (s.rd Ix.SpeSyncWord 0) ≤ s.rd Ix.SpeSyncErrors 0 →
    exec (.speSync f) s = .next (s.setSpe { s.spe with recv := some { r with synced := true, stamp := f.stamp % 2 ^ 64, rssi := f.rssi,
                                                                             cfo := f.cfo } }))
  ∧ (∀ (s : State) (r : SpeRecv), s.spe.recv = some r → r.synced = false → s.speWindowEnd r.det.at_ ≤ s.now → s.spe.cand = none →
    exec .speSyncWindowExpiry s = .next { s.bump Ix.SpeCounters 4 with spe := { s.spe with recv := none } })

/-- SPE_HEADER and SPE_RX (R225, R226): a header with a good CRC is kept, and one with a bad CRC or MOD 0b11 is counted and ends the detection as
false; a packet whose payload passes its CRC-32 completes with status OK, one that does not with CRC_FAIL, and one longer than the buffer with
LEN_OVF and the bytes that fit. A completed packet goes to the next free slot, which becomes pending, and is reported. SPE_DIVERSITY_DWELL,
SPE_CFO_MOVE and SYNP_LOCK (R208, R215, R216, R224): an armed receiver in diversity turns to the other alternate after its dwell; a move due shifts
SYNP by the offset, limited per move and in total, holds it unlocked for 4 µs, and reports where a limit reduced it; SYNP's lock takes an SPE that
may run from OFF to its return state. -/
def Obligations.SpeReceivesAndFollows : Prop :=
  (∀ (s : State) (r : SpeRecv) (h : Nat), s.spe.recv = some r → r.synced = true → r.header = none → h < 2 ^ 32 →
    h % 65536 = speHeaderCrc (bitsOf h 31 16) → bitsOf h 17 16 ≠ 3 → bitsOf h 31 21 ≠ 0 →
    exec (.speHeader h) s = .next { s with spe := { s.spe with recv := some { r with header := some h } } })
  ∧ (∀ (s : State) (r : SpeRecv) (h : Nat), s.spe.recv = some r → r.synced = true → r.header = none → s.spe.cand = none →
    h % 65536 ≠ speHeaderCrc (bitsOf h 31 16) ∨ bitsOf h 17 16 = 3 →
    exec (.speHeader h) s = .next { s.bump Ix.SpeCounters 3 with spe := { s.spe with recv := none } })
  ∧ (∀ (s : State) (r : SpeRecv) (h len : Nat) (payload : List Byte) (crc : Nat), s.spe.recv = some r → r.header = some h → len = bitsOf h 31 21 →
    (len ≤ s.rd Ix.SpeRxBufferSize 0 → crc = speCrc32 (sliceBytes payload 0 len) →
      exec (.speRx payload crc) s = .next (s.speComplete r 0 (sliceBytes payload 0 len) true))
    ∧ (len ≤ s.rd Ix.SpeRxBufferSize 0 → crc ≠ speCrc32 (sliceBytes payload 0 len) →
      exec (.speRx payload crc) s = .next (s.speComplete r 1 (sliceBytes payload 0 len) false))
    ∧ (s.rd Ix.SpeRxBufferSize 0 < len →
      exec (.speRx payload crc) s = .next (s.speComplete r 2 (sliceBytes payload 0 (s.rd Ix.SpeRxBufferSize 0)) false)))
  ∧ (∀ (s n : State) (r : SpeRecv) (status : Nat) (payload : List Byte) (k : Nat), r.diversity = false → s.speByCal = false →
    k = (s.spe.lastSlot + 1) % 8 → s.rdBit Ix.SpeRxPending 0 k = false →
    n = (s.ownBytes (spe_Base + 0x1000 * k) (s.speRecord r status payload.length)).ownBytes (spe_Base + 0x1000 * k + 0x40) payload →
    s.speStore r status payload = (((n.setSpe { s.spe with lastSlot := k, written := s.spe.written + 1 }).wrBit Ix.SpeRxPending 0 k true).raise 0x4401 0
      (packData [f8 k, f8 status, f16 (bitsOf (r.header.getD 0) 31 21)])))
  ∧ (∀ (s n : State), s.speState = 2 → s.spe.diversity = true → s.spe.recv = none → s.spe.dwellAt + 3 * s.speN / 4 * s.speSample ≤ s.now →
    n = { s with spe := { s.spe with alt := 1 - s.spe.alt, dwellAt := s.now } } →
    exec .speDiversityDwell s = .next (n.wr Ix.SpeAntennaInUse 0 (s.rd Ix.SpeAltPath (1 - s.spe.alt + 1))))
  ∧ (∀ (s n : State) (at_ : Nat) (ppb was moved total : Int), s.spe.move = some (at_, ppb) → at_ ≤ s.now → was = s.rdI 32 Ix.SpeCfoApplied 0 →
    moved = clampInt (-(s.rd Ix.SpeCfoStepMax 0 : Int)) (s.rd Ix.SpeCfoStepMax 0) ppb →
    total = clampInt (-(s.rd Ix.SpeCfoRange 0 : Int)) (s.rd Ix.SpeCfoRange 0) (was + moved) →
    n = ({ s with spe := { s.spe with move := none, settleUntil := s.now + usec 4 } } : State).wrI 32 Ix.SpeCfoApplied 0 total →
    exec .speCfoMove s = .next (if total = was + ppb then n else n.raise 0x4406 0 (packData [fI32 total])))
  ∧ (∀ (s : State) (since : Nat), s.spe.lockSince = some since → s.speState = 0 → s.speAllowed = true →
    exec .synpLock s = .next (({ s with spe := { s.spe with locked := true, lockSince := none } } : State).speReturn))

/-- TRIM_RECHECK and CAL_ROLL_STEP (R231, R249): a recheck that finds the shadow as fused shows its CRC and disturbs nothing. Every
`CalRollInterval` slots, in a mode of service, the next path that is in use takes the calibration slot and its course's observation receiver and is
claimed from the next slot boundary; where a lease cannot be taken, or the course's LO is unlocked, the step is skipped and reported. CAL_RUN,
CAL_RUN_CANCEL and CAL_RUN_START (R239, R240, R248): a run of this device alone, accepted in Calibrate with a valid trim shadow and a record within
Table 10.2, takes its leases and waits for START; at START it measures from the course temperatures of that moment; a cancelled run fails with
reason CANCELLED. -/
def Obligations.CalibrationRunsAndRechecks : Prop :=
  (∀ (s m : State) (w : Caller), m = s.met w.port → s.Orders w Ix.TrimRecheck 0 1 → m.mode ≠ 0 → trimCrcOf m.cal.shadow = m.fuse.trimCrc →
    exec (.trimRecheck w 1) s = .next ((m.wr Ix.TrimCrc 0 (trimCrcOf m.cal.shadow)).ended w Ix.TrimRecheck 0 1))
  ∧ (∀ (s n : State) (p c : Nat), s.rdB Ix.CalRollEnable 0 = true → rollMode s.mode = true → s.cal.slotsLeft = 0 →
    n = ({ s with cal := { s.cal with slotsLeft := s.rd Ix.CalRollInterval 0 } } : State).wr Ix.CalRollPath 0 ((p + 1) % 64) →
    s.rollPath = some p → c = courseOf p →
    (s.leased 0x500 = true ∨ s.leased (0x400 + c) = true → exec .calRollStep s = .next (n.raise 0x4804 0 (packData [f8 p, f8 1])))
    ∧ (s.leased 0x500 = false → s.leased (0x400 + c) = false → s.loLocked c = false →
      exec .calRollStep s = .next (n.raise 0x4804 0 (packData [f8 p, f8 2])))
    ∧ (s.leased 0x500 = false → s.leased (0x400 + c) = false → s.loLocked c = true → ∃ t r, exec .calRollStep s = .next t
      ∧ t.cal.step = some r ∧ r.rolling = true ∧ r.paths = 2 ^ p ∧ r.kinds = s.rd Ix.CalRollKinds 0 ∧ r.start = s.nextSlotStart s.epoch
      ∧ t.leases = ((n.takeLease 0x500 (s.functionOwner 4) none none).takeLease (0x400 + c) (s.functionOwner 4) none none).leases))
  ∧ (∀ (s m t : State) (w : Caller) (l : List Byte) (kinds paths start : Nat), m = s.met w.port → s.OrdersRecord w Ix.CalRun l →
    kinds = fieldLE l 1 1 → paths = fieldLE l 4 8 → start = epochOfEntry (fieldLE l 12 8) → m.mode = 3 → m.cal.run = none → m.cal.due = [] →
    m.rd Ix.TrimValid 0 ≠ 0 → fieldLE l 0 1 = 0 → 1 ≤ kinds → kinds < 16 → fieldLE l 2 2 ≠ 0 →
    (∃ p < 64, bitAt paths p = true ∧ m.rd Ix.PathEnable (p + 1) % 4 ≠ 0) → m.epochOk (fieldLE l 12 8) = true → m.beyondLimit start = false →
    fieldLE l 20 8 = 0 → fieldLE l 28 4 = 0 → (bitAt kinds 3 = true → m.speInLo = true) → epLe m.earliestCommit start = true →
    (∀ r ∈ calLeases kinds, m.leaseOf r = none) →
    t = ((calLeases kinds).foldl (fun s r => s.takeLease r (m.functionOwner 1) none none) m).wr Ix.CalRunState 0 1 →
    exec (.calRun w l) s = .next (((({ t with cal := { t.cal with run := some ⟨fieldLE l 2 2, false, false, kinds, paths, start, false, 0, false, [],
      [], [], [], none, 0⟩ } } : State).govDemand)).endedRecord w Ix.CalRun l))
  ∧ (∀ (s m : State) (w : Caller), m = s.met w.port → s.Orders w Ix.CalRunCancel 0 1 →
    exec (.calRunCancel w 1) s = .next ((m.calFails 2).ended w Ix.CalRunCancel 0 1))
  ∧ (∀ (s n : State) (r : CalRunSys), s.cal.run = some r → r.measuring = false → epLe r.start s.epoch = true → s.setInService = none →
    n = { s with cal := { s.cal with run := some { r with measuring := true,
                                                          temps := (List.range 4).map (fun c => s.rdI 16 Ix.CalCourseTemp (c + 1)) } } } →
    exec .calRunStart s = .next ((n.wr Ix.CalRunState 0 2).showCalStale))

/-- CAL_MEASUREMENT_DONE (R232, R237, R240 to R242): a measurement the run asked for is accepted where its two results agree within their tolerances
and its values lie within their limits; else its kind is rejected for the path, with the reason. One that lost the LO is repeated once; a poisoned
word fails the run. CAL_RUN_COMPLETE (R247): a run that has measured, without reciprocity and under native acceptance, gives up its leases, and its
results wait for symbol 0 of the first slot that begins at least two epochs later. -/
def Obligations.CalibrationMeasurementsAreJudged : Prop :=
  (∀ (s : State) (r : CalRunSys) (x : CalMeasure), s.cal.run = some r → r.rolling = false → r.measuring = true → x.kind ∈ [1, 2, 4, 8] →
    r.kinds / x.kind % 2 = 1 → x.path < 64 → bitAt r.paths x.path = true →
    (x.poison = true → exec (.calMeasurementDone x) s = .next (s.calFails 4))
    ∧ (x.poison = false → x.lost = true → (x.kind, x.path) ∉ r.repeated →
      exec (.calMeasurementDone x) s = .next { s with cal := { s.cal with run := some { r with repeated := r.repeated ++ [(x.kind, x.path)] } } })
    ∧ (x.poison = false → x.lost = true → (x.kind, x.path) ∈ r.repeated →
      exec (.calMeasurementDone x) s = .next (s.calReject r x.kind x.path 4 0))
    ∧ (x.poison = false → x.lost = false → x.kind = 8 → x.snr < s.rdI 16 Ix.CalRecipMinSnr 0 →
      exec (.calMeasurementDone x) s = .next (s.calReject r 8 x.path 3 x.snr))
    ∧ (x.poison = false → x.lost = false → (x.kind = 8 → s.rdI 16 Ix.CalRecipMinSnr 0 ≤ x.snr) → s.rd Ix.CalProfile 0 = 0 → s.disagreements x ≠ [] →
      exec (.calMeasurementDone x) s = .next (s.calReject r x.kind x.path 1 (worstOf (s.disagreements x))))
    ∧ (∀ y : Int, x.poison = false → x.lost = false → (x.kind = 8 → s.rdI 16 Ix.CalRecipMinSnr 0 ≤ x.snr) → s.rd Ix.CalProfile 0 = 1 ∨ s.disagreements x = [] → s.limitBroken x = some y →
      exec (.calMeasurementDone x) s = .next (s.calReject r x.kind x.path 2 y))
    ∧ (x.poison = false → x.lost = false → (x.kind = 8 → s.rdI 16 Ix.CalRecipMinSnr 0 ≤ x.snr) → s.rd Ix.CalProfile 0 = 1 ∨ s.disagreements x = [] → s.limitBroken x = none →
      exec (.calMeasurementDone x) s = .next { s with cal := { s.cal with run := some { r with accepted := r.accepted ++ [s.accept x] } } }))
  ∧ (∀ (s n : State) (r : CalRunSys) (peers : CalPeers), s.cal.run = some r → r.rolling = false → r.measuring = true → s.rd Ix.CalProfile 0 = 0 →
    (∀ a ∈ r.accepted, a.kind ≠ 8) →
    n = ((calLeases r.kinds).foldl State.freeLease { s with cal := { s.cal with run := none } }).wr Ix.CalRunState 0 3 →
    exec (.calRunComplete peers) s = .next { n with cal := { n.cal with due := n.cal.due ++ [{ r with due := s.slotTwoEpochsOn }] } })

/-- CAL_STORE_SAVE, CAL_STORE_DONE and CAL_STORE_TIMEOUT (R250, R251): a save without a canceller set takes its snapshot with SEQUENCE one above the
newer valid bank's, and erases the other bank; once the read-back matches, the record stands in the bank, which is valid, and CAL_STORE_DONE is
raised; a read-back that fails, a write into the bank meanwhile and a timeout fail the save. -/
def Obligations.CalibrationIsStored : Prop :=
  (∀ (s n u : State) (w : Caller) (mask bank seq : Nat), n = s.metOn w.port 5 → (s.met w.port).Serves 5 → s.Orders w Ix.CalStoreSave 0 mask →
    mask = 1 ∨ mask = 3 → n.mode ≠ 0 → n.cal.save = none → n.cal.saveAsked = none → n.bootReading = false → n.mem.upsets = [] →
    n.firstPoison n.calBase 86272 = none →
    n.newerBank = none ∧ bank = 0 ∧ seq = 1 ∨ n.newerBank = some (1 - bank) ∧ bank < 2 ∧ seq = (n.rd Ix.CalStoreBankSeq (2 - bank) + 1) % 2 ^ 32 →
    u = (((n.zeroRange (n.bankBase bank) 0x200000).wr Ix.CalStoreBankState (bank + 1) 0).wr Ix.CalStoreBankSeq (bank + 1) 0).wr Ix.CalStoreState 0 1 →
    ∃ t : State, exec (.calStoreSave w mask) s = .next (t.ended w Ix.CalStoreSave 0 mask)
      ∧ t.cal = { u.cal with save := some ⟨bank, seq, n.now, false, n.storeRecord mask seq⟩ }
      ∧ t.mem = { u.mem with saving := some (n.bankBase bank), saveHit := false } ∧ t.cat = u.cat ∧ t.dom = u.dom)
  ∧ (∀ (s n o q : State) (v : SaveSys), s.cal.save = some v → s.mem.saveHit = false → n = s.storeBytes (s.bankBase v.bank) v.record →
    o = { n with cal := { n.cal with save := none } } → q = { o with mem := { o.mem with saving := none, saveHit := false } } →
    exec (.calStoreDone true) s = .next ((((q.wr Ix.CalStoreBankState (v.bank + 1) 1).wr Ix.CalStoreBankSeq (v.bank + 1) v.sequence).wr
      Ix.CalStoreState 0 0).raise 0x4806 0 (packData [f8 v.bank, f32 v.sequence])))
  ∧ (∀ (s : State) (v : SaveSys) (b : Bool), s.cal.save = some v → (s.mem.saveHit = true → exec (.calStoreDone b) s = .next (s.storeFails 2))
    ∧ (s.mem.saveHit = false → exec (.calStoreDone false) s = .next (s.storeFails 3))
    ∧ (v.since + msec (s.rd Ix.CalStoreTimeout 0) ≤ s.now → exec .calStoreTimeout s = .next (s.storeFails 1)))

/-- MOVI, MOVH, ADDI, ADDP, SUBP, SHLI, SHRAI, VEXT, MOVG and MOVS (R256, R257, R259): the pointer register takes the value of Table 11.5, within 40
bits, and nothing else of the core changes but its address and cycle; MOVS gives a system register the value, and raises ILLEGAL for a code that
none may write, as MOVG does for one that names none. -/
def Obligations.MasonScalarsWritePointers : Prop :=
  ∀ (s : State) (m : Nat) (c : MasonCore) (f : CFormat) (g : AFormat) (put : Int → State), s.Between m c →
    put = (fun v => s.setCore m (c.stepped.setP f.pd.toNat (ofInt 40 v))) →
    exec (.movi (alone m) f) s = .next (put (toInt 24 f.imm.toNat))
    ∧ exec (.movh (alone m) f) s = .next (put (c.pInt f.pd.toNat % 2 ^ 24 + 2 ^ 24 * (f.imm.toNat % 2 ^ 16 : Nat)))
    ∧ exec (.addi (alone m) f) s = .next (put (c.pInt f.pa.toNat + toInt 24 f.imm.toNat))
    ∧ exec (.addp (alone m) f) s = .next (put (c.pInt f.pd.toNat + c.pInt f.pa.toNat))
    ∧ exec (.subp (alone m) f) s = .next (put (c.pInt f.pd.toNat - c.pInt f.pa.toNat))
    ∧ exec (.shli (alone m) f) s = .next (put (c.pInt f.pa.toNat * 2 ^ (f.imm.toNat % 64)))
    ∧ exec (.shrai (alone m) f) s = .next (put (c.pInt f.pa.toNat / 2 ^ (f.imm.toNat % 64)))
    ∧ (∀ x : Cplx, x = (c.getV g.va.toNat).getD (g.imm.toNat % 8) czero →
      exec (.vext (alone m) g) s = .next (s.setCore m (c.stepped.setP (g.vd.toNat % 16) (ofInt 40 (if g.imm.getLsbD 3 then x.im else x.re)))))
    ∧ (∀ v : Nat, c.sysRead m f.imm.toNat = some v → exec (.movg (alone m) f) s = .next (put v))
    ∧ (c.sysRead m f.imm.toNat = none → exec (.movg (alone m) f) s = .next ((s.setCore m c).coreException m 2 0))
    ∧ (f.imm.toNat ≤ 0x1D → exec (.movs (alone m) f) s = .next (s.setCore m (c.stepped.sysWrite f.imm.toNat (c.getP f.pa.toNat))))
    ∧ (0x1D < f.imm.toNat → exec (.movs (alone m) f) s = .next ((s.setCore m c).coreException m 2 0))

/-- VADD, VSUB, VCONJ, VSHR and VBCAST with latency 1, VMOVA with latency 2, VRECIP and VRSQRT with latency 6 (R261 to R265): the vector register
takes the lanes of Table 11.5; a saturation sets OVF; a scaled move updates the headroom and, with AUTO, SH, which it counts in `MasonScaleEvents`.
CMAC, CMACJ, CMUL, CMULJ, CMSUB, CLRA, ADDA and TAPM (R260, R261, R265): the accumulator takes the products and sums of Table 11.5, wrapped at 40
bits, chained at once for the MAC family and visible to others after 4 cycles; TAPM also moves its pair of vectors by one sample, and raises ILLEGAL
for an odd VB. -/
def Obligations.MasonVectorsAndProducts : Prop :=
  (∀ (s : State) (m : Nat) (c : MasonCore) (f : AFormat) (a b : List Cplx) (put : Bool → List Cplx → State) (late : Nat → Bool → List Cplx → State),
    s.Between m c → a = c.getV f.va.toNat → b = c.getV f.vb.toNat →
    put = (fun ovf l => let d := if ovf then c.stepped.status 15 true false else c.stepped
      s.setCore m { d with v := tput zero8 f.vd.toNat l d.v }) →
    late = (fun n ovf l => let d := if ovf then c.stepped.status 15 true false else c.stepped
      s.setCore m { d with flight := [⟨c.cycle + n, .vec f.vd.toNat l⟩] }) →
    exec (.vadd (alone m) f) s = .next (put ((lanes2 cadd a b).any satChanges) ((lanes2 cadd a b).map csat))
    ∧ exec (.vsub (alone m) f) s = .next (put ((lanes2 (fun x y => ⟨x.re - y.re, x.im - y.im⟩) a b).any satChanges)
      ((lanes2 (fun x y => ⟨x.re - y.re, x.im - y.im⟩) a b).map csat))
    ∧ exec (.vconj (alone m) f) s = .next (put ((lanes2 (fun x _ => conj x) a b).any satChanges) ((lanes2 (fun x _ => conj x) a b).map csat))
    ∧ exec (.vshr (alone m) f) s = .next (put false (a.map (fun x => ⟨x.re / 2 ^ (f.imm.toNat % 16), x.im / 2 ^ (f.imm.toNat % 16)⟩)))
    ∧ exec (.vbcast (alone m) f) s = .next (put false (List.replicate 8 (a.getD (f.imm.toNat % 8) czero)))
    ∧ exec (.vrecip (alone m) f) s = .next (late 6 (a.any (fun x => (recipLane x).2)) (a.map (fun x => (recipLane x).1)))
    ∧ exec (.vrsqrt (alone m) f) s = .next (late 6 (a.any (fun x => (rsqrtLane x).2)) (a.map (fun x => (rsqrtLane x).1)))
    ∧ (∀ x : ScaledMove, x = c.scaledMove f.acc.toNat →
      exec (.vmova (alone m) f) s = .next ((if x.up && decide (c.sh < 39) then s.bump Ix.MasonScaleEvents (m + 1) else s).setCore m
        { c.stepped.status x.hr x.ovf x.up with flight := [⟨c.cycle + 2, .vec f.vd.toNat x.lanes⟩] })))
  ∧ (∀ (s : State) (m : Nat) (c : MasonCore) (f : MFormat) (z a b : List Cplx) (put : (Cplx → Cplx → Cplx → Cplx) → State), s.Between m c →
    z = c.getChain f.acca.toNat → a = c.getV f.va.toNat → b = c.getV f.vb.toNat →
    put = (fun g => let l := (List.range 8).map (fun i => cwrap (g (z.getD i czero) (a.getD i czero) (b.getD i czero)))
      s.setCore m { c.stepped with chain := tput zero8 f.acca.toNat l c.chain, flight := [⟨c.cycle + 4, .acc f.acca.toNat l⟩] }) →
    exec (.cmac (alone m) f) s = .next (put (fun x y w => cadd x (cmul y w)))
    ∧ exec (.cmacj (alone m) f) s = .next (put (fun x y w => cadd x (cmul (conj y) w)))
    ∧ exec (.cmul (alone m) f) s = .next (put (fun _ y w => cmul y w))
    ∧ exec (.cmulj (alone m) f) s = .next (put (fun _ y w => cmul (conj y) w))
    ∧ exec (.cmsub (alone m) f) s = .next (put (fun x y w => ⟨x.re - (cmul y w).re, x.im - (cmul y w).im⟩))
    ∧ exec (.clra (alone m) f) s = .next (put (fun _ _ _ => czero))
    ∧ (∀ l : List Cplx, l = (lanes2 cadd z (c.getAcc f.accb.toNat)).map cwrap →
      exec (.adda (alone m) f) s = .next (s.setCore m { c.stepped with chain := tput zero8 f.acca.toNat l c.chain,
                                                                       flight := [⟨c.cycle + 4, .acc f.acca.toNat l⟩] }))
    ∧ (∀ (l older : List Cplx) (d : MasonCore), f.vb.toNat % 2 = 0 → l = (lanes2 cadd z (lanes2 cmul a b)).map cwrap →
      older = c.getV (f.vb.toNat + 1) →
      d = { c.stepped with chain := tput zero8 f.acca.toNat l c.chain, flight := [⟨c.cycle + 4, .acc f.acca.toNat l⟩] } →
      exec (.tapm (alone m) f) s = .next (s.setCore m { d with v := tput zero8 (f.vb.toNat + 1) (czero :: older.take 7)
                                                                 (tput zero8 f.vb.toNat (older.getD 7 czero :: b.take 7) d.v) }))
    ∧ (f.vb.toNat % 2 = 1 → exec (.tapm (alone m) f) s = .next ((s.setCore m c).coreException m 2 0)))

/-- VRECIP and VRSQRT (R262): of the positive I part x of each lane of VA they give, with X = x · 2^s for the smallest s that the rule allows,
min(32,767, floor(2²⁹ / X)) with s, and floor(√(2⁴² / X)) with s/2; a lane that is not positive gives 32,767 with 15 and sets OVF. -/
def Obligations.ReciprocalsAreExact : Prop :=
  ∀ (s : State) (m : Nat) (c : MasonCore) (f : AFormat), s.Between m c → (c.getV f.va.toNat).length = 8 →
    (∀ a ∈ c.getV f.va.toNat, a.re ≤ 32767) →
    (∃ (t : State) (l : List Cplx), exec (.vrecip (alone m) f) s = .next t ∧ (t.core m).flight = [⟨c.cycle + 6, .vec f.vd.toNat l⟩]
      ∧ l.length = 8 ∧ ((∃ a ∈ c.getV f.va.toNat, a.re ≤ 0) → bitAt (t.core m).st 7 = true)
      ∧ ∀ i < 8, ∀ a y : Cplx, a = (c.getV f.va.toNat).getD i czero → y = l.getD i czero →
        (a.re ≤ 0 → y = ⟨32767, 15⟩)
        ∧ (0 < a.re → ∃ k ≤ 14, y.im = (k : Nat) ∧ 16384 ≤ a.re * 2 ^ k ∧ (∀ j < k, a.re * 2 ^ j < 16384)
          ∧ y.re = min 32767 (2 ^ 29 / (a.re * 2 ^ k))))
    ∧ (∃ (t : State) (l : List Cplx), exec (.vrsqrt (alone m) f) s = .next t ∧ (t.core m).flight = [⟨c.cycle + 6, .vec f.vd.toNat l⟩]
      ∧ l.length = 8 ∧ ((∃ a ∈ c.getV f.va.toNat, a.re ≤ 0) → bitAt (t.core m).st 7 = true)
      ∧ ∀ i < 8, ∀ a y : Cplx, a = (c.getV f.va.toNat).getD i czero → y = l.getD i czero →
        (a.re ≤ 0 → y = ⟨32767, 15⟩)
        ∧ (0 < a.re → ∃ k ≤ 7, y.im = (k : Nat) ∧ 8192 ≤ a.re * 2 ^ (2 * k) ∧ (∀ j < k, a.re * 2 ^ (2 * j) < 8192)
          ∧ 0 ≤ y.re ∧ y.re ^ 2 * (a.re * 2 ^ (2 * k)) ≤ 2 ^ 42 ∧ 2 ^ 42 < (y.re + 1) ^ 2 * (a.re * 2 ^ (2 * k))))

/-- VMOVA and STA (R263): each part of the accumulator is shifted right arithmetically by the SH that stands at the issue and truncated; a result
outside -32,768 to 32,767 saturates and sets OVF, and nothing else clears or sets it. -/
def Obligations.ScaledMovesSaturate : Prop :=
  ∀ (s : State) (m : Nat) (c : MasonCore) (f : AFormat) (g : LFormat) (moved : List Cplx → List Cplx → State → Prop), s.Between m c →
    moved = (fun acc l t => (∀ i < 8, ∀ x y : Cplx, x = acc.getD i czero → y = l.getD i czero →
        y = ⟨max (-32768) (min 32767 (x.re / 2 ^ c.sh)), max (-32768) (min 32767 (x.im / 2 ^ c.sh))⟩)
      ∧ (bitAt (t.core m).st 7 = true ↔ bitAt c.st 7 = true ∨ ∃ x ∈ acc, x.re / 2 ^ c.sh < -32768 ∨ 32767 < x.re / 2 ^ c.sh
        ∨ x.im / 2 ^ c.sh < -32768 ∨ 32767 < x.im / 2 ^ c.sh)) →
    ((c.getAcc f.acc.toNat).length = 8 →
      ∃ (t : State) (l : List Cplx), exec (.vmova (alone m) f) s = .next t ∧ (t.core m).flight = [⟨c.cycle + 2, .vec f.vd.toNat l⟩]
        ∧ moved (c.getAcc f.acc.toNat) l t)
    ∧ ((c.getAcc (g.reg.toNat % 4)).length = 8 → 0x10000 ≤ c.getP g.pn.toNat % 0x40000 →
      ∃ (t : State) (l : List Cplx), exec (.sta (alone m) g) s = .next t
        ∧ (t.core m).flight = [⟨c.cycle + 2, .store (c.at_ g 32) (laneBytes l)⟩] ∧ moved (c.getAcc (g.reg.toNat % 4)) l t)

/-- LDV, LDVC, LDB, LDBC, LDW and LDAR (R258, R265, R269): the register takes, 3 cycles on, what stands in the shelf at the pointer's offset, and
the pointer its post-modified value for the next bundle, linear or circular; a word with the poison mark raises POISON with its offset. STV, STVC,
STA, STAC, STW and STAR (R255, R258, R263 to R265): the bytes of the register, or of the scaled move, are on their way to the shelf, where a load
finds them after 2 cycles; the pointer takes its post-modified value; a store into the code window raises CODE with its offset. -/
def Obligations.MasonsLoadAndStore : Prop :=
  (∀ (s : State) (m : Nat) (c : MasonCore) (f : LFormat) (put : Bool → MasonDest → State), s.Between m c → s.mem.upsets = [] →
    put = (fun circ d => s.setCore m { c.stepped.setP f.pn.toNat (c.postModify circ f.pn.toNat (incOf f)) with flight := [⟨c.cycle + 3, d⟩] }) →
    (s.shelfPoison m (c.at_ f 32) 32 = none →
      exec (.ldv (alone m) f) s = .next (put false (.vec f.reg.toNat (lanesOf (s.shelfBytes m (c.at_ f 32) 32))))
      ∧ (f.pn.toNat ≤ 7 → exec (.ldvc (alone m) f) s = .next (put true (.vec f.reg.toNat (lanesOf (s.shelfBytes m (c.at_ f 32) 32))))))
    ∧ (s.shelfPoison m (c.at_ f 4) 4 = none →
      exec (.ldb (alone m) f) s = .next (put false (.vec f.reg.toNat (List.replicate 8 (laneOf (s.shelfBytes m (c.at_ f 4) 4)))))
      ∧ (f.pn.toNat ≤ 7 → exec (.ldbc (alone m) f) s = .next (put true (.vec f.reg.toNat (List.replicate 8 (laneOf (s.shelfBytes m (c.at_ f 4) 4))))))
      ∧ exec (.ldw (alone m) f) s = .next (put false (.ptr (f.reg.toNat % 16) (ofInt 40 (toInt 32 (leNat (s.shelfBytes m (c.at_ f 4) 4)))))))
    ∧ (s.shelfPoison m (c.at_ f 16) 80 = none →
      exec (.ldar (alone m) f) s = .next (put false (.acc (f.reg.toNat % 4) (rawLanes (s.shelfBytes m (c.at_ f 16) 80)))))
    ∧ (∀ x : Nat, s.shelfPoison m (c.at_ f 32) 32 = some x →
      exec (.ldv (alone m) f) s = .next (((s.consumePoison (shelfBase m + x)).setCore m c).coreException m 1 x)))
  ∧ (∀ (s : State) (m : Nat) (c : MasonCore) (f : LFormat) (next : Bool → MasonCore), s.Between m c →
    next = (fun circ => c.stepped.setP f.pn.toNat (c.postModify circ f.pn.toNat (incOf f))) →
    (0x10000 ≤ c.getP f.pn.toNat % 0x40000 → (c.getV f.reg.toNat).length = 8 →
      exec (.stv (alone m) f) s = .next (s.setCore m { next false with flight := [⟨c.cycle + 2, .store (c.at_ f 32) (laneBytes (c.getV f.reg.toNat))⟩] })
      ∧ (f.pn.toNat ≤ 7 → exec (.stvc (alone m) f) s = .next (s.setCore m { next true with flight :=
          [⟨c.cycle + 2, .store (c.at_ f 32) (laneBytes (c.getV f.reg.toNat))⟩] })))
    ∧ (0x10000 ≤ c.getP f.pn.toNat % 0x40000 →
      exec (.stw (alone m) f) s = .next (s.setCore m { next false with flight :=
        [⟨c.cycle + 2, .store (c.at_ f 4) (leBytes 4 (c.getP (f.reg.toNat % 16)))⟩] }))
    ∧ (0x10000 ≤ c.getP f.pn.toNat % 0x40000 → (c.getAcc (f.reg.toNat % 4)).length = 8 → c.at_ f 16 + 80 ≤ 0x40000 →
      exec (.star (alone m) f) s = .next (s.setCore m { next false with flight :=
        [⟨c.cycle + 2, .store (c.at_ f 16) (rawBytes (c.getAcc (f.reg.toNat % 4)))⟩] }))
    ∧ (∀ (x : ScaledMove) (t : State), 0x10000 ≤ c.getP f.pn.toNat % 0x40000 → x = c.scaledMove (f.reg.toNat % 4) → x.lanes.length = 8 →
      t = (if x.up && decide (c.sh < 39) then s.bump Ix.MasonScaleEvents (m + 1) else s) →
      exec (.sta (alone m) f) s = .next (t.setCore m { (next false).status x.hr x.ovf x.up with flight :=
        [⟨c.cycle + 2, .store (c.at_ f 32) (laneBytes x.lanes)⟩] })
      ∧ (f.pn.toNat ≤ 7 → exec (.stac (alone m) f) s = .next (t.setCore m { (next true).status x.hr x.ovf x.up with flight :=
        [⟨c.cycle + 2, .store (c.at_ f 32) (laneBytes x.lanes)⟩] })))
    ∧ (c.getP f.pn.toNat % 0x40000 < 0x10000 →
      exec (.stw (alone m) f) s = .next ((s.setCore m c).coreException m 3 (c.at_ f 4))))

/-- LOOP, LOOPI, BR, CALL, RET, RTI and DONE (R265 to R267, R270): a loop operation sets its loop's registers and goes to the next bundle, or past
the body where the count is 0; a branch that is taken comes after its two delay bundles; CALL leaves the return address in P15; RTI goes back to
IRA; DONE ends the task, which completes with status 0 and fails with another. XGET, XPUT, XWAIT, LEASE and UNLEASE (R265, R268, R275): a transfer
of a legal length joins those outstanding; XWAIT goes on once no more than its number are outstanding and stalls its bundle otherwise; a lease that
is free is taken for its ticks with status 0, and one another owner holds answers that owner; a release frees the core's own lease. -/
def Obligations.MasonFlowAndTransfers : Prop :=
  (∀ (s : State) (m : Nat) (c : MasonCore) (f : CFormat), s.Between m c →
    (∀ count : Nat, f.pd.toNat ≤ 1 → count = c.getP f.pa.toNat % 2 ^ 16 → ∃ d : MasonCore, exec (.loop (alone m) f) s = .next (s.setCore m d)
      ∧ d.lc = tput 0 f.pd.toNat count c.lc ∧ d.ls = tput 0 f.pd.toNat ((c.pc + 16) % 2 ^ 16) c.ls ∧ d.cycle = c.cycle + 1
      ∧ d.le = tput 0 f.pd.toNat (ofInt 16 (((c.pc + 16) % 2 ^ 16 : Nat) + 16 * (((f.imm.toNat % 2 ^ 12 : Nat) : Int) - 1))) c.le
      ∧ (count ≠ 0 → d.pc = (c.pc + 16) % 2 ^ 16) ∧ d.p = c.p ∧ d.v = c.v ∧ d.acc = c.acc)
    ∧ (∀ count : Nat, f.pd.toNat ≤ 1 → count = f.imm.toNat / 2 ^ 12 → ∃ d : MasonCore, exec (.loopi (alone m) f) s = .next (s.setCore m d)
      ∧ d.lc = tput 0 f.pd.toNat count c.lc ∧ d.ls = tput 0 f.pd.toNat ((c.pc + 16) % 2 ^ 16) c.ls ∧ d.cycle = c.cycle + 1
      ∧ (count ≠ 0 → d.pc = (c.pc + 16) % 2 ^ 16) ∧ d.p = c.p ∧ d.v = c.v ∧ d.acc = c.acc)
    ∧ (condition f.pd.toNat (c.pInt f.pa.toNat) = some true →
      exec (.br (alone m) f) s = .next (s.setCore m (c.branching (c.target f))))
    ∧ (condition f.pd.toNat (c.pInt f.pa.toNat) = some false → exec (.br (alone m) f) s = .next (s.setCore m c.stepped))
    ∧ (condition f.pd.toNat (c.pInt f.pa.toNat) = none → exec (.br (alone m) f) s = .next ((s.setCore m c).coreException m 2 0))
    ∧ exec (.call (alone m) f) s = .next (s.setCore m ((c.branching (c.target f)).setP 15 (ofInt 40 ((c.pc + 48 : Nat) : Int))))
    ∧ exec (.ret (alone m)) s = .next (s.setCore m (c.branching (c.getP 15 % 2 ^ 16)))
    ∧ exec (.rti (alone m)) s = .next (s.setCore m { c.branching c.ira with rti := true })
    ∧ (c.getP f.pa.toNat % 2 ^ 32 = 0 → exec (.done (alone m) f) s = .next ((s.setCore m c).taskDone m))
    ∧ (c.getP f.pa.toNat % 2 ^ 32 ≠ 0 → exec (.done (alone m) f) s = .next ((s.setCore m c).taskFails m 6)))
  ∧ (∀ (s : State) (m : Nat) (c : MasonCore) (f : CFormat), s.Between m c →
    (xferBad c f.imm.toNat = false → exec (.xget (alone m) f) s =
      .next (s.setCore m { c.stepped with xfers := c.xfers ++ [⟨false, c.getP f.pd.toNat % 0x40000, c.getP f.pa.toNat, f.imm.toNat⟩] }))
    ∧ (xferBad c f.imm.toNat = false → s.mem.upsets = [] → s.shelfPoison m (c.getP f.pd.toNat % 0x40000 / 4 * 4) f.imm.toNat = none →
      exec (.xput (alone m) f) s =
        .next (s.setCore m { c.stepped with xfers := c.xfers ++ [⟨true, c.getP f.pd.toNat % 0x40000, c.getP f.pa.toNat, f.imm.toNat⟩] }))
    ∧ (xferBad c f.imm.toNat = true → exec (.xget (alone m) f) s = .next ((s.setCore m c).coreException m 2 0)
      ∧ exec (.xput (alone m) f) s = .next ((s.setCore m c).coreException m 2 0))
    ∧ (c.xfers.length ≤ f.imm.toNat % 16 → c.failed = 0 → exec (.xwait (alone m) f) s = .next (s.setCore m c.stepped))
    ∧ (c.xfers.length ≤ f.imm.toNat % 16 → c.failed ≠ 0 →
      exec (.xwait (alone m) f) s = .next ((s.setCore m { c with failed := 0 }).coreException m 5 0))
    ∧ (f.imm.toNat % 16 < c.xfers.length → exec (.xwait (alone m) f) s = .next (s.setCore m { c with slot := 2, cycle := c.cycle + 1 }))
    ∧ (∀ (r ticks : Nat), r = c.getP f.pa.toNat % 2 ^ 16 → ticks = f.imm.toNat % 2 ^ 16 → resourceOk r = true → ticks ≠ 0 →
      (r / 256 = 1 → s.dmaReserved (r % 256) = false) → lockOf r = none →
      (s.leaseOf r = none → exec (.lease (alone m) f) s = .next ((s.takeLease r (s.taskOwner c) (some (s.addEpochs ticks s.epoch))
        (some (.mason m))).setCore m (c.stepped.setP f.pd.toNat 0)))
      ∧ (∀ l : Lease, s.leaseOf r = some l → l.owner ≠ s.taskOwner c →
        exec (.lease (alone m) f) s = .next (s.setCore m (c.stepped.setP f.pd.toNat (ofInt 40 (0x12 * 2 ^ 32 + (l.owner : Int)))))))
    ∧ (∀ (r : Nat) (l : Lease), r = c.getP f.pa.toNat % 2 ^ 16 → lockOf r = none → s.leaseOf r = some l → l.owner = s.taskOwner c →
      exec (.unlease (alone m) f) s = .next ((s.freeLease r).setCore m c.stepped)))

/-- INTERRUPT_ENTRY and TIMER_COMPARE (R267, Table 11.6): with IE set and a pending bit enabled, between bundles and outside delay bundles, IRA
takes the next bundle's address, PIE takes IE, IE becomes 0, and the handler at the kernel's IRQ offset follows; CYCLE reaching TCMP sets PTIMER.
XFER_COMPLETE (R268): with its domain on and no page of the target on the slow path, the transfer's words cross, it leaves those outstanding and
PXDONE is set; an address outside every region, and a target that answers with an error, mark it failed, and no word crosses. WATCHDOG_OVERRUN and
CORE_PARITY_ERROR (R272): a task that has passed its budget, or whose core has a parity error, is re-run from its start on the lowest-numbered idle
spare; without one it fails with NO_SPARE. MASON_RESTORE and MASON_SELFTEST_DONE (R273): a retired core is reset and tests itself; where it fails it
is retired again, with MASON_FAIL; where it passes it is a working core, or a spare while too few are held. -/
def Obligations.MasonTasksAreKept : Prop :=
  (∀ (s : State) (m : Nat) (c : MasonCore) (t : MasonTask), s.Between m c → c.task = some t → t.irq ≠ 0 → bitAt c.ictl 15 = true →
    bitsOf c.ictl 10 8 &&& c.ictl % 8 ≠ 0 →
    exec (.interruptEntry m) s = .next ((s.setCore m { c with ira := c.pc, ictl := setBit (setBit c.ictl 14 true) 15 false, pc := t.irq }).wr
      Ix.MasonState (m + 1) 4))
  ∧ (∀ (s : State) (m : Nat) (c : MasonCore), s.core m = c → c.task ≠ none → c.timed = false → c.tcmp ≤ c.cycle →
    exec (.timerCompare m) s = .next (s.setCore m { c with timed := true, ictl := setBit c.ictl 8 true }))
  ∧ (∀ (s u h : State) (m i d : Nat) (x : MasonXfer), (s.core m).xfers[i]? = some x → accessDomain x.addr = some d → s.needDomain d = (true, u) →
    u.slowHold x.addr x.len = (false, h) → exec (.xferComplete m i false) s = .next (h.xferEnds m i x false))
  ∧ (∀ (s : State) (m i : Nat) (c : MasonCore) (x : MasonXfer), s.core m = c → c.xfers[i]? = some x → accessDomain x.addr = none →
    s.mem.codeHits = [] → ∀ b : Bool,
    exec (.xferComplete m i b) s = .next ({ s.setCore m { c with xfers := c.xfers.eraseIdx i, failed := c.failed + 1,
                                                                 ictl := setBit c.ictl 9 true } with mem := { s.mem with codeHits := [] } }))
  ∧ (∀ (s : State) (m : Nat) (t : MasonTask), (s.core m).task = some t → t.budget < (s.core m).cycle → s.leases = [] → t.rerunOf = none →
    (∀ k : Nat, s.idleSpare = some k →
      exec (.watchdogOverrun m) s = .next ((s.clearTask m).startTask k { t with rerunOf := some (m, 2) }))
    ∧ (s.idleSpare = none → exec (.watchdogOverrun m) s = .next (s.taskFails m 7)))
  ∧ (∀ (s : State) (m : Nat) (t : MasonTask), (s.core m).task = some t → t.rerunOf = none →
    (∀ k : Nat, s.idleSpare = some k →
      exec (.coreParityError m) s = .next ((s.clearTask m).startTask k { t with rerunOf := some (m, 1) }))
    ∧ (s.idleSpare = none → exec (.coreParityError m) s = .next (s.taskFails m 7)))
  ∧ (∀ (s : State) (m : Nat) (t : MasonTask), (s.core m).task = some t → t.budget < (s.core m).cycle → s.leases = [] → t.rerunOf ≠ none →
    exec (.watchdogOverrun m) s = .next (s.taskFails m 4))
  ∧ (∀ (s n : State) (w : Caller) (m : Nat), n = s.metOn w.port 4 → (s.met w.port).Serves 4 → s.Orders w Ix.MasonRestore 0 m → m < 48 →
    n.isRetired m = true → m ∉ n.mason.selftest →
    exec (.masonRestore w m) s = .next (({ n.setCore m {} with mason := { (n.setCore m {}).mason with selftest := n.mason.selftest ++ [m] } }
      : State).ended w Ix.MasonRestore 0 m))
  ∧ (∀ (s u : State) (m : Nat), m ∈ s.mason.selftest → u = { s with mason := { s.mason with selftest := s.mason.selftest.filter (· != m) } } →
    exec (.masonSelftestDone m false) s = .next ((u.setRetired m true).raise 0x4001 (m + 1) (packData [f8 m, f8 3]))
    ∧ exec (.masonSelftestDone m true) s = .next (((u.setRetired m false).setSpare m
      (decide ((u.setRetired m false).sparesHeld < (u.setRetired m false).rd Ix.MasonSpareCount 0))).startNext m))

/-- MASON_KERNEL_LOAD and MASON_KERNEL_UNLOAD (R276): an image within Table 11.11 for a slot no job uses stands in its slot, whose version it shows,
where its signature verifies, and is refused with SIGNATURE where it does not; an unused slot is emptied, and its version is 0. MASON_JOB_SUBMIT,
MASON_JOB_CANCEL and LEASE_EXPIRY (R271, R275, R277): a job whose record is within Table 11.12, whose START meets the lead time and whose budgets
fit joins the active jobs; a cancelled job is marked to end at its next epoch; a lease whose duration has passed ends as expired. -/
def Obligations.KernelsAndUserJobs : Prop :=
  (∀ (s n u : State) (w : Caller) (l : List Byte) (slot : Nat) (ok : Bool), n = s.metOn w.port 5 → (s.met w.port).Serves 5 →
    s.OrdersRecord w Ix.MasonKernelLoad l → imageBad l = none → slot = fieldLE l 4 1 → n.slotUsed slot = false →
    ok = n.signedBy (fieldLE l 6 1) (Config.sm3 (l.take (l.length - 64))) (l.drop (l.length - 64)) →
    u = { n with mason := { n.mason with kernels := tins slot l n.mason.kernels } } →
    exec (.masonKernelLoad (recordWrite w Ix.MasonKernelLoad l)) s = .next (if ok
      then ((u.wr Ix.MasonKernelVersion (slot + 1) (fieldLE l 8 4)).raise 0x4006
        (slot + 1) (packData [f8 slot, f32 (fieldLE l 8 4)])).endedRecord w Ix.MasonKernelLoad l
      else (s.met w.port).refuse (recordWrite w Ix.MasonKernelLoad l) false ⟨abSignature, 0⟩))
  ∧ (∀ (s n : State) (w : Caller) (slot : Nat), n = s.metOn w.port 5 → (s.met w.port).Serves 5 → s.Orders w Ix.MasonKernelUnload 0 slot →
    16 ≤ slot → slot < 32 → n.slotUsed slot = false →
    exec (.masonKernelUnload w slot) s = .next ((({ n with mason := { n.mason with kernels := tdel slot n.mason.kernels } } : State).wr
      Ix.MasonKernelVersion (slot + 1) 0).ended w Ix.MasonKernelUnload 0 slot))
  ∧ (∀ (s n : State) (w : Caller) (l : List Byte) (job start : Nat), n = s.metOn w.port 4 → (s.met w.port).Serves 4 →
    s.OrdersRecord w Ix.MasonJobSubmit l → job = fieldLE l 0 2 → start = epochOfEntry (fieldLE l 8 8) → n.mode ≠ 0 →
    n.kernel (fieldLE l 2 1) ≠ [] → n.userJobActive job = false → n.userJobs.length < 16 → n.jobBad l = none → epLe n.earliestCommit start = true →
    n.budgetFits l = true →
    exec (.masonJobSubmit w l) s = .next (({ n with userJobs := n.userJobs ++ [⟨job, l, 0, start, false, 0, 0, 0, 0, 0, false⟩] } : State).endedRecord
      w Ix.MasonJobSubmit l))
  ∧ (∀ (s m : State) (w : Caller) (job : Nat), m = s.met w.port → s.Orders w Ix.MasonJobCancel 0 job → m.userJobActive job = true →
    exec (.masonJobCancel w job) s = .next (({ m with userJobs := m.userJobs.map (fun j => if j.job = job then { j with cancel := true } else j) }
      : State).ended w Ix.MasonJobCancel 0 job))
  ∧ (∀ (s : State) (r e : Nat) (l : Lease), s.leaseOf r = some l → l.expiry = some e → epLe e s.epoch = true →
    exec (.leaseExpiry r) s = .next (s.endLease l 1))

/-- DETECT_PULSE, TRAIN_DONE, LOCK, CAPS and SCRAMBLER_FRAME_START (R291, R292, Table 12.5): a pulse that finds at least eight far-end terminations
takes the port to TRAIN at its profile's rate, and one that finds fewer is repeated; with every sampling phase set after 20 µs follows LOCK; there
eight locked lanes, READY sent and READY seen lead to CAPS; the far end's message is accepted, or refused with CAPS_FAIL; 16 CAPS messages with ACK
after the first, and one received, the port is ACTIVE. PORT_STATE_TIMEOUT and FAILED_TIMEOUT, CLOCK_LOSS, LINK_RETRAIN and LINK_ENABLE (R291, R295):
bring-up that does not end in time is counted, with its state in `LinkDownReason`, and begins again; 10 ms after CAPS_FAIL so does a failed port;
without a clock for 64 UI, by command, or disabled, an ACTIVE port goes down with its reason, and an enabled port that may run begins. BOND,
LANE_REJOIN, ALIGN_FORCE and CHAIN (R287 to R290, R294): a bond gives a port nothing, a control message or packet words, and each goes its way; a
failed lane with 4096 good bricks returns to service; an ACTIVE port fills the bond in progress; the size that PORT-S tells is the size of the array
south of it, and is told on. -/
def Obligations.LinkPortsAndLanes : Prop :=
  (∀ (s : State) (p found : Nat), s.linkState p = 1 → (s.port p).since + usec 100 ≤ s.now →
    exec (.detectPulse p found) s = .next (if 8 ≤ (allLanes.filter (bitAt found)).length
      then ((s.clearLanes p).enterPort p 2).wr Ix.LinkRateInForce (p + 1) (((s.clearLanes p).enterPort p 2).profileRate p)
      else s.setPort p { s.port p with since := s.now }))
  ∧ (∀ (s t : State) (p : Nat), s.linkState p = 2 → (s.port p).since + usec 20 ≤ s.now → t = s.enterPort p 3 →
    exec (.trainDone p true) s = .next (t.setPort p { t.port p with readySeen := false, readySent := false, ackAt := none, ackSeen := false }))
  ∧ (∀ (s t : State) (p : Nat), s.linkState p = 3 → (p = 0 ∨ s.link.fixed = true) → 8 ≤ (s.lanesInService p).length →
    t = s.setPort p { s.port p with readySeen := true, readySent := true } →
    exec (.lock p true 0 []) s = .next (t.enterPort p 4))
  ∧ (∀ (s : State) (p k skew : Nat), s.linkState p = 3 → p < 2 → k < 9 → skew < 256 → s.lanesInService p = [] → (s.port p).readySent = false →
    ∃ t, exec (.lock p false (2 ^ k) (List.replicate k 0 ++ [skew])) s = .next t ∧ t.rd Ix.LaneState (laneIx p k) = 1
      ∧ t.rd Ix.LaneSkew (laneIx p k) = skew ∧ t.linkState p = 3)
  ∧ (∀ (s t : State) (p : Nat) (l : List Byte), s.linkState p = 4 → t = s.setDom Ix.LinkFarCaps (p + 1) (l.take 64) → l.length = 64 →
    (∀ reason : Nat, t.capsOutcome p l = .error reason →
      exec (.caps p l) s = .next ((((t.clearLanes p).enterPort p 6).wr Ix.LinkDownReason (p + 1) 22).raise 0x5006 (p + 1) (packData [f8 p, f8 reason])))
    ∧ (∀ x : Nat × Nat, t.capsOutcome p l = .ok x → exec (.caps p l) s = .next (t.setPort p { t.port p with
        ackAt := some ((t.port p).ackAt.getD s.now), ackSeen := (t.port p).ackSeen || bitAt (fieldLE l 2 1) 0 })))
  ∧ (∀ (s : State) (p since : Nat), p < 2 → s.linkState p = 4 → (s.port p).ackAt = some since → (s.port p).ackSeen = true →
    since + 16 * bondTime (s.rd Ix.LinkRateInForce (p + 1)) ≤ s.now →
    exec (.scramblerFrameStart p) s = .next (s.linkUp p))
  ∧ (∀ (s : State) (p st t : Nat), s.linkState p = st → (st = 2 ∧ t = usec 500 ∨ st = 3 ∧ t = usec 700 ∨ st = 4 ∧ t = usec 500) →
    (s.port p).since + t ≤ s.now →
    exec (.portStateTimeout p) s = .next (((s.portBack p).bump Ix.LinkTrainFails (p + 1)).wr Ix.LinkDownReason (p + 1) (16 + st)))
  ∧ (∀ (s : State) (p : Nat), s.linkState p = 6 → (s.port p).since + msec 10 ≤ s.now →
    exec (.failedTimeout p) s = .next (s.portBack p))
  ∧ (∀ (s t u : State), s.linkState 0 = 5 → t = s.portBack 0 →
    u = { t with link := { t.link with ready := tdel 0 t.link.ready, mems := t.link.mems.filter (fun m => m.port != 0) } } →
    exec (.clockLoss 0) s = .next ((((u.bump Ix.LinkDownCount 1).wr Ix.LinkDownReason 1 2).wrEpoch Ix.LinkLastDown 1
      s.epoch).raise 0x5002 1 (packData [f8 0, f8 2])))
  ∧ (∀ (s m : State) (w : Caller) (p : Nat), m = s.met w.port → p < 2 → s.Orders w Ix.LinkRetrain (p + 1) 1 →
    exec (.linkRetrain w p 1) s = .next ((m.portDown p 4).ended w Ix.LinkRetrain (p + 1) 1))
  ∧ (∀ (s m : State) (w : Caller) (p : Nat), m = s.met w.port → p < 2 → s.Orders w Ix.LinkEnable (p + 1) 0 →
    exec (.linkEnable w p 0) s = .next (((m.wr Ix.LinkEnable (p + 1) 0).portToOff p 4).ended w Ix.LinkEnable (p + 1) 0))
  ∧ (∀ (s m : State) (w : Caller) (p : Nat), m = s.met w.port → p < 2 → s.Orders w Ix.LinkEnable (p + 1) 1 → m.linkState p = 0 →
    (m.wr Ix.LinkEnable (p + 1) 1).portMayRun p = true →
    exec (.linkEnable w p 1) s = .next (((m.wr Ix.LinkEnable (p + 1) 1).enterPort p 1).ended w Ix.LinkEnable (p + 1) 1))
  ∧ (∀ (s : State) (p : Nat) (l : List LaneBits), ∃ u, exec (.bond p l) s = .next u
    ∧ (∀ t : State, s.receiveBond p l = (.nothing, t) → u = t)
    ∧ (∀ (t : State) (m : List Byte), s.receiveBond p l = (.control m, t) → fieldLE m 1 1 = 1 →
      (fieldLE m 0 1 = 1 → u = t.lockIn p (bitAt (fieldLE m 2 1) 0) 0 []) ∧ (fieldLE m 0 1 = 2 → u = t.capsIn p m)
      ∧ (fieldLE m 0 1 = 3 → u = t.chainIn p (fieldLE m 4 1)))
    ∧ (∀ (t : State) (align : Bool) (words : List Nat), s.receiveBond p l = (.data align words, t) → (t.port p).discarding = false →
      u = State.feed ((((t.port p).words ++ words)).length + 1) p (t.setPort p { t.port p with words := (t.port p).words ++ words })))
  ∧ (∀ (s t : State) (p k : Nat), s.linkState p = 5 → s.rd Ix.LaneRejoin 0 = 1 → s.rd Ix.LaneState (laneIx p k) = 3 →
    4096 ≤ (tget {} k (s.port p).lanes).good →
    t = s.setPort p { s.port p with lanes := tins k { (tget {} k (s.port p).lanes) with good := 0, crcAt := [], lostHeaders := 0 } (s.port p).lanes } →
    exec (.laneRejoin p k) s = .next ((t.wr Ix.LaneState (laneIx p k) 1).raise 0x5004 (laneIx p k) (packData [f8 p, f8 k])))
  ∧ (∀ (s : State) (p : Nat), s.linkState p = 5 → exec (.alignForce p) s = .next (s.setPort p { s.port p with alignFill := true }))
  ∧ (∀ (s : State) (d : Nat), s.linkState 1 = 5 → s.linkState 0 ≠ 5 → 1 ≤ d → d ≤ 4 → s.pos = 0 → s.rd Ix.LinkArraySize 0 ≠ d + 1 →
    exec (.chain 1 d) s = .next (({ s with link := { s.link with south := d } } : State).wr Ix.LinkArraySize 0 (d + 1) |>.raise 0x5008 0
      (packData [fCount (d + 1)])))

/-- What a port that becomes ACTIVE holds (R292, R298, R302): the state ACTIVE, sequence numbers from 0, the credit of the far end's buffers, and,
at the first ACTIVE of PORT-N, the position and the role that the CAPS message gave. -/
def Obligations.ActivePortsStartAfresh : Prop :=
  ∀ (s t : State) (p : Nat) (caps : List Byte), p < 2 → caps = s.domVal Ix.LinkFarCaps (p + 1) → t = s.linkUp p →
    t.linkState p = 5 ∧ (t.port p).txSeq = 0 ∧ (t.port p).rxSeq = 255
      ∧ (t.port p).credit = [(1, fieldLE caps 34 2), (2, fieldLE caps 38 2), (3, fieldLE caps 42 2)]
      ∧ (∀ pos role : Nat, p = 0 → s.link.fixed = false → s.capsOutcome 0 caps = .ok (pos, role) →
        t.pos = pos ∧ t.link.role = role ∧ t.link.fixed = true)

/-- LAYER_DL, LAYER_UL, PRACH, GRAM, CAT_REQ, CAT_RSP, EVENT, CAPTURE and MEM_RESPONSE (R75, R299, R308, R309, R311): a packet that is taken acts
where R299 routes it, in the state in which its SEQ is noted and its units are owed: downlink layers are passed south and taken; partials from the
south are added; a request for this position is performed, and one for a position further south is passed on; responses and records go north.
TYPE_DROP and the other drops (R298, R299, R301): a packet of a type without a meaning, one above its class's limit, one whose ETAG names no epoch
of the numerology, and one on a port that its route does not allow, are counted and have no other effect but on SEQ and on the units owed. -/
def Obligations.PacketsAreRoutedOrDropped : Prop :=
  (∀ (s : State) (h : PacketHead) (l : List Byte), s.Hears h 1 (ceilDiv l.length 4) → h.port = 0 →
    exec (.layerDl h l) s = .next (((s.heard h 1 (ceilDiv l.length 4)).passOn 1 (asSent h 1 l)).takeLayerDl (s.completeTag h.etag) l))
  ∧ (∀ (s : State) (h : PacketHead) (l : List Byte), s.Hears h 2 (ceilDiv l.length 4) → h.port = 1 →
    exec (.layerUl h l) s = .next ((s.heard h 2 (ceilDiv l.length 4)).takePartial false (s.completeTag h.etag) (h.pos % 4) l))
  ∧ (∀ (s : State) (h : PacketHead) (l : List Byte), s.Hears h 3 (ceilDiv l.length 4) → h.port = 1 →
    exec (.prach h l) s = .next ((s.heard h 3 (ceilDiv l.length 4)).takePartial true (s.completeTag h.etag) (h.pos % 4) l))
  ∧ (∀ (s : State) (h : PacketHead) (l : List Byte), s.Hears h 4 (ceilDiv l.length 4) →
    exec (.gram h l) s = .next ((s.heard h 4 (ceilDiv l.length 4)).takeGram h.port l))
  ∧ (∀ (s : State) (h : PacketHead) (l : List Byte), s.Hears h 5 (ceilDiv l.length 4) → h.port = 0 → h.pos % 4 = s.pos →
    exec (.catReq h l) s = .next ((s.heard h 5 (ceilDiv l.length 4)).take (parseRequest 0 l)).bootContinue)
  ∧ (∀ (s : State) (h : PacketHead) (l : List Byte), s.Hears h 5 (ceilDiv l.length 4) → h.port = 0 → s.pos ≠ 0 → s.pos < h.pos % 4 →
    s.reset_.bootDone = true →
    exec (.catReq h l) s = .next ((s.heard h 5 (ceilDiv l.length 4)).passOn 1 (asSent h 5 l)))
  ∧ (∀ (s : State) (h : PacketHead) (l : List Byte), s.Hears h 6 (ceilDiv l.length 4) → h.port = 1 → s.pos ≠ 0 →
    exec (.catRsp h l) s = .next ((s.heard h 6 (ceilDiv l.length 4)).passOn 0 (asSent h 6 l)))
  ∧ (∀ (s t : State) (h : PacketHead) (l : List Byte) (f : Forwarded), s.Hears h 6 (ceilDiv l.length 4) → h.port = 1 → s.pos = 0 →
    s.host.forwarded = [f] → f.request.tag = (parseResponse 1 l).tag → f.request.pos = h.pos % 4 → f.request.port = 1 →
    t = s.heard h 6 (ceilDiv l.length 4) →
    exec (.catRsp h l) s = .next (State.pump { t with host := { t.host with forwarded := [], responses := t.host.responses ++ [parseResponse 1 l] } }))
  ∧ (∀ (s : State) (h : PacketHead) (l : List Byte), s.Hears h 7 (ceilDiv l.length 4) → h.port = 1 →
    exec (.event h l) s = .next ((s.heard h 7 (ceilDiv l.length 4)).passOn 0 (asSent h 7 l)))
  ∧ (∀ (s : State) (h : PacketHead) (l : List Byte), s.Hears h 10 (ceilDiv l.length 4) → h.port = 1 →
    exec (.capture h l) s = .next ((s.heard h 10 (ceilDiv l.length 4)).passOn 0 (asSent h 10 l)))
  ∧ (∀ (s : State) (h : PacketHead) (l : List Byte), s.Hears h 9 (ceilDiv l.length 4) → h.port = 1 → 2 < fieldLE l 3 1 →
    exec (.memResponse h l) s = .next ((s.heard h 9 (ceilDiv l.length 4)).passOn 0 (asSent h 9 l)))
  ∧ (∀ (s : State) (h : PacketHead) (typ : Nat) (l : List Byte), s.linkState h.port = 5 → 12 ≤ typ →
    exec (.typeDrop h typ l) s = .next ((s.noteSeq h.port h.seq).bump Ix.LinkTypeDrops (h.port + 1)))
  ∧ (∀ (s : State) (h : PacketHead) (l : List Byte), s.linkState h.port = 5 → 8198 < ceilDiv l.length 4 →
    exec (.event h l) s = .next ((s.noteSeq h.port h.seq).lenDrop h.port 7 (ceilDiv l.length 4)))
  ∧ (∀ (s : State) (h : PacketHead) (l : List Byte), s.linkState h.port = 5 → ceilDiv l.length 4 ≤ 4094 →
    s.tagOk (s.completeTag h.etag) = false →
    exec (.layerDl h l) s = .next ((s.noteSeq h.port h.seq).bump Ix.LinkEtagDrops (h.port + 1)))
  ∧ (∀ (s : State) (h : PacketHead) (l : List Byte), s.Hears h 7 (ceilDiv l.length 4) → h.port = 0 →
    exec (.event h l) s = .next ((s.heard h 7 (ceilDiv l.length 4)).bump Ix.LinkMisrouted 1))

/-- FRAME, ECHO_REQ, ECHO_RSP, READY and DECISION (R312, R313, R314): a frame marker is passed south and gives the reference; an echo request is
answered on its port; the answer to the request outstanding gives one more measurement of the delay; the head keeps a report of readiness; a
decision is passed south and takes effect. -/
def Obligations.TimePacketsAct : Prop :=
  (∀ (s t : State) (h : PacketHead) (holdover : Bool) (offset : Nat), s.Hears h 8 2 → h.port = 0 → offset < 2 ^ 32 → t = s.heard h 8 2 →
    exec (.frame h holdover offset) s = .next ((t.passOn 1 (asSent h 8 (timePayload 1 (b2n holdover) [offset]))).frameIn 0
      (s.completeTag h.etag) offset))
  ∧ (∀ (s t : State) (h : PacketHead) (id : Nat), s.Hears h 8 2 → id < 2 ^ 32 → t = s.heard h 8 2 →
    exec (.echoReq h id) s = .next ((t.setPort h.port { t.port h.port with echoIn := (t.port h.port).echoIn ++ [(id, s.now)] }).sendNow
      h.port 8 s.pos (timePayload 3 0 [id, 0])))
  ∧ (∀ (s t : State) (h : PacketHead) (id turn : Nat) (d : Int) (l : List Int), s.Hears h 8 3 → id < 2 ^ 32 → turn < 2 ^ 32 → t = s.heard h 8 3 →
    (t.port h.port).echoOut = some id → (t.port h.port).echoDown = false →
    d = (unitsPs ((s.now - (t.port h.port).echoSentAt : Nat) : Int) - (turn : Int)) / 2 + t.rdI 32 Ix.LinkDelayAdjust (h.port + 1) →
    l = (((t.port h.port).delays ++ [d]).reverse.take 8).reverse →
    exec (.echoRsp h id turn) s = .next ((t.setPort h.port { t.port h.port with echoOut := none, echoMissed := 0, delays := l }).wrI 32
      Ix.LinkDelay (h.port + 1) (l.sum / (l.length : Int))))
  ∧ (∀ (s : State) (h : PacketHead) (ready : Bool), s.Hears h 8 2 → h.port = 1 → s.pos = 0 →
    exec (.ready h ready) s = .next ((s.heard h 8 2).keepReport ⟨s.completeTag h.etag, h.pos % 4, ready, s.now⟩))
  ∧ (∀ (s : State) (h : PacketHead) (go : Bool) (epoch : Nat), s.Hears h 8 4 → h.port = 0 → epoch < 2 ^ 36 →
    exec (.decision h go epoch) s = .next (((s.heard h 8 4).passOn 1 (asSent h 8 (timePayload 5 0 [if go then 1 else 2, epochEntry epoch % 2 ^ 32,
      epochEntry epoch / 2 ^ 32]))).applyDecision (s.completeTag h.etag) go epoch))

/-- RETURN, RESYNC_REQ, RESYNC_ACK, RESYNC_DONE, RESYNC_RETRY and CREDIT_RETURN_SEND (R302, R303): units returned are added to the credit; a request
to resynchronise holds credited traffic and is acknowledged; the acknowledgement is answered with the whole buffers; these replace the credit and
credited traffic resumes; a request unanswered for 10 µs is repeated; units owed are returned in one packet. -/
def Obligations.CreditsAreKept : Prop :=
  (∀ (s t : State) (h : PacketHead) (u : CreditUnits), s.Hears h 11 3 → u.c1 < 65536 → u.c2 < 65536 → u.c3 < 65536 → t = s.noteSeq h.port h.seq →
    (∃ l : Tab Nat, exec (.credits h u) s = .next (t.setPort h.port { t.port h.port with credit := l })
      ∧ ∀ c, tget 0 c l = tget 0 c (t.port h.port).credit + (if c = 1 then u.c1 else if c = 2 then u.c2 else if c = 3 then u.c3 else 0))
    ∧ exec (.resyncReq h) s = .next ((t.setPort h.port { t.port h.port with held := true }).sendPacket h.port
      (creditPacket s.pos (s.epoch % 2 ^ 32) 2 0 0 0))
    ∧ exec (.resyncAck h) s = .next (((t.setPort h.port { t.port h.port with waitAck := none, owed := [] }).countResync h.port).sendPacket h.port
      (creditPacket s.pos (s.epoch % 2 ^ 32) 3 1024 1024 2048))
    ∧ ∀ v : PortSys, v = { t.port h.port with credit := [(1, u.c1), (2, u.c2), (3, u.c3)], held := false } →
      exec (.resyncDone h u) s = .next ((t.setPort h.port v).countResync h.port))
  ∧ (∀ (s t : State) (p since : Nat), s.linkState p = 5 → (s.port p).waitAck = some since → since + usec 10 ≤ s.now →
    t = s.setPort p { s.port p with waitAck := some s.now } →
    exec (.resyncRetry p) s = .next (t.sendPacket p (creditPacket s.pos (s.epoch % 2 ^ 32) 1 0 0 0)))
  ∧ (∀ (s : State) (p : Nat), s.linkState p = 5 → (∃ c ∈ (s.port p).owed, c.2 ≠ 0) →
    exec (.creditReturnSend p) s = .next ((s.setPort p { s.port p with owed := [] }).sendPacket p (creditPacket s.pos (s.epoch % 2 ^ 32) 0
      (tget 0 1 (s.port p).owed) (tget 0 2 (s.port p).owed) (tget 0 3 (s.port p).owed))))

/-- PACKET_SEND, CAPTURE_SEND, ECHO_INTERVAL and FRAME_MARKER_SEND (R302, R304, R312, R313, R319): of the ready packets that have credit the first
of the highest precedence starts with the next SEQ, and takes its units; a filled capture chunk goes north in pieces' order; an echo request leaves
PORT-N when one is due; a marker leaves PORT-S 200 µs before a frame. -/
def Obligations.PacketsStartByPrecedence : Prop :=
  (∀ (s t : State) (p : Nat) (k : OutPacket) (l : List OutPacket) (credit : Tab Nat), s.linkState p = 5 → tget [] p s.link.ready = l →
    (∀ x ∈ l, s.tooLarge p x = false) → k ∈ l → s.mayStart p k = true →
    (∀ x ∈ l, s.mayStart p x = true → x = k ∨ precedence k.typ < precedence x.typ) → k.typ ≠ 8 →
    credit = (if packetClass k.typ = 0 then (s.port p).credit else tput 0 (packetClass k.typ) (tget 0 (packetClass k.typ) (s.port p).credit
      - packetUnits (ceilDiv k.payload.length 4)) (s.port p).credit) →
    t = { s with link := { s.link with ready := tins p (l.erase k) s.link.ready } } →
    exec (.packetSend p) s = .next (t.setPort p { t.port p with
      credit := credit,
      txSeq := ((s.port p).txSeq + 1) % 256, sent := (s.port p).sent ++ [((s.port p).txSeq, k)], alignFill := false }))
  ∧ (∀ (s t : State) (p chunk n a : Nat) (rest : List (Nat × Nat)), s.linkState p = 5 → s.captureReady = (p, chunk) :: rest →
    n = 4 * s.rd Ix.CaptureChunk (p + 1) → a = captureRingBase p + chunk * n → t = s.settle a n → t.firstPoison a n = none →
    exec (.captureSend p) s = .next ((t.sendNow p 10 t.pos (leBytes 2 (tget 0 chunk (t.port p).captured * (0x100000 / n) + chunk)
      ++ leBytes 2 (t.rd Ix.CaptureStream (p + 1)) ++ t.bytesAt a n)).chunkFreed p chunk))
  ∧ (∀ (s : State) (id : Nat), s.linkState 0 = 5 → (s.port 0).echoAt + msec (s.rd Ix.EchoInterval 0) ≤ s.now → s.farAnswers 0 = true →
    (s.port 0).echoOut = none → (s.port 0).echoDown = false → id = ((s.port 0).echoId + 1) % 2 ^ 32 →
    exec .echoInterval s = .next ((s.setPort 0 { s.port 0 with
      echoId := id, echoOut := some id, echoSentAt := s.now, echoAt := s.now, echoMissed := 0, echoDown := false }).sendNow 0 8 s.pos
      (timePayload 2 0 [id])))
  ∧ (∀ (s : State) (f start lock : Nat), s.linkState 1 = 5 → lock = s.rd Ix.TimeLockState 0 → lock = 2 ∨ lock = 3 → s.tb.running = true →
    f = (frameOf s.epoch + 1) % 67108864 → start = s.tickOf (frameStart f) → start ≤ s.now + usec 200 → s.now < start →
    s.link.frameSentFor ≠ some f →
    exec .frameMarkerSend s = .next (({ s with link := { s.link with frameSentFor := some f } } : State).sendPacket 1
      ⟨8, s.pos, frameStart f % 2 ^ 32, timePayload 1 (b2n (lock == 3)) [(unitsPs ((start - s.now : Nat) : Int)).toNat]⟩))

/-- MEM_READ and MEM_WRITE (R316): a request for this device within the memories, whose domain is on and whose pages are not on the slow path, is
performed at once; one that R316 refuses is answered with status 3. -/
def Obligations.MemoryIsReachedOverTheLink : Prop :=
  (∀ (s t u h : State) (k : PacketHead) (a : MemAccess) (m : MemRequest), s.Hears k 9 4 → t = s.heard k 9 4 → k.pos % 4 = s.pos → a.tag < 256 →
    a.addr < 2 ^ 40 → a.bytes < 2 ^ 32 →
    m = { port := k.port, tag := a.tag, write := false, addr := a.addr, bytes := a.bytes, data := [] } → memOk m = true →
    t.needDomains ((memWords m).filterMap accessDomain).eraseDups = (true, u) → u.slowHold a.addr a.bytes = (false, h) →
    exec (.memRead k a) s = .next (h.memRead m))
  ∧ (∀ (s t u : State) (k : PacketHead) (a : MemAccess) (l : List Byte) (m : MemRequest), s.Hears k 9 (ceilDiv (16 + l.length) 4) →
    t = s.heard k 9 (ceilDiv (16 + l.length) 4) → k.pos % 4 = s.pos → a.tag < 256 → a.addr < 2 ^ 40 → a.bytes < 2 ^ 32 →
    m = { port := k.port, tag := a.tag, write := true, addr := a.addr, bytes := a.bytes, data := l } → memOk m = true →
    t.needDomains ((memWords m).filterMap accessDomain).eraseDups = (true, u) → u.onSlowPath a.addr a.bytes = false →
    exec (.memWrite k a l) s = .next (u.memWrite m))
  ∧ (∀ (s : State) (k : PacketHead) (a : MemAccess) (m : MemRequest), s.Hears k 9 4 → k.pos % 4 = s.pos → a.tag < 256 → a.addr < 2 ^ 40 →
    a.bytes < 2 ^ 32 → m = { port := k.port, tag := a.tag, write := false, addr := a.addr, bytes := a.bytes, data := [] } → memOk m = false →
    exec (.memRead k a) s = .next ((s.heard k 9 4).memAnswer k.port 3 (memResponse 0x81 a.tag 3 a.addr a.bytes 0xFFFFFFFF [])))

/-- The memories keep what is written (R14, R320, R333): bytes stored are read back, and no other byte changes; a whole word that a master writes to
a weight stage, a shelf or the packet engine's memory, or to the Archive outside the Library and outside locks, is stored there alone, without the
mark; an access outside every region completes with an error response, and nothing changes. -/
def Obligations.MemoryKeepsWhatIsWritten : Prop :=
  (∀ (s : State) (a b : Nat) (l : List Byte), (s.storeBytes a l).byteAt b = if a ≤ b ∧ b < a + l.length then l.getD (b - a) 0 else s.byteAt b)
  ∧ (∀ (s : State) (m : Master) (a r : Nat) (l : List Byte), regionOf a = some r → r ≠ 4 → r ≠ 6 → s.targetDead r a = false →
    s.mem.journals = [] → s.libraryEntryAt a = none → l.length = 4 → a % 4 = 0 →
    ∃ t, s.writeWord m a l false = (false, t) ∧ t.poisoned a = false
      ∧ ∀ b, t.byteAt b = if a ≤ b ∧ b < a + 4 then l.getD (b - a) 0 else s.byteAt b)
  ∧ (∀ (s : State) (m : Master) (a : Nat) (l : List Byte) (p : Bool), regionOf a = none →
    s.readWord m a = (⟨0, true, true⟩, s) ∧ s.writeWord m a l p = (true, s))

/-- MORTAR_TIMEOUT, SLOW_PATH_DONE, SCRUB_PAGE, ECC_LOG_CLEAR and PARTITION_COPY_DONE (R14, R324, R326, R327, R332, R335): an access without a
response for 8 µs completes with an error response; the decode of a page ends and what it held goes on; a scrub that is due reads the next page,
whatever is locked comes later, and the last page ends the pass; the list of corrected words is emptied; what a commit moves stands at its new
place. -/
def Obligations.MemoriesAreMaintained : Prop :=
  (∀ (s t : State) (i since : Nat) (m : MemRequest), s.link.mems[i]? = some m → m.heldAt = some since → since + usec 8 ≤ s.now → m.write = true →
    t = { s with link := { s.link with mems := s.link.mems.eraseIdx i } } →
    exec (.mortarTimeout (.mem i)) s = .next (t.memAnswer m.port 1 (memResponse 0x82 m.tag 1 m.addr m.bytes 0 [])))
  ∧ (∀ (s : State) (m i : Nat) (x : MasonXfer), (s.core m).xfers[i]? = some x → accessDomain x.addr = none →
    exec (.mortarTimeout (.xfer m i)) s = .next (s.xferEnds m i x true))
  ∧ (∀ (s : State) (n i : Nat) (p : DmaPending), (s.chan n).outstanding[i]? = some p →
    exec (.mortarTimeout (.burst n i)) s = .next (s.setChan n { s.chan n with
      outstanding := (s.chan n).outstanding.set i { p with error := true } }))
  ∧ (∀ (s t : State) (page : Nat), (∃ x ∈ s.mem.slow, x.page = page) →
    t = { s with mem := { s.mem with slow := s.mem.slow.filter (fun p => p.page != page) } } →
    exec (.slowPathDone page) s = .next (t.decodePage page).goOn)
  ∧ (∀ (s t u : State), s.scrubDue = true → s.mem.journals = [] → s.mem.scrubSkipped = [] →
    t = { s with mem := { s.mem with scrubTime := s.now } } → u = t.scrubOne s.mem.scrubAt →
    (s.mem.scrubAt < 2097151 → exec .scrubPage s = .next { u with mem := { u.mem with scrubAt := s.mem.scrubAt + 1 } })
    ∧ (2097151 ≤ s.mem.scrubAt → exec .scrubPage s = .next ((({ u with mem := { u.mem with
        scrubAt := 0, scrubCorrected := 0, scrubBad := 0 } } : State).bump Ix.ScrubPasses 0).raise 0x5403 0
        (packData [fCount u.mem.scrubCorrected, fCount u.mem.scrubBad]))))
  ∧ (∀ (s m : State) (w : Caller), m = s.met w.port → s.Orders w Ix.EccLogClear 0 1 →
    exec (.eccLogClear w 1) s = .next (({ m with mem := { m.mem with eccLog := [] } } : State).ended w Ix.EccLogClear 0 1))
  ∧ (∀ (s t v : State) (c : SealedCommit), s.mem.copying = true → t = { s with mem := { s.mem with copying := false } } →
    s.host.commits.find? (fun c => carriesAny c.items [Ix.PartitionBase, Ix.PartitionSize]) = some c → v = t.viewAt c.target →
    t.movesPartition v 4 = true → t.movesPartition v 5 = false →
    (t.copyPartition v 4).movesPartition v 5 = false →
    exec .partitionCopyDone s = .next (t.copyPartition v 4))

/-- DMA_START and DMA_ABORT (R338, R350): an idle channel that is not reserved takes its lease, clears its status and runs from the head; an aborted
channel that waits for an append, or has no write outstanding, stops at once as ABORTED, and otherwise once its writes are answered.
DESCRIPTOR_FETCH, DMA_BURST, DMA_WRITE_RESPONSE and APPEND_POLL (R339, R340, R343, R345, R346, R347): a fetch that reads a sound descriptor makes it
the channel's; the channel served next issues one burst of at most 256 bytes; a response without an error frees its entry; a burst error before the
descriptor completes halts the channel; a channel that waits for an append re-reads NEXT and waits on, or runs again. -/
def Obligations.DmaChannelsRun : Prop :=
  (∀ (s m t u : State) (w : Caller) (l : List Byte) (head n : Nat), m = s.met w.port → s.OrdersRecord w Ix.DmaStart l → head = fieldLE l 0 5 →
    n = fieldLE l 5 1 → n < 16 → head % 32 = 0 → fieldLE l 6 1 % 2 = 0 → m.dmaState n = 0 ∨ m.dmaState n = 3 ∨ m.dmaState n = 4 ∨ m.dmaState n = 6 →
    m.rdBit Ix.BlockResetDma 0 n = false → m.dmaReserved n = false → m.leaseOf (0x100 + n) = none →
    t = m.takeLease (0x100 + n) (m.ownerField 1 0) none none →
    u = t.setChan n { fetchAt := some head, outstanding := (t.chan n).outstanding.map (fun p => { p with past := true }) } →
    exec (.dmaStart w l) s = .next (((((u.wr Ix.DmaStatus (n + 1) 0).wr Ix.DmaHaltReason (n + 1) 0).wr Ix.DmaCurrentDesc (n + 1) head).wr
      Ix.DmaState (n + 1) 1).endedRecord w Ix.DmaStart l))
  ∧ (∀ (s m : State) (w : Caller) (n : Nat), m = s.met w.port → n < 16 → s.Orders w Ix.DmaAbort (n + 1) 1 → m.dmaReserved n = false →
    (m.dmaState n = 2 ∨ m.dmaState n = 1 ∧ (m.chan n).outstanding = [] →
      exec (.dmaAbort w n 1) s = .next ((m.dmaStop n 6 10).ended w Ix.DmaAbort (n + 1) 1))
    ∧ (∀ t : State, m.dmaState n = 1 → (m.chan n).outstanding ≠ [] → t = m.wr Ix.DmaState (n + 1) 5 →
      exec (.dmaAbort w n 1) s = .next ((t.setChan n { t.chan n with stopReason := 10, desc := none, fetchAt := none, turning := false, wbQueue := [] }).ended
        w Ix.DmaAbort (n + 1) 1)))
  ∧ (∀ (s t u v x : State) (n a d : Nat) (l : List Byte) (r : List WordRead) (c : DmaChan), s.chan n = c → c.fetchAt = some a → s.dmaState n = 1 →
    accessDomain a = some d → s.needDomain d = (true, t) → t.slowHold a 64 = (false, u) → v = u.wr Ix.DmaCurrentDesc (n + 1) a →
    v.dmaFetchRead n a = (r, x) → (∀ w ∈ r, w.error = false ∧ w.poison = false) → l = r.flatMap (fun w => leBytes 4 w.data) →
    (decodeDesc a l).failure false (fieldLE l 48 16) = none →
    exec (.descriptorFetch n false) s = .next (x.setChan n { c with
      fetchAt := none, desc := some (decodeDesc a l), done := 0, hops := c.hops + 1, poisoned := false }))
  ∧ (∀ (s t u : State) (n : Nat) (rest ks words : List Nat) (d : DmaDesc), s.dmaOrder = n :: rest → (s.chan n).desc = some d →
    ks = d.burstRun 256 (s.chan n).done (d.outAddr (s.chan n).done) → words = (ks.flatMap (fun k => (d.source k).words)).eraseDups →
    s.needDomains ((words.filterMap accessDomain) ++ (accessDomain (d.outAddr (s.chan n).done)).toList).eraseDups = (true, t) →
    t.slowHolds words = (false, u) →
    exec .dmaBurst s = .next ((u.dmaIssue n d ks).dmaAfterBurst n d).codeFaults)
  ∧ (∀ (s t : State) (n i : Nat) (c : DmaChan) (p : DmaPending), s.chan n = c → c.outstanding[i]? = some p → c.wbQueue = [] →
    t = s.setChan n { c with outstanding := c.outstanding.eraseIdx i } →
    (p.error = false → s.dmaState n = 3 → exec (.dmaWriteResponse n i) s = .next t.codeFaults)
    ∧ (p.error = true → p.past = false → s.dmaState n = 1 →
      exec (.dmaWriteResponse n i) s = .next ((t.wr Ix.DmaErrTarget (n + 1) p.dst).dmaStop n 4 8).codeFaults))
  ∧ (∀ (s t u x : State) (n next : Nat) (c : DmaChan) (d : DmaDesc) (r0 r1 : WordRead), s.chan n = c → s.dmaState n = 2 → c.desc = some d →
    c.pollAt + nsec (s.rd Ix.DmaAppendPoll (n + 1)) ≤ s.now → s.needDomains (accessDomain d.addr).toList = (true, t) →
    t.slowHold d.addr 8 = (false, u) → u.readWords (.dma n) 2 d.addr = ([r0, r1], x) → r0.error = false → r1.error = false →
    r0.poison = false → r1.poison = false → next = r0.data + 2 ^ 32 * r1.data →
    (bitAt next 0 = true → exec (.appendPoll n) s = .next (x.setChan n { c with pollAt := s.now }).codeFaults)
    ∧ (bitAt next 0 = false → nextAddr next ≠ d.addr → bitsOf next 4 1 = 0 → next < 2 ^ 40 →
      exec (.appendPoll n) s = .next (((x.setChan n { c with desc := none, fetchAt := some (nextAddr next) }).wr Ix.DmaState (n + 1) 1).codeFaults)))

/-- DOMAIN_READY, DOMAIN_WAKE_TIMEOUT, ARCH_INIT_LIMIT, DOMAIN_IDLE_OFF and DOMAIN_SWITCH_OFF_DONE (R352, R362, R363): a domain whose signals have
come is on and what waited goes on; one whose signals have not come in time fails with the reason of the first missing; ARCH has 10 ms from power-
good to initialise; a demand domain that nothing needs and nothing has used for `DomainIdleOff` switches off, and then shows off. -/
def Obligations.DomainsWakeAndSleep : Prop :=
  (∀ (s t : State) (d : Nat) (w : DomainWake), s.power.wakes.find? (fun w => w.domain == d) = some w →
    t = ({ s with power := { s.power with wakes := s.power.wakes.filter (fun x => x.domain != d),
                                          idleSince := tins d s.now s.power.idleSince,
                                          archInit := s.power.archInit && d != 5 } } : State).wr Ix.DomainState (d + 1) 2 →
    exec (.domainReady d true true true) s = .next (if 8 ≤ d then t.ownLo (d - 8) else if d = 6 ∨ d = 7 then t.portStart (d - 6) else t).goOn)
  ∧ (∀ (s : State) (d : Nat) (w : DomainWake), s.power.wakes.find? (fun w => w.domain == d) = some w →
    w.since + usec (s.rd Ix.DomainWakeTimeout 0) ≤ s.now → w.powerGood = none ∨ w.oscillator = false →
    exec (.domainWakeTimeout d) s = .next ((s.wakeFails d (if w.powerGood = none then 1 else 2)).failStalled s d))
  ∧ (∀ (s : State) (since t : Nat), s.power.wakes.find? (fun w => w.domain == 5) = some ⟨5, since, some t, true, false⟩ → t + msec 10 ≤ s.now →
    exec .archInitLimit s = .next ((s.wakeFails 5 3).failStalled s 5))
  ∧ (∀ (s : State) (d : Nat), d ∈ s.power.demand → s.domainOn d = true → s.modeNeeds s.mode d = false → d ≠ 4 →
    tget 0 d s.power.idleSince + usec (s.rd Ix.DomainIdleOff 0) ≤ s.now → exec (.domainIdleOff d) s = .next (s.beginSwitchOff d))
  ∧ (∀ (s t : State) (d : Nat), s.rd Ix.DomainState (d + 1) = 3 →
    t = { s with power := { s.power with wakes := s.power.wakes.filter (fun w => w.domain != d) } } →
    exec (.domainSwitchOffDone d) s = .next (t.wr Ix.DomainState (d + 1) 0).goOn)

/-- GOV_PLANNED_WAKE, GOV_DORMANT_REQUEST, GOV_WAKE_NOW, POWER_HOLD and POWER_RELEASE (R358, R361, R366, R368): a course's wake starts its wake time
ahead; after `GovDormantIdle` without a request Standby is left for Dormant; the host wakes all courses and the device; a course is held from the
slot that begins two epochs on, and released at once. REFCLK_LOSS and CLOCK_RETURN (R364, R365): on the loss of the reference in use the device
takes the ring oscillator, the Archive refreshes itself, both ports are off, no transition is under way and Standby is due; the selected clock's
return is taken, the Archive serves again, and the ports start. -/
def Obligations.TheGovernorAndTheReference : Prop :=
  (∀ (s : State) (c t : Nat) (w : IdleWindow), s.window c = some w → w.until_ = some t → t ≤ s.now + wakeTime w.depth →
    s.rd Ix.GovDeviceDepth 0 ≠ 4 → exec (.govPlannedWake c) s = .next ((s.wakeCourse c 3).govLate c))
  ∧ (∀ s : State, s.mode = 1 → s.rd Ix.GovDormantEnable 0 = 1 → 50000 ≤ s.rd Ix.GovDeviceLatency 0 → s.rd Ix.GovDepthMax 0 = 5 →
    s.power.lastRequestAt + msec (s.rd Ix.GovDormantIdle 0) ≤ s.now → s.modes.underWay = none →
    exec .govDormantRequest s = .next (s.beginTransition ⟨.mode 0, s.earliestAfter (msec 1), false, false, true, false⟩))
  ∧ (∀ (s m : State) (w : Caller), m = s.met w.port → s.Orders w Ix.GovWakeNow 0 1 → m.edgeLost = false →
    exec (.govWakeNow w 1) s = .next ((((((m.wakeDevice 4).wakeCourse 0 4).wakeCourse 1 4).wakeCourse 2 4).wakeCourse 3 4).ended w Ix.GovWakeNow 0 1))
  ∧ (∀ (s m : State) (w : Caller) (c : Nat), m = s.met w.port → c < 4 → s.Orders w Ix.PowerRequest 0 (c * 256 + 3) → m.modeFrom ≠ 0 → m.modeFrom ≠ 3 →
    m.rd Ix.SpeEnable 0 = 0 ∨ m.mainCourse ≠ c → m.rd Ix.PowerHold (c + 1) = 0 → m.modes.underWay = none → m.modes.abandoned = none →
    exec (.powerHold w c) s = .next ((m.beginTransition ⟨.power c 3, m.holdEpoch, false, false, true, false⟩).ended w Ix.PowerRequest 0 (c * 256 + 3)))
  ∧ (∀ (s m : State) (w : Caller) (c : Nat), m = s.met w.port → c < 4 → s.Orders w Ix.PowerRequest 0 (c * 256) → m.modeFrom ≠ 0 → m.modeFrom ≠ 3 →
    m.rd Ix.PowerHold (c + 1) = 1 → m.modes.underWay = none → m.modes.abandoned = none →
    exec (.powerRelease w c) s = .next ((m.beginTransition ⟨.power c 0, m.epoch, false, false, true, false⟩).ended w Ix.PowerRequest 0 (c * 256)))
  ∧ (∀ s : State, s.mode ≠ 0 → s.rd Ix.ClockSource 0 ≠ 2 →
    ∃ t, exec .refclkLoss s = .next t ∧ t.rd Ix.ClockSource 0 = 2 ∧ t.power.archHeld = true ∧ t.linkState 0 = 0 ∧ t.linkState 1 = 0
      ∧ t.modes.underWay = none ∧ t.modes.safeHoldDue = false ∧ t.modes.standbyDue = (s.mode != 1)
      ∧ (s.rd Ix.TimeSource 0 ≠ 2 → t.rd Ix.TimeLockState 0 = 3))
  ∧ (∀ s t : State, s.rd Ix.ClockSource 0 = 2 →
    t = ({ s with power := { s.power with archHeld := false } } : State).wr Ix.ClockSource 0 (if bitsOf (s.rd Ix.Straps 0) 3 2 = 3 then 1 else 0) →
    exec .clockReturn s = .next (((t.raise 0x6004 0 (packData [f8 (if bitsOf (s.rd Ix.Straps 0) 3 2 = 3 then 1 else 0)])).portStart 0).portStart 1).goOn)

/-- POWER_ON, BROWN_OUT, SHADOW_UNCORRECTABLE, RST_N_LOW, CRITICAL_PARITY, KEYSTONE_WATCHDOG and LINK_COMMAND_ASSERT (R231, R322, R373, R374, R377,
R378): a source that is asserted is recorded and holds the device: the queue of events is empty, the mode is that of a device in reset, the fuses,
the flash and the commands that wait stay; a cold reset loses the Archive, and a warm one keeps it. -/
def Obligations.ResetSourcesHoldTheDevice : Prop :=
  (∀ (s : State) (c : Instr) (bit : Nat),
    (c, bit) ∈ [(Instr.powerOn, 0), (.brownOut, 1), (.shadowUncorrectable, 2), (.rstNLow, 5), (.criticalParity, 7)] → s.therm.latched = false →
    ∃ t, exec c s = .next t ∧ t.inReset = true ∧ t.rd Ix.ResetCause 0 = causeAfter (s.rd Ix.ResetCause 0) bit ∧ t.mode = State.reset.mode
      ∧ t.ev.queue = [] ∧ t.fuse = s.fuse ∧ t.pending = s.pending ∧ (∀ a, flashBase ≤ a → t.byteAt a = s.byteAt a)
      ∧ (s.reset_.bootDone = true → ∀ a < 0x100000000, t.byteAt a = if bit ≤ 4 then unwrittenByte else s.byteAt a))
  ∧ (∀ (s : State) (since : Nat), s.reset_.watchdogAt = some since → since + msec (s.rd Ix.WatchdogPeriod 0) ≤ s.now →
    exec .keystoneWatchdog s = .next (s.assertSource 6))
  ∧ (∀ (s : State) (since bit : Nat), s.reset_.dueCmd = some (since, bit) → since + usec 100 ≤ s.now →
    exec .linkCommandAssert s = .next (s.assertSource bit))
  ∧ ∀ (s : State) (bit : Nat), s.therm.latched = true → 1 < bit → s.assertSource bit = s

/-- RST_N_HIGH, RESET_SOURCE_RELEASE, RESET_REQUEST_COLD, RESET_REQUEST_WARM, RESET_CAUSE_CLEAR, DOMAIN_RESET and DOMAIN_RESET_DONE (R374 to R377,
R381, R382): the release sequence runs when the last source lets go; a requested reset is due 100 µs after the response; the record is cleared; a
domain is held in reset, recorded as source 10, and reported once it serves again. The release sequence of a cold reset (R376, R379, R384): the
straps are sampled, the time base counts from E[0:0.0.0], the release is counted, the clock and the boot follow the straps. -/
def Obligations.TheReleaseBeginsTheBoot : Prop :=
  (∀ (s : State) (since straps : Nat), s.reset_.held = [⟨5, since, 0⟩] →
    exec (.rstNHigh straps) s = .next (State.releaseSequence { s with reset_ := { s.reset_ with held := [] } } straps))
  ∧ (∀ (s : State) (since bit straps : Nat), s.reset_.held = [⟨bit, since, 0⟩] → bit < 9 → bit ≠ 5 →
    since + (if bit ≤ 1 then msec 2 else usec 10) ≤ s.now →
    exec (.resetSourceRelease bit straps) s = .next (State.releaseSequence { s with reset_ := { s.reset_ with held := [] } } straps))
  ∧ (∀ (s : State) (a b straps : Nat), s.reset_.held = [⟨5, a, 0⟩, ⟨7, b, 0⟩] →
    exec (.rstNHigh straps) s = .next { s with reset_ := { s.reset_ with held := [⟨7, b, 0⟩] } })
  ∧ (∀ (s m : State) (w : Caller), m = s.met w.port → m.reset_.dueCmd = none →
    (s.Orders w Ix.ResetRequest 0 0x5A01 → exec (.resetRequestCold w) s = .next (({ m with reset_ := { m.reset_ with dueCmd := some (m.now, 4) } }
      : State).ended w Ix.ResetRequest 0 0x5A01))
    ∧ (s.Orders w Ix.ResetRequest 0 0x5A02 → exec (.resetRequestWarm w) s = .next (({ m with reset_ := { m.reset_ with dueCmd := some (m.now, 8) } }
      : State).ended w Ix.ResetRequest 0 0x5A02)))
  ∧ (∀ (s m : State) (w : Caller), m = s.met w.port → s.Orders w Ix.ResetCauseClear 0 1 →
    exec (.resetCauseClear w 1) s = .next ((m.wr Ix.ResetCause 0 0).ended w Ix.ResetCauseClear 0 1))
  ∧ (∀ (s m t : State) (w : Caller) (d : Nat), m = s.met w.port → s.Orders w Ix.DomainReset 0 d → 3 ≤ d → d ≤ 11 →
    t = m.wr Ix.ResetCause 0 (causeAfter (m.rd Ix.ResetCause 0) 10) →
    exec (.domainReset w d) s = .next ((({ t with reset_ := { t.reset_ with held := t.reset_.held ++ [⟨10, s.now, d⟩] } } : State).domainHeld d).ended w
      Ix.DomainReset 0 d))
  ∧ (∀ (s t : State) (d : Nat), d ∈ s.power.resetting → (∀ h ∈ s.reset_.held, ¬(h.bit = 10 ∧ h.domain = d)) → s.domainOn d = true →
    t = { s with power := { s.power with resetting := s.power.resetting.filter (· != d), resuming := insertNat d s.power.resuming } } →
    exec (.domainResetDone d) s = .next (t.raise 0x6408 (d + 1) (packData [f8 d])).goOn)
  ∧ (∀ (s t : State) (straps : Nat), s.therm.latched = false → s.reset_.reach = 1 → straps < 128 → bitsOf straps 6 4 < 4 → t = s.releaseSequence straps →
    t.rd Ix.Straps 0 = straps ∧ t.rd Ix.ClockSource 0 = (if bitsOf straps 3 2 = 3 then 1 else 0) ∧ t.epoch = 0 ∧ t.tb.running = true
      ∧ t.tb.tickAt = s.now ∧ t.rd Ix.ReleaseCount 1 = (s.rd Ix.ReleaseCount 1 + 1) % 2 ^ 32
      ∧ t.rd Ix.BootState 0 = (if bitsOf straps 6 4 = 1 ∨ bitsOf straps 6 4 = 2 then 3 else 1))

/-- BOOT_IMAGE_READ_DONE, BOOT_READ_TIMEOUT and BOOT_IMAGE_LOAD (R386, R387, R388): the primary image that verifies is accepted; one that does not,
or is not read in 500 ms, is reported and the fallback is read; where the fallback fails too the device halts; a downloaded image that verifies is
accepted with its port as the source. -/
def Obligations.BootImagesAreVerified : Prop :=
  (∀ (s t : State) (l : List Byte) (total : Nat), s.inReset = false → s.reset_.bootDone = false → s.rd Ix.BootState 0 = 1 → s.domainOn 2 = true →
    s.domainOn 5 = false → s.reset_.tryingImage = 0 → total = s.numAt (flashBase + 0x00100000 + 12) 4 → 1024 ≤ total → total ≤ 3670016 →
    t = s.settle (flashBase + 0x00100000) total → t.rangePoisoned (flashBase + 0x00100000) total = false →
    l = t.bytesAt (flashBase + 0x00100000) total →
    ∃ u, exec .bootImageReadDone s = .next u ∧ (t.imageFault l = none → u = t.acceptImage l 0)
      ∧ ∀ r : Nat, t.imageFault l = some r → u =
        (let v := t.raise 0x6402 0 (packData [f8 0, f8 r]); { v with reset_ := { v.reset_ with tryingImage := 1, bootReadAt := v.now } }))
  ∧ (∀ (s : State), s.inReset = false → s.reset_.bootDone = false → s.rd Ix.BootState 0 = 1 → s.reset_.tryingImage = 1 →
    s.reset_.bootReadAt + msec 500 ≤ s.now →
    exec .bootReadTimeout s = .next ((s.raise 0x6402 0 (packData [f8 1, f8 4])).wr Ix.BootState 0 6))
  ∧ (∀ (s m : State) (w : Caller) (l : List Byte) (e : Entry), m = s.met w.port → s.serving = true → s.reset_.bootDone = false → w.pos = s.pos →
    s.host.stalled = [] → s.host.performing = none → w.tag ∉ s.host.forwarded.map (·.request.tag) → s.host.responses = [] →
    m.Records e Ix.BootImageLoad l → m.domainOn 5 = false →
    ∃ u, exec (.bootImageLoad (recordWrite w Ix.BootImageLoad l)) s = .next u
      ∧ (m.imageFault l = none → u = (m.acceptImage l (2 + w.port)).endedRecord w Ix.BootImageLoad l))

/-- KEY_REVOKE, KEY_REVOKED, ATTEST_REQUEST, ATTEST_DONE, IDENTITY_SIGN and SIGN_DONE (R390, R392): a revocation of another slot that leaves a key
is carried out where its signature verifies, and refused with SIGNATURE where it does not: the fuse is blown, the key is gone and the slot shows
revoked; a report or a signature asked for while the unit is free is made, and then reads out. TEST_LOGIC_RESET, IDCODE, SAMPLE_PRELOAD, EXTEST,
EXTEST_PULSE, EXTEST_TRAIN, CLAMP, HIGHZ and BYPASS (R394, Table 17.10): each instruction selects its register; a test-mode instruction drives the
scanned outputs from the cells, or floats them, and holds the device in warm reset with source 9; any other lets the device go. -/
def Obligations.KeysSignAndTheTestPortSelects : Prop :=
  (∀ (s m : State) (w : Caller) (l : List Byte) (slot signer : Nat) (ok : Bool), m = s.met w.port → s.OrdersRecord w Ix.KeyRevoke l →
    slot = fieldLE l 0 1 → signer = fieldLE l 1 1 → slot < 4 → signer < 4 → fieldLE l 8 8 = m.rd Ix.DeviceIdentity 0 → signer ≠ slot → m.keyState signer = 2 →
    (∃ k < 4, k ≠ slot ∧ (m.fuse.keyHash.getD k none).isSome = true ∧ k ∉ m.fuse.revoked) →
    ok = Config.sm2Verify (tget [] signer m.reset_.loadedKeys) (l.take 16) (sliceBytes l 16 64) →
    exec (.keyRevoke w l) s = .next (if ok
      then ({ m with reset_ := { m.reset_ with revoking := m.reset_.revoking ++ [slot] } } : State).endedRecord w Ix.KeyRevoke l
      else m.refuse (recordWrite w Ix.KeyRevoke l) false ⟨abSignature, 0⟩))
  ∧ (∀ (s : State) (slot : Nat) (rest : List Nat), s.reset_.revoking = slot :: rest → slot < 4 →
    ∃ t, exec .keyRevoked s = .next t ∧ slot ∈ t.fuse.revoked ∧ t.rd Ix.KeySlotState (slot + 1) = 3 ∧ t.reset_.revoking = rest
      ∧ t.reset_.loadedKeys = tdel slot s.reset_.loadedKeys)
  ∧ (∀ (s m : State) (w : Caller) (l : List Byte), m = s.met w.port → m.reset_.attestNonce = none → m.reset_.signDigest = none →
    (s.OrdersRecord w Ix.AttestRequest l →
      exec (.attestRequest w l) s = .next (({ m with reset_ := { m.reset_ with attestNonce := some l } } : State).endedRecord w Ix.AttestRequest l))
    ∧ (s.OrdersRecord w Ix.IdentitySign l →
      exec (.identitySign w l) s = .next (({ m with reset_ := { m.reset_ with signDigest := some l } } : State).endedRecord w Ix.IdentitySign l)))
  ∧ (∀ (s t : State) (nonce body : List Byte) (n : Nat), s.reset_.attestNonce = some nonce → n = (s.reset_.sequence + 1) % 2 ^ 32 →
    body = s.attestBody nonce n → t = { s with free := s.free + 1, reset_ := { s.reset_ with attestNonce := none, sequence := n } } →
    exec .attestDone s = .next ((t.setDom Ix.AttestReport 0 (body ++ sliceBytes (Config.sm2Sign s.free ([0x41, 0x54, 0x53, 0x54] ++ body)) 0 64)).raise
      0x6406 0 (packData [f32 n])))
  ∧ (∀ (s t : State) (d : List Byte), s.reset_.signDigest = some d → t = { s with free := s.free + 1, reset_ := { s.reset_ with signDigest := none } } →
    exec .signDone s = .next ((t.setDom Ix.IdentitySignature 0 (sliceBytes (Config.sm2Sign s.free ([0x48, 0x53, 0x49, 0x47] ++ sliceBytes d 0 32)) 0
      64)).raise 0x6407 0 0))
  ∧ (∀ (s : State) (straps : Nat), s.reset_.held = [] →
    (∀ (c : Instr) (ir n : Nat), (c, ir, n) ∈ [(Instr.testLogicReset straps, 1, 32), (.idcode straps, 1, 32), (.bypass straps, 255, 1)] →
      exec c s = .next { s with scan := { s.scan with ir := ir, register := n, fromCells := false, highZ := false, pulse := false, train := false } })
    ∧ ∀ l : List Bool, l.length = 243 → exec (.samplePreload l straps) s = .next { s with scan := { s.scan with
      cells := l, ir := 2, register := 243, fromCells := false, highZ := false, pulse := false, train := false } })
  ∧ (∀ (s : State) (c : Instr) (ir n : Nat), (c, ir, n) ∈ [(Instr.extest, 3, 243), (.extestPulse, 4, 243), (.extestTrain, 5, 243), (.clamp, 6, 1),
      (.highz, 7, 1)] → s.therm.latched = false → (∀ h ∈ s.reset_.held, h.bit ≠ 9) →
    ∃ t, exec c s = .next t ∧ t.scan.ir = ir ∧ t.scan.register = n ∧ t.scan.fromCells = decide (ir ≤ 6) ∧ t.scan.highZ = decide (ir = 7)
      ∧ t.scan.pulse = decide (ir = 4) ∧ t.scan.train = decide (ir = 5) ∧ (⟨9, s.now, 0⟩ : ResetSource) ∈ t.reset_.held ∧ t.inReset = true)
  ∧ (∀ (s : State) (since straps : Nat), s.reset_.held = [⟨9, since, 0⟩] →
    exec (.bypass straps) s = .next (State.releaseSequence { s with
      scan := { s.scan with ir := 255, register := 1, fromCells := false, highZ := false, pulse := false, train := false },
      reset_ := { s.reset_ with held := [] } } straps))

/-- HK_FRAME, HK_CHECK, HK_TRUST_HKA, HK_TRUST_HKB and HK_TRUST_BOTH (R397, R399, R400, R408): a die sensor's reading is shown, in tenths of a
degree; a converter that times out fails, and readings stop with a Safe Hold cause when it was the last; a check in agreement is shown, and one out
of tolerance makes both converters suspect; the converter that the host trusts works and the other is excluded, or both work. -/
def Obligations.ConvertersAreJudged : Prop :=
  (∀ (s : State) (f : HkFrame) (n : Nat) (r : Int), f.conv < 2 → s.hkWorks f.conv = true → f.timeout = false → s.bandgapBad f.bandgap = false →
    f.dies = [(n, r)] → f.remote = none → f.others = [] → 16 ≤ n → n < 24 → s.hkCarries f.conv (0x30 + n) = true → s.hkSuspect = false →
    -600 ≤ r → r ≤ 1750 → r < s.rdI 16 Ix.TempWarn (n + 1) → r < s.rdI 16 Ix.TempThrottle (n + 1) → r < s.rdI 16 Ix.TempShutdown (n + 1) →
    s.therm.warnEdge = false →
    ∃ t, exec (.hkFrame f) s = .next t ∧ t.rdI 16 Ix.TempReading (n + 1) = r ∧ t.rd Ix.HkBandgap 0 = f.bandgap * 2500000 / 65536)
  ∧ (∀ (s : State) (f : HkFrame), f.conv < 2 → s.hkWorks f.conv = true → f.timeout = true → s.therm.warnEdge = false →
    ∃ t, exec (.hkFrame f) s = .next t ∧ t.hkState f.conv = 3
      ∧ (s.hkWorks (1 - f.conv) = false → t.therm.stopped = true ∧ t.rdBit Ix.SafeHoldCauses 0 2 = true))
  ∧ (∀ (s t : State) (k : HkCheck), s.therm.checkAt + msec (s.rd Ix.HkCheckInterval 0) ≤ s.now → s.hkWorks 0 = true → s.hkWorks 1 = true →
    k.lateA = false → k.lateB = false → s.rd Ix.HkCheckChannel 0 ≠ 0x30 →
    t = (({ s with therm := { s.therm with checkAt := s.now } } : State).wr Ix.HkCheckResult 1 k.a).wr Ix.HkCheckResult 2 k.b →
    (((k.a : Int) - k.b).natAbs ≤ s.rd Ix.HkCheckTolerance 0 → exec (.hkCheck k) s = .next t)
    ∧ (s.rd Ix.HkCheckTolerance 0 < ((k.a : Int) - k.b).natAbs → exec (.hkCheck k) s = .next (((t.raise 0x6801 0 (packData [f16 (s.rd
      Ix.HkCheckChannel 0), f32 ((k.a : Int) - k.b).natAbs])).wr Ix.HkConverterState 1 2).wr Ix.HkConverterState 2 2)))
  ∧ (∀ (s m t : State) (w : Caller), m = s.met w.port → m.rdBit Ix.SafeHoldCauses 0 2 = false →
    (s.Orders w Ix.HkTrust 0 0 → m.hkState 1 ≠ 3 → t = { m with therm := { m.therm with trusted := true, stopped := false } } →
      exec (.hkTrustHka w) s = .next (((t.wr Ix.HkConverterState 1 1).wr Ix.HkConverterState 2 4).ended w Ix.HkTrust 0 0))
    ∧ (s.Orders w Ix.HkTrust 0 1 → m.hkState 0 ≠ 3 → t = { m with therm := { m.therm with trusted := true, stopped := false } } →
      exec (.hkTrustHkb w) s = .next (((t.wr Ix.HkConverterState 2 1).wr Ix.HkConverterState 1 4).ended w Ix.HkTrust 0 1))
    ∧ (s.Orders w Ix.HkTrust 0 2 → t = { m with therm := { m.therm with trusted := false, stopped := false } } →
      exec (.hkTrustBoth w) s = .next (((t.wr Ix.HkConverterState 1 1).wr Ix.HkConverterState 2 1).ended w Ix.HkTrust 0 2)))

/-- BLOAD_N, BCLR_N_FALL, BCLR_N_RISE, BIAS_SHORT and BIAS_SHORT_CLEAR (R403, R405, R407): a channel of a group that BLOAD_N strobes drives its
code, where no clear holds; a clear drives every channel that is not clamped to its clear code, and the end of the last one leaves the outputs; a
current limit that acts for 10 µs is shown, counted and reported, and so is its end. -/
def Obligations.BiasOutputsFollow : Prop :=
  (∀ (s : State) (n : Nat), n < 144 → s.byBload (n / 16) = true → s.bias.held = [] → s.bias.clears = 0 → s.rdBit Ix.BiasStatus (n + 1) 0 = false →
    s.rd Ix.BiasRange (n + 1) = s.rd Ix.BiasRangeNow (n + 1) →
    ∃ t, exec .bloadN s = .next t ∧ t.rd Ix.BiasCodeNow (n + 1) = s.biasCode n ∧ t.rdBit Ix.BiasStatus (n + 1) 1 = false
      ∧ t.rdBit Ix.BiasStatus (n + 1) 3 = false)
  ∧ (∀ (s : State), bitAt s.bias.clears 0 = false → s.bias.held = [] →
    ∃ t, exec .bclrNFall s = .next t ∧ bitAt t.bias.clears 0 = true ∧ ∀ n < 144, s.rdBit Ix.BiasStatus (n + 1) 0 = false →
      t.rd Ix.BiasCodeNow (n + 1) = s.rd Ix.BiasClearCode (n + 1) ∧ t.rdBit Ix.BiasStatus (n + 1) 3 = true)
  ∧ (∀ (s : State), s.bias.clears = 1 → s.bias.held = [] →
    exec .bclrNRise s = .next (({ s with bias := { s.bias with clears := 0 } } : State).raise 0x6805 0 (packData [f8 1, fFlag false])))
  ∧ (∀ (s : State) (n : Nat), s.rdBit Ix.BiasStatus (n + 1) 4 = false →
    exec (.biasShort n) s = .next (((s.wrBit Ix.BiasStatus (n + 1) 4 true).bump Ix.BiasShortCount (n + 1)).raise 0x6803 (n + 1)
      (packData [f8 n, fFlag true])))
  ∧ (∀ (s : State) (n : Nat), s.rdBit Ix.BiasStatus (n + 1) 4 = true →
    exec (.biasShortClear n) s = .next ((s.wrBit Ix.BiasStatus (n + 1) 4 false).raise 0x6803 (n + 1) (packData [f8 n, fFlag false])))

/-- THROTTLE_GRACE, THROTTLE_STEP, TILE_MUTE, SHUTDOWN_DEADLINE and SHUTDOWN_BIAS_CLEAR (R413, R414, R415): a sensor still above THROTTLE when its
grace ends starts enforcement with a step; every 100 ms its tiles step up while it enforces, and down after it has crossed back; a tile at its floor
for `ThrottleMuteDelay` is muted; 50 ms into an orderly shutdown every transmit path is in hold-off, and 5 µs later the bias outputs clear and the
THERMAL cause is active. DRIVER_OVERCURRENT, PATH_FAULT_CLEAR, LEASE_REVOKE and FAULT_LOG_CLEAR (R418, R423, R424, R425): a path whose driver draws
too much is faulty from the next tick; a faulty path that the host clears is tested again at the next slot; a revoked lease ends with reason 4; the
log is emptied. -/
def Obligations.HeatAndFaultsAreHandled : Prop :=
  (∀ (s : State) (n t : Nat) (v : SensorSys), s.sensor n = v → v.graceAt = some t → t + msec (s.rd Ix.ThrottleGrace 0) ≤ s.now →
    (s.rd Ix.ThrottleMode 0 = 1 → v.counts = true →
      exec (.throttleGrace n) s = .next ((s.setSensor n { v with graceAt := none, enforce := true, stepAt := s.now }).stepUp n))
    ∧ (v.counts = false → exec (.throttleGrace n) s = .next (s.setSensor n { v with graceAt := none })))
  ∧ (∀ (s : State) (n : Nat) (v : SensorSys), s.sensor n = v → s.rd Ix.ThrottleMode 0 = 1 → v.stepAt + msec 100 ≤ s.now →
    (v.enforce = true → exec (.throttleStep n) s = .next ((s.setSensor n { v with stepAt := v.stepAt + msec 100 }).stepUp n))
    ∧ (v.enforce = false → v.counts = false → (∃ t ∈ sensorTiles n, s.askedReduction n t ≠ 0) →
      exec (.throttleStep n) s = .next ((s.setSensor n { v with stepAt := v.stepAt + msec 100 }).stepDown n)))
  ∧ (∀ (s u : State) (t since : Nat), s.therm.floorSince.find? (fun c => c.1 == t) = some (t, since) → s.rd Ix.ThrottleMuteDelay 0 ≠ 65535 →
    since + msec (s.rd Ix.ThrottleMuteDelay 0) ≤ s.now → s.rdBit Ix.TileMuted 0 t = false → s.tileEnforced t = true → s.rd Ix.ThrottleMode 0 = 1 →
    isSlotStart s.epoch = false → u = (s.wrBit Ix.TileMuted 0 t true).raise 0x6C04 (t + 1) (packData [f8 t, fFlag true]) →
    exec (.tileMute t) s = .next u)
  ∧ (∀ (s : State) (n since : Nat), s.therm.shut = some ⟨n, since, none⟩ → since + msec 50 ≤ s.now →
    exec .shutdownDeadline s = .next { s with therm := { s.therm with holdOff := true, shut := some ⟨n, since, some s.now⟩ } })
  ∧ (∀ (s : State) (n since t : Nat), s.therm.shut = some ⟨n, since, some t⟩ → t + usec 5 ≤ s.now →
    exec .shutdownBiasClear s = .next ((({ s with therm := { s.therm with shut := none } } : State).clearBegins 3).causeActive 1))
  ∧ (∀ (s : State) (p : Nat), s.rd Ix.PathFault (p + 1) = 0 → (s.path p).faultDue = 0 →
    exec (.driverOvercurrent p) s = .next (s.setPath p { s.path p with faultDue := 1 }))
  ∧ (∀ (s m : State) (w : Caller) (p : Nat), m = s.met w.port → p < 64 → s.Orders w Ix.PathFaultClear 0 p → m.rd Ix.PathFault (p + 1) ≠ 0 →
    exec (.pathFaultClear w p) s = .next ((m.setPath p { m.path p with retestDue := true }).ended w Ix.PathFaultClear 0 p))
  ∧ (∀ (s m : State) (w : Caller) (r : Nat) (l : Lease), m = s.met w.port → s.Orders w Ix.LeaseRevoke 0 r → m.leaseOf r = some l →
    l.owner / 0x1000000 ≠ 5 → r / 256 = 1 → m.dmaState (r % 256) = 3 →
    exec (.leaseRevoke w r) s = .next ((((({ m with leases := m.leases.filter (fun x => x.resource != l.resource) } : State).bump Ix.LeaseEnds 0).raise
      0x7003 0 (packData [f16 l.resource, f8 4, f8 (l.owner / 0x1000000), f16 l.owner]))).ended w Ix.LeaseRevoke 0 r))
  ∧ (∀ (s m : State) (w : Caller), m = s.met w.port → s.Orders w Ix.FaultLogClear 0 1 →
    exec (.faultLogClear w 1) s = .next (({ m with ev := { m.ev with log := [] } } : State).ended w Ix.FaultLogClear 0 1))

/-- After reset (R9, R374, R377, R404, Table 16.1): power-on holds the device and is recorded as the widest cause, AON is the one domain on, every
bias output is clamped, the queues and the memories are empty, and the entries listed have the defaults of their tables. -/
def Obligations.ResetLeavesTheDefaults : Prop :=
  State.reset.inReset = true ∧ State.reset.rd Ix.ResetCause 0 = 0x01000001 ∧ (∀ d < 12, State.reset.domainOn d = decide (d = 0))
    ∧ (∀ n < 144, State.reset.rdBit Ix.BiasStatus (n + 1) 0 = true) ∧ State.reset.ev.queue = [] ∧ State.reset.mem.bytes = []
    ∧ State.reset.host.commits = [] ∧ State.reset.pending = []
    ∧ ∀ x ∈ [(0x1213, 140), (0x140A, 100), (0x140B, 10), (0x1415, 1), (0x2000, 3500000), (0x2010, 20), (0x3000, 1), (0x3410, 4096), (0x3412, 1400),
        (0x3427, 2000), (0x3821, 4000), (0x4001, 2), (0x4405, 3500000), (0x4416, 2048), (0x4824, 200), (0x5015, 16), (0x5016, 65536), (0x5034, 10),
        (0x5420, 86400), (0x6001, 500), (0x6002, 1000)], State.reset.rd x.1 0 = x.2

/-- The commands of the ports and of the packets that only leave, whatever their operands, change the Catalogue, the link and the events alone: no
byte of memory, no lease, no clock, no queue of the Catalogue service (R287, R289, R291, R302 to R304, R312). The commands of the bias outputs
change the Catalogue, the outputs and the events alone, and those of the throttle and of the shutdown's deadline the Catalogue, thermal management
and the events (R403, R405, R407, R413 to R415). The commands of a course's synthesiser and receive offsets, and of the Sync Packet Engine's
receiver before a packet completes, change the Catalogue, their own unit, the calibration's and the events alone (R89 to R92, R208, R216, R224,
R225). -/
def Obligations.UnitsKeepToThemselves : Prop :=
  (∀ (s t : State) (p n : Nat) (b : Bool) (c : Instr), c ∈ [Instr.detectPulse p n, .trainDone p b, .portStateTimeout p, .failedTimeout p, .clockLoss p,
      .laneRejoin p n, .alignForce p, .chain p n, .resyncRetry p, .creditReturnSend p, .packetSend p, .echoInterval, .frameMarkerSend] →
    exec c s = .next t → s.changesOnly t [.cat, .link, .ev])
  ∧ (∀ (s t : State) (n : Nat) (c : Instr), c ∈ [Instr.bloadN, .bclrNFall, .bclrNRise, .biasShort n, .biasShortClear n] →
    exec c s = .next t → s.changesOnly t [.cat, .bias, .ev])
  ∧ (∀ (s t : State) (n : Nat) (c : Instr), c ∈ [Instr.throttleGrace n, .throttleStep n, .tileMute n, .shutdownDeadline] →
    exec c s = .next t → s.changesOnly t [.cat, .therm, .ev])
  ∧ (∀ (s t : State) (n a : Nat) (c : Instr), c ∈ [Instr.synLock n, .loBorrowSwitch n, .dcRange n a, .driverOvercurrent n] →
    exec c s = .next t → s.changesOnly t [.cat, .radio, .ev])
  ∧ (∀ (s t : State) (c : Instr), c ∈ [Instr.speDiversityDwell, .speCfoMove] →
    exec c s = .next t → s.changesOnly t [.cat, .spe, .ev])
end

