-- ==== Sys2Proof/Laws/Tables.lean ====
section
/-! SUPPORT. The laws of sparse tables and of the Catalogue's values: a read after a write gives what was written, and a write leaves every
other place alone. -/
namespace Sys2Proof.Machine

theorem tget_tdel_ne {α : Type} {d : α} {k j : Nat} (h : j ≠ k) (t : Tab α) : tget d j (tdel k t) = tget d j t := by
  induction t with
  | nil => rfl
  | cons c t ih =>
    obtain ⟨i, v⟩ := c
    by_cases hi : i = k
    · subst hi
      simpa [tdel, tget, Ne.symm h] using ih
    · by_cases hj : i = j
      · subst hj
        simp [tdel, tget, hi]
      · simpa [tdel, tget, hi, hj] using ih

theorem tget_tdel_same {α : Type} (d : α) (k : Nat) (t : Tab α) : tget d k (tdel k t) = d := by
  induction t with
  | nil => rfl
  | cons c t ih =>
    obtain ⟨i, v⟩ := c
    by_cases hi : i = k
    · subst hi
      simpa [tdel, tget] using ih
    · simpa [tdel, tget, hi] using ih

theorem tget_tadd_same {α : Type} (d v : α) (k : Nat) (t : Tab α) : tget d k (tadd k v (tdel k t)) = v := by
  induction t with
  | nil => simp [tdel, tadd, tget]
  | cons c t ih =>
    obtain ⟨i, w⟩ := c
    by_cases hi : i = k
    · subst hi
      simpa [tdel] using ih
    · have e : tdel k ((i, w) :: t) = (i, w) :: tdel k t := by simp [tdel, hi]
      rw [e, tadd]
      split
      · simp [tget]
      · simpa [tget, hi] using ih

theorem tget_tadd_ne {α : Type} {d v : α} {k j : Nat} (h : j ≠ k) (t : Tab α) : tget d j (tadd k v t) = tget d j t := by
  induction t with
  | nil => simp [tadd, tget, Ne.symm h]
  | cons c t ih =>
    obtain ⟨i, w⟩ := c
    unfold tadd
    split
    · simp [tget, Ne.symm h]
    · by_cases hj : i = j <;> simp [tget, hj, ih]

@[simp] theorem tget_tput_same {α : Type} [DecidableEq α] (d v : α) (k : Nat) (t : Tab α) : tget d k (tput d k v t) = v := by
  unfold tput
  split
  · rename_i h; rw [tget_tdel_same, h]
  · exact tget_tadd_same d v k t

theorem tget_tput_ne {α : Type} [DecidableEq α] {d v : α} {k j : Nat} (h : j ≠ k) (t : Tab α) : tget d j (tput d k v t) = tget d j t := by
  unfold tput
  split
  · exact tget_tdel_ne h t
  · rw [tget_tadd_ne h, tget_tdel_ne h]

/-- A write under one key, with a default that need not be that of the reader. -/
theorem tget_tput_ne' {α : Type} [DecidableEq α] {d e v : α} {k j : Nat} (h : j ≠ k) (t : Tab α) :
    tget e j (tput d k v t) = tget e j t := by
  unfold tput
  split
  · exact tget_tdel_ne h t
  · rw [tget_tadd_ne h, tget_tdel_ne h]

@[simp] theorem tget_tins_same {α : Type} (d v : α) (k : Nat) (t : Tab α) : tget d k (tins k v t) = v := tget_tadd_same d v k t

theorem tget_tins_ne {α : Type} {d v : α} {k j : Nat} (h : j ≠ k) (t : Tab α) : tget d j (tins k v t) = tget d j t := by
  rw [tins, tget_tadd_ne h, tget_tdel_ne h]

/-! Canonical form -/

theorem sortedKeys_iff {α : Type} (t : Tab α) : sortedKeys t = true ↔ t.Pairwise (fun a b => a.1 < b.1) := by
  induction t with
  | nil => simp [sortedKeys]
  | cons c t ih =>
    cases t with
    | nil => simp [sortedKeys]
    | cons c' t =>
      simp only [sortedKeys, Bool.and_eq_true, decide_eq_true_eq, ih, List.pairwise_cons]
      constructor
      · rintro ⟨h1, h2, h3⟩
        refine ⟨?_, h2, h3⟩
        intro x hx
        rcases List.mem_cons.1 hx with rfl | hx
        · exact h1
        · exact lt_trans h1 (h2 x hx)
      · rintro ⟨h1, h2, h3⟩
        exact ⟨h1 c' (by simp), h2, h3⟩

theorem sortedKeys_filter {α : Type} {t : Tab α} (p : Nat × α → Bool) (h : sortedKeys t = true) : sortedKeys (t.filter p) = true := by
  rw [sortedKeys_iff] at *
  exact h.filter p

theorem mem_tadd {α : Type} {k : Nat} {v : α} {t : Tab α} {c : Nat × α} (h : c ∈ tadd k v t) : c = (k, v) ∨ c ∈ t := by
  induction t with
  | nil => simpa [tadd] using h
  | cons x t ih =>
    obtain ⟨i, w⟩ := x
    unfold tadd at h
    split at h
    · simpa using h
    · rcases List.mem_cons.1 h with h | h
      · exact .inr (by simp [h])
      · rcases ih h with h | h
        · exact .inl h
        · exact .inr (by simp [h])

theorem pairwise_tadd {α : Type} {k : Nat} {v : α} {t : Tab α} (h : t.Pairwise (fun a b => a.1 < b.1)) (hk : ∀ c ∈ t, c.1 ≠ k) :
    (tadd k v t).Pairwise (fun a b => a.1 < b.1) := by
  induction t with
  | nil => simp [tadd]
  | cons x t ih =>
    obtain ⟨i, w⟩ := x
    rw [List.pairwise_cons] at h
    have hi : i ≠ k := hk (i, w) (by simp)
    unfold tadd
    split
    · rename_i hlt
      refine List.Pairwise.cons ?_ (List.Pairwise.cons h.1 h.2)
      intro c hc
      rcases List.mem_cons.1 hc with rfl | hc
      · exact hlt
      · exact lt_trans hlt (h.1 c hc)
    · rename_i hge
      refine List.Pairwise.cons ?_ (ih h.2 (fun c hc => hk c (by simp [hc])))
      intro c hc
      rcases mem_tadd hc with rfl | hc
      · simp only; omega
      · exact h.1 c hc

/-- A write keeps the keys strictly rising. -/
theorem sortedKeys_tput {α : Type} [DecidableEq α] {d v : α} {k : Nat} {t : Tab α} (h : sortedKeys t = true) :
    sortedKeys (tput d k v t) = true := by
  unfold tput
  split
  · exact sortedKeys_filter _ h
  · rw [sortedKeys_iff] at *
    exact pairwise_tadd (h.filter _) (fun c hc => by simpa using (List.mem_filter.1 hc).2)

/-- A write lists no entry equal to the default. -/
theorem tput_no_default {α : Type} [DecidableEq α] {d v : α} {k : Nat} {t : Tab α} (h : ∀ c ∈ t, c.2 ≠ d) :
    ∀ c ∈ tput d k v t, c.2 ≠ d := by
  intro c hc
  unfold tput at hc
  split at hc
  · exact h c (List.mem_filter.1 hc).1
  · rename_i hv
    rcases mem_tadd hc with rfl | hc
    · exact hv
    · exact h c (List.mem_filter.1 hc).1

/-! Catalogue values -/

@[simp] theorem State.rd_wr_same (s : State) (index sub v : Nat) : (s.wr index sub v).rd index sub = v := by
  simp [State.wr, State.rd]

theorem State.rd_wr_ne {s : State} {index sub i u v : Nat} (h : ck i u ≠ ck index sub) : (s.wr index sub v).rd i u = s.rd i u := by
  simp only [State.wr, State.rd]
  exact tget_tput_ne' h _

/-- Elements of different entries, or different elements of one, have different keys. -/
theorem ck_ne_index {i j u v : Nat} (hu : u < 256) (hv : v < 256) (h : i ≠ j) : ck i u ≠ ck j v := by
  unfold ck; omega

theorem ck_ne_sub {i u v : Nat} (h : u ≠ v) : ck i u ≠ ck i v := by
  unfold ck; omega

@[simp] theorem State.rd_bump_same (s : State) (index sub : Nat) : (s.bump index sub).rd index sub = (s.rd index sub + 1) % 2 ^ 32 := by
  simp [State.bump, State.addCount]

theorem State.rd_bump_ne {s : State} {index sub i u : Nat} (h : ck i u ≠ ck index sub) : (s.bump index sub).rd i u = s.rd i u :=
  State.rd_wr_ne h

@[simp] theorem State.rd_wrEpoch_same (s : State) (index sub e : Nat) : (s.wrEpoch index sub e).rd index sub = epochEntry e := by
  simp [State.wrEpoch]

theorem State.rd_wrEpoch_ne {s : State} {index sub i u e : Nat} (h : ck i u ≠ ck index sub) : (s.wrEpoch index sub e).rd i u = s.rd i u :=
  State.rd_wr_ne h

end Sys2Proof.Machine
end

