-- ==== Sys2Proof/Laws/State.lean ====
section
/-! SUPPORT. One lemma for each field and each of the small updates that leave it alone, so that no proof unfolds a record update. -/
namespace Sys2Proof.Machine

/-! `State.wr` -/

@[simp] theorem State.wr_pending (s : State) (index sub v : Nat) : (s.wr index sub v).pending = s.pending := by rw [State.wr]
@[simp] theorem State.wr_now (s : State) (index sub v : Nat) : (s.wr index sub v).now = s.now := by rw [State.wr]
@[simp] theorem State.wr_epoch (s : State) (index sub v : Nat) : (s.wr index sub v).epoch = s.epoch := by rw [State.wr]
@[simp] theorem State.wr_pos (s : State) (index sub v : Nat) : (s.wr index sub v).pos = s.pos := by rw [State.wr]
@[simp] theorem State.wr_free (s : State) (index sub v : Nat) : (s.wr index sub v).free = s.free := by rw [State.wr]
@[simp] theorem State.wr_dom (s : State) (index sub v : Nat) : (s.wr index sub v).dom = s.dom := by rw [State.wr]
@[simp] theorem State.wr_loopEdges (s : State) (index sub v : Nat) : (s.wr index sub v).loopEdges = s.loopEdges := by rw [State.wr]
@[simp] theorem State.wr_tb (s : State) (index sub v : Nat) : (s.wr index sub v).tb = s.tb := by rw [State.wr]
@[simp] theorem State.wr_host (s : State) (index sub v : Nat) : (s.wr index sub v).host = s.host := by rw [State.wr]
@[simp] theorem State.wr_ev (s : State) (index sub v : Nat) : (s.wr index sub v).ev = s.ev := by rw [State.wr]
@[simp] theorem State.wr_modes (s : State) (index sub v : Nat) : (s.wr index sub v).modes = s.modes := by rw [State.wr]
@[simp] theorem State.wr_mem (s : State) (index sub v : Nat) : (s.wr index sub v).mem = s.mem := by rw [State.wr]
@[simp] theorem State.wr_leases (s : State) (index sub v : Nat) : (s.wr index sub v).leases = s.leases := by rw [State.wr]
@[simp] theorem State.wr_dma (s : State) (index sub v : Nat) : (s.wr index sub v).dma = s.dma := by rw [State.wr]
@[simp] theorem State.wr_fuse (s : State) (index sub v : Nat) : (s.wr index sub v).fuse = s.fuse := by rw [State.wr]
@[simp] theorem State.wr_power (s : State) (index sub v : Nat) : (s.wr index sub v).power = s.power := by rw [State.wr]
@[simp] theorem State.wr_reset_ (s : State) (index sub v : Nat) : (s.wr index sub v).reset_ = s.reset_ := by rw [State.wr]
@[simp] theorem State.wr_scan (s : State) (index sub v : Nat) : (s.wr index sub v).scan = s.scan := by rw [State.wr]
@[simp] theorem State.wr_lib (s : State) (index sub v : Nat) : (s.wr index sub v).lib = s.lib := by rw [State.wr]
@[simp] theorem State.wr_radio (s : State) (index sub v : Nat) : (s.wr index sub v).radio = s.radio := by rw [State.wr]
@[simp] theorem State.wr_userJobs (s : State) (index sub v : Nat) : (s.wr index sub v).userJobs = s.userJobs := by rw [State.wr]
@[simp] theorem State.wr_mix (s : State) (index sub v : Nat) : (s.wr index sub v).mix = s.mix := by rw [State.wr]
@[simp] theorem State.wr_lin (s : State) (index sub v : Nat) : (s.wr index sub v).lin = s.lin := by rw [State.wr]
@[simp] theorem State.wr_cal (s : State) (index sub v : Nat) : (s.wr index sub v).cal = s.cal := by rw [State.wr]
@[simp] theorem State.wr_link (s : State) (index sub v : Nat) : (s.wr index sub v).link = s.link := by rw [State.wr]
@[simp] theorem State.wr_bias (s : State) (index sub v : Nat) : (s.wr index sub v).bias = s.bias := by rw [State.wr]
@[simp] theorem State.wr_duplex (s : State) (index sub v : Nat) : (s.wr index sub v).duplex = s.duplex := by rw [State.wr]
@[simp] theorem State.wr_spe (s : State) (index sub v : Nat) : (s.wr index sub v).spe = s.spe := by rw [State.wr]
@[simp] theorem State.wr_mason (s : State) (index sub v : Nat) : (s.wr index sub v).mason = s.mason := by rw [State.wr]
@[simp] theorem State.wr_therm (s : State) (index sub v : Nat) : (s.wr index sub v).therm = s.therm := by rw [State.wr]
@[simp] theorem State.wr_captureFills (s : State) (index sub v : Nat) : (s.wr index sub v).captureFills = s.captureFills := by rw [State.wr]
@[simp] theorem State.wr_captureReady (s : State) (index sub v : Nat) : (s.wr index sub v).captureReady = s.captureReady := by rw [State.wr]
@[simp] theorem State.wr_farLimits (s : State) (index sub v : Nat) : (s.wr index sub v).farLimits = s.farLimits := by rw [State.wr]

/-! `State.addCount` -/

@[simp] theorem State.addCount_pending (s : State) (index sub n : Nat) : (s.addCount index sub n).pending = s.pending := by simp only [State.addCount, State.wr_pending]
@[simp] theorem State.addCount_now (s : State) (index sub n : Nat) : (s.addCount index sub n).now = s.now := by simp only [State.addCount, State.wr_now]
@[simp] theorem State.addCount_epoch (s : State) (index sub n : Nat) : (s.addCount index sub n).epoch = s.epoch := by simp only [State.addCount, State.wr_epoch]
@[simp] theorem State.addCount_pos (s : State) (index sub n : Nat) : (s.addCount index sub n).pos = s.pos := by simp only [State.addCount, State.wr_pos]
@[simp] theorem State.addCount_free (s : State) (index sub n : Nat) : (s.addCount index sub n).free = s.free := by simp only [State.addCount, State.wr_free]
@[simp] theorem State.addCount_dom (s : State) (index sub n : Nat) : (s.addCount index sub n).dom = s.dom := by simp only [State.addCount, State.wr_dom]
@[simp] theorem State.addCount_loopEdges (s : State) (index sub n : Nat) : (s.addCount index sub n).loopEdges = s.loopEdges := by simp only [State.addCount, State.wr_loopEdges]
@[simp] theorem State.addCount_tb (s : State) (index sub n : Nat) : (s.addCount index sub n).tb = s.tb := by simp only [State.addCount, State.wr_tb]
@[simp] theorem State.addCount_host (s : State) (index sub n : Nat) : (s.addCount index sub n).host = s.host := by simp only [State.addCount, State.wr_host]
@[simp] theorem State.addCount_ev (s : State) (index sub n : Nat) : (s.addCount index sub n).ev = s.ev := by simp only [State.addCount, State.wr_ev]
@[simp] theorem State.addCount_modes (s : State) (index sub n : Nat) : (s.addCount index sub n).modes = s.modes := by simp only [State.addCount, State.wr_modes]
@[simp] theorem State.addCount_mem (s : State) (index sub n : Nat) : (s.addCount index sub n).mem = s.mem := by simp only [State.addCount, State.wr_mem]
@[simp] theorem State.addCount_leases (s : State) (index sub n : Nat) : (s.addCount index sub n).leases = s.leases := by simp only [State.addCount, State.wr_leases]
@[simp] theorem State.addCount_dma (s : State) (index sub n : Nat) : (s.addCount index sub n).dma = s.dma := by simp only [State.addCount, State.wr_dma]
@[simp] theorem State.addCount_fuse (s : State) (index sub n : Nat) : (s.addCount index sub n).fuse = s.fuse := by simp only [State.addCount, State.wr_fuse]
@[simp] theorem State.addCount_power (s : State) (index sub n : Nat) : (s.addCount index sub n).power = s.power := by simp only [State.addCount, State.wr_power]
@[simp] theorem State.addCount_reset_ (s : State) (index sub n : Nat) : (s.addCount index sub n).reset_ = s.reset_ := by simp only [State.addCount, State.wr_reset_]
@[simp] theorem State.addCount_scan (s : State) (index sub n : Nat) : (s.addCount index sub n).scan = s.scan := by simp only [State.addCount, State.wr_scan]
@[simp] theorem State.addCount_lib (s : State) (index sub n : Nat) : (s.addCount index sub n).lib = s.lib := by simp only [State.addCount, State.wr_lib]
@[simp] theorem State.addCount_radio (s : State) (index sub n : Nat) : (s.addCount index sub n).radio = s.radio := by simp only [State.addCount, State.wr_radio]
@[simp] theorem State.addCount_userJobs (s : State) (index sub n : Nat) : (s.addCount index sub n).userJobs = s.userJobs := by simp only [State.addCount, State.wr_userJobs]
@[simp] theorem State.addCount_mix (s : State) (index sub n : Nat) : (s.addCount index sub n).mix = s.mix := by simp only [State.addCount, State.wr_mix]
@[simp] theorem State.addCount_lin (s : State) (index sub n : Nat) : (s.addCount index sub n).lin = s.lin := by simp only [State.addCount, State.wr_lin]
@[simp] theorem State.addCount_cal (s : State) (index sub n : Nat) : (s.addCount index sub n).cal = s.cal := by simp only [State.addCount, State.wr_cal]
@[simp] theorem State.addCount_link (s : State) (index sub n : Nat) : (s.addCount index sub n).link = s.link := by simp only [State.addCount, State.wr_link]
@[simp] theorem State.addCount_bias (s : State) (index sub n : Nat) : (s.addCount index sub n).bias = s.bias := by simp only [State.addCount, State.wr_bias]
@[simp] theorem State.addCount_duplex (s : State) (index sub n : Nat) : (s.addCount index sub n).duplex = s.duplex := by simp only [State.addCount, State.wr_duplex]
@[simp] theorem State.addCount_spe (s : State) (index sub n : Nat) : (s.addCount index sub n).spe = s.spe := by simp only [State.addCount, State.wr_spe]
@[simp] theorem State.addCount_mason (s : State) (index sub n : Nat) : (s.addCount index sub n).mason = s.mason := by simp only [State.addCount, State.wr_mason]
@[simp] theorem State.addCount_therm (s : State) (index sub n : Nat) : (s.addCount index sub n).therm = s.therm := by simp only [State.addCount, State.wr_therm]
@[simp] theorem State.addCount_captureFills (s : State) (index sub n : Nat) : (s.addCount index sub n).captureFills = s.captureFills := by simp only [State.addCount, State.wr_captureFills]
@[simp] theorem State.addCount_captureReady (s : State) (index sub n : Nat) : (s.addCount index sub n).captureReady = s.captureReady := by simp only [State.addCount, State.wr_captureReady]
@[simp] theorem State.addCount_farLimits (s : State) (index sub n : Nat) : (s.addCount index sub n).farLimits = s.farLimits := by simp only [State.addCount, State.wr_farLimits]

/-! `State.bump` -/

@[simp] theorem State.bump_pending (s : State) (index sub : Nat) : (s.bump index sub).pending = s.pending := by simp only [State.bump, State.addCount_pending]
@[simp] theorem State.bump_now (s : State) (index sub : Nat) : (s.bump index sub).now = s.now := by simp only [State.bump, State.addCount_now]
@[simp] theorem State.bump_epoch (s : State) (index sub : Nat) : (s.bump index sub).epoch = s.epoch := by simp only [State.bump, State.addCount_epoch]
@[simp] theorem State.bump_pos (s : State) (index sub : Nat) : (s.bump index sub).pos = s.pos := by simp only [State.bump, State.addCount_pos]
@[simp] theorem State.bump_free (s : State) (index sub : Nat) : (s.bump index sub).free = s.free := by simp only [State.bump, State.addCount_free]
@[simp] theorem State.bump_dom (s : State) (index sub : Nat) : (s.bump index sub).dom = s.dom := by simp only [State.bump, State.addCount_dom]
@[simp] theorem State.bump_loopEdges (s : State) (index sub : Nat) : (s.bump index sub).loopEdges = s.loopEdges := by simp only [State.bump, State.addCount_loopEdges]
@[simp] theorem State.bump_tb (s : State) (index sub : Nat) : (s.bump index sub).tb = s.tb := by simp only [State.bump, State.addCount_tb]
@[simp] theorem State.bump_host (s : State) (index sub : Nat) : (s.bump index sub).host = s.host := by simp only [State.bump, State.addCount_host]
@[simp] theorem State.bump_ev (s : State) (index sub : Nat) : (s.bump index sub).ev = s.ev := by simp only [State.bump, State.addCount_ev]
@[simp] theorem State.bump_modes (s : State) (index sub : Nat) : (s.bump index sub).modes = s.modes := by simp only [State.bump, State.addCount_modes]
@[simp] theorem State.bump_mem (s : State) (index sub : Nat) : (s.bump index sub).mem = s.mem := by simp only [State.bump, State.addCount_mem]
@[simp] theorem State.bump_leases (s : State) (index sub : Nat) : (s.bump index sub).leases = s.leases := by simp only [State.bump, State.addCount_leases]
@[simp] theorem State.bump_dma (s : State) (index sub : Nat) : (s.bump index sub).dma = s.dma := by simp only [State.bump, State.addCount_dma]
@[simp] theorem State.bump_fuse (s : State) (index sub : Nat) : (s.bump index sub).fuse = s.fuse := by simp only [State.bump, State.addCount_fuse]
@[simp] theorem State.bump_power (s : State) (index sub : Nat) : (s.bump index sub).power = s.power := by simp only [State.bump, State.addCount_power]
@[simp] theorem State.bump_reset_ (s : State) (index sub : Nat) : (s.bump index sub).reset_ = s.reset_ := by simp only [State.bump, State.addCount_reset_]
@[simp] theorem State.bump_scan (s : State) (index sub : Nat) : (s.bump index sub).scan = s.scan := by simp only [State.bump, State.addCount_scan]
@[simp] theorem State.bump_lib (s : State) (index sub : Nat) : (s.bump index sub).lib = s.lib := by simp only [State.bump, State.addCount_lib]
@[simp] theorem State.bump_radio (s : State) (index sub : Nat) : (s.bump index sub).radio = s.radio := by simp only [State.bump, State.addCount_radio]
@[simp] theorem State.bump_userJobs (s : State) (index sub : Nat) : (s.bump index sub).userJobs = s.userJobs := by simp only [State.bump, State.addCount_userJobs]
@[simp] theorem State.bump_mix (s : State) (index sub : Nat) : (s.bump index sub).mix = s.mix := by simp only [State.bump, State.addCount_mix]
@[simp] theorem State.bump_lin (s : State) (index sub : Nat) : (s.bump index sub).lin = s.lin := by simp only [State.bump, State.addCount_lin]
@[simp] theorem State.bump_cal (s : State) (index sub : Nat) : (s.bump index sub).cal = s.cal := by simp only [State.bump, State.addCount_cal]
@[simp] theorem State.bump_link (s : State) (index sub : Nat) : (s.bump index sub).link = s.link := by simp only [State.bump, State.addCount_link]
@[simp] theorem State.bump_bias (s : State) (index sub : Nat) : (s.bump index sub).bias = s.bias := by simp only [State.bump, State.addCount_bias]
@[simp] theorem State.bump_duplex (s : State) (index sub : Nat) : (s.bump index sub).duplex = s.duplex := by simp only [State.bump, State.addCount_duplex]
@[simp] theorem State.bump_spe (s : State) (index sub : Nat) : (s.bump index sub).spe = s.spe := by simp only [State.bump, State.addCount_spe]
@[simp] theorem State.bump_mason (s : State) (index sub : Nat) : (s.bump index sub).mason = s.mason := by simp only [State.bump, State.addCount_mason]
@[simp] theorem State.bump_therm (s : State) (index sub : Nat) : (s.bump index sub).therm = s.therm := by simp only [State.bump, State.addCount_therm]
@[simp] theorem State.bump_captureFills (s : State) (index sub : Nat) : (s.bump index sub).captureFills = s.captureFills := by simp only [State.bump, State.addCount_captureFills]
@[simp] theorem State.bump_captureReady (s : State) (index sub : Nat) : (s.bump index sub).captureReady = s.captureReady := by simp only [State.bump, State.addCount_captureReady]
@[simp] theorem State.bump_farLimits (s : State) (index sub : Nat) : (s.bump index sub).farLimits = s.farLimits := by simp only [State.bump, State.addCount_farLimits]

/-! `State.wrBit` -/

@[simp] theorem State.wrBit_pending (s : State) (index sub bit : Nat) (b : Bool) : (s.wrBit index sub bit b).pending = s.pending := by simp only [State.wrBit, State.wr_pending]
@[simp] theorem State.wrBit_now (s : State) (index sub bit : Nat) (b : Bool) : (s.wrBit index sub bit b).now = s.now := by simp only [State.wrBit, State.wr_now]
@[simp] theorem State.wrBit_epoch (s : State) (index sub bit : Nat) (b : Bool) : (s.wrBit index sub bit b).epoch = s.epoch := by simp only [State.wrBit, State.wr_epoch]
@[simp] theorem State.wrBit_pos (s : State) (index sub bit : Nat) (b : Bool) : (s.wrBit index sub bit b).pos = s.pos := by simp only [State.wrBit, State.wr_pos]
@[simp] theorem State.wrBit_free (s : State) (index sub bit : Nat) (b : Bool) : (s.wrBit index sub bit b).free = s.free := by simp only [State.wrBit, State.wr_free]
@[simp] theorem State.wrBit_dom (s : State) (index sub bit : Nat) (b : Bool) : (s.wrBit index sub bit b).dom = s.dom := by simp only [State.wrBit, State.wr_dom]
@[simp] theorem State.wrBit_loopEdges (s : State) (index sub bit : Nat) (b : Bool) : (s.wrBit index sub bit b).loopEdges = s.loopEdges := by simp only [State.wrBit, State.wr_loopEdges]
@[simp] theorem State.wrBit_tb (s : State) (index sub bit : Nat) (b : Bool) : (s.wrBit index sub bit b).tb = s.tb := by simp only [State.wrBit, State.wr_tb]
@[simp] theorem State.wrBit_host (s : State) (index sub bit : Nat) (b : Bool) : (s.wrBit index sub bit b).host = s.host := by simp only [State.wrBit, State.wr_host]
@[simp] theorem State.wrBit_ev (s : State) (index sub bit : Nat) (b : Bool) : (s.wrBit index sub bit b).ev = s.ev := by simp only [State.wrBit, State.wr_ev]
@[simp] theorem State.wrBit_modes (s : State) (index sub bit : Nat) (b : Bool) : (s.wrBit index sub bit b).modes = s.modes := by simp only [State.wrBit, State.wr_modes]
@[simp] theorem State.wrBit_mem (s : State) (index sub bit : Nat) (b : Bool) : (s.wrBit index sub bit b).mem = s.mem := by simp only [State.wrBit, State.wr_mem]
@[simp] theorem State.wrBit_leases (s : State) (index sub bit : Nat) (b : Bool) : (s.wrBit index sub bit b).leases = s.leases := by simp only [State.wrBit, State.wr_leases]
@[simp] theorem State.wrBit_dma (s : State) (index sub bit : Nat) (b : Bool) : (s.wrBit index sub bit b).dma = s.dma := by simp only [State.wrBit, State.wr_dma]
@[simp] theorem State.wrBit_fuse (s : State) (index sub bit : Nat) (b : Bool) : (s.wrBit index sub bit b).fuse = s.fuse := by simp only [State.wrBit, State.wr_fuse]
@[simp] theorem State.wrBit_power (s : State) (index sub bit : Nat) (b : Bool) : (s.wrBit index sub bit b).power = s.power := by simp only [State.wrBit, State.wr_power]
@[simp] theorem State.wrBit_reset_ (s : State) (index sub bit : Nat) (b : Bool) : (s.wrBit index sub bit b).reset_ = s.reset_ := by simp only [State.wrBit, State.wr_reset_]
@[simp] theorem State.wrBit_scan (s : State) (index sub bit : Nat) (b : Bool) : (s.wrBit index sub bit b).scan = s.scan := by simp only [State.wrBit, State.wr_scan]
@[simp] theorem State.wrBit_lib (s : State) (index sub bit : Nat) (b : Bool) : (s.wrBit index sub bit b).lib = s.lib := by simp only [State.wrBit, State.wr_lib]
@[simp] theorem State.wrBit_radio (s : State) (index sub bit : Nat) (b : Bool) : (s.wrBit index sub bit b).radio = s.radio := by simp only [State.wrBit, State.wr_radio]
@[simp] theorem State.wrBit_userJobs (s : State) (index sub bit : Nat) (b : Bool) : (s.wrBit index sub bit b).userJobs = s.userJobs := by simp only [State.wrBit, State.wr_userJobs]
@[simp] theorem State.wrBit_mix (s : State) (index sub bit : Nat) (b : Bool) : (s.wrBit index sub bit b).mix = s.mix := by simp only [State.wrBit, State.wr_mix]
@[simp] theorem State.wrBit_lin (s : State) (index sub bit : Nat) (b : Bool) : (s.wrBit index sub bit b).lin = s.lin := by simp only [State.wrBit, State.wr_lin]
@[simp] theorem State.wrBit_cal (s : State) (index sub bit : Nat) (b : Bool) : (s.wrBit index sub bit b).cal = s.cal := by simp only [State.wrBit, State.wr_cal]
@[simp] theorem State.wrBit_link (s : State) (index sub bit : Nat) (b : Bool) : (s.wrBit index sub bit b).link = s.link := by simp only [State.wrBit, State.wr_link]
@[simp] theorem State.wrBit_bias (s : State) (index sub bit : Nat) (b : Bool) : (s.wrBit index sub bit b).bias = s.bias := by simp only [State.wrBit, State.wr_bias]
@[simp] theorem State.wrBit_duplex (s : State) (index sub bit : Nat) (b : Bool) : (s.wrBit index sub bit b).duplex = s.duplex := by simp only [State.wrBit, State.wr_duplex]
@[simp] theorem State.wrBit_spe (s : State) (index sub bit : Nat) (b : Bool) : (s.wrBit index sub bit b).spe = s.spe := by simp only [State.wrBit, State.wr_spe]
@[simp] theorem State.wrBit_mason (s : State) (index sub bit : Nat) (b : Bool) : (s.wrBit index sub bit b).mason = s.mason := by simp only [State.wrBit, State.wr_mason]
@[simp] theorem State.wrBit_therm (s : State) (index sub bit : Nat) (b : Bool) : (s.wrBit index sub bit b).therm = s.therm := by simp only [State.wrBit, State.wr_therm]
@[simp] theorem State.wrBit_captureFills (s : State) (index sub bit : Nat) (b : Bool) : (s.wrBit index sub bit b).captureFills = s.captureFills := by simp only [State.wrBit, State.wr_captureFills]
@[simp] theorem State.wrBit_captureReady (s : State) (index sub bit : Nat) (b : Bool) : (s.wrBit index sub bit b).captureReady = s.captureReady := by simp only [State.wrBit, State.wr_captureReady]
@[simp] theorem State.wrBit_farLimits (s : State) (index sub bit : Nat) (b : Bool) : (s.wrBit index sub bit b).farLimits = s.farLimits := by simp only [State.wrBit, State.wr_farLimits]

/-! `State.wrI` -/

@[simp] theorem State.wrI_pending (s : State) (w index sub : Nat) (v : Int) : (s.wrI w index sub v).pending = s.pending := by simp only [State.wrI, State.wr_pending]
@[simp] theorem State.wrI_now (s : State) (w index sub : Nat) (v : Int) : (s.wrI w index sub v).now = s.now := by simp only [State.wrI, State.wr_now]
@[simp] theorem State.wrI_epoch (s : State) (w index sub : Nat) (v : Int) : (s.wrI w index sub v).epoch = s.epoch := by simp only [State.wrI, State.wr_epoch]
@[simp] theorem State.wrI_pos (s : State) (w index sub : Nat) (v : Int) : (s.wrI w index sub v).pos = s.pos := by simp only [State.wrI, State.wr_pos]
@[simp] theorem State.wrI_free (s : State) (w index sub : Nat) (v : Int) : (s.wrI w index sub v).free = s.free := by simp only [State.wrI, State.wr_free]
@[simp] theorem State.wrI_dom (s : State) (w index sub : Nat) (v : Int) : (s.wrI w index sub v).dom = s.dom := by simp only [State.wrI, State.wr_dom]
@[simp] theorem State.wrI_loopEdges (s : State) (w index sub : Nat) (v : Int) : (s.wrI w index sub v).loopEdges = s.loopEdges := by simp only [State.wrI, State.wr_loopEdges]
@[simp] theorem State.wrI_tb (s : State) (w index sub : Nat) (v : Int) : (s.wrI w index sub v).tb = s.tb := by simp only [State.wrI, State.wr_tb]
@[simp] theorem State.wrI_host (s : State) (w index sub : Nat) (v : Int) : (s.wrI w index sub v).host = s.host := by simp only [State.wrI, State.wr_host]
@[simp] theorem State.wrI_ev (s : State) (w index sub : Nat) (v : Int) : (s.wrI w index sub v).ev = s.ev := by simp only [State.wrI, State.wr_ev]
@[simp] theorem State.wrI_modes (s : State) (w index sub : Nat) (v : Int) : (s.wrI w index sub v).modes = s.modes := by simp only [State.wrI, State.wr_modes]
@[simp] theorem State.wrI_mem (s : State) (w index sub : Nat) (v : Int) : (s.wrI w index sub v).mem = s.mem := by simp only [State.wrI, State.wr_mem]
@[simp] theorem State.wrI_leases (s : State) (w index sub : Nat) (v : Int) : (s.wrI w index sub v).leases = s.leases := by simp only [State.wrI, State.wr_leases]
@[simp] theorem State.wrI_dma (s : State) (w index sub : Nat) (v : Int) : (s.wrI w index sub v).dma = s.dma := by simp only [State.wrI, State.wr_dma]
@[simp] theorem State.wrI_fuse (s : State) (w index sub : Nat) (v : Int) : (s.wrI w index sub v).fuse = s.fuse := by simp only [State.wrI, State.wr_fuse]
@[simp] theorem State.wrI_power (s : State) (w index sub : Nat) (v : Int) : (s.wrI w index sub v).power = s.power := by simp only [State.wrI, State.wr_power]
@[simp] theorem State.wrI_reset_ (s : State) (w index sub : Nat) (v : Int) : (s.wrI w index sub v).reset_ = s.reset_ := by simp only [State.wrI, State.wr_reset_]
@[simp] theorem State.wrI_scan (s : State) (w index sub : Nat) (v : Int) : (s.wrI w index sub v).scan = s.scan := by simp only [State.wrI, State.wr_scan]
@[simp] theorem State.wrI_lib (s : State) (w index sub : Nat) (v : Int) : (s.wrI w index sub v).lib = s.lib := by simp only [State.wrI, State.wr_lib]
@[simp] theorem State.wrI_radio (s : State) (w index sub : Nat) (v : Int) : (s.wrI w index sub v).radio = s.radio := by simp only [State.wrI, State.wr_radio]
@[simp] theorem State.wrI_userJobs (s : State) (w index sub : Nat) (v : Int) : (s.wrI w index sub v).userJobs = s.userJobs := by simp only [State.wrI, State.wr_userJobs]
@[simp] theorem State.wrI_mix (s : State) (w index sub : Nat) (v : Int) : (s.wrI w index sub v).mix = s.mix := by simp only [State.wrI, State.wr_mix]
@[simp] theorem State.wrI_lin (s : State) (w index sub : Nat) (v : Int) : (s.wrI w index sub v).lin = s.lin := by simp only [State.wrI, State.wr_lin]
@[simp] theorem State.wrI_cal (s : State) (w index sub : Nat) (v : Int) : (s.wrI w index sub v).cal = s.cal := by simp only [State.wrI, State.wr_cal]
@[simp] theorem State.wrI_link (s : State) (w index sub : Nat) (v : Int) : (s.wrI w index sub v).link = s.link := by simp only [State.wrI, State.wr_link]
@[simp] theorem State.wrI_bias (s : State) (w index sub : Nat) (v : Int) : (s.wrI w index sub v).bias = s.bias := by simp only [State.wrI, State.wr_bias]
@[simp] theorem State.wrI_duplex (s : State) (w index sub : Nat) (v : Int) : (s.wrI w index sub v).duplex = s.duplex := by simp only [State.wrI, State.wr_duplex]
@[simp] theorem State.wrI_spe (s : State) (w index sub : Nat) (v : Int) : (s.wrI w index sub v).spe = s.spe := by simp only [State.wrI, State.wr_spe]
@[simp] theorem State.wrI_mason (s : State) (w index sub : Nat) (v : Int) : (s.wrI w index sub v).mason = s.mason := by simp only [State.wrI, State.wr_mason]
@[simp] theorem State.wrI_therm (s : State) (w index sub : Nat) (v : Int) : (s.wrI w index sub v).therm = s.therm := by simp only [State.wrI, State.wr_therm]
@[simp] theorem State.wrI_captureFills (s : State) (w index sub : Nat) (v : Int) : (s.wrI w index sub v).captureFills = s.captureFills := by simp only [State.wrI, State.wr_captureFills]
@[simp] theorem State.wrI_captureReady (s : State) (w index sub : Nat) (v : Int) : (s.wrI w index sub v).captureReady = s.captureReady := by simp only [State.wrI, State.wr_captureReady]
@[simp] theorem State.wrI_farLimits (s : State) (w index sub : Nat) (v : Int) : (s.wrI w index sub v).farLimits = s.farLimits := by simp only [State.wrI, State.wr_farLimits]

/-! `State.wrEpoch` -/

@[simp] theorem State.wrEpoch_pending (s : State) (index sub e : Nat) : (s.wrEpoch index sub e).pending = s.pending := by simp only [State.wrEpoch, State.wr_pending]
@[simp] theorem State.wrEpoch_now (s : State) (index sub e : Nat) : (s.wrEpoch index sub e).now = s.now := by simp only [State.wrEpoch, State.wr_now]
@[simp] theorem State.wrEpoch_epoch (s : State) (index sub e : Nat) : (s.wrEpoch index sub e).epoch = s.epoch := by simp only [State.wrEpoch, State.wr_epoch]
@[simp] theorem State.wrEpoch_pos (s : State) (index sub e : Nat) : (s.wrEpoch index sub e).pos = s.pos := by simp only [State.wrEpoch, State.wr_pos]
@[simp] theorem State.wrEpoch_free (s : State) (index sub e : Nat) : (s.wrEpoch index sub e).free = s.free := by simp only [State.wrEpoch, State.wr_free]
@[simp] theorem State.wrEpoch_dom (s : State) (index sub e : Nat) : (s.wrEpoch index sub e).dom = s.dom := by simp only [State.wrEpoch, State.wr_dom]
@[simp] theorem State.wrEpoch_loopEdges (s : State) (index sub e : Nat) : (s.wrEpoch index sub e).loopEdges = s.loopEdges := by simp only [State.wrEpoch, State.wr_loopEdges]
@[simp] theorem State.wrEpoch_tb (s : State) (index sub e : Nat) : (s.wrEpoch index sub e).tb = s.tb := by simp only [State.wrEpoch, State.wr_tb]
@[simp] theorem State.wrEpoch_host (s : State) (index sub e : Nat) : (s.wrEpoch index sub e).host = s.host := by simp only [State.wrEpoch, State.wr_host]
@[simp] theorem State.wrEpoch_ev (s : State) (index sub e : Nat) : (s.wrEpoch index sub e).ev = s.ev := by simp only [State.wrEpoch, State.wr_ev]
@[simp] theorem State.wrEpoch_modes (s : State) (index sub e : Nat) : (s.wrEpoch index sub e).modes = s.modes := by simp only [State.wrEpoch, State.wr_modes]
@[simp] theorem State.wrEpoch_mem (s : State) (index sub e : Nat) : (s.wrEpoch index sub e).mem = s.mem := by simp only [State.wrEpoch, State.wr_mem]
@[simp] theorem State.wrEpoch_leases (s : State) (index sub e : Nat) : (s.wrEpoch index sub e).leases = s.leases := by simp only [State.wrEpoch, State.wr_leases]
@[simp] theorem State.wrEpoch_dma (s : State) (index sub e : Nat) : (s.wrEpoch index sub e).dma = s.dma := by simp only [State.wrEpoch, State.wr_dma]
@[simp] theorem State.wrEpoch_fuse (s : State) (index sub e : Nat) : (s.wrEpoch index sub e).fuse = s.fuse := by simp only [State.wrEpoch, State.wr_fuse]
@[simp] theorem State.wrEpoch_power (s : State) (index sub e : Nat) : (s.wrEpoch index sub e).power = s.power := by simp only [State.wrEpoch, State.wr_power]
@[simp] theorem State.wrEpoch_reset_ (s : State) (index sub e : Nat) : (s.wrEpoch index sub e).reset_ = s.reset_ := by simp only [State.wrEpoch, State.wr_reset_]
@[simp] theorem State.wrEpoch_scan (s : State) (index sub e : Nat) : (s.wrEpoch index sub e).scan = s.scan := by simp only [State.wrEpoch, State.wr_scan]
@[simp] theorem State.wrEpoch_lib (s : State) (index sub e : Nat) : (s.wrEpoch index sub e).lib = s.lib := by simp only [State.wrEpoch, State.wr_lib]
@[simp] theorem State.wrEpoch_radio (s : State) (index sub e : Nat) : (s.wrEpoch index sub e).radio = s.radio := by simp only [State.wrEpoch, State.wr_radio]
@[simp] theorem State.wrEpoch_userJobs (s : State) (index sub e : Nat) : (s.wrEpoch index sub e).userJobs = s.userJobs := by simp only [State.wrEpoch, State.wr_userJobs]
@[simp] theorem State.wrEpoch_mix (s : State) (index sub e : Nat) : (s.wrEpoch index sub e).mix = s.mix := by simp only [State.wrEpoch, State.wr_mix]
@[simp] theorem State.wrEpoch_lin (s : State) (index sub e : Nat) : (s.wrEpoch index sub e).lin = s.lin := by simp only [State.wrEpoch, State.wr_lin]
@[simp] theorem State.wrEpoch_cal (s : State) (index sub e : Nat) : (s.wrEpoch index sub e).cal = s.cal := by simp only [State.wrEpoch, State.wr_cal]
@[simp] theorem State.wrEpoch_link (s : State) (index sub e : Nat) : (s.wrEpoch index sub e).link = s.link := by simp only [State.wrEpoch, State.wr_link]
@[simp] theorem State.wrEpoch_bias (s : State) (index sub e : Nat) : (s.wrEpoch index sub e).bias = s.bias := by simp only [State.wrEpoch, State.wr_bias]
@[simp] theorem State.wrEpoch_duplex (s : State) (index sub e : Nat) : (s.wrEpoch index sub e).duplex = s.duplex := by simp only [State.wrEpoch, State.wr_duplex]
@[simp] theorem State.wrEpoch_spe (s : State) (index sub e : Nat) : (s.wrEpoch index sub e).spe = s.spe := by simp only [State.wrEpoch, State.wr_spe]
@[simp] theorem State.wrEpoch_mason (s : State) (index sub e : Nat) : (s.wrEpoch index sub e).mason = s.mason := by simp only [State.wrEpoch, State.wr_mason]
@[simp] theorem State.wrEpoch_therm (s : State) (index sub e : Nat) : (s.wrEpoch index sub e).therm = s.therm := by simp only [State.wrEpoch, State.wr_therm]
@[simp] theorem State.wrEpoch_captureFills (s : State) (index sub e : Nat) : (s.wrEpoch index sub e).captureFills = s.captureFills := by simp only [State.wrEpoch, State.wr_captureFills]
@[simp] theorem State.wrEpoch_captureReady (s : State) (index sub e : Nat) : (s.wrEpoch index sub e).captureReady = s.captureReady := by simp only [State.wrEpoch, State.wr_captureReady]
@[simp] theorem State.wrEpoch_farLimits (s : State) (index sub e : Nat) : (s.wrEpoch index sub e).farLimits = s.farLimits := by simp only [State.wrEpoch, State.wr_farLimits]

/-! `State.queueEvent` -/

@[simp] theorem State.queueEvent_pending (s : State) (r : EventRec) : (s.queueEvent r).pending = s.pending := by
  unfold State.queueEvent; split <;> simp only [State.bump_pending]
@[simp] theorem State.queueEvent_now (s : State) (r : EventRec) : (s.queueEvent r).now = s.now := by
  unfold State.queueEvent; split <;> simp only [State.bump_now]
@[simp] theorem State.queueEvent_epoch (s : State) (r : EventRec) : (s.queueEvent r).epoch = s.epoch := by
  unfold State.queueEvent; split <;> simp only [State.bump_epoch]
@[simp] theorem State.queueEvent_pos (s : State) (r : EventRec) : (s.queueEvent r).pos = s.pos := by
  unfold State.queueEvent; split <;> simp only [State.bump_pos]
@[simp] theorem State.queueEvent_free (s : State) (r : EventRec) : (s.queueEvent r).free = s.free := by
  unfold State.queueEvent; split <;> simp only [State.bump_free]
@[simp] theorem State.queueEvent_dom (s : State) (r : EventRec) : (s.queueEvent r).dom = s.dom := by
  unfold State.queueEvent; split <;> simp only [State.bump_dom]
@[simp] theorem State.queueEvent_loopEdges (s : State) (r : EventRec) : (s.queueEvent r).loopEdges = s.loopEdges := by
  unfold State.queueEvent; split <;> simp only [State.bump_loopEdges]
@[simp] theorem State.queueEvent_tb (s : State) (r : EventRec) : (s.queueEvent r).tb = s.tb := by
  unfold State.queueEvent; split <;> simp only [State.bump_tb]
@[simp] theorem State.queueEvent_host (s : State) (r : EventRec) : (s.queueEvent r).host = s.host := by
  unfold State.queueEvent; split <;> simp only [State.bump_host]
@[simp] theorem State.queueEvent_modes (s : State) (r : EventRec) : (s.queueEvent r).modes = s.modes := by
  unfold State.queueEvent; split <;> simp only [State.bump_modes]
@[simp] theorem State.queueEvent_mem (s : State) (r : EventRec) : (s.queueEvent r).mem = s.mem := by
  unfold State.queueEvent; split <;> simp only [State.bump_mem]
@[simp] theorem State.queueEvent_leases (s : State) (r : EventRec) : (s.queueEvent r).leases = s.leases := by
  unfold State.queueEvent; split <;> simp only [State.bump_leases]
@[simp] theorem State.queueEvent_dma (s : State) (r : EventRec) : (s.queueEvent r).dma = s.dma := by
  unfold State.queueEvent; split <;> simp only [State.bump_dma]
@[simp] theorem State.queueEvent_fuse (s : State) (r : EventRec) : (s.queueEvent r).fuse = s.fuse := by
  unfold State.queueEvent; split <;> simp only [State.bump_fuse]
@[simp] theorem State.queueEvent_power (s : State) (r : EventRec) : (s.queueEvent r).power = s.power := by
  unfold State.queueEvent; split <;> simp only [State.bump_power]
@[simp] theorem State.queueEvent_reset_ (s : State) (r : EventRec) : (s.queueEvent r).reset_ = s.reset_ := by
  unfold State.queueEvent; split <;> simp only [State.bump_reset_]
@[simp] theorem State.queueEvent_scan (s : State) (r : EventRec) : (s.queueEvent r).scan = s.scan := by
  unfold State.queueEvent; split <;> simp only [State.bump_scan]
@[simp] theorem State.queueEvent_lib (s : State) (r : EventRec) : (s.queueEvent r).lib = s.lib := by
  unfold State.queueEvent; split <;> simp only [State.bump_lib]
@[simp] theorem State.queueEvent_radio (s : State) (r : EventRec) : (s.queueEvent r).radio = s.radio := by
  unfold State.queueEvent; split <;> simp only [State.bump_radio]
@[simp] theorem State.queueEvent_userJobs (s : State) (r : EventRec) : (s.queueEvent r).userJobs = s.userJobs := by
  unfold State.queueEvent; split <;> simp only [State.bump_userJobs]
@[simp] theorem State.queueEvent_mix (s : State) (r : EventRec) : (s.queueEvent r).mix = s.mix := by
  unfold State.queueEvent; split <;> simp only [State.bump_mix]
@[simp] theorem State.queueEvent_lin (s : State) (r : EventRec) : (s.queueEvent r).lin = s.lin := by
  unfold State.queueEvent; split <;> simp only [State.bump_lin]
@[simp] theorem State.queueEvent_cal (s : State) (r : EventRec) : (s.queueEvent r).cal = s.cal := by
  unfold State.queueEvent; split <;> simp only [State.bump_cal]
@[simp] theorem State.queueEvent_link (s : State) (r : EventRec) : (s.queueEvent r).link = s.link := by
  unfold State.queueEvent; split <;> simp only [State.bump_link]
@[simp] theorem State.queueEvent_bias (s : State) (r : EventRec) : (s.queueEvent r).bias = s.bias := by
  unfold State.queueEvent; split <;> simp only [State.bump_bias]
@[simp] theorem State.queueEvent_duplex (s : State) (r : EventRec) : (s.queueEvent r).duplex = s.duplex := by
  unfold State.queueEvent; split <;> simp only [State.bump_duplex]
@[simp] theorem State.queueEvent_spe (s : State) (r : EventRec) : (s.queueEvent r).spe = s.spe := by
  unfold State.queueEvent; split <;> simp only [State.bump_spe]
@[simp] theorem State.queueEvent_mason (s : State) (r : EventRec) : (s.queueEvent r).mason = s.mason := by
  unfold State.queueEvent; split <;> simp only [State.bump_mason]
@[simp] theorem State.queueEvent_therm (s : State) (r : EventRec) : (s.queueEvent r).therm = s.therm := by
  unfold State.queueEvent; split <;> simp only [State.bump_therm]
@[simp] theorem State.queueEvent_captureFills (s : State) (r : EventRec) : (s.queueEvent r).captureFills = s.captureFills := by
  unfold State.queueEvent; split <;> simp only [State.bump_captureFills]
@[simp] theorem State.queueEvent_captureReady (s : State) (r : EventRec) : (s.queueEvent r).captureReady = s.captureReady := by
  unfold State.queueEvent; split <;> simp only [State.bump_captureReady]
@[simp] theorem State.queueEvent_farLimits (s : State) (r : EventRec) : (s.queueEvent r).farLimits = s.farLimits := by
  unfold State.queueEvent; split <;> simp only [State.bump_farLimits]

/-! `State.logFault` -/

@[simp] theorem State.logFault_pending (s : State) (r : EventRec) (cls : Nat) (led : Bool) : (s.logFault r cls led).pending = s.pending := by
  unfold State.logFault; dsimp only; split <;> simp only [State.bump_pending]
@[simp] theorem State.logFault_now (s : State) (r : EventRec) (cls : Nat) (led : Bool) : (s.logFault r cls led).now = s.now := by
  unfold State.logFault; dsimp only; split <;> simp only [State.bump_now]
@[simp] theorem State.logFault_epoch (s : State) (r : EventRec) (cls : Nat) (led : Bool) : (s.logFault r cls led).epoch = s.epoch := by
  unfold State.logFault; dsimp only; split <;> simp only [State.bump_epoch]
@[simp] theorem State.logFault_pos (s : State) (r : EventRec) (cls : Nat) (led : Bool) : (s.logFault r cls led).pos = s.pos := by
  unfold State.logFault; dsimp only; split <;> simp only [State.bump_pos]
@[simp] theorem State.logFault_free (s : State) (r : EventRec) (cls : Nat) (led : Bool) : (s.logFault r cls led).free = s.free := by
  unfold State.logFault; dsimp only; split <;> simp only [State.bump_free]
@[simp] theorem State.logFault_dom (s : State) (r : EventRec) (cls : Nat) (led : Bool) : (s.logFault r cls led).dom = s.dom := by
  unfold State.logFault; dsimp only; split <;> simp only [State.bump_dom]
@[simp] theorem State.logFault_loopEdges (s : State) (r : EventRec) (cls : Nat) (led : Bool) : (s.logFault r cls led).loopEdges = s.loopEdges := by
  unfold State.logFault; dsimp only; split <;> simp only [State.bump_loopEdges]
@[simp] theorem State.logFault_tb (s : State) (r : EventRec) (cls : Nat) (led : Bool) : (s.logFault r cls led).tb = s.tb := by
  unfold State.logFault; dsimp only; split <;> simp only [State.bump_tb]
@[simp] theorem State.logFault_host (s : State) (r : EventRec) (cls : Nat) (led : Bool) : (s.logFault r cls led).host = s.host := by
  unfold State.logFault; dsimp only; split <;> simp only [State.bump_host]
@[simp] theorem State.logFault_modes (s : State) (r : EventRec) (cls : Nat) (led : Bool) : (s.logFault r cls led).modes = s.modes := by
  unfold State.logFault; dsimp only; split <;> simp only [State.bump_modes]
@[simp] theorem State.logFault_mem (s : State) (r : EventRec) (cls : Nat) (led : Bool) : (s.logFault r cls led).mem = s.mem := by
  unfold State.logFault; dsimp only; split <;> simp only [State.bump_mem]
@[simp] theorem State.logFault_leases (s : State) (r : EventRec) (cls : Nat) (led : Bool) : (s.logFault r cls led).leases = s.leases := by
  unfold State.logFault; dsimp only; split <;> simp only [State.bump_leases]
@[simp] theorem State.logFault_dma (s : State) (r : EventRec) (cls : Nat) (led : Bool) : (s.logFault r cls led).dma = s.dma := by
  unfold State.logFault; dsimp only; split <;> simp only [State.bump_dma]
@[simp] theorem State.logFault_fuse (s : State) (r : EventRec) (cls : Nat) (led : Bool) : (s.logFault r cls led).fuse = s.fuse := by
  unfold State.logFault; dsimp only; split <;> simp only [State.bump_fuse]
@[simp] theorem State.logFault_power (s : State) (r : EventRec) (cls : Nat) (led : Bool) : (s.logFault r cls led).power = s.power := by
  unfold State.logFault; dsimp only; split <;> simp only [State.bump_power]
@[simp] theorem State.logFault_reset_ (s : State) (r : EventRec) (cls : Nat) (led : Bool) : (s.logFault r cls led).reset_ = s.reset_ := by
  unfold State.logFault; dsimp only; split <;> simp only [State.bump_reset_]
@[simp] theorem State.logFault_scan (s : State) (r : EventRec) (cls : Nat) (led : Bool) : (s.logFault r cls led).scan = s.scan := by
  unfold State.logFault; dsimp only; split <;> simp only [State.bump_scan]
@[simp] theorem State.logFault_lib (s : State) (r : EventRec) (cls : Nat) (led : Bool) : (s.logFault r cls led).lib = s.lib := by
  unfold State.logFault; dsimp only; split <;> simp only [State.bump_lib]
@[simp] theorem State.logFault_radio (s : State) (r : EventRec) (cls : Nat) (led : Bool) : (s.logFault r cls led).radio = s.radio := by
  unfold State.logFault; dsimp only; split <;> simp only [State.bump_radio]
@[simp] theorem State.logFault_userJobs (s : State) (r : EventRec) (cls : Nat) (led : Bool) : (s.logFault r cls led).userJobs = s.userJobs := by
  unfold State.logFault; dsimp only; split <;> simp only [State.bump_userJobs]
@[simp] theorem State.logFault_mix (s : State) (r : EventRec) (cls : Nat) (led : Bool) : (s.logFault r cls led).mix = s.mix := by
  unfold State.logFault; dsimp only; split <;> simp only [State.bump_mix]
@[simp] theorem State.logFault_lin (s : State) (r : EventRec) (cls : Nat) (led : Bool) : (s.logFault r cls led).lin = s.lin := by
  unfold State.logFault; dsimp only; split <;> simp only [State.bump_lin]
@[simp] theorem State.logFault_cal (s : State) (r : EventRec) (cls : Nat) (led : Bool) : (s.logFault r cls led).cal = s.cal := by
  unfold State.logFault; dsimp only; split <;> simp only [State.bump_cal]
@[simp] theorem State.logFault_link (s : State) (r : EventRec) (cls : Nat) (led : Bool) : (s.logFault r cls led).link = s.link := by
  unfold State.logFault; dsimp only; split <;> simp only [State.bump_link]
@[simp] theorem State.logFault_bias (s : State) (r : EventRec) (cls : Nat) (led : Bool) : (s.logFault r cls led).bias = s.bias := by
  unfold State.logFault; dsimp only; split <;> simp only [State.bump_bias]
@[simp] theorem State.logFault_duplex (s : State) (r : EventRec) (cls : Nat) (led : Bool) : (s.logFault r cls led).duplex = s.duplex := by
  unfold State.logFault; dsimp only; split <;> simp only [State.bump_duplex]
@[simp] theorem State.logFault_spe (s : State) (r : EventRec) (cls : Nat) (led : Bool) : (s.logFault r cls led).spe = s.spe := by
  unfold State.logFault; dsimp only; split <;> simp only [State.bump_spe]
@[simp] theorem State.logFault_mason (s : State) (r : EventRec) (cls : Nat) (led : Bool) : (s.logFault r cls led).mason = s.mason := by
  unfold State.logFault; dsimp only; split <;> simp only [State.bump_mason]
@[simp] theorem State.logFault_therm (s : State) (r : EventRec) (cls : Nat) (led : Bool) : (s.logFault r cls led).therm = s.therm := by
  unfold State.logFault; dsimp only; split <;> simp only [State.bump_therm]
@[simp] theorem State.logFault_captureFills (s : State) (r : EventRec) (cls : Nat) (led : Bool) : (s.logFault r cls led).captureFills = s.captureFills := by
  unfold State.logFault; dsimp only; split <;> simp only [State.bump_captureFills]
@[simp] theorem State.logFault_captureReady (s : State) (r : EventRec) (cls : Nat) (led : Bool) : (s.logFault r cls led).captureReady = s.captureReady := by
  unfold State.logFault; dsimp only; split <;> simp only [State.bump_captureReady]
@[simp] theorem State.logFault_farLimits (s : State) (r : EventRec) (cls : Nat) (led : Bool) : (s.logFault r cls led).farLimits = s.farLimits := by
  unfold State.logFault; dsimp only; split <;> simp only [State.bump_farLimits]

/-! `State.raiseAt` -/

@[simp] theorem State.raiseAt_pending (s : State) (code index sub data : Nat) (led : Bool) : (s.raiseAt code index sub data led).pending = s.pending := by
  unfold State.raiseAt; dsimp only; split <;> simp only [State.logFault_pending, State.queueEvent_pending]
@[simp] theorem State.raiseAt_now (s : State) (code index sub data : Nat) (led : Bool) : (s.raiseAt code index sub data led).now = s.now := by
  unfold State.raiseAt; dsimp only; split <;> simp only [State.logFault_now, State.queueEvent_now]
@[simp] theorem State.raiseAt_epoch (s : State) (code index sub data : Nat) (led : Bool) : (s.raiseAt code index sub data led).epoch = s.epoch := by
  unfold State.raiseAt; dsimp only; split <;> simp only [State.logFault_epoch, State.queueEvent_epoch]
@[simp] theorem State.raiseAt_pos (s : State) (code index sub data : Nat) (led : Bool) : (s.raiseAt code index sub data led).pos = s.pos := by
  unfold State.raiseAt; dsimp only; split <;> simp only [State.logFault_pos, State.queueEvent_pos]
@[simp] theorem State.raiseAt_free (s : State) (code index sub data : Nat) (led : Bool) : (s.raiseAt code index sub data led).free = s.free := by
  unfold State.raiseAt; dsimp only; split <;> simp only [State.logFault_free, State.queueEvent_free]
@[simp] theorem State.raiseAt_dom (s : State) (code index sub data : Nat) (led : Bool) : (s.raiseAt code index sub data led).dom = s.dom := by
  unfold State.raiseAt; dsimp only; split <;> simp only [State.logFault_dom, State.queueEvent_dom]
@[simp] theorem State.raiseAt_loopEdges (s : State) (code index sub data : Nat) (led : Bool) : (s.raiseAt code index sub data led).loopEdges = s.loopEdges := by
  unfold State.raiseAt; dsimp only; split <;> simp only [State.logFault_loopEdges, State.queueEvent_loopEdges]
@[simp] theorem State.raiseAt_tb (s : State) (code index sub data : Nat) (led : Bool) : (s.raiseAt code index sub data led).tb = s.tb := by
  unfold State.raiseAt; dsimp only; split <;> simp only [State.logFault_tb, State.queueEvent_tb]
@[simp] theorem State.raiseAt_host (s : State) (code index sub data : Nat) (led : Bool) : (s.raiseAt code index sub data led).host = s.host := by
  unfold State.raiseAt; dsimp only; split <;> simp only [State.logFault_host, State.queueEvent_host]
@[simp] theorem State.raiseAt_modes (s : State) (code index sub data : Nat) (led : Bool) : (s.raiseAt code index sub data led).modes = s.modes := by
  unfold State.raiseAt; dsimp only; split <;> simp only [State.logFault_modes, State.queueEvent_modes]
@[simp] theorem State.raiseAt_mem (s : State) (code index sub data : Nat) (led : Bool) : (s.raiseAt code index sub data led).mem = s.mem := by
  unfold State.raiseAt; dsimp only; split <;> simp only [State.logFault_mem, State.queueEvent_mem]
@[simp] theorem State.raiseAt_leases (s : State) (code index sub data : Nat) (led : Bool) : (s.raiseAt code index sub data led).leases = s.leases := by
  unfold State.raiseAt; dsimp only; split <;> simp only [State.logFault_leases, State.queueEvent_leases]
@[simp] theorem State.raiseAt_dma (s : State) (code index sub data : Nat) (led : Bool) : (s.raiseAt code index sub data led).dma = s.dma := by
  unfold State.raiseAt; dsimp only; split <;> simp only [State.logFault_dma, State.queueEvent_dma]
@[simp] theorem State.raiseAt_fuse (s : State) (code index sub data : Nat) (led : Bool) : (s.raiseAt code index sub data led).fuse = s.fuse := by
  unfold State.raiseAt; dsimp only; split <;> simp only [State.logFault_fuse, State.queueEvent_fuse]
@[simp] theorem State.raiseAt_power (s : State) (code index sub data : Nat) (led : Bool) : (s.raiseAt code index sub data led).power = s.power := by
  unfold State.raiseAt; dsimp only; split <;> simp only [State.logFault_power, State.queueEvent_power]
@[simp] theorem State.raiseAt_reset_ (s : State) (code index sub data : Nat) (led : Bool) : (s.raiseAt code index sub data led).reset_ = s.reset_ := by
  unfold State.raiseAt; dsimp only; split <;> simp only [State.logFault_reset_, State.queueEvent_reset_]
@[simp] theorem State.raiseAt_scan (s : State) (code index sub data : Nat) (led : Bool) : (s.raiseAt code index sub data led).scan = s.scan := by
  unfold State.raiseAt; dsimp only; split <;> simp only [State.logFault_scan, State.queueEvent_scan]
@[simp] theorem State.raiseAt_lib (s : State) (code index sub data : Nat) (led : Bool) : (s.raiseAt code index sub data led).lib = s.lib := by
  unfold State.raiseAt; dsimp only; split <;> simp only [State.logFault_lib, State.queueEvent_lib]
@[simp] theorem State.raiseAt_radio (s : State) (code index sub data : Nat) (led : Bool) : (s.raiseAt code index sub data led).radio = s.radio := by
  unfold State.raiseAt; dsimp only; split <;> simp only [State.logFault_radio, State.queueEvent_radio]
@[simp] theorem State.raiseAt_userJobs (s : State) (code index sub data : Nat) (led : Bool) : (s.raiseAt code index sub data led).userJobs = s.userJobs := by
  unfold State.raiseAt; dsimp only; split <;> simp only [State.logFault_userJobs, State.queueEvent_userJobs]
@[simp] theorem State.raiseAt_mix (s : State) (code index sub data : Nat) (led : Bool) : (s.raiseAt code index sub data led).mix = s.mix := by
  unfold State.raiseAt; dsimp only; split <;> simp only [State.logFault_mix, State.queueEvent_mix]
@[simp] theorem State.raiseAt_lin (s : State) (code index sub data : Nat) (led : Bool) : (s.raiseAt code index sub data led).lin = s.lin := by
  unfold State.raiseAt; dsimp only; split <;> simp only [State.logFault_lin, State.queueEvent_lin]
@[simp] theorem State.raiseAt_cal (s : State) (code index sub data : Nat) (led : Bool) : (s.raiseAt code index sub data led).cal = s.cal := by
  unfold State.raiseAt; dsimp only; split <;> simp only [State.logFault_cal, State.queueEvent_cal]
@[simp] theorem State.raiseAt_link (s : State) (code index sub data : Nat) (led : Bool) : (s.raiseAt code index sub data led).link = s.link := by
  unfold State.raiseAt; dsimp only; split <;> simp only [State.logFault_link, State.queueEvent_link]
@[simp] theorem State.raiseAt_bias (s : State) (code index sub data : Nat) (led : Bool) : (s.raiseAt code index sub data led).bias = s.bias := by
  unfold State.raiseAt; dsimp only; split <;> simp only [State.logFault_bias, State.queueEvent_bias]
@[simp] theorem State.raiseAt_duplex (s : State) (code index sub data : Nat) (led : Bool) : (s.raiseAt code index sub data led).duplex = s.duplex := by
  unfold State.raiseAt; dsimp only; split <;> simp only [State.logFault_duplex, State.queueEvent_duplex]
@[simp] theorem State.raiseAt_spe (s : State) (code index sub data : Nat) (led : Bool) : (s.raiseAt code index sub data led).spe = s.spe := by
  unfold State.raiseAt; dsimp only; split <;> simp only [State.logFault_spe, State.queueEvent_spe]
@[simp] theorem State.raiseAt_mason (s : State) (code index sub data : Nat) (led : Bool) : (s.raiseAt code index sub data led).mason = s.mason := by
  unfold State.raiseAt; dsimp only; split <;> simp only [State.logFault_mason, State.queueEvent_mason]
@[simp] theorem State.raiseAt_therm (s : State) (code index sub data : Nat) (led : Bool) : (s.raiseAt code index sub data led).therm = s.therm := by
  unfold State.raiseAt; dsimp only; split <;> simp only [State.logFault_therm, State.queueEvent_therm]
@[simp] theorem State.raiseAt_captureFills (s : State) (code index sub data : Nat) (led : Bool) : (s.raiseAt code index sub data led).captureFills = s.captureFills := by
  unfold State.raiseAt; dsimp only; split <;> simp only [State.logFault_captureFills, State.queueEvent_captureFills]
@[simp] theorem State.raiseAt_captureReady (s : State) (code index sub data : Nat) (led : Bool) : (s.raiseAt code index sub data led).captureReady = s.captureReady := by
  unfold State.raiseAt; dsimp only; split <;> simp only [State.logFault_captureReady, State.queueEvent_captureReady]
@[simp] theorem State.raiseAt_farLimits (s : State) (code index sub data : Nat) (led : Bool) : (s.raiseAt code index sub data led).farLimits = s.farLimits := by
  unfold State.raiseAt; dsimp only; split <;> simp only [State.logFault_farLimits, State.queueEvent_farLimits]

/-! `State.raise` -/

@[simp] theorem State.raise_pending (s : State) (code sub data : Nat) : (s.raise code sub data).pending = s.pending := by simp only [State.raise, State.raiseAt_pending]
@[simp] theorem State.raise_now (s : State) (code sub data : Nat) : (s.raise code sub data).now = s.now := by simp only [State.raise, State.raiseAt_now]
@[simp] theorem State.raise_epoch (s : State) (code sub data : Nat) : (s.raise code sub data).epoch = s.epoch := by simp only [State.raise, State.raiseAt_epoch]
@[simp] theorem State.raise_pos (s : State) (code sub data : Nat) : (s.raise code sub data).pos = s.pos := by simp only [State.raise, State.raiseAt_pos]
@[simp] theorem State.raise_free (s : State) (code sub data : Nat) : (s.raise code sub data).free = s.free := by simp only [State.raise, State.raiseAt_free]
@[simp] theorem State.raise_dom (s : State) (code sub data : Nat) : (s.raise code sub data).dom = s.dom := by simp only [State.raise, State.raiseAt_dom]
@[simp] theorem State.raise_loopEdges (s : State) (code sub data : Nat) : (s.raise code sub data).loopEdges = s.loopEdges := by simp only [State.raise, State.raiseAt_loopEdges]
@[simp] theorem State.raise_tb (s : State) (code sub data : Nat) : (s.raise code sub data).tb = s.tb := by simp only [State.raise, State.raiseAt_tb]
@[simp] theorem State.raise_host (s : State) (code sub data : Nat) : (s.raise code sub data).host = s.host := by simp only [State.raise, State.raiseAt_host]
@[simp] theorem State.raise_modes (s : State) (code sub data : Nat) : (s.raise code sub data).modes = s.modes := by simp only [State.raise, State.raiseAt_modes]
@[simp] theorem State.raise_mem (s : State) (code sub data : Nat) : (s.raise code sub data).mem = s.mem := by simp only [State.raise, State.raiseAt_mem]
@[simp] theorem State.raise_leases (s : State) (code sub data : Nat) : (s.raise code sub data).leases = s.leases := by simp only [State.raise, State.raiseAt_leases]
@[simp] theorem State.raise_dma (s : State) (code sub data : Nat) : (s.raise code sub data).dma = s.dma := by simp only [State.raise, State.raiseAt_dma]
@[simp] theorem State.raise_fuse (s : State) (code sub data : Nat) : (s.raise code sub data).fuse = s.fuse := by simp only [State.raise, State.raiseAt_fuse]
@[simp] theorem State.raise_power (s : State) (code sub data : Nat) : (s.raise code sub data).power = s.power := by simp only [State.raise, State.raiseAt_power]
@[simp] theorem State.raise_reset_ (s : State) (code sub data : Nat) : (s.raise code sub data).reset_ = s.reset_ := by simp only [State.raise, State.raiseAt_reset_]
@[simp] theorem State.raise_scan (s : State) (code sub data : Nat) : (s.raise code sub data).scan = s.scan := by simp only [State.raise, State.raiseAt_scan]
@[simp] theorem State.raise_lib (s : State) (code sub data : Nat) : (s.raise code sub data).lib = s.lib := by simp only [State.raise, State.raiseAt_lib]
@[simp] theorem State.raise_radio (s : State) (code sub data : Nat) : (s.raise code sub data).radio = s.radio := by simp only [State.raise, State.raiseAt_radio]
@[simp] theorem State.raise_userJobs (s : State) (code sub data : Nat) : (s.raise code sub data).userJobs = s.userJobs := by simp only [State.raise, State.raiseAt_userJobs]
@[simp] theorem State.raise_mix (s : State) (code sub data : Nat) : (s.raise code sub data).mix = s.mix := by simp only [State.raise, State.raiseAt_mix]
@[simp] theorem State.raise_lin (s : State) (code sub data : Nat) : (s.raise code sub data).lin = s.lin := by simp only [State.raise, State.raiseAt_lin]
@[simp] theorem State.raise_cal (s : State) (code sub data : Nat) : (s.raise code sub data).cal = s.cal := by simp only [State.raise, State.raiseAt_cal]
@[simp] theorem State.raise_link (s : State) (code sub data : Nat) : (s.raise code sub data).link = s.link := by simp only [State.raise, State.raiseAt_link]
@[simp] theorem State.raise_bias (s : State) (code sub data : Nat) : (s.raise code sub data).bias = s.bias := by simp only [State.raise, State.raiseAt_bias]
@[simp] theorem State.raise_duplex (s : State) (code sub data : Nat) : (s.raise code sub data).duplex = s.duplex := by simp only [State.raise, State.raiseAt_duplex]
@[simp] theorem State.raise_spe (s : State) (code sub data : Nat) : (s.raise code sub data).spe = s.spe := by simp only [State.raise, State.raiseAt_spe]
@[simp] theorem State.raise_mason (s : State) (code sub data : Nat) : (s.raise code sub data).mason = s.mason := by simp only [State.raise, State.raiseAt_mason]
@[simp] theorem State.raise_therm (s : State) (code sub data : Nat) : (s.raise code sub data).therm = s.therm := by simp only [State.raise, State.raiseAt_therm]
@[simp] theorem State.raise_captureFills (s : State) (code sub data : Nat) : (s.raise code sub data).captureFills = s.captureFills := by simp only [State.raise, State.raiseAt_captureFills]
@[simp] theorem State.raise_captureReady (s : State) (code sub data : Nat) : (s.raise code sub data).captureReady = s.captureReady := by simp only [State.raise, State.raiseAt_captureReady]
@[simp] theorem State.raise_farLimits (s : State) (code sub data : Nat) : (s.raise code sub data).farLimits = s.farLimits := by simp only [State.raise, State.raiseAt_farLimits]

/-! `State.dropEvents` -/

@[simp] theorem State.dropEvents_pending (s : State) (n : Nat) : (s.dropEvents n).pending = s.pending := by
  unfold State.dropEvents; dsimp only; split <;> simp only [State.raise_pending]
@[simp] theorem State.dropEvents_now (s : State) (n : Nat) : (s.dropEvents n).now = s.now := by
  unfold State.dropEvents; dsimp only; split <;> simp only [State.raise_now]
@[simp] theorem State.dropEvents_epoch (s : State) (n : Nat) : (s.dropEvents n).epoch = s.epoch := by
  unfold State.dropEvents; dsimp only; split <;> simp only [State.raise_epoch]
@[simp] theorem State.dropEvents_pos (s : State) (n : Nat) : (s.dropEvents n).pos = s.pos := by
  unfold State.dropEvents; dsimp only; split <;> simp only [State.raise_pos]
@[simp] theorem State.dropEvents_free (s : State) (n : Nat) : (s.dropEvents n).free = s.free := by
  unfold State.dropEvents; dsimp only; split <;> simp only [State.raise_free]
@[simp] theorem State.dropEvents_dom (s : State) (n : Nat) : (s.dropEvents n).dom = s.dom := by
  unfold State.dropEvents; dsimp only; split <;> simp only [State.raise_dom]
@[simp] theorem State.dropEvents_loopEdges (s : State) (n : Nat) : (s.dropEvents n).loopEdges = s.loopEdges := by
  unfold State.dropEvents; dsimp only; split <;> simp only [State.raise_loopEdges]
@[simp] theorem State.dropEvents_tb (s : State) (n : Nat) : (s.dropEvents n).tb = s.tb := by
  unfold State.dropEvents; dsimp only; split <;> simp only [State.raise_tb]
@[simp] theorem State.dropEvents_host (s : State) (n : Nat) : (s.dropEvents n).host = s.host := by
  unfold State.dropEvents; dsimp only; split <;> simp only [State.raise_host]
@[simp] theorem State.dropEvents_modes (s : State) (n : Nat) : (s.dropEvents n).modes = s.modes := by
  unfold State.dropEvents; dsimp only; split <;> simp only [State.raise_modes]
@[simp] theorem State.dropEvents_mem (s : State) (n : Nat) : (s.dropEvents n).mem = s.mem := by
  unfold State.dropEvents; dsimp only; split <;> simp only [State.raise_mem]
@[simp] theorem State.dropEvents_leases (s : State) (n : Nat) : (s.dropEvents n).leases = s.leases := by
  unfold State.dropEvents; dsimp only; split <;> simp only [State.raise_leases]
@[simp] theorem State.dropEvents_dma (s : State) (n : Nat) : (s.dropEvents n).dma = s.dma := by
  unfold State.dropEvents; dsimp only; split <;> simp only [State.raise_dma]
@[simp] theorem State.dropEvents_fuse (s : State) (n : Nat) : (s.dropEvents n).fuse = s.fuse := by
  unfold State.dropEvents; dsimp only; split <;> simp only [State.raise_fuse]
@[simp] theorem State.dropEvents_power (s : State) (n : Nat) : (s.dropEvents n).power = s.power := by
  unfold State.dropEvents; dsimp only; split <;> simp only [State.raise_power]
@[simp] theorem State.dropEvents_reset_ (s : State) (n : Nat) : (s.dropEvents n).reset_ = s.reset_ := by
  unfold State.dropEvents; dsimp only; split <;> simp only [State.raise_reset_]
@[simp] theorem State.dropEvents_scan (s : State) (n : Nat) : (s.dropEvents n).scan = s.scan := by
  unfold State.dropEvents; dsimp only; split <;> simp only [State.raise_scan]
@[simp] theorem State.dropEvents_lib (s : State) (n : Nat) : (s.dropEvents n).lib = s.lib := by
  unfold State.dropEvents; dsimp only; split <;> simp only [State.raise_lib]
@[simp] theorem State.dropEvents_radio (s : State) (n : Nat) : (s.dropEvents n).radio = s.radio := by
  unfold State.dropEvents; dsimp only; split <;> simp only [State.raise_radio]
@[simp] theorem State.dropEvents_userJobs (s : State) (n : Nat) : (s.dropEvents n).userJobs = s.userJobs := by
  unfold State.dropEvents; dsimp only; split <;> simp only [State.raise_userJobs]
@[simp] theorem State.dropEvents_mix (s : State) (n : Nat) : (s.dropEvents n).mix = s.mix := by
  unfold State.dropEvents; dsimp only; split <;> simp only [State.raise_mix]
@[simp] theorem State.dropEvents_lin (s : State) (n : Nat) : (s.dropEvents n).lin = s.lin := by
  unfold State.dropEvents; dsimp only; split <;> simp only [State.raise_lin]
@[simp] theorem State.dropEvents_cal (s : State) (n : Nat) : (s.dropEvents n).cal = s.cal := by
  unfold State.dropEvents; dsimp only; split <;> simp only [State.raise_cal]
@[simp] theorem State.dropEvents_link (s : State) (n : Nat) : (s.dropEvents n).link = s.link := by
  unfold State.dropEvents; dsimp only; split <;> simp only [State.raise_link]
@[simp] theorem State.dropEvents_bias (s : State) (n : Nat) : (s.dropEvents n).bias = s.bias := by
  unfold State.dropEvents; dsimp only; split <;> simp only [State.raise_bias]
@[simp] theorem State.dropEvents_duplex (s : State) (n : Nat) : (s.dropEvents n).duplex = s.duplex := by
  unfold State.dropEvents; dsimp only; split <;> simp only [State.raise_duplex]
@[simp] theorem State.dropEvents_spe (s : State) (n : Nat) : (s.dropEvents n).spe = s.spe := by
  unfold State.dropEvents; dsimp only; split <;> simp only [State.raise_spe]
@[simp] theorem State.dropEvents_mason (s : State) (n : Nat) : (s.dropEvents n).mason = s.mason := by
  unfold State.dropEvents; dsimp only; split <;> simp only [State.raise_mason]
@[simp] theorem State.dropEvents_therm (s : State) (n : Nat) : (s.dropEvents n).therm = s.therm := by
  unfold State.dropEvents; dsimp only; split <;> simp only [State.raise_therm]
@[simp] theorem State.dropEvents_captureFills (s : State) (n : Nat) : (s.dropEvents n).captureFills = s.captureFills := by
  unfold State.dropEvents; dsimp only; split <;> simp only [State.raise_captureFills]
@[simp] theorem State.dropEvents_captureReady (s : State) (n : Nat) : (s.dropEvents n).captureReady = s.captureReady := by
  unfold State.dropEvents; dsimp only; split <;> simp only [State.raise_captureReady]
@[simp] theorem State.dropEvents_farLimits (s : State) (n : Nat) : (s.dropEvents n).farLimits = s.farLimits := by
  unfold State.dropEvents; dsimp only; split <;> simp only [State.raise_farLimits]

/-! `State.stepChange` -/

@[simp] theorem State.stepChange_pending (s : State) (index sub : Nat) : (s.stepChange index sub).pending = s.pending := by rw [State.stepChange]
@[simp] theorem State.stepChange_now (s : State) (index sub : Nat) : (s.stepChange index sub).now = s.now := by rw [State.stepChange]
@[simp] theorem State.stepChange_epoch (s : State) (index sub : Nat) : (s.stepChange index sub).epoch = s.epoch := by rw [State.stepChange]
@[simp] theorem State.stepChange_pos (s : State) (index sub : Nat) : (s.stepChange index sub).pos = s.pos := by rw [State.stepChange]
@[simp] theorem State.stepChange_free (s : State) (index sub : Nat) : (s.stepChange index sub).free = s.free := by rw [State.stepChange]
@[simp] theorem State.stepChange_cat (s : State) (index sub : Nat) : (s.stepChange index sub).cat = s.cat := by rw [State.stepChange]
@[simp] theorem State.stepChange_dom (s : State) (index sub : Nat) : (s.stepChange index sub).dom = s.dom := by rw [State.stepChange]
@[simp] theorem State.stepChange_loopEdges (s : State) (index sub : Nat) : (s.stepChange index sub).loopEdges = s.loopEdges := by rw [State.stepChange]
@[simp] theorem State.stepChange_tb (s : State) (index sub : Nat) : (s.stepChange index sub).tb = s.tb := by rw [State.stepChange]
@[simp] theorem State.stepChange_ev (s : State) (index sub : Nat) : (s.stepChange index sub).ev = s.ev := by rw [State.stepChange]
@[simp] theorem State.stepChange_modes (s : State) (index sub : Nat) : (s.stepChange index sub).modes = s.modes := by rw [State.stepChange]
@[simp] theorem State.stepChange_mem (s : State) (index sub : Nat) : (s.stepChange index sub).mem = s.mem := by rw [State.stepChange]
@[simp] theorem State.stepChange_leases (s : State) (index sub : Nat) : (s.stepChange index sub).leases = s.leases := by rw [State.stepChange]
@[simp] theorem State.stepChange_dma (s : State) (index sub : Nat) : (s.stepChange index sub).dma = s.dma := by rw [State.stepChange]
@[simp] theorem State.stepChange_fuse (s : State) (index sub : Nat) : (s.stepChange index sub).fuse = s.fuse := by rw [State.stepChange]
@[simp] theorem State.stepChange_power (s : State) (index sub : Nat) : (s.stepChange index sub).power = s.power := by rw [State.stepChange]
@[simp] theorem State.stepChange_reset_ (s : State) (index sub : Nat) : (s.stepChange index sub).reset_ = s.reset_ := by rw [State.stepChange]
@[simp] theorem State.stepChange_scan (s : State) (index sub : Nat) : (s.stepChange index sub).scan = s.scan := by rw [State.stepChange]
@[simp] theorem State.stepChange_lib (s : State) (index sub : Nat) : (s.stepChange index sub).lib = s.lib := by rw [State.stepChange]
@[simp] theorem State.stepChange_radio (s : State) (index sub : Nat) : (s.stepChange index sub).radio = s.radio := by rw [State.stepChange]
@[simp] theorem State.stepChange_userJobs (s : State) (index sub : Nat) : (s.stepChange index sub).userJobs = s.userJobs := by rw [State.stepChange]
@[simp] theorem State.stepChange_mix (s : State) (index sub : Nat) : (s.stepChange index sub).mix = s.mix := by rw [State.stepChange]
@[simp] theorem State.stepChange_lin (s : State) (index sub : Nat) : (s.stepChange index sub).lin = s.lin := by rw [State.stepChange]
@[simp] theorem State.stepChange_cal (s : State) (index sub : Nat) : (s.stepChange index sub).cal = s.cal := by rw [State.stepChange]
@[simp] theorem State.stepChange_link (s : State) (index sub : Nat) : (s.stepChange index sub).link = s.link := by rw [State.stepChange]
@[simp] theorem State.stepChange_bias (s : State) (index sub : Nat) : (s.stepChange index sub).bias = s.bias := by rw [State.stepChange]
@[simp] theorem State.stepChange_duplex (s : State) (index sub : Nat) : (s.stepChange index sub).duplex = s.duplex := by rw [State.stepChange]
@[simp] theorem State.stepChange_spe (s : State) (index sub : Nat) : (s.stepChange index sub).spe = s.spe := by rw [State.stepChange]
@[simp] theorem State.stepChange_mason (s : State) (index sub : Nat) : (s.stepChange index sub).mason = s.mason := by rw [State.stepChange]
@[simp] theorem State.stepChange_therm (s : State) (index sub : Nat) : (s.stepChange index sub).therm = s.therm := by rw [State.stepChange]
@[simp] theorem State.stepChange_captureFills (s : State) (index sub : Nat) : (s.stepChange index sub).captureFills = s.captureFills := by rw [State.stepChange]
@[simp] theorem State.stepChange_captureReady (s : State) (index sub : Nat) : (s.stepChange index sub).captureReady = s.captureReady := by rw [State.stepChange]
@[simp] theorem State.stepChange_farLimits (s : State) (index sub : Nat) : (s.stepChange index sub).farLimits = s.farLimits := by rw [State.stepChange]

/-! `State.setDom` -/

@[simp] theorem State.setDom_pending (s : State) (index sub : Nat) (v : List Byte) : (s.setDom index sub v).pending = s.pending := by
  unfold State.setDom; split <;> simp only [State.stepChange_pending]
@[simp] theorem State.setDom_now (s : State) (index sub : Nat) (v : List Byte) : (s.setDom index sub v).now = s.now := by
  unfold State.setDom; split <;> simp only [State.stepChange_now]
@[simp] theorem State.setDom_epoch (s : State) (index sub : Nat) (v : List Byte) : (s.setDom index sub v).epoch = s.epoch := by
  unfold State.setDom; split <;> simp only [State.stepChange_epoch]
@[simp] theorem State.setDom_pos (s : State) (index sub : Nat) (v : List Byte) : (s.setDom index sub v).pos = s.pos := by
  unfold State.setDom; split <;> simp only [State.stepChange_pos]
@[simp] theorem State.setDom_free (s : State) (index sub : Nat) (v : List Byte) : (s.setDom index sub v).free = s.free := by
  unfold State.setDom; split <;> simp only [State.stepChange_free]
@[simp] theorem State.setDom_cat (s : State) (index sub : Nat) (v : List Byte) : (s.setDom index sub v).cat = s.cat := by
  unfold State.setDom; split <;> simp only [State.stepChange_cat]
@[simp] theorem State.setDom_loopEdges (s : State) (index sub : Nat) (v : List Byte) : (s.setDom index sub v).loopEdges = s.loopEdges := by
  unfold State.setDom; split <;> simp only [State.stepChange_loopEdges]
@[simp] theorem State.setDom_tb (s : State) (index sub : Nat) (v : List Byte) : (s.setDom index sub v).tb = s.tb := by
  unfold State.setDom; split <;> simp only [State.stepChange_tb]
@[simp] theorem State.setDom_ev (s : State) (index sub : Nat) (v : List Byte) : (s.setDom index sub v).ev = s.ev := by
  unfold State.setDom; split <;> simp only [State.stepChange_ev]
@[simp] theorem State.setDom_modes (s : State) (index sub : Nat) (v : List Byte) : (s.setDom index sub v).modes = s.modes := by
  unfold State.setDom; split <;> simp only [State.stepChange_modes]
@[simp] theorem State.setDom_mem (s : State) (index sub : Nat) (v : List Byte) : (s.setDom index sub v).mem = s.mem := by
  unfold State.setDom; split <;> simp only [State.stepChange_mem]
@[simp] theorem State.setDom_leases (s : State) (index sub : Nat) (v : List Byte) : (s.setDom index sub v).leases = s.leases := by
  unfold State.setDom; split <;> simp only [State.stepChange_leases]
@[simp] theorem State.setDom_dma (s : State) (index sub : Nat) (v : List Byte) : (s.setDom index sub v).dma = s.dma := by
  unfold State.setDom; split <;> simp only [State.stepChange_dma]
@[simp] theorem State.setDom_fuse (s : State) (index sub : Nat) (v : List Byte) : (s.setDom index sub v).fuse = s.fuse := by
  unfold State.setDom; split <;> simp only [State.stepChange_fuse]
@[simp] theorem State.setDom_power (s : State) (index sub : Nat) (v : List Byte) : (s.setDom index sub v).power = s.power := by
  unfold State.setDom; split <;> simp only [State.stepChange_power]
@[simp] theorem State.setDom_reset_ (s : State) (index sub : Nat) (v : List Byte) : (s.setDom index sub v).reset_ = s.reset_ := by
  unfold State.setDom; split <;> simp only [State.stepChange_reset_]
@[simp] theorem State.setDom_scan (s : State) (index sub : Nat) (v : List Byte) : (s.setDom index sub v).scan = s.scan := by
  unfold State.setDom; split <;> simp only [State.stepChange_scan]
@[simp] theorem State.setDom_lib (s : State) (index sub : Nat) (v : List Byte) : (s.setDom index sub v).lib = s.lib := by
  unfold State.setDom; split <;> simp only [State.stepChange_lib]
@[simp] theorem State.setDom_radio (s : State) (index sub : Nat) (v : List Byte) : (s.setDom index sub v).radio = s.radio := by
  unfold State.setDom; split <;> simp only [State.stepChange_radio]
@[simp] theorem State.setDom_userJobs (s : State) (index sub : Nat) (v : List Byte) : (s.setDom index sub v).userJobs = s.userJobs := by
  unfold State.setDom; split <;> simp only [State.stepChange_userJobs]
@[simp] theorem State.setDom_mix (s : State) (index sub : Nat) (v : List Byte) : (s.setDom index sub v).mix = s.mix := by
  unfold State.setDom; split <;> simp only [State.stepChange_mix]
@[simp] theorem State.setDom_lin (s : State) (index sub : Nat) (v : List Byte) : (s.setDom index sub v).lin = s.lin := by
  unfold State.setDom; split <;> simp only [State.stepChange_lin]
@[simp] theorem State.setDom_cal (s : State) (index sub : Nat) (v : List Byte) : (s.setDom index sub v).cal = s.cal := by
  unfold State.setDom; split <;> simp only [State.stepChange_cal]
@[simp] theorem State.setDom_link (s : State) (index sub : Nat) (v : List Byte) : (s.setDom index sub v).link = s.link := by
  unfold State.setDom; split <;> simp only [State.stepChange_link]
@[simp] theorem State.setDom_bias (s : State) (index sub : Nat) (v : List Byte) : (s.setDom index sub v).bias = s.bias := by
  unfold State.setDom; split <;> simp only [State.stepChange_bias]
@[simp] theorem State.setDom_duplex (s : State) (index sub : Nat) (v : List Byte) : (s.setDom index sub v).duplex = s.duplex := by
  unfold State.setDom; split <;> simp only [State.stepChange_duplex]
@[simp] theorem State.setDom_spe (s : State) (index sub : Nat) (v : List Byte) : (s.setDom index sub v).spe = s.spe := by
  unfold State.setDom; split <;> simp only [State.stepChange_spe]
@[simp] theorem State.setDom_mason (s : State) (index sub : Nat) (v : List Byte) : (s.setDom index sub v).mason = s.mason := by
  unfold State.setDom; split <;> simp only [State.stepChange_mason]
@[simp] theorem State.setDom_therm (s : State) (index sub : Nat) (v : List Byte) : (s.setDom index sub v).therm = s.therm := by
  unfold State.setDom; split <;> simp only [State.stepChange_therm]
@[simp] theorem State.setDom_captureFills (s : State) (index sub : Nat) (v : List Byte) : (s.setDom index sub v).captureFills = s.captureFills := by
  unfold State.setDom; split <;> simp only [State.stepChange_captureFills]
@[simp] theorem State.setDom_captureReady (s : State) (index sub : Nat) (v : List Byte) : (s.setDom index sub v).captureReady = s.captureReady := by
  unfold State.setDom; split <;> simp only [State.stepChange_captureReady]
@[simp] theorem State.setDom_farLimits (s : State) (index sub : Nat) (v : List Byte) : (s.setDom index sub v).farLimits = s.farLimits := by
  unfold State.setDom; split <;> simp only [State.stepChange_farLimits]

/-! `State.storeBytes` -/

@[simp] theorem State.storeBytes_pending (s : State) (a : Nat) (l : List Byte) : (s.storeBytes a l).pending = s.pending := by rw [State.storeBytes]
@[simp] theorem State.storeBytes_now (s : State) (a : Nat) (l : List Byte) : (s.storeBytes a l).now = s.now := by rw [State.storeBytes]
@[simp] theorem State.storeBytes_epoch (s : State) (a : Nat) (l : List Byte) : (s.storeBytes a l).epoch = s.epoch := by rw [State.storeBytes]
@[simp] theorem State.storeBytes_pos (s : State) (a : Nat) (l : List Byte) : (s.storeBytes a l).pos = s.pos := by rw [State.storeBytes]
@[simp] theorem State.storeBytes_free (s : State) (a : Nat) (l : List Byte) : (s.storeBytes a l).free = s.free := by rw [State.storeBytes]
@[simp] theorem State.storeBytes_cat (s : State) (a : Nat) (l : List Byte) : (s.storeBytes a l).cat = s.cat := by rw [State.storeBytes]
@[simp] theorem State.storeBytes_dom (s : State) (a : Nat) (l : List Byte) : (s.storeBytes a l).dom = s.dom := by rw [State.storeBytes]
@[simp] theorem State.storeBytes_loopEdges (s : State) (a : Nat) (l : List Byte) : (s.storeBytes a l).loopEdges = s.loopEdges := by rw [State.storeBytes]
@[simp] theorem State.storeBytes_tb (s : State) (a : Nat) (l : List Byte) : (s.storeBytes a l).tb = s.tb := by rw [State.storeBytes]
@[simp] theorem State.storeBytes_host (s : State) (a : Nat) (l : List Byte) : (s.storeBytes a l).host = s.host := by rw [State.storeBytes]
@[simp] theorem State.storeBytes_ev (s : State) (a : Nat) (l : List Byte) : (s.storeBytes a l).ev = s.ev := by rw [State.storeBytes]
@[simp] theorem State.storeBytes_modes (s : State) (a : Nat) (l : List Byte) : (s.storeBytes a l).modes = s.modes := by rw [State.storeBytes]
@[simp] theorem State.storeBytes_leases (s : State) (a : Nat) (l : List Byte) : (s.storeBytes a l).leases = s.leases := by rw [State.storeBytes]
@[simp] theorem State.storeBytes_dma (s : State) (a : Nat) (l : List Byte) : (s.storeBytes a l).dma = s.dma := by rw [State.storeBytes]
@[simp] theorem State.storeBytes_fuse (s : State) (a : Nat) (l : List Byte) : (s.storeBytes a l).fuse = s.fuse := by rw [State.storeBytes]
@[simp] theorem State.storeBytes_power (s : State) (a : Nat) (l : List Byte) : (s.storeBytes a l).power = s.power := by rw [State.storeBytes]
@[simp] theorem State.storeBytes_reset_ (s : State) (a : Nat) (l : List Byte) : (s.storeBytes a l).reset_ = s.reset_ := by rw [State.storeBytes]
@[simp] theorem State.storeBytes_scan (s : State) (a : Nat) (l : List Byte) : (s.storeBytes a l).scan = s.scan := by rw [State.storeBytes]
@[simp] theorem State.storeBytes_lib (s : State) (a : Nat) (l : List Byte) : (s.storeBytes a l).lib = s.lib := by rw [State.storeBytes]
@[simp] theorem State.storeBytes_radio (s : State) (a : Nat) (l : List Byte) : (s.storeBytes a l).radio = s.radio := by rw [State.storeBytes]
@[simp] theorem State.storeBytes_userJobs (s : State) (a : Nat) (l : List Byte) : (s.storeBytes a l).userJobs = s.userJobs := by rw [State.storeBytes]
@[simp] theorem State.storeBytes_mix (s : State) (a : Nat) (l : List Byte) : (s.storeBytes a l).mix = s.mix := by rw [State.storeBytes]
@[simp] theorem State.storeBytes_lin (s : State) (a : Nat) (l : List Byte) : (s.storeBytes a l).lin = s.lin := by rw [State.storeBytes]
@[simp] theorem State.storeBytes_cal (s : State) (a : Nat) (l : List Byte) : (s.storeBytes a l).cal = s.cal := by rw [State.storeBytes]
@[simp] theorem State.storeBytes_link (s : State) (a : Nat) (l : List Byte) : (s.storeBytes a l).link = s.link := by rw [State.storeBytes]
@[simp] theorem State.storeBytes_bias (s : State) (a : Nat) (l : List Byte) : (s.storeBytes a l).bias = s.bias := by rw [State.storeBytes]
@[simp] theorem State.storeBytes_duplex (s : State) (a : Nat) (l : List Byte) : (s.storeBytes a l).duplex = s.duplex := by rw [State.storeBytes]
@[simp] theorem State.storeBytes_spe (s : State) (a : Nat) (l : List Byte) : (s.storeBytes a l).spe = s.spe := by rw [State.storeBytes]
@[simp] theorem State.storeBytes_mason (s : State) (a : Nat) (l : List Byte) : (s.storeBytes a l).mason = s.mason := by rw [State.storeBytes]
@[simp] theorem State.storeBytes_therm (s : State) (a : Nat) (l : List Byte) : (s.storeBytes a l).therm = s.therm := by rw [State.storeBytes]
@[simp] theorem State.storeBytes_captureFills (s : State) (a : Nat) (l : List Byte) : (s.storeBytes a l).captureFills = s.captureFills := by rw [State.storeBytes]
@[simp] theorem State.storeBytes_captureReady (s : State) (a : Nat) (l : List Byte) : (s.storeBytes a l).captureReady = s.captureReady := by rw [State.storeBytes]
@[simp] theorem State.storeBytes_farLimits (s : State) (a : Nat) (l : List Byte) : (s.storeBytes a l).farLimits = s.farLimits := by rw [State.storeBytes]

/-! `State.storeByte` -/

@[simp] theorem State.storeByte_pending (s : State) (a : Nat) (b : Byte) : (s.storeByte a b).pending = s.pending := by rw [State.storeByte]
@[simp] theorem State.storeByte_now (s : State) (a : Nat) (b : Byte) : (s.storeByte a b).now = s.now := by rw [State.storeByte]
@[simp] theorem State.storeByte_epoch (s : State) (a : Nat) (b : Byte) : (s.storeByte a b).epoch = s.epoch := by rw [State.storeByte]
@[simp] theorem State.storeByte_pos (s : State) (a : Nat) (b : Byte) : (s.storeByte a b).pos = s.pos := by rw [State.storeByte]
@[simp] theorem State.storeByte_free (s : State) (a : Nat) (b : Byte) : (s.storeByte a b).free = s.free := by rw [State.storeByte]
@[simp] theorem State.storeByte_cat (s : State) (a : Nat) (b : Byte) : (s.storeByte a b).cat = s.cat := by rw [State.storeByte]
@[simp] theorem State.storeByte_dom (s : State) (a : Nat) (b : Byte) : (s.storeByte a b).dom = s.dom := by rw [State.storeByte]
@[simp] theorem State.storeByte_loopEdges (s : State) (a : Nat) (b : Byte) : (s.storeByte a b).loopEdges = s.loopEdges := by rw [State.storeByte]
@[simp] theorem State.storeByte_tb (s : State) (a : Nat) (b : Byte) : (s.storeByte a b).tb = s.tb := by rw [State.storeByte]
@[simp] theorem State.storeByte_host (s : State) (a : Nat) (b : Byte) : (s.storeByte a b).host = s.host := by rw [State.storeByte]
@[simp] theorem State.storeByte_ev (s : State) (a : Nat) (b : Byte) : (s.storeByte a b).ev = s.ev := by rw [State.storeByte]
@[simp] theorem State.storeByte_modes (s : State) (a : Nat) (b : Byte) : (s.storeByte a b).modes = s.modes := by rw [State.storeByte]
@[simp] theorem State.storeByte_leases (s : State) (a : Nat) (b : Byte) : (s.storeByte a b).leases = s.leases := by rw [State.storeByte]
@[simp] theorem State.storeByte_dma (s : State) (a : Nat) (b : Byte) : (s.storeByte a b).dma = s.dma := by rw [State.storeByte]
@[simp] theorem State.storeByte_fuse (s : State) (a : Nat) (b : Byte) : (s.storeByte a b).fuse = s.fuse := by rw [State.storeByte]
@[simp] theorem State.storeByte_power (s : State) (a : Nat) (b : Byte) : (s.storeByte a b).power = s.power := by rw [State.storeByte]
@[simp] theorem State.storeByte_reset_ (s : State) (a : Nat) (b : Byte) : (s.storeByte a b).reset_ = s.reset_ := by rw [State.storeByte]
@[simp] theorem State.storeByte_scan (s : State) (a : Nat) (b : Byte) : (s.storeByte a b).scan = s.scan := by rw [State.storeByte]
@[simp] theorem State.storeByte_lib (s : State) (a : Nat) (b : Byte) : (s.storeByte a b).lib = s.lib := by rw [State.storeByte]
@[simp] theorem State.storeByte_radio (s : State) (a : Nat) (b : Byte) : (s.storeByte a b).radio = s.radio := by rw [State.storeByte]
@[simp] theorem State.storeByte_userJobs (s : State) (a : Nat) (b : Byte) : (s.storeByte a b).userJobs = s.userJobs := by rw [State.storeByte]
@[simp] theorem State.storeByte_mix (s : State) (a : Nat) (b : Byte) : (s.storeByte a b).mix = s.mix := by rw [State.storeByte]
@[simp] theorem State.storeByte_lin (s : State) (a : Nat) (b : Byte) : (s.storeByte a b).lin = s.lin := by rw [State.storeByte]
@[simp] theorem State.storeByte_cal (s : State) (a : Nat) (b : Byte) : (s.storeByte a b).cal = s.cal := by rw [State.storeByte]
@[simp] theorem State.storeByte_link (s : State) (a : Nat) (b : Byte) : (s.storeByte a b).link = s.link := by rw [State.storeByte]
@[simp] theorem State.storeByte_bias (s : State) (a : Nat) (b : Byte) : (s.storeByte a b).bias = s.bias := by rw [State.storeByte]
@[simp] theorem State.storeByte_duplex (s : State) (a : Nat) (b : Byte) : (s.storeByte a b).duplex = s.duplex := by rw [State.storeByte]
@[simp] theorem State.storeByte_spe (s : State) (a : Nat) (b : Byte) : (s.storeByte a b).spe = s.spe := by rw [State.storeByte]
@[simp] theorem State.storeByte_mason (s : State) (a : Nat) (b : Byte) : (s.storeByte a b).mason = s.mason := by rw [State.storeByte]
@[simp] theorem State.storeByte_therm (s : State) (a : Nat) (b : Byte) : (s.storeByte a b).therm = s.therm := by rw [State.storeByte]
@[simp] theorem State.storeByte_captureFills (s : State) (a : Nat) (b : Byte) : (s.storeByte a b).captureFills = s.captureFills := by rw [State.storeByte]
@[simp] theorem State.storeByte_captureReady (s : State) (a : Nat) (b : Byte) : (s.storeByte a b).captureReady = s.captureReady := by rw [State.storeByte]
@[simp] theorem State.storeByte_farLimits (s : State) (a : Nat) (b : Byte) : (s.storeByte a b).farLimits = s.farLimits := by rw [State.storeByte]

/-! `State.sendPacket` -/

@[simp] theorem State.sendPacket_pending (s : State) (port : Nat) (p : OutPacket) : (s.sendPacket port p).pending = s.pending := by rw [State.sendPacket]
@[simp] theorem State.sendPacket_now (s : State) (port : Nat) (p : OutPacket) : (s.sendPacket port p).now = s.now := by rw [State.sendPacket]
@[simp] theorem State.sendPacket_epoch (s : State) (port : Nat) (p : OutPacket) : (s.sendPacket port p).epoch = s.epoch := by rw [State.sendPacket]
@[simp] theorem State.sendPacket_pos (s : State) (port : Nat) (p : OutPacket) : (s.sendPacket port p).pos = s.pos := by rw [State.sendPacket]
@[simp] theorem State.sendPacket_free (s : State) (port : Nat) (p : OutPacket) : (s.sendPacket port p).free = s.free := by rw [State.sendPacket]
@[simp] theorem State.sendPacket_cat (s : State) (port : Nat) (p : OutPacket) : (s.sendPacket port p).cat = s.cat := by rw [State.sendPacket]
@[simp] theorem State.sendPacket_dom (s : State) (port : Nat) (p : OutPacket) : (s.sendPacket port p).dom = s.dom := by rw [State.sendPacket]
@[simp] theorem State.sendPacket_loopEdges (s : State) (port : Nat) (p : OutPacket) : (s.sendPacket port p).loopEdges = s.loopEdges := by rw [State.sendPacket]
@[simp] theorem State.sendPacket_tb (s : State) (port : Nat) (p : OutPacket) : (s.sendPacket port p).tb = s.tb := by rw [State.sendPacket]
@[simp] theorem State.sendPacket_host (s : State) (port : Nat) (p : OutPacket) : (s.sendPacket port p).host = s.host := by rw [State.sendPacket]
@[simp] theorem State.sendPacket_ev (s : State) (port : Nat) (p : OutPacket) : (s.sendPacket port p).ev = s.ev := by rw [State.sendPacket]
@[simp] theorem State.sendPacket_modes (s : State) (port : Nat) (p : OutPacket) : (s.sendPacket port p).modes = s.modes := by rw [State.sendPacket]
@[simp] theorem State.sendPacket_mem (s : State) (port : Nat) (p : OutPacket) : (s.sendPacket port p).mem = s.mem := by rw [State.sendPacket]
@[simp] theorem State.sendPacket_leases (s : State) (port : Nat) (p : OutPacket) : (s.sendPacket port p).leases = s.leases := by rw [State.sendPacket]
@[simp] theorem State.sendPacket_dma (s : State) (port : Nat) (p : OutPacket) : (s.sendPacket port p).dma = s.dma := by rw [State.sendPacket]
@[simp] theorem State.sendPacket_fuse (s : State) (port : Nat) (p : OutPacket) : (s.sendPacket port p).fuse = s.fuse := by rw [State.sendPacket]
@[simp] theorem State.sendPacket_power (s : State) (port : Nat) (p : OutPacket) : (s.sendPacket port p).power = s.power := by rw [State.sendPacket]
@[simp] theorem State.sendPacket_reset_ (s : State) (port : Nat) (p : OutPacket) : (s.sendPacket port p).reset_ = s.reset_ := by rw [State.sendPacket]
@[simp] theorem State.sendPacket_scan (s : State) (port : Nat) (p : OutPacket) : (s.sendPacket port p).scan = s.scan := by rw [State.sendPacket]
@[simp] theorem State.sendPacket_lib (s : State) (port : Nat) (p : OutPacket) : (s.sendPacket port p).lib = s.lib := by rw [State.sendPacket]
@[simp] theorem State.sendPacket_radio (s : State) (port : Nat) (p : OutPacket) : (s.sendPacket port p).radio = s.radio := by rw [State.sendPacket]
@[simp] theorem State.sendPacket_userJobs (s : State) (port : Nat) (p : OutPacket) : (s.sendPacket port p).userJobs = s.userJobs := by rw [State.sendPacket]
@[simp] theorem State.sendPacket_mix (s : State) (port : Nat) (p : OutPacket) : (s.sendPacket port p).mix = s.mix := by rw [State.sendPacket]
@[simp] theorem State.sendPacket_lin (s : State) (port : Nat) (p : OutPacket) : (s.sendPacket port p).lin = s.lin := by rw [State.sendPacket]
@[simp] theorem State.sendPacket_cal (s : State) (port : Nat) (p : OutPacket) : (s.sendPacket port p).cal = s.cal := by rw [State.sendPacket]
@[simp] theorem State.sendPacket_bias (s : State) (port : Nat) (p : OutPacket) : (s.sendPacket port p).bias = s.bias := by rw [State.sendPacket]
@[simp] theorem State.sendPacket_duplex (s : State) (port : Nat) (p : OutPacket) : (s.sendPacket port p).duplex = s.duplex := by rw [State.sendPacket]
@[simp] theorem State.sendPacket_spe (s : State) (port : Nat) (p : OutPacket) : (s.sendPacket port p).spe = s.spe := by rw [State.sendPacket]
@[simp] theorem State.sendPacket_mason (s : State) (port : Nat) (p : OutPacket) : (s.sendPacket port p).mason = s.mason := by rw [State.sendPacket]
@[simp] theorem State.sendPacket_therm (s : State) (port : Nat) (p : OutPacket) : (s.sendPacket port p).therm = s.therm := by rw [State.sendPacket]
@[simp] theorem State.sendPacket_captureFills (s : State) (port : Nat) (p : OutPacket) : (s.sendPacket port p).captureFills = s.captureFills := by rw [State.sendPacket]
@[simp] theorem State.sendPacket_captureReady (s : State) (port : Nat) (p : OutPacket) : (s.sendPacket port p).captureReady = s.captureReady := by rw [State.sendPacket]
@[simp] theorem State.sendPacket_farLimits (s : State) (port : Nat) (p : OutPacket) : (s.sendPacket port p).farLimits = s.farLimits := by rw [State.sendPacket]

/-! `State.sendNow` -/

@[simp] theorem State.sendNow_pending (s : State) (port typ pos : Nat) (payload : List Byte) : (s.sendNow port typ pos payload).pending = s.pending := by simp only [State.sendNow, State.sendPacket_pending]
@[simp] theorem State.sendNow_now (s : State) (port typ pos : Nat) (payload : List Byte) : (s.sendNow port typ pos payload).now = s.now := by simp only [State.sendNow, State.sendPacket_now]
@[simp] theorem State.sendNow_epoch (s : State) (port typ pos : Nat) (payload : List Byte) : (s.sendNow port typ pos payload).epoch = s.epoch := by simp only [State.sendNow, State.sendPacket_epoch]
@[simp] theorem State.sendNow_pos (s : State) (port typ pos : Nat) (payload : List Byte) : (s.sendNow port typ pos payload).pos = s.pos := by simp only [State.sendNow, State.sendPacket_pos]
@[simp] theorem State.sendNow_free (s : State) (port typ pos : Nat) (payload : List Byte) : (s.sendNow port typ pos payload).free = s.free := by simp only [State.sendNow, State.sendPacket_free]
@[simp] theorem State.sendNow_cat (s : State) (port typ pos : Nat) (payload : List Byte) : (s.sendNow port typ pos payload).cat = s.cat := by simp only [State.sendNow, State.sendPacket_cat]
@[simp] theorem State.sendNow_dom (s : State) (port typ pos : Nat) (payload : List Byte) : (s.sendNow port typ pos payload).dom = s.dom := by simp only [State.sendNow, State.sendPacket_dom]
@[simp] theorem State.sendNow_loopEdges (s : State) (port typ pos : Nat) (payload : List Byte) : (s.sendNow port typ pos payload).loopEdges = s.loopEdges := by simp only [State.sendNow, State.sendPacket_loopEdges]
@[simp] theorem State.sendNow_tb (s : State) (port typ pos : Nat) (payload : List Byte) : (s.sendNow port typ pos payload).tb = s.tb := by simp only [State.sendNow, State.sendPacket_tb]
@[simp] theorem State.sendNow_host (s : State) (port typ pos : Nat) (payload : List Byte) : (s.sendNow port typ pos payload).host = s.host := by simp only [State.sendNow, State.sendPacket_host]
@[simp] theorem State.sendNow_ev (s : State) (port typ pos : Nat) (payload : List Byte) : (s.sendNow port typ pos payload).ev = s.ev := by simp only [State.sendNow, State.sendPacket_ev]
@[simp] theorem State.sendNow_modes (s : State) (port typ pos : Nat) (payload : List Byte) : (s.sendNow port typ pos payload).modes = s.modes := by simp only [State.sendNow, State.sendPacket_modes]
@[simp] theorem State.sendNow_mem (s : State) (port typ pos : Nat) (payload : List Byte) : (s.sendNow port typ pos payload).mem = s.mem := by simp only [State.sendNow, State.sendPacket_mem]
@[simp] theorem State.sendNow_leases (s : State) (port typ pos : Nat) (payload : List Byte) : (s.sendNow port typ pos payload).leases = s.leases := by simp only [State.sendNow, State.sendPacket_leases]
@[simp] theorem State.sendNow_dma (s : State) (port typ pos : Nat) (payload : List Byte) : (s.sendNow port typ pos payload).dma = s.dma := by simp only [State.sendNow, State.sendPacket_dma]
@[simp] theorem State.sendNow_fuse (s : State) (port typ pos : Nat) (payload : List Byte) : (s.sendNow port typ pos payload).fuse = s.fuse := by simp only [State.sendNow, State.sendPacket_fuse]
@[simp] theorem State.sendNow_power (s : State) (port typ pos : Nat) (payload : List Byte) : (s.sendNow port typ pos payload).power = s.power := by simp only [State.sendNow, State.sendPacket_power]
@[simp] theorem State.sendNow_reset_ (s : State) (port typ pos : Nat) (payload : List Byte) : (s.sendNow port typ pos payload).reset_ = s.reset_ := by simp only [State.sendNow, State.sendPacket_reset_]
@[simp] theorem State.sendNow_scan (s : State) (port typ pos : Nat) (payload : List Byte) : (s.sendNow port typ pos payload).scan = s.scan := by simp only [State.sendNow, State.sendPacket_scan]
@[simp] theorem State.sendNow_lib (s : State) (port typ pos : Nat) (payload : List Byte) : (s.sendNow port typ pos payload).lib = s.lib := by simp only [State.sendNow, State.sendPacket_lib]
@[simp] theorem State.sendNow_radio (s : State) (port typ pos : Nat) (payload : List Byte) : (s.sendNow port typ pos payload).radio = s.radio := by simp only [State.sendNow, State.sendPacket_radio]
@[simp] theorem State.sendNow_userJobs (s : State) (port typ pos : Nat) (payload : List Byte) : (s.sendNow port typ pos payload).userJobs = s.userJobs := by simp only [State.sendNow, State.sendPacket_userJobs]
@[simp] theorem State.sendNow_mix (s : State) (port typ pos : Nat) (payload : List Byte) : (s.sendNow port typ pos payload).mix = s.mix := by simp only [State.sendNow, State.sendPacket_mix]
@[simp] theorem State.sendNow_lin (s : State) (port typ pos : Nat) (payload : List Byte) : (s.sendNow port typ pos payload).lin = s.lin := by simp only [State.sendNow, State.sendPacket_lin]
@[simp] theorem State.sendNow_cal (s : State) (port typ pos : Nat) (payload : List Byte) : (s.sendNow port typ pos payload).cal = s.cal := by simp only [State.sendNow, State.sendPacket_cal]
@[simp] theorem State.sendNow_bias (s : State) (port typ pos : Nat) (payload : List Byte) : (s.sendNow port typ pos payload).bias = s.bias := by simp only [State.sendNow, State.sendPacket_bias]
@[simp] theorem State.sendNow_duplex (s : State) (port typ pos : Nat) (payload : List Byte) : (s.sendNow port typ pos payload).duplex = s.duplex := by simp only [State.sendNow, State.sendPacket_duplex]
@[simp] theorem State.sendNow_spe (s : State) (port typ pos : Nat) (payload : List Byte) : (s.sendNow port typ pos payload).spe = s.spe := by simp only [State.sendNow, State.sendPacket_spe]
@[simp] theorem State.sendNow_mason (s : State) (port typ pos : Nat) (payload : List Byte) : (s.sendNow port typ pos payload).mason = s.mason := by simp only [State.sendNow, State.sendPacket_mason]
@[simp] theorem State.sendNow_therm (s : State) (port typ pos : Nat) (payload : List Byte) : (s.sendNow port typ pos payload).therm = s.therm := by simp only [State.sendNow, State.sendPacket_therm]
@[simp] theorem State.sendNow_captureFills (s : State) (port typ pos : Nat) (payload : List Byte) : (s.sendNow port typ pos payload).captureFills = s.captureFills := by simp only [State.sendNow, State.sendPacket_captureFills]
@[simp] theorem State.sendNow_captureReady (s : State) (port typ pos : Nat) (payload : List Byte) : (s.sendNow port typ pos payload).captureReady = s.captureReady := by simp only [State.sendNow, State.sendPacket_captureReady]
@[simp] theorem State.sendNow_farLimits (s : State) (port typ pos : Nat) (payload : List Byte) : (s.sendNow port typ pos payload).farLimits = s.farLimits := by simp only [State.sendNow, State.sendPacket_farLimits]

/-! `State.respond` -/

@[simp] theorem State.respond_pending (s : State) (x : Response) : (s.respond x).pending = s.pending := by
  unfold State.respond; dsimp only; split <;> simp only [State.sendNow_pending, State.bump_pending]
@[simp] theorem State.respond_now (s : State) (x : Response) : (s.respond x).now = s.now := by
  unfold State.respond; dsimp only; split <;> simp only [State.sendNow_now, State.bump_now]
@[simp] theorem State.respond_epoch (s : State) (x : Response) : (s.respond x).epoch = s.epoch := by
  unfold State.respond; dsimp only; split <;> simp only [State.sendNow_epoch, State.bump_epoch]
@[simp] theorem State.respond_pos (s : State) (x : Response) : (s.respond x).pos = s.pos := by
  unfold State.respond; dsimp only; split <;> simp only [State.sendNow_pos, State.bump_pos]
@[simp] theorem State.respond_free (s : State) (x : Response) : (s.respond x).free = s.free := by
  unfold State.respond; dsimp only; split <;> simp only [State.sendNow_free, State.bump_free]
@[simp] theorem State.respond_dom (s : State) (x : Response) : (s.respond x).dom = s.dom := by
  unfold State.respond; dsimp only; split <;> simp only [State.sendNow_dom, State.bump_dom]
@[simp] theorem State.respond_loopEdges (s : State) (x : Response) : (s.respond x).loopEdges = s.loopEdges := by
  unfold State.respond; dsimp only; split <;> simp only [State.sendNow_loopEdges, State.bump_loopEdges]
@[simp] theorem State.respond_tb (s : State) (x : Response) : (s.respond x).tb = s.tb := by
  unfold State.respond; dsimp only; split <;> simp only [State.sendNow_tb, State.bump_tb]
@[simp] theorem State.respond_ev (s : State) (x : Response) : (s.respond x).ev = s.ev := by
  unfold State.respond; dsimp only; split <;> simp only [State.sendNow_ev, State.bump_ev]
@[simp] theorem State.respond_modes (s : State) (x : Response) : (s.respond x).modes = s.modes := by
  unfold State.respond; dsimp only; split <;> simp only [State.sendNow_modes, State.bump_modes]
@[simp] theorem State.respond_mem (s : State) (x : Response) : (s.respond x).mem = s.mem := by
  unfold State.respond; dsimp only; split <;> simp only [State.sendNow_mem, State.bump_mem]
@[simp] theorem State.respond_leases (s : State) (x : Response) : (s.respond x).leases = s.leases := by
  unfold State.respond; dsimp only; split <;> simp only [State.sendNow_leases, State.bump_leases]
@[simp] theorem State.respond_dma (s : State) (x : Response) : (s.respond x).dma = s.dma := by
  unfold State.respond; dsimp only; split <;> simp only [State.sendNow_dma, State.bump_dma]
@[simp] theorem State.respond_fuse (s : State) (x : Response) : (s.respond x).fuse = s.fuse := by
  unfold State.respond; dsimp only; split <;> simp only [State.sendNow_fuse, State.bump_fuse]
@[simp] theorem State.respond_power (s : State) (x : Response) : (s.respond x).power = s.power := by
  unfold State.respond; dsimp only; split <;> simp only [State.sendNow_power, State.bump_power]
@[simp] theorem State.respond_reset_ (s : State) (x : Response) : (s.respond x).reset_ = s.reset_ := by
  unfold State.respond; dsimp only; split <;> simp only [State.sendNow_reset_, State.bump_reset_]
@[simp] theorem State.respond_scan (s : State) (x : Response) : (s.respond x).scan = s.scan := by
  unfold State.respond; dsimp only; split <;> simp only [State.sendNow_scan, State.bump_scan]
@[simp] theorem State.respond_lib (s : State) (x : Response) : (s.respond x).lib = s.lib := by
  unfold State.respond; dsimp only; split <;> simp only [State.sendNow_lib, State.bump_lib]
@[simp] theorem State.respond_radio (s : State) (x : Response) : (s.respond x).radio = s.radio := by
  unfold State.respond; dsimp only; split <;> simp only [State.sendNow_radio, State.bump_radio]
@[simp] theorem State.respond_userJobs (s : State) (x : Response) : (s.respond x).userJobs = s.userJobs := by
  unfold State.respond; dsimp only; split <;> simp only [State.sendNow_userJobs, State.bump_userJobs]
@[simp] theorem State.respond_mix (s : State) (x : Response) : (s.respond x).mix = s.mix := by
  unfold State.respond; dsimp only; split <;> simp only [State.sendNow_mix, State.bump_mix]
@[simp] theorem State.respond_lin (s : State) (x : Response) : (s.respond x).lin = s.lin := by
  unfold State.respond; dsimp only; split <;> simp only [State.sendNow_lin, State.bump_lin]
@[simp] theorem State.respond_cal (s : State) (x : Response) : (s.respond x).cal = s.cal := by
  unfold State.respond; dsimp only; split <;> simp only [State.sendNow_cal, State.bump_cal]
@[simp] theorem State.respond_bias (s : State) (x : Response) : (s.respond x).bias = s.bias := by
  unfold State.respond; dsimp only; split <;> simp only [State.sendNow_bias, State.bump_bias]
@[simp] theorem State.respond_duplex (s : State) (x : Response) : (s.respond x).duplex = s.duplex := by
  unfold State.respond; dsimp only; split <;> simp only [State.sendNow_duplex, State.bump_duplex]
@[simp] theorem State.respond_spe (s : State) (x : Response) : (s.respond x).spe = s.spe := by
  unfold State.respond; dsimp only; split <;> simp only [State.sendNow_spe, State.bump_spe]
@[simp] theorem State.respond_mason (s : State) (x : Response) : (s.respond x).mason = s.mason := by
  unfold State.respond; dsimp only; split <;> simp only [State.sendNow_mason, State.bump_mason]
@[simp] theorem State.respond_therm (s : State) (x : Response) : (s.respond x).therm = s.therm := by
  unfold State.respond; dsimp only; split <;> simp only [State.sendNow_therm, State.bump_therm]
@[simp] theorem State.respond_captureFills (s : State) (x : Response) : (s.respond x).captureFills = s.captureFills := by
  unfold State.respond; dsimp only; split <;> simp only [State.sendNow_captureFills, State.bump_captureFills]
@[simp] theorem State.respond_captureReady (s : State) (x : Response) : (s.respond x).captureReady = s.captureReady := by
  unfold State.respond; dsimp only; split <;> simp only [State.sendNow_captureReady, State.bump_captureReady]
@[simp] theorem State.respond_farLimits (s : State) (x : Response) : (s.respond x).farLimits = s.farLimits := by
  unfold State.respond; dsimp only; split <;> simp only [State.sendNow_farLimits, State.bump_farLimits]

/-! `State.recordAbort` -/

@[simp] theorem State.recordAbort_pending (s : State) (r : Request) (a : Abort) : (s.recordAbort r a).pending = s.pending := by
  simp only [State.recordAbort, State.wr_pending, State.bump_pending, State.wrEpoch_pending]
@[simp] theorem State.recordAbort_now (s : State) (r : Request) (a : Abort) : (s.recordAbort r a).now = s.now := by
  simp only [State.recordAbort, State.wr_now, State.bump_now, State.wrEpoch_now]
@[simp] theorem State.recordAbort_epoch (s : State) (r : Request) (a : Abort) : (s.recordAbort r a).epoch = s.epoch := by
  simp only [State.recordAbort, State.wr_epoch, State.bump_epoch, State.wrEpoch_epoch]
@[simp] theorem State.recordAbort_pos (s : State) (r : Request) (a : Abort) : (s.recordAbort r a).pos = s.pos := by
  simp only [State.recordAbort, State.wr_pos, State.bump_pos, State.wrEpoch_pos]
@[simp] theorem State.recordAbort_free (s : State) (r : Request) (a : Abort) : (s.recordAbort r a).free = s.free := by
  simp only [State.recordAbort, State.wr_free, State.bump_free, State.wrEpoch_free]
@[simp] theorem State.recordAbort_dom (s : State) (r : Request) (a : Abort) : (s.recordAbort r a).dom = s.dom := by
  simp only [State.recordAbort, State.wr_dom, State.bump_dom, State.wrEpoch_dom]
@[simp] theorem State.recordAbort_loopEdges (s : State) (r : Request) (a : Abort) : (s.recordAbort r a).loopEdges = s.loopEdges := by
  simp only [State.recordAbort, State.wr_loopEdges, State.bump_loopEdges, State.wrEpoch_loopEdges]
@[simp] theorem State.recordAbort_tb (s : State) (r : Request) (a : Abort) : (s.recordAbort r a).tb = s.tb := by
  simp only [State.recordAbort, State.wr_tb, State.bump_tb, State.wrEpoch_tb]
@[simp] theorem State.recordAbort_host (s : State) (r : Request) (a : Abort) : (s.recordAbort r a).host = s.host := by
  simp only [State.recordAbort, State.wr_host, State.bump_host, State.wrEpoch_host]
@[simp] theorem State.recordAbort_ev (s : State) (r : Request) (a : Abort) : (s.recordAbort r a).ev = s.ev := by
  simp only [State.recordAbort, State.wr_ev, State.bump_ev, State.wrEpoch_ev]
@[simp] theorem State.recordAbort_modes (s : State) (r : Request) (a : Abort) : (s.recordAbort r a).modes = s.modes := by
  simp only [State.recordAbort, State.wr_modes, State.bump_modes, State.wrEpoch_modes]
@[simp] theorem State.recordAbort_mem (s : State) (r : Request) (a : Abort) : (s.recordAbort r a).mem = s.mem := by
  simp only [State.recordAbort, State.wr_mem, State.bump_mem, State.wrEpoch_mem]
@[simp] theorem State.recordAbort_leases (s : State) (r : Request) (a : Abort) : (s.recordAbort r a).leases = s.leases := by
  simp only [State.recordAbort, State.wr_leases, State.bump_leases, State.wrEpoch_leases]
@[simp] theorem State.recordAbort_dma (s : State) (r : Request) (a : Abort) : (s.recordAbort r a).dma = s.dma := by
  simp only [State.recordAbort, State.wr_dma, State.bump_dma, State.wrEpoch_dma]
@[simp] theorem State.recordAbort_fuse (s : State) (r : Request) (a : Abort) : (s.recordAbort r a).fuse = s.fuse := by
  simp only [State.recordAbort, State.wr_fuse, State.bump_fuse, State.wrEpoch_fuse]
@[simp] theorem State.recordAbort_power (s : State) (r : Request) (a : Abort) : (s.recordAbort r a).power = s.power := by
  simp only [State.recordAbort, State.wr_power, State.bump_power, State.wrEpoch_power]
@[simp] theorem State.recordAbort_reset_ (s : State) (r : Request) (a : Abort) : (s.recordAbort r a).reset_ = s.reset_ := by
  simp only [State.recordAbort, State.wr_reset_, State.bump_reset_, State.wrEpoch_reset_]
@[simp] theorem State.recordAbort_scan (s : State) (r : Request) (a : Abort) : (s.recordAbort r a).scan = s.scan := by
  simp only [State.recordAbort, State.wr_scan, State.bump_scan, State.wrEpoch_scan]
@[simp] theorem State.recordAbort_lib (s : State) (r : Request) (a : Abort) : (s.recordAbort r a).lib = s.lib := by
  simp only [State.recordAbort, State.wr_lib, State.bump_lib, State.wrEpoch_lib]
@[simp] theorem State.recordAbort_radio (s : State) (r : Request) (a : Abort) : (s.recordAbort r a).radio = s.radio := by
  simp only [State.recordAbort, State.wr_radio, State.bump_radio, State.wrEpoch_radio]
@[simp] theorem State.recordAbort_userJobs (s : State) (r : Request) (a : Abort) : (s.recordAbort r a).userJobs = s.userJobs := by
  simp only [State.recordAbort, State.wr_userJobs, State.bump_userJobs, State.wrEpoch_userJobs]
@[simp] theorem State.recordAbort_mix (s : State) (r : Request) (a : Abort) : (s.recordAbort r a).mix = s.mix := by
  simp only [State.recordAbort, State.wr_mix, State.bump_mix, State.wrEpoch_mix]
@[simp] theorem State.recordAbort_lin (s : State) (r : Request) (a : Abort) : (s.recordAbort r a).lin = s.lin := by
  simp only [State.recordAbort, State.wr_lin, State.bump_lin, State.wrEpoch_lin]
@[simp] theorem State.recordAbort_cal (s : State) (r : Request) (a : Abort) : (s.recordAbort r a).cal = s.cal := by
  simp only [State.recordAbort, State.wr_cal, State.bump_cal, State.wrEpoch_cal]
@[simp] theorem State.recordAbort_link (s : State) (r : Request) (a : Abort) : (s.recordAbort r a).link = s.link := by
  simp only [State.recordAbort, State.wr_link, State.bump_link, State.wrEpoch_link]
@[simp] theorem State.recordAbort_bias (s : State) (r : Request) (a : Abort) : (s.recordAbort r a).bias = s.bias := by
  simp only [State.recordAbort, State.wr_bias, State.bump_bias, State.wrEpoch_bias]
@[simp] theorem State.recordAbort_duplex (s : State) (r : Request) (a : Abort) : (s.recordAbort r a).duplex = s.duplex := by
  simp only [State.recordAbort, State.wr_duplex, State.bump_duplex, State.wrEpoch_duplex]
@[simp] theorem State.recordAbort_spe (s : State) (r : Request) (a : Abort) : (s.recordAbort r a).spe = s.spe := by
  simp only [State.recordAbort, State.wr_spe, State.bump_spe, State.wrEpoch_spe]
@[simp] theorem State.recordAbort_mason (s : State) (r : Request) (a : Abort) : (s.recordAbort r a).mason = s.mason := by
  simp only [State.recordAbort, State.wr_mason, State.bump_mason, State.wrEpoch_mason]
@[simp] theorem State.recordAbort_therm (s : State) (r : Request) (a : Abort) : (s.recordAbort r a).therm = s.therm := by
  simp only [State.recordAbort, State.wr_therm, State.bump_therm, State.wrEpoch_therm]
@[simp] theorem State.recordAbort_captureFills (s : State) (r : Request) (a : Abort) : (s.recordAbort r a).captureFills = s.captureFills := by
  simp only [State.recordAbort, State.wr_captureFills, State.bump_captureFills, State.wrEpoch_captureFills]
@[simp] theorem State.recordAbort_captureReady (s : State) (r : Request) (a : Abort) : (s.recordAbort r a).captureReady = s.captureReady := by
  simp only [State.recordAbort, State.wr_captureReady, State.bump_captureReady, State.wrEpoch_captureReady]
@[simp] theorem State.recordAbort_farLimits (s : State) (r : Request) (a : Abort) : (s.recordAbort r a).farLimits = s.farLimits := by
  simp only [State.recordAbort, State.wr_farLimits, State.bump_farLimits, State.wrEpoch_farLimits]

/-! `State.noteMaster` -/

@[simp] theorem State.noteMaster_pending (s : State) (port : Nat) : (s.noteMaster port).pending = s.pending := by
  unfold State.noteMaster; dsimp only; split <;> split <;> simp only [State.raise_pending, State.wrBit_pending]
@[simp] theorem State.noteMaster_now (s : State) (port : Nat) : (s.noteMaster port).now = s.now := by
  unfold State.noteMaster; dsimp only; split <;> split <;> simp only [State.raise_now, State.wrBit_now]
@[simp] theorem State.noteMaster_epoch (s : State) (port : Nat) : (s.noteMaster port).epoch = s.epoch := by
  unfold State.noteMaster; dsimp only; split <;> split <;> simp only [State.raise_epoch, State.wrBit_epoch]
@[simp] theorem State.noteMaster_pos (s : State) (port : Nat) : (s.noteMaster port).pos = s.pos := by
  unfold State.noteMaster; dsimp only; split <;> split <;> simp only [State.raise_pos, State.wrBit_pos]
@[simp] theorem State.noteMaster_free (s : State) (port : Nat) : (s.noteMaster port).free = s.free := by
  unfold State.noteMaster; dsimp only; split <;> split <;> simp only [State.raise_free, State.wrBit_free]
@[simp] theorem State.noteMaster_dom (s : State) (port : Nat) : (s.noteMaster port).dom = s.dom := by
  unfold State.noteMaster; dsimp only; split <;> split <;> simp only [State.raise_dom, State.wrBit_dom]
@[simp] theorem State.noteMaster_loopEdges (s : State) (port : Nat) : (s.noteMaster port).loopEdges = s.loopEdges := by
  unfold State.noteMaster; dsimp only; split <;> split <;> simp only [State.raise_loopEdges, State.wrBit_loopEdges]
@[simp] theorem State.noteMaster_tb (s : State) (port : Nat) : (s.noteMaster port).tb = s.tb := by
  unfold State.noteMaster; dsimp only; split <;> split <;> simp only [State.raise_tb, State.wrBit_tb]
@[simp] theorem State.noteMaster_modes (s : State) (port : Nat) : (s.noteMaster port).modes = s.modes := by
  unfold State.noteMaster; dsimp only; split <;> split <;> simp only [State.raise_modes, State.wrBit_modes]
@[simp] theorem State.noteMaster_mem (s : State) (port : Nat) : (s.noteMaster port).mem = s.mem := by
  unfold State.noteMaster; dsimp only; split <;> split <;> simp only [State.raise_mem, State.wrBit_mem]
@[simp] theorem State.noteMaster_leases (s : State) (port : Nat) : (s.noteMaster port).leases = s.leases := by
  unfold State.noteMaster; dsimp only; split <;> split <;> simp only [State.raise_leases, State.wrBit_leases]
@[simp] theorem State.noteMaster_dma (s : State) (port : Nat) : (s.noteMaster port).dma = s.dma := by
  unfold State.noteMaster; dsimp only; split <;> split <;> simp only [State.raise_dma, State.wrBit_dma]
@[simp] theorem State.noteMaster_fuse (s : State) (port : Nat) : (s.noteMaster port).fuse = s.fuse := by
  unfold State.noteMaster; dsimp only; split <;> split <;> simp only [State.raise_fuse, State.wrBit_fuse]
@[simp] theorem State.noteMaster_reset_ (s : State) (port : Nat) : (s.noteMaster port).reset_ = s.reset_ := by
  unfold State.noteMaster; dsimp only; split <;> split <;> simp only [State.raise_reset_, State.wrBit_reset_]
@[simp] theorem State.noteMaster_scan (s : State) (port : Nat) : (s.noteMaster port).scan = s.scan := by
  unfold State.noteMaster; dsimp only; split <;> split <;> simp only [State.raise_scan, State.wrBit_scan]
@[simp] theorem State.noteMaster_lib (s : State) (port : Nat) : (s.noteMaster port).lib = s.lib := by
  unfold State.noteMaster; dsimp only; split <;> split <;> simp only [State.raise_lib, State.wrBit_lib]
@[simp] theorem State.noteMaster_radio (s : State) (port : Nat) : (s.noteMaster port).radio = s.radio := by
  unfold State.noteMaster; dsimp only; split <;> split <;> simp only [State.raise_radio, State.wrBit_radio]
@[simp] theorem State.noteMaster_userJobs (s : State) (port : Nat) : (s.noteMaster port).userJobs = s.userJobs := by
  unfold State.noteMaster; dsimp only; split <;> split <;> simp only [State.raise_userJobs, State.wrBit_userJobs]
@[simp] theorem State.noteMaster_mix (s : State) (port : Nat) : (s.noteMaster port).mix = s.mix := by
  unfold State.noteMaster; dsimp only; split <;> split <;> simp only [State.raise_mix, State.wrBit_mix]
@[simp] theorem State.noteMaster_lin (s : State) (port : Nat) : (s.noteMaster port).lin = s.lin := by
  unfold State.noteMaster; dsimp only; split <;> split <;> simp only [State.raise_lin, State.wrBit_lin]
@[simp] theorem State.noteMaster_cal (s : State) (port : Nat) : (s.noteMaster port).cal = s.cal := by
  unfold State.noteMaster; dsimp only; split <;> split <;> simp only [State.raise_cal, State.wrBit_cal]
@[simp] theorem State.noteMaster_link (s : State) (port : Nat) : (s.noteMaster port).link = s.link := by
  unfold State.noteMaster; dsimp only; split <;> split <;> simp only [State.raise_link, State.wrBit_link]
@[simp] theorem State.noteMaster_bias (s : State) (port : Nat) : (s.noteMaster port).bias = s.bias := by
  unfold State.noteMaster; dsimp only; split <;> split <;> simp only [State.raise_bias, State.wrBit_bias]
@[simp] theorem State.noteMaster_duplex (s : State) (port : Nat) : (s.noteMaster port).duplex = s.duplex := by
  unfold State.noteMaster; dsimp only; split <;> split <;> simp only [State.raise_duplex, State.wrBit_duplex]
@[simp] theorem State.noteMaster_spe (s : State) (port : Nat) : (s.noteMaster port).spe = s.spe := by
  unfold State.noteMaster; dsimp only; split <;> split <;> simp only [State.raise_spe, State.wrBit_spe]
@[simp] theorem State.noteMaster_mason (s : State) (port : Nat) : (s.noteMaster port).mason = s.mason := by
  unfold State.noteMaster; dsimp only; split <;> split <;> simp only [State.raise_mason, State.wrBit_mason]
@[simp] theorem State.noteMaster_therm (s : State) (port : Nat) : (s.noteMaster port).therm = s.therm := by
  unfold State.noteMaster; dsimp only; split <;> split <;> simp only [State.raise_therm, State.wrBit_therm]
@[simp] theorem State.noteMaster_captureFills (s : State) (port : Nat) : (s.noteMaster port).captureFills = s.captureFills := by
  unfold State.noteMaster; dsimp only; split <;> split <;> simp only [State.raise_captureFills, State.wrBit_captureFills]
@[simp] theorem State.noteMaster_captureReady (s : State) (port : Nat) : (s.noteMaster port).captureReady = s.captureReady := by
  unfold State.noteMaster; dsimp only; split <;> split <;> simp only [State.raise_captureReady, State.wrBit_captureReady]
@[simp] theorem State.noteMaster_farLimits (s : State) (port : Nat) : (s.noteMaster port).farLimits = s.farLimits := by
  unfold State.noteMaster; dsimp only; split <;> split <;> simp only [State.raise_farLimits, State.wrBit_farLimits]

end Sys2Proof.Machine
end

