-- ==== Sys2Proof/Laws/Keeps.lean ====
section
/-! SUPPORT. The relation every command keeps between the state it finds and the state it gives, and its laws for a record update, a fold, a choice
and each kind of outcome. The files Laws/Keeps*.lean say once for each operation that it keeps the relation. -/
namespace Sys2Proof.Machine

theorem Fuses.Kept.refl (f : Fuses) : Fuses.Kept f f := ⟨fun _ => id, rfl⟩
theorem Fuses.Kept.trans {f g h : Fuses} (a : Fuses.Kept f g) (b : Fuses.Kept g h) : Fuses.Kept f h :=
  ⟨fun k hk => b.1 k (a.1 k hk), by rw [b.2, a.2]⟩

/-- What every command keeps between the state it finds and the state it gives: the queue of waiting commands, the invariant, and the fuses but for key
slots newly revoked (R390). -/
structure Keeps (s t : State) : Prop where
  pending : t.pending = s.pending
  inv : s.Inv → t.Inv
  fuse : Fuses.Kept s.fuse t.fuse

theorem Keeps.refl (s : State) : Keeps s s := ⟨rfl, id, Fuses.Kept.refl _⟩

theorem Keeps.trans {a b c : State} (h : Keeps a b) (g : Keeps b c) : Keeps a c :=
  ⟨g.pending.trans h.pending, fun i => g.inv (h.inv i), h.fuse.trans g.fuse⟩

/-- A state that differs in no field the relation speaks of. -/
theorem keeps_mk {s0 s : State} {pending now epoch pos free cat dom loopEdges tb host ev modes mem leases dma fuse power reset_ scan lib radio
    userJobs mix lin cal link bias duplex spe mason therm captureFills captureReady farLimits} (h : Keeps s0 s) (hp : pending = s.pending)
    (hb : mem.bytes = s.mem.bytes) (hl : mem.eccLog = s.mem.eccLog) (he : ev = s.ev) (hf : fuse = s.fuse) (ht : host.transfers = s.host.transfers)
    (ho : host.openSet = s.host.openSet) :
    Keeps s0 ⟨pending, now, epoch, pos, free, cat, dom, loopEdges, tb, host, ev, modes, mem, leases, dma, fuse, power, reset_, scan, lib, radio,
      userJobs, mix, lin, cal, link, bias, duplex, spe, mason, therm, captureFills, captureReady, farLimits⟩ := by
  subst hp he hf
  refine ⟨h.pending, fun i => ?_, h.fuse⟩
  have := h.inv i
  exact ⟨by rw [hb]; exact this.mem, this.queue, this.log, by rw [hl]; exact this.ecc, by rw [ht]; exact this.transfers,
    by rw [ht]; exact this.one, by rw [ho]; exact this.openSet, by rw [ho]; exact this.openBytes⟩

theorem keeps_fields {s0 s t : State} (h : Keeps s0 s) (hp : t.pending = s.pending) (hi : s.Inv → t.Inv)
    (hr : Fuses.Kept s.fuse t.fuse) : Keeps s0 t :=
  Keeps.trans h ⟨hp, hi, hr⟩

theorem keeps_noSet {s0 s : State} (h : Keeps s0 s) : Keeps s0 { s with host := { s.host with openSet := [] } } :=
  keeps_fields h rfl (fun i => ⟨i.mem, i.queue, i.log, i.ecc, i.transfers, i.one, Nat.zero_le _, Nat.zero_le _⟩) (Fuses.Kept.refl _)

theorem keeps_foldl {α : Type} {s0 s : State} {f : State → α → State} {l : List α} (hf : ∀ t a, Keeps s0 t → Keeps s0 (f t a))
    (h : Keeps s0 s) : Keeps s0 (l.foldl f s) := by
  induction l generalizing s with
  | nil => exact h
  | cons a l ih => exact ih (hf s a h)

theorem keeps_foldl_snd {α β : Type} {s0 : State} {f : β × State → α → β × State} {l : List α} {x : β × State}
    (hf : ∀ y a, Keeps s0 y.2 → Keeps s0 (f y a).2) (h : Keeps s0 x.2) : Keeps s0 (l.foldl f x).2 := by
  induction l generalizing x with
  | nil => exact h
  | cons a l ih => exact ih (hf x a h)

theorem keeps_foldl_fst {α β : Type} {s0 : State} {f : State × β → α → State × β} {l : List α} {x : State × β}
    (hf : ∀ y a, Keeps s0 y.1 → Keeps s0 (f y a).1) (h : Keeps s0 x.1) : Keeps s0 (l.foldl f x).1 := by
  induction l generalizing x with
  | nil => exact h
  | cons a l ih => exact ih (hf x a h)

theorem ite_ind {α : Type} {P : α → Prop} {c : Prop} [Decidable c] {a b : α} (ha : P a) (hb : P b) : P (if c then a else b) := by
  split
  · exact ha
  · exact hb

/-- The relation on a command's outcome: of the state it gives. -/
def KeepsR (s0 : State) : Res → Prop
  | .ok t => Keeps s0 t
  | .error _ => True

theorem keepsR_ok {s0 t : State} (h : Keeps s0 t) : KeepsR s0 (.ok t) := h
theorem keepsR_error {s0 : State} {a : Abort} : KeepsR s0 (.error a) := trivial
theorem keepsR_of {s0 t : State} {r : Res} (h : KeepsR s0 r) (e : r = .ok t) : Keeps s0 t := by rw [e] at h; exact h
theorem keepsR_map {s0 : State} {r : Res} {f : State → State} (hf : ∀ t, Keeps s0 t → Keeps s0 (f t)) (h : KeepsR s0 r) :
    KeepsR s0 (r.map f) := by
  cases r with
  | error a => trivial
  | ok t => exact hf t h

/-- The relation on an outcome that may be absent. -/
def KeepsO (s0 : State) : Option State → Prop
  | some t => Keeps s0 t
  | none => True
theorem keepsO_some {s0 t : State} (h : Keeps s0 t) : KeepsO s0 (some t) := h
theorem keepsO_none {s0 : State} : KeepsO s0 none := trivial
theorem keepsO_of {s0 t : State} {r : Option State} (h : KeepsO s0 r) (e : r = some t) : Keeps s0 t := by rw [e] at h; exact h

/-- The relation on what serving a request gives. -/
def KeepsS (s0 : State) : Served → Prop
  | .answer _ t => Keeps s0 t
  | .abort _ t => Keeps s0 t
  | .stalled t => Keeps s0 t
theorem keepsS_answer {s0 t : State} {a : Answer} (h : Keeps s0 t) : KeepsS s0 (.answer a t) := h
theorem keepsS_abort {s0 t : State} {a : Abort} (h : Keeps s0 t) : KeepsS s0 (.abort a t) := h
theorem keepsS_stalled {s0 t : State} (h : Keeps s0 t) : KeepsS s0 (.stalled t) := h
theorem keepsS_of_answer {s0 t : State} {a : Answer} {r : Served} (h : KeepsS s0 r) (e : r = .answer a t) : Keeps s0 t := by rw [e] at h; exact h
theorem keepsS_of_abort {s0 t : State} {a : Abort} {r : Served} (h : KeepsS s0 r) (e : r = .abort a t) : Keeps s0 t := by rw [e] at h; exact h
theorem keepsS_of_stalled {s0 t : State} {r : Served} (h : KeepsS s0 r) (e : r = .stalled t) : Keeps s0 t := by rw [e] at h; exact h

/-- The relation on the answer of a command. -/
def KeepsA (s0 : State) : Host.Outcome State Fault Refusal → Prop
  | .next t => Keeps s0 t
  | _ => True
theorem keepsA_next {s0 t : State} (h : Keeps s0 t) : KeepsA s0 (.next t) := h

theorem State.wr_keeps {s0 s : State} (index sub v : Nat) (h : Keeps s0 s) : Keeps s0 (s.wr index sub v) := by
  unfold State.wr
  exact keeps_mk h rfl rfl rfl rfl rfl rfl rfl

theorem State.queueEvent_keeps {s0 s : State} (r : EventRec) (h : Keeps s0 s) : Keeps s0 (s.queueEvent r) := by
  unfold State.queueEvent
  split
  · exact keeps_fields h rfl (fun i => ⟨i.mem, by simp; omega, i.log, i.ecc, i.transfers, i.one, i.openSet, i.openBytes⟩) (Fuses.Kept.refl _)
  · exact State.wr_keeps _ _ _ (keeps_fields h rfl (fun i => ⟨i.mem, i.queue, i.log, i.ecc, i.transfers, i.one, i.openSet, i.openBytes⟩) (Fuses.Kept.refl _))

theorem State.logFault_keeps {s0 s : State} (r : EventRec) (cls : Nat) (led : Bool) (h : Keeps s0 s) : Keeps s0 (s.logFault r cls led) := by
  unfold State.logFault
  dsimp only
  split
  · exact keeps_fields h rfl (fun i => ⟨i.mem, i.queue, by simp; omega, i.ecc, i.transfers, i.one, i.openSet, i.openBytes⟩) (Fuses.Kept.refl _)
  · refine State.wr_keeps _ _ _ (keeps_fields h rfl (fun i => ⟨i.mem, i.queue, ?_, i.ecc, i.transfers, i.one, i.openSet, i.openBytes⟩) (Fuses.Kept.refl _))
    have := i.log
    simp; omega

theorem State.forEach_keeps {s0 s : State} (l : List Nat) (f : Nat → State → State) (hf : ∀ a t, Keeps s0 t → Keeps s0 (f a t))
    (h : Keeps s0 s) : Keeps s0 (s.forEach l f) := keeps_foldl (fun t a ht => hf a t ht) h

end Sys2Proof.Machine
end

