-- ==== Sys2Proof/Laws/KeepsOps.lean ====
section
/-! SUPPORT. Every operation of Machine/Ops.lean keeps the relation of Laws/Keeps.lean. -/
namespace Sys2Proof.Machine

theorem State.wrI_keeps {s0 : State} {s : State} (w : ℕ) (index : ℕ) (sub : ℕ) (v : ℤ) (h : Keeps s0 s) :
    Keeps s0 (State.wrI s w index sub v) := by
  unfold State.wrI
  refine State.wr_keeps _ _ _ ?_
  with_reducible assumption

theorem State.addCount_keeps {s0 : State} {s : State} (index : ℕ) (sub : ℕ) (n : ℕ) (h : Keeps s0 s) :
    Keeps s0 (State.addCount s index sub n) := by
  unfold State.addCount
  refine State.wr_keeps _ _ _ ?_
  with_reducible assumption

theorem State.bump_keeps {s0 : State} {s : State} (index : ℕ) (sub : ℕ) (h : Keeps s0 s) :
    Keeps s0 (State.bump s index sub) := by
  unfold State.bump
  refine State.addCount_keeps _ _ _ ?_
  with_reducible assumption

theorem State.wrBit_keeps {s0 : State} {s : State} (index : ℕ) (sub : ℕ) (bit : ℕ) (b : Bool) (h : Keeps s0 s) :
    Keeps s0 (State.wrBit s index sub bit b) := by
  unfold State.wrBit
  refine State.wr_keeps _ _ _ ?_
  with_reducible assumption


theorem State.wrEpoch_keeps {s0 : State} {s : State} (index : ℕ) (sub : ℕ) (e : ℕ) (h : Keeps s0 s) :
    Keeps s0 (State.wrEpoch s index sub e) := by
  unfold State.wrEpoch
  refine State.wr_keeps _ _ _ ?_
  with_reducible assumption



theorem State.raiseAt_keeps {s0 : State} {s : State} (code : ℕ) (index : ℕ) (sub : ℕ) (data : ℕ) (led : Bool) (h : Keeps s0 s) :
    Keeps s0 (State.raiseAt s code index sub data led) := by
  unfold State.raiseAt
  extract_lets +onlyGivenNames x0
  clear_value x0
  extract_lets +onlyGivenNames x1
  have h1 : Keeps s0 x1
  · unfold x1
    refine State.queueEvent_keeps _ ?_
    with_reducible assumption
  clear_value x1
  split
  · refine State.logFault_keeps _ _ _ ?_
    with_reducible assumption
  · with_reducible assumption

theorem State.raise_keeps {s0 : State} {s : State} (code : ℕ) (sub : ℕ) (data : ℕ) (h : Keeps s0 s) :
    Keeps s0 (State.raise s code sub data) := by
  unfold State.raise
  refine State.raiseAt_keeps _ _ _ _ _ ?_
  with_reducible assumption

theorem State.dropEvents_keeps {s0 s : State} (n : Nat) (h : Keeps s0 s) : Keeps s0 (s.dropEvents n) := by
  have h1 : Keeps s0 { s with ev := { s.ev with queue := s.ev.queue.drop n } } :=
    keeps_fields h rfl (fun i => ⟨i.mem, by have := i.queue; simp; omega, i.log, i.ecc, i.transfers, i.one, i.openSet, i.openBytes⟩) (Fuses.Kept.refl _)
  unfold State.dropEvents
  dsimp only
  split
  · exact h1
  · refine State.raise_keeps _ _ _ (keeps_fields h1 rfl (fun i => ?_) (Fuses.Kept.refl _))
    exact ⟨i.mem, i.queue, i.log, i.ecc, i.transfers, i.one, i.openSet, i.openBytes⟩

theorem State.raiseLoopBound_keeps {s0 : State} {s : State} (path : ℕ) (loop : ℕ) (edge : ℕ) (arrived : Bool) (h : Keeps s0 s) :
    Keeps s0 (State.raiseLoopBound s path loop edge arrived) := by
  unfold State.raiseLoopBound
  extract_lets +onlyGivenNames x2
  clear_value x2
  refine ite_ind ?_ ?_
  · refine State.raiseAt_keeps _ _ _ _ _ ?_
    with_reducible assumption
  · refine State.raiseAt_keeps _ _ _ _ _ ?_
    with_reducible assumption

theorem State.showLoop_keeps {s0 : State} {s : State} (path : ℕ) (loop : ℕ) (b : Bool) (h : Keeps s0 s) :
    Keeps s0 (State.showLoop s path loop b) := by
  unfold State.showLoop
  refine keeps_foldl ?_ ?_
  · intro a4 a5 h6
    refine State.wrBit_keeps _ _ _ _ ?_
    with_reducible assumption
  · with_reducible assumption

theorem State.loopAt_keeps {s0 : State} {s : State} (path : ℕ) (loop : ℕ) (edge : ℕ) (h : Keeps s0 s) :
    Keeps s0 (State.loopAt s path loop edge) := by
  unfold State.loopAt
  extract_lets +onlyGivenNames x3
  clear_value x3
  extract_lets +onlyGivenNames x7
  have h7 : Keeps s0 x7
  · unfold x7
    refine keeps_mk ?_ rfl rfl rfl rfl rfl rfl rfl
    with_reducible assumption
  clear_value x7
  refine ite_ind ?_ ?_
  · with_reducible assumption
  · refine ite_ind ?_ ?_
    · refine State.raiseLoopBound_keeps _ _ _ _ ?_
      refine State.showLoop_keeps _ _ _ ?_
      with_reducible assumption
    · refine State.raiseLoopBound_keeps _ _ _ _ ?_
      refine State.bump_keeps _ _ ?_
      refine State.showLoop_keeps _ _ _ ?_
      with_reducible assumption

end Sys2Proof.Machine
end

