-- ==== Sys2Proof/Laws/KeepsCommits.lean ====
section
/-! SUPPORT. Every operation of Machine/Commits.lean keeps the relation of Laws/Keeps.lean. -/
namespace Sys2Proof.Machine

theorem State.sealCommit_keeps {s0 : State} {s : State} (c : SealedCommit) (h : Keeps s0 s) :
    Keeps s0 (State.sealCommit s c) := by
  unfold State.sealCommit
  refine keeps_mk ?_ rfl rfl rfl rfl rfl rfl rfl
  with_reducible assumption

theorem State.failCommits_keeps {s0 : State} {s : State} (pick : SealedCommit → Bool) (reason : ℕ) (h : Keeps s0 s) :
    Keeps s0 (State.failCommits s pick reason) := by
  unfold State.failCommits
  extract_lets +onlyGivenNames x1
  clear_value x1
  extract_lets +onlyGivenNames x0
  extract_lets +onlyGivenNames x3
  have h3 : Keeps s0 x3
  · unfold x3
    refine keeps_mk ?_ rfl rfl rfl rfl rfl rfl rfl
    with_reducible assumption
  clear_value x3
  refine keeps_foldl ?_ ?_
  · intro a1 a2 h3
    refine State.raise_keeps _ _ _ ?_
    with_reducible assumption
  · with_reducible assumption

theorem State.putItem_keeps {s0 : State} {s : State} (it : StagedItem) (h : Keeps s0 s) :
    Keeps s0 (State.putItem s it) := by
  unfold State.putItem
  split
  · refine State.wr_keeps _ _ _ ?_
    with_reducible assumption
  · refine keeps_mk ?_ rfl rfl rfl rfl rfl rfl rfl
    with_reducible assumption

theorem State.dateBursts_keeps {s0 : State} {s : State} (c : ℕ) (new : List Byte) (target : ℕ) (h : Keeps s0 s) :
    Keeps s0 (State.dateBursts s c new target) := by
  unfold State.dateBursts
  extract_lets +onlyGivenNames x0
  clear_value x0
  extract_lets +onlyGivenNames x0
  clear_value x0
  refine keeps_mk ?_ rfl rfl rfl rfl rfl rfl rfl
  with_reducible assumption

theorem State.putCommit_keeps {s0 : State} {s : State} (target : ℕ) (items : List StagedItem) (h : Keeps s0 s) :
    Keeps s0 (State.putCommit s target items) := by
  unfold State.putCommit
  extract_lets +onlyGivenNames x0
  have h0 : Keeps s0 x0
  · unfold x0
    refine keeps_foldl ?_ ?_
    · intro a4 a5 h6
      split
      · refine ite_ind ?_ ?_
        · refine State.dateBursts_keeps _ _ _ ?_
          with_reducible assumption
        · with_reducible assumption
      · with_reducible assumption
    · with_reducible assumption
  clear_value x0
  extract_lets +onlyGivenNames x0
  have h0 : Keeps s0 x0
  · unfold x0
    refine keeps_foldl ?_ ?_
    · intro a1 a2 h3
      refine State.putItem_keeps _ ?_
      with_reducible assumption
    · with_reducible assumption
  clear_value x0
  refine ite_ind ?_ ?_
  · refine State.wrEpoch_keeps _ _ _ ?_
    with_reducible assumption
  · with_reducible assumption

theorem State.viewAt_keeps {s0 : State} {s : State} (target : ℕ) (h : Keeps s0 s) :
    Keeps s0 (State.viewAt s target) := by
  unfold State.viewAt
  refine keeps_foldl ?_ ?_
  · intro a7 a8 h9
    refine State.putCommit_keeps _ _ ?_
    with_reducible assumption
  · with_reducible assumption

theorem State.airAt_keeps {s0 : State} {s : State} (target : ℕ) (h : Keeps s0 s) :
    Keeps s0 (State.airAt s target) := by
  unfold State.airAt
  refine keeps_foldl ?_ ?_
  · intro a11 a12 h13
    refine State.putCommit_keeps _ _ ?_
    with_reducible assumption
  · refine State.wr_keeps _ _ _ ?_
    with_reducible assumption

theorem State.takeLease_keeps {s0 : State} {s : State} (resource : ℕ) (owner : ℕ) (expiry : Option ℕ) (master : Option Master) (h : Keeps s0 s) :
    Keeps s0 (State.takeLease s resource owner expiry master) := by
  unfold State.takeLease
  refine keeps_mk ?_ rfl rfl rfl rfl rfl rfl rfl
  with_reducible assumption

theorem State.freeLease_keeps {s0 : State} {s : State} (resource : ℕ) (h : Keeps s0 s) :
    Keeps s0 (State.freeLease s resource) := by
  unfold State.freeLease
  refine keeps_mk ?_ rfl rfl rfl rfl rfl rfl rfl
  with_reducible assumption

theorem State.keepResult_keeps {s0 : State} {s : State} (r : JobResult) (h : Keeps s0 s) :
    Keeps s0 (State.keepResult s r) := by
  unfold State.keepResult
  refine keeps_mk ?_ rfl rfl rfl rfl rfl rfl rfl
  with_reducible assumption

theorem State.failJob_keeps {s0 : State} {s : State} (job : ℕ) (reason : ℕ) (at_ : ℕ) (h : Keeps s0 s) :
    Keeps s0 (State.failJob s job reason at_) := by
  unfold State.failJob
  split
  · with_reducible assumption
  · extract_lets +onlyGivenNames x0
    extract_lets +onlyGivenNames x1
    have h1 : Keeps s0 x1
    · unfold x1
      refine keeps_mk ?_ rfl rfl rfl rfl rfl rfl rfl
      with_reducible assumption
    clear_value x1
    extract_lets +onlyGivenNames x2
    have h2 : Keeps s0 x2
    · unfold x2
      refine State.keepResult_keeps _ ?_
      with_reducible assumption
    clear_value x2
    extract_lets +onlyGivenNames x3
    have h3 : Keeps s0 x3
    · unfold x3
      refine State.bump_keeps _ _ ?_
      with_reducible assumption
    clear_value x3
    extract_lets +onlyGivenNames x4
    have h4 : Keeps s0 x4
    · unfold x4
      refine State.failCommits_keeps _ _ ?_
      with_reducible assumption
    clear_value x4
    refine State.raise_keeps _ _ _ ?_
    with_reducible assumption

end Sys2Proof.Machine
end

