-- ==== Sys2Proof/Laws/KeepsMemory.lean ====
section
/-! SUPPORT. Every operation of Machine/Memory.lean keeps the relation of Laws/Keeps.lean. -/
namespace Sys2Proof.Machine

theorem Memory.wf_iff (t : Tab Byte) : Memory.wf t = true ↔ sortedKeys t = true ∧ ∀ c ∈ t, c.2 ≠ unwrittenByte := by
  simp [Memory.wf]

theorem Memory.wf_tput {k : Nat} {v : Byte} {t : Tab Byte} (h : Memory.wf t = true) : Memory.wf (tput unwrittenByte k v t) = true := by
  rw [Memory.wf_iff] at *
  exact ⟨sortedKeys_tput h.1, tput_no_default h.2⟩

theorem Memory.wf_filter {p : Nat × Byte → Bool} {t : Tab Byte} (h : Memory.wf t = true) : Memory.wf (t.filter p) = true := by
  rw [Memory.wf_iff] at *
  exact ⟨sortedKeys_filter _ h.1, fun c hc => h.2 c (List.mem_filter.1 hc).1⟩

theorem pairwise_zipIdx_map (a : Nat) (l : List Byte) (n : Nat) :
    ((l.zipIdx n).map (fun c => (a + c.2, c.1))).Pairwise (fun x y => x.1 < y.1) ∧
      ∀ c ∈ (l.zipIdx n).map (fun c => (a + c.2, c.1)), a + n ≤ c.1 ∧ c.1 < a + n + l.length := by
  induction l generalizing n with
  | nil => simp
  | cons b l ih =>
    obtain ⟨h1, h2⟩ := ih (n + 1)
    simp only [List.zipIdx_cons, List.map_cons, List.pairwise_cons]
    refine ⟨⟨?_, h1⟩, ?_⟩
    · intro c hc
      have := h2 c hc
      show a + n < c.1
      omega
    · intro c hc
      rcases List.mem_cons.1 hc with rfl | hc
      · simp
      · have := h2 c hc
        simp only [List.length_cons]; omega

theorem Memory.wf_storeRange {a : Nat} {l : List Byte} {t : Tab Byte} (h : Memory.wf t = true) : Memory.wf (storeRange a l t) = true := by
  rw [Memory.wf_iff] at *
  obtain ⟨hs, hd⟩ := h
  rw [sortedKeys_iff] at *
  obtain ⟨z1, z2⟩ := pairwise_zipIdx_map a l 0
  unfold storeRange
  dsimp only
  constructor
  · rw [List.pairwise_append, List.pairwise_append]
    refine ⟨⟨hs.filter _, z1.filter _, ?_⟩, hs.filter _, ?_⟩
    · intro x hx y hy
      have h1 := (List.mem_filter.1 hx).2
      have h2 := z2 y (List.mem_filter.1 hy).1
      simp only [decide_eq_true_eq] at h1
      omega
    · intro x hx y hy
      have h3 := (List.mem_filter.1 hy).2
      simp only [decide_eq_true_eq] at h3
      rcases List.mem_append.1 hx with hx | hx
      · have h1 := (List.mem_filter.1 hx).2
        simp only [decide_eq_true_eq] at h1
        omega
      · have h2 := z2 x (List.mem_filter.1 hx).1
        omega
  · intro c hc
    rcases List.mem_append.1 hc with hc | hc
    · rcases List.mem_append.1 hc with hc | hc
      · exact hd c (List.mem_filter.1 hc).1
      · simpa using (List.mem_filter.1 hc).2
    · exact hd c (List.mem_filter.1 hc).1

/-- A state that differs in nothing the relation speaks of but its memory's bytes, which stay in canonical form. -/
theorem keeps_bytes {s0 s t : State} (h : Keeps s0 s) (hp : t.pending = s.pending) (he : t.ev = s.ev) (hf : t.fuse = s.fuse)
    (hl : t.mem.eccLog = s.mem.eccLog) (ho : t.host = s.host) (hb : Memory.wf s.mem.bytes = true → Memory.wf t.mem.bytes = true) : Keeps s0 t := by
  refine keeps_fields h hp (fun i => ?_) (by rw [hf]; exact Fuses.Kept.refl _)
  exact ⟨hb i.mem, by rw [he]; exact i.queue, by rw [he]; exact i.log, by rw [hl]; exact i.ecc, by rw [ho]; exact i.transfers,
    by rw [ho]; exact i.one, by rw [ho]; exact i.openSet, by rw [ho]; exact i.openBytes⟩

theorem State.storeByte_keeps {s0 s : State} (a : Nat) (b : Byte) (h : Keeps s0 s) : Keeps s0 (s.storeByte a b) :=
  keeps_bytes h rfl rfl rfl rfl rfl (fun i => Memory.wf_tput i)

theorem State.storeBytes_keeps {s0 s : State} (a : Nat) (l : List Byte) (h : Keeps s0 s) : Keeps s0 (s.storeBytes a l) :=
  keeps_bytes h rfl rfl rfl rfl rfl (fun i => Memory.wf_storeRange i)

theorem State.storePoison_keeps {s0 : State} {s : State} (a : ℕ) (h : Keeps s0 s) :
    Keeps s0 (State.storePoison s a) := by
  unfold State.storePoison
  extract_lets +onlyGivenNames x0
  have h0 : Keeps s0 x0
  · unfold x0
    refine State.storeBytes_keeps _ _ ?_
    with_reducible assumption
  clear_value x0
  refine keeps_mk ?_ rfl rfl rfl rfl rfl rfl rfl
  with_reducible assumption

/-- A state that differs in nothing the relation speaks of but its error log, which stays within 32 entries. -/
theorem keeps_ecc {s0 s t : State} (h : Keeps s0 s) (hp : t.pending = s.pending) (he : t.ev = s.ev) (hf : t.fuse = s.fuse)
    (hb : t.mem.bytes = s.mem.bytes) (ho : t.host = s.host) (hl : s.mem.eccLog.length ≤ 32 → t.mem.eccLog.length ≤ 32) : Keeps s0 t := by
  refine keeps_fields h hp (fun i => ?_) (by rw [hf]; exact Fuses.Kept.refl _)
  exact ⟨by rw [hb]; exact i.mem, by rw [he]; exact i.queue, by rw [he]; exact i.log, hl i.ecc, by rw [ho]; exact i.transfers,
    by rw [ho]; exact i.one, by rw [ho]; exact i.openSet, by rw [ho]; exact i.openBytes⟩

theorem length_filter_lt {α : Type} {l : List α} {p : α → Bool} {x : α} (hx : x ∈ l) (hp : p x = false) : (l.filter p).length < l.length := by
  rw [List.length_filter_lt_length_iff_exists]
  exact ⟨x, hx, by simp [hp]⟩

theorem State.logEcc_keeps {s0 s : State} (addr region syndrome kind : Nat) (h : Keeps s0 s) : Keeps s0 (s.logEcc addr region syndrome kind) := by
  unfold State.logEcc
  split
  · rename_i e he
    refine keeps_ecc h rfl rfl rfl rfl rfl (fun i => ?_)
    have hm := List.mem_of_find?_eq_some he
    have ha : e.addr = addr := by simpa using List.find?_some he
    have : (s.mem.eccLog.filter (fun x => x.addr != addr)).length < s.mem.eccLog.length := length_filter_lt hm (by simp [ha])
    simp only [List.length_cons]; omega
  · dsimp only
    split
    · refine keeps_ecc h rfl rfl rfl rfl rfl (fun i => ?_)
      simp only [List.length_cons]; omega
    · split
      · rename_i old ho
        refine keeps_ecc h rfl rfl rfl rfl rfl (fun i => ?_)
        have hm := List.mem_reverse.1 (List.mem_of_find?_eq_some ho)
        have : (s.mem.eccLog.filter (fun x => x.addr != old.addr)).length < s.mem.eccLog.length := length_filter_lt hm (by simp)
        simp only [List.length_cons]; omega
      · exact State.bump_keeps _ _ h

theorem State.reportCorrected_keeps {s0 : State} {s : State} (region : ℕ) (h : Keeps s0 s) :
    Keeps s0 (State.reportCorrected s region) := by
  unfold State.reportCorrected
  extract_lets +onlyGivenNames x0
  clear_value x0
  extract_lets +onlyGivenNames x1
  clear_value x1
  refine ite_ind ?_ ?_
  · with_reducible assumption
  · extract_lets +onlyGivenNames x5
    extract_lets +onlyGivenNames x6
    have h6 : Keeps s0 x6
    · unfold x6
      refine keeps_mk ?_ rfl rfl rfl rfl rfl rfl rfl
      with_reducible assumption
    clear_value x6
    refine State.raise_keeps _ _ _ ?_
    with_reducible assumption

theorem State.countCorrected_keeps {s0 : State} {s : State} (addr : ℕ) (region : ℕ) (syndrome : ℕ) (kind : ℕ) (h : Keeps s0 s) :
    Keeps s0 (State.countCorrected s addr region syndrome kind) := by
  unfold State.countCorrected
  extract_lets +onlyGivenNames x0
  have h0 : Keeps s0 x0
  · unfold x0
    refine State.bump_keeps _ _ ?_
    with_reducible assumption
  clear_value x0
  extract_lets +onlyGivenNames x2
  extract_lets +onlyGivenNames x4
  have h4 : Keeps s0 x4
  · unfold x4
    refine keeps_mk ?_ rfl rfl rfl rfl rfl rfl rfl
    with_reducible assumption
  clear_value x4
  refine State.reportCorrected_keeps _ ?_
  refine State.logEcc_keeps _ _ _ _ ?_
  with_reducible assumption

theorem State.countUncorrectable_keeps {s0 : State} {s : State} (addr : ℕ) (region : ℕ) (syndrome : ℕ) (h : Keeps s0 s) :
    Keeps s0 (State.countUncorrectable s addr region syndrome) := by
  unfold State.countUncorrectable
  extract_lets +onlyGivenNames x3
  have h3 : Keeps s0 x3
  · unfold x3
    refine State.bump_keeps _ _ ?_
    with_reducible assumption
  clear_value x3
  extract_lets +onlyGivenNames x7
  have h7 : Keeps s0 x7
  · unfold x7
    refine State.logEcc_keeps _ _ _ _ ?_
    with_reducible assumption
  clear_value x7
  refine State.raise_keeps _ _ _ ?_
  with_reducible assumption

theorem State.consumePoison_keeps {s0 : State} {s : State} (a : ℕ) (h : Keeps s0 s) :
    Keeps s0 (State.consumePoison s a) := by
  unfold State.consumePoison
  split
  · refine ite_ind ?_ ?_
    · refine State.bump_keeps _ _ ?_
      with_reducible assumption
    · with_reducible assumption
  · with_reducible assumption

theorem State.startSlowPath_keeps {s0 : State} {s : State} (page : ℕ) (h : Keeps s0 s) :
    Keeps s0 (State.startSlowPath s page) := by
  unfold State.startSlowPath
  refine ite_ind ?_ ?_
  · with_reducible assumption
  · refine keeps_mk ?_ rfl rfl rfl rfl rfl rfl rfl
    with_reducible assumption

theorem State.slowHold_keeps {s0 : State} {s : State} (a : ℕ) (n : ℕ) (h : Keeps s0 s) :
    Keeps s0 (State.slowHold s a n).2 := by
  unfold State.slowHold
  split
  · with_reducible assumption
  · split
    · dsimp -zeta only
      refine State.startSlowPath_keeps _ ?_
      with_reducible assumption
    · with_reducible assumption

theorem State.meetUpset_keeps {s0 : State} {s : State} (a : ℕ) (h : Keeps s0 s) :
    Keeps s0 (State.meetUpset s a) := by
  unfold State.meetUpset
  split
  · refine ite_ind ?_ ?_
    · extract_lets +onlyGivenNames x9
      extract_lets +onlyGivenNames x11
      have h11 : Keeps s0 x11
      · unfold x11
        refine keeps_mk ?_ rfl rfl rfl rfl rfl rfl rfl
        with_reducible assumption
      clear_value x11
      refine State.countCorrected_keeps _ _ _ _ ?_
      with_reducible assumption
    · refine ite_ind ?_ ?_
      · with_reducible assumption
      · refine State.countUncorrectable_keeps _ _ _ ?_
        refine State.storePoison_keeps _ ?_
        with_reducible assumption
  · with_reducible assumption

theorem State.readWord_keeps {s0 : State} {s : State} (m : Master) (a : ℕ) (h : Keeps s0 s) :
    Keeps s0 (State.readWord s m a).2 := by
  unfold State.readWord
  split
  · with_reducible assumption
  · split
    · with_reducible assumption
    · split
      · dsimp -zeta only
        refine State.bump_keeps _ _ ?_
        with_reducible assumption
      · split
        · with_reducible assumption
        · split
          · with_reducible assumption
          · extract_lets +onlyGivenNames x63
            have h63 : Keeps s0 x63
            · unfold x63
              refine State.meetUpset_keeps _ ?_
              with_reducible assumption
            clear_value x63
            split
            · with_reducible assumption
            · split
              · dsimp -zeta only
                refine keeps_mk ?_ rfl rfl rfl rfl rfl rfl rfl
                with_reducible assumption
              · with_reducible assumption

theorem State.readWords_keeps {s0 s : State} (m : Master) (n a : Nat) (h : Keeps s0 s) : Keeps s0 (s.readWords m n a).2 := by
  induction n generalizing s a with
  | zero => exact h
  | succ n ih => exact ih _ (State.readWord_keeps m a h)

theorem State.folioWritten_keeps {s0 : State} {s : State} (a : ℕ) (h : Keeps s0 s) :
    Keeps s0 (State.folioWritten s a) := by
  unfold State.folioWritten
  refine ite_ind ?_ ?_
  · extract_lets +onlyGivenNames x8
    clear_value x8
    extract_lets +onlyGivenNames x10
    clear_value x10
    refine ite_ind ?_ ?_
    · refine State.wr_keeps _ _ _ ?_
      with_reducible assumption
    · with_reducible assumption
  · refine keeps_foldl ?_ ?_
    · intro a12 a13 h14
      extract_lets +onlyGivenNames x15
      clear_value x15
      refine ite_ind ?_ ?_
      · refine State.wr_keeps _ _ _ ?_
        with_reducible assumption
      · with_reducible assumption
    · with_reducible assumption

theorem State.libraryWritten_keeps {s0 : State} {s : State} (e : ℕ) (h : Keeps s0 s) :
    Keeps s0 (State.libraryWritten s e) := by
  unfold State.libraryWritten
  refine ite_ind ?_ ?_
  · refine keeps_foldl ?_ ?_
    · intro a16 a17 h18
      refine State.failJob_keeps _ _ _ ?_
      with_reducible assumption
    · with_reducible assumption
  · refine State.storeByte_keeps _ _ ?_
    with_reducible assumption

theorem State.cancelWritten_keeps {s0 : State} {s : State} (slot : ℕ) (h : Keeps s0 s) :
    Keeps s0 (State.cancelWritten s slot) := by
  unfold State.cancelWritten
  extract_lets +onlyGivenNames x19
  clear_value x19
  extract_lets +onlyGivenNames x20
  extract_lets +onlyGivenNames x22
  clear_value x22
  refine ite_ind ?_ ?_
  · refine State.wr_keeps _ _ _ ?_
    refine keeps_mk ?_ rfl rfl rfl rfl rfl rfl rfl
    with_reducible assumption
  · refine ite_ind ?_ ?_
    · refine keeps_mk ?_ rfl rfl rfl rfl rfl rfl rfl
      with_reducible assumption
    · with_reducible assumption

theorem State.captureWritten_keeps {s0 : State} {s : State} (a : ℕ) (h : Keeps s0 s) :
    Keeps s0 (State.captureWritten s a) := by
  unfold State.captureWritten
  extract_lets +onlyGivenNames x21
  clear_value x21
  refine ite_ind ?_ ?_
  · with_reducible assumption
  · extract_lets +onlyGivenNames x23
    clear_value x23
    refine keeps_mk ?_ rfl rfl rfl rfl rfl rfl rfl
    with_reducible assumption

theorem State.noteAltered_keeps {s0 : State} {s : State} (m : Master) (a : ℕ) (h : Keeps s0 s) :
    Keeps s0 (State.noteAltered s m a) := by
  unfold State.noteAltered
  extract_lets +onlyGivenNames x24
  clear_value x24
  extract_lets +onlyGivenNames x25
  clear_value x25
  refine ite_ind ?_ ?_
  · extract_lets +onlyGivenNames x26
    have h26 : Keeps s0 x26
    · unfold x26
      refine State.wrEpoch_keeps _ _ _ ?_
      refine State.wr_keeps _ _ _ ?_
      refine State.wr_keeps _ _ _ ?_
      with_reducible assumption
    clear_value x26
    refine State.raise_keeps _ _ _ ?_
    with_reducible assumption
  · with_reducible assumption

theorem State.captureFill_keeps {s0 : State} {s : State} (port : ℕ) (chunk : ℕ) (n : ℕ) (h : Keeps s0 s) :
    Keeps s0 (State.captureFill s port chunk n) := by
  unfold State.captureFill
  extract_lets +onlyGivenNames x27
  clear_value x27
  extract_lets +onlyGivenNames x28
  clear_value x28
  refine ite_ind ?_ ?_
  · refine keeps_mk ?_ rfl rfl rfl rfl rfl rfl rfl
    with_reducible assumption
  · refine keeps_mk ?_ rfl rfl rfl rfl rfl rfl rfl
    with_reducible assumption

theorem State.journalWrite_keeps {s0 : State} {s : State} (m : Master) (a : ℕ) (h : Keeps s0 s) :
    KeepsO s0 (State.journalWrite s m a) := by
  unfold State.journalWrite
  extract_lets +onlyGivenNames x29
  clear_value x29
  refine ite_ind ?_ ?_
  · refine keepsO_some ?_
    with_reducible assumption
  · refine ite_ind ?_ ?_
    · exact keepsO_none
    · refine keepsO_some ?_
      refine keeps_mk ?_ rfl rfl rfl rfl rfl rfl rfl
      with_reducible assumption

theorem State.noteCodeHit_keeps {s0 : State} {s : State} (m : Master) (a : ℕ) (h : Keeps s0 s) :
    Keeps s0 (State.noteCodeHit s m a) := by
  unfold State.noteCodeHit
  extract_lets +onlyGivenNames x30
  clear_value x30
  refine ite_ind ?_ ?_
  · refine keeps_mk ?_ rfl rfl rfl rfl rfl rfl rfl
    with_reducible assumption
  · with_reducible assumption

theorem State.regionWritten_keeps {s0 : State} {s : State} (m : Master) (a : ℕ) (h : Keeps s0 s) :
    Keeps s0 (State.regionWritten s m a) := by
  unfold State.regionWritten
  split
  · extract_lets +onlyGivenNames x34
    have h34 : Keeps s0 x34
    · unfold x34
      split
      · refine State.libraryWritten_keeps _ ?_
        with_reducible assumption
      · with_reducible assumption
    clear_value x34
    extract_lets +onlyGivenNames x35
    have h35 : Keeps s0 x35
    · unfold x35
      split
      · refine State.cancelWritten_keeps _ ?_
        with_reducible assumption
      · with_reducible assumption
    clear_value x35
    refine State.noteAltered_keeps _ _ ?_
    refine State.captureWritten_keeps _ ?_
    with_reducible assumption
  · refine State.folioWritten_keeps _ ?_
    with_reducible assumption
  · refine State.noteCodeHit_keeps _ _ ?_
    refine State.noteAltered_keeps _ _ ?_
    with_reducible assumption
  · with_reducible assumption

theorem State.storeInWord_keeps {s0 : State} {s : State} (a : ℕ) (l : List Byte) (h : Keeps s0 s) :
    Keeps s0 (State.storeInWord s a l) := by
  unfold State.storeInWord
  refine ite_ind ?_ ?_
  · extract_lets +onlyGivenNames x31
    extract_lets +onlyGivenNames x32
    have h32 : Keeps s0 x32
    · unfold x32
      refine keeps_mk ?_ rfl rfl rfl rfl rfl rfl rfl
      with_reducible assumption
    clear_value x32
    refine State.storeBytes_keeps _ _ ?_
    with_reducible assumption
  · extract_lets +onlyGivenNames x33
    have h33 : Keeps s0 x33
    · unfold x33
      refine State.meetUpset_keeps _ ?_
      with_reducible assumption
    clear_value x33
    refine ite_ind ?_ ?_
    · with_reducible assumption
    · refine State.storeBytes_keeps _ _ ?_
      with_reducible assumption

theorem State.noteBankWrite_keeps {s0 : State} {s : State} (a : ℕ) (h : Keeps s0 s) :
    Keeps s0 (State.noteBankWrite s a) := by
  unfold State.noteBankWrite
  split
  · refine ite_ind ?_ ?_
    · refine keeps_mk ?_ rfl rfl rfl rfl rfl rfl rfl
      with_reducible assumption
    · with_reducible assumption
  · with_reducible assumption

theorem State.writeWord_keeps {s0 : State} {s : State} (m : Master) (a : ℕ) (l : List Byte) (poison : Bool) (h : Keeps s0 s) :
    Keeps s0 (State.writeWord s m a l poison).2 := by
  unfold State.writeWord
  split
  · with_reducible assumption
  · split
    · with_reducible assumption
    · split
      · dsimp -zeta only
        refine State.bump_keeps _ _ ?_
        with_reducible assumption
      · split
        · dsimp -zeta only
          refine State.noteBankWrite_keeps _ ?_
          with_reducible assumption
        · split
          · split
            · with_reducible assumption
            · split
              · dsimp -zeta only
                refine State.bump_keeps _ _ ?_
                with_reducible assumption
              · extract_lets +onlyGivenNames x61
                have h61 : Keeps s0 x61
                · unfold x61
                  refine ite_ind ?_ ?_
                  · refine State.storePoison_keeps _ ?_
                    with_reducible assumption
                  · refine State.storeInWord_keeps _ _ ?_
                    with_reducible assumption
                clear_value x61
                dsimp -zeta only
                refine State.captureFill_keeps _ _ _ ?_
                with_reducible assumption
          · split
            · with_reducible assumption
            · extract_lets +onlyGivenNames x62
              have h62 : Keeps s0 x62
              · unfold x62
                refine State.regionWritten_keeps _ _ ?_
                refine keepsO_of ?_ (by assumption)
                refine State.journalWrite_keeps _ _ ?_
                with_reducible assumption
              clear_value x62
              dsimp -zeta only
              refine ite_ind ?_ ?_
              · refine State.storePoison_keeps _ ?_
                with_reducible assumption
              · refine State.storeInWord_keeps _ _ ?_
                with_reducible assumption

theorem State.writeWords_keeps {s0 s : State} (m : Master) (a : Nat) (l : List (List Byte × Bool)) (h : Keeps s0 s) :
    Keeps s0 (s.writeWords m a l).2 := by
  induction l generalizing s a with
  | nil => exact h
  | cons x l ih =>
    unfold State.writeWords
    have := State.writeWord_keeps m a x.1 x.2 h
    dsimp only
    split
    · exact this
    · exact ih _ this

theorem State.placeBytes_keeps {s0 : State} {s : State} (m : Master) (a : ℕ) (l : List Byte) (h : Keeps s0 s) :
    Keeps s0 (State.placeBytes s m a l) := by
  unfold State.placeBytes
  refine State.writeWords_keeps _ _ _ ?_
  with_reducible assumption

theorem State.decodePage_keeps {s0 : State} {s : State} (page : ℕ) (h : Keeps s0 s) :
    Keeps s0 (State.decodePage s page) := by
  unfold State.decodePage
  extract_lets +onlyGivenNames x36
  clear_value x36
  refine ite_ind ?_ ?_
  · extract_lets +onlyGivenNames x38
    extract_lets +onlyGivenNames x39
    have h39 : Keeps s0 x39
    · unfold x39
      refine keeps_mk ?_ rfl rfl rfl rfl rfl rfl rfl
      with_reducible assumption
    clear_value x39
    extract_lets +onlyGivenNames x43
    have h43 : Keeps s0 x43
    · unfold x43
      refine keeps_foldl ?_ ?_
      · intro a45 a46 h47
        refine State.countCorrected_keeps _ _ _ _ ?_
        with_reducible assumption
      · with_reducible assumption
    clear_value x43
    refine State.bump_keeps _ _ ?_
    with_reducible assumption
  · refine keeps_foldl ?_ ?_
    · intro a51 a52 h53
      refine ite_ind ?_ ?_
      · with_reducible assumption
      · refine State.countUncorrectable_keeps _ _ _ ?_
        refine State.storePoison_keeps _ ?_
        with_reducible assumption
    · with_reducible assumption

theorem State.settle_keeps {s0 : State} {s : State} (a : ℕ) (n : ℕ) (h : Keeps s0 s) :
    Keeps s0 (State.settle s a n) := by
  unfold State.settle
  extract_lets +onlyGivenNames x37
  clear_value x37
  refine keeps_foldl ?_ ?_
  · intro a40 a41 h42
    refine ite_ind ?_ ?_
    · refine State.decodePage_keeps _ ?_
      with_reducible assumption
    · refine State.meetUpset_keeps _ ?_
      with_reducible assumption
  · with_reducible assumption

theorem State.ownBytes_keeps {s0 : State} {s : State} (a : ℕ) (l : List Byte) (h : Keeps s0 s) :
    Keeps s0 (State.ownBytes s a l) := by
  unfold State.ownBytes
  extract_lets +onlyGivenNames x44
  have h44 : Keeps s0 x44
  · unfold x44
    refine keeps_foldl ?_ ?_
    · intro a48 a49 h50
      refine ite_ind ?_ ?_
      · with_reducible assumption
      · refine State.meetUpset_keeps _ ?_
        with_reducible assumption
    · with_reducible assumption
  clear_value x44
  extract_lets +onlyGivenNames x54
  clear_value x54
  extract_lets +onlyGivenNames x55
  extract_lets +onlyGivenNames x56
  have h56 : Keeps s0 x56
  · unfold x56
    refine keeps_mk ?_ rfl rfl rfl rfl rfl rfl rfl
    with_reducible assumption
  clear_value x56
  refine State.storeBytes_keeps _ _ ?_
  with_reducible assumption

theorem State.zeroRange_keeps {s0 s : State} (a n : Nat) (h : Keeps s0 s) : Keeps s0 (s.zeroRange a n) :=
  keeps_bytes h rfl rfl rfl rfl rfl (fun i => Memory.wf_filter i)

theorem State.scrubRead_keeps {s0 : State} {s : State} (page : ℕ) (h : Keeps s0 s) :
    Keeps s0 (State.scrubRead s page) := by
  unfold State.scrubRead
  extract_lets +onlyGivenNames x57
  clear_value x57
  refine ite_ind ?_ ?_
  · refine keeps_foldl ?_ ?_
    · intro a58 a59 h60
      refine State.meetUpset_keeps _ ?_
      with_reducible assumption
    · with_reducible assumption
  · refine State.decodePage_keeps _ ?_
    with_reducible assumption

end Sys2Proof.Machine
end

