-- ==== Sys2Proof/Laws/KeepsDomains.lean ====
section
/-! SUPPORT. Every operation of Machine/Domains.lean keeps the relation of Laws/Keeps.lean. -/
namespace Sys2Proof.Machine

theorem State.startWake_keeps {s0 : State} {s : State} (domain : ℕ) (source : ℕ) (h : Keeps s0 s) :
    Keeps s0 (State.startWake s domain source) := by
  unfold State.startWake
  extract_lets +onlyGivenNames x0
  clear_value x0
  refine ite_ind ?_ ?_
  · extract_lets +onlyGivenNames x5
    have h5 : Keeps s0 x5
    · unfold x5
      refine State.wr_keeps _ _ _ ?_
      with_reducible assumption
    clear_value x5
    extract_lets +onlyGivenNames x6
    have h6 : Keeps s0 x6
    · unfold x6
      refine State.bump_keeps _ _ ?_
      with_reducible assumption
    clear_value x6
    extract_lets +onlyGivenNames x7
    extract_lets +onlyGivenNames x8
    have h8 : Keeps s0 x8
    · unfold x8
      refine keeps_mk ?_ rfl rfl rfl rfl rfl rfl rfl
      with_reducible assumption
    clear_value x8
    refine State.wrEpoch_keeps _ _ _ ?_
    refine State.wr_keeps _ _ _ ?_
    with_reducible assumption
  · with_reducible assumption

theorem State.switchOff_keeps {s0 : State} {s : State} (domain : ℕ) (h : Keeps s0 s) :
    Keeps s0 (State.switchOff s domain) := by
  unfold State.switchOff
  extract_lets +onlyGivenNames x1
  extract_lets +onlyGivenNames x3
  have h3 : Keeps s0 x3
  · unfold x3
    refine keeps_mk ?_ rfl rfl rfl rfl rfl rfl rfl
    with_reducible assumption
  clear_value x3
  refine State.wr_keeps _ _ _ ?_
  with_reducible assumption

theorem State.needDomain_keeps {s0 : State} {s : State} (domain : ℕ) (h : Keeps s0 s) :
    Keeps s0 (State.needDomain s domain).2 := by
  unfold State.needDomain
  extract_lets +onlyGivenNames x2
  extract_lets +onlyGivenNames x4
  have h4 : Keeps s0 x4
  · unfold x4
    refine keeps_mk ?_ rfl rfl rfl rfl rfl rfl rfl
    with_reducible assumption
  clear_value x4
  split
  · with_reducible assumption
  · split
    · dsimp -zeta only
      refine keeps_mk ?_ rfl rfl rfl rfl rfl rfl rfl
      with_reducible assumption
    · extract_lets +onlyGivenNames x9
      extract_lets +onlyGivenNames x10
      have h10 : Keeps s0 x10
      · unfold x10
        refine keeps_mk ?_ rfl rfl rfl rfl rfl rfl rfl
        with_reducible assumption
      clear_value x10
      dsimp -zeta only
      refine State.startWake_keeps _ _ ?_
      with_reducible assumption

end Sys2Proof.Machine
end

