-- ==== Sys2Proof/Laws/KeepsDomain.lean ====
section
/-! SUPPORT. Every operation of Machine/Domain.lean keeps the relation of Laws/Keeps.lean. -/
namespace Sys2Proof.Machine

theorem State.stepChange_keeps {s0 : State} {s : State} (index : ℕ) (sub : ℕ) (h : Keeps s0 s) :
    Keeps s0 (State.stepChange s index sub) := by
  unfold State.stepChange
  extract_lets +onlyGivenNames x0
  clear_value x0
  refine keeps_mk ?_ rfl rfl rfl rfl rfl rfl rfl
  with_reducible assumption

theorem State.setDom_keeps {s0 : State} {s : State} (index : ℕ) (sub : ℕ) (v : List Byte) (h : Keeps s0 s) :
    Keeps s0 (State.setDom s index sub v) := by
  unfold State.setDom
  refine ite_ind ?_ ?_
  · with_reducible assumption
  · refine State.stepChange_keeps _ _ ?_
    refine keeps_mk ?_ rfl rfl rfl rfl rfl rfl rfl
    with_reducible assumption

end Sys2Proof.Machine
end

