-- ==== Sys2Proof/Laws/KeepsRadio.lean ====
section
/-! SUPPORT. Every operation of Machine/Radio.lean keeps the relation of Laws/Keeps.lean. -/
namespace Sys2Proof.Machine

theorem State.setCourse_keeps {s0 : State} {s : State} (c : ℕ) (v : CourseSys) (h : Keeps s0 s) :
    Keeps s0 (State.setCourse s c v) := by
  unfold State.setCourse
  refine keeps_mk ?_ rfl rfl rfl rfl rfl rfl rfl
  with_reducible assumption

theorem State.setPath_keeps {s0 : State} {s : State} (p : ℕ) (v : PathSys) (h : Keeps s0 s) :
    Keeps s0 (State.setPath s p v) := by
  unfold State.setPath
  refine keeps_mk ?_ rfl rfl rfl rfl rfl rfl rfl
  with_reducible assumption

theorem State.startRelock_keeps {s0 : State} {s : State} (c : ℕ) (attempts : ℕ) (h : Keeps s0 s) :
    Keeps s0 (State.startRelock s c attempts) := by
  unfold State.startRelock
  extract_lets +onlyGivenNames x0
  have h0 : Keeps s0 x0
  · unfold x0
    refine State.wr_keeps _ _ _ ?_
    with_reducible assumption
  clear_value x0
  extract_lets +onlyGivenNames x0
  clear_value x0
  extract_lets +onlyGivenNames x1
  have h1 : Keeps s0 x1
  · unfold x1
    refine State.setCourse_keeps _ _ ?_
    with_reducible assumption
  clear_value x1
  refine keeps_foldl ?_ ?_
  · intro a4 a5 h6
    refine State.setCourse_keeps _ _ ?_
    with_reducible assumption
  · with_reducible assumption

theorem State.synUnlock_keeps {s0 : State} {s : State} (c : ℕ) (h : Keeps s0 s) :
    Keeps s0 (State.synUnlock s c) := by
  unfold State.synUnlock
  refine ite_ind ?_ ?_
  · extract_lets +onlyGivenNames x0
    have h0 : Keeps s0 x0
    · unfold x0
      refine State.bump_keeps _ _ ?_
      with_reducible assumption
    clear_value x0
    extract_lets +onlyGivenNames x0
    have h0 : Keeps s0 x0
    · unfold x0
      refine State.raise_keeps _ _ _ ?_
      with_reducible assumption
    clear_value x0
    refine State.startRelock_keeps _ _ ?_
    with_reducible assumption
  · with_reducible assumption

theorem State.synLock_keeps {s0 : State} {s : State} (c : ℕ) (h : Keeps s0 s) :
    Keeps s0 (State.synLock s c) := by
  unfold State.synLock
  refine ite_ind ?_ ?_
  · extract_lets +onlyGivenNames x1
    have h1 : Keeps s0 x1
    · unfold x1
      refine State.wr_keeps _ _ _ ?_
      with_reducible assumption
    clear_value x1
    refine State.setCourse_keeps _ _ ?_
    with_reducible assumption
  · with_reducible assumption

theorem State.detectFault_keeps {s0 : State} {s : State} (p : ℕ) (reason : ℕ) (h : Keeps s0 s) :
    Keeps s0 (State.detectFault s p reason) := by
  unfold State.detectFault
  extract_lets +onlyGivenNames x0
  clear_value x0
  refine ite_ind ?_ ?_
  · refine State.setPath_keeps _ _ ?_
    with_reducible assumption
  · with_reducible assumption

theorem State.loseLo_keeps {s0 : State} {s : State} (c : ℕ) (h : Keeps s0 s) :
    Keeps s0 (State.loseLo s c) := by
  unfold State.loseLo
  extract_lets +onlyGivenNames x1
  have h1 : Keeps s0 x1
  · unfold x1
    refine State.wr_keeps _ _ _ ?_
    with_reducible assumption
  clear_value x1
  extract_lets +onlyGivenNames x1
  clear_value x1
  extract_lets +onlyGivenNames x3
  have h3 : Keeps s0 x3
  · unfold x3
    refine State.setCourse_keeps _ _ ?_
    with_reducible assumption
  clear_value x3
  refine keeps_foldl ?_ ?_
  · intro a1 a2 h3
    refine State.detectFault_keeps _ _ ?_
    with_reducible assumption
  · with_reducible assumption

theorem State.synFailed_keeps {s0 : State} {s : State} (c : ℕ) (h : Keeps s0 s) :
    Keeps s0 (State.synFailed s c) := by
  unfold State.synFailed
  extract_lets +onlyGivenNames x3
  clear_value x3
  extract_lets +onlyGivenNames x0
  have h0 : Keeps s0 x0
  · unfold x0
    refine keeps_foldl ?_ ?_
    · intro a4 a5 h6
      refine State.loseLo_keeps _ ?_
      with_reducible assumption
    · with_reducible assumption
  clear_value x0
  refine ite_ind ?_ ?_
  · split
    · refine State.setCourse_keeps _ _ ?_
      with_reducible assumption
    · refine State.loseLo_keeps _ ?_
      with_reducible assumption
  · with_reducible assumption

theorem State.relockFail_keeps {s0 : State} {s : State} (c : ℕ) (h : Keeps s0 s) :
    Keeps s0 (State.relockFail s c) := by
  unfold State.relockFail
  extract_lets +onlyGivenNames x1
  clear_value x1
  split
  · with_reducible assumption
  · refine ite_ind ?_ ?_
    · with_reducible assumption
    · refine ite_ind ?_ ?_
      · extract_lets +onlyGivenNames x1
        have h1 : Keeps s0 x1
        · unfold x1
          refine State.wr_keeps _ _ _ ?_
          with_reducible assumption
        clear_value x1
        refine State.setCourse_keeps _ _ ?_
        with_reducible assumption
      · extract_lets +onlyGivenNames x0
        have h0 : Keeps s0 x0
        · unfold x0
          refine State.wr_keeps _ _ _ ?_
          with_reducible assumption
        clear_value x0
        extract_lets +onlyGivenNames x2
        have h2 : Keeps s0 x2
        · unfold x2
          refine State.setCourse_keeps _ _ ?_
          with_reducible assumption
        clear_value x2
        extract_lets +onlyGivenNames x7
        have h7 : Keeps s0 x7
        · unfold x7
          refine State.raise_keeps _ _ _ ?_
          with_reducible assumption
        clear_value x7
        refine State.synFailed_keeps _ ?_
        with_reducible assumption

theorem State.synPhase_keeps {s0 : State} {s : State} (c : ℕ) (h : Keeps s0 s) :
    Keeps s0 (State.synPhase s c) := by
  unfold State.synPhase
  split
  · refine ite_ind ?_ ?_
    · refine State.wr_keeps _ _ _ ?_
      with_reducible assumption
    · with_reducible assumption
  · with_reducible assumption

theorem State.synPhases_keeps {s0 : State} {s : State} (h : Keeps s0 s) :
    Keeps s0 (State.synPhases s) := by
  unfold State.synPhases
  refine keeps_foldl ?_ ?_
  · intro a0 a1 h2
    refine State.synPhase_keeps _ ?_
    with_reducible assumption
  · with_reducible assumption

theorem State.loBorrowSwitch_keeps {s0 : State} {s : State} (c : ℕ) (h : Keeps s0 s) :
    Keeps s0 (State.loBorrowSwitch s c) := by
  unfold State.loBorrowSwitch
  split
  · with_reducible assumption
  · refine ite_ind ?_ ?_
    · with_reducible assumption
    · refine ite_ind ?_ ?_
      · extract_lets +onlyGivenNames x1
        have h1 : Keeps s0 x1
        · unfold x1
          refine State.wr_keeps _ _ _ ?_
          with_reducible assumption
        clear_value x1
        refine State.setCourse_keeps _ _ ?_
        with_reducible assumption
      · refine State.loseLo_keeps _ ?_
        with_reducible assumption

theorem State.showStale_keeps {s0 : State} {s : State} (h : Keeps s0 s) :
    Keeps s0 (State.showStale s) := by
  unfold State.showStale
  refine keeps_foldl ?_ ?_
  · intro a3 a4 h5
    refine State.wrBit_keeps _ _ _ _ ?_
    with_reducible assumption
  · with_reducible assumption

theorem State.cancelStaleLo_keeps {s0 : State} {s : State} (c : ℕ) (h : Keeps s0 s) :
    Keeps s0 (State.cancelStaleLo s c) := by
  unfold State.cancelStaleLo
  extract_lets +onlyGivenNames x9
  extract_lets +onlyGivenNames x0
  have h0 : Keeps s0 x0
  · unfold x0
    refine State.showStale_keeps ?_
    refine keeps_mk ?_ rfl rfl rfl rfl rfl rfl rfl
    with_reducible assumption
  clear_value x0
  refine State.raise_keeps _ _ _ ?_
  with_reducible assumption

theorem State.loBorrow_keeps {s0 : State} {s : State} (c : ℕ) (offsets : List ℤ) (h : Keeps s0 s) :
    Keeps s0 (State.loBorrow s c offsets) := by
  unfold State.loBorrow
  refine ite_ind ?_ ?_
  · extract_lets +onlyGivenNames x0
    clear_value x0
    extract_lets +onlyGivenNames x3
    have h3 : Keeps s0 x3
    · unfold x3
      refine State.setCourse_keeps _ _ ?_
      with_reducible assumption
    clear_value x3
    extract_lets +onlyGivenNames x0
    have h0 : Keeps s0 x0
    · unfold x0
      refine keeps_foldl ?_ ?_
      · intro a1 a2 h3
        refine State.setPath_keeps _ _ ?_
        with_reducible assumption
      · with_reducible assumption
    clear_value x0
    extract_lets +onlyGivenNames x1
    have h1 : Keeps s0 x1
    · unfold x1
      refine State.raise_keeps _ _ _ ?_
      with_reducible assumption
    clear_value x1
    refine ite_ind ?_ ?_
    · refine State.cancelStaleLo_keeps _ ?_
      with_reducible assumption
    · with_reducible assumption
  · with_reducible assumption

theorem State.dcRange_keeps {s0 : State} {s : State} (p : ℕ) (code : ℕ) (h : Keeps s0 s) :
    Keeps s0 (State.dcRange s p code) := by
  unfold State.dcRange
  split
  · refine ite_ind ?_ ?_
    · extract_lets +onlyGivenNames x0
      clear_value x0
      extract_lets +onlyGivenNames x2
      have h2 : Keeps s0 x2
      · unfold x2
        refine State.setPath_keeps _ _ ?_
        with_reducible assumption
      clear_value x2
      refine State.raise_keeps _ _ _ ?_
      with_reducible assumption
    · with_reducible assumption
  · with_reducible assumption

theorem State.startTransition_keeps {s0 : State} {s : State} (c : ℕ) (to_ : ℕ) (h : Keeps s0 s) :
    Keeps s0 (State.startTransition s c to_) := by
  unfold State.startTransition
  extract_lets +onlyGivenNames x3
  clear_value x3
  extract_lets +onlyGivenNames x4
  have h4 : Keeps s0 x4
  · unfold x4
    refine ite_ind ?_ ?_
    · refine State.wr_keeps _ _ _ ?_
      with_reducible assumption
    · with_reducible assumption
  clear_value x4
  extract_lets +onlyGivenNames x1
  clear_value x1
  extract_lets +onlyGivenNames x2
  have h2 : Keeps s0 x2
  · unfold x2
    refine State.setCourse_keeps _ _ ?_
    with_reducible assumption
  clear_value x2
  refine ite_ind ?_ ?_
  · refine State.startRelock_keeps _ _ ?_
    with_reducible assumption
  · with_reducible assumption

theorem State.courseTransitionStart_keeps {s0 : State} {s : State} (c : ℕ) (h : Keeps s0 s) :
    Keeps s0 (State.courseTransitionStart s c) := by
  unfold State.courseTransitionStart
  extract_lets +onlyGivenNames x8
  clear_value x8
  extract_lets +onlyGivenNames x0
  clear_value x0
  extract_lets +onlyGivenNames x0
  have h0 : Keeps s0 x0
  · unfold x0
    refine State.airAt_keeps _ ?_
    with_reducible assumption
  clear_value x0
  refine ite_ind ?_ ?_
  · with_reducible assumption
  · extract_lets +onlyGivenNames x2
    clear_value x2
    extract_lets +onlyGivenNames x0
    clear_value x0
    extract_lets +onlyGivenNames x1
    clear_value x1
    extract_lets +onlyGivenNames x2
    clear_value x2
    extract_lets +onlyGivenNames x4
    clear_value x4
    refine ite_ind ?_ ?_
    · refine State.startTransition_keeps _ _ ?_
      with_reducible assumption
    · refine ite_ind ?_ ?_
      · with_reducible assumption
      · refine ite_ind ?_ ?_
        · refine State.startTransition_keeps _ _ ?_
          with_reducible assumption
        · with_reducible assumption

theorem State.courseTransitionDone_keeps {s0 : State} {s : State} (c : ℕ) (h : Keeps s0 s) :
    Keeps s0 (State.courseTransitionDone s c) := by
  unfold State.courseTransitionDone
  split
  · with_reducible assumption
  · refine ite_ind ?_ ?_
    · extract_lets +onlyGivenNames x4
      have h4 : Keeps s0 x4
      · unfold x4
        refine State.wr_keeps _ _ _ ?_
        with_reducible assumption
      clear_value x4
      extract_lets +onlyGivenNames x0
      clear_value x0
      extract_lets +onlyGivenNames x4
      have h4 : Keeps s0 x4
      · unfold x4
        refine State.setCourse_keeps _ _ ?_
        with_reducible assumption
      clear_value x4
      refine ite_ind ?_ ?_
      · refine State.wr_keeps _ _ _ ?_
        with_reducible assumption
      · with_reducible assumption
    · with_reducible assumption

theorem State.courseOff_keeps {s0 : State} {s : State} (c : ℕ) (h : Keeps s0 s) :
    Keeps s0 (State.courseOff s c) := by
  unfold State.courseOff
  extract_lets +onlyGivenNames x0
  have h0 : Keeps s0 x0
  · unfold x0
    refine State.wr_keeps _ _ _ ?_
    with_reducible assumption
  clear_value x0
  extract_lets +onlyGivenNames x0
  have h0 : Keeps s0 x0
  · unfold x0
    refine State.wr_keeps _ _ _ ?_
    with_reducible assumption
  clear_value x0
  refine State.setCourse_keeps _ _ ?_
  with_reducible assumption

theorem State.ownLo_keeps {s0 : State} {s : State} (c : ℕ) (h : Keeps s0 s) :
    Keeps s0 (State.ownLo s c) := by
  unfold State.ownLo
  extract_lets +onlyGivenNames x1
  have h1 : Keeps s0 x1
  · unfold x1
    refine State.wr_keeps _ _ _ ?_
    with_reducible assumption
  clear_value x1
  refine keeps_foldl ?_ ?_
  · intro a2 a3 h4
    refine State.setPath_keeps _ _ ?_
    with_reducible assumption
  · with_reducible assumption

theorem State.applyTx_keeps {s0 : State} {s : State} (p : ℕ) (v : ℕ × ℤ) (h : Keeps s0 s) :
    Keeps s0 (State.applyTx s p v) := by
  unfold State.applyTx
  refine State.wrI_keeps _ _ _ _ ?_
  refine State.wr_keeps _ _ _ ?_
  with_reducible assumption

theorem State.txLimits_keeps {s0 : State} {s : State} (p : ℕ) (limit : ℕ) (h : Keeps s0 s) :
    Keeps s0 (State.txLimits s p limit) := by
  unfold State.txLimits
  extract_lets +onlyGivenNames x7
  clear_value x7
  extract_lets +onlyGivenNames x0
  have h0 : Keeps s0 x0
  · unfold x0
    refine State.wrBit_keeps _ _ _ _ ?_
    refine State.wrBit_keeps _ _ _ _ ?_
    with_reducible assumption
  clear_value x0
  refine ite_ind ?_ ?_
  · refine State.raise_keeps _ _ _ ?_
    with_reducible assumption
  · with_reducible assumption

theorem State.computeTx_keeps {s0 : State} {s : State} (p : ℕ) (h : Keeps s0 s) :
    Keeps s0 (State.computeTx s p).2 := by
  unfold State.computeTx
  split
  · with_reducible assumption
  · extract_lets +onlyGivenNames x0
    clear_value x0
    extract_lets +onlyGivenNames x1
    have h1 : Keeps s0 x1
    · unfold x1
      refine State.wrI_keeps _ _ _ _ ?_
      with_reducible assumption
    clear_value x1
    extract_lets +onlyGivenNames x2
    have h2 : Keeps s0 x2
    · unfold x2
      refine State.wrBit_keeps _ _ _ _ ?_
      with_reducible assumption
    clear_value x2
    dsimp -zeta only
    refine State.txLimits_keeps _ _ ?_
    with_reducible assumption

theorem State.powerEdge_keeps {s0 : State} {s : State} (p : ℕ) (edge : Option ℕ) (h : Keeps s0 s) :
    Keeps s0 (State.powerEdge s p edge) := by
  unfold State.powerEdge
  split
  · refine State.loopAt_keeps _ _ _ ?_
    refine State.wrBit_keeps _ _ _ _ ?_
    with_reducible assumption
  · with_reducible assumption

theorem State.powerRecompute_keeps {s0 : State} {s : State} (h : Keeps s0 s) :
    Keeps s0 (State.powerRecompute s) := by
  unfold State.powerRecompute
  refine keeps_foldl ?_ ?_
  · intro a1 a2 h3
    extract_lets +onlyGivenNames x0
    clear_value x0
    extract_lets +onlyGivenNames x2
    have h2 : Keeps s0 x2
    · unfold x2
      split
      · refine State.powerEdge_keeps _ _ ?_
        refine State.applyTx_keeps _ _ ?_
        with_reducible assumption
      · with_reducible assumption
    clear_value x2
    extract_lets +onlyGivenNames x1
    have h1 : Keeps s0 x1.2
    · unfold x1
      refine State.computeTx_keeps _ ?_
      with_reducible assumption
    clear_value x1
    refine State.setPath_keeps _ _ ?_
    with_reducible assumption
  · with_reducible assumption

theorem State.powerNow_keeps {s0 : State} {s : State} (p : ℕ) (h : Keeps s0 s) :
    Keeps s0 (State.powerNow s p) := by
  unfold State.powerNow
  extract_lets +onlyGivenNames x1
  have h1 : Keeps s0 x1.2
  · unfold x1
    refine State.computeTx_keeps _ ?_
    with_reducible assumption
  clear_value x1
  extract_lets +onlyGivenNames x6
  clear_value x6
  extract_lets +onlyGivenNames x7
  have h7 : Keeps s0 x7
  · unfold x7
    refine State.powerEdge_keeps _ _ ?_
    refine State.applyTx_keeps _ _ ?_
    with_reducible assumption
  clear_value x7
  refine State.setPath_keeps _ _ ?_
  with_reducible assumption

theorem State.powerLoop_keeps {s0 : State} {s : State} (p : ℕ) (pMeas : ℤ) (h : Keeps s0 s) :
    Keeps s0 (State.powerLoop s p pMeas) := by
  unfold State.powerLoop
  extract_lets +onlyGivenNames x0
  have h0 : Keeps s0 x0
  · unfold x0
    refine State.wrI_keeps _ _ _ _ ?_
    with_reducible assumption
  clear_value x0
  refine ite_ind ?_ ?_
  · with_reducible assumption
  · extract_lets +onlyGivenNames x3
    clear_value x3
    extract_lets +onlyGivenNames x4
    clear_value x4
    extract_lets +onlyGivenNames x5
    clear_value x5
    extract_lets +onlyGivenNames x8
    clear_value x8
    extract_lets +onlyGivenNames x9
    clear_value x9
    extract_lets +onlyGivenNames x10
    clear_value x10
    extract_lets +onlyGivenNames x11
    clear_value x11
    extract_lets +onlyGivenNames x12
    have h12 : Keeps s0 x12
    · unfold x12
      refine State.wrI_keeps _ _ _ _ ?_
      with_reducible assumption
    clear_value x12
    refine State.setPath_keeps _ _ ?_
    with_reducible assumption

theorem State.agcMeasure_keeps {s0 : State} {s : State} (p : ℕ) (level : ℤ) (clips : ℕ) (flex : Bool) (h : Keeps s0 s) :
    Keeps s0 (State.agcMeasure s p level clips flex) := by
  unfold State.agcMeasure
  refine ite_ind ?_ ?_
  · refine State.setPath_keeps _ _ ?_
    with_reducible assumption
  · with_reducible assumption

theorem State.gainAtTick_keeps {s0 : State} {s : State} (p : ℕ) (h : Keeps s0 s) :
    Keeps s0 (State.gainAtTick s p) := by
  unfold State.gainAtTick
  split
  · extract_lets +onlyGivenNames x16
    clear_value x16
    extract_lets +onlyGivenNames x17
    have h17 : Keeps s0 x17
    · unfold x17
      refine State.setPath_keeps _ _ ?_
      with_reducible assumption
    clear_value x17
    refine State.loopAt_keeps _ _ _ ?_
    refine State.wr_keeps _ _ _ ?_
    with_reducible assumption
  · with_reducible assumption

theorem State.mismatch_keeps {s0 : State} {s : State} (p : ℕ) (rl : ℤ) (h : Keeps s0 s) :
    Keeps s0 (State.mismatch s p rl) := by
  unfold State.mismatch
  extract_lets +onlyGivenNames x13
  clear_value x13
  extract_lets +onlyGivenNames x15
  clear_value x15
  extract_lets +onlyGivenNames x16
  refine ite_ind ?_ ?_
  · extract_lets +onlyGivenNames x24
    clear_value x24
    extract_lets +onlyGivenNames x26
    have h26 : Keeps s0 x26
    · unfold x26
      refine State.setPath_keeps _ _ ?_
      with_reducible assumption
    clear_value x26
    refine ite_ind ?_ ?_
    · with_reducible assumption
    · extract_lets +onlyGivenNames x33
      have h33 : Keeps s0 x33
      · unfold x33
        unfold x16
        refine State.raise_keeps _ _ _ ?_
        refine State.wr_keeps _ _ _ ?_
        with_reducible assumption
      clear_value x33
      extract_lets +onlyGivenNames x37
      clear_value x37
      extract_lets +onlyGivenNames x42
      have h42 : Keeps s0 x42
      · unfold x42
        refine State.setPath_keeps _ _ ?_
        with_reducible assumption
      clear_value x42
      refine ite_ind ?_ ?_
      · refine State.detectFault_keeps _ _ ?_
        with_reducible assumption
      · with_reducible assumption
  · refine ite_ind ?_ ?_
    · refine ite_ind ?_ ?_
      · refine State.setPath_keeps _ _ ?_
        with_reducible assumption
      · extract_lets +onlyGivenNames x45
        clear_value x45
        extract_lets +onlyGivenNames x46
        have h46 : Keeps s0 x46
        · unfold x46
          refine State.setPath_keeps _ _ ?_
          with_reducible assumption
        clear_value x46
        unfold x16
        refine State.raise_keeps _ _ _ ?_
        refine State.wr_keeps _ _ _ ?_
        with_reducible assumption
    · refine State.setPath_keeps _ _ ?_
      with_reducible assumption

theorem State.tunerLoop_keeps {s0 : State} {s : State} (p : ℕ) (pRef : ℤ) (h : Keeps s0 s) :
    Keeps s0 (State.tunerLoop s p pRef) := by
  unfold State.tunerLoop
  extract_lets +onlyGivenNames x14
  clear_value x14
  refine ite_ind ?_ ?_
  · refine State.setPath_keeps _ _ ?_
    with_reducible assumption
  · extract_lets +onlyGivenNames x18
    clear_value x18
    extract_lets +onlyGivenNames x23
    clear_value x23
    extract_lets +onlyGivenNames x25
    clear_value x25
    extract_lets +onlyGivenNames x27
    clear_value x27
    extract_lets +onlyGivenNames x28
    clear_value x28
    extract_lets +onlyGivenNames x29
    clear_value x29
    extract_lets +onlyGivenNames x32
    clear_value x32
    refine State.setPath_keeps _ _ ?_
    with_reducible assumption

theorem State.raisePathFault_keeps {s0 : State} {s : State} (p : ℕ) (reason : ℕ) (faulty : Bool) (led : Bool) (h : Keeps s0 s) :
    Keeps s0 (State.raisePathFault s p reason faulty led) := by
  unfold State.raisePathFault
  refine State.raiseAt_keeps _ _ _ _ _ ?_
  with_reducible assumption

theorem State.actOnFaults_keeps {s0 : State} {s : State} (h : Keeps s0 s) :
    Keeps s0 (State.actOnFaults s) := by
  unfold State.actOnFaults
  refine keeps_foldl ?_ ?_
  · intro a19 a20 h21
    extract_lets +onlyGivenNames x22
    clear_value x22
    refine ite_ind ?_ ?_
    · extract_lets +onlyGivenNames x31
      have h31 : Keeps s0 x31
      · unfold x31
        refine State.wr_keeps _ _ _ ?_
        with_reducible assumption
      clear_value x31
      extract_lets +onlyGivenNames x34
      clear_value x34
      extract_lets +onlyGivenNames x35
      have h35 : Keeps s0 x35
      · unfold x35
        refine State.setPath_keeps _ _ ?_
        with_reducible assumption
      clear_value x35
      refine State.raisePathFault_keeps _ _ _ _ ?_
      with_reducible assumption
    · with_reducible assumption
  · with_reducible assumption

theorem State.restorePath_keeps {s0 : State} {s : State} (p : ℕ) (h : Keeps s0 s) :
    Keeps s0 (State.restorePath s p) := by
  unfold State.restorePath
  extract_lets +onlyGivenNames x30
  clear_value x30
  refine ite_ind ?_ ?_
  · with_reducible assumption
  · extract_lets +onlyGivenNames x36
    have h36 : Keeps s0 x36
    · unfold x36
      refine State.wr_keeps _ _ _ ?_
      with_reducible assumption
    clear_value x36
    extract_lets +onlyGivenNames x43
    clear_value x43
    extract_lets +onlyGivenNames x44
    have h44 : Keeps s0 x44
    · unfold x44
      refine State.setPath_keeps _ _ ?_
      with_reducible assumption
    clear_value x44
    refine State.raisePathFault_keeps _ _ _ _ ?_
    with_reducible assumption

theorem State.retestFaults_keeps {s0 : State} {s : State} (bad : List ℕ) (h : Keeps s0 s) :
    Keeps s0 (State.retestFaults s bad) := by
  unfold State.retestFaults
  refine keeps_foldl ?_ ?_
  · intro a38 a39 h40
    extract_lets +onlyGivenNames x41
    clear_value x41
    refine ite_ind ?_ ?_
    · refine State.restorePath_keeps _ ?_
      with_reducible assumption
    · refine ite_ind ?_ ?_
      · refine ite_ind ?_ ?_
        · refine State.raisePathFault_keeps _ _ _ _ ?_
          refine State.setPath_keeps _ _ ?_
          with_reducible assumption
        · refine State.setPath_keeps _ _ ?_
          with_reducible assumption
      · refine ite_ind ?_ ?_
        · extract_lets +onlyGivenNames x47
          have h47 : Keeps s0 x47
          · unfold x47
            refine State.setPath_keeps _ _ ?_
            with_reducible assumption
          clear_value x47
          refine ite_ind ?_ ?_
          · refine State.restorePath_keeps _ ?_
            with_reducible assumption
          · with_reducible assumption
        · with_reducible assumption
  · with_reducible assumption

end Sys2Proof.Machine
end

