-- ==== Sys2Proof/Laws/KeepsMixer.lean ====
section
/-! SUPPORT. Every operation of Machine/Mixer.lean keeps the relation of Laws/Keeps.lean. -/
namespace Sys2Proof.Machine

theorem State.setFolioState_keeps {s0 : State} {s : State} (slot : ℕ) (st : ℕ) (h : Keeps s0 s) :
    Keeps s0 (State.setFolioState s slot st) := by
  unfold State.setFolioState
  refine ite_ind ?_ ?_
  · refine State.wr_keeps _ _ _ ?_
    with_reducible assumption
  · refine State.wr_keeps _ _ _ ?_
    with_reducible assumption

theorem State.raiseFolio_keeps {s0 : State} {s : State} (code : ℕ) (slot : ℕ) (data : ℕ) (h : Keeps s0 s) :
    Keeps s0 (State.raiseFolio s code slot data) := by
  unfold State.raiseFolio
  refine ite_ind ?_ ?_
  · refine State.raiseAt_keeps _ _ _ _ _ ?_
    with_reducible assumption
  · refine State.raiseAt_keeps _ _ _ _ _ ?_
    with_reducible assumption

theorem State.sealFolio_keeps {s0 : State} {s : State} (slot : ℕ) (h : Keeps s0 s) :
    Keeps s0 (State.sealFolio s slot) := by
  unfold State.sealFolio
  extract_lets +onlyGivenNames x0
  have h0 : Keeps s0 x0
  · unfold x0
    refine keeps_foldl ?_ ?_
    · intro a2 a3 h4
      refine State.meetUpset_keeps _ ?_
      with_reducible assumption
    · with_reducible assumption
  clear_value x0
  split
  · refine State.raiseFolio_keeps _ _ _ ?_
    refine State.setFolioState_keeps _ _ ?_
    with_reducible assumption
  · extract_lets +onlyGivenNames x5
    clear_value x5
    extract_lets +onlyGivenNames x0
    have h0 : Keeps s0 x0
    · unfold x0
      refine State.setFolioState_keeps _ _ ?_
      with_reducible assumption
    clear_value x0
    extract_lets +onlyGivenNames x6
    have h6 : Keeps s0 x6
    · unfold x6
      refine ite_ind ?_ ?_
      · refine State.setDom_keeps _ _ _ ?_
        with_reducible assumption
      · with_reducible assumption
    clear_value x6
    refine State.raiseFolio_keeps _ _ _ ?_
    with_reducible assumption

theorem State.folioSeal_keeps {s0 : State} {s : State} (slot : ℕ) (h : Keeps s0 s) :
    KeepsR s0 (State.folioSeal s slot) := by
  unfold State.folioSeal
  refine ite_ind ?_ ?_
  · exact keepsR_error
  · refine ite_ind ?_ ?_
    · exact keepsR_error
    · refine keepsR_ok ?_
      refine State.sealFolio_keeps _ ?_
      with_reducible assumption

theorem State.folioMismatch_keeps {s0 : State} {s : State} (v : State) (slot : ℕ) (target : ℕ) (h : Keeps s0 s) :
    Keeps s0 (State.folioMismatch s v slot target) := by
  unfold State.folioMismatch
  refine ite_ind ?_ ?_
  · extract_lets +onlyGivenNames x0
    extract_lets +onlyGivenNames x3
    have h3 : Keeps s0 x3
    · unfold x3
      refine keeps_mk ?_ rfl rfl rfl rfl rfl rfl rfl
      with_reducible assumption
    clear_value x3
    refine State.raiseFolio_keeps _ _ _ ?_
    with_reducible assumption
  · with_reducible assumption

theorem State.serveFolios_keeps {s0 : State} {s : State} (v : State) (prevUl : ℕ) (h : Keeps s0 s) :
    Keeps s0 (State.serveFolios s v prevUl) := by
  unfold State.serveFolios
  extract_lets +onlyGivenNames x3
  clear_value x3
  extract_lets +onlyGivenNames x0
  clear_value x0
  extract_lets +onlyGivenNames x2
  clear_value x2
  extract_lets +onlyGivenNames x0
  have h0 : Keeps s0 x0
  · unfold x0
    refine keeps_foldl ?_ ?_
    · intro a2 a3 h4
      extract_lets +onlyGivenNames x6
      clear_value x6
      refine ite_ind ?_ ?_
      · refine State.setFolioState_keeps _ _ ?_
        with_reducible assumption
      · refine ite_ind ?_ ?_
        · refine State.setFolioState_keeps _ _ ?_
          with_reducible assumption
        · with_reducible assumption
    · with_reducible assumption
  clear_value x0
  refine keeps_foldl ?_ ?_
  · intro a0 a1 h2
    refine ite_ind ?_ ?_
    · refine ite_ind ?_ ?_
      · refine State.setFolioState_keeps _ _ ?_
        with_reducible assumption
      · with_reducible assumption
    · refine ite_ind ?_ ?_
      · refine State.setFolioState_keeps _ _ ?_
        with_reducible assumption
      · with_reducible assumption
  · with_reducible assumption

theorem State.rejectSections_keeps {s0 : State} {s : State} (reason : ℕ) (n : ℕ) (h : Keeps s0 s) :
    Keeps s0 (State.rejectSections s reason n) := by
  unfold State.rejectSections
  refine ite_ind ?_ ?_
  · with_reducible assumption
  · refine State.raise_keeps _ _ _ ?_
    refine State.addCount_keeps _ _ _ ?_
    with_reducible assumption

theorem State.takeLayerDl_keeps {s0 : State} {s : State} (n : ℕ) (payload : List Byte) (h : Keeps s0 s) :
    Keeps s0 (State.takeLayerDl s n payload) := by
  unfold State.takeLayerDl
  refine ite_ind ?_ ?_
  · refine State.bump_keeps _ _ ?_
    with_reducible assumption
  · split
    refine ite_ind ?_ ?_
    · refine State.addCount_keeps _ _ _ ?_
      with_reducible assumption
    · refine ite_ind ?_ ?_
      · extract_lets +onlyGivenNames x1
        have h1 : Keeps s0 x1
        · unfold x1
          refine State.addCount_keeps _ _ _ ?_
          with_reducible assumption
        clear_value x1
        refine ite_ind ?_ ?_
        · refine State.rejectSections_keeps _ _ ?_
          with_reducible assumption
        · with_reducible assumption
      · refine keeps_mk ?_ rfl rfl rfl rfl rfl rfl rfl
        with_reducible assumption

theorem State.judgeDl_keeps {s0 : State} {s : State} (n : ℕ) (secs : List SectionRec) (cut : ℕ) (h : Keeps s0 s) :
    Keeps s0 (State.judgeDl s n secs cut) := by
  unfold State.judgeDl
  extract_lets +onlyGivenNames x0
  have h0 : Keeps s0 x0
  · unfold x0
    refine State.viewAt_keeps _ ?_
    with_reducible assumption
  clear_value x0
  extract_lets +onlyGivenNames x0
  clear_value x0
  extract_lets +onlyGivenNames x3
  clear_value x3
  extract_lets +onlyGivenNames x0
  have h0 : Keeps s0 x0
  · unfold x0
    refine State.rejectSections_keeps _ _ ?_
    refine State.rejectSections_keeps _ _ ?_
    refine State.rejectSections_keeps _ _ ?_
    refine State.rejectSections_keeps _ _ ?_
    with_reducible assumption
  clear_value x0
  extract_lets +onlyGivenNames x0
  clear_value x0
  extract_lets +onlyGivenNames x0
  have h0 : Keeps s0 x0
  · unfold x0
    refine ite_ind ?_ ?_
    · refine State.raise_keeps _ _ _ ?_
      refine State.bump_keeps _ _ ?_
      with_reducible assumption
    · with_reducible assumption
  clear_value x0
  extract_lets +onlyGivenNames x6
  clear_value x6
  refine keeps_mk ?_ rfl rfl rfl rfl rfl rfl rfl
  with_reducible assumption

theorem State.dlCutoff_keeps {s0 : State} {s : State} (h : Keeps s0 s) :
    Keeps s0 (State.dlCutoff s) := by
  unfold State.dlCutoff
  extract_lets +onlyGivenNames x0
  clear_value x0
  refine ite_ind ?_ ?_
  · extract_lets +onlyGivenNames x0
    clear_value x0
    extract_lets +onlyGivenNames x3
    clear_value x3
    extract_lets +onlyGivenNames x6
    extract_lets +onlyGivenNames x0
    have h0 : Keeps s0 x0
    · unfold x0
      refine keeps_mk ?_ rfl rfl rfl rfl rfl rfl rfl
      with_reducible assumption
    clear_value x0
    refine State.judgeDl_keeps _ _ _ ?_
    with_reducible assumption
  · with_reducible assumption

theorem State.observeReplay_keeps {s0 : State} {s : State} (n : ℕ) (h : Keeps s0 s) :
    Keeps s0 (State.observeReplay s n) := by
  unfold State.observeReplay
  extract_lets +onlyGivenNames x2
  clear_value x2
  extract_lets +onlyGivenNames x1
  clear_value x1
  extract_lets +onlyGivenNames x3
  clear_value x3
  extract_lets +onlyGivenNames x1
  clear_value x1
  extract_lets +onlyGivenNames x5
  have h5 : Keeps s0 x5
  · unfold x5
    refine State.settle_keeps _ _ ?_
    with_reducible assumption
  clear_value x5
  extract_lets +onlyGivenNames x9
  clear_value x9
  extract_lets +onlyGivenNames x14
  have h14 : Keeps s0 x14
  · unfold x14
    refine ite_ind ?_ ?_
    · with_reducible assumption
    · refine State.settle_keeps _ _ ?_
      with_reducible assumption
  clear_value x14
  extract_lets +onlyGivenNames x20
  clear_value x20
  extract_lets +onlyGivenNames x21
  clear_value x21
  extract_lets +onlyGivenNames x24
  clear_value x24
  extract_lets +onlyGivenNames x25
  clear_value x25
  extract_lets +onlyGivenNames x26
  have h26 : Keeps s0 x26
  · unfold x26
    refine keeps_foldl ?_ ?_
    · intro a28 a29 h30
      refine State.consumePoison_keeps _ ?_
      with_reducible assumption
    · with_reducible assumption
  clear_value x26
  extract_lets +onlyGivenNames x31
  extract_lets +onlyGivenNames x32
  have h32 : Keeps s0 x32
  · unfold x32
    refine keeps_mk ?_ rfl rfl rfl rfl rfl rfl rfl
    with_reducible assumption
  clear_value x32
  refine State.judgeDl_keeps _ _ _ ?_
  with_reducible assumption

theorem State.folioUpsets_keeps {s0 : State} {s : State} (slot : ℕ) (h : Keeps s0 s) :
    Keeps s0 (State.folioUpsets s slot) := by
  unfold State.folioUpsets
  extract_lets +onlyGivenNames x6
  clear_value x6
  extract_lets +onlyGivenNames x0
  clear_value x0
  refine keeps_foldl ?_ ?_
  · intro a2 a3 h4
    refine State.meetUpset_keeps _ ?_
    with_reducible assumption
  · with_reducible assumption

theorem State.mixPoison_keeps {s0 : State} {s : State} (sub : ℕ) (bad : List (ℕ × ℕ)) (h : Keeps s0 s) :
    Keeps s0 (State.mixPoison s sub bad) := by
  unfold State.mixPoison
  refine ite_ind ?_ ?_
  · with_reducible assumption
  · extract_lets +onlyGivenNames x7
    have h7 : Keeps s0 x7
    · unfold x7
      refine State.bump_keeps _ _ ?_
      with_reducible assumption
    clear_value x7
    refine keeps_foldl ?_ ?_
    · intro a15 a16 h17
      extract_lets +onlyGivenNames x18
      clear_value x18
      extract_lets +onlyGivenNames x19
      have h19 : Keeps s0 x19
      · unfold x19
        refine State.consumePoison_keeps _ ?_
        with_reducible assumption
      clear_value x19
      refine ite_ind ?_ ?_
      · with_reducible assumption
      · extract_lets +onlyGivenNames x22
        extract_lets +onlyGivenNames x23
        have h23 : Keeps s0 x23
        · unfold x23
          refine keeps_mk ?_ rfl rfl rfl rfl rfl rfl rfl
          with_reducible assumption
        clear_value x23
        refine State.raise_keeps _ _ _ ?_
        with_reducible assumption
    · with_reducible assumption

theorem State.mixSaturated_keeps {s0 : State} {s : State} (dir : ℕ) (n : ℕ) (h : Keeps s0 s) :
    Keeps s0 (State.mixSaturated s dir n) := by
  unfold State.mixSaturated
  refine ite_ind ?_ ?_
  · with_reducible assumption
  · extract_lets +onlyGivenNames x8
    have h8 : Keeps s0 x8
    · unfold x8
      refine State.addCount_keeps _ _ _ ?_
      with_reducible assumption
    clear_value x8
    refine keeps_mk ?_ rfl rfl rfl rfl rfl rfl rfl
    with_reducible assumption

theorem State.mixSatReport_keeps {s0 : State} {s : State} (h : Keeps s0 s) :
    Keeps s0 (State.mixSatReport s) := by
  unfold State.mixSatReport
  extract_lets +onlyGivenNames x6
  have h6 : Keeps s0 x6
  · unfold x6
    refine keeps_foldl ?_ ?_
    · intro a10 a11 h12
      extract_lets +onlyGivenNames x13
      refine ite_ind ?_ ?_
      · with_reducible assumption
      · refine State.raise_keeps _ _ _ ?_
        with_reducible assumption
    · with_reducible assumption
  clear_value x6
  refine keeps_mk ?_ rfl rfl rfl rfl rfl rfl rfl
  with_reducible assumption

theorem State.mixReportedPrune_keeps {s0 : State} {s : State} (h : Keeps s0 s) :
    Keeps s0 (State.mixReportedPrune s) := by
  unfold State.mixReportedPrune
  refine keeps_mk ?_ rfl rfl rfl rfl rfl rfl rfl
  with_reducible assumption

theorem State.dlPass_keeps {s0 : State} {s : State} (n : ℕ) (h : Keeps s0 s) :
    Keeps s0 (State.dlPass s n) := by
  unfold State.dlPass
  split
  · refine keeps_mk ?_ rfl rfl rfl rfl rfl rfl rfl
    with_reducible assumption
  · extract_lets +onlyGivenNames x33
    have h33 : Keeps s0 x33
    · unfold x33
      refine State.airAt_keeps _ ?_
      with_reducible assumption
    clear_value x33
    extract_lets +onlyGivenNames x36
    clear_value x36
    extract_lets +onlyGivenNames x37
    clear_value x37
    extract_lets +onlyGivenNames x40
    have h40 : Keeps s0 x40
    · unfold x40
      split
      · refine State.folioUpsets_keeps _ ?_
        with_reducible assumption
      · with_reducible assumption
    clear_value x40
    extract_lets +onlyGivenNames x50
    have h50 : Keeps s0 x50
    · unfold x50
      refine keeps_foldl ?_ ?_
      · intro a55 a56 h57
        refine State.folioUpsets_keeps _ ?_
        with_reducible assumption
      · with_reducible assumption
    clear_value x50
    extract_lets +onlyGivenNames x58
    clear_value x58
    extract_lets +onlyGivenNames x60
    clear_value x60
    extract_lets +onlyGivenNames x66
    have h66 : Keeps s0 x66
    · unfold x66
      refine State.mixPoison_keeps _ _ ?_
      with_reducible assumption
    clear_value x66
    extract_lets +onlyGivenNames x67
    clear_value x67
    extract_lets +onlyGivenNames x70
    clear_value x70
    extract_lets +onlyGivenNames x73
    clear_value x73
    extract_lets +onlyGivenNames x74
    have h74 : Keeps s0 x74
    · unfold x74
      refine State.mixSaturated_keeps _ _ ?_
      with_reducible assumption
    clear_value x74
    extract_lets +onlyGivenNames x76
    clear_value x76
    refine keeps_mk ?_ rfl rfl rfl rfl rfl rfl rfl
    with_reducible assumption

theorem State.sendPacket_keeps {s0 : State} {s : State} (port : ℕ) (p : OutPacket) (h : Keeps s0 s) :
    Keeps s0 (State.sendPacket s port p) := by
  unfold State.sendPacket
  refine keeps_mk ?_ rfl rfl rfl rfl rfl rfl rfl
  with_reducible assumption

theorem State.emitSection_keeps {s0 : State} {s : State} (u : UlSection) (h : Keeps s0 s) :
    Keeps s0 (State.emitSection s u) := by
  unfold State.emitSection
  extract_lets +onlyGivenNames x27
  extract_lets +onlyGivenNames x31
  have h31 : Keeps s0 x31
  · unfold x31
    refine keeps_mk ?_ rfl rfl rfl rfl rfl rfl rfl
    with_reducible assumption
  refine ite_ind ?_ ?_
  · refine ite_ind ?_ ?_
    · with_reducible assumption
    · extract_lets +onlyGivenNames x43
      clear_value x43
      extract_lets +onlyGivenNames x46
      clear_value x46
      extract_lets +onlyGivenNames x49
      clear_value x49
      extract_lets +onlyGivenNames x54
      clear_value x54
      refine ite_ind ?_ ?_
      · extract_lets +onlyGivenNames x59
        extract_lets +onlyGivenNames x61
        have h61 : Keeps s0 x61
        · unfold x61
          refine keeps_mk ?_ rfl rfl rfl rfl rfl rfl rfl
          with_reducible assumption
        clear_value x61
        refine State.raise_keeps _ _ _ ?_
        with_reducible assumption
      · extract_lets +onlyGivenNames x69
        have h69 : Keeps s0 x69
        · unfold x69
          refine State.placeBytes_keeps _ _ _ ?_
          with_reducible assumption
        clear_value x69
        refine keeps_mk ?_ rfl rfl rfl rfl rfl rfl rfl
        with_reducible assumption
  · refine State.sendPacket_keeps _ _ ?_
    with_reducible assumption

theorem State.ownSection_keeps {s0 : State} {s : State} (u : UlSection) (h : Keeps s0 s) :
    Keeps s0 (State.ownSection s u) := by
  unfold State.ownSection
  refine ite_ind ?_ ?_
  · refine State.emitSection_keeps _ ?_
    with_reducible assumption
  · refine keeps_mk ?_ rfl rfl rfl rfl rfl rfl rfl
    with_reducible assumption

theorem State.takePartial_keeps {s0 : State} {s : State} (prach : Bool) (epoch : ℕ) (pos : ℕ) (payload : List Byte) (h : Keeps s0 s) :
    Keeps s0 (State.takePartial s prach epoch pos payload) := by
  unfold State.takePartial
  extract_lets +onlyGivenNames x34
  clear_value x34
  extract_lets +onlyGivenNames x35
  clear_value x35
  split
  · extract_lets +onlyGivenNames x38
    clear_value x38
    extract_lets +onlyGivenNames x41
    extract_lets +onlyGivenNames x42
    have h42 : Keeps s0 x42
    · unfold x42
      refine keeps_mk ?_ rfl rfl rfl rfl rfl rfl rfl
      with_reducible assumption
    clear_value x42
    extract_lets +onlyGivenNames x47
    have h47 : Keeps s0 x47
    · unfold x47
      refine State.mixSaturated_keeps _ _ ?_
      with_reducible assumption
    clear_value x47
    refine State.emitSection_keeps _ ?_
    with_reducible assumption
  · refine ite_ind ?_ ?_
    · refine State.bump_keeps _ _ ?_
      with_reducible assumption
    · refine State.bump_keeps _ _ ?_
      with_reducible assumption

theorem State.ulDeadline_keeps {s0 : State} {s : State} (h : Keeps s0 s) :
    Keeps s0 (State.ulDeadline s) := by
  unfold State.ulDeadline
  extract_lets +onlyGivenNames x39
  clear_value x39
  extract_lets +onlyGivenNames x44
  extract_lets +onlyGivenNames x45
  have h45 : Keeps s0 x45
  · unfold x45
    refine keeps_mk ?_ rfl rfl rfl rfl rfl rfl rfl
    with_reducible assumption
  clear_value x45
  extract_lets +onlyGivenNames x48
  have h48 : Keeps s0 x48
  · unfold x48
    refine keeps_foldl ?_ ?_
    · intro a51 a52 h53
      refine State.emitSection_keeps _ ?_
      refine State.bump_keeps _ _ ?_
      with_reducible assumption
    · with_reducible assumption
  clear_value x48
  refine keeps_foldl ?_ ?_
  · intro a79 a80 h81
    refine State.raise_keeps _ _ _ ?_
    with_reducible assumption
  · with_reducible assumption

theorem State.prachPass_keeps {s0 : State} {s : State} (e : ℕ) (rx : List (ℕ × ℕ × Cplx)) (h : Keeps s0 s) :
    Keeps s0 (State.prachPass s e rx).1 := by
  unfold State.prachPass
  refine keeps_foldl_fst ?_ ?_
  · intro a62 a63 h64
    extract_lets +onlyGivenNames x65
    have h65 : Keeps s0 x65
    · unfold x65
      with_reducible assumption
    clear_value x65
    split
    · with_reducible assumption
    · split
      · extract_lets +onlyGivenNames x91
        have h91 : Keeps s0 x91
        · unfold x91
          refine State.bump_keeps _ _ ?_
          with_reducible assumption
        clear_value x91
        dsimp -zeta only
        refine State.raise_keeps _ _ _ ?_
        with_reducible assumption
      · extract_lets +onlyGivenNames x92
        clear_value x92
        extract_lets +onlyGivenNames x93
        clear_value x93
        extract_lets +onlyGivenNames x94
        have h94 : Keeps s0 x94
        · unfold x94
          refine ite_ind ?_ ?_
          · refine State.folioUpsets_keeps _ ?_
            with_reducible assumption
          · with_reducible assumption
        clear_value x94
        extract_lets +onlyGivenNames x95
        clear_value x95
        extract_lets +onlyGivenNames x96
        clear_value x96
        extract_lets +onlyGivenNames x97
        clear_value x97
        extract_lets +onlyGivenNames x98
        clear_value x98
        extract_lets +onlyGivenNames x99
        have h99 : Keeps s0 x99
        · unfold x99
          refine keeps_foldl ?_ ?_
          · intro a100 a101 h102
            extract_lets +onlyGivenNames x103
            clear_value x103
            extract_lets +onlyGivenNames x104
            have h104 : Keeps s0 x104
            · unfold x104
              refine State.mixSaturated_keeps _ _ ?_
              with_reducible assumption
            clear_value x104
            refine State.ownSection_keeps _ ?_
            with_reducible assumption
          · with_reducible assumption
        clear_value x99
        with_reducible assumption
  · with_reducible assumption

theorem State.ulPass_keeps {s0 : State} {s : State} (e : ℕ) (rx : List (ℕ × ℕ × Cplx)) (h : Keeps s0 s) :
    Keeps s0 (State.ulPass s e rx) := by
  unfold State.ulPass
  refine ite_ind ?_ ?_
  · with_reducible assumption
  · extract_lets +onlyGivenNames x68
    clear_value x68
    extract_lets +onlyGivenNames x71
    clear_value x71
    extract_lets +onlyGivenNames x72
    have h72 : Keeps s0 x72
    · unfold x72
      split
      · refine State.folioUpsets_keeps _ ?_
        with_reducible assumption
      · with_reducible assumption
    clear_value x72
    extract_lets +onlyGivenNames x75
    clear_value x75
    extract_lets +onlyGivenNames x77
    clear_value x77
    extract_lets +onlyGivenNames x78
    clear_value x78
    extract_lets +onlyGivenNames x82
    clear_value x82
    extract_lets +onlyGivenNames x83
    have h83 : Keeps s0 x83
    · unfold x83
      refine keeps_foldl ?_ ?_
      · intro a84 a85 h86
        extract_lets +onlyGivenNames x87
        clear_value x87
        extract_lets +onlyGivenNames x88
        clear_value x88
        extract_lets +onlyGivenNames x89
        have h89 : Keeps s0 x89
        · unfold x89
          refine State.mixSaturated_keeps _ _ ?_
          with_reducible assumption
        clear_value x89
        refine State.ownSection_keeps _ ?_
        with_reducible assumption
      · with_reducible assumption
    clear_value x83
    extract_lets +onlyGivenNames x90
    have h90 : Keeps s0 x90.1
    · unfold x90
      refine State.prachPass_keeps _ _ ?_
      with_reducible assumption
    clear_value x90
    refine State.mixPoison_keeps _ _ ?_
    with_reducible assumption

end Sys2Proof.Machine
end

