-- ==== Sys2Proof/Laws/KeepsLineariser.lean ====
section
/-! SUPPORT. Every operation of Machine/Lineariser.lean keeps the relation of Laws/Keeps.lean. -/
namespace Sys2Proof.Machine

theorem State.setLinPath_keeps {s0 : State} {s : State} (p : ℕ) (v : LinPath) (h : Keeps s0 s) :
    Keeps s0 (State.setLinPath s p v) := by
  unfold State.setLinPath
  refine keeps_mk ?_ rfl rfl rfl rfl rfl rfl rfl
  with_reducible assumption

theorem State.setObs_keeps {s0 : State} {s : State} (c : ℕ) (v : ObsSys) (h : Keeps s0 s) :
    Keeps s0 (State.setObs s c v) := by
  unfold State.setObs
  refine keeps_mk ?_ rfl rfl rfl rfl rfl rfl rfl
  with_reducible assumption

theorem State.setLinTables_keeps {s0 : State} {s : State} (p : ℕ) (t : Tab Cplx) (h : Keeps s0 s) :
    Keeps s0 (State.setLinTables s p t) := by
  unfold State.setLinTables
  extract_lets +onlyGivenNames x0
  clear_value x0
  extract_lets +onlyGivenNames x1
  clear_value x1
  extract_lets +onlyGivenNames x2
  clear_value x2
  extract_lets +onlyGivenNames x0
  extract_lets +onlyGivenNames x4
  have h4 : Keeps s0 x4
  · unfold x4
    refine keeps_mk ?_ rfl rfl rfl rfl rfl rfl rfl
    with_reducible assumption
  clear_value x4
  refine State.setLinPath_keeps _ _ ?_
  with_reducible assumption

theorem State.commitLinTables_keeps {s0 : State} {s : State} (v : List Byte) (h : Keeps s0 s) :
    Keeps s0 (State.commitLinTables s v) := by
  unfold State.commitLinTables
  refine keeps_foldl ?_ ?_
  · intro a1 a2 h3
    extract_lets +onlyGivenNames x5
    have h5 : Keeps s0 x5
    · unfold x5
      refine State.setLinTables_keeps _ _ ?_
      with_reducible assumption
    clear_value x5
    extract_lets +onlyGivenNames x3
    have h3 : Keeps s0 x3
    · unfold x3
      refine State.wrBit_keeps _ _ _ _ ?_
      with_reducible assumption
    clear_value x3
    refine State.setLinPath_keeps _ _ ?_
    with_reducible assumption
  · with_reducible assumption

theorem State.resetLinTables_keeps {s0 : State} {s : State} (h : Keeps s0 s) :
    Keeps s0 (State.resetLinTables s) := by
  unfold State.resetLinTables
  refine keeps_foldl ?_ ?_
  · intro a6 a7 h8
    extract_lets +onlyGivenNames x10
    have h10 : Keeps s0 x10
    · unfold x10
      refine State.setLinTables_keeps _ _ ?_
      with_reducible assumption
    clear_value x10
    refine State.setLinPath_keeps _ _ ?_
    with_reducible assumption
  · with_reducible assumption

theorem State.linPass_keeps {s0 : State} {s : State} (runs : Tab (List Cplx)) (h : Keeps s0 s) :
    Keeps s0 (State.linPass s runs) := by
  unfold State.linPass
  refine keeps_foldl ?_ ?_
  · intro a0 a1 h2
    extract_lets +onlyGivenNames x4
    clear_value x4
    extract_lets +onlyGivenNames x5
    clear_value x5
    extract_lets +onlyGivenNames x7
    have h7 : Keeps s0 x7
    · unfold x7
      refine State.addCount_keeps _ _ _ ?_
      with_reducible assumption
    clear_value x7
    refine keeps_mk ?_ rfl rfl rfl rfl rfl rfl rfl
    with_reducible assumption
  · refine keeps_mk ?_ rfl rfl rfl rfl rfl rfl rfl
    with_reducible assumption

theorem State.linSatReport_keeps {s0 : State} {s : State} (h : Keeps s0 s) :
    Keeps s0 (State.linSatReport s) := by
  unfold State.linSatReport
  extract_lets +onlyGivenNames x6
  have h6 : Keeps s0 x6
  · unfold x6
    refine keeps_foldl ?_ ?_
    · intro a8 a9 h10
      refine State.raise_keeps _ _ _ ?_
      with_reducible assumption
    · with_reducible assumption
  clear_value x6
  refine keeps_mk ?_ rfl rfl rfl rfl rfl rfl rfl
  with_reducible assumption

theorem State.setFbsel_keeps {s0 : State} {s : State} (tile : ℕ) (code : ℕ) (h : Keeps s0 s) :
    Keeps s0 (State.setFbsel s tile code) := by
  unfold State.setFbsel
  refine keeps_mk ?_ rfl rfl rfl rfl rfl rfl rfl
  with_reducible assumption

theorem State.stepEmpty_keeps {s0 : State} {s : State} (p : ℕ) (h : Keeps s0 s) :
    Keeps s0 (State.stepEmpty s p) := by
  unfold State.stepEmpty
  refine State.bump_keeps _ _ ?_
  with_reducible assumption

theorem State.endStep_keeps {s0 : State} {s : State} (r : ℕ) (h : Keeps s0 s) :
    Keeps s0 (State.endStep s r) := by
  unfold State.endStep
  split
  · extract_lets +onlyGivenNames x1
    clear_value x1
    extract_lets +onlyGivenNames x2
    have h2 : Keeps s0 x2
    · unfold x2
      refine State.setObs_keeps _ _ ?_
      with_reducible assumption
    clear_value x2
    refine State.freeLease_keeps _ ?_
    refine State.setFbsel_keeps _ _ ?_
    with_reducible assumption
  · with_reducible assumption

theorem State.startCycle_keeps {s0 : State} {s : State} (c : ℕ) (h : Keeps s0 s) :
    Keeps s0 (State.startCycle s c) := by
  unfold State.startCycle
  extract_lets +onlyGivenNames x0
  have h0 : Keeps s0 x0
  · unfold x0
    refine State.endStep_keeps _ ?_
    with_reducible assumption
  clear_value x0
  refine State.setObs_keeps _ _ ?_
  with_reducible assumption

theorem State.shareLost_keeps {s0 : State} {s : State} (r : ℕ) (h : Keeps s0 s) :
    Keeps s0 (State.shareLost s r) := by
  unfold State.shareLost
  refine keeps_foldl ?_ ?_
  · intro a0 a1 h2
    refine State.raise_keeps _ _ _ ?_
    refine State.wr_keeps _ _ _ ?_
    refine State.setObs_keeps _ _ ?_
    with_reducible assumption
  · with_reducible assumption

theorem State.obsFails_keeps {s0 : State} {s : State} (c : ℕ) (h : Keeps s0 s) :
    Keeps s0 (State.obsFails s c) := by
  unfold State.obsFails
  refine ite_ind ?_ ?_
  · with_reducible assumption
  · extract_lets +onlyGivenNames x0
    clear_value x0
    extract_lets +onlyGivenNames x1
    clear_value x1
    extract_lets +onlyGivenNames x3
    clear_value x3
    extract_lets +onlyGivenNames x0
    clear_value x0
    extract_lets +onlyGivenNames x2
    have h2 : Keeps s0 x2
    · unfold x2
      refine State.setObs_keeps _ _ ?_
      with_reducible assumption
    clear_value x2
    extract_lets +onlyGivenNames x1
    have h1 : Keeps s0 x1
    · unfold x1
      refine State.shareLost_keeps _ ?_
      with_reducible assumption
    clear_value x1
    refine State.raise_keeps _ _ _ ?_
    with_reducible assumption

theorem State.shareAtSlot_keeps {s0 : State} {s : State} (h : Keeps s0 s) :
    Keeps s0 (State.shareAtSlot s) := by
  unfold State.shareAtSlot
  refine keeps_foldl ?_ ?_
  · intro a1 a2 h3
    split
    · refine State.startCycle_keeps _ ?_
      refine State.wr_keeps _ _ _ ?_
      refine State.setObs_keeps _ _ ?_
      with_reducible assumption
    · with_reducible assumption
  · with_reducible assumption

theorem State.countStep_keeps {s0 : State} {s : State} (r : ℕ) (n : ℕ) (h : Keeps s0 s) :
    Keeps s0 (State.countStep s r n) := by
  unfold State.countStep
  refine State.setObs_keeps _ _ ?_
  with_reducible assumption

theorem State.observationStep_keeps {s0 : State} {s : State} (r : ℕ) (selfCheck : Bool) (h : Keeps s0 s) :
    Keeps s0 (State.observationStep s r selfCheck) := by
  unfold State.observationStep
  extract_lets +onlyGivenNames x5
  clear_value x5
  extract_lets +onlyGivenNames x3
  clear_value x3
  refine ite_ind ?_ ?_
  · with_reducible assumption
  · refine ite_ind ?_ ?_
    · with_reducible assumption
    · extract_lets +onlyGivenNames x0
      have h0 : Keeps s0 x0
      · unfold x0
        split
        · refine State.endStep_keeps _ ?_
          refine ite_ind ?_ ?_
          · refine State.stepEmpty_keeps _ ?_
            with_reducible assumption
          · with_reducible assumption
        · with_reducible assumption
      clear_value x0
      extract_lets +onlyGivenNames x0
      have h0 : Keeps s0 x0
      · unfold x0
        refine ite_ind ?_ ?_
        · refine State.obsFails_keeps _ ?_
          with_reducible assumption
        · with_reducible assumption
      clear_value x0
      extract_lets +onlyGivenNames x1
      have h1 : Keeps s0 x1
      · unfold x1
        refine State.countStep_keeps _ _ ?_
        with_reducible assumption
      clear_value x1
      split
      · refine ite_ind ?_ ?_
        · refine State.stepEmpty_keeps _ ?_
          with_reducible assumption
        · with_reducible assumption
      · refine ite_ind ?_ ?_
        · refine State.stepEmpty_keeps _ ?_
          with_reducible assumption
        · extract_lets +onlyGivenNames x11
          have h11 : Keeps s0 x11
          · unfold x11
            refine State.takeLease_keeps _ _ _ _ ?_
            with_reducible assumption
          clear_value x11
          extract_lets +onlyGivenNames x16
          have h16 : Keeps s0 x16
          · unfold x16
            refine State.setFbsel_keeps _ _ ?_
            with_reducible assumption
          clear_value x16
          refine State.setObs_keeps _ _ ?_
          with_reducible assumption

theorem State.judgePower_keeps {s0 : State} {s : State} (p : ℕ) (pMeas : ℤ) (h : Keeps s0 s) :
    Keeps s0 (State.judgePower s p pMeas) := by
  unfold State.judgePower
  refine ite_ind ?_ ?_
  · with_reducible assumption
  · extract_lets +onlyGivenNames x0
    clear_value x0
    extract_lets +onlyGivenNames x1
    clear_value x1
    extract_lets +onlyGivenNames x2
    clear_value x2
    extract_lets +onlyGivenNames x4
    have h4 : Keeps s0 x4
    · unfold x4
      refine State.setPath_keeps _ _ ?_
      with_reducible assumption
    clear_value x4
    refine ite_ind ?_ ?_
    · refine State.detectFault_keeps _ _ ?_
      with_reducible assumption
    · with_reducible assumption

theorem State.forwardDone_keeps {s0 : State} {s : State} (r : ℕ) (pFbin : ℤ) (d : ℤ) (oneCode : Bool) (samples : List Byte) (h : Keeps s0 s) :
    Keeps s0 (State.forwardDone s r pFbin d oneCode samples) := by
  unfold State.forwardDone
  split
  · with_reducible assumption
  · extract_lets +onlyGivenNames x3
    clear_value x3
    refine ite_ind ?_ ?_
    · refine State.obsFails_keeps _ ?_
      refine State.endStep_keeps _ ?_
      refine State.stepEmpty_keeps _ ?_
      with_reducible assumption
    · refine ite_ind ?_ ?_
      · with_reducible assumption
      · extract_lets +onlyGivenNames x0
        clear_value x0
        extract_lets +onlyGivenNames x0
        clear_value x0
        extract_lets +onlyGivenNames x2
        have h2 : Keeps s0 x2
        · unfold x2
          refine State.ownBytes_keeps _ _ ?_
          refine State.ownBytes_keeps _ _ ?_
          with_reducible assumption
        clear_value x2
        extract_lets +onlyGivenNames x4
        clear_value x4
        extract_lets +onlyGivenNames x5
        have h5 : Keeps s0 x5
        · unfold x5
          refine State.setLinPath_keeps _ _ ?_
          with_reducible assumption
        clear_value x5
        extract_lets +onlyGivenNames x7
        clear_value x7
        extract_lets +onlyGivenNames x8
        have h8 : Keeps s0 x8
        · unfold x8
          refine State.setObs_keeps _ _ ?_
          with_reducible assumption
        clear_value x8
        extract_lets +onlyGivenNames x9
        have h9 : Keeps s0 x9
        · unfold x9
          refine State.setFbsel_keeps _ _ ?_
          with_reducible assumption
        clear_value x9
        extract_lets +onlyGivenNames x13
        clear_value x13
        refine ite_ind ?_ ?_
        · with_reducible assumption
        · refine State.powerLoop_keeps _ _ ?_
          refine State.judgePower_keeps _ _ ?_
          with_reducible assumption

theorem State.reflectedDone_keeps {s0 : State} {s : State} (r : ℕ) (pRef : ℤ) (d : ℤ) (h : Keeps s0 s) :
    Keeps s0 (State.reflectedDone s r pRef d) := by
  unfold State.reflectedDone
  split
  · extract_lets +onlyGivenNames x10
    clear_value x10
    extract_lets +onlyGivenNames x12
    clear_value x12
    extract_lets +onlyGivenNames x14
    have h14 : Keeps s0 x14
    · unfold x14
      refine State.mismatch_keeps _ _ ?_
      refine State.wrI_keeps _ _ _ _ ?_
      with_reducible assumption
    clear_value x14
    extract_lets +onlyGivenNames x19
    have h19 : Keeps s0 x19
    · unfold x19
      refine ite_ind ?_ ?_
      · with_reducible assumption
      · refine ite_ind ?_ ?_
        · with_reducible assumption
        · refine State.tunerLoop_keeps _ _ ?_
          with_reducible assumption
    clear_value x19
    refine State.endStep_keeps _ ?_
    with_reducible assumption
  · with_reducible assumption

theorem State.linDiscard_keeps {s0 : State} {s : State} (p : ℕ) (h : Keeps s0 s) :
    Keeps s0 (State.linDiscard s p) := by
  unfold State.linDiscard
  refine State.bump_keeps _ _ ?_
  with_reducible assumption

theorem State.linQuality_keeps {s0 : State} {s : State} (p : ℕ) (nmse : ℤ) (h : Keeps s0 s) :
    Keeps s0 (State.linQuality s p nmse) := by
  unfold State.linQuality
  extract_lets +onlyGivenNames x3
  clear_value x3
  refine ite_ind ?_ ?_
  · refine State.setLinPath_keeps _ _ ?_
    with_reducible assumption
  · extract_lets +onlyGivenNames x6
    have h6 : Keeps s0 x6
    · unfold x6
      refine State.setLinPath_keeps _ _ ?_
      with_reducible assumption
    clear_value x6
    refine ite_ind ?_ ?_
    · refine State.raise_keeps _ _ _ ?_
      with_reducible assumption
    · with_reducible assumption

theorem State.linRevert_keeps {s0 : State} {s : State} (p : ℕ) (before : ℤ) (nmse : ℤ) (h : Keeps s0 s) :
    Keeps s0 (State.linRevert s p before nmse) := by
  unfold State.linRevert
  extract_lets +onlyGivenNames x15
  clear_value x15
  extract_lets +onlyGivenNames x17
  clear_value x17
  extract_lets +onlyGivenNames x18
  have h18 : Keeps s0 x18
  · unfold x18
    refine State.raise_keeps _ _ _ ?_
    with_reducible assumption
  clear_value x18
  extract_lets +onlyGivenNames x20
  have h20 : Keeps s0 x20
  · unfold x20
    refine State.wrBit_keeps _ _ _ _ ?_
    with_reducible assumption
  clear_value x20
  extract_lets +onlyGivenNames x21
  have h21 : Keeps s0 x21
  · unfold x21
    refine State.setLinPath_keeps _ _ ?_
    with_reducible assumption
  clear_value x21
  refine ite_ind ?_ ?_
  · extract_lets +onlyGivenNames x23
    have h23 : Keeps s0 x23
    · unfold x23
      refine State.wrBit_keeps _ _ _ _ ?_
      with_reducible assumption
    clear_value x23
    refine State.raise_keeps _ _ _ ?_
    with_reducible assumption
  · with_reducible assumption

theorem State.linReady_keeps {s0 : State} {s : State} (p : ℕ) (nmse : ℤ) (aclr : ℤ) (cands : List (Tab Cplx)) (coefs : List Byte) (h : Keeps s0 s) :
    Keeps s0 (State.linReady s p nmse aclr cands coefs) := by
  unfold State.linReady
  extract_lets +onlyGivenNames x22
  clear_value x22
  split
  · with_reducible assumption
  · extract_lets +onlyGivenNames x25
    have h25 : Keeps s0 x25
    · unfold x25
      refine State.setLinPath_keeps _ _ ?_
      with_reducible assumption
    clear_value x25
    refine ite_ind ?_ ?_
    · refine State.linDiscard_keeps _ ?_
      with_reducible assumption
    · extract_lets +onlyGivenNames x30
      have h30 : Keeps s0 x30
      · unfold x30
        refine State.linQuality_keeps _ _ ?_
        refine State.wrI_keeps _ _ _ _ ?_
        refine State.wrI_keeps _ _ _ _ ?_
        with_reducible assumption
      clear_value x30
      extract_lets +onlyGivenNames x31
      clear_value x31
      refine ite_ind ?_ ?_
      · with_reducible assumption
      · extract_lets +onlyGivenNames x34
        clear_value x34
        extract_lets +onlyGivenNames x35
        clear_value x35
        extract_lets +onlyGivenNames x36
        clear_value x36
        refine ite_ind ?_ ?_
        · refine State.linRevert_keeps _ _ _ ?_
          with_reducible assumption
        · extract_lets +onlyGivenNames x41
          clear_value x41
          extract_lets +onlyGivenNames x42
          have h42 : Keeps s0 x42
          · unfold x42
            refine ite_ind ?_ ?_
            · with_reducible assumption
            · refine State.setLinPath_keeps _ _ ?_
              with_reducible assumption
          clear_value x42
          refine ite_ind ?_ ?_
          · refine State.linDiscard_keeps _ ?_
            with_reducible assumption
          · split
            · refine State.linDiscard_keeps _ ?_
              with_reducible assumption
            · extract_lets +onlyGivenNames x43
              clear_value x43
              refine State.setLinPath_keeps _ _ ?_
              with_reducible assumption

theorem State.linAtTick_keeps {s0 : State} {s : State} (p : ℕ) (h : Keeps s0 s) :
    Keeps s0 (State.linAtTick s p) := by
  unfold State.linAtTick
  extract_lets +onlyGivenNames x24
  clear_value x24
  split
  · with_reducible assumption
  · refine ite_ind ?_ ?_
    · with_reducible assumption
    · extract_lets +onlyGivenNames x29
      have h29 : Keeps s0 x29
      · unfold x29
        refine State.setLinPath_keeps _ _ ?_
        with_reducible assumption
      clear_value x29
      refine ite_ind ?_ ?_
      · refine State.linDiscard_keeps _ ?_
        with_reducible assumption
      · extract_lets +onlyGivenNames x32
        clear_value x32
        extract_lets +onlyGivenNames x33
        have h33 : Keeps s0 x33
        · unfold x33
          refine State.setLinTables_keeps _ _ ?_
          with_reducible assumption
        clear_value x33
        refine ite_ind ?_ ?_
        · refine State.setLinPath_keeps _ _ ?_
          with_reducible assumption
        · extract_lets +onlyGivenNames x37
          clear_value x37
          extract_lets +onlyGivenNames x38
          have h38 : Keeps s0 x38
          · unfold x38
            refine State.setLinPath_keeps _ _ ?_
            with_reducible assumption
          clear_value x38
          extract_lets +onlyGivenNames x39
          have h39 : Keeps s0 x39
          · unfold x39
            refine State.wrBit_keeps _ _ _ _ ?_
            with_reducible assumption
          clear_value x39
          extract_lets +onlyGivenNames x40
          have h40 : Keeps s0 x40
          · unfold x40
            refine State.wrEpoch_keeps _ _ _ ?_
            refine State.bump_keeps _ _ ?_
            with_reducible assumption
          clear_value x40
          refine State.loopAt_keeps _ _ _ ?_
          refine State.wrBit_keeps _ _ _ _ ?_
          with_reducible assumption

theorem State.linResume_keeps {s0 : State} {s : State} (v : ℕ) (h : Keeps s0 s) :
    KeepsR s0 (State.linResume s v) := by
  unfold State.linResume
  refine ite_ind ?_ ?_
  · exact keepsR_error
  · refine keepsR_ok ?_
    refine keeps_foldl ?_ ?_
    · intro a26 a27 h28
      refine State.setLinPath_keeps _ _ ?_
      refine State.wrBit_keeps _ _ _ _ ?_
      with_reducible assumption
    · with_reducible assumption

end Sys2Proof.Machine
end

