-- ==== Sys2Proof/Laws/KeepsBias.lean ====
section
/-! SUPPORT. Every operation of Machine/Bias.lean keeps the relation of Laws/Keeps.lean. -/
namespace Sys2Proof.Machine

theorem State.failTarget_keeps {s0 : State} {s : State} (t : Target) (reason : ℕ) (h : Keeps s0 s) :
    Keeps s0 (State.failTarget s t reason) := by
  unfold State.failTarget
  split
  · refine State.raise_keeps _ _ _ ?_
    with_reducible assumption
  · refine State.raise_keeps _ _ _ ?_
    with_reducible assumption

theorem State.abandonTransitions_keeps {s0 : State} {s : State} (h : Keeps s0 s) :
    Keeps s0 (State.abandonTransitions s) := by
  unfold State.abandonTransitions
  extract_lets +onlyGivenNames x0
  extract_lets +onlyGivenNames x1
  have h1 : Keeps s0 x1
  · unfold x1
    split
    · refine State.failTarget_keeps _ _ ?_
      refine keeps_mk ?_ rfl rfl rfl rfl rfl rfl rfl
      with_reducible assumption
    · with_reducible assumption
  clear_value x1
  split
  · with_reducible assumption
  · extract_lets +onlyGivenNames x1
    extract_lets +onlyGivenNames x4
    have h4 : Keeps s0 x4
    · unfold x4
      refine keeps_mk ?_ rfl rfl rfl rfl rfl rfl rfl
      with_reducible assumption
    clear_value x4
    refine ite_ind ?_ ?_
    · refine keeps_mk ?_ rfl rfl rfl rfl rfl rfl rfl
      with_reducible assumption
    · refine State.failTarget_keeps _ _ ?_
      with_reducible assumption

theorem State.causeActive_keeps {s0 : State} {s : State} (bit : ℕ) (h : Keeps s0 s) :
    Keeps s0 (State.causeActive s bit) := by
  unfold State.causeActive
  refine ite_ind ?_ ?_
  · with_reducible assumption
  · extract_lets +onlyGivenNames x0
    have h0 : Keeps s0 x0
    · unfold x0
      refine State.wrBit_keeps _ _ _ _ ?_
      with_reducible assumption
    clear_value x0
    extract_lets +onlyGivenNames x0
    have h0 : Keeps s0 x0
    · unfold x0
      refine State.raiseAt_keeps _ _ _ _ _ ?_
      with_reducible assumption
    clear_value x0
    extract_lets +onlyGivenNames x0
    have h0 : Keeps s0 x0
    · unfold x0
      refine State.abandonTransitions_keeps ?_
      with_reducible assumption
    clear_value x0
    refine ite_ind ?_ ?_
    · with_reducible assumption
    · refine keeps_mk ?_ rfl rfl rfl rfl rfl rfl rfl
      with_reducible assumption

theorem State.causeCleared_keeps {s0 : State} {s : State} (bit : ℕ) (h : Keeps s0 s) :
    Keeps s0 (State.causeCleared s bit) := by
  unfold State.causeCleared
  refine ite_ind ?_ ?_
  · refine State.raise_keeps _ _ _ ?_
    refine State.wrBit_keeps _ _ _ _ ?_
    with_reducible assumption
  · with_reducible assumption

theorem State.judgePaths_keeps {s0 : State} {s : State} (h : Keeps s0 s) :
    Keeps s0 (State.judgePaths s) := by
  unfold State.judgePaths
  refine ite_ind ?_ ?_
  · refine State.causeActive_keeps _ ?_
    with_reducible assumption
  · refine State.causeCleared_keeps _ ?_
    with_reducible assumption

theorem State.rangeDone_keeps {s0 : State} {s : State} (n : ℕ) (h : Keeps s0 s) :
    Keeps s0 (State.rangeDone s n) := by
  unfold State.rangeDone
  extract_lets +onlyGivenNames x0
  clear_value x0
  extract_lets +onlyGivenNames x0
  clear_value x0
  extract_lets +onlyGivenNames x2
  extract_lets +onlyGivenNames x5
  have h5 : Keeps s0 x5
  · unfold x5
    refine keeps_mk ?_ rfl rfl rfl rfl rfl rfl rfl
    with_reducible assumption
  clear_value x5
  extract_lets +onlyGivenNames x0
  have h0 : Keeps s0 x0
  · unfold x0
    refine State.wr_keeps _ _ _ ?_
    with_reducible assumption
  clear_value x0
  extract_lets +onlyGivenNames x0
  have h0 : Keeps s0 x0
  · unfold x0
    refine State.wr_keeps _ _ _ ?_
    with_reducible assumption
  clear_value x0
  extract_lets +onlyGivenNames x0
  have h0 : Keeps s0 x0
  · unfold x0
    refine State.wrBit_keeps _ _ _ _ ?_
    refine State.wrBit_keeps _ _ _ _ ?_
    with_reducible assumption
  clear_value x0
  refine State.raise_keeps _ _ _ ?_
  with_reducible assumption

theorem State.strobeChannel_keeps {s0 : State} {s : State} (n : ℕ) (h : Keeps s0 s) :
    Keeps s0 (State.strobeChannel s n) := by
  unfold State.strobeChannel
  extract_lets +onlyGivenNames x0
  have h0 : Keeps s0 x0
  · unfold x0
    refine State.wrBit_keeps _ _ _ _ ?_
    with_reducible assumption
  clear_value x0
  refine ite_ind ?_ ?_
  · with_reducible assumption
  · refine ite_ind ?_ ?_
    · refine ite_ind ?_ ?_
      · refine State.rangeDone_keeps _ ?_
        with_reducible assumption
      · with_reducible assumption
    · refine ite_ind ?_ ?_
      · extract_lets +onlyGivenNames x4
        extract_lets +onlyGivenNames x0
        have h0 : Keeps s0 x0
        · unfold x0
          refine keeps_mk ?_ rfl rfl rfl rfl rfl rfl rfl
          with_reducible assumption
        clear_value x0
        refine State.wrBit_keeps _ _ _ _ ?_
        with_reducible assumption
      · refine ite_ind ?_ ?_
        · refine State.wr_keeps _ _ _ ?_
          with_reducible assumption
        · refine State.wrBit_keeps _ _ _ _ ?_
          refine State.wr_keeps _ _ _ ?_
          with_reducible assumption

theorem State.strobeGroup_keeps {s0 : State} {s : State} (g : ℕ) (h : Keeps s0 s) :
    Keeps s0 (State.strobeGroup s g) := by
  unfold State.strobeGroup
  refine State.forEach_keeps _ _ ?_ ?_
  · intro a0 a1 h2
    refine State.strobeChannel_keeps _ ?_
    with_reducible assumption
  · with_reducible assumption

theorem State.biasCommitted_keeps {s0 : State} {s : State} (chans : List ℕ) (h : Keeps s0 s) :
    Keeps s0 (State.biasCommitted s chans) := by
  unfold State.biasCommitted
  extract_lets +onlyGivenNames x0
  clear_value x0
  refine State.forEach_keeps _ _ ?_ ?_
  · intro a1 a2 h3
    refine ite_ind ?_ ?_
    · refine State.forEach_keeps _ _ ?_ ?_
      · intro a8 a9 h10
        refine State.wrBit_keeps _ _ _ _ ?_
        with_reducible assumption
      · with_reducible assumption
    · refine State.strobeGroup_keeps _ ?_
      with_reducible assumption
  · with_reducible assumption

theorem State.biasRangeTick_keeps {s0 : State} {s : State} (h : Keeps s0 s) :
    Keeps s0 (State.biasRangeTick s) := by
  unfold State.biasRangeTick
  extract_lets +onlyGivenNames x4
  clear_value x4
  refine State.forEach_keeps _ _ ?_ ?_
  · intro a5 a6 h7
    refine State.strobeGroup_keeps _ ?_
    with_reducible assumption
  · with_reducible assumption

theorem State.biasLapse_keeps {s0 : State} {s : State} (h : Keeps s0 s) :
    Keeps s0 (State.biasLapse s) := by
  unfold State.biasLapse
  refine ite_ind ?_ ?_
  · with_reducible assumption
  · refine State.forEach_keeps _ _ ?_ ?_
    · intro a11 a12 h13
      refine State.rangeDone_keeps _ ?_
      with_reducible assumption
    · with_reducible assumption

theorem State.driveClear_keeps {s0 : State} {s : State} (h : Keeps s0 s) :
    Keeps s0 (State.driveClear s) := by
  unfold State.driveClear
  refine State.forEach_keeps _ _ ?_ ?_
  · intro a17 a18 h19
    refine ite_ind ?_ ?_
    · with_reducible assumption
    · refine ite_ind ?_ ?_
      · refine State.wrBit_keeps _ _ _ _ ?_
        with_reducible assumption
      · refine State.wrBit_keeps _ _ _ _ ?_
        refine State.wr_keeps _ _ _ ?_
        with_reducible assumption
  · with_reducible assumption

theorem State.clearBegins_keeps {s0 : State} {s : State} (cause : ℕ) (h : Keeps s0 s) :
    Keeps s0 (State.clearBegins s cause) := by
  unfold State.clearBegins
  refine ite_ind ?_ ?_
  · with_reducible assumption
  · extract_lets +onlyGivenNames x15
    extract_lets +onlyGivenNames x16
    have h16 : Keeps s0 x16
    · unfold x16
      refine keeps_mk ?_ rfl rfl rfl rfl rfl rfl rfl
      with_reducible assumption
    clear_value x16
    refine State.raise_keeps _ _ _ ?_
    refine State.biasLapse_keeps ?_
    refine State.driveClear_keeps ?_
    with_reducible assumption

theorem State.clearEnds_keeps {s0 : State} {s : State} (cause : ℕ) (h : Keeps s0 s) :
    Keeps s0 (State.clearEnds s cause) := by
  unfold State.clearEnds
  refine ite_ind ?_ ?_
  · with_reducible assumption
  · extract_lets +onlyGivenNames x14
    have h14 : Keeps s0 x14
    · unfold x14
      refine State.biasLapse_keeps ?_
      with_reducible assumption
    extract_lets +onlyGivenNames x26
    extract_lets +onlyGivenNames x27
    have h27 : Keeps s0 x27
    · unfold x27
      refine keeps_mk ?_ rfl rfl rfl rfl rfl rfl rfl
      with_reducible assumption
    refine ite_ind ?_ ?_
    · refine State.raise_keeps _ _ _ ?_
      with_reducible assumption
    · with_reducible assumption

theorem State.bloadFalls_keeps {s0 : State} {s : State} (h : Keeps s0 s) :
    Keeps s0 (State.bloadFalls s) := by
  unfold State.bloadFalls
  refine State.forEach_keeps _ _ ?_ ?_
  · intro a20 a21 h22
    refine State.strobeGroup_keeps _ ?_
    with_reducible assumption
  · refine State.biasLapse_keeps ?_
    with_reducible assumption

theorem State.strobeCommitGroups_keeps {s0 : State} {s : State} (h : Keeps s0 s) :
    Keeps s0 (State.strobeCommitGroups s) := by
  unfold State.strobeCommitGroups
  refine State.forEach_keeps _ _ ?_ ?_
  · intro a23 a24 h25
    refine State.strobeGroup_keeps _ ?_
    with_reducible assumption
  · with_reducible assumption

theorem State.biasShort_keeps {s0 : State} {s : State} (n : ℕ) (h : Keeps s0 s) :
    Keeps s0 (State.biasShort s n) := by
  unfold State.biasShort
  refine ite_ind ?_ ?_
  · with_reducible assumption
  · extract_lets +onlyGivenNames x28
    have h28 : Keeps s0 x28
    · unfold x28
      refine State.bump_keeps _ _ ?_
      refine State.wrBit_keeps _ _ _ _ ?_
      with_reducible assumption
    clear_value x28
    refine State.raise_keeps _ _ _ ?_
    with_reducible assumption

theorem State.biasShortClear_keeps {s0 : State} {s : State} (n : ℕ) (h : Keeps s0 s) :
    Keeps s0 (State.biasShortClear s n) := by
  unfold State.biasShortClear
  refine ite_ind ?_ ?_
  · refine State.raise_keeps _ _ _ ?_
    refine State.wrBit_keeps _ _ _ _ ?_
    with_reducible assumption
  · with_reducible assumption

theorem State.biasProfile_keeps {s0 : State} {s : State} (h : Keeps s0 s) :
    Keeps s0 (State.biasProfile s) := by
  unfold State.biasProfile
  extract_lets +onlyGivenNames x29
  have h29 : Keeps s0 x29
  · unfold x29
    refine State.forEach_keeps _ _ ?_ ?_
    · intro a30 a31 h32
      extract_lets +onlyGivenNames x33
      clear_value x33
      extract_lets +onlyGivenNames x34
      have h34 : Keeps s0 x34
      · unfold x34
        refine State.wr_keeps _ _ _ ?_
        refine State.wr_keeps _ _ _ ?_
        with_reducible assumption
      clear_value x34
      extract_lets +onlyGivenNames x35
      have h35 : Keeps s0 x35
      · unfold x35
        refine State.wr_keeps _ _ _ ?_
        with_reducible assumption
      clear_value x35
      refine State.wr_keeps _ _ _ ?_
      refine State.wr_keeps _ _ _ ?_
      refine State.wr_keeps _ _ _ ?_
      with_reducible assumption
    · with_reducible assumption
  clear_value x29
  refine ite_ind ?_ ?_
  · with_reducible assumption
  · refine State.driveClear_keeps ?_
    with_reducible assumption

theorem State.tunerCode_keeps {s0 : State} {s : State} (p : ℕ) (code : ℕ) (h : Keeps s0 s) :
    Keeps s0 (State.tunerCode s p code) := by
  unfold State.tunerCode
  refine State.biasCommitted_keeps _ ?_
  refine State.wr_keeps _ _ _ ?_
  with_reducible assumption

theorem State.tunersAtSlot_keeps {s0 : State} {s : State} (h : Keeps s0 s) :
    Keeps s0 (State.tunersAtSlot s) := by
  unfold State.tunersAtSlot
  refine keeps_foldl ?_ ?_
  · intro a36 a37 h38
    split
    · extract_lets +onlyGivenNames x39
      clear_value x39
      extract_lets +onlyGivenNames x40
      have h40 : Keeps s0 x40
      · unfold x40
        refine State.setPath_keeps _ _ ?_
        with_reducible assumption
      clear_value x40
      refine ite_ind ?_ ?_
      · with_reducible assumption
      · refine State.biasCommitted_keeps _ ?_
        refine State.loopAt_keeps _ _ _ ?_
        refine State.wr_keeps _ _ _ ?_
        with_reducible assumption
    · with_reducible assumption
  · with_reducible assumption

end Sys2Proof.Machine
end

