-- ==== Sys2Proof/Laws/KeepsLibrary.lean ====
section
/-! SUPPORT. Every operation of Machine/Library.lean keeps the relation of Laws/Keeps.lean. -/
namespace Sys2Proof.Machine

theorem State.soundDropped_keeps {s0 : State} {s : State} (rec : ℕ) (reason : ℕ) (entry : ℕ) (h : Keeps s0 s) :
    Keeps s0 (State.soundDropped s rec reason entry) := by
  unfold State.soundDropped
  refine State.raise_keeps _ _ _ ?_
  refine State.bump_keeps _ _ ?_
  with_reducible assumption

theorem State.soundOne_keeps {s0 : State} {s : State} (q : ℕ × List Byte) (e : ℕ) (rx : List (ℕ × ℕ × Cplx)) (h : Keeps s0 s) :
    Keeps s0 (State.soundOne s q e rx) := by
  unfold State.soundOne
  extract_lets +onlyGivenNames x3
  clear_value x3
  extract_lets +onlyGivenNames x3
  clear_value x3
  refine ite_ind ?_ ?_
  · refine State.soundDropped_keeps _ _ _ ?_
    with_reducible assumption
  · refine ite_ind ?_ ?_
    · refine State.soundDropped_keeps _ _ _ ?_
      with_reducible assumption
    · extract_lets +onlyGivenNames x2
      clear_value x2
      extract_lets +onlyGivenNames x0
      clear_value x0
      extract_lets +onlyGivenNames x1
      clear_value x1
      extract_lets +onlyGivenNames x0
      clear_value x0
      extract_lets +onlyGivenNames x1
      clear_value x1
      extract_lets +onlyGivenNames x0
      clear_value x0
      extract_lets +onlyGivenNames x2
      clear_value x2
      extract_lets +onlyGivenNames x1
      have h1 : Keeps s0 x1
      · unfold x1
        refine State.ownBytes_keeps _ _ ?_
        with_reducible assumption
      clear_value x1
      refine keeps_mk ?_ rfl rfl rfl rfl rfl rfl rfl
      with_reducible assumption

theorem State.soundingTick_keeps {s0 : State} {s : State} (e : ℕ) (rx : List (ℕ × ℕ × Cplx)) (h : Keeps s0 s) :
    Keeps s0 (State.soundingTick s e rx) := by
  unfold State.soundingTick
  extract_lets +onlyGivenNames x0
  clear_value x0
  refine keeps_foldl ?_ ?_
  · intro a0 a1 h2
    refine ite_ind ?_ ?_
    · refine State.soundOne_keeps _ _ _ ?_
      with_reducible assumption
    · refine State.raise_keeps _ _ _ ?_
      refine State.bump_keeps _ _ ?_
      with_reducible assumption
  · with_reducible assumption

theorem State.soundingWriteDone_keeps {s0 : State} {s : State} (h : Keeps s0 s) :
    Keeps s0 (State.soundingWriteDone s) := by
  unfold State.soundingWriteDone
  split
  · with_reducible assumption
  · extract_lets +onlyGivenNames x0
    extract_lets +onlyGivenNames x4
    have h4 : Keeps s0 x4
    · unfold x4
      refine keeps_mk ?_ rfl rfl rfl rfl rfl rfl rfl
      with_reducible assumption
    clear_value x4
    extract_lets +onlyGivenNames x3
    clear_value x3
    extract_lets +onlyGivenNames x0
    have h0 : Keeps s0 x0
    · unfold x0
      refine ite_ind ?_ ?_
      · refine State.settle_keeps _ _ ?_
        with_reducible assumption
      · with_reducible assumption
    clear_value x0
    split
    · refine State.soundDropped_keeps _ _ _ ?_
      refine State.ownBytes_keeps _ _ ?_
      refine State.consumePoison_keeps _ ?_
      with_reducible assumption
    · extract_lets +onlyGivenNames x2
      clear_value x2
      extract_lets +onlyGivenNames x3
      clear_value x3
      extract_lets +onlyGivenNames x4
      clear_value x4
      extract_lets +onlyGivenNames x9
      clear_value x9
      extract_lets +onlyGivenNames x11
      have h11 : Keeps s0 x11
      · unfold x11
        refine ite_ind ?_ ?_
        · refine keeps_mk ?_ rfl rfl rfl rfl rfl rfl rfl
          with_reducible assumption
        · with_reducible assumption
      clear_value x11
      extract_lets +onlyGivenNames x20
      clear_value x20
      extract_lets +onlyGivenNames x22
      clear_value x22
      extract_lets +onlyGivenNames x23
      clear_value x23
      extract_lets +onlyGivenNames x25
      have h25 : Keeps s0 x25
      · unfold x25
        refine ite_ind ?_ ?_
        · with_reducible assumption
        · refine State.zeroRange_keeps _ _ ?_
          with_reducible assumption
      clear_value x25
      extract_lets +onlyGivenNames x30
      have h30 : Keeps s0 x30
      · unfold x30
        refine keeps_foldl ?_ ?_
        · intro a32 a33 h34
          refine State.ownBytes_keeps _ _ ?_
          with_reducible assumption
        · with_reducible assumption
      clear_value x30
      extract_lets +onlyGivenNames x35
      clear_value x35
      extract_lets +onlyGivenNames x36
      have h36 : Keeps s0 x36
      · unfold x36
        refine State.ownBytes_keeps _ _ ?_
        with_reducible assumption
      clear_value x36
      refine State.bump_keeps _ _ ?_
      with_reducible assumption

theorem State.libraryValidate_keeps {s0 : State} {s : State} (e : ℕ) (h : Keeps s0 s) :
    KeepsR s0 (State.libraryValidate s e) := by
  unfold State.libraryValidate
  refine ite_ind ?_ ?_
  · exact keepsR_error
  · extract_lets +onlyGivenNames x0
    clear_value x0
    extract_lets +onlyGivenNames x1
    have h1 : Keeps s0 x1
    · unfold x1
      refine State.settle_keeps _ _ ?_
      with_reducible assumption
    clear_value x1
    split
    · refine keepsR_ok ?_
      refine State.raise_keeps _ _ _ ?_
      refine State.ownBytes_keeps _ _ ?_
      with_reducible assumption
    · refine keepsR_ok ?_
      refine State.ownBytes_keeps _ _ ?_
      with_reducible assumption

theorem State.libraryInvalidate_keeps {s0 : State} {s : State} (e : ℕ) (h : Keeps s0 s) :
    KeepsR s0 (State.libraryInvalidate s e) := by
  unfold State.libraryInvalidate
  refine ite_ind ?_ ?_
  · exact keepsR_error
  · split
    · exact keepsR_error
    · refine keepsR_ok ?_
      refine State.ownBytes_keeps _ _ ?_
      with_reducible assumption

theorem State.peerRefusal_keeps {s0 : State} {s : State} (h : Keeps s0 s) :
    Keeps s0 (State.peerRefusal s).2 := by
  unfold State.peerRefusal
  extract_lets +onlyGivenNames x0
  clear_value x0
  dsimp -zeta only
  refine ite_ind ?_ ?_
  · with_reducible assumption
  · refine keeps_mk ?_ rfl rfl rfl rfl rfl rfl rfl
    with_reducible assumption

theorem State.weightJobSubmit_keeps {s0 : State} {s : State} (rec : List Byte) (h : Keeps s0 s) :
    KeepsR s0 (State.weightJobSubmit s rec) := by
  unfold State.weightJobSubmit
  extract_lets +onlyGivenNames x0
  clear_value x0
  extract_lets +onlyGivenNames x1
  have h1 : Keeps s0 x1
  · unfold x1
    refine ite_ind ?_ ?_
    · with_reducible assumption
    · refine keeps_foldl ?_ ?_
      · intro a5 a6 h7
        refine ite_ind ?_ ?_
        · refine State.settle_keeps _ _ ?_
          with_reducible assumption
        · with_reducible assumption
      · with_reducible assumption
  clear_value x1
  extract_lets +onlyGivenNames x15
  clear_value x15
  extract_lets +onlyGivenNames x19
  clear_value x19
  refine ite_ind ?_ ?_
  · exact keepsR_error
  · split
    · exact keepsR_error
    · refine ite_ind ?_ ?_
      · exact keepsR_error
      · split
        · exact keepsR_error
        · refine ite_ind ?_ ?_
          · exact keepsR_error
          · refine ite_ind ?_ ?_
            · exact keepsR_error
            · refine ite_ind ?_ ?_
              · exact keepsR_error
              · refine ite_ind ?_ ?_
                · exact keepsR_error
                · extract_lets +onlyGivenNames x51
                  have h51 : Keeps s0 x51.2
                  · unfold x51
                    split
                    · refine State.peerRefusal_keeps ?_
                      with_reducible assumption
                    · with_reducible assumption
                  clear_value x51
                  split
                  · exact keepsR_error
                  · extract_lets +onlyGivenNames x61
                    have h61 : Keeps s0 x61
                    · unfold x61
                      with_reducible assumption
                    clear_value x61
                    extract_lets +onlyGivenNames x62
                    clear_value x62
                    extract_lets +onlyGivenNames x63
                    clear_value x63
                    extract_lets +onlyGivenNames x64
                    clear_value x64
                    extract_lets +onlyGivenNames x68
                    clear_value x68
                    extract_lets +onlyGivenNames x69
                    extract_lets +onlyGivenNames x70
                    have h70 : Keeps s0 x70
                    · unfold x70
                      refine keeps_mk ?_ rfl rfl rfl rfl rfl rfl rfl
                      with_reducible assumption
                    clear_value x70
                    refine keepsR_ok ?_
                    refine ite_ind ?_ ?_
                    · refine State.sealCommit_keeps _ ?_
                      with_reducible assumption
                    · with_reducible assumption

theorem State.weightJobCancel_keeps {s0 : State} {s : State} (job : ℕ) (h : Keeps s0 s) :
    KeepsR s0 (State.weightJobCancel s job) := by
  unfold State.weightJobCancel
  split
  · exact keepsR_error
  · refine ite_ind ?_ ?_
    · exact keepsR_error
    · refine keepsR_ok ?_
      refine State.failJob_keeps _ _ _ ?_
      with_reducible assumption

theorem State.setJob_keeps {s0 : State} {s : State} (j : WeightJob) (h : Keeps s0 s) :
    Keeps s0 (State.setJob s j) := by
  unfold State.setJob
  refine keeps_mk ?_ rfl rfl rfl rfl rfl rfl rfl
  with_reducible assumption

theorem State.jobStart_keeps {s0 : State} {s : State} (h : Keeps s0 s) :
    Keeps s0 (State.jobStart s) := by
  unfold State.jobStart
  split
  · with_reducible assumption
  · refine ite_ind ?_ ?_
    · with_reducible assumption
    · extract_lets +onlyGivenNames x14
      have h14 : Keeps s0 x14
      · unfold x14
        refine keeps_foldl ?_ ?_
        · intro a16 a17 h18
          refine State.setFolioState_keeps _ _ ?_
          refine State.ownBytes_keeps _ _ ?_
          with_reducible assumption
        · with_reducible assumption
      clear_value x14
      extract_lets +onlyGivenNames x21
      clear_value x21
      refine ite_ind ?_ ?_
      · refine State.setJob_keeps _ ?_
        with_reducible assumption
      · extract_lets +onlyGivenNames x26
        have h26 : Keeps s0 x26
        · unfold x26
          refine keeps_foldl ?_ ?_
          · intro a27 a28 h29
            refine State.settle_keeps _ _ ?_
            with_reducible assumption
          · with_reducible assumption
        clear_value x26
        split
        · refine State.failJob_keeps _ _ _ ?_
          refine State.consumePoison_keeps _ ?_
          with_reducible assumption
        · extract_lets +onlyGivenNames x37
          clear_value x37
          refine ite_ind ?_ ?_
          · refine State.setJob_keeps _ ?_
            with_reducible assumption
          · extract_lets +onlyGivenNames x43
            have h43 : Keeps s0 x43
            · unfold x43
              refine State.setJob_keeps _ ?_
              with_reducible assumption
            clear_value x43
            refine ite_ind ?_ ?_
            · refine keeps_foldl ?_ ?_
              · intro a47 a48 h49
                refine State.sendPacket_keeps _ _ ?_
                with_reducible assumption
              · with_reducible assumption
            · with_reducible assumption

theorem State.gramTotal_keeps {s0 : State} {s : State} (j : WeightJob) (l : List GramBlock) (h : Keeps s0 s) :
    Keeps s0 (State.gramTotal s j l) := by
  unfold State.gramTotal
  extract_lets +onlyGivenNames x8
  clear_value x8
  refine State.setJob_keeps _ ?_
  with_reducible assumption

theorem State.takeGram_keeps {s0 : State} {s : State} (port : ℕ) (payload : List Byte) (h : Keeps s0 s) :
    Keeps s0 (State.takeGram s port payload) := by
  unfold State.takeGram
  extract_lets +onlyGivenNames x10
  clear_value x10
  extract_lets +onlyGivenNames x12
  clear_value x12
  extract_lets +onlyGivenNames x13
  clear_value x13
  split
  · refine State.bump_keeps _ _ ?_
    with_reducible assumption
  · extract_lets +onlyGivenNames x24
    clear_value x24
    refine ite_ind ?_ ?_
    · refine State.bump_keeps _ _ ?_
      with_reducible assumption
    · refine ite_ind ?_ ?_
      · extract_lets +onlyGivenNames x31
        clear_value x31
        refine ite_ind ?_ ?_
        · extract_lets +onlyGivenNames x38
          have h38 : Keeps s0 x38
          · unfold x38
            refine State.setJob_keeps _ ?_
            with_reducible assumption
          clear_value x38
          refine keeps_foldl ?_ ?_
          · intro a39 a40 h41
            refine State.sendPacket_keeps _ _ ?_
            with_reducible assumption
          · with_reducible assumption
        · extract_lets +onlyGivenNames x42
          have h42 : Keeps s0 x42
          · unfold x42
            refine State.gramTotal_keeps _ _ ?_
            with_reducible assumption
          clear_value x42
          refine keeps_foldl ?_ ?_
          · intro a44 a45 h46
            refine State.sendPacket_keeps _ _ ?_
            with_reducible assumption
          · with_reducible assumption
      · refine ite_ind ?_ ?_
        · extract_lets +onlyGivenNames x50
          have h50 : Keeps s0 x50
          · unfold x50
            refine ite_ind ?_ ?_
            · with_reducible assumption
            · refine State.sendPacket_keeps _ _ ?_
              with_reducible assumption
          clear_value x50
          refine State.gramTotal_keeps _ _ ?_
          with_reducible assumption
        · refine State.bump_keeps _ _ ?_
          with_reducible assumption

theorem State.gramTimeout_keeps {s0 : State} {s : State} (h : Keeps s0 s) :
    Keeps s0 (State.gramTimeout s) := by
  unfold State.gramTimeout
  split
  · refine ite_ind ?_ ?_
    · refine State.failJob_keeps _ _ _ ?_
      with_reducible assumption
    · with_reducible assumption
  · with_reducible assumption

theorem State.storeGroup_keeps {s0 : State} {s : State} (j : WeightJob) (slot : ℕ) (g : ℕ) (w : List (List Cplx)) (h : Keeps s0 s) :
    Keeps s0 (State.storeGroup s j slot g w) := by
  unfold State.storeGroup
  extract_lets +onlyGivenNames x52
  clear_value x52
  extract_lets +onlyGivenNames x53
  clear_value x53
  refine ite_ind ?_ ?_
  · refine State.ownBytes_keeps _ _ ?_
    with_reducible assumption
  · refine State.ownBytes_keeps _ _ ?_
    with_reducible assumption

theorem State.restGroups_keeps {s0 : State} {s : State} (j : WeightJob) (slot : ℕ) (h : Keeps s0 s) :
    Keeps s0 (State.restGroups s j slot) := by
  unfold State.restGroups
  extract_lets +onlyGivenNames x54
  clear_value x54
  extract_lets +onlyGivenNames x55
  clear_value x55
  extract_lets +onlyGivenNames x56
  clear_value x56
  refine keeps_foldl ?_ ?_
  · intro a57 a58 h59
    extract_lets +onlyGivenNames x60
    clear_value x60
    refine ite_ind ?_ ?_
    · refine State.ownBytes_keeps _ _ ?_
      with_reducible assumption
    · refine State.zeroRange_keeps _ _ ?_
      with_reducible assumption
  · with_reducible assumption

theorem State.jobDone_keeps {s0 : State} {s : State} (micros : ℕ) (h : Keeps s0 s) :
    Keeps s0 (State.jobDone s micros) := by
  unfold State.jobDone
  split
  · with_reducible assumption
  · refine ite_ind ?_ ?_
    · with_reducible assumption
    · extract_lets +onlyGivenNames x71
      have h71 : Keeps s0 x71
      · unfold x71
        refine ite_ind ?_ ?_
        · refine State.settle_keeps _ _ ?_
          with_reducible assumption
        · with_reducible assumption
      clear_value x71
      split
      · refine State.failJob_keeps _ _ _ ?_
        refine State.consumePoison_keeps _ ?_
        with_reducible assumption
      · extract_lets +onlyGivenNames x72
        clear_value x72
        extract_lets +onlyGivenNames x73
        have h73 : Keeps s0 x73.1
        · unfold x73
          split
          · dsimp -zeta only
            refine keeps_foldl ?_ ?_
            · intro a74 a75 h76
              refine State.ownBytes_keeps _ _ ?_
              with_reducible assumption
            · with_reducible assumption
          · refine keeps_foldl_fst ?_ ?_
            · intro a77 a78 h79
              extract_lets +onlyGivenNames x80
              have h80 : Keeps s0 x80
              · unfold x80
                refine State.restGroups_keeps _ _ ?_
                refine State.ownBytes_keeps _ _ ?_
                with_reducible assumption
              clear_value x80
              refine keeps_foldl_fst ?_ ?_
              · intro a81 a82 h83
                extract_lets +onlyGivenNames x84
                clear_value x84
                dsimp -zeta only
                refine State.storeGroup_keeps _ _ _ _ ?_
                with_reducible assumption
              · with_reducible assumption
            · with_reducible assumption
        clear_value x73
        extract_lets +onlyGivenNames x85
        have h85 : Keeps s0 x85
        · unfold x85
          refine keeps_foldl ?_ ?_
          · intro a86 a87 h88
            refine State.sealFolio_keeps _ ?_
            with_reducible assumption
          · with_reducible assumption
        clear_value x85
        refine ite_ind ?_ ?_
        · refine State.failJob_keeps _ _ _ ?_
          with_reducible assumption
        · extract_lets +onlyGivenNames x89
          extract_lets +onlyGivenNames x90
          have h90 : Keeps s0 x90
          · unfold x90
            refine keeps_mk ?_ rfl rfl rfl rfl rfl rfl rfl
            with_reducible assumption
          clear_value x90
          extract_lets +onlyGivenNames x91
          have h91 : Keeps s0 x91
          · unfold x91
            refine State.keepResult_keeps _ ?_
            with_reducible assumption
          clear_value x91
          extract_lets +onlyGivenNames x92
          have h92 : Keeps s0 x92
          · unfold x92
            refine State.bump_keeps _ _ ?_
            with_reducible assumption
          clear_value x92
          refine State.raise_keeps _ _ _ ?_
          with_reducible assumption

theorem State.jobsReset_keeps {s0 : State} {s : State} (arrayOnly : Bool) (h : Keeps s0 s) :
    Keeps s0 (State.jobsReset s arrayOnly) := by
  unfold State.jobsReset
  refine keeps_foldl ?_ ?_
  · intro a65 a66 h67
    refine State.failJob_keeps _ _ _ ?_
    with_reducible assumption
  · with_reducible assumption

end Sys2Proof.Machine
end

