-- ==== Sys2Proof/Laws/KeepsDuplex.lean ====
section
/-! SUPPORT. Every operation of Machine/Duplex.lean keeps the relation of Laws/Keeps.lean. -/
namespace Sys2Proof.Machine

theorem State.cancelPass_keeps {s0 : State} {s : State} (e : ℕ) (h : Keeps s0 s) :
    Keeps s0 (State.cancelPass s e) := by
  unfold State.cancelPass
  refine ite_ind ?_ ?_
  · refine keeps_mk ?_ rfl rfl rfl rfl rfl rfl rfl
    with_reducible assumption
  · extract_lets +onlyGivenNames x0
    clear_value x0
    extract_lets +onlyGivenNames x1
    clear_value x1
    extract_lets +onlyGivenNames x0
    extract_lets +onlyGivenNames x0
    have h0 : Keeps s0 x0
    · unfold x0
      refine keeps_mk ?_ rfl rfl rfl rfl rfl rfl rfl
      with_reducible assumption
    clear_value x0
    extract_lets +onlyGivenNames x0
    clear_value x0
    refine keeps_mk ?_ rfl rfl rfl rfl rfl rfl rfl
    with_reducible assumption

theorem State.setCancelState_keeps {s0 : State} {s : State} (slot : ℕ) (st : ℕ) (h : Keeps s0 s) :
    Keeps s0 (State.setCancelState s slot st) := by
  unfold State.setCancelState
  refine State.wr_keeps _ _ _ ?_
  with_reducible assumption

theorem State.startSetLoad_keeps {s0 : State} {s : State} (slot : ℕ) (h : Keeps s0 s) :
    Keeps s0 (State.startSetLoad s slot) := by
  unfold State.startSetLoad
  refine ite_ind ?_ ?_
  · with_reducible assumption
  · refine keeps_mk ?_ rfl rfl rfl rfl rfl rfl rfl
    with_reducible assumption

theorem State.sealSet_keeps {s0 : State} {s : State} (slot : ℕ) (h : Keeps s0 s) :
    Keeps s0 (State.sealSet s slot) := by
  unfold State.sealSet
  extract_lets +onlyGivenNames x2
  have h2 : Keeps s0 x2
  · unfold x2
    refine State.setCancelState_keeps _ _ ?_
    with_reducible assumption
  clear_value x2
  refine ite_ind ?_ ?_
  · refine State.startSetLoad_keeps _ ?_
    with_reducible assumption
  · with_reducible assumption

theorem State.cancelSetSeal_keeps {s0 : State} {s : State} (slot : ℕ) (h : Keeps s0 s) :
    KeepsR s0 (State.cancelSetSeal s slot) := by
  unfold State.cancelSetSeal
  refine ite_ind ?_ ?_
  · exact keepsR_error
  · refine ite_ind ?_ ?_
    · exact keepsR_error
    · split
      · refine keepsR_ok ?_
        refine State.raise_keeps _ _ _ ?_
        refine State.sealSet_keeps _ ?_
        with_reducible assumption
      · refine keepsR_ok ?_
        refine State.raise_keeps _ _ _ ?_
        refine State.setCancelState_keeps _ _ ?_
        with_reducible assumption

theorem State.cancelSetLoaded_keeps {s0 : State} {s : State} (slot : ℕ) (h : Keeps s0 s) :
    Keeps s0 (State.cancelSetLoaded s slot) := by
  unfold State.cancelSetLoaded
  refine ite_ind ?_ ?_
  · with_reducible assumption
  · extract_lets +onlyGivenNames x0
    extract_lets +onlyGivenNames x1
    have h1 : Keeps s0 x1
    · unfold x1
      refine keeps_mk ?_ rfl rfl rfl rfl rfl rfl rfl
      with_reducible assumption
    clear_value x1
    extract_lets +onlyGivenNames x3
    have h3 : Keeps s0 x3
    · unfold x3
      refine State.settle_keeps _ _ ?_
      with_reducible assumption
    clear_value x3
    split
    · refine State.raise_keeps _ _ _ ?_
      refine State.consumePoison_keeps _ ?_
      with_reducible assumption
    · refine keeps_mk ?_ rfl rfl rfl rfl rfl rfl rfl
      with_reducible assumption

theorem State.selectSet_keeps {s0 : State} {s : State} (slot : ℕ) (h : Keeps s0 s) :
    Keeps s0 (State.selectSet s slot) := by
  unfold State.selectSet
  extract_lets +onlyGivenNames x0
  clear_value x0
  refine ite_ind ?_ ?_
  · with_reducible assumption
  · extract_lets +onlyGivenNames x0
    have h0 : Keeps s0 x0
    · unfold x0
      split
      · refine State.setCancelState_keeps _ _ ?_
        with_reducible assumption
      · with_reducible assumption
    clear_value x0
    extract_lets +onlyGivenNames x1
    clear_value x1
    extract_lets +onlyGivenNames x0
    extract_lets +onlyGivenNames x1
    clear_value x1
    extract_lets +onlyGivenNames x2
    have h2 : Keeps s0 x2
    · unfold x2
      refine keeps_mk ?_ rfl rfl rfl rfl rfl rfl rfl
      with_reducible assumption
    clear_value x2
    extract_lets +onlyGivenNames x0
    have h0 : Keeps s0 x0
    · unfold x0
      refine keeps_foldl ?_ ?_
      · intro a1 a2 h3
        refine State.loopAt_keeps _ _ _ ?_
        with_reducible assumption
      · with_reducible assumption
    clear_value x0
    refine State.showStale_keeps ?_
    refine ite_ind ?_ ?_
    · refine State.setCancelState_keeps _ _ ?_
      with_reducible assumption
    · with_reducible assumption

theorem State.cancelStaleCal_keeps {s0 : State} {s : State} (paths : List ℕ) (h : Keeps s0 s) :
    Keeps s0 (State.cancelStaleCal s paths) := by
  unfold State.cancelStaleCal
  refine ite_ind ?_ ?_
  · with_reducible assumption
  · extract_lets +onlyGivenNames x0
    extract_lets +onlyGivenNames x3
    have h3 : Keeps s0 x3
    · unfold x3
      refine State.showStale_keeps ?_
      refine keeps_mk ?_ rfl rfl rfl rfl rfl rfl rfl
      with_reducible assumption
    clear_value x3
    refine keeps_foldl ?_ ?_
    · intro a4 a5 h6
      refine State.raise_keeps _ _ _ ?_
      with_reducible assumption
    · with_reducible assumption

theorem State.cancelTrain_keeps {s0 : State} {s : State} (rec : List Byte) (h : Keeps s0 s) :
    KeepsR s0 (State.cancelTrain s rec) := by
  unfold State.cancelTrain
  extract_lets +onlyGivenNames x0
  clear_value x0
  extract_lets +onlyGivenNames x0
  clear_value x0
  extract_lets +onlyGivenNames x4
  clear_value x4
  extract_lets +onlyGivenNames x5
  clear_value x5
  refine ite_ind ?_ ?_
  · exact keepsR_error
  · refine ite_ind ?_ ?_
    · exact keepsR_error
    · refine ite_ind ?_ ?_
      · exact keepsR_error
      · refine ite_ind ?_ ?_
        · exact keepsR_error
        · refine ite_ind ?_ ?_
          · exact keepsR_error
          · refine ite_ind ?_ ?_
            · exact keepsR_error
            · split
              · exact keepsR_error
              · extract_lets +onlyGivenNames x51
                have h51 : Keeps s0 x51
                · unfold x51
                  refine keeps_foldl ?_ ?_
                  · intro a53 a54 h55
                    refine State.takeLease_keeps _ _ _ _ ?_
                    with_reducible assumption
                  · with_reducible assumption
                clear_value x51
                refine keepsR_ok ?_
                refine keeps_mk ?_ rfl rfl rfl rfl rfl rfl rfl
                with_reducible assumption

theorem State.cancelTrainStart_keeps {s0 : State} {s : State} (h : Keeps s0 s) :
    Keeps s0 (State.cancelTrainStart s) := by
  unfold State.cancelTrainStart
  split
  · refine ite_ind ?_ ?_
    · extract_lets +onlyGivenNames x7
      extract_lets +onlyGivenNames x9
      have h9 : Keeps s0 x9
      · unfold x9
        refine keeps_mk ?_ rfl rfl rfl rfl rfl rfl rfl
        with_reducible assumption
      clear_value x9
      extract_lets +onlyGivenNames x12
      clear_value x12
      extract_lets +onlyGivenNames x14
      have h14 : Keeps s0 x14
      · unfold x14
        refine State.ownBytes_keeps _ _ ?_
        refine State.zeroRange_keeps _ _ ?_
        with_reducible assumption
      clear_value x14
      refine State.wr_keeps _ _ _ ?_
      refine State.setCancelState_keeps _ _ ?_
      with_reducible assumption
    · with_reducible assumption
  · with_reducible assumption

theorem State.freeTrainLeases_keeps {s0 : State} {s : State} (h : Keeps s0 s) :
    Keeps s0 (State.freeTrainLeases s) := by
  unfold State.freeTrainLeases
  refine keeps_foldl ?_ ?_
  · intro a1 a2 h3
    refine State.freeLease_keeps _ ?_
    with_reducible assumption
  · with_reducible assumption

theorem State.trainFails_keeps {s0 : State} {s : State} (reason : ℕ) (h : Keeps s0 s) :
    Keeps s0 (State.trainFails s reason) := by
  unfold State.trainFails
  split
  · with_reducible assumption
  · extract_lets +onlyGivenNames x6
    extract_lets +onlyGivenNames x8
    have h8 : Keeps s0 x8
    · unfold x8
      refine State.freeTrainLeases_keeps ?_
      refine keeps_mk ?_ rfl rfl rfl rfl rfl rfl rfl
      with_reducible assumption
    clear_value x8
    extract_lets +onlyGivenNames x13
    have h13 : Keeps s0 x13
    · unfold x13
      refine State.wr_keeps _ _ _ ?_
      refine State.setCancelState_keeps _ _ ?_
      with_reducible assumption
    clear_value x13
    refine State.raise_keeps _ _ _ ?_
    with_reducible assumption

theorem State.verifyPath_keeps {s0 : State} {s : State} (x : ℕ × ℤ × ℤ × ℤ) (h : Keeps s0 s) :
    Keeps s0 (State.verifyPath s x) := by
  unfold State.verifyPath
  split
  extract_lets +onlyGivenNames x10
  clear_value x10
  extract_lets +onlyGivenNames x11
  have h11 : Keeps s0 x11
  · unfold x11
    refine State.wrI_keeps _ _ _ _ ?_
    refine State.wrI_keeps _ _ _ _ ?_
    refine State.wrI_keeps _ _ _ _ ?_
    with_reducible assumption
  clear_value x11
  extract_lets +onlyGivenNames x15
  have h15 : Keeps s0 x15
  · unfold x15
    refine State.wrBit_keeps _ _ _ _ ?_
    refine State.wrBit_keeps _ _ _ _ ?_
    with_reducible assumption
  clear_value x15
  extract_lets +onlyGivenNames x16
  have h16 : Keeps s0 x16
  · unfold x16
    refine State.wrBit_keeps _ _ _ _ ?_
    with_reducible assumption
  clear_value x16
  refine ite_ind ?_ ?_
  · refine State.raise_keeps _ _ _ ?_
    with_reducible assumption
  · with_reducible assumption

theorem State.trainStageDone_keeps {s0 : State} {s : State} (r : TrainResult) (h : Keeps s0 s) :
    Keeps s0 (State.trainStageDone s r) := by
  unfold State.trainStageDone
  split
  · with_reducible assumption
  · refine ite_ind ?_ ?_
    · with_reducible assumption
    · refine ite_ind ?_ ?_
      · refine State.trainFails_keeps _ ?_
        with_reducible assumption
      · refine ite_ind ?_ ?_
        · refine State.trainFails_keeps _ ?_
          with_reducible assumption
        · extract_lets +onlyGivenNames x29
          clear_value x29
          extract_lets +onlyGivenNames x31
          have h31 : Keeps s0 x31
          · unfold x31
            refine keeps_foldl ?_ ?_
            · intro a34 a35 h36
              refine State.ownBytes_keeps _ _ ?_
              with_reducible assumption
            · with_reducible assumption
          clear_value x31
          extract_lets +onlyGivenNames x43
          have h43 : Keeps s0 x43
          · unfold x43
            refine keeps_foldl ?_ ?_
            · intro a44 a45 h46
              refine State.ownBytes_keeps _ _ ?_
              with_reducible assumption
            · with_reducible assumption
          clear_value x43
          refine ite_ind ?_ ?_
          · refine State.wr_keeps _ _ _ ?_
            refine keeps_mk ?_ rfl rfl rfl rfl rfl rfl rfl
            with_reducible assumption
          · extract_lets +onlyGivenNames x56
            have h56 : Keeps s0 x56
            · unfold x56
              refine State.ownBytes_keeps _ _ ?_
              refine State.ownBytes_keeps _ _ ?_
              with_reducible assumption
            clear_value x56
            extract_lets +onlyGivenNames x58
            have h58 : Keeps s0 x58
            · unfold x58
              refine keeps_foldl ?_ ?_
              · intro a60 a61 h62
                refine State.verifyPath_keeps _ ?_
                with_reducible assumption
              · with_reducible assumption
            clear_value x58
            extract_lets +onlyGivenNames x64
            extract_lets +onlyGivenNames x65
            have h65 : Keeps s0 x65
            · unfold x65
              refine State.freeTrainLeases_keeps ?_
              refine keeps_mk ?_ rfl rfl rfl rfl rfl rfl rfl
              with_reducible assumption
            clear_value x65
            extract_lets +onlyGivenNames x69
            have h69 : Keeps s0 x69
            · unfold x69
              refine State.wr_keeps _ _ _ ?_
              refine State.sealSet_keeps _ ?_
              with_reducible assumption
            clear_value x69
            extract_lets +onlyGivenNames x74
            clear_value x74
            refine State.raise_keeps _ _ _ ?_
            with_reducible assumption

theorem State.cancelClips_keeps {s0 : State} {s : State} (e : ℕ) (counts : List (ℕ × ℕ)) (h : Keeps s0 s) :
    Keeps s0 (State.cancelClips s e counts) := by
  unfold State.cancelClips
  extract_lets +onlyGivenNames x17
  clear_value x17
  extract_lets +onlyGivenNames x22
  extract_lets +onlyGivenNames x23
  have h23 : Keeps s0 x23
  · unfold x23
    refine keeps_mk ?_ rfl rfl rfl rfl rfl rfl rfl
    with_reducible assumption
  clear_value x23
  refine keeps_foldl ?_ ?_
  · intro a25 a26 h27
    extract_lets +onlyGivenNames x28
    have h28 : Keeps s0 x28
    · unfold x28
      refine State.bump_keeps _ _ ?_
      with_reducible assumption
    clear_value x28
    refine keeps_mk ?_ rfl rfl rfl rfl rfl rfl rfl
    with_reducible assumption
  · with_reducible assumption

theorem State.cancelClipReport_keeps {s0 : State} {s : State} (h : Keeps s0 s) :
    Keeps s0 (State.cancelClipReport s) := by
  unfold State.cancelClipReport
  extract_lets +onlyGivenNames x18
  have h18 : Keeps s0 x18
  · unfold x18
    refine keeps_foldl ?_ ?_
    · intro a19 a20 h21
      refine State.raise_keeps _ _ _ ?_
      with_reducible assumption
    · with_reducible assumption
  clear_value x18
  refine keeps_mk ?_ rfl rfl rfl rfl rfl rfl rfl
  with_reducible assumption

theorem State.judgeNoise_keeps {s0 : State} {s : State} (p : ℕ) (rise : ℤ) (h : Keeps s0 s) :
    Keeps s0 (State.judgeNoise s p rise) := by
  unfold State.judgeNoise
  extract_lets +onlyGivenNames x24
  extract_lets +onlyGivenNames x30
  clear_value x30
  extract_lets +onlyGivenNames x33
  extract_lets +onlyGivenNames x37
  extract_lets +onlyGivenNames x41
  have h41 : Keeps s0 x41
  · unfold x41
    refine keeps_mk ?_ rfl rfl rfl rfl rfl rfl rfl
    with_reducible assumption
  extract_lets +onlyGivenNames x47
  refine ite_ind ?_ ?_
  · unfold x47
    refine State.raise_keeps _ _ _ ?_
    refine keeps_mk ?_ rfl rfl rfl rfl rfl rfl rfl
    with_reducible assumption
  · refine ite_ind ?_ ?_
    · unfold x47
      refine State.raise_keeps _ _ _ ?_
      refine keeps_mk ?_ rfl rfl rfl rfl rfl rfl rfl
      with_reducible assumption
    · with_reducible assumption

theorem State.quietTick_keeps {s0 : State} {s : State} (e : ℕ) (rx : List (ℕ × ℕ × Cplx)) (h : Keeps s0 s) :
    Keeps s0 (State.quietTick s e rx) := by
  unfold State.quietTick
  extract_lets +onlyGivenNames x32
  clear_value x32
  refine keeps_foldl ?_ ?_
  · intro a38 a39 h40
    extract_lets +onlyGivenNames x42
    clear_value x42
    refine ite_ind ?_ ?_
    · with_reducible assumption
    · refine ite_ind ?_ ?_
      · refine keeps_foldl ?_ ?_
        · intro a48 a49 h50
          extract_lets +onlyGivenNames x52
          clear_value x52
          refine keeps_mk ?_ rfl rfl rfl rfl rfl rfl rfl
          with_reducible assumption
        · with_reducible assumption
      · refine ite_ind ?_ ?_
        · extract_lets +onlyGivenNames x57
          clear_value x57
          refine ite_ind ?_ ?_
          · with_reducible assumption
          · extract_lets +onlyGivenNames x59
            clear_value x59
            refine State.judgeNoise_keeps _ _ ?_
            refine State.wrI_keeps _ _ _ _ ?_
            with_reducible assumption
        · with_reducible assumption
  · with_reducible assumption

theorem State.noiseAtSlot_keeps {s0 : State} {s : State} (h : Keeps s0 s) :
    Keeps s0 (State.noiseAtSlot s) := by
  unfold State.noiseAtSlot
  extract_lets +onlyGivenNames x63
  clear_value x63
  extract_lets +onlyGivenNames x66
  extract_lets +onlyGivenNames x67
  have h67 : Keeps s0 x67
  · unfold x67
    refine keeps_mk ?_ rfl rfl rfl rfl rfl rfl rfl
    with_reducible assumption
  clear_value x67
  refine keeps_foldl ?_ ?_
  · intro a70 a71 h72
    refine State.wrBit_keeps _ _ _ _ ?_
    with_reducible assumption
  · with_reducible assumption

theorem State.trackReady_keeps {s0 : State} {s : State} (solves : List TrackSolve) (h : Keeps s0 s) :
    Keeps s0 (State.trackReady s solves) := by
  unfold State.trackReady
  refine ite_ind ?_ ?_
  · with_reducible assumption
  · extract_lets +onlyGivenNames x68
    clear_value x68
    extract_lets +onlyGivenNames x73
    extract_lets +onlyGivenNames x75
    have h75 : Keeps s0 x75
    · unfold x75
      refine keeps_mk ?_ rfl rfl rfl rfl rfl rfl rfl
      with_reducible assumption
    clear_value x75
    extract_lets +onlyGivenNames x78
    clear_value x78
    extract_lets +onlyGivenNames x79
    clear_value x79
    extract_lets +onlyGivenNames x80
    clear_value x80
    refine keeps_mk ?_ rfl rfl rfl rfl rfl rfl rfl
    with_reducible assumption

theorem State.trackAtTick_keeps {s0 : State} {s : State} (h : Keeps s0 s) :
    Keeps s0 (State.trackAtTick s) := by
  unfold State.trackAtTick
  split
  · with_reducible assumption
  · refine ite_ind ?_ ?_
    · with_reducible assumption
    · extract_lets +onlyGivenNames x76
      extract_lets +onlyGivenNames x77
      have h77 : Keeps s0 x77
      · unfold x77
        refine keeps_mk ?_ rfl rfl rfl rfl rfl rfl rfl
        with_reducible assumption
      clear_value x77
      refine ite_ind ?_ ?_
      · with_reducible assumption
      · extract_lets +onlyGivenNames x81
        clear_value x81
        extract_lets +onlyGivenNames x82
        extract_lets +onlyGivenNames x83
        have h83 : Keeps s0 x83
        · unfold x83
          refine keeps_mk ?_ rfl rfl rfl rfl rfl rfl rfl
          with_reducible assumption
        clear_value x83
        refine keeps_foldl ?_ ?_
        · intro a84 a85 h86
          refine State.loopAt_keeps _ _ _ ?_
          with_reducible assumption
        · with_reducible assumption

end Sys2Proof.Machine
end

