-- ==== Sys2Proof/Laws/KeepsSpe.lean ====
section
/-! SUPPORT. Every operation of Machine/Spe.lean keeps the relation of Laws/Keeps.lean. -/
namespace Sys2Proof.Machine

theorem State.setSpe_keeps {s0 : State} {s : State} (v : SpeSys) (h : Keeps s0 s) :
    Keeps s0 (State.setSpe s v) := by
  unfold State.setSpe
  refine keeps_mk ?_ rfl rfl rfl rfl rfl rfl rfl
  with_reducible assumption

theorem State.speCount_keeps {s0 : State} {s : State} (k : ℕ) (h : Keeps s0 s) :
    Keeps s0 (State.speCount s k) := by
  unfold State.speCount
  refine State.bump_keeps _ _ ?_
  with_reducible assumption

theorem State.speDiversity_keeps {s0 : State} {s : State} (h : Keeps s0 s) :
    Keeps s0 (State.speDiversity s) := by
  unfold State.speDiversity
  extract_lets +onlyGivenNames x0
  clear_value x0
  refine ite_ind ?_ ?_
  · with_reducible assumption
  · extract_lets +onlyGivenNames x0
    extract_lets +onlyGivenNames x1
    have h1 : Keeps s0 x1
    · unfold x1
      refine State.setSpe_keeps _ ?_
      with_reducible assumption
    clear_value x1
    extract_lets +onlyGivenNames x9
    clear_value x9
    refine State.raise_keeps _ _ _ ?_
    refine State.wr_keeps _ _ _ ?_
    with_reducible assumption

theorem State.speReturn_keeps {s0 : State} {s : State} (h : Keeps s0 s) :
    Keeps s0 (State.speReturn s) := by
  unfold State.speReturn
  extract_lets +onlyGivenNames x2
  have h2 : Keeps s0 x2
  · unfold x2
    refine State.speDiversity_keeps ?_
    refine State.wr_keeps _ _ _ ?_
    with_reducible assumption
  clear_value x2
  refine State.wr_keeps _ _ _ ?_
  with_reducible assumption

theorem State.speMissed_keeps {s0 : State} {s : State} (reason : ℕ) (h : Keeps s0 s) :
    Keeps s0 (State.speMissed s reason) := by
  unfold State.speMissed
  extract_lets +onlyGivenNames x1
  clear_value x1
  extract_lets +onlyGivenNames x2
  extract_lets +onlyGivenNames x3
  have h3 : Keeps s0 x3
  · unfold x3
    refine State.setSpe_keeps _ ?_
    with_reducible assumption
  clear_value x3
  refine ite_ind ?_ ?_
  · with_reducible assumption
  · extract_lets +onlyGivenNames x2
    extract_lets +onlyGivenNames x0
    have h0 : Keeps s0 x0
    · unfold x0
      refine State.setSpe_keeps _ ?_
      with_reducible assumption
    clear_value x0
    refine State.raise_keeps _ _ _ ?_
    with_reducible assumption

theorem State.speFrameStart_keeps {s0 : State} {s : State} (h : Keeps s0 s) :
    Keeps s0 (State.speFrameStart s) := by
  unfold State.speFrameStart
  extract_lets +onlyGivenNames x4
  clear_value x4
  extract_lets +onlyGivenNames x7
  extract_lets +onlyGivenNames x11
  have h11 : Keeps s0 x11
  · unfold x11
    refine State.setSpe_keeps _ ?_
    with_reducible assumption
  clear_value x11
  refine keeps_foldl ?_ ?_
  · intro a3 a4 h5
    refine State.raise_keeps _ _ _ ?_
    with_reducible assumption
  · with_reducible assumption

theorem State.speStore_keeps {s0 : State} {s : State} (r : SpeRecv) (status : ℕ) (payload : List Byte) (h : Keeps s0 s) :
    Keeps s0 (State.speStore s r status payload) := by
  unfold State.speStore
  extract_lets +onlyGivenNames x0
  extract_lets +onlyGivenNames x2
  have h2 : Keeps s0 x2
  · unfold x2
    refine ite_ind ?_ ?_
    · refine State.setSpe_keeps _ ?_
      with_reducible assumption
    · with_reducible assumption
  clear_value x2
  extract_lets +onlyGivenNames x0
  clear_value x0
  refine ite_ind ?_ ?_
  · refine State.setSpe_keeps _ ?_
    with_reducible assumption
  · split
    · refine State.speMissed_keeps _ ?_
      refine State.speCount_keeps _ ?_
      with_reducible assumption
    · extract_lets +onlyGivenNames x0
      have h0 : Keeps s0 x0
      · unfold x0
        refine State.ownBytes_keeps _ _ ?_
        refine State.ownBytes_keeps _ _ ?_
        with_reducible assumption
      clear_value x0
      extract_lets +onlyGivenNames x3
      extract_lets +onlyGivenNames x0
      have h0 : Keeps s0 x0
      · unfold x0
        refine State.wrBit_keeps _ _ _ _ ?_
        refine State.setSpe_keeps _ ?_
        with_reducible assumption
      clear_value x0
      refine State.raise_keeps _ _ _ ?_
      with_reducible assumption

theorem State.speAbandonRecv_keeps {s0 : State} {s : State} (status : ℕ) (h : Keeps s0 s) :
    Keeps s0 (State.speAbandonRecv s status) := by
  unfold State.speAbandonRecv
  split
  · with_reducible assumption
  · extract_lets +onlyGivenNames x0
    extract_lets +onlyGivenNames x2
    have h2 : Keeps s0 x2
    · unfold x2
      refine State.speCount_keeps _ ?_
      refine State.setSpe_keeps _ ?_
      with_reducible assumption
    clear_value x2
    refine ite_ind ?_ ?_
    · refine State.speStore_keeps _ _ _ ?_
      with_reducible assumption
    · with_reducible assumption

theorem State.speFalse_keeps {s0 : State} {s : State} (h : Keeps s0 s) :
    Keeps s0 (State.speFalse s) := by
  unfold State.speFalse
  split
  · extract_lets +onlyGivenNames x1
    extract_lets +onlyGivenNames x4
    have h4 : Keeps s0 x4
    · unfold x4
      refine State.setSpe_keeps _ ?_
      with_reducible assumption
    clear_value x4
    refine ite_ind ?_ ?_
    · refine State.setSpe_keeps _ ?_
      with_reducible assumption
    · refine State.speMissed_keeps _ ?_
      refine State.speCount_keeps _ ?_
      with_reducible assumption
  · refine State.setSpe_keeps _ ?_
    with_reducible assumption
  · with_reducible assumption

theorem State.speComplete_keeps {s0 : State} {s : State} (r : SpeRecv) (status : ℕ) (payload : List Byte) (accepted : Bool) (h : Keeps s0 s) :
    Keeps s0 (State.speComplete s r status payload accepted) := by
  unfold State.speComplete
  extract_lets +onlyGivenNames x0
  clear_value x0
  extract_lets +onlyGivenNames x1
  extract_lets +onlyGivenNames x0
  have h0 : Keeps s0 x0
  · unfold x0
    refine State.setSpe_keeps _ ?_
    with_reducible assumption
  clear_value x0
  extract_lets +onlyGivenNames x0
  have h0 : Keeps s0 x0
  · unfold x0
    refine State.speCount_keeps _ ?_
    with_reducible assumption
  clear_value x0
  extract_lets +onlyGivenNames x1
  have h1 : Keeps s0 x1
  · unfold x1
    refine State.speStore_keeps _ _ _ ?_
    with_reducible assumption
  clear_value x1
  extract_lets +onlyGivenNames x0
  clear_value x0
  extract_lets +onlyGivenNames x0
  have h0 : Keeps s0 x0
  · unfold x0
    refine ite_ind ?_ ?_
    · refine State.wrI_keeps _ _ _ _ ?_
      with_reducible assumption
    · with_reducible assumption
  clear_value x0
  extract_lets +onlyGivenNames x0
  extract_lets +onlyGivenNames x3
  have h3 : Keeps s0 x3
  · unfold x3
    refine ite_ind ?_ ?_
    · refine State.setSpe_keeps _ ?_
      with_reducible assumption
    · with_reducible assumption
  clear_value x3
  extract_lets +onlyGivenNames x0
  have h0 : Keeps s0 x0
  · unfold x0
    refine State.speReturn_keeps ?_
    with_reducible assumption
  clear_value x0
  split
  · with_reducible assumption
  · refine ite_ind ?_ ?_
    · refine State.speMissed_keeps _ ?_
      refine State.speCount_keeps _ ?_
      with_reducible assumption
    · refine ite_ind ?_ ?_
      · refine State.setSpe_keeps _ ?_
        with_reducible assumption
      · with_reducible assumption

theorem State.speDropSend_keeps {s0 : State} {s : State} (h : Keeps s0 s) :
    Keeps s0 (State.speDropSend s) := by
  unfold State.speDropSend
  refine State.wr_keeps _ _ _ ?_
  refine State.setSpe_keeps _ ?_
  with_reducible assumption

theorem State.speAbort_keeps {s0 : State} {s : State} (reason : ℕ) (h : Keeps s0 s) :
    Keeps s0 (State.speAbort s reason) := by
  unfold State.speAbort
  split
  · with_reducible assumption
  · extract_lets +onlyGivenNames x1
    have h1 : Keeps s0 x1
    · unfold x1
      refine State.raise_keeps _ _ _ ?_
      refine State.speDropSend_keeps ?_
      with_reducible assumption
    clear_value x1
    refine ite_ind ?_ ?_
    · with_reducible assumption
    · refine State.speReturn_keeps ?_
      with_reducible assumption

theorem State.speTxSend_keeps {s0 : State} {s : State} (rec : List Byte) (h : Keeps s0 s) :
    KeepsR s0 (State.speTxSend s rec) := by
  unfold State.speTxSend
  extract_lets +onlyGivenNames x0
  clear_value x0
  extract_lets +onlyGivenNames x0
  clear_value x0
  extract_lets +onlyGivenNames x3
  clear_value x3
  extract_lets +onlyGivenNames x0
  clear_value x0
  extract_lets +onlyGivenNames x1
  clear_value x1
  extract_lets +onlyGivenNames x2
  clear_value x2
  extract_lets +onlyGivenNames x0
  clear_value x0
  extract_lets +onlyGivenNames x0
  clear_value x0
  extract_lets +onlyGivenNames x1
  clear_value x1
  refine ite_ind ?_ ?_
  · exact keepsR_error
  · refine ite_ind ?_ ?_
    · exact keepsR_error
    · refine ite_ind ?_ ?_
      · exact keepsR_error
      · refine ite_ind ?_ ?_
        · exact keepsR_error
        · refine ite_ind ?_ ?_
          · exact keepsR_error
          · refine ite_ind ?_ ?_
            · exact keepsR_error
            · extract_lets +onlyGivenNames x9
              clear_value x9
              extract_lets +onlyGivenNames x11
              clear_value x11
              refine ite_ind ?_ ?_
              · exact keepsR_error
              · refine ite_ind ?_ ?_
                · exact keepsR_error
                · split
                  · exact keepsR_error
                  · extract_lets +onlyGivenNames x19
                    extract_lets +onlyGivenNames x20
                    refine ite_ind ?_ ?_
                    · unfold x20
                      extract_lets +onlyGivenNames x21
                      clear_value x21
                      refine keepsR_ok ?_
                      refine State.wr_keeps _ _ _ ?_
                      refine State.setSpe_keeps _ ?_
                      with_reducible assumption
                    · split
                      · unfold x20
                        extract_lets +onlyGivenNames x22
                        clear_value x22
                        refine keepsR_ok ?_
                        refine State.wr_keeps _ _ _ ?_
                        refine State.setSpe_keeps _ ?_
                        with_reducible assumption
                      · exact keepsR_error

theorem State.speTxCancel_keeps {s0 : State} {s : State} (v : ℕ) (h : Keeps s0 s) :
    KeepsR s0 (State.speTxCancel s v) := by
  unfold State.speTxCancel
  refine keepsR_ok ?_
  refine ite_ind ?_ ?_
  · refine State.speAbort_keeps _ ?_
    with_reducible assumption
  · with_reducible assumption

theorem State.speRxRelease_keeps {s0 : State} {s : State} (v : ℕ) (h : Keeps s0 s) :
    KeepsR s0 (State.speRxRelease s v) := by
  unfold State.speRxRelease
  refine ite_ind ?_ ?_
  · refine keepsR_ok ?_
    refine State.wr_keeps _ _ _ ?_
    with_reducible assumption
  · refine ite_ind ?_ ?_
    · refine keepsR_ok ?_
      refine State.wrBit_keeps _ _ _ _ ?_
      with_reducible assumption
    · exact keepsR_error

theorem State.speTxReady_keeps {s0 : State} {s : State} (h : Keeps s0 s) :
    Keeps s0 (State.speTxReady s) := by
  unfold State.speTxReady
  split
  · refine ite_ind ?_ ?_
    · extract_lets +onlyGivenNames x2
      have h2 : Keeps s0 x2
      · unfold x2
        refine State.speAbandonRecv_keeps _ ?_
        with_reducible assumption
      clear_value x2
      refine State.wr_keeps _ _ _ ?_
      refine State.setSpe_keeps _ ?_
      with_reducible assumption
    · with_reducible assumption
  · with_reducible assumption

theorem State.speTxStart_keeps {s0 : State} {s : State} (h : Keeps s0 s) :
    Keeps s0 (State.speTxStart s) := by
  unfold State.speTxStart
  split
  · refine ite_ind ?_ ?_
    · with_reducible assumption
    · extract_lets +onlyGivenNames x5
      have h5 : Keeps s0 x5
      · unfold x5
        refine State.speDiversity_keeps ?_
        with_reducible assumption
      clear_value x5
      extract_lets +onlyGivenNames x6
      clear_value x6
      extract_lets +onlyGivenNames x7
      clear_value x7
      extract_lets +onlyGivenNames x8
      have h8 : Keeps s0 x8
      · unfold x8
        refine State.wr_keeps _ _ _ ?_
        refine State.settle_keeps _ _ ?_
        with_reducible assumption
      clear_value x8
      split
      · refine State.speAbort_keeps _ ?_
        refine State.consumePoison_keeps _ ?_
        with_reducible assumption
      · extract_lets +onlyGivenNames x14
        clear_value x14
        extract_lets +onlyGivenNames x15
        clear_value x15
        extract_lets +onlyGivenNames x16
        extract_lets +onlyGivenNames x17
        have h17 : Keeps s0 x17
        · unfold x17
          refine State.wr_keeps _ _ _ ?_
          refine State.setSpe_keeps _ ?_
          with_reducible assumption
        clear_value x17
        refine ite_ind ?_ ?_
        · refine State.raise_keeps _ _ _ ?_
          refine State.speCount_keeps _ ?_
          with_reducible assumption
        · with_reducible assumption
  · with_reducible assumption

theorem State.speTxDone_keeps {s0 : State} {s : State} (h : Keeps s0 s) :
    Keeps s0 (State.speTxDone s) := by
  unfold State.speTxDone
  split
  · refine ite_ind ?_ ?_
    · with_reducible assumption
    · extract_lets +onlyGivenNames x3
      have h3 : Keeps s0 x3
      · unfold x3
        refine State.speDropSend_keeps ?_
        with_reducible assumption
      clear_value x3
      extract_lets +onlyGivenNames x4
      have h4 : Keeps s0 x4
      · unfold x4
        refine ite_ind ?_ ?_
        · with_reducible assumption
        · refine State.raise_keeps _ _ _ ?_
          refine State.speCount_keeps _ ?_
          refine State.wr_keeps _ _ _ ?_
          with_reducible assumption
      clear_value x4
      refine State.speReturn_keeps ?_
      with_reducible assumption
  · with_reducible assumption

theorem State.speDwell_keeps {s0 : State} {s : State} (h : Keeps s0 s) :
    Keeps s0 (State.speDwell s) := by
  unfold State.speDwell
  refine ite_ind ?_ ?_
  · extract_lets +onlyGivenNames x10
    extract_lets +onlyGivenNames x12
    have h12 : Keeps s0 x12
    · unfold x12
      refine State.setSpe_keeps _ ?_
      with_reducible assumption
    clear_value x12
    refine State.wr_keeps _ _ _ ?_
    with_reducible assumption
  · with_reducible assumption

theorem State.speSelect_keeps {s0 : State} {s : State} (d : SpeDetect) (h : Keeps s0 s) :
    Keeps s0 (State.speSelect s d).2 := by
  unfold State.speSelect
  split
  · with_reducible assumption
  · split
    · dsimp -zeta only
      refine ite_ind ?_ ?_
      · refine State.setSpe_keeps _ ?_
        with_reducible assumption
      · with_reducible assumption
    · with_reducible assumption

theorem State.speStart_keeps {s0 : State} {s : State} (det : SpeDetection) (d : SpeDetect) (h : Keeps s0 s) :
    Keeps s0 (State.speStart s det d) := by
  unfold State.speStart
  extract_lets +onlyGivenNames x13
  have h13 : Keeps s0 x13.2
  · unfold x13
    refine State.speSelect_keeps _ ?_
    with_reducible assumption
  clear_value x13
  extract_lets +onlyGivenNames x36
  have h36 : Keeps s0 x36
  · unfold x36
    refine State.wr_keeps _ _ _ ?_
    with_reducible assumption
  clear_value x36
  refine State.setSpe_keeps _ ?_
  with_reducible assumption

theorem State.speDetect_keeps {s0 : State} {s : State} (d : SpeDetect) (h : Keeps s0 s) :
    Keeps s0 (State.speDetect s d) := by
  unfold State.speDetect
  refine ite_ind ?_ ?_
  · with_reducible assumption
  · extract_lets +onlyGivenNames x18
    clear_value x18
    split
    · refine State.speStart_keeps _ _ ?_
      with_reducible assumption
    · extract_lets +onlyGivenNames x41
      clear_value x41
      refine ite_ind ?_ ?_
      · refine State.speStart_keeps _ _ ?_
        refine State.speCount_keeps _ ?_
        with_reducible assumption
      · refine ite_ind ?_ ?_
        · refine State.speStart_keeps _ _ ?_
          refine State.speAbandonRecv_keeps _ ?_
          with_reducible assumption
        · extract_lets +onlyGivenNames x47
          clear_value x47
          refine ite_ind ?_ ?_
          · refine State.setSpe_keeps _ ?_
            with_reducible assumption
          · with_reducible assumption

theorem State.speSync_keeps {s0 : State} {s : State} (f : SpeSyncFound) (h : Keeps s0 s) :
    Keeps s0 (State.speSync s f) := by
  unfold State.speSync
  split
  · refine ite_ind ?_ ?_
    · refine State.setSpe_keeps _ ?_
      with_reducible assumption
    · with_reducible assumption
  · with_reducible assumption

theorem State.speSyncExpiry_keeps {s0 : State} {s : State} (h : Keeps s0 s) :
    Keeps s0 (State.speSyncExpiry s) := by
  unfold State.speSyncExpiry
  split
  · refine ite_ind ?_ ?_
    · refine State.speFalse_keeps ?_
      refine State.speCount_keeps _ ?_
      with_reducible assumption
    · with_reducible assumption
  · with_reducible assumption

theorem State.speHeaderIn_keeps {s0 : State} {s : State} (w : ℕ) (h : Keeps s0 s) :
    Keeps s0 (State.speHeaderIn s w) := by
  unfold State.speHeaderIn
  split
  · refine ite_ind ?_ ?_
    · with_reducible assumption
    · refine ite_ind ?_ ?_
      · refine State.speFalse_keeps ?_
        refine State.speCount_keeps _ ?_
        with_reducible assumption
      · extract_lets +onlyGivenNames x25
        clear_value x25
        refine ite_ind ?_ ?_
        · refine State.speComplete_keeps _ _ _ _ ?_
          with_reducible assumption
        · refine State.setSpe_keeps _ ?_
          with_reducible assumption
  · with_reducible assumption

theorem State.speRx_keeps {s0 : State} {s : State} (payload : List Byte) (crc : ℕ) (h : Keeps s0 s) :
    Keeps s0 (State.speRx s payload crc) := by
  unfold State.speRx
  split
  · split
    · with_reducible assumption
    · extract_lets +onlyGivenNames x23
      clear_value x23
      extract_lets +onlyGivenNames x24
      clear_value x24
      refine ite_ind ?_ ?_
      · refine State.speComplete_keeps _ _ _ _ ?_
        with_reducible assumption
      · extract_lets +onlyGivenNames x26
        clear_value x26
        extract_lets +onlyGivenNames x27
        clear_value x27
        refine State.speComplete_keeps _ _ _ _ ?_
        with_reducible assumption
  · with_reducible assumption

theorem State.speCfoMove_keeps {s0 : State} {s : State} (h : Keeps s0 s) :
    Keeps s0 (State.speCfoMove s) := by
  unfold State.speCfoMove
  split
  · refine ite_ind ?_ ?_
    · with_reducible assumption
    · extract_lets +onlyGivenNames x28
      clear_value x28
      extract_lets +onlyGivenNames x32
      clear_value x32
      extract_lets +onlyGivenNames x34
      clear_value x34
      extract_lets +onlyGivenNames x35
      clear_value x35
      extract_lets +onlyGivenNames x38
      clear_value x38
      extract_lets +onlyGivenNames x39
      extract_lets +onlyGivenNames x40
      have h40 : Keeps s0 x40
      · unfold x40
        refine State.setSpe_keeps _ ?_
        with_reducible assumption
      clear_value x40
      extract_lets +onlyGivenNames x42
      have h42 : Keeps s0 x42
      · unfold x42
        refine State.wrI_keeps _ _ _ _ ?_
        with_reducible assumption
      clear_value x42
      refine ite_ind ?_ ?_
      · refine State.raise_keeps _ _ _ ?_
        with_reducible assumption
      · with_reducible assumption
  · with_reducible assumption

theorem State.synpLock_keeps {s0 : State} {s : State} (h : Keeps s0 s) :
    Keeps s0 (State.synpLock s) := by
  unfold State.synpLock
  split
  · extract_lets +onlyGivenNames x31
    extract_lets +onlyGivenNames x33
    have h33 : Keeps s0 x33
    · unfold x33
      refine State.setSpe_keeps _ ?_
      with_reducible assumption
    clear_value x33
    refine ite_ind ?_ ?_
    · refine State.speReturn_keeps ?_
      with_reducible assumption
    · with_reducible assumption
  · with_reducible assumption

theorem State.synpRelock_keeps {s0 : State} {s : State} (h : Keeps s0 s) :
    Keeps s0 (State.synpRelock s) := by
  unfold State.synpRelock
  extract_lets +onlyGivenNames x29
  clear_value x29
  extract_lets +onlyGivenNames x30
  have h30 : Keeps s0 x30
  · unfold x30
    refine State.speAbort_keeps _ ?_
    refine State.speAbandonRecv_keeps _ ?_
    with_reducible assumption
  clear_value x30
  extract_lets +onlyGivenNames x37
  have h37 : Keeps s0 x37
  · unfold x37
    refine ite_ind ?_ ?_
    · refine State.speReturn_keeps ?_
      with_reducible assumption
    · with_reducible assumption
  clear_value x37
  extract_lets +onlyGivenNames x43
  have h43 : Keeps s0 x43
  · unfold x43
    refine State.wrI_keeps _ _ _ _ ?_
    with_reducible assumption
  clear_value x43
  refine ite_ind ?_ ?_
  · with_reducible assumption
  · refine State.setSpe_keeps _ ?_
    with_reducible assumption

theorem State.speOff_keeps {s0 : State} {s : State} (h : Keeps s0 s) :
    Keeps s0 (State.speOff s) := by
  unfold State.speOff
  extract_lets +onlyGivenNames x44
  have h44 : Keeps s0 x44
  · unfold x44
    refine State.speAbort_keeps _ ?_
    refine State.speAbandonRecv_keeps _ ?_
    with_reducible assumption
  clear_value x44
  refine State.wr_keeps _ _ _ ?_
  refine State.setSpe_keeps _ ?_
  with_reducible assumption

theorem State.synpStart_keeps {s0 : State} {s : State} (h : Keeps s0 s) :
    Keeps s0 (State.synpStart s) := by
  unfold State.synpStart
  refine ite_ind ?_ ?_
  · with_reducible assumption
  · refine State.setSpe_keeps _ ?_
    with_reducible assumption

theorem State.speFollow_keeps {s0 : State} {s : State} (h : Keeps s0 s) :
    Keeps s0 (State.speFollow s) := by
  unfold State.speFollow
  refine ite_ind ?_ ?_
  · refine ite_ind ?_ ?_
    · refine State.synpStart_keeps ?_
      with_reducible assumption
    · refine ite_ind ?_ ?_
      · with_reducible assumption
      · refine State.speOff_keeps ?_
        with_reducible assumption
  · refine ite_ind ?_ ?_
    · refine ite_ind ?_ ?_
      · refine State.speReturn_keeps ?_
        with_reducible assumption
      · refine State.synpStart_keeps ?_
        with_reducible assumption
    · split
      · extract_lets +onlyGivenNames x48
        clear_value x48
        extract_lets +onlyGivenNames x49
        clear_value x49
        refine ite_ind ?_ ?_
        · refine State.speAbort_keeps _ ?_
          with_reducible assumption
        · with_reducible assumption
      · with_reducible assumption

theorem State.speReturnChanged_keeps {s0 : State} {s : State} (h : Keeps s0 s) :
    Keeps s0 (State.speReturnChanged s) := by
  unfold State.speReturnChanged
  extract_lets +onlyGivenNames x45
  clear_value x45
  refine ite_ind ?_ ?_
  · refine State.speReturn_keeps ?_
    with_reducible assumption
  · with_reducible assumption

theorem State.speLeaseEnds_keeps {s0 : State} {s : State} (h : Keeps s0 s) :
    Keeps s0 (State.speLeaseEnds s) := by
  unfold State.speLeaseEnds
  extract_lets +onlyGivenNames x46
  have h46 : Keeps s0 x46
  · unfold x46
    refine State.speAbort_keeps _ ?_
    refine State.speAbandonRecv_keeps _ ?_
    with_reducible assumption
  clear_value x46
  refine ite_ind ?_ ?_
  · with_reducible assumption
  · refine State.speReturn_keeps ?_
    with_reducible assumption

end Sys2Proof.Machine
end

