-- ==== Sys2Proof/Laws/KeepsLinkPhy.lean ====
section
/-! SUPPORT. Every operation of Machine/LinkPhy.lean keeps the relation of Laws/Keeps.lean. -/
namespace Sys2Proof.Machine

theorem State.setPort_keeps {s0 : State} {s : State} (p : ℕ) (v : PortSys) (h : Keeps s0 s) :
    Keeps s0 (State.setPort s p v) := by
  unfold State.setPort
  refine keeps_mk ?_ rfl rfl rfl rfl rfl rfl rfl
  with_reducible assumption

theorem State.enterPort_keeps {s0 : State} {s : State} (p : ℕ) (st : ℕ) (h : Keeps s0 s) :
    Keeps s0 (State.enterPort s p st) := by
  unfold State.enterPort
  extract_lets +onlyGivenNames x1
  have h1 : Keeps s0 x1
  · unfold x1
    refine State.wr_keeps _ _ _ ?_
    with_reducible assumption
  clear_value x1
  refine State.setPort_keeps _ _ ?_
  with_reducible assumption

theorem State.portStart_keeps {s0 : State} {s : State} (p : ℕ) (h : Keeps s0 s) :
    Keeps s0 (State.portStart s p) := by
  unfold State.portStart
  refine ite_ind ?_ ?_
  · refine State.enterPort_keeps _ _ ?_
    with_reducible assumption
  · with_reducible assumption

theorem State.clearLanes_keeps {s0 : State} {s : State} (p : ℕ) (h : Keeps s0 s) :
    Keeps s0 (State.clearLanes s p) := by
  unfold State.clearLanes
  extract_lets +onlyGivenNames x0
  clear_value x0
  extract_lets +onlyGivenNames x1
  have h1 : Keeps s0 x1
  · unfold x1
    refine State.setPort_keeps _ _ ?_
    with_reducible assumption
  clear_value x1
  refine keeps_foldl ?_ ?_
  · intro a0 a1 h2
    refine State.wr_keeps _ _ _ ?_
    with_reducible assumption
  · with_reducible assumption

theorem State.budgetReport_keeps {s0 : State} {s : State} (h : Keeps s0 s) :
    Keeps s0 (State.budgetReport s) := by
  unfold State.budgetReport
  refine keeps_foldl ?_ ?_
  · intro a0 a1 h2
    refine ite_ind ?_ ?_
    · refine State.raise_keeps _ _ _ ?_
      with_reducible assumption
    · with_reducible assumption
  · with_reducible assumption

theorem State.chainNorth_keeps {s0 : State} {s : State} (h : Keeps s0 s) :
    Keeps s0 (State.chainNorth s) := by
  unfold State.chainNorth
  extract_lets +onlyGivenNames x0
  clear_value x0
  extract_lets +onlyGivenNames x0
  clear_value x0
  extract_lets +onlyGivenNames x2
  have h2 : Keeps s0 x2
  · unfold x2
    refine ite_ind ?_ ?_
    · refine State.setPort_keeps _ _ ?_
      with_reducible assumption
    · with_reducible assumption
  clear_value x2
  refine ite_ind ?_ ?_
  · refine State.raise_keeps _ _ _ ?_
    refine State.wr_keeps _ _ _ ?_
    with_reducible assumption
  · with_reducible assumption

theorem State.chainIn_keeps {s0 : State} {s : State} (p : ℕ) (devices : ℕ) (h : Keeps s0 s) :
    Keeps s0 (State.chainIn s p devices) := by
  unfold State.chainIn
  refine ite_ind ?_ ?_
  · refine State.chainNorth_keeps ?_
    refine keeps_mk ?_ rfl rfl rfl rfl rfl rfl rfl
    with_reducible assumption
  · with_reducible assumption

theorem State.portBack_keeps {s0 : State} {s : State} (p : ℕ) (h : Keeps s0 s) :
    Keeps s0 (State.portBack s p) := by
  unfold State.portBack
  extract_lets +onlyGivenNames x0
  have h0 : Keeps s0 x0
  · unfold x0
    refine State.clearLanes_keeps _ ?_
    with_reducible assumption
  clear_value x0
  refine State.enterPort_keeps _ _ ?_
  with_reducible assumption

theorem State.portDown_keeps {s0 : State} {s : State} (p : ℕ) (reason : ℕ) (h : Keeps s0 s) :
    Keeps s0 (State.portDown s p reason) := by
  unfold State.portDown
  refine ite_ind ?_ ?_
  · extract_lets +onlyGivenNames x3
    have h3 : Keeps s0 x3
    · unfold x3
      refine State.portBack_keeps _ ?_
      with_reducible assumption
    clear_value x3
    extract_lets +onlyGivenNames x0
    extract_lets +onlyGivenNames x1
    have h1 : Keeps s0 x1
    · unfold x1
      refine keeps_mk ?_ rfl rfl rfl rfl rfl rfl rfl
      with_reducible assumption
    clear_value x1
    extract_lets +onlyGivenNames x0
    have h0 : Keeps s0 x0
    · unfold x0
      refine State.wrEpoch_keeps _ _ _ ?_
      refine State.wr_keeps _ _ _ ?_
      refine State.bump_keeps _ _ ?_
      with_reducible assumption
    clear_value x0
    extract_lets +onlyGivenNames x1
    have h1 : Keeps s0 x1
    · unfold x1
      refine State.raise_keeps _ _ _ ?_
      with_reducible assumption
    clear_value x1
    refine ite_ind ?_ ?_
    · refine State.chainNorth_keeps ?_
      refine keeps_mk ?_ rfl rfl rfl rfl rfl rfl rfl
      with_reducible assumption
    · with_reducible assumption
  · with_reducible assumption

theorem State.portToOff_keeps {s0 : State} {s : State} (p : ℕ) (reason : ℕ) (h : Keeps s0 s) :
    Keeps s0 (State.portToOff s p reason) := by
  unfold State.portToOff
  extract_lets +onlyGivenNames x2
  have h2 : Keeps s0 x2
  · unfold x2
    refine State.portDown_keeps _ _ ?_
    with_reducible assumption
  clear_value x2
  refine ite_ind ?_ ?_
  · with_reducible assumption
  · refine State.enterPort_keeps _ _ ?_
    refine State.clearLanes_keeps _ ?_
    with_reducible assumption

theorem State.detectPulse_keeps {s0 : State} {s : State} (p : ℕ) (found : ℕ) (h : Keeps s0 s) :
    Keeps s0 (State.detectPulse s p found) := by
  unfold State.detectPulse
  refine ite_ind ?_ ?_
  · refine ite_ind ?_ ?_
    · extract_lets +onlyGivenNames x2
      have h2 : Keeps s0 x2
      · unfold x2
        refine State.enterPort_keeps _ _ ?_
        refine State.clearLanes_keeps _ ?_
        with_reducible assumption
      clear_value x2
      refine State.wr_keeps _ _ _ ?_
      with_reducible assumption
    · refine State.setPort_keeps _ _ ?_
      with_reducible assumption
  · with_reducible assumption

theorem State.trainDone_keeps {s0 : State} {s : State} (p : ℕ) (phases : Bool) (h : Keeps s0 s) :
    Keeps s0 (State.trainDone s p phases) := by
  unfold State.trainDone
  refine ite_ind ?_ ?_
  · extract_lets +onlyGivenNames x0
    have h0 : Keeps s0 x0
    · unfold x0
      refine State.enterPort_keeps _ _ ?_
      with_reducible assumption
    clear_value x0
    refine State.setPort_keeps _ _ ?_
    with_reducible assumption
  · with_reducible assumption

theorem State.portStateTimeout_keeps {s0 : State} {s : State} (p : ℕ) (h : Keeps s0 s) :
    Keeps s0 (State.portStateTimeout s p) := by
  unfold State.portStateTimeout
  split
  · refine ite_ind ?_ ?_
    · extract_lets +onlyGivenNames x1
      clear_value x1
      refine State.wr_keeps _ _ _ ?_
      refine State.bump_keeps _ _ ?_
      refine State.portBack_keeps _ ?_
      with_reducible assumption
    · with_reducible assumption
  · with_reducible assumption

theorem State.failedTimeout_keeps {s0 : State} {s : State} (p : ℕ) (h : Keeps s0 s) :
    Keeps s0 (State.failedTimeout s p) := by
  unfold State.failedTimeout
  refine ite_ind ?_ ?_
  · refine State.portBack_keeps _ ?_
    with_reducible assumption
  · with_reducible assumption

theorem State.judgeReady_keeps {s0 : State} {s : State} (p : ℕ) (h : Keeps s0 s) :
    Keeps s0 (State.judgeReady s p) := by
  unfold State.judgeReady
  extract_lets +onlyGivenNames x0
  clear_value x0
  extract_lets +onlyGivenNames x0
  have h0 : Keeps s0 x0
  · unfold x0
    refine ite_ind ?_ ?_
    · refine State.setPort_keeps _ _ ?_
      with_reducible assumption
    · with_reducible assumption
  clear_value x0
  refine ite_ind ?_ ?_
  · refine State.enterPort_keeps _ _ ?_
    with_reducible assumption
  · with_reducible assumption

theorem State.lockIn_keeps {s0 : State} {s : State} (p : ℕ) (ready : Bool) (own : ℕ) (skews : List ℕ) (h : Keeps s0 s) :
    Keeps s0 (State.lockIn s p ready own skews) := by
  unfold State.lockIn
  refine ite_ind ?_ ?_
  · extract_lets +onlyGivenNames x1
    have h1 : Keeps s0 x1
    · unfold x1
      refine keeps_foldl ?_ ?_
      · intro a2 a3 h4
        refine State.wr_keeps _ _ _ ?_
        refine State.wr_keeps _ _ _ ?_
        with_reducible assumption
      · with_reducible assumption
    clear_value x1
    extract_lets +onlyGivenNames x0
    clear_value x0
    extract_lets +onlyGivenNames x1
    have h1 : Keeps s0 x1
    · unfold x1
      refine State.setPort_keeps _ _ ?_
      with_reducible assumption
    clear_value x1
    refine State.judgeReady_keeps _ ?_
    with_reducible assumption
  · with_reducible assumption

theorem State.capsIn_keeps {s0 : State} {s : State} (p : ℕ) (m : List Byte) (h : Keeps s0 s) :
    Keeps s0 (State.capsIn s p m) := by
  unfold State.capsIn
  refine ite_ind ?_ ?_
  · extract_lets +onlyGivenNames x0
    have h0 : Keeps s0 x0
    · unfold x0
      refine State.setDom_keeps _ _ _ ?_
      with_reducible assumption
    clear_value x0
    split
    · extract_lets +onlyGivenNames x3
      have h3 : Keeps s0 x3
      · unfold x3
        refine State.enterPort_keeps _ _ ?_
        refine State.clearLanes_keeps _ ?_
        with_reducible assumption
      clear_value x3
      refine State.raise_keeps _ _ _ ?_
      refine State.wr_keeps _ _ _ ?_
      with_reducible assumption
    · extract_lets +onlyGivenNames x1
      clear_value x1
      refine State.setPort_keeps _ _ ?_
      with_reducible assumption
  · with_reducible assumption

theorem State.linkUp_keeps {s0 : State} {s : State} (p : ℕ) (h : Keeps s0 s) :
    Keeps s0 (State.linkUp s p) := by
  unfold State.linkUp
  extract_lets +onlyGivenNames x0
  clear_value x0
  extract_lets +onlyGivenNames x0
  have h0 : Keeps s0 x0
  · unfold x0
    refine State.enterPort_keeps _ _ ?_
    with_reducible assumption
  clear_value x0
  extract_lets +onlyGivenNames x1
  clear_value x1
  extract_lets +onlyGivenNames x2
  clear_value x2
  extract_lets +onlyGivenNames x4
  clear_value x4
  extract_lets +onlyGivenNames x6
  clear_value x6
  extract_lets +onlyGivenNames x7
  have h7 : Keeps s0 x7
  · unfold x7
    refine State.setPort_keeps _ _ ?_
    with_reducible assumption
  clear_value x7
  extract_lets +onlyGivenNames x11
  extract_lets +onlyGivenNames x13
  have h13 : Keeps s0 x13
  · unfold x13
    refine keeps_mk ?_ rfl rfl rfl rfl rfl rfl rfl
    with_reducible assumption
  clear_value x13
  extract_lets +onlyGivenNames x19
  have h19 : Keeps s0 x19
  · unfold x19
    refine keeps_foldl ?_ ?_
    · intro a21 a22 h23
      refine ite_ind ?_ ?_
      · refine State.wr_keeps _ _ _ ?_
        with_reducible assumption
      · with_reducible assumption
    · with_reducible assumption
  clear_value x19
  extract_lets +onlyGivenNames x30
  extract_lets +onlyGivenNames x31
  have h31 : Keeps s0 x31
  · unfold x31
    split
    · refine ite_ind ?_ ?_
      · refine keeps_mk ?_ rfl rfl rfl rfl rfl rfl rfl
        with_reducible assumption
      · with_reducible assumption
    · with_reducible assumption
  clear_value x31
  extract_lets +onlyGivenNames x42
  extract_lets +onlyGivenNames x43
  have h43 : Keeps s0 x43
  · unfold x43
    refine ite_ind ?_ ?_
    · refine keeps_mk ?_ rfl rfl rfl rfl rfl rfl rfl
      with_reducible assumption
    · with_reducible assumption
  clear_value x43
  extract_lets +onlyGivenNames x50
  have h50 : Keeps s0 x50
  · unfold x50
    refine State.bump_keeps _ _ ?_
    with_reducible assumption
  clear_value x50
  extract_lets +onlyGivenNames x55
  have h55 : Keeps s0 x55
  · unfold x55
    refine State.raise_keeps _ _ _ ?_
    with_reducible assumption
  clear_value x55
  refine State.budgetReport_keeps ?_
  refine State.chainNorth_keeps ?_
  with_reducible assumption

theorem State.scramblerFrame_keeps {s0 : State} {s : State} (p : ℕ) (h : Keeps s0 s) :
    Keeps s0 (State.scramblerFrame s p) := by
  unfold State.scramblerFrame
  split
  · refine ite_ind ?_ ?_
    · refine State.linkUp_keeps _ ?_
      with_reducible assumption
    · with_reducible assumption
  · with_reducible assumption

theorem State.clockLoss_keeps {s0 : State} {s : State} (p : ℕ) (h : Keeps s0 s) :
    Keeps s0 (State.clockLoss s p) := by
  unfold State.clockLoss
  refine State.portDown_keeps _ _ ?_
  with_reducible assumption

theorem State.linkRetrain_keeps {s0 : State} {s : State} (p : ℕ) (v : ℕ) (h : Keeps s0 s) :
    Keeps s0 (State.linkRetrain s p v) := by
  unfold State.linkRetrain
  refine ite_ind ?_ ?_
  · refine State.portDown_keeps _ _ ?_
    with_reducible assumption
  · with_reducible assumption

theorem State.linkEnabled_keeps {s0 : State} {s : State} (p : ℕ) (v : ℕ) (h : Keeps s0 s) :
    Keeps s0 (State.linkEnabled s p v) := by
  unfold State.linkEnabled
  extract_lets +onlyGivenNames x0
  have h0 : Keeps s0 x0
  · unfold x0
    refine State.wr_keeps _ _ _ ?_
    with_reducible assumption
  clear_value x0
  refine ite_ind ?_ ?_
  · refine State.portToOff_keeps _ _ ?_
    with_reducible assumption
  · refine State.portStart_keeps _ ?_
    with_reducible assumption

theorem State.laneFails_keeps {s0 : State} {s : State} (p : ℕ) (k : ℕ) (reason : ℕ) (h : Keeps s0 s) :
    Keeps s0 (State.laneFails s p k reason) := by
  unfold State.laneFails
  refine ite_ind ?_ ?_
  · with_reducible assumption
  · extract_lets +onlyGivenNames x9
    clear_value x9
    extract_lets +onlyGivenNames x14
    clear_value x14
    extract_lets +onlyGivenNames x16
    clear_value x16
    extract_lets +onlyGivenNames x17
    clear_value x17
    extract_lets +onlyGivenNames x20
    have h20 : Keeps s0 x20
    · unfold x20
      refine State.setPort_keeps _ _ ?_
      with_reducible assumption
    clear_value x20
    extract_lets +onlyGivenNames x25
    have h25 : Keeps s0 x25
    · unfold x25
      refine State.wr_keeps _ _ _ ?_
      with_reducible assumption
    clear_value x25
    extract_lets +onlyGivenNames x28
    have h28 : Keeps s0 x28
    · unfold x28
      refine State.raise_keeps _ _ _ ?_
      with_reducible assumption
    clear_value x28
    refine ite_ind ?_ ?_
    · refine State.portDown_keeps _ _ ?_
      with_reducible assumption
    · with_reducible assumption

theorem State.laneRejoin_keeps {s0 : State} {s : State} (p : ℕ) (k : ℕ) (h : Keeps s0 s) :
    Keeps s0 (State.laneRejoin s p k) := by
  unfold State.laneRejoin
  extract_lets +onlyGivenNames x3
  clear_value x3
  extract_lets +onlyGivenNames x5
  clear_value x5
  refine ite_ind ?_ ?_
  · extract_lets +onlyGivenNames x8
    have h8 : Keeps s0 x8
    · unfold x8
      refine State.setPort_keeps _ _ ?_
      with_reducible assumption
    clear_value x8
    refine State.raise_keeps _ _ _ ?_
    refine State.wr_keeps _ _ _ ?_
    with_reducible assumption
  · with_reducible assumption

theorem State.sendNow_keeps {s0 : State} {s : State} (port : ℕ) (typ : ℕ) (pos : ℕ) (payload : List Byte) (h : Keeps s0 s) :
    Keeps s0 (State.sendNow s port typ pos payload) := by
  unfold State.sendNow
  refine State.sendPacket_keeps _ _ ?_
  with_reducible assumption

theorem State.askResync_keeps {s0 : State} {s : State} (p : ℕ) (h : Keeps s0 s) :
    Keeps s0 (State.askResync s p) := by
  unfold State.askResync
  extract_lets +onlyGivenNames x10
  clear_value x10
  extract_lets +onlyGivenNames x12
  have h12 : Keeps s0 x12
  · unfold x12
    refine State.setPort_keeps _ _ ?_
    with_reducible assumption
  clear_value x12
  refine State.sendPacket_keeps _ _ ?_
  with_reducible assumption

theorem State.loseWords_keeps {s0 : State} {s : State} (p : ℕ) (h : Keeps s0 s) :
    Keeps s0 (State.loseWords s p) := by
  unfold State.loseWords
  refine State.askResync_keeps _ ?_
  refine State.setPort_keeps _ _ ?_
  with_reducible assumption

theorem State.bondLost_keeps {s0 : State} {s : State} (p : ℕ) (h : Keeps s0 s) :
    Keeps s0 (State.bondLost s p) := by
  unfold State.bondLost
  extract_lets +onlyGivenNames x15
  have h15 : Keeps s0 x15
  · unfold x15
    refine State.bump_keeps _ _ ?_
    refine State.loseWords_keeps _ ?_
    with_reducible assumption
  clear_value x15
  extract_lets +onlyGivenNames x24
  clear_value x24
  extract_lets +onlyGivenNames x26
  clear_value x26
  refine ite_ind ?_ ?_
  · extract_lets +onlyGivenNames x29
    have h29 : Keeps s0 x29
    · unfold x29
      refine State.setPort_keeps _ _ ?_
      with_reducible assumption
    clear_value x29
    refine State.raise_keeps _ _ _ ?_
    with_reducible assumption
  · refine State.setPort_keeps _ _ ?_
    with_reducible assumption

theorem State.judgeLane_keeps {s0 : State} {s : State} (p : ℕ) (k : ℕ) (b : Brick) (l : LaneSys) (good : Bool) (idle : Bool) (h : Keeps s0 s) :
    Keeps s0 (State.judgeLane s p k b l good idle) := by
  unfold State.judgeLane
  extract_lets +onlyGivenNames x18
  have h18 : Keeps s0 x18
  · unfold x18
    refine State.addCount_keeps _ _ _ ?_
    with_reducible assumption
  clear_value x18
  extract_lets +onlyGivenNames x27
  have h27 : Keeps s0 x27
  · unfold x27
    refine ite_ind ?_ ?_
    · with_reducible assumption
    · refine State.bump_keeps _ _ ?_
      with_reducible assumption
  clear_value x27
  extract_lets +onlyGivenNames x32
  clear_value x32
  extract_lets +onlyGivenNames x34
  clear_value x34
  extract_lets +onlyGivenNames x36
  clear_value x36
  extract_lets +onlyGivenNames x38
  clear_value x38
  extract_lets +onlyGivenNames x41
  clear_value x41
  extract_lets +onlyGivenNames x45
  clear_value x45
  extract_lets +onlyGivenNames x47
  clear_value x47
  extract_lets +onlyGivenNames x48
  have h48 : Keeps s0 x48
  · unfold x48
    refine State.setPort_keeps _ _ ?_
    with_reducible assumption
  clear_value x48
  extract_lets +onlyGivenNames x54
  have h54 : Keeps s0 x54
  · unfold x54
    refine ite_ind ?_ ?_
    · refine State.wrBit_keeps _ _ _ _ ?_
      with_reducible assumption
    · with_reducible assumption
  clear_value x54
  refine ite_ind ?_ ?_
  · with_reducible assumption
  · refine ite_ind ?_ ?_
    · refine ite_ind ?_ ?_
      · refine State.laneFails_keeps _ _ _ ?_
        with_reducible assumption
      · refine ite_ind ?_ ?_
        · refine State.laneFails_keeps _ _ _ ?_
          with_reducible assumption
        · with_reducible assumption
    · refine ite_ind ?_ ?_
      · refine State.wr_keeps _ _ _ ?_
        with_reducible assumption
      · with_reducible assumption

theorem State.receiveBond_keeps {s0 : State} {s : State} (p : ℕ) (lanes : List LaneBits) (h : Keeps s0 s) :
    Keeps s0 (State.receiveBond s p lanes).2 := by
  unfold State.receiveBond
  extract_lets +onlyGivenNames x33
  clear_value x33
  split
  · with_reducible assumption
  · extract_lets +onlyGivenNames x56
    clear_value x56
    extract_lets +onlyGivenNames x57
    clear_value x57
    extract_lets +onlyGivenNames x58
    clear_value x58
    extract_lets +onlyGivenNames x59
    clear_value x59
    extract_lets +onlyGivenNames x60
    clear_value x60
    extract_lets +onlyGivenNames x61
    clear_value x61
    extract_lets +onlyGivenNames x62
    clear_value x62
    extract_lets +onlyGivenNames x63
    clear_value x63
    extract_lets +onlyGivenNames x64
    clear_value x64
    extract_lets +onlyGivenNames x65
    clear_value x65
    extract_lets +onlyGivenNames x66
    have h66 : Keeps s0 x66
    · unfold x66
      refine State.setPort_keeps _ _ ?_
      with_reducible assumption
    clear_value x66
    extract_lets +onlyGivenNames x67
    clear_value x67
    split
    · dsimp -zeta only
      refine State.portDown_keeps _ _ ?_
      with_reducible assumption
    · extract_lets +onlyGivenNames x68
      clear_value x68
      extract_lets +onlyGivenNames x69
      have h69 : Keeps s0 x69
      · unfold x69
        refine keeps_foldl ?_ ?_
        · intro a70 a71 h72
          refine State.judgeLane_keeps _ _ _ _ _ _ ?_
          with_reducible assumption
        · with_reducible assumption
      clear_value x69
      split
      · extract_lets +onlyGivenNames x73
        clear_value x73
        extract_lets +onlyGivenNames x74
        have h74 : Keeps s0 x74
        · unfold x74
          refine ite_ind ?_ ?_
          · refine keeps_foldl ?_ ?_
            · intro a75 a76 h77
              refine State.wr_keeps _ _ _ ?_
              with_reducible assumption
            · refine State.setPort_keeps _ _ ?_
              with_reducible assumption
          · with_reducible assumption
        clear_value x74
        extract_lets +onlyGivenNames x78
        clear_value x78
        extract_lets +onlyGivenNames x79
        have h79 : Keeps s0 x79
        · unfold x79
          refine ite_ind ?_ ?_
          · refine keeps_foldl ?_ ?_
            · intro a80 a81 h82
              refine ite_ind ?_ ?_
              · refine State.wr_keeps _ _ _ ?_
                with_reducible assumption
              · with_reducible assumption
            · with_reducible assumption
          · with_reducible assumption
        clear_value x79
        extract_lets +onlyGivenNames x83
        have h83 : Keeps s0 x83
        · unfold x83
          refine State.judgeReady_keeps _ ?_
          with_reducible assumption
        clear_value x83
        with_reducible assumption
      · split
        · with_reducible assumption
        · extract_lets +onlyGivenNames x84
          clear_value x84
          extract_lets +onlyGivenNames x85
          have h85 : Keeps s0 x85
          · unfold x85
            refine ite_ind ?_ ?_
            · refine State.setPort_keeps _ _ ?_
              with_reducible assumption
            · with_reducible assumption
          clear_value x85
          extract_lets +onlyGivenNames x86
          clear_value x86
          extract_lets +onlyGivenNames x87
          clear_value x87
          extract_lets +onlyGivenNames x88
          clear_value x88
          split
          · dsimp -zeta only
            refine ite_ind ?_ ?_
            · refine State.bondLost_keeps _ ?_
              with_reducible assumption
            · with_reducible assumption
          · extract_lets +onlyGivenNames x89
            clear_value x89
            extract_lets +onlyGivenNames x90
            have h90 : Keeps s0 x90
            · unfold x90
              refine ite_ind ?_ ?_
              · refine State.bump_keeps _ _ ?_
                with_reducible assumption
              · with_reducible assumption
            clear_value x90
            extract_lets +onlyGivenNames x91
            clear_value x91
            extract_lets +onlyGivenNames x92
            clear_value x92
            extract_lets +onlyGivenNames x93
            clear_value x93
            split
            · with_reducible assumption
            · split
              · with_reducible assumption
              · with_reducible assumption

theorem State.loadProfile_keeps {s0 : State} {s : State} (h : Keeps s0 s) :
    Keeps s0 (State.loadProfile s) := by
  unfold State.loadProfile
  extract_lets +onlyGivenNames x35
  clear_value x35
  extract_lets +onlyGivenNames x37
  clear_value x37
  extract_lets +onlyGivenNames x39
  clear_value x39
  extract_lets +onlyGivenNames x40
  clear_value x40
  extract_lets +onlyGivenNames x44
  clear_value x44
  extract_lets +onlyGivenNames x46
  have h46 : Keeps s0 x46
  · unfold x46
    refine keeps_mk ?_ rfl rfl rfl rfl rfl rfl rfl
    with_reducible assumption
  clear_value x46
  extract_lets +onlyGivenNames x49
  have h49 : Keeps s0 x49
  · unfold x49
    refine keeps_foldl ?_ ?_
    · intro a51 a52 h53
      refine State.wr_keeps _ _ _ ?_
      with_reducible assumption
    · with_reducible assumption
  clear_value x49
  refine ite_ind ?_ ?_
  · refine State.raise_keeps _ _ _ ?_
    with_reducible assumption
  · with_reducible assumption

end Sys2Proof.Machine
end

