-- ==== Sys2Proof/Laws/KeepsCal.lean ====
section
/-! SUPPORT. Every operation of Machine/Cal.lean keeps the relation of Laws/Keeps.lean. -/
namespace Sys2Proof.Machine

theorem State.trimLoad_keeps {s0 : State} {s : State} (h : Keeps s0 s) :
    Keeps s0 (State.trimLoad s) := by
  unfold State.trimLoad
  extract_lets +onlyGivenNames x0
  extract_lets +onlyGivenNames x1
  have h1 : Keeps s0 x1
  · unfold x1
    refine keeps_mk ?_ rfl rfl rfl rfl rfl rfl rfl
    with_reducible assumption
  clear_value x1
  extract_lets +onlyGivenNames x0
  clear_value x0
  extract_lets +onlyGivenNames x1
  have h1 : Keeps s0 x1
  · unfold x1
    refine State.wr_keeps _ _ _ ?_
    with_reducible assumption
  clear_value x1
  refine ite_ind ?_ ?_
  · refine State.wr_keeps _ _ _ ?_
    with_reducible assumption
  · refine State.raise_keeps _ _ _ ?_
    refine State.wr_keeps _ _ _ ?_
    with_reducible assumption

theorem State.trimCheck_keeps {s0 : State} {s : State} (h : Keeps s0 s) :
    Keeps s0 (State.trimCheck s).2 := by
  unfold State.trimCheck
  extract_lets +onlyGivenNames x2
  clear_value x2
  dsimp -zeta only
  refine State.wr_keeps _ _ _ ?_
  with_reducible assumption

theorem State.calPut_keeps {s0 : State} {s : State} (off : ℕ) (l : List Byte) (h : Keeps s0 s) :
    Keeps s0 (State.calPut s off l) := by
  unfold State.calPut
  refine State.ownBytes_keeps _ _ ?_
  with_reducible assumption

theorem State.calIdentity_keeps {s0 : State} {s : State} (h : Keeps s0 s) :
    Keeps s0 (State.calIdentity s) := by
  unfold State.calIdentity
  extract_lets +onlyGivenNames x0
  have h0 : Keeps s0 x0
  · unfold x0
    refine State.zeroRange_keeps _ _ ?_
    with_reducible assumption
  clear_value x0
  refine State.calPut_keeps _ _ ?_
  with_reducible assumption

theorem State.derive_keeps {s0 : State} {s : State} (courses : List ℕ) (h : Keeps s0 s) :
    Keeps s0 (State.derive s courses).2 := by
  unfold State.derive
  extract_lets +onlyGivenNames x0
  have h0 : Keeps s0 x0
  · unfold x0
    refine keeps_foldl ?_ ?_
    · intro a1 a2 h3
      refine State.settle_keeps _ _ ?_
      with_reducible assumption
    · with_reducible assumption
  clear_value x0
  extract_lets +onlyGivenNames x0
  clear_value x0
  extract_lets +onlyGivenNames x3
  clear_value x3
  extract_lets +onlyGivenNames x1
  clear_value x1
  extract_lets +onlyGivenNames x3
  clear_value x3
  extract_lets +onlyGivenNames x0
  clear_value x0
  extract_lets +onlyGivenNames x3
  extract_lets +onlyGivenNames x6
  have h6 : Keeps s0 x6
  · unfold x6
    refine keeps_mk ?_ rfl rfl rfl rfl rfl rfl rfl
    with_reducible assumption
  clear_value x6
  extract_lets +onlyGivenNames x0
  have h0 : Keeps s0 x0
  · unfold x0
    refine keeps_foldl ?_ ?_
    · intro a0 a1 h2
      split
      · refine State.raise_keeps _ _ _ ?_
        refine State.consumePoison_keeps _ ?_
        with_reducible assumption
      · with_reducible assumption
    · with_reducible assumption
  clear_value x0
  with_reducible assumption

theorem State.putCorr_keeps {s0 : State} {s : State} (x : Tab (List Byte) × Tab (List Byte)) (h : Keeps s0 s) :
    Keeps s0 (State.putCorr s x) := by
  unfold State.putCorr
  refine keeps_mk ?_ rfl rfl rfl rfl rfl rfl rfl
  with_reducible assumption

theorem State.noteApplied_keeps {s0 : State} {s : State} (courses : List ℕ) (h : Keeps s0 s) :
    Keeps s0 (State.noteApplied s courses) := by
  unfold State.noteApplied
  refine keeps_foldl ?_ ?_
  · intro a0 a1 h2
    refine keeps_mk ?_ rfl rfl rfl rfl rfl rfl rfl
    with_reducible assumption
  · with_reducible assumption

theorem State.calAtSlot_keeps {s0 : State} {s : State} (h : Keeps s0 s) :
    Keeps s0 (State.calAtSlot s) := by
  unfold State.calAtSlot
  extract_lets +onlyGivenNames x0
  extract_lets +onlyGivenNames x2
  have h2 : Keeps s0 x2
  · unfold x2
    split
    · refine State.putCorr_keeps _ ?_
      refine keeps_mk ?_ rfl rfl rfl rfl rfl rfl rfl
      with_reducible assumption
    · with_reducible assumption
  clear_value x2
  extract_lets +onlyGivenNames x3
  clear_value x3
  refine ite_ind ?_ ?_
  · with_reducible assumption
  · extract_lets +onlyGivenNames x0
    have h0 : Keeps s0 x0.2
    · unfold x0
      refine State.derive_keeps _ ?_
      with_reducible assumption
    clear_value x0
    extract_lets +onlyGivenNames x1
    have h1 : Keeps s0 x1
    · unfold x1
      refine State.noteApplied_keeps _ ?_
      with_reducible assumption
    clear_value x1
    refine keeps_mk ?_ rfl rfl rfl rfl rfl rfl rfl
    with_reducible assumption

theorem State.calRenew_keeps {s0 : State} {s : State} (h : Keeps s0 s) :
    Keeps s0 (State.calRenew s) := by
  unfold State.calRenew
  extract_lets +onlyGivenNames x1
  extract_lets +onlyGivenNames x2
  have h2 : Keeps s0 x2.2
  · unfold x2
    refine State.derive_keeps _ ?_
    refine keeps_mk ?_ rfl rfl rfl rfl rfl rfl rfl
    with_reducible assumption
  clear_value x2
  refine State.noteApplied_keeps _ ?_
  refine State.putCorr_keeps _ ?_
  with_reducible assumption

theorem State.setActiveCal_keeps {s0 : State} {s : State} (r : CalRunSys) (h : Keeps s0 s) :
    Keeps s0 (State.setActiveCal s r) := by
  unfold State.setActiveCal
  refine ite_ind ?_ ?_
  · refine keeps_mk ?_ rfl rfl rfl rfl rfl rfl rfl
    with_reducible assumption
  · refine keeps_mk ?_ rfl rfl rfl rfl rfl rfl rfl
    with_reducible assumption

theorem State.calRun_keeps {s0 : State} {s : State} (rec : List Byte) (h : Keeps s0 s) :
    KeepsR s0 (State.calRun s rec) := by
  unfold State.calRun
  extract_lets +onlyGivenNames x0
  clear_value x0
  extract_lets +onlyGivenNames x0
  clear_value x0
  extract_lets +onlyGivenNames x0
  clear_value x0
  extract_lets +onlyGivenNames x0
  clear_value x0
  extract_lets +onlyGivenNames x0
  clear_value x0
  extract_lets +onlyGivenNames x3
  clear_value x3
  extract_lets +onlyGivenNames x1
  clear_value x1
  extract_lets +onlyGivenNames x0
  clear_value x0
  extract_lets +onlyGivenNames x0
  clear_value x0
  extract_lets +onlyGivenNames x3
  clear_value x3
  extract_lets +onlyGivenNames x3
  clear_value x3
  extract_lets +onlyGivenNames x0
  clear_value x0
  extract_lets +onlyGivenNames x1
  clear_value x1
  refine ite_ind ?_ ?_
  · exact keepsR_error
  · refine ite_ind ?_ ?_
    · exact keepsR_error
    · refine ite_ind ?_ ?_
      · exact keepsR_error
      · refine ite_ind ?_ ?_
        · exact keepsR_error
        · refine ite_ind ?_ ?_
          · exact keepsR_error
          · refine ite_ind ?_ ?_
            · exact keepsR_error
            · refine ite_ind ?_ ?_
              · exact keepsR_error
              · refine ite_ind ?_ ?_
                · exact keepsR_error
                · refine ite_ind ?_ ?_
                  · exact keepsR_error
                  · refine ite_ind ?_ ?_
                    · exact keepsR_error
                    · refine ite_ind ?_ ?_
                      · exact keepsR_error
                      · refine ite_ind ?_ ?_
                        · exact keepsR_error
                        · split
                          · exact keepsR_error
                          · refine ite_ind ?_ ?_
                            · exact keepsR_error
                            · extract_lets +onlyGivenNames x37
                              have h37 : Keeps s0 x37
                              · unfold x37
                                refine keeps_foldl ?_ ?_
                                · intro a39 a40 h41
                                  refine State.takeLease_keeps _ _ _ _ ?_
                                  with_reducible assumption
                                · with_reducible assumption
                              clear_value x37
                              extract_lets +onlyGivenNames x42
                              clear_value x42
                              extract_lets +onlyGivenNames x44
                              have h44 : Keeps s0 x44
                              · unfold x44
                                refine ite_ind ?_ ?_
                                · refine State.sealCommit_keeps _ ?_
                                  with_reducible assumption
                                · with_reducible assumption
                              clear_value x44
                              extract_lets +onlyGivenNames x51
                              have h51 : Keeps s0 x51
                              · unfold x51
                                refine State.wr_keeps _ _ _ ?_
                                with_reducible assumption
                              clear_value x51
                              refine keepsR_ok ?_
                              refine keeps_mk ?_ rfl rfl rfl rfl rfl rfl rfl
                              with_reducible assumption

theorem State.showCalStale_keeps {s0 : State} {s : State} (h : Keeps s0 s) :
    Keeps s0 (State.showCalStale s) := by
  unfold State.showCalStale
  refine keeps_foldl ?_ ?_
  · intro a1 a2 h3
    refine State.wrBit_keeps _ _ _ _ ?_
    with_reducible assumption
  · with_reducible assumption

theorem State.freeCalLeases_keeps {s0 : State} {s : State} (r : CalRunSys) (h : Keeps s0 s) :
    Keeps s0 (State.freeCalLeases s r) := by
  unfold State.freeCalLeases
  refine ite_ind ?_ ?_
  · refine State.freeLease_keeps _ ?_
    refine State.freeLease_keeps _ ?_
    with_reducible assumption
  · refine keeps_foldl ?_ ?_
    · intro a0 a1 h2
      refine State.freeLease_keeps _ ?_
      with_reducible assumption
    · with_reducible assumption

theorem State.calSettled_keeps {s0 : State} {s : State} (h : Keeps s0 s) :
    Keeps s0 (State.calSettled s) := by
  unfold State.calSettled
  extract_lets +onlyGivenNames x1
  have h1 : Keeps s0 x1
  · unfold x1
    refine State.showCalStale_keeps ?_
    with_reducible assumption
  clear_value x1
  refine State.showStale_keeps ?_
  refine keeps_mk ?_ rfl rfl rfl rfl rfl rfl rfl
  with_reducible assumption

theorem State.calFails_keeps {s0 : State} {s : State} (reason : ℕ) (h : Keeps s0 s) :
    Keeps s0 (State.calFails s reason) := by
  unfold State.calFails
  extract_lets +onlyGivenNames x1
  clear_value x1
  split
  · with_reducible assumption
  · extract_lets +onlyGivenNames x0
    extract_lets +onlyGivenNames x1
    have h1 : Keeps s0 x1
    · unfold x1
      refine keeps_mk ?_ rfl rfl rfl rfl rfl rfl rfl
      with_reducible assumption
    extract_lets +onlyGivenNames x0
    have h0 : Keeps s0 x0
    · unfold x0
      refine ite_ind ?_ ?_
      · refine State.freeCalLeases_keeps _ ?_
        with_reducible assumption
      · with_reducible assumption
    clear_value x0
    extract_lets +onlyGivenNames x0
    have h0 : Keeps s0 x0
    · unfold x0
      refine State.wr_keeps _ _ _ ?_
      with_reducible assumption
    clear_value x0
    extract_lets +onlyGivenNames x0
    have h0 : Keeps s0 x0
    · unfold x0
      refine State.raise_keeps _ _ _ ?_
      with_reducible assumption
    clear_value x0
    refine State.calSettled_keeps ?_
    refine State.failCommits_keeps _ _ ?_
    with_reducible assumption

theorem State.calStepEnds_keeps {s0 : State} {s : State} (h : Keeps s0 s) :
    Keeps s0 (State.calStepEnds s) := by
  unfold State.calStepEnds
  split
  · refine State.calSettled_keeps ?_
    refine State.freeCalLeases_keeps _ ?_
    refine keeps_mk ?_ rfl rfl rfl rfl rfl rfl rfl
    with_reducible assumption
  · with_reducible assumption

theorem State.calRunCancel_keeps {s0 : State} {s : State} (v : ℕ) (h : Keeps s0 s) :
    KeepsR s0 (State.calRunCancel s v) := by
  unfold State.calRunCancel
  refine keepsR_ok ?_
  refine ite_ind ?_ ?_
  · refine State.calFails_keeps _ ?_
    with_reducible assumption
  · with_reducible assumption

theorem State.calRunStart_keeps {s0 : State} {s : State} (h : Keeps s0 s) :
    Keeps s0 (State.calRunStart s) := by
  unfold State.calRunStart
  split
  · refine ite_ind ?_ ?_
    · extract_lets +onlyGivenNames x1
      clear_value x1
      extract_lets +onlyGivenNames x0
      extract_lets +onlyGivenNames x1
      have h1 : Keeps s0 x1
      · unfold x1
        refine keeps_mk ?_ rfl rfl rfl rfl rfl rfl rfl
        with_reducible assumption
      clear_value x1
      extract_lets +onlyGivenNames x2
      have h2 : Keeps s0 x2
      · unfold x2
        refine State.showCalStale_keeps ?_
        refine State.wr_keeps _ _ _ ?_
        with_reducible assumption
      clear_value x2
      refine State.cancelStaleCal_keeps _ ?_
      with_reducible assumption
    · with_reducible assumption
  · with_reducible assumption

theorem State.calReject_keeps {s0 : State} {s : State} (r : CalRunSys) (kind : ℕ) (path : ℕ) (reason : ℕ) (worst : ℤ) (h : Keeps s0 s) :
    Keeps s0 (State.calReject s r kind path reason worst) := by
  unfold State.calReject
  extract_lets +onlyGivenNames x0
  have h0 : Keeps s0 x0
  · unfold x0
    refine State.setActiveCal_keeps _ ?_
    with_reducible assumption
  clear_value x0
  refine State.raise_keeps _ _ _ ?_
  with_reducible assumption

theorem State.calMeasured_keeps {s0 : State} {s : State} (m : CalMeasure) (h : Keeps s0 s) :
    Keeps s0 (State.calMeasured s m) := by
  unfold State.calMeasured
  split
  · with_reducible assumption
  · extract_lets +onlyGivenNames x4
    clear_value x4
    refine ite_ind ?_ ?_
    · with_reducible assumption
    · refine ite_ind ?_ ?_
      · refine ite_ind ?_ ?_
        · refine State.calStepEnds_keeps ?_
          with_reducible assumption
        · refine State.calFails_keeps _ ?_
          with_reducible assumption
      · refine ite_ind ?_ ?_
        · refine ite_ind ?_ ?_
          · refine State.calReject_keeps _ _ _ _ _ ?_
            with_reducible assumption
          · refine State.setActiveCal_keeps _ ?_
            with_reducible assumption
        · refine ite_ind ?_ ?_
          · refine State.calReject_keeps _ _ _ _ _ ?_
            with_reducible assumption
          · extract_lets +onlyGivenNames x6
            clear_value x6
            refine ite_ind ?_ ?_
            · refine State.calReject_keeps _ _ _ _ _ ?_
              with_reducible assumption
            · split
              · refine State.calReject_keeps _ _ _ _ _ ?_
                with_reducible assumption
              · extract_lets +onlyGivenNames x14
                clear_value x14
                refine State.setActiveCal_keeps _ ?_
                with_reducible assumption

theorem State.scaleRecip_keeps {s0 : State} {s : State} (r : CalRunSys) (peers : CalPeers) (h : Keeps s0 s) :
    Keeps s0 (State.scaleRecip s r peers).2 := by
  unfold State.scaleRecip
  extract_lets +onlyGivenNames x3
  clear_value x3
  split
  · with_reducible assumption
  · extract_lets +onlyGivenNames x15
    clear_value x15
    extract_lets +onlyGivenNames x18
    clear_value x18
    extract_lets +onlyGivenNames x20
    clear_value x20
    extract_lets +onlyGivenNames x21
    clear_value x21
    extract_lets +onlyGivenNames x22
    clear_value x22
    extract_lets +onlyGivenNames x24
    clear_value x24
    extract_lets +onlyGivenNames x25
    clear_value x25
    extract_lets +onlyGivenNames x27
    have h27 : Keeps s0 x27.2
    · unfold x27
      refine keeps_foldl_snd ?_ ?_
      · intro a30 a31 h32
        extract_lets +onlyGivenNames x33
        have h33 : Keeps s0 x33
        · unfold x33
          refine State.calReject_keeps _ _ _ _ _ ?_
          with_reducible assumption
        clear_value x33
        with_reducible assumption
      · dsimp -zeta only
        refine keeps_mk ?_ rfl rfl rfl rfl rfl rfl rfl
        with_reducible assumption
    clear_value x27
    with_reducible assumption

theorem State.judgeDelays_keeps {s0 : State} {s : State} (r : CalRunSys) (h : Keeps s0 s) :
    Keeps s0 (State.judgeDelays s r).2 := by
  unfold State.judgeDelays
  extract_lets +onlyGivenNames x5
  clear_value x5
  split
  · with_reducible assumption
  · extract_lets +onlyGivenNames x7
    clear_value x7
    extract_lets +onlyGivenNames x8
    clear_value x8
    extract_lets +onlyGivenNames x9
    clear_value x9
    refine keeps_foldl_snd ?_ ?_
    · intro a10 a11 h12
      extract_lets +onlyGivenNames x13
      have h13 : Keeps s0 x13
      · unfold x13
        refine State.calReject_keeps _ _ _ _ _ ?_
        with_reducible assumption
      clear_value x13
      with_reducible assumption
    · with_reducible assumption

theorem State.calEnds_keeps {s0 : State} {s : State} (r : CalRunSys) (h : Keeps s0 s) :
    Keeps s0 (State.calEnds s r) := by
  unfold State.calEnds
  extract_lets +onlyGivenNames x16
  extract_lets +onlyGivenNames x17
  have h17 : Keeps s0 x17
  · unfold x17
    refine ite_ind ?_ ?_
    · refine keeps_mk ?_ rfl rfl rfl rfl rfl rfl rfl
      with_reducible assumption
    · refine keeps_mk ?_ rfl rfl rfl rfl rfl rfl rfl
      with_reducible assumption
  clear_value x17
  extract_lets +onlyGivenNames x26
  have h26 : Keeps s0 x26
  · unfold x26
    refine State.freeCalLeases_keeps _ ?_
    with_reducible assumption
  clear_value x26
  extract_lets +onlyGivenNames x29
  have h29 : Keeps s0 x29
  · unfold x29
    refine ite_ind ?_ ?_
    · with_reducible assumption
    · refine State.wr_keeps _ _ _ ?_
      with_reducible assumption
  clear_value x29
  extract_lets +onlyGivenNames x38
  clear_value x38
  refine keeps_mk ?_ rfl rfl rfl rfl rfl rfl rfl
  with_reducible assumption

theorem State.calComplete_keeps {s0 : State} {s : State} (peers : CalPeers) (h : Keeps s0 s) :
    Keeps s0 (State.calComplete s peers) := by
  unfold State.calComplete
  split
  · with_reducible assumption
  · refine ite_ind ?_ ?_
    · extract_lets +onlyGivenNames x19
      have h19 : Keeps s0 x19.2
      · unfold x19
        refine State.scaleRecip_keeps _ _ ?_
        with_reducible assumption
      clear_value x19
      extract_lets +onlyGivenNames x43
      have h43 : Keeps s0 x43.2
      · unfold x43
        refine State.judgeDelays_keeps _ ?_
        with_reducible assumption
      clear_value x43
      refine State.calEnds_keeps _ ?_
      with_reducible assumption
    · with_reducible assumption

theorem State.placeCourse_keeps {s0 : State} {s : State} (r : CalRunSys) (c : ℕ) (h : Keeps s0 s) :
    Keeps s0 (State.placeCourse s r c) := by
  unfold State.placeCourse
  extract_lets +onlyGivenNames x23
  clear_value x23
  refine ite_ind ?_ ?_
  · with_reducible assumption
  · extract_lets +onlyGivenNames x28
    clear_value x28
    extract_lets +onlyGivenNames x34
    clear_value x34
    extract_lets +onlyGivenNames x35
    clear_value x35
    extract_lets +onlyGivenNames x36
    have h36 : Keeps s0 x36
    · unfold x36
      refine ite_ind ?_ ?_
      · refine State.zeroRange_keeps _ _ ?_
        with_reducible assumption
      · with_reducible assumption
    clear_value x36
    extract_lets +onlyGivenNames x45
    clear_value x45
    extract_lets +onlyGivenNames x46
    have h46 : Keeps s0 x46
    · unfold x46
      refine State.calPut_keeps _ _ ?_
      with_reducible assumption
    clear_value x46
    refine keeps_foldl ?_ ?_
    · intro a47 a48 h49
      extract_lets +onlyGivenNames x50
      refine ite_ind ?_ ?_
      · refine keeps_foldl ?_ ?_
        · intro a60 a61 h62
          unfold x50
          extract_lets +onlyGivenNames x63
          clear_value x63
          extract_lets +onlyGivenNames x64
          clear_value x64
          refine ite_ind ?_ ?_
          · refine State.calPut_keeps _ _ ?_
            with_reducible assumption
          · with_reducible assumption
        · refine State.calPut_keeps _ _ ?_
          with_reducible assumption
      · unfold x50
        extract_lets +onlyGivenNames x73
        clear_value x73
        extract_lets +onlyGivenNames x77
        clear_value x77
        refine ite_ind ?_ ?_
        · refine State.calPut_keeps _ _ ?_
          refine keeps_foldl ?_ ?_
          · intro a81 a82 h83
            refine State.calPut_keeps _ _ ?_
            with_reducible assumption
          · with_reducible assumption
        · refine keeps_foldl ?_ ?_
          · intro a91 a92 h93
            refine State.calPut_keeps _ _ ?_
            with_reducible assumption
          · with_reducible assumption
    · with_reducible assumption

theorem State.placeQuality_keeps {s0 : State} {s : State} (r : CalRunSys) (h : Keeps s0 s) :
    Keeps s0 (State.placeQuality s r) := by
  unfold State.placeQuality
  refine keeps_foldl ?_ ?_
  · intro a52 a53 h54
    extract_lets +onlyGivenNames x55
    clear_value x55
    extract_lets +onlyGivenNames x57
    clear_value x57
    extract_lets +onlyGivenNames x59
    clear_value x59
    refine ite_ind ?_ ?_
    · with_reducible assumption
    · refine State.setDom_keeps _ _ _ ?_
      with_reducible assumption
  · with_reducible assumption

theorem State.calApply_keeps {s0 : State} {s : State} (r : CalRunSys) (h : Keeps s0 s) :
    Keeps s0 (State.calApply s r) := by
  unfold State.calApply
  extract_lets +onlyGivenNames x56
  extract_lets +onlyGivenNames x58
  have h58 : Keeps s0 x58
  · unfold x58
    refine keeps_mk ?_ rfl rfl rfl rfl rfl rfl rfl
    with_reducible assumption
  clear_value x58
  extract_lets +onlyGivenNames x65
  have h65 : Keeps s0 x65
  · unfold x65
    refine keeps_foldl ?_ ?_
    · intro a66 a67 h68
      refine State.placeCourse_keeps _ _ ?_
      with_reducible assumption
    · with_reducible assumption
  clear_value x65
  extract_lets +onlyGivenNames x95
  clear_value x95
  extract_lets +onlyGivenNames x99
  have h99 : Keeps s0 x99
  · unfold x99
    refine State.calPut_keeps _ _ ?_
    with_reducible assumption
  clear_value x99
  extract_lets +onlyGivenNames x100
  have h100 : Keeps s0 x100
  · unfold x100
    refine State.calPut_keeps _ _ ?_
    with_reducible assumption
  clear_value x100
  extract_lets +onlyGivenNames x102
  have h102 : Keeps s0 x102
  · unfold x102
    split
    · refine State.calPut_keeps _ _ ?_
      with_reducible assumption
    · with_reducible assumption
  clear_value x102
  extract_lets +onlyGivenNames x108
  have h108 : Keeps s0 x108
  · unfold x108
    refine State.placeQuality_keeps _ ?_
    with_reducible assumption
  clear_value x108
  extract_lets +onlyGivenNames x112
  have h112 : Keeps s0 x112
  · unfold x112
    refine keeps_foldl ?_ ?_
    · intro a113 a114 h115
      refine State.wr_keeps _ _ _ ?_
      refine State.wrEpoch_keeps _ _ _ ?_
      refine State.bump_keeps _ _ ?_
      with_reducible assumption
    · with_reducible assumption
  clear_value x112
  extract_lets +onlyGivenNames x118
  have h118 : Keeps s0 x118
  · unfold x118
    refine State.calSettled_keeps ?_
    refine State.calRenew_keeps ?_
    with_reducible assumption
  clear_value x118
  extract_lets +onlyGivenNames x119
  have h119 : Keeps s0 x119
  · unfold x119
    refine ite_ind ?_ ?_
    · with_reducible assumption
    · refine State.wr_keeps _ _ _ ?_
      with_reducible assumption
  clear_value x119
  extract_lets +onlyGivenNames x126
  clear_value x126
  refine State.raise_keeps _ _ _ ?_
  with_reducible assumption

theorem State.calDue_keeps {s0 : State} {s : State} (h : Keeps s0 s) :
    Keeps s0 (State.calDue s) := by
  unfold State.calDue
  refine keeps_foldl ?_ ?_
  · intro a69 a70 h71
    refine State.calApply_keeps _ ?_
    with_reducible assumption
  · with_reducible assumption

theorem State.calTargeted_keeps {s0 : State} {s : State} (h : Keeps s0 s) :
    Keeps s0 (State.calTargeted s) := by
  unfold State.calTargeted
  split
  · refine State.calApply_keeps _ ?_
    with_reducible assumption
  · with_reducible assumption

theorem State.commitCalSet_keeps {s0 : State} {s : State} (v : List Byte) (h : Keeps s0 s) :
    Keeps s0 (State.commitCalSet s v) := by
  unfold State.commitCalSet
  extract_lets +onlyGivenNames x72
  clear_value x72
  extract_lets +onlyGivenNames x74
  have h74 : Keeps s0 x74
  · unfold x74
    refine State.calPut_keeps _ _ ?_
    with_reducible assumption
  clear_value x74
  extract_lets +onlyGivenNames x78
  clear_value x78
  extract_lets +onlyGivenNames x79
  extract_lets +onlyGivenNames x80
  have h80 : Keeps s0 x80
  · unfold x80
    refine keeps_mk ?_ rfl rfl rfl rfl rfl rfl rfl
    with_reducible assumption
  clear_value x80
  extract_lets +onlyGivenNames x84
  have h84 : Keeps s0 x84
  · unfold x84
    refine keeps_foldl ?_ ?_
    · intro a86 a87 h88
      refine State.raise_keeps _ _ _ ?_
      with_reducible assumption
    · with_reducible assumption
  clear_value x84
  extract_lets +onlyGivenNames x90
  have h90 : Keeps s0 x90
  · unfold x90
    refine ite_ind ?_ ?_
    · refine State.calFails_keeps _ ?_
      with_reducible assumption
    · with_reducible assumption
  clear_value x90
  refine State.calSettled_keeps ?_
  refine State.calRenew_keeps ?_
  with_reducible assumption

theorem State.calRollStep_keeps {s0 : State} {s : State} (h : Keeps s0 s) :
    Keeps s0 (State.calRollStep s) := by
  unfold State.calRollStep
  refine ite_ind ?_ ?_
  · with_reducible assumption
  · extract_lets +onlyGivenNames x85
    extract_lets +onlyGivenNames x89
    have h89 : Keeps s0 x89
    · unfold x89
      refine keeps_mk ?_ rfl rfl rfl rfl rfl rfl rfl
      with_reducible assumption
    clear_value x89
    split
    · with_reducible assumption
    · extract_lets +onlyGivenNames x103
      have h103 : Keeps s0 x103
      · unfold x103
        refine State.wr_keeps _ _ _ ?_
        with_reducible assumption
      clear_value x103
      extract_lets +onlyGivenNames x109
      extract_lets +onlyGivenNames x110
      clear_value x110
      refine ite_ind ?_ ?_
      · unfold x109
        refine State.raise_keeps _ _ _ ?_
        with_reducible assumption
      · refine ite_ind ?_ ?_
        · unfold x109
          refine State.raise_keeps _ _ _ ?_
          with_reducible assumption
        · extract_lets +onlyGivenNames x120
          have h120 : Keeps s0 x120
          · unfold x120
            refine keeps_foldl ?_ ?_
            · intro a122 a123 h124
              refine State.takeLease_keeps _ _ _ _ ?_
              with_reducible assumption
            · with_reducible assumption
          clear_value x120
          extract_lets +onlyGivenNames x125
          clear_value x125
          extract_lets +onlyGivenNames x128
          clear_value x128
          extract_lets +onlyGivenNames x129
          clear_value x129
          refine keeps_mk ?_ rfl rfl rfl rfl rfl rfl rfl
          with_reducible assumption

theorem State.calRollAtSlot_keeps {s0 : State} {s : State} (h : Keeps s0 s) :
    Keeps s0 (State.calRollAtSlot s) := by
  unfold State.calRollAtSlot
  extract_lets +onlyGivenNames x75
  extract_lets +onlyGivenNames x76
  have h76 : Keeps s0 x76
  · unfold x76
    refine keeps_mk ?_ rfl rfl rfl rfl rfl rfl rfl
    with_reducible assumption
  clear_value x76
  split
  · with_reducible assumption
  · refine ite_ind ?_ ?_
    · refine State.calStepEnds_keeps ?_
      with_reducible assumption
    · refine ite_ind ?_ ?_
      · extract_lets +onlyGivenNames x94
        have h94 : Keeps s0 x94.2
        · unfold x94
          refine State.judgeDelays_keeps _ ?_
          with_reducible assumption
        clear_value x94
        refine State.calEnds_keeps _ ?_
        with_reducible assumption
      · refine ite_ind ?_ ?_
        · extract_lets +onlyGivenNames x101
          clear_value x101
          extract_lets +onlyGivenNames x105
          extract_lets +onlyGivenNames x106
          have h106 : Keeps s0 x106
          · unfold x106
            refine keeps_mk ?_ rfl rfl rfl rfl rfl rfl rfl
            with_reducible assumption
          clear_value x106
          refine State.cancelStaleCal_keeps _ ?_
          refine State.showCalStale_keeps ?_
          with_reducible assumption
        · with_reducible assumption

theorem State.storeFails_keeps {s0 : State} {s : State} (reason : ℕ) (h : Keeps s0 s) :
    Keeps s0 (State.storeFails s reason) := by
  unfold State.storeFails
  extract_lets +onlyGivenNames x96
  extract_lets +onlyGivenNames x97
  extract_lets +onlyGivenNames x98
  have h98 : Keeps s0 x98
  · unfold x98
    refine keeps_mk ?_ rfl rfl rfl rfl rfl rfl rfl
    with_reducible assumption
  clear_value x98
  refine State.raise_keeps _ _ _ ?_
  refine State.wr_keeps _ _ _ ?_
  with_reducible assumption

theorem State.startSave_keeps {s0 : State} {s : State} (mask : ℕ) (h : Keeps s0 s) :
    Keeps s0 (State.startSave s mask) := by
  unfold State.startSave
  extract_lets +onlyGivenNames x104
  clear_value x104
  extract_lets +onlyGivenNames x107
  clear_value x107
  extract_lets +onlyGivenNames x111
  clear_value x111
  extract_lets +onlyGivenNames x116
  clear_value x116
  extract_lets +onlyGivenNames x117
  have h117 : Keeps s0 x117
  · unfold x117
    refine State.settle_keeps _ _ ?_
    with_reducible assumption
  clear_value x117
  extract_lets +onlyGivenNames x121
  have h121 : Keeps s0 x121
  · unfold x121
    refine ite_ind ?_ ?_
    · with_reducible assumption
    · refine State.settle_keeps _ _ ?_
      with_reducible assumption
  clear_value x121
  extract_lets +onlyGivenNames x127
  clear_value x127
  split
  · refine State.storeFails_keeps _ ?_
    refine State.consumePoison_keeps _ ?_
    with_reducible assumption
  · extract_lets +onlyGivenNames x130
    clear_value x130
    extract_lets +onlyGivenNames x131
    have h131 : Keeps s0 x131
    · unfold x131
      refine State.zeroRange_keeps _ _ ?_
      with_reducible assumption
    clear_value x131
    extract_lets +onlyGivenNames x132
    have h132 : Keeps s0 x132
    · unfold x132
      refine State.wr_keeps _ _ _ ?_
      refine State.wr_keeps _ _ _ ?_
      with_reducible assumption
    clear_value x132
    extract_lets +onlyGivenNames x133
    have h133 : Keeps s0 x133
    · unfold x133
      refine State.wr_keeps _ _ _ ?_
      with_reducible assumption
    clear_value x133
    refine keeps_mk ?_ rfl rfl rfl rfl rfl rfl rfl
    with_reducible assumption

theorem State.saveWaiting_keeps {s0 : State} {s : State} (h : Keeps s0 s) : Keeps s0 (State.saveWaiting s) := by
  unfold State.saveWaiting
  split
  · refine State.startSave_keeps _ ?_
    refine keeps_mk ?_ rfl rfl rfl rfl rfl rfl rfl
    with_reducible assumption
  · with_reducible assumption

theorem State.calStoreSave_keeps {s0 : State} {s : State} (mask : ℕ) (h : Keeps s0 s) :
    KeepsR s0 (State.calStoreSave s mask) := by
  unfold State.calStoreSave
  refine ite_ind ?_ ?_
  · exact keepsR_error
  · refine ite_ind ?_ ?_
    · exact keepsR_error
    · refine ite_ind ?_ ?_
      · refine keepsR_ok ?_
        refine State.wr_keeps _ _ _ ?_
        refine keeps_mk ?_ rfl rfl rfl rfl rfl rfl rfl
        with_reducible assumption
      · refine keepsR_ok ?_
        refine State.startSave_keeps _ ?_
        with_reducible assumption

theorem State.calStoreDone_keeps {s0 : State} {s : State} (verified : Bool) (h : Keeps s0 s) :
    Keeps s0 (State.calStoreDone s verified) := by
  unfold State.calStoreDone
  split
  · with_reducible assumption
  · refine ite_ind ?_ ?_
    · refine State.storeFails_keeps _ ?_
      with_reducible assumption
    · refine ite_ind ?_ ?_
      · refine State.storeFails_keeps _ ?_
        with_reducible assumption
      · extract_lets +onlyGivenNames x140
        have h140 : Keeps s0 x140
        · unfold x140
          refine State.storeBytes_keeps _ _ ?_
          with_reducible assumption
        clear_value x140
        extract_lets +onlyGivenNames x141
        extract_lets +onlyGivenNames x142
        extract_lets +onlyGivenNames x143
        have h143 : Keeps s0 x143
        · unfold x143
          refine keeps_mk ?_ rfl rfl rfl rfl rfl rfl rfl
          with_reducible assumption
        clear_value x143
        extract_lets +onlyGivenNames x147
        have h147 : Keeps s0 x147
        · unfold x147
          refine State.wr_keeps _ _ _ ?_
          refine State.wr_keeps _ _ _ ?_
          with_reducible assumption
        clear_value x147
        refine State.raise_keeps _ _ _ ?_
        refine State.wr_keeps _ _ _ ?_
        with_reducible assumption

theorem State.calStoreTimeout_keeps {s0 : State} {s : State} (h : Keeps s0 s) :
    Keeps s0 (State.calStoreTimeout s) := by
  unfold State.calStoreTimeout
  split
  · refine ite_ind ?_ ?_
    · refine State.storeFails_keeps _ ?_
      with_reducible assumption
    · with_reducible assumption
  · with_reducible assumption

theorem State.examineBanks_keeps {s0 : State} {s : State} (h : Keeps s0 s) :
    Keeps s0 (State.examineBanks s) := by
  unfold State.examineBanks
  extract_lets +onlyGivenNames x134
  have h134 : Keeps s0 x134
  · unfold x134
    refine keeps_foldl ?_ ?_
    · intro a135 a136 h137
      extract_lets +onlyGivenNames x138
      extract_lets +onlyGivenNames x139
      have h139 : Keeps s0 x139
      · unfold x139
        refine State.wr_keeps _ _ _ ?_
        refine State.wr_keeps _ _ _ ?_
        with_reducible assumption
      clear_value x139
      refine ite_ind ?_ ?_
      · refine State.raise_keeps _ _ _ ?_
        with_reducible assumption
      · with_reducible assumption
    · with_reducible assumption
  clear_value x134
  split
  · refine State.wr_keeps _ _ _ ?_
    refine State.calIdentity_keeps ?_
    with_reducible assumption
  · extract_lets +onlyGivenNames x144
    clear_value x144
    extract_lets +onlyGivenNames x145
    clear_value x145
    extract_lets +onlyGivenNames x146
    clear_value x146
    extract_lets +onlyGivenNames x148
    have h148 : Keeps s0 x148
    · unfold x148
      refine State.wr_keeps _ _ _ ?_
      with_reducible assumption
    clear_value x148
    extract_lets +onlyGivenNames x149
    have h149 : Keeps s0 x149
    · unfold x149
      refine ite_ind ?_ ?_
      · refine State.calPut_keeps _ _ ?_
        with_reducible assumption
      · refine State.calIdentity_keeps ?_
        with_reducible assumption
    clear_value x149
    extract_lets +onlyGivenNames x150
    have h150 : Keeps s0 x150
    · unfold x150
      refine State.wr_keeps _ _ _ ?_
      with_reducible assumption
    clear_value x150
    extract_lets +onlyGivenNames x151
    have h151 : Keeps s0 x151
    · unfold x151
      refine ite_ind ?_ ?_
      · refine State.setDom_keeps _ _ _ ?_
        refine State.commitLinTables_keeps _ ?_
        with_reducible assumption
      · with_reducible assumption
    clear_value x151
    refine ite_ind ?_ ?_
    · extract_lets +onlyGivenNames x152
      clear_value x152
      extract_lets +onlyGivenNames x153
      have h153 : Keeps s0 x153
      · unfold x153
        refine State.ownBytes_keeps _ _ ?_
        refine State.zeroRange_keeps _ _ ?_
        with_reducible assumption
      clear_value x153
      split
      · refine keepsR_of ?_ (by assumption)
        refine State.cancelSetSeal_keeps _ ?_
        with_reducible assumption
      · with_reducible assumption
    · with_reducible assumption

end Sys2Proof.Machine
end

