-- ==== Sys2Proof/Laws/KeepsDma.lean ====
section
/-! SUPPORT. Every operation of Machine/Dma.lean keeps the relation of Laws/Keeps.lean. -/
namespace Sys2Proof.Machine

theorem State.setChan_keeps {s0 : State} {s : State} (n : ℕ) (c : DmaChan) (h : Keeps s0 s) :
    Keeps s0 (State.setChan s n c) := by
  unfold State.setChan
  refine keeps_mk ?_ rfl rfl rfl rfl rfl rfl rfl
  with_reducible assumption

theorem State.dmaStop_keeps {s0 : State} {s : State} (n : ℕ) (st : ℕ) (reason : ℕ) (h : Keeps s0 s) :
    Keeps s0 (State.dmaStop s n st reason) := by
  unfold State.dmaStop
  extract_lets +onlyGivenNames x2
  have h2 : Keeps s0 x2
  · unfold x2
    refine State.wr_keeps _ _ _ ?_
    with_reducible assumption
  clear_value x2
  extract_lets +onlyGivenNames x1
  have h1 : Keeps s0 x1
  · unfold x1
    refine State.wr_keeps _ _ _ ?_
    with_reducible assumption
  clear_value x1
  extract_lets +onlyGivenNames x2
  have h2 : Keeps s0 x2
  · unfold x2
    refine State.wrBit_keeps _ _ _ _ ?_
    with_reducible assumption
  clear_value x2
  extract_lets +onlyGivenNames x0
  clear_value x0
  extract_lets +onlyGivenNames x1
  clear_value x1
  extract_lets +onlyGivenNames x3
  have h3 : Keeps s0 x3
  · unfold x3
    refine State.setChan_keeps _ _ ?_
    with_reducible assumption
  clear_value x3
  extract_lets +onlyGivenNames x2
  have h2 : Keeps s0 x2
  · unfold x2
    refine State.freeLease_keeps _ ?_
    with_reducible assumption
  clear_value x2
  refine State.raise_keeps _ _ _ ?_
  with_reducible assumption

theorem State.dmaAbortWith_keeps {s0 : State} {s : State} (n : ℕ) (reason : ℕ) (h : Keeps s0 s) :
    Keeps s0 (State.dmaAbortWith s n reason) := by
  unfold State.dmaAbortWith
  extract_lets +onlyGivenNames x0
  clear_value x0
  refine ite_ind ?_ ?_
  · refine State.dmaStop_keeps _ _ _ ?_
    with_reducible assumption
  · refine ite_ind ?_ ?_
    · refine ite_ind ?_ ?_
      · refine State.dmaStop_keeps _ _ _ ?_
        with_reducible assumption
      · extract_lets +onlyGivenNames x0
        have h0 : Keeps s0 x0
        · unfold x0
          refine State.wr_keeps _ _ _ ?_
          with_reducible assumption
        clear_value x0
        refine State.setChan_keeps _ _ ?_
        with_reducible assumption
    · with_reducible assumption

theorem State.dmaReset_keeps {s0 : State} {s : State} (n : ℕ) (h : Keeps s0 s) :
    Keeps s0 (State.dmaReset s n) := by
  unfold State.dmaReset
  extract_lets +onlyGivenNames x3
  have h3 : Keeps s0 x3
  · unfold x3
    refine State.setChan_keeps _ _ ?_
    with_reducible assumption
  clear_value x3
  extract_lets +onlyGivenNames x2
  have h2 : Keeps s0 x2
  · unfold x2
    refine State.freeLease_keeps _ ?_
    with_reducible assumption
  clear_value x2
  extract_lets +onlyGivenNames x0
  have h0 : Keeps s0 x0
  · unfold x0
    refine State.wr_keeps _ _ _ ?_
    refine State.raise_keeps _ _ _ ?_
    with_reducible assumption
  clear_value x0
  refine State.wr_keeps _ _ _ ?_
  refine State.wr_keeps _ _ _ ?_
  with_reducible assumption

theorem State.dmaStart_keeps {s0 : State} {s : State} (rec : List Byte) (h : Keeps s0 s) :
    KeepsR s0 (State.dmaStart s rec) := by
  unfold State.dmaStart
  extract_lets +onlyGivenNames x1
  clear_value x1
  extract_lets +onlyGivenNames x3
  clear_value x3
  extract_lets +onlyGivenNames x0
  clear_value x0
  extract_lets +onlyGivenNames x0
  clear_value x0
  refine ite_ind ?_ ?_
  · exact keepsR_error
  · refine ite_ind ?_ ?_
    · exact keepsR_error
    · refine ite_ind ?_ ?_
      · exact keepsR_error
      · refine ite_ind ?_ ?_
        · exact keepsR_error
        · refine ite_ind ?_ ?_
          · exact keepsR_error
          · extract_lets +onlyGivenNames x1
            clear_value x1
            split
            · exact keepsR_error
            · extract_lets +onlyGivenNames x2
              have h2 : Keeps s0 x2
              · unfold x2
                refine ite_ind ?_ ?_
                · with_reducible assumption
                · refine State.takeLease_keeps _ _ _ _ ?_
                  with_reducible assumption
              clear_value x2
              extract_lets +onlyGivenNames x2
              have h2 : Keeps s0 x2
              · unfold x2
                refine State.setChan_keeps _ _ ?_
                with_reducible assumption
              clear_value x2
              extract_lets +onlyGivenNames x0
              have h0 : Keeps s0 x0
              · unfold x0
                refine State.wr_keeps _ _ _ ?_
                with_reducible assumption
              clear_value x0
              extract_lets +onlyGivenNames x0
              have h0 : Keeps s0 x0
              · unfold x0
                refine State.wr_keeps _ _ _ ?_
                with_reducible assumption
              clear_value x0
              extract_lets +onlyGivenNames x3
              have h3 : Keeps s0 x3
              · unfold x3
                refine State.wr_keeps _ _ _ ?_
                with_reducible assumption
              clear_value x3
              refine keepsR_ok ?_
              refine State.wr_keeps _ _ _ ?_
              with_reducible assumption

theorem State.dmaAbort_keeps {s0 : State} {s : State} (n : ℕ) (h : Keeps s0 s) :
    KeepsR s0 (State.dmaAbort s n) := by
  unfold State.dmaAbort
  refine ite_ind ?_ ?_
  · exact keepsR_error
  · refine keepsR_ok ?_
    refine State.dmaAbortWith_keeps _ _ ?_
    with_reducible assumption

theorem State.dmaNext_keeps {s0 : State} {s : State} (n : ℕ) (d : DmaDesc) (h : Keeps s0 s) :
    Keeps s0 (State.dmaNext s n d) := by
  unfold State.dmaNext
  extract_lets +onlyGivenNames x0
  clear_value x0
  refine ite_ind ?_ ?_
  · refine State.dmaStop_keeps _ _ _ ?_
    with_reducible assumption
  · refine ite_ind ?_ ?_
    · refine ite_ind ?_ ?_
      · refine State.dmaStop_keeps _ _ _ ?_
        with_reducible assumption
      · refine State.setChan_keeps _ _ ?_
        with_reducible assumption
    · refine ite_ind ?_ ?_
      · extract_lets +onlyGivenNames x9
        have h9 : Keeps s0 x9
        · unfold x9
          refine State.setChan_keeps _ _ ?_
          with_reducible assumption
        clear_value x9
        refine State.wr_keeps _ _ _ ?_
        with_reducible assumption
      · extract_lets +onlyGivenNames x0
        have h0 : Keeps s0 x0
        · unfold x0
          refine State.setChan_keeps _ _ ?_
          with_reducible assumption
        clear_value x0
        refine State.freeLease_keeps _ ?_
        refine State.wr_keeps _ _ _ ?_
        with_reducible assumption

theorem State.dmaWriteBacks_keeps {s0 : State} {s : State} (n : ℕ) (h : Keeps s0 s) :
    Keeps s0 (State.dmaWriteBacks s n) := by
  unfold State.dmaWriteBacks
  extract_lets +onlyGivenNames x1
  clear_value x1
  extract_lets +onlyGivenNames x2
  clear_value x2
  extract_lets +onlyGivenNames x3
  have h3 : Keeps s0 x3
  · unfold x3
    refine State.setChan_keeps _ _ ?_
    with_reducible assumption
  clear_value x3
  refine keeps_foldl ?_ ?_
  · intro a5 a6 h7
    extract_lets +onlyGivenNames x10
    have h10 : Keeps s0 x10.2
    · unfold x10
      refine State.writeWords_keeps _ _ _ ?_
      with_reducible assumption
    clear_value x10
    extract_lets +onlyGivenNames x2
    clear_value x2
    extract_lets +onlyGivenNames x4
    clear_value x4
    refine State.setChan_keeps _ _ ?_
    with_reducible assumption
  · with_reducible assumption

theorem State.dmaComplete_keeps {s0 : State} {s : State} (n : ℕ) (d : DmaDesc) (h : Keeps s0 s) :
    Keeps s0 (State.dmaComplete s n d) := by
  unfold State.dmaComplete
  extract_lets +onlyGivenNames x0
  have h0 : Keeps s0 x0
  · unfold x0
    refine State.bump_keeps _ _ ?_
    with_reducible assumption
  clear_value x0
  extract_lets +onlyGivenNames x0
  have h0 : Keeps s0 x0
  · unfold x0
    refine State.wr_keeps _ _ _ ?_
    with_reducible assumption
  clear_value x0
  extract_lets +onlyGivenNames x0
  have h0 : Keeps s0 x0
  · unfold x0
    refine ite_ind ?_ ?_
    · refine State.raise_keeps _ _ _ ?_
      with_reducible assumption
    · with_reducible assumption
  clear_value x0
  extract_lets +onlyGivenNames x1
  clear_value x1
  extract_lets +onlyGivenNames x2
  clear_value x2
  extract_lets +onlyGivenNames x4
  clear_value x4
  extract_lets +onlyGivenNames x5
  clear_value x5
  extract_lets +onlyGivenNames x6
  have h6 : Keeps s0 x6
  · unfold x6
    refine ite_ind ?_ ?_
    · refine State.dmaWriteBacks_keeps _ ?_
      refine State.setChan_keeps _ _ ?_
      with_reducible assumption
    · refine State.setChan_keeps _ _ ?_
      with_reducible assumption
  clear_value x6
  refine State.dmaNext_keeps _ _ ?_
  with_reducible assumption

theorem State.dmaFetchRead_keeps {s0 : State} {s : State} (n : ℕ) (a : ℕ) (h : Keeps s0 s) :
    Keeps s0 (State.dmaFetchRead s n a).2 := by
  unfold State.dmaFetchRead
  extract_lets +onlyGivenNames x1
  have h1 : Keeps s0 x1.2
  · unfold x1
    refine State.readWords_keeps _ _ _ ?_
    with_reducible assumption
  clear_value x1
  extract_lets +onlyGivenNames x1
  clear_value x1
  split
  · extract_lets +onlyGivenNames x1
    have h1 : Keeps s0 x1.2
    · unfold x1
      refine State.readWords_keeps _ _ _ ?_
      with_reducible assumption
    clear_value x1
    with_reducible assumption
  · with_reducible assumption

theorem State.descriptorFetch_keeps {s0 : State} {s : State} (n : ℕ) (timeout : Bool) (h : Keeps s0 s) :
    Keeps s0 (State.descriptorFetch s n timeout) := by
  unfold State.descriptorFetch
  extract_lets +onlyGivenNames x7
  clear_value x7
  split
  · with_reducible assumption
  · refine ite_ind ?_ ?_
    · with_reducible assumption
    · split
      · extract_lets +onlyGivenNames x12
        have h12 : Keeps s0 x12.2
        · unfold x12
          refine State.needDomain_keeps _ ?_
          with_reducible assumption
        clear_value x12
        refine ite_ind ?_ ?_
        · with_reducible assumption
        · extract_lets +onlyGivenNames x13
          have h13 : Keeps s0 x13
          · unfold x13
            with_reducible assumption
          clear_value x13
          extract_lets +onlyGivenNames x14
          have h14 : Keeps s0 x14.2
          · unfold x14
            refine State.slowHold_keeps _ _ ?_
            with_reducible assumption
          clear_value x14
          refine ite_ind ?_ ?_
          · with_reducible assumption
          · extract_lets +onlyGivenNames x17
            have h17 : Keeps s0 x17
            · unfold x17
              refine State.wr_keeps _ _ _ ?_
              with_reducible assumption
            clear_value x17
            refine ite_ind ?_ ?_
            · refine State.dmaStop_keeps _ _ _ ?_
              with_reducible assumption
            · extract_lets +onlyGivenNames x20
              have h20 : Keeps s0 x20.2
              · unfold x20
                refine State.dmaFetchRead_keeps _ _ ?_
                with_reducible assumption
              clear_value x20
              extract_lets +onlyGivenNames x22
              have h22 : Keeps s0 x22
              · unfold x22
                with_reducible assumption
              clear_value x22
              refine ite_ind ?_ ?_
              · refine State.dmaStop_keeps _ _ _ ?_
                with_reducible assumption
              · extract_lets +onlyGivenNames x27
                clear_value x27
                extract_lets +onlyGivenNames x28
                clear_value x28
                split
                · extract_lets +onlyGivenNames x30
                  have h30 : Keeps s0 x30
                  · unfold x30
                    refine ite_ind ?_ ?_
                    · refine State.consumePoison_keeps _ ?_
                      with_reducible assumption
                    · with_reducible assumption
                  clear_value x30
                  refine State.dmaStop_keeps _ _ _ ?_
                  with_reducible assumption
                · refine State.setChan_keeps _ _ ?_
                  with_reducible assumption
      · refine State.dmaStop_keeps _ _ _ ?_
        refine State.wr_keeps _ _ _ ?_
        with_reducible assumption

theorem State.readTable_keeps {s0 s : State} (m : Master) (l : List Nat) (t : Tab WordRead) (h : Keeps s0 s) :
    Keeps s0 (s.readTable m l t).2 := by
  induction l generalizing s t with
  | nil => exact h
  | cons a l ih =>
    unfold State.readTable
    split
    · exact ih _ h
    · exact ih _ (State.readWord_keeps m a h)

theorem State.needDomains_keeps {s0 s : State} (l : List Nat) (h : Keeps s0 s) : Keeps s0 (s.needDomains l).2 := by
  induction l generalizing s with
  | nil => exact h
  | cons a l ih => exact ih (State.needDomain_keeps a h)

theorem State.slowHolds_keeps {s0 s : State} (l : List Nat) (h : Keeps s0 s) : Keeps s0 (s.slowHolds l).2 := by
  induction l generalizing s with
  | nil => exact h
  | cons a l ih => exact ih (State.slowHold_keeps a 4 h)

theorem State.dmaIssue_keeps {s0 : State} {s : State} (n : ℕ) (d : DmaDesc) (ks : List ℕ) (h : Keeps s0 s) :
    Keeps s0 (State.dmaIssue s n d ks) := by
  unfold State.dmaIssue
  extract_lets +onlyGivenNames x8
  clear_value x8
  extract_lets +onlyGivenNames x9
  clear_value x9
  extract_lets +onlyGivenNames x11
  have h11 : Keeps s0 x11.2
  · unfold x11
    refine State.readTable_keeps _ _ _ ?_
    with_reducible assumption
  clear_value x11
  extract_lets +onlyGivenNames x21
  have h21 : Keeps s0 x21
  · unfold x21
    with_reducible assumption
  clear_value x21
  extract_lets +onlyGivenNames x23
  clear_value x23
  extract_lets +onlyGivenNames x25
  have h25 : Keeps s0 x25
  · unfold x25
    refine ite_ind ?_ ?_
    · refine keeps_mk ?_ rfl rfl rfl rfl rfl rfl rfl
      with_reducible assumption
    · with_reducible assumption
  clear_value x25
  extract_lets +onlyGivenNames x31
  clear_value x31
  extract_lets +onlyGivenNames x32
  have h32 : Keeps s0 x32.2
  · unfold x32
    refine keeps_foldl_snd ?_ ?_
    · intro a35 a36 h37
      extract_lets +onlyGivenNames x38
      have h38 : Keeps s0 x38.2
      · unfold x38
        refine State.writeWord_keeps _ _ _ _ ?_
        with_reducible assumption
      clear_value x38
      with_reducible assumption
    · with_reducible assumption
  clear_value x32
  extract_lets +onlyGivenNames x40
  have h40 : Keeps s0 x40
  · unfold x40
    with_reducible assumption
  clear_value x40
  extract_lets +onlyGivenNames x41
  clear_value x41
  extract_lets +onlyGivenNames x43
  have h43 : Keeps s0 x43
  · unfold x43
    refine ite_ind ?_ ?_
    · refine State.raise_keeps _ _ _ ?_
      refine State.wrBit_keeps _ _ _ _ ?_
      with_reducible assumption
    · with_reducible assumption
  clear_value x43
  extract_lets +onlyGivenNames x45
  extract_lets +onlyGivenNames x46
  have h46 : Keeps s0 x46
  · unfold x46
    refine keeps_mk ?_ rfl rfl rfl rfl rfl rfl rfl
    with_reducible assumption
  clear_value x46
  refine State.setChan_keeps _ _ ?_
  with_reducible assumption

theorem State.dmaAfterBurst_keeps {s0 : State} {s : State} (n : ℕ) (d : DmaDesc) (h : Keeps s0 s) :
    Keeps s0 (State.dmaAfterBurst s n d) := by
  unfold State.dmaAfterBurst
  extract_lets +onlyGivenNames x10
  clear_value x10
  refine ite_ind ?_ ?_
  · with_reducible assumption
  · refine ite_ind ?_ ?_
    · with_reducible assumption
    · refine State.dmaComplete_keeps _ _ ?_
      with_reducible assumption

theorem State.dmaServe_keeps {s0 s : State} (l : List Nat) (h : Keeps s0 s) : Keeps s0 (s.dmaServe l) := by
  induction l generalizing s with
  | nil => exact h
  | cons n l ih =>
    unfold State.dmaServe
    dsimp only
    split
    · exact ih h
    · split
      · exact ih (State.needDomains_keeps _ h)
      · split
        · exact ih (State.slowHolds_keeps _ (State.needDomains_keeps _ h))
        · exact State.dmaAfterBurst_keeps _ _ (State.dmaIssue_keeps _ _ _ (State.slowHolds_keeps _ (State.needDomains_keeps _ h)))

theorem State.dmaBurst_keeps {s0 : State} {s : State} (h : Keeps s0 s) :
    Keeps s0 (State.dmaBurst s) := by
  unfold State.dmaBurst
  refine State.dmaServe_keeps _ ?_
  with_reducible assumption

theorem State.dmaLateError_keeps {s0 : State} {s : State} (n : ℕ) (p : DmaPending) (h : Keeps s0 s) :
    Keeps s0 (State.dmaLateError s n p) := by
  unfold State.dmaLateError
  extract_lets +onlyGivenNames x15
  clear_value x15
  extract_lets +onlyGivenNames x16
  have h16 : Keeps s0 x16
  · unfold x16
    refine State.bump_keeps _ _ ?_
    with_reducible assumption
  clear_value x16
  extract_lets +onlyGivenNames x18
  have h18 : Keeps s0 x18
  · unfold x18
    refine State.wrBit_keeps _ _ _ _ ?_
    with_reducible assumption
  clear_value x18
  extract_lets +onlyGivenNames x19
  have h19 : Keeps s0 x19
  · unfold x19
    refine ite_ind ?_ ?_
    · with_reducible assumption
    · refine State.wr_keeps _ _ _ ?_
      refine State.wr_keeps _ _ _ ?_
      with_reducible assumption
  clear_value x19
  extract_lets +onlyGivenNames x24
  clear_value x24
  extract_lets +onlyGivenNames x26
  have h26 : Keeps s0 x26
  · unfold x26
    refine State.setChan_keeps _ _ ?_
    with_reducible assumption
  clear_value x26
  extract_lets +onlyGivenNames x29
  have h29 : Keeps s0 x29
  · unfold x29
    refine State.raise_keeps _ _ _ ?_
    with_reducible assumption
  clear_value x29
  refine ite_ind ?_ ?_
  · with_reducible assumption
  · extract_lets +onlyGivenNames x33
    clear_value x33
    extract_lets +onlyGivenNames x34
    clear_value x34
    extract_lets +onlyGivenNames x39
    clear_value x39
    refine State.dmaWriteBacks_keeps _ ?_
    refine State.setChan_keeps _ _ ?_
    with_reducible assumption

theorem State.dmaWriteResponse_keeps {s0 : State} {s : State} (n : ℕ) (i : ℕ) (h : Keeps s0 s) :
    Keeps s0 (State.dmaWriteResponse s n i) := by
  unfold State.dmaWriteResponse
  extract_lets +onlyGivenNames x42
  clear_value x42
  split
  · with_reducible assumption
  · extract_lets +onlyGivenNames x47
    have h47 : Keeps s0 x47
    · unfold x47
      refine State.setChan_keeps _ _ ?_
      with_reducible assumption
    clear_value x47
    extract_lets +onlyGivenNames x48
    clear_value x48
    extract_lets +onlyGivenNames x49
    have h49 : Keeps s0 x49
    · unfold x49
      refine State.dmaLateError_keeps _ _ ?_
      with_reducible assumption
    clear_value x49
    extract_lets +onlyGivenNames x51
    clear_value x51
    extract_lets +onlyGivenNames x53
    have h53 : Keeps s0 x53
    · unfold x53
      refine ite_ind ?_ ?_
      · with_reducible assumption
      · refine ite_ind ?_ ?_
        · with_reducible assumption
        · refine ite_ind ?_ ?_
          · refine State.dmaStop_keeps _ _ _ ?_
            refine State.wr_keeps _ _ _ ?_
            with_reducible assumption
          · refine ite_ind ?_ ?_
            · with_reducible assumption
            · refine ite_ind ?_ ?_
              · refine State.dmaStop_keeps _ _ _ ?_
                with_reducible assumption
              · refine ite_ind ?_ ?_
                · refine State.setChan_keeps _ _ ?_
                  with_reducible assumption
                · with_reducible assumption
    clear_value x53
    extract_lets +onlyGivenNames x57
    have h57 : Keeps s0 x57
    · unfold x57
      refine ite_ind ?_ ?_
      · with_reducible assumption
      · refine State.dmaWriteBacks_keeps _ ?_
        with_reducible assumption
    clear_value x57
    extract_lets +onlyGivenNames x58
    clear_value x58
    refine ite_ind ?_ ?_
    · refine State.dmaStop_keeps _ _ _ ?_
      with_reducible assumption
    · refine ite_ind ?_ ?_
      · split
        · refine ite_ind ?_ ?_
          · refine State.dmaComplete_keeps _ _ ?_
            with_reducible assumption
          · with_reducible assumption
        · with_reducible assumption
      · with_reducible assumption

theorem State.appendPoll_keeps {s0 : State} {s : State} (n : ℕ) (h : Keeps s0 s) :
    Keeps s0 (State.appendPoll s n) := by
  unfold State.appendPoll
  extract_lets +onlyGivenNames x44
  clear_value x44
  refine ite_ind ?_ ?_
  · with_reducible assumption
  · split
    · with_reducible assumption
    · refine ite_ind ?_ ?_
      · with_reducible assumption
      · extract_lets +onlyGivenNames x50
        have h50 : Keeps s0 x50.2
        · unfold x50
          refine State.needDomains_keeps _ ?_
          with_reducible assumption
        clear_value x50
        extract_lets +onlyGivenNames x52
        have h52 : Keeps s0 x52.2
        · unfold x52
          refine State.slowHold_keeps _ _ ?_
          with_reducible assumption
        clear_value x52
        refine ite_ind ?_ ?_
        · with_reducible assumption
        · refine ite_ind ?_ ?_
          · with_reducible assumption
          · extract_lets +onlyGivenNames x54
            have h54 : Keeps s0 x54.2
            · unfold x54
              refine State.readWords_keeps _ _ _ ?_
              with_reducible assumption
            clear_value x54
            extract_lets +onlyGivenNames x55
            have h55 : Keeps s0 x55
            · unfold x55
              with_reducible assumption
            clear_value x55
            extract_lets +onlyGivenNames x56
            clear_value x56
            refine ite_ind ?_ ?_
            · refine State.dmaStop_keeps _ _ _ ?_
              with_reducible assumption
            · refine ite_ind ?_ ?_
              · refine State.dmaStop_keeps _ _ _ ?_
                refine State.consumePoison_keeps _ ?_
                with_reducible assumption
              · refine ite_ind ?_ ?_
                · refine State.setChan_keeps _ _ ?_
                  with_reducible assumption
                · refine ite_ind ?_ ?_
                  · refine State.dmaStop_keeps _ _ _ ?_
                    with_reducible assumption
                  · refine ite_ind ?_ ?_
                    · refine State.dmaStop_keeps _ _ _ ?_
                      with_reducible assumption
                    · refine State.wr_keeps _ _ _ ?_
                      refine State.setChan_keeps _ _ ?_
                      with_reducible assumption

end Sys2Proof.Machine
end

