-- ==== Sys2Proof/Laws/KeepsThermal.lean ====
section
/-! SUPPORT. Every operation of Machine/Thermal.lean keeps the relation of Laws/Keeps.lean. -/
namespace Sys2Proof.Machine

theorem State.setSensor_keeps {s0 : State} {s : State} (n : ℕ) (v : SensorSys) (h : Keeps s0 s) :
    Keeps s0 (State.setSensor s n v) := by
  unfold State.setSensor
  refine keeps_mk ?_ rfl rfl rfl rfl rfl rfl rfl
  with_reducible assumption

theorem State.hkStopped_keeps {s0 : State} {s : State} (h : Keeps s0 s) :
    Keeps s0 (State.hkStopped s) := by
  unfold State.hkStopped
  refine ite_ind ?_ ?_
  · with_reducible assumption
  · refine State.causeActive_keeps _ ?_
    refine keeps_mk ?_ rfl rfl rfl rfl rfl rfl rfl
    with_reducible assumption

theorem State.hkFails_keeps {s0 : State} {s : State} (c : ℕ) (reason : ℕ) (h : Keeps s0 s) :
    Keeps s0 (State.hkFails s c reason) := by
  unfold State.hkFails
  refine ite_ind ?_ ?_
  · with_reducible assumption
  · extract_lets +onlyGivenNames x2
    have h2 : Keeps s0 x2
    · unfold x2
      refine State.wr_keeps _ _ _ ?_
      with_reducible assumption
    clear_value x2
    extract_lets +onlyGivenNames x1
    clear_value x1
    refine State.hkStopped_keeps ?_
    refine State.raiseAt_keeps _ _ _ _ _ ?_
    with_reducible assumption

theorem State.hkInput_keeps {s0 : State} {s : State} (i : ℕ) (sum : ℕ) (h : Keeps s0 s) :
    Keeps s0 (State.hkInput s i sum) := by
  unfold State.hkInput
  extract_lets +onlyGivenNames x1
  clear_value x1
  extract_lets +onlyGivenNames x0
  clear_value x0
  extract_lets +onlyGivenNames x2
  clear_value x2
  extract_lets +onlyGivenNames x5
  clear_value x5
  extract_lets +onlyGivenNames x0
  clear_value x0
  extract_lets +onlyGivenNames x1
  clear_value x1
  extract_lets +onlyGivenNames x7
  clear_value x7
  extract_lets +onlyGivenNames x1
  clear_value x1
  extract_lets +onlyGivenNames x4
  clear_value x4
  extract_lets +onlyGivenNames x0
  clear_value x0
  refine State.wr_keeps _ _ _ ?_
  refine State.wr_keeps _ _ _ ?_
  with_reducible assumption

theorem State.cross_keeps {s0 : State} {s : State} (n : ℕ) (k : ℕ) (bit : ℕ) (r : ℤ) (thr : ℤ) (h : Keeps s0 s) :
    Keeps s0 (State.cross s n k bit r thr).2 := by
  unfold State.cross
  extract_lets +onlyGivenNames x5
  clear_value x5
  extract_lets +onlyGivenNames x2
  clear_value x2
  extract_lets +onlyGivenNames x8
  have h8 : Keeps s0 x8
  · unfold x8
    refine State.setSensor_keeps _ _ ?_
    with_reducible assumption
  clear_value x8
  split
  · dsimp -zeta only
    refine State.wrBit_keeps _ _ _ _ ?_
    with_reducible assumption
  · with_reducible assumption

theorem State.judgeRise_keeps {s0 : State} {s : State} (n : ℕ) (r : ℤ) (h : Keeps s0 s) :
    Keeps s0 (State.judgeRise s n r) := by
  unfold State.judgeRise
  extract_lets +onlyGivenNames x0
  clear_value x0
  extract_lets +onlyGivenNames x6
  clear_value x6
  extract_lets +onlyGivenNames x1
  clear_value x1
  extract_lets +onlyGivenNames x3
  have h3 : Keeps s0 x3
  · unfold x3
    refine State.setSensor_keeps _ _ ?_
    with_reducible assumption
  clear_value x3
  extract_lets +onlyGivenNames x0
  clear_value x0
  extract_lets +onlyGivenNames x1
  refine ite_ind ?_ ?_
  · refine ite_ind ?_ ?_
    · with_reducible assumption
    · unfold x1
      refine State.raise_keeps _ _ _ ?_
      refine State.wrBit_keeps _ _ _ _ ?_
      with_reducible assumption
  · refine ite_ind ?_ ?_
    · unfold x1
      refine State.raise_keeps _ _ _ ?_
      refine State.wrBit_keeps _ _ _ _ ?_
      with_reducible assumption
    · with_reducible assumption

theorem State.setReduction_keeps {s0 : State} {s : State} (n : ℕ) (t : ℕ) (red : ℕ) (h : Keeps s0 s) :
    Keeps s0 (State.setReduction s n t red) := by
  unfold State.setReduction
  extract_lets +onlyGivenNames x0
  extract_lets +onlyGivenNames x2
  have h2 : Keeps s0 x2
  · unfold x2
    refine keeps_mk ?_ rfl rfl rfl rfl rfl rfl rfl
    with_reducible assumption
  clear_value x2
  extract_lets +onlyGivenNames x0
  clear_value x0
  extract_lets +onlyGivenNames x1
  clear_value x1
  extract_lets +onlyGivenNames x0
  have h0 : Keeps s0 x0
  · unfold x0
    refine State.wr_keeps _ _ _ ?_
    with_reducible assumption
  clear_value x0
  extract_lets +onlyGivenNames x0
  clear_value x0
  refine ite_ind ?_ ?_
  · refine ite_ind ?_ ?_
    · with_reducible assumption
    · refine keeps_mk ?_ rfl rfl rfl rfl rfl rfl rfl
      with_reducible assumption
  · refine keeps_mk ?_ rfl rfl rfl rfl rfl rfl rfl
    with_reducible assumption

theorem State.judgeThrottle_keeps {s0 : State} {s : State} (n : ℕ) (r : ℤ) (h : Keeps s0 s) :
    Keeps s0 (State.judgeThrottle s n r) := by
  unfold State.judgeThrottle
  extract_lets +onlyGivenNames x0
  clear_value x0
  extract_lets +onlyGivenNames x0
  clear_value x0
  extract_lets +onlyGivenNames x3
  refine ite_ind ?_ ?_
  · unfold x3
    refine State.raise_keeps _ _ _ ?_
    refine State.setSensor_keeps _ _ ?_
    with_reducible assumption
  · refine ite_ind ?_ ?_
    · unfold x3
      refine State.raise_keeps _ _ _ ?_
      refine State.setSensor_keeps _ _ ?_
      with_reducible assumption
    · with_reducible assumption

theorem State.stepUp_keeps {s0 : State} {s : State} (n : ℕ) (h : Keeps s0 s) :
    Keeps s0 (State.stepUp s n) := by
  unfold State.stepUp
  refine keeps_foldl ?_ ?_
  · intro a0 a1 h2
    extract_lets +onlyGivenNames x0
    clear_value x0
    extract_lets +onlyGivenNames x0
    clear_value x0
    refine ite_ind ?_ ?_
    · with_reducible assumption
    · extract_lets +onlyGivenNames x0
      clear_value x0
      extract_lets +onlyGivenNames x3
      have h3 : Keeps s0 x3
      · unfold x3
        refine State.setReduction_keeps _ _ _ ?_
        with_reducible assumption
      clear_value x3
      refine State.raise_keeps _ _ _ ?_
      with_reducible assumption
  · with_reducible assumption

theorem State.stepDown_keeps {s0 : State} {s : State} (n : ℕ) (h : Keeps s0 s) :
    Keeps s0 (State.stepDown s n) := by
  unfold State.stepDown
  refine keeps_foldl ?_ ?_
  · intro a1 a2 h3
    refine State.setReduction_keeps _ _ _ ?_
    with_reducible assumption
  · with_reducible assumption

theorem State.throttleGrace_keeps {s0 : State} {s : State} (n : ℕ) (h : Keeps s0 s) :
    Keeps s0 (State.throttleGrace s n) := by
  unfold State.throttleGrace
  extract_lets +onlyGivenNames x1
  clear_value x1
  split
  · with_reducible assumption
  · refine ite_ind ?_ ?_
    · with_reducible assumption
    · refine ite_ind ?_ ?_
      · refine State.stepUp_keeps _ ?_
        refine State.setSensor_keeps _ _ ?_
        with_reducible assumption
      · refine State.setSensor_keeps _ _ ?_
        with_reducible assumption

theorem State.throttleStep_keeps {s0 : State} {s : State} (n : ℕ) (h : Keeps s0 s) :
    Keeps s0 (State.throttleStep s n) := by
  unfold State.throttleStep
  extract_lets +onlyGivenNames x0
  clear_value x0
  refine ite_ind ?_ ?_
  · with_reducible assumption
  · refine ite_ind ?_ ?_
    · refine State.stepUp_keeps _ ?_
      refine State.setSensor_keeps _ _ ?_
      with_reducible assumption
    · refine ite_ind ?_ ?_
      · refine State.stepDown_keeps _ ?_
        refine State.setSensor_keeps _ _ ?_
        with_reducible assumption
      · with_reducible assumption

theorem State.mutedTilesOff_keeps {s0 : State} {s : State} (h : Keeps s0 s) :
    Keeps s0 (State.mutedTilesOff s) := by
  unfold State.mutedTilesOff
  refine keeps_mk ?_ rfl rfl rfl rfl rfl rfl rfl
  with_reducible assumption

theorem State.tileMute_keeps {s0 : State} {s : State} (t : ℕ) (h : Keeps s0 s) :
    Keeps s0 (State.tileMute s t) := by
  unfold State.tileMute
  extract_lets +onlyGivenNames x4
  clear_value x4
  split
  · refine ite_ind ?_ ?_
    · with_reducible assumption
    · extract_lets +onlyGivenNames x1
      have h1 : Keeps s0 x1
      · unfold x1
        refine State.raise_keeps _ _ _ ?_
        refine State.wrBit_keeps _ _ _ _ ?_
        with_reducible assumption
      clear_value x1
      refine ite_ind ?_ ?_
      · refine State.mutedTilesOff_keeps ?_
        with_reducible assumption
      · with_reducible assumption
  · with_reducible assumption

theorem State.throttleAtSlot_keeps {s0 : State} {s : State} (h : Keeps s0 s) :
    Keeps s0 (State.throttleAtSlot s) := by
  unfold State.throttleAtSlot
  extract_lets +onlyGivenNames x0
  have h0 : Keeps s0 x0
  · unfold x0
    refine keeps_foldl ?_ ?_
    · intro a1 a2 h3
      refine ite_ind ?_ ?_
      · refine State.raise_keeps _ _ _ ?_
        refine State.wrBit_keeps _ _ _ _ ?_
        with_reducible assumption
      · with_reducible assumption
    · with_reducible assumption
  clear_value x0
  extract_lets +onlyGivenNames x0
  have h0 : Keeps s0 x0
  · unfold x0
    refine State.mutedTilesOff_keeps ?_
    with_reducible assumption
  clear_value x0
  refine keeps_foldl ?_ ?_
  · intro a1 a2 h3
    extract_lets +onlyGivenNames x4
    clear_value x4
    extract_lets +onlyGivenNames x0
    clear_value x0
    refine State.loopAt_keeps _ _ _ ?_
    with_reducible assumption
  · with_reducible assumption

theorem State.clampReduction_keeps {s0 : State} {s : State} (t : ℕ) (h : Keeps s0 s) :
    Keeps s0 (State.clampReduction s t) := by
  unfold State.clampReduction
  extract_lets +onlyGivenNames x0
  clear_value x0
  refine ite_ind ?_ ?_
  · with_reducible assumption
  · extract_lets +onlyGivenNames x0
    have h0 : Keeps s0 x0
    · unfold x0
      refine keeps_foldl ?_ ?_
      · intro a3 a4 h5
        refine ite_ind ?_ ?_
        · refine State.setReduction_keeps _ _ _ ?_
          with_reducible assumption
        · with_reducible assumption
      · with_reducible assumption
    clear_value x0
    refine State.loopAt_keeps _ _ _ ?_
    with_reducible assumption

theorem State.latchShutdown_keeps {s0 : State} {s : State} (h : Keeps s0 s) :
    Keeps s0 (State.latchShutdown s) := by
  unfold State.latchShutdown
  extract_lets +onlyGivenNames x2
  extract_lets +onlyGivenNames x0
  have h0 : Keeps s0 x0
  · unfold x0
    refine keeps_mk ?_ rfl rfl rfl rfl rfl rfl rfl
    with_reducible assumption
  clear_value x0
  extract_lets +onlyGivenNames x4
  have h4 : Keeps s0 x4
  · unfold x4
    refine State.clearBegins_keeps _ ?_
    with_reducible assumption
  clear_value x4
  refine State.forEach_keeps _ _ ?_ ?_
  · intro a5 a6 h7
    refine State.switchOff_keeps _ ?_
    with_reducible assumption
  · with_reducible assumption

theorem State.shutdownCross_keeps {s0 : State} {s : State} (n : ℕ) (r : ℤ) (h : Keeps s0 s) :
    Keeps s0 (State.shutdownCross s n r) := by
  unfold State.shutdownCross
  extract_lets +onlyGivenNames x2
  clear_value x2
  extract_lets +onlyGivenNames x3
  have h3 : Keeps s0 x3
  · unfold x3
    refine State.raiseAt_keeps _ _ _ _ _ ?_
    with_reducible assumption
  clear_value x3
  refine ite_ind ?_ ?_
  · refine State.latchShutdown_keeps ?_
    with_reducible assumption
  · refine ite_ind ?_ ?_
    · with_reducible assumption
    · refine keeps_mk ?_ rfl rfl rfl rfl rfl rfl rfl
      with_reducible assumption

theorem State.shutdownActs_keeps {s0 : State} {s : State} (h : Keeps s0 s) :
    Keeps s0 (State.shutdownActs s) := by
  unfold State.shutdownActs
  split
  · refine keeps_mk ?_ rfl rfl rfl rfl rfl rfl rfl
    with_reducible assumption
  · with_reducible assumption

theorem State.shutdownDeadline_keeps {s0 : State} {s : State} (h : Keeps s0 s) :
    Keeps s0 (State.shutdownDeadline s) := by
  unfold State.shutdownDeadline
  split
  · refine ite_ind ?_ ?_
    · refine State.shutdownActs_keeps ?_
      with_reducible assumption
    · with_reducible assumption
  · with_reducible assumption

theorem State.shutdownBiasClear_keeps {s0 : State} {s : State} (h : Keeps s0 s) :
    Keeps s0 (State.shutdownBiasClear s) := by
  unfold State.shutdownBiasClear
  split
  · refine ite_ind ?_ ?_
    · refine State.causeActive_keeps _ ?_
      refine State.clearBegins_keeps _ ?_
      refine keeps_mk ?_ rfl rfl rfl rfl rfl rfl rfl
      with_reducible assumption
    · with_reducible assumption
  · with_reducible assumption

theorem State.thermalOver_keeps {s0 : State} {s : State} (h : Keeps s0 s) :
    Keeps s0 (State.thermalOver s) := by
  unfold State.thermalOver
  refine ite_ind ?_ ?_
  · refine State.clearEnds_keeps _ ?_
    refine State.causeCleared_keeps _ ?_
    refine keeps_mk ?_ rfl rfl rfl rfl rfl rfl rfl
    with_reducible assumption
  · with_reducible assumption

theorem State.sensorFault_keeps {s0 : State} {s : State} (n : ℕ) (reason : ℕ) (h : Keeps s0 s) :
    Keeps s0 (State.sensorFault s n reason) := by
  unfold State.sensorFault
  extract_lets +onlyGivenNames x8
  clear_value x8
  refine ite_ind ?_ ?_
  · with_reducible assumption
  · extract_lets +onlyGivenNames x9
    have h9 : Keeps s0 x9
    · unfold x9
      refine State.wrBit_keeps _ _ _ _ ?_
      refine State.setSensor_keeps _ _ ?_
      with_reducible assumption
    clear_value x9
    extract_lets +onlyGivenNames x12
    have h12 : Keeps s0 x12
    · unfold x12
      refine State.wrBit_keeps _ _ _ _ ?_
      with_reducible assumption
    clear_value x12
    extract_lets +onlyGivenNames x14
    clear_value x14
    refine State.raise_keeps _ _ _ ?_
    with_reducible assumption

theorem State.courseTemp_keeps {s0 : State} {s : State} (n : ℕ) (r : ℤ) (h : Keeps s0 s) :
    Keeps s0 (State.courseTemp s n r) := by
  unfold State.courseTemp
  refine ite_ind ?_ ?_
  · extract_lets +onlyGivenNames x10
    clear_value x10
    extract_lets +onlyGivenNames x11
    clear_value x11
    refine State.wrI_keeps _ _ _ _ ?_
    refine keeps_mk ?_ rfl rfl rfl rfl rfl rfl rfl
    with_reducible assumption
  · with_reducible assumption

theorem State.sensorReads_keeps {s0 : State} {s : State} (c : ℕ) (n : ℕ) (raw : ℤ) (fault : ℕ) (h : Keeps s0 s) :
    Keeps s0 (State.sensorReads s c n raw fault) := by
  unfold State.sensorReads
  extract_lets +onlyGivenNames x13
  have h13 : Keeps s0 x13
  · unfold x13
    refine State.sensorFault_keeps _ _ ?_
    with_reducible assumption
  clear_value x13
  extract_lets +onlyGivenNames x18
  clear_value x18
  extract_lets +onlyGivenNames x21
  clear_value x21
  extract_lets +onlyGivenNames x24
  have h24 : Keeps s0 x24
  · unfold x24
    refine State.setSensor_keeps _ _ ?_
    with_reducible assumption
  clear_value x24
  extract_lets +onlyGivenNames x28
  clear_value x28
  extract_lets +onlyGivenNames x31
  have h31 : Keeps s0 x31
  · unfold x31
    refine State.courseTemp_keeps _ _ ?_
    refine State.wrI_keeps _ _ _ _ ?_
    with_reducible assumption
  clear_value x31
  extract_lets +onlyGivenNames x37
  have h37 : Keeps s0 x37.2
  · unfold x37
    refine State.cross_keeps _ _ _ _ _ ?_
    with_reducible assumption
  clear_value x37
  extract_lets +onlyGivenNames x38
  have h38 : Keeps s0 x38
  · unfold x38
    split
    · extract_lets +onlyGivenNames x40
      have h40 : Keeps s0 x40
      · unfold x40
        refine State.raise_keeps _ _ _ ?_
        with_reducible assumption
      clear_value x40
      refine ite_ind ?_ ?_
      · refine keeps_mk ?_ rfl rfl rfl rfl rfl rfl rfl
        with_reducible assumption
      · with_reducible assumption
    · with_reducible assumption
  clear_value x38
  extract_lets +onlyGivenNames x44
  have h44 : Keeps s0 x44
  · unfold x44
    refine State.cross_keeps _ _ _ _ _ ?_
    with_reducible assumption
  clear_value x44
  extract_lets +onlyGivenNames x45
  have h45 : Keeps s0 x45
  · unfold x45
    refine State.judgeThrottle_keeps _ _ ?_
    refine State.judgeRise_keeps _ _ ?_
    with_reducible assumption
  clear_value x45
  extract_lets +onlyGivenNames x46
  have h46 : Keeps s0 x46.2
  · unfold x46
    refine State.cross_keeps _ _ _ _ _ ?_
    with_reducible assumption
  clear_value x46
  split
  · refine State.shutdownCross_keeps _ _ ?_
    with_reducible assumption
  · with_reducible assumption

theorem State.remoteReads_keeps {s0 : State} {s : State} (c : ℕ) (t : ℕ) (v : ℤ × ℤ × ℤ) (h : Keeps s0 s) :
    Keeps s0 (State.remoteReads s c t v) := by
  unfold State.remoteReads
  refine ite_ind ?_ ?_
  · extract_lets +onlyGivenNames x16
    clear_value x16
    extract_lets +onlyGivenNames x17
    clear_value x17
    refine State.sensorReads_keeps _ _ _ _ ?_
    refine State.wr_keeps _ _ _ ?_
    with_reducible assumption
  · extract_lets +onlyGivenNames x50
    extract_lets +onlyGivenNames x51
    refine State.sensorReads_keeps _ _ _ _ ?_
    with_reducible assumption

theorem State.hkFrame_keeps {s0 : State} {s : State} (f : HkFrame) (h : Keeps s0 s) :
    Keeps s0 (State.hkFrame s f) := by
  unfold State.hkFrame
  extract_lets +onlyGivenNames x15
  clear_value x15
  refine ite_ind ?_ ?_
  · with_reducible assumption
  · refine ite_ind ?_ ?_
    · refine State.hkFails_keeps _ _ ?_
      with_reducible assumption
    · refine ite_ind ?_ ?_
      · refine State.hkFails_keeps _ _ ?_
        with_reducible assumption
      · extract_lets +onlyGivenNames x25
        have h25 : Keeps s0 x25
        · unfold x25
          refine State.wr_keeps _ _ _ ?_
          with_reducible assumption
        clear_value x25
        extract_lets +onlyGivenNames x30
        have h30 : Keeps s0 x30
        · unfold x30
          refine keeps_foldl ?_ ?_
          · intro a34 a35 h36
            refine ite_ind ?_ ?_
            · refine State.sensorReads_keeps _ _ _ _ ?_
              with_reducible assumption
            · with_reducible assumption
          · with_reducible assumption
        clear_value x30
        extract_lets +onlyGivenNames x49
        clear_value x49
        extract_lets +onlyGivenNames x52
        clear_value x52
        extract_lets +onlyGivenNames x53
        clear_value x53
        extract_lets +onlyGivenNames x54
        extract_lets +onlyGivenNames x55
        have h55 : Keeps s0 x55
        · unfold x55
          refine keeps_mk ?_ rfl rfl rfl rfl rfl rfl rfl
          with_reducible assumption
        clear_value x55
        extract_lets +onlyGivenNames x57
        have h57 : Keeps s0 x57
        · unfold x57
          split
          · refine ite_ind ?_ ?_
            · with_reducible assumption
            · refine State.remoteReads_keeps _ _ _ ?_
              with_reducible assumption
          · with_reducible assumption
        clear_value x57
        extract_lets +onlyGivenNames x58
        have h58 : Keeps s0 x58
        · unfold x58
          refine keeps_foldl ?_ ?_
          · intro a59 a60 h61
            refine ite_ind ?_ ?_
            · with_reducible assumption
            · refine ite_ind ?_ ?_
              · refine ite_ind ?_ ?_
                · refine State.hkInput_keeps _ _ ?_
                  with_reducible assumption
                · with_reducible assumption
              · refine ite_ind ?_ ?_
                · refine State.wrI_keeps _ _ _ _ ?_
                  with_reducible assumption
                · refine ite_ind ?_ ?_
                  · refine State.wrI_keeps _ _ _ _ ?_
                    with_reducible assumption
                  · with_reducible assumption
          · with_reducible assumption
        clear_value x58
        refine State.thermalOver_keeps ?_
        with_reducible assumption

theorem State.hkCheck_keeps {s0 : State} {s : State} (k : HkCheck) (h : Keeps s0 s) :
    Keeps s0 (State.hkCheck s k) := by
  unfold State.hkCheck
  refine ite_ind ?_ ?_
  · with_reducible assumption
  · extract_lets +onlyGivenNames x19
    extract_lets +onlyGivenNames x23
    have h23 : Keeps s0 x23
    · unfold x23
      refine keeps_mk ?_ rfl rfl rfl rfl rfl rfl rfl
      with_reducible assumption
    clear_value x23
    extract_lets +onlyGivenNames x29
    clear_value x29
    extract_lets +onlyGivenNames x32
    extract_lets +onlyGivenNames x33
    have h33 : Keeps s0 x33
    · unfold x33
      unfold x32
      refine ite_ind ?_ ?_
      · refine ite_ind ?_ ?_
        · with_reducible assumption
        · refine ite_ind ?_ ?_
          · refine State.hkFails_keeps _ _ ?_
            with_reducible assumption
          · extract_lets +onlyGivenNames x39
            have h39 : Keeps s0 x39
            · unfold x39
              refine State.wr_keeps _ _ _ ?_
              with_reducible assumption
            refine ite_ind ?_ ?_
            · refine State.hkFails_keeps _ _ ?_
              with_reducible assumption
            · with_reducible assumption
      · refine ite_ind ?_ ?_
        · refine State.hkFails_keeps _ _ ?_
          refine ite_ind ?_ ?_
          · with_reducible assumption
          · refine ite_ind ?_ ?_
            · refine State.hkFails_keeps _ _ ?_
              with_reducible assumption
            · extract_lets +onlyGivenNames x47
              have h47 : Keeps s0 x47
              · unfold x47
                refine State.wr_keeps _ _ _ ?_
                with_reducible assumption
              refine ite_ind ?_ ?_
              · refine State.hkFails_keeps _ _ ?_
                with_reducible assumption
              · with_reducible assumption
        · extract_lets +onlyGivenNames x48
          have h48 : Keeps s0 x48
          · unfold x48
            refine State.wr_keeps _ _ _ ?_
            with_reducible assumption
          extract_lets +onlyGivenNames x56
          have h56 : Keeps s0 x56
          · unfold x56
            refine State.wr_keeps _ _ _ ?_
            refine ite_ind ?_ ?_
            · with_reducible assumption
            · refine ite_ind ?_ ?_
              · refine State.hkFails_keeps _ _ ?_
                with_reducible assumption
              · refine ite_ind ?_ ?_
                · refine State.hkFails_keeps _ _ ?_
                  with_reducible assumption
                · with_reducible assumption
          refine ite_ind ?_ ?_
          · refine State.hkFails_keeps _ _ ?_
            with_reducible assumption
          · with_reducible assumption
    clear_value x33
    extract_lets +onlyGivenNames x62
    extract_lets +onlyGivenNames x63
    clear_value x63
    extract_lets +onlyGivenNames x64
    clear_value x64
    refine ite_ind ?_ ?_
    · extract_lets +onlyGivenNames x65
      clear_value x65
      refine ite_ind ?_ ?_
      · refine State.wr_keeps _ _ _ ?_
        refine State.wr_keeps _ _ _ ?_
        unfold x62
        refine State.raise_keeps _ _ _ ?_
        with_reducible assumption
      · with_reducible assumption
    · refine ite_ind ?_ ?_
      · extract_lets +onlyGivenNames x66
        clear_value x66
        refine ite_ind ?_ ?_
        · unfold x62
          refine State.raise_keeps _ _ _ ?_
          with_reducible assumption
        · with_reducible assumption
      · with_reducible assumption

theorem State.hkTrust_keeps {s0 : State} {s : State} (v : ℕ) (h : Keeps s0 s) :
    KeepsR s0 (State.hkTrust s v) := by
  unfold State.hkTrust
  refine ite_ind ?_ ?_
  · exact keepsR_error
  · extract_lets +onlyGivenNames x20
    extract_lets +onlyGivenNames x22
    have h22 : Keeps s0 x22
    · unfold x22
      refine keeps_mk ?_ rfl rfl rfl rfl rfl rfl rfl
      with_reducible assumption
    clear_value x22
    extract_lets +onlyGivenNames x26
    extract_lets +onlyGivenNames x27
    have h27 : Keeps s0 x27
    · unfold x27
      split
      · unfold x26
        refine ite_ind ?_ ?_
        · refine State.wr_keeps _ _ _ ?_
          with_reducible assumption
        · refine State.wr_keeps _ _ _ ?_
          refine State.wr_keeps _ _ _ ?_
          with_reducible assumption
      · unfold x26
        refine ite_ind ?_ ?_
        · refine State.wr_keeps _ _ _ ?_
          with_reducible assumption
        · refine State.wr_keeps _ _ _ ?_
          refine State.wr_keeps _ _ _ ?_
          with_reducible assumption
      · refine State.wr_keeps _ _ _ ?_
        refine State.wr_keeps _ _ _ ?_
        with_reducible assumption
    clear_value x27
    refine keepsR_ok ?_
    refine State.causeCleared_keeps _ ?_
    with_reducible assumption

theorem State.driverOvercurrent_keeps {s0 : State} {s : State} (p : ℕ) (h : Keeps s0 s) :
    Keeps s0 (State.driverOvercurrent s p) := by
  unfold State.driverOvercurrent
  refine State.detectFault_keeps _ _ ?_
  with_reducible assumption

theorem State.pathFaultClear_keeps {s0 : State} {s : State} (v : ℕ) (h : Keeps s0 s) :
    KeepsR s0 (State.pathFaultClear s v) := by
  unfold State.pathFaultClear
  refine ite_ind ?_ ?_
  · exact keepsR_error
  · refine keepsR_ok ?_
    refine keeps_foldl ?_ ?_
    · intro a41 a42 h43
      refine State.setPath_keeps _ _ ?_
      with_reducible assumption
    · with_reducible assumption

end Sys2Proof.Machine
end

