-- ==== Sys2Proof/Laws/KeepsLeases.lean ====
section
/-! SUPPORT. Every operation of Machine/Leases.lean keeps the relation of Laws/Keeps.lean. -/
namespace Sys2Proof.Machine

theorem State.dropJournal_keeps {s0 : State} {s : State} (lock : ℕ) (h : Keeps s0 s) :
    Keeps s0 (State.dropJournal s lock) := by
  unfold State.dropJournal
  refine keeps_mk ?_ rfl rfl rfl rfl rfl rfl rfl
  with_reducible assumption

theorem State.releaseLease_keeps {s0 : State} {s : State} (resource : ℕ) (h : Keeps s0 s) :
    Keeps s0 (State.releaseLease s resource) := by
  unfold State.releaseLease
  extract_lets +onlyGivenNames x2
  have h2 : Keeps s0 x2
  · unfold x2
    split
    · refine State.dropJournal_keeps _ ?_
      with_reducible assumption
    · with_reducible assumption
  clear_value x2
  refine State.freeLease_keeps _ ?_
  with_reducible assumption

theorem State.receiverEnds_keeps {s0 : State} {s : State} (c : ℕ) (h : Keeps s0 s) :
    Keeps s0 (State.receiverEnds s c) := by
  unfold State.receiverEnds
  extract_lets +onlyGivenNames x1
  have h1 : Keeps s0 x1
  · unfold x1
    split
    · extract_lets +onlyGivenNames x0
      have h0 : Keeps s0 x0
      · unfold x0
        refine ite_ind ?_ ?_
        · refine State.stepEmpty_keeps _ ?_
          with_reducible assumption
        · with_reducible assumption
      clear_value x0
      extract_lets +onlyGivenNames x0
      clear_value x0
      extract_lets +onlyGivenNames x2
      have h2 : Keeps s0 x2
      · unfold x2
        refine State.setObs_keeps _ _ ?_
        with_reducible assumption
      clear_value x2
      extract_lets +onlyGivenNames x0
      clear_value x0
      refine State.setFbsel_keeps _ _ ?_
      refine State.setLinPath_keeps _ _ ?_
      with_reducible assumption
    · with_reducible assumption
  clear_value x1
  refine keeps_foldl ?_ ?_
  · intro a0 a1 h2
    refine State.setFbsel_keeps _ _ ?_
    with_reducible assumption
  · with_reducible assumption

theorem State.functionEnds_keeps {s0 : State} {s : State} (owner : ℕ) (h : Keeps s0 s) :
    Keeps s0 (State.functionEnds s owner) := by
  unfold State.functionEnds
  refine ite_ind ?_ ?_
  · with_reducible assumption
  · split
    · refine State.calFails_keeps _ ?_
      with_reducible assumption
    · refine State.trainFails_keeps _ ?_
      with_reducible assumption
    · refine State.calStepEnds_keeps ?_
      with_reducible assumption
    · with_reducible assumption

theorem State.restoreResource_keeps {s0 : State} {s : State} (l : Lease) (h : Keeps s0 s) :
    Keeps s0 (State.restoreResource s l) := by
  unfold State.restoreResource
  split
  · refine State.dmaAbortWith_keeps _ _ ?_
    with_reducible assumption
  · refine State.raise_keeps _ _ _ ?_
    refine State.dropJournal_keeps _ ?_
    with_reducible assumption
  · refine State.speLeaseEnds_keeps ?_
    with_reducible assumption
  · refine State.receiverEnds_keeps _ ?_
    with_reducible assumption
  · with_reducible assumption

theorem State.endLease_keeps {s0 : State} {s : State} (l : Lease) (reason : ℕ) (h : Keeps s0 s) :
    Keeps s0 (State.endLease s l reason) := by
  unfold State.endLease
  extract_lets +onlyGivenNames x0
  have h0 : Keeps s0 x0
  · unfold x0
    refine State.functionEnds_keeps _ ?_
    refine State.freeLease_keeps _ ?_
    refine State.restoreResource_keeps _ ?_
    with_reducible assumption
  clear_value x0
  extract_lets +onlyGivenNames x7
  have h7 : Keeps s0 x7
  · unfold x7
    refine State.bump_keeps _ _ ?_
    with_reducible assumption
  clear_value x7
  refine State.raise_keeps _ _ _ ?_
  with_reducible assumption

theorem State.leaseRevoke_keeps {s0 : State} {s : State} (resource : ℕ) (h : Keeps s0 s) :
    KeepsR s0 (State.leaseRevoke s resource) := by
  unfold State.leaseRevoke
  split
  · refine keepsR_ok ?_
    refine State.endLease_keeps _ _ ?_
    with_reducible assumption
  · exact keepsR_error

theorem State.leaseExpiry_keeps {s0 : State} {s : State} (resource : ℕ) (h : Keeps s0 s) :
    Keeps s0 (State.leaseExpiry s resource) := by
  unfold State.leaseExpiry
  split
  · split
    · refine ite_ind ?_ ?_
      · refine State.endLease_keeps _ _ ?_
        with_reducible assumption
      · with_reducible assumption
    · with_reducible assumption
  · with_reducible assumption

theorem State.endLeasesOf_keeps {s0 : State} {s : State} (owner : ℕ) (reason : ℕ) (h : Keeps s0 s) :
    Keeps s0 (State.endLeasesOf s owner reason) := by
  unfold State.endLeasesOf
  refine keeps_foldl ?_ ?_
  · intro a1 a2 h3
    refine State.endLease_keeps _ _ ?_
    with_reducible assumption
  · with_reducible assumption

theorem State.releaseLeasesOf_keeps {s0 : State} {s : State} (owner : ℕ) (h : Keeps s0 s) :
    Keeps s0 (State.releaseLeasesOf s owner) := by
  unfold State.releaseLeasesOf
  refine keeps_foldl ?_ ?_
  · intro a4 a5 h6
    refine State.releaseLease_keeps _ ?_
    with_reducible assumption
  · with_reducible assumption

end Sys2Proof.Machine
end

