-- ==== Sys2Proof/Laws/KeepsMasonCore.lean ====
section
/-! SUPPORT. Every operation of Machine/MasonCore.lean keeps the relation of Laws/Keeps.lean. -/
namespace Sys2Proof.Machine

theorem State.setCore_keeps {s0 : State} {s : State} (m : ℕ) (c : MasonCore) (h : Keeps s0 s) :
    Keeps s0 (State.setCore s m c) := by
  unfold State.setCore
  refine keeps_mk ?_ rfl rfl rfl rfl rfl rfl rfl
  with_reducible assumption

theorem State.shelfSettle_keeps {s0 : State} {s : State} (m : ℕ) (off : ℕ) (n : ℕ) (h : Keeps s0 s) :
    Keeps s0 (State.shelfSettle s m off n) := by
  unfold State.shelfSettle
  refine ite_ind ?_ ?_
  · refine State.settle_keeps _ _ ?_
    with_reducible assumption
  · refine State.settle_keeps _ _ ?_
    refine State.settle_keeps _ _ ?_
    with_reducible assumption

theorem State.shelfStore_keeps {s0 : State} {s : State} (m : ℕ) (off : ℕ) (l : List Byte) (h : Keeps s0 s) :
    Keeps s0 (State.shelfStore s m off l) := by
  unfold State.shelfStore
  refine keeps_foldl ?_ ?_
  · intro a0 a1 h2
    refine State.storeInWord_keeps _ _ ?_
    with_reducible assumption
  · with_reducible assumption

end Sys2Proof.Machine
end

