-- ==== Sys2Proof/Laws/KeepsMason.lean ====
section
/-! SUPPORT. Every operation of Machine/Mason.lean keeps the relation of Laws/Keeps.lean. -/
namespace Sys2Proof.Machine

theorem State.showCore_keeps {s0 : State} {s : State} (m : ℕ) (h : Keeps s0 s) :
    Keeps s0 (State.showCore s m) := by
  unfold State.showCore
  refine ite_ind ?_ ?_
  · with_reducible assumption
  · refine State.wr_keeps _ _ _ ?_
    with_reducible assumption

theorem State.setSpare_keeps {s0 : State} {s : State} (m : ℕ) (b : Bool) (h : Keeps s0 s) :
    Keeps s0 (State.setSpare s m b) := by
  unfold State.setSpare
  refine State.showCore_keeps _ ?_
  refine State.wrBit_keeps _ _ _ _ ?_
  with_reducible assumption

theorem State.setRetired_keeps {s0 : State} {s : State} (m : ℕ) (b : Bool) (h : Keeps s0 s) :
    Keeps s0 (State.setRetired s m b) := by
  unfold State.setRetired
  refine State.showCore_keeps _ ?_
  refine State.wrBit_keeps _ _ _ _ ?_
  refine State.wrBit_keeps _ _ _ _ ?_
  with_reducible assumption

theorem State.judgeSpares_keeps {s0 : State} {s : State} (h : Keeps s0 s) :
    Keeps s0 (State.judgeSpares s) := by
  unfold State.judgeSpares
  refine ite_ind ?_ ?_
  · refine State.raise_keeps _ _ _ ?_
    with_reducible assumption
  · with_reducible assumption

theorem State.designateSpares_keeps {s0 : State} {s : State} (h : Keeps s0 s) :
    Keeps s0 (State.designateSpares s) := by
  unfold State.designateSpares
  extract_lets +onlyGivenNames x0
  clear_value x0
  extract_lets +onlyGivenNames x0
  clear_value x0
  refine ite_ind ?_ ?_
  · refine keeps_foldl ?_ ?_
    · intro a0 a1 h2
      refine State.setSpare_keeps _ _ ?_
      with_reducible assumption
    · with_reducible assumption
  · refine keeps_foldl ?_ ?_
    · intro a7 a8 h9
      refine State.setSpare_keeps _ _ ?_
      with_reducible assumption
    · with_reducible assumption

theorem State.startTask_keeps {s0 : State} {s : State} (m : ℕ) (t : MasonTask) (h : Keeps s0 s) :
    Keeps s0 (State.startTask s m t) := by
  unfold State.startTask
  extract_lets +onlyGivenNames x1
  clear_value x1
  extract_lets +onlyGivenNames x3
  clear_value x3
  extract_lets +onlyGivenNames x0
  have h0 : Keeps s0 x0
  · unfold x0
    refine State.ownBytes_keeps _ _ ?_
    with_reducible assumption
  clear_value x0
  extract_lets +onlyGivenNames x3
  have h3 : Keeps s0 x3
  · unfold x3
    refine State.ownBytes_keeps _ _ ?_
    with_reducible assumption
  clear_value x3
  extract_lets +onlyGivenNames x4
  have h4 : Keeps s0 x4
  · unfold x4
    refine State.ownBytes_keeps _ _ ?_
    with_reducible assumption
  clear_value x4
  refine State.wr_keeps _ _ _ ?_
  refine State.setCore_keeps _ _ ?_
  with_reducible assumption

theorem State.startNext_keeps {s0 : State} {s : State} (m : ℕ) (h : Keeps s0 s) :
    Keeps s0 (State.startNext s m) := by
  unfold State.startNext
  refine ite_ind ?_ ?_
  · with_reducible assumption
  · split
    · refine State.startTask_keeps _ _ ?_
      refine keeps_mk ?_ rfl rfl rfl rfl rfl rfl rfl
      with_reducible assumption
    · with_reducible assumption

theorem State.clearTask_keeps {s0 : State} {s : State} (m : ℕ) (h : Keeps s0 s) :
    Keeps s0 (State.clearTask s m) := by
  unfold State.clearTask
  extract_lets +onlyGivenNames x0
  clear_value x0
  refine State.showCore_keeps _ ?_
  refine State.setCore_keeps _ _ ?_
  with_reducible assumption

theorem State.endJob_keeps {s0 : State} {s : State} (j : UserJob) (state : ℕ) (h : Keeps s0 s) :
    Keeps s0 (State.endJob s j state) := by
  unfold State.endJob
  extract_lets +onlyGivenNames x1
  extract_lets +onlyGivenNames x2
  have h2 : Keeps s0 x2
  · unfold x2
    refine keeps_mk ?_ rfl rfl rfl rfl rfl rfl rfl
    with_reducible assumption
  clear_value x2
  extract_lets +onlyGivenNames x0
  have h0 : Keeps s0 x0
  · unfold x0
    refine State.releaseLeasesOf_keeps _ ?_
    with_reducible assumption
  clear_value x0
  refine ite_ind ?_ ?_
  · refine State.raise_keeps _ _ _ ?_
    with_reducible assumption
  · with_reducible assumption

theorem State.jobTaskEnds_keeps {s0 : State} {s : State} (job : ℕ) (reason : ℕ) (h : Keeps s0 s) :
    Keeps s0 (State.jobTaskEnds s job reason) := by
  unfold State.jobTaskEnds
  split
  · with_reducible assumption
  · extract_lets +onlyGivenNames x0
    extract_lets +onlyGivenNames x0
    extract_lets +onlyGivenNames x0
    extract_lets +onlyGivenNames x0
    have h0 : Keeps s0 x0
    · unfold x0
      refine keeps_mk ?_ rfl rfl rfl rfl rfl rfl rfl
      with_reducible assumption
    clear_value x0
    refine ite_ind ?_ ?_
    · refine State.endJob_keeps _ _ ?_
      with_reducible assumption
    · with_reducible assumption

theorem State.taskFails_keeps {s0 : State} {s : State} (m : ℕ) (reason : ℕ) (h : Keeps s0 s) :
    Keeps s0 (State.taskFails s m reason) := by
  unfold State.taskFails
  split
  · with_reducible assumption
  · extract_lets +onlyGivenNames x3
    have h3 : Keeps s0 x3
    · unfold x3
      refine State.clearTask_keeps _ ?_
      with_reducible assumption
    clear_value x3
    extract_lets +onlyGivenNames x4
    have h4 : Keeps s0 x4
    · unfold x4
      refine State.raise_keeps _ _ _ ?_
      with_reducible assumption
    clear_value x4
    extract_lets +onlyGivenNames x1
    have h1 : Keeps s0 x1
    · unfold x1
      refine State.startNext_keeps _ ?_
      refine State.jobTaskEnds_keeps _ _ ?_
      with_reducible assumption
    clear_value x1
    split
    · refine State.startNext_keeps _ ?_
      with_reducible assumption
    · with_reducible assumption

theorem State.taskDone_keeps {s0 : State} {s : State} (m : ℕ) (h : Keeps s0 s) : Keeps s0 (State.taskDone s m) := by
  unfold State.taskDone
  split
  · exact h
  · rename_i t _
    extract_lets +onlyGivenNames x1
    have h1 : Keeps s0 x1 := State.bump_keeps _ _ (State.clearTask_keeps _ h)
    clear_value x1
    extract_lets +onlyGivenNames x2
    have h2 : Keeps s0 x2 := by
      unfold x2
      split
      · exact h1
      · rename_i old reason _
        dsimp only
        split
        · exact State.raise_keeps _ _ _ h1
        · refine State.judgeSpares_keeps (keeps_mk ?_ rfl rfl rfl rfl rfl rfl rfl)
          exact State.raise_keeps _ _ _ (State.raise_keeps _ _ _ (State.setSpare_keeps _ _ (State.setRetired_keeps _ _ h1)))
    clear_value x2
    extract_lets +onlyGivenNames x3
    have h3 : Keeps s0 x3 := State.startNext_keeps _ (State.jobTaskEnds_keeps _ _ h2)
    clear_value x3
    split
    · exact State.startNext_keeps _ h3
    · exact h3

theorem State.stopTask_keeps {s0 : State} {s : State} (m : ℕ) (reason : ℕ) (h : Keeps s0 s) :
    Keeps s0 (State.stopTask s m reason) := by
  unfold State.stopTask
  split
  · with_reducible assumption
  · split
    · refine ite_ind ?_ ?_
      · refine State.taskFails_keeps _ _ ?_
        with_reducible assumption
      · refine State.taskFails_keeps _ _ ?_
        refine keeps_mk ?_ rfl rfl rfl rfl rfl rfl rfl
        with_reducible assumption
    · refine State.taskFails_keeps _ _ ?_
      with_reducible assumption
    · refine State.startTask_keeps _ _ ?_
      refine State.clearTask_keeps _ ?_
      with_reducible assumption

theorem State.landDue_keeps {s0 : State} {s : State} (m : ℕ) (l : List MasonWrite) (h : Keeps s0 s) : Keeps s0 (State.landDue s m l) := by
  induction l generalizing s with
  | nil => exact h
  | cons w t ih =>
    unfold State.landDue
    dsimp only
    split
    · refine ih ?_
      split
      · exact State.shelfStore_keeps _ _ _ h
      · exact State.setCore_keeps _ _ h
    · exact ih (State.setCore_keeps _ _ h)

theorem State.settleFlight_keeps {s0 : State} {s : State} (m : ℕ) (h : Keeps s0 s) :
    Keeps s0 (State.settleFlight s m) := by
  unfold State.settleFlight
  extract_lets +onlyGivenNames x0
  clear_value x0
  refine State.landDue_keeps _ _ ?_
  refine State.setCore_keeps _ _ ?_
  with_reducible assumption

theorem State.drain_keeps {s0 : State} {s : State} (m : ℕ) (h : Keeps s0 s) :
    Keeps s0 (State.drain s m) := by
  unfold State.drain
  extract_lets +onlyGivenNames x0
  clear_value x0
  refine State.settleFlight_keeps _ ?_
  refine State.setCore_keeps _ _ ?_
  with_reducible assumption

theorem State.coreCycle_keeps {s0 : State} {s : State} (m : ℕ) (h : Keeps s0 s) :
    Keeps s0 (State.coreCycle s m) := by
  unfold State.coreCycle
  extract_lets +onlyGivenNames x0
  clear_value x0
  refine State.settleFlight_keeps _ ?_
  refine State.setCore_keeps _ _ ?_
  with_reducible assumption

theorem State.coreException_keeps {s0 : State} {s : State} (m : ℕ) (cause : ℕ) (ea : ℕ) (h : Keeps s0 s) :
    Keeps s0 (State.coreException s m cause ea) := by
  unfold State.coreException
  extract_lets +onlyGivenNames x0
  have h0 : Keeps s0 x0
  · unfold x0
    refine State.drain_keeps _ ?_
    refine State.setCore_keeps _ _ ?_
    with_reducible assumption
  clear_value x0
  extract_lets +onlyGivenNames x11
  clear_value x11
  split
  · with_reducible assumption
  · refine ite_ind ?_ ?_
    · refine State.taskFails_keeps _ _ ?_
      with_reducible assumption
    · extract_lets +onlyGivenNames x21
      clear_value x21
      refine State.wr_keeps _ _ _ ?_
      refine State.coreCycle_keeps _ ?_
      refine State.setCore_keeps _ _ ?_
      with_reducible assumption

theorem State.coreAct_keeps {s0 : State} {s : State} (m : ℕ) (a : MasonAct) (h : Keeps s0 s) :
    Keeps s0 (State.coreAct s m a) := by
  unfold State.coreAct
  extract_lets +onlyGivenNames x0
  clear_value x0
  split
  · refine State.setCore_keeps _ _ ?_
    with_reducible assumption
  · extract_lets +onlyGivenNames x4
    have h4 : Keeps s0 x4
    · unfold x4
      refine State.setCore_keeps _ _ ?_
      with_reducible assumption
    clear_value x4
    refine ite_ind ?_ ?_
    · refine State.bump_keeps _ _ ?_
      with_reducible assumption
    · with_reducible assumption
  · refine State.setCore_keeps _ _ ?_
    with_reducible assumption
  · refine State.setCore_keeps _ _ ?_
    with_reducible assumption
  · refine State.setCore_keeps _ _ ?_
    with_reducible assumption
  · with_reducible assumption
  · refine State.setCore_keeps _ _ ?_
    with_reducible assumption
  · refine State.setCore_keeps _ _ ?_
    with_reducible assumption
  · extract_lets +onlyGivenNames x1
    have h1 : Keeps s0 x1
    · unfold x1
      refine State.takeLease_keeps _ _ _ _ ?_
      with_reducible assumption
    clear_value x1
    split
    · refine ite_ind ?_ ?_
      · with_reducible assumption
      · refine keeps_mk ?_ rfl rfl rfl rfl rfl rfl rfl
        with_reducible assumption
    · with_reducible assumption
  · split
    · refine ite_ind ?_ ?_
      · refine State.releaseLease_keeps _ ?_
        with_reducible assumption
      · with_reducible assumption
    · with_reducible assumption
  · with_reducible assumption
  · with_reducible assumption

theorem State.rtiEnds_keeps {s0 : State} {s : State} (m : ℕ) (h : Keeps s0 s) :
    Keeps s0 (State.rtiEnds s m) := by
  unfold State.rtiEnds
  extract_lets +onlyGivenNames x0
  clear_value x0
  refine ite_ind ?_ ?_
  · with_reducible assumption
  · refine ite_ind ?_ ?_
    · refine State.taskFails_keeps _ _ ?_
      with_reducible assumption
    · extract_lets +onlyGivenNames x0
      clear_value x0
      refine State.wr_keeps _ _ _ ?_
      refine State.setCore_keeps _ _ ?_
      with_reducible assumption

theorem State.issueBundle_keeps {s0 : State} {s : State} (m : ℕ) (h : Keeps s0 s) :
    Keeps s0 (State.issueBundle s m) := by
  unfold State.issueBundle
  extract_lets +onlyGivenNames x2
  clear_value x2
  extract_lets +onlyGivenNames x0
  have h0 : Keeps s0 x0
  · unfold x0
    refine keeps_foldl ?_ ?_
    · intro a0 a1 h2
      refine State.coreAct_keeps _ _ ?_
      with_reducible assumption
    · with_reducible assumption
  clear_value x0
  extract_lets +onlyGivenNames x13
  clear_value x13
  extract_lets +onlyGivenNames x17
  clear_value x17
  split
  · extract_lets +onlyGivenNames x19
    have h19 : Keeps s0 x19
    · unfold x19
      refine State.drain_keeps _ ?_
      refine State.setCore_keeps _ _ ?_
      with_reducible assumption
    clear_value x19
    refine ite_ind ?_ ?_
    · refine State.taskDone_keeps _ ?_
      with_reducible assumption
    · refine State.taskFails_keeps _ _ ?_
      with_reducible assumption
  · extract_lets +onlyGivenNames x23
    clear_value x23
    extract_lets +onlyGivenNames x24
    have h24 : Keeps s0 x24
    · unfold x24
      refine State.coreCycle_keeps _ ?_
      refine State.setCore_keeps _ _ ?_
      with_reducible assumption
    clear_value x24
    refine ite_ind ?_ ?_
    · refine State.rtiEnds_keeps _ ?_
      with_reducible assumption
    · with_reducible assumption

theorem State.endBundle_keeps {s0 : State} {s : State} (m : ℕ) (h : Keeps s0 s) :
    Keeps s0 (State.endBundle s m) := by
  unfold State.endBundle
  extract_lets +onlyGivenNames x3
  clear_value x3
  split
  · refine State.coreException_keeps _ _ _ ?_
    with_reducible assumption
  · split
    · refine ite_ind ?_ ?_
      · refine State.coreCycle_keeps _ ?_
        refine State.setCore_keeps _ _ ?_
        with_reducible assumption
      · refine ite_ind ?_ ?_
        · refine State.coreException_keeps _ _ _ ?_
          refine State.setCore_keeps _ _ ?_
          with_reducible assumption
        · refine State.issueBundle_keeps _ ?_
          with_reducible assumption
    · refine State.issueBundle_keeps _ ?_
      with_reducible assumption

theorem State.issue_keeps {s0 : State} {s : State} (o : MasonIssue) (slot : ℕ) (touch : MasonCore → Option (ℕ × ℕ)) (f : State → MasonCore → OpResult) (h : Keeps s0 s) :
    Keeps s0 (State.issue s o slot touch f) := by
  unfold State.issue
  extract_lets +onlyGivenNames x0
  clear_value x0
  refine ite_ind ?_ ?_
  · with_reducible assumption
  · extract_lets +onlyGivenNames x3
    have h3 : Keeps s0 x3
    · unfold x3
      refine ite_ind ?_ ?_
      · refine State.endBundle_keeps _ ?_
        with_reducible assumption
      · with_reducible assumption
    clear_value x3
    extract_lets +onlyGivenNames x30
    have h30 : Keeps s0 x30
    · unfold x30
      refine ite_ind ?_ ?_
      · refine keeps_foldl ?_ ?_
        · intro a31 a32 h33
          refine State.issueBundle_keeps _ ?_
          with_reducible assumption
        · with_reducible assumption
      · with_reducible assumption
    clear_value x30
    extract_lets +onlyGivenNames x35
    clear_value x35
    refine ite_ind ?_ ?_
    · with_reducible assumption
    · extract_lets +onlyGivenNames x42
      have h42 : Keeps s0 x42
      · unfold x42
        split
        · refine State.shelfSettle_keeps _ _ _ ?_
          with_reducible assumption
        · with_reducible assumption
      clear_value x42
      extract_lets +onlyGivenNames x44
      clear_value x44
      extract_lets +onlyGivenNames x45
      clear_value x45
      extract_lets +onlyGivenNames x46
      clear_value x46
      extract_lets +onlyGivenNames x47
      have h47 : Keeps s0 x47
      · unfold x47
        split
        · refine State.consumePoison_keeps _ ?_
          with_reducible assumption
        · with_reducible assumption
      clear_value x47
      extract_lets +onlyGivenNames x54
      have h54 : Keeps s0 x54
      · unfold x54
        refine State.setCore_keeps _ _ ?_
        with_reducible assumption
      clear_value x54
      refine ite_ind ?_ ?_
      · with_reducible assumption
      · refine State.endBundle_keeps _ ?_
        with_reducible assumption

theorem State.interruptEntry_keeps {s0 : State} {s : State} (m : ℕ) (h : Keeps s0 s) :
    Keeps s0 (State.interruptEntry s m) := by
  unfold State.interruptEntry
  extract_lets +onlyGivenNames x2
  clear_value x2
  split
  · with_reducible assumption
  · refine ite_ind ?_ ?_
    · extract_lets +onlyGivenNames x5
      have h5 : Keeps s0 x5
      · unfold x5
        refine State.drain_keeps _ ?_
        with_reducible assumption
      clear_value x5
      extract_lets +onlyGivenNames x6
      clear_value x6
      refine State.wr_keeps _ _ _ ?_
      refine State.setCore_keeps _ _ ?_
      with_reducible assumption
    · with_reducible assumption

theorem State.timerCompare_keeps {s0 : State} {s : State} (m : ℕ) (h : Keeps s0 s) :
    Keeps s0 (State.timerCompare s m) := by
  unfold State.timerCompare
  extract_lets +onlyGivenNames x4
  clear_value x4
  refine ite_ind ?_ ?_
  · refine State.setCore_keeps _ _ ?_
    with_reducible assumption
  · with_reducible assumption

theorem State.masonTick_keeps {s0 : State} {s : State} (h : Keeps s0 s) :
    Keeps s0 (State.masonTick s) := by
  unfold State.masonTick
  refine keeps_foldl ?_ ?_
  · intro a7 a8 h9
    extract_lets +onlyGivenNames x10
    clear_value x10
    refine ite_ind ?_ ?_
    · refine State.setCore_keeps _ _ ?_
      with_reducible assumption
    · with_reducible assumption
  · with_reducible assumption

theorem State.moveWords_keeps {s0 : State} {s : State} (mas : Master) (n a b : ℕ) (h : Keeps s0 s) :
    Keeps s0 (State.moveWords s mas n a b).2 := by
  induction n generalizing s a b with
  | zero => exact h
  | succ n ih => exact ih _ _ (State.writeWord_keeps _ _ _ _ (State.readWord_keeps _ _ h))

theorem State.codeFaults_keeps {s0 : State} {s : State} (h : Keeps s0 s) :
    Keeps s0 (State.codeFaults s) := by
  unfold State.codeFaults
  extract_lets +onlyGivenNames x12
  clear_value x12
  refine keeps_foldl ?_ ?_
  · intro a14 a15 h16
    refine State.taskFails_keeps _ _ ?_
    with_reducible assumption
  · refine keeps_mk ?_ rfl rfl rfl rfl rfl rfl rfl
    with_reducible assumption

theorem State.xferEnds_keeps {s0 : State} {s : State} (m : ℕ) (i : ℕ) (x : MasonXfer) (error : Bool) (h : Keeps s0 s) :
    Keeps s0 (State.xferEnds s m i x error) := by
  unfold State.xferEnds
  extract_lets +onlyGivenNames x18
  clear_value x18
  extract_lets +onlyGivenNames x20
  have h20 : Keeps s0 x20.2
  · unfold x20
    split
    · with_reducible assumption
    · split
      · refine State.moveWords_keeps _ _ _ _ ?_
        with_reducible assumption
      · refine State.moveWords_keeps _ _ _ _ ?_
        with_reducible assumption
  clear_value x20
  extract_lets +onlyGivenNames x27
  have h27 : Keeps s0 x27
  · unfold x27
    with_reducible assumption
  clear_value x27
  extract_lets +onlyGivenNames x28
  clear_value x28
  extract_lets +onlyGivenNames x29
  have h29 : Keeps s0 x29
  · unfold x29
    refine State.setCore_keeps _ _ ?_
    with_reducible assumption
  clear_value x29
  refine State.codeFaults_keeps ?_
  with_reducible assumption

theorem State.xferComplete_keeps {s0 : State} {s : State} (m : ℕ) (i : ℕ) (error : Bool) (h : Keeps s0 s) :
    Keeps s0 (State.xferComplete s m i error) := by
  unfold State.xferComplete
  split
  · with_reducible assumption
  · split
    · extract_lets +onlyGivenNames x22
      have h22 : Keeps s0 x22.2
      · unfold x22
        refine State.needDomain_keeps _ ?_
        with_reducible assumption
      clear_value x22
      refine ite_ind ?_ ?_
      · with_reducible assumption
      · extract_lets +onlyGivenNames x25
        have h25 : Keeps s0 x25.2
        · unfold x25
          refine State.slowHold_keeps _ _ ?_
          with_reducible assumption
        clear_value x25
        refine ite_ind ?_ ?_
        · with_reducible assumption
        · refine State.xferEnds_keeps _ _ _ _ ?_
          with_reducible assumption
    · refine State.xferEnds_keeps _ _ _ _ ?_
      with_reducible assumption

theorem State.watchdog_keeps {s0 : State} {s : State} (m : ℕ) (h : Keeps s0 s) :
    Keeps s0 (State.watchdog s m) := by
  unfold State.watchdog
  extract_lets +onlyGivenNames x26
  clear_value x26
  split
  · refine ite_ind ?_ ?_
    · refine State.stopTask_keeps _ _ ?_
      refine State.endLeasesOf_keeps _ _ ?_
      with_reducible assumption
    · with_reducible assumption
  · with_reducible assumption

theorem State.coreParity_keeps {s0 : State} {s : State} (m : ℕ) (h : Keeps s0 s) :
    Keeps s0 (State.coreParity s m) := by
  unfold State.coreParity
  refine State.stopTask_keeps _ _ ?_
  with_reducible assumption

theorem State.masonRestore_keeps {s0 : State} {s : State} (m : ℕ) (h : Keeps s0 s) :
    KeepsR s0 (State.masonRestore s m) := by
  unfold State.masonRestore
  refine ite_ind ?_ ?_
  · exact keepsR_error
  · refine ite_ind ?_ ?_
    · exact keepsR_error
    · refine keepsR_ok ?_
      extract_lets +onlyGivenNames x43
      have h43 : Keeps s0 x43
      · unfold x43
        refine State.setCore_keeps _ _ ?_
        with_reducible assumption
      clear_value x43
      refine keeps_mk ?_ rfl rfl rfl rfl rfl rfl rfl
      with_reducible assumption

theorem State.rejoin_keeps {s0 : State} {s : State} (m : ℕ) (h : Keeps s0 s) :
    Keeps s0 (State.rejoin s m) := by
  unfold State.rejoin
  extract_lets +onlyGivenNames x34
  have h34 : Keeps s0 x34
  · unfold x34
    refine State.setRetired_keeps _ _ ?_
    with_reducible assumption
  clear_value x34
  refine State.startNext_keeps _ ?_
  refine State.setSpare_keeps _ _ ?_
  with_reducible assumption

theorem State.selftestDone_keeps {s0 : State} {s : State} (m : ℕ) (pass : Bool) (h : Keeps s0 s) :
    Keeps s0 (State.selftestDone s m pass) := by
  unfold State.selftestDone
  refine ite_ind ?_ ?_
  · with_reducible assumption
  · extract_lets +onlyGivenNames x36
    extract_lets +onlyGivenNames x37
    have h37 : Keeps s0 x37
    · unfold x37
      refine keeps_mk ?_ rfl rfl rfl rfl rfl rfl rfl
      with_reducible assumption
    clear_value x37
    refine ite_ind ?_ ?_
    · refine State.rejoin_keeps _ ?_
      with_reducible assumption
    · refine State.raise_keeps _ _ _ ?_
      refine State.setRetired_keeps _ _ ?_
      with_reducible assumption

theorem State.masonHeld_keeps {s0 : State} {s : State} (m : ℕ) (h : Keeps s0 s) :
    Keeps s0 (State.masonHeld s m) := by
  unfold State.masonHeld
  extract_lets +onlyGivenNames x38
  have h38 : Keeps s0 x38
  · unfold x38
    refine keeps_foldl ?_ ?_
    · intro a39 a40 h41
      refine State.endLease_keeps _ _ ?_
      with_reducible assumption
    · with_reducible assumption
  clear_value x38
  refine State.clearTask_keeps _ ?_
  refine State.stopTask_keeps _ _ ?_
  with_reducible assumption

theorem State.masonFreed_keeps {s0 : State} {s : State} (m : ℕ) (h : Keeps s0 s) :
    Keeps s0 (State.masonFreed s m) := by
  unfold State.masonFreed
  refine ite_ind ?_ ?_
  · with_reducible assumption
  · refine keeps_mk ?_ rfl rfl rfl rfl rfl rfl rfl
    with_reducible assumption

theorem State.placeKernel_keeps {s0 : State} {s : State} (slot : ℕ) (image : List Byte) (h : Keeps s0 s) :
    Keeps s0 (State.placeKernel s slot image) := by
  unfold State.placeKernel
  refine State.wr_keeps _ _ _ ?_
  refine keeps_mk ?_ rfl rfl rfl rfl rfl rfl rfl
  with_reducible assumption

theorem State.kernelLoad_keeps {s0 : State} {s : State} (image : List Byte) (h : Keeps s0 s) :
    KeepsR s0 (State.kernelLoad s image) := by
  unfold State.kernelLoad
  split
  · exact keepsR_error
  · extract_lets +onlyGivenNames x50
    clear_value x50
    refine ite_ind ?_ ?_
    · exact keepsR_error
    · extract_lets +onlyGivenNames x53
      clear_value x53
      refine ite_ind ?_ ?_
      · exact keepsR_error
      · refine keepsR_ok ?_
        refine State.raise_keeps _ _ _ ?_
        refine State.placeKernel_keeps _ _ ?_
        with_reducible assumption

theorem State.kernelUnload_keeps {s0 : State} {s : State} (slot : ℕ) (h : Keeps s0 s) :
    KeepsR s0 (State.kernelUnload s slot) := by
  unfold State.kernelUnload
  refine ite_ind ?_ ?_
  · exact keepsR_error
  · refine ite_ind ?_ ?_
    · exact keepsR_error
    · refine keepsR_ok ?_
      refine State.wr_keeps _ _ _ ?_
      refine keeps_mk ?_ rfl rfl rfl rfl rfl rfl rfl
      with_reducible assumption

theorem State.jobSubmit_keeps {s0 : State} {s : State} (record : List Byte) (h : Keeps s0 s) :
    KeepsR s0 (State.jobSubmit s record) := by
  unfold State.jobSubmit
  extract_lets +onlyGivenNames x48
  clear_value x48
  extract_lets +onlyGivenNames x49
  clear_value x49
  extract_lets +onlyGivenNames x51
  clear_value x51
  extract_lets +onlyGivenNames x52
  clear_value x52
  refine ite_ind ?_ ?_
  · exact keepsR_error
  · split
    · exact keepsR_error
    · refine ite_ind ?_ ?_
      · exact keepsR_error
      · refine ite_ind ?_ ?_
        · exact keepsR_error
        · refine keepsR_ok ?_
          refine keeps_mk ?_ rfl rfl rfl rfl rfl rfl rfl
          with_reducible assumption

theorem State.jobCancel_keeps {s0 : State} {s : State} (job : ℕ) (h : Keeps s0 s) :
    KeepsR s0 (State.jobCancel s job) := by
  unfold State.jobCancel
  refine ite_ind ?_ ?_
  · refine keepsR_ok ?_
    refine keeps_mk ?_ rfl rfl rfl rfl rfl rfl rfl
    with_reducible assumption
  · exact keepsR_error

theorem State.cancelJob_keeps {s0 : State} {s : State} (j : UserJob) (h : Keeps s0 s) :
    Keeps s0 (State.cancelJob s j) := by
  unfold State.cancelJob
  extract_lets +onlyGivenNames x55
  extract_lets +onlyGivenNames x56
  have h56 : Keeps s0 x56
  · unfold x56
    refine keeps_mk ?_ rfl rfl rfl rfl rfl rfl rfl
    with_reducible assumption
  clear_value x56
  extract_lets +onlyGivenNames x58
  have h58 : Keeps s0 x58
  · unfold x58
    refine keeps_foldl ?_ ?_
    · intro a59 a60 h61
      refine ite_ind ?_ ?_
      · refine State.clearTask_keeps _ ?_
        with_reducible assumption
      · with_reducible assumption
    · with_reducible assumption
  clear_value x58
  refine State.endJob_keeps _ _ ?_
  with_reducible assumption

theorem State.startRun_keeps {s0 : State} {s : State} (j : UserJob) (h : Keeps s0 s) :
    Keeps s0 (State.startRun s j) := by
  unfold State.startRun
  extract_lets +onlyGivenNames x57
  have h57 : Keeps s0 x57
  · unfold x57
    refine State.settle_keeps _ _ ?_
    with_reducible assumption
  clear_value x57
  extract_lets +onlyGivenNames x62
  clear_value x62
  extract_lets +onlyGivenNames x63
  clear_value x63
  extract_lets +onlyGivenNames x64
  clear_value x64
  extract_lets +onlyGivenNames x68
  have h68 : Keeps s0 x68
  · unfold x68
    refine keeps_mk ?_ rfl rfl rfl rfl rfl rfl rfl
    with_reducible assumption
  clear_value x68
  extract_lets +onlyGivenNames x69
  clear_value x69
  extract_lets +onlyGivenNames x70
  extract_lets +onlyGivenNames x71
  have h71 : Keeps s0 x71
  · unfold x71
    refine keeps_mk ?_ rfl rfl rfl rfl rfl rfl rfl
    with_reducible assumption
  clear_value x71
  refine keeps_foldl ?_ ?_
  · intro a75 a76 h77
    refine ite_ind ?_ ?_
    · with_reducible assumption
    · refine State.startNext_keeps _ ?_
      with_reducible assumption
  · with_reducible assumption

theorem State.dispatchJobs_keeps {s0 : State} {s : State} (h : Keeps s0 s) :
    Keeps s0 (State.dispatchJobs s) := by
  unfold State.dispatchJobs
  refine keeps_foldl ?_ ?_
  · intro a65 a66 h67
    refine ite_ind ?_ ?_
    · refine State.cancelJob_keeps _ ?_
      with_reducible assumption
    · refine ite_ind ?_ ?_
      · refine State.needDomain_keeps _ ?_
        with_reducible assumption
      · refine State.startRun_keeps _ ?_
        with_reducible assumption
  · with_reducible assumption

theorem State.masonLoad_keeps {s0 : State} {s : State} (h : Keeps s0 s) :
    Keeps s0 (State.masonLoad s) := by
  unfold State.masonLoad
  refine State.wr_keeps _ _ _ ?_
  refine keeps_mk ?_ rfl rfl rfl rfl rfl rfl rfl
  with_reducible assumption

theorem State.masonsReset_keeps {s0 : State} {s : State} (h : Keeps s0 s) :
    Keeps s0 (State.masonsReset s) := by
  unfold State.masonsReset
  refine keeps_foldl ?_ ?_
  · intro a72 a73 h74
    refine State.setCore_keeps _ _ ?_
    refine State.taskFails_keeps _ _ ?_
    with_reducible assumption
  · refine keeps_mk ?_ rfl rfl rfl rfl rfl rfl rfl
    with_reducible assumption

end Sys2Proof.Machine
end

