-- ==== Sys2Proof/Laws/KeepsTimeBase.lean ====
section
/-! SUPPORT. Every operation of Machine/TimeBase.lean keeps the relation of Laws/Keeps.lean. -/
namespace Sys2Proof.Machine

theorem State.setTime_keeps {s0 : State} {s : State} (frame : ℕ) (at_ : ℤ) (h : Keeps s0 s) :
    Keeps s0 (State.setTime s frame at_) := by
  unfold State.setTime
  extract_lets +onlyGivenNames x0
  clear_value x0
  extract_lets +onlyGivenNames x0
  clear_value x0
  extract_lets +onlyGivenNames x0
  clear_value x0
  refine State.wrEpoch_keeps _ _ _ ?_
  refine keeps_mk ?_ rfl rfl rfl rfl rfl rfl rfl
  with_reducible assumption

theorem State.timeOffset_keeps {s0 : State} {s : State} (ps : ℤ) (h : Keeps s0 s) :
    Keeps s0 (State.timeOffset s ps) := by
  unfold State.timeOffset
  refine ite_ind ?_ ?_
  · with_reducible assumption
  · refine State.raise_keeps _ _ _ ?_
    refine keeps_mk ?_ rfl rfl rfl rfl rfl rfl rfl
    with_reducible assumption

theorem State.slew_keeps {s0 : State} {s : State} (phase : ℤ) (h : Keeps s0 s) :
    Keeps s0 (State.slew s phase) := by
  unfold State.slew
  refine keeps_mk ?_ rfl rfl rfl rfl rfl rfl rfl
  with_reducible assumption

theorem State.timeLocked_keeps {s0 : State} {s : State} (h : Keeps s0 s) :
    Keeps s0 (State.timeLocked s) := by
  unfold State.timeLocked
  refine State.wr_keeps _ _ _ ?_
  with_reducible assumption

theorem State.timeRef_keeps {s0 : State} {s : State} (named : Bool) (frame : ℕ) (start : ℤ) (h : Keeps s0 s) :
    Keeps s0 (State.timeRef s named frame start) := by
  unfold State.timeRef
  extract_lets +onlyGivenNames x1
  extract_lets +onlyGivenNames x1
  extract_lets +onlyGivenNames x0
  have h0 : Keeps s0 x0
  · unfold x0
    refine keeps_mk ?_ rfl rfl rfl rfl rfl rfl rfl
    with_reducible assumption
  extract_lets +onlyGivenNames x1
  refine ite_ind ?_ ?_
  · refine State.setTime_keeps _ _ ?_
    refine keeps_mk ?_ rfl rfl rfl rfl rfl rfl rfl
    with_reducible assumption
  · extract_lets +onlyGivenNames x6
    extract_lets +onlyGivenNames x7
    clear_value x7
    extract_lets +onlyGivenNames x8
    have h8 : Keeps s0 x8
    · unfold x8
      refine State.wrI_keeps _ _ _ _ ?_
      with_reducible assumption
    refine ite_ind ?_ ?_
    · refine ite_ind ?_ ?_
      · extract_lets +onlyGivenNames x9
        extract_lets +onlyGivenNames x10
        extract_lets +onlyGivenNames x11
        have h11 : Keeps s0 x11
        · unfold x11
          refine keeps_mk ?_ rfl rfl rfl rfl rfl rfl rfl
          with_reducible assumption
        clear_value x11
        refine ite_ind ?_ ?_
        · refine State.raise_keeps _ _ _ ?_
          refine State.timeLocked_keeps ?_
          with_reducible assumption
        · with_reducible assumption
      · refine State.setTime_keeps _ _ ?_
        refine keeps_mk ?_ rfl rfl rfl rfl rfl rfl rfl
        with_reducible assumption
    · refine ite_ind ?_ ?_
      · refine ite_ind ?_ ?_
        · extract_lets +onlyGivenNames x12
          have h12 : Keeps s0 x12
          · unfold x12
            refine State.slew_keeps _ ?_
            with_reducible assumption
          clear_value x12
          extract_lets +onlyGivenNames x13
          extract_lets +onlyGivenNames x14
          have h14 : Keeps s0 x14
          · unfold x14
            refine keeps_mk ?_ rfl rfl rfl rfl rfl rfl rfl
            with_reducible assumption
          clear_value x14
          refine ite_ind ?_ ?_
          · refine State.timeLocked_keeps ?_
            with_reducible assumption
          · with_reducible assumption
        · refine State.timeOffset_keeps _ ?_
          with_reducible assumption
      · with_reducible assumption

theorem State.syncPulse_keeps {s0 : State} {s : State} (width : ℕ) (h : Keeps s0 s) :
    Keeps s0 (State.syncPulse s width) := by
  unfold State.syncPulse
  extract_lets +onlyGivenNames x0
  clear_value x0
  refine ite_ind ?_ ?_
  · with_reducible assumption
  · refine ite_ind ?_ ?_
    · refine ite_ind ?_ ?_
      · extract_lets +onlyGivenNames x4
        clear_value x4
        extract_lets +onlyGivenNames x5
        clear_value x5
        refine State.timeRef_keeps _ _ _ ?_
        refine keeps_mk ?_ rfl rfl rfl rfl rfl rfl rfl
        with_reducible assumption
      · with_reducible assumption
    · extract_lets +onlyGivenNames x15
      clear_value x15
      extract_lets +onlyGivenNames x16
      clear_value x16
      extract_lets +onlyGivenNames x17
      extract_lets +onlyGivenNames x18
      have h18 : Keeps s0 x18
      · unfold x18
        refine keeps_mk ?_ rfl rfl rfl rfl rfl rfl rfl
        with_reducible assumption
      clear_value x18
      extract_lets +onlyGivenNames x19
      have h19 : Keeps s0 x19
      · unfold x19
        refine ite_ind ?_ ?_
        · refine ite_ind ?_ ?_
          · with_reducible assumption
          · refine State.raise_keeps _ _ _ ?_
            with_reducible assumption
        · with_reducible assumption
      clear_value x19
      refine State.timeRef_keeps _ _ _ ?_
      with_reducible assumption

theorem State.timeLost_keeps {s0 : State} {s : State} (h : Keeps s0 s) :
    Keeps s0 (State.timeLost s) := by
  unfold State.timeLost
  refine ite_ind ?_ ?_
  · refine State.raise_keeps _ _ _ ?_
    refine State.wr_keeps _ _ _ ?_
    with_reducible assumption
  · with_reducible assumption

theorem State.timeRealign_keeps {s0 : State} {s : State} (v : ℕ) (h : Keeps s0 s) :
    Keeps s0 (State.timeRealign s v) := by
  unfold State.timeRealign
  refine ite_ind ?_ ?_
  · refine keeps_mk ?_ rfl rfl rfl rfl rfl rfl rfl
    with_reducible assumption
  · with_reducible assumption

theorem State.realignStep_keeps {s0 : State} {s : State} (h : Keeps s0 s) :
    Keeps s0 (State.realignStep s) := by
  unfold State.realignStep
  refine ite_ind ?_ ?_
  · extract_lets +onlyGivenNames x2
    extract_lets +onlyGivenNames x3
    have h3 : Keeps s0 x3
    · unfold x3
      refine keeps_mk ?_ rfl rfl rfl rfl rfl rfl rfl
      with_reducible assumption
    clear_value x3
    refine State.wr_keeps _ _ _ ?_
    refine State.setTime_keeps _ _ ?_
    with_reducible assumption
  · with_reducible assumption

theorem State.sourceChanged_keeps {s0 : State} {s : State} (h : Keeps s0 s) :
    Keeps s0 (State.sourceChanged s) := by
  unfold State.sourceChanged
  refine State.wr_keeps _ _ _ ?_
  refine keeps_mk ?_ rfl rfl rfl rfl rfl rfl rfl
  with_reducible assumption

end Sys2Proof.Machine
end

