-- ==== Sys2Proof/Laws/KeepsPower.lean ====
section
/-! SUPPORT. Every operation of Machine/Power.lean keeps the relation of Laws/Keeps.lean. -/
namespace Sys2Proof.Machine

theorem State.recordWake_keeps {s0 : State} {s : State} (source : ℕ) (h : Keeps s0 s) :
    Keeps s0 (State.recordWake s source) := by
  unfold State.recordWake
  extract_lets +onlyGivenNames x0
  have h0 : Keeps s0 x0
  · unfold x0
    refine State.wrEpoch_keeps _ _ _ ?_
    refine State.wr_keeps _ _ _ ?_
    with_reducible assumption
  clear_value x0
  extract_lets +onlyGivenNames x0
  clear_value x0
  extract_lets +onlyGivenNames x1
  extract_lets +onlyGivenNames x2
  have h2 : Keeps s0 x2
  · unfold x2
    refine keeps_mk ?_ rfl rfl rfl rfl rfl rfl rfl
    with_reducible assumption
  clear_value x2
  refine keeps_foldl ?_ ?_
  · intro a1 a2 h3
    refine State.raise_keeps _ _ _ ?_
    with_reducible assumption
  · with_reducible assumption

theorem State.wakeFor_keeps {s0 : State} {s : State} (d : ℕ) (h : Keeps s0 s) :
    Keeps s0 (State.wakeFor s d) := by
  unfold State.wakeFor
  extract_lets +onlyGivenNames x1
  clear_value x1
  refine ite_ind ?_ ?_
  · extract_lets +onlyGivenNames x3
    have h3 : Keeps s0 x3
    · unfold x3
      refine State.bump_keeps _ _ ?_
      refine State.wr_keeps _ _ _ ?_
      with_reducible assumption
    clear_value x3
    refine keeps_mk ?_ rfl rfl rfl rfl rfl rfl rfl
    with_reducible assumption
  · with_reducible assumption

theorem State.beginSwitchOff_keeps {s0 : State} {s : State} (d : ℕ) (h : Keeps s0 s) :
    Keeps s0 (State.beginSwitchOff s d) := by
  unfold State.beginSwitchOff
  extract_lets +onlyGivenNames x0
  clear_value x0
  refine ite_ind ?_ ?_
  · extract_lets +onlyGivenNames x1
    extract_lets +onlyGivenNames x0
    have h0 : Keeps s0 x0
    · unfold x0
      refine keeps_mk ?_ rfl rfl rfl rfl rfl rfl rfl
      with_reducible assumption
    clear_value x0
    extract_lets +onlyGivenNames x0
    have h0 : Keeps s0 x0
    · unfold x0
      refine State.wr_keeps _ _ _ ?_
      with_reducible assumption
    clear_value x0
    extract_lets +onlyGivenNames x3
    have h3 : Keeps s0 x3
    · unfold x3
      refine ite_ind ?_ ?_
      · refine State.portToOff_keeps _ _ ?_
        with_reducible assumption
      · with_reducible assumption
    clear_value x3
    refine ite_ind ?_ ?_
    · refine State.courseOff_keeps _ ?_
      with_reducible assumption
    · with_reducible assumption
  · with_reducible assumption

theorem State.switchOffDone_keeps {s0 : State} {s : State} (d : ℕ) (h : Keeps s0 s) :
    Keeps s0 (State.switchOffDone s d) := by
  unfold State.switchOffDone
  refine ite_ind ?_ ?_
  · refine State.switchOff_keeps _ ?_
    with_reducible assumption
  · with_reducible assumption

theorem State.domainSignals_keeps {s0 : State} {s : State} (d : ℕ) (good : Bool) (osc : Bool) (init : Bool) (h : Keeps s0 s) :
    Keeps s0 (State.domainSignals s d good osc init).2 := by
  unfold State.domainSignals
  split
  · with_reducible assumption
  · extract_lets +onlyGivenNames x0
    extract_lets +onlyGivenNames x0
    split
    · extract_lets +onlyGivenNames x1
      extract_lets +onlyGivenNames x3
      have h3 : Keeps s0 x3
      · unfold x3
        refine keeps_mk ?_ rfl rfl rfl rfl rfl rfl rfl
        with_reducible assumption
      clear_value x3
      extract_lets +onlyGivenNames x1
      have h1 : Keeps s0 x1
      · unfold x1
        refine State.wr_keeps _ _ _ ?_
        with_reducible assumption
      clear_value x1
      extract_lets +onlyGivenNames x0
      have h0 : Keeps s0 x0
      · unfold x0
        refine ite_ind ?_ ?_
        · refine State.portStart_keeps _ ?_
          with_reducible assumption
        · with_reducible assumption
      clear_value x0
      dsimp -zeta only
      refine ite_ind ?_ ?_
      · refine State.ownLo_keeps _ ?_
        with_reducible assumption
      · with_reducible assumption
    · dsimp -zeta only
      refine keeps_mk ?_ rfl rfl rfl rfl rfl rfl rfl
      with_reducible assumption

theorem State.wakeForMode_keeps {s0 : State} {s : State} (m : ℕ) (h : Keeps s0 s) :
    Keeps s0 (State.wakeForMode s m) := by
  unfold State.wakeForMode
  refine keeps_foldl ?_ ?_
  · intro a0 a1 h2
    refine ite_ind ?_ ?_
    · refine State.wakeFor_keeps _ ?_
      with_reducible assumption
    · with_reducible assumption
  · with_reducible assumption

theorem State.sleepForMode_keeps {s0 : State} {s : State} (m : ℕ) (h : Keeps s0 s) :
    Keeps s0 (State.sleepForMode s m) := by
  unfold State.sleepForMode
  refine keeps_foldl ?_ ?_
  · intro a0 a1 h2
    refine ite_ind ?_ ?_
    · with_reducible assumption
    · refine ite_ind ?_ ?_
      · refine keeps_mk ?_ rfl rfl rfl rfl rfl rfl rfl
        with_reducible assumption
      · refine State.beginSwitchOff_keeps _ ?_
        with_reducible assumption
  · with_reducible assumption

theorem State.setWindow_keeps {s0 : State} {s : State} (c : ℕ) (w : IdleWindow) (h : Keeps s0 s) :
    Keeps s0 (State.setWindow s c w) := by
  unfold State.setWindow
  refine keeps_mk ?_ rfl rfl rfl rfl rfl rfl rfl
  with_reducible assumption

theorem State.govWindow_keeps {s0 : State} {s : State} (c : ℕ) (h : Keeps s0 s) :
    Keeps s0 (State.govWindow s c) := by
  unfold State.govWindow
  refine ite_ind ?_ ?_
  · extract_lets +onlyGivenNames x0
    clear_value x0
    extract_lets +onlyGivenNames x3
    clear_value x3
    extract_lets +onlyGivenNames x0
    extract_lets +onlyGivenNames x1
    have h1 : Keeps s0 x1
    · unfold x1
      refine keeps_mk ?_ rfl rfl rfl rfl rfl rfl rfl
      with_reducible assumption
    clear_value x1
    extract_lets +onlyGivenNames x0
    have h0 : Keeps s0 x0
    · unfold x0
      refine State.loopAt_keeps _ _ _ ?_
      with_reducible assumption
    clear_value x0
    extract_lets +onlyGivenNames x2
    have h2 : Keeps s0 x2
    · unfold x2
      refine State.wr_keeps _ _ _ ?_
      refine State.setWindow_keeps _ _ ?_
      with_reducible assumption
    clear_value x2
    extract_lets +onlyGivenNames x0
    have h0 : Keeps s0 x0
    · unfold x0
      refine ite_ind ?_ ?_
      · refine State.beginSwitchOff_keeps _ ?_
        with_reducible assumption
      · with_reducible assumption
    clear_value x0
    refine ite_ind ?_ ?_
    · refine State.beginSwitchOff_keeps _ ?_
      refine State.beginSwitchOff_keeps _ ?_
      refine State.wr_keeps _ _ _ ?_
      with_reducible assumption
    · with_reducible assumption
  · with_reducible assumption

theorem State.endWindow_keeps {s0 : State} {s : State} (c : ℕ) (h : Keeps s0 s) :
    Keeps s0 (State.endWindow s c) := by
  unfold State.endWindow
  refine State.wr_keeps _ _ _ ?_
  refine keeps_mk ?_ rfl rfl rfl rfl rfl rfl rfl
  with_reducible assumption

theorem State.wakeCourse_keeps {s0 : State} {s : State} (c : ℕ) (source : ℕ) (h : Keeps s0 s) :
    Keeps s0 (State.wakeCourse s c source) := by
  unfold State.wakeCourse
  split
  · refine ite_ind ?_ ?_
    · with_reducible assumption
    · extract_lets +onlyGivenNames x0
      have h0 : Keeps s0 x0
      · unfold x0
        refine State.recordWake_keeps _ ?_
        refine State.setWindow_keeps _ _ ?_
        with_reducible assumption
      clear_value x0
      refine ite_ind ?_ ?_
      · refine State.wakeFor_keeps _ ?_
        with_reducible assumption
      · with_reducible assumption
  · with_reducible assumption

theorem State.wakeDevice_keeps {s0 : State} {s : State} (source : ℕ) (h : Keeps s0 s) :
    Keeps s0 (State.wakeDevice s source) := by
  unfold State.wakeDevice
  refine ite_ind ?_ ?_
  · refine State.wakeFor_keeps _ ?_
    refine State.wakeFor_keeps _ ?_
    refine State.recordWake_keeps _ ?_
    refine State.wr_keeps _ _ _ ?_
    with_reducible assumption
  · with_reducible assumption

theorem State.govLate_keeps {s0 : State} {s : State} (c : ℕ) (h : Keeps s0 s) :
    Keeps s0 (State.govLate s c) := by
  unfold State.govLate
  split
  · split
    · extract_lets +onlyGivenNames x2
      clear_value x2
      extract_lets +onlyGivenNames x6
      clear_value x6
      extract_lets +onlyGivenNames x0
      clear_value x0
      refine ite_ind ?_ ?_
      · with_reducible assumption
      · extract_lets +onlyGivenNames x0
        have h0 : Keeps s0 x0
        · unfold x0
          refine State.setWindow_keeps _ _ ?_
          with_reducible assumption
        clear_value x0
        refine State.raise_keeps _ _ _ ?_
        refine State.addCount_keeps _ _ _ ?_
        with_reducible assumption
    · with_reducible assumption
  · with_reducible assumption

theorem State.govDemand_keeps {s0 : State} {s : State} (h : Keeps s0 s) :
    Keeps s0 (State.govDemand s) := by
  unfold State.govDemand
  refine keeps_foldl ?_ ?_
  · intro a0 a1 h2
    split
    · extract_lets +onlyGivenNames x0
      clear_value x0
      extract_lets +onlyGivenNames x0
      clear_value x0
      refine ite_ind ?_ ?_
      · extract_lets +onlyGivenNames x3
        have h3 : Keeps s0 x3
        · unfold x3
          refine State.govLate_keeps _ ?_
          refine State.setWindow_keeps _ _ ?_
          with_reducible assumption
        clear_value x3
        split
        · refine ite_ind ?_ ?_
          · refine State.wakeCourse_keeps _ _ ?_
            with_reducible assumption
          · with_reducible assumption
        · with_reducible assumption
      · refine State.setWindow_keeps _ _ ?_
        with_reducible assumption
    · with_reducible assumption
  · with_reducible assumption

theorem State.plannedWake_keeps {s0 : State} {s : State} (c : ℕ) (h : Keeps s0 s) :
    Keeps s0 (State.plannedWake s c) := by
  unfold State.plannedWake
  split
  · split
    · extract_lets +onlyGivenNames x1
      have h1 : Keeps s0 x1
      · unfold x1
        refine ite_ind ?_ ?_
        · refine State.wakeDevice_keeps _ ?_
          with_reducible assumption
        · with_reducible assumption
      clear_value x1
      refine ite_ind ?_ ?_
      · refine State.govLate_keeps _ ?_
        refine State.wakeCourse_keeps _ _ ?_
        with_reducible assumption
      · with_reducible assumption
    · with_reducible assumption
  · with_reducible assumption

theorem State.edgeWake_keeps {s0 : State} {s : State} (source : ℕ) (h : Keeps s0 s) :
    Keeps s0 (State.edgeWake s source) := by
  unfold State.edgeWake
  refine ite_ind ?_ ?_
  · extract_lets +onlyGivenNames x0
    have h0 : Keeps s0 x0
    · unfold x0
      refine State.bump_keeps _ _ ?_
      with_reducible assumption
    clear_value x0
    refine keeps_mk ?_ rfl rfl rfl rfl rfl rfl rfl
    with_reducible assumption
  · refine keeps_foldl ?_ ?_
    · intro a7 a8 h9
      refine State.wakeCourse_keeps _ _ ?_
      with_reducible assumption
    · refine State.wakeDevice_keeps _ ?_
      with_reducible assumption

theorem State.govFrozen_keeps {s0 : State} {s : State} (h : Keeps s0 s) :
    Keeps s0 (State.govFrozen s) := by
  unfold State.govFrozen
  refine ite_ind ?_ ?_
  · refine keeps_foldl ?_ ?_
    · intro a4 a5 h6
      refine State.wakeCourse_keeps _ _ ?_
      with_reducible assumption
    · with_reducible assumption
  · with_reducible assumption

theorem State.courseStart_keeps {s0 : State} {s : State} (c : ℕ) (h : Keeps s0 s) :
    Keeps s0 (State.courseStart s c) := by
  unfold State.courseStart
  extract_lets +onlyGivenNames x1
  clear_value x1
  refine ite_ind ?_ ?_
  · extract_lets +onlyGivenNames x10
    clear_value x10
    refine ite_ind ?_ ?_
    · refine State.startTransition_keeps _ _ ?_
      with_reducible assumption
    · with_reducible assumption
  · refine ite_ind ?_ ?_
    · extract_lets +onlyGivenNames x11
      have h11 : Keeps s0 x11
      · unfold x11
        refine State.courseTransitionStart_keeps _ ?_
        with_reducible assumption
      clear_value x11
      refine ite_ind ?_ ?_
      · refine State.endWindow_keeps _ ?_
        with_reducible assumption
      · with_reducible assumption
    · with_reducible assumption

theorem State.courseDone_keeps {s0 : State} {s : State} (c : ℕ) (h : Keeps s0 s) :
    Keeps s0 (State.courseDone s c) := by
  unfold State.courseDone
  extract_lets +onlyGivenNames x2
  clear_value x2
  extract_lets +onlyGivenNames x3
  have h3 : Keeps s0 x3
  · unfold x3
    refine State.courseTransitionDone_keeps _ ?_
    with_reducible assumption
  clear_value x3
  refine ite_ind ?_ ?_
  · refine ite_ind ?_ ?_
    · refine State.endWindow_keeps _ ?_
      with_reducible assumption
    · refine State.govWindow_keeps _ ?_
      with_reducible assumption
  · with_reducible assumption

theorem State.beginTransition_keeps {s0 : State} {s : State} (t : Transition) (h : Keeps s0 s) :
    Keeps s0 (State.beginTransition s t) := by
  unfold State.beginTransition
  split
  · extract_lets +onlyGivenNames x12
    clear_value x12
    extract_lets +onlyGivenNames x13
    extract_lets +onlyGivenNames x14
    have h14 : Keeps s0 x14
    · unfold x14
      refine keeps_mk ?_ rfl rfl rfl rfl rfl rfl rfl
      with_reducible assumption
    clear_value x14
    refine ite_ind ?_ ?_
    · refine State.speFollow_keeps ?_
      refine State.wakeForMode_keeps _ ?_
      with_reducible assumption
    · with_reducible assumption
  · extract_lets +onlyGivenNames x18
    extract_lets +onlyGivenNames x19
    have h19 : Keeps s0 x19
    · unfold x19
      refine keeps_mk ?_ rfl rfl rfl rfl rfl rfl rfl
      with_reducible assumption
    refine ite_ind ?_ ?_
    · refine ite_ind ?_ ?_
      · refine State.wakeFor_keeps _ ?_
        with_reducible assumption
      · with_reducible assumption
    · with_reducible assumption

theorem State.startPending_keeps {s0 : State} {s : State} (failed : Bool) (h : Keeps s0 s) :
    Keeps s0 (State.startPending s failed) := by
  unfold State.startPending
  split
  · extract_lets +onlyGivenNames x23
    extract_lets +onlyGivenNames x24
    have h24 : Keeps s0 x24
    · unfold x24
      refine keeps_mk ?_ rfl rfl rfl rfl rfl rfl rfl
      with_reducible assumption
    clear_value x24
    split
    · extract_lets +onlyGivenNames x25
      clear_value x25
      refine ite_ind ?_ ?_
      · refine State.failTarget_keeps _ _ ?_
        with_reducible assumption
      · refine ite_ind ?_ ?_
        · with_reducible assumption
        · refine ite_ind ?_ ?_
          · refine State.beginTransition_keeps _ ?_
            with_reducible assumption
          · refine ite_ind ?_ ?_
            · refine State.beginTransition_keeps _ ?_
              with_reducible assumption
            · refine State.failTarget_keeps _ _ ?_
              with_reducible assumption
    · refine State.beginTransition_keeps _ ?_
      with_reducible assumption
  · with_reducible assumption

theorem State.holdPending_keeps {s0 : State} {s : State} (t : Transition) (h : Keeps s0 s) :
    Keeps s0 (State.holdPending s t) := by
  unfold State.holdPending
  extract_lets +onlyGivenNames x15
  have h15 : Keeps s0 x15
  · unfold x15
    split
    · refine State.failTarget_keeps _ _ ?_
      with_reducible assumption
    · with_reducible assumption
  clear_value x15
  refine keeps_mk ?_ rfl rfl rfl rfl rfl rfl rfl
  with_reducible assumption

theorem State.modeRequest_keeps {s0 : State} {s : State} (v : ℕ) (array : Bool) (h : Keeps s0 s) :
    KeepsR s0 (State.modeRequest s v array) := by
  unfold State.modeRequest
  extract_lets +onlyGivenNames x16
  clear_value x16
  extract_lets +onlyGivenNames x17
  clear_value x17
  extract_lets +onlyGivenNames x20
  clear_value x20
  extract_lets +onlyGivenNames x22
  clear_value x22
  refine ite_ind ?_ ?_
  · exact keepsR_error
  · refine ite_ind ?_ ?_
    · refine keepsR_ok ?_
      with_reducible assumption
    · refine ite_ind ?_ ?_
      · exact keepsR_error
      · refine ite_ind ?_ ?_
        · exact keepsR_error
        · extract_lets +onlyGivenNames x26
          clear_value x26
          refine ite_ind ?_ ?_
          · refine keepsR_ok ?_
            refine State.holdPending_keeps _ ?_
            with_reducible assumption
          · extract_lets +onlyGivenNames x27
            clear_value x27
            refine ite_ind ?_ ?_
            · refine keepsR_ok ?_
              refine State.beginTransition_keeps _ ?_
              with_reducible assumption
            · refine ite_ind ?_ ?_
              · refine keepsR_ok ?_
                refine State.beginTransition_keeps _ ?_
                with_reducible assumption
              · exact keepsR_error

theorem State.safeHoldRequest_keeps {s0 : State} {s : State} (h : Keeps s0 s) :
    Keeps s0 (State.safeHoldRequest s) := by
  unfold State.safeHoldRequest
  extract_lets +onlyGivenNames x21
  have h21 : Keeps s0 x21
  · unfold x21
    refine ite_ind ?_ ?_
    · refine State.wakeForMode_keeps _ ?_
      with_reducible assumption
    · with_reducible assumption
  clear_value x21
  refine ite_ind ?_ ?_
  · refine State.causeCleared_keeps _ ?_
    refine State.causeActive_keeps _ ?_
    with_reducible assumption
  · refine State.causeActive_keeps _ ?_
    with_reducible assumption

theorem State.preparationComplete_keeps {s0 : State} {s : State} (h : Keeps s0 s) :
    Keeps s0 (State.preparationComplete s) := by
  unfold State.preparationComplete
  split
  · split
    · extract_lets +onlyGivenNames x28
      clear_value x28
      extract_lets +onlyGivenNames x29
      clear_value x29
      extract_lets +onlyGivenNames x30
      clear_value x30
      refine ite_ind ?_ ?_
      · refine keeps_mk ?_ rfl rfl rfl rfl rfl rfl rfl
        with_reducible assumption
      · with_reducible assumption
    · with_reducible assumption
  · with_reducible assumption

theorem State.dormantWake_keeps {s0 : State} {s : State} (h : Keeps s0 s) :
    Keeps s0 (State.dormantWake s) := by
  unfold State.dormantWake
  refine ite_ind ?_ ?_
  · refine State.wakeForMode_keeps _ ?_
    refine keeps_mk ?_ rfl rfl rfl rfl rfl rfl rfl
    with_reducible assumption
  · with_reducible assumption

theorem State.wakePin_keeps {s0 : State} {s : State} (h : Keeps s0 s) :
    Keeps s0 (State.wakePin s) := by
  unfold State.wakePin
  refine ite_ind ?_ ?_
  · refine State.dormantWake_keeps ?_
    with_reducible assumption
  · split
    · refine ite_ind ?_ ?_
      · refine State.startPending_keeps _ ?_
        refine State.speFollow_keeps ?_
        refine State.failTarget_keeps _ _ ?_
        refine keeps_mk ?_ rfl rfl rfl rfl rfl rfl rfl
        with_reducible assumption
      · refine keeps_mk ?_ rfl rfl rfl rfl rfl rfl rfl
        with_reducible assumption
    · with_reducible assumption

theorem State.followMode_keeps {s0 : State} {s : State} (old : ℕ) (m : ℕ) (h : Keeps s0 s) :
    Keeps s0 (State.followMode s old m) := by
  unfold State.followMode
  extract_lets +onlyGivenNames x31
  have h31 : Keeps s0 x31
  · unfold x31
    refine ite_ind ?_ ?_
    · refine State.strobeCommitGroups_keeps ?_
      refine State.clearEnds_keeps _ ?_
      with_reducible assumption
    · with_reducible assumption
  clear_value x31
  extract_lets +onlyGivenNames x33
  have h33 : Keeps s0 x33
  · unfold x33
    refine ite_ind ?_ ?_
    · refine State.trainFails_keeps _ ?_
      refine State.calFails_keeps _ ?_
      with_reducible assumption
    · with_reducible assumption
  clear_value x33
  extract_lets +onlyGivenNames x36
  clear_value x36
  extract_lets +onlyGivenNames x37
  have h37 : Keeps s0 x37
  · unfold x37
    refine ite_ind ?_ ?_
    · with_reducible assumption
    · refine State.calStepEnds_keeps ?_
      with_reducible assumption
  clear_value x37
  extract_lets +onlyGivenNames x42
  have h42 : Keeps s0 x42
  · unfold x42
    refine ite_ind ?_ ?_
    · refine keeps_foldl ?_ ?_
      · intro a43 a44 h45
        refine State.endWindow_keeps _ ?_
        refine State.courseOff_keeps _ ?_
        with_reducible assumption
      · with_reducible assumption
    · with_reducible assumption
  clear_value x42
  extract_lets +onlyGivenNames x47
  have h47 : Keeps s0 x47
  · unfold x47
    refine ite_ind ?_ ?_
    · refine keeps_foldl ?_ ?_
      · intro a53 a54 h55
        refine State.endWindow_keeps _ ?_
        with_reducible assumption
      · with_reducible assumption
    · with_reducible assumption
  clear_value x47
  extract_lets +onlyGivenNames x57
  have h57 : Keeps s0 x57
  · unfold x57
    refine State.sleepForMode_keeps _ ?_
    refine State.wakeForMode_keeps _ ?_
    with_reducible assumption
  clear_value x57
  extract_lets +onlyGivenNames x58
  have h58 : Keeps s0 x58
  · unfold x58
    refine ite_ind ?_ ?_
    · refine keeps_foldl ?_ ?_
      · intro a61 a62 h63
        refine State.startCycle_keeps _ ?_
        with_reducible assumption
      · with_reducible assumption
    · with_reducible assumption
  clear_value x58
  extract_lets +onlyGivenNames x68
  extract_lets +onlyGivenNames x69
  have h69 : Keeps s0 x69
  · unfold x69
    refine ite_ind ?_ ?_
    · refine keeps_mk ?_ rfl rfl rfl rfl rfl rfl rfl
      with_reducible assumption
    · with_reducible assumption
  clear_value x69
  extract_lets +onlyGivenNames x71
  clear_value x71
  extract_lets +onlyGivenNames x72
  extract_lets +onlyGivenNames x73
  have h73 : Keeps s0 x73
  · unfold x73
    refine keeps_mk ?_ rfl rfl rfl rfl rfl rfl rfl
    with_reducible assumption
  clear_value x73
  extract_lets +onlyGivenNames x75
  extract_lets +onlyGivenNames x77
  have h77 : Keeps s0 x77
  · unfold x77
    refine ite_ind ?_ ?_
    · refine keeps_mk ?_ rfl rfl rfl rfl rfl rfl rfl
      with_reducible assumption
    · with_reducible assumption
  clear_value x77
  extract_lets +onlyGivenNames x80
  have h80 : Keeps s0 x80
  · unfold x80
    refine ite_ind ?_ ?_
    · refine State.dormantWake_keeps ?_
      with_reducible assumption
    · with_reducible assumption
  clear_value x80
  refine State.speFollow_keeps ?_
  with_reducible assumption

theorem State.enterMode_keeps {s0 : State} {s : State} (m : ℕ) (asap : Bool) (h : Keeps s0 s) :
    Keeps s0 (State.enterMode s m asap) := by
  unfold State.enterMode
  extract_lets +onlyGivenNames x32
  clear_value x32
  extract_lets +onlyGivenNames x34
  have h34 : Keeps s0 x34
  · unfold x34
    refine State.wrEpoch_keeps _ _ _ ?_
    refine State.wr_keeps _ _ _ ?_
    with_reducible assumption
  clear_value x34
  extract_lets +onlyGivenNames x35
  have h35 : Keeps s0 x35
  · unfold x35
    refine State.raise_keeps _ _ _ ?_
    with_reducible assumption
  clear_value x35
  refine State.followMode_keeps _ _ ?_
  with_reducible assumption

theorem State.modeAtTick_keeps {s0 : State} {s : State} (h : Keeps s0 s) :
    Keeps s0 (State.modeAtTick s) := by
  unfold State.modeAtTick
  split
  · split
    · refine ite_ind ?_ ?_
      · with_reducible assumption
      · refine ite_ind ?_ ?_
        · extract_lets +onlyGivenNames x38
          extract_lets +onlyGivenNames x40
          have h40 : Keeps s0 x40
          · unfold x40
            refine keeps_mk ?_ rfl rfl rfl rfl rfl rfl rfl
            with_reducible assumption
          clear_value x40
          refine State.startPending_keeps _ ?_
          refine State.enterMode_keeps _ _ ?_
          with_reducible assumption
        · refine ite_ind ?_ ?_
          · refine State.raise_keeps _ _ _ ?_
            refine State.bump_keeps _ _ ?_
            with_reducible assumption
          · with_reducible assumption
    · with_reducible assumption
  · with_reducible assumption

theorem State.modeDone_keeps {s0 : State} {s : State} (h : Keeps s0 s) :
    Keeps s0 (State.modeDone s) := by
  unfold State.modeDone
  split
  · refine ite_ind ?_ ?_
    · refine State.modeAtTick_keeps ?_
      with_reducible assumption
    · with_reducible assumption
  · with_reducible assumption

theorem State.enterSafeHold_keeps {s0 : State} {s : State} (h : Keeps s0 s) :
    Keeps s0 (State.enterSafeHold s) := by
  unfold State.enterSafeHold
  refine ite_ind ?_ ?_
  · extract_lets +onlyGivenNames x39
    extract_lets +onlyGivenNames x41
    have h41 : Keeps s0 x41
    · unfold x41
      refine keeps_mk ?_ rfl rfl rfl rfl rfl rfl rfl
      with_reducible assumption
    refine ite_ind ?_ ?_
    · with_reducible assumption
    · extract_lets +onlyGivenNames x46
      have h46 : Keeps s0 x46
      · unfold x46
        refine State.wrEpoch_keeps _ _ _ ?_
        refine State.enterMode_keeps _ _ ?_
        with_reducible assumption
      clear_value x46
      extract_lets +onlyGivenNames x104
      have h104 : Keeps s0 x104
      · unfold x104
        refine State.trainFails_keeps _ ?_
        refine State.calFails_keeps _ ?_
        refine State.clearBegins_keeps _ ?_
        with_reducible assumption
      clear_value x104
      extract_lets +onlyGivenNames x105
      have h105 : Keeps s0 x105
      · unfold x105
        refine keeps_foldl ?_ ?_
        · intro a106 a107 h108
          refine State.setPath_keeps _ _ ?_
          with_reducible assumption
        · with_reducible assumption
      clear_value x105
      refine State.causeCleared_keeps _ ?_
      with_reducible assumption
  · with_reducible assumption

theorem State.nextSafeStep_keeps {s0 : State} {s : State} (h : Keeps s0 s) :
    Keeps s0 (State.nextSafeStep s) := by
  unfold State.nextSafeStep
  split
  · refine State.speFollow_keeps ?_
    refine State.failTarget_keeps _ _ ?_
    refine keeps_mk ?_ rfl rfl rfl rfl rfl rfl rfl
    with_reducible assumption
  · with_reducible assumption

theorem State.transitionFails_keeps {s0 : State} {s : State} (d : ℕ) (h : Keeps s0 s) :
    Keeps s0 (State.transitionFails s d) := by
  unfold State.transitionFails
  split
  · extract_lets +onlyGivenNames x49
    clear_value x49
    refine ite_ind ?_ ?_
    · extract_lets +onlyGivenNames x50
      extract_lets +onlyGivenNames x52
      have h52 : Keeps s0 x52
      · unfold x52
        refine keeps_mk ?_ rfl rfl rfl rfl rfl rfl rfl
        with_reducible assumption
      clear_value x52
      refine State.startPending_keeps _ ?_
      refine State.speFollow_keeps ?_
      refine State.failTarget_keeps _ _ ?_
      with_reducible assumption
    · with_reducible assumption
  · with_reducible assumption

theorem State.wakeFails_keeps {s0 : State} {s : State} (d : ℕ) (reason : ℕ) (h : Keeps s0 s) :
    Keeps s0 (State.wakeFails s d reason) := by
  unfold State.wakeFails
  extract_lets +onlyGivenNames x48
  have h48 : Keeps s0 x48
  · unfold x48
    refine State.wr_keeps _ _ _ ?_
    refine State.switchOff_keeps _ ?_
    with_reducible assumption
  clear_value x48
  extract_lets +onlyGivenNames x51
  have h51 : Keeps s0 x51
  · unfold x51
    refine State.raise_keeps _ _ _ ?_
    refine State.bump_keeps _ _ ?_
    with_reducible assumption
  clear_value x51
  extract_lets +onlyGivenNames x56
  have h56 : Keeps s0 x56
  · unfold x56
    refine State.transitionFails_keeps _ ?_
    with_reducible assumption
  clear_value x56
  refine ite_ind ?_ ?_
  · extract_lets +onlyGivenNames x59
    have h59 : Keeps s0 x59
    · unfold x59
      split
      · refine State.setWindow_keeps _ _ ?_
        with_reducible assumption
      · with_reducible assumption
    clear_value x59
    refine keeps_foldl ?_ ?_
    · intro a64 a65 h66
      refine State.detectFault_keeps _ _ ?_
      with_reducible assumption
    · with_reducible assumption
  · with_reducible assumption

theorem State.wakeTimeout_keeps {s0 : State} {s : State} (d : ℕ) (h : Keeps s0 s) :
    Keeps s0 (State.wakeTimeout s d) := by
  unfold State.wakeTimeout
  split
  · refine ite_ind ?_ ?_
    · refine ite_ind ?_ ?_
      · refine State.wakeFails_keeps _ _ ?_
        with_reducible assumption
      · refine ite_ind ?_ ?_
        · refine State.wakeFails_keeps _ _ ?_
          with_reducible assumption
        · with_reducible assumption
    · with_reducible assumption
  · with_reducible assumption

theorem State.archInitLimit_keeps {s0 : State} {s : State} (h : Keeps s0 s) :
    Keeps s0 (State.archInitLimit s) := by
  unfold State.archInitLimit
  split
  · refine ite_ind ?_ ?_
    · refine State.wakeFails_keeps _ _ ?_
      with_reducible assumption
    · with_reducible assumption
  · with_reducible assumption

theorem State.idleOff_keeps {s0 : State} {s : State} (d : ℕ) (h : Keeps s0 s) :
    Keeps s0 (State.idleOff s d) := by
  unfold State.idleOff
  refine ite_ind ?_ ?_
  · refine State.beginSwitchOff_keeps _ ?_
    with_reducible assumption
  · with_reducible assumption

theorem State.powerRequest_keeps {s0 : State} {s : State} (v : ℕ) (h : Keeps s0 s) :
    KeepsR s0 (State.powerRequest s v) := by
  unfold State.powerRequest
  extract_lets +onlyGivenNames x60
  clear_value x60
  extract_lets +onlyGivenNames x67
  clear_value x67
  refine ite_ind ?_ ?_
  · exact keepsR_error
  · refine ite_ind ?_ ?_
    · exact keepsR_error
    · refine ite_ind ?_ ?_
      · exact keepsR_error
      · extract_lets +onlyGivenNames x70
        clear_value x70
        refine ite_ind ?_ ?_
        · refine keepsR_ok ?_
          with_reducible assumption
        · extract_lets +onlyGivenNames x74
          clear_value x74
          refine ite_ind ?_ ?_
          · refine keepsR_ok ?_
            refine State.holdPending_keeps _ ?_
            with_reducible assumption
          · refine keepsR_ok ?_
            refine State.beginTransition_keeps _ ?_
            with_reducible assumption

theorem State.powerAtSlot_keeps {s0 : State} {s : State} (h : Keeps s0 s) :
    Keeps s0 (State.powerAtSlot s) := by
  unfold State.powerAtSlot
  split
  · split
    · extract_lets +onlyGivenNames x76
      clear_value x76
      refine ite_ind ?_ ?_
      · extract_lets +onlyGivenNames x78
        extract_lets +onlyGivenNames x79
        have h79 : Keeps s0 x79
        · unfold x79
          refine keeps_mk ?_ rfl rfl rfl rfl rfl rfl rfl
          with_reducible assumption
        clear_value x79
        extract_lets +onlyGivenNames x83
        have h83 : Keeps s0 x83
        · unfold x83
          refine State.wr_keeps _ _ _ ?_
          with_reducible assumption
        clear_value x83
        extract_lets +onlyGivenNames x86
        have h86 : Keeps s0 x86
        · unfold x86
          refine ite_ind ?_ ?_
          · refine State.wr_keeps _ _ _ ?_
            refine State.beginSwitchOff_keeps _ ?_
            refine State.courseOff_keeps _ ?_
            with_reducible assumption
          · refine State.endWindow_keeps _ ?_
            with_reducible assumption
        clear_value x86
        refine State.startPending_keeps _ ?_
        refine State.raise_keeps _ _ _ ?_
        with_reducible assumption
      · refine ite_ind ?_ ?_
        · refine State.wakeFor_keeps _ ?_
          with_reducible assumption
        · with_reducible assumption
    · with_reducible assumption
  · with_reducible assumption

theorem State.dormantRequest_keeps {s0 : State} {s : State} (h : Keeps s0 s) :
    Keeps s0 (State.dormantRequest s) := by
  unfold State.dormantRequest
  refine ite_ind ?_ ?_
  · refine State.beginTransition_keeps _ ?_
    with_reducible assumption
  · with_reducible assumption

theorem State.setClock_keeps {s0 : State} {s : State} (v : ℕ) (h : Keeps s0 s) :
    Keeps s0 (State.setClock s v) := by
  unfold State.setClock
  refine State.raise_keeps _ _ _ ?_
  refine State.wr_keeps _ _ _ ?_
  with_reducible assumption

theorem State.dormantCheck_keeps {s0 : State} {s : State} (present : Bool) (h : Keeps s0 s) :
    Keeps s0 (State.dormantCheck s present) := by
  unfold State.dormantCheck
  split
  · refine ite_ind ?_ ?_
    · extract_lets +onlyGivenNames x81
      extract_lets +onlyGivenNames x82
      have h82 : Keeps s0 x82
      · unfold x82
        refine keeps_mk ?_ rfl rfl rfl rfl rfl rfl rfl
        with_reducible assumption
      extract_lets +onlyGivenNames x87
      have h87 : Keeps s0 x87
      · unfold x87
        refine ite_ind ?_ ?_
        · refine ite_ind ?_ ?_
          · refine State.setClock_keeps _ ?_
            with_reducible assumption
          · with_reducible assumption
        · refine State.portToOff_keeps _ _ ?_
          refine State.portToOff_keeps _ _ ?_
          refine State.setClock_keeps _ ?_
          with_reducible assumption
      clear_value x87
      extract_lets +onlyGivenNames x89
      clear_value x89
      extract_lets +onlyGivenNames x90
      extract_lets +onlyGivenNames x91
      have h91 : Keeps s0 x91
      · unfold x91
        refine State.wrEpoch_keeps _ _ _ ?_
        refine keeps_mk ?_ rfl rfl rfl rfl rfl rfl rfl
        with_reducible assumption
      clear_value x91
      refine State.recordWake_keeps _ ?_
      refine State.enterMode_keeps _ _ ?_
      refine State.sourceChanged_keeps ?_
      with_reducible assumption
    · with_reducible assumption
  · with_reducible assumption

theorem State.dropNorthRequests_keeps {s0 : State} {s : State} (h : Keeps s0 s) :
    Keeps s0 (State.dropNorthRequests s) := by
  unfold State.dropNorthRequests
  refine keeps_mk ?_ rfl rfl rfl rfl rfl rfl rfl
  with_reducible assumption

theorem State.holdArchive_keeps {s0 : State} {s : State} (b : Bool) (h : Keeps s0 s) :
    Keeps s0 (State.holdArchive s b) := by
  unfold State.holdArchive
  refine keeps_mk ?_ rfl rfl rfl rfl rfl rfl rfl
  with_reducible assumption

theorem State.dropForStandby_keeps {s0 : State} {s : State} (h : Keeps s0 s) :
    Keeps s0 (State.dropForStandby s) := by
  unfold State.dropForStandby
  extract_lets +onlyGivenNames x84
  extract_lets +onlyGivenNames x85
  have h85 : Keeps s0 x85
  · unfold x85
    refine State.nextSafeStep_keeps ?_
    refine State.abandonTransitions_keeps ?_
    refine keeps_mk ?_ rfl rfl rfl rfl rfl rfl rfl
    with_reducible assumption
  clear_value x85
  refine keeps_mk ?_ rfl rfl rfl rfl rfl rfl rfl
  with_reducible assumption

theorem State.refclkLoss_keeps {s0 : State} {s : State} (h : Keeps s0 s) :
    Keeps s0 (State.refclkLoss s) := by
  unfold State.refclkLoss
  refine ite_ind ?_ ?_
  · with_reducible assumption
  · extract_lets +onlyGivenNames x88
    have h88 : Keeps s0 x88
    · unfold x88
      refine State.dropNorthRequests_keeps ?_
      refine State.portToOff_keeps _ _ ?_
      refine State.portToOff_keeps _ _ ?_
      refine State.speOff_keeps ?_
      with_reducible assumption
    clear_value x88
    extract_lets +onlyGivenNames x92
    have h92 : Keeps s0 x92
    · unfold x92
      refine State.calStepEnds_keeps ?_
      refine State.trainFails_keeps _ ?_
      refine State.calFails_keeps _ ?_
      refine State.jobsReset_keeps _ ?_
      refine State.masonsReset_keeps ?_
      with_reducible assumption
    clear_value x92
    extract_lets +onlyGivenNames x93
    have h93 : Keeps s0 x93
    · unfold x93
      refine keeps_foldl ?_ ?_
      · intro a94 a95 h96
        refine State.beginSwitchOff_keeps _ ?_
        with_reducible assumption
      · with_reducible assumption
    clear_value x93
    extract_lets +onlyGivenNames x97
    have h97 : Keeps s0 x97
    · unfold x97
      refine keeps_foldl ?_ ?_
      · intro a98 a99 h100
        refine State.endWindow_keeps _ ?_
        with_reducible assumption
      · with_reducible assumption
    clear_value x97
    extract_lets +onlyGivenNames x101
    have h101 : Keeps s0 x101
    · unfold x101
      refine State.holdArchive_keeps _ ?_
      refine State.dropForStandby_keeps ?_
      with_reducible assumption
    clear_value x101
    extract_lets +onlyGivenNames x102
    have h102 : Keeps s0 x102
    · unfold x102
      refine ite_ind ?_ ?_
      · with_reducible assumption
      · refine State.wr_keeps _ _ _ ?_
        with_reducible assumption
    clear_value x102
    refine State.setClock_keeps _ ?_
    with_reducible assumption

theorem State.standbyAtTick_keeps {s0 : State} {s : State} (h : Keeps s0 s) :
    Keeps s0 (State.standbyAtTick s) := by
  unfold State.standbyAtTick
  refine ite_ind ?_ ?_
  · refine State.enterMode_keeps _ _ ?_
    refine keeps_mk ?_ rfl rfl rfl rfl rfl rfl rfl
    with_reducible assumption
  · with_reducible assumption

theorem State.clockReturn_keeps {s0 : State} {s : State} (h : Keeps s0 s) :
    Keeps s0 (State.clockReturn s) := by
  unfold State.clockReturn
  refine ite_ind ?_ ?_
  · extract_lets +onlyGivenNames x103
    have h103 : Keeps s0 x103
    · unfold x103
      refine State.setClock_keeps _ ?_
      refine State.holdArchive_keeps _ ?_
      with_reducible assumption
    clear_value x103
    refine State.portStart_keeps _ ?_
    refine State.portStart_keeps _ ?_
    with_reducible assumption
  · with_reducible assumption

end Sys2Proof.Machine
end

