-- ==== Sys2Proof/Laws/KeepsReset.lean ====
section
/-! SUPPORT. Every operation of Machine/Reset.lean keeps the relation of Laws/Keeps.lean. -/
namespace Sys2Proof.Machine

theorem State.noteReset_keeps {s0 : State} {s : State} (bit : ℕ) (h : Keeps s0 s) :
    Keeps s0 (State.noteReset s bit) := by
  unfold State.noteReset
  refine State.wr_keeps _ _ _ ?_
  with_reducible assumption

theorem State.resetCauseClear_keeps {s0 : State} {s : State} (v : ℕ) (h : Keeps s0 s) :
    Keeps s0 (State.resetCauseClear s v) := by
  unfold State.resetCauseClear
  refine ite_ind ?_ ?_
  · refine State.wr_keeps _ _ _ ?_
    with_reducible assumption
  · with_reducible assumption

theorem State.rebuilt_keeps {s0 s : State} (cold : Bool) (h : Keeps s0 s) : Keeps s0 (s.rebuilt cold) := by
  unfold State.rebuilt
  dsimp only
  have hl : s.Inv → (if cold then ([] : List FaultEntry) else s.ev.log).length ≤ 256 := by
    intro i
    cases cold
    · exact i.log
    · exact Nat.zero_le _
  refine ite_ind (keeps_foldl (fun t c ht => State.wr_keeps _ _ _ ht) ?_) ?_ <;>
  · refine keeps_foldl (fun t c ht => State.wr_keeps _ _ _ ht) ?_
    exact keeps_fields h rfl (fun i => ⟨Memory.wf_filter i.mem, Nat.zero_le _, hl i, Nat.zero_le _, Nat.zero_le _, List.Pairwise.nil,
      Nat.zero_le _, Nat.zero_le _⟩) (Fuses.Kept.refl _)

theorem State.noteReach_keeps {s0 : State} {s : State} (bit : ℕ) (h : Keeps s0 s) :
    Keeps s0 (State.noteReach s bit) := by
  unfold State.noteReach
  extract_lets +onlyGivenNames x0
  extract_lets +onlyGivenNames x0
  clear_value x0
  refine keeps_mk ?_ rfl rfl rfl rfl rfl rfl rfl
  with_reducible assumption

theorem State.abortLoad_keeps {s0 : State} {s : State} (h : Keeps s0 s) :
    Keeps s0 (State.abortLoad s) := by
  unfold State.abortLoad
  split
  · refine ite_ind ?_ ?_
    · with_reducible assumption
    · refine State.wr_keeps _ _ _ ?_
      refine keeps_mk ?_ rfl rfl rfl rfl rfl rfl rfl
      with_reducible assumption
  · with_reducible assumption

theorem State.assertSource_keeps {s0 : State} {s : State} (bit : ℕ) (h : Keeps s0 s) :
    Keeps s0 (State.assertSource s bit) := by
  unfold State.assertSource
  refine ite_ind ?_ ?_
  · with_reducible assumption
  · extract_lets +onlyGivenNames x0
    have h0 : Keeps s0 x0
    · unfold x0
      refine State.noteReach_keeps _ ?_
      refine State.noteReset_keeps _ ?_
      with_reducible assumption
    clear_value x0
    extract_lets +onlyGivenNames x0
    clear_value x0
    extract_lets +onlyGivenNames x0
    extract_lets +onlyGivenNames x3
    have h3 : Keeps s0 x3
    · unfold x3
      refine keeps_mk ?_ rfl rfl rfl rfl rfl rfl rfl
      with_reducible assumption
    clear_value x3
    extract_lets +onlyGivenNames x1
    extract_lets +onlyGivenNames x5
    have h5 : Keeps s0 x5
    · unfold x5
      refine ite_ind ?_ ?_
      · refine keeps_mk ?_ rfl rfl rfl rfl rfl rfl rfl
        with_reducible assumption
      · with_reducible assumption
    clear_value x5
    extract_lets +onlyGivenNames x1
    have h1 : Keeps s0 x1
    · unfold x1
      refine ite_ind ?_ ?_
      · refine State.wr_keeps _ _ _ ?_
        refine State.wr_keeps _ _ _ ?_
        with_reducible assumption
      · with_reducible assumption
    clear_value x1
    refine State.rebuilt_keeps _ ?_
    refine State.abortLoad_keeps ?_
    with_reducible assumption

theorem State.showKeys_keeps {s0 : State} {s : State} (h : Keeps s0 s) :
    Keeps s0 (State.showKeys s) := by
  unfold State.showKeys
  refine keeps_foldl ?_ ?_
  · intro a2 a3 h4
    refine State.wr_keeps _ _ _ ?_
    with_reducible assumption
  · with_reducible assumption

theorem State.showFuses_keeps {s0 : State} {s : State} (h : Keeps s0 s) :
    Keeps s0 (State.showFuses s) := by
  unfold State.showFuses
  extract_lets +onlyGivenNames x1
  have h1 : Keeps s0 x1
  · unfold x1
    refine State.wr_keeps _ _ _ ?_
    refine State.wr_keeps _ _ _ ?_
    with_reducible assumption
  clear_value x1
  extract_lets +onlyGivenNames x0
  have h0 : Keeps s0 x0
  · unfold x0
    refine ite_ind ?_ ?_
    · with_reducible assumption
    · refine keeps_mk ?_ rfl rfl rfl rfl rfl rfl rfl
      with_reducible assumption
  clear_value x0
  extract_lets +onlyGivenNames x0
  have h0 : Keeps s0 x0
  · unfold x0
    refine keeps_foldl ?_ ?_
    · intro a4 a5 h6
      refine State.wr_keeps _ _ _ ?_
      with_reducible assumption
    · with_reducible assumption
  clear_value x0
  extract_lets +onlyGivenNames x1
  have h1 : Keeps s0 x1
  · unfold x1
    split
    · refine keeps_foldl ?_ ?_
      · intro a2 a3 h4
        refine State.wr_keeps _ _ _ ?_
        with_reducible assumption
      · with_reducible assumption
    · with_reducible assumption
  clear_value x1
  extract_lets +onlyGivenNames x0
  have h0 : Keeps s0 x0
  · unfold x0
    refine ite_ind ?_ ?_
    · refine keeps_foldl ?_ ?_
      · intro a1 a2 h3
        refine State.wr_keeps _ _ _ ?_
        refine State.wr_keeps _ _ _ ?_
        refine State.wr_keeps _ _ _ ?_
        with_reducible assumption
      · with_reducible assumption
    · with_reducible assumption
  clear_value x0
  refine State.showKeys_keeps ?_
  refine State.wr_keeps _ _ _ ?_
  with_reducible assumption

theorem State.startBoot_keeps {s0 : State} {s : State} (h : Keeps s0 s) :
    Keeps s0 (State.startBoot s) := by
  unfold State.startBoot
  extract_lets +onlyGivenNames x0
  have h0 : Keeps s0 x0
  · unfold x0
    refine State.showFuses_keeps ?_
    refine State.loadProfile_keeps ?_
    refine State.biasProfile_keeps ?_
    with_reducible assumption
  clear_value x0
  extract_lets +onlyGivenNames x0
  clear_value x0
  extract_lets +onlyGivenNames x6
  have h6 : Keeps s0 x6
  · unfold x6
    refine State.bump_keeps _ _ ?_
    with_reducible assumption
  clear_value x6
  extract_lets +onlyGivenNames x10
  extract_lets +onlyGivenNames x11
  have h11 : Keeps s0 x11
  · unfold x11
    refine keeps_mk ?_ rfl rfl rfl rfl rfl rfl rfl
    with_reducible assumption
  clear_value x11
  extract_lets +onlyGivenNames x13
  have h13 : Keeps s0 x13
  · unfold x13
    refine State.designateSpares_keeps ?_
    with_reducible assumption
  clear_value x13
  extract_lets +onlyGivenNames x16
  have h16 : Keeps s0 x16
  · unfold x16
    refine keeps_foldl ?_ ?_
    · intro a17 a18 h19
      refine ite_ind ?_ ?_
      · with_reducible assumption
      · refine State.wakeFor_keeps _ ?_
        with_reducible assumption
    · with_reducible assumption
  clear_value x16
  extract_lets +onlyGivenNames x23
  clear_value x23
  extract_lets +onlyGivenNames x25
  extract_lets +onlyGivenNames x26
  have h26 : Keeps s0 x26
  · unfold x26
    refine keeps_mk ?_ rfl rfl rfl rfl rfl rfl rfl
    with_reducible assumption
  clear_value x26
  refine ite_ind ?_ ?_
  · refine State.raise_keeps _ _ _ ?_
    refine State.wr_keeps _ _ _ ?_
    with_reducible assumption
  · refine State.wr_keeps _ _ _ ?_
    with_reducible assumption

theorem State.releaseSequence_keeps {s0 : State} {s : State} (straps : ℕ) (h : Keeps s0 s) :
    Keeps s0 (State.releaseSequence s straps) := by
  unfold State.releaseSequence
  refine ite_ind ?_ ?_
  · with_reducible assumption
  · extract_lets +onlyGivenNames x0
    extract_lets +onlyGivenNames x1
    have h1 : Keeps s0 x1
    · unfold x1
      refine keeps_mk ?_ rfl rfl rfl rfl rfl rfl rfl
      with_reducible assumption
    clear_value x1
    extract_lets +onlyGivenNames x0
    have h0 : Keeps s0 x0
    · unfold x0
      refine State.wr_keeps _ _ _ ?_
      with_reducible assumption
    clear_value x0
    extract_lets +onlyGivenNames x0
    have h0 : Keeps s0 x0
    · unfold x0
      refine State.wr_keeps _ _ _ ?_
      with_reducible assumption
    clear_value x0
    refine ite_ind ?_ ?_
    · extract_lets +onlyGivenNames x2
      have h2 : Keeps s0 x2
      · unfold x2
        refine State.trimLoad_keeps ?_
        with_reducible assumption
      clear_value x2
      refine State.startBoot_keeps ?_
      refine keeps_mk ?_ rfl rfl rfl rfl rfl rfl rfl
      with_reducible assumption
    · extract_lets +onlyGivenNames x38
      have h38 : Keeps s0 x38.2
      · unfold x38
        refine State.trimCheck_keeps ?_
        with_reducible assumption
      clear_value x38
      refine ite_ind ?_ ?_
      · refine State.startBoot_keeps ?_
        with_reducible assumption
      · refine State.assertSource_keeps _ ?_
        with_reducible assumption

theorem State.letGo_keeps {s0 : State} {s : State} (bit : ℕ) (straps : ℕ) (h : Keeps s0 s) :
    Keeps s0 (State.letGo s bit straps) := by
  unfold State.letGo
  refine ite_ind ?_ ?_
  · extract_lets +onlyGivenNames x1
    extract_lets +onlyGivenNames x0
    have h0 : Keeps s0 x0
    · unfold x0
      refine keeps_mk ?_ rfl rfl rfl rfl rfl rfl rfl
      with_reducible assumption
    clear_value x0
    refine ite_ind ?_ ?_
    · with_reducible assumption
    · refine State.releaseSequence_keeps _ ?_
      with_reducible assumption
  · with_reducible assumption

theorem State.rstLow_keeps {s0 : State} {s : State} (h : Keeps s0 s) :
    Keeps s0 (State.rstLow s) := by
  unfold State.rstLow
  refine State.assertSource_keeps _ ?_
  with_reducible assumption

theorem State.rstHigh_keeps {s0 : State} {s : State} (straps : ℕ) (h : Keeps s0 s) :
    Keeps s0 (State.rstHigh s straps) := by
  unfold State.rstHigh
  refine State.letGo_keeps _ _ ?_
  with_reducible assumption

theorem State.masonDomainHeld_keeps {s0 : State} {s : State} (h : Keeps s0 s) :
    Keeps s0 (State.masonDomainHeld s) := by
  unfold State.masonDomainHeld
  refine State.jobsReset_keeps _ ?_
  refine State.masonsReset_keeps ?_
  with_reducible assumption

theorem State.domainHeld_keeps {s0 : State} {s : State} (d : ℕ) (h : Keeps s0 s) :
    Keeps s0 (State.domainHeld s d) := by
  unfold State.domainHeld
  extract_lets +onlyGivenNames x1
  extract_lets +onlyGivenNames x2
  have h2 : Keeps s0 x2
  · unfold x2
    refine State.switchOff_keeps _ ?_
    refine keeps_mk ?_ rfl rfl rfl rfl rfl rfl rfl
    with_reducible assumption
  clear_value x2
  refine ite_ind ?_ ?_
  · refine keeps_mk ?_ rfl rfl rfl rfl rfl rfl rfl
    with_reducible assumption
  · refine ite_ind ?_ ?_
    · refine State.masonDomainHeld_keeps ?_
      with_reducible assumption
    · refine ite_ind ?_ ?_
      · refine State.jobsReset_keeps _ ?_
        refine State.portToOff_keeps _ _ ?_
        with_reducible assumption
      · refine ite_ind ?_ ?_
        · extract_lets +onlyGivenNames x21
          have h21 : Keeps s0 x21
          · unfold x21
            refine State.endWindow_keeps _ ?_
            refine State.ownLo_keeps _ ?_
            refine State.courseOff_keeps _ ?_
            with_reducible assumption
          clear_value x21
          refine State.setCourse_keeps _ _ ?_
          with_reducible assumption
        · with_reducible assumption

theorem State.domainReset_keeps {s0 : State} {s : State} (d : ℕ) (h : Keeps s0 s) :
    KeepsR s0 (State.domainReset s d) := by
  unfold State.domainReset
  refine ite_ind ?_ ?_
  · exact keepsR_error
  · extract_lets +onlyGivenNames x12
    have h12 : Keeps s0 x12
    · unfold x12
      refine State.noteReset_keeps _ ?_
      with_reducible assumption
    clear_value x12
    extract_lets +onlyGivenNames x14
    extract_lets +onlyGivenNames x15
    have h15 : Keeps s0 x15
    · unfold x15
      refine keeps_mk ?_ rfl rfl rfl rfl rfl rfl rfl
      with_reducible assumption
    clear_value x15
    refine keepsR_ok ?_
    refine State.domainHeld_keeps _ ?_
    with_reducible assumption

theorem State.domainRelease_keeps {s0 : State} {s : State} (h : Keeps s0 s) :
    Keeps s0 (State.domainRelease s) := by
  unfold State.domainRelease
  extract_lets +onlyGivenNames x3
  clear_value x3
  extract_lets +onlyGivenNames x4
  extract_lets +onlyGivenNames x5
  have h5 : Keeps s0 x5
  · unfold x5
    refine keeps_mk ?_ rfl rfl rfl rfl rfl rfl rfl
    with_reducible assumption
  clear_value x5
  refine keeps_foldl ?_ ?_
  · intro a7 a8 h9
    refine ite_ind ?_ ?_
    · refine State.wakeFor_keeps _ ?_
      with_reducible assumption
    · with_reducible assumption
  · with_reducible assumption

theorem State.sourceRelease_keeps {s0 : State} {s : State} (bit : ℕ) (straps : ℕ) (h : Keeps s0 s) :
    Keeps s0 (State.sourceRelease s bit straps) := by
  unfold State.sourceRelease
  refine ite_ind ?_ ?_
  · refine State.domainRelease_keeps ?_
    with_reducible assumption
  · split
    · refine ite_ind ?_ ?_
      · refine State.letGo_keeps _ _ ?_
        with_reducible assumption
      · with_reducible assumption
    · with_reducible assumption

theorem State.domainResetDone_keeps {s0 : State} {s : State} (d : ℕ) (h : Keeps s0 s) :
    Keeps s0 (State.domainResetDone s d) := by
  unfold State.domainResetDone
  refine ite_ind ?_ ?_
  · extract_lets +onlyGivenNames x27
    extract_lets +onlyGivenNames x28
    have h28 : Keeps s0 x28
    · unfold x28
      refine keeps_mk ?_ rfl rfl rfl rfl rfl rfl rfl
      with_reducible assumption
    clear_value x28
    refine State.raise_keeps _ _ _ ?_
    with_reducible assumption
  · with_reducible assumption

theorem State.resumeAtSlot_keeps {s0 : State} {s : State} (h : Keeps s0 s) :
    Keeps s0 (State.resumeAtSlot s) := by
  unfold State.resumeAtSlot
  extract_lets +onlyGivenNames x20
  clear_value x20
  extract_lets +onlyGivenNames x22
  extract_lets +onlyGivenNames x24
  have h24 : Keeps s0 x24
  · unfold x24
    refine keeps_mk ?_ rfl rfl rfl rfl rfl rfl rfl
    with_reducible assumption
  clear_value x24
  refine keeps_foldl ?_ ?_
  · intro a29 a30 h31
    refine ite_ind ?_ ?_
    · refine State.setCourse_keeps _ _ ?_
      with_reducible assumption
    · with_reducible assumption
  · with_reducible assumption

theorem State.otherBit_keeps {s0 : State} {s : State} (k : ℕ) (set : Bool) (h : Keeps s0 s) :
    Keeps s0 (State.otherBit s k set) := by
  unfold State.otherBit
  refine ite_ind ?_ ?_
  · refine ite_ind ?_ ?_
    · refine State.portToOff_keeps _ _ ?_
      with_reducible assumption
    · refine State.portStart_keeps _ ?_
      with_reducible assumption
  · refine ite_ind ?_ ?_
    · refine ite_ind ?_ ?_
      · extract_lets +onlyGivenNames x37
        have h37 : Keeps s0 x37
        · unfold x37
          refine State.speOff_keeps ?_
          with_reducible assumption
        clear_value x37
        split
        · refine State.endLease_keeps _ _ ?_
          with_reducible assumption
        · with_reducible assumption
      · refine State.speFollow_keeps ?_
        with_reducible assumption
    · refine ite_ind ?_ ?_
      · extract_lets +onlyGivenNames x43
        clear_value x43
        extract_lets +onlyGivenNames x44
        have h44 : Keeps s0 x44
        · unfold x44
          refine ite_ind ?_ ?_
          · refine State.endWindow_keeps _ ?_
            refine State.ownLo_keeps _ ?_
            refine State.courseOff_keeps _ ?_
            with_reducible assumption
          · refine keeps_foldl ?_ ?_
            · intro a45 a46 h47
              refine State.restorePath_keeps _ ?_
              with_reducible assumption
            · with_reducible assumption
        clear_value x44
        refine State.setCourse_keeps _ _ ?_
        with_reducible assumption
      · refine ite_ind ?_ ?_
        · with_reducible assumption
        · refine keeps_mk ?_ rfl rfl rfl rfl rfl rfl rfl
          with_reducible assumption

theorem State.blockBits_keeps {s0 : State} {s : State} (index : ℕ) (old : ℕ) (new : ℕ) (h : Keeps s0 s) :
    Keeps s0 (State.blockBits s index old new) := by
  unfold State.blockBits
  extract_lets +onlyGivenNames x32
  clear_value x32
  extract_lets +onlyGivenNames x33
  clear_value x33
  extract_lets +onlyGivenNames x34
  have h34 : Keeps s0 x34
  · unfold x34
    refine ite_ind ?_ ?_
    · refine State.noteReset_keeps _ ?_
      with_reducible assumption
    · with_reducible assumption
  clear_value x34
  refine keeps_foldl ?_ ?_
  · intro a39 a40 h41
    extract_lets +onlyGivenNames x42
    clear_value x42
    refine ite_ind ?_ ?_
    · refine ite_ind ?_ ?_
      · refine State.masonHeld_keeps _ ?_
        with_reducible assumption
      · refine State.masonFreed_keeps _ ?_
        with_reducible assumption
    · refine ite_ind ?_ ?_
      · refine ite_ind ?_ ?_
        · refine State.dmaReset_keeps _ ?_
          with_reducible assumption
        · with_reducible assumption
      · refine State.otherBit_keeps _ _ ?_
        with_reducible assumption
  · with_reducible assumption

theorem State.resetRequest_keeps {s0 : State} {s : State} (v : ℕ) (h : Keeps s0 s) :
    KeepsR s0 (State.resetRequest s v) := by
  unfold State.resetRequest
  extract_lets +onlyGivenNames x35
  extract_lets +onlyGivenNames x36
  refine ite_ind ?_ ?_
  · refine keepsR_ok ?_
    unfold x36
    refine ite_ind ?_ ?_
    · with_reducible assumption
    · refine keeps_mk ?_ rfl rfl rfl rfl rfl rfl rfl
      with_reducible assumption
  · refine ite_ind ?_ ?_
    · refine keepsR_ok ?_
      unfold x36
      refine ite_ind ?_ ?_
      · with_reducible assumption
      · refine keeps_mk ?_ rfl rfl rfl rfl rfl rfl rfl
        with_reducible assumption
    · exact keepsR_error

theorem State.linkCommandAssert_keeps {s0 : State} {s : State} (h : Keeps s0 s) :
    Keeps s0 (State.linkCommandAssert s) := by
  unfold State.linkCommandAssert
  split
  · refine ite_ind ?_ ?_
    · refine State.assertSource_keeps _ ?_
      with_reducible assumption
    · with_reducible assumption
  · with_reducible assumption

theorem State.keystoneWatchdog_keeps {s0 : State} {s : State} (h : Keeps s0 s) :
    Keeps s0 (State.keystoneWatchdog s) := by
  unfold State.keystoneWatchdog
  split
  · refine ite_ind ?_ ?_
    · refine State.assertSource_keeps _ ?_
      with_reducible assumption
    · with_reducible assumption
  · with_reducible assumption

theorem State.trimRecheck_keeps {s0 : State} {s : State} (v : ℕ) (h : Keeps s0 s) :
    Keeps s0 (State.trimRecheck s v) := by
  unfold State.trimRecheck
  refine ite_ind ?_ ?_
  · extract_lets +onlyGivenNames x48
    have h48 : Keeps s0 x48.2
    · unfold x48
      refine State.trimCheck_keeps ?_
      with_reducible assumption
    clear_value x48
    refine ite_ind ?_ ?_
    · with_reducible assumption
    · refine State.assertSource_keeps _ ?_
      with_reducible assumption
  · with_reducible assumption

theorem State.keyRevoke_keeps {s0 : State} {s : State} (rec_ : List Byte) (h : Keeps s0 s) :
    KeepsR s0 (State.keyRevoke s rec_) := by
  unfold State.keyRevoke
  extract_lets +onlyGivenNames x49
  clear_value x49
  extract_lets +onlyGivenNames x50
  clear_value x50
  extract_lets +onlyGivenNames x51
  clear_value x51
  refine ite_ind ?_ ?_
  · exact keepsR_error
  · refine ite_ind ?_ ?_
    · exact keepsR_error
    · refine ite_ind ?_ ?_
      · exact keepsR_error
      · refine ite_ind ?_ ?_
        · exact keepsR_error
        · refine ite_ind ?_ ?_
          · exact keepsR_error
          · refine keepsR_ok ?_
            refine keeps_mk ?_ rfl rfl rfl rfl rfl rfl rfl
            with_reducible assumption

theorem mem_insertNat {k n : Nat} {l : List Nat} (h : k ∈ l) : k ∈ insertNat n l := by
  induction l with
  | nil => simp at h
  | cons m t ih =>
    unfold insertNat
    split
    · simp [List.mem_cons.1 h]
    · split
      · exact h
      · rcases List.mem_cons.1 h with h | h
        · simp [h]
        · exact List.mem_cons_of_mem _ (ih h)

theorem State.keyRevoked_keeps {s0 s : State} (h : Keeps s0 s) : Keeps s0 s.keyRevoked := by
  unfold State.keyRevoked
  split
  · refine State.raise_keeps _ _ _ (State.showKeys_keeps ?_)
    exact keeps_fields h rfl (fun i => ⟨i.mem, i.queue, i.log, i.ecc, i.transfers, i.one, i.openSet, i.openBytes⟩) ⟨fun k hk => mem_insertNat hk, rfl⟩
  · exact h

theorem State.attestRequest_keeps {s0 : State} {s : State} (nonce : List Byte) (h : Keeps s0 s) :
    KeepsR s0 (State.attestRequest s nonce) := by
  unfold State.attestRequest
  refine ite_ind ?_ ?_
  · exact keepsR_error
  · refine keepsR_ok ?_
    refine keeps_mk ?_ rfl rfl rfl rfl rfl rfl rfl
    with_reducible assumption

theorem State.identitySign_keeps {s0 : State} {s : State} (d : List Byte) (h : Keeps s0 s) :
    KeepsR s0 (State.identitySign s d) := by
  unfold State.identitySign
  refine ite_ind ?_ ?_
  · exact keepsR_error
  · refine keepsR_ok ?_
    refine keeps_mk ?_ rfl rfl rfl rfl rfl rfl rfl
    with_reducible assumption

theorem State.attestDone_keeps {s0 : State} {s : State} (h : Keeps s0 s) :
    Keeps s0 (State.attestDone s) := by
  unfold State.attestDone
  split
  · extract_lets +onlyGivenNames x52
    clear_value x52
    extract_lets +onlyGivenNames x53
    clear_value x53
    extract_lets +onlyGivenNames x54
    clear_value x54
    extract_lets +onlyGivenNames x55
    extract_lets +onlyGivenNames x56
    have h56 : Keeps s0 x56
    · unfold x56
      refine keeps_mk ?_ rfl rfl rfl rfl rfl rfl rfl
      with_reducible assumption
    clear_value x56
    refine State.raise_keeps _ _ _ ?_
    refine State.setDom_keeps _ _ _ ?_
    with_reducible assumption
  · with_reducible assumption

theorem State.signDone_keeps {s0 : State} {s : State} (h : Keeps s0 s) :
    Keeps s0 (State.signDone s) := by
  unfold State.signDone
  split
  · extract_lets +onlyGivenNames x57
    clear_value x57
    extract_lets +onlyGivenNames x58
    extract_lets +onlyGivenNames x59
    have h59 : Keeps s0 x59
    · unfold x59
      refine keeps_mk ?_ rfl rfl rfl rfl rfl rfl rfl
      with_reducible assumption
    clear_value x59
    refine State.raise_keeps _ _ _ ?_
    refine State.setDom_keeps _ _ _ ?_
    with_reducible assumption
  · with_reducible assumption

theorem State.setIr_keeps {s0 : State} {s : State} (ir : ℕ) (h : Keeps s0 s) :
    Keeps s0 (State.setIr s ir) := by
  unfold State.setIr
  refine keeps_mk ?_ rfl rfl rfl rfl rfl rfl rfl
  with_reducible assumption

theorem State.scanTest_keeps {s0 : State} {s : State} (ir : ℕ) (h : Keeps s0 s) :
    Keeps s0 (State.scanTest s ir) := by
  unfold State.scanTest
  extract_lets +onlyGivenNames x60
  have h60 : Keeps s0 x60
  · unfold x60
    refine State.setIr_keeps _ ?_
    with_reducible assumption
  clear_value x60
  refine ite_ind ?_ ?_
  · with_reducible assumption
  · refine State.assertSource_keeps _ ?_
    with_reducible assumption

theorem State.scanOther_keeps {s0 : State} {s : State} (ir : ℕ) (straps : ℕ) (h : Keeps s0 s) :
    Keeps s0 (State.scanOther s ir straps) := by
  unfold State.scanOther
  refine State.letGo_keeps _ _ ?_
  refine State.setIr_keeps _ ?_
  with_reducible assumption

theorem State.scanPreload_keeps {s0 : State} {s : State} (cells : List Bool) (straps : ℕ) (h : Keeps s0 s) :
    Keeps s0 (State.scanPreload s cells straps) := by
  unfold State.scanPreload
  extract_lets +onlyGivenNames x61
  clear_value x61
  extract_lets +onlyGivenNames x62
  extract_lets +onlyGivenNames x63
  have h63 : Keeps s0 x63
  · unfold x63
    refine keeps_mk ?_ rfl rfl rfl rfl rfl rfl rfl
    with_reducible assumption
  clear_value x63
  refine State.scanOther_keeps _ _ ?_
  with_reducible assumption

end Sys2Proof.Machine
end

