-- ==== Sys2Proof/Laws/KeepsApply.lean ====
section
/-! SUPPORT. Every operation of Machine/Apply.lean keeps the relation of Laws/Keeps.lean. -/
namespace Sys2Proof.Machine

theorem State.askReady_keeps {s0 : State} {s : State} (c : SealedCommit) (h : Keeps s0 s) :
    Keeps s0 (State.askReady s c) := by
  unfold State.askReady
  extract_lets +onlyGivenNames x0
  have h0 : Keeps s0 x0
  · unfold x0
    refine State.viewAt_keeps _ ?_
    with_reducible assumption
  clear_value x0
  refine keeps_foldl ?_ ?_
  · intro a0 a1 h2
    split
    · refine ite_ind ?_ ?_
      · refine State.folioMismatch_keeps _ _ _ ?_
        with_reducible assumption
      · refine ite_ind ?_ ?_
        · refine State.folioMismatch_keeps _ _ _ ?_
          with_reducible assumption
        · with_reducible assumption
    · refine ite_ind ?_ ?_
      · refine State.needDomain_keeps _ ?_
        with_reducible assumption
      · with_reducible assumption
  · with_reducible assumption

theorem State.commitMissed_keeps {s0 : State} {s : State} (target : ℕ) (reason : ℕ) (h : Keeps s0 s) :
    Keeps s0 (State.commitMissed s target reason) := by
  unfold State.commitMissed
  refine State.raise_keeps _ _ _ ?_
  refine State.bump_keeps _ _ ?_
  with_reducible assumption

theorem State.checkCommit_keeps {s0 : State} {s : State} (c : SealedCommit) (h : Keeps s0 s) :
    Keeps s0 (State.checkCommit s c).2 := by
  unfold State.checkCommit
  split
  · dsimp -zeta only
    refine State.askReady_keeps _ ?_
    with_reducible assumption
  · extract_lets +onlyGivenNames x0
    have h0 : Keeps s0 x0
    · unfold x0
      refine State.askReady_keeps _ ?_
      with_reducible assumption
    clear_value x0
    extract_lets +onlyGivenNames x0
    have h0 : Keeps s0 x0
    · unfold x0
      refine ite_ind ?_ ?_
      · with_reducible assumption
      · refine State.commitMissed_keeps _ _ ?_
        with_reducible assumption
    clear_value x0
    extract_lets +onlyGivenNames x4
    clear_value x4
    extract_lets +onlyGivenNames x0
    clear_value x0
    split
    · with_reducible assumption
    · with_reducible assumption

theorem State.mapCommitsFrom_keeps {s0 s : State} (pick : SealedCommit → Bool) (f : State → SealedCommit → SealedCommit × State)
    (done l : List SealedCommit) (hf : ∀ t c, Keeps s0 t → Keeps s0 (f t c).2) (h : Keeps s0 s) :
    Keeps s0 (State.mapCommitsFrom pick f done l s) := by
  induction l generalizing done s with
  | nil => exact keeps_mk h rfl rfl rfl rfl rfl rfl rfl
  | cons c t ih =>
    unfold State.mapCommitsFrom
    split
    · exact ih _ (hf _ _ (keeps_mk h rfl rfl rfl rfl rfl rfl rfl))
    · exact ih _ h

theorem State.mapCommits_keeps {s0 s : State} (pick : SealedCommit → Bool) (f : State → SealedCommit → SealedCommit × State)
    (hf : ∀ t c, Keeps s0 t → Keeps s0 (f t c).2) (h : Keeps s0 s) : Keeps s0 (s.mapCommits pick f) :=
  State.mapCommitsFrom_keeps pick f [] _ hf h

theorem State.commitFail_keeps {s0 : State} {s : State} (h : Keeps s0 s) :
    Keeps s0 (State.commitFail s) := by
  unfold State.commitFail
  refine State.failCommits_keeps _ _ ?_
  with_reducible assumption

theorem State.clampPower_keeps {s0 : State} {s : State} (p : ℕ) (h : Keeps s0 s) :
    Keeps s0 (State.clampPower s p) := by
  unfold State.clampPower
  extract_lets +onlyGivenNames x0
  clear_value x0
  extract_lets +onlyGivenNames x2
  clear_value x2
  refine ite_ind ?_ ?_
  · with_reducible assumption
  · extract_lets +onlyGivenNames x2
    have h2 : Keeps s0 x2
    · unfold x2
      refine State.powerEdge_keeps _ _ ?_
      refine State.wrI_keeps _ _ _ _ ?_
      with_reducible assumption
    clear_value x2
    refine State.setPath_keeps _ _ ?_
    with_reducible assumption

theorem State.clampGain_keeps {s0 : State} {s : State} (p : ℕ) (h : Keeps s0 s) :
    Keeps s0 (State.clampGain s p) := by
  unfold State.clampGain
  extract_lets +onlyGivenNames x0
  clear_value x0
  extract_lets +onlyGivenNames x0
  clear_value x0
  extract_lets +onlyGivenNames x1
  have h1 : Keeps s0 x1
  · unfold x1
    refine ite_ind ?_ ?_
    · refine State.setPath_keeps _ _ ?_
      with_reducible assumption
    · with_reducible assumption
  clear_value x1
  extract_lets +onlyGivenNames x0
  clear_value x0
  extract_lets +onlyGivenNames x0
  clear_value x0
  refine ite_ind ?_ ?_
  · with_reducible assumption
  · extract_lets +onlyGivenNames x0
    have h0 : Keeps s0 x0
    · unfold x0
      refine State.loopAt_keeps _ _ _ ?_
      refine State.wr_keeps _ _ _ ?_
      with_reducible assumption
    clear_value x0
    refine State.setPath_keeps _ _ ?_
    with_reducible assumption

theorem State.clampTuner_keeps {s0 : State} {s : State} (p : ℕ) (h : Keeps s0 s) :
    Keeps s0 (State.clampTuner s p) := by
  unfold State.clampTuner
  extract_lets +onlyGivenNames x1
  clear_value x1
  extract_lets +onlyGivenNames x0
  clear_value x0
  refine ite_ind ?_ ?_
  · with_reducible assumption
  · extract_lets +onlyGivenNames x0
    have h0 : Keeps s0 x0
    · unfold x0
      refine State.loopAt_keeps _ _ _ ?_
      refine State.tunerCode_keeps _ _ ?_
      with_reducible assumption
    clear_value x0
    refine State.setPath_keeps _ _ ?_
    with_reducible assumption

theorem State.clampLin_keeps {s0 : State} {s : State} (p : ℕ) (h : Keeps s0 s) :
    Keeps s0 (State.clampLin s p) := by
  unfold State.clampLin
  refine ite_ind ?_ ?_
  · with_reducible assumption
  · extract_lets +onlyGivenNames x1
    clear_value x1
    extract_lets +onlyGivenNames x0
    clear_value x0
    extract_lets +onlyGivenNames x1
    have h1 : Keeps s0 x1
    · unfold x1
      refine State.setLinTables_keeps _ _ ?_
      refine keeps_mk ?_ rfl rfl rfl rfl rfl rfl rfl
      with_reducible assumption
    clear_value x1
    refine State.loopAt_keeps _ _ _ ?_
    refine State.wrBit_keeps _ _ _ _ ?_
    with_reducible assumption

theorem State.clampCancel_keeps {s0 : State} {s : State} (p : ℕ) (h : Keeps s0 s) :
    Keeps s0 (State.clampCancel s p) := by
  unfold State.clampCancel
  extract_lets +onlyGivenNames x0
  clear_value x0
  refine ite_ind ?_ ?_
  · with_reducible assumption
  · extract_lets +onlyGivenNames x9
    clear_value x9
    extract_lets +onlyGivenNames x0
    clear_value x0
    extract_lets +onlyGivenNames x3
    clear_value x3
    refine State.loopAt_keeps _ _ _ ?_
    refine keeps_mk ?_ rfl rfl rfl rfl rfl rfl rfl
    with_reducible assumption

theorem State.followTx_keeps {s0 : State} {s : State} (items : List StagedItem) (h : Keeps s0 s) :
    Keeps s0 (State.followTx s items) := by
  unfold State.followTx
  extract_lets +onlyGivenNames x1
  have h1 : Keeps s0 x1
  · unfold x1
    refine keeps_foldl ?_ ?_
    · intro a2 a3 h4
      refine State.clampPower_keeps _ ?_
      with_reducible assumption
    · with_reducible assumption
  clear_value x1
  extract_lets +onlyGivenNames x5
  clear_value x5
  refine keeps_foldl ?_ ?_
  · intro a6 a7 h8
    refine State.powerNow_keeps _ ?_
    with_reducible assumption
  · with_reducible assumption

theorem State.followGain_keeps {s0 : State} {s : State} (items : List StagedItem) (h : Keeps s0 s) :
    Keeps s0 (State.followGain s items) := by
  unfold State.followGain
  extract_lets +onlyGivenNames x1
  have h1 : Keeps s0 x1
  · unfold x1
    refine keeps_foldl ?_ ?_
    · intro a4 a5 h6
      refine State.setPath_keeps _ _ ?_
      with_reducible assumption
    · with_reducible assumption
  clear_value x1
  extract_lets +onlyGivenNames x10
  have h10 : Keeps s0 x10
  · unfold x10
    refine keeps_foldl ?_ ?_
    · intro a12 a13 h14
      refine State.wr_keeps _ _ _ ?_
      with_reducible assumption
    · with_reducible assumption
  clear_value x10
  refine keeps_foldl ?_ ?_
  · intro a18 a19 h20
    refine State.clampGain_keeps _ ?_
    with_reducible assumption
  · with_reducible assumption

theorem State.followTuner_keeps {s0 : State} {s : State} (items : List StagedItem) (h : Keeps s0 s) :
    Keeps s0 (State.followTuner s items) := by
  unfold State.followTuner
  extract_lets +onlyGivenNames x2
  have h2 : Keeps s0 x2
  · unfold x2
    refine keeps_foldl ?_ ?_
    · intro a7 a8 h9
      refine State.setPath_keeps _ _ ?_
      with_reducible assumption
    · with_reducible assumption
  clear_value x2
  extract_lets +onlyGivenNames x11
  have h11 : Keeps s0 x11
  · unfold x11
    refine keeps_foldl ?_ ?_
    · intro a15 a16 h17
      refine State.tunerCode_keeps _ _ ?_
      with_reducible assumption
    · with_reducible assumption
  clear_value x11
  refine keeps_foldl ?_ ?_
  · intro a21 a22 h23
    refine State.clampTuner_keeps _ ?_
    with_reducible assumption
  · with_reducible assumption

theorem State.followLin_keeps {s0 : State} {s : State} (old : State) (items : List StagedItem) (h : Keeps s0 s) :
    Keeps s0 (State.followLin s old items) := by
  unfold State.followLin
  extract_lets +onlyGivenNames x24
  clear_value x24
  extract_lets +onlyGivenNames x27
  have h27 : Keeps s0 x27
  · unfold x27
    split
    · refine State.commitLinTables_keeps _ ?_
      with_reducible assumption
    · refine ite_ind ?_ ?_
      · refine State.resetLinTables_keeps ?_
        with_reducible assumption
      · with_reducible assumption
  clear_value x27
  extract_lets +onlyGivenNames x34
  have h34 : Keeps s0 x34
  · unfold x34
    refine keeps_foldl ?_ ?_
    · intro a35 a36 h37
      extract_lets +onlyGivenNames x38
      clear_value x38
      extract_lets +onlyGivenNames x40
      clear_value x40
      extract_lets +onlyGivenNames x44
      have h44 : Keeps s0 x44
      · unfold x44
        refine State.setLinPath_keeps _ _ ?_
        refine State.wrBit_keeps _ _ _ _ ?_
        with_reducible assumption
      clear_value x44
      refine ite_ind ?_ ?_
      · refine State.linDiscard_keeps _ ?_
        with_reducible assumption
      · with_reducible assumption
    · with_reducible assumption
  clear_value x34
  extract_lets +onlyGivenNames x46
  have h46 : Keeps s0 x46
  · unfold x46
    refine keeps_foldl ?_ ?_
    · intro a50 a51 h52
      refine State.clampLin_keeps _ ?_
      with_reducible assumption
    · with_reducible assumption
  clear_value x46
  refine keeps_foldl ?_ ?_
  · intro a55 a56 h57
    refine State.startCycle_keeps _ ?_
    with_reducible assumption
  · with_reducible assumption

theorem State.followCancel_keeps {s0 : State} {s : State} (items : List StagedItem) (h : Keeps s0 s) :
    Keeps s0 (State.followCancel s items) := by
  unfold State.followCancel
  extract_lets +onlyGivenNames x25
  have h25 : Keeps s0 x25
  · unfold x25
    refine ite_ind ?_ ?_
    · refine State.selectSet_keeps _ ?_
      with_reducible assumption
    · with_reducible assumption
  clear_value x25
  extract_lets +onlyGivenNames x28
  extract_lets +onlyGivenNames x32
  have h32 : Keeps s0 x32
  · unfold x32
    refine ite_ind ?_ ?_
    · refine keeps_mk ?_ rfl rfl rfl rfl rfl rfl rfl
      with_reducible assumption
    · with_reducible assumption
  clear_value x32
  refine keeps_foldl ?_ ?_
  · intro a41 a42 h43
    refine State.clampCancel_keeps _ ?_
    with_reducible assumption
  · with_reducible assumption

theorem State.followSyn_keeps {s0 : State} {s : State} (old : State) (items : List StagedItem) (h : Keeps s0 s) :
    Keeps s0 (State.followSyn s old items) := by
  unfold State.followSyn
  extract_lets +onlyGivenNames x26
  have h26 : Keeps s0 x26
  · unfold x26
    refine ite_ind ?_ ?_
    · with_reducible assumption
    · refine keeps_foldl ?_ ?_
      · intro a29 a30 h31
        refine State.startRelock_keeps _ _ ?_
        with_reducible assumption
      · with_reducible assumption
  clear_value x26
  extract_lets +onlyGivenNames x33
  have h33 : Keeps s0 x33
  · unfold x33
    refine ite_ind ?_ ?_
    · refine State.synpRelock_keeps ?_
      with_reducible assumption
    · with_reducible assumption
  clear_value x33
  extract_lets +onlyGivenNames x39
  have h39 : Keeps s0 x39
  · unfold x39
    refine ite_ind ?_ ?_
    · refine State.speFollow_keeps ?_
      with_reducible assumption
    · with_reducible assumption
  clear_value x39
  refine ite_ind ?_ ?_
  · refine State.speReturnChanged_keeps ?_
    with_reducible assumption
  · with_reducible assumption

theorem State.followPartitions_keeps {s0 s : State} (old : State) (h : Keeps s0 s) : Keeps s0 (s.followPartitions old) := by
  unfold State.followPartitions
  dsimp only
  refine ite_ind h ?_
  exact keeps_bytes (State.wr_keeps Ix.LibraryEntries 0 _ (State.wr_keeps Ix.LibraryBase 0 _ h)) rfl rfl rfl rfl rfl (fun i => Memory.wf_filter i)

theorem State.followBias_keeps {s0 : State} {s : State} (items : List StagedItem) (h : Keeps s0 s) :
    Keeps s0 (State.followBias s items) := by
  unfold State.followBias
  extract_lets +onlyGivenNames x45
  clear_value x45
  refine ite_ind ?_ ?_
  · with_reducible assumption
  · refine State.biasCommitted_keeps _ ?_
    with_reducible assumption

theorem State.followBlocks_keeps {s0 : State} {s : State} (old : State) (items : List StagedItem) (h : Keeps s0 s) :
    Keeps s0 (State.followBlocks s old items) := by
  unfold State.followBlocks
  refine keeps_foldl ?_ ?_
  · intro a47 a48 h49
    refine ite_ind ?_ ?_
    · refine State.blockBits_keeps _ _ _ ?_
      with_reducible assumption
    · with_reducible assumption
  · with_reducible assumption

theorem State.followCal_keeps {s0 : State} {s : State} (items : List StagedItem) (h : Keeps s0 s) :
    Keeps s0 (State.followCal s items) := by
  unfold State.followCal
  extract_lets +onlyGivenNames x53
  extract_lets +onlyGivenNames x54
  have h54 : Keeps s0 x54
  · unfold x54
    refine ite_ind ?_ ?_
    · refine keeps_mk ?_ rfl rfl rfl rfl rfl rfl rfl
      with_reducible assumption
    · with_reducible assumption
  clear_value x54
  refine keeps_foldl ?_ ?_
  · intro a60 a61 h62
    split
    · refine ite_ind ?_ ?_
      · refine State.commitCalSet_keeps _ ?_
        with_reducible assumption
      · with_reducible assumption
    · refine ite_ind ?_ ?_
      · refine State.calTargeted_keeps ?_
        with_reducible assumption
      · with_reducible assumption
  · with_reducible assumption

theorem State.followRest_keeps {s0 : State} {s : State} (old : State) (items : List StagedItem) (h : Keeps s0 s) :
    Keeps s0 (State.followRest s old items) := by
  unfold State.followRest
  extract_lets +onlyGivenNames x58
  have h58 : Keeps s0 x58
  · unfold x58
    refine ite_ind ?_ ?_
    · with_reducible assumption
    · refine State.sourceChanged_keeps ?_
      with_reducible assumption
  clear_value x58
  extract_lets +onlyGivenNames x64
  have h64 : Keeps s0 x64
  · unfold x64
    refine ite_ind ?_ ?_
    · refine State.designateSpares_keeps ?_
      with_reducible assumption
    · with_reducible assumption
  clear_value x64
  extract_lets +onlyGivenNames x66
  have h66 : Keeps s0 x66
  · unfold x66
    refine ite_ind ?_ ?_
    · refine State.govFrozen_keeps ?_
      with_reducible assumption
    · with_reducible assumption
  clear_value x66
  extract_lets +onlyGivenNames x67
  have h67 : Keeps s0 x67
  · unfold x67
    refine ite_ind ?_ ?_
    · refine keeps_foldl ?_ ?_
      · intro a68 a69 h70
        refine State.detectFault_keeps _ _ ?_
        with_reducible assumption
      · with_reducible assumption
    · with_reducible assumption
  clear_value x67
  refine keeps_foldl ?_ ?_
  · intro a71 a72 h73
    refine State.clampReduction_keeps _ ?_
    with_reducible assumption
  · with_reducible assumption

theorem State.followItems_keeps {s0 : State} {s : State} (old : State) (items : List StagedItem) (h : Keeps s0 s) :
    Keeps s0 (State.followItems s old items) := by
  unfold State.followItems
  extract_lets +onlyGivenNames x59
  have h59 : Keeps s0 x59
  · unfold x59
    refine State.followTuner_keeps _ ?_
    refine State.followGain_keeps _ ?_
    refine State.followTx_keeps _ ?_
    with_reducible assumption
  clear_value x59
  extract_lets +onlyGivenNames x63
  have h63 : Keeps s0 x63
  · unfold x63
    refine State.followSyn_keeps _ _ ?_
    refine State.followCancel_keeps _ ?_
    refine State.followLin_keeps _ _ ?_
    with_reducible assumption
  clear_value x63
  extract_lets +onlyGivenNames x65
  have h65 : Keeps s0 x65
  · unfold x65
    refine State.followBlocks_keeps _ _ ?_
    refine State.followBias_keeps _ ?_
    refine State.followPartitions_keeps _ ?_
    with_reducible assumption
  clear_value x65
  refine State.followRest_keeps _ _ ?_
  refine State.followCal_keeps _ ?_
  with_reducible assumption

theorem State.placeItem_keeps {s0 : State} {s : State} (it : StagedItem) (h : Keeps s0 s) :
    Keeps s0 (State.placeItem s it) := by
  unfold State.placeItem
  split
  · refine ite_ind ?_ ?_
    · with_reducible assumption
    · refine State.wr_keeps _ _ _ ?_
      with_reducible assumption
  · refine ite_ind ?_ ?_
    · refine State.stepChange_keeps _ _ ?_
      with_reducible assumption
    · refine ite_ind ?_ ?_
      · refine State.setDom_keeps _ _ _ ?_
        refine State.dateBursts_keeps _ _ _ ?_
        with_reducible assumption
      · refine State.setDom_keeps _ _ _ ?_
        with_reducible assumption

theorem State.applyCommit_keeps {s0 : State} {s : State} (c : SealedCommit) (h : Keeps s0 s) :
    Keeps s0 (State.applyCommit s c) := by
  unfold State.applyCommit
  extract_lets +onlyGivenNames x74
  have h74 : Keeps s0 x74
  · unfold x74
    with_reducible assumption
  clear_value x74
  extract_lets +onlyGivenNames x75
  have h75 : Keeps s0 x75
  · unfold x75
    refine keeps_foldl ?_ ?_
    · intro a79 a80 h81
      refine State.placeItem_keeps _ ?_
      with_reducible assumption
    · with_reducible assumption
  clear_value x75
  extract_lets +onlyGivenNames x83
  have h83 : Keeps s0 x83
  · unfold x83
    refine ite_ind ?_ ?_
    · refine State.wrEpoch_keeps _ _ _ ?_
      with_reducible assumption
    · with_reducible assumption
  clear_value x83
  extract_lets +onlyGivenNames x92
  have h92 : Keeps s0 x92
  · unfold x92
    refine State.followItems_keeps _ _ ?_
    with_reducible assumption
  clear_value x92
  refine State.raise_keeps _ _ _ ?_
  refine State.wrEpoch_keeps _ _ _ ?_
  with_reducible assumption

theorem State.applyCommits_keeps {s0 : State} {s : State} (h : Keeps s0 s) :
    Keeps s0 (State.applyCommits s) := by
  unfold State.applyCommits
  extract_lets +onlyGivenNames x76
  clear_value x76
  extract_lets +onlyGivenNames x77
  extract_lets +onlyGivenNames x78
  have h78 : Keeps s0 x78
  · unfold x78
    refine keeps_mk ?_ rfl rfl rfl rfl rfl rfl rfl
    with_reducible assumption
  clear_value x78
  refine keeps_foldl ?_ ?_
  · intro a85 a86 h87
    refine State.applyCommit_keeps _ ?_
    with_reducible assumption
  · with_reducible assumption

theorem State.commitsAtTick_keeps {s0 : State} {s : State} (h : Keeps s0 s) :
    Keeps s0 (State.commitsAtTick s) := by
  unfold State.commitsAtTick
  extract_lets +onlyGivenNames x82
  have h82 : Keeps s0 x82
  · unfold x82
    refine State.commitFail_keeps ?_
    with_reducible assumption
  clear_value x82
  extract_lets +onlyGivenNames x84
  have h84 : Keeps s0 x84
  · unfold x84
    refine State.mapCommits_keeps _ _ ?_ ?_
    · intro a88 a89 h90
      refine State.checkCommit_keeps _ ?_
      with_reducible assumption
    · with_reducible assumption
  clear_value x84
  extract_lets +onlyGivenNames x91
  have h91 : Keeps s0 x91
  · unfold x91
    refine State.applyCommits_keeps ?_
    with_reducible assumption
  clear_value x91
  refine State.mapCommits_keeps _ _ ?_ ?_
  · intro a99 a100 h101
    refine State.checkCommit_keeps _ ?_
    with_reducible assumption
  · with_reducible assumption

theorem Memory.wf_tins {k : Nat} {v : Byte} {t : Tab Byte} (hv : v ≠ unwrittenByte) (h : Memory.wf t = true) : Memory.wf (tins k v t) = true := by
  have := Memory.wf_tput (k := k) (v := v) h
  rw [tput, if_neg hv] at this
  exact this

theorem Memory.wf_moveKeys (src dst n : Nat) {t : Tab Byte} (h : Memory.wf t = true) : Memory.wf (moveKeys src dst n t) = true := by
  have hd := ((Memory.wf_iff t).1 h).2
  have go : ∀ (l : List (Nat × Byte)) (u : Tab Byte), (∀ c ∈ l, c.2 ≠ unwrittenByte) → Memory.wf u = true →
      Memory.wf (l.foldl (fun t c => tins c.1 c.2 t) u) = true := by
    intro l
    induction l with
    | nil => intro u _ hu; exact hu
    | cons c l ih =>
      intro u hl hu
      exact ih _ (fun x hx => hl x (by simp [hx])) (Memory.wf_tins (hl c (by simp)) hu)
  unfold moveKeys
  refine go _ _ ?_ (Memory.wf_filter h)
  intro c hc
  obtain ⟨x, hx, rfl⟩ := List.mem_map.1 hc
  exact hd x (List.mem_filter.1 hx).1

theorem State.copyPartition_keeps {s0 s : State} (v : State) (k : Nat) (h : Keeps s0 s) : Keeps s0 (s.copyPartition v k) := by
  unfold State.copyPartition
  dsimp only
  exact keeps_bytes (State.settle_keeps _ _ h) rfl rfl rfl rfl rfl (fun i => Memory.wf_moveKeys _ _ _ i)

theorem State.partitionCopyDone_keeps {s0 : State} {s : State} (h : Keeps s0 s) :
    Keeps s0 (State.partitionCopyDone s) := by
  unfold State.partitionCopyDone
  refine ite_ind ?_ ?_
  · with_reducible assumption
  · extract_lets +onlyGivenNames x93
    extract_lets +onlyGivenNames x94
    have h94 : Keeps s0 x94
    · unfold x94
      refine keeps_mk ?_ rfl rfl rfl rfl rfl rfl rfl
      with_reducible assumption
    clear_value x94
    split
    · with_reducible assumption
    · extract_lets +onlyGivenNames x95
      have h95 : Keeps s0 x95
      · unfold x95
        refine State.viewAt_keeps _ ?_
        with_reducible assumption
      clear_value x95
      refine keeps_foldl ?_ ?_
      · intro a96 a97 h98
        refine ite_ind ?_ ?_
        · refine State.copyPartition_keeps _ _ ?_
          with_reducible assumption
        · with_reducible assumption
      · with_reducible assumption

end Sys2Proof.Machine
end

