-- ==== Sys2Proof/Laws/KeepsBootImage.lean ====
section
/-! SUPPORT. Every operation of Machine/BootImage.lean keeps the relation of Laws/Keeps.lean. -/
namespace Sys2Proof.Machine

theorem State.acceptImage_keeps {s0 : State} {s : State} (l : List Byte) (source : ℕ) (h : Keeps s0 s) :
    Keeps s0 (State.acceptImage s l source) := by
  unfold State.acceptImage
  extract_lets +onlyGivenNames x0
  clear_value x0
  extract_lets +onlyGivenNames x0
  extract_lets +onlyGivenNames x1
  have h1 : Keeps s0 x1
  · unfold x1
    refine keeps_mk ?_ rfl rfl rfl rfl rfl rfl rfl
    with_reducible assumption
  clear_value x1
  extract_lets +onlyGivenNames x1
  have h1 : Keeps s0 x1
  · unfold x1
    refine State.wr_keeps _ _ _ ?_
    refine State.wr_keeps _ _ _ ?_
    refine State.wr_keeps _ _ _ ?_
    with_reducible assumption
  clear_value x1
  refine State.showKeys_keeps ?_
  refine State.setDom_keeps _ _ _ ?_
  with_reducible assumption

theorem State.bootFail_keeps {s0 : State} {s : State} (image : ℕ) (reason : ℕ) (h : Keeps s0 s) :
    Keeps s0 (State.bootFail s image reason) := by
  unfold State.bootFail
  refine State.raise_keeps _ _ _ ?_
  with_reducible assumption

theorem State.nextImage_keeps {s0 : State} {s : State} (reason : ℕ) (h : Keeps s0 s) :
    Keeps s0 (State.nextImage s reason) := by
  unfold State.nextImage
  extract_lets +onlyGivenNames x3
  clear_value x3
  extract_lets +onlyGivenNames x0
  have h0 : Keeps s0 x0
  · unfold x0
    refine State.bootFail_keeps _ _ ?_
    with_reducible assumption
  clear_value x0
  refine ite_ind ?_ ?_
  · refine State.wr_keeps _ _ _ ?_
    with_reducible assumption
  · refine keeps_mk ?_ rfl rfl rfl rfl rfl rfl rfl
    with_reducible assumption

theorem State.imageReadDone_keeps {s0 : State} {s : State} (h : Keeps s0 s) :
    Keeps s0 (State.imageReadDone s) := by
  unfold State.imageReadDone
  extract_lets +onlyGivenNames x2
  clear_value x2
  refine ite_ind ?_ ?_
  · with_reducible assumption
  · extract_lets +onlyGivenNames x0
    clear_value x0
    extract_lets +onlyGivenNames x1
    clear_value x1
    extract_lets +onlyGivenNames x2
    clear_value x2
    extract_lets +onlyGivenNames x3
    have h3 : Keeps s0 x3
    · unfold x3
      refine State.settle_keeps _ _ ?_
      with_reducible assumption
    clear_value x3
    refine ite_ind ?_ ?_
    · refine State.nextImage_keeps _ ?_
      with_reducible assumption
    · extract_lets +onlyGivenNames x4
      clear_value x4
      split
      · refine State.nextImage_keeps _ ?_
        with_reducible assumption
      · refine State.acceptImage_keeps _ _ ?_
        with_reducible assumption

theorem State.bootReadTimeout_keeps {s0 : State} {s : State} (h : Keeps s0 s) :
    Keeps s0 (State.bootReadTimeout s) := by
  unfold State.bootReadTimeout
  refine ite_ind ?_ ?_
  · refine State.nextImage_keeps _ ?_
    with_reducible assumption
  · with_reducible assumption

theorem State.bootImageLoad_keeps {s0 : State} {s : State} (l : List Byte) (port : ℕ) (h : Keeps s0 s) :
    KeepsR s0 (State.bootImageLoad s l port) := by
  unfold State.bootImageLoad
  split
  · exact keepsR_error
  · exact keepsR_error
  · refine keepsR_ok ?_
    refine State.acceptImage_keeps _ _ ?_
    with_reducible assumption

end Sys2Proof.Machine
end

