-- ==== Sys2Proof/Laws/KeepsEffects.lean ====
section
/-! SUPPORT. Every operation of Machine/Effects.lean keeps the relation of Laws/Keeps.lean. -/
namespace Sys2Proof.Machine

theorem State.eventAck_keeps {s0 : State} {s : State} (n : ℕ) (h : Keeps s0 s) :
    KeepsR s0 (State.eventAck s n) := by
  unfold State.eventAck
  refine ite_ind ?_ ?_
  · exact keepsR_error
  · refine keepsR_ok ?_
    refine State.dropEvents_keeps _ ?_
    with_reducible assumption

theorem State.presenceClear_keeps {s0 : State} {s : State} (v : ℕ) (h : Keeps s0 s) :
    Keeps s0 (State.presenceClear s v) := by
  unfold State.presenceClear
  refine ite_ind ?_ ?_
  · refine State.wr_keeps _ _ _ ?_
    refine keeps_mk ?_ rfl rfl rfl rfl rfl rfl rfl
    with_reducible assumption
  · with_reducible assumption

theorem State.eccLogClear_keeps {s0 s : State} (v : Nat) (h : Keeps s0 s) : Keeps s0 (s.eccLogClear v) := by
  unfold State.eccLogClear
  exact ite_ind (keeps_fields h rfl (fun i => ⟨i.mem, i.queue, i.log, Nat.zero_le _, i.transfers, i.one, i.openSet, i.openBytes⟩) (Fuses.Kept.refl _)) h

theorem State.faultLogClear_keeps {s0 s : State} (v : Nat) (h : Keeps s0 s) : Keeps s0 (s.faultLogClear v) := by
  unfold State.faultLogClear
  exact ite_ind (keeps_fields h rfl (fun i => ⟨i.mem, i.queue, Nat.zero_le _, i.ecc, i.transfers, i.one, i.openSet, i.openBytes⟩) (Fuses.Kept.refl _)) h

theorem State.wakeNow_keeps {s0 : State} {s : State} (v : ℕ) (h : Keeps s0 s) :
    Keeps s0 (State.wakeNow s v) := by
  unfold State.wakeNow
  refine ite_ind ?_ ?_
  · refine State.edgeWake_keeps _ ?_
    with_reducible assumption
  · with_reducible assumption

theorem State.modeAsked_keeps {s0 : State} {s : State} (v : ℕ) (h : Keeps s0 s) :
    KeepsR s0 (State.modeAsked s v) := by
  unfold State.modeAsked
  refine ite_ind ?_ ?_
  · refine keepsR_ok ?_
    refine State.safeHoldRequest_keeps ?_
    with_reducible assumption
  · refine State.modeRequest_keeps _ _ ?_
    with_reducible assumption

theorem State.arrayModeAsked_keeps {s0 : State} {s : State} (v : ℕ) (h : Keeps s0 s) :
    KeepsR s0 (State.arrayModeAsked s v) := by
  unfold State.arrayModeAsked
  split
  · exact keepsR_error
  · split
    · exact keepsR_error
    · refine keepsR_ok ?_
      refine keeps_mk ?_ rfl rfl rfl rfl rfl rfl rfl
      refine keepsR_of ?_ (by assumption)
      refine ite_ind ?_ ?_
      · refine keepsR_ok ?_
        refine State.safeHoldRequest_keeps ?_
        with_reducible assumption
      · refine State.modeRequest_keeps _ _ ?_
        with_reducible assumption

theorem State.realignAsked_keeps {s0 : State} {s : State} (v : ℕ) (h : Keeps s0 s) :
    KeepsR s0 (State.realignAsked s v) := by
  unfold State.realignAsked
  refine keepsR_ok ?_
  refine State.timeRealign_keeps _ ?_
  with_reducible assumption

theorem State.dmaAbortAsked_keeps {s0 : State} {s : State} (n : ℕ) (v : ℕ) (h : Keeps s0 s) :
    KeepsR s0 (State.dmaAbortAsked s n v) := by
  unfold State.dmaAbortAsked
  refine ite_ind ?_ ?_
  · refine State.dmaAbort_keeps _ ?_
    with_reducible assumption
  · refine keepsR_ok ?_
    with_reducible assumption

theorem State.scalarAct_keeps {s0 s : State} (index sub v : Nat) (h : Keeps s0 s) {r : Res} (e : s.scalarAct index sub v = some r) :
    KeepsR s0 r := by
  unfold State.scalarAct at e
  split at e
  · cases e
    exact State.modeAsked_keeps _ h
  · cases e
    exact State.arrayModeAsked_keeps _ h
  · cases e
    exact State.wakeNow_keeps _ h
  · cases e
    exact State.realignAsked_keeps _ h
  · cases e
    exact State.presenceClear_keeps _ h
  · cases e
    exact State.eventAck_keeps _ h
  · cases e
    exact State.folioSeal_keeps _ h
  · cases e
    exact State.libraryValidate_keeps _ h
  · cases e
    exact State.libraryInvalidate_keeps _ h
  · cases e
    exact State.weightJobCancel_keeps _ h
  · cases e
    exact State.linResume_keeps _ h
  · cases e
    exact State.cancelSetSeal_keeps _ h
  · cases e
    exact State.masonRestore_keeps _ h
  · cases e
    exact State.kernelUnload_keeps _ h
  · cases e
    exact State.jobCancel_keeps _ h
  · cases e
    exact State.speTxCancel_keeps _ h
  · cases e
    exact State.speRxRelease_keeps _ h
  · cases e
    exact State.trimRecheck_keeps _ h
  · cases e
    exact State.calRunCancel_keeps _ h
  · cases e
    refine State.wr_keeps _ _ _ ?_
    exact keeps_mk h rfl rfl rfl rfl rfl rfl rfl
  · cases e
    exact State.calStoreSave_keeps _ h
  · cases e
    exact State.linkEnabled_keeps _ _ h
  · cases e
    exact State.linkRetrain_keeps _ _ h
  · cases e
    exact State.eccLogClear_keeps _ h
  · cases e
    exact State.dmaAbortAsked_keeps _ _ h
  · cases e
    exact State.powerRequest_keeps _ h
  · cases e
    exact State.resetCauseClear_keeps _ h
  · cases e
    exact State.resetRequest_keeps _ h
  · cases e
    exact State.domainReset_keeps _ h
  · cases e
    exact State.hkTrust_keeps _ h
  · cases e
    exact State.faultLogClear_keeps _ h
  · cases e
    exact State.pathFaultClear_keeps _ h
  · cases e
    exact State.leaseRevoke_keeps _ h
  · exact nomatch e

theorem State.writeScalar_keeps {s0 s : State} (index sub v : Nat) (h : Keeps s0 s) : KeepsR s0 (s.writeScalar index sub v) := by
  unfold State.writeScalar
  cases e : s.scalarAct index sub v with
  | none => exact State.wr_keeps _ _ _ h
  | some r => exact State.scalarAct_keeps index sub v h e

theorem State.thenDemand_keeps {s0 : State} {r : Res} (h : KeepsR s0 r) : KeepsR s0 (State.thenDemand r) :=
  keepsR_map (fun _ ht => State.govDemand_keeps ht) h

theorem State.writeDomain_keeps {s0 : State} {s : State} (index : ℕ) (sub : ℕ) (port : ℕ) (l : List Byte) (h : Keeps s0 s) :
    KeepsR s0 (State.writeDomain s index sub port l) := by
  unfold State.writeDomain
  split
  · refine State.weightJobSubmit_keeps _ ?_
    with_reducible assumption
  · refine State.thenDemand_keeps ?_
    refine State.cancelTrain_keeps _ ?_
    with_reducible assumption
  · refine State.kernelLoad_keeps _ ?_
    with_reducible assumption
  · refine State.jobSubmit_keeps _ ?_
    with_reducible assumption
  · refine State.thenDemand_keeps ?_
    refine State.speTxSend_keeps _ ?_
    with_reducible assumption
  · refine State.thenDemand_keeps ?_
    refine State.calRun_keeps _ ?_
    with_reducible assumption
  · refine State.dmaStart_keeps _ ?_
    with_reducible assumption
  · refine State.bootImageLoad_keeps _ _ ?_
    with_reducible assumption
  · refine State.keyRevoke_keeps _ ?_
    with_reducible assumption
  · refine State.attestRequest_keeps _ ?_
    with_reducible assumption
  · refine State.identitySign_keeps _ ?_
    with_reducible assumption
  · refine keepsR_ok ?_
    refine State.setDom_keeps _ _ _ ?_
    with_reducible assumption

end Sys2Proof.Machine
end

