-- ==== Sys2Proof/Laws/KeepsServe.lean ====
section
/-! SUPPORT. Every operation of Machine/Serve.lean keeps the relation of Laws/Keeps.lean. -/
namespace Sys2Proof.Machine

theorem State.done_keeps {s0 : State} {s : State} (h : Keeps s0 s) :
    KeepsS s0 (State.done s) := by
  unfold State.done
  refine keepsS_answer ?_
  with_reducible assumption

theorem State.respond_keeps {s0 : State} {s : State} (x : Response) (h : Keeps s0 s) :
    Keeps s0 (State.respond s x) := by
  unfold State.respond
  extract_lets +onlyGivenNames x3
  have h3 : Keeps s0 x3
  · unfold x3
    refine State.bump_keeps _ _ ?_
    with_reducible assumption
  clear_value x3
  refine ite_ind ?_ ?_
  · refine State.sendNow_keeps _ _ _ _ ?_
    with_reducible assumption
  · refine keeps_mk ?_ rfl rfl rfl rfl rfl rfl rfl
    with_reducible assumption

theorem State.recordAbort_keeps {s0 : State} {s : State} (r : Request) (a : Abort) (h : Keeps s0 s) :
    Keeps s0 (State.recordAbort s r a) := by
  unfold State.recordAbort
  extract_lets +onlyGivenNames x0
  have h0 : Keeps s0 x0
  · unfold x0
    refine State.wr_keeps _ _ _ ?_
    refine State.bump_keeps _ _ ?_
    with_reducible assumption
  clear_value x0
  extract_lets +onlyGivenNames x0
  have h0 : Keeps s0 x0
  · unfold x0
    refine State.wr_keeps _ _ _ ?_
    refine State.wr_keeps _ _ _ ?_
    refine State.wr_keeps _ _ _ ?_
    with_reducible assumption
  clear_value x0
  refine State.wr_keeps _ _ _ ?_
  refine State.wrEpoch_keeps _ _ _ ?_
  refine State.wr_keeps _ _ _ ?_
  with_reducible assumption

theorem State.abandonTransfer_keeps {s0 s : State} (index sub reason : Nat) (h : Keeps s0 s) :
    Keeps s0 (s.abandonTransfer index sub reason) := by
  unfold State.abandonTransfer
  refine State.raise_keeps _ _ _ (keeps_fields h rfl (fun i => ?_) (Fuses.Kept.refl _))
  exact ⟨i.mem, i.queue, i.log, i.ecc, le_trans (List.length_filter_le _ _) i.transfers, i.one.filter _, i.openSet, i.openBytes⟩

theorem State.refuse_keeps {s0 : State} {s : State} (r : Request) (dup : Bool) (a : Abort) (h : Keeps s0 s) :
    Keeps s0 (State.refuse s r dup a) := by
  unfold State.refuse
  extract_lets +onlyGivenNames x0
  have h0 : Keeps s0 x0
  · unfold x0
    refine keeps_mk ?_ rfl rfl rfl rfl rfl rfl rfl
    with_reducible assumption
  extract_lets +onlyGivenNames x3
  have h3 : Keeps s0 x3
  · unfold x3
    refine ite_ind ?_ ?_
    · refine State.abandonTransfer_keeps _ _ _ ?_
      with_reducible assumption
    · with_reducible assumption
  clear_value x3
  extract_lets +onlyGivenNames x0
  have h0 : Keeps s0 x0
  · unfold x0
    refine State.recordAbort_keeps _ _ ?_
    with_reducible assumption
  clear_value x0
  refine State.respond_keeps _ ?_
  with_reducible assumption

theorem State.askDomain_keeps {s0 : State} {s : State} (d : Option ℕ) (h : Keeps s0 s) :
    Keeps s0 (State.askDomain s d).2 := by
  unfold State.askDomain
  split
  · with_reducible assumption
  · extract_lets +onlyGivenNames x0
    have h0 : Keeps s0 x0.2
    · unfold x0
      refine State.needDomain_keeps _ ?_
      with_reducible assumption
    clear_value x0
    split
    · with_reducible assumption
    · split
      · with_reducible assumption
      · with_reducible assumption

theorem State.readDomain_keeps {s0 s : State} (r : Request) (h : Keeps s0 s) : KeepsS s0 (s.readDomain r) := by
  unfold State.readDomain
  refine ite_ind h ?_
  dsimp only
  refine ite_ind h ?_
  have ha := State.askDomain_keeps (if r.length = 0 then none else readDomainCode r.index) h
  split
  · rename_i e; rw [e] at ha; exact ha
  · rename_i e; rw [e] at ha; exact ha
  · rename_i t e
    rw [e] at ha
    have hs : Keeps s0 (match t.domRegion r.index with
        | some a => if r.length = 0 then t else t.settle (a + r.offset) r.length
        | none => t) := by
      split
      · exact ite_ind ha (State.settle_keeps _ _ ha)
      · exact ha
    split
    · exact State.consumePoison_keeps _ hs
    · exact hs

theorem State.opRead_keeps {s0 : State} {s : State} (r : Request) (e : Entry) (h : Keeps s0 s) :
    KeepsS s0 (State.opRead s r e) := by
  unfold State.opRead
  refine ite_ind ?_ ?_
  · refine State.readDomain_keeps _ ?_
    with_reducible assumption
  · refine keepsS_answer ?_
    with_reducible assumption

theorem State.opReadStaged_keeps {s0 : State} {s : State} (r : Request) (e : Entry) (h : Keeps s0 s) :
    KeepsS s0 (State.opReadStaged s r e) := by
  unfold State.opReadStaged
  split
  · refine keepsS_abort ?_
    with_reducible assumption
  · split
    · refine keepsS_answer ?_
      with_reducible assumption
    · refine ite_ind ?_ ?_
      · refine keepsS_abort ?_
        with_reducible assumption
      · split
        · refine keepsS_abort ?_
          with_reducible assumption
        · refine keepsS_answer ?_
          with_reducible assumption

theorem State.opSnapshot_keeps {s0 : State} {s : State} (r : Request) (h : Keeps s0 s) :
    KeepsS s0 (State.opSnapshot s r) := by
  unfold State.opSnapshot
  extract_lets +onlyGivenNames x1
  clear_value x1
  refine ite_ind ?_ ?_
  · refine keepsS_abort ?_
    with_reducible assumption
  · refine keepsS_answer ?_
    with_reducible assumption

theorem State.stage_keeps {s0 s : State} (it : StagedItem) (h : Keeps s0 s) : KeepsR s0 (s.stage it) := by
  unfold State.stage
  dsimp only
  split
  · exact keepsR_error
  · rename_i hc
    refine keepsR_ok (keeps_fields h rfl (fun i => ?_) (Fuses.Kept.refl _))
    have hc' := not_or.1 hc
    exact ⟨i.mem, i.queue, i.log, i.ecc, i.transfers, i.one, Nat.le_of_not_lt hc'.1, Nat.le_of_not_lt hc'.2⟩

theorem State.acting_keeps {s0 s : State} (d : Option Nat) (f : State → Res) (hf : ∀ t, Keeps s0 t → KeepsR s0 (f t)) (h : Keeps s0 s) :
    KeepsS s0 (s.acting d f) := by
  have ha : Keeps s0 (s.askDomain d).2 := State.askDomain_keeps d h
  unfold State.acting
  split
  · split
    · exact h
    · split
      · rename_i e; rw [e] at ha; exact ha
      · rename_i e; rw [e] at ha; exact ha
      · rename_i e; rw [e] at ha
        have := hf _ ha
        split
        · exact ha
        · rename_i e2; rw [e2] at this; exact this
  · split
    · rename_i e; rw [e] at ha; exact ha
    · rename_i e; rw [e] at ha; exact ha
    · rename_i e; rw [e] at ha
      have := hf _ ha
      split
      · exact ha
      · rename_i e2; rw [e2] at this; exact this

theorem State.opScalar_keeps {s0 : State} {s : State} (r : Request) (e : Entry) (h : Keeps s0 s) :
    KeepsS s0 (State.opScalar s r e) := by
  unfold State.opScalar
  refine ite_ind ?_ ?_
  · refine keepsS_abort ?_
    with_reducible assumption
  · refine ite_ind ?_ ?_
    · refine keepsS_abort ?_
      with_reducible assumption
    · extract_lets +onlyGivenNames x0
      clear_value x0
      refine ite_ind ?_ ?_
      · refine keepsS_abort ?_
        with_reducible assumption
      · refine ite_ind ?_ ?_
        · split
          · refine keepsS_abort ?_
            with_reducible assumption
          · refine State.done_keeps ?_
            refine keepsR_of ?_ (by assumption)
            refine State.stage_keeps _ ?_
            with_reducible assumption
        · refine ite_ind ?_ ?_
          · refine keepsS_abort ?_
            with_reducible assumption
          · refine ite_ind ?_ ?_
            · refine State.done_keeps ?_
              with_reducible assumption
            · refine State.acting_keeps _ _ ?_ ?_
              · intro a4 h5
                refine State.writeScalar_keeps _ _ _ ?_
                with_reducible assumption
              · with_reducible assumption

theorem State.dropTransfer_keeps {s0 s : State} (index sub : Nat) (h : Keeps s0 s) : Keeps s0 (s.dropTransfer index sub) := by
  unfold State.dropTransfer
  refine keeps_fields h rfl (fun i => ?_) (Fuses.Kept.refl _)
  exact ⟨i.mem, i.queue, i.log, i.ecc, le_trans (List.length_filter_le _ _) i.transfers, i.one.filter _, i.openSet, i.openBytes⟩

theorem State.newFirst_keeps {s0 : State} {s : State} (r : Request) (h : Keeps s0 s) :
    Keeps s0 (State.newFirst s r) := by
  unfold State.newFirst
  refine ite_ind ?_ ?_
  · refine State.abandonTransfer_keeps _ _ _ ?_
    with_reducible assumption
  · with_reducible assumption

theorem State.wholeValue_keeps {s0 : State} {s : State} (r : Request) (l : List Byte) (h : Keeps s0 s) :
    KeepsS s0 (State.wholeValue s r l) := by
  unfold State.wholeValue
  split
  · refine keepsS_abort ?_
    with_reducible assumption
  · extract_lets +onlyGivenNames x0
    refine ite_ind ?_ ?_
    · split
      · refine keepsS_abort ?_
        with_reducible assumption
      · refine State.done_keeps ?_
        unfold x0
        refine State.dropTransfer_keeps _ _ ?_
        refine State.newFirst_keeps _ ?_
        refine keepsR_of ?_ (by assumption)
        refine State.stage_keeps _ ?_
        with_reducible assumption
    · refine State.acting_keeps _ _ ?_ ?_
      · intro a0 h1
        refine keepsR_map ?_ ?_
        · intro a2 h3
          unfold x0
          refine State.dropTransfer_keeps _ _ ?_
          refine State.newFirst_keeps _ ?_
          with_reducible assumption
        · refine State.writeDomain_keeps _ _ _ _ ?_
          with_reducible assumption
      · with_reducible assumption

theorem transfers_drop {l : List DomainTransfer} {index sub : Nat} (h : (l.find? (fun t => t.index == index && t.sub == sub)).isSome) :
    (l.filter (fun t => !(t.index == index && t.sub == sub))).length < l.length := by
  obtain ⟨t, ht⟩ := Option.isSome_iff_exists.1 h
  have h1 := List.mem_of_find?_eq_some ht
  have h2 := List.find?_some ht
  exact length_filter_lt h1 (by simp only [h2, Bool.not_true])

theorem State.keepSegment_keeps {s0 s : State} (r : Request) (total : Nat) (got : List Byte)
    (hr : (s.transferOf r.index r.sub).isSome = true ∨ s.host.transfers.length < 4) (h : Keeps s0 s) :
    KeepsS s0 (s.keepSegment r total got) := by
  have hn : Keeps s0 ((s.newFirst r).dropTransfer r.index r.sub) :=
    State.dropTransfer_keeps _ _ (by unfold State.newFirst; exact ite_ind (State.abandonTransfer_keeps _ _ _ h) h)
  have hl : s.host.transfers.length ≤ 4 → ((s.newFirst r).dropTransfer r.index r.sub).host.transfers.length < 4 := by
    intro h4
    have e : (s.newFirst r).host.transfers = s.host.transfers
        ∨ (s.newFirst r).host.transfers = s.host.transfers.filter (fun t => !(t.index == r.index && t.sub == r.sub)) := by
      unfold State.newFirst
      split
      · right; simp [State.abandonTransfer]
      · left; rfl
    have hf : (s.host.transfers.filter (fun t => !(t.index == r.index && t.sub == r.sub))).length < 4 := by
      rcases hr with hr | hr
      · exact lt_of_lt_of_le (transfers_drop hr) h4
      · exact lt_of_le_of_lt (List.length_filter_le _ _) hr
    have : ((s.newFirst r).dropTransfer r.index r.sub).host.transfers
        = s.host.transfers.filter (fun t => !(t.index == r.index && t.sub == r.sub)) := by
      simp only [State.dropTransfer]
      rcases e with e | e
      · rw [e]
      · rw [e, List.filter_filter]; simp
    rw [this]; exact hf
  unfold State.keepSegment State.done
  dsimp only
  refine keepsS_answer ⟨hn.pending, fun i => ?_, hn.fuse⟩
  have j := hn.inv i
  have i4 : s.host.transfers.length ≤ 4 := (h.inv i).transfers
  refine ⟨j.mem, j.queue, j.log, j.ecc, ?_, ?_, j.openSet, j.openBytes⟩
  · have := hl i4
    simp; omega
  · refine List.pairwise_append.2 ⟨j.one, by simp, ?_⟩
    intro a ha b hb
    simp only [List.mem_singleton] at hb
    subst hb
    simp only [State.dropTransfer] at ha
    have := (List.mem_filter.1 ha).2
    rintro ⟨e1, e2⟩
    simp [e1, e2] at this

theorem State.opSegment_keeps {s0 s : State} (r : Request) (h : Keeps s0 s) : KeepsS s0 (s.opSegment r) := by
  unfold State.opSegment
  split
  · split
    · exact h
    · rename_i e
      refine ite_ind (State.wholeValue_keeps _ _ h) (State.keepSegment_keeps _ _ _ ?_ h)
      unfold State.firstFault at e
      dsimp only at e
      split at e
      · exact nomatch e
      · rename_i hc
        by_cases hs : (s.transferOf r.index r.sub).isSome = true
        · exact .inl hs
        · right
          by_contra h4
          exact hc ⟨by simpa using hs, by omega⟩
  · split
    · exact h
    · rename_i t e
      split
      · exact h
      · exact ite_ind (State.wholeValue_keeps _ _ h) (State.keepSegment_keeps _ _ _ (.inl (by rw [e]; rfl)) h)

theorem State.jobTarget_keeps {s0 : State} {r : Request} {x : Served} (h : KeepsS s0 x) : KeepsS s0 (State.jobTarget r x) := by
  unfold State.jobTarget
  split
  · split
    · split
      · repeat' split
        all_goals exact h
      · exact h
    · exact h
  · exact h

theorem State.afterSeal_keeps {s0 : State} {s : State} (c : SealedCommit) (h : Keeps s0 s) :
    Keeps s0 (State.afterSeal s c) := by
  unfold State.afterSeal
  extract_lets +onlyGivenNames x6
  have h6 : Keeps s0 x6
  · unfold x6
    refine State.viewAt_keeps _ ?_
    with_reducible assumption
  clear_value x6
  extract_lets +onlyGivenNames x7
  clear_value x7
  extract_lets +onlyGivenNames x8
  extract_lets +onlyGivenNames x9
  have h9 : Keeps s0 x9
  · unfold x9
    refine ite_ind ?_ ?_
    · refine keeps_mk ?_ rfl rfl rfl rfl rfl rfl rfl
      with_reducible assumption
    · with_reducible assumption
  clear_value x9
  extract_lets +onlyGivenNames x10
  have h10 : Keeps s0 x10
  · unfold x10
    refine keeps_foldl ?_ ?_
    · intro a11 a12 h13
      split
      · refine ite_ind ?_ ?_
        · refine State.startSetLoad_keeps _ ?_
          with_reducible assumption
        · with_reducible assumption
      · with_reducible assumption
    · with_reducible assumption
  clear_value x10
  refine State.govDemand_keeps ?_
  with_reducible assumption

theorem State.opCommit_keeps {s0 : State} {s : State} (r : Request) (h : Keeps s0 s) :
    KeepsS s0 (State.opCommit s r) := by
  unfold State.opCommit
  refine ite_ind ?_ ?_
  · refine keepsS_abort ?_
    with_reducible assumption
  · refine ite_ind ?_ ?_
    · refine keepsS_abort ?_
      with_reducible assumption
    · refine ite_ind ?_ ?_
      · refine keepsS_abort ?_
        with_reducible assumption
      · extract_lets +onlyGivenNames x14
        clear_value x14
        extract_lets +onlyGivenNames x15
        clear_value x15
        extract_lets +onlyGivenNames x16
        clear_value x16
        refine ite_ind ?_ ?_
        · refine keepsS_abort ?_
          with_reducible assumption
        · extract_lets +onlyGivenNames x17
          clear_value x17
          refine ite_ind ?_ ?_
          · refine keepsS_abort ?_
            with_reducible assumption
          · extract_lets +onlyGivenNames x19
            clear_value x19
            split
            · refine keepsS_abort ?_
              with_reducible assumption
            · refine ite_ind ?_ ?_
              · refine keepsS_abort ?_
                with_reducible assumption
              · extract_lets +onlyGivenNames x20
                have h20 : Keeps s0 x20.2
                · unfold x20
                  split
                  · refine State.peerRefusal_keeps ?_
                    with_reducible assumption
                  · with_reducible assumption
                clear_value x20
                split
                · refine keepsS_abort ?_
                  with_reducible assumption
                · extract_lets +onlyGivenNames x21
                  have h21 : Keeps s0 x21
                  · unfold x21
                    refine State.sealCommit_keeps _ ?_
                    with_reducible assumption
                  clear_value x21
                  extract_lets +onlyGivenNames x22
                  extract_lets +onlyGivenNames x23
                  have h23 : Keeps s0 x23
                  · unfold x23
                    refine State.afterSeal_keeps _ ?_
                    refine keeps_noSet ?_
                    with_reducible assumption
                  clear_value x23
                  refine keepsS_answer ?_
                  with_reducible assumption

theorem State.opDiscard_keeps {s0 : State} {s : State} (r : Request) (h : Keeps s0 s) :
    KeepsS s0 (State.opDiscard s r) := by
  unfold State.opDiscard
  refine ite_ind ?_ ?_
  · refine keepsS_abort ?_
    with_reducible assumption
  · refine ite_ind ?_ ?_
    · refine keepsS_abort ?_
      with_reducible assumption
    · refine keepsS_answer ?_
      refine keeps_noSet ?_
      with_reducible assumption

theorem State.perform_keeps {s0 : State} {s : State} (r : Request) (h : Keeps s0 s) :
    KeepsS s0 (State.perform s r) := by
  unfold State.perform
  extract_lets +onlyGivenNames x18
  have h18 : Keeps s0 x18
  · unfold x18
    refine keeps_mk ?_ rfl rfl rfl rfl rfl rfl rfl
    with_reducible assumption
  clear_value x18
  split
  · refine keepsS_abort ?_
    with_reducible assumption
  · refine ite_ind ?_ ?_
    · refine State.opCommit_keeps _ ?_
      with_reducible assumption
    · refine ite_ind ?_ ?_
      · refine State.opDiscard_keeps _ ?_
        with_reducible assumption
      · refine ite_ind ?_ ?_
        · refine ite_ind ?_ ?_
          · refine keepsS_abort ?_
            with_reducible assumption
          · refine State.opSnapshot_keeps _ ?_
            with_reducible assumption
        · split
          · refine keepsS_abort ?_
            with_reducible assumption
          · refine ite_ind ?_ ?_
            · refine State.opRead_keeps _ _ ?_
              with_reducible assumption
            · refine ite_ind ?_ ?_
              · refine State.opReadStaged_keeps _ _ ?_
                with_reducible assumption
              · refine ite_ind ?_ ?_
                · refine State.jobTarget_keeps ?_
                  refine State.opSegment_keeps _ ?_
                  with_reducible assumption
                · refine State.opScalar_keeps _ _ ?_
                  with_reducible assumption

theorem State.imageRefused_keeps {s0 : State} {s : State} (r : Request) (a : Abort) (h : Keeps s0 s) :
    Keeps s0 (State.imageRefused s r a) := by
  unfold State.imageRefused
  refine ite_ind ?_ ?_
  · split
    · split
      · refine State.bootFail_keeps _ _ ?_
        with_reducible assumption
      · with_reducible assumption
    · split
      · refine State.bootFail_keeps _ _ ?_
        with_reducible assumption
      · with_reducible assumption
    · with_reducible assumption
  · with_reducible assumption

theorem State.performOne_keeps {s0 : State} {s : State} (r : Request) (h : Keeps s0 s) :
    Keeps s0 (State.performOne s r) := by
  unfold State.performOne
  split
  · refine State.respond_keeps _ ?_
    refine keepsS_of_answer ?_ (by assumption)
    refine State.perform_keeps _ ?_
    refine keeps_mk ?_ rfl rfl rfl rfl rfl rfl rfl
    with_reducible assumption
  · refine State.refuse_keeps _ _ _ ?_
    refine State.imageRefused_keeps _ _ ?_
    refine keepsS_of_abort ?_ (by assumption)
    refine State.perform_keeps _ ?_
    refine keeps_mk ?_ rfl rfl rfl rfl rfl rfl rfl
    with_reducible assumption
  · refine keeps_mk ?_ rfl rfl rfl rfl rfl rfl rfl
    refine keepsS_of_stalled ?_ (by assumption)
    refine State.perform_keeps _ ?_
    refine keeps_mk ?_ rfl rfl rfl rfl rfl rfl rfl
    with_reducible assumption

theorem State.pumpFuel_keeps {s0 s : State} (n : Nat) (h : Keeps s0 s) : Keeps s0 (State.pumpFuel n s) := by
  induction n generalizing s with
  | zero => exact h
  | succ n ih =>
    unfold State.pumpFuel
    split
    · rename_i r _
      have := State.performOne_keeps r h
      dsimp only
      exact ite_ind this (ih this)
    · split
      · exact h
      · rename_i r t e
        have ht : Keeps s0 t := by
          unfold State.takeRequest at e
          split at e
          · exact nomatch e
          · cases e
            exact keeps_mk h rfl rfl rfl rfl rfl rfl rfl
        exact ih (keeps_mk ht rfl rfl rfl rfl rfl rfl rfl)

theorem State.pump_keeps {s0 : State} {s : State} (h : Keeps s0 s) :
    Keeps s0 (State.pump s) := by
  unfold State.pump
  refine State.pumpFuel_keeps _ ?_
  with_reducible assumption

theorem State.noteMaster_keeps {s0 : State} {s : State} (port : ℕ) (h : Keeps s0 s) :
    Keeps s0 (State.noteMaster s port) := by
  unfold State.noteMaster
  extract_lets +onlyGivenNames x24
  have h24 : Keeps s0 x24
  · unfold x24
    refine State.wrBit_keeps _ _ _ _ ?_
    with_reducible assumption
  clear_value x24
  extract_lets +onlyGivenNames x25
  clear_value x25
  extract_lets +onlyGivenNames x26
  extract_lets +onlyGivenNames x27
  extract_lets +onlyGivenNames x28
  have h28 : Keeps s0 x28
  · unfold x28
    refine keeps_mk ?_ rfl rfl rfl rfl rfl rfl rfl
    with_reducible assumption
  clear_value x28
  refine ite_ind ?_ ?_
  · refine State.raise_keeps _ _ _ ?_
    with_reducible assumption
  · with_reducible assumption

theorem State.forward_keeps {s0 : State} {s : State} (r : Request) (h : Keeps s0 s) :
    Keeps s0 (State.forward s r) := by
  unfold State.forward
  refine State.sendNow_keeps _ _ _ _ ?_
  refine keeps_mk ?_ rfl rfl rfl rfl rfl rfl rfl
  with_reducible assumption

theorem State.arrive_keeps {s0 : State} {s : State} (r : Request) (h : Keeps s0 s) :
    Keeps s0 (State.arrive s r) := by
  unfold State.arrive
  refine ite_ind ?_ ?_
  · with_reducible assumption
  · extract_lets +onlyGivenNames x29
    have h29 : Keeps s0 x29
    · unfold x29
      refine State.noteMaster_keeps _ ?_
      with_reducible assumption
    clear_value x29
    refine ite_ind ?_ ?_
    · refine State.refuse_keeps _ _ _ ?_
      with_reducible assumption
    · refine ite_ind ?_ ?_
      · refine State.refuse_keeps _ _ _ ?_
        with_reducible assumption
      · refine ite_ind ?_ ?_
        · refine State.forward_keeps _ ?_
          with_reducible assumption
        · refine State.pump_keeps ?_
          refine keeps_mk ?_ rfl rfl rfl rfl rfl rfl rfl
          with_reducible assumption

theorem State.transferTimeout_keeps {s0 : State} {s : State} (index : ℕ) (sub : ℕ) (h : Keeps s0 s) :
    Keeps s0 (State.transferTimeout s index sub) := by
  unfold State.transferTimeout
  split
  · refine ite_ind ?_ ?_
    · refine State.abandonTransfer_keeps _ _ _ ?_
      with_reducible assumption
    · with_reducible assumption
  · with_reducible assumption

theorem State.forwardTimeout_keeps {s0 : State} {s : State} (tag : ℕ) (h : Keeps s0 s) :
    Keeps s0 (State.forwardTimeout s tag) := by
  unfold State.forwardTimeout
  split
  · refine ite_ind ?_ ?_
    · refine State.refuse_keeps _ _ _ ?_
      refine keeps_mk ?_ rfl rfl rfl rfl rfl rfl rfl
      with_reducible assumption
    · with_reducible assumption
  · with_reducible assumption

theorem State.spiBegin_keeps {s0 : State} {s : State} (out : List Byte) (h : Keeps s0 s) :
    Keeps s0 (State.spiBegin s out) := by
  unfold State.spiBegin
  refine keeps_mk ?_ rfl rfl rfl rfl rfl rfl rfl
  with_reducible assumption

theorem State.spiStatusOnly_keeps {s0 : State} {s : State} (h : Keeps s0 s) :
    Keeps s0 (State.spiStatusOnly s) := by
  unfold State.spiStatusOnly
  refine ite_ind ?_ ?_
  · refine State.spiBegin_keeps _ ?_
    with_reducible assumption
  · with_reducible assumption

theorem State.spiError_keeps {s0 : State} {s : State} (h : Keeps s0 s) :
    Keeps s0 (State.spiError s) := by
  unfold State.spiError
  refine ite_ind ?_ ?_
  · refine State.bump_keeps _ _ ?_
    refine State.spiBegin_keeps _ ?_
    with_reducible assumption
  · with_reducible assumption

theorem State.spiRequest_keeps {s0 : State} {s : State} (l : List Byte) (h : Keeps s0 s) :
    Keeps s0 (State.spiRequest s l) := by
  unfold State.spiRequest
  refine ite_ind ?_ ?_
  · with_reducible assumption
  · extract_lets +onlyGivenNames x30
    have h30 : Keeps s0 x30
    · unfold x30
      refine State.spiBegin_keeps _ ?_
      with_reducible assumption
    clear_value x30
    refine ite_ind ?_ ?_
    · refine State.bump_keeps _ _ ?_
      with_reducible assumption
    · refine State.arrive_keeps _ ?_
      with_reducible assumption

theorem State.spiResponse_keeps {s0 : State} {s : State} (clocked : ℕ) (h : Keeps s0 s) :
    Keeps s0 (State.spiResponse s clocked) := by
  unfold State.spiResponse
  refine ite_ind ?_ ?_
  · with_reducible assumption
  · split
    · refine State.spiBegin_keeps _ ?_
      with_reducible assumption
    · extract_lets +onlyGivenNames x31
      clear_value x31
      extract_lets +onlyGivenNames x32
      have h32 : Keeps s0 x32
      · unfold x32
        refine State.spiBegin_keeps _ ?_
        with_reducible assumption
      clear_value x32
      refine ite_ind ?_ ?_
      · refine State.pump_keeps ?_
        refine keeps_mk ?_ rfl rfl rfl rfl rfl rfl rfl
        with_reducible assumption
      · with_reducible assumption

end Sys2Proof.Machine
end

