-- ==== Sys2Proof/Laws/KeepsBoot.lean ====
section
/-! SUPPORT. Every operation of Machine/Boot.lean keeps the relation of Laws/Keeps.lean. -/
namespace Sys2Proof.Machine

theorem State.bootPlace_keeps {s0 : State} {s : State} (h : Keeps s0 s) :
    Keeps s0 (State.bootPlace s) := by
  unfold State.bootPlace
  extract_lets +onlyGivenNames x0
  clear_value x0
  extract_lets +onlyGivenNames x0
  clear_value x0
  extract_lets +onlyGivenNames x1
  have h1 : Keeps s0 x1
  · unfold x1
    refine State.ownBytes_keeps _ _ ?_
    with_reducible assumption
  clear_value x1
  extract_lets +onlyGivenNames x1
  have h1 : Keeps s0 x1
  · unfold x1
    refine keeps_foldl ?_ ?_
    · intro a0 a1 h2
      refine State.placeKernel_keeps _ _ ?_
      with_reducible assumption
    · with_reducible assumption
  clear_value x1
  extract_lets +onlyGivenNames x0
  clear_value x0
  refine keeps_mk ?_ rfl rfl rfl rfl rfl rfl rfl
  with_reducible assumption

theorem State.profileAbort_keeps {s0 : State} {s : State} (r : Request) (a : Abort) (h : Keeps s0 s) :
    Keeps s0 (State.profileAbort s r a) := by
  unfold State.profileAbort
  extract_lets +onlyGivenNames x2
  have h2 : Keeps s0 x2
  · unfold x2
    refine keeps_mk ?_ rfl rfl rfl rfl rfl rfl rfl
    with_reducible assumption
  clear_value x2
  extract_lets +onlyGivenNames x4
  have h4 : Keeps s0 x4
  · unfold x4
    refine State.recordAbort_keeps _ _ ?_
    with_reducible assumption
  clear_value x4
  refine State.raise_keeps _ _ _ ?_
  with_reducible assumption

theorem State.profileStep_keeps {s0 : State} {s : State} (at_ : ℕ) (h : Keeps s0 s) :
    Keeps s0 (State.profileStep s at_).2 := by
  unfold State.profileStep
  extract_lets +onlyGivenNames x0
  clear_value x0
  extract_lets +onlyGivenNames x2
  clear_value x2
  extract_lets +onlyGivenNames x2
  clear_value x2
  extract_lets +onlyGivenNames x6
  clear_value x6
  extract_lets +onlyGivenNames x8
  split
  · split
    · dsimp -zeta only
      refine keepsS_of_answer ?_ (by assumption)
      refine State.perform_keeps _ ?_
      refine keeps_mk ?_ rfl rfl rfl rfl rfl rfl rfl
      with_reducible assumption
    · dsimp -zeta only
      unfold x8
      refine keeps_mk ?_ rfl rfl rfl rfl rfl rfl rfl
      refine keepsS_of_answer ?_ (by assumption)
      refine State.perform_keeps _ ?_
      refine keeps_mk ?_ rfl rfl rfl rfl rfl rfl rfl
      with_reducible assumption
  · dsimp -zeta only
    unfold x8
    refine keeps_mk ?_ rfl rfl rfl rfl rfl rfl rfl
    refine State.profileAbort_keeps _ _ ?_
    refine keepsS_of_abort ?_ (by assumption)
    refine State.perform_keeps _ ?_
    refine keeps_mk ?_ rfl rfl rfl rfl rfl rfl rfl
    with_reducible assumption
  · dsimp -zeta only
    refine keeps_mk ?_ rfl rfl rfl rfl rfl rfl rfl
    refine keepsS_of_stalled ?_ (by assumption)
    refine State.perform_keeps _ ?_
    refine keeps_mk ?_ rfl rfl rfl rfl rfl rfl rfl
    with_reducible assumption

theorem State.profileRun_keeps {s0 s : State} (n : Nat) (h : Keeps s0 s) : Keeps s0 (State.profileRun n s).2 := by
  induction n generalizing s with
  | zero => exact h
  | succ n ih =>
    unfold State.profileRun
    split
    · exact h
    · split
      · exact h
      · dsimp only
        split
        · exact State.profileStep_keeps _ h
        · exact ih (State.profileStep_keeps _ h)

theorem State.bootEnds_keeps {s0 : State} {s : State} (h : Keeps s0 s) :
    Keeps s0 (State.bootEnds s) := by
  unfold State.bootEnds
  extract_lets +onlyGivenNames x1
  have h1 : Keeps s0 x1
  · unfold x1
    refine State.saveWaiting_keeps ?_
    refine State.examineBanks_keeps ?_
    with_reducible assumption
  clear_value x1
  extract_lets +onlyGivenNames x3
  clear_value x3
  extract_lets +onlyGivenNames x4
  extract_lets +onlyGivenNames x5
  have h5 : Keeps s0 x5
  · unfold x5
    refine State.wr_keeps _ _ _ ?_
    refine keeps_mk ?_ rfl rfl rfl rfl rfl rfl rfl
    with_reducible assumption
  clear_value x5
  refine State.raise_keeps _ _ _ ?_
  refine State.enterMode_keeps _ _ ?_
  with_reducible assumption

theorem State.bootContinue_keeps {s0 : State} {s : State} (h : Keeps s0 s) :
    Keeps s0 (State.bootContinue s) := by
  unfold State.bootContinue
  refine ite_ind ?_ ?_
  · with_reducible assumption
  · extract_lets +onlyGivenNames x7
    have h7 : Keeps s0 x7
    · unfold x7
      refine ite_ind ?_ ?_
      · refine State.bootPlace_keeps ?_
        with_reducible assumption
      · with_reducible assumption
    clear_value x7
    extract_lets +onlyGivenNames x9
    have h9 : Keeps s0 x9.2
    · unfold x9
      refine State.profileRun_keeps _ ?_
      with_reducible assumption
    clear_value x9
    refine ite_ind ?_ ?_
    · with_reducible assumption
    · refine State.bootEnds_keeps ?_
      with_reducible assumption

theorem State.resumeWaiting_keeps {s0 : State} {s : State} (h : Keeps s0 s) :
    Keeps s0 (State.resumeWaiting s) := by
  unfold State.resumeWaiting
  refine State.bootContinue_keeps ?_
  refine State.pump_keeps ?_
  with_reducible assumption

theorem State.take_keeps {s0 : State} {s : State} (r : Request) (h : Keeps s0 s) :
    Keeps s0 (State.take s r) := by
  unfold State.take
  refine State.bootContinue_keeps ?_
  refine State.arrive_keeps _ ?_
  with_reducible assumption

end Sys2Proof.Machine
end

