-- ==== Sys2Proof/Laws/KeepsArchive.lean ====
section
/-! SUPPORT. Every operation of Machine/Archive.lean keeps the relation of Laws/Keeps.lean. -/
namespace Sys2Proof.Machine

theorem State.memAnswer_keeps {s0 : State} {s : State} (port : ℕ) (status : ℕ) (payload : List Byte) (h : Keeps s0 s) :
    Keeps s0 (State.memAnswer s port status payload) := by
  unfold State.memAnswer
  extract_lets +onlyGivenNames x0
  have h0 : Keeps s0 x0
  · unfold x0
    refine State.bump_keeps _ _ ?_
    with_reducible assumption
  clear_value x0
  extract_lets +onlyGivenNames x2
  have h2 : Keeps s0 x2
  · unfold x2
    refine ite_ind ?_ ?_
    · with_reducible assumption
    · refine State.bump_keeps _ _ ?_
      with_reducible assumption
  clear_value x2
  refine State.sendNow_keeps _ _ _ _ ?_
  with_reducible assumption

theorem State.memParts_keeps {s0 s : State} (m : MemRequest) (part n off : Nat) (ended : Bool) (words : List WordRead) (h : Keeps s0 s) :
    Keeps s0 (State.memParts s m part n off ended words) := by
  induction n generalizing s off ended words with
  | zero => exact h
  | succ n ih =>
    unfold State.memParts
    exact ite_ind h (ih _ _ _ (State.memAnswer_keeps _ _ _ h))

theorem State.memRead_keeps {s0 : State} {s : State} (m : MemRequest) (h : Keeps s0 s) :
    Keeps s0 (State.memRead s m) := by
  unfold State.memRead
  extract_lets +onlyGivenNames x1
  have h1 : Keeps s0 x1.2
  · unfold x1
    refine State.readWords_keeps _ _ _ ?_
    with_reducible assumption
  clear_value x1
  extract_lets +onlyGivenNames x0
  clear_value x0
  extract_lets +onlyGivenNames x1
  have h1 : Keeps s0 x1
  · unfold x1
    refine keeps_foldl ?_ ?_
    · intro a2 a3 h4
      refine ite_ind ?_ ?_
      · refine State.consumePoison_keeps _ ?_
        with_reducible assumption
      · with_reducible assumption
    · with_reducible assumption
  clear_value x1
  refine State.memParts_keeps _ _ _ _ _ _ ?_
  with_reducible assumption

theorem State.memWrite_keeps {s0 : State} {s : State} (m : MemRequest) (h : Keeps s0 s) :
    Keeps s0 (State.memWrite s m) := by
  unfold State.memWrite
  extract_lets +onlyGivenNames x5
  clear_value x5
  extract_lets +onlyGivenNames x0
  have h0 : Keeps s0 x0.2
  · unfold x0
    refine State.writeWords_keeps _ _ _ ?_
    with_reducible assumption
  clear_value x0
  extract_lets +onlyGivenNames x0
  have h0 : Keeps s0 x0
  · unfold x0
    refine State.codeFaults_keeps ?_
    with_reducible assumption
  clear_value x0
  split
  · refine State.memAnswer_keeps _ _ _ ?_
    with_reducible assumption
  · refine State.memAnswer_keeps _ _ _ ?_
    with_reducible assumption

theorem State.memTry_keeps {s0 s : State} (m : MemRequest) (h : Keeps s0 s) : Keeps s0 (s.memTry m) := by
  unfold State.memTry
  dsimp only
  refine ite_ind (State.memAnswer_keeps _ _ _ h) ?_
  have hg := State.needDomains_keeps ((memWords m).filterMap accessDomain).eraseDups h
  refine ite_ind (keeps_mk hg rfl rfl rfl rfl rfl rfl rfl) ?_
  have hh : Keeps s0 (if m.write then ((s.needDomains ((memWords m).filterMap accessDomain).eraseDups).2.onSlowPath m.addr m.bytes,
      (s.needDomains ((memWords m).filterMap accessDomain).eraseDups).2)
      else (s.needDomains ((memWords m).filterMap accessDomain).eraseDups).2.slowHold m.addr m.bytes).2 := by
    split
    · exact hg
    · exact State.slowHold_keeps _ _ hg
  refine ite_ind (keeps_mk hh rfl rfl rfl rfl rfl rfl rfl) ?_
  exact ite_ind (State.memWrite_keeps _ hh) (State.memRead_keeps _ hh)

theorem State.memRetry_keeps {s0 : State} {s : State} (h : Keeps s0 s) :
    Keeps s0 (State.memRetry s) := by
  unfold State.memRetry
  refine keeps_foldl ?_ ?_
  · intro a0 a1 h2
    refine State.memTry_keeps _ ?_
    with_reducible assumption
  · refine keeps_mk ?_ rfl rfl rfl rfl rfl rfl rfl
    with_reducible assumption

theorem State.goOn_keeps {s0 : State} {s : State} (h : Keeps s0 s) :
    Keeps s0 (State.goOn s) := by
  unfold State.goOn
  refine State.resumeWaiting_keeps ?_
  refine State.memRetry_keeps ?_
  with_reducible assumption

theorem State.slowPathDone_keeps {s0 : State} {s : State} (page : ℕ) (h : Keeps s0 s) :
    Keeps s0 (State.slowPathDone s page) := by
  unfold State.slowPathDone
  refine ite_ind ?_ ?_
  · extract_lets +onlyGivenNames x0
    extract_lets +onlyGivenNames x1
    have h1 : Keeps s0 x1
    · unfold x1
      refine keeps_mk ?_ rfl rfl rfl rfl rfl rfl rfl
      with_reducible assumption
    clear_value x1
    refine State.goOn_keeps ?_
    refine State.decodePage_keeps _ ?_
    with_reducible assumption
  · with_reducible assumption

theorem State.mortarTimeout_keeps {s0 : State} {s : State} (a : MortarAccess) (h : Keeps s0 s) :
    Keeps s0 (State.mortarTimeout s a) := by
  unfold State.mortarTimeout
  split
  · split
    · split
      · refine ite_ind ?_ ?_
        · extract_lets +onlyGivenNames x7
          extract_lets +onlyGivenNames x8
          have h8 : Keeps s0 x8
          · unfold x8
            refine keeps_mk ?_ rfl rfl rfl rfl rfl rfl rfl
            with_reducible assumption
          clear_value x8
          refine ite_ind ?_ ?_
          · refine State.memAnswer_keeps _ _ _ ?_
            with_reducible assumption
          · refine State.memParts_keeps _ _ _ _ _ _ ?_
            with_reducible assumption
        · with_reducible assumption
      · with_reducible assumption
    · with_reducible assumption
  · split
    · split
      · refine ite_ind ?_ ?_
        · refine State.xferEnds_keeps _ _ _ _ ?_
          with_reducible assumption
        · with_reducible assumption
      · refine State.xferEnds_keeps _ _ _ _ ?_
        with_reducible assumption
    · with_reducible assumption
  · extract_lets +onlyGivenNames x12
    clear_value x12
    split
    · refine State.setChan_keeps _ _ ?_
      with_reducible assumption
    · with_reducible assumption
  · refine State.descriptorFetch_keeps _ _ ?_
    with_reducible assumption

theorem State.scrubOne_keeps {s0 : State} {s : State} (page : ℕ) (h : Keeps s0 s) :
    Keeps s0 (State.scrubOne s page) := by
  unfold State.scrubOne
  extract_lets +onlyGivenNames x2
  have h2 : Keeps s0 x2
  · unfold x2
    refine State.scrubRead_keeps _ ?_
    with_reducible assumption
  clear_value x2
  refine keeps_mk ?_ rfl rfl rfl rfl rfl rfl rfl
  with_reducible assumption

theorem State.scrubPass_keeps {s0 : State} {s : State} (h : Keeps s0 s) :
    Keeps s0 (State.scrubPass s) := by
  unfold State.scrubPass
  extract_lets +onlyGivenNames x3
  clear_value x3
  extract_lets +onlyGivenNames x4
  clear_value x4
  refine State.raise_keeps _ _ _ ?_
  refine State.bump_keeps _ _ ?_
  refine keeps_mk ?_ rfl rfl rfl rfl rfl rfl rfl
  with_reducible assumption

theorem State.scrubPage_keeps {s0 : State} {s : State} (h : Keeps s0 s) :
    Keeps s0 (State.scrubPage s) := by
  unfold State.scrubPage
  refine ite_ind ?_ ?_
  · with_reducible assumption
  · extract_lets +onlyGivenNames x5
    extract_lets +onlyGivenNames x6
    have h6 : Keeps s0 x6
    · unfold x6
      refine keeps_mk ?_ rfl rfl rfl rfl rfl rfl rfl
      with_reducible assumption
    extract_lets +onlyGivenNames x9
    extract_lets +onlyGivenNames x10
    extract_lets +onlyGivenNames x11
    have h11 : Keeps s0 x11
    · unfold x11
      refine keeps_mk ?_ rfl rfl rfl rfl rfl rfl rfl
      with_reducible assumption
    extract_lets +onlyGivenNames x13
    have h13 : Keeps s0 x13
    · unfold x13
      refine keeps_foldl ?_ ?_
      · intro a14 a15 h16
        refine State.scrubOne_keeps _ ?_
        with_reducible assumption
      · with_reducible assumption
    extract_lets +onlyGivenNames x17
    extract_lets +onlyGivenNames x18
    extract_lets +onlyGivenNames x19
    have h19 : Keeps s0 x19
    · unfold x19
      refine ite_ind ?_ ?_
      · refine keeps_mk ?_ rfl rfl rfl rfl rfl rfl rfl
        with_reducible assumption
      · refine State.scrubOne_keeps _ ?_
        with_reducible assumption
    clear_value x19
    refine ite_ind ?_ ?_
    · refine State.scrubPass_keeps ?_
      with_reducible assumption
    · refine keeps_mk ?_ rfl rfl rfl rfl rfl rfl rfl
      with_reducible assumption

end Sys2Proof.Machine
end

