-- ==== Sys2Proof/Laws/KeepsLinkPkt.lean ====
section
/-! SUPPORT. Every operation of Machine/LinkPkt.lean keeps the relation of Laws/Keeps.lean. -/
namespace Sys2Proof.Machine

theorem State.owe_keeps {s0 : State} {s : State} (p : ℕ) (c : ℕ) (n : ℕ) (h : Keeps s0 s) :
    Keeps s0 (State.owe s p c n) := by
  unfold State.owe
  refine ite_ind ?_ ?_
  · with_reducible assumption
  · extract_lets +onlyGivenNames x2
    clear_value x2
    refine State.setPort_keeps _ _ ?_
    with_reducible assumption

theorem State.noteSeq_keeps {s0 : State} {s : State} (p : ℕ) (seq : ℕ) (h : Keeps s0 s) :
    Keeps s0 (State.noteSeq s p seq) := by
  unfold State.noteSeq
  extract_lets +onlyGivenNames x0
  clear_value x0
  extract_lets +onlyGivenNames x1
  clear_value x1
  extract_lets +onlyGivenNames x0
  have h0 : Keeps s0 x0
  · unfold x0
    refine State.setPort_keeps _ _ ?_
    with_reducible assumption
  clear_value x0
  refine ite_ind ?_ ?_
  · with_reducible assumption
  · extract_lets +onlyGivenNames x0
    have h0 : Keeps s0 x0
    · unfold x0
      refine State.addCount_keeps _ _ _ ?_
      with_reducible assumption
    clear_value x0
    extract_lets +onlyGivenNames x1
    clear_value x1
    extract_lets +onlyGivenNames x0
    clear_value x0
    refine ite_ind ?_ ?_
    · refine State.raise_keeps _ _ _ ?_
      refine State.setPort_keeps _ _ ?_
      with_reducible assumption
    · refine State.setPort_keeps _ _ ?_
      with_reducible assumption

theorem State.lenDrop_keeps {s0 : State} {s : State} (p : ℕ) (typ : ℕ) (words : ℕ) (h : Keeps s0 s) :
    Keeps s0 (State.lenDrop s p typ words) := by
  unfold State.lenDrop
  extract_lets +onlyGivenNames x0
  have h0 : Keeps s0 x0
  · unfold x0
    refine State.owe_keeps _ _ _ ?_
    refine State.bump_keeps _ _ ?_
    with_reducible assumption
  clear_value x0
  extract_lets +onlyGivenNames x0
  clear_value x0
  extract_lets +onlyGivenNames x0
  clear_value x0
  refine ite_ind ?_ ?_
  · refine State.raise_keeps _ _ _ ?_
    refine State.setPort_keeps _ _ ?_
    with_reducible assumption
  · with_reducible assumption

theorem State.misroute_keeps {s0 : State} {s : State} (p : ℕ) (h : Keeps s0 s) :
    Keeps s0 (State.misroute s p) := by
  unfold State.misroute
  refine State.bump_keeps _ _ ?_
  with_reducible assumption

theorem State.passOn_keeps {s0 : State} {s : State} (out : ℕ) (k : OutPacket) (h : Keeps s0 s) :
    Keeps s0 (State.passOn s out k) := by
  unfold State.passOn
  refine ite_ind ?_ ?_
  · refine State.sendPacket_keeps _ _ ?_
    with_reducible assumption
  · with_reducible assumption

theorem State.echoReq_keeps {s0 : State} {s : State} (p : ℕ) (id : ℕ) (h : Keeps s0 s) :
    Keeps s0 (State.echoReq s p id) := by
  unfold State.echoReq
  extract_lets +onlyGivenNames x3
  clear_value x3
  extract_lets +onlyGivenNames x0
  have h0 : Keeps s0 x0
  · unfold x0
    refine State.setPort_keeps _ _ ?_
    with_reducible assumption
  clear_value x0
  refine State.sendNow_keeps _ _ _ _ ?_
  with_reducible assumption

theorem State.echoRsp_keeps {s0 : State} {s : State} (p : ℕ) (id : ℕ) (turn : ℕ) (h : Keeps s0 s) :
    Keeps s0 (State.echoRsp s p id turn) := by
  unfold State.echoRsp
  extract_lets +onlyGivenNames x0
  clear_value x0
  refine ite_ind ?_ ?_
  · extract_lets +onlyGivenNames x1
    clear_value x1
    extract_lets +onlyGivenNames x1
    clear_value x1
    extract_lets +onlyGivenNames x0
    clear_value x0
    extract_lets +onlyGivenNames x1
    have h1 : Keeps s0 x1
    · unfold x1
      refine State.setPort_keeps _ _ ?_
      with_reducible assumption
    clear_value x1
    extract_lets +onlyGivenNames x0
    have h0 : Keeps s0 x0
    · unfold x0
      refine State.wrI_keeps _ _ _ _ ?_
      with_reducible assumption
    clear_value x0
    refine ite_ind ?_ ?_
    · refine State.raise_keeps _ _ _ ?_
      with_reducible assumption
    · with_reducible assumption
  · with_reducible assumption

theorem State.echoInterval_keeps {s0 : State} {s : State} (h : Keeps s0 s) :
    Keeps s0 (State.echoInterval s) := by
  unfold State.echoInterval
  extract_lets +onlyGivenNames x0
  clear_value x0
  refine ite_ind ?_ ?_
  · with_reducible assumption
  · refine ite_ind ?_ ?_
    · refine State.wrI_keeps _ _ _ _ ?_
      refine State.setPort_keeps _ _ ?_
      with_reducible assumption
    · extract_lets +onlyGivenNames x1
      clear_value x1
      extract_lets +onlyGivenNames x4
      clear_value x4
      extract_lets +onlyGivenNames x1
      clear_value x1
      extract_lets +onlyGivenNames x0
      have h0 : Keeps s0 x0
      · unfold x0
        refine State.setPort_keeps _ _ ?_
        with_reducible assumption
      clear_value x0
      extract_lets +onlyGivenNames x2
      have h2 : Keeps s0 x2
      · unfold x2
        refine ite_ind ?_ ?_
        · refine State.raise_keeps _ _ _ ?_
          with_reducible assumption
        · with_reducible assumption
      clear_value x2
      refine State.sendNow_keeps _ _ _ _ ?_
      with_reducible assumption

theorem State.frameIn_keeps {s0 : State} {s : State} (p : ℕ) (epoch : ℕ) (offset : ℕ) (h : Keeps s0 s) :
    Keeps s0 (State.frameIn s p epoch offset) := by
  unfold State.frameIn
  extract_lets +onlyGivenNames x2
  clear_value x2
  refine ite_ind ?_ ?_
  · extract_lets +onlyGivenNames x3
    clear_value x3
    refine State.timeRef_keeps _ _ _ ?_
    with_reducible assumption
  · with_reducible assumption

theorem State.frameMarker_keeps {s0 : State} {s : State} (h : Keeps s0 s) :
    Keeps s0 (State.frameMarker s) := by
  unfold State.frameMarker
  extract_lets +onlyGivenNames x0
  clear_value x0
  extract_lets +onlyGivenNames x0
  clear_value x0
  extract_lets +onlyGivenNames x1
  clear_value x1
  refine ite_ind ?_ ?_
  · extract_lets +onlyGivenNames x1
    clear_value x1
    refine State.sendPacket_keeps _ _ ?_
    refine keeps_mk ?_ rfl rfl rfl rfl rfl rfl rfl
    with_reducible assumption
  · with_reducible assumption

theorem State.keepReport_keeps {s0 : State} {s : State} (r : ReadyReport) (h : Keeps s0 s) :
    Keeps s0 (State.keepReport s r) := by
  unfold State.keepReport
  refine keeps_mk ?_ rfl rfl rfl rfl rfl rfl rfl
  with_reducible assumption

theorem State.readyIn_keeps {s0 : State} {s : State} (target : ℕ) (pos : ℕ) (ready : Bool) (k : OutPacket) (h : Keeps s0 s) :
    Keeps s0 (State.readyIn s target pos ready k) := by
  unfold State.readyIn
  refine ite_ind ?_ ?_
  · refine State.keepReport_keeps _ ?_
    with_reducible assumption
  · refine State.passOn_keeps _ _ ?_
    with_reducible assumption

theorem State.readyReport_keeps {s0 : State} {s : State} (h : Keeps s0 s) :
    Keeps s0 (State.readyReport s) := by
  unfold State.readyReport
  refine ite_ind ?_ ?_
  · with_reducible assumption
  · refine keeps_foldl ?_ ?_
    · intro a3 a5 h6
      extract_lets +onlyGivenNames x0
      clear_value x0
      extract_lets +onlyGivenNames x0
      clear_value x0
      refine ite_ind ?_ ?_
      · refine State.sendPacket_keeps _ _ ?_
        refine State.keepReport_keeps _ ?_
        with_reducible assumption
      · with_reducible assumption
    · with_reducible assumption

theorem State.applyDecision_keeps {s0 : State} {s : State} (original : ℕ) (go : Bool) (epoch : ℕ) (h : Keeps s0 s) :
    Keeps s0 (State.applyDecision s original go epoch) := by
  unfold State.applyDecision
  refine State.mapCommits_keeps _ _ ?_ ?_
  · intro a0 a1 h2
    split
    · with_reducible assumption
    · split
      · with_reducible assumption
      · dsimp -zeta only
        refine State.commitMissed_keeps _ _ ?_
        with_reducible assumption
  · with_reducible assumption

theorem State.decisionIn_keeps {s0 : State} {s : State} (original : ℕ) (go : Bool) (epoch : ℕ) (k : OutPacket) (h : Keeps s0 s) :
    Keeps s0 (State.decisionIn s original go epoch k) := by
  unfold State.decisionIn
  refine State.applyDecision_keeps _ _ _ ?_
  refine State.passOn_keeps _ _ ?_
  with_reducible assumption

theorem State.sendDecision_keeps {s0 : State} {s : State} (c : SealedCommit) (go : Bool) (epoch : ℕ) (h : Keeps s0 s) :
    Keeps s0 (State.sendDecision s c go epoch) := by
  unfold State.sendDecision
  refine State.applyDecision_keeps _ _ _ ?_
  refine State.passOn_keeps _ _ ?_
  with_reducible assumption

theorem State.judgeArray_keeps {s0 : State} {s : State} (c : SealedCommit) (h : Keeps s0 s) :
    Keeps s0 (State.judgeArray s c) := by
  unfold State.judgeArray
  extract_lets +onlyGivenNames x0
  clear_value x0
  extract_lets +onlyGivenNames x0
  have h0 : Keeps s0 x0
  · unfold x0
    refine ite_ind ?_ ?_
    · with_reducible assumption
    · refine State.keepReport_keeps _ ?_
      with_reducible assumption
  clear_value x0
  extract_lets +onlyGivenNames x3
  clear_value x3
  extract_lets +onlyGivenNames x6
  clear_value x6
  refine ite_ind ?_ ?_
  · refine ite_ind ?_ ?_
    · refine State.sendDecision_keeps _ _ _ ?_
      with_reducible assumption
    · with_reducible assumption
  · refine ite_ind ?_ ?_
    · extract_lets +onlyGivenNames x6
      clear_value x6
      extract_lets +onlyGivenNames x7
      clear_value x7
      extract_lets +onlyGivenNames x10
      clear_value x10
      refine ite_ind ?_ ?_
      · refine State.sendDecision_keeps _ _ _ ?_
        with_reducible assumption
      · with_reducible assumption
    · with_reducible assumption

theorem State.commitDecision_keeps {s0 : State} {s : State} (h : Keeps s0 s) :
    Keeps s0 (State.commitDecision s) := by
  unfold State.commitDecision
  refine ite_ind ?_ ?_
  · refine keeps_foldl ?_ ?_
    · intro a3 a0 h1
      refine State.judgeArray_keeps _ ?_
      with_reducible assumption
    · with_reducible assumption
  · with_reducible assumption

theorem State.noDecision_keeps {s0 : State} {s : State} (h : Keeps s0 s) :
    Keeps s0 (State.noDecision s) := by
  unfold State.noDecision
  extract_lets +onlyGivenNames x2
  clear_value x2
  refine ite_ind ?_ ?_
  · refine State.causeActive_keeps _ ?_
    refine State.mapCommits_keeps _ _ ?_ ?_
    · intro a0 a1 h2
      dsimp -zeta only
      refine State.commitMissed_keeps _ _ ?_
      with_reducible assumption
    · with_reducible assumption
  · with_reducible assumption

theorem State.judgeArrayCause_keeps {s0 : State} {s : State} (h : Keeps s0 s) :
    Keeps s0 (State.judgeArrayCause s) := by
  unfold State.judgeArrayCause
  refine ite_ind ?_ ?_
  · refine State.causeCleared_keeps _ ?_
    with_reducible assumption
  · with_reducible assumption

theorem State.credit_keeps {s0 : State} {s : State} (p : ℕ) (kind : ℕ) (c1 : ℕ) (c2 : ℕ) (c3 : ℕ) (h : Keeps s0 s) :
    Keeps s0 (State.credit s p kind c1 c2 c3) := by
  unfold State.credit
  refine State.sendPacket_keeps _ _ ?_
  with_reducible assumption

theorem State.creditReturn_keeps {s0 : State} {s : State} (p : ℕ) (u : CreditUnits) (h : Keeps s0 s) :
    Keeps s0 (State.creditReturn s p u) := by
  unfold State.creditReturn
  extract_lets +onlyGivenNames x3
  clear_value x3
  extract_lets +onlyGivenNames x4
  clear_value x4
  refine State.setPort_keeps _ _ ?_
  with_reducible assumption

theorem State.countResync_keeps {s0 : State} {s : State} (p : ℕ) (h : Keeps s0 s) :
    Keeps s0 (State.countResync s p) := by
  unfold State.countResync
  extract_lets +onlyGivenNames x5
  have h5 : Keeps s0 x5
  · unfold x5
    refine State.bump_keeps _ _ ?_
    with_reducible assumption
  clear_value x5
  refine State.raise_keeps _ _ _ ?_
  with_reducible assumption

theorem State.resyncReq_keeps {s0 : State} {s : State} (p : ℕ) (h : Keeps s0 s) :
    Keeps s0 (State.resyncReq s p) := by
  unfold State.resyncReq
  refine State.credit_keeps _ _ _ _ _ ?_
  refine State.setPort_keeps _ _ ?_
  with_reducible assumption

theorem State.resyncAck_keeps {s0 : State} {s : State} (p : ℕ) (h : Keeps s0 s) :
    Keeps s0 (State.resyncAck s p) := by
  unfold State.resyncAck
  extract_lets +onlyGivenNames x8
  clear_value x8
  extract_lets +onlyGivenNames x11
  have h11 : Keeps s0 x11
  · unfold x11
    refine State.setPort_keeps _ _ ?_
    with_reducible assumption
  clear_value x11
  refine State.credit_keeps _ _ _ _ _ ?_
  refine State.countResync_keeps _ ?_
  with_reducible assumption

theorem State.resyncDone_keeps {s0 : State} {s : State} (p : ℕ) (u : CreditUnits) (h : Keeps s0 s) :
    Keeps s0 (State.resyncDone s p u) := by
  unfold State.resyncDone
  extract_lets +onlyGivenNames x9
  clear_value x9
  refine State.countResync_keeps _ ?_
  refine State.setPort_keeps _ _ ?_
  with_reducible assumption

theorem State.resyncRetry_keeps {s0 : State} {s : State} (p : ℕ) (h : Keeps s0 s) :
    Keeps s0 (State.resyncRetry s p) := by
  unfold State.resyncRetry
  split
  · refine ite_ind ?_ ?_
    · refine State.askResync_keeps _ ?_
      with_reducible assumption
    · with_reducible assumption
  · with_reducible assumption

theorem State.creditReturnSend_keeps {s0 : State} {s : State} (p : ℕ) (h : Keeps s0 s) :
    Keeps s0 (State.creditReturnSend s p) := by
  unfold State.creditReturnSend
  extract_lets +onlyGivenNames x12
  clear_value x12
  refine ite_ind ?_ ?_
  · refine State.credit_keeps _ _ _ _ _ ?_
    refine State.setPort_keeps _ _ ?_
    with_reducible assumption
  · with_reducible assumption

theorem State.catReqIn_keeps {s0 : State} {s : State} (p : ℕ) (k : OutPacket) (h : Keeps s0 s) :
    Keeps s0 (State.catReqIn s p k) := by
  unfold State.catReqIn
  refine ite_ind ?_ ?_
  · refine State.misroute_keeps _ ?_
    with_reducible assumption
  · refine ite_ind ?_ ?_
    · refine State.take_keeps _ ?_
      with_reducible assumption
    · refine ite_ind ?_ ?_
      · refine State.take_keeps _ ?_
        with_reducible assumption
      · refine ite_ind ?_ ?_
        · refine State.passOn_keeps _ _ ?_
          with_reducible assumption
        · refine State.misroute_keeps _ ?_
          with_reducible assumption

theorem State.catRspIn_keeps {s0 : State} {s : State} (p : ℕ) (k : OutPacket) (h : Keeps s0 s) :
    Keeps s0 (State.catRspIn s p k) := by
  unfold State.catRspIn
  refine ite_ind ?_ ?_
  · refine State.misroute_keeps _ ?_
    with_reducible assumption
  · refine ite_ind ?_ ?_
    · refine State.passOn_keeps _ _ ?_
      with_reducible assumption
    · extract_lets +onlyGivenNames x14
      clear_value x14
      split
      · with_reducible assumption
      · extract_lets +onlyGivenNames x17
        extract_lets +onlyGivenNames x18
        have h18 : Keeps s0 x18
        · unfold x18
          refine keeps_mk ?_ rfl rfl rfl rfl rfl rfl rfl
          with_reducible assumption
        clear_value x18
        refine ite_ind ?_ ?_
        · refine State.pump_keeps ?_
          refine keeps_mk ?_ rfl rfl rfl rfl rfl rfl rfl
          with_reducible assumption
        · refine State.passOn_keeps _ _ ?_
          with_reducible assumption

theorem State.northIn_keeps {s0 : State} {s : State} (p : ℕ) (k : OutPacket) (h : Keeps s0 s) :
    Keeps s0 (State.northIn s p k) := by
  unfold State.northIn
  refine ite_ind ?_ ?_
  · refine State.passOn_keeps _ _ ?_
    with_reducible assumption
  · refine State.misroute_keeps _ ?_
    with_reducible assumption

theorem State.memIn_keeps {s0 : State} {s : State} (p : ℕ) (k : OutPacket) (h : Keeps s0 s) :
    Keeps s0 (State.memIn s p k) := by
  unfold State.memIn
  extract_lets +onlyGivenNames x13
  clear_value x13
  refine ite_ind ?_ ?_
  · refine ite_ind ?_ ?_
    · refine State.memTry_keeps _ ?_
      with_reducible assumption
    · refine ite_ind ?_ ?_
      · refine State.passOn_keeps _ _ ?_
        with_reducible assumption
      · refine State.misroute_keeps _ ?_
        with_reducible assumption
  · refine State.northIn_keeps _ _ ?_
    with_reducible assumption

theorem State.timeIn_keeps {s0 : State} {s : State} (p : ℕ) (e : ℕ) (k : OutPacket) (h : Keeps s0 s) :
    Keeps s0 (State.timeIn s p e k) := by
  unfold State.timeIn
  extract_lets +onlyGivenNames x15
  clear_value x15
  split
  · refine ite_ind ?_ ?_
    · refine State.frameIn_keeps _ _ _ ?_
      refine State.passOn_keeps _ _ ?_
      with_reducible assumption
    · refine State.misroute_keeps _ ?_
      with_reducible assumption
  · refine State.echoReq_keeps _ _ ?_
    with_reducible assumption
  · refine State.echoRsp_keeps _ _ _ ?_
    with_reducible assumption
  · refine ite_ind ?_ ?_
    · refine State.readyIn_keeps _ _ _ _ ?_
      with_reducible assumption
    · refine State.misroute_keeps _ ?_
      with_reducible assumption
  · refine ite_ind ?_ ?_
    · refine State.decisionIn_keeps _ _ _ _ ?_
      with_reducible assumption
    · refine State.misroute_keeps _ ?_
      with_reducible assumption
  · with_reducible assumption

theorem State.creditIn_keeps {s0 : State} {s : State} (p : ℕ) (k : OutPacket) (h : Keeps s0 s) :
    Keeps s0 (State.creditIn s p k) := by
  unfold State.creditIn
  extract_lets +onlyGivenNames x16
  clear_value x16
  split
  · refine State.creditReturn_keeps _ _ ?_
    with_reducible assumption
  · refine State.resyncReq_keeps _ ?_
    with_reducible assumption
  · refine State.resyncAck_keeps _ ?_
    with_reducible assumption
  · refine State.resyncDone_keeps _ _ ?_
    with_reducible assumption

theorem State.route_keeps {s0 : State} {s : State} (p : ℕ) (e : ℕ) (k : OutPacket) (h : Keeps s0 s) :
    Keeps s0 (State.route s p e k) := by
  unfold State.route
  split
  · refine ite_ind ?_ ?_
    · refine State.takeLayerDl_keeps _ _ ?_
      refine State.passOn_keeps _ _ ?_
      with_reducible assumption
    · refine State.misroute_keeps _ ?_
      with_reducible assumption
  · refine ite_ind ?_ ?_
    · refine State.takePartial_keeps _ _ _ _ ?_
      with_reducible assumption
    · refine State.misroute_keeps _ ?_
      with_reducible assumption
  · refine ite_ind ?_ ?_
    · refine State.takePartial_keeps _ _ _ _ ?_
      with_reducible assumption
    · refine State.misroute_keeps _ ?_
      with_reducible assumption
  · refine State.takeGram_keeps _ _ ?_
    with_reducible assumption
  · refine State.catReqIn_keeps _ _ ?_
    with_reducible assumption
  · refine State.catRspIn_keeps _ _ ?_
    with_reducible assumption
  · refine State.northIn_keeps _ _ ?_
    with_reducible assumption
  · refine State.timeIn_keeps _ _ _ ?_
    with_reducible assumption
  · refine State.memIn_keeps _ _ ?_
    with_reducible assumption
  · refine State.northIn_keeps _ _ ?_
    with_reducible assumption
  · refine State.creditIn_keeps _ _ ?_
    with_reducible assumption

theorem State.packetIn_keeps {s0 : State} {s : State} (p : ℕ) (seq : ℕ) (k : OutPacket) (h : Keeps s0 s) :
    Keeps s0 (State.packetIn s p seq k) := by
  unfold State.packetIn
  refine ite_ind ?_ ?_
  · with_reducible assumption
  · extract_lets +onlyGivenNames x19
    clear_value x19
    extract_lets +onlyGivenNames x21
    have h21 : Keeps s0 x21
    · unfold x21
      refine State.noteSeq_keeps _ _ ?_
      with_reducible assumption
    clear_value x21
    extract_lets +onlyGivenNames x23
    clear_value x23
    extract_lets +onlyGivenNames x25
    clear_value x25
    refine ite_ind ?_ ?_
    · refine State.bump_keeps _ _ ?_
      with_reducible assumption
    · refine ite_ind ?_ ?_
      · refine State.lenDrop_keeps _ _ _ ?_
        with_reducible assumption
      · refine ite_ind ?_ ?_
        · refine State.owe_keeps _ _ _ ?_
          refine State.bump_keeps _ _ ?_
          with_reducible assumption
        · extract_lets +onlyGivenNames x26
          have h26 : Keeps s0 x26
          · unfold x26
            refine State.owe_keeps _ _ _ ?_
            with_reducible assumption
          clear_value x26
          refine State.route_keeps _ _ _ ?_
          with_reducible assumption

theorem State.headIn_keeps {s0 : State} {s : State} (y2 : PacketHead) (typ : ℕ) (payload : List Byte) (h : Keeps s0 s) :
    Keeps s0 (State.headIn s y2 typ payload) := by
  unfold State.headIn
  refine State.packetIn_keeps _ _ _ ?_
  with_reducible assumption

theorem State.feed_keeps {s0 s : State} (n p : Nat) (h : Keeps s0 s) : Keeps s0 (State.feed n p s) := by
  induction n generalizing s with
  | zero => exact h
  | succ n ih =>
    unfold State.feed
    dsimp only
    split
    · exact h
    · refine ite_ind (ih (State.setPort_keeps _ _ h)) ?_
      refine ite_ind (State.loseWords_keeps _ (State.bump_keeps _ _ h)) ?_
      split
      · exact h
      · exact ite_ind h (ih (State.packetIn_keeps _ _ _ (State.setPort_keeps _ _ h)))

theorem State.dataBond_keeps {s0 : State} {s : State} (p : ℕ) (align : Bool) (words : List ℕ) (h : Keeps s0 s) :
    Keeps s0 (State.dataBond s p align words) := by
  unfold State.dataBond
  extract_lets +onlyGivenNames x20
  clear_value x20
  refine ite_ind ?_ ?_
  · with_reducible assumption
  · extract_lets +onlyGivenNames x22
    clear_value x22
    extract_lets +onlyGivenNames x24
    clear_value x24
    refine State.feed_keeps _ _ ?_
    refine State.setPort_keeps _ _ ?_
    with_reducible assumption

theorem State.controlIn_keeps {s0 : State} {s : State} (p : ℕ) (m : List Byte) (h : Keeps s0 s) :
    Keeps s0 (State.controlIn s p m) := by
  unfold State.controlIn
  refine ite_ind ?_ ?_
  · with_reducible assumption
  · split
    · refine State.lockIn_keeps _ _ _ _ ?_
      with_reducible assumption
    · refine State.capsIn_keeps _ _ ?_
      with_reducible assumption
    · refine State.chainIn_keeps _ _ ?_
      with_reducible assumption
    · with_reducible assumption

theorem State.bondIn_keeps {s0 : State} {s : State} (p : ℕ) (lanes : List LaneBits) (h : Keeps s0 s) :
    Keeps s0 (State.bondIn s p lanes) := by
  unfold State.bondIn
  extract_lets +onlyGivenNames x27
  have h27 : Keeps s0 x27.2
  · unfold x27
    refine State.receiveBond_keeps _ _ ?_
    with_reducible assumption
  clear_value x27
  split
  · with_reducible assumption
  · refine State.controlIn_keeps _ _ ?_
    with_reducible assumption
  · refine State.dataBond_keeps _ _ _ ?_
    with_reducible assumption

theorem State.noteStart_keeps {s0 : State} {s : State} (p : ℕ) (k : OutPacket) (h : Keeps s0 s) :
    Keeps s0 (State.noteStart s p k) := by
  unfold State.noteStart
  extract_lets +onlyGivenNames x28
  clear_value x28
  refine ite_ind ?_ ?_
  · with_reducible assumption
  · refine ite_ind ?_ ?_
    · refine State.setPort_keeps _ _ ?_
      with_reducible assumption
    · refine ite_ind ?_ ?_
      · refine State.setPort_keeps _ _ ?_
        with_reducible assumption
      · with_reducible assumption

theorem State.packetSend_keeps {s0 : State} {s : State} (p : ℕ) (h : Keeps s0 s) :
    Keeps s0 (State.packetSend s p) := by
  unfold State.packetSend
  refine ite_ind ?_ ?_
  · with_reducible assumption
  · extract_lets +onlyGivenNames x29
    clear_value x29
    extract_lets +onlyGivenNames x30
    extract_lets +onlyGivenNames x31
    have h31 : Keeps s0 x31
    · unfold x31
      refine keeps_mk ?_ rfl rfl rfl rfl rfl rfl rfl
      with_reducible assumption
    clear_value x31
    split
    · with_reducible assumption
    · extract_lets +onlyGivenNames x32
      extract_lets +onlyGivenNames x33
      have h33 : Keeps s0 x33
      · unfold x33
        refine keeps_mk ?_ rfl rfl rfl rfl rfl rfl rfl
        with_reducible assumption
      clear_value x33
      extract_lets +onlyGivenNames x34
      clear_value x34
      extract_lets +onlyGivenNames x35
      have h35 : Keeps s0 x35
      · unfold x35
        refine State.noteStart_keeps _ _ ?_
        with_reducible assumption
      clear_value x35
      extract_lets +onlyGivenNames x37
      clear_value x37
      extract_lets +onlyGivenNames x39
      clear_value x39
      extract_lets +onlyGivenNames x40
      clear_value x40
      refine State.setPort_keeps _ _ ?_
      with_reducible assumption

theorem State.alignForce_keeps {s0 : State} {s : State} (p : ℕ) (h : Keeps s0 s) :
    Keeps s0 (State.alignForce s p) := by
  unfold State.alignForce
  refine ite_ind ?_ ?_
  · refine State.setPort_keeps _ _ ?_
    with_reducible assumption
  · with_reducible assumption

theorem State.eventSend_keeps {s0 : State} {s : State} (h : Keeps s0 s) :
    Keeps s0 (State.eventSend s) := by
  unfold State.eventSend
  split
  · refine ite_ind ?_ ?_
    · refine State.dropEvents_keeps _ ?_
      refine State.sendNow_keeps _ _ _ _ ?_
      with_reducible assumption
    · with_reducible assumption
  · with_reducible assumption

theorem State.chunkFreed_keeps {s0 : State} {s : State} (p : ℕ) (chunk : ℕ) (h : Keeps s0 s) :
    Keeps s0 (State.chunkFreed s p chunk) := by
  unfold State.chunkFreed
  extract_lets +onlyGivenNames x36
  clear_value x36
  extract_lets +onlyGivenNames x38
  have h38 : Keeps s0 x38
  · unfold x38
    refine State.setPort_keeps _ _ ?_
    with_reducible assumption
  clear_value x38
  refine keeps_mk ?_ rfl rfl rfl rfl rfl rfl rfl
  with_reducible assumption

theorem State.captureSend_keeps {s0 : State} {s : State} (p : ℕ) (h : Keeps s0 s) :
    Keeps s0 (State.captureSend s p) := by
  unfold State.captureSend
  split
  · with_reducible assumption
  · refine ite_ind ?_ ?_
    · with_reducible assumption
    · extract_lets +onlyGivenNames x41
      clear_value x41
      extract_lets +onlyGivenNames x42
      clear_value x42
      extract_lets +onlyGivenNames x43
      have h43 : Keeps s0 x43
      · unfold x43
        refine State.settle_keeps _ _ ?_
        with_reducible assumption
      clear_value x43
      split
      · refine State.chunkFreed_keeps _ _ ?_
        refine State.sendNow_keeps _ _ _ _ ?_
        refine State.consumePoison_keeps _ ?_
        with_reducible assumption
      · extract_lets +onlyGivenNames x44
        clear_value x44
        refine State.chunkFreed_keeps _ _ ?_
        refine State.sendNow_keeps _ _ _ _ ?_
        with_reducible assumption

end Sys2Proof.Machine
end

