-- ==== Sys2Proof/Laws/KeepsTick.lean ====
section
/-! SUPPORT. Every operation of Machine/Tick.lean keeps the relation of Laws/Keeps.lean. -/
namespace Sys2Proof.Machine

theorem State.dcLoop_keeps {s0 : State} {s : State} (x : ℕ × ℤ × ℤ) (h : Keeps s0 s) :
    Keeps s0 (State.dcLoop s x) := by
  unfold State.dcLoop
  extract_lets +onlyGivenNames x1
  clear_value x1
  refine ite_ind ?_ ?_
  · with_reducible assumption
  · extract_lets +onlyGivenNames x0
    clear_value x0
    extract_lets +onlyGivenNames x2
    clear_value x2
    extract_lets +onlyGivenNames x1
    clear_value x1
    extract_lets +onlyGivenNames x2
    clear_value x2
    refine State.wr_keeps _ _ _ ?_
    refine State.setPath_keeps _ _ ?_
    with_reducible assumption

theorem State.beginEpoch_keeps {s0 : State} {s : State} (h : Keeps s0 s) :
    Keeps s0 (State.beginEpoch s) := by
  unfold State.beginEpoch
  extract_lets +onlyGivenNames x0
  clear_value x0
  refine keeps_mk ?_ rfl rfl rfl rfl rfl rfl rfl
  with_reducible assumption

theorem State.judgeAdc_keeps {s0 : State} {s : State} (x : TickInput) (p : ℕ) (h : Keeps s0 s) :
    Keeps s0 (State.judgeAdc s x p) := by
  unfold State.judgeAdc
  extract_lets +onlyGivenNames x1
  clear_value x1
  extract_lets +onlyGivenNames x3
  clear_value x3
  extract_lets +onlyGivenNames x0
  have h0 : Keeps s0 x0
  · unfold x0
    refine State.setPath_keeps _ _ ?_
    with_reducible assumption
  clear_value x0
  refine ite_ind ?_ ?_
  · refine State.detectFault_keeps _ _ ?_
    with_reducible assumption
  · with_reducible assumption

theorem State.measurePaths_keeps {s0 : State} {s : State} (x : TickInput) (e : ℕ) (h : Keeps s0 s) :
    Keeps s0 (State.measurePaths s x e) := by
  unfold State.measurePaths
  extract_lets +onlyGivenNames x0
  have h0 : Keeps s0 x0
  · unfold x0
    refine keeps_foldl ?_ ?_
    · intro a0 a1 h2
      refine State.agcMeasure_keeps _ _ _ _ ?_
      with_reducible assumption
    · with_reducible assumption
  clear_value x0
  extract_lets +onlyGivenNames x0
  have h0 : Keeps s0 x0
  · unfold x0
    refine keeps_foldl ?_ ?_
    · intro a0 a1 h2
      refine State.addCount_keeps _ _ _ ?_
      with_reducible assumption
    · with_reducible assumption
  clear_value x0
  refine keeps_foldl ?_ ?_
  · intro a0 a1 h2
    refine State.judgeAdc_keeps _ _ ?_
    with_reducible assumption
  · with_reducible assumption

theorem State.countLost_keeps {s0 : State} {s : State} (e : ℕ) (h : Keeps s0 s) :
    Keeps s0 (State.countLost s e) := by
  unfold State.countLost
  refine keeps_foldl ?_ ?_
  · intro a3 a4 h5
    refine ite_ind ?_ ?_
    · refine State.bump_keeps _ _ ?_
      with_reducible assumption
    · with_reducible assumption
  · with_reducible assumption

theorem State.uplinkEnds_keeps {s0 : State} {s : State} (x : TickInput) (e : ℕ) (h : Keeps s0 s) :
    Keeps s0 (State.uplinkEnds s x e) := by
  unfold State.uplinkEnds
  extract_lets +onlyGivenNames x1
  have h1 : Keeps s0 x1
  · unfold x1
    refine State.cancelClips_keeps _ _ ?_
    refine State.measurePaths_keeps _ _ ?_
    with_reducible assumption
  clear_value x1
  extract_lets +onlyGivenNames x0
  have h0 : Keeps s0 x0
  · unfold x0
    refine State.ulPass_keeps _ _ ?_
    refine State.countLost_keeps _ ?_
    with_reducible assumption
  clear_value x0
  refine State.quietTick_keeps _ _ ?_
  refine State.soundingTick_keeps _ _ ?_
  with_reducible assumption

theorem State.downlinkEnds_keeps {s0 : State} {s : State} (x : TickInput) (e : ℕ) (h : Keeps s0 s) :
    Keeps s0 (State.downlinkEnds s x e) := by
  unfold State.downlinkEnds
  refine State.cancelPass_keeps _ ?_
  refine State.linPass_keeps _ ?_
  with_reducible assumption

theorem State.configAtTick_keeps {s0 : State} {s : State} (h : Keeps s0 s) :
    Keeps s0 (State.configAtTick s) := by
  unfold State.configAtTick
  extract_lets +onlyGivenNames x0
  clear_value x0
  extract_lets +onlyGivenNames x3
  have h3 : Keeps s0 x3
  · unfold x3
    refine State.commitsAtTick_keeps ?_
    refine State.modeAtTick_keeps ?_
    refine State.standbyAtTick_keeps ?_
    refine State.enterSafeHold_keeps ?_
    with_reducible assumption
  clear_value x3
  refine State.serveFolios_keeps _ _ ?_
  with_reducible assumption

theorem State.loopsAtTick_keeps {s0 : State} {s : State} (h : Keeps s0 s) :
    Keeps s0 (State.loopsAtTick s) := by
  unfold State.loopsAtTick
  extract_lets +onlyGivenNames x4
  have h4 : Keeps s0 x4
  · unfold x4
    refine keeps_foldl ?_ ?_
    · intro a0 a1 h2
      refine State.linAtTick_keeps _ ?_
      with_reducible assumption
    · with_reducible assumption
  clear_value x4
  refine State.synPhases_keeps ?_
  refine State.biasLapse_keeps ?_
  refine State.biasRangeTick_keeps ?_
  refine State.calDue_keeps ?_
  refine State.trackAtTick_keeps ?_
  with_reducible assumption

theorem State.slotActs_keeps {s0 : State} {s : State} (x : TickInput) (h : Keeps s0 s) :
    Keeps s0 (State.slotActs s x) := by
  unfold State.slotActs
  extract_lets +onlyGivenNames x0
  have h0 : Keeps s0 x0
  · unfold x0
    refine State.powerRecompute_keeps ?_
    refine State.noiseAtSlot_keeps ?_
    refine State.shutdownActs_keeps ?_
    refine State.throttleAtSlot_keeps ?_
    refine State.tunersAtSlot_keeps ?_
    with_reducible assumption
  clear_value x0
  extract_lets +onlyGivenNames x2
  have h2 : Keeps s0 x2
  · unfold x2
    refine State.resumeAtSlot_keeps ?_
    refine State.powerAtSlot_keeps ?_
    refine State.shareAtSlot_keeps ?_
    refine State.calRollAtSlot_keeps ?_
    refine State.calAtSlot_keeps ?_
    with_reducible assumption
  clear_value x2
  extract_lets +onlyGivenNames x7
  have h7 : Keeps s0 x7
  · unfold x7
    refine State.mixReportedPrune_keeps ?_
    refine State.retestFaults_keeps _ ?_
    with_reducible assumption
  clear_value x7
  refine keeps_foldl ?_ ?_
  · intro a10 a11 h12
    refine State.detectFault_keeps _ _ ?_
    with_reducible assumption
  · with_reducible assumption

theorem State.courseAtTick_keeps {s0 : State} {s : State} (c : ℕ) (h : Keeps s0 s) :
    Keeps s0 (State.courseAtTick s c) := by
  unfold State.courseAtTick
  extract_lets +onlyGivenNames x2
  clear_value x2
  extract_lets +onlyGivenNames x0
  clear_value x0
  extract_lets +onlyGivenNames x3
  clear_value x3
  extract_lets +onlyGivenNames x5
  clear_value x5
  extract_lets +onlyGivenNames x6
  clear_value x6
  extract_lets +onlyGivenNames x8
  clear_value x8
  extract_lets +onlyGivenNames x9
  clear_value x9
  extract_lets +onlyGivenNames x14
  have h14 : Keeps s0 x14
  · unfold x14
    refine State.setCourse_keeps _ _ ?_
    with_reducible assumption
  clear_value x14
  extract_lets +onlyGivenNames x17
  have h17 : Keeps s0 x17
  · unfold x17
    refine ite_ind ?_ ?_
    · refine State.bump_keeps _ _ ?_
      with_reducible assumption
    · with_reducible assumption
  clear_value x17
  extract_lets +onlyGivenNames x21
  have h21 : Keeps s0 x21
  · unfold x21
    refine ite_ind ?_ ?_
    · refine State.raise_keeps _ _ _ ?_
      with_reducible assumption
    · with_reducible assumption
  clear_value x21
  refine ite_ind ?_ ?_
  · refine keeps_foldl ?_ ?_
    · intro a28 a29 h30
      refine State.setPath_keeps _ _ ?_
      with_reducible assumption
    · with_reducible assumption
  · with_reducible assumption

theorem State.gainsAtTick_keeps {s0 : State} {s : State} (h : Keeps s0 s) :
    Keeps s0 (State.gainsAtTick s) := by
  unfold State.gainsAtTick
  refine keeps_foldl ?_ ?_
  · intro a3 a4 h5
    refine State.gainAtTick_keeps _ ?_
    with_reducible assumption
  · with_reducible assumption

theorem State.downlinkNext_keeps {s0 : State} {s : State} (h : Keeps s0 s) :
    Keeps s0 (State.downlinkNext s) := by
  unfold State.downlinkNext
  extract_lets +onlyGivenNames x1
  clear_value x1
  extract_lets +onlyGivenNames x4
  have h4 : Keeps s0 x4
  · unfold x4
    refine ite_ind ?_ ?_
    · refine State.observeReplay_keeps _ ?_
      with_reducible assumption
    · with_reducible assumption
  clear_value x4
  extract_lets +onlyGivenNames x15
  extract_lets +onlyGivenNames x16
  have h16 : Keeps s0 x16
  · unfold x16
    refine keeps_mk ?_ rfl rfl rfl rfl rfl rfl rfl
    with_reducible assumption
  clear_value x16
  refine State.dlPass_keeps _ ?_
  with_reducible assumption

theorem State.frameActs_keeps {s0 : State} {s : State} (h : Keeps s0 s) :
    Keeps s0 (State.frameActs s) := by
  unfold State.frameActs
  refine State.masonLoad_keeps ?_
  refine State.speFrameStart_keeps ?_
  refine State.cancelClipReport_keeps ?_
  refine State.linSatReport_keeps ?_
  refine State.mixSatReport_keeps ?_
  with_reducible assumption

theorem State.latch_keeps {s0 : State} {s : State} (h : Keeps s0 s) :
    Keeps s0 (State.latch s) := by
  unfold State.latch
  extract_lets +onlyGivenNames x13
  clear_value x13
  refine keeps_mk ?_ rfl rfl rfl rfl rfl rfl rfl
  with_reducible assumption

theorem State.tickActs_keeps {s0 : State} {s : State} (x : TickInput) (e : ℕ) (h : Keeps s0 s) :
    Keeps s0 (State.tickActs s x e) := by
  unfold State.tickActs
  extract_lets +onlyGivenNames x18
  have h18 : Keeps s0 x18
  · unfold x18
    refine State.actOnFaults_keeps ?_
    refine State.loopsAtTick_keeps ?_
    refine State.configAtTick_keeps ?_
    refine State.downlinkEnds_keeps _ _ ?_
    refine State.uplinkEnds_keeps _ _ ?_
    with_reducible assumption
  clear_value x18
  extract_lets +onlyGivenNames x20
  have h20 : Keeps s0 x20
  · unfold x20
    refine ite_ind ?_ ?_
    · refine State.slotActs_keeps _ ?_
      with_reducible assumption
    · with_reducible assumption
  clear_value x20
  extract_lets +onlyGivenNames x26
  have h26 : Keeps s0 x26
  · unfold x26
    refine State.dispatchJobs_keeps ?_
    refine State.masonTick_keeps ?_
    refine State.judgeArrayCause_keeps ?_
    refine State.judgePaths_keeps ?_
    with_reducible assumption
  clear_value x26
  extract_lets +onlyGivenNames x27
  have h27 : Keeps s0 x27
  · unfold x27
    refine State.downlinkNext_keeps ?_
    refine State.gainsAtTick_keeps ?_
    refine keeps_foldl ?_ ?_
    · intro a31 a32 h33
      refine State.courseAtTick_keeps _ ?_
      with_reducible assumption
    · with_reducible assumption
  clear_value x27
  extract_lets +onlyGivenNames x34
  have h34 : Keeps s0 x34
  · unfold x34
    refine ite_ind ?_ ?_
    · refine State.frameActs_keeps ?_
      with_reducible assumption
    · with_reducible assumption
  clear_value x34
  refine State.latch_keeps ?_
  with_reducible assumption

theorem State.symbolTick_keeps {s0 : State} {s : State} (x : TickInput) (h : Keeps s0 s) :
    Keeps s0 (State.symbolTick s x) := by
  unfold State.symbolTick
  refine ite_ind ?_ ?_
  · extract_lets +onlyGivenNames x19
    have h19 : Keeps s0 x19
    · unfold x19
      refine State.beginEpoch_keeps ?_
      refine keeps_foldl ?_ ?_
      · intro a22 a23 h24
        refine State.dcLoop_keeps _ ?_
        with_reducible assumption
      · with_reducible assumption
    clear_value x19
    extract_lets +onlyGivenNames x25
    have h25 : Keeps s0 x25
    · unfold x25
      refine State.tickActs_keeps _ _ ?_
      with_reducible assumption
    clear_value x25
    refine keeps_mk ?_ rfl rfl rfl rfl rfl rfl rfl
    with_reducible assumption
  · with_reducible assumption

theorem State.idle_keeps {s0 : State} {s : State} (h : Keeps s0 s) :
    Keeps s0 (State.idle s) := by
  unfold State.idle
  refine ite_ind ?_ ?_
  · with_reducible assumption
  · refine State.synPhases_keeps ?_
    refine State.biasLapse_keeps ?_
    refine keeps_mk ?_ rfl rfl rfl rfl rfl rfl rfl
    with_reducible assumption

end Sys2Proof.Machine
end

