-- ==== Sys2Proof/Laws/KeepsMasonOps.lean ====
section
/-! SUPPORT. Every operation of Machine/MasonOps.lean keeps the relation of Laws/Keeps.lean. -/
namespace Sys2Proof.Machine

theorem loadVec_keeps {s0 : State} (circ : Bool) (o : MasonIssue) (f : LFormat) {s : State} (h : Keeps s0 s) :
    Keeps s0 (loadVec circ o f s) := by
  unfold loadVec
  refine State.issue_keeps _ _ _ _ ?_
  with_reducible assumption

theorem execLdv_keeps {s0 : State} (o : MasonIssue) (f : LFormat) {s : State} (h : Keeps s0 s) :
    KeepsA s0 (execLdv o f s) := by
  unfold execLdv
  refine keepsA_next ?_
  refine loadVec_keeps _ _ _ ?_
  with_reducible assumption

theorem execLdvc_keeps {s0 : State} (o : MasonIssue) (f : LFormat) {s : State} (h : Keeps s0 s) :
    KeepsA s0 (execLdvc o f s) := by
  unfold execLdvc
  refine keepsA_next ?_
  refine loadVec_keeps _ _ _ ?_
  with_reducible assumption

theorem loadBroadcast_keeps {s0 : State} (circ : Bool) (o : MasonIssue) (f : LFormat) {s : State} (h : Keeps s0 s) :
    Keeps s0 (loadBroadcast circ o f s) := by
  unfold loadBroadcast
  refine State.issue_keeps _ _ _ _ ?_
  with_reducible assumption

theorem execLdb_keeps {s0 : State} (o : MasonIssue) (f : LFormat) {s : State} (h : Keeps s0 s) :
    KeepsA s0 (execLdb o f s) := by
  unfold execLdb
  refine keepsA_next ?_
  refine loadBroadcast_keeps _ _ _ ?_
  with_reducible assumption

theorem execLdbc_keeps {s0 : State} (o : MasonIssue) (f : LFormat) {s : State} (h : Keeps s0 s) :
    KeepsA s0 (execLdbc o f s) := by
  unfold execLdbc
  refine keepsA_next ?_
  refine loadBroadcast_keeps _ _ _ ?_
  with_reducible assumption

theorem storeVec_keeps {s0 : State} (circ : Bool) (o : MasonIssue) (f : LFormat) {s : State} (h : Keeps s0 s) :
    Keeps s0 (storeVec circ o f s) := by
  unfold storeVec
  refine State.issue_keeps _ _ _ _ ?_
  with_reducible assumption

theorem execStv_keeps {s0 : State} (o : MasonIssue) (f : LFormat) {s : State} (h : Keeps s0 s) :
    KeepsA s0 (execStv o f s) := by
  unfold execStv
  refine keepsA_next ?_
  refine storeVec_keeps _ _ _ ?_
  with_reducible assumption

theorem execStvc_keeps {s0 : State} (o : MasonIssue) (f : LFormat) {s : State} (h : Keeps s0 s) :
    KeepsA s0 (execStvc o f s) := by
  unfold execStvc
  refine keepsA_next ?_
  refine storeVec_keeps _ _ _ ?_
  with_reducible assumption

theorem storeScaled_keeps {s0 : State} (circ : Bool) (o : MasonIssue) (f : LFormat) {s : State} (h : Keeps s0 s) :
    Keeps s0 (storeScaled circ o f s) := by
  unfold storeScaled
  refine State.issue_keeps _ _ _ _ ?_
  with_reducible assumption

theorem execSta_keeps {s0 : State} (o : MasonIssue) (f : LFormat) {s : State} (h : Keeps s0 s) :
    KeepsA s0 (execSta o f s) := by
  unfold execSta
  refine keepsA_next ?_
  refine storeScaled_keeps _ _ _ ?_
  with_reducible assumption

theorem execStac_keeps {s0 : State} (o : MasonIssue) (f : LFormat) {s : State} (h : Keeps s0 s) :
    KeepsA s0 (execStac o f s) := by
  unfold execStac
  refine keepsA_next ?_
  refine storeScaled_keeps _ _ _ ?_
  with_reducible assumption

theorem execLdw_keeps {s0 : State} (o : MasonIssue) (f : LFormat) {s : State} (h : Keeps s0 s) :
    KeepsA s0 (execLdw o f s) := by
  unfold execLdw
  refine keepsA_next ?_
  refine State.issue_keeps _ _ _ _ ?_
  with_reducible assumption

theorem execStw_keeps {s0 : State} (o : MasonIssue) (f : LFormat) {s : State} (h : Keeps s0 s) :
    KeepsA s0 (execStw o f s) := by
  unfold execStw
  refine keepsA_next ?_
  refine State.issue_keeps _ _ _ _ ?_
  with_reducible assumption

theorem execLdar_keeps {s0 : State} (o : MasonIssue) (f : LFormat) {s : State} (h : Keeps s0 s) :
    KeepsA s0 (execLdar o f s) := by
  unfold execLdar
  refine keepsA_next ?_
  refine State.issue_keeps _ _ _ _ ?_
  with_reducible assumption

theorem execStar_keeps {s0 : State} (o : MasonIssue) (f : LFormat) {s : State} (h : Keeps s0 s) :
    KeepsA s0 (execStar o f s) := by
  unfold execStar
  refine keepsA_next ?_
  refine State.issue_keeps _ _ _ _ ?_
  with_reducible assumption

theorem macLanes_keeps {s0 : State} (o : MasonIssue) (f : MFormat) (g : Cplx → Cplx → Cplx → Cplx) {s : State} (h : Keeps s0 s) :
    Keeps s0 (macLanes o f g s) := by
  unfold macLanes
  refine State.issue_keeps _ _ _ _ ?_
  with_reducible assumption

theorem execCmac_keeps {s0 : State} (o : MasonIssue) (f : MFormat) {s : State} (h : Keeps s0 s) :
    KeepsA s0 (execCmac o f s) := by
  unfold execCmac
  refine keepsA_next ?_
  refine macLanes_keeps _ _ _ ?_
  with_reducible assumption

theorem execCmacj_keeps {s0 : State} (o : MasonIssue) (f : MFormat) {s : State} (h : Keeps s0 s) :
    KeepsA s0 (execCmacj o f s) := by
  unfold execCmacj
  refine keepsA_next ?_
  refine macLanes_keeps _ _ _ ?_
  with_reducible assumption

theorem execCmul_keeps {s0 : State} (o : MasonIssue) (f : MFormat) {s : State} (h : Keeps s0 s) :
    KeepsA s0 (execCmul o f s) := by
  unfold execCmul
  refine keepsA_next ?_
  refine macLanes_keeps _ _ _ ?_
  with_reducible assumption

theorem execCmulj_keeps {s0 : State} (o : MasonIssue) (f : MFormat) {s : State} (h : Keeps s0 s) :
    KeepsA s0 (execCmulj o f s) := by
  unfold execCmulj
  refine keepsA_next ?_
  refine macLanes_keeps _ _ _ ?_
  with_reducible assumption

theorem execCmsub_keeps {s0 : State} (o : MasonIssue) (f : MFormat) {s : State} (h : Keeps s0 s) :
    KeepsA s0 (execCmsub o f s) := by
  unfold execCmsub
  refine keepsA_next ?_
  refine macLanes_keeps _ _ _ ?_
  with_reducible assumption

theorem execClra_keeps {s0 : State} (o : MasonIssue) (f : MFormat) {s : State} (h : Keeps s0 s) :
    KeepsA s0 (execClra o f s) := by
  unfold execClra
  refine keepsA_next ?_
  refine macLanes_keeps _ _ _ ?_
  with_reducible assumption

theorem execTapm_keeps {s0 : State} (o : MasonIssue) (f : MFormat) {s : State} (h : Keeps s0 s) :
    KeepsA s0 (execTapm o f s) := by
  unfold execTapm
  refine keepsA_next ?_
  refine State.issue_keeps _ _ _ _ ?_
  with_reducible assumption

theorem execAdda_keeps {s0 : State} (o : MasonIssue) (f : MFormat) {s : State} (h : Keeps s0 s) :
    KeepsA s0 (execAdda o f s) := by
  unfold execAdda
  refine keepsA_next ?_
  refine State.issue_keeps _ _ _ _ ?_
  with_reducible assumption

theorem execVmova_keeps {s0 : State} (o : MasonIssue) (f : AFormat) {s : State} (h : Keeps s0 s) :
    KeepsA s0 (execVmova o f s) := by
  unfold execVmova
  refine keepsA_next ?_
  refine State.issue_keeps _ _ _ _ ?_
  with_reducible assumption

theorem satLanes_keeps {s0 : State} (o : MasonIssue) (f : AFormat) (g : Cplx → Cplx → Cplx) {s : State} (h : Keeps s0 s) :
    Keeps s0 (satLanes o f g s) := by
  unfold satLanes
  refine State.issue_keeps _ _ _ _ ?_
  with_reducible assumption

theorem execVadd_keeps {s0 : State} (o : MasonIssue) (f : AFormat) {s : State} (h : Keeps s0 s) :
    KeepsA s0 (execVadd o f s) := by
  unfold execVadd
  refine keepsA_next ?_
  refine satLanes_keeps _ _ _ ?_
  with_reducible assumption

theorem execVsub_keeps {s0 : State} (o : MasonIssue) (f : AFormat) {s : State} (h : Keeps s0 s) :
    KeepsA s0 (execVsub o f s) := by
  unfold execVsub
  refine keepsA_next ?_
  refine satLanes_keeps _ _ _ ?_
  with_reducible assumption

theorem execVconj_keeps {s0 : State} (o : MasonIssue) (f : AFormat) {s : State} (h : Keeps s0 s) :
    KeepsA s0 (execVconj o f s) := by
  unfold execVconj
  refine keepsA_next ?_
  refine satLanes_keeps _ _ _ ?_
  with_reducible assumption

theorem execVshr_keeps {s0 : State} (o : MasonIssue) (f : AFormat) {s : State} (h : Keeps s0 s) :
    KeepsA s0 (execVshr o f s) := by
  unfold execVshr
  refine keepsA_next ?_
  refine State.issue_keeps _ _ _ _ ?_
  with_reducible assumption

theorem execVbcast_keeps {s0 : State} (o : MasonIssue) (f : AFormat) {s : State} (h : Keeps s0 s) :
    KeepsA s0 (execVbcast o f s) := by
  unfold execVbcast
  refine keepsA_next ?_
  refine State.issue_keeps _ _ _ _ ?_
  with_reducible assumption

theorem laneFunction_keeps {s0 : State} (o : MasonIssue) (f : AFormat) (g : Cplx → Cplx × Bool) {s : State} (h : Keeps s0 s) :
    Keeps s0 (laneFunction o f g s) := by
  unfold laneFunction
  refine State.issue_keeps _ _ _ _ ?_
  with_reducible assumption

theorem execVrecip_keeps {s0 : State} (o : MasonIssue) (f : AFormat) {s : State} (h : Keeps s0 s) :
    KeepsA s0 (execVrecip o f s) := by
  unfold execVrecip
  refine keepsA_next ?_
  refine laneFunction_keeps _ _ _ ?_
  with_reducible assumption

theorem execVrsqrt_keeps {s0 : State} (o : MasonIssue) (f : AFormat) {s : State} (h : Keeps s0 s) :
    KeepsA s0 (execVrsqrt o f s) := by
  unfold execVrsqrt
  refine keepsA_next ?_
  refine laneFunction_keeps _ _ _ ?_
  with_reducible assumption

theorem execVext_keeps {s0 : State} (o : MasonIssue) (f : AFormat) {s : State} (h : Keeps s0 s) :
    KeepsA s0 (execVext o f s) := by
  unfold execVext
  refine keepsA_next ?_
  refine State.issue_keeps _ _ _ _ ?_
  with_reducible assumption

theorem scalarOp_keeps {s0 : State} (o : MasonIssue) (f : CFormat) (g : ℤ → ℤ → ℤ) {s : State} (h : Keeps s0 s) :
    Keeps s0 (scalarOp o f g s) := by
  unfold scalarOp
  refine State.issue_keeps _ _ _ _ ?_
  with_reducible assumption

theorem execMovi_keeps {s0 : State} (o : MasonIssue) (f : CFormat) {s : State} (h : Keeps s0 s) :
    KeepsA s0 (execMovi o f s) := by
  unfold execMovi
  refine keepsA_next ?_
  refine scalarOp_keeps _ _ _ ?_
  with_reducible assumption

theorem execMovh_keeps {s0 : State} (o : MasonIssue) (f : CFormat) {s : State} (h : Keeps s0 s) :
    KeepsA s0 (execMovh o f s) := by
  unfold execMovh
  refine keepsA_next ?_
  refine scalarOp_keeps _ _ _ ?_
  with_reducible assumption

theorem execAddi_keeps {s0 : State} (o : MasonIssue) (f : CFormat) {s : State} (h : Keeps s0 s) :
    KeepsA s0 (execAddi o f s) := by
  unfold execAddi
  refine keepsA_next ?_
  refine scalarOp_keeps _ _ _ ?_
  with_reducible assumption

theorem execAddp_keeps {s0 : State} (o : MasonIssue) (f : CFormat) {s : State} (h : Keeps s0 s) :
    KeepsA s0 (execAddp o f s) := by
  unfold execAddp
  refine keepsA_next ?_
  refine scalarOp_keeps _ _ _ ?_
  with_reducible assumption

theorem execSubp_keeps {s0 : State} (o : MasonIssue) (f : CFormat) {s : State} (h : Keeps s0 s) :
    KeepsA s0 (execSubp o f s) := by
  unfold execSubp
  refine keepsA_next ?_
  refine scalarOp_keeps _ _ _ ?_
  with_reducible assumption

theorem execShli_keeps {s0 : State} (o : MasonIssue) (f : CFormat) {s : State} (h : Keeps s0 s) :
    KeepsA s0 (execShli o f s) := by
  unfold execShli
  refine keepsA_next ?_
  refine scalarOp_keeps _ _ _ ?_
  with_reducible assumption

theorem execShrai_keeps {s0 : State} (o : MasonIssue) (f : CFormat) {s : State} (h : Keeps s0 s) :
    KeepsA s0 (execShrai o f s) := by
  unfold execShrai
  refine keepsA_next ?_
  refine scalarOp_keeps _ _ _ ?_
  with_reducible assumption

theorem execMovs_keeps {s0 : State} (o : MasonIssue) (f : CFormat) {s : State} (h : Keeps s0 s) :
    KeepsA s0 (execMovs o f s) := by
  unfold execMovs
  refine keepsA_next ?_
  refine State.issue_keeps _ _ _ _ ?_
  with_reducible assumption

theorem execMovg_keeps {s0 : State} (o : MasonIssue) (f : CFormat) {s : State} (h : Keeps s0 s) :
    KeepsA s0 (execMovg o f s) := by
  unfold execMovg
  refine keepsA_next ?_
  refine State.issue_keeps _ _ _ _ ?_
  with_reducible assumption

theorem loopOp_keeps {s0 : State} (o : MasonIssue) (f : CFormat) (count : MasonCore → ℕ) {s : State} (h : Keeps s0 s) :
    Keeps s0 (loopOp o f count s) := by
  unfold loopOp
  refine State.issue_keeps _ _ _ _ ?_
  with_reducible assumption

theorem execLoop_keeps {s0 : State} (o : MasonIssue) (f : CFormat) {s : State} (h : Keeps s0 s) :
    KeepsA s0 (execLoop o f s) := by
  unfold execLoop
  refine keepsA_next ?_
  refine loopOp_keeps _ _ _ ?_
  with_reducible assumption

theorem execLoopi_keeps {s0 : State} (o : MasonIssue) (f : CFormat) {s : State} (h : Keeps s0 s) :
    KeepsA s0 (execLoopi o f s) := by
  unfold execLoopi
  refine keepsA_next ?_
  refine loopOp_keeps _ _ _ ?_
  with_reducible assumption

theorem execBr_keeps {s0 : State} (o : MasonIssue) (f : CFormat) {s : State} (h : Keeps s0 s) :
    KeepsA s0 (execBr o f s) := by
  unfold execBr
  refine keepsA_next ?_
  refine State.issue_keeps _ _ _ _ ?_
  with_reducible assumption

theorem execCall_keeps {s0 : State} (o : MasonIssue) (f : CFormat) {s : State} (h : Keeps s0 s) :
    KeepsA s0 (execCall o f s) := by
  unfold execCall
  refine keepsA_next ?_
  refine State.issue_keeps _ _ _ _ ?_
  with_reducible assumption

theorem execRet_keeps {s0 : State} (o : MasonIssue) {s : State} (h : Keeps s0 s) :
    KeepsA s0 (execRet o s) := by
  unfold execRet
  refine keepsA_next ?_
  refine State.issue_keeps _ _ _ _ ?_
  with_reducible assumption

theorem execRti_keeps {s0 : State} (o : MasonIssue) {s : State} (h : Keeps s0 s) :
    KeepsA s0 (execRti o s) := by
  unfold execRti
  refine keepsA_next ?_
  refine State.issue_keeps _ _ _ _ ?_
  with_reducible assumption

theorem execXget_keeps {s0 : State} (o : MasonIssue) (f : CFormat) {s : State} (h : Keeps s0 s) :
    KeepsA s0 (execXget o f s) := by
  unfold execXget
  refine keepsA_next ?_
  refine State.issue_keeps _ _ _ _ ?_
  with_reducible assumption

theorem execXput_keeps {s0 : State} (o : MasonIssue) (f : CFormat) {s : State} (h : Keeps s0 s) :
    KeepsA s0 (execXput o f s) := by
  unfold execXput
  refine keepsA_next ?_
  refine State.issue_keeps _ _ _ _ ?_
  with_reducible assumption

theorem execXwait_keeps {s0 : State} (o : MasonIssue) (f : CFormat) {s : State} (h : Keeps s0 s) :
    KeepsA s0 (execXwait o f s) := by
  unfold execXwait
  refine keepsA_next ?_
  refine State.issue_keeps _ _ _ _ ?_
  with_reducible assumption

theorem execLease_keeps {s0 : State} (o : MasonIssue) (f : CFormat) {s : State} (h : Keeps s0 s) :
    KeepsA s0 (execLease o f s) := by
  unfold execLease
  refine keepsA_next ?_
  refine State.issue_keeps _ _ _ _ ?_
  with_reducible assumption

theorem execUnlease_keeps {s0 : State} (o : MasonIssue) (f : CFormat) {s : State} (h : Keeps s0 s) :
    KeepsA s0 (execUnlease o f s) := by
  unfold execUnlease
  refine keepsA_next ?_
  refine State.issue_keeps _ _ _ _ ?_
  with_reducible assumption

theorem execDone_keeps {s0 : State} (o : MasonIssue) (f : CFormat) {s : State} (h : Keeps s0 s) :
    KeepsA s0 (execDone o f s) := by
  unfold execDone
  refine keepsA_next ?_
  refine State.issue_keeps _ _ _ _ ?_
  with_reducible assumption

end Sys2Proof.Machine
end

