-- ==== Sys2Proof/Laws/KeepsCommands.lean ====
section
/-! SUPPORT. Every operation of Machine/Commands.lean keeps the relation of Laws/Keeps.lean. -/
namespace Sys2Proof.Machine

theorem State.order_keeps {s0 : State} {s : State} (w : Caller) (index : ℕ) (sub : ℕ) (v : ℕ) (h : Keeps s0 s) :
    Keeps s0 (State.order s w index sub v) := by
  unfold State.order
  refine State.take_keeps _ ?_
  with_reducible assumption

theorem State.orderRecord_keeps {s0 : State} {s : State} (w : Caller) (index : ℕ) (l : List Byte) (h : Keeps s0 s) :
    Keeps s0 (State.orderRecord s w index l) := by
  unfold State.orderRecord
  refine State.take_keeps _ ?_
  with_reducible assumption

theorem State.orderSegment_keeps {s0 : State} {s : State} (index : ℕ) (r : Request) (h : Keeps s0 s) :
    Keeps s0 (State.orderSegment s index r) := by
  unfold State.orderSegment
  refine State.take_keeps _ ?_
  with_reducible assumption

theorem State.operate_keeps {s0 : State} {s : State} (op : ℕ) (r : Request) (h : Keeps s0 s) :
    Keeps s0 (State.operate s op r) := by
  unfold State.operate
  refine State.take_keeps _ ?_
  with_reducible assumption

theorem State.domainReady_keeps {s0 : State} {s : State} (d : ℕ) (good : Bool) (osc : Bool) (init : Bool) (h : Keeps s0 s) :
    Keeps s0 (State.domainReady s d good osc init) := by
  unfold State.domainReady
  extract_lets +onlyGivenNames x1
  have h1 : Keeps s0 x1.2
  · unfold x1
    refine State.domainSignals_keeps _ _ _ _ ?_
    with_reducible assumption
  clear_value x1
  refine ite_ind ?_ ?_
  · refine State.goOn_keeps ?_
    with_reducible assumption
  · with_reducible assumption

theorem State.markFailed_keeps {s0 : State} {s : State} (d : ℕ) (h : Keeps s0 s) :
    Keeps s0 (State.markFailed s d) := by
  unfold State.markFailed
  refine keeps_mk ?_ rfl rfl rfl rfl rfl rfl rfl
  with_reducible assumption

theorem State.failStalled_keeps {s0 : State} {s : State} (before : State) (d : ℕ) (h : Keeps s0 s) :
    Keeps s0 (State.failStalled s before d) := by
  unfold State.failStalled
  refine ite_ind ?_ ?_
  · with_reducible assumption
  · extract_lets +onlyGivenNames x1
    extract_lets +onlyGivenNames x2
    have h2 : Keeps s0 x2
    · unfold x2
      refine keeps_foldl ?_ ?_
      · intro a3 a4 h5
        refine State.memTry_keeps _ ?_
        refine State.markFailed_keeps _ ?_
        with_reducible assumption
      · refine keeps_mk ?_ rfl rfl rfl rfl rfl rfl rfl
        with_reducible assumption
    clear_value x2
    extract_lets +onlyGivenNames x9
    have h9 : Keeps s0 x9
    · unfold x9
      refine ite_ind ?_ ?_
      · refine State.resumeWaiting_keeps ?_
        refine State.markFailed_keeps _ ?_
        with_reducible assumption
      · with_reducible assumption
    clear_value x9
    extract_lets +onlyGivenNames x13
    clear_value x13
    refine ite_ind ?_ ?_
    · refine State.markFailed_keeps _ ?_
      with_reducible assumption
    · refine keeps_mk ?_ rfl rfl rfl rfl rfl rfl rfl
      with_reducible assumption

theorem State.warnWakes_keeps {s0 : State} {s : State} (h : Keeps s0 s) :
    Keeps s0 (State.warnWakes s) := by
  unfold State.warnWakes
  refine ite_ind ?_ ?_
  · refine State.edgeWake_keeps _ ?_
    refine keeps_mk ?_ rfl rfl rfl rfl rfl rfl rfl
    with_reducible assumption
  · with_reducible assumption

theorem State.latchFollows_keeps {s0 : State} {s : State} (h : Keeps s0 s) :
    Keeps s0 (State.latchFollows s) := by
  unfold State.latchFollows
  extract_lets +onlyGivenNames x0
  have h0 : Keeps s0 x0
  · unfold x0
    refine State.dropNorthRequests_keeps ?_
    refine State.portToOff_keeps _ _ ?_
    refine State.portToOff_keeps _ _ ?_
    refine State.speOff_keeps ?_
    with_reducible assumption
  clear_value x0
  extract_lets +onlyGivenNames x7
  have h7 : Keeps s0 x7
  · unfold x7
    refine State.calStepEnds_keeps ?_
    refine State.trainFails_keeps _ ?_
    refine State.calFails_keeps _ ?_
    refine State.jobsReset_keeps _ ?_
    refine State.masonsReset_keeps ?_
    with_reducible assumption
  clear_value x7
  extract_lets +onlyGivenNames x8
  have h8 : Keeps s0 x8
  · unfold x8
    refine keeps_foldl ?_ ?_
    · intro a10 a11 h12
      refine State.endWindow_keeps _ ?_
      refine State.courseOff_keeps _ ?_
      with_reducible assumption
    · with_reducible assumption
  clear_value x8
  refine State.abandonTransitions_keeps ?_
  refine keeps_mk ?_ rfl rfl rfl rfl rfl rfl rfl
  with_reducible assumption

theorem State.hkReads_keeps {s0 : State} {s : State} (f : HkFrame) (h : Keeps s0 s) :
    Keeps s0 (State.hkReads s f) := by
  unfold State.hkReads
  extract_lets +onlyGivenNames x6
  have h6 : Keeps s0 x6
  · unfold x6
    refine State.hkFrame_keeps _ ?_
    with_reducible assumption
  clear_value x6
  refine ite_ind ?_ ?_
  · refine State.latchFollows_keeps ?_
    with_reducible assumption
  · refine State.warnWakes_keeps ?_
    with_reducible assumption

end Sys2Proof.Machine
end

