-- ==== Sys2Proof/Laws/KeepsExecArchive.lean ====
section
/-! SUPPORT. Every operation of Machine/ExecArchive.lean keeps the relation of Laws/Keeps.lean. -/
namespace Sys2Proof.Machine

theorem execMortarTimeout_keeps {s0 : State} (a : MortarAccess) {s : State} (h : Keeps s0 s) :
    KeepsA s0 (execMortarTimeout a s) := by
  unfold execMortarTimeout
  refine keepsA_next ?_
  refine State.mortarTimeout_keeps _ ?_
  with_reducible assumption

theorem execSlowPathDone_keeps {s0 : State} (page : ℕ) {s : State} (h : Keeps s0 s) :
    KeepsA s0 (execSlowPathDone page s) := by
  unfold execSlowPathDone
  refine keepsA_next ?_
  refine State.slowPathDone_keeps _ ?_
  with_reducible assumption

theorem execScrubPage_keeps {s0 : State} {s : State} (h : Keeps s0 s) :
    KeepsA s0 (execScrubPage s) := by
  unfold execScrubPage
  refine keepsA_next ?_
  refine State.scrubPage_keeps ?_
  with_reducible assumption

theorem execEccLogClear_keeps {s0 : State} (w : Caller) (v : ℕ) {s : State} (h : Keeps s0 s) :
    KeepsA s0 (execEccLogClear w v s) := by
  unfold execEccLogClear
  refine keepsA_next ?_
  refine State.order_keeps _ _ _ _ ?_
  with_reducible assumption

theorem execPartitionCopyDone_keeps {s0 : State} {s : State} (h : Keeps s0 s) :
    KeepsA s0 (execPartitionCopyDone s) := by
  unfold execPartitionCopyDone
  refine keepsA_next ?_
  refine State.partitionCopyDone_keeps ?_
  with_reducible assumption

theorem execDmaStart_keeps {s0 : State} (w : Caller) (record : List Byte) {s : State} (h : Keeps s0 s) :
    KeepsA s0 (execDmaStart w record s) := by
  unfold execDmaStart
  refine keepsA_next ?_
  refine State.orderRecord_keeps _ _ _ ?_
  with_reducible assumption

theorem execDmaAbort_keeps {s0 : State} (w : Caller) (channel : ℕ) (v : ℕ) {s : State} (h : Keeps s0 s) :
    KeepsA s0 (execDmaAbort w channel v s) := by
  unfold execDmaAbort
  refine keepsA_next ?_
  refine State.order_keeps _ _ _ _ ?_
  with_reducible assumption

theorem execDescriptorFetch_keeps {s0 : State} (channel : ℕ) (error : Bool) {s : State} (h : Keeps s0 s) :
    KeepsA s0 (execDescriptorFetch channel error s) := by
  unfold execDescriptorFetch
  refine keepsA_next ?_
  refine State.descriptorFetch_keeps _ _ ?_
  with_reducible assumption

theorem execDmaBurst_keeps {s0 : State} {s : State} (h : Keeps s0 s) :
    KeepsA s0 (execDmaBurst s) := by
  unfold execDmaBurst
  refine keepsA_next ?_
  refine State.codeFaults_keeps ?_
  refine State.dmaBurst_keeps ?_
  with_reducible assumption

theorem execDmaWriteResponse_keeps {s0 : State} (channel : ℕ) (place : ℕ) {s : State} (h : Keeps s0 s) :
    KeepsA s0 (execDmaWriteResponse channel place s) := by
  unfold execDmaWriteResponse
  refine keepsA_next ?_
  refine State.codeFaults_keeps ?_
  refine State.dmaWriteResponse_keeps _ _ ?_
  with_reducible assumption

theorem execAppendPoll_keeps {s0 : State} (channel : ℕ) {s : State} (h : Keeps s0 s) :
    KeepsA s0 (execAppendPoll channel s) := by
  unfold execAppendPoll
  refine keepsA_next ?_
  refine State.appendPoll_keeps _ ?_
  with_reducible assumption

end Sys2Proof.Machine
end

