-- ==== Sys2Proof/Laws/KeepsExecHk.lean ====
section
/-! SUPPORT. Every operation of Machine/ExecHk.lean keeps the relation of Laws/Keeps.lean. -/
namespace Sys2Proof.Machine

theorem execHkFrame_keeps {s0 : State} (f : HkFrame) {s : State} (h : Keeps s0 s) :
    KeepsA s0 (execHkFrame f s) := by
  unfold execHkFrame
  refine keepsA_next ?_
  refine State.hkReads_keeps _ ?_
  with_reducible assumption

theorem execHkCheck_keeps {s0 : State} (k : HkCheck) {s : State} (h : Keeps s0 s) :
    KeepsA s0 (execHkCheck k s) := by
  unfold execHkCheck
  refine keepsA_next ?_
  refine State.hkCheck_keeps _ ?_
  with_reducible assumption

theorem execHkTrustHka_keeps {s0 : State} (w : Caller) {s : State} (h : Keeps s0 s) :
    KeepsA s0 (execHkTrustHka w s) := by
  unfold execHkTrustHka
  refine keepsA_next ?_
  refine State.order_keeps _ _ _ _ ?_
  with_reducible assumption

theorem execHkTrustHkb_keeps {s0 : State} (w : Caller) {s : State} (h : Keeps s0 s) :
    KeepsA s0 (execHkTrustHkb w s) := by
  unfold execHkTrustHkb
  refine keepsA_next ?_
  refine State.order_keeps _ _ _ _ ?_
  with_reducible assumption

theorem execHkTrustBoth_keeps {s0 : State} (w : Caller) {s : State} (h : Keeps s0 s) :
    KeepsA s0 (execHkTrustBoth w s) := by
  unfold execHkTrustBoth
  refine keepsA_next ?_
  refine State.order_keeps _ _ _ _ ?_
  with_reducible assumption

theorem execBloadN_keeps {s0 : State} {s : State} (h : Keeps s0 s) :
    KeepsA s0 (execBloadN s) := by
  unfold execBloadN
  refine keepsA_next ?_
  refine State.bloadFalls_keeps ?_
  with_reducible assumption

theorem execBclrNFall_keeps {s0 : State} {s : State} (h : Keeps s0 s) :
    KeepsA s0 (execBclrNFall s) := by
  unfold execBclrNFall
  refine keepsA_next ?_
  refine State.clearBegins_keeps _ ?_
  with_reducible assumption

theorem execBclrNRise_keeps {s0 : State} {s : State} (h : Keeps s0 s) :
    KeepsA s0 (execBclrNRise s) := by
  unfold execBclrNRise
  refine keepsA_next ?_
  refine State.clearEnds_keeps _ ?_
  with_reducible assumption

theorem execBiasShort_keeps {s0 : State} (channel : ℕ) {s : State} (h : Keeps s0 s) :
    KeepsA s0 (execBiasShort channel s) := by
  unfold execBiasShort
  refine keepsA_next ?_
  refine State.biasShort_keeps _ ?_
  with_reducible assumption

theorem execBiasShortClear_keeps {s0 : State} (channel : ℕ) {s : State} (h : Keeps s0 s) :
    KeepsA s0 (execBiasShortClear channel s) := by
  unfold execBiasShortClear
  refine keepsA_next ?_
  refine State.biasShortClear_keeps _ ?_
  with_reducible assumption

theorem execThrottleGrace_keeps {s0 : State} (sensor : ℕ) {s : State} (h : Keeps s0 s) :
    KeepsA s0 (execThrottleGrace sensor s) := by
  unfold execThrottleGrace
  refine keepsA_next ?_
  refine State.throttleGrace_keeps _ ?_
  with_reducible assumption

theorem execThrottleStep_keeps {s0 : State} (sensor : ℕ) {s : State} (h : Keeps s0 s) :
    KeepsA s0 (execThrottleStep sensor s) := by
  unfold execThrottleStep
  refine keepsA_next ?_
  refine State.throttleStep_keeps _ ?_
  with_reducible assumption

theorem execTileMute_keeps {s0 : State} (tile : ℕ) {s : State} (h : Keeps s0 s) :
    KeepsA s0 (execTileMute tile s) := by
  unfold execTileMute
  refine keepsA_next ?_
  refine State.tileMute_keeps _ ?_
  with_reducible assumption

theorem execShutdownDeadline_keeps {s0 : State} {s : State} (h : Keeps s0 s) :
    KeepsA s0 (execShutdownDeadline s) := by
  unfold execShutdownDeadline
  refine keepsA_next ?_
  refine State.shutdownDeadline_keeps ?_
  with_reducible assumption

theorem execShutdownBiasClear_keeps {s0 : State} {s : State} (h : Keeps s0 s) :
    KeepsA s0 (execShutdownBiasClear s) := by
  unfold execShutdownBiasClear
  refine keepsA_next ?_
  refine State.shutdownBiasClear_keeps ?_
  with_reducible assumption

theorem execDriverOvercurrent_keeps {s0 : State} (path : ℕ) {s : State} (h : Keeps s0 s) :
    KeepsA s0 (execDriverOvercurrent path s) := by
  unfold execDriverOvercurrent
  refine keepsA_next ?_
  refine State.driverOvercurrent_keeps _ ?_
  with_reducible assumption

theorem execPathFaultClear_keeps {s0 : State} (w : Caller) (v : ℕ) {s : State} (h : Keeps s0 s) :
    KeepsA s0 (execPathFaultClear w v s) := by
  unfold execPathFaultClear
  refine keepsA_next ?_
  refine State.order_keeps _ _ _ _ ?_
  with_reducible assumption

theorem execLeaseRevoke_keeps {s0 : State} (w : Caller) (resource : ℕ) {s : State} (h : Keeps s0 s) :
    KeepsA s0 (execLeaseRevoke w resource s) := by
  unfold execLeaseRevoke
  refine keepsA_next ?_
  refine State.order_keeps _ _ _ _ ?_
  with_reducible assumption

theorem execFaultLogClear_keeps {s0 : State} (w : Caller) (v : ℕ) {s : State} (h : Keeps s0 s) :
    KeepsA s0 (execFaultLogClear w v s) := by
  unfold execFaultLogClear
  refine keepsA_next ?_
  refine State.order_keeps _ _ _ _ ?_
  with_reducible assumption

end Sys2Proof.Machine
end

