-- ==== Sys2Proof/Laws/KeepsExecLink.lean ====
section
/-! SUPPORT. Every operation of Machine/ExecLink.lean keeps the relation of Laws/Keeps.lean. -/
namespace Sys2Proof.Machine

theorem execDetectPulse_keeps {s0 : State} (port : ℕ) (found : ℕ) {s : State} (h : Keeps s0 s) :
    KeepsA s0 (execDetectPulse port found s) := by
  unfold execDetectPulse
  refine keepsA_next ?_
  refine State.detectPulse_keeps _ _ ?_
  with_reducible assumption

theorem execTrainDone_keeps {s0 : State} (port : ℕ) (phases : Bool) {s : State} (h : Keeps s0 s) :
    KeepsA s0 (execTrainDone port phases s) := by
  unfold execTrainDone
  refine keepsA_next ?_
  refine State.trainDone_keeps _ _ ?_
  with_reducible assumption

theorem execPortStateTimeout_keeps {s0 : State} (port : ℕ) {s : State} (h : Keeps s0 s) :
    KeepsA s0 (execPortStateTimeout port s) := by
  unfold execPortStateTimeout
  refine keepsA_next ?_
  refine State.portStateTimeout_keeps _ ?_
  with_reducible assumption

theorem execFailedTimeout_keeps {s0 : State} (port : ℕ) {s : State} (h : Keeps s0 s) :
    KeepsA s0 (execFailedTimeout port s) := by
  unfold execFailedTimeout
  refine keepsA_next ?_
  refine State.failedTimeout_keeps _ ?_
  with_reducible assumption

theorem execLock_keeps {s0 : State} (port : ℕ) (ready : Bool) (own : ℕ) (skews : List ℕ) {s : State} (h : Keeps s0 s) :
    KeepsA s0 (execLock port ready own skews s) := by
  unfold execLock
  refine keepsA_next ?_
  refine State.lockIn_keeps _ _ _ _ ?_
  with_reducible assumption

theorem execCaps_keeps {s0 : State} (port : ℕ) (message : List Byte) {s : State} (h : Keeps s0 s) :
    KeepsA s0 (execCaps port message s) := by
  unfold execCaps
  refine keepsA_next ?_
  refine State.capsIn_keeps _ _ ?_
  with_reducible assumption

theorem execChain_keeps {s0 : State} (port : ℕ) (devices : ℕ) {s : State} (h : Keeps s0 s) :
    KeepsA s0 (execChain port devices s) := by
  unfold execChain
  refine keepsA_next ?_
  refine State.chainIn_keeps _ _ ?_
  with_reducible assumption

theorem execBond_keeps {s0 : State} (port : ℕ) (lanes : List LaneBits) {s : State} (h : Keeps s0 s) :
    KeepsA s0 (execBond port lanes s) := by
  unfold execBond
  refine keepsA_next ?_
  refine State.bondIn_keeps _ _ ?_
  with_reducible assumption

theorem execLaneRejoin_keeps {s0 : State} (port : ℕ) (lane : ℕ) {s : State} (h : Keeps s0 s) :
    KeepsA s0 (execLaneRejoin port lane s) := by
  unfold execLaneRejoin
  refine keepsA_next ?_
  refine State.laneRejoin_keeps _ _ ?_
  with_reducible assumption

theorem execAlignForce_keeps {s0 : State} (port : ℕ) {s : State} (h : Keeps s0 s) :
    KeepsA s0 (execAlignForce port s) := by
  unfold execAlignForce
  refine keepsA_next ?_
  refine State.alignForce_keeps _ ?_
  with_reducible assumption

theorem execClockLoss_keeps {s0 : State} (port : ℕ) {s : State} (h : Keeps s0 s) :
    KeepsA s0 (execClockLoss port s) := by
  unfold execClockLoss
  refine keepsA_next ?_
  refine State.clockLoss_keeps _ ?_
  with_reducible assumption

theorem execLinkRetrain_keeps {s0 : State} (w : Caller) (port : ℕ) (v : ℕ) {s : State} (h : Keeps s0 s) :
    KeepsA s0 (execLinkRetrain w port v s) := by
  unfold execLinkRetrain
  refine keepsA_next ?_
  refine State.order_keeps _ _ _ _ ?_
  with_reducible assumption

theorem execLinkEnable_keeps {s0 : State} (w : Caller) (port : ℕ) (v : ℕ) {s : State} (h : Keeps s0 s) :
    KeepsA s0 (execLinkEnable w port v s) := by
  unfold execLinkEnable
  refine keepsA_next ?_
  refine State.order_keeps _ _ _ _ ?_
  with_reducible assumption

theorem execScramblerFrameStart_keeps {s0 : State} (port : ℕ) {s : State} (h : Keeps s0 s) :
    KeepsA s0 (execScramblerFrameStart port s) := by
  unfold execScramblerFrameStart
  refine keepsA_next ?_
  refine State.scramblerFrame_keeps _ ?_
  with_reducible assumption

theorem execLayerDl_keeps {s0 : State} (y0 : PacketHead) (payload : List Byte) {s : State} (h : Keeps s0 s) :
    KeepsA s0 (execLayerDl y0 payload s) := by
  unfold execLayerDl
  refine keepsA_next ?_
  refine State.headIn_keeps _ _ _ ?_
  with_reducible assumption

theorem execLayerUl_keeps {s0 : State} (y0 : PacketHead) (payload : List Byte) {s : State} (h : Keeps s0 s) :
    KeepsA s0 (execLayerUl y0 payload s) := by
  unfold execLayerUl
  refine keepsA_next ?_
  refine State.headIn_keeps _ _ _ ?_
  with_reducible assumption

theorem execPrach_keeps {s0 : State} (y0 : PacketHead) (payload : List Byte) {s : State} (h : Keeps s0 s) :
    KeepsA s0 (execPrach y0 payload s) := by
  unfold execPrach
  refine keepsA_next ?_
  refine State.headIn_keeps _ _ _ ?_
  with_reducible assumption

theorem execGram_keeps {s0 : State} (y0 : PacketHead) (payload : List Byte) {s : State} (h : Keeps s0 s) :
    KeepsA s0 (execGram y0 payload s) := by
  unfold execGram
  refine keepsA_next ?_
  refine State.headIn_keeps _ _ _ ?_
  with_reducible assumption

theorem execCatReq_keeps {s0 : State} (y0 : PacketHead) (payload : List Byte) {s : State} (h : Keeps s0 s) :
    KeepsA s0 (execCatReq y0 payload s) := by
  unfold execCatReq
  refine keepsA_next ?_
  refine State.bootContinue_keeps ?_
  refine State.headIn_keeps _ _ _ ?_
  with_reducible assumption

theorem execCatRsp_keeps {s0 : State} (y0 : PacketHead) (payload : List Byte) {s : State} (h : Keeps s0 s) :
    KeepsA s0 (execCatRsp y0 payload s) := by
  unfold execCatRsp
  refine keepsA_next ?_
  refine State.headIn_keeps _ _ _ ?_
  with_reducible assumption

theorem execEvent_keeps {s0 : State} (y0 : PacketHead) (payload : List Byte) {s : State} (h : Keeps s0 s) :
    KeepsA s0 (execEvent y0 payload s) := by
  unfold execEvent
  refine keepsA_next ?_
  refine State.headIn_keeps _ _ _ ?_
  with_reducible assumption

theorem execFrame_keeps {s0 : State} (y0 : PacketHead) (holdover : Bool) (offset : ℕ) {s : State} (h : Keeps s0 s) :
    KeepsA s0 (execFrame y0 holdover offset s) := by
  unfold execFrame
  refine keepsA_next ?_
  refine State.headIn_keeps _ _ _ ?_
  with_reducible assumption

theorem execEchoReq_keeps {s0 : State} (y0 : PacketHead) (id : ℕ) {s : State} (h : Keeps s0 s) :
    KeepsA s0 (execEchoReq y0 id s) := by
  unfold execEchoReq
  refine keepsA_next ?_
  refine State.headIn_keeps _ _ _ ?_
  with_reducible assumption

theorem execEchoRsp_keeps {s0 : State} (y0 : PacketHead) (id : ℕ) (turn : ℕ) {s : State} (h : Keeps s0 s) :
    KeepsA s0 (execEchoRsp y0 id turn s) := by
  unfold execEchoRsp
  refine keepsA_next ?_
  refine State.headIn_keeps _ _ _ ?_
  with_reducible assumption

theorem execReady_keeps {s0 : State} (y0 : PacketHead) (ready : Bool) {s : State} (h : Keeps s0 s) :
    KeepsA s0 (execReady y0 ready s) := by
  unfold execReady
  refine keepsA_next ?_
  refine State.headIn_keeps _ _ _ ?_
  with_reducible assumption

theorem execDecision_keeps {s0 : State} (y0 : PacketHead) (go : Bool) (epoch : ℕ) {s : State} (h : Keeps s0 s) :
    KeepsA s0 (execDecision y0 go epoch s) := by
  unfold execDecision
  refine keepsA_next ?_
  refine State.headIn_keeps _ _ _ ?_
  with_reducible assumption

theorem execMemRead_keeps {s0 : State} (y0 : PacketHead) (a : MemAccess) {s : State} (h : Keeps s0 s) :
    KeepsA s0 (execMemRead y0 a s) := by
  unfold execMemRead
  refine keepsA_next ?_
  refine State.headIn_keeps _ _ _ ?_
  with_reducible assumption

theorem execMemWrite_keeps {s0 : State} (y0 : PacketHead) (a : MemAccess) (data : List Byte) {s : State} (h : Keeps s0 s) :
    KeepsA s0 (execMemWrite y0 a data s) := by
  unfold execMemWrite
  refine keepsA_next ?_
  refine State.headIn_keeps _ _ _ ?_
  with_reducible assumption

theorem execMemResponse_keeps {s0 : State} (y0 : PacketHead) (payload : List Byte) {s : State} (h : Keeps s0 s) :
    KeepsA s0 (execMemResponse y0 payload s) := by
  unfold execMemResponse
  refine keepsA_next ?_
  refine State.headIn_keeps _ _ _ ?_
  with_reducible assumption

theorem execCapture_keeps {s0 : State} (y0 : PacketHead) (payload : List Byte) {s : State} (h : Keeps s0 s) :
    KeepsA s0 (execCapture y0 payload s) := by
  unfold execCapture
  refine keepsA_next ?_
  refine State.headIn_keeps _ _ _ ?_
  with_reducible assumption

theorem execTypeDrop_keeps {s0 : State} (y0 : PacketHead) (typ : ℕ) (payload : List Byte) {s : State} (h : Keeps s0 s) :
    KeepsA s0 (execTypeDrop y0 typ payload s) := by
  unfold execTypeDrop
  refine keepsA_next ?_
  refine State.headIn_keeps _ _ _ ?_
  with_reducible assumption

theorem execReturn_keeps {s0 : State} (y0 : PacketHead) (u : CreditUnits) {s : State} (h : Keeps s0 s) :
    KeepsA s0 (execReturn y0 u s) := by
  unfold execReturn
  refine keepsA_next ?_
  refine State.headIn_keeps _ _ _ ?_
  with_reducible assumption

theorem execResyncReq_keeps {s0 : State} (y0 : PacketHead) {s : State} (h : Keeps s0 s) :
    KeepsA s0 (execResyncReq y0 s) := by
  unfold execResyncReq
  refine keepsA_next ?_
  refine State.headIn_keeps _ _ _ ?_
  with_reducible assumption

theorem execResyncAck_keeps {s0 : State} (y0 : PacketHead) {s : State} (h : Keeps s0 s) :
    KeepsA s0 (execResyncAck y0 s) := by
  unfold execResyncAck
  refine keepsA_next ?_
  refine State.headIn_keeps _ _ _ ?_
  with_reducible assumption

theorem execResyncDone_keeps {s0 : State} (y0 : PacketHead) (u : CreditUnits) {s : State} (h : Keeps s0 s) :
    KeepsA s0 (execResyncDone y0 u s) := by
  unfold execResyncDone
  refine keepsA_next ?_
  refine State.headIn_keeps _ _ _ ?_
  with_reducible assumption

theorem execResyncRetry_keeps {s0 : State} (port : ℕ) {s : State} (h : Keeps s0 s) :
    KeepsA s0 (execResyncRetry port s) := by
  unfold execResyncRetry
  refine keepsA_next ?_
  refine State.resyncRetry_keeps _ ?_
  with_reducible assumption

theorem execCreditReturnSend_keeps {s0 : State} (port : ℕ) {s : State} (h : Keeps s0 s) :
    KeepsA s0 (execCreditReturnSend port s) := by
  unfold execCreditReturnSend
  refine keepsA_next ?_
  refine State.creditReturnSend_keeps _ ?_
  with_reducible assumption

theorem execEchoInterval_keeps {s0 : State} {s : State} (h : Keeps s0 s) :
    KeepsA s0 (execEchoInterval s) := by
  unfold execEchoInterval
  refine keepsA_next ?_
  refine State.echoInterval_keeps ?_
  with_reducible assumption

theorem execFrameMarkerSend_keeps {s0 : State} {s : State} (h : Keeps s0 s) :
    KeepsA s0 (execFrameMarkerSend s) := by
  unfold execFrameMarkerSend
  refine keepsA_next ?_
  refine State.frameMarker_keeps ?_
  with_reducible assumption

theorem execPacketSend_keeps {s0 : State} (port : ℕ) {s : State} (h : Keeps s0 s) :
    KeepsA s0 (execPacketSend port s) := by
  unfold execPacketSend
  refine keepsA_next ?_
  refine State.packetSend_keeps _ ?_
  with_reducible assumption

theorem execCaptureSend_keeps {s0 : State} (port : ℕ) {s : State} (h : Keeps s0 s) :
    KeepsA s0 (execCaptureSend port s) := by
  unfold execCaptureSend
  refine keepsA_next ?_
  refine State.captureSend_keeps _ ?_
  with_reducible assumption

end Sys2Proof.Machine
end

