-- ==== Sys2Proof/Laws/KeepsExecMason.lean ====
section
/-! SUPPORT. Every operation of Machine/ExecMason.lean keeps the relation of Laws/Keeps.lean. -/
namespace Sys2Proof.Machine

theorem execInterruptEntry_keeps {s0 : State} (core : ℕ) {s : State} (h : Keeps s0 s) :
    KeepsA s0 (execInterruptEntry core s) := by
  unfold execInterruptEntry
  refine keepsA_next ?_
  refine State.interruptEntry_keeps _ ?_
  with_reducible assumption

theorem execXferComplete_keeps {s0 : State} (core : ℕ) (place : ℕ) (error : Bool) {s : State} (h : Keeps s0 s) :
    KeepsA s0 (execXferComplete core place error s) := by
  unfold execXferComplete
  refine keepsA_next ?_
  refine State.xferComplete_keeps _ _ _ ?_
  with_reducible assumption

theorem execTimerCompare_keeps {s0 : State} (core : ℕ) {s : State} (h : Keeps s0 s) :
    KeepsA s0 (execTimerCompare core s) := by
  unfold execTimerCompare
  refine keepsA_next ?_
  refine State.timerCompare_keeps _ ?_
  with_reducible assumption

theorem execWatchdogOverrun_keeps {s0 : State} (core : ℕ) {s : State} (h : Keeps s0 s) :
    KeepsA s0 (execWatchdogOverrun core s) := by
  unfold execWatchdogOverrun
  refine keepsA_next ?_
  refine State.watchdog_keeps _ ?_
  with_reducible assumption

theorem execCoreParityError_keeps {s0 : State} (core : ℕ) {s : State} (h : Keeps s0 s) :
    KeepsA s0 (execCoreParityError core s) := by
  unfold execCoreParityError
  refine keepsA_next ?_
  refine State.coreParity_keeps _ ?_
  with_reducible assumption

theorem execMasonRestore_keeps {s0 : State} (w : Caller) (core : ℕ) {s : State} (h : Keeps s0 s) :
    KeepsA s0 (execMasonRestore w core s) := by
  unfold execMasonRestore
  refine keepsA_next ?_
  refine State.order_keeps _ _ _ _ ?_
  with_reducible assumption

theorem execMasonSelftestDone_keeps {s0 : State} (core : ℕ) (pass : Bool) {s : State} (h : Keeps s0 s) :
    KeepsA s0 (execMasonSelftestDone core pass s) := by
  unfold execMasonSelftestDone
  refine keepsA_next ?_
  refine State.selftestDone_keeps _ _ ?_
  with_reducible assumption

theorem execMasonKernelLoad_keeps {s0 : State} (r : Request) {s : State} (h : Keeps s0 s) :
    KeepsA s0 (execMasonKernelLoad r s) := by
  unfold execMasonKernelLoad
  refine keepsA_next ?_
  refine State.orderSegment_keeps _ _ ?_
  with_reducible assumption

theorem execMasonKernelUnload_keeps {s0 : State} (w : Caller) (slot : ℕ) {s : State} (h : Keeps s0 s) :
    KeepsA s0 (execMasonKernelUnload w slot s) := by
  unfold execMasonKernelUnload
  refine keepsA_next ?_
  refine State.order_keeps _ _ _ _ ?_
  with_reducible assumption

theorem execMasonJobSubmit_keeps {s0 : State} (w : Caller) (record : List Byte) {s : State} (h : Keeps s0 s) :
    KeepsA s0 (execMasonJobSubmit w record s) := by
  unfold execMasonJobSubmit
  refine keepsA_next ?_
  refine State.orderRecord_keeps _ _ _ ?_
  with_reducible assumption

theorem execMasonJobCancel_keeps {s0 : State} (w : Caller) (job : ℕ) {s : State} (h : Keeps s0 s) :
    KeepsA s0 (execMasonJobCancel w job s) := by
  unfold execMasonJobCancel
  refine keepsA_next ?_
  refine State.order_keeps _ _ _ _ ?_
  with_reducible assumption

theorem execLeaseExpiry_keeps {s0 : State} (resource : ℕ) {s : State} (h : Keeps s0 s) :
    KeepsA s0 (execLeaseExpiry resource s) := by
  unfold execLeaseExpiry
  refine keepsA_next ?_
  refine State.leaseExpiry_keeps _ ?_
  with_reducible assumption

end Sys2Proof.Machine
end

