-- ==== Sys2Proof/Laws/KeepsExecPower.lean ====
section
/-! SUPPORT. Every operation of Machine/ExecPower.lean keeps the relation of Laws/Keeps.lean. -/
namespace Sys2Proof.Machine

theorem execDomainReady_keeps {s0 : State} (domain : ℕ) (good : Bool) (osc : Bool) (init : Bool) {s : State} (h : Keeps s0 s) :
    KeepsA s0 (execDomainReady domain good osc init s) := by
  unfold execDomainReady
  refine keepsA_next ?_
  refine State.domainReady_keeps _ _ _ _ ?_
  with_reducible assumption

theorem execDomainWakeTimeout_keeps {s0 : State} (domain : ℕ) {s : State} (h : Keeps s0 s) :
    KeepsA s0 (execDomainWakeTimeout domain s) := by
  unfold execDomainWakeTimeout
  refine keepsA_next ?_
  refine State.failStalled_keeps _ _ ?_
  refine State.wakeTimeout_keeps _ ?_
  with_reducible assumption

theorem execArchInitLimit_keeps {s0 : State} {s : State} (h : Keeps s0 s) :
    KeepsA s0 (execArchInitLimit s) := by
  unfold execArchInitLimit
  refine keepsA_next ?_
  refine State.failStalled_keeps _ _ ?_
  refine State.archInitLimit_keeps ?_
  with_reducible assumption

theorem execDomainIdleOff_keeps {s0 : State} (domain : ℕ) {s : State} (h : Keeps s0 s) :
    KeepsA s0 (execDomainIdleOff domain s) := by
  unfold execDomainIdleOff
  refine keepsA_next ?_
  refine State.idleOff_keeps _ ?_
  with_reducible assumption

theorem execDomainSwitchOffDone_keeps {s0 : State} (domain : ℕ) {s : State} (h : Keeps s0 s) :
    KeepsA s0 (execDomainSwitchOffDone domain s) := by
  unfold execDomainSwitchOffDone
  refine keepsA_next ?_
  refine State.goOn_keeps ?_
  refine State.switchOffDone_keeps _ ?_
  with_reducible assumption

theorem execGovPlannedWake_keeps {s0 : State} (course : ℕ) {s : State} (h : Keeps s0 s) :
    KeepsA s0 (execGovPlannedWake course s) := by
  unfold execGovPlannedWake
  refine keepsA_next ?_
  refine State.plannedWake_keeps _ ?_
  with_reducible assumption

theorem execGovDormantRequest_keeps {s0 : State} {s : State} (h : Keeps s0 s) :
    KeepsA s0 (execGovDormantRequest s) := by
  unfold execGovDormantRequest
  refine keepsA_next ?_
  refine State.dormantRequest_keeps ?_
  with_reducible assumption

theorem execGovWakeNow_keeps {s0 : State} (w : Caller) (v : ℕ) {s : State} (h : Keeps s0 s) :
    KeepsA s0 (execGovWakeNow w v s) := by
  unfold execGovWakeNow
  refine keepsA_next ?_
  refine State.order_keeps _ _ _ _ ?_
  with_reducible assumption

theorem execRefclkLoss_keeps {s0 : State} {s : State} (h : Keeps s0 s) :
    KeepsA s0 (execRefclkLoss s) := by
  unfold execRefclkLoss
  refine keepsA_next ?_
  refine State.refclkLoss_keeps ?_
  with_reducible assumption

theorem execClockReturn_keeps {s0 : State} {s : State} (h : Keeps s0 s) :
    KeepsA s0 (execClockReturn s) := by
  unfold execClockReturn
  refine keepsA_next ?_
  refine State.goOn_keeps ?_
  refine State.clockReturn_keeps ?_
  with_reducible assumption

theorem execPowerHold_keeps {s0 : State} (w : Caller) (course : ℕ) {s : State} (h : Keeps s0 s) :
    KeepsA s0 (execPowerHold w course s) := by
  unfold execPowerHold
  refine keepsA_next ?_
  refine State.order_keeps _ _ _ _ ?_
  with_reducible assumption

theorem execPowerRelease_keeps {s0 : State} (w : Caller) (course : ℕ) {s : State} (h : Keeps s0 s) :
    KeepsA s0 (execPowerRelease w course s) := by
  unfold execPowerRelease
  refine keepsA_next ?_
  refine State.order_keeps _ _ _ _ ?_
  with_reducible assumption

theorem execPowerOn_keeps {s0 : State} {s : State} (h : Keeps s0 s) :
    KeepsA s0 (execPowerOn s) := by
  unfold execPowerOn
  refine keepsA_next ?_
  refine State.assertSource_keeps _ ?_
  with_reducible assumption

theorem execBrownOut_keeps {s0 : State} {s : State} (h : Keeps s0 s) :
    KeepsA s0 (execBrownOut s) := by
  unfold execBrownOut
  refine keepsA_next ?_
  refine State.assertSource_keeps _ ?_
  with_reducible assumption

theorem execRstNLow_keeps {s0 : State} {s : State} (h : Keeps s0 s) :
    KeepsA s0 (execRstNLow s) := by
  unfold execRstNLow
  refine keepsA_next ?_
  refine State.rstLow_keeps ?_
  with_reducible assumption

theorem execRstNHigh_keeps {s0 : State} (straps : ℕ) {s : State} (h : Keeps s0 s) :
    KeepsA s0 (execRstNHigh straps s) := by
  unfold execRstNHigh
  refine keepsA_next ?_
  refine State.rstHigh_keeps _ ?_
  with_reducible assumption

theorem execKeystoneWatchdog_keeps {s0 : State} {s : State} (h : Keeps s0 s) :
    KeepsA s0 (execKeystoneWatchdog s) := by
  unfold execKeystoneWatchdog
  refine keepsA_next ?_
  refine State.keystoneWatchdog_keeps ?_
  with_reducible assumption

theorem execCriticalParity_keeps {s0 : State} {s : State} (h : Keeps s0 s) :
    KeepsA s0 (execCriticalParity s) := by
  unfold execCriticalParity
  refine keepsA_next ?_
  refine State.assertSource_keeps _ ?_
  with_reducible assumption

theorem execShadowUncorrectable_keeps {s0 : State} {s : State} (h : Keeps s0 s) :
    KeepsA s0 (execShadowUncorrectable s) := by
  unfold execShadowUncorrectable
  refine keepsA_next ?_
  refine State.assertSource_keeps _ ?_
  with_reducible assumption

theorem execResetSourceRelease_keeps {s0 : State} (bit : ℕ) (straps : ℕ) {s : State} (h : Keeps s0 s) :
    KeepsA s0 (execResetSourceRelease bit straps s) := by
  unfold execResetSourceRelease
  refine keepsA_next ?_
  refine State.sourceRelease_keeps _ _ ?_
  with_reducible assumption

theorem execResetRequestCold_keeps {s0 : State} (w : Caller) {s : State} (h : Keeps s0 s) :
    KeepsA s0 (execResetRequestCold w s) := by
  unfold execResetRequestCold
  refine keepsA_next ?_
  refine State.order_keeps _ _ _ _ ?_
  with_reducible assumption

theorem execResetRequestWarm_keeps {s0 : State} (w : Caller) {s : State} (h : Keeps s0 s) :
    KeepsA s0 (execResetRequestWarm w s) := by
  unfold execResetRequestWarm
  refine keepsA_next ?_
  refine State.order_keeps _ _ _ _ ?_
  with_reducible assumption

theorem execLinkCommandAssert_keeps {s0 : State} {s : State} (h : Keeps s0 s) :
    KeepsA s0 (execLinkCommandAssert s) := by
  unfold execLinkCommandAssert
  refine keepsA_next ?_
  refine State.linkCommandAssert_keeps ?_
  with_reducible assumption

theorem execResetCauseClear_keeps {s0 : State} (w : Caller) (v : ℕ) {s : State} (h : Keeps s0 s) :
    KeepsA s0 (execResetCauseClear w v s) := by
  unfold execResetCauseClear
  refine keepsA_next ?_
  refine State.order_keeps _ _ _ _ ?_
  with_reducible assumption

theorem execDomainReset_keeps {s0 : State} (w : Caller) (domain : ℕ) {s : State} (h : Keeps s0 s) :
    KeepsA s0 (execDomainReset w domain s) := by
  unfold execDomainReset
  refine keepsA_next ?_
  refine State.order_keeps _ _ _ _ ?_
  with_reducible assumption

theorem execDomainResetDone_keeps {s0 : State} (domain : ℕ) {s : State} (h : Keeps s0 s) :
    KeepsA s0 (execDomainResetDone domain s) := by
  unfold execDomainResetDone
  refine keepsA_next ?_
  refine State.goOn_keeps ?_
  refine State.domainResetDone_keeps _ ?_
  with_reducible assumption

theorem execBootImageReadDone_keeps {s0 : State} {s : State} (h : Keeps s0 s) :
    KeepsA s0 (execBootImageReadDone s) := by
  unfold execBootImageReadDone
  refine keepsA_next ?_
  refine State.bootContinue_keeps ?_
  refine State.imageReadDone_keeps ?_
  with_reducible assumption

theorem execBootReadTimeout_keeps {s0 : State} {s : State} (h : Keeps s0 s) :
    KeepsA s0 (execBootReadTimeout s) := by
  unfold execBootReadTimeout
  refine keepsA_next ?_
  refine State.bootContinue_keeps ?_
  refine State.bootReadTimeout_keeps ?_
  with_reducible assumption

theorem execBootImageLoad_keeps {s0 : State} (r : Request) {s : State} (h : Keeps s0 s) :
    KeepsA s0 (execBootImageLoad r s) := by
  unfold execBootImageLoad
  refine keepsA_next ?_
  refine State.orderSegment_keeps _ _ ?_
  with_reducible assumption

theorem execKeyRevoke_keeps {s0 : State} (w : Caller) (record : List Byte) {s : State} (h : Keeps s0 s) :
    KeepsA s0 (execKeyRevoke w record s) := by
  unfold execKeyRevoke
  refine keepsA_next ?_
  refine State.orderRecord_keeps _ _ _ ?_
  with_reducible assumption

theorem execKeyRevoked_keeps {s0 : State} {s : State} (h : Keeps s0 s) :
    KeepsA s0 (execKeyRevoked s) := by
  unfold execKeyRevoked
  refine keepsA_next ?_
  refine State.keyRevoked_keeps ?_
  with_reducible assumption

theorem execAttestRequest_keeps {s0 : State} (w : Caller) (nonce : List Byte) {s : State} (h : Keeps s0 s) :
    KeepsA s0 (execAttestRequest w nonce s) := by
  unfold execAttestRequest
  refine keepsA_next ?_
  refine State.orderRecord_keeps _ _ _ ?_
  with_reducible assumption

theorem execAttestDone_keeps {s0 : State} {s : State} (h : Keeps s0 s) :
    KeepsA s0 (execAttestDone s) := by
  unfold execAttestDone
  refine keepsA_next ?_
  refine State.attestDone_keeps ?_
  with_reducible assumption

theorem execIdentitySign_keeps {s0 : State} (w : Caller) (digest : List Byte) {s : State} (h : Keeps s0 s) :
    KeepsA s0 (execIdentitySign w digest s) := by
  unfold execIdentitySign
  refine keepsA_next ?_
  refine State.orderRecord_keeps _ _ _ ?_
  with_reducible assumption

theorem execSignDone_keeps {s0 : State} {s : State} (h : Keeps s0 s) :
    KeepsA s0 (execSignDone s) := by
  unfold execSignDone
  refine keepsA_next ?_
  refine State.signDone_keeps ?_
  with_reducible assumption

theorem execTestLogicReset_keeps {s0 : State} (straps : ℕ) {s : State} (h : Keeps s0 s) :
    KeepsA s0 (execTestLogicReset straps s) := by
  unfold execTestLogicReset
  refine keepsA_next ?_
  refine State.scanOther_keeps _ _ ?_
  with_reducible assumption

theorem execIdcode_keeps {s0 : State} (straps : ℕ) {s : State} (h : Keeps s0 s) :
    KeepsA s0 (execIdcode straps s) := by
  unfold execIdcode
  refine keepsA_next ?_
  refine State.scanOther_keeps _ _ ?_
  with_reducible assumption

theorem execSamplePreload_keeps {s0 : State} (cells : List Bool) (straps : ℕ) {s : State} (h : Keeps s0 s) :
    KeepsA s0 (execSamplePreload cells straps s) := by
  unfold execSamplePreload
  refine keepsA_next ?_
  refine State.scanPreload_keeps _ _ ?_
  with_reducible assumption

theorem execExtest_keeps {s0 : State} {s : State} (h : Keeps s0 s) :
    KeepsA s0 (execExtest s) := by
  unfold execExtest
  refine keepsA_next ?_
  refine State.scanTest_keeps _ ?_
  with_reducible assumption

theorem execExtestPulse_keeps {s0 : State} {s : State} (h : Keeps s0 s) :
    KeepsA s0 (execExtestPulse s) := by
  unfold execExtestPulse
  refine keepsA_next ?_
  refine State.scanTest_keeps _ ?_
  with_reducible assumption

theorem execExtestTrain_keeps {s0 : State} {s : State} (h : Keeps s0 s) :
    KeepsA s0 (execExtestTrain s) := by
  unfold execExtestTrain
  refine keepsA_next ?_
  refine State.scanTest_keeps _ ?_
  with_reducible assumption

theorem execClamp_keeps {s0 : State} {s : State} (h : Keeps s0 s) :
    KeepsA s0 (execClamp s) := by
  unfold execClamp
  refine keepsA_next ?_
  refine State.scanTest_keeps _ ?_
  with_reducible assumption

theorem execHighz_keeps {s0 : State} {s : State} (h : Keeps s0 s) :
    KeepsA s0 (execHighz s) := by
  unfold execHighz
  refine keepsA_next ?_
  refine State.scanTest_keeps _ ?_
  with_reducible assumption

theorem execBypass_keeps {s0 : State} (straps : ℕ) {s : State} (h : Keeps s0 s) :
    KeepsA s0 (execBypass straps s) := by
  unfold execBypass
  refine keepsA_next ?_
  refine State.scanOther_keeps _ _ ?_
  with_reducible assumption

end Sys2Proof.Machine
end

