-- ==== Sys2Proof/Laws/KeepsExecRadio.lean ====
section
/-! SUPPORT. Every operation of Machine/ExecRadio.lean keeps the relation of Laws/Keeps.lean. -/
namespace Sys2Proof.Machine

theorem execDcRange_keeps {s0 : State} (path : ℕ) (code : ℕ) {s : State} (h : Keeps s0 s) :
    KeepsA s0 (execDcRange path code s) := by
  unfold execDcRange
  refine keepsA_next ?_
  refine State.dcRange_keeps _ _ ?_
  with_reducible assumption

theorem execSynUnlock_keeps {s0 : State} (course : ℕ) {s : State} (h : Keeps s0 s) :
    KeepsA s0 (execSynUnlock course s) := by
  unfold execSynUnlock
  refine keepsA_next ?_
  refine State.synUnlock_keeps _ ?_
  with_reducible assumption

theorem execSynLock_keeps {s0 : State} (course : ℕ) {s : State} (h : Keeps s0 s) :
    KeepsA s0 (execSynLock course s) := by
  unfold execSynLock
  refine keepsA_next ?_
  refine State.synLock_keeps _ ?_
  with_reducible assumption

theorem execRelockAttemptFail_keeps {s0 : State} (course : ℕ) {s : State} (h : Keeps s0 s) :
    KeepsA s0 (execRelockAttemptFail course s) := by
  unfold execRelockAttemptFail
  refine keepsA_next ?_
  refine State.relockFail_keeps _ ?_
  with_reducible assumption

theorem execLoBorrowSwitch_keeps {s0 : State} (course : ℕ) {s : State} (h : Keeps s0 s) :
    KeepsA s0 (execLoBorrowSwitch course s) := by
  unfold execLoBorrowSwitch
  refine keepsA_next ?_
  refine State.loBorrowSwitch_keeps _ ?_
  with_reducible assumption

theorem execLoBorrow_keeps {s0 : State} (course : ℕ) (offsets : List ℤ) {s : State} (h : Keeps s0 s) :
    KeepsA s0 (execLoBorrow course offsets s) := by
  unfold execLoBorrow
  refine keepsA_next ?_
  refine State.loBorrow_keeps _ _ ?_
  with_reducible assumption

theorem execCourseTransitionStart_keeps {s0 : State} (course : ℕ) {s : State} (h : Keeps s0 s) :
    KeepsA s0 (execCourseTransitionStart course s) := by
  unfold execCourseTransitionStart
  refine keepsA_next ?_
  refine State.courseStart_keeps _ ?_
  with_reducible assumption

theorem execCourseTransitionDone_keeps {s0 : State} (course : ℕ) {s : State} (h : Keeps s0 s) :
    KeepsA s0 (execCourseTransitionDone course s) := by
  unfold execCourseTransitionDone
  refine keepsA_next ?_
  refine State.courseDone_keeps _ ?_
  with_reducible assumption

theorem execObservationStep_keeps {s0 : State} (receiver : ℕ) (selfCheck : Bool) {s : State} (h : Keeps s0 s) :
    KeepsA s0 (execObservationStep receiver selfCheck s) := by
  unfold execObservationStep
  refine keepsA_next ?_
  refine State.observationStep_keeps _ _ ?_
  with_reducible assumption

theorem execForwardCaptureDone_keeps {s0 : State} (receiver : ℕ) (pFbin : ℤ) (d : ℤ) (oneCode : Bool) (samples : List Byte) {s : State} (h : Keeps s0 s) :
    KeepsA s0 (execForwardCaptureDone receiver pFbin d oneCode samples s) := by
  unfold execForwardCaptureDone
  refine keepsA_next ?_
  refine State.forwardDone_keeps _ _ _ _ _ ?_
  with_reducible assumption

theorem execReflectedCaptureDone_keeps {s0 : State} (receiver : ℕ) (pRef : ℤ) (d : ℤ) {s : State} (h : Keeps s0 s) :
    KeepsA s0 (execReflectedCaptureDone receiver pRef d s) := by
  unfold execReflectedCaptureDone
  refine keepsA_next ?_
  refine State.reflectedDone_keeps _ _ _ ?_
  with_reducible assumption

theorem execLinUpdateReady_keeps {s0 : State} (path : ℕ) (nmse : ℤ) (aclr : ℤ) (cands : List (Tab Cplx)) (coefs : List Byte) {s : State} (h : Keeps s0 s) :
    KeepsA s0 (execLinUpdateReady path nmse aclr cands coefs s) := by
  unfold execLinUpdateReady
  refine keepsA_next ?_
  refine State.linReady_keeps _ _ _ _ _ ?_
  with_reducible assumption

theorem execLinResume_keeps {s0 : State} (w : Caller) (v : ℕ) {s : State} (h : Keeps s0 s) :
    KeepsA s0 (execLinResume w v s) := by
  unfold execLinResume
  refine keepsA_next ?_
  refine State.order_keeps _ _ _ _ ?_
  with_reducible assumption

theorem execFolioSeal_keeps {s0 : State} (w : Caller) (slot : ℕ) {s : State} (h : Keeps s0 s) :
    KeepsA s0 (execFolioSeal w slot s) := by
  unfold execFolioSeal
  refine keepsA_next ?_
  refine State.order_keeps _ _ _ _ ?_
  with_reducible assumption

theorem execSoundingWriteDone_keeps {s0 : State} {s : State} (h : Keeps s0 s) :
    KeepsA s0 (execSoundingWriteDone s) := by
  unfold execSoundingWriteDone
  refine keepsA_next ?_
  refine State.soundingWriteDone_keeps ?_
  with_reducible assumption

theorem execLibraryValidate_keeps {s0 : State} (w : Caller) (entry : ℕ) {s : State} (h : Keeps s0 s) :
    KeepsA s0 (execLibraryValidate w entry s) := by
  unfold execLibraryValidate
  refine keepsA_next ?_
  refine State.order_keeps _ _ _ _ ?_
  with_reducible assumption

theorem execLibraryInvalidate_keeps {s0 : State} (w : Caller) (entry : ℕ) {s : State} (h : Keeps s0 s) :
    KeepsA s0 (execLibraryInvalidate w entry s) := by
  unfold execLibraryInvalidate
  refine keepsA_next ?_
  refine State.order_keeps _ _ _ _ ?_
  with_reducible assumption

theorem execWeightJobSubmit_keeps {s0 : State} (w : Caller) (record : List Byte) {s : State} (h : Keeps s0 s) :
    KeepsA s0 (execWeightJobSubmit w record s) := by
  unfold execWeightJobSubmit
  refine keepsA_next ?_
  refine State.orderRecord_keeps _ _ _ ?_
  with_reducible assumption

theorem execWeightJobCancel_keeps {s0 : State} (w : Caller) (job : ℕ) {s : State} (h : Keeps s0 s) :
    KeepsA s0 (execWeightJobCancel w job s) := by
  unfold execWeightJobCancel
  refine keepsA_next ?_
  refine State.order_keeps _ _ _ _ ?_
  with_reducible assumption

theorem execJobStart_keeps {s0 : State} {s : State} (h : Keeps s0 s) :
    KeepsA s0 (execJobStart s) := by
  unfold execJobStart
  refine keepsA_next ?_
  refine State.jobStart_keeps ?_
  with_reducible assumption

theorem execJobDone_keeps {s0 : State} (micros : ℕ) {s : State} (h : Keeps s0 s) :
    KeepsA s0 (execJobDone micros s) := by
  unfold execJobDone
  refine keepsA_next ?_
  refine State.jobDone_keeps _ ?_
  with_reducible assumption

theorem execGramTimeout_keeps {s0 : State} {s : State} (h : Keeps s0 s) :
    KeepsA s0 (execGramTimeout s) := by
  unfold execGramTimeout
  refine keepsA_next ?_
  refine State.gramTimeout_keeps ?_
  with_reducible assumption

theorem execCancelSetSeal_keeps {s0 : State} (w : Caller) (slot : ℕ) {s : State} (h : Keeps s0 s) :
    KeepsA s0 (execCancelSetSeal w slot s) := by
  unfold execCancelSetSeal
  refine keepsA_next ?_
  refine State.order_keeps _ _ _ _ ?_
  with_reducible assumption

theorem execCancelSetLoaded_keeps {s0 : State} (slot : ℕ) {s : State} (h : Keeps s0 s) :
    KeepsA s0 (execCancelSetLoaded slot s) := by
  unfold execCancelSetLoaded
  refine keepsA_next ?_
  refine State.cancelSetLoaded_keeps _ ?_
  with_reducible assumption

theorem execCancelTrain_keeps {s0 : State} (w : Caller) (record : List Byte) {s : State} (h : Keeps s0 s) :
    KeepsA s0 (execCancelTrain w record s) := by
  unfold execCancelTrain
  refine keepsA_next ?_
  refine State.orderRecord_keeps _ _ _ ?_
  with_reducible assumption

theorem execCancelTrainStart_keeps {s0 : State} {s : State} (h : Keeps s0 s) :
    KeepsA s0 (execCancelTrainStart s) := by
  unfold execCancelTrainStart
  refine keepsA_next ?_
  refine State.cancelTrainStart_keeps ?_
  with_reducible assumption

theorem execCancelTrainStageDone_keeps {s0 : State} (r : TrainResult) {s : State} (h : Keeps s0 s) :
    KeepsA s0 (execCancelTrainStageDone r s) := by
  unfold execCancelTrainStageDone
  refine keepsA_next ?_
  refine State.trainStageDone_keeps _ ?_
  with_reducible assumption

theorem execCancelTrackReady_keeps {s0 : State} (solves : List TrackSolve) {s : State} (h : Keeps s0 s) :
    KeepsA s0 (execCancelTrackReady solves s) := by
  unfold execCancelTrackReady
  refine keepsA_next ?_
  refine State.trackReady_keeps _ ?_
  with_reducible assumption

end Sys2Proof.Machine
end

