-- ==== Sys2Proof/Laws/KeepsExecSpeCal.lean ====
section
/-! SUPPORT. Every operation of Machine/ExecSpeCal.lean keeps the relation of Laws/Keeps.lean. -/
namespace Sys2Proof.Machine

theorem execSpeTxSend_keeps {s0 : State} (w : Caller) (record : List Byte) {s : State} (h : Keeps s0 s) :
    KeepsA s0 (execSpeTxSend w record s) := by
  unfold execSpeTxSend
  refine keepsA_next ?_
  refine State.orderRecord_keeps _ _ _ ?_
  with_reducible assumption

theorem execSpeTxCancel_keeps {s0 : State} (w : Caller) (v : ℕ) {s : State} (h : Keeps s0 s) :
    KeepsA s0 (execSpeTxCancel w v s) := by
  unfold execSpeTxCancel
  refine keepsA_next ?_
  refine State.order_keeps _ _ _ _ ?_
  with_reducible assumption

theorem execSpeRxRelease_keeps {s0 : State} (w : Caller) (v : ℕ) {s : State} (h : Keeps s0 s) :
    KeepsA s0 (execSpeRxRelease w v s) := by
  unfold execSpeRxRelease
  refine keepsA_next ?_
  refine State.order_keeps _ _ _ _ ?_
  with_reducible assumption

theorem execSpeTxReady_keeps {s0 : State} {s : State} (h : Keeps s0 s) :
    KeepsA s0 (execSpeTxReady s) := by
  unfold execSpeTxReady
  refine keepsA_next ?_
  refine State.speTxReady_keeps ?_
  with_reducible assumption

theorem execSpeTxStart_keeps {s0 : State} {s : State} (h : Keeps s0 s) :
    KeepsA s0 (execSpeTxStart s) := by
  unfold execSpeTxStart
  refine keepsA_next ?_
  refine State.speTxStart_keeps ?_
  with_reducible assumption

theorem execSpeTxDone_keeps {s0 : State} {s : State} (h : Keeps s0 s) :
    KeepsA s0 (execSpeTxDone s) := by
  unfold execSpeTxDone
  refine keepsA_next ?_
  refine State.speTxDone_keeps ?_
  with_reducible assumption

theorem execSpeDiversityDwell_keeps {s0 : State} {s : State} (h : Keeps s0 s) :
    KeepsA s0 (execSpeDiversityDwell s) := by
  unfold execSpeDiversityDwell
  refine keepsA_next ?_
  refine State.speDwell_keeps ?_
  with_reducible assumption

theorem execSpeDetect_keeps {s0 : State} (d : SpeDetect) {s : State} (h : Keeps s0 s) :
    KeepsA s0 (execSpeDetect d s) := by
  unfold execSpeDetect
  refine keepsA_next ?_
  refine State.speDetect_keeps _ ?_
  with_reducible assumption

theorem execSpeSync_keeps {s0 : State} (f : SpeSyncFound) {s : State} (h : Keeps s0 s) :
    KeepsA s0 (execSpeSync f s) := by
  unfold execSpeSync
  refine keepsA_next ?_
  refine State.speSync_keeps _ ?_
  with_reducible assumption

theorem execSpeSyncWindowExpiry_keeps {s0 : State} {s : State} (h : Keeps s0 s) :
    KeepsA s0 (execSpeSyncWindowExpiry s) := by
  unfold execSpeSyncWindowExpiry
  refine keepsA_next ?_
  refine State.speSyncExpiry_keeps ?_
  with_reducible assumption

theorem execSpeHeader_keeps {s0 : State} (word : ℕ) {s : State} (h : Keeps s0 s) :
    KeepsA s0 (execSpeHeader word s) := by
  unfold execSpeHeader
  refine keepsA_next ?_
  refine State.speHeaderIn_keeps _ ?_
  with_reducible assumption

theorem execSpeRx_keeps {s0 : State} (payload : List Byte) (crc : ℕ) {s : State} (h : Keeps s0 s) :
    KeepsA s0 (execSpeRx payload crc s) := by
  unfold execSpeRx
  refine keepsA_next ?_
  refine State.speRx_keeps _ _ ?_
  with_reducible assumption

theorem execSpeCfoMove_keeps {s0 : State} {s : State} (h : Keeps s0 s) :
    KeepsA s0 (execSpeCfoMove s) := by
  unfold execSpeCfoMove
  refine keepsA_next ?_
  refine State.speCfoMove_keeps ?_
  with_reducible assumption

theorem execSynpLock_keeps {s0 : State} {s : State} (h : Keeps s0 s) :
    KeepsA s0 (execSynpLock s) := by
  unfold execSynpLock
  refine keepsA_next ?_
  refine State.synpLock_keeps ?_
  with_reducible assumption

theorem execTrimRecheck_keeps {s0 : State} (w : Caller) (v : ℕ) {s : State} (h : Keeps s0 s) :
    KeepsA s0 (execTrimRecheck w v s) := by
  unfold execTrimRecheck
  refine keepsA_next ?_
  refine State.order_keeps _ _ _ _ ?_
  with_reducible assumption

theorem execCalRun_keeps {s0 : State} (w : Caller) (record : List Byte) {s : State} (h : Keeps s0 s) :
    KeepsA s0 (execCalRun w record s) := by
  unfold execCalRun
  refine keepsA_next ?_
  refine State.orderRecord_keeps _ _ _ ?_
  with_reducible assumption

theorem execCalRunCancel_keeps {s0 : State} (w : Caller) (v : ℕ) {s : State} (h : Keeps s0 s) :
    KeepsA s0 (execCalRunCancel w v s) := by
  unfold execCalRunCancel
  refine keepsA_next ?_
  refine State.order_keeps _ _ _ _ ?_
  with_reducible assumption

theorem execCalRunStart_keeps {s0 : State} {s : State} (h : Keeps s0 s) :
    KeepsA s0 (execCalRunStart s) := by
  unfold execCalRunStart
  refine keepsA_next ?_
  refine State.calRunStart_keeps ?_
  with_reducible assumption

theorem execCalMeasurementDone_keeps {s0 : State} (m : CalMeasure) {s : State} (h : Keeps s0 s) :
    KeepsA s0 (execCalMeasurementDone m s) := by
  unfold execCalMeasurementDone
  refine keepsA_next ?_
  refine State.calMeasured_keeps _ ?_
  with_reducible assumption

theorem execCalRunComplete_keeps {s0 : State} (peers : CalPeers) {s : State} (h : Keeps s0 s) :
    KeepsA s0 (execCalRunComplete peers s) := by
  unfold execCalRunComplete
  refine keepsA_next ?_
  refine State.calComplete_keeps _ ?_
  with_reducible assumption

theorem execCalRollStep_keeps {s0 : State} {s : State} (h : Keeps s0 s) :
    KeepsA s0 (execCalRollStep s) := by
  unfold execCalRollStep
  refine keepsA_next ?_
  refine State.calRollStep_keeps ?_
  with_reducible assumption

theorem execCalStoreSave_keeps {s0 : State} (w : Caller) (contents : ℕ) {s : State} (h : Keeps s0 s) :
    KeepsA s0 (execCalStoreSave w contents s) := by
  unfold execCalStoreSave
  refine keepsA_next ?_
  refine State.order_keeps _ _ _ _ ?_
  with_reducible assumption

theorem execCalStoreDone_keeps {s0 : State} (verified : Bool) {s : State} (h : Keeps s0 s) :
    KeepsA s0 (execCalStoreDone verified s) := by
  unfold execCalStoreDone
  refine keepsA_next ?_
  refine State.calStoreDone_keeps _ ?_
  with_reducible assumption

theorem execCalStoreTimeout_keeps {s0 : State} {s : State} (h : Keeps s0 s) :
    KeepsA s0 (execCalStoreTimeout s) := by
  unfold execCalStoreTimeout
  refine keepsA_next ?_
  refine State.calStoreTimeout_keeps ?_
  with_reducible assumption

end Sys2Proof.Machine
end

