-- ==== Sys2Proof/Laws/KeepsExecTime.lean ====
section
/-! SUPPORT. Every operation of Machine/ExecTime.lean keeps the relation of Laws/Keeps.lean. -/
namespace Sys2Proof.Machine

theorem execSymbolTick_keeps {s0 : State} (x : TickInput) {s : State} (h : Keeps s0 s) :
    KeepsA s0 (execSymbolTick x s) := by
  unfold execSymbolTick
  refine keepsA_next ?_
  refine State.symbolTick_keeps _ ?_
  with_reducible assumption

theorem execCommitFail_keeps {s0 : State} {s : State} (h : Keeps s0 s) :
    KeepsA s0 (execCommitFail s) := by
  unfold execCommitFail
  refine keepsA_next ?_
  refine State.commitFail_keeps ?_
  with_reducible assumption

theorem execModeRequest_keeps {s0 : State} (w : Caller) (v : ℕ) {s : State} (h : Keeps s0 s) :
    KeepsA s0 (execModeRequest w v s) := by
  unfold execModeRequest
  refine keepsA_next ?_
  refine State.order_keeps _ _ _ _ ?_
  with_reducible assumption

theorem execSafeHoldRequest_keeps {s0 : State} (w : Caller) {s : State} (h : Keeps s0 s) :
    KeepsA s0 (execSafeHoldRequest w s) := by
  unfold execSafeHoldRequest
  refine keepsA_next ?_
  refine State.order_keeps _ _ _ _ ?_
  with_reducible assumption

theorem execArrayModeRequest_keeps {s0 : State} (w : Caller) (v : ℕ) {s : State} (h : Keeps s0 s) :
    KeepsA s0 (execArrayModeRequest w v s) := by
  unfold execArrayModeRequest
  refine keepsA_next ?_
  refine State.order_keeps _ _ _ _ ?_
  with_reducible assumption

theorem execPreparationComplete_keeps {s0 : State} {s : State} (h : Keeps s0 s) :
    KeepsA s0 (execPreparationComplete s) := by
  unfold execPreparationComplete
  refine keepsA_next ?_
  refine State.preparationComplete_keeps ?_
  with_reducible assumption

theorem execModeDone_keeps {s0 : State} {s : State} (h : Keeps s0 s) :
    KeepsA s0 (execModeDone s) := by
  unfold execModeDone
  refine keepsA_next ?_
  refine State.modeDone_keeps ?_
  with_reducible assumption

theorem execNextSafeStep_keeps {s0 : State} {s : State} (h : Keeps s0 s) :
    KeepsA s0 (execNextSafeStep s) := by
  unfold execNextSafeStep
  refine keepsA_next ?_
  refine State.nextSafeStep_keeps ?_
  with_reducible assumption

theorem execWake_keeps {s0 : State} {s : State} (h : Keeps s0 s) :
    KeepsA s0 (execWake s) := by
  unfold execWake
  refine keepsA_next ?_
  refine State.wakePin_keeps ?_
  with_reducible assumption

theorem execDormantClockCheck_keeps {s0 : State} (present : Bool) {s : State} (h : Keeps s0 s) :
    KeepsA s0 (execDormantClockCheck present s) := by
  unfold execDormantClockCheck
  refine keepsA_next ?_
  refine State.dormantCheck_keeps _ ?_
  with_reducible assumption

theorem execDlCutoff_keeps {s0 : State} {s : State} (h : Keeps s0 s) :
    KeepsA s0 (execDlCutoff s) := by
  unfold execDlCutoff
  refine keepsA_next ?_
  refine State.dlCutoff_keeps ?_
  with_reducible assumption

theorem execUlAccumulationDeadline_keeps {s0 : State} {s : State} (h : Keeps s0 s) :
    KeepsA s0 (execUlAccumulationDeadline s) := by
  unfold execUlAccumulationDeadline
  refine keepsA_next ?_
  refine State.ulDeadline_keeps ?_
  with_reducible assumption

theorem execReadyReport_keeps {s0 : State} {s : State} (h : Keeps s0 s) :
    KeepsA s0 (execReadyReport s) := by
  unfold execReadyReport
  refine keepsA_next ?_
  refine State.readyReport_keeps ?_
  with_reducible assumption

theorem execCommitDecision_keeps {s0 : State} {s : State} (h : Keeps s0 s) :
    KeepsA s0 (execCommitDecision s) := by
  unfold execCommitDecision
  refine keepsA_next ?_
  refine State.commitDecision_keeps ?_
  with_reducible assumption

theorem execNoDecision_keeps {s0 : State} {s : State} (h : Keeps s0 s) :
    KeepsA s0 (execNoDecision s) := by
  unfold execNoDecision
  refine keepsA_next ?_
  refine State.noDecision_keeps ?_
  with_reducible assumption

theorem execSyncInPulse_keeps {s0 : State} (width : ℕ) {s : State} (h : Keeps s0 s) :
    KeepsA s0 (execSyncInPulse width s) := by
  unfold execSyncInPulse
  refine keepsA_next ?_
  refine State.syncPulse_keeps _ ?_
  with_reducible assumption

theorem execTimeLost_keeps {s0 : State} {s : State} (h : Keeps s0 s) :
    KeepsA s0 (execTimeLost s) := by
  unfold execTimeLost
  refine keepsA_next ?_
  refine State.timeLost_keeps ?_
  with_reducible assumption

theorem execTimeRealign_keeps {s0 : State} (w : Caller) (v : ℕ) {s : State} (h : Keeps s0 s) :
    KeepsA s0 (execTimeRealign w v s) := by
  unfold execTimeRealign
  refine keepsA_next ?_
  refine State.order_keeps _ _ _ _ ?_
  with_reducible assumption

theorem execTimeRealignStep_keeps {s0 : State} {s : State} (h : Keeps s0 s) :
    KeepsA s0 (execTimeRealignStep s) := by
  unfold execTimeRealignStep
  refine keepsA_next ?_
  refine State.realignStep_keeps ?_
  with_reducible assumption

theorem execRead_keeps {s0 : State} (r : Request) {s : State} (h : Keeps s0 s) :
    KeepsA s0 (execRead r s) := by
  unfold execRead
  refine keepsA_next ?_
  refine State.operate_keeps _ _ ?_
  with_reducible assumption

theorem execReadStaged_keeps {s0 : State} (r : Request) {s : State} (h : Keeps s0 s) :
    KeepsA s0 (execReadStaged r s) := by
  unfold execReadStaged
  refine keepsA_next ?_
  refine State.operate_keeps _ _ ?_
  with_reducible assumption

theorem execSnapshot_keeps {s0 : State} (r : Request) {s : State} (h : Keeps s0 s) :
    KeepsA s0 (execSnapshot r s) := by
  unfold execSnapshot
  refine keepsA_next ?_
  refine State.operate_keeps _ _ ?_
  with_reducible assumption

theorem execWrite_keeps {s0 : State} (r : Request) {s : State} (h : Keeps s0 s) :
    KeepsA s0 (execWrite r s) := by
  unfold execWrite
  refine keepsA_next ?_
  refine State.operate_keeps _ _ ?_
  with_reducible assumption

theorem execStage_keeps {s0 : State} (r : Request) {s : State} (h : Keeps s0 s) :
    KeepsA s0 (execStage r s) := by
  unfold execStage
  refine keepsA_next ?_
  refine State.operate_keeps _ _ ?_
  with_reducible assumption

theorem execCommit_keeps {s0 : State} (r : Request) {s : State} (h : Keeps s0 s) :
    KeepsA s0 (execCommit r s) := by
  unfold execCommit
  refine keepsA_next ?_
  refine State.operate_keeps _ _ ?_
  with_reducible assumption

theorem execDiscard_keeps {s0 : State} (r : Request) {s : State} (h : Keeps s0 s) :
    KeepsA s0 (execDiscard r s) := by
  unfold execDiscard
  refine keepsA_next ?_
  refine State.operate_keeps _ _ ?_
  with_reducible assumption

theorem execDomainTransferTimeout_keeps {s0 : State} (index : ℕ) (sub : ℕ) {s : State} (h : Keeps s0 s) :
    KeepsA s0 (execDomainTransferTimeout index sub s) := by
  unfold execDomainTransferTimeout
  refine keepsA_next ?_
  refine State.transferTimeout_keeps _ _ ?_
  with_reducible assumption

theorem execForwardTimeout_keeps {s0 : State} (tag : ℕ) {s : State} (h : Keeps s0 s) :
    KeepsA s0 (execForwardTimeout tag s) := by
  unfold execForwardTimeout
  refine keepsA_next ?_
  refine State.forwardTimeout_keeps _ ?_
  with_reducible assumption

theorem execRequest_keeps {s0 : State} (bytes : List Byte) {s : State} (h : Keeps s0 s) :
    KeepsA s0 (execRequest bytes s) := by
  unfold execRequest
  refine keepsA_next ?_
  refine State.bootContinue_keeps ?_
  refine State.spiRequest_keeps _ ?_
  with_reducible assumption

theorem execResponse_keeps {s0 : State} (clocked : ℕ) {s : State} (h : Keeps s0 s) :
    KeepsA s0 (execResponse clocked s) := by
  unfold execResponse
  refine keepsA_next ?_
  refine State.bootContinue_keeps ?_
  refine State.spiResponse_keeps _ ?_
  with_reducible assumption

theorem execStatus_keeps {s0 : State} {s : State} (h : Keeps s0 s) :
    KeepsA s0 (execStatus s) := by
  unfold execStatus
  refine keepsA_next ?_
  refine State.spiStatusOnly_keeps ?_
  with_reducible assumption

theorem execSpiFramingError_keeps {s0 : State} {s : State} (h : Keeps s0 s) :
    KeepsA s0 (execSpiFramingError s) := by
  unfold execSpiFramingError
  refine keepsA_next ?_
  refine State.spiError_keeps ?_
  with_reducible assumption

theorem execEventAck_keeps {s0 : State} (w : Caller) (n : ℕ) {s : State} (h : Keeps s0 s) :
    KeepsA s0 (execEventAck w n s) := by
  unfold execEventAck
  refine keepsA_next ?_
  refine State.order_keeps _ _ _ _ ?_
  with_reducible assumption

theorem execEventSend_keeps {s0 : State} {s : State} (h : Keeps s0 s) :
    KeepsA s0 (execEventSend s) := by
  unfold execEventSend
  refine keepsA_next ?_
  refine State.eventSend_keeps ?_
  with_reducible assumption

theorem execMasterPresenceClear_keeps {s0 : State} (w : Caller) (v : ℕ) {s : State} (h : Keeps s0 s) :
    KeepsA s0 (execMasterPresenceClear w v s) := by
  unfold execMasterPresenceClear
  refine keepsA_next ?_
  refine State.order_keeps _ _ _ _ ?_
  with_reducible assumption

end Sys2Proof.Machine
end

