-- ==== Sys2Proof/Laws/Serve.lean ====
section
/-! SUPPORT. What a request does when the device performs it as it arrives: the laws of arrival, of performance and of the writes of scalars and
records, said once for every command of the Catalogue. -/
namespace Sys2Proof.Machine

/-! Bytes -/

@[simp] theorem leBytes_length (n v : Nat) : (leBytes n v).length = n := by
  induction n generalizing v with
  | zero => rfl
  | succ n ih => simp [leBytes, ih]

theorem leNat_leBytes (n v : Nat) : leNat (leBytes n v) = v % 256 ^ n := by
  induction n generalizing v with
  | zero => simp [leBytes, leNat, Nat.mod_one]
  | succ n ih =>
    rw [leBytes, leNat, ih, BitVec.toNat_ofNat, pow_succ' 256 n, Nat.mod_mul]

theorem sliceBytes_padded (l : List Byte) : sliceBytes (padded l) 0 l.length = l := by
  simp [sliceBytes, padded]

/-- What a write carries is read back. -/
theorem fieldLE_padded {n v : Nat} (h : v < 256 ^ n) : fieldLE (padded (leBytes n v)) 0 n = v := by
  have e := sliceBytes_padded (leBytes n v)
  rw [leBytes_length] at e
  rw [fieldLE, e, leNat_leBytes, Nat.mod_eq_of_lt h]

theorem padded_length (l : List Byte) : (padded l).length = roundUp l.length 4 := by
  have : l.length ≤ roundUp l.length 4 := by unfold roundUp; omega
  simp [padded]; omega

/-! Arrival -/

theorem State.met_eq (s : State) (port : Nat) : { s.noteMaster port with free := (s.noteMaster port).free + 1 } = s.met port := by
  simp [State.met]

@[simp] theorem State.noteMaster_stalled (s : State) (port : Nat) : (s.noteMaster port).host.stalled = s.host.stalled := by
  unfold State.noteMaster; dsimp only; split <;> split <;> simp

@[simp] theorem State.noteMaster_performing (s : State) (port : Nat) : (s.noteMaster port).host.performing = s.host.performing := by
  unfold State.noteMaster; dsimp only; split <;> split <;> simp

@[simp] theorem State.noteMaster_forwarded (s : State) (port : Nat) : (s.noteMaster port).host.forwarded = s.host.forwarded := by
  unfold State.noteMaster; dsimp only; split <;> split <;> simp

@[simp] theorem State.noteMaster_responses (s : State) (port : Nat) : (s.noteMaster port).host.responses = s.host.responses := by
  unfold State.noteMaster; dsimp only; split <;> split <;> simp

/-- A state whose queue of requests is empty and that performs none, as `takeRequest` leaves it. -/
theorem State.emptied (s : State) (h1 : s.host.stalled = []) (h2 : s.host.performing = none) :
    { s with host := { s.host with stalled := [], performing := none } } = s := by
  have : ({ s.host with stalled := [], performing := none } : HostPort) = s.host := by
    rw [← h1, ← h2]
  rw [this]

theorem State.pumpFuel_idle (n : Nat) (s : State) (h1 : s.host.stalled = []) (h2 : s.host.performing = none) : State.pumpFuel n s = s := by
  cases n with
  | zero => rfl
  | succ n => simp [State.pumpFuel, h2, State.takeRequest, h1]

theorem State.pumpFuel_take (n : Nat) {s t : State} {r : Request} (h1 : s.host.performing = none) (h2 : s.takeRequest = some (r, t)) :
    State.pumpFuel (n + 1) s = State.pumpFuel n { t with host := { t.host with performing := some r } } := by
  simp [State.pumpFuel, h1, h2]

theorem State.pumpFuel_perform (n : Nat) {s : State} {r : Request} (h1 : s.host.performing = some r)
    (h2 : (s.performOne r).host.performing = none) : State.pumpFuel (n + 1) s = State.pumpFuel n (s.performOne r) := by
  simp [State.pumpFuel, h1, h2]

/-- A request arrives at a device that attends it: what performing it gives is what the arrival gives. -/
theorem State.arrive_of_performOne {s : State} {w : Caller} (h : s.Attends w) {r : Request} (hp : r.port = w.port) (ho : r.pos = w.pos)
    (ht : r.tag = w.tag) (hn : ((s.noteMaster w.port).performOne r).host.stalled = [])
    (hq : ((s.noteMaster w.port).performOne r).host.performing = none) : s.arrive r = (s.noteMaster w.port).performOne r := by
  have tt : (s.noteMaster w.port).tagTaken r = false := by
    have := h.tag
    simp only [State.tagTaken, State.tagsInFlight, State.ownRequests, State.noteMaster_performing, State.noteMaster_stalled,
      State.noteMaster_forwarded, h.alone, h.nothing, hp, ht, State.noteMaster_pos] at *
    simp
    simp at this
    exact fun a b c d => this a b c d
  have ow : r.pos = (s.noteMaster w.port).pos := by rw [ho, h.own]; simp
  have rch : (s.noteMaster w.port).reaches r = true := by simp [State.reaches, ow]
  have em : { (s.noteMaster w.port) with host := { (s.noteMaster w.port).host with stalled := [], performing := none } }
      = s.noteMaster w.port := State.emptied _ (by simpa using h.alone) (by simpa using h.nothing)
  have sp : r.port = 0 ∨ 32792 ≤ (s.noteMaster w.port).responseSpace := by
    have := h.space
    simpa [State.responseSpace, hp] using this
  have ms : (s.noteMaster w.port).host.stalled = [] := by simpa using h.alone
  have mp : (s.noteMaster w.port).host.performing = none := by simpa using h.nothing
  unfold State.arrive
  simp only [h.serving, hp, Bool.not_true, Bool.false_eq_true, if_false, tt, rch, and_false]
  rw [if_neg (by simp [ow])]
  generalize s.noteMaster w.port = m at *
  simp only [State.pump, ms, List.nil_append, List.length_singleton]
  have may : ∀ t : State, t.host.responses = m.host.responses → t.mayPerform r = true := by
    intro t e
    rcases sp with e' | e'
    · simp [State.mayPerform, e']
    · simp [State.mayPerform, State.responseSpace, e] at *; right; exact e'
  have go : ∀ n, State.pumpFuel (n + 2) { m with host := { m.host with stalled := [r] } } = m.performOne r := by
    intro n
    have t1 : State.takeRequest { m with host := { m.host with stalled := [r] } }
        = some (r, { m with host := { m.host with stalled := [] } }) := by
      have := may { m with host := { m.host with stalled := [r] } } rfl
      simp [State.takeRequest, this]
    have p1 : ({ m with host := { m.host with stalled := [], performing := some r } } : State).performOne r = m.performOne r := by
      have : ({ m with host := { m.host with stalled := [], performing := some r } } : State).performOne r
          = ({ m with host := { m.host with stalled := [], performing := none } } : State).performOne r := rfl
      rw [this, em]
    rw [State.pumpFuel_take (n + 1) (by exact mp) t1, State.pumpFuel_perform n rfl (by rw [p1]; exact hq), p1]
    exact State.pumpFuel_idle n _ hn hq
  exact go 2

/-! Performance -/

@[simp] theorem State.respond_stalled (s : State) (x : Response) : (s.respond x).host.stalled = s.host.stalled := by
  unfold State.respond; dsimp only; split <;> simp

@[simp] theorem State.respond_performing (s : State) (x : Response) : (s.respond x).host.performing = s.host.performing := by
  unfold State.respond; dsimp only; split <;> simp

/-- A request whose performance answers: the effect, then the response with status 0. -/
theorem State.arrive_answers {s t : State} {w : Caller} (h : s.Attends w) {r : Request} (hp : r.port = w.port) (ho : r.pos = w.pos)
    (ht : r.tag = w.tag) {a : Answer} (he : (s.noteMaster w.port).perform r = .answer a t) (hn : t.host.stalled = [])
    (hq : t.host.performing = none) : s.arrive r = t.respond (t.responseTo r 0 false a) := by
  have em : { (s.noteMaster w.port) with host := { (s.noteMaster w.port).host with performing := none } } = s.noteMaster w.port := by
    have := State.emptied (s.noteMaster w.port) (by simpa using h.alone) (by simpa using h.nothing)
    rw [← this]
  have e : (s.noteMaster w.port).performOne r = t.respond (t.responseTo r 0 false a) := by
    rw [State.performOne, em, he]
  rw [← e]
  exact State.arrive_of_performOne h hp ho ht (by rw [e]; simpa using hn) (by rw [e]; simpa using hq)

/-- The same for a command that also lets a boot go on: once boot is complete, nothing follows. -/
theorem State.take_answers {s t : State} {w : Caller} (h : s.Attends w) {r : Request} (hp : r.port = w.port) (ho : r.pos = w.pos)
    (ht : r.tag = w.tag) {a : Answer} (he : (s.noteMaster w.port).perform r = .answer a t) (hn : t.host.stalled = [])
    (hq : t.host.performing = none) (hb : t.reset_.bootDone = true) : s.take r = t.respond (t.responseTo r 0 false a) := by
  rw [State.take, State.arrive_answers h hp ho ht he hn hq, State.bootContinue, if_pos (by simp [hb])]

theorem headerFault_scalarWrite {w : Caller} {e : Entry} {index sub v : Nat} (h : findEntry index sub = some e) :
    headerFault (scalarWrite w index sub v) = none := by
  simp [headerFault, scalarWrite, impliedSize, h, padded_length]

/-- A write of a scalar that passes its checks acts. -/
theorem State.perform_scalar {m : State} {w : Caller} {e : Entry} {index sub v : Nat}
    (h : ({ m with free := m.free + 1 } : State).Accepts e index sub v) :
    m.perform (scalarWrite w index sub v)
      = ({ m with free := m.free + 1 } : State).acting (writeDomainCode index) (fun s => s.writeScalar index sub v) := by
  unfold State.perform
  simp only [headerFault_scalarWrite h.row]
  generalize ({ m with free := m.free + 1 } : State) = n at *
  have ef : n.entryFault 4 index sub = .ok e := by
    have := h.head
    simp only [State.entryFault, h.defined, entryOf, h.row, h.cls, h.mode]
    rw [if_neg (by simp; exact h.low)]
    rw [if_neg (by rintro ⟨-, a, b⟩; exact b (this a))]
    simp
  have e4 : (scalarWrite w index sub v).op = 4 := rfl
  have ei : (scalarWrite w index sub v).index = index := rfl
  have es : (scalarWrite w index sub v).sub = sub := rfl
  have el : (scalarWrite w index sub v).length = e.type.size := by simp [scalarWrite, h.row]
  have ed : (scalarWrite w index sub v).data = padded (leBytes e.type.size v) := by simp [scalarWrite, h.row]
  simp only [e4, ei, es, ef]
  simp only [Nat.reduceEqDiff, if_false, h.scalar]
  unfold State.opScalar
  simp only [e4, ei, es, el, ed, fieldLE_padded h.fits, h.kept, h.ok, h.free, lt_irrefl, if_false, Bool.not_true, Bool.false_eq_true,
    Nat.reduceEqDiff, h.acts]

/-- An effect that needs no domain. -/
theorem State.acting_ok {s t : State} {f : State → Res} (h : f s = .ok t) : s.acting none f = t.done := by
  simp [State.acting, h, State.askDomain]

@[simp] theorem State.metOn_def (s : State) (port d : Nat) : ((s.met port).needDomain d).2 = s.metOn port d := rfl

/-- A command of the Catalogue that needs no domain: its effect on the state as met, then the response. -/
theorem State.order_ok {s t : State} {w : Caller} (h : s.Attends w) {e : Entry} {index sub v : Nat} (ha : (s.met w.port).Accepts e index sub v)
    (hd : writeDomainCode index = none) (hf : (s.met w.port).writeScalar index sub v = .ok t) (hn : t.host.stalled = [])
    (hq : t.host.performing = none) (hb : t.reset_.bootDone = true) :
    s.order w index sub v = t.accepted (scalarWrite w index sub v) := by
  have hp : (s.noteMaster w.port).perform (scalarWrite w index sub v) = t.done := by
    have em : ({ s.noteMaster w.port with free := (s.noteMaster w.port).free + 1 } : State) = s.met w.port := State.met_eq s w.port
    rw [State.perform_scalar (e := e) (by rw [em]; exact ha), em, hd]
    exact State.acting_ok hf
  exact State.take_answers h rfl rfl rfl hp hn hq hb

/-! Domains -/

theorem State.needDomain_serves {s : State} {d : Nat} (h : s.Serves d) :
    s.needDomain d = (true, { s with power := { s.power with idleSince := tins d s.now s.power.idleSince } }) := by
  have : ({ s with power := { s.power with idleSince := tins d s.now s.power.idleSince } } : State).domainOn d = true := h.on
  simp [State.needDomain, this]

theorem State.askDomain_serves {s : State} {d : Nat} (h : s.Serves d) : s.askDomain (some d) = (.ready, (s.needDomain d).2) := by
  have h1 := h.on
  have h2 := h.free
  have h3 := h.held
  rw [State.askDomain, State.needDomain_serves h]
  simp only [Bool.not_true, Bool.false_eq_true, if_false]
  rw [if_pos]
  have e : ({ s with power := { s.power with idleSince := tins d s.now s.power.idleSince } } : State).domainOn d = s.domainOn d := rfl
  rw [e, h1]
  simp only [h2, Bool.true_and, Bool.not_false, Bool.and_true]
  by_cases hd : d = 5
  · simp [hd, h3 hd]
  · simp [hd]

/-- An effect with a domain that serves: found on, then acted in. -/
theorem State.acting_on {s t : State} {d : Nat} {f : State → Res} (h : s.Serves d)
    (he : ∀ a, f s = .error a → earlyCode a.code = false) (hf : f (s.needDomain d).2 = .ok t) : s.acting (some d) f = t.done := by
  unfold State.acting
  rw [State.askDomain_serves h]
  cases hs : f s with
  | error a => simp [he a hs, hf]
  | ok u => simp [hf]

/-- A command of the Catalogue that needs a domain, which serves. -/
theorem State.order_on {s t : State} {w : Caller} (h : s.Attends w) {e : Entry} {index sub v d : Nat}
    (ha : (s.met w.port).Accepts e index sub v) (hd : writeDomainCode index = some d) (hs : (s.met w.port).Serves d)
    (he : ∀ a, (s.met w.port).writeScalar index sub v = .error a → earlyCode a.code = false)
    (hf : (s.metOn w.port d).writeScalar index sub v = .ok t) (hn : t.host.stalled = [])
    (hq : t.host.performing = none) (hb : t.reset_.bootDone = true) :
    s.order w index sub v = t.accepted (scalarWrite w index sub v) := by
  have hp : (s.noteMaster w.port).perform (scalarWrite w index sub v) = t.done := by
    have em : ({ s.noteMaster w.port with free := (s.noteMaster w.port).free + 1 } : State) = s.met w.port := State.met_eq s w.port
    rw [State.perform_scalar (e := e) (by rw [em]; exact ha), em, hd]
    exact State.acting_on hs he hf
  exact State.take_answers h rfl rfl rfl hp hn hq hb

/-! Records -/

theorem headerFault_recordWrite {w : Caller} {index : Nat} {l : List Byte} : headerFault (recordWrite w index l) = none := by
  simp [headerFault, recordWrite, impliedSize, padded_length]

theorem segData_recordWrite {w : Caller} {index : Nat} {l : List Byte} : segData (recordWrite w index l) = l := by
  simp [segData, recordWrite, padded]

/-- What a record leaves of the transfers once its effect has come. -/
def State.cleared (s : State) (r : Request) : State := (s.newFirst r).dropTransfer r.index r.sub

/-- A write of a record in one segment that passes its checks acts. -/
theorem State.perform_record {m : State} {w : Caller} {e : Entry} {index : Nat} {l : List Byte}
    (h : ({ m with free := m.free + 1 } : State).Records e index l) :
    m.perform (recordWrite w index l)
      = State.jobTarget (recordWrite w index l) (({ m with free := m.free + 1 } : State).acting (writeDomainCode index)
          (fun s => (s.writeDomain index 0 w.port l).map (fun t => t.cleared (recordWrite w index l)))) := by
  unfold State.perform
  simp only [headerFault_recordWrite]
  generalize ({ m with free := m.free + 1 } : State) = n at *
  have ef : n.entryFault 4 index 0 = .ok e := by
    simp only [State.entryFault, h.defined, entryOf, h.row, h.cls, h.mode]
    rw [if_neg (by simp; exact h.low)]
    rw [if_neg (by rintro ⟨-, a, -⟩; exact h.notHead a)]
    simp
  have e4 : (recordWrite w index l).op = 4 := rfl
  have ei : (recordWrite w index l).index = index := rfl
  have es : (recordWrite w index l).sub = 0 := rfl
  simp only [e4, ei, es, ef]
  simp only [Nat.reduceEqDiff, if_false, h.domain, if_true]
  congr 1
  unfold State.opSegment
  have ff : n.firstFault (recordWrite w index l) = .none := by
    have h1 := h.min
    have h2 := h.max
    have h3 := h.one
    have h4 := h.some
    have h5 := h.room
    unfold State.firstFault
    dsimp only
    rw [if_neg (by rintro ⟨-, a⟩; omega)]
    rw [if_neg (by simp [recordWrite]; omega), if_neg (by simp [recordWrite]; omega), if_neg (by simp [recordWrite]; omega),
      if_neg (by simp [recordWrite, h4]), if_neg (by simp [recordWrite]), if_neg (by simp [recordWrite]), if_neg (by simp [recordWrite])]
  have ef1 : (recordWrite w index l).first = true := rfl
  have el1 : (recordWrite w index l).last = true := rfl
  simp only [ef1, el1, if_true, ff, segData_recordWrite]
  unfold State.wholeValue
  simp only [ei, es, e4, h.ok]
  rfl

theorem State.cleared_none {s : State} {r : Request} (h : s.transferOf r.index r.sub = .none) : s.cleared r = s := by
  have h' := h
  simp only [State.transferOf, List.find?_eq_none] at h'
  have : s.host.transfers.filter (fun t => !(t.index == r.index && t.sub == r.sub)) = s.host.transfers := by
    rw [List.filter_eq_self]
    intro x hx
    have := h' x hx
    simpa only [Bool.not_eq_true, Bool.not_eq_true'] using this
  have e : s.newFirst r = s := by simp [State.newFirst, h]
  rw [State.cleared, e, State.dropTransfer, this]

/-- A record that needs no domain: its effect on the state as met, then the response. -/
theorem State.orderRecord_ok {s t : State} {w : Caller} (h : s.Attends w) {e : Entry} {index : Nat} {l : List Byte}
    (ha : (s.met w.port).Records e index l) (hd : writeDomainCode index = .none) (hj : index ≠ Ix.WeightJobSubmit)
    (hf : (s.met w.port).writeDomain index 0 w.port l = .ok t) (hx : t.transferOf index 0 = .none) (hn : t.host.stalled = [])
    (hq : t.host.performing = .none) (hb : t.reset_.bootDone = true) :
    s.orderRecord w index l = t.accepted (recordWrite w index l) := by
  have hp : (s.noteMaster w.port).perform (recordWrite w index l) = t.done := by
    have em : ({ s.noteMaster w.port with free := (s.noteMaster w.port).free + 1 } : State) = s.met w.port := State.met_eq s w.port
    rw [State.perform_record (e := e) (by rw [em]; exact ha), em, hd]
    rw [State.acting_ok (t := t)]
    · have : ¬((recordWrite w index l).op = 4 ∧ (recordWrite w index l).index = Ix.WeightJobSubmit) := by
        rintro ⟨-, b⟩; exact hj b
      simp only [State.done, State.jobTarget, this, if_false]
    · simp only [hf, Except.map]
      rw [State.cleared_none (by exact hx)]
  exact State.take_answers h rfl rfl rfl hp hn hq hb

/-- A record that needs a domain, which serves. -/
theorem State.orderRecord_on {s t : State} {w : Caller} (h : s.Attends w) {e : Entry} {index d : Nat} {l : List Byte}
    (ha : (s.met w.port).Records e index l) (hd : writeDomainCode index = some d) (hj : index ≠ Ix.WeightJobSubmit)
    (hs : (s.met w.port).Serves d)
    (he : ∀ a, (s.met w.port).writeDomain index 0 w.port l = .error a → earlyCode a.code = false)
    (hf : (s.metOn w.port d).writeDomain index 0 w.port l = .ok t) (hx : t.transferOf index 0 = .none) (hn : t.host.stalled = [])
    (hq : t.host.performing = .none) (hb : t.reset_.bootDone = true) :
    s.orderRecord w index l = t.accepted (recordWrite w index l) := by
  have hp : (s.noteMaster w.port).perform (recordWrite w index l) = t.done := by
    have em : ({ s.noteMaster w.port with free := (s.noteMaster w.port).free + 1 } : State) = s.met w.port := State.met_eq s w.port
    rw [State.perform_record (e := e) (by rw [em]; exact ha), em, hd]
    rw [State.acting_on (t := t) hs]
    · have : ¬((recordWrite w index l).op = 4 ∧ (recordWrite w index l).index = Ix.WeightJobSubmit) := by
        rintro ⟨-, b⟩; exact hj b
      simp only [State.done, State.jobTarget, this, if_false]
    · intro a hm
      cases hw : (s.met w.port).writeDomain index 0 w.port l with
      | error b =>
        rw [hw] at hm
        simp only [Except.map, Except.error.injEq] at hm
        exact hm ▸ he b hw
      | ok u => rw [hw] at hm; simp [Except.map] at hm
    · simp only [State.metOn_def, hf, Except.map]
      rw [State.cleared_none (by exact hx)]
  exact State.take_answers h rfl rfl rfl hp hn hq hb

end Sys2Proof.Machine
end

