-- ==== Sys2Proof/Laws/Orders.lean ====
section
/-! SUPPORT. The commands of the Catalogue that a write of an entry gives, run by a device that performs them at once; the operations of a request
on the state that meets it; and the operations that leave the Catalogue's request side and the reset record alone. -/
namespace Sys2Proof.Machine

/-! Orders -/

@[simp] theorem State.needDomain_free_host {s : State} {d : Nat} (h : s.Serves d) : (s.needDomain d).2.host = s.host := by
  rw [State.needDomain_serves h]

/-- A command of the Catalogue that needs no domain. -/
theorem State.Orders.run {s t : State} {w : Caller} {index sub v : Nat} (h : s.Orders w index sub v)
    (hd : writeDomainCode index = none) (hf : (s.met w.port).writeScalar index sub v = .ok t) (hn : t.host.stalled = [])
    (hq : t.host.performing = none) (hb : t.reset_.bootDone = true) : s.order w index sub v = t.ended w index sub v := by
  obtain ⟨e, he⟩ := h.accepts
  exact State.order_ok h.attends he hd hf hn hq hb

/-- A command of the Catalogue that needs a domain, which serves. -/
theorem State.Orders.runOn {s t : State} {w : Caller} {index sub v d : Nat} (h : s.Orders w index sub v)
    (hd : writeDomainCode index = some d) (hs : (s.met w.port).Serves d)
    (he : ∀ a, (s.met w.port).writeScalar index sub v = .error a → earlyCode a.code = false)
    (hf : (s.metOn w.port d).writeScalar index sub v = .ok t) (hn : t.host.stalled = [])
    (hq : t.host.performing = none) (hb : t.reset_.bootDone = true) : s.order w index sub v = t.ended w index sub v := by
  obtain ⟨e, ha⟩ := h.accepts
  exact State.order_on h.attends ha hd hs he hf hn hq hb

/-- A record that needs no domain. -/
theorem State.OrdersRecord.run {s t : State} {w : Caller} {index : Nat} {l : List Byte} (h : s.OrdersRecord w index l)
    (hd : writeDomainCode index = none) (hj : index ≠ Ix.WeightJobSubmit)
    (hf : (s.met w.port).writeDomain index 0 w.port l = .ok t) (hx : t.transferOf index 0 = none) (hn : t.host.stalled = [])
    (hq : t.host.performing = none) (hb : t.reset_.bootDone = true) : s.orderRecord w index l = t.endedRecord w index l := by
  obtain ⟨e, he⟩ := h.accepts
  exact State.orderRecord_ok h.attends he hd hj hf hx hn hq hb

/-- A record that needs a domain, which serves. -/
theorem State.OrdersRecord.runOn {s t : State} {w : Caller} {index d : Nat} {l : List Byte} (h : s.OrdersRecord w index l)
    (hd : writeDomainCode index = some d) (hj : index ≠ Ix.WeightJobSubmit) (hs : (s.met w.port).Serves d)
    (he : ∀ a, (s.met w.port).writeDomain index 0 w.port l = .error a → earlyCode a.code = false)
    (hf : (s.metOn w.port d).writeDomain index 0 w.port l = .ok t) (hx : t.transferOf index 0 = none) (hn : t.host.stalled = [])
    (hq : t.host.performing = none) (hb : t.reset_.bootDone = true) : s.orderRecord w index l = t.endedRecord w index l := by
  obtain ⟨e, ha⟩ := h.accepts
  exact State.orderRecord_on h.attends ha hd hj hs he hf hx hn hq hb

/-! The device as a request finds it -/

@[simp] theorem State.met_stalled (s : State) (p : Nat) : (s.met p).host.stalled = s.host.stalled := by simp [State.met]
@[simp] theorem State.met_performing (s : State) (p : Nat) : (s.met p).host.performing = s.host.performing := by simp [State.met]
@[simp] theorem State.met_transfers (s : State) (p : Nat) : (s.met p).host.transfers = s.host.transfers := by
  simp only [State.met]; unfold State.noteMaster; dsimp only; split <;> split <;> simp
@[simp] theorem State.met_reset (s : State) (p : Nat) : (s.met p).reset_ = s.reset_ := by simp [State.met]

/-- The same for an effect that leaves the request side and the reset record alone. -/
theorem State.Orders.runSame {s t : State} {w : Caller} {index sub v : Nat} (h : s.Orders w index sub v)
    (hd : writeDomainCode index = none) (hf : (s.met w.port).writeScalar index sub v = .ok t) (h1 : t.host = (s.met w.port).host)
    (h2 : t.reset_ = (s.met w.port).reset_) : s.order w index sub v = t.ended w index sub v :=
  h.run hd hf (by rw [h1]; simpa using h.attends.alone) (by rw [h1]; simpa using h.attends.nothing)
    (by rw [h2]; simpa using h.attends.booted)

theorem State.metOn_host {s : State} {p d : Nat} (hs : (s.met p).Serves d) : (s.metOn p d).host = (s.met p).host := by
  rw [State.metOn, State.needDomain_serves hs]

theorem State.metOn_reset {s : State} {p d : Nat} (hs : (s.met p).Serves d) : (s.metOn p d).reset_ = (s.met p).reset_ := by
  rw [State.metOn, State.needDomain_serves hs]

/-- The same where the effect needs a domain, which serves. -/
theorem State.Orders.runOnSame {s t : State} {w : Caller} {index sub v d : Nat} (h : s.Orders w index sub v)
    (hd : writeDomainCode index = some d) (hs : (s.met w.port).Serves d)
    (he : ∀ a, (s.met w.port).writeScalar index sub v = .error a → earlyCode a.code = false)
    (hf : (s.metOn w.port d).writeScalar index sub v = .ok t) (h1 : t.host = (s.metOn w.port d).host)
    (h2 : t.reset_ = (s.metOn w.port d).reset_) : s.order w index sub v = t.ended w index sub v :=
  h.runOn hd hs he hf (by rw [h1, State.metOn_host hs]; simpa using h.attends.alone)
    (by rw [h1, State.metOn_host hs]; simpa using h.attends.nothing) (by rw [h2, State.metOn_reset hs]; simpa using h.attends.booted)

theorem State.OrdersRecord.noTransfer {s : State} {w : Caller} {index : Nat} {l : List Byte} (h : s.OrdersRecord w index l) :
    (s.met w.port).transferOf index 0 = none := by
  obtain ⟨e, he⟩ := h.accepts
  exact he.none

/-- A record whose effect leaves the request side and the reset record alone. -/
theorem State.OrdersRecord.runSame {s t : State} {w : Caller} {index : Nat} {l : List Byte} (h : s.OrdersRecord w index l)
    (hd : writeDomainCode index = none) (hj : index ≠ Ix.WeightJobSubmit)
    (hf : (s.met w.port).writeDomain index 0 w.port l = .ok t) (h1 : t.host = (s.met w.port).host)
    (h2 : t.reset_.bootDone = (s.met w.port).reset_.bootDone) : s.orderRecord w index l = t.endedRecord w index l :=
  h.run hd hj hf (by have := h.noTransfer; rw [State.transferOf] at *; rw [h1]; exact this)
    (by rw [h1]; simpa using h.attends.alone) (by rw [h1]; simpa using h.attends.nothing)
    (by rw [h2]; simpa using h.attends.booted)

/-- The same where the effect needs a domain, which serves. -/
theorem State.OrdersRecord.runOnSame {s t : State} {w : Caller} {index d : Nat} {l : List Byte} (h : s.OrdersRecord w index l)
    (hd : writeDomainCode index = some d) (hj : index ≠ Ix.WeightJobSubmit) (hs : (s.met w.port).Serves d)
    (he : ∀ a, (s.met w.port).writeDomain index 0 w.port l = .error a → earlyCode a.code = false)
    (hf : (s.metOn w.port d).writeDomain index 0 w.port l = .ok t) (h1 : t.host = (s.metOn w.port d).host)
    (h2 : t.reset_ = (s.metOn w.port d).reset_) : s.orderRecord w index l = t.endedRecord w index l :=
  h.runOn hd hj hs he hf (by have := h.noTransfer; rw [State.transferOf] at *; rw [h1, State.metOn_host hs]; exact this)
    (by rw [h1, State.metOn_host hs]; simpa using h.attends.alone)
    (by rw [h1, State.metOn_host hs]; simpa using h.attends.nothing) (by rw [h2, State.metOn_reset hs]; simpa using h.attends.booted)

@[simp] theorem State.met_modes (s : State) (p : Nat) : (s.met p).modes = s.modes := by simp [State.met]
@[simp] theorem State.met_now (s : State) (p : Nat) : (s.met p).now = s.now := by simp [State.met]
@[simp] theorem State.met_mem (s : State) (p : Nat) : (s.met p).mem = s.mem := by simp [State.met]
@[simp] theorem State.met_dom (s : State) (p : Nat) : (s.met p).dom = s.dom := by simp [State.met]

/-! The operations, on the state as met -/

theorem State.perform_met (s : State) (r : Request) : (s.noteMaster r.port).perform r = (match headerFault r with
    | some a => .abort a (s.met r.port)
    | none =>
      if r.op = 6 then (s.met r.port).opCommit r
      else if r.op = 7 then (s.met r.port).opDiscard r
      else if r.op = 3 then
        (if (s.met r.port).romRefuses 3 0 then .abort (s.met r.port).stateAbort (s.met r.port) else (s.met r.port).opSnapshot r)
      else match (s.met r.port).entryFault r.op r.index r.sub with
        | .error a => .abort a (s.met r.port)
        | .ok e =>
          if r.op = 1 then (s.met r.port).opRead r e
          else if r.op = 2 then (s.met r.port).opReadStaged r e
          else if e.type = .domain then State.jobTarget r ((s.met r.port).opSegment r)
          else (s.met r.port).opScalar r e) := by
  unfold State.perform
  simp only [State.met_eq]
  try rfl

theorem State.perform_read {s : State} {r : Request} {e : Entry} (ho : r.op = 1) (hh : headerFault r = none)
    (he : (s.met r.port).entryFault 1 r.index r.sub = .ok e) : (s.noteMaster r.port).perform r = (s.met r.port).opRead r e := by
  rw [State.perform_met]; simp [hh, ho, he]

theorem State.perform_readStaged {s : State} {r : Request} {e : Entry} (ho : r.op = 2) (hh : headerFault r = none)
    (he : (s.met r.port).entryFault 2 r.index r.sub = .ok e) : (s.noteMaster r.port).perform r = (s.met r.port).opReadStaged r e := by
  rw [State.perform_met]; simp [hh, ho, he]

theorem State.perform_snapshot {s : State} {r : Request} (ho : r.op = 3) (hh : headerFault r = none)
    (hb : s.reset_.bootDone = true) : (s.noteMaster r.port).perform r = (s.met r.port).opSnapshot r := by
  rw [State.perform_met]; simp [hh, ho, State.romRefuses, hb]

theorem State.perform_value {s : State} {r : Request} {e : Entry} {n : Nat} (ho : r.op = n) (hn : n = 4 ∨ n = 5) (hh : headerFault r = none)
    (he : (s.met r.port).entryFault n r.index r.sub = .ok e) (hd : e.type ≠ .domain) :
    (s.noteMaster r.port).perform r = (s.met r.port).opScalar r e := by
  rw [State.perform_met]; rcases hn with h | h <;> subst h <;> simp [hh, ho, he, hd]

theorem State.perform_commit {s : State} {r : Request} (ho : r.op = 6) (hh : headerFault r = none) :
    (s.noteMaster r.port).perform r = (s.met r.port).opCommit r := by
  rw [State.perform_met]; simp [hh, ho]

theorem State.perform_discard {s : State} {r : Request} (ho : r.op = 7) (hh : headerFault r = none) :
    (s.noteMaster r.port).perform r = (s.met r.port).opDiscard r := by
  rw [State.perform_met]; simp [hh, ho]

@[simp] theorem State.met_epoch (s : State) (p : Nat) : (s.met p).epoch = s.epoch := by simp [State.met]
@[simp] theorem State.met_pos (s : State) (p : Nat) : (s.met p).pos = s.pos := by simp [State.met]
@[simp] theorem State.met_openSet (s : State) (p : Nat) : (s.met p).host.openSet = s.host.openSet := by
  simp only [State.met]; unfold State.noteMaster; dsimp only; split <;> split <;> simp
@[simp] theorem State.met_commits (s : State) (p : Nat) : (s.met p).host.commits = s.host.commits := by
  simp only [State.met]; unfold State.noteMaster; dsimp only; split <;> split <;> simp

/-- An operation that answers without acting beyond the state it is met in. -/
theorem State.take_answers_of {s t : State} {r : Request} (h : s.Attends (callerOf r)) {a : Answer}
    (he : (s.noteMaster r.port).perform r = .answer a t) (hn : t.host.stalled = []) (hq : t.host.performing = none)
    (hb : t.reset_.bootDone = true) : s.take r = t.respond (t.responseTo r 0 false a) :=
  State.take_answers h rfl rfl rfl he hn hq hb

/-! What is left alone -/

/-- A fold whose steps leave a part alone leaves it alone. -/
theorem foldl_same {α β : Type} {g : State → β} {f : State → α → State} (hf : ∀ s a, g (f s a) = g s) (l : List α) (s : State) :
    g (l.foldl f s) = g s := by
  induction l generalizing s with
  | nil => rfl
  | cons a l ih => simp [ih, hf]
@[simp] theorem State.recordWake_host (s : State) (n : Nat) : (s.recordWake n).host = s.host := by
  simp only [State.recordWake]
  rw [foldl_same (g := State.host)] <;> simp
@[simp] theorem State.wakeFor_host (s : State) (n : Nat) : (s.wakeFor n).host = s.host := by
  simp only [State.wakeFor]; split <;> simp
@[simp] theorem State.setWindow_host (s : State) (c : Nat) (w) : (s.setWindow c w).host = s.host := rfl
@[simp] theorem State.wakeCourse_host (s : State) (c n : Nat) : (s.wakeCourse c n).host = s.host := by
  simp only [State.wakeCourse]; repeat' (split <;> try simp)
@[simp] theorem State.govLate_host (s : State) (c : Nat) : (s.govLate c).host = s.host := by
  simp only [State.govLate]; repeat' (split <;> try simp)
@[simp] theorem State.govDemand_host (s : State) : s.govDemand.host = s.host := by
  simp only [State.govDemand]
  rw [foldl_same (g := State.host)]
  intro s c; repeat' (split <;> try simp)
@[simp] theorem State.recordWake_reset (s : State) (n : Nat) : (s.recordWake n).reset_ = s.reset_ := by
  simp only [State.recordWake]
  rw [foldl_same (g := State.reset_)] <;> simp
@[simp] theorem State.wakeFor_reset (s : State) (n : Nat) : (s.wakeFor n).reset_ = s.reset_ := by
  simp only [State.wakeFor]; split <;> simp
@[simp] theorem State.setWindow_reset (s : State) (c : Nat) (w) : (s.setWindow c w).reset_ = s.reset_ := rfl
@[simp] theorem State.wakeCourse_reset (s : State) (c n : Nat) : (s.wakeCourse c n).reset_ = s.reset_ := by
  simp only [State.wakeCourse]; repeat' (split <;> try simp)
@[simp] theorem State.govLate_reset (s : State) (c : Nat) : (s.govLate c).reset_ = s.reset_ := by
  simp only [State.govLate]; repeat' (split <;> try simp)
@[simp] theorem State.govDemand_reset (s : State) : s.govDemand.reset_ = s.reset_ := by
  simp only [State.govDemand]
  rw [foldl_same (g := State.reset_)]
  intro s c; repeat' (split <;> try simp)

@[simp] theorem State.startSetLoad_host (s : State) (n : Nat) : (s.startSetLoad n).host = s.host := by
  unfold State.startSetLoad; split <;> rfl

@[simp] theorem State.startSetLoad_reset (s : State) (n : Nat) : (s.startSetLoad n).reset_ = s.reset_ := by
  unfold State.startSetLoad; split <;> rfl

/-- What a sealed commit starts leaves the request side alone. -/
@[simp] theorem State.afterSeal_host (s : State) (c : SealedCommit) : (s.afterSeal c).host = s.host := by
  simp only [State.afterSeal, State.govDemand_host]
  rw [foldl_same (g := State.host)]
  · split <;> rfl
  · intro s it; split
    · split <;> simp
    · rfl

@[simp] theorem State.afterSeal_reset (s : State) (c : SealedCommit) : (s.afterSeal c).reset_ = s.reset_ := by
  simp only [State.afterSeal, State.govDemand_reset]
  rw [foldl_same (g := State.reset_)]
  · split <;> rfl
  · intro s it; split
    · split <;> simp
    · rfl

end Sys2Proof.Machine
end

