-- ==== Sys2Proof/Laws/Rests.lean ====
section
/-! SUPPORT. Operations that leave the Catalogue's request side and the reset record alone, one lemma for each part and operation. -/
namespace Sys2Proof.Machine

@[simp] theorem State.storePoison_host (s : State) (a : Nat) : (s.storePoison a).host = s.host := by simp [State.storePoison]

@[simp] theorem State.storePoison_reset (s : State) (a : Nat) : (s.storePoison a).reset_ = s.reset_ := by simp [State.storePoison]

@[simp] theorem State.logEcc_host (s : State) (addr region syndrome kind : Nat) : (s.logEcc addr region syndrome kind).host = s.host := by
  unfold State.logEcc
  repeat' (first | with_reducible rfl | (simp; done) | split)

@[simp] theorem State.logEcc_reset (s : State) (addr region syndrome kind : Nat) : (s.logEcc addr region syndrome kind).reset_ = s.reset_ := by
  unfold State.logEcc
  repeat' (first | with_reducible rfl | (simp; done) | split)

@[simp] theorem State.reportCorrected_host (s : State) (region : Nat) : (s.reportCorrected region).host = s.host := by unfold State.reportCorrected; dsimp only; split <;> (try split) <;> simp

@[simp] theorem State.reportCorrected_reset (s : State) (region : Nat) : (s.reportCorrected region).reset_ = s.reset_ := by unfold State.reportCorrected; dsimp only; split <;> (try split) <;> simp

@[simp] theorem State.countCorrected_host (s : State) (addr region syndrome kind : Nat) : (s.countCorrected addr region syndrome kind).host = s.host := by simp [State.countCorrected]

@[simp] theorem State.countCorrected_reset (s : State) (addr region syndrome kind : Nat) : (s.countCorrected addr region syndrome kind).reset_ = s.reset_ := by simp [State.countCorrected]

@[simp] theorem State.countUncorrectable_host (s : State) (addr region syndrome : Nat) : (s.countUncorrectable addr region syndrome).host = s.host := by simp [State.countUncorrectable]

@[simp] theorem State.countUncorrectable_reset (s : State) (addr region syndrome : Nat) : (s.countUncorrectable addr region syndrome).reset_ = s.reset_ := by simp [State.countUncorrectable]

@[simp] theorem State.meetUpset_host (s : State) (a : Nat) : (s.meetUpset a).host = s.host := by
  unfold State.meetUpset
  repeat' (first | with_reducible rfl | (simp; done) | split)

@[simp] theorem State.meetUpset_reset (s : State) (a : Nat) : (s.meetUpset a).reset_ = s.reset_ := by
  unfold State.meetUpset
  repeat' (first | with_reducible rfl | (simp; done) | split)

@[simp] theorem State.ownBytes_host (s : State) (a : Nat) (l : List Byte) : (s.ownBytes a l).host = s.host := by
  simp only [State.ownBytes]
  simp only [State.storeBytes_host]
  refine foldl_same (g := State.host) (fun t u => ?_) _ s
  split
  · rfl
  · simp

@[simp] theorem State.ownBytes_reset (s : State) (a : Nat) (l : List Byte) : (s.ownBytes a l).reset_ = s.reset_ := by
  simp only [State.ownBytes]
  simp only [State.storeBytes_reset_]
  refine foldl_same (g := State.reset_) (fun t u => ?_) _ s
  split
  · rfl
  · simp

@[simp] theorem State.failTarget_host (s : State) (t : Target) (reason : Nat) : (s.failTarget t reason).host = s.host := by unfold State.failTarget; split <;> simp

@[simp] theorem State.failTarget_reset (s : State) (t : Target) (reason : Nat) : (s.failTarget t reason).reset_ = s.reset_ := by unfold State.failTarget; split <;> simp

@[simp] theorem State.abandonTransitions_host (s : State) : s.abandonTransitions.host = s.host := by
  unfold State.abandonTransitions
  repeat' (first | with_reducible rfl | (simp; done) | split | (dsimp only; split))

@[simp] theorem State.abandonTransitions_reset (s : State) : s.abandonTransitions.reset_ = s.reset_ := by
  unfold State.abandonTransitions
  repeat' (first | with_reducible rfl | (simp; done) | split | (dsimp only; split))

@[simp] theorem State.causeActive_host (s : State) (bit : Nat) : (s.causeActive bit).host = s.host := by unfold State.causeActive; dsimp only; split <;> (try split) <;> simp

@[simp] theorem State.causeActive_reset (s : State) (bit : Nat) : (s.causeActive bit).reset_ = s.reset_ := by unfold State.causeActive; dsimp only; split <;> (try split) <;> simp

@[simp] theorem State.causeCleared_host (s : State) (bit : Nat) : (s.causeCleared bit).host = s.host := by unfold State.causeCleared; split <;> simp

@[simp] theorem State.causeCleared_reset (s : State) (bit : Nat) : (s.causeCleared bit).reset_ = s.reset_ := by unfold State.causeCleared; split <;> simp

@[simp] theorem State.setSpe_host (s : State) (v : SpeSys) : (s.setSpe v).host = s.host := by simp [State.setSpe]

@[simp] theorem State.setSpe_reset (s : State) (v : SpeSys) : (s.setSpe v).reset_ = s.reset_ := by simp [State.setSpe]

@[simp] theorem State.speCount_host (s : State) (k : Nat) : (s.speCount k).host = s.host := by simp [State.speCount]

@[simp] theorem State.speCount_reset (s : State) (k : Nat) : (s.speCount k).reset_ = s.reset_ := by simp [State.speCount]

@[simp] theorem State.speDiversity_host (s : State) : s.speDiversity.host = s.host := by unfold State.speDiversity; dsimp only; split <;> simp

@[simp] theorem State.speDiversity_reset (s : State) : s.speDiversity.reset_ = s.reset_ := by unfold State.speDiversity; dsimp only; split <;> simp

@[simp] theorem State.speReturn_host (s : State) : s.speReturn.host = s.host := by simp [State.speReturn]

@[simp] theorem State.speReturn_reset (s : State) : s.speReturn.reset_ = s.reset_ := by simp [State.speReturn]

@[simp] theorem State.speMissed_host (s : State) (reason : Nat) : (s.speMissed reason).host = s.host := by unfold State.speMissed; dsimp only; split <;> simp

@[simp] theorem State.speMissed_reset (s : State) (reason : Nat) : (s.speMissed reason).reset_ = s.reset_ := by unfold State.speMissed; dsimp only; split <;> simp

@[simp] theorem State.speStore_host (s : State) (r : SpeRecv) (status : Nat) (payload : List Byte) : (s.speStore r status payload).host = s.host := by
  unfold State.speStore
  repeat' (first | with_reducible rfl | (simp; done) | split | (dsimp only; split))

@[simp] theorem State.speStore_reset (s : State) (r : SpeRecv) (status : Nat) (payload : List Byte) : (s.speStore r status payload).reset_ = s.reset_ := by
  unfold State.speStore
  repeat' (first | with_reducible rfl | (simp; done) | split | (dsimp only; split))

@[simp] theorem State.speAbandonRecv_host (s : State) (status : Nat) : (s.speAbandonRecv status).host = s.host := by unfold State.speAbandonRecv; dsimp only; split <;> (try split) <;> simp

@[simp] theorem State.speAbandonRecv_reset (s : State) (status : Nat) : (s.speAbandonRecv status).reset_ = s.reset_ := by unfold State.speAbandonRecv; dsimp only; split <;> (try split) <;> simp

@[simp] theorem State.speDropSend_host (s : State) : s.speDropSend.host = s.host := by simp [State.speDropSend]

@[simp] theorem State.speDropSend_reset (s : State) : s.speDropSend.reset_ = s.reset_ := by simp [State.speDropSend]

@[simp] theorem State.speAbort_host (s : State) (reason : Nat) : (s.speAbort reason).host = s.host := by unfold State.speAbort; dsimp only; split <;> (try split) <;> simp

@[simp] theorem State.speAbort_reset (s : State) (reason : Nat) : (s.speAbort reason).reset_ = s.reset_ := by unfold State.speAbort; dsimp only; split <;> (try split) <;> simp

@[simp] theorem State.speOff_host (s : State) : s.speOff.host = s.host := by simp [State.speOff]

@[simp] theorem State.speOff_reset (s : State) : s.speOff.reset_ = s.reset_ := by simp [State.speOff]

@[simp] theorem State.synpStart_host (s : State) : s.synpStart.host = s.host := by unfold State.synpStart; split <;> simp

@[simp] theorem State.synpStart_reset (s : State) : s.synpStart.reset_ = s.reset_ := by unfold State.synpStart; split <;> simp

@[simp] theorem State.speFollow_host (s : State) : s.speFollow.host = s.host := by
  unfold State.speFollow
  repeat' (first | with_reducible rfl | (simp; done) | split | (dsimp only; split))

@[simp] theorem State.speFollow_reset (s : State) : s.speFollow.reset_ = s.reset_ := by
  unfold State.speFollow
  repeat' (first | with_reducible rfl | (simp; done) | split | (dsimp only; split))

@[simp] theorem State.wakeForMode_host (s : State) (m : Nat) : (s.wakeForMode m).host = s.host := by
  unfold State.wakeForMode
  repeat' (first | with_reducible rfl | (simp; done) | split | rw [foldl_same (g := State.host)] | intro _)

@[simp] theorem State.wakeForMode_reset (s : State) (m : Nat) : (s.wakeForMode m).reset_ = s.reset_ := by
  unfold State.wakeForMode
  repeat' (first | with_reducible rfl | (simp; done) | split | rw [foldl_same (g := State.reset_)] | intro _)

@[simp] theorem State.beginTransition_host (s : State) (t : Transition) : (s.beginTransition t).host = s.host := by
  unfold State.beginTransition
  repeat' (first | with_reducible rfl | (simp; done) | split | (dsimp only; split))

@[simp] theorem State.beginTransition_reset (s : State) (t : Transition) : (s.beginTransition t).reset_ = s.reset_ := by
  unfold State.beginTransition
  repeat' (first | with_reducible rfl | (simp; done) | split | (dsimp only; split))

@[simp] theorem State.holdPending_host (s : State) (t : Transition) : (s.holdPending t).host = s.host := by unfold State.holdPending; split <;> simp

@[simp] theorem State.holdPending_reset (s : State) (t : Transition) : (s.holdPending t).reset_ = s.reset_ := by unfold State.holdPending; split <;> simp

@[simp] theorem State.safeHoldRequest_host (s : State) : s.safeHoldRequest.host = s.host := by unfold State.safeHoldRequest; dsimp only; split <;> (try split) <;> simp

@[simp] theorem State.safeHoldRequest_reset (s : State) : s.safeHoldRequest.reset_ = s.reset_ := by unfold State.safeHoldRequest; dsimp only; split <;> (try split) <;> simp

end Sys2Proof.Machine
end

