-- ==== Sys2Proof/Machine/Balls.lean ====
section
/-! DEFINITION. The ball grid and the supplies (R427 to R432). A ball is its row index and its column, both from 1 to 46. -/
namespace Sys2Proof.Machine

/-- A ball of the grid. -/
structure Ball where
  row : Nat
  col : Nat
  deriving DecidableEq, Repr

/-- The letters of a row (Table 20.1): I, O, Q, R, S, X and Z are left out; rows 20 to 38 begin with A and rows 39 to 46 with B. -/
def rowLetters : List String := ["A", "B", "C", "D", "E", "F", "G", "H", "J", "K", "L", "M", "N", "P", "T", "U", "V", "W", "Y"]

def rowName (i : Nat) : String :=
  if i ≤ 19 then rowLetters.getD (i - 1) ""
  else if i ≤ 38 then "A" ++ rowLetters.getD (i - 20) ""
  else "B" ++ rowLetters.getD (i - 39) ""

/-- The index of a row by its letters. -/
def rowOf (name : String) : Nat := (((List.range 46).map (· + 1)).find? (fun i => rowName i == name)).getD 0

/-- Which leg of a differential pair: P, the true leg, or M. -/
inductive Leg where
  | p
  | m
  deriving DecidableEq, Repr

/-- The signals of the device (R428 to R430). -/
inductive Signal where
  | txout (path : Nat)
  | rxin (path : Nat)
  | fbin (tile : Nat)
  | txen (path : Nat)
  | rxen (path : Nat)
  | fbsel (line : Nat)
  | link (south receive : Bool) (lane : Nat) (leg : Leg)
  | hkin (i : Nat)
  | td (tile : Nat) (leg : Leg)
  | bdac (n : Nat)
  | qspi (k : Nat)
  | service (k : Nat)
  | control (k : Nat)
  | strap (k : Nat)
  | jtag (k : Nat)
  | sync (out : Bool)
  | refclk (leg : Leg)
  deriving DecidableEq, Repr

/-- The ball of a path's signal: courses 0 and 1 use one row and courses 2 and 3 the other (Table 20.2). -/
def pathBall (near far p : Nat) : Ball := ⟨if p < 32 then near else far, 23 * (p / 16 % 2) + 4 + p % 16⟩

/-- Where a signal lies (R428 to R430). QSPI: 0 CLK, 1 CS_N, 2 to 5 IO0 to IO3. Service port: 0 SCLK, 1 CS_N, 2 SDI, 3 SDO. Control: 0 ALERT_N,
1 THERM_N, 2 WAKE, 3 RST_N, 4 BCLR_N, 5 BLOAD_N. Straps: BOOT0 to BOOT2, CLKM0, CLKM1, ROLE0, ROLE1. JTAG: TCK, TMS, TDI, TDO, TRST_N. -/
def Signal.ball : Signal → Ball
  | .txout p => pathBall 2 45 p
  | .rxin p => pathBall 4 43 p
  | .fbin t => ⟨if t < 8 then 6 else 41, 23 * (t / 4 % 2) + 5 + 4 * (t % 4)⟩
  | .txen p => pathBall 8 39 p
  | .rxen p => pathBall 9 38 p
  | .fbsel k => ⟨if k < 24 then 10 else 37, 23 * (k / 12 % 2) + 4 + k % 12⟩
  | .link south receive lane leg =>
    let col := match receive, leg with
      | false, .p => 2
      | false, .m => 3
      | true, .p => 6
      | true, .m => 7
    ⟨12 + 2 * lane, if south then 47 - col else col⟩
  | .hkin i => if i < 24 then ⟨11, 12 + i⟩ else ⟨36, i - 12⟩
  | .td t leg => ⟨if t < 8 then 13 else 31, (match leg with | .p => 12 | .m => 13) + 2 * (t % 8)⟩
  | .bdac n => ⟨15 + 2 * (n / 24), 12 + n % 24⟩
  | .qspi k => ⟨32, 10 + k⟩
  | .service k => ⟨32, 17 + k⟩
  | .control k => ⟨32, 22 + k⟩
  | .strap k => ⟨33, 10 + k⟩
  | .jtag k => ⟨33, 18 + k⟩
  | .sync out => ⟨33, if out then 25 else 24⟩
  | .refclk leg => ⟨34, match leg with | .p => 20 | .m => 21⟩

/-- Does the device have a signal of this number? -/
def Signal.exists_ : Signal → Bool
  | .txout n | .rxin n | .txen n | .rxen n => decide (n < 64)
  | .fbin n => decide (n < 16)
  | .td n _ => decide (n < 16)
  | .fbsel n | .hkin n => decide (n < 48)
  | .link _ _ n _ => decide (n < 10)
  | .bdac n => decide (n < 144)
  | .qspi k | .control k => decide (k < 6)
  | .service k => decide (k < 4)
  | .strap k => decide (k < 7)
  | .jtag k => decide (k < 5)
  | .sync _ | .refclk _ => true

/-- The supply rails (Table 20.4). -/
inductive Rail where
  | vddDig
  | vddArc
  | vddLnk
  | vddhLnk
  | vddCrs
  | vddaCrs
  | vddaRf
  | vddSrv
  | vddio
  | vposB
  | vnegB
  deriving DecidableEq, Repr

/-- The rail whose zone a ball lies in (Table 20.4). -/
def Ball.rail (b : Ball) : Option Rail :=
  let mid := decide (12 ≤ b.col) && decide (b.col ≤ 35)
  let srv := decide (28 ≤ b.col) && decide (b.col ≤ 35)
  if mid && [16, 18, 20, 22, 24, 26, 27, 28, 29, 30, 35].contains b.row then some .vddDig
  else if mid && [12, 14].contains b.row then some .vddArc
  else if [9, 38].contains b.col && decide (12 ≤ b.row) && decide (b.row ≤ 30) then some .vddLnk
  else if [10, 37].contains b.col && decide (12 ≤ b.row) && decide (b.row ≤ 30) then some .vddhLnk
  else if !mid && [11, 36].contains b.row then some .vddCrs
  else if [8, 9, 10, 37, 38, 39].contains b.row
      && (decide (b.col ≤ 3) || (decide (20 ≤ b.col) && decide (b.col ≤ 26)) || decide (43 ≤ b.col)) then some .vddaCrs
  else if [7, 40].contains b.row then some .vddaRf
  else if srv && [13, 31].contains b.row then some .vddSrv
  else if srv && [32, 33].contains b.row then some .vddio
  else if b.row == 34 && decide (10 ≤ b.col) && decide (b.col ≤ 15) then some .vposB
  else if b.row == 34 && decide (26 ≤ b.col) && decide (b.col ≤ 31) then some .vnegB
  else none

/-- What the monitors compare with each rail, in mV of magnitude: the power-on and the brown-out threshold, and the operating range's ends
in units of 0.1 mV (Table 20.5). -/
structure RailLimits where
  powerOn : Nat
  brownOut : Nat
  low : Nat
  high : Nat
  deriving DecidableEq, Repr

def Rail.limits : Rail → RailLimits
  | .vddDig => ⟨500, 690, 7275, 7725⟩
  | .vddArc => ⟨750, 1020, 10670, 11330⟩
  | .vddLnk => ⟨600, 830, 8730, 9270⟩
  | .vddhLnk => ⟨800, 1110, 11640, 12360⟩
  | .vddCrs => ⟨600, 830, 8730, 9270⟩
  | .vddaCrs => ⟨800, 1110, 11640, 12360⟩
  | .vddaRf => ⟨1200, 1670, 17460, 18540⟩
  | .vddSrv => ⟨600, 830, 8730, 9270⟩
  | .vddio => ⟨1200, 1670, 17460, 18540⟩
  | .vposB => ⟨4500, 6000, 61750, 68250⟩
  | .vnegB => ⟨4500, 6000, 61750, 68250⟩

/-- The source of Table 17.2 that a rail's magnitude in mV asserts: a power-on for VDD_SRV below its power-on threshold, a brown-out for a
rail below its brown-out threshold (R374, R432). -/
def Rail.source (r : Rail) (mv : Nat) : Option Nat :=
  if r = .vddSrv ∧ mv < r.limits.powerOn then some 0 else if mv < r.limits.brownOut then some 1 else none

end Sys2Proof.Machine
end

