-- ==== Sys2Proof/Machine/Bricks.lean ====
section
/-! DEFINITION. The transmitting side of a link port: words of a packet, bonds, bricks, scrambling, stuffing and gaps (R281 to R287,
R297). -/
namespace Sys2Proof.Machine

/-- What a lane's transmitter keeps: the last bit sent with the run of equal bits it ends, and the scrambler's register. -/
structure LaneTx where
  last : Bool
  run : Nat
  q : Nat
  deriving DecidableEq, Repr

/-- Insert stuff bits (R284): after 31 equal bits the complement of the 31st, whose own run then starts. Answers what is sent, and the last
bit sent with the run it ends. -/
def stuff : Bool → Nat → List Bool → List Bool × Bool × Nat
  | last, run, [] => if run = 31 then ([!last], (!last), 1) else ([], last, run)
  | last, run, b :: t =>
    if run = 31 then
      let r := stuff b (if b = !last then 2 else 1) t
      ((!last) :: b :: r.1, r.2)
    else
      let r := stuff b (if b = last then run + 1 else 1) t
      (b :: r.1, r.2)

/-- Gap bits (R285): each the complement of the bit before it. -/
def gapBits : Nat → Bool → List Bool
  | 0, _ => []
  | n + 1, last => (!last) :: gapBits n (!last)

/-- The fields of a bond's bricks that its sender chooses (Table 12.3). -/
structure BondHead where
  control : Bool
  bseq : Nat
  frame : Bool
  align : Bool
  deriving DecidableEq, Repr

/-- The header of lane `k`'s brick after the bit `last` (Table 12.3). -/
def brickHeader (h : BondHead) (last : Bool) (k : Nat) (farFail : Bool) : Nat :=
  (if last then 3 else 0) * 2 ^ 14 + b2n h.control * 2 ^ 13 + k * 2 ^ 9 + h.bseq % 4 * 2 ^ 7 + b2n h.frame * 2 ^ 6
    + b2n (h.align && !h.control) * 2 ^ 5 + b2n farFail * 2 ^ 4 + (15 - k)

/-- The payload bits of 31 lane words, each from bit 31 down (R281). -/
def wordsBits (l : List Nat) : List Bool := l.flatMap (bitsOfNat 32)

/-- The lane words of a bond's 248 words (R281), lane 8 the XOR of the others (R286). -/
def laneWordsOf (bond : List Nat) (k : Nat) : List Nat :=
  let lane := fun (k : Nat) => (List.range 31).map (fun j => bond.getD (8 * j + k) 0)
  if k < 8 then lane k else ((List.range 8).map lane).foldl xorWords (List.replicate 31 0)

/-- The 1,024 bits of a brick before stuffing (R281 to R283), and the scrambler's register after it. -/
def brickBits (h : BondHead) (l : LaneTx) (k : Nat) (farFail : Bool) (payload : List Bool) : List Bool × Nat :=
  let head := bitsOfNat 16 (brickHeader h l.last k farFail)
  let p := scramble (if h.frame then scramblerSeed k else l.q) payload
  (head ++ p.1 ++ bitsOfNat 16 (crcBits 16 0x8BB7 0xFFFF (head ++ p.1)), p.2)

/-- A stuffed brick as it is sent, and what the lane keeps. -/
def sendBrick (h : BondHead) (l : LaneTx) (k : Nat) (farFail : Bool) (payload : List Bool) : List Bool × LaneTx :=
  let b := brickBits h l k farFail payload
  let s := stuff l.last l.run b.1
  (s.1, ⟨s.2.1, s.2.2, b.2⟩)

/-- A lane fills its brick up to the longest of the bond with gap bits (R285). -/
def fillGap (n : Nat) (x : List Bool × LaneTx) : List Bool × LaneTx :=
  let g := gapBits n x.2.last
  (x.1 ++ g, if n = 0 then x.2 else { x.2 with last := g.getLastD x.2.last, run := 1 })

/-- A bond as its nine lanes send it (R285, R286): `farFail` are the lanes of the incoming direction that have failed. -/
def sendBond (h : BondHead) (lanes : List LaneTx) (farFail : List Nat) (bond : List Nat) : List (List Bool × LaneTx) :=
  let sent := lanes.zipIdx.map (fun x => sendBrick h x.1 x.2 (farFail.contains x.2) (wordsBits (laneWordsOf bond x.2)))
  let longest := (sent.map (fun x => x.1.length)).foldl max 0
  sent.map (fun x => fillGap (longest - x.1.length) x)

/-- The 248 words of a control bond: the message from byte 0, all bytes beyond it 0 (R290). -/
def controlWords (message : List Byte) : List Nat := (List.range 248).map (fun w => fieldLE message (4 * w) 4)

/-- The header words of a packet (Table 13.1). -/
def packetHeader (p : OutPacket) (seq : Nat) : List Nat :=
  [p.typ % 16 * 2 ^ 28 + p.pos % 4 * 2 ^ 26 + ceilDiv p.payload.length 4 % 2 ^ 14 * 2 ^ 12 + seq % 256 * 2 ^ 4, p.etag % 2 ^ 32]

/-- The words of a packet as it is sent (R297). -/
def packetWords (p : OutPacket) (seq : Nat) : List Nat :=
  packetHeader p seq ++ (List.range (ceilDiv p.payload.length 4)).map (fun w => fieldLE p.payload (4 * w) 4)

end Sys2Proof.Machine
end

