-- ==== Sys2Proof/Machine/Pins.lean ====
section
/-! DEFINITION. What the outputs drive: TXEN, RXEN, FBSEL, ALERT_N, THERM_N, SYNC_OUT, QSPI_CS_N, the bias outputs, the condition of a
transmit path, the converters' codes and the boundary-scan cells (R49, R84, R103 to R107, R115, R170, R371, R372, R395, R402 to R406,
R435). No command reads them. -/
namespace Sys2Proof.Machine

/-- What a digital output does: it drives a level, or floats and rests on the board's pull (Table 16.4). -/
inductive Pin where
  | low
  | high
  | floats
  deriving DecidableEq, Repr

def Pin.ofBool (b : Bool) : Pin := if b then .high else .low

/-- A scanned output under a test-mode instruction (Table 17.10): the cell's value, or high impedance; otherwise what the block drives. -/
def State.scanned (s : State) (cell : Nat) (p : Pin) : Pin :=
  if s.scan.highZ then .floats else if s.scan.fromCells then .ofBool (s.scan.cells.getD cell false) else p

/-- A state 10 ns earlier, no further back than the tick that began the epoch. -/
def State.before10 (s : State) : State := { s with now := max s.tb.tickAt (s.now - nsec 10) }

/-- May TXENp and RXENp be high together: across FLEX symbols of Duplex Service and their leads and lags (R104)? -/
def State.flexNear (s : State) (p : Nat) : Bool :=
  let c := courseOf p
  s.flexSymbol c s.epoch || s.flexSymbol c (s.prevEpoch s.epoch) || (s.airAt (s.nextEpoch s.epoch)).flexSymbol c (s.nextEpoch s.epoch)

/-- The lines of a path as its course and the SPE drive them (R103, R206). -/
def State.txLine (s : State) (p : Nat) : Bool := s.txEn p || s.speTxEn p
def State.rxLine (s : State) (p : Nat) : Bool := s.rxEn p || s.speRxEn p

/-- TXENp at the ball (R103 to R105, R371, R435): it rises no sooner than 10 ns after the fall of RXENp. -/
def State.txenPin (s : State) (p : Nat) : Pin :=
  let on := s.txLine p && (s.flexNear p || (!s.rxLine p && !s.before10.rxLine p))
  s.scanned p (if s.domainOn (8 + courseOf p) then .ofBool on else .floats)

/-- RXENp at the ball (R103 to R105, R371, R435): it rises no sooner than 10 ns after the fall of TXENp. -/
def State.rxenPin (s : State) (p : Nat) : Pin :=
  let on := s.rxLine p && (s.flexNear p || (!s.txLine p && !s.before10.txLine p))
  s.scanned (64 + p) (if s.domainOn (8 + courseOf p) then .ofBool on else .floats)

/-- FBSEL(3t + b): bit b of the tile's code (R115). -/
def State.fbselPin (s : State) (k : Nat) : Pin :=
  s.scanned (128 + k) (if s.domainOn (8 + k / 12) then .ofBool (bitAt (tget 0 (k / 3) s.lin.fbsel) (k % 3)) else .floats)

/-- Open-drain outputs: low, or released to the board's pull (R84, R371, R416). -/
def openDrain (low : Bool) : Pin := if low then .low else .floats
def State.alertPin (s : State) : Pin :=
  if s.scan.fromCells then openDrain (s.scan.cells.getD 182 false) else openDrain (s.alertLow && !s.scan.highZ)
def State.thermPin (s : State) : Pin :=
  if s.scan.fromCells then openDrain (s.scan.cells.getD 183 false) else openDrain (s.therm.latched && !s.scan.highZ)

/-- SYNC_OUT (R49, R371). -/
def State.syncOutPin (s : State) : Pin := s.scanned 177 (if s.domainOn 2 then .ofBool s.syncOut else .floats)

/-- Is the boot flash selected (R371, R439): for a boot read or a save? QSPI_CS_N floats while CORE is off. -/
def State.qspiCsPin (s : State) : Pin :=
  s.scanned 192 (if s.domainOn 2 then .ofBool (!(s.cal.save.isSome || (!s.reset_.bootDone && s.rd Ix.BootState 0 == 1))) else .floats)

/-! Bias outputs (R402 to R406) -/

/-- A channel's output: clamped to 0 V through about 10 kΩ, held at its last voltage, or driven, in µV rounded down. -/
inductive BiasOut where
  | clamped
  | held
  | driven (microvolt : Int)
  deriving DecidableEq, Repr

/-- The voltage of a code in a range, in µV rounded down (Table 18.2). -/
def biasMicrovolts (range code : Nat) : Int :=
  match range with
  | 0 => (5000000 * code : Nat) / 4096
  | 1 => -5000000 + (5000000 * code : Nat) / 4096
  | 2 => 5000000 * toInt 12 code / 2048
  | _ => (2500000 * code : Nat) / 4096

def State.biasOut (s : State) (n : Nat) : BiasOut :=
  if s.rdBit Ix.BiasStatus (n + 1) 0 then .clamped
  else if thas n s.bias.held then .held
  else .driven (biasMicrovolts (s.rd Ix.BiasRangeNow (n + 1)) (s.rd Ix.BiasCodeNow (n + 1)))

/-! Transmit paths -/

/-- The condition of a transmit path (Table 4.7): transmitting, silent, muted or in hold-off. -/
inductive TxCondition where
  | signal
  | silence
  | mute
  | holdOff
  deriving DecidableEq, Repr

/-- The condition of TXOUTp in the epoch in progress: the 50 Ω termination holds in mute and hold-off, powered or not (R106). -/
def State.txCondition (s : State) (p : Nat) : TxCondition :=
  if s.heldOff p || !s.domainOn (8 + courseOf p) || testMode s.scan.ir then .holdOff
  else if s.muted p then .mute
  else
    let heard := match s.mix.air with
      | some o => o.epoch == s.epoch && !o.silent && !o.dead.contains p
      | none => false
    if s.txSymbol (courseOf p) s.epoch && heard then .signal else .silence

/-- The code of a path's 14-bit DAC for a Lineariser output: bits [15:2] (R170). -/
def dacCode (u : Int) : Int := u / 4

end Sys2Proof.Machine
end

