-- ==== Sys2Proof/Tests/Slice0.lean ====
section
/-! SUPPORT. The model's own tests: ill-formed commands are refused, small steps by the spec's figures, and for each statement states and operands
that meet its premises. A premise of the form "x is the value of an expression" is met by that expression. -/
namespace Sys2Proof.Tests
set_option Elab.async false
set_option linter.unusedVariables false
open Sys2Proof Sys2Proof.Machine

/-! States for the tests -/

/-- A device that serves in a mode: boot complete, every domain on, the time base running. -/
def up (mode : Nat) : State :=
  (List.range 12).foldl (fun s d => s.wr Ix.DomainState (d + 1) 2)
    (({ State.reset with reset_ := { held := [], bootDone := true }, tb := { running := true } } : State).wr Ix.ModeCurrent 0 mode |>.wr Ix.TrimValid 0 1)

/-- The host on the service port, with a tag of its own. -/
def host : Caller := ⟨1, 1, 0⟩

/-! What a state must show for a command to act at once, as tests of it -/

/-- The entry at an index. -/
def entryAt (index sub : Nat) : Entry := (findEntry index sub).getD ⟨0, 0, 0, .u8, .ro, [], .any, 0⟩

def attendsHere (s : State) (w : Caller) : Bool :=
  s.serving && s.reset_.bootDone && decide (w.pos = s.pos) && decide (s.host.stalled = []) && decide (s.host.performing = none)
    && decide (¬((s.pos = 0 ∨ w.port = 1) ∧ w.tag ∈ s.host.forwarded.map (·.request.tag))) && decide (w.port = 0 ∨ 32792 ≤ s.responseSpace)

theorem attends {s : State} {w : Caller} (h : attendsHere s w = true) : s.Attends w := by
  simp only [attendsHere, Bool.and_eq_true, decide_eq_true_eq] at h
  obtain ⟨⟨⟨⟨⟨⟨a, b⟩, c⟩, d⟩, e⟩, f⟩, g⟩ := h
  exact ⟨a, b, c, d, e, f, g⟩

def acceptsHere (n : State) (e : Entry) (index sub v : Nat) : Bool :=
  decide (findEntry index sub = some e) && indexDefined index && decide (index < 0xF000) && decide (e.type ≠ .domain)
    && decide (n.classFault 4 e.access = none) && decide (index = Ix.ArrayModeRequest → n.pos = 0) && decide (n.modeFault 4 index sub = false)
    && decide (v < 256 ^ e.type.size) && decide (keptValue e v = v) && n.scalarOk e index sub v && decide (n.reservedElement index sub = false)
    && decide (¬(e.type = .bool ∧ e.access = .cmd ∧ v = 0))

def ordersHere (s : State) (w : Caller) (index sub v : Nat) : Bool :=
  attendsHere s w && acceptsHere (s.met w.port) (entryAt index sub) index sub v

theorem orders {s : State} {w : Caller} {index sub v : Nat} (h : ordersHere s w index sub v = true) : s.Orders w index sub v := by
  simp only [ordersHere, Bool.and_eq_true] at h
  obtain ⟨a, b⟩ := h
  refine ⟨attends a, entryAt index sub, ?_⟩
  simp only [acceptsHere, Bool.and_eq_true, decide_eq_true_eq] at b
  obtain ⟨⟨⟨⟨⟨⟨⟨⟨⟨⟨⟨b1, b2⟩, b3⟩, b4⟩, b5⟩, b6⟩, b7⟩, b8⟩, b9⟩, b10⟩, b11⟩, b12⟩ := b
  exact ⟨b1, b2, b3, b4, b5, b6, b7, b8, b9, b10, b11, b12⟩

def recordsHere (n : State) (e : Entry) (index : Nat) (l : List Byte) : Bool :=
  decide (findEntry index 0 = some e) && indexDefined index && decide (index < 0xF000) && decide (e.type = .domain)
    && decide (n.classFault 4 e.access = none) && decide (n.modeFault 4 index 0 = false) && decide ((domSizes index).1 ≤ l.length)
    && decide (l.length ≤ (domSizes index).2) && decide (l.length ≤ 32768) && decide (l.length ≠ 0) && decide (index ≠ Ix.ArrayModeRequest)
    && decide (n.domValueBad index l = none) && decide (n.transferOf index 0 = none) && decide (n.host.transfers.length < 4)

def ordersRecordHere (s : State) (w : Caller) (index : Nat) (l : List Byte) : Bool :=
  attendsHere s w && recordsHere (s.met w.port) (entryAt index 0) index l

theorem ordersRecord {s : State} {w : Caller} {index : Nat} {l : List Byte} (h : ordersRecordHere s w index l = true) :
    s.OrdersRecord w index l := by
  simp only [ordersRecordHere, Bool.and_eq_true] at h
  obtain ⟨a, b⟩ := h
  refine ⟨attends a, entryAt index 0, ?_⟩
  simp only [recordsHere, Bool.and_eq_true, decide_eq_true_eq] at b
  obtain ⟨⟨⟨⟨⟨⟨⟨⟨⟨⟨⟨⟨⟨b1, b2⟩, b3⟩, b4⟩, b5⟩, b6⟩, b7⟩, b8⟩, b9⟩, b10⟩, b11⟩, b12⟩, b13⟩, b14⟩ := b
  exact ⟨b1, b2, b3, b4, b5, b6, b7, b8, b9, b10, b11, b12, b13, b14⟩

theorem serves {s : State} {d : Nat} (h : s.domainOn d = true ∧ s.power.resetting.contains d = false ∧ (d = 5 → s.power.archHeld = false)) :
    s.Serves d := ⟨h.1, h.2.1, h.2.2⟩

theorem between {s : State} {m : Nat} {c : MasonCore}
    (h : s.core m = c ∧ c.task.isSome = true ∧ c.bundle = [] ∧ c.acts = [] ∧ c.dests = [] ∧ c.slot = 0 ∧ c.fault = none ∧ c.flight = []
      ∧ c.flow = none ∧ c.cycle + 1 < 2 ^ 32) : s.Between m c :=
  ⟨h.1, h.2.1, h.2.2.1, h.2.2.2.1, h.2.2.2.2.1, h.2.2.2.2.2.1, h.2.2.2.2.2.2.1, h.2.2.2.2.2.2.2.1, h.2.2.2.2.2.2.2.2.1,
    h.2.2.2.2.2.2.2.2.2⟩

theorem hears {s : State} {h : PacketHead} {typ words : Nat} (e : s.linkState h.port = 5 ∧ typ < 12 ∧ words ≤ classLimit (packetClass typ)
    ∧ (usesTag typ = true → s.tagOk (s.completeTag h.etag) = true)) : s.Hears h typ words := ⟨e.1, e.2.1, e.2.2.1, e.2.2.2⟩

/-- A lookup that finds an entry. -/
theorem found {x : Except Abort Entry} {e : Entry} (h : (match x with | .ok a => decide (a = e) | .error _ => false) = true) :
    x = .ok e := by
  cases x with
  | ok a => simpa using h
  | error a => simp at h

/-- A request on the service port for an entry. -/
def ask (op index sub : Nat) : Request := ⟨1, op, 1, 0, false, false, false, false, sub, index, 0, 0, 0, 0, 0, []⟩

/-- The same with the bytes of a value, padded to whole words. -/
def put (op index sub n v : Nat) : Request := { ask op index sub with length := n, data := padded (leBytes n v), first := true, last := true }

/-- A sealed commit of the host's. -/
def sealed (target : Nat) (array : Bool) : SealedCommit :=
  { source := .host, target := target, original := target, asap := false, array := array, deferred := false, missed := false, armed := false,
    decided := false, items := [] }

/-- An event record. -/
def someEvent : EventRec := ⟨0, 0x1200, 0, 0, 0x1201, 0⟩


/-- A job record of Table 6.4: external, downlink, slot 0, layers 1, all 273 resource blocks of one carrier. -/
def jobRecord (flags algorithm count : Nat) : List Byte :=
  leBytes 1 flags ++ leBytes 1 algorithm ++ [1, 1] ++ leBytes 2 0 ++ leBytes 2 count ++ [0, 0xFF] ++ leBytes 2 7 ++ leBytes 4 0 ++ leBytes 2 32767
    ++ leBytes 2 32767 ++ leBytes 4 0 ++ leBytes 8 (epochEntry (mkEpoch 0 1 0 0)) ++ leBytes 8 0 ++ leBytes 2 (if algorithm = 3 then 0xFFFF else 0)
    ++ List.replicate 62 0xFF ++ List.replicate 24 0

/-- A job of that record. -/
def someJob (flags algorithm count state : Nat) : WeightJob := ⟨7, jobRecord flags algorithm count, state, 0, 0, [], 0xFF, 0xFF, [], [], []⟩

/-- The bytes of a canceller set that pass the seal check. -/
def setBytes (base : Nat) : Tab Byte := [(base, 1), (base + 2, 0xFF), (base + 3, 0xFF)]

/-- A send of the packet engine. -/
def someSend (start phase : Nat) : SpeSend := ⟨0, 1, 0, 8, start, start + 100, 0, 0, phase, false⟩

/-- A reception on path 0. -/
def someRecv (synced : Bool) : SpeRecv := ⟨⟨0, 100, 0⟩, 0, false, false, synced, 0, 0, 0, none⟩


/-- A folio image with a header that passes: layers 1, group 16, the resource blocks of the configuration in force. -/
def folioOf (kind : Nat) : List Byte :=
  let n := (up 3).prbsList
  [1] ++ leBytes 1 kind ++ [1, 16] ++ leBytes 2 (groupCount n 16) ++ [0, 0] ++ n.flatMap (leBytes 2) ++ List.replicate 16 0
    ++ leBytes 4 (256 * groupCount n 16) ++ List.replicate 28 0

/-- A downlink descriptor: layer 0, carrier 0, one resource block from 0 on, width 9, every symbol. -/
def dlDescriptor : List Byte := [0x80, 0x48, 0, 0, 1, 0, 0xFF, 0x3F, 0, 0, 0, 0]


/-- A header of the packet engine: LENGTH 8, MOD 0, with a good CRC. -/
def someHeader : Nat := 256 * 65536 + speHeaderCrc 256

/-- A calibration run of every kind on every path, which measures. -/
def someRun (repeated : List (Nat × Nat)) : CalRunSys :=
  { run := 1, array := false, targeted := false, kinds := 15, paths := 2 ^ 64 - 1, start := 0, measuring := true, repeated := repeated }

/-- A measurement of a kind on path 63. -/
def someMeasure (kind : Nat) (lost poison : Bool) (snr q : Int) : CalMeasure :=
  ⟨kind, 63, lost, poison, List.replicate 8 q, List.replicate 8 0, [], [], 0, [], snr, [], [], []⟩

/-- A core between two bundles, P1 at the top word of its data memory. -/
def someCore : MasonCore := { task := some ⟨1, 0, 1, 0, 0, 0, 0, 0, 0, 0, [], none⟩, p := [(1, 0x3FFE0), (2, 0x107)], pc := 64 }

/-- A device whose core 47 is such a core. -/
def coreUp (c : MasonCore) : State := (up 4).setCore 47 c


theorem pairOf {α β : Type} {x : α × β} {a : α} (h : x.1 = a) : x = (a, x.2) := by subst h; rfl

theorem got {x : Except Nat (Nat × Nat)} {e : Nat × Nat} (h : (match x with | .ok a => decide (a = e) | .error _ => false) = true) : x = .ok e := by
  cases x with
  | ok a => simpa using h
  | error a => simp at h

/-- A port in a state, its lanes in service, as PORT-S of a device whose position is fixed. -/
def linked (p st : Nat) (c : PortSys) : State :=
  (((allLanes.foldl (fun s k => s.wr Ix.LaneState (laneIx p k) 1) (up 4)).wr Ix.LinkState (p + 1) st).setPort p c)

/-- A packet of PORT-N or PORT-S at the epoch in progress. -/
def from_ (p pos : Nat) : PacketHead := ⟨p, pos, 0, 0⟩

/-- A user-job record: job 7, slot 16, one core, budget 100. -/
def userJob : List Byte :=
  leBytes 2 7 ++ [16, 1] ++ leBytes 4 100 ++ leBytes 8 (epochEntry (mkEpoch 0 1 0 0)) ++ leBytes 4 0 ++ leBytes 4 0 ++ leBytes 8 0

/-- A kernel image of 16 code bytes. -/
def kernelImage : List Byte :=
  leBytes 4 0x4E534D57 ++ [16, 1, 0, 0] ++ leBytes 4 1 ++ leBytes 4 16 ++ leBytes 4 0 ++ List.replicate 108 0 ++ List.replicate 16 0


theorem records {n : State} {e : Entry} {index : Nat} {l : List Byte} (h : (decide (entryAt index 0 = e) && recordsHere n e index l) = true) :
    n.Records e index l := by
  simp only [recordsHere, Bool.and_eq_true, decide_eq_true_eq] at h
  obtain ⟨-, ⟨⟨⟨⟨⟨⟨⟨⟨⟨⟨⟨⟨⟨b1, b2⟩, b3⟩, b4⟩, b5⟩, b6⟩, b7⟩, b8⟩, b9⟩, b10⟩, b11⟩, b12⟩, b13⟩, b14⟩⟩ := h
  exact ⟨b1, b2, b3, b4, b5, b6, b7, b8, b9, b10, b11, b12, b13, b14⟩

/-- An Archive read or write of four bytes at address 0. -/
def memAt0 (write : Bool) : MemRequest :=
  { port := 0, tag := 255, write := write, addr := 0, bytes := 4, data := if write then [1, 2, 3, 4] else [] }

/-- A descriptor at an address: four bytes from 0x1000 to 0x2000, with a NEXT. -/
def descAt (a next : Nat) : DmaDesc := ⟨a, next, 0x1000, 0x2000, 4, 0, 0, 0, 0, 0, 0, 0, 0⟩

/-- Its bytes. -/
def descBytes (next : Nat) : List Byte := leBytes 8 next ++ leBytes 8 0x1000 ++ leBytes 8 0x2000 ++ leBytes 4 4 ++ leBytes 4 0

/-- A device with channel 15 in a state. -/
def dmaUp (st : Nat) (c : DmaChan) : State := (((up 4).wr Ix.DmaReserved 0 0).wr Ix.DmaState 16 st).setChan 15 c

/-- The state that a command leads to. -/
def asNext (o : Host.Outcome State Fault Refusal) : Option State :=
  match o with
  | .next t => some t
  | _ => none

/-! Commands that the part cannot meet: an ill-formed term for each check -/

theorem test_caller_wf : ([⟨2, 0, 0⟩, ⟨0, 256, 0⟩, ⟨0, 0, 4⟩] : List Caller).all (fun w => !w.wf) = true := by decide

theorem test_request_wf : ([{ ask 0 0 0 with port := 2 }, { ask 0 0 0 with op := 256 }, { ask 0 0 0 with tag := 256 },
    { ask 0 0 0 with pos := 4 }, { ask 0 0 0 with sub := 256 }, { ask 0 0 0 with index := 65536 }, { ask 0 0 0 with count := 65536 },
    { ask 0 0 0 with length := 2 ^ 32 }, { ask 0 0 0 with offset := 2 ^ 32 }, { ask 0 0 0 with param := 2 ^ 64 },
    { ask 0 0 0 with spare := 4 }, { ask 0 0 0 with data := [1] }] : List Request).all (fun r => !r.wf) = true := by decide

theorem test_packet_head_wf : ([⟨2, 0, 0, 0⟩, ⟨0, 4, 0, 0⟩, ⟨0, 0, 2 ^ 32, 0⟩, ⟨0, 0, 0, 256⟩] : List PacketHead).all (fun h => !h.wf) = true := by
  decide

theorem test_payload_wf (l : List Byte) (h : 65532 < l.length) : wordsOk [1, 2, 3] = false ∧ wordsOk l = false := by simp [wordsOk, h]

theorem test_access_wf : MasonIssue.wf ⟨48, 0, false⟩ = false
    ∧ ([⟨256, 0, 0⟩, ⟨0, 2 ^ 40, 0⟩, ⟨0, 0, 2 ^ 32⟩] : List MemAccess).all (fun a => !a.wf) = true
    ∧ ([⟨65536, 0, 0⟩, ⟨0, 65536, 0⟩, ⟨0, 0, 65536⟩] : List CreditUnits).all (fun u => !u.wf) = true
    ∧ ([.xfer 48 0, .burst 16 0, .fetch 16] : List MortarAccess).all (fun a => !a.wf) = true := by decide

theorem test_tick_input_wf : ([⟨[(64, 0, ⟨0, 0⟩)], [], [], [], [], [], [], [], []⟩, ⟨[], [(64, 0, 0)], [], [], [], [], [], [], []⟩,
    ⟨[], [], [(64, 0)], [], [], [], [], [], []⟩, ⟨[], [], [], [(64, 0, 0)], [], [], [], [], []⟩, ⟨[], [], [], [], [(64, [])], [], [], [], []⟩,
    ⟨[], [], [], [], [], [64], [], [], []⟩, ⟨[], [], [], [], [], [], [64], [], []⟩, ⟨[], [], [], [], [], [], [], [64], []⟩,
    ⟨[], [], [], [], [], [], [], [], [64]⟩] : List TickInput).all (fun x => !x.wf) = true := by decide

theorem test_wf_refuses_1 : (([.symbolTick ⟨[], [], [], [], [(64, [])], [], [], [], []⟩, .modeRequest ⟨2, 1, 0⟩ 0, .modeRequest host 65536, .safeHoldRequest ⟨2, 1, 0⟩,
    .arrayModeRequest ⟨2, 1, 0⟩ 0, .arrayModeRequest host 65536, .timeRealign ⟨2, 1, 0⟩ 0, .timeRealign host 65536, .read
    ({ ask 0 0 0 with pos := 4 }), .readStaged ({ ask 0 0 0 with pos := 4 }), .snapshot ({ ask 0 0 0 with pos := 4 }), .write
    ({ ask 0 0 0 with pos := 4 }), .stage ({ ask 0 0 0 with pos := 4 }), .commit ({ ask 0 0 0 with pos := 4 }), .discard
    ({ ask 0 0 0 with pos := 4 }), .domainTransferTimeout 65536 0, .domainTransferTimeout 0 256, .forwardTimeout 256, .eventAck ⟨2, 1, 0⟩ 0,
    .eventAck host 65536, .masterPresenceClear ⟨2, 1, 0⟩ 0, .masterPresenceClear host 65536, .dcRange 64 1, .dcRange 0 0] :
    List Instr).all (fun i => !i.wf)) = true := by decide +kernel

theorem test_wf_refuses_2 : (([.dcRange 0 4, .synUnlock 4, .synLock 4, .relockAttemptFail 4, .loBorrowSwitch 4, .loBorrow 4 (List.replicate 16 0), .loBorrow 0 [],
    .courseTransitionStart 4, .courseTransitionDone 4, .observationStep 4 false, .forwardCaptureDone 4 0 0 false [], .reflectedCaptureDone 4 0 0,
    .linUpdateReady 64 0 0 [] [], .linResume ⟨2, 1, 0⟩ 0, .linResume host 65536, .folioSeal ⟨2, 1, 0⟩ 0, .folioSeal host 256, .libraryValidate ⟨2,
    1, 0⟩ 0, .libraryValidate host 65536, .libraryInvalidate ⟨2, 1, 0⟩ 0, .libraryInvalidate host 65536, .weightJobSubmit ⟨2, 1, 0⟩ [],
    .weightJobCancel ⟨2, 1, 0⟩ 0, .weightJobCancel host 65536] :
    List Instr).all (fun i => !i.wf)) = true := by decide +kernel

theorem test_wf_refuses_3 : (([.cancelSetSeal ⟨2, 1, 0⟩ 0, .cancelSetSeal host 256, .cancelSetLoaded 2, .cancelTrain ⟨2, 1, 0⟩ [], .speTxSend ⟨2, 1, 0⟩ [], .speTxCancel ⟨2, 1,
    0⟩ 0, .speTxCancel host 65536, .speRxRelease ⟨2, 1, 0⟩ 0, .speRxRelease host 65536, .speHeader ((2 ^ 32)), .speRx [] ((2 ^ 32)), .trimRecheck
    ⟨2, 1, 0⟩ 0, .trimRecheck host 65536, .calRun ⟨2, 1, 0⟩ [], .calRunCancel ⟨2, 1, 0⟩ 0, .calRunCancel host 65536, .calMeasurementDone
    ({ someMeasure 1 false false 0 0 with path := 64 }), .calStoreSave ⟨2, 1, 0⟩ 0, .calStoreSave host 256, .ldv ⟨48, 0, false⟩ ⟨0, 0, 0⟩, .ldvc
    ⟨48, 0, false⟩ ⟨0, 0, 0⟩, .ldb ⟨48, 0, false⟩ ⟨0, 0, 0⟩, .ldbc ⟨48, 0, false⟩ ⟨0, 0, 0⟩, .stv ⟨48, 0, false⟩ ⟨0, 0, 0⟩] :
    List Instr).all (fun i => !i.wf)) = true := by decide +kernel

theorem test_wf_refuses_4 : (([.stvc ⟨48, 0, false⟩ ⟨0, 0, 0⟩, .sta ⟨48, 0, false⟩ ⟨0, 0, 0⟩, .stac ⟨48, 0, false⟩ ⟨0, 0, 0⟩, .ldw ⟨48, 0, false⟩ ⟨0, 0, 0⟩, .stw ⟨48, 0,
    false⟩ ⟨0, 0, 0⟩, .ldar ⟨48, 0, false⟩ ⟨0, 0, 0⟩, .star ⟨48, 0, false⟩ ⟨0, 0, 0⟩, .cmac ⟨48, 0, false⟩ ⟨0, 0, 0, 0⟩, .cmacj ⟨48, 0, false⟩ ⟨0,
    0, 0, 0⟩, .cmul ⟨48, 0, false⟩ ⟨0, 0, 0, 0⟩, .cmulj ⟨48, 0, false⟩ ⟨0, 0, 0, 0⟩, .cmsub ⟨48, 0, false⟩ ⟨0, 0, 0, 0⟩, .tapm ⟨48, 0, false⟩ ⟨0, 0,
    0, 0⟩, .clra ⟨48, 0, false⟩ ⟨0, 0, 0, 0⟩, .adda ⟨48, 0, false⟩ ⟨0, 0, 0, 0⟩, .vmova ⟨48, 0, false⟩ ⟨0, 0, 0, 0, 0⟩, .vadd ⟨48, 0, false⟩ ⟨0, 0,
    0, 0, 0⟩, .vsub ⟨48, 0, false⟩ ⟨0, 0, 0, 0, 0⟩, .vconj ⟨48, 0, false⟩ ⟨0, 0, 0, 0, 0⟩, .vshr ⟨48, 0, false⟩ ⟨0, 0, 0, 0, 0⟩, .vbcast ⟨48, 0,
    false⟩ ⟨0, 0, 0, 0, 0⟩, .vrecip ⟨48, 0, false⟩ ⟨0, 0, 0, 0, 0⟩, .vrsqrt ⟨48, 0, false⟩ ⟨0, 0, 0, 0, 0⟩, .vext ⟨48, 0, false⟩ ⟨0, 0, 0, 0, 0⟩] :
    List Instr).all (fun i => !i.wf)) = true := by decide +kernel

theorem test_wf_refuses_5 : (([.movi ⟨48, 0, false⟩ ⟨0, 0, 0⟩, .movh ⟨48, 0, false⟩ ⟨0, 0, 0⟩, .addi ⟨48, 0, false⟩ ⟨0, 0, 0⟩, .addp ⟨48, 0, false⟩ ⟨0, 0, 0⟩, .subp ⟨48, 0,
    false⟩ ⟨0, 0, 0⟩, .shli ⟨48, 0, false⟩ ⟨0, 0, 0⟩, .shrai ⟨48, 0, false⟩ ⟨0, 0, 0⟩, .movs ⟨48, 0, false⟩ ⟨0, 0, 0⟩, .movg ⟨48, 0, false⟩ ⟨0, 0,
    0⟩, .loop ⟨48, 0, false⟩ ⟨0, 0, 0⟩, .loopi ⟨48, 0, false⟩ ⟨0, 0, 0⟩, .br ⟨48, 0, false⟩ ⟨0, 0, 0⟩, .call ⟨48, 0, false⟩ ⟨0, 0, 0⟩, .ret ⟨48, 0,
    false⟩, .rti ⟨48, 0, false⟩, .xget ⟨48, 0, false⟩ ⟨0, 0, 0⟩, .xput ⟨48, 0, false⟩ ⟨0, 0, 0⟩, .xwait ⟨48, 0, false⟩ ⟨0, 0, 0⟩, .lease ⟨48, 0,
    false⟩ ⟨0, 0, 0⟩, .unlease ⟨48, 0, false⟩ ⟨0, 0, 0⟩, .done ⟨48, 0, false⟩ ⟨0, 0, 0⟩, .interruptEntry 48, .xferComplete 48 0 false, .xferComplete
    0 32 false] :
    List Instr).all (fun i => !i.wf)) = true := by decide +kernel

theorem test_wf_refuses_6 : (([.timerCompare 48, .watchdogOverrun 48, .masonRestore ⟨2, 1, 0⟩ 0, .masonRestore host 48, .masonSelftestDone 48 false, .masonKernelLoad
    ({ ask 0 0 0 with pos := 4 }), .masonKernelUnload ⟨2, 1, 0⟩ 0, .masonKernelUnload host 256, .masonJobSubmit ⟨2, 1, 0⟩ [], .masonJobCancel ⟨2, 1,
    0⟩ 0, .masonJobCancel host 65536, .leaseExpiry 65536, .detectPulse 2 0, .detectPulse 0 512, .trainDone 2 false, .portStateTimeout 2,
    .failedTimeout 2, .lock 2 false 0 [], .lock 0 false 512 [], .lock 0 false 0 (List.replicate 10 0), .caps 2 (List.replicate 64 0), .caps 0 [],
    .chain 2 0, .chain 0 256] :
    List Instr).all (fun i => !i.wf)) = true := by decide +kernel

theorem test_wf_refuses_7 : (([.bond 2 (List.replicate 9 ⟨[], 0⟩), .bond 0 [], .laneRejoin 2 0, .laneRejoin 0 9, .alignForce 2, .clockLoss 2, .linkRetrain ⟨2, 1, 0⟩ 0 0,
    .linkRetrain host 2 0, .linkRetrain host 0 65536, .linkEnable ⟨2, 1, 0⟩ 0 0, .linkEnable host 2 0, .linkEnable host 0 65536, .layerDl (from_ 2
    0) [], .layerDl (from_ 0 0) [0], .layerUl (from_ 2 0) [], .layerUl (from_ 0 0) [0], .prach (from_ 2 0) [], .prach (from_ 0 0) [0], .gram (from_
    2 0) [], .gram (from_ 0 0) [0], .catReq (from_ 2 0) [], .catReq (from_ 0 0) [0], .catRsp (from_ 2 0) [], .catRsp (from_ 0 0) [0]] :
    List Instr).all (fun i => !i.wf)) = true := by decide +kernel

theorem test_wf_refuses_8 : (([.event (from_ 2 0) [], .event (from_ 0 0) [0], .frame (from_ 2 0) false 0, .frame (from_ 0 0) false ((2 ^ 32)), .echoReq (from_ 2 0) 0, .echoReq
    (from_ 0 0) ((2 ^ 32)), .echoRsp (from_ 2 0) 0 0, .echoRsp (from_ 0 0) ((2 ^ 32)) 0, .echoRsp (from_ 0 0) 0 ((2 ^ 32)), .ready (from_ 2 0)
    false, .decision (from_ 2 0) false 0, .decision (from_ 0 0) false ((2 ^ 36)), .memRead (from_ 2 0) ⟨0, 0, 4⟩, .memRead (from_ 0 0) ⟨256, 0, 4⟩,
    .memWrite (from_ 2 0) ⟨0, 0, 4⟩ [], .memWrite (from_ 0 0) ⟨256, 0, 4⟩ [], .memWrite (from_ 0 0) ⟨0, 0, 4⟩ [0], .memResponse (from_ 2 0) [],
    .memResponse (from_ 0 0) [0], .capture (from_ 2 0) [], .capture (from_ 0 0) [0], .typeDrop (from_ 2 0) 12 [], .typeDrop (from_ 0 0) 11 [],
    .typeDrop (from_ 0 0) 16 []] :
    List Instr).all (fun i => !i.wf)) = true := by decide +kernel

theorem test_wf_refuses_9 : (([.typeDrop (from_ 0 0) 12 [0], .credits (from_ 2 0) ⟨0, 0, 0⟩, .credits (from_ 0 0) ⟨65536, 0, 0⟩, .resyncReq (from_ 2 0), .resyncAck (from_ 2
    0), .resyncDone (from_ 2 0) ⟨0, 0, 0⟩, .resyncDone (from_ 0 0) ⟨65536, 0, 0⟩, .resyncRetry 2, .creditReturnSend 2, .packetSend 2, .captureSend
    2, .mortarTimeout (.fetch 16), .slowPathDone 2097152, .eccLogClear ⟨2, 1, 0⟩ 0, .eccLogClear host 65536, .dmaStart ⟨2, 1, 0⟩ [], .dmaAbort ⟨2,
    1, 0⟩ 0 0, .dmaAbort host 16 0, .dmaAbort host 0 65536, .descriptorFetch 16 false, .dmaWriteResponse 16 0, .dmaWriteResponse 0 32, .appendPoll
    16, .domainReady 12 false false false] :
    List Instr).all (fun i => !i.wf)) = true := by decide +kernel

theorem test_wf_refuses_10 : (([.domainWakeTimeout 12, .domainIdleOff 12, .govPlannedWake 4, .govWakeNow ⟨2, 1, 0⟩ 0, .govWakeNow host 65536, .powerHold ⟨2, 1, 0⟩ 0, .powerHold
    host 4, .powerRelease ⟨2, 1, 0⟩ 0, .powerRelease host 4, .rstNHigh 128, .resetSourceRelease 12 0, .resetSourceRelease 0 128, .resetRequestCold
    ⟨2, 1, 0⟩, .resetRequestWarm ⟨2, 1, 0⟩, .resetCauseClear ⟨2, 1, 0⟩ 0, .resetCauseClear host 65536, .domainReset ⟨2, 1, 0⟩ 0, .domainReset host
    12, .domainResetDone 12, .bootImageLoad ({ ask 0 0 0 with pos := 4 }), .keyRevoke ⟨2, 1, 0⟩ [], .attestRequest ⟨2, 1, 0⟩ [], .identitySign ⟨2,
    1, 0⟩ [], .testLogicReset 128] :
    List Instr).all (fun i => !i.wf)) = true := by decide +kernel

theorem test_wf_refuses_11 : (([.idcode 128, .samplePreload [] 0, .samplePreload (List.replicate 243 false) 128, .bypass 128, .hkFrame ⟨2, false, 0, [], none, []⟩, .hkTrustHka
    ⟨2, 1, 0⟩, .hkTrustHkb ⟨2, 1, 0⟩, .hkTrustBoth ⟨2, 1, 0⟩, .biasShort 144, .biasShortClear 144, .throttleGrace 24, .throttleStep 24, .tileMute
    16, .driverOvercurrent 64, .pathFaultClear ⟨2, 1, 0⟩ 0, .pathFaultClear host 65536, .leaseRevoke ⟨2, 1, 0⟩ 0, .leaseRevoke host 65536,
    .faultLogClear ⟨2, 1, 0⟩ 0, .faultLogClear host 65536, .coreParityError 48, .scramblerFrameStart 2, .domainSwitchOffDone 12] :
    List Instr).all (fun i => !i.wf)) = true := by decide +kernel

theorem test_wf_refuses_long_records (l : List Byte) (h : 32768 < l.length) :
    (([.weightJobSubmit host l, .cancelTrain host l, .speTxSend host l, .calRun host l, .masonJobSubmit host l, .dmaStart host l, .keyRevoke host l,
    .attestRequest host l, .identitySign host l] : List Instr).all
      (fun i => !i.wf)) = true := by
  simp [Instr.wf, h]

theorem test_wf_refuses_long_payload (l : List Byte) (h : 4095 < l.length) : (.speRx l 0 : Instr).wf = false := by
  simp [Instr.wf, h]

theorem test_wf_takes_good_commands : (([.symbolTick ⟨[], [], [], [], [], [], [], [], []⟩, .modeRequest host 3, .read (ask 0 0x1100 0),
    .loBorrow 3 (List.replicate 16 0), .speHeader 256, .cmac ⟨47, 0, false⟩ ⟨3, 31, 31, 3⟩, .catReq (from_ 1 3) [1, 2, 3, 4],
    .memRead (from_ 0 0) ⟨255, 0, 4⟩, .dcRange 63 3, .typeDrop (from_ 0 0) 15 [], .samplePreload (List.replicate 243 true) 127] :
    List Instr).all Instr.wf) = true := by decide +kernel

/-! Small steps by the spec's own figures -/

/-- No row of the table has bits, so no word spells a command. -/
theorem test_no_word_spells_a_command : decodeTableWord 32 0 = none ∧ (State.reset.withFetchWord 32 0) = State.reset := by decide +kernel

/-- Section 3: E[300.8.2] is 0x00004B0820000000 as an entry. -/
theorem test_epoch_entry : epochEntry (mkEpoch 0 300 8 2) = 0x00004B0820000000 := by decide

/-- Section 3: the DATA of COMMIT_DONE for E[300.8.2], applied by ASAP and not deferred. -/
theorem test_commit_done_data : packData [fEpoch (mkEpoch 0 300 8 2), fFlag true, fFlag false] = 0x4B082 * 4096 + 2048 := by decide

/-- Table 3.11: 60 µs after the tick of E[300.6.0] at 30 kHz the earliest target of an array commit is E[300.8.2]. -/
theorem test_array_commit_target :
    ({ up 4 with epoch := mkEpoch 0 300 6 1, now := usec 60, tb := { running := true, tickAt := symbolUnits 1 0 } } : State).earliestArrayCommit
      = mkEpoch 0 300 8 2 := by decide +kernel

/-- R214: N = 64, QPSK and LENGTH 100 give 13 payload symbols. -/
theorem test_spe_payload_symbols : speSymbols 64 1 100 = 13 := by decide

/-- Section 11: B0 = 0x1000, L0 = 0x0C0, P0 = 0x10A0 and LDVC with INC = +0x40 leave P0 at 0x1020. -/
theorem test_ldvc_wraps : (asNext (exec (.ldvc ⟨47, 0, false⟩ ⟨0, 0, 0x40⟩)
    (coreUp { someCore with b := [(0, 0x1000)], l := [(0, 0xC0)], p := [(0, 0x10A0)] }))).map (fun t => (t.core 47).getP 0) = some 0x1020 := by
  decide +kernel

/-- Section 11: with SH at 15 and AUTO set, a VMOVA of 1,200,000,000 sets OVF, raises SH to 16 and is counted. -/
theorem test_vmova_scales : (asNext (exec (.vmova ⟨47, 0, false⟩ ⟨5, 0, 0, 1, 0⟩)
    (coreUp { someCore with sh := 15, st := 256 + 15, acc := [(1, List.replicate 8 ⟨1200000000, 0⟩)] }))).map
      (fun t => ((t.core 47).sh, bitAt (t.core 47).st 7, t.rd Ix.MasonScaleEvents 48)) = some (16, true, 1) := by decide +kernel

/-- R33: a tick of the last symbol of a slot begins the next slot. -/
theorem test_symbol_tick : (asNext (exec (.symbolTick ⟨[], [], [], [], [], [], [], [], []⟩) { up 1 with epoch := mkEpoch 0 0 7 13 })).map
    (fun t => t.epoch) = some (mkEpoch 0 0 8 0) := by decide +kernel

/-- R33: with no command waiting nothing changes but the time. -/
theorem test_idle_step : (asNext (step (up 1))).map (fun t => (t.now, t.epoch)) = some (1, 0) := by decide +kernel

/-! The premises of the statements are met -/

/-- States and operands that meet the premises of `StepRunsFrontCommand`. -/
theorem premises_StepRunsFrontCommand :
    ∃ (s : State) (c : Instr) (rest : List Instr), s.pending = c :: rest :=
  ⟨{ up 1 with pending := [.status] }, .status, [], by decide +kernel⟩

/-- States and operands that meet the premises of `StepIdlesOnEmptyQueue`. -/
theorem premises_StepIdlesOnEmptyQueue :
    ∃ s : State, s.pending = [] :=
  ⟨up 1, by decide +kernel⟩

/-- States and operands that meet the premises of `StepKeepsTheInvariant`. -/
theorem premises_StepKeepsTheInvariant :
    ∃ s t : State, s.Inv ∧ step s = .next t :=
  ⟨State.reset, _, ⟨by decide, by decide, by decide, by decide, by decide, by decide, by decide, by decide⟩, rfl⟩

/-- States and operands that meet the premises of `RevokedKeySlotsStayRevoked`. -/
theorem premises_RevokedKeySlotsStayRevoked :
    ∃ (s t : State) (c : Instr), exec c s = .next t ∧ ∃ k, k ∈ s.fuse.revoked :=
  ⟨{ up 1 with fuse := { revoked := [2] } }, _, .status, rfl, 2, by decide⟩

/-- States and operands that meet the premises of `EpochsFollowOneAnother`, clause by clause. -/
theorem premises_EpochsFollowOneAnother :
    (∃ nu e : Nat, nu ≤ 2 ∧ epSym e ≤ 13 ∧ epSlot e < slotsPerFrame nu)
    ∧ (∃ nu e : Nat, nu ≤ 2 ∧ epSym e ≤ 13 ∧ epSlot e < slotsPerFrame nu ∧ isFrameStart (epochNext nu e) = false)
    ∧ (∃ nu e : Nat, nu ≤ 2 ∧ epSym e ≤ 13 ∧ epSlot e < slotsPerFrame nu ∧ isFrameStart (epochNext nu e) = true)
    ∧ (∃ nu e : Nat, nu ≤ 2 ∧ epSym e ≤ 13 ∧ epSlot e < slotsPerFrame nu ∧ isLongSymbol nu e = true) :=
  ⟨⟨2, epochNext 2 13, by decide +kernel, by decide +kernel, by decide +kernel⟩,
   ⟨1, 0, by decide +kernel, by decide +kernel, by decide +kernel, by decide +kernel⟩,
   ⟨1, 13 + 16 * 19, by decide +kernel, by decide +kernel, by decide +kernel, by decide +kernel⟩,
   ⟨0, 7, by decide +kernel, by decide +kernel, by decide +kernel, by decide +kernel⟩⟩

/-- States and operands that meet the premises of `RequestsReadAsWritten`. -/
theorem premises_RequestsReadAsWritten :
    ∃ r : Request, r.wf = true :=
  ⟨put 4 0x1101 0 8 (2 ^ 64 - 1), by decide +kernel⟩

/-- States and operands that meet the premises of `ReadsAnswerTheValue`, clause by clause. -/
theorem premises_ReadsAnswerTheValue :
    (∃ (s : State) (r q : Request) (e : Entry), q = { r with op := 1 } ∧ s.Attends (callerOf q) ∧ headerFault q = none ∧ (s.met q.port).entryFault 1
    q.index q.sub = .ok e ∧ e.type ≠ .domain)
    ∧ (∃ (s : State) (r q : Request) (d : List Byte), q = { r with op := 3 } ∧ s.Attends (callerOf q) ∧ headerFault q = none ∧ d = (List.range
    q.count).flatMap (fun k => (s.met q.port).snapItem (fieldLE q.data (4 * k) 2) (fieldLE q.data (4 * k + 2) 1)) ∧ (s.met q.port).responseTooLong q
    d.length = false) :=
  ⟨⟨up 1, ask 0 0x1100 0, _, entryAt 0x1100 0, rfl, attends (by decide +kernel), by decide +kernel, found (by decide +kernel), by decide +kernel⟩,
   ⟨up 1, { ask 3 0 0 with count := 1, length := 4, data := [0x00, 0x11, 0, 0] }, _, _, rfl, attends (by decide +kernel), by decide +kernel, rfl,
   by decide +kernel⟩⟩

/-- States and operands that meet the premises of `StagedValuesAreReadBack`, clause by clause. -/
theorem premises_StagedValuesAreReadBack :
    (∃ (s : State) (r q : Request) (e : Entry), q = { r with op := 2 } ∧ s.Attends (callerOf q) ∧ headerFault q = none ∧ (s.met q.port).entryFault 2
    q.index q.sub = .ok e ∧ ∃ (v : Nat), s.host.openSet.find? (fun it => it.index == q.index && it.sub == q.sub) = some ⟨q.index, q.sub, .num v⟩)
    ∧ (∃ (s : State) (r q : Request) (e : Entry), q = { r with op := 2 } ∧ s.Attends (callerOf q) ∧ headerFault q = none ∧ (s.met q.port).entryFault
    2 q.index q.sub = .ok e ∧ ∃ (l d : List Byte), s.host.openSet.find? (fun it => it.index == q.index && it.sub == q.sub) = some ⟨q.index, q.sub,
    .bytes l⟩ ∧ (q.length = 0 ∧ d = leBytes 4 l.length ∨ 1 ≤ q.length ∧ q.length ≤ 32768 ∧ q.offset + q.length ≤ l.length ∧ d = sliceBytes l
    q.offset q.length) ∧ (s.met q.port).responseTooLong q q.length = false)
    ∧ (∃ (s : State) (r q : Request) (e : Entry), q = { r with op := 2 } ∧ s.Attends (callerOf q) ∧ headerFault q = none ∧ (s.met q.port).entryFault
    2 q.index q.sub = .ok e ∧ (∀ it ∈ s.host.openSet, ¬(it.index = q.index ∧ it.sub = q.sub))) :=
  ⟨⟨{ up 1 with host := { openSet := [⟨0x2000, 0, .num 5⟩] } }, ask 2 0x2000 0, _, entryAt 0x2000 0, rfl, attends (by decide +kernel),
   by decide +kernel, found (by decide +kernel), 5, by decide +kernel⟩,
   ⟨{ up 1 with host := { openSet := [⟨0x2011, 0, .bytes [1, 2]⟩] } }, { ask 2 0x2011 0 with length := 2 }, _, entryAt 0x2011 0, rfl, attends
   (by decide +kernel), by decide +kernel, found (by decide +kernel), [1, 2], [1, 2], by decide +kernel, by decide +kernel, by decide +kernel⟩,
   ⟨up 1, ask 2 0x2000 0, _, entryAt 0x2000 0, rfl, attends (by decide +kernel), by decide +kernel, found (by decide +kernel), by decide +kernel⟩⟩

/-- States and operands that meet the premises of `WritesTakeEffectBeforeTheResponse`, clause by clause. -/
theorem premises_WritesTakeEffectBeforeTheResponse :
    (∃ (s t : State) (r q : Request) (e : Entry) (v : Nat), q = { r with op := 4 } ∧ s.Attends (callerOf q) ∧ headerFault q = none ∧ (s.met
    q.port).entryFault 4 q.index q.sub = .ok e ∧ e.type ≠ .domain ∧ q.length = e.type.size ∧ v = keptValue e (fieldLE q.data 0 e.type.size) ∧ (s.met
    q.port).scalarOk e q.index q.sub v = true ∧ (s.met q.port).reservedElement q.index q.sub = false ∧ (¬(e.type = .bool ∧ e.access = .cmd ∧ v = 0))
    ∧ writeDomainCode q.index = none ∧ (s.met q.port).scalarAct q.index q.sub v = none ∧ t = (s.met q.port).wr q.index q.sub v)
    ∧ (∃ (s t : State) (r q : Request) (e : Entry) (v : Nat) (l : List StagedItem), q = { r with op := 5 } ∧ s.Attends (callerOf q) ∧ headerFault q
    = none ∧ (s.met q.port).entryFault 5 q.index q.sub = .ok e ∧ e.type ≠ .domain ∧ q.length = e.type.size ∧ v = keptValue e (fieldLE q.data 0
    e.type.size) ∧ (s.met q.port).scalarOk e q.index q.sub v = true ∧ l = putStaged ⟨q.index, q.sub, .num v⟩ s.host.openSet ∧ l.length ≤ 4096 ∧
    stagedBytes l ≤ 8388608 ∧ t = { s.met q.port with host := { (s.met q.port).host with openSet := l } })
    ∧ (∃ (s t : State) (r q : Request), q = { r with op := 7 } ∧ s.Attends (callerOf q) ∧ headerFault q = none ∧ (q.array = true → s.pos = 0) ∧ t =
    { s.met q.port with host := { (s.met q.port).host with openSet := [] } }) :=
  ⟨⟨up 1, _, put 4 0x1101 0 8 (epochEntry (mkEpoch 0 2 0 0)), _, entryAt 0x1101 0, _, rfl, attends (by decide +kernel), by decide +kernel, found
   (by decide +kernel), by decide +kernel, by decide +kernel, rfl, by decide +kernel, by decide +kernel, by decide +kernel, by decide +kernel,
   by decide +kernel, rfl⟩,
   ⟨up 1, _, put 5 0x2000 0 4 3500000, _, entryAt 0x2000 0, 3500000, _, rfl, attends (by decide +kernel), by decide +kernel, found
   (by decide +kernel), by decide +kernel, by decide +kernel, by decide +kernel, by decide +kernel, rfl, by decide +kernel, by decide +kernel, rfl⟩,
   ⟨up 1, _, ask 7 0 0, _, rfl, attends (by decide +kernel), by decide +kernel, by decide +kernel, rfl⟩⟩

/-- States and operands that meet the premises of `CommitSealsTheOpenSet`. -/
theorem premises_CommitSealsTheOpenSet :
    ∃ (s t : State) (r q : Request) (c : SealedCommit) (near : Bool) (target : Nat), q = { r with op := 6 } ∧ s.Attends (callerOf q) ∧ headerFault q
    = none ∧ q.array = false ∧ (s.met q.port).setRefused 6 = false ∧ (s.met q.port).epochOk q.param = true ∧ near = !epLe (s.met
    q.port).earliestCommit (epochOfEntry q.param) ∧ (near = true → q.asap = true) ∧ target = (if near then (s.met q.port).earliestCommit else
    epochOfEntry q.param) ∧ (s.met q.port).beyondLimit target = false ∧ c =
    { source := .host, target := target, original := target, asap := near, array := false, deferred := false, missed := false, armed := false, decided := false, items := s.host.openSet }
    ∧ ((s.met q.port).sealCommit c).spanCheck c = none ∧ s.host.commits.length < 8 ∧ t =
    ({ (s.met q.port).sealCommit c with host := { ((s.met q.port).sealCommit c).host with openSet := [] } } : State).afterSeal c :=
  ⟨up 1, _, { ask 6 0 0 with param := epochEntry (mkEpoch 0 2 0 0) }, _, _, _, _, rfl, attends (by decide +kernel), by decide +kernel,
  by decide +kernel, by decide +kernel, by decide +kernel, rfl, by decide +kernel, rfl, by decide +kernel, rfl, by decide +kernel,
  by decide +kernel, rfl⟩

/-- States and operands that meet the premises of `ModeRequestsAreTaken`, clause by clause. -/
theorem premises_ModeRequestsAreTaken :
    (∃ (s m t : State) (w : Caller) (v to_ target : Nat) (asap : Bool), m = s.met w.port ∧ v = to_ + (if asap then 256 else 0) ∧ to_ < 7 ∧ s.Orders
    w Ix.ModeRequest 0 v ∧ target = m.rdEpoch Ix.ModeTargetEpoch 0 ∧ m.modeRefused m.modeFrom to_ target = false ∧ to_ ≠ m.modeFrom ∧ m.beyondLimit
    target = false ∧ m.modes.abandoned = none ∧ m.modes.underWay = none ∧ (epLe (m.modeEarliest m.modeFrom to_ false) target = true ∧ t =
    m.beginTransition ⟨.mode to_, target, asap, false, false, false⟩ ∨ epLe (m.modeEarliest m.modeFrom to_ false) target = false ∧ asap = true ∧ t =
    m.beginTransition ⟨.mode to_, m.modeEarliest m.modeFrom to_ false, asap, false, false, true⟩))
    ∧ (∃ (s m : State) (w : Caller) (v to_ target : Nat) (asap : Bool), m = s.met w.port ∧ v = to_ + (if asap then 256 else 0) ∧ to_ < 7 ∧ s.Orders
    w Ix.ModeRequest 0 v ∧ target = m.rdEpoch Ix.ModeTargetEpoch 0 ∧ m.modeRefused m.modeFrom to_ target = false ∧ to_ ≠ m.modeFrom ∧ m.beyondLimit
    target = false ∧ m.modes.underWay ≠ none)
    ∧ (∃ (s m : State) (w : Caller) (v to_ target : Nat) (asap : Bool), m = s.met w.port ∧ v = to_ + (if asap then 256 else 0) ∧ to_ < 7 ∧ s.Orders
    w Ix.ArrayModeRequest 0 v ∧ target = m.rdEpoch Ix.ModeTargetEpoch 0 ∧ m.modeRefused m.modeFrom to_ target = false ∧ to_ ≠ m.modeFrom ∧
    m.beyondLimit target = false ∧ m.modes.abandoned = none ∧ m.modes.underWay = none ∧ epLe (m.modeEarliest m.modeFrom to_ true) target = true ∧
    m.arrayN ≤ 1)
    ∧ (∃ (s m : State) (w : Caller), m = s.met w.port ∧ s.Orders w Ix.ModeRequest 0 7 ∧ m.mode ≠ 1 ∧ m.mode ≠ 2 ∧ m.mode ≠ 7 ∧ m.rdBit
    Ix.SafeHoldCauses 0 0 = false) :=
  ⟨⟨(up 1).wr Ix.ModeTargetEpoch 0 (epochEntry (mkEpoch 0 1 0 0)), _, _, host, 3, 3, _, false, rfl, by decide +kernel, by decide +kernel, orders
   (by decide +kernel), rfl, by decide +kernel, by decide +kernel, by decide +kernel, by decide +kernel, by decide +kernel, .inl ⟨by decide +kernel,
   rfl⟩⟩,
   ⟨{ (up 1).wr Ix.ModeTargetEpoch 0 (epochEntry (mkEpoch 0 1 0 0)) with modes := { underWay := some ⟨.mode 2, 0, false, false, false, false⟩ } },
   _, host, 3, 3, _, false, rfl, by decide +kernel, by decide +kernel, orders (by decide +kernel), rfl, by decide +kernel, by decide +kernel,
   by decide +kernel, by decide +kernel⟩,
   ⟨(up 1).wr Ix.ModeTargetEpoch 0 (epochEntry (mkEpoch 0 1 0 0)), _, host, 3, 3, _, false, rfl, by decide +kernel, by decide +kernel, orders
   (by decide +kernel), rfl, by decide +kernel, by decide +kernel, by decide +kernel, by decide +kernel, by decide +kernel, by decide +kernel,
   by decide +kernel⟩,
   ⟨up 3, _, host, rfl, orders (by decide +kernel), by decide +kernel, by decide +kernel, by decide +kernel, by decide +kernel⟩⟩

/-- States and operands that meet the premises of `TransitionsEndAtTheirTick`, clause by clause. -/
theorem premises_TransitionsEndAtTheirTick :
    (∃ (s : State) (t : Transition) (to_ : Nat), s.modes.underWay = some t ∧ t.target = .mode to_ ∧ t.prepared = false ∧ (∀ d < 12, s.modeNeeds to_
    d = true → s.domainOn d = true) ∧ (to_ < 3 ∨ ∀ c < 4, s.courseState c ≠ 0 ∨ s.rdB Ix.PowerHold (c + 1) = true ∨ (s.course c).held = true ∨
    s.synState c = 4) ∧ (to_ = 5 → s.setForDuplex s = true) ∧ (to_ = 2 → s.rdB Ix.SpeEnable 0 = true → s.spe.locked = true))
    ∧ (∃ (s t : State) (x : Transition) (to_ : Nat), s.modes.underWay = some x ∧ x.target = .mode to_ ∧ x.prepared = true ∧ s.now = s.tb.tickAt ∧
    epLe x.epoch s.epoch = true ∧ t = ((({ s with modes := { s.modes with underWay := none, stepBusy := false } } : State).wr Ix.ModeCurrent 0
    to_).wrEpoch Ix.ModeLastChange 0 s.epoch).raise 0x1101 0 (packData [f8 to_, fEpoch s.epoch, fFlag (x.asap && x.missed)]))
    ∧ (∃ (s : State) (t : Target), s.modes.abandoned = some t)
    ∧ (∃ s : State, s.mode = 0 ∧ s.power.checkAt = none ∧ s.therm.latched = false)
    ∧ (∃ (s t u : State) (since : Nat) (present : Bool), s.power.checkAt = some since ∧ since + msec 1 ≤ s.now ∧ (present = true → s.rd
    Ix.ClockSource 0 ≠ 2) ∧ t = (if present then ({ s with power := { s.power with checkAt := none } } : State) else
    ((({ s with power := { s.power with checkAt := none } } : State).setClock 2).portToOff 0 2).portToOff 1 2) ∧ u =
    { t with epoch := t.nextEpoch t.epoch, tb := { t.tb with running := true, tickAt := t.now } }) :=
  ⟨⟨{ up 1 with modes := { underWay := some ⟨.mode 2, 0, false, false, false, false⟩ } }, ⟨.mode 2, 0, false, false, false, false⟩, 2,
   by decide +kernel, by decide +kernel, by decide +kernel, by decide +kernel, by decide +kernel, by decide +kernel, by decide +kernel⟩,
   ⟨{ up 1 with modes := { underWay := some ⟨.mode 2, 0, false, false, true, false⟩ } }, _, ⟨.mode 2, 0, false, false, true, false⟩, 2,
   by decide +kernel, by decide +kernel, by decide +kernel, by decide +kernel, by decide +kernel, rfl⟩,
   ⟨{ up 1 with modes := { abandoned := some (.mode 3) } }, .mode 3, by decide +kernel⟩,
   ⟨up 0, by decide +kernel, by decide +kernel, by decide +kernel⟩,
   ⟨{ up 0 with power := { checkAt := some 0 }, now := msec 1 }, _, _, 0, true, by decide +kernel, by decide +kernel, by decide +kernel, rfl, rfl⟩⟩

/-- States and operands that meet the premises of `TicksAndReferencesKeepTime`, clause by clause. -/
theorem premises_TicksAndReferencesKeepTime :
    (∃ (s : State) (x : TickInput), s.tb.running = true)
    ∧ (∃ (s : State) (x : TickInput), s.tb.running = false)
    ∧ (∃ (s : State) (width : Nat) (phase : Int), s.rd Ix.TimeSource 0 = 1 ∧ s.tb.running = true ∧ s.tb.acquired = true ∧ width < 4000 ∧ s.rd
    Ix.TimeLockState 0 = 2 ∧ phase = s.phaseOf false 0 ((s.now : Int) + s.refOffset) ∧ phase.natAbs ≤ nsec 100)
    ∧ (∃ s : State, s.rd Ix.TimeLockState 0 = 2 ∧ s.rd Ix.TimeSource 0 ≠ 2 ∧ s.tb.refAt + 2 * frameUnits ≤ s.now)
    ∧ (∃ (s m : State) (w : Caller), m = s.met w.port ∧ s.Orders w Ix.TimeRealign 0 1)
    ∧ (∃ s t : State, s.tb.realign = true ∧ s.tb.acquired = true ∧ t =
    { s with tb := { s.tb with realign := false, offsetSaid := false, goodRefs := 0 } }) :=
  ⟨⟨up 1, ⟨[], [], [], [], [], [], [], [], []⟩, by decide +kernel⟩,
   ⟨{ up 0 with tb := {} }, ⟨[], [], [], [], [], [], [], [], []⟩, by decide +kernel⟩,
   ⟨{ ((up 1).wr Ix.TimeSource 0 1).wr Ix.TimeLockState 0 2 with tb := { running := true, acquired := true } }, 100, _, by decide +kernel,
   by decide +kernel, by decide +kernel, by decide +kernel, by decide +kernel, rfl, by decide +kernel⟩,
   ⟨{ ((up 1).wr Ix.TimeSource 0 1).wr Ix.TimeLockState 0 2 with now := 2 * frameUnits }, by decide +kernel, by decide +kernel, by decide +kernel⟩,
   ⟨up 1, _, host, rfl, orders (by decide +kernel)⟩,
   ⟨{ up 1 with tb := { running := true, acquired := true, realign := true } }, _, by decide +kernel, by decide +kernel, rfl⟩⟩

/-- States and operands that meet the premises of `CommitsAreDecided`, clause by clause. -/
theorem premises_CommitsAreDecided :
    (∃ (s : State) (gone : List SealedCommit), (∀ c ∈ s.host.commits, c.array = false) ∧ gone = s.host.commits.filter (·.decided))
    ∧ (∃ (s : State) (c : SealedCommit) (ready : Bool), s.pos ≠ 0 ∧ s.undecided = [c] ∧ ready = (s.commitFault c).isNone ∧ s.tickOf c.target ≤ s.now
    + usec 550 ∧ (s.reportOf c.original s.pos).map (·.ready) ≠ some ready)
    ∧ (∃ (s t : State) (c : SealedCommit) (own go : Bool), s.pos = 0 ∧ s.undecided = [c] ∧ c.missed = false ∧ s.tickOf c.target ≤ s.now + usec 500 ∧
    own = (s.commitFault c).isNone ∧ t = (if (s.reportOf c.original 0).map (·.ready) = some own then s else s.keepReport ⟨c.original, 0, own,
    s.now⟩) ∧ go = (List.range s.arrayN).all (fun p => ((t.reportOf c.original p).map (·.ready)).getD false))
    ∧ (∃ (s : State) (c : SealedCommit), s.pos ≠ 0 ∧ s.host.commits = [c] ∧ c.array = true ∧ c.armed = false ∧ c.missed = false ∧ epLe c.target
    s.epoch = true ∧ s.mode ≠ 7 ∧ s.rdBit Ix.SafeHoldCauses 0 3 = false) :=
  ⟨⟨{ up 1 with host := { commits := [sealed 16 false, { sealed 5 false with decided := true }] } }, _, by decide +kernel, rfl⟩,
   ⟨{ up 1 with pos := 1, host := { commits := [sealed 5 true] } }, sealed 5 true, _, by decide +kernel, by decide +kernel, rfl, by decide +kernel,
   by decide +kernel⟩,
   ⟨{ up 1 with host := { commits := [sealed 5 true] } }, _, sealed 5 true, _, _, by decide +kernel, by decide +kernel, by decide +kernel,
   by decide +kernel, rfl, rfl, rfl⟩,
   ⟨{ up 1 with pos := 1, host := { commits := [sealed 0 true] } }, sealed 0 true, by decide +kernel, by decide +kernel, by decide +kernel,
   by decide +kernel, by decide +kernel, by decide +kernel, by decide +kernel, by decide +kernel⟩⟩

/-- States and operands that meet the premises of `RequestsAndEventsAreServed`, clause by clause. -/
theorem premises_RequestsAndEventsAreServed_1 :
    (∃ (s : State) (index sub : Nat) (x : DomainTransfer), s.transferOf index sub = some x ∧ x.lastAt + msec (s.rd Ix.DomainTransferTimeout 0) ≤
    s.now)
    ∧ (∃ (s : State) (tag : Nat) (f : Forwarded), s.host.forwarded.find? (fun f => f.request.tag == tag) = some f ∧ f.sentAt + msec (s.rd
    Ix.ForwardTimeout 0) ≤ s.now)
    ∧ (∃ (s : State) (l : List Byte), s.serving = true ∧ 24 ≤ l.length ∧ impliedSize (parseRequest 1 l) ≤ l.length ∧ s.reqSpace = true)
    ∧ (∃ (s : State) (l : List Byte), s.serving = true ∧ s.reset_.bootDone = true ∧ l.length < 24)
    ∧ (∃ (s : State) (n : Nat) (x : Response) (rest : List Response), s.serving = true ∧ s.reset_.bootDone = true ∧ s.host.responses = x :: rest ∧
    s.host.stalled = [] ∧ s.host.performing = none)
    ∧ (∃ s : State, s.serving = true)
    ∧ (∃ (s m : State) (w : Caller) (n : Nat), m = s.met w.port ∧ s.Orders w Ix.EventAck 0 n ∧ 1 ≤ n ∧ n ≤ 64 ∧ n ≤ m.ev.queue.length ∧
    m.ev.lostSince = 0)
    ∧ (∃ (s m : State) (w : Caller) (n : Nat), m = s.met w.port ∧ s.Orders w Ix.EventAck 0 n ∧ 1 ≤ n ∧ n ≤ 64 ∧ n ≤ m.ev.queue.length ∧
    m.ev.lostSince ≠ 0) :=
  ⟨⟨{ up 1 with now := msec 60000, host := { transfers := [⟨0x1305, 0, false, 8, [], 0⟩] } }, 0x1305, 0, ⟨0x1305, 0, false, 8, [], 0⟩,
   by decide +kernel, by decide +kernel⟩,
   ⟨{ up 1 with now := msec 60000, host := { forwarded := [⟨ask 1 0x1100 0, 0⟩] } }, 1, ⟨ask 1 0x1100 0, 0⟩, by decide +kernel, by decide +kernel⟩,
   ⟨up 1, requestBytes (ask 1 0x1100 0), by decide +kernel, by decide +kernel, by decide +kernel, by decide +kernel⟩,
   ⟨up 1, [1, 2], by decide +kernel, by decide +kernel, by decide +kernel⟩,
   ⟨{ up 1 with host := { responses := [⟨1, 1, 1, 0, false, false, false, 0, 0, 0, 0, 0, []⟩] } }, 24, ⟨1, 1, 1, 0, false, false, false, 0, 0, 0, 0,
   0, []⟩, [], by decide +kernel, by decide +kernel, by decide +kernel, by decide +kernel, by decide +kernel⟩,
   ⟨up 1, by decide +kernel⟩,
   ⟨{ up 1 with ev := { queue := [someEvent] } }, _, host, 1, rfl, orders (by decide +kernel), by decide +kernel, by decide +kernel,
   by decide +kernel, by decide +kernel⟩,
   ⟨{ up 1 with ev := { queue := [someEvent], lostSince := 3 } }, _, host, 1, rfl, orders (by decide +kernel), by decide +kernel, by decide +kernel,
   by decide +kernel, by decide +kernel⟩⟩

/-- States and operands that meet the premises of `RequestsAndEventsAreServed`, clause by clause. -/
theorem premises_RequestsAndEventsAreServed_2 :
    (∃ (s : State) (r : EventRec) (rest : List EventRec), s.ev.queue = r :: rest ∧ s.rd Ix.EventRoute 0 = 1 ∧ s.rd Ix.LinkState 1 = 5)
    ∧ (∃ (s m : State) (w : Caller), m = s.met w.port ∧ s.Orders w Ix.MasterPresenceClear 0 1) :=
  ⟨⟨{ ((up 1).wr Ix.EventRoute 0 1).wr Ix.LinkState 1 5 with ev := { queue := [someEvent] } }, someEvent, [], by decide +kernel, by decide +kernel,
   by decide +kernel⟩,
   ⟨up 1, _, host, rfl, orders (by decide +kernel)⟩⟩

/-- States and operands that meet the premises of `SynthesisersAndOffsetsAreFollowed`, clause by clause. -/
theorem premises_SynthesisersAndOffsetsAreFollowed :
    (∃ (s : State) (c : Nat), s.rd Ix.SynState (c + 1) = 3 ∧ (s.course c).detected = true)
    ∧ (∃ (s : State) (c : Nat), (s.rd Ix.SynState (c + 1) = 1 ∨ s.rd Ix.SynState (c + 1) = 2))
    ∧ (∃ (s : State) (c t : Nat), (s.course c).relockAt = some t ∧ t + usec 120 ≤ s.now ∧ (s.course c).attempts < 2)
    ∧ (∃ (s : State) (c t : Nat), (s.course c).relockAt = some t ∧ t + usec 120 ≤ s.now ∧ 2 ≤ (s.course c).attempts)
    ∧ (∃ (s : State) (c b : Nat), (s.course c).borrowFrom = some b ∧ epSym s.epoch = 0 ∧ s.now = s.tb.tickAt ∧ s.borrowPartner c = some b)
    ∧ (∃ (s t : State) (c : Nat) (offsets : List Int), (s.course c).recal = true ∧ epSym s.epoch = 0 ∧ s.now = s.tb.tickAt ∧ s.rd Ix.CancelSetState
    1 ≠ 2 ∧ s.rd Ix.CancelSetState 2 ≠ 2 ∧ t = (coursePaths c).zipIdx.foldl (fun s q => s.setPath q.1
    { s.path q.1 with loOffset := (s.path q.1).loOffset + offsets.getD q.2 0 }) (s.setCourse c { s.course c with recal := false }))
    ∧ (∃ (s : State) (p code t : Nat), (s.path p).dcLimitSince = some t ∧ t + msec 1000 ≤ s.now) :=
  ⟨⟨((up 3).wr Ix.SynState 1 3).setCourse 0 { detected := true }, 0, by decide +kernel, by decide +kernel⟩,
   ⟨(up 3).wr Ix.SynState 4 2, 3, by decide +kernel⟩,
   ⟨{ (up 3).setCourse 1 { relockAt := some 0, attempts := 1 } with now := usec 120 }, 1, 0, by decide +kernel, by decide +kernel,
   by decide +kernel⟩,
   ⟨{ (up 3).setCourse 1 { relockAt := some 0, attempts := 2 } with now := usec 120 }, 1, 0, by decide +kernel, by decide +kernel,
   by decide +kernel⟩,
   ⟨(((up 3).wr Ix.LoBorrowPartner 1 1).wr Ix.SynState 2 3).setCourse 0 { borrowFrom := some 1 }, 0, 1, by decide +kernel, by decide +kernel,
   by decide +kernel, by decide +kernel⟩,
   ⟨(up 3).setCourse 0 { recal := true }, _, 0, [5], by decide +kernel, by decide +kernel, by decide +kernel, by decide +kernel, by decide +kernel,
   rfl⟩,
   ⟨{ (up 3).setPath 63 { dcLimitSince := some 0 } with now := msec 1000 }, 63, 3, 0, by decide +kernel, by decide +kernel⟩⟩

/-- States and operands that meet the premises of `CoursesChangeState`, clause by clause. -/
theorem premises_CoursesChangeState :
    (∃ (s : State) (c : Nat), s.rd Ix.CourseState (c + 1) = 0 ∧ 3 ≤ s.mode ∧ s.modes.underWay = none ∧ s.domainOn (8 + c) = true ∧ s.domainOn 3 =
    true ∧ s.rdB Ix.PowerHold (c + 1) = false ∧ (s.course c).held = false ∧ (s.course c).moving = none ∧ s.window c = none ∧ s.rd Ix.SynState (c +
    1) = 3)
    ∧ (∃ (s : State) (c to_ : Nat), (s.course c).moving = some to_ ∧ s.transitionReady c = true ∧ to_ ≠ 0 ∧ to_ ≠ 1 ∧ s.window c = none) :=
  ⟨⟨(up 3).wr Ix.SynState 1 3, 0, by decide +kernel, by decide +kernel, by decide +kernel, by decide +kernel, by decide +kernel, by decide +kernel,
   by decide +kernel, by decide +kernel, by decide +kernel, by decide +kernel⟩,
   ⟨((up 3).wr Ix.CourseState 2 1).setCourse 1 { moving := some 2 }, 1, 2, by decide +kernel, by decide +kernel, by decide +kernel,
   by decide +kernel, by decide +kernel⟩⟩

/-- States and operands that meet the premises of `ObservationAndLinearisersRun`, clause by clause. -/
theorem premises_ObservationAndLinearisersRun :
    (∃ (s t : State) (r k p : Nat), 3 ≤ s.mode ∧ (s.obs r).cycleAt ≤ s.now ∧ k = (s.now - (s.obs r).cycleAt) / usec (s.rd Ix.LinStepInterval (r +
    1)) ∧ (s.obs r).steps ≤ k ∧ (s.obs r).step = none ∧ t = s.setObs r { s.obs r with steps := k + 1 } ∧ s.stepPath r k = some p ∧ t.stepPath r k =
    some p ∧ s.stepIdle (courseOf p) = false ∧ t.observable p = true ∧ t.leased (0x400 + r) = false)
    ∧ (∃ (s : State) (r p : Nat) (pFbin d : Int) (samples : List Byte), (s.obs r).step = some ⟨p, none⟩ ∧ -2500 ≤ d ∧ s.capturesDiscarded p = false
    ∧ s.rdBit Ix.LinStatus (p + 1) 3 = true)
    ∧ (∃ (s : State) (r p : Nat) (pFwd dFwd pRef d : Int), (s.obs r).step = some ⟨p, some (pFwd, dFwd)⟩ ∧ d < -2500)
    ∧ (∃ (s : State) (p : Nat) (nmse aclr : Int) (cands : List (Tab Cplx)) (coefs : List Byte) (cap : LinCapture), (s.linPath p).capture = some cap
    ∧ cap.spoiled = true)
    ∧ (∃ (s : State) (p : Nat) (nmse aclr : Int) (cand : Tab Cplx) (coefs : List Byte) (cap : LinCapture), (s.linPath p).capture = some cap ∧
    cap.spoiled = false ∧ s.rd Ix.LinMode (p + 1) = 2 ∧ s.rd Ix.LinStatus (p + 1) = 0 ∧ s.mode ≠ 7 ∧ s.rd Ix.PathFault (p + 1) = 0 ∧ p < 64 ∧
    (s.linPath p).nmseBefore = none ∧ s.linCorridor p cand = 0)
    ∧ (∃ (s m : State) (w : Caller) (p : Nat), m = s.met w.port ∧ s.Orders w Ix.LinResume 0 p ∧ p < 64) :=
  ⟨⟨((((up 4).wr Ix.CourseState 1 3).wr Ix.SynState 1 3).wr Ix.PathEnable 1 3).setPath 0 { holdOff := false }, _, 0, _, 0, by decide +kernel,
   by decide +kernel, rfl, by decide +kernel, by decide +kernel, rfl, by decide +kernel, by decide +kernel, by decide +kernel, by decide +kernel,
   by decide +kernel⟩,
   ⟨(((up 4).wr Ix.LinStatus 1 8).setPath 0 { holdOff := false }).setObs 0 { step := some ⟨0, none⟩ }, 0, 0, 0, -2500, [], by decide +kernel,
   by decide +kernel, by decide +kernel, by decide +kernel⟩,
   ⟨(up 4).setObs 0 { step := some ⟨0, some (1, 2)⟩ }, 0, 0, 1, 2, 0, -2501, by decide +kernel, by decide +kernel⟩,
   ⟨(up 4).setLinPath 0 { capture := some ⟨0, 0, 0, true⟩ }, 0, 0, 0, [], [], ⟨0, 0, 0, true⟩, by decide +kernel, by decide +kernel⟩,
   ⟨((up 4).wr Ix.LinMode 64 2).setLinPath 63 { capture := some ⟨3, 0, 0, false⟩ }, 63, 0, 0, [], [], ⟨3, 0, 0, false⟩, by decide +kernel,
   by decide +kernel, by decide +kernel, by decide +kernel, by decide +kernel, by decide +kernel, by decide +kernel, by decide +kernel,
   by decide +kernel⟩,
   ⟨up 4, _, host, 63, rfl, orders (by decide +kernel), by decide +kernel⟩⟩

/-- States and operands that meet the premises of `FoliosAreSealed`, clause by clause. -/
theorem premises_FoliosAreSealed :
    (∃ (s n : State) (w : Caller) (slot : Nat) (h : List Byte), n = s.metOn w.port 3 ∧ (s.met w.port).Serves 3 ∧ s.Orders w Ix.FolioSeal 0 slot ∧
    slot < 4 ∧ n.folioState slot ≠ 2 ∧ n.mem.upsets = [] ∧ h = n.folioHeader slot ∧ n.folioCheck slot = none)
    ∧ (∃ (s n : State) (w : Caller) (slot off : Nat), n = s.metOn w.port 3 ∧ (s.met w.port).Serves 3 ∧ s.Orders w Ix.FolioSeal 0 slot ∧ isSlot slot
    = true ∧ n.folioState slot ≠ 2 ∧ n.mem.upsets = [] ∧ n.folioCheck slot = some off) :=
  ⟨⟨(up 3).storeBytes (folioSlotBase 0) (folioOf 0), _, host, 0, _, rfl, serves (by decide +kernel), orders (by decide +kernel), by decide +kernel,
   by decide +kernel, by decide +kernel, rfl, by decide +kernel⟩,
   ⟨up 3, _, host, 0, 0, rfl, serves (by decide +kernel), orders (by decide +kernel), by decide +kernel, by decide +kernel, by decide +kernel,
   by decide +kernel⟩⟩

/-- States and operands that meet the premises of `SectionsMeetTheirDeadlines`, clause by clause. -/
theorem premises_SectionsMeetTheirDeadlines :
    (∃ (s v : State) (n : Nat) (sched : List (List Byte)), n = s.addEpochs 2 s.epoch ∧ layerDlMode s.mode = true ∧ s.cutOffAt s.epoch ≤ s.now ∧
    s.mix.judged = [] ∧ s.mix.got = [] ∧ s.mix.trunc = [] ∧ v = s.viewAt n ∧ v.dlSymbol n = true ∧ sched = v.scheduled Ix.DlLayerMap n ∧ sched ≠ [])
    ∧ (∃ (s v : State) (n : Nat) (d : List Byte) (x : SectionRec), n = s.addEpochs 2 s.epoch ∧ layerDlMode s.mode = true ∧ s.cutOffAt s.epoch ≤
    s.now ∧ s.mix.judged = [] ∧ s.mix.got = [(n, x)] ∧ s.mix.trunc = [] ∧ v = s.viewAt n ∧ v.dlSymbol n = true ∧ v.scheduled Ix.DlLayerMap n = [d] ∧
    sectionFits x d = true ∧ (∀ b ∈ x.blocks, b.1 ≤ 16 - x.width))
    ∧ (∃ (s : State) (u : UlSection), s.mix.waiting = [u] ∧ s.accumulationDeadline u.epoch ≤ s.now) :=
  ⟨⟨{ ((up 4).setDom Ix.SlotPlan 0 (leBytes 4 0x5555555)).setDom Ix.DlLayerMap 0 dlDescriptor with now := usec 40 }, _, _, _, rfl,
   by decide +kernel, by decide +kernel, by decide +kernel, by decide +kernel, by decide +kernel, rfl, by decide +kernel, rfl, by decide +kernel⟩,
   ⟨{ ((up 4).setDom Ix.SlotPlan 0 (leBytes 4 0x5555555)).setDom Ix.DlLayerMap 0 dlDescriptor with now := usec 40, mix := { got := [((up 4).addEpochs 2 0, ⟨0, 0, 0, 1, 9, 0, [(7, [])]⟩)] } },
   _, _, dlDescriptor, ⟨0, 0, 0, 1, 9, 0, [(7, [])]⟩, rfl, by decide +kernel, by decide +kernel, by decide +kernel, by decide +kernel,
   by decide +kernel, rfl, by decide +kernel, by decide +kernel, by decide +kernel, by decide +kernel⟩,
   ⟨{ up 4 with now := msec 1, mix := { waiting := [⟨0, false, 0, 0, 0, 1, 9, 1, 0, []⟩] } }, ⟨0, false, 0, 0, 0, 1, 9, 1, 0, []⟩,
   by decide +kernel, by decide +kernel⟩⟩

/-- States and operands that meet the premises of `LibraryEntriesChangeState`, clause by clause. -/
theorem premises_LibraryEntriesChangeState :
    (∃ (s t : State) (x : SoundingWrite) (rest : List SoundingWrite) (b : Nat) (snr : List Int) (hdr : List Byte), s.lib.writes = x :: rest ∧
    x.merge = false ∧ b = s.entryBase x.entry ∧ snr = x.snr.filter (· != -32768) ∧ snr ≠ [] ∧ hdr = [1, 2] ++ leBytes 1 (2 * b2n x.saturated + b2n
    x.partial_) ++ leBytes 1 x.record ++ leBytes 2 (s.activeSubcarriers / 6) ++ [0, 0] ++ leBytes 8 (epochEntry x.epoch) ++ leBytes 8 (epochEntry
    x.epoch) ++ leBytes 2 (ofInt 16 (snr.sum.tdiv snr.length)) ++ [0, 0] ++ leBytes 4 ((s.numAt (b + 28) 4 + 1) % 2 ^ 32) ++ s.prbsList.flatMap
    (leBytes 2) ++ List.replicate 24 0 ∧ t = x.points.foldl (fun s p => s.ownBytes (b + 1024 + 256 * p.1) (p.2.flatMap cplxBytes))
    (({ s with lib := { s.lib with writes := rest } } : State).zeroRange (b + 1024) 559104))
    ∧ (∃ (s t : State) (x : SoundingWrite) (rest : List SoundingWrite) (b a : Nat), s.lib.writes = x :: rest ∧ x.merge = true ∧ b = s.entryBase
    x.entry ∧ s.mem.upsets = [] ∧ s.firstPoison b 336 = some a ∧ t = { s with lib := { s.lib with writes := rest } })
    ∧ (∃ (s n : State) (w : Caller) (e b : Nat), n = s.metOn w.port 5 ∧ (s.met w.port).Serves 5 ∧ s.Orders w Ix.LibraryValidate 0 e ∧ e < n.rd
    Ix.LibraryEntries 0 ∧ n.mem.upsets = [] ∧ b = n.entryBase e ∧ n.libraryCheck e = none)
    ∧ (∃ (s n : State) (w : Caller) (e off : Nat), n = s.metOn w.port 5 ∧ (s.met w.port).Serves 5 ∧ s.Orders w Ix.LibraryValidate 0 e ∧ e < n.rd
    Ix.LibraryEntries 0 ∧ n.mem.upsets = [] ∧ n.libraryCheck e = some off)
    ∧ (∃ (s n : State) (w : Caller) (e : Nat), n = s.metOn w.port 5 ∧ (s.met w.port).Serves 5 ∧ s.Orders w Ix.LibraryInvalidate 0 e ∧ e < n.rd
    Ix.LibraryEntries 0 ∧ n.pinnedBy e = none) :=
  ⟨⟨{ up 3 with lib := { writes := [⟨0, 0, 0, false, false, false, [0], [], [0, -32768]⟩] } }, _, ⟨0, 0, 0, false, false, false, [0], [], [0,
   -32768]⟩, [], _, _, _, by decide +kernel, by decide +kernel, rfl, rfl, by decide +kernel, rfl, rfl⟩,
   ⟨{ up 3 with lib := { writes := [⟨0, 0, 0, true, false, false, [0], [], [0]⟩] }, mem := { poison := [(up 3).entryBase 0 + 332] } }, _, ⟨0, 0, 0,
   true, false, false, [0], [], [0]⟩, [], _, (up 3).entryBase 0 + 332, by decide +kernel, by decide +kernel, rfl, by decide +kernel,
   by decide +kernel, rfl⟩,
   ⟨(up 3).storeBytes ((up 3).entryBase 0) ([1, 0] ++ List.replicate 30 0 ++ (up 3).prbsList.flatMap (leBytes 2)), _, host, 0, _, rfl, serves
   (by decide +kernel), orders (by decide +kernel), by decide +kernel, by decide +kernel, rfl, by decide +kernel⟩,
   ⟨up 3, _, host, 0, 0, rfl, serves (by decide +kernel), orders (by decide +kernel), by decide +kernel, by decide +kernel, by decide +kernel⟩,
   ⟨up 3, _, host, 0, rfl, serves (by decide +kernel), orders (by decide +kernel), by decide +kernel, by decide +kernel⟩⟩

/-- States and operands that meet the premises of `WeightJobsAreQueuedAndRun`, clause by clause. -/
theorem premises_WeightJobsAreQueuedAndRun :
    (∃ (s n t : State) (w : Caller) (l : List Byte) (j : WeightJob) (target : Nat), n = s.metOn w.port 4 ∧ (s.met w.port).Serves 4 ∧ s.OrdersRecord
    w Ix.WeightJobSubmit l ∧ j = ⟨fieldLE l 10 2, l, 0, n.epoch, 0, [], 0xFF, 0xFF, [], [], []⟩ ∧ j.array = false ∧ n.mem.upsets = [] ∧ n.jobField j
    = none ∧ n.lib.jobs.length < 8 ∧ (∀ k ∈ n.lib.jobs, k.job ≠ j.job) ∧ (∀ k ∈ j.slots, n.folioState k ≠ 2 ∧ n.commitNames k = false ∧ thas k
    n.lib.slotLease = false) ∧ n.keepBad j = false ∧ (∀ e ∈ j.entries, n.entryValid e j.first j.count = true) ∧ target = epochOfEntry (fieldLE l 24
    8) ∧ t = { n with lib := { n.lib with jobs := n.lib.jobs ++ [j], slotLease := j.slots.foldl (fun l k => tins k j.job l) n.lib.slotLease } } ∧
    j.commit = false)
    ∧ (∃ (s n t : State) (w : Caller) (l : List Byte) (j : WeightJob) (target : Nat), n = s.metOn w.port 4 ∧ (s.met w.port).Serves 4 ∧
    s.OrdersRecord w Ix.WeightJobSubmit l ∧ j = ⟨fieldLE l 10 2, l, 0, n.epoch, 0, [], 0xFF, 0xFF, [], [], []⟩ ∧ j.array = false ∧ n.mem.upsets = []
    ∧ n.jobField j = none ∧ n.lib.jobs.length < 8 ∧ (∀ k ∈ n.lib.jobs, k.job ≠ j.job) ∧ (∀ k ∈ j.slots, n.folioState k ≠ 2 ∧ n.commitNames k = false
    ∧ thas k n.lib.slotLease = false) ∧ n.keepBad j = false ∧ (∀ e ∈ j.entries, n.entryValid e j.first j.count = true) ∧ target = epochOfEntry
    (fieldLE l 24 8) ∧ t =
    { n with lib := { n.lib with jobs := n.lib.jobs ++ [j], slotLease := j.slots.foldl (fun l k => tins k j.job l) n.lib.slotLease } } ∧ ∃ (u :
    State) (q : Request), j.commit = true ∧ n.leadMet false target = true ∧ n.host.commits.length < 8 ∧ q = recordWrite w Ix.WeightJobSubmit l ∧ u =
    t.sealCommit (internalCommit (.weightJob j.job) target false false ((if j.dir = 1 then [] else [⟨Ix.DlFolioSelect, 0, .num j.dlSlot⟩]) ++ (if
    j.dir = 0 then [] else [⟨Ix.UlFolioSelect, 0, .num j.ulSlot⟩]))))
    ∧ (∃ (s m : State) (w : Caller) (job : Nat) (j : WeightJob), m = s.met w.port ∧ s.Orders w Ix.WeightJobCancel 0 job ∧ m.lib.jobs.find? (fun k =>
    k.job == job) = some j ∧ (j.array = false ∨ m.pos = 0))
    ∧ (∃ (s t : State) (j k : WeightJob) (rest : List WeightJob), s.lib.jobs = j :: rest ∧ j.state = 0 ∧ t = j.slots.foldl (fun s k => (s.ownBytes
    (folioSlotBase k) (s.jobHeader j k)).setFolioState k 0) s ∧ k =
    { j with startedAt := t.now, faulty := t.faultyPaths, keepDl := t.rd Ix.DlFolioSelect 0, keepUl := t.rd Ix.UlFolioSelect 0, state := 3 } ∧
    j.algorithm = 3)
    ∧ (∃ (s t : State) (j k : WeightJob) (rest : List WeightJob), s.lib.jobs = j :: rest ∧ j.state = 0 ∧ t = j.slots.foldl (fun s k => (s.ownBytes
    (folioSlotBase k) (s.jobHeader j k)).setFolioState k 0) s ∧ k =
    { j with startedAt := t.now, faulty := t.faultyPaths, keepDl := t.rd Ix.DlFolioSelect 0, keepUl := t.rd Ix.UlFolioSelect 0, state := 3 } ∧ ∃ own
    : List GramBlock, j.algorithm ≠ 3 ∧ j.array = false ∧ t.mem.upsets = [] ∧ (∀ e ∈ j.entries, t.firstPoison (t.entryBase e + 1024) 559104 = none)
    ∧ own = (t.jobGroups k).map (t.ownGram k))
    ∧ (∃ (s t u : State) (j : WeightJob) (img : List Byte) (micros : Nat) (rest : List WeightJob), s.lib.jobs = j :: rest ∧ j.state = 3 ∧
    j.algorithm = 3 ∧ s.mem.upsets = [] ∧ s.jobPoison j = none ∧ img = s.bytesAt j.source (64 + min 0x8FFFC0 (s.numAt (j.source + 32) 4)) ∧ t =
    j.slots.foldl (fun s k => s.sealFolio k) (j.slots.foldl (fun s k => s.ownBytes (folioSlotBase k) img) s) ∧ (∀ k ∈ j.slots, t.folioState k ≠ 3) ∧
    u =
    { t with lib := { t.lib with jobs := t.lib.jobs.filter (fun k => k.job != j.job), slotLease := t.lib.slotLease.filter (fun c => c.2 != j.job) } })
    ∧ (∃ (s : State) (j : WeightJob) (rest : List WeightJob), s.lib.jobs = j :: rest ∧ j.state = 2 ∧ j.startedAt + usec (s.rd Ix.GramTimeout 0) ≤
    s.now) :=
  ⟨⟨up 3, _, _, host, jobRecord 0 3 273, _, _, rfl, serves (by decide +kernel), ordersRecord (by decide +kernel), rfl, by decide +kernel,
   by decide +kernel, by decide +kernel, by decide +kernel, by decide +kernel, by decide +kernel, by decide +kernel, by decide +kernel, rfl, rfl,
   by decide +kernel⟩,
   ⟨up 3, _, _, host, jobRecord 0x40 3 273, _, _, rfl, serves (by decide +kernel), ordersRecord (by decide +kernel), rfl, by decide +kernel,
   by decide +kernel, by decide +kernel, by decide +kernel, by decide +kernel, by decide +kernel, by decide +kernel, by decide +kernel, rfl, rfl, _,
   _, by decide +kernel, by decide +kernel, by decide +kernel, rfl, rfl⟩,
   ⟨{ up 3 with lib := { jobs := [someJob 0 3 273 0] } }, _, host, 7, someJob 0 3 273 0, rfl, orders (by decide +kernel), by decide +kernel,
   by decide +kernel⟩,
   ⟨{ up 3 with lib := { jobs := [someJob 0 3 273 0] } }, _, someJob 0 3 273 0, _, [], by decide +kernel, by decide +kernel, rfl, rfl,
   by decide +kernel⟩,
   ⟨{ up 3 with lib := { jobs := [someJob 0 0 273 0] } }, _, someJob 0 0 273 0, _, [], by decide +kernel, by decide +kernel, rfl, rfl, _,
   by decide +kernel, by decide +kernel, by decide +kernel, by decide +kernel, rfl⟩,
   ⟨(({ up 3 with lib := { jobs := [someJob 0 3 273 3] } } : State).storeBytes 0 (folioOf 0)), _, _, someJob 0 3 273 3, _, 9, [], by decide +kernel,
   by decide +kernel, by decide +kernel, by decide +kernel, by decide +kernel, rfl, rfl, by decide +kernel, rfl⟩,
   ⟨{ up 3 with now := msec 10, lib := { jobs := [someJob 0x80 0 273 2] } }, someJob 0x80 0 273 2, [], by decide +kernel, by decide +kernel,
   by decide +kernel⟩⟩

/-- States and operands that meet the premises of `CancellerSetsAreTrainedAndLoaded`, clause by clause. -/
theorem premises_CancellerSetsAreTrainedAndLoaded_1 :
    (∃ (s n : State) (w : Caller) (slot : Nat), n = s.metOn w.port 5 ∧ (s.met w.port).Serves 5 ∧ s.Orders w Ix.CancelSetSeal 0 slot ∧ slot < 2 ∧
    n.rd Ix.CancelSetState (slot + 1) ≠ 2 ∧ n.setCheck slot = none ∧ n.setNamed slot = false)
    ∧ (∃ (s n : State) (w : Caller) (slot off : Nat), n = s.metOn w.port 5 ∧ (s.met w.port).Serves 5 ∧ s.Orders w Ix.CancelSetSeal 0 slot ∧ slot < 2
    ∧ n.rd Ix.CancelSetState (slot + 1) ≠ 2 ∧ n.setCheck slot = some off)
    ∧ (∃ (s t : State) (slot : Nat), (∃ l ∈ s.duplex.loads, l.slot = slot) ∧ s.mem.upsets = [] ∧ t =
    { s with duplex := { s.duplex with loads := s.duplex.loads.filter (fun l => l.slot != slot) } } ∧ s.firstPoison (s.setBase slot) setLength =
    none)
    ∧ (∃ (s t : State) (slot : Nat), (∃ l ∈ s.duplex.loads, l.slot = slot) ∧ s.mem.upsets = [] ∧ t =
    { s with duplex := { s.duplex with loads := s.duplex.loads.filter (fun l => l.slot != slot) } } ∧ ∃ a : Nat, s.firstPoison (s.setBase slot)
    setLength = some a)
    ∧ (∃ (s m t : State) (w : Caller) (l : List Byte) (slot symbols start : Nat), m = s.met w.port ∧ s.OrdersRecord w Ix.CancelTrain l ∧ slot =
    fieldLE l 0 1 ∧ symbols = fieldLE l 1 1 ∧ start = epochOfEntry (fieldLE l 8 8) ∧ m.mode = 3 ∧ m.duplex.train = none ∧ slot < 2 ∧ m.rd
    Ix.CancelSetState (slot + 1) ≠ 2 ∧ m.setNamed slot = false ∧ 14 ≤ symbols ∧ m.epochOk (fieldLE l 8 8) = true ∧ m.beyondLimit start = false ∧
    epLe m.earliestCommit start = true ∧ (∀ r ∈ trainLeases, m.leaseOf r = none) ∧ t = trainLeases.foldl (fun s r => s.takeLease r (m.functionOwner
    2) none none) m)
    ∧ (∃ (s t : State) (x : TrainSys) (b : Nat), s.duplex.train = some x ∧ x.stage = 0 ∧ epLe x.start s.epoch = true ∧ b = s.setBase x.slot ∧ t =
    { s with duplex := { s.duplex with train := some { x with stage := 1 }, copies := tdel x.slot s.duplex.copies } })
    ∧ (∃ (s t : State) (x : TrainSys) (b : Nat) (r : TrainResult), s.duplex.train = some x ∧ x.stage ≠ 0 ∧ x.stage < 4 ∧ r.poison = false ∧ r.level
    = true ∧ b = s.setBase x.slot ∧ t = r.tiles.foldl (fun s c => s.ownBytes (b + c.1 % setLength) (leBytes 1 c.2)) (r.coefs.foldl (fun s c =>
    s.ownBytes (b + c.1 % setLength) (cplxBytes c.2)) s))
    ∧ (∃ (s t a u v : State) (x : TrainSys) (b : Nat) (r : TrainResult), s.duplex.train = some x ∧ x.stage = 4 ∧ r.poison = false ∧ r.level = true ∧
    b = s.setBase x.slot ∧ t = r.tiles.foldl (fun s c => s.ownBytes (b + c.1 % setLength) (leBytes 1 c.2)) (r.coefs.foldl (fun s c => s.ownBytes (b
    + c.1 % setLength) (cplxBytes c.2)) s) ∧ a = t.ownBytes b t.setHeader ∧ u = r.figures.foldl State.verifyPath (a.ownBytes (b + 64) (a.domVal
    Ix.FlexSubbands 0)) ∧ v = trainLeases.foldl (fun s r => s.freeLease r) { u with duplex := { u.duplex with train := none } } ∧ v.setNamed x.slot
    = false) :=
  ⟨⟨{ up 3 with mem := { bytes := setBytes ((up 3).setBase 0) } }, _, host, 0, rfl, serves (by decide +kernel), orders (by decide +kernel),
   by decide +kernel, by decide +kernel, by decide +kernel, by decide +kernel⟩,
   ⟨up 3, _, host, 1, 0, rfl, serves (by decide +kernel), orders (by decide +kernel), by decide +kernel, by decide +kernel, by decide +kernel⟩,
   ⟨{ up 3 with duplex := { loads := [⟨1, 0⟩] } }, _, 1, by decide +kernel, by decide +kernel, rfl, by decide +kernel⟩,
   ⟨{ up 3 with duplex := { loads := [⟨1, 0⟩] }, mem := { poison := [(up 3).setBase 1] } }, _, 1, by decide +kernel, by decide +kernel, rfl, (up
   3).setBase 1, by decide +kernel⟩,
   ⟨up 3, _, _, host, [0, 14, 0, 0, 0, 0, 0, 0] ++ leBytes 8 (epochEntry (mkEpoch 0 1 0 0)) ++ List.replicate 16 0, _, _, _, rfl, ordersRecord
   (by decide +kernel), rfl, rfl, rfl, by decide +kernel, by decide +kernel, by decide +kernel, by decide +kernel, by decide +kernel,
   by decide +kernel, by decide +kernel, by decide +kernel, by decide +kernel, by decide +kernel, rfl⟩,
   ⟨{ up 3 with duplex := { train := some ⟨0, 14, 0, 0⟩ } }, _, ⟨0, 14, 0, 0⟩, _, by decide +kernel, by decide +kernel, by decide +kernel, rfl, rfl⟩,
   ⟨{ up 3 with duplex := { train := some ⟨0, 14, 0, 3⟩ } }, _, ⟨0, 14, 0, 3⟩, _, ⟨true, false, [], [], []⟩, by decide +kernel, by decide +kernel,
   by decide +kernel, by decide +kernel, by decide +kernel, rfl, rfl⟩,
   ⟨{ up 3 with duplex := { train := some ⟨0, 14, 0, 4⟩ } }, _, _, _, _, ⟨0, 14, 0, 4⟩, _, ⟨true, false, [], [], []⟩, by decide +kernel,
   by decide +kernel, by decide +kernel, by decide +kernel, rfl, rfl, rfl, rfl, rfl, by decide +kernel⟩⟩

/-- States and operands that meet the premises of `CancellerSetsAreTrainedAndLoaded`, clause by clause. -/
theorem premises_CancellerSetsAreTrainedAndLoaded_2 :
    (∃ (s t : State) (x : TrainSys) (r : TrainResult), s.duplex.train = some x ∧ x.stage ≠ 0 ∧ (r.poison = true ∨ r.level = false) ∧ t =
    trainLeases.foldl (fun s r => s.freeLease r) { s with duplex := { s.duplex with train := none } })
    ∧ (∃ (s : State) (solves : List TrackSolve), s.rd Ix.CancelAdapt 0 = 1 ∧ s.setInService ≠ none)
    ∧ (∃ (s : State) (y : TrackSolve) (old : List Cplx), s.rd Ix.CancelAdapt 0 = 1 ∧ s.setInService ≠ none ∧ courseOf y.path = s.duplex.nextCourse ∧
    y.subband < 8 ∧ y.coefs.length = 256 ∧ s.trackFrozen y.path = false ∧ old = coefsOf s.duplex.current y.path y.subband ∧ s.trackEdge y.path
    (coefsOf s.duplex.trained y.path y.subband) old (trackMove 64 old y.coefs) = 0) :=
  ⟨⟨{ up 3 with duplex := { train := some ⟨0, 14, 0, 2⟩ } }, _, ⟨0, 14, 0, 2⟩, ⟨false, false, [], [], []⟩, by decide +kernel, by decide +kernel,
   by decide +kernel, rfl⟩,
   ⟨((up 5).wr Ix.CancelAdapt 0 1).wr Ix.CancelSetState 1 2, [], by decide +kernel, by decide +kernel⟩,
   ⟨{ ((up 5).wr Ix.CancelAdapt 0 1).wr Ix.CancelSetState 1 2 with duplex := { current := [(4608, 100)], trained := [(4608, 100)] } }, ⟨0, 0, ⟨100,
   0⟩ :: List.replicate 255 ⟨0, 0⟩⟩, _, by decide +kernel, by decide +kernel, by decide +kernel, by decide +kernel, by decide +kernel,
   by decide +kernel, rfl, by decide +kernel⟩⟩

/-- States and operands that meet the premises of `SpeSendsAreScheduledAndRun`, clause by clause. -/
theorem premises_SpeSendsAreScheduledAndRun_1 :
    (∃ (s m : State) (w : Caller) (l : List Byte) (t : SpeSend) (startV start span : Nat), m = s.met w.port ∧ s.OrdersRecord w Ix.SpeTxSend l ∧
    m.speState ≠ 0 ∧ m.mode = 2 ∧ m.spe.send = none ∧ fieldLE l 1 1 ≤ 7 ∧ fieldLE l 2 1 ≤ 2 ∧ fieldLE l 4 2 ≤ 2047 ∧ bitAt (fieldLE l 0 1) 7 = true
    ∧ startV = fieldLE l 8 8 ∧ m.stampOk startV = true ∧ epLe m.epoch (epochOfEntry startV) = true ∧ start = m.tickOf (epochOfEntry startV) + nsec
    (startV % 2 ^ 28) ∧ m.now + usec 20 ≤ start ∧ m.leaseOf 0x300 = none ∧ span = spePacketSamples m.speN (fieldLE l 2 1) (fieldLE l 4 2) *
    m.speSample ∧ t = ⟨fieldLE l 0 1 % 4, fieldLE l 1 1, fieldLE l 2 1, fieldLE l 4 2, start, start + span, m.stampFrom (start + 5 * m.speN *
    m.speSample) 600 (epochOfEntry startV), 0, 0, false⟩)
    ∧ (∃ (s m : State) (w : Caller) (t : SpeSend), m = s.met w.port ∧ s.Orders w Ix.SpeTxCancel 0 1 ∧ m.spe.send = some t ∧ t.phase = 0)
    ∧ (∃ (s m : State) (w : Caller) (k : Nat), m = s.met w.port ∧ s.Orders w Ix.SpeRxRelease 0 k ∧ k < 8)
    ∧ (∃ (s m : State) (w : Caller), m = s.met w.port ∧ s.Orders w Ix.SpeRxRelease 0 0xFF)
    ∧ (∃ (s : State) (t : SpeSend), s.spe.send = some t ∧ t.phase = 0 ∧ t.start ≤ s.now + usec 3 ∧ s.spe.recv = none)
    ∧ (∃ (s n : State) (t : SpeSend) (a p : Nat) (air : List (List (Int × Int × Int))), s.spe.send = some t ∧ t.phase = 1 ∧ t.start ≤ s.now + usec 2
    ∧ s.spe.diversity = false ∧ p = s.rd Ix.SpeMainPath 0 ∧ s.rdB Ix.MismatchFlag (p + 1) = false ∧ a = spe_Base + 0x8000 + 0x800 * t.buffer ∧
    s.mem.upsets = [] ∧ n = s.wr Ix.SpeAntennaInUse 0 p ∧ air = speFrame s.speN (s.rd Ix.SpeSyncWord 0) t.length t.typ t.mod (s.bytesAt a t.length)
    ∧ s.synpLocked = true ∧ s.firstPoison a t.length = none)
    ∧ (∃ (s n : State) (t : SpeSend) (a p : Nat) (air : List (List (Int × Int × Int))), s.spe.send = some t ∧ t.phase = 1 ∧ t.start ≤ s.now + usec 2
    ∧ s.spe.diversity = false ∧ p = s.rd Ix.SpeMainPath 0 ∧ s.rdB Ix.MismatchFlag (p + 1) = false ∧ a = spe_Base + 0x8000 + 0x800 * t.buffer ∧
    s.mem.upsets = [] ∧ n = s.wr Ix.SpeAntennaInUse 0 p ∧ air = speFrame s.speN (s.rd Ix.SpeSyncWord 0) t.length t.typ t.mod (s.bytesAt a t.length)
    ∧ s.synpLocked = false ∧ s.firstPoison a t.length = none)
    ∧ (∃ (s n : State) (t : SpeSend) (a p : Nat) (air : List (List (Int × Int × Int))), s.spe.send = some t ∧ t.phase = 1 ∧ t.start ≤ s.now + usec 2
    ∧ s.spe.diversity = false ∧ p = s.rd Ix.SpeMainPath 0 ∧ s.rdB Ix.MismatchFlag (p + 1) = false ∧ a = spe_Base + 0x8000 + 0x800 * t.buffer ∧
    s.mem.upsets = [] ∧ n = s.wr Ix.SpeAntennaInUse 0 p ∧ air = speFrame s.speN (s.rd Ix.SpeSyncWord 0) t.length t.typ t.mod (s.bytesAt a t.length)
    ∧ ∃ x : Nat, s.firstPoison a t.length = some x) :=
  ⟨⟨(up 2).wr Ix.SpeState 0 2, _, host, [0x80, 7, 2, 0] ++ leBytes 2 2047 ++ [0, 0] ++ leBytes 8 (epochEntry (mkEpoch 0 1 0 0)) ++ List.replicate 16
   0, _, _, _, _, rfl, ordersRecord (by decide +kernel), by decide +kernel, by decide +kernel, by decide +kernel, by decide +kernel,
   by decide +kernel, by decide +kernel, by decide +kernel, rfl, by decide +kernel, by decide +kernel, rfl, by decide +kernel, by decide +kernel,
   rfl, rfl⟩,
   ⟨{ up 2 with spe := { send := some (someSend (msec 1) 0) } }, _, host, someSend (msec 1) 0, rfl, orders (by decide +kernel), by decide +kernel,
   by decide +kernel⟩,
   ⟨up 2, _, host, 7, rfl, orders (by decide +kernel), by decide +kernel⟩,
   ⟨up 2, _, host, rfl, orders (by decide +kernel)⟩,
   ⟨{ up 2 with spe := { send := some (someSend (usec 3) 0) } }, someSend (usec 3) 0, by decide +kernel, by decide +kernel, by decide +kernel,
   by decide +kernel⟩,
   ⟨{ up 2 with spe := { send := some (someSend (usec 2) 1), locked := true } }, _, someSend (usec 2) 1, _, _, _, by decide +kernel,
   by decide +kernel, by decide +kernel, by decide +kernel, rfl, by decide +kernel, rfl, by decide +kernel, rfl, rfl, by decide +kernel,
   by decide +kernel⟩,
   ⟨{ up 2 with spe := { send := some (someSend (usec 2) 1) } }, _, someSend (usec 2) 1, _, _, _, by decide +kernel, by decide +kernel,
   by decide +kernel, by decide +kernel, rfl, by decide +kernel, rfl, by decide +kernel, rfl, rfl, by decide +kernel, by decide +kernel⟩,
   ⟨{ up 2 with spe := { send := some (someSend (usec 2) 1) }, mem := { poison := [spe_Base + 0x8004] } }, _, someSend (usec 2) 1, _, _, _,
   by decide +kernel, by decide +kernel, by decide +kernel, by decide +kernel, rfl, by decide +kernel, rfl, by decide +kernel, rfl, rfl, spe_Base +
   0x8004, by decide +kernel⟩⟩

/-- States and operands that meet the premises of `SpeSendsAreScheduledAndRun`, clause by clause. -/
theorem premises_SpeSendsAreScheduledAndRun_2 :
    ∃ (s n : State) (t : SpeSend), s.spe.send = some t ∧ t.phase = 2 ∧ t.finish + usec 2 ≤ s.now ∧ t.muted = false ∧ n =
    ({ s with spe := { s.spe with send := none, air := [] } } : State).wr Ix.SpeTxScheduled 0 0 :=
  ⟨{ up 2 with now := usec 3, spe := { send := some (someSend 0 2) } }, _, someSend 0 2, by decide +kernel, by decide +kernel, by decide +kernel,
  by decide +kernel, rfl⟩

/-- States and operands that meet the premises of `SpeDetectsAndSynchronises`, clause by clause. -/
theorem premises_SpeDetectsAndSynchronises :
    (∃ (s : State) (d : SpeDetect) (x : SpeDetection), s.speState = 2 ∧ s.mode = 2 ∧ s.spe.diversity = false ∧ x = ⟨s.now, d.metric, s.now + (5 *
    s.speN - d.into) * s.speSample⟩ ∧ s.spe.recv = none)
    ∧ (∃ (s : State) (d : SpeDetect) (x : SpeDetection), s.speState = 2 ∧ s.mode = 2 ∧ s.spe.diversity = false ∧ x = ⟨s.now, d.metric, s.now + (5 *
    s.speN - d.into) * s.speSample⟩ ∧ ∃ r : SpeRecv, s.spe.recv = some r ∧ r.synced = false ∧ r.det.metric + (s.rd Ix.SpeCaptureMargin 0 : Int) ≤
    d.metric)
    ∧ (∃ (s : State) (d : SpeDetect) (x : SpeDetection), s.speState = 2 ∧ s.mode = 2 ∧ s.spe.diversity = false ∧ x = ⟨s.now, d.metric, s.now + (5 *
    s.speN - d.into) * s.speSample⟩ ∧ ∃ r : SpeRecv, s.spe.recv = some r ∧ r.synced = true ∧ s.rdB Ix.SpeLateCapture 0 = false ∧ s.spe.cand = none)
    ∧ (∃ (s : State) (f : SpeSyncFound) (r : SpeRecv), s.spe.recv = some r ∧ s.speState = 2 ∧ r.synced = false ∧ s.now ≤ s.speWindowEnd r.det.at_ +
    s.speTs ∧ bitErrors f.word (s.rd Ix.SpeSyncWord 0) ≤ s.rd Ix.SpeSyncErrors 0)
    ∧ (∃ (s : State) (r : SpeRecv), s.spe.recv = some r ∧ r.synced = false ∧ s.speWindowEnd r.det.at_ ≤ s.now ∧ s.spe.cand = none) :=
  ⟨⟨(up 2).wr Ix.SpeState 0 2, ⟨100, 0, 0, 0⟩, _, by decide +kernel, by decide +kernel, by decide +kernel, rfl, by decide +kernel⟩,
   ⟨{ (up 2).wr Ix.SpeState 0 2 with spe := { recv := some (someRecv false) } }, ⟨1000, 0, 0, 0⟩, _, by decide +kernel, by decide +kernel,
   by decide +kernel, rfl, someRecv false, by decide +kernel, by decide +kernel, by decide +kernel⟩,
   ⟨{ (up 2).wr Ix.SpeState 0 2 with spe := { recv := some (someRecv true) } }, ⟨1000, 0, 0, 0⟩, _, by decide +kernel, by decide +kernel,
   by decide +kernel, rfl, someRecv true, by decide +kernel, by decide +kernel, by decide +kernel, by decide +kernel⟩,
   ⟨{ (up 2).wr Ix.SpeState 0 2 with spe := { recv := some (someRecv false) } }, ⟨1513920225, 0, 0, 0⟩, someRecv false, by decide +kernel,
   by decide +kernel, by decide +kernel, by decide +kernel, by decide +kernel⟩,
   ⟨{ { (up 2).wr Ix.SpeState 0 2 with spe := { recv := some (someRecv false) } } with now := msec 1 }, someRecv false, by decide +kernel,
   by decide +kernel, by decide +kernel, by decide +kernel⟩⟩

/-- States and operands that meet the premises of `SpeReceivesAndFollows`, clause by clause. -/
theorem premises_SpeReceivesAndFollows_1 :
    (∃ (s : State) (r : SpeRecv) (h : Nat), s.spe.recv = some r ∧ r.synced = true ∧ r.header = none ∧ h < 2 ^ 32 ∧ h % 65536 = speHeaderCrc (bitsOf
    h 31 16) ∧ bitsOf h 17 16 ≠ 3 ∧ bitsOf h 31 21 ≠ 0)
    ∧ (∃ (s : State) (r : SpeRecv) (h : Nat), s.spe.recv = some r ∧ r.synced = true ∧ r.header = none ∧ s.spe.cand = none ∧ (h % 65536 ≠
    speHeaderCrc (bitsOf h 31 16) ∨ bitsOf h 17 16 = 3))
    ∧ (∃ (s : State) (r : SpeRecv) (h len : Nat) (payload : List Byte) (crc : Nat), s.spe.recv = some r ∧ r.header = some h ∧ len = bitsOf h 31 21 ∧
    len ≤ s.rd Ix.SpeRxBufferSize 0 ∧ crc = speCrc32 (sliceBytes payload 0 len))
    ∧ (∃ (s : State) (r : SpeRecv) (h len : Nat) (payload : List Byte) (crc : Nat), s.spe.recv = some r ∧ r.header = some h ∧ len = bitsOf h 31 21 ∧
    len ≤ s.rd Ix.SpeRxBufferSize 0 ∧ crc ≠ speCrc32 (sliceBytes payload 0 len))
    ∧ (∃ (s : State) (r : SpeRecv) (h len : Nat) (payload : List Byte) (crc : Nat), s.spe.recv = some r ∧ r.header = some h ∧ len = bitsOf h 31 21 ∧
    s.rd Ix.SpeRxBufferSize 0 < len)
    ∧ (∃ (s n : State) (r : SpeRecv) (status : Nat) (payload : List Byte) (k : Nat), r.diversity = false ∧ s.speByCal = false ∧ k = (s.spe.lastSlot
    + 1) % 8 ∧ s.rdBit Ix.SpeRxPending 0 k = false ∧ n = (s.ownBytes (spe_Base + 0x1000 * k) (s.speRecord r status payload.length)).ownBytes
    (spe_Base + 0x1000 * k + 0x40) payload)
    ∧ (∃ (s n : State), s.speState = 2 ∧ s.spe.diversity = true ∧ s.spe.recv = none ∧ s.spe.dwellAt + 3 * s.speN / 4 * s.speSample ≤ s.now ∧ n =
    { s with spe := { s.spe with alt := 1 - s.spe.alt, dwellAt := s.now } })
    ∧ (∃ (s n : State) (at_ : Nat) (ppb was moved total : Int), s.spe.move = some (at_, ppb) ∧ at_ ≤ s.now ∧ was = s.rdI 32 Ix.SpeCfoApplied 0 ∧
    moved = clampInt (-(s.rd Ix.SpeCfoStepMax 0 : Int)) (s.rd Ix.SpeCfoStepMax 0) ppb ∧ total = clampInt (-(s.rd Ix.SpeCfoRange 0 : Int)) (s.rd
    Ix.SpeCfoRange 0) (was + moved) ∧ n = ({ s with spe := { s.spe with move := none, settleUntil := s.now + usec 4 } } : State).wrI 32
    Ix.SpeCfoApplied 0 total) :=
  ⟨⟨{ (up 2).wr Ix.SpeState 0 2 with spe := { recv := some (someRecv true) } }, someRecv true, someHeader, by decide +kernel, by decide +kernel,
   by decide +kernel, by decide +kernel, by decide +kernel, by decide +kernel, by decide +kernel⟩,
   ⟨{ (up 2).wr Ix.SpeState 0 2 with spe := { recv := some (someRecv true) } }, someRecv true, someHeader + 1, by decide +kernel, by decide +kernel,
   by decide +kernel, by decide +kernel, by decide +kernel⟩,
   ⟨{ (up 2).wr Ix.SpeState 0 2 with spe := { recv := some { someRecv true with header := some someHeader } } },
   { someRecv true with header := some someHeader }, someHeader, 8, [1, 2, 3, 4, 5, 6, 7, 8], _, by decide +kernel, by decide +kernel,
   by decide +kernel, by decide +kernel, rfl⟩,
   ⟨{ (up 2).wr Ix.SpeState 0 2 with spe := { recv := some { someRecv true with header := some someHeader } } },
   { someRecv true with header := some someHeader }, someHeader, 8, [1, 2, 3, 4, 5, 6, 7, 8], 0, by decide +kernel, by decide +kernel,
   by decide +kernel, by decide +kernel, by decide +kernel⟩,
   ⟨{ ({ (up 2).wr Ix.SpeState 0 2 with spe := { recv := some { someRecv true with header := some someHeader } } } : State) with pos := 0 }.wr
   Ix.SpeRxBufferSize 0 7, { someRecv true with header := some someHeader }, someHeader, 8, [1, 2, 3, 4, 5, 6, 7, 8], 0, by decide +kernel,
   by decide +kernel, by decide +kernel, by decide +kernel⟩,
   ⟨(up 2).wr Ix.SpeState 0 2, _, someRecv true, 0, [1], _, by decide +kernel, by decide +kernel, rfl, by decide +kernel, rfl⟩,
   ⟨{ (up 2).wr Ix.SpeState 0 2 with now := msec 1, spe := { diversity := true } }, _, by decide +kernel, by decide +kernel, by decide +kernel,
   by decide +kernel, rfl⟩,
   ⟨{ up 2 with spe := { move := some (0, 5) } }, _, 0, 5, _, _, _, by decide +kernel, by decide +kernel, rfl, rfl, rfl, rfl⟩⟩

/-- States and operands that meet the premises of `SpeReceivesAndFollows`, clause by clause. -/
theorem premises_SpeReceivesAndFollows_2 :
    ∃ (s : State) (since : Nat), s.spe.lockSince = some since ∧ s.speState = 0 ∧ s.speAllowed = true :=
  ⟨{ (up 2).wr Ix.SpeEnable 0 1 with spe := { lockSince := some 0 } }, 0, by decide +kernel, by decide +kernel, by decide +kernel⟩

/-- States and operands that meet the premises of `CalibrationRunsAndRechecks`, clause by clause. -/
theorem premises_CalibrationRunsAndRechecks :
    (∃ (s m : State) (w : Caller), m = s.met w.port ∧ s.Orders w Ix.TrimRecheck 0 1 ∧ m.mode ≠ 0 ∧ trimCrcOf m.cal.shadow = m.fuse.trimCrc)
    ∧ (∃ (s n : State) (p c : Nat), s.rdB Ix.CalRollEnable 0 = true ∧ rollMode s.mode = true ∧ s.cal.slotsLeft = 0 ∧ n =
    ({ s with cal := { s.cal with slotsLeft := s.rd Ix.CalRollInterval 0 } } : State).wr Ix.CalRollPath 0 ((p + 1) % 64) ∧ s.rollPath = some p ∧ c =
    courseOf p ∧ (s.leased 0x500 = true ∨ s.leased (0x400 + c) = true))
    ∧ (∃ (s n : State) (p c : Nat), s.rdB Ix.CalRollEnable 0 = true ∧ rollMode s.mode = true ∧ s.cal.slotsLeft = 0 ∧ n =
    ({ s with cal := { s.cal with slotsLeft := s.rd Ix.CalRollInterval 0 } } : State).wr Ix.CalRollPath 0 ((p + 1) % 64) ∧ s.rollPath = some p ∧ c =
    courseOf p ∧ s.leased 0x500 = false ∧ s.leased (0x400 + c) = false ∧ s.loLocked c = false)
    ∧ (∃ (s n : State) (p c : Nat), s.rdB Ix.CalRollEnable 0 = true ∧ rollMode s.mode = true ∧ s.cal.slotsLeft = 0 ∧ n =
    ({ s with cal := { s.cal with slotsLeft := s.rd Ix.CalRollInterval 0 } } : State).wr Ix.CalRollPath 0 ((p + 1) % 64) ∧ s.rollPath = some p ∧ c =
    courseOf p ∧ s.leased 0x500 = false ∧ s.leased (0x400 + c) = false ∧ s.loLocked c = true)
    ∧ (∃ (s m t : State) (w : Caller) (l : List Byte) (kinds paths start : Nat), m = s.met w.port ∧ s.OrdersRecord w Ix.CalRun l ∧ kinds = fieldLE l
    1 1 ∧ paths = fieldLE l 4 8 ∧ start = epochOfEntry (fieldLE l 12 8) ∧ m.mode = 3 ∧ m.cal.run = none ∧ m.cal.due = [] ∧ m.rd Ix.TrimValid 0 ≠ 0 ∧
    fieldLE l 0 1 = 0 ∧ 1 ≤ kinds ∧ kinds < 16 ∧ fieldLE l 2 2 ≠ 0 ∧ (∃ p < 64, bitAt paths p = true ∧ m.rd Ix.PathEnable (p + 1) % 4 ≠ 0) ∧
    m.epochOk (fieldLE l 12 8) = true ∧ m.beyondLimit start = false ∧ fieldLE l 20 8 = 0 ∧ fieldLE l 28 4 = 0 ∧ (bitAt kinds 3 = true → m.speInLo =
    true) ∧ epLe m.earliestCommit start = true ∧ (∀ r ∈ calLeases kinds, m.leaseOf r = none) ∧ t = ((calLeases kinds).foldl (fun s r => s.takeLease
    r (m.functionOwner 1) none none) m).wr Ix.CalRunState 0 1)
    ∧ (∃ (s m : State) (w : Caller), m = s.met w.port ∧ s.Orders w Ix.CalRunCancel 0 1)
    ∧ (∃ (s n : State) (r : CalRunSys), s.cal.run = some r ∧ r.measuring = false ∧ epLe r.start s.epoch = true ∧ s.setInService = none ∧ n =
    { s with cal := { s.cal with run := some { r with measuring := true, temps := (List.range 4).map (fun c => s.rdI 16 Ix.CalCourseTemp (c + 1)) } } }) :=
  ⟨⟨up 3, _, host, rfl, orders (by decide +kernel), by decide +kernel, by decide +kernel⟩,
   ⟨(((up 4).wr Ix.CalRollEnable 0 1).setPath 0 { holdOff := false }).takeLease 0x500 0 none none, _, 0, _, by decide +kernel, by decide +kernel,
   by decide +kernel, rfl, by decide +kernel, rfl, by decide +kernel⟩,
   ⟨(((up 4).wr Ix.CalRollEnable 0 1).setPath 0 { holdOff := false }), _, 0, _, by decide +kernel, by decide +kernel, by decide +kernel, rfl,
   by decide +kernel, rfl, by decide +kernel, by decide +kernel, by decide +kernel⟩,
   ⟨(((up 4).wr Ix.CalRollEnable 0 1).setPath 0 { holdOff := false }).wr Ix.SynState 1 3, _, 0, _, by decide +kernel, by decide +kernel,
   by decide +kernel, rfl, by decide +kernel, rfl, by decide +kernel, by decide +kernel, by decide +kernel⟩,
   ⟨up 3, _, _, host, [0, 15, 1, 0] ++ leBytes 8 (2 ^ 64 - 1) ++ leBytes 8 (epochEntry (mkEpoch 0 1 0 0)) ++ List.replicate 12 0, _, _, _, rfl,
   ordersRecord (by decide +kernel), rfl, rfl, rfl, by decide +kernel, by decide +kernel, by decide +kernel, by decide +kernel, by decide +kernel,
   by decide +kernel, by decide +kernel, by decide +kernel, by decide +kernel, by decide +kernel, by decide +kernel, by decide +kernel,
   by decide +kernel, by decide +kernel, by decide +kernel, by decide +kernel, rfl⟩,
   ⟨up 3, _, host, rfl, orders (by decide +kernel)⟩,
   ⟨{ up 3 with cal := { run := some { someRun [] with measuring := false } } }, _, { someRun [] with measuring := false }, by decide +kernel,
   by decide +kernel, by decide +kernel, by decide +kernel, rfl⟩⟩

/-- States and operands that meet the premises of `CalibrationMeasurementsAreJudged`, clause by clause. -/
theorem premises_CalibrationMeasurementsAreJudged :
    (∃ (s : State) (r : CalRunSys) (x : CalMeasure), s.cal.run = some r ∧ r.rolling = false ∧ r.measuring = true ∧ x.kind ∈ [1, 2, 4, 8] ∧ r.kinds /
    x.kind % 2 = 1 ∧ x.path < 64 ∧ bitAt r.paths x.path = true ∧ x.poison = true)
    ∧ (∃ (s : State) (r : CalRunSys) (x : CalMeasure), s.cal.run = some r ∧ r.rolling = false ∧ r.measuring = true ∧ x.kind ∈ [1, 2, 4, 8] ∧ r.kinds
    / x.kind % 2 = 1 ∧ x.path < 64 ∧ bitAt r.paths x.path = true ∧ x.poison = false ∧ x.lost = true ∧ (x.kind, x.path) ∉ r.repeated)
    ∧ (∃ (s : State) (r : CalRunSys) (x : CalMeasure), s.cal.run = some r ∧ r.rolling = false ∧ r.measuring = true ∧ x.kind ∈ [1, 2, 4, 8] ∧ r.kinds
    / x.kind % 2 = 1 ∧ x.path < 64 ∧ bitAt r.paths x.path = true ∧ x.poison = false ∧ x.lost = true ∧ (x.kind, x.path) ∈ r.repeated)
    ∧ (∃ (s : State) (r : CalRunSys) (x : CalMeasure), s.cal.run = some r ∧ r.rolling = false ∧ r.measuring = true ∧ x.kind ∈ [1, 2, 4, 8] ∧ r.kinds
    / x.kind % 2 = 1 ∧ x.path < 64 ∧ bitAt r.paths x.path = true ∧ x.poison = false ∧ x.lost = false ∧ x.kind = 8 ∧ x.snr < s.rdI 16
    Ix.CalRecipMinSnr 0)
    ∧ (∃ (s : State) (r : CalRunSys) (x : CalMeasure), s.cal.run = some r ∧ r.rolling = false ∧ r.measuring = true ∧ x.kind ∈ [1, 2, 4, 8] ∧ r.kinds
    / x.kind % 2 = 1 ∧ x.path < 64 ∧ bitAt r.paths x.path = true ∧ x.poison = false ∧ x.lost = false ∧ (x.kind = 8 → s.rdI 16 Ix.CalRecipMinSnr 0 ≤
    x.snr) ∧ s.rd Ix.CalProfile 0 = 0 ∧ s.disagreements x ≠ [])
    ∧ (∃ (s : State) (r : CalRunSys) (x : CalMeasure), s.cal.run = some r ∧ r.rolling = false ∧ r.measuring = true ∧ x.kind ∈ [1, 2, 4, 8] ∧ r.kinds
    / x.kind % 2 = 1 ∧ x.path < 64 ∧ bitAt r.paths x.path = true ∧ ∃ y : Int, x.poison = false ∧ x.lost = false ∧ (x.kind = 8 → s.rdI 16
    Ix.CalRecipMinSnr 0 ≤ x.snr) ∧ (s.rd Ix.CalProfile 0 = 1 ∨ s.disagreements x = []) ∧ s.limitBroken x = some y)
    ∧ (∃ (s : State) (r : CalRunSys) (x : CalMeasure), s.cal.run = some r ∧ r.rolling = false ∧ r.measuring = true ∧ x.kind ∈ [1, 2, 4, 8] ∧ r.kinds
    / x.kind % 2 = 1 ∧ x.path < 64 ∧ bitAt r.paths x.path = true ∧ x.poison = false ∧ x.lost = false ∧ (x.kind = 8 → s.rdI 16 Ix.CalRecipMinSnr 0 ≤
    x.snr) ∧ (s.rd Ix.CalProfile 0 = 1 ∨ s.disagreements x = []) ∧ s.limitBroken x = none)
    ∧ (∃ (s n : State) (r : CalRunSys) (peers : CalPeers), s.cal.run = some r ∧ r.rolling = false ∧ r.measuring = true ∧ s.rd Ix.CalProfile 0 = 0 ∧
    (∀ a ∈ r.accepted, a.kind ≠ 8) ∧ n = ((calLeases r.kinds).foldl State.freeLease { s with cal := { s.cal with run := none } }).wr Ix.CalRunState
    0 3) :=
  ⟨⟨{ up 3 with cal := { run := some (someRun []) } }, someRun [], someMeasure 8 false true 0 0, by decide +kernel, by decide +kernel,
   by decide +kernel, by decide +kernel, by decide +kernel, by decide +kernel, by decide +kernel, by decide +kernel⟩,
   ⟨{ up 3 with cal := { run := some (someRun []) } }, someRun [], someMeasure 1 true false 0 0, by decide +kernel, by decide +kernel,
   by decide +kernel, by decide +kernel, by decide +kernel, by decide +kernel, by decide +kernel, by decide +kernel, by decide +kernel,
   by decide +kernel⟩,
   ⟨{ up 3 with cal := { run := some (someRun [(1, 63)]) } }, someRun [(1, 63)], someMeasure 1 true false 0 0, by decide +kernel, by decide +kernel,
   by decide +kernel, by decide +kernel, by decide +kernel, by decide +kernel, by decide +kernel, by decide +kernel, by decide +kernel,
   by decide +kernel⟩,
   ⟨{ up 3 with cal := { run := some (someRun []) } }, someRun [], someMeasure 8 false false 1999 0, by decide +kernel, by decide +kernel,
   by decide +kernel, by decide +kernel, by decide +kernel, by decide +kernel, by decide +kernel, by decide +kernel, by decide +kernel,
   by decide +kernel, by decide +kernel⟩,
   ⟨{ up 3 with cal := { run := some (someRun []) } }, someRun [], someMeasure 4 false false 0 100000, by decide +kernel, by decide +kernel,
   by decide +kernel, by decide +kernel, by decide +kernel, by decide +kernel, by decide +kernel, by decide +kernel, by decide +kernel,
   by decide +kernel, by decide +kernel, by decide +kernel⟩,
   ⟨{ (up 3).wr Ix.CalProfile 0 1 with cal := { run := some (someRun []) } }, someRun [], someMeasure 1 false false 0 3001, by decide +kernel,
   by decide +kernel, by decide +kernel, by decide +kernel, by decide +kernel, by decide +kernel, by decide +kernel, 3001, by decide +kernel,
   by decide +kernel, by decide +kernel, by decide +kernel, by decide +kernel⟩,
   ⟨{ up 3 with cal := { run := some (someRun []) } }, someRun [], someMeasure 8 false false 2000 0, by decide +kernel, by decide +kernel,
   by decide +kernel, by decide +kernel, by decide +kernel, by decide +kernel, by decide +kernel, by decide +kernel, by decide +kernel,
   by decide +kernel, by decide +kernel, by decide +kernel⟩,
   ⟨{ up 3 with cal := { run := some (someRun []) } }, _, someRun [], ⟨0, 1⟩, by decide +kernel, by decide +kernel, by decide +kernel,
   by decide +kernel, by decide +kernel, rfl⟩⟩

/-- States and operands that meet the premises of `CalibrationIsStored`, clause by clause. -/
theorem premises_CalibrationIsStored :
    (∃ (s n u : State) (w : Caller) (mask bank seq : Nat), n = s.metOn w.port 5 ∧ (s.met w.port).Serves 5 ∧ s.Orders w Ix.CalStoreSave 0 mask ∧
    (mask = 1 ∨ mask = 3) ∧ n.mode ≠ 0 ∧ n.cal.save = none ∧ n.cal.saveAsked = none ∧ n.bootReading = false ∧ n.mem.upsets = [] ∧ n.firstPoison
    n.calBase 86272 = none ∧ (n.newerBank = none ∧ bank = 0 ∧ seq = 1 ∨ n.newerBank = some (1 - bank) ∧ bank < 2 ∧ seq = (n.rd Ix.CalStoreBankSeq (2
    - bank) + 1) % 2 ^ 32) ∧ u = (((n.zeroRange (n.bankBase bank) 0x200000).wr Ix.CalStoreBankState (bank + 1) 0).wr Ix.CalStoreBankSeq (bank + 1)
    0).wr Ix.CalStoreState 0 1)
    ∧ (∃ (s n o q : State) (v : SaveSys), s.cal.save = some v ∧ s.mem.saveHit = false ∧ n = s.storeBytes (s.bankBase v.bank) v.record ∧ o =
    { n with cal := { n.cal with save := none } } ∧ q = { o with mem := { o.mem with saving := none, saveHit := false } })
    ∧ (∃ (s : State) (v : SaveSys) (b : Bool), s.cal.save = some v ∧ s.mem.saveHit = true)
    ∧ (∃ (s : State) (v : SaveSys) (b : Bool), s.cal.save = some v ∧ s.mem.saveHit = false)
    ∧ (∃ (s : State) (v : SaveSys) (b : Bool), s.cal.save = some v ∧ v.since + msec (s.rd Ix.CalStoreTimeout 0) ≤ s.now) :=
  ⟨⟨(up 3).wr Ix.CalStoreBankState 1 1, _, _, host, 1, 1, 1, rfl, serves (by decide +kernel), orders (by decide +kernel), by decide +kernel,
   by decide +kernel, by decide +kernel, by decide +kernel, by decide +kernel, by decide +kernel, by decide +kernel, by decide +kernel, rfl⟩,
   ⟨{ up 3 with cal := { save := some ⟨1, 1, 0, false, []⟩ } }, _, _, _, ⟨1, 1, 0, false, []⟩, by decide +kernel, by decide +kernel, rfl, rfl, rfl⟩,
   ⟨{ up 3 with cal := { save := some ⟨1, 1, 0, false, []⟩ }, mem := { saveHit := true } }, ⟨1, 1, 0, false, []⟩, true, by decide +kernel,
   by decide +kernel⟩,
   ⟨{ up 3 with cal := { save := some ⟨1, 1, 0, false, []⟩ } }, ⟨1, 1, 0, false, []⟩, false, by decide +kernel, by decide +kernel⟩,
   ⟨{ up 3 with now := msec 100000, cal := { save := some ⟨1, 1, 0, false, []⟩ } }, ⟨1, 1, 0, false, []⟩, true, by decide +kernel,
   by decide +kernel⟩⟩

/-- States and operands that meet the premises of `MasonScalarsWritePointers`, clause by clause. -/
theorem premises_MasonScalarsWritePointers :
    (∃ (s : State) (m : Nat) (c : MasonCore) (f : CFormat) (g : AFormat) (put : Int → State), s.Between m c ∧ put = (fun v => s.setCore m
    (c.stepped.setP f.pd.toNat (ofInt 40 v))) ∧ ∃ x : Cplx, x = (c.getV g.va.toNat).getD (g.imm.toNat % 8) czero)
    ∧ (∃ (s : State) (m : Nat) (c : MasonCore) (f : CFormat) (g : AFormat) (put : Int → State), s.Between m c ∧ put = (fun v => s.setCore m
    (c.stepped.setP f.pd.toNat (ofInt 40 v))) ∧ ∃ v : Nat, c.sysRead m f.imm.toNat = some v)
    ∧ (∃ (s : State) (m : Nat) (c : MasonCore) (f : CFormat) (g : AFormat) (put : Int → State), s.Between m c ∧ put = (fun v => s.setCore m
    (c.stepped.setP f.pd.toNat (ofInt 40 v))) ∧ c.sysRead m f.imm.toNat = none)
    ∧ (∃ (s : State) (m : Nat) (c : MasonCore) (f : CFormat) (g : AFormat) (put : Int → State), s.Between m c ∧ put = (fun v => s.setCore m
    (c.stepped.setP f.pd.toNat (ofInt 40 v))) ∧ f.imm.toNat ≤ 0x1D)
    ∧ (∃ (s : State) (m : Nat) (c : MasonCore) (f : CFormat) (g : AFormat) (put : Int → State), s.Between m c ∧ put = (fun v => s.setCore m
    (c.stepped.setP f.pd.toNat (ofInt 40 v))) ∧ 0x1D < f.imm.toNat) :=
  ⟨⟨coreUp someCore, 47, someCore, ⟨15, 1, 0x1F⟩, ⟨0, 0, 0, 0, 7⟩, _, between (by decide +kernel), rfl, _, rfl⟩,
   ⟨coreUp someCore, 47, someCore, ⟨15, 1, 0x1F⟩, ⟨0, 0, 0, 0, 7⟩, _, between (by decide +kernel), rfl, 47, by decide +kernel⟩,
   ⟨coreUp someCore, 47, someCore, ⟨15, 1, 0x20⟩, ⟨0, 0, 0, 0, 7⟩, _, between (by decide +kernel), rfl, by decide +kernel⟩,
   ⟨coreUp someCore, 47, someCore, ⟨15, 1, 0x1D⟩, ⟨0, 0, 0, 0, 7⟩, _, between (by decide +kernel), rfl, by decide +kernel⟩,
   ⟨coreUp someCore, 47, someCore, ⟨15, 1, 0x1E⟩, ⟨0, 0, 0, 0, 7⟩, _, between (by decide +kernel), rfl, by decide +kernel⟩⟩

/-- States and operands that meet the premises of `MasonVectorsAndProducts`, clause by clause. -/
theorem premises_MasonVectorsAndProducts :
    (∃ (s : State) (m : Nat) (c : MasonCore) (f : AFormat) (a b : List Cplx) (put : Bool → List Cplx → State) (late : Nat → Bool → List Cplx →
    State), s.Between m c ∧ a = c.getV f.va.toNat ∧ b = c.getV f.vb.toNat ∧ put = (fun ovf l =>
    let d := if ovf then c.stepped.status 15 true false else c.stepped; s.setCore m { d with v := tput zero8 f.vd.toNat l d.v }) ∧ late = (fun n ovf
    l => let d := if ovf then c.stepped.status 15 true false else c.stepped; s.setCore m { d with flight := [⟨c.cycle + n, .vec f.vd.toNat l⟩] }) ∧
    ∃ x : ScaledMove, x = c.scaledMove f.acc.toNat)
    ∧ (∃ (s : State) (m : Nat) (c : MasonCore) (f : MFormat) (z a b : List Cplx) (put : (Cplx → Cplx → Cplx → Cplx) → State), s.Between m c ∧ z =
    c.getChain f.acca.toNat ∧ a = c.getV f.va.toNat ∧ b = c.getV f.vb.toNat ∧ put = (fun g =>
    let l := (List.range 8).map (fun i => cwrap (g (z.getD i czero) (a.getD i czero) (b.getD i czero))); s.setCore m
    { c.stepped with chain := tput zero8 f.acca.toNat l c.chain, flight := [⟨c.cycle + 4, .acc f.acca.toNat l⟩] }) ∧ ∃ l : List Cplx, l = (lanes2
    cadd z (c.getAcc f.accb.toNat)).map cwrap)
    ∧ (∃ (s : State) (m : Nat) (c : MasonCore) (f : MFormat) (z a b : List Cplx) (put : (Cplx → Cplx → Cplx → Cplx) → State), s.Between m c ∧ z =
    c.getChain f.acca.toNat ∧ a = c.getV f.va.toNat ∧ b = c.getV f.vb.toNat ∧ put = (fun g =>
    let l := (List.range 8).map (fun i => cwrap (g (z.getD i czero) (a.getD i czero) (b.getD i czero))); s.setCore m
    { c.stepped with chain := tput zero8 f.acca.toNat l c.chain, flight := [⟨c.cycle + 4, .acc f.acca.toNat l⟩] }) ∧ ∃ (l older : List Cplx) (d :
    MasonCore), f.vb.toNat % 2 = 0 ∧ l = (lanes2 cadd z (lanes2 cmul a b)).map cwrap ∧ older = c.getV (f.vb.toNat + 1) ∧ d =
    { c.stepped with chain := tput zero8 f.acca.toNat l c.chain, flight := [⟨c.cycle + 4, .acc f.acca.toNat l⟩] })
    ∧ (∃ (s : State) (m : Nat) (c : MasonCore) (f : MFormat) (z a b : List Cplx) (put : (Cplx → Cplx → Cplx → Cplx) → State), s.Between m c ∧ z =
    c.getChain f.acca.toNat ∧ a = c.getV f.va.toNat ∧ b = c.getV f.vb.toNat ∧ put = (fun g =>
    let l := (List.range 8).map (fun i => cwrap (g (z.getD i czero) (a.getD i czero) (b.getD i czero))); s.setCore m
    { c.stepped with chain := tput zero8 f.acca.toNat l c.chain, flight := [⟨c.cycle + 4, .acc f.acca.toNat l⟩] }) ∧ f.vb.toNat % 2 = 1) :=
  ⟨⟨coreUp someCore, 47, someCore, ⟨31, 0, 1, 3, 7⟩, _, _, _, _, between (by decide +kernel), rfl, rfl, rfl, rfl, _, rfl⟩,
   ⟨coreUp someCore, 47, someCore, ⟨3, 0, 1, 3⟩, _, _, _, _, between (by decide +kernel), rfl, rfl, rfl, rfl, _, rfl⟩,
   ⟨coreUp someCore, 47, someCore, ⟨3, 0, 30, 3⟩, _, _, _, _, between (by decide +kernel), rfl, rfl, rfl, rfl, _, _, _, by decide +kernel, rfl, rfl,
   rfl⟩,
   ⟨coreUp someCore, 47, someCore, ⟨3, 0, 31, 3⟩, _, _, _, _, between (by decide +kernel), rfl, rfl, rfl, rfl, by decide +kernel⟩⟩

/-- States and operands that meet the premises of `ReciprocalsAreExact`. -/
theorem premises_ReciprocalsAreExact :
    ∃ (s : State) (m : Nat) (c : MasonCore) (f : AFormat), s.Between m c ∧ (c.getV f.va.toNat).length = 8 ∧ (∀ a ∈ c.getV f.va.toNat, a.re ≤ 32767) :=
  ⟨coreUp someCore, 47, someCore, ⟨5, 0, 0, 0, 0⟩, between (by decide +kernel), by decide +kernel, by decide +kernel⟩

/-- States and operands that meet the premises of `ScaledMovesSaturate`, clause by clause. -/
theorem premises_ScaledMovesSaturate :
    (∃ (s : State) (m : Nat) (c : MasonCore) (f : AFormat) (g : LFormat) (moved : List Cplx → List Cplx → State → Prop), s.Between m c ∧ (moved =
    (fun acc l t => (∀ i < 8, ∀ x y : Cplx, x = acc.getD i czero → y = l.getD i czero → y = ⟨max (-32768) (min 32767 (x.re / 2 ^ c.sh)), max
    (-32768) (min 32767 (x.im / 2 ^ c.sh))⟩) ∧ (bitAt (t.core m).st 7 = true ↔ bitAt c.st 7 = true ∨ ∃ x ∈ acc, x.re / 2 ^ c.sh < -32768 ∨ 32767 <
    x.re / 2 ^ c.sh ∨ x.im / 2 ^ c.sh < -32768 ∨ 32767 < x.im / 2 ^ c.sh))) ∧ (c.getAcc f.acc.toNat).length = 8)
    ∧ (∃ (s : State) (m : Nat) (c : MasonCore) (f : AFormat) (g : LFormat) (moved : List Cplx → List Cplx → State → Prop), s.Between m c ∧ (moved =
    (fun acc l t => (∀ i < 8, ∀ x y : Cplx, x = acc.getD i czero → y = l.getD i czero → y = ⟨max (-32768) (min 32767 (x.re / 2 ^ c.sh)), max
    (-32768) (min 32767 (x.im / 2 ^ c.sh))⟩) ∧ (bitAt (t.core m).st 7 = true ↔ bitAt c.st 7 = true ∨ ∃ x ∈ acc, x.re / 2 ^ c.sh < -32768 ∨ 32767 <
    x.re / 2 ^ c.sh ∨ x.im / 2 ^ c.sh < -32768 ∨ 32767 < x.im / 2 ^ c.sh))) ∧ (c.getAcc (g.reg.toNat % 4)).length = 8 ∧ 0x10000 ≤ c.getP g.pn.toNat
    % 0x40000) :=
  ⟨⟨coreUp someCore, 47, someCore, ⟨5, 0, 0, 3, 0⟩, ⟨3, 1, 0⟩, _, between (by decide +kernel), rfl, by decide +kernel⟩,
   ⟨coreUp someCore, 47, someCore, ⟨5, 0, 0, 3, 0⟩, ⟨3, 1, 0⟩, _, between (by decide +kernel), rfl, by decide +kernel, by decide +kernel⟩⟩

/-- States and operands that meet the premises of `MasonsLoadAndStore`, clause by clause. -/
theorem premises_MasonsLoadAndStore :
    (∃ (s : State) (m : Nat) (c : MasonCore) (f : LFormat) (put : Bool → MasonDest → State), s.Between m c ∧ s.mem.upsets = [] ∧ put = (fun circ d
    => s.setCore m { c.stepped.setP f.pn.toNat (c.postModify circ f.pn.toNat (incOf f)) with flight := [⟨c.cycle + 3, d⟩] }) ∧ s.shelfPoison m
    (c.at_ f 32) 32 = none ∧ f.pn.toNat ≤ 7)
    ∧ (∃ (s : State) (m : Nat) (c : MasonCore) (f : LFormat) (put : Bool → MasonDest → State), s.Between m c ∧ s.mem.upsets = [] ∧ put = (fun circ d
    => s.setCore m { c.stepped.setP f.pn.toNat (c.postModify circ f.pn.toNat (incOf f)) with flight := [⟨c.cycle + 3, d⟩] }) ∧ s.shelfPoison m
    (c.at_ f 4) 4 = none ∧ f.pn.toNat ≤ 7)
    ∧ (∃ (s : State) (m : Nat) (c : MasonCore) (f : LFormat) (put : Bool → MasonDest → State), s.Between m c ∧ s.mem.upsets = [] ∧ put = (fun circ d
    => s.setCore m { c.stepped.setP f.pn.toNat (c.postModify circ f.pn.toNat (incOf f)) with flight := [⟨c.cycle + 3, d⟩] }) ∧ s.shelfPoison m
    (c.at_ f 16) 80 = none)
    ∧ (∃ (s : State) (m : Nat) (c : MasonCore) (f : LFormat) (put : Bool → MasonDest → State), s.Between m c ∧ s.mem.upsets = [] ∧ put = (fun circ d
    => s.setCore m { c.stepped.setP f.pn.toNat (c.postModify circ f.pn.toNat (incOf f)) with flight := [⟨c.cycle + 3, d⟩] }) ∧ ∃ x : Nat,
    s.shelfPoison m (c.at_ f 32) 32 = some x)
    ∧ (∃ (s : State) (m : Nat) (c : MasonCore) (f : LFormat) (next : Bool → MasonCore), s.Between m c ∧ next = (fun circ => c.stepped.setP
    f.pn.toNat (c.postModify circ f.pn.toNat (incOf f))) ∧ 0x10000 ≤ c.getP f.pn.toNat % 0x40000 ∧ (c.getV f.reg.toNat).length = 8 ∧ f.pn.toNat ≤ 7)
    ∧ (∃ (s : State) (m : Nat) (c : MasonCore) (f : LFormat) (next : Bool → MasonCore), s.Between m c ∧ next = (fun circ => c.stepped.setP
    f.pn.toNat (c.postModify circ f.pn.toNat (incOf f))) ∧ 0x10000 ≤ c.getP f.pn.toNat % 0x40000 ∧ (c.getAcc (f.reg.toNat % 4)).length = 8 ∧ c.at_ f
    16 + 80 ≤ 0x40000)
    ∧ (∃ (s : State) (m : Nat) (c : MasonCore) (f : LFormat) (next : Bool → MasonCore), s.Between m c ∧ next = (fun circ => c.stepped.setP
    f.pn.toNat (c.postModify circ f.pn.toNat (incOf f))) ∧ ∃ (x : ScaledMove) (t : State), 0x10000 ≤ c.getP f.pn.toNat % 0x40000 ∧ x = c.scaledMove
    (f.reg.toNat % 4) ∧ x.lanes.length = 8 ∧ t = (if x.up && decide (c.sh < 39) then s.bump Ix.MasonScaleEvents (m + 1) else s) ∧ f.pn.toNat ≤ 7)
    ∧ (∃ (s : State) (m : Nat) (c : MasonCore) (f : LFormat) (next : Bool → MasonCore), s.Between m c ∧ next = (fun circ => c.stepped.setP
    f.pn.toNat (c.postModify circ f.pn.toNat (incOf f))) ∧ c.getP f.pn.toNat % 0x40000 < 0x10000) :=
  ⟨⟨coreUp someCore, 47, someCore, ⟨31, 7, 0xFFFFF⟩, _, between (by decide +kernel), by decide +kernel, rfl, by decide +kernel, by decide +kernel⟩,
   ⟨coreUp someCore, 47, someCore, ⟨31, 7, 4⟩, _, between (by decide +kernel), by decide +kernel, rfl, by decide +kernel, by decide +kernel⟩,
   ⟨coreUp someCore, 47, someCore, ⟨3, 1, 0⟩, _, between (by decide +kernel), by decide +kernel, rfl, by decide +kernel⟩,
   ⟨{ coreUp someCore with mem := { poison := [shelfBase 47 + 0x3FFE4] } }, 47, someCore, ⟨0, 1, 0⟩, _, between (by decide +kernel),
   by decide +kernel, rfl, 0x3FFE4, by decide +kernel⟩,
   ⟨coreUp someCore, 47, someCore, ⟨31, 1, 32⟩, _, between (by decide +kernel), rfl, by decide +kernel, by decide +kernel, by decide +kernel⟩,
   ⟨coreUp { someCore with p := [(1, 0x3FFB0)] }, 47, { someCore with p := [(1, 0x3FFB0)] }, ⟨3, 1, 0⟩, _, between (by decide +kernel), rfl,
   by decide +kernel, by decide +kernel, by decide +kernel⟩,
   ⟨coreUp someCore, 47, someCore, ⟨31, 1, 32⟩, _, between (by decide +kernel), rfl, _, _, by decide +kernel, rfl, by decide +kernel, rfl,
   by decide +kernel⟩,
   ⟨coreUp someCore, 47, someCore, ⟨0, 0, 0⟩, _, between (by decide +kernel), rfl, by decide +kernel⟩⟩

/-- States and operands that meet the premises of `MasonFlowAndTransfers`, clause by clause. -/
theorem premises_MasonFlowAndTransfers_1 :
    (∃ (s : State) (m : Nat) (c : MasonCore) (f : CFormat), s.Between m c ∧ ∃ count : Nat, f.pd.toNat ≤ 1 ∧ count = c.getP f.pa.toNat % 2 ^ 16)
    ∧ (∃ (s : State) (m : Nat) (c : MasonCore) (f : CFormat), s.Between m c ∧ ∃ count : Nat, f.pd.toNat ≤ 1 ∧ count = f.imm.toNat / 2 ^ 12)
    ∧ (∃ (s : State) (m : Nat) (c : MasonCore) (f : CFormat), s.Between m c ∧ condition f.pd.toNat (c.pInt f.pa.toNat) = some true)
    ∧ (∃ (s : State) (m : Nat) (c : MasonCore) (f : CFormat), s.Between m c ∧ condition f.pd.toNat (c.pInt f.pa.toNat) = some false)
    ∧ (∃ (s : State) (m : Nat) (c : MasonCore) (f : CFormat), s.Between m c ∧ condition f.pd.toNat (c.pInt f.pa.toNat) = none)
    ∧ (∃ (s : State) (m : Nat) (c : MasonCore) (f : CFormat), s.Between m c ∧ c.getP f.pa.toNat % 2 ^ 32 = 0)
    ∧ (∃ (s : State) (m : Nat) (c : MasonCore) (f : CFormat), s.Between m c ∧ c.getP f.pa.toNat % 2 ^ 32 ≠ 0)
    ∧ (∃ (s : State) (m : Nat) (c : MasonCore) (f : CFormat), s.Between m c ∧ xferBad c f.imm.toNat = false ∧ s.mem.upsets = [] ∧ s.shelfPoison m
    (c.getP f.pd.toNat % 0x40000 / 4 * 4) f.imm.toNat = none) :=
  ⟨⟨coreUp someCore, 47, someCore, ⟨1, 1, 0⟩, between (by decide +kernel), _, by decide +kernel, rfl⟩,
   ⟨coreUp someCore, 47, someCore, ⟨1, 1, 0xFFFFFF⟩, between (by decide +kernel), _, by decide +kernel, rfl⟩,
   ⟨coreUp someCore, 47, someCore, ⟨4, 1, 0⟩, between (by decide +kernel), by decide +kernel⟩,
   ⟨coreUp someCore, 47, someCore, ⟨3, 1, 0⟩, between (by decide +kernel), by decide +kernel⟩,
   ⟨coreUp someCore, 47, someCore, ⟨5, 1, 0⟩, between (by decide +kernel), by decide +kernel⟩,
   ⟨coreUp someCore, 47, someCore, ⟨0, 0, 0⟩, between (by decide +kernel), by decide +kernel⟩,
   ⟨coreUp someCore, 47, someCore, ⟨0, 1, 0⟩, between (by decide +kernel), by decide +kernel⟩,
   ⟨coreUp someCore, 47, someCore, ⟨1, 2, 65536⟩, between (by decide +kernel), by decide +kernel, by decide +kernel, by decide +kernel⟩⟩

/-- States and operands that meet the premises of `MasonFlowAndTransfers`, clause by clause. -/
theorem premises_MasonFlowAndTransfers_2 :
    (∃ (s : State) (m : Nat) (c : MasonCore) (f : CFormat), s.Between m c ∧ xferBad c f.imm.toNat = true)
    ∧ (∃ (s : State) (m : Nat) (c : MasonCore) (f : CFormat), s.Between m c ∧ c.xfers.length ≤ f.imm.toNat % 16 ∧ c.failed = 0)
    ∧ (∃ (s : State) (m : Nat) (c : MasonCore) (f : CFormat), s.Between m c ∧ c.xfers.length ≤ f.imm.toNat % 16 ∧ c.failed ≠ 0)
    ∧ (∃ (s : State) (m : Nat) (c : MasonCore) (f : CFormat), s.Between m c ∧ f.imm.toNat % 16 < c.xfers.length)
    ∧ (∃ (s : State) (m : Nat) (c : MasonCore) (f : CFormat), s.Between m c ∧ ∃ (r ticks : Nat), r = c.getP f.pa.toNat % 2 ^ 16 ∧ ticks =
    f.imm.toNat % 2 ^ 16 ∧ resourceOk r = true ∧ ticks ≠ 0 ∧ (r / 256 = 1 → s.dmaReserved (r % 256) = false) ∧ lockOf r = none ∧ s.leaseOf r = none)
    ∧ (∃ (s : State) (m : Nat) (c : MasonCore) (f : CFormat), s.Between m c ∧ ∃ (r ticks : Nat), r = c.getP f.pa.toNat % 2 ^ 16 ∧ ticks =
    f.imm.toNat % 2 ^ 16 ∧ resourceOk r = true ∧ ticks ≠ 0 ∧ (r / 256 = 1 → s.dmaReserved (r % 256) = false) ∧ lockOf r = none ∧ ∃ l : Lease,
    s.leaseOf r = some l ∧ l.owner ≠ s.taskOwner c)
    ∧ (∃ (s : State) (m : Nat) (c : MasonCore) (f : CFormat), s.Between m c ∧ ∃ (r : Nat) (l : Lease), r = c.getP f.pa.toNat % 2 ^ 16 ∧ lockOf r =
    none ∧ s.leaseOf r = some l ∧ l.owner = s.taskOwner c) :=
  ⟨⟨coreUp someCore, 47, someCore, ⟨1, 2, 65540⟩, between (by decide +kernel), by decide +kernel⟩,
   ⟨coreUp someCore, 47, someCore, ⟨0, 0, 0⟩, between (by decide +kernel), by decide +kernel, by decide +kernel⟩,
   ⟨coreUp { someCore with failed := 1 }, 47, { someCore with failed := 1 }, ⟨0, 0, 0⟩, between (by decide +kernel), by decide +kernel,
   by decide +kernel⟩,
   ⟨coreUp { someCore with xfers := [⟨false, 0, 0, 4⟩] }, 47, { someCore with xfers := [⟨false, 0, 0, 4⟩] }, ⟨0, 0, 0⟩, between (by decide +kernel),
   by decide +kernel⟩,
   ⟨coreUp someCore, 47, someCore, ⟨0, 2, 0xFFFF⟩, between (by decide +kernel), _, _, rfl, rfl, by decide +kernel, by decide +kernel,
   by decide +kernel, by decide +kernel, by decide +kernel⟩,
   ⟨{ coreUp someCore with leases := [⟨0x107, 0, none, none⟩] }, 47, someCore, ⟨0, 2, 1⟩, between (by decide +kernel), _, _, rfl, rfl,
   by decide +kernel, by decide +kernel, by decide +kernel, by decide +kernel, ⟨0x107, 0, none, none⟩, by decide +kernel, by decide +kernel⟩,
   ⟨{ coreUp someCore with leases := [⟨0x107, (up 4).ownerField 3 1, none, none⟩] }, 47, someCore, ⟨0, 2, 1⟩, between (by decide +kernel), _,
   ⟨0x107, (up 4).ownerField 3 1, none, none⟩, rfl, by decide +kernel, by decide +kernel, by decide +kernel⟩⟩

/-- States and operands that meet the premises of `MasonTasksAreKept`, clause by clause. -/
theorem premises_MasonTasksAreKept_1 :
    (∃ (s : State) (m : Nat) (c : MasonCore) (t : MasonTask), s.Between m c ∧ c.task = some t ∧ t.irq ≠ 0 ∧ bitAt c.ictl 15 = true ∧ bitsOf c.ictl
    10 8 &&& c.ictl % 8 ≠ 0)
    ∧ (∃ (s : State) (m : Nat) (c : MasonCore), s.core m = c ∧ c.task ≠ none ∧ c.timed = false ∧ c.tcmp ≤ c.cycle)
    ∧ (∃ (s u h : State) (m i d : Nat) (x : MasonXfer), (s.core m).xfers[i]? = some x ∧ accessDomain x.addr = some d ∧ s.needDomain d = (true, u) ∧
    u.slowHold x.addr x.len = (false, h))
    ∧ (∃ (s : State) (m i : Nat) (c : MasonCore) (x : MasonXfer), s.core m = c ∧ c.xfers[i]? = some x ∧ accessDomain x.addr = none ∧ s.mem.codeHits
    = [])
    ∧ (∃ (s : State) (m : Nat) (t : MasonTask), (s.core m).task = some t ∧ t.budget < (s.core m).cycle ∧ s.leases = [] ∧ t.rerunOf = none ∧ ∃ k :
    Nat, s.idleSpare = some k)
    ∧ (∃ (s : State) (m : Nat) (t : MasonTask), (s.core m).task = some t ∧ t.budget < (s.core m).cycle ∧ s.leases = [] ∧ t.rerunOf = none ∧
    s.idleSpare = none)
    ∧ (∃ (s : State) (m : Nat) (t : MasonTask), (s.core m).task = some t ∧ t.rerunOf = none ∧ ∃ k : Nat, s.idleSpare = some k)
    ∧ (∃ (s : State) (m : Nat) (t : MasonTask), (s.core m).task = some t ∧ t.rerunOf = none ∧ s.idleSpare = none) :=
  ⟨⟨coreUp ({ someCore with task := some ⟨1, 0, 1, 16, 0, 64, 0, 0, 0, 0, [], none⟩, ictl := 0x8101 }), 47,
   { someCore with task := some ⟨1, 0, 1, 16, 0, 64, 0, 0, 0, 0, [], none⟩, ictl := 0x8101 }, ⟨1, 0, 1, 16, 0, 64, 0, 0, 0, 0, [], none⟩, between
   (by decide +kernel), by decide +kernel, by decide +kernel, by decide +kernel, by decide +kernel⟩,
   ⟨coreUp someCore, 47, someCore, by decide +kernel, by decide +kernel, by decide +kernel, by decide +kernel⟩,
   ⟨coreUp ({ someCore with xfers := [⟨true, 0, 0x100, 4⟩] }), ((coreUp ({ someCore with xfers := [⟨true, 0, 0x100, 4⟩] })).needDomain 5).2,
   (((coreUp ({ someCore with xfers := [⟨true, 0, 0x100, 4⟩] })).needDomain 5).2.slowHold 0x100 4).2, 47, 0, 5, ⟨true, 0, 0x100, 4⟩,
   by decide +kernel, by decide +kernel, pairOf (by decide +kernel), pairOf (by decide +kernel)⟩,
   ⟨coreUp ({ someCore with xfers := [⟨false, 0, 0x2000000000, 4⟩] }), 47, 0, { someCore with xfers := [⟨false, 0, 0x2000000000, 4⟩] }, ⟨false, 0,
   0x2000000000, 4⟩, by decide +kernel, by decide +kernel, by decide +kernel, by decide +kernel⟩,
   ⟨coreUp ({ someCore with task := some ⟨1, 0, 1, 16, 0, 0, 0, 0, 100, 0, [], none⟩, cycle := 101 }), 47, ⟨1, 0, 1, 16, 0, 0, 0, 0, 100, 0, [],
   none⟩, by decide +kernel, by decide +kernel, by decide +kernel, by decide +kernel, (coreUp
   ({ someCore with task := some ⟨1, 0, 1, 16, 0, 0, 0, 0, 100, 0, [], none⟩, cycle := 101 })).idleSpare.getD 0, by decide +kernel⟩,
   ⟨(((coreUp ({ someCore with task := some ⟨1, 0, 1, 16, 0, 0, 0, 0, 100, 0, [], none⟩, cycle := 101 })).wr Ix.BlockResetMason 0 (2 ^ 48 - 1))),
   47, ⟨1, 0, 1, 16, 0, 0, 0, 0, 100, 0, [], none⟩, by decide +kernel, by decide +kernel, by decide +kernel, by decide +kernel, by decide +kernel⟩,
   ⟨coreUp ({ someCore with task := some ⟨1, 0, 1, 16, 0, 0, 0, 0, 100, 0, [], none⟩, cycle := 101 }), 47, ⟨1, 0, 1, 16, 0, 0, 0, 0, 100, 0, [],
   none⟩, by decide +kernel, by decide +kernel, (coreUp
   ({ someCore with task := some ⟨1, 0, 1, 16, 0, 0, 0, 0, 100, 0, [], none⟩, cycle := 101 })).idleSpare.getD 0, by decide +kernel⟩,
   ⟨(((coreUp ({ someCore with task := some ⟨1, 0, 1, 16, 0, 0, 0, 0, 100, 0, [], none⟩, cycle := 101 })).wr Ix.BlockResetMason 0 (2 ^ 48 - 1))),
   47, ⟨1, 0, 1, 16, 0, 0, 0, 0, 100, 0, [], none⟩, by decide +kernel, by decide +kernel, by decide +kernel⟩⟩

/-- States and operands that meet the premises of `MasonTasksAreKept`, clause by clause. -/
theorem premises_MasonTasksAreKept_2 :
    (∃ (s : State) (m : Nat) (t : MasonTask), (s.core m).task = some t ∧ t.budget < (s.core m).cycle ∧ s.leases = [] ∧ t.rerunOf ≠ none)
    ∧ (∃ (s n : State) (w : Caller) (m : Nat), n = s.metOn w.port 4 ∧ (s.met w.port).Serves 4 ∧ s.Orders w Ix.MasonRestore 0 m ∧ m < 48 ∧
    n.isRetired m = true ∧ m ∉ n.mason.selftest)
    ∧ (∃ (s u : State) (m : Nat), m ∈ s.mason.selftest ∧ u = { s with mason := { s.mason with selftest := s.mason.selftest.filter (· != m) } }) :=
  ⟨⟨coreUp ({ someCore with task := some ⟨1, 0, 1, 16, 0, 0, 0, 0, 100, 0, [], some (3, 0)⟩, cycle := 101 }), 47, ⟨1, 0, 1, 16, 0, 0, 0, 0, 100, 0,
   [], some (3, 0)⟩, by decide +kernel, by decide +kernel, by decide +kernel, by decide +kernel⟩,
   ⟨(up 4).wrBit Ix.MasonRetiredMask 0 47 true, _, host, 47, rfl, serves (by decide +kernel), orders (by decide +kernel), by decide +kernel,
   by decide +kernel, by decide +kernel⟩,
   ⟨{ up 4 with mason := { selftest := [47] } }, _, 47, by decide +kernel, rfl⟩⟩

/-- States and operands that meet the premises of `KernelsAndUserJobs`, clause by clause. -/
theorem premises_KernelsAndUserJobs :
    (∃ (s n u : State) (w : Caller) (l : List Byte) (slot : Nat) (ok : Bool), n = s.metOn w.port 5 ∧ (s.met w.port).Serves 5 ∧ s.OrdersRecord w
    Ix.MasonKernelLoad l ∧ imageBad l = none ∧ slot = fieldLE l 4 1 ∧ n.slotUsed slot = false ∧ ok = n.signedBy (fieldLE l 6 1) (Config.sm3 (l.take
    (l.length - 64))) (l.drop (l.length - 64)) ∧ u = { n with mason := { n.mason with kernels := tins slot l n.mason.kernels } })
    ∧ (∃ (s n : State) (w : Caller) (slot : Nat), n = s.metOn w.port 5 ∧ (s.met w.port).Serves 5 ∧ s.Orders w Ix.MasonKernelUnload 0 slot ∧ 16 ≤
    slot ∧ slot < 32 ∧ n.slotUsed slot = false)
    ∧ (∃ (s n : State) (w : Caller) (l : List Byte) (job start : Nat), n = s.metOn w.port 4 ∧ (s.met w.port).Serves 4 ∧ s.OrdersRecord w
    Ix.MasonJobSubmit l ∧ job = fieldLE l 0 2 ∧ start = epochOfEntry (fieldLE l 8 8) ∧ n.mode ≠ 0 ∧ n.kernel (fieldLE l 2 1) ≠ [] ∧ n.userJobActive
    job = false ∧ n.userJobs.length < 16 ∧ n.jobBad l = none ∧ epLe n.earliestCommit start = true ∧ n.budgetFits l = true)
    ∧ (∃ (s m : State) (w : Caller) (job : Nat), m = s.met w.port ∧ s.Orders w Ix.MasonJobCancel 0 job ∧ m.userJobActive job = true)
    ∧ (∃ (s : State) (r e : Nat) (l : Lease), s.leaseOf r = some l ∧ l.expiry = some e ∧ epLe e s.epoch = true) :=
  ⟨⟨up 4, _, _, host, kernelImage, 16, _, rfl, serves (by decide +kernel), ordersRecord (by decide +kernel), by decide +kernel, by decide +kernel,
   by decide +kernel, rfl, rfl⟩,
   ⟨up 4, _, host, 31, rfl, serves (by decide +kernel), orders (by decide +kernel), by decide +kernel, by decide +kernel, by decide +kernel⟩,
   ⟨{ (up 4).wr Ix.MasonUserCores 0 1 with mason := { kernels := [(16, kernelImage)] } }, _, host, userJob, 7, _, rfl, serves (by decide +kernel),
   ordersRecord (by decide +kernel), by decide +kernel, rfl, by decide +kernel, by decide +kernel, by decide +kernel, by decide +kernel,
   by decide +kernel, by decide +kernel, by decide +kernel⟩,
   ⟨{ up 4 with userJobs := [⟨7, userJob, 0, 0, false, 0, 0, 0, 0, 0, false⟩] }, _, host, 7, rfl, orders (by decide +kernel), by decide +kernel⟩,
   ⟨{ up 4 with leases := [⟨0x107, 0, some 0, none⟩] }, 0x107, 0, ⟨0x107, 0, some 0, none⟩, by decide +kernel, by decide +kernel, by decide +kernel⟩⟩

/-- States and operands that meet the premises of `LinkPortsAndLanes`, clause by clause. -/
theorem premises_LinkPortsAndLanes_1 :
    (∃ (s : State) (p found : Nat), s.linkState p = 1 ∧ (s.port p).since + usec 100 ≤ s.now)
    ∧ (∃ (s t : State) (p : Nat), s.linkState p = 2 ∧ (s.port p).since + usec 20 ≤ s.now ∧ t = s.enterPort p 3)
    ∧ (∃ (s t : State) (p : Nat), s.linkState p = 3 ∧ (p = 0 ∨ s.link.fixed = true) ∧ 8 ≤ (s.lanesInService p).length ∧ t = s.setPort p
    { s.port p with readySeen := true, readySent := true })
    ∧ (∃ (s : State) (p k skew : Nat), s.linkState p = 3 ∧ p < 2 ∧ k < 9 ∧ skew < 256 ∧ s.lanesInService p = [] ∧ (s.port p).readySent = false)
    ∧ (∃ (s t : State) (p : Nat) (l : List Byte), s.linkState p = 4 ∧ t = s.setDom Ix.LinkFarCaps (p + 1) (l.take 64) ∧ l.length = 64 ∧ ∃ reason :
    Nat, t.capsOutcome p l = .error reason)
    ∧ (∃ (s t : State) (p : Nat) (l : List Byte), s.linkState p = 4 ∧ t = s.setDom Ix.LinkFarCaps (p + 1) (l.take 64) ∧ l.length = 64 ∧ ∃ x : Nat ×
    Nat, t.capsOutcome p l = .ok x)
    ∧ (∃ (s : State) (p since : Nat), p < 2 ∧ s.linkState p = 4 ∧ (s.port p).ackAt = some since ∧ (s.port p).ackSeen = true ∧ since + 16 * bondTime
    (s.rd Ix.LinkRateInForce (p + 1)) ≤ s.now)
    ∧ (∃ (s : State) (p st t : Nat), s.linkState p = st ∧ (st = 2 ∧ t = usec 500 ∨ st = 3 ∧ t = usec 700 ∨ st = 4 ∧ t = usec 500) ∧ (s.port p).since
    + t ≤ s.now) :=
  ⟨⟨{ linked 1 1 {} with now := usec 100 }, 1, 0x1FF, by decide +kernel, by decide +kernel⟩,
   ⟨{ linked 0 2 {} with now := usec 20 }, _, 0, by decide +kernel, by decide +kernel, rfl⟩,
   ⟨linked 0 3 {}, _, 0, by decide +kernel, by decide +kernel, by decide +kernel, rfl⟩,
   ⟨(up 4).wr Ix.LinkState 2 3, 1, 8, 255, by decide +kernel, by decide +kernel, by decide +kernel, by decide +kernel, by decide +kernel,
   by decide +kernel⟩,
   ⟨linked 0 4 {}, _, 0, [0, 2, 0, 0, 1, 0, 0, 0] ++ List.replicate 56 0, by decide +kernel, rfl, by decide +kernel, 3, by decide +kernel⟩,
   ⟨linked 0 4 {}, _, 0, [0, 2, 0, 0, 0, 0, 0, 0] ++ List.replicate 56 0, by decide +kernel, rfl, by decide +kernel, (0, 1), got
   (by decide +kernel)⟩,
   ⟨{ linked 1 4 { ackAt := some 0, ackSeen := true } with now := msec 1 }, 1, 0, by decide +kernel, by decide +kernel, by decide +kernel,
   by decide +kernel, by decide +kernel⟩,
   ⟨{ linked 1 3 {} with now := usec 700 }, 1, 3, usec 700, by decide +kernel, by decide +kernel, by decide +kernel⟩⟩

/-- States and operands that meet the premises of `LinkPortsAndLanes`, clause by clause. -/
theorem premises_LinkPortsAndLanes_2 :
    (∃ (s : State) (p : Nat), s.linkState p = 6 ∧ (s.port p).since + msec 10 ≤ s.now)
    ∧ (∃ (s t u : State), s.linkState 0 = 5 ∧ t = s.portBack 0 ∧ u =
    { t with link := { t.link with ready := tdel 0 t.link.ready, mems := t.link.mems.filter (fun m => m.port != 0) } })
    ∧ (∃ (s m : State) (w : Caller) (p : Nat), m = s.met w.port ∧ p < 2 ∧ s.Orders w Ix.LinkRetrain (p + 1) 1)
    ∧ (∃ (s m : State) (w : Caller) (p : Nat), m = s.met w.port ∧ p < 2 ∧ s.Orders w Ix.LinkEnable (p + 1) 0)
    ∧ (∃ (s m : State) (w : Caller) (p : Nat), m = s.met w.port ∧ p < 2 ∧ s.Orders w Ix.LinkEnable (p + 1) 1 ∧ m.linkState p = 0 ∧ (m.wr
    Ix.LinkEnable (p + 1) 1).portMayRun p = true)
    ∧ (∃ (s t : State) (p k : Nat), s.linkState p = 5 ∧ s.rd Ix.LaneRejoin 0 = 1 ∧ s.rd Ix.LaneState (laneIx p k) = 3 ∧ 4096 ≤ (tget {} k (s.port
    p).lanes).good ∧ t = s.setPort p
    { s.port p with lanes := tins k { (tget {} k (s.port p).lanes) with good := 0, crcAt := [], lostHeaders := 0 } (s.port p).lanes })
    ∧ (∃ (s : State) (p : Nat), s.linkState p = 5)
    ∧ (∃ (s : State) (d : Nat), s.linkState 1 = 5 ∧ s.linkState 0 ≠ 5 ∧ 1 ≤ d ∧ d ≤ 4 ∧ s.pos = 0 ∧ s.rd Ix.LinkArraySize 0 ≠ d + 1) :=
  ⟨⟨{ linked 1 6 {} with now := msec 10 }, 1, by decide +kernel, by decide +kernel⟩,
   ⟨linked 0 5 {}, _, _, by decide +kernel, rfl, rfl⟩,
   ⟨linked 1 5 {}, _, host, 1, rfl, by decide +kernel, orders (by decide +kernel)⟩,
   ⟨linked 1 5 {}, _, host, 1, rfl, by decide +kernel, orders (by decide +kernel)⟩,
   ⟨up 4, _, host, 1, rfl, by decide +kernel, orders (by decide +kernel), by decide +kernel, by decide +kernel⟩,
   ⟨((linked 1 5 { lanes := [(8, { good := 4096 })] }).wr Ix.LaneRejoin 0 1).wr Ix.LaneState (laneIx 1 8) 3, _, 1, 8, by decide +kernel,
   by decide +kernel, by decide +kernel, by decide +kernel, rfl⟩,
   ⟨linked 1 5 {}, 1, by decide +kernel⟩,
   ⟨linked 1 5 {}, 3, by decide +kernel, by decide +kernel, by decide +kernel, by decide +kernel, by decide +kernel, by decide +kernel⟩⟩

/-- States and operands that meet the premises of `ActivePortsStartAfresh`. -/
theorem premises_ActivePortsStartAfresh :
    ∃ (s t : State) (p : Nat) (caps : List Byte), p < 2 ∧ caps = s.domVal Ix.LinkFarCaps (p + 1) ∧ t = s.linkUp p ∧ ∃ pos role : Nat, p = 0 ∧
    s.link.fixed = false ∧ s.capsOutcome 0 caps = .ok (pos, role) :=
  ⟨(linked 0 4 {}).setDom Ix.LinkFarCaps 1 ([0, 2, 0, 0, 2, 0, 1, 0] ++ List.replicate 56 0), _, 0, _, by decide +kernel, rfl, rfl, 2, 2,
  by decide +kernel, by decide +kernel, got (by decide +kernel)⟩

/-- States and operands that meet the premises of `PacketsAreRoutedOrDropped`, clause by clause. -/
theorem premises_PacketsAreRoutedOrDropped_1 :
    (∃ (s : State) (h : PacketHead) (l : List Byte), s.Hears h 1 (ceilDiv l.length 4) ∧ h.port = 0)
    ∧ (∃ (s : State) (h : PacketHead) (l : List Byte), s.Hears h 2 (ceilDiv l.length 4) ∧ h.port = 1)
    ∧ (∃ (s : State) (h : PacketHead) (l : List Byte), s.Hears h 3 (ceilDiv l.length 4) ∧ h.port = 1)
    ∧ (∃ (s : State) (h : PacketHead) (l : List Byte), s.Hears h 4 (ceilDiv l.length 4))
    ∧ (∃ (s : State) (h : PacketHead) (l : List Byte), s.Hears h 5 (ceilDiv l.length 4) ∧ h.port = 0 ∧ h.pos % 4 = s.pos)
    ∧ (∃ (s : State) (h : PacketHead) (l : List Byte), s.Hears h 5 (ceilDiv l.length 4) ∧ h.port = 0 ∧ s.pos ≠ 0 ∧ s.pos < h.pos % 4 ∧
    s.reset_.bootDone = true)
    ∧ (∃ (s : State) (h : PacketHead) (l : List Byte), s.Hears h 6 (ceilDiv l.length 4) ∧ h.port = 1 ∧ s.pos ≠ 0)
    ∧ (∃ (s t : State) (h : PacketHead) (l : List Byte) (f : Forwarded), s.Hears h 6 (ceilDiv l.length 4) ∧ h.port = 1 ∧ s.pos = 0 ∧
    s.host.forwarded = [f] ∧ f.request.tag = (parseResponse 1 l).tag ∧ f.request.pos = h.pos % 4 ∧ f.request.port = 1 ∧ t = s.heard h 6 (ceilDiv
    l.length 4)) :=
  ⟨⟨linked 0 5 {}, from_ 0 0, [1, 2, 3], hears (by decide +kernel), by decide +kernel⟩,
   ⟨linked 1 5 {}, from_ 1 3, [1, 2, 3], hears (by decide +kernel), by decide +kernel⟩,
   ⟨linked 1 5 {}, from_ 1 3, [1, 2, 3], hears (by decide +kernel), by decide +kernel⟩,
   ⟨linked 0 5 {}, from_ 0 0, [1, 2, 3], hears (by decide +kernel)⟩,
   ⟨linked 0 5 {}, from_ 0 0, [1, 2, 3], hears (by decide +kernel), by decide +kernel, by decide +kernel⟩,
   ⟨{ linked 0 5 {} with pos := 1 }, from_ 0 3, [1, 2, 3], hears (by decide +kernel), by decide +kernel, by decide +kernel, by decide +kernel,
   by decide +kernel⟩,
   ⟨{ linked 1 5 {} with pos := 1 }, from_ 1 3, [1, 2, 3], hears (by decide +kernel), by decide +kernel, by decide +kernel⟩,
   ⟨{ linked 1 5 {} with host := { forwarded := [⟨{ ask 0 0x1100 0 with tag := (parseResponse 1 [0, 0, 0, 0]).tag, pos := 3 }, 0⟩] } }, _, from_ 1
   3, [0, 0, 0, 0], ⟨{ ask 0 0x1100 0 with tag := (parseResponse 1 [0, 0, 0, 0]).tag, pos := 3 }, 0⟩, hears (by decide +kernel), by decide +kernel,
   by decide +kernel, by decide +kernel, by decide +kernel, by decide +kernel, by decide +kernel, rfl⟩⟩

/-- States and operands that meet the premises of `PacketsAreRoutedOrDropped`, clause by clause. -/
theorem premises_PacketsAreRoutedOrDropped_2 :
    (∃ (s : State) (h : PacketHead) (l : List Byte), s.Hears h 7 (ceilDiv l.length 4) ∧ h.port = 1)
    ∧ (∃ (s : State) (h : PacketHead) (l : List Byte), s.Hears h 10 (ceilDiv l.length 4) ∧ h.port = 1)
    ∧ (∃ (s : State) (h : PacketHead) (l : List Byte), s.Hears h 9 (ceilDiv l.length 4) ∧ h.port = 1 ∧ 2 < fieldLE l 3 1)
    ∧ (∃ (s : State) (h : PacketHead) (typ : Nat) (l : List Byte), s.linkState h.port = 5 ∧ 12 ≤ typ)
    ∧ (∃ (s : State) (h : PacketHead) (l : List Byte), s.linkState h.port = 5 ∧ 8198 < ceilDiv l.length 4)
    ∧ (∃ (s : State) (h : PacketHead) (l : List Byte), s.linkState h.port = 5 ∧ ceilDiv l.length 4 ≤ 4094 ∧ s.tagOk (s.completeTag h.etag) = false)
    ∧ (∃ (s : State) (h : PacketHead) (l : List Byte), s.Hears h 7 (ceilDiv l.length 4) ∧ h.port = 0) :=
  ⟨⟨linked 1 5 {}, from_ 1 3, [1, 2, 3], hears (by decide +kernel), by decide +kernel⟩,
   ⟨linked 1 5 {}, from_ 1 3, [1, 2, 3], hears (by decide +kernel), by decide +kernel⟩,
   ⟨linked 1 5 {}, from_ 1 3, [0, 0, 0, 3], hears (by decide +kernel), by decide +kernel, by decide +kernel⟩,
   ⟨linked 1 5 {}, from_ 1 3, 12, [1], by decide +kernel, by decide +kernel⟩,
   ⟨linked 1 5 {}, from_ 1 3, List.replicate 32793 0, by decide +kernel, by decide +kernel⟩,
   ⟨linked 1 5 {}, ⟨1, 0, 14, 0⟩, [1], by decide +kernel, by decide +kernel, by decide +kernel⟩,
   ⟨linked 0 5 {}, from_ 0 3, [1], hears (by decide +kernel), by decide +kernel⟩⟩

/-- States and operands that meet the premises of `TimePacketsAct`, clause by clause. -/
theorem premises_TimePacketsAct :
    (∃ (s t : State) (h : PacketHead) (holdover : Bool) (offset : Nat), s.Hears h 8 2 ∧ h.port = 0 ∧ offset < 2 ^ 32 ∧ t = s.heard h 8 2)
    ∧ (∃ (s t : State) (h : PacketHead) (id : Nat), s.Hears h 8 2 ∧ id < 2 ^ 32 ∧ t = s.heard h 8 2)
    ∧ (∃ (s t : State) (h : PacketHead) (id turn : Nat) (d : Int) (l : List Int), s.Hears h 8 3 ∧ id < 2 ^ 32 ∧ turn < 2 ^ 32 ∧ t = s.heard h 8 3 ∧
    (t.port h.port).echoOut = some id ∧ (t.port h.port).echoDown = false ∧ d = (unitsPs ((s.now - (t.port h.port).echoSentAt : Nat) : Int) - (turn :
    Int)) / 2 + t.rdI 32 Ix.LinkDelayAdjust (h.port + 1) ∧ l = (((t.port h.port).delays ++ [d]).reverse.take 8).reverse)
    ∧ (∃ (s : State) (h : PacketHead) (ready : Bool), s.Hears h 8 2 ∧ h.port = 1 ∧ s.pos = 0)
    ∧ (∃ (s : State) (h : PacketHead) (go : Bool) (epoch : Nat), s.Hears h 8 4 ∧ h.port = 0 ∧ epoch < 2 ^ 36) :=
  ⟨⟨linked 0 5 {}, _, from_ 0 0, true, 2 ^ 32 - 1, hears (by decide +kernel), by decide +kernel, by decide +kernel, rfl⟩,
   ⟨linked 0 5 {}, _, from_ 0 0, 2 ^ 32 - 1, hears (by decide +kernel), by decide +kernel, rfl⟩,
   ⟨linked 1 5 { echoOut := some 5 }, _, from_ 1 0, 5, 2 ^ 32 - 1, _, _, hears (by decide +kernel), by decide +kernel, by decide +kernel, rfl,
   by decide +kernel, by decide +kernel, rfl, rfl⟩,
   ⟨linked 1 5 {}, from_ 1 2, true, hears (by decide +kernel), by decide +kernel, by decide +kernel⟩,
   ⟨linked 0 5 {}, from_ 0 2, false, 2 ^ 36 - 1, hears (by decide +kernel), by decide +kernel, by decide +kernel⟩⟩

/-- States and operands that meet the premises of `CreditsAreKept`, clause by clause. -/
theorem premises_CreditsAreKept :
    (∃ (s t : State) (h : PacketHead) (u : CreditUnits), s.Hears h 11 3 ∧ u.c1 < 65536 ∧ u.c2 < 65536 ∧ u.c3 < 65536 ∧ t = s.noteSeq h.port h.seq ∧
    ∃ v : PortSys, v = { t.port h.port with credit := [(1, u.c1), (2, u.c2), (3, u.c3)], held := false })
    ∧ (∃ (s t : State) (p since : Nat), s.linkState p = 5 ∧ (s.port p).waitAck = some since ∧ since + usec 10 ≤ s.now ∧ t = s.setPort p
    { s.port p with waitAck := some s.now })
    ∧ (∃ (s : State) (p : Nat), s.linkState p = 5 ∧ (∃ c ∈ (s.port p).owed, c.2 ≠ 0)) :=
  ⟨⟨linked 0 5 {}, _, from_ 0 2, ⟨65535, 0, 1⟩, hears (by decide +kernel), by decide +kernel, by decide +kernel, by decide +kernel, rfl, _, rfl⟩,
   ⟨{ linked 1 5 { waitAck := some 0 } with now := usec 10 }, _, 1, 0, by decide +kernel, by decide +kernel, by decide +kernel, rfl⟩,
   ⟨linked 1 5 { owed := [(1, 5)] }, 1, by decide +kernel, by decide +kernel⟩⟩

/-- States and operands that meet the premises of `PacketsStartByPrecedence`, clause by clause. -/
theorem premises_PacketsStartByPrecedence :
    (∃ (s t : State) (p : Nat) (k : OutPacket) (l : List OutPacket) (credit : Tab Nat), s.linkState p = 5 ∧ tget [] p s.link.ready = l ∧ (∀ x ∈ l,
    s.tooLarge p x = false) ∧ k ∈ l ∧ s.mayStart p k = true ∧ (∀ x ∈ l, s.mayStart p x = true → x = k ∨ precedence k.typ < precedence x.typ) ∧ k.typ
    ≠ 8 ∧ credit = (if packetClass k.typ = 0 then (s.port p).credit else tput 0 (packetClass k.typ) (tget 0 (packetClass k.typ) (s.port p).credit -
    packetUnits (ceilDiv k.payload.length 4)) (s.port p).credit) ∧ t = { s with link := { s.link with ready := tins p (l.erase k) s.link.ready } })
    ∧ (∃ (s t : State) (p chunk n a : Nat) (rest : List (Nat × Nat)), s.linkState p = 5 ∧ s.captureReady = (p, chunk) :: rest ∧ n = 4 * s.rd
    Ix.CaptureChunk (p + 1) ∧ a = captureRingBase p + chunk * n ∧ t = s.settle a n ∧ t.firstPoison a n = none)
    ∧ (∃ (s : State) (id : Nat), s.linkState 0 = 5 ∧ (s.port 0).echoAt + msec (s.rd Ix.EchoInterval 0) ≤ s.now ∧ s.farAnswers 0 = true ∧ (s.port
    0).echoOut = none ∧ (s.port 0).echoDown = false ∧ id = ((s.port 0).echoId + 1) % 2 ^ 32)
    ∧ (∃ (s : State) (f start lock : Nat), s.linkState 1 = 5 ∧ lock = s.rd Ix.TimeLockState 0 ∧ (lock = 2 ∨ lock = 3) ∧ s.tb.running = true ∧ f =
    (frameOf s.epoch + 1) % 67108864 ∧ start = s.tickOf (frameStart f) ∧ start ≤ s.now + usec 200 ∧ s.now < start ∧ s.link.frameSentFor ≠ some f) :=
  ⟨⟨{ linked 0 5 { credit := [(2, 5), (3, 5)] } with link := { (linked 0 5 { credit := [(2, 5), (3, 5)] }).link with ready := [(0, [⟨7, 0, 0, []⟩, ⟨10, 0, 0, []⟩])] }, farLimits := [(1, 9), (2, 9), (3, 9)] },
   _, 0, ⟨7, 0, 0, []⟩, [⟨7, 0, 0, []⟩, ⟨10, 0, 0, []⟩], _, by decide +kernel, by decide +kernel, by decide +kernel, by decide +kernel,
   by decide +kernel, by decide +kernel, by decide +kernel, rfl, rfl⟩,
   ⟨{ (linked 1 5 {}).wr Ix.CaptureChunk 2 256 with captureReady := [(1, 0)] }, _, 1, 0, _, _, [], by decide +kernel, by decide +kernel, rfl, rfl,
   rfl, by decide +kernel⟩,
   ⟨{ (linked 0 5 {}).setDom Ix.LinkFarCaps 1 (List.replicate 44 0 ++ [1] ++ List.replicate 19 0) with now := msec 1000 }, _, by decide +kernel,
   by decide +kernel, by decide +kernel, by decide +kernel, by decide +kernel, rfl⟩,
   ⟨{ (linked 1 5 {}).wr Ix.TimeLockState 0 2 with epoch := mkEpoch 0 0 19 13 }, 1, _, _, by decide +kernel, rfl, by decide +kernel,
   by decide +kernel, by decide +kernel, rfl, by decide +kernel, by decide +kernel, by decide +kernel⟩⟩

/-- States and operands that meet the premises of `MemoryIsReachedOverTheLink`, clause by clause. -/
theorem premises_MemoryIsReachedOverTheLink :
    (∃ (s t u h : State) (k : PacketHead) (a : MemAccess) (m : MemRequest), s.Hears k 9 4 ∧ t = s.heard k 9 4 ∧ k.pos % 4 = s.pos ∧ a.tag < 256 ∧
    a.addr < 2 ^ 40 ∧ a.bytes < 2 ^ 32 ∧ m = { port := k.port, tag := a.tag, write := false, addr := a.addr, bytes := a.bytes, data := [] } ∧ memOk
    m = true ∧ t.needDomains ((memWords m).filterMap accessDomain).eraseDups = (true, u) ∧ u.slowHold a.addr a.bytes = (false, h))
    ∧ (∃ (s t u : State) (k : PacketHead) (a : MemAccess) (l : List Byte) (m : MemRequest), s.Hears k 9 (ceilDiv (16 + l.length) 4) ∧ t = s.heard k
    9 (ceilDiv (16 + l.length) 4) ∧ k.pos % 4 = s.pos ∧ a.tag < 256 ∧ a.addr < 2 ^ 40 ∧ a.bytes < 2 ^ 32 ∧ m =
    { port := k.port, tag := a.tag, write := true, addr := a.addr, bytes := a.bytes, data := l } ∧ memOk m = true ∧ t.needDomains ((memWords
    m).filterMap accessDomain).eraseDups = (true, u) ∧ u.onSlowPath a.addr a.bytes = false)
    ∧ (∃ (s : State) (k : PacketHead) (a : MemAccess) (m : MemRequest), s.Hears k 9 4 ∧ k.pos % 4 = s.pos ∧ a.tag < 256 ∧ a.addr < 2 ^ 40 ∧ a.bytes
    < 2 ^ 32 ∧ m = { port := k.port, tag := a.tag, write := false, addr := a.addr, bytes := a.bytes, data := [] } ∧ memOk m = false) :=
  ⟨⟨linked 0 5 {}, ((linked 0 5 {}).heard (from_ 0 0) 9 4), (((linked 0 5 {}).heard (from_ 0 0) 9 4).needDomains ((memWords (memAt0
   false)).filterMap accessDomain).eraseDups).2, ((((linked 0 5 {}).heard (from_ 0 0) 9 4).needDomains ((memWords (memAt0 false)).filterMap
   accessDomain).eraseDups).2.slowHold 0 4).2, from_ 0 0, ⟨255, 0, 4⟩, memAt0 false, hears (by decide +kernel), by decide +kernel,
   by decide +kernel, by decide +kernel, by decide +kernel, by decide +kernel, by decide +kernel, by decide +kernel, pairOf (by decide +kernel),
   pairOf (by decide +kernel)⟩,
   ⟨linked 0 5 {}, ((linked 0 5 {}).heard (from_ 0 0) 9 5), (((linked 0 5 {}).heard (from_ 0 0) 9 5).needDomains ((memWords (memAt0 true)).filterMap
   accessDomain).eraseDups).2, from_ 0 0, ⟨255, 0, 4⟩, [1, 2, 3, 4], memAt0 true, hears (by decide +kernel), by decide +kernel, by decide +kernel,
   by decide +kernel, by decide +kernel, by decide +kernel, by decide +kernel, by decide +kernel, pairOf (by decide +kernel), by decide +kernel⟩,
   ⟨linked 0 5 {}, from_ 0 0, ⟨255, 2 ^ 40 - 1, 4⟩, _, hears (by decide +kernel), by decide +kernel, by decide +kernel, by decide +kernel,
   by decide +kernel, rfl, by decide +kernel⟩⟩

/-- States and operands that meet the premises of `MemoryKeepsWhatIsWritten`, clause by clause. -/
theorem premises_MemoryKeepsWhatIsWritten :
    (∃ (s : State) (m : Master) (a r : Nat) (l : List Byte), regionOf a = some r ∧ r ≠ 4 ∧ r ≠ 6 ∧ s.targetDead r a = false ∧ s.mem.journals = [] ∧
    s.libraryEntryAt a = none ∧ l.length = 4 ∧ a % 4 = 0)
    ∧ (∃ (s : State) (m : Master) (a : Nat) (l : List Byte) (p : Bool), regionOf a = none) :=
  ⟨⟨up 4, .mason 47, 0x1300000000, 5, [1, 2, 3, 4], by decide +kernel, by decide +kernel, by decide +kernel, by decide +kernel, by decide +kernel,
   by decide +kernel, by decide +kernel, by decide +kernel⟩,
   ⟨up 4, .mason 47, 2 ^ 40 - 1, [1, 2, 3, 4], false, by decide +kernel⟩⟩

/-- States and operands that meet the premises of `MemoriesAreMaintained`, clause by clause. -/
theorem premises_MemoriesAreMaintained :
    (∃ (s t : State) (i since : Nat) (m : MemRequest), s.link.mems[i]? = some m ∧ m.heldAt = some since ∧ since + usec 8 ≤ s.now ∧ m.write = true ∧
    t = { s with link := { s.link with mems := s.link.mems.eraseIdx i } })
    ∧ (∃ (s : State) (m i : Nat) (x : MasonXfer), (s.core m).xfers[i]? = some x ∧ accessDomain x.addr = none)
    ∧ (∃ (s : State) (n i : Nat) (p : DmaPending), (s.chan n).outstanding[i]? = some p)
    ∧ (∃ (s t : State) (page : Nat), (∃ x ∈ s.mem.slow, x.page = page) ∧ t =
    { s with mem := { s.mem with slow := s.mem.slow.filter (fun p => p.page != page) } })
    ∧ (∃ (s t u : State), s.scrubDue = true ∧ s.mem.journals = [] ∧ s.mem.scrubSkipped = [] ∧ t =
    { s with mem := { s.mem with scrubTime := s.now } } ∧ u = t.scrubOne s.mem.scrubAt ∧ s.mem.scrubAt < 2097151)
    ∧ (∃ (s t u : State), s.scrubDue = true ∧ s.mem.journals = [] ∧ s.mem.scrubSkipped = [] ∧ t =
    { s with mem := { s.mem with scrubTime := s.now } } ∧ u = t.scrubOne s.mem.scrubAt ∧ 2097151 ≤ s.mem.scrubAt)
    ∧ (∃ (s m : State) (w : Caller), m = s.met w.port ∧ s.Orders w Ix.EccLogClear 0 1)
    ∧ (∃ (s t v : State) (c : SealedCommit), s.mem.copying = true ∧ t = { s with mem := { s.mem with copying := false } } ∧ s.host.commits.find?
    (fun c => carriesAny c.items [Ix.PartitionBase, Ix.PartitionSize]) = some c ∧ v = t.viewAt c.target ∧ t.movesPartition v 4 = true ∧
    t.movesPartition v 5 = false ∧ (t.copyPartition v 4).movesPartition v 5 = false) :=
  ⟨⟨{ up 4 with now := usec 8, link := { mems := [{ port := 0, tag := 0, write := true, addr := 0, bytes := 4, data := [1, 2, 3, 4], heldAt := some 0 }] } },
   _, 0, 0, { port := 0, tag := 0, write := true, addr := 0, bytes := 4, data := [1, 2, 3, 4], heldAt := some 0 }, by decide +kernel,
   by decide +kernel, by decide +kernel, by decide +kernel, rfl⟩,
   ⟨coreUp ({ someCore with xfers := [⟨false, 0, 0x2000000000, 4⟩] }), 47, 0, ⟨false, 0, 0x2000000000, 4⟩, by decide +kernel, by decide +kernel⟩,
   ⟨dmaUp 1 { outstanding := [{ dst := 0x2000, desc := 0, error := false, past := false }] }, 15, 0,
   { dst := 0x2000, desc := 0, error := false, past := false }, by decide +kernel⟩,
   ⟨{ up 4 with mem := { slow := [⟨7, 0⟩] } }, _, 7, by decide +kernel, rfl⟩,
   ⟨{ (up 4).wr Ix.ScrubPeriod 0 1 with now := msec 1000 }, _, _, by decide +kernel, by decide +kernel, by decide +kernel, rfl, rfl,
   by decide +kernel⟩,
   ⟨{ (up 4).wr Ix.ScrubPeriod 0 1 with now := msec 1000, mem := { scrubAt := 2097151 } }, _, _, by decide +kernel, by decide +kernel,
   by decide +kernel, rfl, rfl, by decide +kernel⟩,
   ⟨up 4, _, host, rfl, orders (by decide +kernel)⟩,
   ⟨{ up 3 with mem := { copying := true }, host := { commits := [{ sealed 16 false with items := [⟨Ix.PartitionBase, 4, .num 0xE0000000⟩] }] } },
   _, _, { sealed 16 false with items := [⟨Ix.PartitionBase, 4, .num 0xE0000000⟩] }, by decide +kernel, rfl, by decide +kernel, rfl,
   by decide +kernel, by decide +kernel, by decide +kernel⟩⟩

/-- States and operands that meet the premises of `DmaChannelsRun`, clause by clause. -/
theorem premises_DmaChannelsRun_1 :
    (∃ (s m t u : State) (w : Caller) (l : List Byte) (head n : Nat), m = s.met w.port ∧ s.OrdersRecord w Ix.DmaStart l ∧ head = fieldLE l 0 5 ∧ n =
    fieldLE l 5 1 ∧ n < 16 ∧ head % 32 = 0 ∧ fieldLE l 6 1 % 2 = 0 ∧ (m.dmaState n = 0 ∨ m.dmaState n = 3 ∨ m.dmaState n = 4 ∨ m.dmaState n = 6) ∧
    m.rdBit Ix.BlockResetDma 0 n = false ∧ m.dmaReserved n = false ∧ m.leaseOf (0x100 + n) = none ∧ t = m.takeLease (0x100 + n) (m.ownerField 1 0)
    none none ∧ u = t.setChan n { fetchAt := some head, outstanding := (t.chan n).outstanding.map (fun p => { p with past := true }) })
    ∧ (∃ (s m : State) (w : Caller) (n : Nat), m = s.met w.port ∧ n < 16 ∧ s.Orders w Ix.DmaAbort (n + 1) 1 ∧ m.dmaReserved n = false ∧ (m.dmaState
    n = 2 ∨ m.dmaState n = 1 ∧ (m.chan n).outstanding = []))
    ∧ (∃ (s m : State) (w : Caller) (n : Nat), m = s.met w.port ∧ n < 16 ∧ s.Orders w Ix.DmaAbort (n + 1) 1 ∧ m.dmaReserved n = false ∧ ∃ t : State,
    m.dmaState n = 1 ∧ (m.chan n).outstanding ≠ [] ∧ t = m.wr Ix.DmaState (n + 1) 5)
    ∧ (∃ (s t u v x : State) (n a d : Nat) (l : List Byte) (r : List WordRead) (c : DmaChan), s.chan n = c ∧ c.fetchAt = some a ∧ s.dmaState n = 1 ∧
    accessDomain a = some d ∧ s.needDomain d = (true, t) ∧ t.slowHold a 64 = (false, u) ∧ v = u.wr Ix.DmaCurrentDesc (n + 1) a ∧ v.dmaFetchRead n a
    = (r, x) ∧ (∀ w ∈ r, w.error = false ∧ w.poison = false) ∧ l = r.flatMap (fun w => leBytes 4 w.data) ∧ (decodeDesc a l).failure false (fieldLE l
    48 16) = none)
    ∧ (∃ (s t u : State) (n : Nat) (rest ks words : List Nat) (d : DmaDesc), s.dmaOrder = n :: rest ∧ (s.chan n).desc = some d ∧ ks = d.burstRun 256
    (s.chan n).done (d.outAddr (s.chan n).done) ∧ words = (ks.flatMap (fun k => (d.source k).words)).eraseDups ∧ s.needDomains ((words.filterMap
    accessDomain) ++ (accessDomain (d.outAddr (s.chan n).done)).toList).eraseDups = (true, t) ∧ t.slowHolds words = (false, u))
    ∧ (∃ (s t : State) (n i : Nat) (c : DmaChan) (p : DmaPending), s.chan n = c ∧ c.outstanding[i]? = some p ∧ c.wbQueue = [] ∧ t = s.setChan n
    { c with outstanding := c.outstanding.eraseIdx i } ∧ p.error = false ∧ s.dmaState n = 3)
    ∧ (∃ (s t : State) (n i : Nat) (c : DmaChan) (p : DmaPending), s.chan n = c ∧ c.outstanding[i]? = some p ∧ c.wbQueue = [] ∧ t = s.setChan n
    { c with outstanding := c.outstanding.eraseIdx i } ∧ p.error = true ∧ p.past = false ∧ s.dmaState n = 1)
    ∧ (∃ (s t u x : State) (n next : Nat) (c : DmaChan) (d : DmaDesc) (r0 r1 : WordRead), s.chan n = c ∧ s.dmaState n = 2 ∧ c.desc = some d ∧
    c.pollAt + nsec (s.rd Ix.DmaAppendPoll (n + 1)) ≤ s.now ∧ s.needDomains (accessDomain d.addr).toList = (true, t) ∧ t.slowHold d.addr 8 = (false,
    u) ∧ u.readWords (.dma n) 2 d.addr = ([r0, r1], x) ∧ r0.error = false ∧ r1.error = false ∧ r0.poison = false ∧ r1.poison = false ∧ next =
    r0.data + 2 ^ 32 * r1.data ∧ bitAt next 0 = true) :=
  ⟨⟨dmaUp 0 {}, _, _, _, host, leBytes 5 64 ++ [15, 0, 0] ++ List.replicate 8 0, 64, 15, rfl, ordersRecord (by decide +kernel), by decide +kernel,
   by decide +kernel, by decide +kernel, by decide +kernel, by decide +kernel, by decide +kernel, by decide +kernel, by decide +kernel,
   by decide +kernel, rfl, rfl⟩,
   ⟨dmaUp 1 {}, _, host, 15, rfl, by decide +kernel, orders (by decide +kernel), by decide +kernel, by decide +kernel⟩,
   ⟨dmaUp 1 { outstanding := [{ dst := 0x2000, desc := 0, error := false, past := false }] }, _, host, 15, rfl, by decide +kernel, orders
   (by decide +kernel), by decide +kernel, _, by decide +kernel, by decide +kernel, rfl⟩,
   ⟨((dmaUp 1 { fetchAt := some 0 }).storeBytes 0 (descBytes 1)), (((dmaUp 1 { fetchAt := some 0 }).storeBytes 0 (descBytes 1)).needDomain 5).2,
   ((((dmaUp 1 { fetchAt := some 0 }).storeBytes 0 (descBytes 1)).needDomain 5).2.slowHold 0 64).2, (((((dmaUp 1 { fetchAt := some 0 }).storeBytes 0
   (descBytes 1)).needDomain 5).2.slowHold 0 64).2.wr Ix.DmaCurrentDesc 16 0), ((((((dmaUp 1 { fetchAt := some 0 }).storeBytes 0 (descBytes
   1)).needDomain 5).2.slowHold 0 64).2.wr Ix.DmaCurrentDesc 16 0).dmaFetchRead 15 0).2, 15, 0, 5, ((((((dmaUp 1 { fetchAt := some 0 }).storeBytes 0
   (descBytes 1)).needDomain 5).2.slowHold 0 64).2.wr Ix.DmaCurrentDesc 16 0).dmaFetchRead 15 0).1.flatMap (fun w => leBytes 4 w.data), ((((((dmaUp
   1 { fetchAt := some 0 }).storeBytes 0 (descBytes 1)).needDomain 5).2.slowHold 0 64).2.wr Ix.DmaCurrentDesc 16 0).dmaFetchRead 15 0).1,
   { fetchAt := some 0 }, by decide +kernel, by decide +kernel, by decide +kernel, by decide +kernel, pairOf (by decide +kernel), pairOf
   (by decide +kernel), by decide +kernel, pairOf (by decide +kernel), by decide +kernel, by decide +kernel, by decide +kernel⟩,
   ⟨(dmaUp 1 { desc := some (descAt 0 1) }), ((dmaUp 1 { desc := some (descAt 0 1) }).needDomains [5]).2, (((dmaUp 1
   { desc := some (descAt 0 1) }).needDomains [5]).2.slowHolds [0x1000]).2, 15, [], [0, 1, 2, 3], [0x1000], descAt 0 1, by decide +kernel,
   by decide +kernel, by decide +kernel, by decide +kernel, pairOf (by decide +kernel), pairOf (by decide +kernel)⟩,
   ⟨dmaUp 3 { outstanding := [{ dst := 0x2000, desc := 0, error := false, past := false }] }, _, 15, 0,
   { outstanding := [{ dst := 0x2000, desc := 0, error := false, past := false }] }, { dst := 0x2000, desc := 0, error := false, past := false },
   by decide +kernel, by decide +kernel, by decide +kernel, rfl, by decide +kernel, by decide +kernel⟩,
   ⟨dmaUp 1 { outstanding := [{ dst := 0x2000, desc := 0, error := true, past := false }] }, _, 15, 0,
   { outstanding := [{ dst := 0x2000, desc := 0, error := true, past := false }] }, { dst := 0x2000, desc := 0, error := true, past := false },
   by decide +kernel, by decide +kernel, by decide +kernel, rfl, by decide +kernel, by decide +kernel, by decide +kernel⟩,
   ⟨{ (((dmaUp 2 { desc := some (descAt 0 1) }).storeBytes 0 (descBytes 1))) with now := msec 100 }, (State.needDomains
   ({ (((dmaUp 2 { desc := some (descAt 0 1) }).storeBytes 0 (descBytes 1))) with now := msec 100 }) (accessDomain 0).toList).2, ((State.needDomains
   ({ (((dmaUp 2 { desc := some (descAt 0 1) }).storeBytes 0 (descBytes 1))) with now := msec 100 }) (accessDomain 0).toList).2.slowHold 0 8).2,
   (((State.needDomains ({ (((dmaUp 2 { desc := some (descAt 0 1) }).storeBytes 0 (descBytes 1))) with now := msec 100 }) (accessDomain
   0).toList).2.slowHold 0 8).2.readWords (.dma 15) 2 0).2, 15, _, { desc := some (descAt 0 1) }, descAt 0 1, (((State.needDomains
   ({ (((dmaUp 2 { desc := some (descAt 0 1) }).storeBytes 0 (descBytes 1))) with now := msec 100 }) (accessDomain 0).toList).2.slowHold 0
   8).2.readWords (.dma 15) 2 0).1.getD 0 ⟨0, true, true⟩, (((State.needDomains
   ({ (((dmaUp 2 { desc := some (descAt 0 1) }).storeBytes 0 (descBytes 1))) with now := msec 100 }) (accessDomain 0).toList).2.slowHold 0
   8).2.readWords (.dma 15) 2 0).1.getD 1 ⟨0, true, true⟩, by decide +kernel, by decide +kernel, by decide +kernel, by decide +kernel, pairOf
   (by decide +kernel), pairOf (by decide +kernel), pairOf (by decide +kernel), by decide +kernel, by decide +kernel, by decide +kernel,
   by decide +kernel, rfl, by decide +kernel⟩⟩

/-- States and operands that meet the premises of `DmaChannelsRun`, clause by clause. -/
theorem premises_DmaChannelsRun_2 :
    ∃ (s t u x : State) (n next : Nat) (c : DmaChan) (d : DmaDesc) (r0 r1 : WordRead), s.chan n = c ∧ s.dmaState n = 2 ∧ c.desc = some d ∧ c.pollAt
    + nsec (s.rd Ix.DmaAppendPoll (n + 1)) ≤ s.now ∧ s.needDomains (accessDomain d.addr).toList = (true, t) ∧ t.slowHold d.addr 8 = (false, u) ∧
    u.readWords (.dma n) 2 d.addr = ([r0, r1], x) ∧ r0.error = false ∧ r1.error = false ∧ r0.poison = false ∧ r1.poison = false ∧ next = r0.data + 2
    ^ 32 * r1.data ∧ bitAt next 0 = false ∧ nextAddr next ≠ d.addr ∧ bitsOf next 4 1 = 0 ∧ next < 2 ^ 40 :=
  ⟨{ (((dmaUp 2 { desc := some (descAt 0 1) }).storeBytes 0 (descBytes 0x3000))) with now := msec 100 }, (State.needDomains
  ({ (((dmaUp 2 { desc := some (descAt 0 1) }).storeBytes 0 (descBytes 0x3000))) with now := msec 100 }) (accessDomain 0).toList).2,
  ((State.needDomains ({ (((dmaUp 2 { desc := some (descAt 0 1) }).storeBytes 0 (descBytes 0x3000))) with now := msec 100 }) (accessDomain
  0).toList).2.slowHold 0 8).2, (((State.needDomains
  ({ (((dmaUp 2 { desc := some (descAt 0 1) }).storeBytes 0 (descBytes 0x3000))) with now := msec 100 }) (accessDomain 0).toList).2.slowHold 0
  8).2.readWords (.dma 15) 2 0).2, 15, _, { desc := some (descAt 0 1) }, descAt 0 1, (((State.needDomains
  ({ (((dmaUp 2 { desc := some (descAt 0 1) }).storeBytes 0 (descBytes 0x3000))) with now := msec 100 }) (accessDomain 0).toList).2.slowHold 0
  8).2.readWords (.dma 15) 2 0).1.getD 0 ⟨0, true, true⟩, (((State.needDomains
  ({ (((dmaUp 2 { desc := some (descAt 0 1) }).storeBytes 0 (descBytes 0x3000))) with now := msec 100 }) (accessDomain 0).toList).2.slowHold 0
  8).2.readWords (.dma 15) 2 0).1.getD 1 ⟨0, true, true⟩, by decide +kernel, by decide +kernel, by decide +kernel, by decide +kernel, pairOf
  (by decide +kernel), pairOf (by decide +kernel), pairOf (by decide +kernel), by decide +kernel, by decide +kernel, by decide +kernel,
  by decide +kernel, rfl, by decide +kernel, by decide +kernel, by decide +kernel, by decide +kernel⟩

/-- States and operands that meet the premises of `DomainsWakeAndSleep`, clause by clause. -/
theorem premises_DomainsWakeAndSleep :
    (∃ (s t : State) (d : Nat) (w : DomainWake), s.power.wakes.find? (fun w => w.domain == d) = some w ∧ t =
    ({ s with power := { s.power with wakes := s.power.wakes.filter (fun x => x.domain != d), idleSince := tins d s.now s.power.idleSince, archInit := s.power.archInit && d != 5 } }
    : State).wr Ix.DomainState (d + 1) 2)
    ∧ (∃ (s : State) (d : Nat) (w : DomainWake), s.power.wakes.find? (fun w => w.domain == d) = some w ∧ w.since + usec (s.rd Ix.DomainWakeTimeout
    0) ≤ s.now ∧ (w.powerGood = none ∨ w.oscillator = false))
    ∧ (∃ (s : State) (since t : Nat), s.power.wakes.find? (fun w => w.domain == 5) = some ⟨5, since, some t, true, false⟩ ∧ t + msec 10 ≤ s.now)
    ∧ (∃ (s : State) (d : Nat), d ∈ s.power.demand ∧ s.domainOn d = true ∧ s.modeNeeds s.mode d = false ∧ d ≠ 4 ∧ tget 0 d s.power.idleSince + usec
    (s.rd Ix.DomainIdleOff 0) ≤ s.now)
    ∧ (∃ (s t : State) (d : Nat), s.rd Ix.DomainState (d + 1) = 3 ∧ t =
    { s with power := { s.power with wakes := s.power.wakes.filter (fun w => w.domain != d) } }) :=
  ⟨⟨{ up 3 with power := { wakes := [⟨11, 0, none, false, false⟩] } }, _, 11, ⟨11, 0, none, false, false⟩, by decide +kernel, rfl⟩,
   ⟨{ up 3 with now := msec 1, power := { wakes := [⟨11, 0, none, false, false⟩] } }, 11, ⟨11, 0, none, false, false⟩, by decide +kernel,
   by decide +kernel, by decide +kernel⟩,
   ⟨{ up 3 with now := msec 10, power := { wakes := [⟨5, 0, some 0, true, false⟩] } }, 0, 0, by decide +kernel, by decide +kernel⟩,
   ⟨{ up 1 with now := msec 1, power := { demand := [3] } }, 3, by decide +kernel, by decide +kernel, by decide +kernel, by decide +kernel,
   by decide +kernel⟩,
   ⟨(up 3).wr Ix.DomainState 12 3, _, 11, by decide +kernel, rfl⟩⟩

/-- States and operands that meet the premises of `TheGovernorAndTheReference`, clause by clause. -/
theorem premises_TheGovernorAndTheReference :
    (∃ (s : State) (c t : Nat) (w : IdleWindow), s.window c = some w ∧ w.until_ = some t ∧ t ≤ s.now + wakeTime w.depth ∧ s.rd Ix.GovDeviceDepth 0 ≠
    4)
    ∧ (∃ s : State, s.mode = 1 ∧ s.rd Ix.GovDormantEnable 0 = 1 ∧ 50000 ≤ s.rd Ix.GovDeviceLatency 0 ∧ s.rd Ix.GovDepthMax 0 = 5 ∧
    s.power.lastRequestAt + msec (s.rd Ix.GovDormantIdle 0) ≤ s.now ∧ s.modes.underWay = none)
    ∧ (∃ (s m : State) (w : Caller), m = s.met w.port ∧ s.Orders w Ix.GovWakeNow 0 1 ∧ m.edgeLost = false)
    ∧ (∃ (s m : State) (w : Caller) (c : Nat), m = s.met w.port ∧ c < 4 ∧ s.Orders w Ix.PowerRequest 0 (c * 256 + 3) ∧ m.modeFrom ≠ 0 ∧ m.modeFrom ≠
    3 ∧ (m.rd Ix.SpeEnable 0 = 0 ∨ m.mainCourse ≠ c) ∧ m.rd Ix.PowerHold (c + 1) = 0 ∧ m.modes.underWay = none ∧ m.modes.abandoned = none)
    ∧ (∃ (s m : State) (w : Caller) (c : Nat), m = s.met w.port ∧ c < 4 ∧ s.Orders w Ix.PowerRequest 0 (c * 256) ∧ m.modeFrom ≠ 0 ∧ m.modeFrom ≠ 3 ∧
    m.rd Ix.PowerHold (c + 1) = 1 ∧ m.modes.underWay = none ∧ m.modes.abandoned = none)
    ∧ (∃ s : State, s.mode ≠ 0 ∧ s.rd Ix.ClockSource 0 ≠ 2)
    ∧ (∃ s t : State, s.rd Ix.ClockSource 0 = 2 ∧ t = ({ s with power := { s.power with archHeld := false } } : State).wr Ix.ClockSource 0 (if
    bitsOf (s.rd Ix.Straps 0) 3 2 = 3 then 1 else 0)) :=
  ⟨⟨{ up 3 with power := { window := [(3, ⟨0, some (usec 200), 3, none, false⟩)] } }, 3, usec 200, ⟨0, some (usec 200), 3, none, false⟩,
   by decide +kernel, by decide +kernel, by decide +kernel, by decide +kernel⟩,
   ⟨{ (((up 1).wr Ix.GovDormantEnable 0 1).wr Ix.GovDeviceLatency 0 50000).wr Ix.GovDepthMax 0 5 with now := msec 60000 }, by decide +kernel,
   by decide +kernel, by decide +kernel, by decide +kernel, by decide +kernel, by decide +kernel⟩,
   ⟨up 1, _, host, rfl, orders (by decide +kernel), by decide +kernel⟩,
   ⟨up 1, _, host, 3, rfl, by decide +kernel, orders (by decide +kernel), by decide +kernel, by decide +kernel, by decide +kernel,
   by decide +kernel, by decide +kernel, by decide +kernel⟩,
   ⟨(up 1).wr Ix.PowerHold 4 1, _, host, 3, rfl, by decide +kernel, orders (by decide +kernel), by decide +kernel, by decide +kernel,
   by decide +kernel, by decide +kernel, by decide +kernel⟩,
   ⟨up 1, by decide +kernel, by decide +kernel⟩,
   ⟨(up 1).wr Ix.ClockSource 0 2, _, by decide +kernel, rfl⟩⟩

/-- States and operands that meet the premises of `ResetSourcesHoldTheDevice`, clause by clause. -/
theorem premises_ResetSourcesHoldTheDevice :
    (∃ (s : State) (c : Instr) (bit : Nat), (c, bit) ∈ [(Instr.powerOn, 0), (.brownOut, 1), (.shadowUncorrectable, 2), (.rstNLow, 5),
    (.criticalParity, 7)] ∧ s.therm.latched = false)
    ∧ (∃ (s : State) (since : Nat), s.reset_.watchdogAt = some since ∧ since + msec (s.rd Ix.WatchdogPeriod 0) ≤ s.now)
    ∧ (∃ (s : State) (since bit : Nat), s.reset_.dueCmd = some (since, bit) ∧ since + usec 100 ≤ s.now)
    ∧ (∃ (s : State) (bit : Nat), s.therm.latched = true ∧ 1 < bit) :=
  ⟨⟨up 1, .criticalParity, 7, by simp, by decide +kernel⟩,
   ⟨{ up 1 with now := msec 100000, reset_ := { watchdogAt := some 0 } }, 0, by decide +kernel, by decide +kernel⟩,
   ⟨{ up 1 with now := usec 100, reset_ := { dueCmd := some (0, 8) } }, 0, 8, by decide +kernel, by decide +kernel⟩,
   ⟨{ up 1 with therm := { latched := true } }, 2, by decide +kernel, by decide +kernel⟩⟩

/-- States and operands that meet the premises of `TheReleaseBeginsTheBoot`, clause by clause. -/
theorem premises_TheReleaseBeginsTheBoot_1 :
    (∃ (s : State) (since straps : Nat), s.reset_.held = [⟨5, since, 0⟩])
    ∧ (∃ (s : State) (since bit straps : Nat), s.reset_.held = [⟨bit, since, 0⟩] ∧ bit < 9 ∧ bit ≠ 5 ∧ since + (if bit ≤ 1 then msec 2 else usec 10)
    ≤ s.now)
    ∧ (∃ (s : State) (a b straps : Nat), s.reset_.held = [⟨5, a, 0⟩, ⟨7, b, 0⟩])
    ∧ (∃ (s m : State) (w : Caller), m = s.met w.port ∧ m.reset_.dueCmd = none ∧ s.Orders w Ix.ResetRequest 0 0x5A01)
    ∧ (∃ (s m : State) (w : Caller), m = s.met w.port ∧ m.reset_.dueCmd = none ∧ s.Orders w Ix.ResetRequest 0 0x5A02)
    ∧ (∃ (s m : State) (w : Caller), m = s.met w.port ∧ s.Orders w Ix.ResetCauseClear 0 1)
    ∧ (∃ (s m t : State) (w : Caller) (d : Nat), m = s.met w.port ∧ s.Orders w Ix.DomainReset 0 d ∧ 3 ≤ d ∧ d ≤ 11 ∧ t = m.wr Ix.ResetCause 0
    (causeAfter (m.rd Ix.ResetCause 0) 10))
    ∧ (∃ (s t : State) (d : Nat), d ∈ s.power.resetting ∧ (∀ h ∈ s.reset_.held, ¬(h.bit = 10 ∧ h.domain = d)) ∧ s.domainOn d = true ∧ t =
    { s with power := { s.power with resetting := s.power.resetting.filter (· != d), resuming := insertNat d s.power.resuming } }) :=
  ⟨⟨{ up 1 with reset_ := { held := [⟨5, 0, 0⟩] } }, 0, 127, by decide +kernel⟩,
   ⟨{ up 1 with now := usec 10, reset_ := { held := [⟨8, 0, 0⟩] } }, 0, 8, 0, by decide +kernel, by decide +kernel, by decide +kernel,
   by decide +kernel⟩,
   ⟨{ up 1 with reset_ := { held := [⟨5, 0, 0⟩, ⟨7, 3, 0⟩] } }, 0, 3, 0, by decide +kernel⟩,
   ⟨up 1, _, host, rfl, by decide +kernel, orders (by decide +kernel)⟩,
   ⟨up 1, _, host, rfl, by decide +kernel, orders (by decide +kernel)⟩,
   ⟨up 1, _, host, rfl, orders (by decide +kernel)⟩,
   ⟨up 1, _, _, host, 11, rfl, orders (by decide +kernel), by decide +kernel, by decide +kernel, rfl⟩,
   ⟨{ up 1 with power := { resetting := [11] }, reset_ := { held := [⟨10, 0, 10⟩] } }, _, 11, by decide +kernel, by decide +kernel,
   by decide +kernel, rfl⟩⟩

/-- States and operands that meet the premises of `TheReleaseBeginsTheBoot`, clause by clause. -/
theorem premises_TheReleaseBeginsTheBoot_2 :
    ∃ (s t : State) (straps : Nat), s.therm.latched = false ∧ s.reset_.reach = 1 ∧ straps < 128 ∧ bitsOf straps 6 4 < 4 ∧ t = s.releaseSequence
    straps :=
  ⟨State.reset, _, 16, by decide +kernel, by decide +kernel, by decide +kernel, by decide +kernel, rfl⟩

/-- States and operands that meet the premises of `BootImagesAreVerified`, clause by clause. -/
theorem premises_BootImagesAreVerified :
    (∃ (s : State), s.inReset = false ∧ s.reset_.bootDone = false ∧ s.rd Ix.BootState 0 = 1 ∧ s.reset_.tryingImage = 1 ∧ s.reset_.bootReadAt + msec
    500 ≤ s.now)
    ∧ (∃ (s m : State) (w : Caller) (l : List Byte) (e : Entry), m = s.met w.port ∧ s.serving = true ∧ s.reset_.bootDone = false ∧ w.pos = s.pos ∧
    s.host.stalled = [] ∧ s.host.performing = none ∧ w.tag ∉ s.host.forwarded.map (·.request.tag) ∧ s.host.responses = [] ∧ m.Records e
    Ix.BootImageLoad l ∧ m.domainOn 5 = false) :=
  ⟨⟨{ State.reset.wr Ix.BootState 0 1 with now := msec 500, reset_ := { tryingImage := 1 } }, by decide +kernel, by decide +kernel,
   by decide +kernel, by decide +kernel, by decide +kernel⟩,
   ⟨(({ up 1 with reset_ := {} } : State).wr Ix.DomainState 6 0).wr Ix.BootState 0 3, _, host, List.replicate 1024 0, entryAt Ix.BootImageLoad 0,
   rfl, by decide +kernel, by decide +kernel, by decide +kernel, by decide +kernel, by decide +kernel, by decide +kernel, by decide +kernel, records
   (by decide +kernel), by decide +kernel⟩⟩

/-- States and operands that meet the premises of `KeysSignAndTheTestPortSelects`, clause by clause. -/
theorem premises_KeysSignAndTheTestPortSelects_1 :
    (∃ (s m : State) (w : Caller) (l : List Byte) (slot signer : Nat) (ok : Bool), m = s.met w.port ∧ s.OrdersRecord w Ix.KeyRevoke l ∧ slot =
    fieldLE l 0 1 ∧ signer = fieldLE l 1 1 ∧ slot < 4 ∧ signer < 4 ∧ fieldLE l 8 8 = m.rd Ix.DeviceIdentity 0 ∧ signer ≠ slot ∧ m.keyState signer =
    2 ∧ (∃ k < 4, k ≠ slot ∧ (m.fuse.keyHash.getD k none).isSome = true ∧ k ∉ m.fuse.revoked) ∧ ok = Config.sm2Verify (tget [] signer
    m.reset_.loadedKeys) (l.take 16) (sliceBytes l 16 64))
    ∧ (∃ (s : State) (slot : Nat) (rest : List Nat), s.reset_.revoking = slot :: rest ∧ slot < 4)
    ∧ (∃ (s m : State) (w : Caller) (l : List Byte), m = s.met w.port ∧ m.reset_.attestNonce = none ∧ m.reset_.signDigest = none ∧ s.OrdersRecord w
    Ix.AttestRequest l)
    ∧ (∃ (s m : State) (w : Caller) (l : List Byte), m = s.met w.port ∧ m.reset_.attestNonce = none ∧ m.reset_.signDigest = none ∧ s.OrdersRecord w
    Ix.IdentitySign l)
    ∧ (∃ (s t : State) (nonce body : List Byte) (n : Nat), s.reset_.attestNonce = some nonce ∧ n = (s.reset_.sequence + 1) % 2 ^ 32 ∧ body =
    s.attestBody nonce n ∧ t = { s with free := s.free + 1, reset_ := { s.reset_ with attestNonce := none, sequence := n } })
    ∧ (∃ (s t : State) (d : List Byte), s.reset_.signDigest = some d ∧ t =
    { s with free := s.free + 1, reset_ := { s.reset_ with signDigest := none } })
    ∧ (∃ (s : State) (straps : Nat), s.reset_.held = [] ∧ ∃ (c : Instr) (ir n : Nat), (c, ir, n) ∈ [(Instr.testLogicReset straps, 1, 32), (.idcode
    straps, 1, 32), (.bypass straps, 255, 1)])
    ∧ (∃ (s : State) (straps : Nat), s.reset_.held = [] ∧ ∃ l : List Bool, l.length = 243) :=
  ⟨⟨{ up 1 with fuse := { keyHash := [some [], some [1], none, none] }, reset_ := { bootDone := true, loadedKeys := [(1, [7])], revoking := [], held := [] } },
   _, host, [0, 1] ++ List.replicate 14 0 ++ List.replicate 64 0, 0, 1, _, rfl, ordersRecord (by decide +kernel), by decide +kernel,
   by decide +kernel, by decide +kernel, by decide +kernel, by decide +kernel, by decide +kernel, by decide +kernel, by decide +kernel, rfl⟩,
   ⟨{ up 1 with reset_ := { revoking := [3, 1] } }, 3, [1], by decide +kernel, by decide +kernel⟩,
   ⟨up 1, _, host, List.replicate 32 7, rfl, by decide +kernel, by decide +kernel, ordersRecord (by decide +kernel)⟩,
   ⟨up 1, _, host, List.replicate 32 7, rfl, by decide +kernel, by decide +kernel, ordersRecord (by decide +kernel)⟩,
   ⟨{ up 1 with reset_ := { attestNonce := some [7] } }, _, [7], _, _, by decide +kernel, rfl, rfl, rfl⟩,
   ⟨{ up 1 with reset_ := { signDigest := some [7] } }, _, [7], by decide +kernel, rfl⟩,
   ⟨up 1, 0, by decide +kernel, .bypass 0, 255, 1, by simp⟩,
   ⟨up 1, 0, by decide +kernel, List.replicate 243 true, by decide +kernel⟩⟩

/-- States and operands that meet the premises of `KeysSignAndTheTestPortSelects`, clause by clause. -/
theorem premises_KeysSignAndTheTestPortSelects_2 :
    (∃ (s : State) (c : Instr) (ir n : Nat), (c, ir, n) ∈ [(Instr.extest, 3, 243), (.extestPulse, 4, 243), (.extestTrain, 5, 243), (.clamp, 6, 1),
    (.highz, 7, 1)] ∧ s.therm.latched = false ∧ (∀ h ∈ s.reset_.held, h.bit ≠ 9))
    ∧ (∃ (s : State) (since straps : Nat), s.reset_.held = [⟨9, since, 0⟩]) :=
  ⟨⟨up 1, .highz, 7, 1, by simp, by decide +kernel, by decide +kernel⟩,
   ⟨{ up 1 with reset_ := { held := [⟨9, 0, 0⟩] } }, 0, 0, by decide +kernel⟩⟩

/-- States and operands that meet the premises of `ConvertersAreJudged`, clause by clause. -/
theorem premises_ConvertersAreJudged :
    (∃ (s : State) (f : HkFrame) (n : Nat) (r : Int), f.conv < 2 ∧ s.hkWorks f.conv = true ∧ f.timeout = false ∧ s.bandgapBad f.bandgap = false ∧
    f.dies = [(n, r)] ∧ f.remote = none ∧ f.others = [] ∧ 16 ≤ n ∧ n < 24 ∧ s.hkCarries f.conv (0x30 + n) = true ∧ s.hkSuspect = false ∧ -600 ≤ r ∧
    r ≤ 1750 ∧ r < s.rdI 16 Ix.TempWarn (n + 1) ∧ r < s.rdI 16 Ix.TempThrottle (n + 1) ∧ r < s.rdI 16 Ix.TempShutdown (n + 1) ∧ s.therm.warnEdge =
    false)
    ∧ (∃ (s : State) (f : HkFrame), f.conv < 2 ∧ s.hkWorks f.conv = true ∧ f.timeout = true ∧ s.therm.warnEdge = false)
    ∧ (∃ (s t : State) (k : HkCheck), s.therm.checkAt + msec (s.rd Ix.HkCheckInterval 0) ≤ s.now ∧ s.hkWorks 0 = true ∧ s.hkWorks 1 = true ∧ k.lateA
    = false ∧ k.lateB = false ∧ s.rd Ix.HkCheckChannel 0 ≠ 0x30 ∧ t = (({ s with therm := { s.therm with checkAt := s.now } } : State).wr
    Ix.HkCheckResult 1 k.a).wr Ix.HkCheckResult 2 k.b ∧ ((k.a : Int) - k.b).natAbs ≤ s.rd Ix.HkCheckTolerance 0)
    ∧ (∃ (s t : State) (k : HkCheck), s.therm.checkAt + msec (s.rd Ix.HkCheckInterval 0) ≤ s.now ∧ s.hkWorks 0 = true ∧ s.hkWorks 1 = true ∧ k.lateA
    = false ∧ k.lateB = false ∧ s.rd Ix.HkCheckChannel 0 ≠ 0x30 ∧ t = (({ s with therm := { s.therm with checkAt := s.now } } : State).wr
    Ix.HkCheckResult 1 k.a).wr Ix.HkCheckResult 2 k.b ∧ s.rd Ix.HkCheckTolerance 0 < ((k.a : Int) - k.b).natAbs)
    ∧ (∃ (s m t : State) (w : Caller), m = s.met w.port ∧ m.rdBit Ix.SafeHoldCauses 0 2 = false ∧ s.Orders w Ix.HkTrust 0 0 ∧ m.hkState 1 ≠ 3 ∧ t =
    { m with therm := { m.therm with trusted := true, stopped := false } })
    ∧ (∃ (s m t : State) (w : Caller), m = s.met w.port ∧ m.rdBit Ix.SafeHoldCauses 0 2 = false ∧ s.Orders w Ix.HkTrust 0 1 ∧ m.hkState 0 ≠ 3 ∧ t =
    { m with therm := { m.therm with trusted := true, stopped := false } })
    ∧ (∃ (s m t : State) (w : Caller), m = s.met w.port ∧ m.rdBit Ix.SafeHoldCauses 0 2 = false ∧ s.Orders w Ix.HkTrust 0 2 ∧ t =
    { m with therm := { m.therm with trusted := false, stopped := false } }) :=
  ⟨⟨up 3, ⟨1, false, 31457, [(23, 250)], none, []⟩, 23, 250, by decide +kernel, by decide +kernel, by decide +kernel, by decide +kernel,
   by decide +kernel, by decide +kernel, by decide +kernel, by decide +kernel, by decide +kernel, by decide +kernel, by decide +kernel,
   by decide +kernel, by decide +kernel, by decide +kernel, by decide +kernel, by decide +kernel, by decide +kernel⟩,
   ⟨up 3, ⟨1, true, 0, [], none, []⟩, by decide +kernel, by decide +kernel, by decide +kernel, by decide +kernel⟩,
   ⟨{ (up 3).wr Ix.HkCheckChannel 0 0x40 with now := msec 100000 }, _, ⟨8, 0, false, false⟩, by decide +kernel, by decide +kernel,
   by decide +kernel, by decide +kernel, by decide +kernel, by decide +kernel, rfl, by decide +kernel⟩,
   ⟨{ (up 3).wr Ix.HkCheckChannel 0 0x40 with now := msec 100000 }, _, ⟨100, 0, false, false⟩, by decide +kernel, by decide +kernel,
   by decide +kernel, by decide +kernel, by decide +kernel, by decide +kernel, rfl, by decide +kernel⟩,
   ⟨up 3, _, _, host, rfl, by decide +kernel, orders (by decide +kernel), by decide +kernel, rfl⟩,
   ⟨up 3, _, _, host, rfl, by decide +kernel, orders (by decide +kernel), by decide +kernel, rfl⟩,
   ⟨up 3, _, _, host, rfl, by decide +kernel, orders (by decide +kernel), rfl⟩⟩

/-- States and operands that meet the premises of `BiasOutputsFollow`, clause by clause. -/
theorem premises_BiasOutputsFollow :
    (∃ (s : State) (n : Nat), n < 144 ∧ s.byBload (n / 16) = true ∧ s.bias.held = [] ∧ s.bias.clears = 0 ∧ s.rdBit Ix.BiasStatus (n + 1) 0 = false ∧
    s.rd Ix.BiasRange (n + 1) = s.rd Ix.BiasRangeNow (n + 1))
    ∧ (∃ (s : State), bitAt s.bias.clears 0 = false ∧ s.bias.held = [])
    ∧ (∃ (s : State), s.bias.clears = 1 ∧ s.bias.held = [])
    ∧ (∃ (s : State) (n : Nat), s.rdBit Ix.BiasStatus (n + 1) 4 = false)
    ∧ (∃ (s : State) (n : Nat), s.rdBit Ix.BiasStatus (n + 1) 4 = true) :=
  ⟨⟨((up 3).wr Ix.BiasStrobeSource 9 1).wr Ix.BiasStatus 144 0, 143, by decide +kernel, by decide +kernel, by decide +kernel, by decide +kernel,
   by decide +kernel, by decide +kernel⟩,
   ⟨up 3, by decide +kernel, by decide +kernel⟩,
   ⟨{ up 3 with bias := { clears := 1 } }, by decide +kernel, by decide +kernel⟩,
   ⟨up 3, 143, by decide +kernel⟩,
   ⟨(up 3).wr Ix.BiasStatus 144 16, 143, by decide +kernel⟩⟩

/-- States and operands that meet the premises of `HeatAndFaultsAreHandled`, clause by clause. -/
theorem premises_HeatAndFaultsAreHandled_1 :
    (∃ (s : State) (n t : Nat) (v : SensorSys), s.sensor n = v ∧ v.graceAt = some t ∧ t + msec (s.rd Ix.ThrottleGrace 0) ≤ s.now ∧ s.rd
    Ix.ThrottleMode 0 = 1 ∧ v.counts = true)
    ∧ (∃ (s : State) (n t : Nat) (v : SensorSys), s.sensor n = v ∧ v.graceAt = some t ∧ t + msec (s.rd Ix.ThrottleGrace 0) ≤ s.now ∧ v.counts =
    false)
    ∧ (∃ (s : State) (n : Nat) (v : SensorSys), s.sensor n = v ∧ s.rd Ix.ThrottleMode 0 = 1 ∧ v.stepAt + msec 100 ≤ s.now ∧ v.enforce = true)
    ∧ (∃ (s : State) (n : Nat) (v : SensorSys), s.sensor n = v ∧ s.rd Ix.ThrottleMode 0 = 1 ∧ v.stepAt + msec 100 ≤ s.now ∧ v.enforce = false ∧
    v.counts = false ∧ (∃ t ∈ sensorTiles n, s.askedReduction n t ≠ 0))
    ∧ (∃ (s u : State) (t since : Nat), s.therm.floorSince.find? (fun c => c.1 == t) = some (t, since) ∧ s.rd Ix.ThrottleMuteDelay 0 ≠ 65535 ∧ since
    + msec (s.rd Ix.ThrottleMuteDelay 0) ≤ s.now ∧ s.rdBit Ix.TileMuted 0 t = false ∧ s.tileEnforced t = true ∧ s.rd Ix.ThrottleMode 0 = 1 ∧
    isSlotStart s.epoch = false ∧ u = (s.wrBit Ix.TileMuted 0 t true).raise 0x6C04 (t + 1) (packData [f8 t, fFlag true]))
    ∧ (∃ (s : State) (n since : Nat), s.therm.shut = some ⟨n, since, none⟩ ∧ since + msec 50 ≤ s.now)
    ∧ (∃ (s : State) (n since t : Nat), s.therm.shut = some ⟨n, since, some t⟩ ∧ t + usec 5 ≤ s.now)
    ∧ (∃ (s : State) (p : Nat), s.rd Ix.PathFault (p + 1) = 0 ∧ (s.path p).faultDue = 0) :=
  ⟨⟨{ ((up 3).setSensor 23 { graceAt := some 0, counts := true }).wr Ix.ThrottleMode 0 1 with now := msec 1000 }, 23, 0,
   { graceAt := some 0, counts := true }, by decide +kernel, by decide +kernel, by decide +kernel, by decide +kernel, by decide +kernel⟩,
   ⟨{ ((up 3).setSensor 23 { graceAt := some 0 }).wr Ix.ThrottleMode 0 1 with now := msec 1000 }, 23, 0, { graceAt := some 0 }, by decide +kernel,
   by decide +kernel, by decide +kernel, by decide +kernel⟩,
   ⟨{ ((up 3).setSensor 15 { enforce := true }).wr Ix.ThrottleMode 0 1 with now := msec 1000 }, 15, { enforce := true }, by decide +kernel,
   by decide +kernel, by decide +kernel, by decide +kernel⟩,
   ⟨{ { ((up 3).setSensor 15 {}).wr Ix.ThrottleMode 0 1 with now := msec 1000 } with therm := { sensors := [(15, { calmSince := 1 })], reduction := [(15 * 16 + 15, 50)] } },
   15, { calmSince := 1 }, by decide +kernel, by decide +kernel, by decide +kernel, by decide +kernel, by decide +kernel, by decide +kernel⟩,
   ⟨{ { ((up 3).setSensor 15 {}).wr Ix.ThrottleMode 0 1 with now := msec 1000 } with epoch := 1, therm := { sensors := [(15, { enforce := true, counts := true })], floorSince := [(15, 0)] } },
   _, 15, 0, by decide +kernel, by decide +kernel, by decide +kernel, by decide +kernel, by decide +kernel, by decide +kernel, by decide +kernel,
   rfl⟩,
   ⟨{ up 3 with now := msec 50, therm := { shut := some ⟨23, 0, none⟩ } }, 23, 0, by decide +kernel, by decide +kernel⟩,
   ⟨{ up 3 with now := usec 5, therm := { shut := some ⟨23, 0, some 0⟩ } }, 23, 0, 0, by decide +kernel, by decide +kernel⟩,
   ⟨up 3, 63, by decide +kernel, by decide +kernel⟩⟩

/-- States and operands that meet the premises of `HeatAndFaultsAreHandled`, clause by clause. -/
theorem premises_HeatAndFaultsAreHandled_2 :
    (∃ (s m : State) (w : Caller) (p : Nat), m = s.met w.port ∧ p < 64 ∧ s.Orders w Ix.PathFaultClear 0 p ∧ m.rd Ix.PathFault (p + 1) ≠ 0)
    ∧ (∃ (s m : State) (w : Caller) (r : Nat) (l : Lease), m = s.met w.port ∧ s.Orders w Ix.LeaseRevoke 0 r ∧ m.leaseOf r = some l ∧ l.owner /
    0x1000000 ≠ 5 ∧ r / 256 = 1 ∧ m.dmaState (r % 256) = 3)
    ∧ (∃ (s m : State) (w : Caller), m = s.met w.port ∧ s.Orders w Ix.FaultLogClear 0 1) :=
  ⟨⟨(up 3).wr Ix.PathFault 64 1, _, host, 63, rfl, by decide +kernel, orders (by decide +kernel), by decide +kernel⟩,
   ⟨{ dmaUp 3 {} with leases := [⟨0x10F, 0x1000000, none, none⟩] }, _, host, 0x10F, ⟨0x10F, 0x1000000, none, none⟩, rfl, orders (by decide +kernel),
   by decide +kernel, by decide +kernel, by decide +kernel, by decide +kernel⟩,
   ⟨up 3, _, host, rfl, orders (by decide +kernel)⟩⟩

/-- States and operands that meet the premises of `UnitsKeepToThemselves`, clause by clause. -/
theorem premises_UnitsKeepToThemselves :
    (∃ (s t : State) (p n : Nat) (b : Bool) (c : Instr), c ∈ [Instr.detectPulse p n, .trainDone p b, .portStateTimeout p, .failedTimeout p,
    .clockLoss p, .laneRejoin p n, .alignForce p, .chain p n, .resyncRetry p, .creditReturnSend p, .packetSend p, .echoInterval, .frameMarkerSend] ∧
    exec c s = .next t)
    ∧ (∃ (s t : State) (n : Nat) (c : Instr), c ∈ [Instr.bloadN, .bclrNFall, .bclrNRise, .biasShort n, .biasShortClear n] ∧ exec c s = .next t)
    ∧ (∃ (s t : State) (n : Nat) (c : Instr), c ∈ [Instr.throttleGrace n, .throttleStep n, .tileMute n, .shutdownDeadline] ∧ exec c s = .next t)
    ∧ (∃ (s t : State) (n a : Nat) (c : Instr), c ∈ [Instr.synLock n, .loBorrowSwitch n, .dcRange n a, .driverOvercurrent n] ∧ exec c s = .next t)
    ∧ (∃ (s t : State) (c : Instr), c ∈ [Instr.speDiversityDwell, .speCfoMove] ∧ exec c s = .next t) :=
  ⟨⟨linked 1 5 {}, State.setPort (linked 1 5 {}) 1 { (linked 1 5 {}).port 1 with alignFill := true }, 1, 0, true, .alignForce 1, by simp, rfl⟩,
   ⟨up 3, _, 0, .bclrNFall, by simp, rfl⟩,
   ⟨up 3, up 3, 0, .shutdownDeadline, by simp, rfl⟩,
   ⟨up 3, _, 0, 0, .synLock 0, by simp, rfl⟩,
   ⟨up 3, _, .speCfoMove, by simp, rfl⟩⟩

end Sys2Proof.Tests
end

section
/-! What the state after reset reads at each element of the Catalogue, and the statement of 00_scope.md on it. -/
namespace Sys2Proof.Machine

/-- A table that lists nothing but the default under a key reads as the default there. -/
theorem tget_of_lists_default {α : Type} {d : α} {k : Nat} {t : Tab α} (h : ∀ c ∈ t, c.1 = k → c.2 = d) : tget d k t = d := by
  induction t with
  | nil => rfl
  | cons c t ih =>
    obtain ⟨j, v⟩ := c
    rw [tget]
    split
    · next hj => exact h (j, v) (by simp) hj
    · exact ih fun c hc => h c (by simp [hc])

/-- The elements that `State.reset` lists: the state of AON, the reset cause, and BiasStatus of each output. -/
theorem mem_cat_reset {c : Nat × Nat} (h : c ∈ State.reset.cat) :
    c = (ck Ix.DomainState 1, 2) ∨ c = (ck Ix.ResetCause 0, 0x01000001) ∨ ∃ n < 144, c = (ck Ix.BiasStatus (n + 1), 1) := by
  simp only [State.reset, List.mem_append, List.mem_cons, List.not_mem_nil, or_false, List.mem_map, List.mem_range] at h
  obtain (rfl | rfl) | ⟨n, hn, rfl⟩ := h
  · exact .inl rfl
  · exact .inr (.inl rfl)
  · exact .inr (.inr ⟨n, hn, by simp [ck, Ix.BiasStatus]; omega⟩)

/-- An element of any entry but those three is at its default after reset (R9). -/
theorem State.rd_reset_of_index {index sub : Nat} (hs : sub < 256) (h : index ∉ [Ix.DomainState, Ix.ResetCause, Ix.BiasStatus]) :
    State.reset.rd index sub = entryDefault index sub := by
  simp only [List.mem_cons, List.not_mem_nil, or_false, not_or] at h
  obtain ⟨hd, hr, hb⟩ := h
  refine tget_of_lists_default fun c hc hk => ?_
  obtain rfl | rfl | ⟨n, hn, rfl⟩ := mem_cat_reset hc
  · exact absurd hk.symm (ck_ne_index hs (by decide) hd)
  · exact absurd hk.symm (ck_ne_index hs (by decide) hr)
  · exact absurd hk.symm (ck_ne_index hs (by omega) hb)

/-- WIDEST is 1 (cold), SOURCE 0 (power-on) and its sticky bit is the one that is set (R377, Table 17.3). -/
theorem State.rd_reset_resetCause : State.reset.rd Ix.ResetCause 0 = 0x01000001 := rfl

/-- AON is on (Table 16.1). -/
theorem State.rd_reset_domainState_aon : State.reset.rd Ix.DomainState 1 = 2 := rfl

/-- No domain but AON has a state other than the default, off (Table 16.1). -/
theorem State.rd_reset_domainState_of_ne {d : Nat} (hd : d < 12) (h0 : d ≠ 0) : State.reset.rd Ix.DomainState (d + 1) = 0 := by
  have hdflt : ∀ d < 12, entryDefault Ix.DomainState (d + 1) = 0 := by decide
  have hrd : State.reset.rd Ix.DomainState (d + 1) = entryDefault Ix.DomainState (d + 1) := by
    refine tget_of_lists_default fun c hc hk => ?_
    obtain rfl | rfl | ⟨n, hn, rfl⟩ := mem_cat_reset hc
    · exact absurd hk.symm (ck_ne_sub (by omega))
    · exact absurd hk.symm (ck_ne_index (by omega) (by decide) (by decide))
    · exact absurd hk.symm (ck_ne_index (by omega) (by omega) (by decide))
  rw [hrd, hdflt d hd]

theorem State.domainOn_reset {d : Nat} (hd : d < 12) : State.reset.domainOn d = decide (d = 0) := by
  unfold State.domainOn
  by_cases h0 : d = 0
  · subst h0
    rw [State.rd_reset_domainState_aon]
    rfl
  · simp [State.rd_reset_domainState_of_ne hd h0, h0]

theorem entryDefault_biasStatus {n : Nat} (hn : n < 144) : entryDefault Ix.BiasStatus (n + 1) = 1 := by
  have hrow : findEntry Ix.BiasStatus (n + 1) = some ⟨0x6846, 1, 144, .u8, .ro, [1], .any, 0xff⟩ := by
    simpa [findEntry, entriesPage, entries68, Ix.BiasStatus] using hn
  simp [entryDefault, hrow]

/-- Every bias output is clamped: bit 0 of its BiasStatus (R404). -/
theorem State.rd_reset_biasStatus {n : Nat} (hn : n < 144) : State.reset.rd Ix.BiasStatus (n + 1) = 1 := by
  have hrd : State.reset.rd Ix.BiasStatus (n + 1) = entryDefault Ix.BiasStatus (n + 1) := by
    refine tget_of_lists_default fun c hc hk => ?_
    obtain rfl | rfl | ⟨m, -, rfl⟩ := mem_cat_reset hc
    · exact absurd hk.symm (ck_ne_index (by omega) (by decide) (by decide))
    · exact absurd hk.symm (ck_ne_index (by omega) (by decide) (by decide))
    · exact (entryDefault_biasStatus hn).symm
  rw [hrd, entryDefault_biasStatus hn]

/-- Settles O59: each entry's value is read through what `State.reset` lists (`mem_cat_reset`); what it does not list is at the table's default (R9).
That the queues and the memories are empty, and that the state is the one at the assertion of power-on, is the model's choice (log entries 2, 6
and 19). -/
theorem resetLeavesTheDefaults : Obligations.ResetLeavesTheDefaults := by
  unfold Obligations.ResetLeavesTheDefaults
  refine ⟨rfl, State.rd_reset_resetCause, fun d hd => State.domainOn_reset hd, fun n hn => ?_, rfl, rfl, rfl, rfl, ?_⟩
  · rw [State.rdBit, State.rd_reset_biasStatus hn]
    rfl
  · intro x hx
    rw [State.rd_reset_of_index (by decide) ?_]
    all_goals revert x; decide

end Sys2Proof.Machine
end

section
/-! What the memories read after a store, and the statement of 01_architecture.md on it (R14, R320, R333). -/
namespace Sys2Proof.Machine

/-! Tables cut by their keys -/

/-- A table cut by a condition on its keys reads as before at the keys that are kept, and as the default elsewhere. -/
theorem tget_filter_key {α : Type} (d : α) (k : Nat) (p : Nat → Bool) (t : Tab α) :
    tget d k (t.filter (fun c => p c.1)) = if p k then tget d k t else d := by
  induction t with
  | nil => simp [tget]
  | cons c t ih =>
    obtain ⟨j, v⟩ := c
    by_cases hk : j = k
    · subst hk
      cases hp : p j <;> simp [hp, tget, ih]
    · cases hp : p j <;> simp [hp, tget, hk, ih]

theorem tget_of_unlisted {α : Type} {d : α} {k : Nat} {t : Tab α} (h : ∀ c ∈ t, c.1 ≠ k) : tget d k t = d :=
  tget_of_lists_default fun c hc hk => absurd hk (h c hc)

/-- A key that the first of two tables does not list is read in the second. -/
theorem tget_append_of_unlisted_left {α : Type} {d : α} {k : Nat} {t u : Tab α} (h : ∀ c ∈ t, c.1 ≠ k) :
    tget d k (t ++ u) = tget d k u := by
  induction t with
  | nil => rfl
  | cons c t ih =>
    rw [List.cons_append, tget, if_neg (h c (by simp)), ih fun x hx => h x (by simp [hx])]

/-- A key that the second of two tables does not list is read in the first. -/
theorem tget_append_of_unlisted_right {α : Type} {d : α} {k : Nat} {t u : Tab α} (h : ∀ c ∈ u, c.1 ≠ k) :
    tget d k (t ++ u) = tget d k t := by
  induction t with
  | nil => exact tget_of_unlisted h
  | cons c t ih => rw [List.cons_append, tget, tget, ih]

/-! Bytes stored -/

/-- The cells of bytes from an address upward. -/
theorem tget_cells (a b n : Nat) (l : List Byte) :
    tget unwrittenByte b (((l.zipIdx n).map (fun c => (a + c.2, c.1))).filter (fun c => c.2 != unwrittenByte))
      = if a + n ≤ b then l.getD (b - (a + n)) 0 else unwrittenByte := by
  induction l generalizing n with
  | nil => simp [tget, unwrittenByte]
  | cons x l ih =>
    have hstep : ∀ z : Byte, a + n ≠ b → (if a + (n + 1) ≤ b then l.getD (b - (a + (n + 1))) 0 else z)
        = if a + n ≤ b then (x :: l).getD (b - (a + n)) 0 else z := by
      intro z hne
      split
      · rw [if_pos (by omega), show b - (a + n) = (b - (a + (n + 1))) + 1 by omega, List.getD_cons_succ]
      · rw [if_neg (by omega)]
    rw [List.zipIdx_cons, List.map_cons, List.filter_cons]
    by_cases hb : a + n = b
    · subst hb
      split
      · simp [tget]
      · next hx =>
        rw [ih, if_neg (by omega)]
        simpa using (not_not.1 (by simpa using hx) : x = unwrittenByte).symm
    · split
      · rw [tget, if_neg hb, ih, hstep _ hb]
      · rw [ih, hstep _ hb]

/-- A store of a range is read back, and every other key reads as before, whatever the table. -/
theorem tget_storeRange (a b : Nat) (l : List Byte) (t : Tab Byte) :
    tget unwrittenByte b (storeRange a l t) = if a ≤ b ∧ b < a + l.length then l.getD (b - a) 0 else tget unwrittenByte b t := by
  have hnew : ∀ c ∈ (l.zipIdx.map (fun c => (a + c.2, c.1))).filter (fun c => c.2 != unwrittenByte), a ≤ c.1 ∧ c.1 < a + l.length :=
    fun c hc => by simpa using (pairwise_zipIdx_map a l 0).2 c (List.mem_filter.1 hc).1
  have hbelow : ∀ c ∈ t.filter (fun c => decide (c.1 < a)), c.1 < a := fun c hc => by simpa using (List.mem_filter.1 hc).2
  have habove : ∀ c ∈ t.filter (fun c => decide (a + l.length ≤ c.1)), a + l.length ≤ c.1 :=
    fun c hc => by simpa using (List.mem_filter.1 hc).2
  unfold storeRange
  dsimp only
  rcases lt_or_ge b a with h | h
  · rw [if_neg (by omega), tget_append_of_unlisted_right (fun c hc => by have := habove c hc; omega),
      tget_append_of_unlisted_right (fun c hc => by have := hnew c hc; omega), tget_filter_key _ _ (fun k => decide (k < a)),
      if_pos (by simpa using h)]
  · rw [List.append_assoc, tget_append_of_unlisted_left (fun c hc => by have := hbelow c hc; omega)]
    rcases lt_or_ge b (a + l.length) with h' | h'
    · rw [if_pos ⟨h, h'⟩, tget_append_of_unlisted_right (fun c hc => by have := habove c hc; omega), tget_cells, if_pos (by omega)]
      rfl
    · rw [if_neg (by omega), tget_append_of_unlisted_left (fun c hc => by have := hnew c hc; omega),
        tget_filter_key _ _ (fun k => decide (a + l.length ≤ k)), if_pos (by simpa using h')]

theorem State.byteAt_storeBytes (s : State) (a b : Nat) (l : List Byte) :
    (s.storeBytes a l).byteAt b = if a ≤ b ∧ b < a + l.length then l.getD (b - a) 0 else s.byteAt b :=
  tget_storeRange a b l s.mem.bytes

/-- A whole word stored stands there without the mark, and no other byte changes (R333). -/
theorem State.storeInWord_whole {s : State} (a : Nat) {l : List Byte} (h : l.length = 4) :
    (s.storeInWord a l).poisoned a = false
      ∧ ∀ b, (s.storeInWord a l).byteAt b = if a ≤ b ∧ b < a + 4 then l.getD (b - a) 0 else s.byteAt b := by
  unfold State.storeInWord
  rw [if_pos h]
  refine ⟨by simp [State.poisoned, State.storeBytes], fun b => ?_⟩
  rw [State.byteAt_storeBytes, h]
  rfl

/-! What a write does beside storing leaves the bytes alone outside the Library -/

@[simp] theorem State.folioWritten_mem (s : State) (a : Nat) : (s.folioWritten a).mem = s.mem := by
  simp only [State.folioWritten]
  split
  · split <;> simp
  · exact foldl_same (g := State.mem) (fun t i => by split <;> simp) _ s

@[simp] theorem State.cancelWritten_mem (s : State) (slot : Nat) : (s.cancelWritten slot).mem = s.mem := by
  simp only [State.cancelWritten]
  split
  · simp
  · split <;> rfl

@[simp] theorem State.captureWritten_mem (s : State) (a : Nat) : (s.captureWritten a).mem = s.mem := by
  simp only [State.captureWritten]
  split <;> rfl

@[simp] theorem State.noteAltered_mem (s : State) (m : Master) (a : Nat) : (s.noteAltered m a).mem = s.mem := by
  simp only [State.noteAltered]
  split <;> simp

@[simp] theorem State.noteCodeHit_byteAt (s : State) (m : Master) (a b : Nat) : (s.noteCodeHit m a).byteAt b = s.byteAt b := by
  simp only [State.noteCodeHit]
  split <;> rfl

theorem State.byteAt_of_mem {s t : State} (h : t.mem = s.mem) (b : Nat) : t.byteAt b = s.byteAt b := by
  rw [State.byteAt, State.byteAt, h]

theorem State.regionWritten_byteAt {s : State} {a : Nat} (h : s.libraryEntryAt a = none) (m : Master) (b : Nat) :
    (s.regionWritten m a).byteAt b = s.byteAt b := by
  unfold State.regionWritten
  split
  · simp only [h]
    apply State.byteAt_of_mem
    rw [State.noteAltered_mem, State.captureWritten_mem]
    split
    · exact State.cancelWritten_mem s _
    · rfl
  · exact State.byteAt_of_mem (State.folioWritten_mem s a) b
  · rw [State.noteCodeHit_byteAt, State.byteAt_of_mem (State.noteAltered_mem s m a)]
  · rfl

/-! Locks -/

theorem State.lockedOut_of_no_journals {s : State} (h : s.mem.journals = []) (m : Master) (a : Nat) : s.lockedOut m a = false := by
  simp [State.lockedOut, h]

theorem State.journalWrite_of_no_journals {s : State} (h : s.mem.journals = []) (m : Master) (a : Nat) :
    s.journalWrite m a = some s := by
  have hs : ({ s with mem := { s.mem with journals := [] } } : State) = s := by rw [← h]
  simp [State.journalWrite, h, hs]

/-- A master's unmarked write to a live region outside the capture rings and the flash, with no lock held: what the region does beside,
and the store (R14, R333). -/
theorem State.writeWord_stores {s : State} {a r : Nat} (hr : regionOf a = some r) (h4 : r ≠ 4) (h6 : r ≠ 6)
    (hd : s.targetDead r a = false) (hj : s.mem.journals = []) (m : Master) (l : List Byte) :
    s.writeWord m a l false = (false, (s.regionWritten m a).storeInWord a l) := by
  simp [State.writeWord, hr, h4, h6, hd, State.lockedOut_of_no_journals hj, State.journalWrite_of_no_journals hj]

theorem State.readWord_outside {s : State} {a : Nat} (h : regionOf a = none) (m : Master) :
    s.readWord m a = (⟨0, true, true⟩, s) := by
  simp [State.readWord, h]

theorem State.writeWord_outside {s : State} {a : Nat} (h : regionOf a = none) (m : Master) (l : List Byte) (p : Bool) :
    s.writeWord m a l p = (true, s) := by
  simp [State.writeWord, h]

/-- Settles O47: a store is read back through the table it cuts (`tget_storeRange`), and what a write does beside storing touches no byte outside
the Library (`State.regionWritten_byteAt`). -/
theorem memoryKeepsWhatIsWritten : Obligations.MemoryKeepsWhatIsWritten := by
  unfold Obligations.MemoryKeepsWhatIsWritten
  refine ⟨State.byteAt_storeBytes, ?_, fun s m a l p h => ⟨State.readWord_outside h m, State.writeWord_outside h m l p⟩⟩
  intro s m a r l hr h4 h6 hd hj hlib hl _
  obtain ⟨hmark, hbytes⟩ := State.storeInWord_whole (s := s.regionWritten m a) a hl
  refine ⟨_, State.writeWord_stores hr h4 h6 hd hj m l, hmark, fun b => ?_⟩
  rw [hbytes, State.regionWritten_byteAt hlib]

end Sys2Proof.Machine
end

section
/-! Mode requests, the transitions they start, and the statements of 01_architecture.md on them (R24 to R29, R364, R422). -/
namespace Sys2Proof.Machine

/-! Entries that events leave alone -/

/-- The keys of the counters that a full event queue and a full fault log step (R83, R424). -/
def eventCounters : List Nat := [ck Ix.EventsLost 0, ck Ix.FaultLogOverwrites 0]

theorem State.rd_queueEvent {s : State} {i u : Nat} (h : ck i u ∉ eventCounters) (r : EventRec) : (s.queueEvent r).rd i u = s.rd i u := by
  simp only [eventCounters, List.mem_cons, not_or] at h
  unfold State.queueEvent
  split
  · rfl
  · exact State.rd_bump_ne h.1

theorem State.rd_logFault {s : State} {i u : Nat} (h : ck i u ∉ eventCounters) (r : EventRec) (cls : Nat) (led : Bool) :
    (s.logFault r cls led).rd i u = s.rd i u := by
  simp only [eventCounters, List.mem_cons, not_or] at h
  unfold State.logFault
  dsimp only
  split
  · rfl
  · exact State.rd_bump_ne h.2.1

theorem State.rd_raiseAt {s : State} {i u : Nat} (h : ck i u ∉ eventCounters) (code index sub data : Nat) (led : Bool) :
    (s.raiseAt code index sub data led).rd i u = s.rd i u := by
  unfold State.raiseAt
  dsimp only
  split
  · rw [State.rd_logFault h, State.rd_queueEvent h]
  · exact State.rd_queueEvent h _

theorem State.rd_failTarget {s : State} {i u : Nat} (h : ck i u ∉ eventCounters) (t : Target) (reason : Nat) :
    (s.failTarget t reason).rd i u = s.rd i u := by
  cases t <;> exact State.rd_raiseAt h _ _ _ _ _

/-! Requests abandoned -/

@[simp] theorem State.failTarget_modes (s : State) (t : Target) (reason : Nat) : (s.failTarget t reason).modes = s.modes := by
  cases t <;> simp [State.failTarget]
@[simp] theorem State.failTarget_mem (s : State) (t : Target) (reason : Nat) : (s.failTarget t reason).mem = s.mem := by
  cases t <;> simp [State.failTarget]
@[simp] theorem State.failTarget_dom (s : State) (t : Target) (reason : Nat) : (s.failTarget t reason).dom = s.dom := by
  cases t <;> simp [State.failTarget]
@[simp] theorem State.failTarget_epoch (s : State) (t : Target) (reason : Nat) : (s.failTarget t reason).epoch = s.epoch := by
  cases t <;> simp [State.failTarget]

/-- The pending request is dropped, and reported (R29 step 4). -/
def State.dropPending (s : State) : State :=
  match s.modes.pending with
  | some t => ({ s with modes := { s.modes with pending := none } } : State).failTarget t.target (preempted t.target)
  | none => s

/-- The transition under way is abandoned: at once, or at the end of the step in progress (R29 step 3). -/
def State.dropUnderWay (s : State) : State :=
  match s.modes.underWay with
  | none => s
  | some t =>
    if s.modes.stepBusy then { s with modes := { s.modes with underWay := none, abandoned := some t.target } }
    else ({ s with modes := { s.modes with underWay := none } } : State).failTarget t.target (preempted t.target)

theorem State.abandonTransitions_eq (s : State) : s.abandonTransitions = s.dropPending.dropUnderWay := by
  unfold State.abandonTransitions State.dropUnderWay State.dropPending
  rfl

theorem State.dropPending_pending (s : State) : s.dropPending.modes.pending = none := by
  unfold State.dropPending
  split
  · simp
  · assumption

theorem State.dropUnderWay_underWay (s : State) : s.dropUnderWay.modes.underWay = none := by
  unfold State.dropUnderWay
  split
  · assumption
  · split <;> simp

theorem State.dropUnderWay_pending (s : State) : s.dropUnderWay.modes.pending = s.modes.pending := by
  unfold State.dropUnderWay
  split
  · rfl
  · split <;> simp

/-- A part that neither the record of the modes nor an event touches stands through both. -/
theorem State.abandonTransitions_same {β : Type} {g : State → β} (hm : ∀ s x, g { s with modes := x } = g s)
    (hf : ∀ s t n, g (State.failTarget s t n) = g s) (s : State) : g s.abandonTransitions = g s := by
  have hp : g s.dropPending = g s := by
    unfold State.dropPending
    split
    · rw [hf, hm]
    · rfl
  rw [State.abandonTransitions_eq, ← hp]
  unfold State.dropUnderWay
  split
  · rfl
  · split
    · rw [hm]
    · rw [hf, hm]

/-! Requests taken -/

/-- What `ModeRequest` is written with: the mode, and bit 8 for ASAP (R25). -/
def requestCode (to_ : Nat) (asap : Bool) : Nat := to_ + (if asap then 256 else 0)

theorem requestCode_mode {to_ : Nat} (h : to_ < 7) (asap : Bool) : requestCode to_ asap % 256 = to_ := by
  cases asap <;> simp [requestCode] <;> omega

theorem requestCode_asap {to_ : Nat} (h : to_ < 7) (asap : Bool) : bitAt (requestCode to_ asap) 8 = asap := by
  cases asap <;> simp [requestCode, bitAt] <;> omega

/-- A device takes a request for a mode at the epoch that `ModeTargetEpoch` names: Table 1.5 and R26 allow it, it asks for another mode, and its
target is within the limit of R36. -/
structure State.TakesMode (m : State) (to_ target : Nat) : Prop where
  code : to_ < 7
  named : target = m.rdEpoch Ix.ModeTargetEpoch 0
  allowed : m.modeRefused m.modeFrom to_ target = false
  other : to_ ≠ m.modeFrom
  within : m.beyondLimit target = false

/-- A request that is taken waits behind a transition under way, and otherwise is held to its lead time (R25, R28). -/
theorem State.TakesMode.modeRequest {m : State} {to_ target : Nat} (h : m.TakesMode to_ target) (asap array : Bool) :
    m.modeRequest (requestCode to_ asap) array =
      if m.modes.underWay.isSome ∨ m.modes.abandoned.isSome then .ok (m.holdPending ⟨.mode to_, target, asap, array, false, false⟩)
      else if epLe (m.modeEarliest m.modeFrom to_ array) target then .ok (m.beginTransition ⟨.mode to_, target, asap, array, false, false⟩)
      else if asap then .ok (m.beginTransition ⟨.mode to_, m.modeEarliest m.modeFrom to_ array, asap, array, false, true⟩)
      else .error ⟨abLate, 0⟩ := by
  obtain ⟨hc, rfl, ha, ho, hw⟩ := h
  have h7 : ¬ 7 < to_ := by omega
  simp only [State.modeRequest, requestCode_mode hc, requestCode_asap hc, h7, ho, ha, hw, if_false, Bool.false_eq_true]

theorem State.TakesMode.modeRequest_held {m : State} {to_ target : Nat} (h : m.TakesMode to_ target) (asap array : Bool)
    (hu : m.modes.underWay ≠ none) :
    m.modeRequest (requestCode to_ asap) array = .ok (m.holdPending ⟨.mode to_, target, asap, array, false, false⟩) := by
  rw [h.modeRequest, if_pos (.inl (Option.isSome_iff_ne_none.2 hu))]

theorem State.TakesMode.modeRequest_inTime {m : State} {to_ target : Nat} (h : m.TakesMode to_ target) (asap array : Bool)
    (hu : m.modes.underWay = none) (hb : m.modes.abandoned = none) (he : epLe (m.modeEarliest m.modeFrom to_ array) target = true) :
    m.modeRequest (requestCode to_ asap) array = .ok (m.beginTransition ⟨.mode to_, target, asap, array, false, false⟩) := by
  rw [h.modeRequest, if_neg (by simp [hu, hb]), if_pos he]

theorem State.TakesMode.modeRequest_asap {m : State} {to_ target : Nat} (h : m.TakesMode to_ target) (array : Bool)
    (hu : m.modes.underWay = none) (hb : m.modes.abandoned = none) (he : epLe (m.modeEarliest m.modeFrom to_ array) target = false) :
    m.modeRequest (requestCode to_ true) array
      = .ok (m.beginTransition ⟨.mode to_, m.modeEarliest m.modeFrom to_ array, true, array, false, true⟩) := by
  rw [h.modeRequest, if_neg (by simp [hu, hb]), if_neg (by simp [he]), if_pos rfl]

theorem State.writeScalar_modeAsked (m : State) (v : Nat) : m.writeScalar Ix.ModeRequest 0 v = m.modeAsked v := by
  simp only [State.writeScalar, State.scalarAct, Ix.ModeRequest, Option.getD_some]

theorem State.writeScalar_arrayModeAsked (m : State) (v : Nat) : m.writeScalar Ix.ArrayModeRequest 0 v = m.arrayModeAsked v := by
  simp only [State.writeScalar, State.scalarAct, Ix.ArrayModeRequest, Option.getD_some]

/-- `ModeRequest` for a mode other than Safe Hold asks for a transition of this device (R25). -/
theorem State.writeScalar_modeRequest (m : State) {to_ : Nat} (h : to_ < 7) (asap : Bool) :
    m.writeScalar Ix.ModeRequest 0 (requestCode to_ asap) = m.modeRequest (requestCode to_ asap) false := by
  have h7 : requestCode to_ asap % 256 ≠ 7 := by rw [requestCode_mode h]; omega
  rw [State.writeScalar_modeAsked, State.modeAsked, if_neg h7]

/-- A device alone asks no other: `ArrayModeRequest` is accepted with its own answer (R25, R77). -/
theorem State.writeScalar_arrayModeRequest {m t : State} {to_ : Nat} {asap : Bool} (h : to_ < 7) (hn : m.arrayN ≤ 1)
    (ht : m.modeRequest (requestCode to_ asap) true = .ok t) :
    m.writeScalar Ix.ArrayModeRequest 0 (requestCode to_ asap) = .ok { t with free := m.free } := by
  have h7 : requestCode to_ asap % 256 ≠ 7 := by rw [requestCode_mode h]; omega
  have hp : m.peerRefusal = (none, m) := by simp [State.peerRefusal, hn]
  simp only [State.writeScalar_arrayModeAsked, State.arrayModeAsked, if_neg h7, ht, hp]

/-- What `ModeRequest` gives ends the command, where it leaves the requests and the reset record alone. -/
theorem exec_modeRequest {s t : State} {w : Caller} {v : Nat} (h : s.Orders w Ix.ModeRequest 0 v)
    (ht : (s.met w.port).writeScalar Ix.ModeRequest 0 v = .ok t) (hh : t.host = (s.met w.port).host)
    (hr : t.reset_ = (s.met w.port).reset_) : exec (.modeRequest w v) s = .next (t.ended w Ix.ModeRequest 0 v) :=
  congrArg Host.Outcome.next (h.runSame rfl ht hh hr)

theorem exec_modeRequest_begins {s : State} {w : Caller} {v : Nat} {x : Transition} (h : s.Orders w Ix.ModeRequest 0 v)
    (ht : (s.met w.port).writeScalar Ix.ModeRequest 0 v = .ok ((s.met w.port).beginTransition x)) :
    exec (.modeRequest w v) s = .next (((s.met w.port).beginTransition x).ended w Ix.ModeRequest 0 v) :=
  exec_modeRequest h ht (State.beginTransition_host _ _) (State.beginTransition_reset _ _)

theorem exec_arrayModeRequest {s t : State} {w : Caller} {v : Nat} (h : s.Orders w Ix.ArrayModeRequest 0 v)
    (ht : (s.met w.port).writeScalar Ix.ArrayModeRequest 0 v = .ok t) (hh : t.host = (s.met w.port).host)
    (hr : t.reset_ = (s.met w.port).reset_) : exec (.arrayModeRequest w v) s = .next (t.ended w Ix.ArrayModeRequest 0 v) :=
  congrArg Host.Outcome.next (h.runSame rfl ht hh hr)

/-! Safe Hold asked for -/

theorem bitAt_setBit (v i : Nat) : bitAt (setBit v i true) i = true := by
  have hdiv : (setBit v i true) / 2 ^ i = v / 2 ^ i - v / 2 ^ i % 2 + 1 := by
    simp only [setBit, if_true]
    rw [Nat.add_div_right _ (Nat.two_pow_pos i), Nat.mul_comm, Nat.sub_mul_div]
  rw [bitAt, hdiv, beq_iff_eq]
  omega

theorem State.rdBit_wrBit_same (s : State) (index sub bit : Nat) : (s.wrBit index sub bit true).rdBit index sub bit = true := by
  rw [State.rdBit, State.wrBit, State.rd_wr_same, bitAt_setBit]

theorem State.mode_wrBit_safeHoldCauses (s : State) (bit : Nat) (b : Bool) : (s.wrBit Ix.SafeHoldCauses 0 bit b).mode = s.mode :=
  State.rd_wr_ne (by decide)

/-- A cause is recorded and reported, and the transitions are abandoned (R29, R422). -/
def State.causeRecorded (s : State) (bit : Nat) : State :=
  ((s.wrBit Ix.SafeHoldCauses 0 bit true).raiseAt 0x7004 Ix.SafeHoldCauses 0 (packData [f8 bit, fFlag true])
    (s.mode != 7)).abandonTransitions

theorem State.rd_abandonTransitions {s : State} {i u : Nat} (h : ck i u ∉ eventCounters) : s.abandonTransitions.rd i u = s.rd i u :=
  State.abandonTransitions_same (g := fun s => s.rd i u) (fun _ _ => rfl) (fun _ _ _ => State.rd_failTarget h _ _) s

theorem State.rd_causeRecorded {s : State} {i u : Nat} (h : ck i u ∉ eventCounters) (bit : Nat) :
    (s.causeRecorded bit).rd i u = (s.wrBit Ix.SafeHoldCauses 0 bit true).rd i u := by
  rw [State.causeRecorded, State.rd_abandonTransitions h, State.rd_raiseAt h]

/-- A part that neither the Catalogue's bits, the record of the modes nor an event touches stands through a cause. -/
theorem State.causeRecorded_same {β : Type} {g : State → β} (hm : ∀ s x, g { s with modes := x } = g s)
    (hf : ∀ s t n, g (State.failTarget s t n) = g s) (hr : ∀ s c i u d l, g (State.raiseAt s c i u d l) = g s)
    (hw : ∀ s i u n b, g (State.wrBit s i u n b) = g s) (s : State) (bit : Nat) : g (s.causeRecorded bit) = g s := by
  rw [State.causeRecorded, State.abandonTransitions_same hm hf, hr, hw]

@[simp] theorem State.causeRecorded_mem (s : State) (bit : Nat) : (s.causeRecorded bit).mem = s.mem :=
  State.causeRecorded_same (g := State.mem) (by simp) (by simp) (by simp) (by simp) s bit
@[simp] theorem State.causeRecorded_dom (s : State) (bit : Nat) : (s.causeRecorded bit).dom = s.dom :=
  State.causeRecorded_same (g := State.dom) (by simp) (by simp) (by simp) (by simp) s bit
@[simp] theorem State.causeRecorded_epoch (s : State) (bit : Nat) : (s.causeRecorded bit).epoch = s.epoch :=
  State.causeRecorded_same (g := State.epoch) (by simp) (by simp) (by simp) (by simp) s bit
@[simp] theorem State.causeRecorded_host (s : State) (bit : Nat) : (s.causeRecorded bit).host = s.host :=
  State.causeRecorded_same (g := State.host) (by simp) (by simp) (by simp) (by simp) s bit

@[simp] theorem State.causeRecorded_pending (s : State) (bit : Nat) : (s.causeRecorded bit).modes.pending = none := by
  rw [State.causeRecorded, State.abandonTransitions_eq, State.dropUnderWay_pending, State.dropPending_pending]

@[simp] theorem State.causeRecorded_underWay (s : State) (bit : Nat) : (s.causeRecorded bit).modes.underWay = none := by
  rw [State.causeRecorded, State.abandonTransitions_eq, State.dropUnderWay_underWay]

@[simp] theorem State.causeRecorded_rdBit (s : State) (bit : Nat) : (s.causeRecorded bit).rdBit Ix.SafeHoldCauses 0 bit = true := by
  rw [State.rdBit, State.rd_causeRecorded (by decide), ← State.rdBit, State.rdBit_wrBit_same]

/-- Safe Hold is due at the next tick (R29). -/
def State.safeHoldDue (s : State) : State := { s with modes := { s.modes with safeHoldDue := true } }

@[simp] theorem State.safeHoldDue_safeHoldDue (s : State) : s.safeHoldDue.modes.safeHoldDue = true := rfl
@[simp] theorem State.safeHoldDue_pending (s : State) : s.safeHoldDue.modes.pending = s.modes.pending := rfl
@[simp] theorem State.safeHoldDue_underWay (s : State) : s.safeHoldDue.modes.underWay = s.modes.underWay := rfl
@[simp] theorem State.safeHoldDue_mem (s : State) : s.safeHoldDue.mem = s.mem := rfl
@[simp] theorem State.safeHoldDue_dom (s : State) : s.safeHoldDue.dom = s.dom := rfl
@[simp] theorem State.safeHoldDue_epoch (s : State) : s.safeHoldDue.epoch = s.epoch := rfl
@[simp] theorem State.safeHoldDue_host (s : State) : s.safeHoldDue.host = s.host := rfl
@[simp] theorem State.safeHoldDue_rdBit (s : State) (index sub bit : Nat) : s.safeHoldDue.rdBit index sub bit = s.rdBit index sub bit := rfl

/-- Outside Safe Hold a cause that becomes active makes Safe Hold due (R29). -/
theorem State.causeActive_eq {s : State} {bit : Nat} (h : s.rdBit Ix.SafeHoldCauses 0 bit = false) (hm : s.mode ≠ 7) :
    s.causeActive bit = (s.causeRecorded bit).safeHoldDue := by
  have hmode : (s.causeRecorded bit).mode ≠ 7 := by
    rwa [State.mode, State.rd_causeRecorded (by decide), ← State.mode, State.mode_wrBit_safeHoldCauses]
  have hwas : (s.wrBit Ix.SafeHoldCauses 0 bit true).mode = s.mode := State.mode_wrBit_safeHoldCauses s bit true
  unfold State.causeRecorded State.safeHoldDue at *
  simp only [State.causeActive, h, hwas, Bool.false_eq_true, if_false, if_neg hmode]

/-- `ModeRequest` with code 0x07 from a mode whose domains serve Safe Hold (R29). -/
theorem State.writeScalar_safeHold {m : State} (h1 : m.mode ≠ 1) (h2 : m.mode ≠ 2) (h7 : m.mode ≠ 7) :
    m.writeScalar Ix.ModeRequest 0 7 = .ok (m.causeActive 0) := by
  simp [State.writeScalar_modeAsked, State.modeAsked, State.safeHoldRequest, h1, h2, h7]

theorem exec_safeHoldRequest {s : State} {w : Caller} (h : s.Orders w Ix.ModeRequest 0 7)
    (ht : (s.met w.port).writeScalar Ix.ModeRequest 0 7 = .ok ((s.met w.port).causeActive 0)) :
    exec (.safeHoldRequest w) s = .next (((s.met w.port).causeActive 0).ended w Ix.ModeRequest 0 7) :=
  congrArg Host.Outcome.next (h.runSame rfl ht (State.causeActive_host _ _) (State.causeActive_reset _ _))

/-- Settles O13: a request that is taken is held or starts (`State.TakesMode.modeRequest`), and what it gives ends the command; a request for Safe
Hold activates the HOST cause (`State.causeActive_eq`). -/
theorem modeRequestsAreTaken : Obligations.ModeRequestsAreTaken := by
  unfold Obligations.ModeRequestsAreTaken
  refine ⟨?starts, ?held, ?array, ?safeHold⟩
  case starts =>
    rintro s m t w v to_ target asap rfl hv hc ho hn ha hother hl hb hu hstart
    obtain rfl : v = requestCode to_ asap := hv
    have htakes : (s.met w.port).TakesMode to_ target := ⟨hc, hn, ha, hother, hl⟩
    obtain ⟨he, rfl⟩ | ⟨he, rfl, rfl⟩ := hstart
    · exact exec_modeRequest_begins ho
        ((State.writeScalar_modeRequest _ hc asap).trans (htakes.modeRequest_inTime asap false hu hb he))
    · exact exec_modeRequest_begins ho ((State.writeScalar_modeRequest _ hc true).trans (htakes.modeRequest_asap false hu hb he))
  case held =>
    rintro s m w v to_ target asap rfl hv hc ho hn ha hother hl hu
    obtain rfl : v = requestCode to_ asap := hv
    have htakes : (s.met w.port).TakesMode to_ target := ⟨hc, hn, ha, hother, hl⟩
    exact exec_modeRequest ho ((State.writeScalar_modeRequest _ hc asap).trans (htakes.modeRequest_held asap false hu))
      (State.holdPending_host _ _) (State.holdPending_reset _ _)
  case array =>
    rintro s m w v to_ target asap rfl hv hc ho hn ha hother hl hb hu he halone
    obtain rfl : v = requestCode to_ asap := hv
    have htakes : (s.met w.port).TakesMode to_ target := ⟨hc, hn, ha, hother, hl⟩
    exact exec_arrayModeRequest ho
      (State.writeScalar_arrayModeRequest hc halone (htakes.modeRequest_inTime asap true hu hb he))
      (State.beginTransition_host _ _) (State.beginTransition_reset _ _)
  case safeHold =>
    rintro s m w rfl ho h1 h2 h7 hbit
    have hexec := exec_safeHoldRequest ho (State.writeScalar_safeHold h1 h2 h7)
    refine ⟨_, hexec, ?_⟩
    rw [State.causeActive_eq hbit h7]
    simp

end Sys2Proof.Machine
end

section
/-! The ends of transitions and the wake from Dormant, and the statement of 01_architecture.md on them (R24, R27, R29, R364). -/
namespace Sys2Proof.Machine

theorem State.elapsed_of_le {s : State} {since period : Nat} (h : since + period ≤ s.now) : s.elapsed since period = true := by
  rw [State.elapsed, decide_eq_true h]

/-- A transition whose domains are on, whose courses are out of OFF and whose loads have ended is prepared (R27). -/
theorem State.preparationComplete_prepares {s : State} {t : Transition} {to_ : Nat} (hu : s.modes.underWay = some t)
    (ht : t.target = .mode to_) (hp : t.prepared = false) (hup : ∀ d < 12, s.modeNeeds to_ d = true → s.domainOn d = true)
    (hcourses : to_ < 3 ∨ ∀ c < 4, s.courseState c ≠ 0 ∨ s.rdB Ix.PowerHold (c + 1) = true ∨ (s.course c).held = true ∨ s.synState c = 4)
    (hset : to_ = 5 → s.setForDuplex s = true) (hspe : to_ = 2 → s.rdB Ix.SpeEnable 0 = true → s.spe.locked = true) :
    s.preparationComplete = { s with modes := { s.modes with underWay := some { t with prepared := true }, stepBusy := false } } := by
  have hup' : (allDomains.all (fun d => !s.modeNeeds to_ d || s.domainOn d)) = true := by
    rw [List.all_eq_true]
    intro d hd
    by_cases h : s.modeNeeds to_ d = true
    · simp [hup d (List.mem_range.1 hd) h]
    · simp [h]
  have hcourses' : (decide (to_ < 3) || [0, 1, 2, 3].all (fun c =>
      s.courseState c != 0 || s.rdB Ix.PowerHold (c + 1) || (s.course c).held || s.synState c == 4)) = true := by
    rw [Bool.or_eq_true]
    refine hcourses.imp decide_eq_true fun h => ?_
    rw [List.all_eq_true]
    intro c hc
    have hlt : c < 4 := by simp at hc; omega
    simpa [or_assoc] using h c hlt
  have hset' : ((to_ != 5 || s.setForDuplex s) && (to_ != 2 || s.spe.locked || !s.rdB Ix.SpeEnable 0)) = true := by
    rw [Bool.and_eq_true]
    refine ⟨?_, ?_⟩
    · by_cases h : to_ = 5
      · simp [hset h]
      · simp [h]
    · by_cases h : to_ = 2
      · cases he : s.rdB Ix.SpeEnable 0
        · simp
        · simp [hspe h he]
      · simp [h]
  simp only [State.preparationComplete, hu, ht, hp, hup', hcourses', hset', and_self, if_true]

/-- At its target's tick, or a later one, a prepared transition comes into force, and the pending request starts (R27, R28). -/
theorem State.modeDone_enters {s : State} {x : Transition} {to_ : Nat} (hu : s.modes.underWay = some x) (ht : x.target = .mode to_)
    (hp : x.prepared = true) (hnow : s.now = s.tb.tickAt) (he : epLe x.epoch s.epoch = true) :
    s.modeDone = (({ s with modes := { s.modes with underWay := none, stepBusy := false } } : State).enterMode to_
      (x.asap && x.missed)).startPending false := by
  have htick : s.modeDone = s.modeAtTick := by
    simp only [State.modeDone, hu]
    exact if_pos ⟨hp, hnow⟩
  rw [htick]
  simp only [State.modeAtTick, hu, ht, he, hp, Bool.not_true, Bool.false_eq_true, if_false, if_true]

/-- A mode that comes into force is recorded with the epoch in progress and reported (R27). -/
theorem State.enterMode_eq (s : State) (m : Nat) (asap : Bool) :
    s.enterMode m asap = (((s.wr Ix.ModeCurrent 0 m).wrEpoch Ix.ModeLastChange 0 s.epoch).raise 0x1101 0
      (packData [f8 m, fEpoch s.epoch, fFlag asap])).followMode s.mode m := by
  simp only [State.enterMode, State.wr_epoch, State.wrEpoch_epoch]

/-- The step of an abandoned preparation ends, and is reported (R29). -/
theorem State.nextSafeStep_ends {s : State} {t : Target} (h : s.modes.abandoned = some t) :
    s.nextSafeStep = (({ s with modes := { s.modes with abandoned := none, stepBusy := false } } : State).failTarget t
      (preempted t)).speFollow := by
  simp only [State.nextSafeStep, h]

/-- WAKE in Dormant starts the clock check, unless a shutdown is latched (R24). -/
theorem State.wakePin_dormant {s : State} (hm : s.mode = 0) (hc : s.power.checkAt = none) (hl : s.therm.latched = false) :
    s.wakePin = ({ s with power := { s.power with checkAt := some s.now } } : State).wakeForMode 1 := by
  rw [State.wakePin, if_pos hm, State.dormantWake, if_pos ⟨by rw [hc]; rfl, hl⟩]

/-- The clock source that the check of the reference leaves (R364). -/
def State.clockChecked (s : State) (present : Bool) : State :=
  if present then (if s.rd Ix.ClockSource 0 = 2 then s.setClock s.selectedClock else s)
  else ((s.setClock 2).portToOff 0 2).portToOff 1 2

/-- The time base runs from the next epoch on. -/
def State.ticksOn (t : State) : State := { t with epoch := t.nextEpoch t.epoch, tb := { t.tb with running := true, tickAt := t.now } }

/-- Standby comes into force, and the wake is recorded (R24). -/
def State.wakesToStandby (u : State) : State :=
  (((u.wrEpoch Ix.EpochCurrent 0 u.epoch).sourceChanged).enterMode 1 false).recordWake 0x8001

/-- The check of the reference ends the wake 1 ms after it began (R24, R364). -/
theorem State.dormantCheck_of_began {s : State} {since : Nat} (present : Bool) (hc : s.power.checkAt = some since) :
    s.dormantCheck present = if s.elapsed since (msec 1) then
      (({ s with power := { s.power with checkAt := none } } : State).clockChecked present).ticksOn.wakesToStandby else s := by
  unfold State.dormantCheck
  rw [hc]
  rfl

/-- A clock source that the reference gives stays while the reference is present. -/
theorem State.clockChecked_present {s : State} (h : s.rd Ix.ClockSource 0 ≠ 2) : s.clockChecked true = s := by
  rw [State.clockChecked, if_pos rfl, if_neg h]

theorem State.clockChecked_of_not_ring {s : State} {present : Bool} (h : present = true → s.rd Ix.ClockSource 0 ≠ 2) :
    s.clockChecked present = if present then s else ((s.setClock 2).portToOff 0 2).portToOff 1 2 := by
  cases present
  · rfl
  · exact State.clockChecked_present (h rfl)

/-- Settles O14, command by command: what each gives where its condition holds is the lemma named for it; a mode that comes into force is recorded
and reported by `State.enterMode_eq`, and the check of the reference leaves the clock as `State.clockChecked_of_not_ring` says. -/
theorem transitionsEndAtTheirTick : Obligations.TransitionsEndAtTheirTick := by
  unfold Obligations.TransitionsEndAtTheirTick
  refine ⟨?prepared, ?done, ?step, ?wake, ?check⟩
  case prepared =>
    intro s t to_ hu ht hp hup hcourses hset hspe
    exact congrArg Host.Outcome.next (State.preparationComplete_prepares hu ht hp hup hcourses hset hspe)
  case done =>
    rintro s t x to_ hu ht hp hnow he rfl
    refine congrArg Host.Outcome.next ?_
    rw [State.modeDone_enters hu ht hp hnow he, State.enterMode_eq]
    rfl
  case step =>
    intro s t h
    exact congrArg Host.Outcome.next (State.nextSafeStep_ends h)
  case wake =>
    intro s hm hc hl
    exact congrArg Host.Outcome.next (State.wakePin_dormant hm hc hl)
  case check =>
    intro s t u since present hc hs hp ht hu
    have hclock := State.clockChecked_of_not_ring (s := { s with power := { s.power with checkAt := none } }) hp
    have hu' : u = (State.clockChecked { s with power := { s.power with checkAt := none } } present).ticksOn := by
      rw [hclock, ← ht]
      exact hu
    refine congrArg Host.Outcome.next ?_
    rw [State.dormantCheck_of_began present hc, if_pos (State.elapsed_of_le hs), ← hu', State.wakesToStandby]

end Sys2Proof.Machine
end

section
/-! The maintenance of the memories, and the statement of 01_architecture.md on it (R14, R324 to R327, R332, R335). -/
namespace Sys2Proof.Machine

/-! Accesses without a response (R14) -/

/-- A WRITE over a link that has been held for 8 µs ends with an error response. -/
theorem State.mortarTimeout_heldWrite {s : State} {i since : Nat} {m : MemRequest} (hi : s.link.mems[i]? = some m)
    (hh : m.heldAt = some since) (ht : since + usec 8 ≤ s.now) (hw : m.write = true) :
    s.mortarTimeout (.mem i) = ({ s with link := { s.link with mems := s.link.mems.eraseIdx i } } : State).memAnswer m.port 1
      (memResponse 0x82 m.tag 1 m.addr m.bytes 0 []) := by
  have he : s.elapsed since (usec 8) = true := State.elapsed_of_le ht
  simp only [State.mortarTimeout, hi, hh, he, hw, if_true]

/-- A mason's transfer to an address that needs no domain ends with an error. -/
theorem State.mortarTimeout_xfer {s : State} {m i : Nat} {x : MasonXfer} (hi : (s.core m).xfers[i]? = some x)
    (hd : accessDomain x.addr = none) : s.mortarTimeout (.xfer m i) = s.xferEnds m i x true := by
  simp only [State.mortarTimeout, hi, hd]

/-- A burst of a DMA channel is marked as in error. -/
theorem State.mortarTimeout_burst {s : State} {n i : Nat} {p : DmaPending} (hi : (s.chan n).outstanding[i]? = some p) :
    s.mortarTimeout (.burst n i) = s.setChan n { s.chan n with
      outstanding := (s.chan n).outstanding.set i { p with error := true } } := by
  simp only [State.mortarTimeout, hi]

/-! Pages (R326, R335) -/

/-- The decode of a page on the slow path ends, and what it held goes on. -/
theorem State.slowPathDone_goesOn {s : State} {page : Nat} (h : ∃ x ∈ s.mem.slow, x.page = page) :
    s.slowPathDone page = (({ s with mem := { s.mem with slow := s.mem.slow.filter (fun p => p.page != page) } } : State).decodePage page).goOn := by
  have hslow : s.mem.slow.any (fun p => p.page == page) = true := by simpa using h
  rw [State.slowPathDone, if_pos hslow]

theorem State.pageJournalled_of_no_journals {s : State} (h : s.mem.journals = []) (page : Nat) : s.pageJournalled page = false := by
  simp [State.pageJournalled, h]

/-- What a scrub that is due does once its time is noted (R335). -/
def State.scrubNext (s : State) : State :=
  let free := s.mem.scrubSkipped.filter (fun p => !s.pageJournalled p)
  let s := { s with mem := { s.mem with scrubSkipped := s.mem.scrubSkipped.filter s.pageJournalled } }
  let s := free.foldl State.scrubOne s
  let page := s.mem.scrubAt
  let s := if s.pageJournalled page then { s with mem := { s.mem with scrubSkipped := s.mem.scrubSkipped ++ [page] } }
    else s.scrubOne page
  if 2097151 ≤ page then s.scrubPass else { s with mem := { s.mem with scrubAt := page + 1 } }

theorem State.scrubPage_due {s : State} (h : s.scrubDue = true) :
    s.scrubPage = ({ s with mem := { s.mem with scrubTime := s.now } } : State).scrubNext := by
  rw [State.scrubPage, if_neg (by simp [h])]
  rfl

/-- The next page is read, where no lock holds a page and none was passed over. -/
theorem State.scrubNext_unlocked {s : State} (hj : s.mem.journals = []) (hk : s.mem.scrubSkipped = []) :
    s.scrubNext = if 2097151 ≤ s.mem.scrubAt then (s.scrubOne s.mem.scrubAt).scrubPass
      else { s.scrubOne s.mem.scrubAt with mem := { (s.scrubOne s.mem.scrubAt).mem with scrubAt := s.mem.scrubAt + 1 } } := by
  have hfree := State.pageJournalled_of_no_journals hj s.mem.scrubAt
  have hsame : ({ s with mem := { s.mem with scrubSkipped := s.mem.scrubSkipped.filter s.pageJournalled } } : State) = s := by
    rw [hk, List.filter_nil, ← hk]
  have hnone : s.mem.scrubSkipped.filter (fun p => !s.pageJournalled p) = [] := by rw [hk, List.filter_nil]
  rw [State.scrubNext, hsame, hnone]
  simp only [List.foldl_nil, hfree, Bool.false_eq_true, if_false]

/-! What a commit moves (R324) -/

/-- Of the partitions that a commit may move, the images alone move. -/
theorem State.partitionCopyDone_images {s t v : State} {c : SealedCommit} (hs : s.mem.copying = true)
    (ht : t = { s with mem := { s.mem with copying := false } })
    (hc : s.host.commits.find? (fun c => carriesAny c.items [Ix.PartitionBase, Ix.PartitionSize]) = some c) (hv : v = t.viewAt c.target)
    (h4 : t.movesPartition v 4 = true) (h5 : (t.copyPartition v 4).movesPartition v 5 = false) :
    s.partitionCopyDone = t.copyPartition v 4 := by
  subst ht hv
  simp only [State.partitionCopyDone, hs, hc, Bool.not_true, Bool.false_eq_true, if_false, List.foldl_cons, List.foldl_nil, h4, h5, if_true]

/-- `EccLogClear` empties the list of corrected words (R332). -/
theorem State.writeScalar_eccLogClear (m : State) :
    m.writeScalar Ix.EccLogClear 0 1 = .ok { m with mem := { m.mem with eccLog := [] } } := rfl

/-- Settles O48, command by command: what each gives where its condition holds is the lemma named for it; with no lock held, a scrub passes no page
over (`State.scrubNext_unlocked`). -/
theorem memoriesAreMaintained : Obligations.MemoriesAreMaintained := by
  unfold Obligations.MemoriesAreMaintained
  refine ⟨?heldWrite, ?xfer, ?burst, ?slow, ?scrub, ?log, ?copy⟩
  case heldWrite =>
    rintro s t i since m hi hh ht hw rfl
    exact congrArg Host.Outcome.next (State.mortarTimeout_heldWrite hi hh ht hw)
  case xfer =>
    intro s m i x hi hd
    exact congrArg Host.Outcome.next (State.mortarTimeout_xfer hi hd)
  case burst =>
    intro s n i p hi
    exact congrArg Host.Outcome.next (State.mortarTimeout_burst hi)
  case slow =>
    rintro s t page h rfl
    exact congrArg Host.Outcome.next (State.slowPathDone_goesOn h)
  case scrub =>
    rintro s t u hd hj hk rfl hu
    have hrun := (State.scrubPage_due hd).trans (State.scrubNext_unlocked (s := { s with mem := { s.mem with scrubTime := s.now } }) hj hk)
    rw [← hu] at hrun
    refine ⟨fun hlt => congrArg Host.Outcome.next ?_, fun hle => congrArg Host.Outcome.next ?_⟩
    · exact hrun.trans (if_neg (Nat.not_le.2 hlt))
    · exact hrun.trans (if_pos hle)
  case log =>
    rintro s m w rfl ho
    exact congrArg Host.Outcome.next (ho.runSame rfl (State.writeScalar_eccLogClear _) rfl rfl)
  case copy =>
    intro s t v c hs ht hc hv h4 _ h5
    exact congrArg Host.Outcome.next (State.partitionCopyDone_images hs ht hc hv h4 h5)

end Sys2Proof.Machine
end

section
/-! What passes on an empty queue, and the statement of 02_symbol_tick_and_epochs.md on it (R33). -/
namespace Sys2Proof.Machine

/-! What goes on by itself while time passes leaves epoch and clock alone -/

@[simp] theorem State.rangeDone_now (s : State) (n : Nat) : (s.rangeDone n).now = s.now := by simp [State.rangeDone]
@[simp] theorem State.rangeDone_epoch (s : State) (n : Nat) : (s.rangeDone n).epoch = s.epoch := by simp [State.rangeDone]

@[simp] theorem State.biasLapse_now (s : State) : s.biasLapse.now = s.now := by
  unfold State.biasLapse State.forEach
  split
  · rfl
  · exact foldl_same (g := State.now) State.rangeDone_now _ s

@[simp] theorem State.biasLapse_epoch (s : State) : s.biasLapse.epoch = s.epoch := by
  unfold State.biasLapse State.forEach
  split
  · rfl
  · exact foldl_same (g := State.epoch) State.rangeDone_epoch _ s

@[simp] theorem State.synPhase_now (s : State) (c : Nat) : (s.synPhase c).now = s.now := by
  unfold State.synPhase
  split
  · split <;> simp
  · rfl
@[simp] theorem State.synPhase_epoch (s : State) (c : Nat) : (s.synPhase c).epoch = s.epoch := by
  unfold State.synPhase
  split
  · split <;> simp
  · rfl

@[simp] theorem State.synPhases_now (s : State) : s.synPhases.now = s.now := foldl_same (g := State.now) State.synPhase_now _ s
@[simp] theorem State.synPhases_epoch (s : State) : s.synPhases.epoch = s.epoch := foldl_same (g := State.epoch) State.synPhase_epoch _ s

/-! Idling -/

theorem step_of_empty {s : State} (h : s.pending = []) : step s = .next s.idle := by
  simp only [step, h]

/-- At the next tick time stands still. -/
theorem State.idle_at_tick {s : State} (hr : s.tb.running = true) (ht : s.nextTickAt ≤ s.now) : s.idle = s := by
  rw [State.idle, if_pos ⟨hr, ht⟩]

theorem State.idle_epoch (s : State) : s.idle.epoch = s.epoch := by
  unfold State.idle
  split <;> simp

/-- At most one unit of time passes. -/
theorem State.idle_now (s : State) : s.idle.now = s.now ∨ s.idle.now = s.now + 1 := by
  unfold State.idle
  split
  · exact .inl rfl
  · exact .inr (by simp)

/-- Settles O2. That a step on an empty queue lets one unit of time pass is the model's choice (log entry 4). -/
theorem stepIdlesOnEmptyQueue : Obligations.StepIdlesOnEmptyQueue := by
  unfold Obligations.StepIdlesOnEmptyQueue
  intro s h
  have hnow := State.idle_now s
  exact ⟨s.idle, step_of_empty h, (State.idle_keeps (Keeps.refl s)).pending.trans h, State.idle_epoch s, by omega, by omega, State.idle_at_tick⟩

end Sys2Proof.Machine
end

section
/-! Epochs and the symbols of a frame, and the statement of 02_symbol_tick_and_epochs.md on them (R32, R36). -/
namespace Sys2Proof.Machine

/-! The parts of an epoch (Table 2.2) -/

@[simp] theorem epEra_mkEpoch (era frame slot sym : Nat) : epEra (mkEpoch era frame slot sym) = era % 2 ^ 16 := by
  unfold epEra mkEpoch; omega
@[simp] theorem epFrame_mkEpoch (era frame slot sym : Nat) : epFrame (mkEpoch era frame slot sym) = frame % 2 ^ 10 := by
  unfold epFrame mkEpoch; omega
@[simp] theorem epSlot_mkEpoch (era frame slot sym : Nat) : epSlot (mkEpoch era frame slot sym) = slot % 2 ^ 6 := by
  unfold epSlot mkEpoch; omega
@[simp] theorem epSym_mkEpoch (era frame slot sym : Nat) : epSym (mkEpoch era frame slot sym) = sym % 2 ^ 4 := by
  unfold epSym mkEpoch; omega

theorem epEra_lt (e : Nat) : epEra e < 65536 := Nat.mod_lt _ (by decide)
theorem epFrame_lt (e : Nat) : epFrame e < 1024 := Nat.mod_lt _ (by decide)

theorem slotsPerFrame_le (nu : Nat) : slotsPerFrame nu ≤ 40 := by
  unfold slotsPerFrame; split <;> decide

/-- A symbol's place among the symbols of its frame. -/
def symbolIndex (e : Nat) : Nat := epSlot e * 14 + epSym e

/-- An epoch names a symbol of a frame of the numerology (R35). -/
structure InFrame (nu e : Nat) : Prop where
  sym : epSym e ≤ 13
  slot : epSlot e < slotsPerFrame nu

/-- An epoch is counted by its frame, and in the frame by its symbol (R36). -/
theorem linearCount_eq (nu e : Nat) : linearCount nu e = frameOf e * (slotsPerFrame nu * 14) + symbolIndex e := by
  unfold linearCount symbolIndex frameOf
  ring

theorem isFrameStart_iff (e : Nat) : isFrameStart e = true ↔ symbolIndex e = 0 := by
  simp only [isFrameStart, symbolIndex, Bool.and_eq_true, beq_iff_eq]
  omega

/-! The epoch after an epoch (R35, R36) -/

/-- An epoch put together from its parts names the symbol that they name. -/
theorem mkEpoch_inFrame {nu slot sym : Nat} (era frame : Nat) (hy : sym ≤ 13) (hs : slot < slotsPerFrame nu) :
    InFrame nu (mkEpoch era frame slot sym) ∧ symbolIndex (mkEpoch era frame slot sym) = slot * 14 + sym
      ∧ frameOf (mkEpoch era frame slot sym) = era % 2 ^ 16 * 1024 + frame % 2 ^ 10 := by
  have hslot : slot % 2 ^ 6 = slot := Nat.mod_eq_of_lt (by have := slotsPerFrame_le nu; omega)
  have hsym : sym % 2 ^ 4 = sym := Nat.mod_eq_of_lt (by omega)
  refine ⟨⟨?_, ?_⟩, ?_, ?_⟩
  · rwa [epSym_mkEpoch, hsym]
  · rwa [epSlot_mkEpoch, hslot]
  · rw [symbolIndex, epSlot_mkEpoch, epSym_mkEpoch, hslot, hsym]
  · rw [frameOf, epEra_mkEpoch, epFrame_mkEpoch]

/-- Within a frame, the next symbol is the next of the same frame. -/
theorem epochNext_within {nu e : Nat} (h : InFrame nu e) (hi : symbolIndex e + 1 < slotsPerFrame nu * 14) :
    InFrame nu (epochNext nu e) ∧ symbolIndex (epochNext nu e) = symbolIndex e + 1 ∧ frameOf (epochNext nu e) = frameOf e := by
  obtain ⟨hy, hs⟩ := h
  have hera : epEra e % 2 ^ 16 = epEra e := Nat.mod_eq_of_lt (epEra_lt e)
  have hframe : epFrame e % 2 ^ 10 = epFrame e := Nat.mod_eq_of_lt (epFrame_lt e)
  unfold symbolIndex at hi
  unfold epochNext
  split
  · obtain ⟨hin, hidx, hf⟩ := mkEpoch_inFrame (epEra e) (epFrame e) (show epSym e + 1 ≤ 13 by omega) hs
    exact ⟨hin, by rw [hidx, symbolIndex]; omega, by rw [hf, hera, hframe, frameOf]⟩
  · have hs' : epSlot e + 1 < slotsPerFrame nu := by omega
    obtain ⟨hin, hidx, hf⟩ := mkEpoch_inFrame (epEra e) (epFrame e) (Nat.zero_le 13) hs'
    rw [if_pos hs']
    exact ⟨hin, by rw [hidx, symbolIndex]; omega, by rw [hf, hera, hframe, frameOf]⟩

/-- After the last symbol of a frame comes the first of the next, the frames being counted in a full era cycle. -/
theorem epochNext_ends {nu e : Nat} (h : InFrame nu e) (hi : symbolIndex e + 1 = slotsPerFrame nu * 14) :
    InFrame nu (epochNext nu e) ∧ symbolIndex (epochNext nu e) = 0 ∧ frameOf (epochNext nu e) = (frameOf e + 1) % (65536 * 1024) := by
  obtain ⟨hy, hs⟩ := h
  have hera := epEra_lt e
  have hframe := epFrame_lt e
  have hslots : 0 < slotsPerFrame nu := by omega
  unfold symbolIndex at hi
  rw [epochNext, if_neg (by omega), if_neg (by omega)]
  split
  · obtain ⟨hin, hidx, hf⟩ := mkEpoch_inFrame (epEra e) (epFrame e + 1) (Nat.zero_le 13) hslots
    exact ⟨hin, hidx, by rw [hf, frameOf]; omega⟩
  · obtain ⟨hin, hidx, hf⟩ := mkEpoch_inFrame (epEra e + 1) 0 (Nat.zero_le 13) hslots
    exact ⟨hin, hidx, by rw [hf, frameOf]; omega⟩

theorem symbolIndex_lt {nu e : Nat} (h : InFrame nu e) : symbolIndex e < slotsPerFrame nu * 14 := by
  obtain ⟨hy, hs⟩ := h
  unfold symbolIndex
  omega

theorem epochNext_inFrame {nu e : Nat} (h : InFrame nu e) : InFrame nu (epochNext nu e) := by
  rcases Nat.lt_or_eq_of_le (symbolIndex_lt h) with hi | hi
  · exact (epochNext_within h hi).1
  · exact (epochNext_ends h hi).1

/-- The linear count goes on by one, and wraps at a full era cycle (R36). -/
theorem linearCount_epochNext {nu e : Nat} (h : InFrame nu e) :
    linearCount nu (epochNext nu e) = (linearCount nu e + 1) % (65536 * 1024 * slotsPerFrame nu * 14) := by
  have hf : frameOf e < 65536 * 1024 := by
    have := epEra_lt e
    have := epFrame_lt e
    unfold frameOf
    omega
  have hN : 65536 * 1024 * slotsPerFrame nu * 14 = slotsPerFrame nu * 14 * (65536 * 1024) := by ring
  rw [linearCount_eq, linearCount_eq, hN]
  rcases Nat.lt_or_eq_of_le (symbolIndex_lt h) with hi | hi
  · obtain ⟨-, hidx, hframe⟩ := epochNext_within h hi
    rw [hidx, hframe, Nat.mod_eq_of_lt, add_assoc]
    calc frameOf e * (slotsPerFrame nu * 14) + symbolIndex e + 1 < (frameOf e + 1) * (slotsPerFrame nu * 14) := by
          rw [add_mul]; omega
      _ ≤ slotsPerFrame nu * 14 * (65536 * 1024) := by rw [mul_comm]; exact Nat.mul_le_mul_left _ hf
  · obtain ⟨-, hidx, hframe⟩ := epochNext_ends h hi
    have hnext : frameOf e * (slotsPerFrame nu * 14) + symbolIndex e + 1 = slotsPerFrame nu * 14 * (frameOf e + 1) := by
      rw [add_assoc, ← Nat.succ_eq_add_one (symbolIndex e), hi]; ring
    rw [hidx, hframe, hnext, Nat.mul_mod_mul_left, add_zero, mul_comm]

/-! The symbols of a frame (R32, Table 2.1) -/

/-- Where the symbol of a place in the frame begins, in samples from the frame's start. -/
def offsetOfIndex (nu i : Nat) : Nat :=
  i / symbolsPerHalf nu * 491520 + (if i % symbolsPerHalf nu = 0 then 0 else i % symbolsPerHalf nu * normalSymbol nu + 512)

theorem symbolOffset_eq (nu e : Nat) : symbolOffset nu e = offsetOfIndex nu (symbolIndex e) := rfl

/-- A symbol ends where the next begins: the symbols of a half-subframe fill its 491,520 samples. -/
theorem offsetOfIndex_succ (nu i : Nat) :
    offsetOfIndex nu (i + 1) = offsetOfIndex nu i + (normalSymbol nu + if i % symbolsPerHalf nu = 0 then 512 else 0) := by
  unfold offsetOfIndex symbolsPerHalf normalSymbol
  split <;> split <;> split <;> omega

theorem isLongSymbol_iff (nu e : Nat) : isLongSymbol nu e = true ↔ symbolIndex e % symbolsPerHalf nu = 0 := by
  simp [isLongSymbol, symbolIndex]

theorem symbolSamples_eq (nu e : Nat) :
    symbolSamples nu e = normalSymbol nu + if symbolIndex e % symbolsPerHalf nu = 0 then 512 else 0 := by
  simp only [symbolSamples, isLongSymbol_iff]

theorem symbolOffset_add_samples (nu e : Nat) : symbolOffset nu e + symbolSamples nu e = offsetOfIndex nu (symbolIndex e + 1) := by
  rw [offsetOfIndex_succ, symbolOffset_eq, symbolSamples_eq]

/-- The 20 half-subframes of a frame are 9,830,400 samples. -/
theorem offsetOfIndex_frame (nu : Nat) : offsetOfIndex nu (slotsPerFrame nu * 14) = 9830400 := by
  unfold offsetOfIndex slotsPerFrame symbolsPerHalf
  split <;> rfl

theorem symbolOffset_of_long {nu e : Nat} (h : isLongSymbol nu e = true) : symbolOffset nu e % 491520 = 0 := by
  rw [symbolOffset_eq, offsetOfIndex, if_pos ((isLongSymbol_iff nu e).1 h), add_zero, Nat.mul_mod_left]

/-- Settles O7: the epoch after an epoch is the next of its frame (`epochNext_within`) or the first of the next frame (`epochNext_ends`), and a
symbol ends where the one at the next place of the frame begins (`symbolOffset_add_samples`). -/
theorem epochsFollowOneAnother : Obligations.EpochsFollowOneAnother := by
  unfold Obligations.EpochsFollowOneAnother
  refine ⟨?count, ?symbols⟩
  case count =>
    intro nu e _ hy hs
    have h : InFrame nu e := ⟨hy, hs⟩
    obtain ⟨hsym, hslot⟩ := epochNext_inFrame h
    exact ⟨linearCount_epochNext h, hsym, hslot⟩
  case symbols =>
    intro nu e _ hy hs
    have h : InFrame nu e := ⟨hy, hs⟩
    rcases Nat.lt_or_eq_of_le (symbolIndex_lt h) with hi | hi
    · obtain ⟨-, hidx, -⟩ := epochNext_within h hi
      have hnot : isFrameStart (epochNext nu e) ≠ true := by rw [Ne, isFrameStart_iff, hidx]; omega
      exact ⟨fun _ => by rw [symbolOffset_add_samples, symbolOffset_eq, hidx], fun hstart => absurd hstart hnot, symbolOffset_of_long⟩
    · obtain ⟨-, hidx, -⟩ := epochNext_ends h hi
      have hstart : isFrameStart (epochNext nu e) = true := (isFrameStart_iff _).2 hidx
      refine ⟨fun hnot => absurd hstart (by simp [hnot]), fun _ => ?_, symbolOffset_of_long⟩
      rw [symbolOffset_add_samples, ← Nat.succ_eq_add_one, hi, offsetOfIndex_frame]

end Sys2Proof.Machine
end

section
/-! COMMIT, and the statement of 02_symbol_tick_and_epochs.md on it (R40, R41, R66). -/
namespace Sys2Proof.Machine

/-- What the open set becomes on a COMMIT (R40, R66). -/
def State.openSealed (s : State) (near : Bool) (target : Nat) : SealedCommit :=
  { source := .host, target := target, original := target, asap := near, array := false, deferred := false,
    missed := false, armed := false, decided := false, items := s.host.openSet }

@[simp] theorem State.sealCommit_stalled (s : State) (c : SealedCommit) : (s.sealCommit c).host.stalled = s.host.stalled := rfl
@[simp] theorem State.sealCommit_performing (s : State) (c : SealedCommit) : (s.sealCommit c).host.performing = s.host.performing := rfl
@[simp] theorem State.sealCommit_reset (s : State) (c : SealedCommit) : (s.sealCommit c).reset_ = s.reset_ := rfl

/-- A COMMIT of device scope asks for an acceptable epoch, in time or with ASAP (R35, R41). -/
structure State.TakesCommit (m : State) (q : Request) (near : Bool) (target : Nat) : Prop where
  scope : q.array = false
  mode : m.setRefused 6 = false
  epoch : m.epochOk q.param = true
  isNear : near = !epLe m.earliestCommit (epochOfEntry q.param)
  asap : near = true → q.asap = true
  toTarget : target = if near then m.earliestCommit else epochOfEntry q.param
  within : m.beyondLimit target = false

/-- A COMMIT that is taken and whose checks pass seals the open set (R66). -/
theorem State.TakesCommit.opCommit {m : State} {q : Request} {near : Bool} {target : Nat} {c : SealedCommit} (h : m.TakesCommit q near target)
    (hc : c = m.openSealed near target) (hcheck : (m.sealCommit c).spanCheck c = none) (hroom : m.host.commits.length < 8) :
    m.opCommit q = .answer { asap := near, epoch := epochEntry target }
      (({ m.sealCommit c with host := { (m.sealCommit c).host with openSet := [] } } : State).afterSeal c) := by
  subst hc
  obtain ⟨hs, hm, he, hn, ha, ht, hw⟩ := h
  have hroom' : ¬ 8 ≤ m.host.commits.length := by omega
  have hasap : ¬(near = true ∧ (!q.asap) = true) := by
    rintro ⟨hnear, hnot⟩
    simp [ha hnear] at hnot
  unfold State.openSealed at *
  simp only [State.opCommit, hs, hm, he, ← hn, hasap, ← ht, hw, hcheck, hroom', Bool.false_eq_true, false_and, Bool.not_true, if_false]

/-- Settles O12: on the state that meets it, such a COMMIT seals the open set (`State.TakesCommit.opCommit`), and what it answers ends the
command. -/
theorem commitSealsTheOpenSet : Obligations.CommitSealsTheOpenSet := by
  unfold Obligations.CommitSealsTheOpenSet
  rintro s t r q c near target hq ha hh hs hm he hn hasap ht hw hc hcheck hroom rfl
  have hexec : exec (.commit r) s = .next (s.take q) := by rw [hq]; rfl
  have hopen : c = (s.met q.port).openSealed near target := by rw [hc, State.openSealed, State.met_openSet]
  have htakes : (s.met q.port).TakesCommit q near target := ⟨hs, hm, he, hn, hasap, ht, hw⟩
  have hperform := (State.perform_commit (by rw [hq]) hh).trans (htakes.opCommit hopen hcheck (by simpa using hroom))
  rw [hexec]
  refine congrArg Host.Outcome.next (State.take_answers_of ha hperform ?_ ?_ ?_)
  · simpa using ha.alone
  · simpa using ha.nothing
  · simpa using ha.booted

end Sys2Proof.Machine
end

section
/-! The symbol tick and the time base, and the statement of 02_symbol_tick_and_epochs.md on them (R33, R36, R49 to R51). -/
namespace Sys2Proof.Machine

/-! The symbol tick (R33) -/

theorem State.nextEpoch_congr {s t : State} (hh : t.host = s.host) (hr : t.rd Ix.Numerology 0 = s.rd Ix.Numerology 0) (e : Nat) :
    t.nextEpoch e = s.nextEpoch e := by
  simp only [State.nextEpoch, State.numerologyAt, State.numerologyCommits, hh, hr]

/-- A part that neither the paths' records nor the residuals of their offset loops touch stands through a step of an offset loop (R89). -/
theorem State.dcLoop_same {β : Type} {g : State → β} (hp : ∀ s p v, g (State.setPath s p v) = g s)
    (hw : ∀ s p v, g (State.wr s Ix.RxDcResidual (p + 1) v) = g s) (s : State) (x : Nat × Int × Int) : g (s.dcLoop x) = g s := by
  unfold State.dcLoop
  dsimp only
  split
  · rfl
  · rw [hw, hp]

theorem State.foldl_dcLoop_same {β : Type} {g : State → β} (hp : ∀ s p v, g (State.setPath s p v) = g s)
    (hw : ∀ s p v, g (State.wr s Ix.RxDcResidual (p + 1) v) = g s) (s : State) (l : List (Nat × Int × Int)) :
    g (l.foldl State.dcLoop s) = g s :=
  foldl_same (State.dcLoop_same hp hw) l s

/-- No residual of an offset loop is the numerology. -/
theorem ck_numerology_ne_rxDcResidual (p : Nat) : ck Ix.Numerology 0 ≠ ck Ix.RxDcResidual (p + 1) := by
  simp only [ck, Ix.Numerology, Ix.RxDcResidual]
  omega

/-- The epoch that begins, and the instant at which it does, are as before the offset loops take their estimates. -/
theorem State.beginEpoch_after_dcLoop (s : State) (l : List (Nat × Int × Int)) :
    (l.foldl State.dcLoop s).beginEpoch.epoch = s.nextEpoch s.epoch
      ∧ (l.foldl State.dcLoop s).beginEpoch.now = s.nextTickAt
      ∧ (l.foldl State.dcLoop s).beginEpoch.tb.tickAt = s.nextTickAt := by
  have hepoch : (l.foldl State.dcLoop s).epoch = s.epoch :=
    State.foldl_dcLoop_same (g := State.epoch) (fun _ _ _ => rfl) (fun _ _ _ => rfl) s l
  have htb : (l.foldl State.dcLoop s).tb = s.tb := State.foldl_dcLoop_same (g := State.tb) (fun _ _ _ => rfl) (fun _ _ _ => rfl) s l
  have hhost : (l.foldl State.dcLoop s).host = s.host := State.foldl_dcLoop_same (g := State.host) (fun _ _ _ => rfl) (fun _ _ _ => rfl) s l
  have hnum : (l.foldl State.dcLoop s).rd Ix.Numerology 0 = s.rd Ix.Numerology 0 :=
    State.foldl_dcLoop_same (g := fun s => s.rd Ix.Numerology 0) (fun _ _ _ => rfl)
      (fun _ p _ => State.rd_wr_ne (ck_numerology_ne_rxDcResidual p)) s l
  have htick : (l.foldl State.dcLoop s).nextTickAt = s.nextTickAt := by simp only [State.nextTickAt, htb, hnum, hepoch]
  exact ⟨(State.nextEpoch_congr hhost hnum _).trans (by rw [hepoch]), htick, htick⟩

theorem State.symbolTick_stopped {s : State} (h : s.tb.running = false) (x : TickInput) : s.symbolTick x = s := by
  simp [State.symbolTick, h]

/-- A running time base begins the next epoch where the symbol in progress ends (R33, R36). -/
theorem State.symbolTick_begins {s : State} (h : s.tb.running = true) (x : TickInput) :
    (s.symbolTick x).epoch = s.nextEpoch s.epoch ∧ (s.symbolTick x).now = s.nextTickAt ∧ (s.symbolTick x).tb.tickAt = s.nextTickAt := by
  rw [State.symbolTick, if_pos h]
  exact State.beginEpoch_after_dcLoop s x.dc

theorem Fuses.Kept.identity {f g : Fuses} (h : Fuses.Kept f g) : g.identity = f.identity := by rw [h.2]

/-! A frame pulse that a locked time base meets (R49, R50) -/

/-- A frame reference is noted (R50). -/
def State.refNoted (s : State) (frame : Nat) (start : Int) : State :=
  { s with tb := { s.tb with lastRef := s.epoch, refAt := s.now, refStart := start + s.refOffset, refFrame := frame } }

/-- The phase of a reference is recorded, and the time base moves toward it (R50). -/
def State.steered (s : State) (phase : Int) : State :=
  let t := (s.wrI 32 Ix.TimePhaseError 0 (sat32 (unitsPs phase))).slew phase
  { t with tb := { t.tb with offsetSaid := false } }

/-- Below a second a frame pulse names no frame: it begins the next one (R49). -/
theorem State.syncPulse_frame {s : State} {width : Nat} (hs : s.rd Ix.TimeSource 0 = 1) (hr : s.tb.running = true)
    (ha : s.tb.acquired = true) (hw : width < 4000) :
    s.syncPulse width = s.timeRef false ((s.tb.refFrame + 1) % (65536 * 1024)) s.now := by
  have hpps : ¬ 4000 ≤ width := by omega
  simp only [State.syncPulse, hs, hr, ha, hpps, decide_false, Bool.true_eq_false, Bool.false_eq_true, ne_eq, not_true_eq_false, or_self, if_false]

/-- Within 100 ns a locked time base follows its reference (R50). -/
theorem State.timeRef_steers {s : State} {named : Bool} {frame : Nat} {start phase : Int} (hl : s.rd Ix.TimeLockState 0 = 2)
    (hp : phase = s.phaseOf named frame (start + s.refOffset)) (hn : phase.natAbs ≤ nsec 100) :
    s.timeRef named frame start = (s.refNoted frame start).steered phase := by
  have hnoted : (s.refNoted frame start).phaseOf named frame (start + s.refOffset) = phase := hp.symm
  have hstate : (s.refNoted frame start).rd Ix.TimeLockState 0 = 2 := hl
  unfold State.refNoted State.steered at *
  simp only [State.timeRef, hnoted, hstate, hn, if_true]
  rfl

theorem sat32_unitsPs {phase : Int} (h : phase.natAbs ≤ nsec 100) : sat32 (unitsPs phase) = unitsPs phase := by
  have hrange : -100000 ≤ unitsPs phase ∧ unitsPs phase ≤ 100000 := by
    unfold nsec at h
    unfold unitsPs
    omega
  rw [sat32, clampInt, if_neg (by omega), if_neg (by omega)]

theorem State.steered_rd_same (s : State) (phase : Int) :
    (s.steered phase).rd Ix.TimePhaseError 0 = ofInt 32 (sat32 (unitsPs phase)) :=
  State.rd_wr_same s _ _ _

theorem State.steered_rd_ne {s : State} {i u : Nat} (h : ck i u ≠ ck Ix.TimePhaseError 0) (phase : Int) :
    (s.steered phase).rd i u = s.rd i u :=
  State.rd_wr_ne h

/-! Holdover and the step to a reference (R50, R51) -/

theorem State.timeLost_holdover {s : State} (hl : s.rd Ix.TimeLockState 0 = 2) (hs : s.rd Ix.TimeSource 0 ≠ 2)
    (he : s.tb.refAt + 2 * frameUnits ≤ s.now) :
    s.timeLost = (s.wr Ix.TimeLockState 0 3).raise 0x1206 0 (packData [f8 (s.rd Ix.TimeSource 0), fEpoch s.tb.lastRef]) := by
  rw [State.timeLost, if_pos ⟨hl, hs, State.elapsed_of_le he⟩]

/-- `TimeRealign` written with 1 arms the step (R51). -/
theorem State.writeScalar_timeRealign (m : State) :
    m.writeScalar Ix.TimeRealign 0 1 = .ok { m with tb := { m.tb with realign := true } } := rfl

theorem State.realignStep_armed {s : State} (hr : s.tb.realign = true) (ha : s.tb.acquired = true) :
    s.realignStep = (({ s with tb := { s.tb with realign := false, offsetSaid := false, goodRefs := 0 } } : State).setTime
      s.tb.refFrame s.tb.refStart).wr Ix.TimeLockState 0 1 := by
  rw [State.realignStep, if_pos ⟨hr, ha⟩]

/-- Settles O15, command by command. A tick takes epoch and clock from `State.symbolTick_begins`; that a time base which does not run ticks no
symbol is the model's reading (log entry 5). A pulse within 100 ns of a locked time base steers it (`State.timeRef_steers`). -/
theorem ticksAndReferencesKeepTime : Obligations.TicksAndReferencesKeepTime := by
  unfold Obligations.TicksAndReferencesKeepTime
  refine ⟨?tick, fun s x hstopped => ⟨?stopped, ?pulse, ?lost, ?arm, ?step⟩⟩
  case tick =>
    intro s x hr
    obtain ⟨hepoch, hnow, htick⟩ := State.symbolTick_begins hr x
    exact ⟨s.symbolTick x, rfl, hepoch, hnow, htick.trans hnow.symm, (State.symbolTick_keeps x (Keeps.refl s)).fuse.identity⟩
  case stopped => exact congrArg Host.Outcome.next (State.symbolTick_stopped hstopped x)
  case pulse =>
    intro s width phase hs hr ha hw hl hp hn
    have hrun := (State.syncPulse_frame hs hr ha hw).trans (State.timeRef_steers hl hp hn)
    refine ⟨_, congrArg Host.Outcome.next hrun, rfl, ?_, ?_, rfl, rfl, rfl⟩
    · rw [State.steered_rd_same, sat32_unitsPs hn]
    · exact (State.steered_rd_ne (by decide) phase).trans hl
  case lost =>
    intro s hl hs he
    exact congrArg Host.Outcome.next (State.timeLost_holdover hl hs he)
  case arm =>
    rintro s m w rfl ho
    exact congrArg Host.Outcome.next (ho.runSame rfl (State.writeScalar_timeRealign _) rfl rfl)
  case step =>
    rintro s t hr ha rfl
    exact congrArg Host.Outcome.next (State.realignStep_armed hr ha)

end Sys2Proof.Machine
end

section
/-! Sealed commits failed, reported and decided, and the statement of 02_symbol_tick_and_epochs.md on them (R43, R44, R314). -/
namespace Sys2Proof.Machine

/-! COMMIT_FAIL (R43) -/

theorem State.failCommits_congr {s : State} {p q : SealedCommit → Bool} (h : ∀ c ∈ s.host.commits, p c = q c) (reason : Nat) :
    s.failCommits p reason = s.failCommits q reason := by
  have hkept : s.host.commits.filter (fun c => !p c) = s.host.commits.filter (fun c => !q c) :=
    List.filter_congr fun c hc => by rw [h c hc]
  simp only [State.failCommits, List.filter_congr h, hkept]

/-- Of commits of device scope those go that were not ready at their last candidate. -/
theorem State.commitFail_device {s : State} (h : ∀ c ∈ s.host.commits, c.array = false) :
    s.commitFail = s.failCommits (·.decided) 1 :=
  State.failCommits_congr (fun c hc => by simp [h c hc]) 1

/-! READY_REPORT (R314) -/

/-- A chained device reports a change of readiness of its one undecided commit from 550 µs before the target. -/
theorem State.readyReport_one {s : State} {c : SealedCommit} {ready : Bool} (hpos : s.pos ≠ 0) (hu : s.undecided = [c])
    (hready : ready = (s.commitFault c).isNone) (ht : s.tickOf c.target ≤ s.now + usec 550)
    (hsaid : (s.reportOf c.original s.pos).map (·.ready) ≠ some ready) :
    s.readyReport = (s.keepReport ⟨c.original, s.pos, ready, s.now⟩).sendPacket 0
      { typ := 8, pos := s.pos, etag := c.original % 2 ^ 32, payload := timePayload 4 0 [b2n ready] } := by
  rw [State.readyReport, if_neg hpos, hu, List.foldl_cons, List.foldl_nil]
  simp only [← hready]
  exact if_pos ⟨ht, hsaid⟩

/-! COMMIT_DECISION (R44, R314) -/

/-- The head keeps a report of its own readiness. -/
def State.ownReport (s : State) (c : SealedCommit) (own : Bool) : State :=
  if (s.reportOf c.original 0).map (·.ready) = some own then s else s.keepReport ⟨c.original, 0, own, s.now⟩

/-- A report touches neither the clock nor the sealed commits. -/
theorem State.ownReport_tickOf (s : State) (c : SealedCommit) (own : Bool) (e : Nat) : (s.ownReport c own).tickOf e = s.tickOf e := by
  unfold State.ownReport
  split <;> rfl

theorem State.ownReport_arrayN (s : State) (c : SealedCommit) (own : Bool) : (s.ownReport c own).arrayN = s.arrayN := by
  unfold State.ownReport
  split <;> rfl

theorem State.ownReport_now (s : State) (c : SealedCommit) (own : Bool) : (s.ownReport c own).now = s.now := by
  unfold State.ownReport
  split <;> rfl

/-- Does every position of the array report a commit ready? -/
def State.allReady (s : State) (c : SealedCommit) (n : Nat) : Bool :=
  (List.range n).all (fun p => ((s.reportOf c.original p).map (·.ready)).getD false)

/-- A commit that has not been deferred is decided 500 µs before its target: GO where every position is ready, and else DEFER. -/
theorem State.judgeArray_decides {s t : State} {c : SealedCommit} (ht : t = s.ownReport c (s.commitFault c).isNone)
    (hm : c.missed = false) (hdue : s.tickOf c.target ≤ s.now + usec 500) :
    s.judgeArray c = t.sendDecision c (t.allReady c s.arrayN) c.target := by
  have hdue' : t.tickOf c.target ≤ t.now + usec 500 := by rwa [ht, State.ownReport_tickOf, State.ownReport_now]
  rw [State.judgeArray, ← State.ownReport, ← ht, hm]
  have hall : t.allReady c s.arrayN
      = ((List.range t.arrayN).map (fun p => t.reportOf c.original p)).all (fun r => (r.map (·.ready)).getD false) := by
    rw [List.all_map, ht, State.ownReport_arrayN, State.allReady]
    rfl
  rw [if_pos Bool.not_false, if_pos hdue', hall]
  refine congrArg (t.sendDecision c · c.target) (List.all_congr rfl fun r => ?_)
  cases r <;> rfl

/-! NO_DECISION (R44) -/

/-- Of one sealed commit that is picked, its replacement stands in what replacing it gives. -/
theorem State.mapCommits_one {s : State} {c : SealedCommit} {pick : SealedCommit → Bool}
    {f : State → SealedCommit → SealedCommit × State} (hc : s.host.commits = [c]) (hp : pick c = true) :
    s.mapCommits pick f = { (f s c).2 with host := { (f s c).2.host with commits := [(f s c).1] } } := by
  have hsame : ({ s with host := { s.host with commits := [c] } } : State) = s := by rw [← hc]
  simp only [State.mapCommits, hc, State.mapCommitsFrom, hp, if_true, List.nil_append, hsame]

/-- A commit whose target has come without a decision is withheld: it counts as missed, and is reported with reason NO_DECISION. -/
def State.withheld (s : State) (c : SealedCommit) : State :=
  { s.commitMissed c.target 2 with host := { (s.commitMissed c.target 2).host with commits := [{ c with missed := true }] } }

theorem State.noDecision_withholds {s : State} {c : SealedCommit} (hpos : s.pos ≠ 0) (hc : s.host.commits = [c]) (ha : c.array = true)
    (harm : c.armed = false) (hm : c.missed = false) (he : epLe c.target s.epoch = true) :
    s.noDecision = (s.withheld c).causeActive 3 := by
  have hlate : (c.array && !c.armed && !c.missed && epLe c.target s.epoch) = true := by simp [ha, harm, hm, he]
  have hany : s.host.commits.any (fun c => c.array && !c.armed && !c.missed && epLe c.target s.epoch) = true := by simpa [hc] using hlate
  rw [State.noDecision]
  refine (if_pos ⟨hpos, hany⟩).trans (congrArg (State.causeActive · 3) ?_)
  exact State.mapCommits_one hc hlate

theorem State.withheld_rd_ne {s : State} {i u : Nat} (h : ck i u ∉ eventCounters) (hne : ck i u ≠ ck Ix.CommitMissedCount 0) (c : SealedCommit) :
    (s.withheld c).rd i u = s.rd i u :=
  (State.rd_raiseAt h _ _ _ _ _).trans (State.rd_bump_ne hne)

theorem State.withheld_rd_missedCount (s : State) (c : SealedCommit) :
    (s.withheld c).rd Ix.CommitMissedCount 0 = (s.rd Ix.CommitMissedCount 0 + 1) % 2 ^ 32 :=
  (State.rd_raiseAt (by decide) _ _ _ _ _).trans (State.rd_bump_same _ _ _)

theorem State.safeHoldDue_rd (s : State) (index sub : Nat) : s.safeHoldDue.rd index sub = s.rd index sub := rfl

/-- Settles O16, command by command: what each gives where its condition holds is the lemma named for it; a commit withheld activates the ARRAY
cause of Safe Hold (`State.causeActive_eq`). -/
theorem commitsAreDecided : Obligations.CommitsAreDecided := by
  unfold Obligations.CommitsAreDecided
  refine ⟨?fail, ?report, ?decision, ?none⟩
  case fail =>
    rintro s gone hdevice rfl
    exact congrArg Host.Outcome.next (State.commitFail_device hdevice)
  case report =>
    intro s c ready hpos hu hready ht hsaid
    exact congrArg Host.Outcome.next (State.readyReport_one hpos hu hready ht hsaid)
  case decision =>
    rintro s t c own go hpos hu hm hdue rfl ht rfl
    refine congrArg Host.Outcome.next ?_
    rw [State.commitDecision, if_pos hpos, hu, List.foldl_cons, List.foldl_nil]
    exact State.judgeArray_decides ht hm hdue
  case none =>
    intro s c hpos hc ha harm hm he hmode hbit
    have hmode' : (s.withheld c).mode ≠ 7 := by rwa [State.mode, State.withheld_rd_ne (by decide) (by decide)]
    have hbit' : (s.withheld c).rdBit Ix.SafeHoldCauses 0 3 = false := by rwa [State.rdBit, State.withheld_rd_ne (by decide) (by decide)]
    have hrun := State.noDecision_withholds hpos hc ha harm hm he
    rw [State.causeActive_eq hbit' hmode'] at hrun
    refine ⟨_, congrArg Host.Outcome.next hrun, ?_, rfl, by simp, ?_⟩
    · simp [State.withheld]
    · rw [State.safeHoldDue_rd, State.rd_causeRecorded (by decide), State.wrBit, State.rd_wr_ne (by decide), State.withheld_rd_missedCount]

end Sys2Proof.Machine
end

section
/-! What a device function writes leaves the device where it stands in the array. -/
namespace Sys2Proof.Machine

/-! Codes and their counts -/

@[simp] theorem State.storePoison_pos (s : State) (a : Nat) : (s.storePoison a).pos = s.pos := by simp [State.storePoison]

@[simp] theorem State.logEcc_pos (s : State) (addr region syndrome kind : Nat) : (s.logEcc addr region syndrome kind).pos = s.pos := by
  unfold State.logEcc
  split
  · rfl
  · dsimp only
    split
    · rfl
    · split
      · rfl
      · simp

@[simp] theorem State.reportCorrected_pos (s : State) (region : Nat) : (s.reportCorrected region).pos = s.pos := by
  unfold State.reportCorrected
  exact ite_ind (P := fun t : State => t.pos = s.pos) rfl (by simp)

@[simp] theorem State.countCorrected_pos (s : State) (addr region syndrome kind : Nat) :
    (s.countCorrected addr region syndrome kind).pos = s.pos := by simp [State.countCorrected]

@[simp] theorem State.countUncorrectable_pos (s : State) (addr region syndrome : Nat) :
    (s.countUncorrectable addr region syndrome).pos = s.pos := by simp [State.countUncorrectable]

@[simp] theorem State.meetUpset_pos (s : State) (a : Nat) : (s.meetUpset a).pos = s.pos := by
  unfold State.meetUpset
  split
  · split
    · simp
    · split <;> simp
  · rfl

@[simp] theorem State.storeInWord_pos (s : State) (a : Nat) (l : List Byte) : (s.storeInWord a l).pos = s.pos := by
  unfold State.storeInWord
  split
  · simp
  · dsimp only
    split <;> simp

/-! What a write into a region does beside storing -/

@[simp] theorem State.failCommits_pos (s : State) (pick : SealedCommit → Bool) (reason : Nat) : (s.failCommits pick reason).pos = s.pos :=
  foldl_same (g := State.pos) (by simp) _ _

@[simp] theorem State.keepResult_pos (s : State) (r : JobResult) : (s.keepResult r).pos = s.pos := by simp [State.keepResult]

@[simp] theorem State.failJob_pos (s : State) (job reason at_ : Nat) : (s.failJob job reason at_).pos = s.pos := by
  unfold State.failJob
  split <;> simp

@[simp] theorem State.libraryWritten_pos (s : State) (e : Nat) : (s.libraryWritten e).pos = s.pos := by
  unfold State.libraryWritten
  split
  · exact foldl_same (g := State.pos) (by simp) _ s
  · simp

@[simp] theorem State.folioWritten_pos (s : State) (a : Nat) : (s.folioWritten a).pos = s.pos := by
  simp only [State.folioWritten]
  split
  · split <;> simp
  · exact foldl_same (g := State.pos) (fun t i => by split <;> simp) _ s

@[simp] theorem State.cancelWritten_pos (s : State) (slot : Nat) : (s.cancelWritten slot).pos = s.pos := by
  simp only [State.cancelWritten]
  split
  · simp
  · split <;> rfl

@[simp] theorem State.captureWritten_pos (s : State) (a : Nat) : (s.captureWritten a).pos = s.pos := by
  simp only [State.captureWritten]
  split <;> rfl

@[simp] theorem State.noteAltered_pos (s : State) (m : Master) (a : Nat) : (s.noteAltered m a).pos = s.pos := by
  simp only [State.noteAltered]
  split <;> simp

@[simp] theorem State.noteCodeHit_pos (s : State) (m : Master) (a : Nat) : (s.noteCodeHit m a).pos = s.pos := by
  simp only [State.noteCodeHit]
  split <;> rfl

@[simp] theorem State.regionWritten_pos (s : State) (m : Master) (a : Nat) : (s.regionWritten m a).pos = s.pos := by
  unfold State.regionWritten
  split
  · simp only [State.noteAltered_pos, State.captureWritten_pos]
    split <;> split <;> simp
  · simp
  · simp
  · rfl

@[simp] theorem State.noteBankWrite_pos (s : State) (a : Nat) : (s.noteBankWrite a).pos = s.pos := by
  unfold State.noteBankWrite
  split
  · split <;> rfl
  · rfl

@[simp] theorem State.captureFill_pos (s : State) (port chunk n : Nat) : (s.captureFill port chunk n).pos = s.pos := by
  simp only [State.captureFill]
  split <;> rfl

theorem State.journalWrite_pos {s t : State} {m : Master} {a : Nat} (h : s.journalWrite m a = some t) : t.pos = s.pos := by
  simp only [State.journalWrite] at h
  split at h
  · cases h
    rfl
  · split at h
    · cases h
    · cases h
      rfl

/-! The write -/

@[simp] theorem State.writeWord_pos (s : State) (m : Master) (a : Nat) (l : List Byte) (p : Bool) : (s.writeWord m a l p).2.pos = s.pos := by
  unfold State.writeWord
  split
  · rfl
  · split
    · rfl
    · split
      · simp
      · split
        · simp
        · split
          · split
            · rfl
            · split
              · simp
              · cases p <;> simp
          · split
            · rfl
            · next hj => cases p <;> simp [State.journalWrite_pos hj]

@[simp] theorem State.writeWords_pos (s : State) (m : Master) (a : Nat) (l : List (List Byte × Bool)) : (s.writeWords m a l).2.pos = s.pos := by
  induction l generalizing s a with
  | nil => rfl
  | cons x l ih =>
    obtain ⟨w, p⟩ := x
    simp only [State.writeWords]
    split
    · simp
    · rw [ih, State.writeWord_pos]

@[simp] theorem State.placeBytes_pos (s : State) (m : Master) (a : Nat) (l : List Byte) : (s.placeBytes m a l).pos = s.pos :=
  State.writeWords_pos s m a _

@[simp] theorem State.emitSection_pos (s : State) (u : UlSection) : (s.emitSection u).pos = s.pos := by
  simp only [State.emitSection]
  split
  · split
    · rfl
    · split <;> simp
  · simp

end Sys2Proof.Machine
end

section
/-! Sections at their cut-off and their deadline, and the statement of 02_symbol_tick_and_epochs.md on them (R38, R130, R309). -/
namespace Sys2Proof.Machine

/-! The Catalogue of a later epoch does not rest on the sections at hand -/

/-- A state with other sections at hand. -/
def State.withMix (s : State) (m : MixSys) : State := { s with mix := m }

theorem State.putItem_withMix (s : State) (m : MixSys) (it : StagedItem) : (s.withMix m).putItem it = (s.putItem it).withMix m := by
  unfold State.putItem
  split <;> rfl

theorem State.dateBursts_withMix (s : State) (m : MixSys) (c : Nat) (new : List Byte) (target : Nat) :
    (s.withMix m).dateBursts c new target = (s.dateBursts c new target).withMix m := rfl

theorem State.putCommit_withMix (s : State) (m : MixSys) (target : Nat) (items : List StagedItem) :
    (s.withMix m).putCommit target items = (s.putCommit target items).withMix m := by
  have hdate : ∀ (t : State) (it : StagedItem), (match it.value with
      | .bytes l => if it.index = Ix.CourseBursts then (t.withMix m).dateBursts (it.sub - 1) l target else t.withMix m
      | .num _ => t.withMix m) = (match it.value with
      | .bytes l => if it.index = Ix.CourseBursts then t.dateBursts (it.sub - 1) l target else t
      | .num _ => t).withMix m := by
    intro t it
    split
    · split <;> rfl
    · rfl
  simp only [State.putCommit]
  rw [List.foldl_hom (State.withMix · m) (H := hdate), List.foldl_hom (State.withMix · m) (H := fun t it => t.putItem_withMix m it)]
  split <;> rfl

theorem State.viewAt_withMix (s : State) (m : MixSys) (target : Nat) : (s.withMix m).viewAt target = (s.viewAt target).withMix m :=
  List.foldl_hom (State.withMix · m) (H := fun t c => t.putCommit_withMix m c.target c.items)

theorem State.dlSymbol_withMix (s : State) (m : MixSys) (e : Nat) : (s.withMix m).dlSymbol e = s.dlSymbol e := rfl

theorem State.scheduled_withMix (s : State) (m : MixSys) (index e : Nat) : (s.withMix m).scheduled index e = s.scheduled index e := rfl

/-! The cut-off (R38, R130) -/

/-- A symbol judged waits for the Beam Mixer. -/
def State.putJudged (t : State) (r : DlReady) : State := t.withMix { t.mix with judged := [r] }

/-- At its cut-off a symbol is judged by the sections that have come for it. -/
theorem State.dlCutoff_judges {s t : State} {n : Nat} {secs : List SectionRec} (hn : n = s.addEpochs 2 s.epoch)
    (hm : layerDlMode s.mode = true) (hc : s.cutOffAt s.epoch ≤ s.now) (hj : s.mix.judged = []) (htrunc : s.mix.trunc = [])
    (hgot : s.mix.got = secs.map (fun x => (n, x))) (ht : t = s.withMix { s.mix with got := [] }) : s.dlCutoff = t.judgeDl n secs 0 := by
  have hnone : (!s.mix.judged.any (fun x => x.epoch == n)) = true := by rw [hj]; rfl
  have hsecs : (s.mix.got.filter (fun x => x.1 == n)).map (·.2) = secs := by simp [hgot, List.filter_map, Function.comp_def]
  have hrest : s.mix.got.filter (fun x => x.1 != n) = [] := by simp [hgot, List.filter_map, Function.comp_def]
  have hdel : tdel n s.mix.trunc = s.mix.trunc := by rw [htrunc]; rfl
  have hcut : tget 0 n s.mix.trunc = 0 := by rw [htrunc]; rfl
  rw [State.dlCutoff, ← hn]
  refine (if_pos ⟨hm, hc, hnone⟩).trans ?_
  simp only [hsecs, hrest, hdel, hcut, ht, State.withMix]

theorem State.rejectSections_none (s : State) (reason : Nat) : s.rejectSections reason 0 = s := by
  rw [State.rejectSections, if_pos rfl]

/-- A symbol for which none of the sections scheduled has come is silent, and counts an underrun. -/
theorem State.judgeDl_underrun {s v : State} {n : Nat} {sched : List (List Byte)} (hj : s.mix.judged = []) (hv : v = s.viewAt n)
    (hd : v.dlSymbol n = true) (hs : sched = v.scheduled Ix.DlLayerMap n) (hne : sched ≠ []) :
    s.judgeDl n [] 0 = ((s.bump Ix.DlUnderruns 0).raise 0x1201 0 (packData [fEpoch n, fCount sched.length])).putJudged
      { epoch := n, silent := true, parts := [] } := by
  have hlen : 0 < sched.length := List.length_pos_iff.2 hne
  simp only [State.judgeDl, ← hv, hd, ← hs, if_true, List.foldl_nil, State.rejectSections_none, List.length_nil, Nat.sub_zero, hlen,
    decide_true, Bool.true_or]
  simp [State.putJudged, State.withMix, hj]

theorem matchSection_first {d : List Byte} {x : SectionRec} (hf : sectionFits x d = true) (hb : ∀ b ∈ x.blocks, b.1 ≤ 16 - x.width) :
    matchSection [d] ⟨[], 0, 0, 0⟩ x = ⟨[(d, x.blocks.flatMap (blockSamples x.width))], 0, 0, 0⟩ := by
  have hvalid : x.blocks.filter (fun b => decide (16 - x.width < b.1)) = [] := by
    rw [List.filter_eq_nil_iff]
    intro b h
    have := hb b h
    simpa using this
  simp [matchSection, hf, hvalid]

/-- A symbol whose one section is there waits with it for the Beam Mixer. -/
theorem State.judgeDl_whole {s v : State} {n : Nat} {d : List Byte} {x : SectionRec} (hj : s.mix.judged = []) (hv : v = s.viewAt n)
    (hd : v.dlSymbol n = true) (hs : v.scheduled Ix.DlLayerMap n = [d]) (hf : sectionFits x d = true)
    (hb : ∀ b ∈ x.blocks, b.1 ≤ 16 - x.width) :
    s.judgeDl n [x] 0 = s.putJudged { epoch := n, silent := false, parts := [(d, x.blocks.flatMap (blockSamples x.width))] } := by
  simp only [State.judgeDl, ← hv, hd, hs, if_true, List.foldl_cons, List.foldl_nil, matchSection_first hf hb, State.rejectSections_none,
    List.length_singleton, Nat.sub_self, Nat.lt_irrefl, if_false, decide_false]
  simp [State.putJudged, State.withMix, hj]

/-! The accumulation deadline (R309) -/

/-- An own section whose deadline has passed leaves without its partial, and its symbol is reported. -/
theorem State.ulDeadline_one {s : State} {u : UlSection} (hw : s.mix.waiting = [u]) (hd : s.accumulationDeadline u.epoch ≤ s.now) :
    s.ulDeadline = ((({ s with mix := { s.mix with waiting := [] } } : State).bump Ix.UlPartialSent 0).emitSection u).raise 0x1208 0
      (packData [fEpoch u.epoch, f8 (s.pos + 1)]) := by
  simp [State.ulDeadline, hw, hd, List.eraseDups_cons]

/-- Settles O22: at its cut-off a symbol is judged by the sections that have come for it (`State.dlCutoff_judges`), against a schedule that does not
rest on them (`State.viewAt_withMix`); an own section at its deadline is `State.ulDeadline_one`. -/
theorem sectionsMeetTheirDeadlines : Obligations.SectionsMeetTheirDeadlines := by
  unfold Obligations.SectionsMeetTheirDeadlines
  refine ⟨?none, ?whole, ?deadline⟩
  case none =>
    intro s v n sched hn hm hc hj hgot htrunc hv hd hs hne
    have hsame : s = s.withMix { s.mix with got := [] } := by rw [← hgot]; rfl
    have hrun := (State.dlCutoff_judges (secs := []) hn hm hc hj htrunc hgot hsame).trans (State.judgeDl_underrun hj hv hd hs hne)
    exact ⟨_, rfl, congrArg Host.Outcome.next hrun⟩
  case whole =>
    intro s v n d x hn hm hc hj hgot htrunc hv hd hs hf hb
    have hview : v.withMix { s.mix with got := [] } = (s.withMix { s.mix with got := [] }).viewAt n := by rw [State.viewAt_withMix, hv]
    have hrun := (State.dlCutoff_judges (secs := [x]) hn hm hc hj htrunc hgot rfl).trans
      (State.judgeDl_whole hj hview ((State.dlSymbol_withMix v _ n).trans hd) ((State.scheduled_withMix v _ _ n).trans hs) hf hb)
    exact congrArg Host.Outcome.next hrun
  case deadline =>
    intro s u hw hd
    exact congrArg Host.Outcome.next (State.ulDeadline_one hw hd)

end Sys2Proof.Machine
end

section
/-! The step, and the statements of 03_catalogue.md on what every command and every step keep (R58, R65, R68, R83, R424). -/
namespace Sys2Proof.Machine

/-! The step -/

theorem step_of_pending {s : State} {c : Instr} {rest : List Instr} (h : s.pending = c :: rest) :
    step s = exec c { s with pending := rest } := by
  rw [step, h]

/-- Settles O1. That commands wait in one queue, first in first out, is the model's choice (log entry 6); a request is performed in its turn
(R58). -/
theorem stepRunsFrontCommand : Obligations.StepRunsFrontCommand := by
  unfold Obligations.StepRunsFrontCommand
  exact fun _ _ _ h => step_of_pending h

/-! Every command -/

/-- Every meaning ends in a next state: none faults and none refuses. -/
theorem exec_next (c : Instr) (s : State) : ∃ t, exec c s = .next t := by
  cases c <;> exact ⟨_, rfl⟩

/-- The meaning of each command keeps the relation, by the lemma of Laws/KeepsExec for it. -/
theorem exec_keepsA {s0 s : State} (c : Instr) (hk : Keeps s0 s) : KeepsA s0 (exec c s) := by
  cases c with
  | symbolTick x => exact execSymbolTick_keeps x hk
  | commitFail => exact execCommitFail_keeps hk
  | modeRequest w v => exact execModeRequest_keeps w v hk
  | safeHoldRequest w => exact execSafeHoldRequest_keeps w hk
  | arrayModeRequest w v => exact execArrayModeRequest_keeps w v hk
  | preparationComplete => exact execPreparationComplete_keeps hk
  | modeDone => exact execModeDone_keeps hk
  | nextSafeStep => exact execNextSafeStep_keeps hk
  | wake => exact execWake_keeps hk
  | dormantClockCheck present => exact execDormantClockCheck_keeps present hk
  | dlCutoff => exact execDlCutoff_keeps hk
  | ulAccumulationDeadline => exact execUlAccumulationDeadline_keeps hk
  | readyReport => exact execReadyReport_keeps hk
  | commitDecision => exact execCommitDecision_keeps hk
  | noDecision => exact execNoDecision_keeps hk
  | syncInPulse width => exact execSyncInPulse_keeps width hk
  | timeLost => exact execTimeLost_keeps hk
  | timeRealign w v => exact execTimeRealign_keeps w v hk
  | timeRealignStep => exact execTimeRealignStep_keeps hk
  | read r => exact execRead_keeps r hk
  | readStaged r => exact execReadStaged_keeps r hk
  | snapshot r => exact execSnapshot_keeps r hk
  | write r => exact execWrite_keeps r hk
  | stage r => exact execStage_keeps r hk
  | commit r => exact execCommit_keeps r hk
  | discard r => exact execDiscard_keeps r hk
  | domainTransferTimeout index sub => exact execDomainTransferTimeout_keeps index sub hk
  | forwardTimeout tag => exact execForwardTimeout_keeps tag hk
  | request bytes => exact execRequest_keeps bytes hk
  | response clocked => exact execResponse_keeps clocked hk
  | status => exact execStatus_keeps hk
  | spiFramingError => exact execSpiFramingError_keeps hk
  | eventAck w n => exact execEventAck_keeps w n hk
  | eventSend => exact execEventSend_keeps hk
  | masterPresenceClear w v => exact execMasterPresenceClear_keeps w v hk
  | dcRange path code => exact execDcRange_keeps path code hk
  | synUnlock course => exact execSynUnlock_keeps course hk
  | synLock course => exact execSynLock_keeps course hk
  | relockAttemptFail course => exact execRelockAttemptFail_keeps course hk
  | loBorrowSwitch course => exact execLoBorrowSwitch_keeps course hk
  | loBorrow course offsets => exact execLoBorrow_keeps course offsets hk
  | courseTransitionStart course => exact execCourseTransitionStart_keeps course hk
  | courseTransitionDone course => exact execCourseTransitionDone_keeps course hk
  | observationStep receiver selfCheck => exact execObservationStep_keeps receiver selfCheck hk
  | forwardCaptureDone receiver pFbin d oneCode samples => exact execForwardCaptureDone_keeps receiver pFbin d oneCode samples hk
  | reflectedCaptureDone receiver pRef d => exact execReflectedCaptureDone_keeps receiver pRef d hk
  | linUpdateReady path nmse aclr cands coefs => exact execLinUpdateReady_keeps path nmse aclr cands coefs hk
  | linResume w v => exact execLinResume_keeps w v hk
  | folioSeal w slot => exact execFolioSeal_keeps w slot hk
  | soundingWriteDone => exact execSoundingWriteDone_keeps hk
  | libraryValidate w entry => exact execLibraryValidate_keeps w entry hk
  | libraryInvalidate w entry => exact execLibraryInvalidate_keeps w entry hk
  | weightJobSubmit w record => exact execWeightJobSubmit_keeps w record hk
  | weightJobCancel w job => exact execWeightJobCancel_keeps w job hk
  | jobStart => exact execJobStart_keeps hk
  | jobDone micros => exact execJobDone_keeps micros hk
  | gramTimeout => exact execGramTimeout_keeps hk
  | cancelSetSeal w slot => exact execCancelSetSeal_keeps w slot hk
  | cancelSetLoaded slot => exact execCancelSetLoaded_keeps slot hk
  | cancelTrain w record => exact execCancelTrain_keeps w record hk
  | cancelTrainStart => exact execCancelTrainStart_keeps hk
  | cancelTrainStageDone r => exact execCancelTrainStageDone_keeps r hk
  | cancelTrackReady solves => exact execCancelTrackReady_keeps solves hk
  | speTxSend w record => exact execSpeTxSend_keeps w record hk
  | speTxCancel w v => exact execSpeTxCancel_keeps w v hk
  | speRxRelease w v => exact execSpeRxRelease_keeps w v hk
  | speTxReady => exact execSpeTxReady_keeps hk
  | speTxStart => exact execSpeTxStart_keeps hk
  | speTxDone => exact execSpeTxDone_keeps hk
  | speDiversityDwell => exact execSpeDiversityDwell_keeps hk
  | speDetect d => exact execSpeDetect_keeps d hk
  | speSync f => exact execSpeSync_keeps f hk
  | speSyncWindowExpiry => exact execSpeSyncWindowExpiry_keeps hk
  | speHeader word => exact execSpeHeader_keeps word hk
  | speRx payload crc => exact execSpeRx_keeps payload crc hk
  | speCfoMove => exact execSpeCfoMove_keeps hk
  | synpLock => exact execSynpLock_keeps hk
  | trimRecheck w v => exact execTrimRecheck_keeps w v hk
  | calRun w record => exact execCalRun_keeps w record hk
  | calRunCancel w v => exact execCalRunCancel_keeps w v hk
  | calRunStart => exact execCalRunStart_keeps hk
  | calMeasurementDone m => exact execCalMeasurementDone_keeps m hk
  | calRunComplete peers => exact execCalRunComplete_keeps peers hk
  | calRollStep => exact execCalRollStep_keeps hk
  | calStoreSave w contents => exact execCalStoreSave_keeps w contents hk
  | calStoreDone verified => exact execCalStoreDone_keeps verified hk
  | calStoreTimeout => exact execCalStoreTimeout_keeps hk
  | ldv o f => exact execLdv_keeps o f hk
  | ldvc o f => exact execLdvc_keeps o f hk
  | ldb o f => exact execLdb_keeps o f hk
  | ldbc o f => exact execLdbc_keeps o f hk
  | stv o f => exact execStv_keeps o f hk
  | stvc o f => exact execStvc_keeps o f hk
  | sta o f => exact execSta_keeps o f hk
  | stac o f => exact execStac_keeps o f hk
  | ldw o f => exact execLdw_keeps o f hk
  | stw o f => exact execStw_keeps o f hk
  | ldar o f => exact execLdar_keeps o f hk
  | star o f => exact execStar_keeps o f hk
  | cmac o f => exact execCmac_keeps o f hk
  | cmacj o f => exact execCmacj_keeps o f hk
  | cmul o f => exact execCmul_keeps o f hk
  | cmulj o f => exact execCmulj_keeps o f hk
  | cmsub o f => exact execCmsub_keeps o f hk
  | tapm o f => exact execTapm_keeps o f hk
  | clra o f => exact execClra_keeps o f hk
  | adda o f => exact execAdda_keeps o f hk
  | vmova o f => exact execVmova_keeps o f hk
  | vadd o f => exact execVadd_keeps o f hk
  | vsub o f => exact execVsub_keeps o f hk
  | vconj o f => exact execVconj_keeps o f hk
  | vshr o f => exact execVshr_keeps o f hk
  | vbcast o f => exact execVbcast_keeps o f hk
  | vrecip o f => exact execVrecip_keeps o f hk
  | vrsqrt o f => exact execVrsqrt_keeps o f hk
  | vext o f => exact execVext_keeps o f hk
  | movi o f => exact execMovi_keeps o f hk
  | movh o f => exact execMovh_keeps o f hk
  | addi o f => exact execAddi_keeps o f hk
  | addp o f => exact execAddp_keeps o f hk
  | subp o f => exact execSubp_keeps o f hk
  | shli o f => exact execShli_keeps o f hk
  | shrai o f => exact execShrai_keeps o f hk
  | movs o f => exact execMovs_keeps o f hk
  | movg o f => exact execMovg_keeps o f hk
  | loop o f => exact execLoop_keeps o f hk
  | loopi o f => exact execLoopi_keeps o f hk
  | br o f => exact execBr_keeps o f hk
  | call o f => exact execCall_keeps o f hk
  | ret o => exact execRet_keeps o hk
  | rti o => exact execRti_keeps o hk
  | xget o f => exact execXget_keeps o f hk
  | xput o f => exact execXput_keeps o f hk
  | xwait o f => exact execXwait_keeps o f hk
  | lease o f => exact execLease_keeps o f hk
  | unlease o f => exact execUnlease_keeps o f hk
  | done o f => exact execDone_keeps o f hk
  | interruptEntry core => exact execInterruptEntry_keeps core hk
  | xferComplete core place error => exact execXferComplete_keeps core place error hk
  | timerCompare core => exact execTimerCompare_keeps core hk
  | watchdogOverrun core => exact execWatchdogOverrun_keeps core hk
  | masonRestore w core => exact execMasonRestore_keeps w core hk
  | masonSelftestDone core pass => exact execMasonSelftestDone_keeps core pass hk
  | masonKernelLoad r => exact execMasonKernelLoad_keeps r hk
  | masonKernelUnload w slot => exact execMasonKernelUnload_keeps w slot hk
  | masonJobSubmit w record => exact execMasonJobSubmit_keeps w record hk
  | masonJobCancel w job => exact execMasonJobCancel_keeps w job hk
  | leaseExpiry resource => exact execLeaseExpiry_keeps resource hk
  | detectPulse port found => exact execDetectPulse_keeps port found hk
  | trainDone port phases => exact execTrainDone_keeps port phases hk
  | portStateTimeout port => exact execPortStateTimeout_keeps port hk
  | failedTimeout port => exact execFailedTimeout_keeps port hk
  | lock port ready own skews => exact execLock_keeps port ready own skews hk
  | caps port message => exact execCaps_keeps port message hk
  | chain port devices => exact execChain_keeps port devices hk
  | bond port lanes => exact execBond_keeps port lanes hk
  | laneRejoin port lane => exact execLaneRejoin_keeps port lane hk
  | alignForce port => exact execAlignForce_keeps port hk
  | clockLoss port => exact execClockLoss_keeps port hk
  | linkRetrain w port v => exact execLinkRetrain_keeps w port v hk
  | linkEnable w port v => exact execLinkEnable_keeps w port v hk
  | layerDl h payload => exact execLayerDl_keeps h payload hk
  | layerUl h payload => exact execLayerUl_keeps h payload hk
  | prach h payload => exact execPrach_keeps h payload hk
  | gram h payload => exact execGram_keeps h payload hk
  | catReq h payload => exact execCatReq_keeps h payload hk
  | catRsp h payload => exact execCatRsp_keeps h payload hk
  | event h payload => exact execEvent_keeps h payload hk
  | frame h holdover offset => exact execFrame_keeps h holdover offset hk
  | echoReq h id => exact execEchoReq_keeps h id hk
  | echoRsp h id turn => exact execEchoRsp_keeps h id turn hk
  | ready h ready => exact execReady_keeps h ready hk
  | decision h go epoch => exact execDecision_keeps h go epoch hk
  | memRead h a => exact execMemRead_keeps h a hk
  | memWrite h a data => exact execMemWrite_keeps h a data hk
  | memResponse h payload => exact execMemResponse_keeps h payload hk
  | capture h payload => exact execCapture_keeps h payload hk
  | typeDrop h typ payload => exact execTypeDrop_keeps h typ payload hk
  | credits h u => exact execReturn_keeps h u hk
  | resyncReq h => exact execResyncReq_keeps h hk
  | resyncAck h => exact execResyncAck_keeps h hk
  | resyncDone h u => exact execResyncDone_keeps h u hk
  | resyncRetry port => exact execResyncRetry_keeps port hk
  | creditReturnSend port => exact execCreditReturnSend_keeps port hk
  | echoInterval => exact execEchoInterval_keeps hk
  | frameMarkerSend => exact execFrameMarkerSend_keeps hk
  | packetSend port => exact execPacketSend_keeps port hk
  | captureSend port => exact execCaptureSend_keeps port hk
  | mortarTimeout a => exact execMortarTimeout_keeps a hk
  | slowPathDone page => exact execSlowPathDone_keeps page hk
  | scrubPage => exact execScrubPage_keeps hk
  | eccLogClear w v => exact execEccLogClear_keeps w v hk
  | partitionCopyDone => exact execPartitionCopyDone_keeps hk
  | dmaStart w record => exact execDmaStart_keeps w record hk
  | dmaAbort w channel v => exact execDmaAbort_keeps w channel v hk
  | descriptorFetch channel error => exact execDescriptorFetch_keeps channel error hk
  | dmaBurst => exact execDmaBurst_keeps hk
  | dmaWriteResponse channel place => exact execDmaWriteResponse_keeps channel place hk
  | appendPoll channel => exact execAppendPoll_keeps channel hk
  | domainReady domain good osc init => exact execDomainReady_keeps domain good osc init hk
  | domainWakeTimeout domain => exact execDomainWakeTimeout_keeps domain hk
  | archInitLimit => exact execArchInitLimit_keeps hk
  | domainIdleOff domain => exact execDomainIdleOff_keeps domain hk
  | govPlannedWake course => exact execGovPlannedWake_keeps course hk
  | govDormantRequest => exact execGovDormantRequest_keeps hk
  | govWakeNow w v => exact execGovWakeNow_keeps w v hk
  | refclkLoss => exact execRefclkLoss_keeps hk
  | clockReturn => exact execClockReturn_keeps hk
  | powerHold w course => exact execPowerHold_keeps w course hk
  | powerRelease w course => exact execPowerRelease_keeps w course hk
  | powerOn => exact execPowerOn_keeps hk
  | brownOut => exact execBrownOut_keeps hk
  | rstNLow => exact execRstNLow_keeps hk
  | rstNHigh straps => exact execRstNHigh_keeps straps hk
  | keystoneWatchdog => exact execKeystoneWatchdog_keeps hk
  | criticalParity => exact execCriticalParity_keeps hk
  | resetSourceRelease bit straps => exact execResetSourceRelease_keeps bit straps hk
  | resetRequestCold w => exact execResetRequestCold_keeps w hk
  | resetRequestWarm w => exact execResetRequestWarm_keeps w hk
  | linkCommandAssert => exact execLinkCommandAssert_keeps hk
  | resetCauseClear w v => exact execResetCauseClear_keeps w v hk
  | domainReset w domain => exact execDomainReset_keeps w domain hk
  | domainResetDone domain => exact execDomainResetDone_keeps domain hk
  | bootImageReadDone => exact execBootImageReadDone_keeps hk
  | bootReadTimeout => exact execBootReadTimeout_keeps hk
  | bootImageLoad r => exact execBootImageLoad_keeps r hk
  | keyRevoke w record => exact execKeyRevoke_keeps w record hk
  | keyRevoked => exact execKeyRevoked_keeps hk
  | attestRequest w nonce => exact execAttestRequest_keeps w nonce hk
  | attestDone => exact execAttestDone_keeps hk
  | identitySign w digest => exact execIdentitySign_keeps w digest hk
  | signDone => exact execSignDone_keeps hk
  | testLogicReset straps => exact execTestLogicReset_keeps straps hk
  | idcode straps => exact execIdcode_keeps straps hk
  | samplePreload cells straps => exact execSamplePreload_keeps cells straps hk
  | extest => exact execExtest_keeps hk
  | extestPulse => exact execExtestPulse_keeps hk
  | extestTrain => exact execExtestTrain_keeps hk
  | clamp => exact execClamp_keeps hk
  | highz => exact execHighz_keeps hk
  | bypass straps => exact execBypass_keeps straps hk
  | hkFrame f => exact execHkFrame_keeps f hk
  | hkCheck k => exact execHkCheck_keeps k hk
  | hkTrustHka w => exact execHkTrustHka_keeps w hk
  | hkTrustHkb w => exact execHkTrustHkb_keeps w hk
  | hkTrustBoth w => exact execHkTrustBoth_keeps w hk
  | bloadN => exact execBloadN_keeps hk
  | bclrNFall => exact execBclrNFall_keeps hk
  | bclrNRise => exact execBclrNRise_keeps hk
  | biasShort channel => exact execBiasShort_keeps channel hk
  | biasShortClear channel => exact execBiasShortClear_keeps channel hk
  | throttleGrace sensor => exact execThrottleGrace_keeps sensor hk
  | throttleStep sensor => exact execThrottleStep_keeps sensor hk
  | tileMute tile => exact execTileMute_keeps tile hk
  | shutdownDeadline => exact execShutdownDeadline_keeps hk
  | shutdownBiasClear => exact execShutdownBiasClear_keeps hk
  | driverOvercurrent path => exact execDriverOvercurrent_keeps path hk
  | pathFaultClear w v => exact execPathFaultClear_keeps w v hk
  | leaseRevoke w resource => exact execLeaseRevoke_keeps w resource hk
  | faultLogClear w v => exact execFaultLogClear_keeps w v hk
  | shadowUncorrectable => exact execShadowUncorrectable_keeps hk
  | coreParityError core => exact execCoreParityError_keeps core hk
  | scramblerFrameStart port => exact execScramblerFrameStart_keeps port hk
  | domainSwitchOffDone domain => exact execDomainSwitchOffDone_keeps domain hk

/-- A command keeps the waiting commands and the invariant of the state it finds. -/
theorem exec_keeps {c : Instr} {s t : State} (h : exec c s = .next t) : Keeps s t := by
  have hkeeps := exec_keepsA c (Keeps.refl s)
  rwa [h] at hkeeps

/-- Settles O3: every meaning ends in a next state (`exec_next`), which keeps the queue (`exec_keeps`). That a command whose condition does not hold
changes nothing instead of faulting, and that operands out of range follow the same code, is the model's choice (log entries 5, 6, 40 and 41). -/
theorem everyCommandAnswersANextState : Obligations.EveryCommandAnswersANextState := by
  unfold Obligations.EveryCommandAnswersANextState
  intro c s
  obtain ⟨t, ht⟩ := exec_next c s
  exact ⟨t, ht, (exec_keeps ht).pending⟩

/-! The invariant -/

/-- Settles O4: after reset the memories, the queues, the transfers and the open set are empty (log entries 2 and 6). -/
theorem resetHasTheInvariant : Obligations.ResetHasTheInvariant := by
  unfold Obligations.ResetHasTheInvariant
  exact ⟨rfl, Nat.zero_le _, Nat.zero_le _, Nat.zero_le _, Nat.zero_le _, .nil, Nat.zero_le _, Nat.zero_le _⟩

/-- The invariant says nothing of the commands that wait. -/
theorem State.Inv.withPending {s : State} (h : s.Inv) (l : List Instr) : ({ s with pending := l } : State).Inv :=
  ⟨h.mem, h.queue, h.log, h.ecc, h.transfers, h.one, h.openSet, h.openBytes⟩

/-- Settles O5: the passing of time keeps the invariant (`State.idle_keeps`), and so does every command (`exec_keeps`). The bounds are those of R65,
R68, R83, R332 and R424; the canonical form of the memories is the model's (log entry 2). -/
theorem stepKeepsTheInvariant : Obligations.StepKeepsTheInvariant := by
  unfold Obligations.StepKeepsTheInvariant
  intro s t hs hstep
  cases hp : s.pending with
  | nil =>
    rw [step_of_empty hp] at hstep
    cases hstep
    exact (State.idle_keeps (Keeps.refl s)).inv hs
  | cons c rest =>
    rw [step_of_pending hp] at hstep
    exact (exec_keeps hstep).inv (hs.withPending rest)

end Sys2Proof.Machine
end

section
/-! A request written out and read again, and the statement of 03_catalogue.md on it (R60, Table 3.4). -/
namespace Sys2Proof.Machine

/-! Fields of a byte string -/

/-- A field behind the first bytes of a string is a field of the rest. -/
theorem fieldLE_append_of_le {a l : List Byte} {off n : Nat} (h : a.length ≤ off) : fieldLE (a ++ l) off n = fieldLE l (off - a.length) n := by
  rw [fieldLE, fieldLE, sliceBytes, sliceBytes, List.drop_append, List.drop_eq_nil_of_le h, List.nil_append]

/-- A field that was laid out in its width reads as the value. -/
theorem fieldLE_leBytes_append {n v : Nat} (l : List Byte) (h : v < 256 ^ n) : fieldLE (leBytes n v ++ l) 0 n = v := by
  have hslice : sliceBytes (leBytes n v ++ l) 0 n = leBytes n v := by simp [sliceBytes]
  rw [fieldLE, hslice, leNat_leBytes, Nat.mod_eq_of_lt h]

/-! The CTRL byte -/

theorem b2n_le_one (b : Bool) : b2n b ≤ 1 := by cases b <;> decide

theorem b2n_beq_one (b : Bool) : (b2n b == 1) = b := by cases b <;> rfl

theorem ctrlByte_lt (r : Request) : ctrlByte r < 256 := by
  have ha := b2n_le_one r.array
  have hs := b2n_le_one r.asap
  have hf := b2n_le_one r.first
  have hl := b2n_le_one r.last
  unfold ctrlByte
  omega

/-- The six fields of CTRL are read back (Table 3.4). -/
theorem ctrlByte_fields {r : Request} (hp : r.pos < 4) (hs : r.spare < 4) :
    bitsOf (ctrlByte r) 7 6 = r.pos ∧ bitAt (ctrlByte r) 5 = r.array ∧ bitAt (ctrlByte r) 4 = r.asap ∧ bitAt (ctrlByte r) 3 = r.first
      ∧ bitAt (ctrlByte r) 2 = r.last ∧ bitsOf (ctrlByte r) 1 0 = r.spare := by
  have ha := b2n_le_one r.array
  have hn := b2n_le_one r.asap
  have hf := b2n_le_one r.first
  have hl := b2n_le_one r.last
  have hbit : ∀ {i : Nat} {b : Bool}, ctrlByte r / 2 ^ i % 2 = b2n b → bitAt (ctrlByte r) i = b := by
    intro i b h
    rw [bitAt, h, b2n_beq_one]
  refine ⟨?_, hbit ?_, hbit ?_, hbit ?_, hbit ?_, ?_⟩
  all_goals
    simp only [bitsOf, ctrlByte, Nat.mod_eq_of_lt hp, Nat.mod_eq_of_lt hs]
    omega

/-! The request -/

/-- Each field of the header stands where Table 3.4 puts it. -/
theorem requestBytes_fields {r : Request} (h : r.wf = true) :
    fieldLE (requestBytes r) 0 1 = r.op ∧ fieldLE (requestBytes r) 1 1 = r.tag ∧ fieldLE (requestBytes r) 2 1 = ctrlByte r
      ∧ fieldLE (requestBytes r) 3 1 = r.sub ∧ fieldLE (requestBytes r) 4 2 = r.index ∧ fieldLE (requestBytes r) 6 2 = r.count
      ∧ fieldLE (requestBytes r) 8 4 = r.length ∧ fieldLE (requestBytes r) 12 4 = r.offset ∧ fieldLE (requestBytes r) 16 8 = r.param := by
  simp only [Request.wf, Bool.and_eq_true, decide_eq_true_eq] at h
  obtain ⟨⟨⟨⟨⟨⟨⟨⟨⟨⟨⟨-, hop⟩, htag⟩, -⟩, hsub⟩, hindex⟩, hcount⟩, hlength⟩, hoffset⟩, hparam⟩, -⟩, -⟩ := h
  have hctrl := ctrlByte_lt r
  simp only [requestBytes, List.append_assoc]
  refine ⟨fieldLE_leBytes_append _ (by omega), ?_, ?_, ?_, ?_, ?_, ?_, ?_, ?_⟩
  all_goals
    simp only [fieldLE_append_of_le, leBytes_length, Nat.reduceLeDiff, Nat.reduceSub, Nat.sub_self, le_refl]
    exact fieldLE_leBytes_append _ (by omega)

theorem requestBytes_data (r : Request) : (requestBytes r).drop 24 = r.data := by
  rw [requestBytes, List.drop_left']
  simp only [List.length_append, leBytes_length]

/-- Settles O8: every field is read back from where it stands (`requestBytes_fields`), and CTRL from its bits (`ctrlByte_fields`). -/
theorem requestsReadAsWritten : Obligations.RequestsReadAsWritten := by
  unfold Obligations.RequestsReadAsWritten
  intro r h
  obtain ⟨hop, htag, hctrl, hsub, hindex, hcount, hlength, hoffset, hparam⟩ := requestBytes_fields h
  have hwidths : r.pos < 4 ∧ r.spare < 4 := by
    simp only [Request.wf, Bool.and_eq_true, decide_eq_true_eq] at h
    omega
  obtain ⟨hpos, harray, hasap, hfirst, hlast, hspare⟩ := ctrlByte_fields hwidths.1 hwidths.2
  simp only [parseRequest, hop, htag, hctrl, hsub, hindex, hcount, hlength, hoffset, hparam, hpos, harray, hasap, hfirst, hlast, hspare,
    requestBytes_data]

end Sys2Proof.Machine
end

section
/-! The operations of the Catalogue, and the statements of 03_catalogue.md on them (R58, R61 to R66). -/
namespace Sys2Proof.Machine

/-! An operation that ends at once -/

/-- Once boot is complete nothing of it goes on. -/
theorem State.bootContinue_booted {s : State} (h : s.reset_.bootDone = true) : s.bootContinue = s := by
  rw [State.bootContinue, if_pos (by simp [h])]

/-- The answer to a write, a stage or a discard names the epoch in progress (R61). -/
theorem State.done_eq {t : State} {n : Nat} (h : t.epoch = n) : t.done = .answer { epoch := epochEntry n } t := by
  rw [State.done, h]

/-- A request that the device performs at once, with its answer given in a state that keeps the request side and the reset record. -/
theorem State.operate_answers {s t : State} {r q : Request} {n : Nat} {a : Answer} (hq : q = { r with op := n }) (h : s.Attends (callerOf q))
    (hp : (s.noteMaster q.port).perform q = .answer a t) (h1 : t.host.stalled = (s.met q.port).host.stalled)
    (h2 : t.host.performing = (s.met q.port).host.performing) (h3 : t.reset_ = (s.met q.port).reset_) :
    s.operate n r = t.respond (t.responseTo q 0 false a) := by
  rw [State.operate, ← hq]
  refine State.take_answers_of h hp ?_ ?_ ?_
  · rw [h1, State.met_stalled, h.alone]
  · rw [h2, State.met_performing, h.nothing]
  · rw [h3, State.met_reset, h.booted]

/-- The same for an operation that only reads. -/
theorem State.operate_reads {s : State} {r q : Request} {n : Nat} {a : Answer} (hq : q = { r with op := n }) (h : s.Attends (callerOf q))
    (hp : (s.noteMaster q.port).perform q = .answer a (s.met q.port)) :
    s.operate n r = (s.met q.port).respond ((s.met q.port).responseTo q 0 false a) :=
  State.operate_answers hq h hp rfl rfl rfl

/-! Refusals (R70) -/

/-- A refused operation that carries no value abandons no transfer: the abort is recorded and answered. -/
theorem State.refuse_of_noValue {s : State} {r : Request} {a : Abort} (h4 : r.op ≠ 4) (h5 : r.op ≠ 5) (dup : Bool) :
    s.refuse r dup a = (({ s with free := s.free + 1 } : State).recordAbort r a).respond
      ((({ s with free := s.free + 1 } : State).recordAbort r a).responseTo r a.code dup
        { epoch := (({ s with free := s.free + 1 } : State).recordAbort r a).abortEpoch r a }) := by
  simp [State.refuse, h4, h5]

/-- An operation that carries no value and that the device refuses on performing it. -/
theorem State.operate_refuses {s : State} {r q : Request} {n : Nat} {a : Abort} (hq : q = { r with op := n }) (h : s.Attends (callerOf q))
    (h4 : n ≠ 4) (h5 : n ≠ 5) (hp : (s.noteMaster q.port).perform q = .abort a (s.met q.port)) :
    s.operate n r = (s.met q.port).refuse q false a := by
  have hn4 : q.op ≠ 4 := by rw [hq]; exact h4
  have hn5 : q.op ≠ 5 := by rw [hq]; exact h5
  have hidle : { (s.noteMaster q.port) with host := { (s.noteMaster q.port).host with performing := none } } = s.noteMaster q.port := by
    have := State.emptied (s.noteMaster q.port) (by simpa using h.alone) (by simpa using h.nothing)
    rw [← this]
  have hone : (s.noteMaster q.port).performOne q = (s.met q.port).refuse q false a := by
    rw [State.performOne, hidle, hp]
    simp only [State.imageRefused, hn4, false_and, if_false]
  have hrefuse := State.refuse_of_noValue (s := s.met q.port) (a := a) hn4 hn5 false
  have hstalled : ((s.noteMaster q.port).performOne q).host.stalled = [] := by
    rw [hone, hrefuse]
    simpa using h.alone
  have hperforming : ((s.noteMaster q.port).performOne q).host.performing = none := by
    rw [hone, hrefuse]
    simpa using h.nothing
  have harrive := State.arrive_of_performOne h (r := q) rfl rfl rfl hstalled hperforming
  have hboot : ((s.met q.port).refuse q false a).reset_.bootDone = true := by
    rw [hrefuse]; simpa using h.booted
  rw [State.operate, ← hq, State.take, harrive]
  exact (congrArg State.bootContinue hone).trans (State.bootContinue_booted hboot)

/-! Reads (R62 to R64) -/

theorem State.opRead_scalar {s : State} {r : Request} {e : Entry} (h : e.type ≠ .domain) :
    s.opRead r e = .answer
      { stale := s.stale r.index r.sub, epoch := epochEntry s.epoch, data := leBytes e.type.size (s.valueOf r.index r.sub) } s := by
  rw [State.opRead, if_neg h]

theorem State.opSnapshot_fits {s : State} {r : Request} {d : List Byte}
    (hd : d = (List.range r.count).flatMap (fun k => s.snapItem (fieldLE r.data (4 * k) 2) (fieldLE r.data (4 * k + 2) 1)))
    (h : s.responseTooLong r d.length = false) :
    s.opSnapshot r = .answer { aux := r.count, epoch := epochEntry s.epoch, data := d } s := by
  subst hd
  simp only [State.opSnapshot, h, Bool.false_eq_true, if_false]

/-- Settles O9: a READ of a scalar answers the value (`State.opRead_scalar`), a SNAPSHOT its items (`State.opSnapshot_fits`), and neither changes
the state that meets it (`State.operate_reads`). -/
theorem readsAnswerTheValue : Obligations.ReadsAnswerTheValue := by
  unfold Obligations.ReadsAnswerTheValue
  refine ⟨?read, ?snapshot⟩
  case read =>
    intro s r q e hq ha hh he hd
    have hperform := (State.perform_read (by rw [hq]) hh he).trans (State.opRead_scalar hd)
    rw [State.met_epoch] at hperform
    exact congrArg Host.Outcome.next (State.operate_reads hq ha hperform)
  case snapshot =>
    intro s r q d hq ha hh hd hfits
    have hperform := (State.perform_snapshot (by rw [hq]) hh ha.booted).trans (State.opSnapshot_fits hd hfits)
    rw [State.met_epoch] at hperform
    exact congrArg Host.Outcome.next (State.operate_reads hq ha hperform)

/-! READ_STAGED (R63) -/

theorem State.opReadStaged_num {s : State} {r : Request} {e : Entry} {v : Nat}
    (h : s.host.openSet.find? (fun it => it.index == r.index && it.sub == r.sub) = some ⟨r.index, r.sub, .num v⟩) :
    s.opReadStaged r e = .answer { epoch := epochEntry s.epoch, data := leBytes e.type.size v } s := by
  rw [State.opReadStaged, h]

/-- LENGTH 0 asks for the size, and a segment within the value for its bytes (R62). -/
theorem segmentOf_within {r : Request} {l d : List Byte} (h : r.length = 0 ∧ d = leBytes 4 l.length
      ∨ 1 ≤ r.length ∧ r.length ≤ 32768 ∧ r.offset + r.length ≤ l.length ∧ d = sliceBytes l r.offset r.length) :
    segmentOf r l.length (fun off n => sliceBytes l off n) = .ok d := by
  obtain ⟨h0, rfl⟩ | ⟨h1, hmax, hend, rfl⟩ := h
  · rw [segmentOf, if_pos h0]
  · rw [segmentOf, if_neg (by omega), if_neg (by omega)]

theorem State.opReadStaged_bytes {s : State} {r : Request} {e : Entry} {l d : List Byte}
    (h : s.host.openSet.find? (fun it => it.index == r.index && it.sub == r.sub) = some ⟨r.index, r.sub, .bytes l⟩)
    (hlong : s.responseTooLong r r.length = false) (hseg : segmentOf r l.length (fun off n => sliceBytes l off n) = .ok d) :
    s.opReadStaged r e = .answer { epoch := epochEntry s.epoch, data := d } s := by
  simp only [State.opReadStaged, h, hlong, hseg, Bool.false_eq_true, if_false]

theorem State.opReadStaged_none {s : State} {r : Request} {e : Entry} (h : ∀ it ∈ s.host.openSet, ¬(it.index = r.index ∧ it.sub = r.sub)) :
    s.opReadStaged r e = .abort s.stateAbort s := by
  have hfind : s.host.openSet.find? (fun it => it.index == r.index && it.sub == r.sub) = none := by
    rw [List.find?_eq_none]
    simpa using h
  rw [State.opReadStaged, hfind]

/-- Settles O10: the open set's value is answered, whole (`State.opReadStaged_num`) or by its segment or size (`State.opReadStaged_bytes`, R46, R62);
an entry without one aborts (`State.opReadStaged_none`), and the refusal is all that then happens (`State.operate_refuses`). -/
theorem stagedValuesAreReadBack : Obligations.StagedValuesAreReadBack := by
  unfold Obligations.StagedValuesAreReadBack
  intro s r q e hq ha hh he
  have hperform : (s.noteMaster q.port).perform q = (s.met q.port).opReadStaged q e := State.perform_readStaged (by rw [hq]) hh he
  refine ⟨?num, ?bytes, ?none⟩
  case num =>
    intro v hv
    rw [State.opReadStaged_num (by rw [State.met_openSet]; exact hv), State.met_epoch] at hperform
    exact congrArg Host.Outcome.next (State.operate_reads hq ha hperform)
  case bytes =>
    intro l d hl hseg hlong
    rw [State.opReadStaged_bytes (by rw [State.met_openSet]; exact hl) hlong (segmentOf_within hseg), State.met_epoch] at hperform
    exact congrArg Host.Outcome.next (State.operate_reads hq ha hperform)
  case none =>
    intro hnone
    rw [State.opReadStaged_none (by rw [State.met_openSet]; exact hnone)] at hperform
    exact congrArg Host.Outcome.next (State.operate_refuses hq ha (by decide) (by decide) hperform)

/-! WRITE, STAGE and DISCARD (R58, R65, R66) -/

/-- A WRITE of an element that has no effect of its own gives the element its value. -/
theorem State.opScalar_write {m : State} {q : Request} {e : Entry} {v : Nat} (ho : q.op = 4) (hl : q.length = e.type.size)
    (hv : v = keptValue e (fieldLE q.data 0 e.type.size)) (hok : m.scalarOk e q.index q.sub v = true)
    (hres : m.reservedElement q.index q.sub = false) (hcmd : ¬(e.type = .bool ∧ e.access = .cmd ∧ v = 0))
    (hd : writeDomainCode q.index = none) (ha : m.scalarAct q.index q.sub v = none) :
    m.opScalar q e = (m.wr q.index q.sub v).done := by
  have hwrite : m.writeScalar q.index q.sub v = .ok (m.wr q.index q.sub v) := by
    rw [State.writeScalar, ha, Option.getD_none]
  unfold State.opScalar
  simp only [hl, lt_irrefl, if_false, ← hv, hok, ho, hres, hcmd, hd, Bool.not_true, Bool.false_eq_true, Nat.reduceEqDiff]
  exact State.acting_ok hwrite

/-- A STAGE within the limits puts the value into the open set (R65). -/
theorem State.opScalar_stage {m : State} {q : Request} {e : Entry} {v : Nat} {l : List StagedItem} (ho : q.op = 5)
    (hl : q.length = e.type.size) (hv : v = keptValue e (fieldLE q.data 0 e.type.size)) (hok : m.scalarOk e q.index q.sub v = true)
    (hset : l = putStaged ⟨q.index, q.sub, .num v⟩ m.host.openSet) (hmax : l.length ≤ 4096) (hbytes : stagedBytes l ≤ 8388608) :
    m.opScalar q e = State.done { m with host := { m.host with openSet := l } } := by
  have hstage : m.stage ⟨q.index, q.sub, .num v⟩ = .ok { m with host := { m.host with openSet := l } } := by
    simp only [State.stage, ← hset]
    rw [if_neg (by omega)]
  unfold State.opScalar
  simp only [hl, lt_irrefl, if_false, ← hv, hok, ho, hstage, Bool.not_true, Bool.false_eq_true, if_true]

/-- A DISCARD that is in order empties the open set (R66); EPOCH of its answer is a free value (log entry 13). -/
theorem State.opDiscard_empties {m : State} {q : Request} (hs : q.array = true → m.pos = 0) (hb : m.reset_.bootDone = true) :
    m.opDiscard q = .answer { epoch := (Config.freeFigure m.free 520 % 2 ^ 64).toNat } { m with host := { m.host with openSet := [] } } := by
  have hpos : ¬(q.array = true ∧ m.pos ≠ 0) := fun ⟨harray, hne⟩ => hne (hs harray)
  have hmode : m.setRefused 7 = false := by simp [State.setRefused, hb]
  simp only [State.opDiscard, hpos, hmode, Bool.false_eq_true, if_false]

/-- Settles O11: what each operation leaves is `State.opScalar_write`, `State.opScalar_stage` and `State.opDiscard_empties`, and the response follows
it (`State.operate_answers`). -/
theorem writesTakeEffectBeforeTheResponse : Obligations.WritesTakeEffectBeforeTheResponse := by
  unfold Obligations.WritesTakeEffectBeforeTheResponse
  refine ⟨?write, ?stage, ?discard⟩
  case write =>
    rintro s t r q e v hq ha hh he hd hl hv hok hres hcmd hdom hact rfl
    have hop : q.op = 4 := by rw [hq]
    have hperform := (State.perform_value hop (.inl rfl) hh he hd).trans (State.opScalar_write hop hl hv hok hres hcmd hdom hact)
    have hdone := hperform.trans (State.done_eq (n := s.epoch) (by simp))
    exact congrArg Host.Outcome.next (State.operate_answers hq ha hdone (by simp) (by simp) (by simp))
  case stage =>
    rintro s t r q e v l hq ha hh he hd hl hv hok hset hmax hbytes rfl
    have hop : q.op = 5 := by rw [hq]
    have hperform := (State.perform_value hop (.inr rfl) hh he hd).trans
      (State.opScalar_stage hop hl hv hok (by rw [State.met_openSet]; exact hset) hmax hbytes)
    have hdone := hperform.trans (State.done_eq (n := s.epoch) (by simp))
    exact congrArg Host.Outcome.next (State.operate_answers hq ha hdone rfl rfl rfl)
  case discard =>
    rintro s t r q hq ha hh hs rfl
    have hperform := (State.perform_discard (by rw [hq]) hh).trans
      (State.opDiscard_empties (m := s.met q.port) (by rw [State.met_pos]; exact hs) (by rw [State.met_reset]; exact ha.booted))
    exact ⟨_, congrArg Host.Outcome.next (State.operate_answers hq ha hperform rfl rfl rfl)⟩

end Sys2Proof.Machine
end

section
/-! Requests that time out, the service port and the events, and the statement of 03_catalogue.md on them (R68, R73, R75, R79, R80, R83). -/
namespace Sys2Proof.Machine

/-! Timeouts (R68, R75) -/

theorem State.transferTimeout_idle {s : State} {index sub : Nat} {x : DomainTransfer} (hx : s.transferOf index sub = some x)
    (h : x.lastAt + msec (s.rd Ix.DomainTransferTimeout 0) ≤ s.now) : s.transferTimeout index sub = s.abandonTransfer index sub 1 := by
  simp only [State.transferTimeout, hx, State.elapsed_of_le h, if_true]

theorem State.forwardTimeout_idle {s : State} {tag : Nat} {f : Forwarded}
    (hf : s.host.forwarded.find? (fun f => f.request.tag == tag) = some f) (h : f.sentAt + msec (s.rd Ix.ForwardTimeout 0) ≤ s.now) :
    s.forwardTimeout tag
      = ({ s with host := { s.host with forwarded := s.host.forwarded.erase f } } : State).refuse f.request false ⟨abPosition, 0⟩ := by
  simp only [State.forwardTimeout, hf, State.elapsed_of_le h, if_true]

/-! The service port (R79, R80) -/

@[simp] theorem State.spiBegin_reset (s : State) (l : List Byte) : (s.spiBegin l).reset_ = s.reset_ := rfl

theorem State.spiRequest_whole {s : State} {l : List Byte} (hs : s.serving = true) (hl : 24 ≤ l.length)
    (hsize : impliedSize (parseRequest 1 l) ≤ l.length) (hspace : s.reqSpace = true) :
    s.spiRequest l = (s.spiBegin []).arrive (parseRequest 1 l) := by
  have htaken : ¬(l.length < 24 ∨ l.length < impliedSize (parseRequest 1 l) ∨ (!s.reqSpace) = true) := by
    simp only [hspace, Bool.not_true, Bool.false_eq_true, or_false]
    omega
  simp only [State.spiRequest, hs, Bool.not_true, Bool.false_eq_true, if_false, if_neg htaken]

theorem State.spiRequest_short {s : State} {l : List Byte} (hs : s.serving = true) (hl : l.length < 24) :
    s.spiRequest l = (s.spiBegin []).bump Ix.SpiFramingErrors 0 := by
  simp only [State.spiRequest, hs, hl, Bool.not_true, Bool.false_eq_true, if_false, true_or, if_true]

/-- The oldest response is shifted out; it leaves once it is clocked whole, and no request waits for its space. -/
theorem State.spiResponse_oldest {s : State} {x : Response} {rest : List Response} (hs : s.serving = true) (hr : s.host.responses = x :: rest)
    (hst : s.host.stalled = []) (hp : s.host.performing = none) (n : Nat) :
    s.spiResponse n = if (responseBytes x).length ≤ n
      then { s.spiBegin (sliceBytes (responseBytes x) 0 n) with host := { (s.spiBegin (sliceBytes (responseBytes x) 0 n)).host with
        responses := rest } }
      else s.spiBegin (sliceBytes (responseBytes x) 0 n) := by
  have hpump : ∀ t : State, t.host.stalled = [] → t.host.performing = none → t.pump = t := fun t => State.pumpFuel_idle _ t
  simp only [State.spiResponse, hs, hr, Bool.not_true, Bool.false_eq_true, if_false]
  split
  · exact hpump _ hst hp
  · rfl

/-! Events (R83) -/

/-- EVENT_ACK takes as many records as the queue holds, at most 64 at a time (R83). -/
theorem State.writeScalar_eventAck {m : State} {n : Nat} (h1 : 1 ≤ n) (h2 : n ≤ 64) (h3 : n ≤ m.ev.queue.length) :
    m.writeScalar Ix.EventAck 0 n = .ok (m.dropEvents n) := by
  have hrange : ¬(n = 0 ∨ 64 < n ∨ m.ev.queue.length < n) := by omega
  simp only [State.writeScalar, State.scalarAct, Ix.EventAck, Option.getD_some, State.eventAck, if_neg hrange]

theorem exec_eventAck {s : State} {w : Caller} {n : Nat} (h : s.Orders w Ix.EventAck 0 n) (h1 : 1 ≤ n) (h2 : n ≤ 64)
    (h3 : n ≤ (s.met w.port).ev.queue.length) :
    exec (.eventAck w n) s = .next (((s.met w.port).dropEvents n).ended w Ix.EventAck 0 n) :=
  congrArg Host.Outcome.next (h.runSame rfl (State.writeScalar_eventAck h1 h2 h3) (by simp) (by simp))

theorem State.dropEvents_none_lost {s : State} (h : s.ev.lostSince = 0) (n : Nat) :
    s.dropEvents n = { s with ev := { s.ev with queue := s.ev.queue.drop n } } := by
  simp only [State.dropEvents, h, if_true]

theorem State.dropEvents_some_lost {s : State} (h : s.ev.lostSince ≠ 0) (n : Nat) :
    s.dropEvents n = ({ s with ev := { s.ev with queue := s.ev.queue.drop n, lostSince := 0 } } : State).raise 0x1401 0
      (packData [fCount s.ev.lostSince]) := by
  simp only [State.dropEvents, h, if_false]

theorem State.eventSend_north {s : State} {r : EventRec} {rest : List EventRec} (hq : s.ev.queue = r :: rest) (hr : s.rd Ix.EventRoute 0 = 1)
    (hl : s.rd Ix.LinkState 1 = 5) : s.eventSend = (s.sendNow 0 7 s.pos (eventBytes r)).dropEvents 1 := by
  have hactive : s.portActive 0 = true := by simp [State.portActive, State.linkState, hl]
  simp only [State.eventSend, hq, hr, hactive, and_self, if_true]

/-! The masters seen (R73) -/

theorem State.writeScalar_presenceClear (m : State) : m.writeScalar Ix.MasterPresenceClear 0 1
    = .ok (({ m with host := { m.host with lastPort := none, secondRaised := false } } : State).wr Ix.MasterPresence 0 0) := by
  simp only [State.writeScalar, State.scalarAct, Ix.MasterPresenceClear, Option.getD_some, State.presenceClear, if_true]

/-- Settles O17, command by command: what each does where its condition holds is the lemma named for it. -/
theorem requestsAndEventsAreServed : Obligations.RequestsAndEventsAreServed := by
  unfold Obligations.RequestsAndEventsAreServed
  refine ⟨?transfer, ?forward, ?request, ?short, ?response, ?status, ?framing, ?ack, ?ackLost, ?send, ?presence⟩
  case transfer =>
    intro s index sub x hx h
    exact congrArg Host.Outcome.next (State.transferTimeout_idle hx h)
  case forward =>
    intro s tag f hf h
    exact congrArg Host.Outcome.next (State.forwardTimeout_idle hf h)
  case request =>
    intro s l hs hl hsize hspace
    exact congrArg (fun t : State => Host.Outcome.next t.bootContinue) (State.spiRequest_whole hs hl hsize hspace)
  case short =>
    intro s l hs hb hl
    refine congrArg Host.Outcome.next ?_
    rw [State.spiRequest_short hs hl, State.bootContinue_booted (by simpa using hb)]
  case response =>
    intro s n x rest hs hb hr hst hp
    refine congrArg Host.Outcome.next ?_
    rw [State.spiResponse_oldest hs hr hst hp, State.bootContinue_booted]
    split <;> exact hb
  case status =>
    intro s hs
    refine congrArg Host.Outcome.next ?_
    rw [State.spiStatusOnly, if_pos hs]
  case framing =>
    intro s hs
    refine congrArg Host.Outcome.next ?_
    rw [State.spiError, if_pos hs]
  case ack =>
    rintro s m w n rfl ho h1 h2 h3 hlost
    rw [exec_eventAck ho h1 h2 h3, State.dropEvents_none_lost hlost]
  case ackLost =>
    rintro s m w n rfl ho h1 h2 h3 hlost
    rw [exec_eventAck ho h1 h2 h3, State.dropEvents_some_lost hlost]
  case send =>
    intro s r rest hq hr hl
    exact congrArg Host.Outcome.next (State.eventSend_north hq hr hl)
  case presence =>
    rintro s m w rfl ho
    refine congrArg Host.Outcome.next (ho.run rfl (State.writeScalar_presenceClear _) ?_ ?_ ?_)
    · simpa using ho.attends.alone
    · simpa using ho.attends.nothing
    · simpa using ho.attends.booted

end Sys2Proof.Machine
end

section
/-! Packets received, and the statement of 03_catalogue.md on them (R75, R298, R299, R301, R308, R309, R311). -/
namespace Sys2Proof.Machine

/-! What noting a packet leaves alone -/

/-- A part that no port's record, no count of gaps and no event touches stands through the check of SEQ (R298). -/
theorem State.noteSeq_same {β : Type} {g : State → β} (hp : ∀ s p v, g (State.setPort s p v) = g s)
    (hc : ∀ s p n, g (State.addCount s Ix.LinkSeqGaps (p + 1) n) = g s) (hr : ∀ s c u d, g (State.raise s c u d) = g s) (s : State)
    (p seq : Nat) : g (s.noteSeq p seq) = g s := by
  unfold State.noteSeq
  extract_lets v gap noted counted w due
  have hnoted : g noted = g s := hp _ _ _
  have hcounted : g counted = g s := (hc _ _ _).trans hnoted
  split
  · exact hnoted
  · split
    · exact (hr _ _ _ _).trans ((hp _ _ _).trans hcounted)
    · exact (hp _ _ _).trans hcounted

@[simp] theorem State.noteSeq_epoch (s : State) (p seq : Nat) : (s.noteSeq p seq).epoch = s.epoch :=
  State.noteSeq_same (g := State.epoch) (fun _ _ _ => rfl) (by simp) (by simp) s p seq
@[simp] theorem State.noteSeq_pos (s : State) (p seq : Nat) : (s.noteSeq p seq).pos = s.pos :=
  State.noteSeq_same (g := State.pos) (fun _ _ _ => rfl) (by simp) (by simp) s p seq
@[simp] theorem State.noteSeq_host (s : State) (p seq : Nat) : (s.noteSeq p seq).host = s.host :=
  State.noteSeq_same (g := State.host) (fun _ _ _ => rfl) (by simp) (by simp) s p seq
@[simp] theorem State.noteSeq_reset (s : State) (p seq : Nat) : (s.noteSeq p seq).reset_ = s.reset_ :=
  State.noteSeq_same (g := State.reset_) (fun _ _ _ => rfl) (by simp) (by simp) s p seq

theorem ck_numerology_ne_linkSeqGaps (p : Nat) : ck Ix.Numerology 0 ≠ ck Ix.LinkSeqGaps (p + 1) := by
  simp only [ck, Ix.Numerology, Ix.LinkSeqGaps]
  omega

@[simp] theorem State.noteSeq_numerology (s : State) (p seq : Nat) : (s.noteSeq p seq).rd Ix.Numerology 0 = s.rd Ix.Numerology 0 :=
  State.noteSeq_same (g := fun s => s.rd Ix.Numerology 0) (fun _ _ _ => rfl)
    (fun _ p _ => State.rd_wr_ne (ck_numerology_ne_linkSeqGaps p)) (fun _ _ _ _ => State.rd_raiseAt (by decide) _ _ _ _ _) s p seq

theorem State.noteSeq_completeTag (s : State) (p seq etag : Nat) : (s.noteSeq p seq).completeTag etag = s.completeTag etag := by
  simp only [State.completeTag, State.noteSeq_epoch]

theorem State.noteSeq_tagOk (s : State) (p seq e : Nat) : (s.noteSeq p seq).tagOk e = s.tagOk e := by
  simp only [State.tagOk, State.noteSeq_numerology]

theorem State.owe_same {β : Type} {g : State → β} (hp : ∀ s p v, g (State.setPort s p v) = g s) (s : State) (p c n : Nat) :
    g (s.owe p c n) = g s := by
  unfold State.owe
  split
  · rfl
  · exact hp _ _ _

/-- Class 0 is not credited (R300, Table 13.3): no units are owed for its packets. -/
theorem State.owe_uncredited (s : State) (p n : Nat) : s.owe p 0 n = s := rfl

@[simp] theorem State.heard_pos (s : State) (h : PacketHead) (typ words : Nat) : (s.heard h typ words).pos = s.pos :=
  (State.owe_same (g := State.pos) (fun _ _ _ => rfl) _ _ _ _).trans (State.noteSeq_pos s h.port h.seq)
@[simp] theorem State.heard_host (s : State) (h : PacketHead) (typ words : Nat) : (s.heard h typ words).host = s.host :=
  (State.owe_same (g := State.host) (fun _ _ _ => rfl) _ _ _ _).trans (State.noteSeq_host s h.port h.seq)
@[simp] theorem State.heard_reset (s : State) (h : PacketHead) (typ words : Nat) : (s.heard h typ words).reset_ = s.reset_ :=
  (State.owe_same (g := State.reset_) (fun _ _ _ => rfl) _ _ _ _).trans (State.noteSeq_reset s h.port h.seq)

@[simp] theorem State.passOn_reset (s : State) (out : Nat) (k : OutPacket) : (s.passOn out k).reset_ = s.reset_ := by
  unfold State.passOn
  split <;> rfl

/-! Reception (R298 to R302) -/

theorem State.portActive_of_linkState {s : State} {p : Nat} (h : s.linkState p = 5) : s.portActive p = true := by
  rw [State.portActive, h]
  rfl

/-- A packet that a port takes is routed, in the state in which its SEQ is noted and its units are owed. -/
theorem State.Hears.headIn {s : State} {h : PacketHead} {typ : Nat} {l : List Byte} (hh : s.Hears h typ (ceilDiv l.length 4)) :
    s.headIn h typ l = (s.heard h typ (ceilDiv l.length 4)).route h.port (s.completeTag h.etag) (asSent h typ l) := by
  obtain ⟨hactive, hused, hfits, htag⟩ := hh
  have hok : ¬(usesTag typ && !s.tagOk (s.completeTag h.etag)) = true := by
    cases hu : usesTag typ
    · simp
    · simp [htag hu]
  simp only [State.headIn, State.packetIn, State.portActive_of_linkState hactive, State.noteSeq_completeTag, State.noteSeq_tagOk,
    Nat.not_le.2 hused, Nat.not_lt.2 hfits, hok, Bool.not_true, Bool.false_eq_true, if_false]
  rfl

/-- What the route of its port gives is what the packet gives. -/
theorem State.Hears.routed {s t : State} {h : PacketHead} {typ p : Nat} {l : List Byte} (hh : s.Hears h typ (ceilDiv l.length 4))
    (hp : h.port = p) (hr : (s.heard h typ (ceilDiv l.length 4)).route p (s.completeTag h.etag) (asSent h typ l) = t) :
    s.headIn h typ l = t := by
  rw [hh.headIn, hp, hr]

/-- A packet of a type without a meaning is counted (R298, R299). -/
theorem State.headIn_typeDrop {s : State} {h : PacketHead} {typ : Nat} {l : List Byte} (ha : s.linkState h.port = 5) (ht : 12 ≤ typ) :
    s.headIn h typ l = (s.noteSeq h.port h.seq).bump Ix.LinkTypeDrops (h.port + 1) := by
  simp only [State.headIn, State.packetIn, State.portActive_of_linkState ha, ht, Bool.not_true, Bool.false_eq_true, if_false, if_true]

/-- A packet above its class's limit is dropped (R301). -/
theorem State.headIn_lenDrop {s : State} {h : PacketHead} {typ : Nat} {l : List Byte} (ha : s.linkState h.port = 5) (ht : typ < 12)
    (hl : classLimit (packetClass typ) < ceilDiv l.length 4) :
    s.headIn h typ l = (s.noteSeq h.port h.seq).lenDrop h.port typ (ceilDiv l.length 4) := by
  simp only [State.headIn, State.packetIn, State.portActive_of_linkState ha, Nat.not_le.2 ht, hl, Bool.not_true, Bool.false_eq_true, if_false,
    if_true]

/-- A packet whose ETAG is used and names no epoch of the numerology is dropped (R298). -/
theorem State.headIn_tagDrop {s : State} {h : PacketHead} {typ : Nat} {l : List Byte} (ha : s.linkState h.port = 5) (ht : typ < 12)
    (hl : ceilDiv l.length 4 ≤ classLimit (packetClass typ)) (hu : usesTag typ = true) (hno : s.tagOk (s.completeTag h.etag) = false) :
    s.headIn h typ l = ((s.noteSeq h.port h.seq).bump Ix.LinkEtagDrops (h.port + 1)).owe h.port (packetClass typ)
      (packetUnits (ceilDiv l.length 4)) := by
  simp only [State.headIn, State.packetIn, State.portActive_of_linkState ha, State.noteSeq_completeTag, State.noteSeq_tagOk,
    Nat.not_le.2 ht, Nat.not_lt.2 hl, hu, hno, Bool.not_true, Bool.not_false, Bool.and_self, Bool.false_eq_true, if_false, if_true]

/-! Routes (R299) -/

/-- A request for this position is performed (R75). -/
theorem State.catReqIn_own {s : State} {k : OutPacket} (h : k.pos = s.pos) : s.catReqIn 0 k = s.take (parseRequest 0 k.payload) := by
  simp only [State.catReqIn, h, ne_eq, not_true_eq_false, if_false, if_true]

/-- A device that is not the head passes on a request for a position further south (R75). -/
theorem State.catReqIn_south {s : State} {k : OutPacket} (h0 : s.pos ≠ 0) (h : s.pos < k.pos) : s.catReqIn 0 k = s.passOn 1 k := by
  simp only [State.catReqIn, h0, h, h.ne', ne_eq, not_true_eq_false, if_false, if_true]

/-- A device that is not the head passes responses on north (R75). -/
theorem State.catRspIn_north {s : State} {k : OutPacket} (h0 : s.pos ≠ 0) : s.catRspIn 1 k = s.passOn 0 k := by
  simp only [State.catRspIn, h0, ne_eq, not_false_eq_true, Nat.reduceEqDiff, if_false, if_true]

/-- The head gives a response to the service port its request came on (R71, R75). -/
theorem State.catRspIn_head {s : State} {k : OutPacket} {f : Forwarded} {x : Response} (h0 : s.pos = 0) (hf : s.host.forwarded = [f])
    (hx : x = parseResponse 1 k.payload) (ht : f.request.tag = x.tag) (hp : f.request.pos = k.pos) (h1 : f.request.port = 1) :
    s.catRspIn 1 k = State.pump { s with host := { s.host with forwarded := [], responses := s.host.responses ++ [x] } } := by
  have hfind : s.host.forwarded.find? (fun f => f.request.tag == x.tag && f.request.pos == k.pos) = some f := by
    simp [hf, ht, hp]
  simp only [State.catRspIn, ← hx, hfind, h0, h1, hf, List.erase_cons_head, ne_eq, not_true_eq_false, Nat.reduceEqDiff, if_false, if_true]

/-- A MEM packet that is no request goes north (R299). -/
theorem State.memIn_response {s : State} {k : OutPacket} (h : 2 < fieldLE k.payload 3 1) (p : Nat) : s.memIn p k = s.northIn p k := by
  have hno : ¬(fieldLE k.payload 3 1 = 1 ∨ fieldLE k.payload 3 1 = 2) := by omega
  simp only [State.memIn, if_neg hno]

/-- Settles O42: a packet that is taken acts as the route of its port does (`State.Hears.routed`), requests and responses
by the lemmas named for them; the drops are `State.headIn_typeDrop`, `State.headIn_lenDrop` and `State.headIn_tagDrop`. -/
theorem packetsAreRoutedOrDropped : Obligations.PacketsAreRoutedOrDropped := by
  unfold Obligations.PacketsAreRoutedOrDropped
  refine ⟨?layerDl, ?layerUl, ?prach, ?gram, ?reqOwn, ?reqSouth, ?rspNorth, ?rspHead, ?event, ?capture, ?memResponse, ?typeDrop, ?lenDrop,
    ?tagDrop, ?misrouted⟩
  case layerDl =>
    intro s h l hh hp
    exact congrArg Host.Outcome.next (hh.routed hp rfl)
  case layerUl =>
    intro s h l hh hp
    exact congrArg Host.Outcome.next (hh.routed hp rfl)
  case prach =>
    intro s h l hh hp
    exact congrArg Host.Outcome.next (hh.routed hp rfl)
  case gram =>
    intro s h l hh
    exact congrArg Host.Outcome.next (hh.routed rfl rfl)
  case reqOwn =>
    intro s h l hh hp hpos
    have hroute := State.catReqIn_own (s := s.heard h 5 (ceilDiv l.length 4)) (k := asSent h 5 l) (by rw [State.heard_pos]; exact hpos)
    exact congrArg (fun t : State => Host.Outcome.next t.bootContinue) (hh.routed hp hroute)
  case reqSouth =>
    intro s h l hh hp h0 hpos hb
    have hroute := State.catReqIn_south (s := s.heard h 5 (ceilDiv l.length 4)) (k := asSent h 5 l) (by rwa [State.heard_pos])
      (by rw [State.heard_pos]; exact hpos)
    refine congrArg Host.Outcome.next ?_
    rw [hh.routed hp hroute, State.bootContinue_booted (by simpa using hb)]
  case rspNorth =>
    intro s h l hh hp h0
    exact congrArg Host.Outcome.next (hh.routed hp (State.catRspIn_north (by rwa [State.heard_pos])))
  case rspHead =>
    rintro s t h l f hh hp h0 hf ht hpos h1 rfl
    exact congrArg Host.Outcome.next
      (hh.routed hp (State.catRspIn_head (by rwa [State.heard_pos]) (by rwa [State.heard_host]) rfl ht hpos h1))
  case event =>
    intro s h l hh hp
    exact congrArg Host.Outcome.next (hh.routed hp rfl)
  case capture =>
    intro s h l hh hp
    exact congrArg Host.Outcome.next (hh.routed hp rfl)
  case memResponse =>
    intro s h l hh hp h2
    exact congrArg Host.Outcome.next (hh.routed hp (State.memIn_response h2 1))
  case typeDrop =>
    intro s h typ l ha ht
    exact congrArg Host.Outcome.next (State.headIn_typeDrop ha ht)
  case lenDrop =>
    intro s h l ha hl
    exact congrArg Host.Outcome.next (State.headIn_lenDrop ha (by decide) hl)
  case tagDrop =>
    intro s h l ha hl hno
    exact congrArg Host.Outcome.next ((State.headIn_tagDrop ha (by decide) hl rfl hno).trans (State.owe_uncredited _ _ _))
  case misrouted =>
    intro s h l hh hp
    exact congrArg Host.Outcome.next (hh.routed hp rfl)

end Sys2Proof.Machine
end

section
/-! Synthesisers, borrowed LOs and offset loops at their limit, and the statement of 04_radio_paths.md on them (R89 to R92). -/
namespace Sys2Proof.Machine

/-! Relocks (R90, R91) -/

/-- A locked detector that reports loss starts a counted relock (R91). -/
theorem State.synUnlock_locked {s : State} {c : Nat} (hl : s.rd Ix.SynState (c + 1) = 3) (hd : (s.course c).detected = true) :
    s.synUnlock c = ((s.bump Ix.SynRelockCount (c + 1)).raise 0x2001 (c + 1) (packData [f8 c])).startRelock c 0 := by
  rw [State.synUnlock, if_pos ⟨hl, hd⟩]

/-- A relock under way, in band calibration or in phase lock, ends with lock (R90). -/
theorem State.synLock_relocking {s : State} {c : Nat} (h : s.rd Ix.SynState (c + 1) = 1 ∨ s.rd Ix.SynState (c + 1) = 2) :
    s.synLock c = (s.wr Ix.SynState (c + 1) 3).setCourse c { s.course c with relockAt := none, attempts := 0, detected := true } := by
  rw [State.synLock]
  exact if_pos h

/-- Of the first two attempts that fail, each is followed by a new one (R91). -/
theorem State.relockFail_again {s : State} {c t : Nat} (hr : (s.course c).relockAt = some t) (ht : t + usec 120 ≤ s.now)
    (ha : (s.course c).attempts < 2) :
    s.relockFail c = (s.wr Ix.SynState (c + 1) 1).setCourse c
      { s.course c with relockAt := some s.now, attempts := (s.course c).attempts + 1 } := by
  have hmore : (s.course c).attempts + 1 < 3 := by omega
  simp only [State.relockFail, hr, State.elapsed_of_le ht, hmore, Bool.not_true, Bool.false_eq_true, if_false, if_true, State.wr_now]

/-- The third attempt in a row that fails marks the synthesiser failed (R91). -/
theorem State.relockFail_third {s : State} {c t : Nat} (hr : (s.course c).relockAt = some t) (ht : t + usec 120 ≤ s.now)
    (ha : 2 ≤ (s.course c).attempts) :
    s.relockFail c = (((s.wr Ix.SynState (c + 1) 4).setCourse c { s.course c with relockAt := none, attempts := 3 }).raise 0x2002 (c + 1)
      (packData [f8 c, fCount 3])).synFailed c := by
  have hlast : ¬ (s.course c).attempts + 1 < 3 := by omega
  simp only [State.relockFail, hr, State.elapsed_of_le ht, hlast, Bool.not_true, Bool.false_eq_true, if_false]

/-! Borrowed LOs (R92) -/

theorem State.slotBegins_at_tick {s : State} (he : epSym s.epoch = 0) (hn : s.now = s.tb.tickAt) :
    (isSlotStart s.epoch && s.now == s.tb.tickAt) = true := by
  simp [isSlotStart, he, hn]

/-- At a slot boundary a course takes the LO of a partner that still qualifies, and recalibrates (R92 steps 1 and 2). -/
theorem State.loBorrowSwitch_takes {s : State} {c b : Nat} (hb : (s.course c).borrowFrom = some b) (he : epSym s.epoch = 0)
    (hn : s.now = s.tb.tickAt) (hp : s.borrowPartner c = some b) :
    s.loBorrowSwitch c = (s.wr Ix.LoSource (c + 1) b).setCourse c { s.course c with borrowFrom := none, recal := true } := by
  simp only [State.loBorrowSwitch, hb, State.slotBegins_at_tick he hn, hp, Bool.not_true, Bool.false_eq_true, if_false, if_true]
  rfl

/-- Recalibration ends: the measured offsets are added to those of the course's paths (R92 step 3). -/
def State.recalibrated (s : State) (c : Nat) (offsets : List Int) : State :=
  (coursePaths c).zipIdx.foldl (fun s q => s.setPath q.1 { s.path q.1 with loOffset := (s.path q.1).loOffset + offsets.getD q.2 0 })
    (s.setCourse c { s.course c with recal := false })

@[simp] theorem State.course_setCourse_same (s : State) (c : Nat) (v : CourseSys) : (s.setCourse c v).course c = v :=
  tget_tins_same _ _ _ _

/-- A part that the paths' records do not touch is as the course's return to service leaves it. -/
theorem State.recalibrated_same {β : Type} {g : State → β} (hp : ∀ s p v, g (State.setPath s p v) = g s) (s : State) (c : Nat)
    (offsets : List Int) : g (s.recalibrated c offsets) = g (s.setCourse c { s.course c with recal := false }) :=
  foldl_same (fun _ _ => hp _ _ _) _ _

theorem State.rd_recalibrated (s : State) (c : Nat) (offsets : List Int) (i u : Nat) : (s.recalibrated c offsets).rd i u = s.rd i u :=
  State.recalibrated_same (g := fun t => t.rd i u) (fun _ _ _ => rfl) s c offsets

theorem State.recalibrated_recal (s : State) (c : Nat) (offsets : List Int) : ((s.recalibrated c offsets).course c).recal = false := by
  rw [State.recalibrated_same (g := fun t => t.course c) (fun _ _ _ => rfl), State.course_setCourse_same]

/-- An event leaves the courses alone. -/
@[simp] theorem State.raise_course (s : State) (code sub data c : Nat) : (s.raise code sub data).course c = s.course c := by
  simp [State.course]

/-- At the next slot boundary the course returns to service, and the borrowing is reported; with no canceller set in force none is stale
for it (R92 step 3, R197). -/
theorem State.loBorrow_returns {s : State} {c : Nat} (hr : (s.course c).recal = true) (he : epSym s.epoch = 0) (hn : s.now = s.tb.tickAt)
    (h1 : s.rd Ix.CancelSetState 1 ≠ 2) (h2 : s.rd Ix.CancelSetState 2 ≠ 2) (offsets : List Int) :
    s.loBorrow c offsets
      = (s.recalibrated c offsets).raise 0x2003 (c + 1) (packData [f8 c, f8 ((s.recalibrated c offsets).loSource c)]) := by
  have hready : ((s.course c).recal && isSlotStart s.epoch && s.now == s.tb.tickAt) = true := by
    rw [Bool.and_assoc, hr, State.slotBegins_at_tick he hn, Bool.true_and]
  have hstale : ∀ code sub data, ¬(((s.recalibrated c offsets).raise code sub data).rd Ix.CancelSetState 1 = 2
      ∨ ((s.recalibrated c offsets).raise code sub data).rd Ix.CancelSetState 2 = 2) := by
    intro code sub data
    simp only [State.raise, State.rd_raiseAt (i := Ix.CancelSetState) (u := 1) (by decide),
      State.rd_raiseAt (i := Ix.CancelSetState) (u := 2) (by decide), State.rd_recalibrated]
    exact not_or.2 ⟨h1, h2⟩
  rw [State.loBorrow, if_pos hready]
  exact if_neg (hstale _ _ _)

/-! Offsets at their limit (R89) -/

theorem State.dcRange_stood {s : State} {p t : Nat} (hd : (s.path p).dcLimitSince = some t) (ht : t + msec 1000 ≤ s.now) (code : Nat) :
    s.dcRange p code = (s.setPath p { s.path p with dcLimitSince := some s.now }).raise 0x2007 (p + 1) (packData [f8 p, f8 code]) := by
  simp only [State.dcRange, hd, State.elapsed_of_le ht, if_true]

/-- Settles O18, command by command: what each does where its condition holds is the lemma named for it. That the second of a fine offset
estimate begins again once it is reported is the model's choice: R89 does not say so. -/
theorem synthesisersAndOffsetsAreFollowed : Obligations.SynthesisersAndOffsetsAreFollowed := by
  unfold Obligations.SynthesisersAndOffsetsAreFollowed
  refine ⟨?unlock, ?lock, ?again, ?third, ?switch, ?borrow, ?range⟩
  case unlock =>
    intro s c hl hd
    exact congrArg Host.Outcome.next (State.synUnlock_locked hl hd)
  case lock =>
    intro s c h
    exact congrArg Host.Outcome.next (State.synLock_relocking h)
  case again =>
    intro s c t hr ht ha
    exact congrArg Host.Outcome.next (State.relockFail_again hr ht ha)
  case third =>
    intro s c t hr ht ha
    exact congrArg Host.Outcome.next (State.relockFail_third hr ht ha)
  case switch =>
    intro s c b hb he hn hp
    exact congrArg Host.Outcome.next (State.loBorrowSwitch_takes hb he hn hp)
  case borrow =>
    rintro s t c offsets hr he hn h1 h2 rfl
    refine ⟨_, congrArg Host.Outcome.next (State.loBorrow_returns hr he hn h1 h2 offsets), rfl, ?_⟩
    rw [State.raise_course, State.recalibrated_recal]
  case range =>
    intro s p code t hd ht
    exact congrArg Host.Outcome.next (State.dcRange_stood hd ht code)

end Sys2Proof.Machine
end

section
/-! What the codes of a device's own writes leave alone of the Linearisers' records. -/
namespace Sys2Proof.Machine

@[simp] theorem State.storePoison_lin (s : State) (a : Nat) : (s.storePoison a).lin = s.lin := rfl

@[simp] theorem State.logEcc_lin (s : State) (addr region syndrome kind : Nat) : (s.logEcc addr region syndrome kind).lin = s.lin := by
  unfold State.logEcc
  split
  · rfl
  · dsimp only
    split
    · rfl
    · split
      · rfl
      · exact State.bump_lin s _ _

@[simp] theorem State.reportCorrected_lin (s : State) (region : Nat) : (s.reportCorrected region).lin = s.lin := by
  unfold State.reportCorrected
  exact ite_ind (P := fun t : State => t.lin = s.lin) rfl (State.raise_lin _ _ _ _)

@[simp] theorem State.countCorrected_lin (s : State) (addr region syndrome kind : Nat) :
    (s.countCorrected addr region syndrome kind).lin = s.lin := by simp [State.countCorrected]

@[simp] theorem State.countUncorrectable_lin (s : State) (addr region syndrome : Nat) :
    (s.countUncorrectable addr region syndrome).lin = s.lin := by simp [State.countUncorrectable]

@[simp] theorem State.meetUpset_lin (s : State) (a : Nat) : (s.meetUpset a).lin = s.lin := by
  unfold State.meetUpset
  split
  · split
    · simp
    · split <;> simp
  · rfl

@[simp] theorem State.ownBytes_lin (s : State) (a : Nat) (l : List Byte) : (s.ownBytes a l).lin = s.lin := by
  simp only [State.ownBytes, State.storeBytes_lin]
  exact foldl_same (g := State.lin) (fun t u => ite_ind (P := fun v : State => v.lin = t.lin) rfl (State.meetUpset_lin t _)) _ s

end Sys2Proof.Machine
end

section
/-! Observation steps and updates of the Linearisers, and the statement of 04_radio_paths.md on them (R115, R116, R173 to R175, R178 to R180). -/
namespace Sys2Proof.Machine

/-! Records of the Linearisers -/

@[simp] theorem State.obs_setObs_same (s : State) (r : Nat) (v : ObsSys) : (s.setObs r v).obs r = v := tget_tins_same _ _ _ _
@[simp] theorem State.linPath_setLinPath_same (s : State) (p : Nat) (v : LinPath) : (s.setLinPath p v).linPath p = v := tget_tins_same _ _ _ _
@[simp] theorem State.fbsel_setFbsel_same (s : State) (tile code : Nat) : tget 0 tile (s.setFbsel tile code).lin.fbsel = code :=
  tget_tput_same _ _ _ _

theorem State.obs_of_lin {s t : State} (h : t.lin = s.lin) (r : Nat) : t.obs r = s.obs r := by rw [State.obs, State.obs, h]
theorem State.linPath_of_lin {s t : State} (h : t.lin = s.lin) (p : Nat) : t.linPath p = s.linPath p := by
  rw [State.linPath, State.linPath, h]

/-! OBSERVATION_STEP (R115, R173, R174) -/

/-- A step of receiver r begins on a path: the lease is taken, and FBSEL shows the forward port (R115, R174). -/
def State.stepBegun (s : State) (r p : Nat) : State :=
  ((s.takeLease (0x400 + r) (s.functionOwner 3) none none).setFbsel (tileOf p) (p % 4)).setObs r { s.obs r with step := some ⟨p, none⟩ }

@[simp] theorem State.stepBegun_obs (s : State) (r p : Nat) : (s.stepBegun r p).obs r = { s.obs r with step := some ⟨p, none⟩ } :=
  State.obs_setObs_same _ _ _

@[simp] theorem State.stepBegun_fbsel (s : State) (r p : Nat) : tget 0 (tileOf p) (s.stepBegun r p).lin.fbsel = p % 4 :=
  State.fbsel_setFbsel_same _ _ _

/-- A step that falls due while none is under way begins on its path, where that can be observed and the receiver is free. -/
theorem State.observationStep_begins {s t : State} {r k p : Nat} (hm : 3 ≤ s.mode) (hc : (s.obs r).cycleAt ≤ s.now)
    (hk : k = (s.now - (s.obs r).cycleAt) / usec (s.rd Ix.LinStepInterval (r + 1))) (hs : (s.obs r).steps ≤ k)
    (hnone : (s.obs r).step = none) (ht : t = s.countStep r (k + 1)) (hp : s.stepPath r k = some p) (hp' : t.stepPath r k = some p)
    (hi : s.stepIdle (courseOf p) = false) (ho : t.observable p = true) (hl : t.leased (0x400 + r) = false) :
    s.observationStep r true = t.stepBegun r p := by
  have hdue : ¬(s.mode < 3 ∨ s.now < (s.obs r).cycleAt ∨ k < (s.obs r).steps) := by omega
  simp only [State.observationStep, ← hk, if_neg hdue, hp, Option.getD_some, hi, hnone, ← ht, hp', ho, hl, Bool.true_eq_false,
    Bool.false_eq_true, and_false, Bool.not_true, Bool.or_false, if_false]
  rfl

/-! FORWARD_CAPTURE_DONE (R115, R174, R175) -/

/-- A forward capture stands in its buffer, header and samples (R175). -/
def State.captureStored (s : State) (r p : Nat) (d : Int) (samples : List Byte) : State :=
  let base := s.rd Ix.LinCaptureBase 0 + courseOf p * 0x200000 + (s.obs r).buffer * 0x100000
  (s.ownBytes base (s.captureHeader p d)).ownBytes (base + 4096) samples

/-- The capture waits for its solve, the buffers alternate, and FBSEL shows the reflected port (R115, R174). -/
def State.forwardTaken (s : State) (r p : Nat) (pFbin d : Int) : State :=
  ((s.setLinPath p { s.linPath p with capture := some ⟨courseOf p, (s.obs r).buffer, (s.linPath p).seq, false⟩ }).setObs r
    { s.obs r with step := some ⟨p, some (pFbin, d)⟩, buffer := 1 - (s.obs r).buffer }).setFbsel (tileOf p) (4 + p % 4)

@[simp] theorem State.captureStored_lin (s : State) (r p : Nat) (d : Int) (samples : List Byte) :
    (s.captureStored r p d samples).lin = s.lin := by simp [State.captureStored]

@[simp] theorem State.detectFault_lin (s : State) (p reason : Nat) : (s.detectFault p reason).lin = s.lin :=
  ite_ind (P := fun t : State => t.lin = s.lin) rfl rfl

@[simp] theorem State.judgePower_lin (s : State) (p : Nat) (pMeas : Int) : (s.judgePower p pMeas).lin = s.lin :=
  ite_ind (P := fun t : State => t.lin = s.lin) rfl (ite_ind (P := fun t : State => t.lin = s.lin) (State.detectFault_lin _ _ _) rfl)

@[simp] theorem State.powerLoop_lin (s : State) (p : Nat) (pMeas : Int) : (s.powerLoop p pMeas).lin = s.lin :=
  ite_ind (P := fun t : State => t.lin = s.lin) rfl rfl

/-- A usable forward capture is stored and taken; power control follows unless the path is frozen (R174, R184). -/
theorem State.forwardDone_takes {s t : State} {r p : Nat} {pFbin d : Int} {samples : List Byte} (hs : (s.obs r).step = some ⟨p, none⟩)
    (hd : -2500 ≤ d) (hc : s.capturesDiscarded p = false) (ht : t = (s.captureStored r p d samples).forwardTaken r p pFbin d) :
    s.forwardDone r pFbin d false samples = if t.rdBit Ix.LinStatus (p + 1) 3 then t
      else (t.judgePower p (pFbin + t.rdI 16 Ix.FbFwdOffset (p + 1) - d)).powerLoop p (pFbin + t.rdI 16 Ix.FbFwdOffset (p + 1) - d) := by
  have hgood : decide (d < -2500) = false := decide_eq_false (not_lt.2 hd)
  have hbuffer : ((s.captureStored r p d samples).obs r).buffer = (s.obs r).buffer := by
    rw [State.obs_of_lin (State.captureStored_lin s r p d samples)]
  rw [ht, State.forwardTaken, hbuffer]
  simp only [State.forwardDone, hs, hgood, hc, Option.isSome_none, Bool.or_false, Bool.false_eq_true, if_false]
  rfl

/-- Power control leaves the Linearisers alone. -/
theorem State.forwardDone_lin {s : State} {r p : Nat} {d : Int} (hs : (s.obs r).step = some ⟨p, none⟩) (hd : -2500 ≤ d)
    (hc : s.capturesDiscarded p = false) (pFbin : Int) (samples : List Byte) :
    (s.forwardDone r pFbin d false samples).lin = ((s.captureStored r p d samples).forwardTaken r p pFbin d).lin := by
  rw [State.forwardDone_takes hs hd hc rfl]
  exact ite_ind (P := fun t : State => t.lin = _) rfl ((State.powerLoop_lin _ _ _).trans (State.judgePower_lin _ _ _))

@[simp] theorem State.forwardTaken_obs (s : State) (r p : Nat) (pFbin d : Int) :
    (s.forwardTaken r p pFbin d).obs r = { s.obs r with step := some ⟨p, some (pFbin, d)⟩, buffer := 1 - (s.obs r).buffer } :=
  State.obs_setObs_same _ _ _

@[simp] theorem State.forwardTaken_fbsel (s : State) (r p : Nat) (pFbin d : Int) :
    tget 0 (tileOf p) (s.forwardTaken r p pFbin d).lin.fbsel = 4 + p % 4 :=
  State.fbsel_setFbsel_same _ _ _

@[simp] theorem State.forwardTaken_linPath (s : State) (r p : Nat) (pFbin d : Int) : (s.forwardTaken r p pFbin d).linPath p
    = { s.linPath p with capture := some ⟨courseOf p, (s.obs r).buffer, (s.linPath p).seq, false⟩ } :=
  State.linPath_setLinPath_same _ _ _

/-! REFLECTED_CAPTURE_DONE (R116, R174) -/

/-- A reflected capture below −25 dB forms no return loss; the step ends (R116, R174). -/
theorem State.reflectedDone_weak {s : State} {r p : Nat} {pFwd dFwd d : Int} (hs : (s.obs r).step = some ⟨p, some (pFwd, dFwd)⟩)
    (hd : d < -2500) (pRef : Int) :
    s.reflectedDone r pRef d = ((s.setObs r { s.obs r with step := none }).setFbsel (tileOf p) 0).freeLease (0x400 + r) := by
  simp only [State.reflectedDone, hs, hd, true_or, if_true, State.endStep]

/-! LIN_UPDATE_READY (R176 to R181) -/

theorem State.linReady_spoiled {s : State} {p : Nat} {cap : LinCapture} (hc : (s.linPath p).capture = some cap) (hs : cap.spoiled = true)
    (nmse aclr : Int) (cands : List (Tab Cplx)) (coefs : List Byte) :
    s.linReady p nmse aclr cands coefs
      = (s.setLinPath p { s.linPath p with capture := none }).bump Ix.LinUpdatesDiscarded (p + 1) := by
  simp only [State.linReady, hc, hs, if_true, State.linDiscard]

/-- A capture is used: its figures are shown and judged by the alarm (R176, R181). -/
def State.figured (s : State) (p : Nat) (nmse aclr : Int) : State :=
  (((s.setLinPath p { s.linPath p with capture := none }).wrI 16 Ix.LinNmse (p + 1) nmse).wrI 16 Ix.LinAclr (p + 1) aclr).linQuality p nmse

/-- A part that neither the paths' records nor an event touches stands through the alarm (R181). -/
theorem State.linQuality_same {β : Type} {g : State → β} (hp : ∀ s p v, g (State.setLinPath s p v) = g s)
    (he : ∀ s code sub data, g (State.raise s code sub data) = g s) (s : State) (p : Nat) (nmse : Int) : g (s.linQuality p nmse) = g s := by
  unfold State.linQuality
  exact ite_ind (P := fun t : State => g t = g s) (hp _ _ _)
    (ite_ind (P := fun t : State => g t = g s) ((he _ _ _ _).trans (hp _ _ _)) (hp _ _ _))

/-- A part that the two figures do not touch either stands through the use of a capture. -/
theorem State.figured_same {β : Type} {g : State → β} (hp : ∀ s p v, g (State.setLinPath s p v) = g s)
    (he : ∀ s code sub data, g (State.raise s code sub data) = g s) {p : Nat} (hn : ∀ s v, g (State.wr s Ix.LinNmse (p + 1) v) = g s)
    (ha : ∀ s v, g (State.wr s Ix.LinAclr (p + 1) v) = g s) (s : State) (nmse aclr : Int) : g (s.figured p nmse aclr) = g s := by
  rw [State.figured, State.linQuality_same hp he, State.wrI, ha, State.wrI, hn, hp]

@[simp] theorem State.figured_now (s : State) (p : Nat) (nmse aclr : Int) : (s.figured p nmse aclr).now = s.now :=
  State.figured_same (g := State.now) (fun _ _ _ => rfl) State.raise_now (fun _ _ => rfl) (fun _ _ => rfl) s nmse aclr
@[simp] theorem State.figured_epoch (s : State) (p : Nat) (nmse aclr : Int) : (s.figured p nmse aclr).epoch = s.epoch :=
  State.figured_same (g := State.epoch) (fun _ _ _ => rfl) State.raise_epoch (fun _ _ => rfl) (fun _ _ => rfl) s nmse aclr
@[simp] theorem State.figured_tb (s : State) (p : Nat) (nmse aclr : Int) : (s.figured p nmse aclr).tb = s.tb :=
  State.figured_same (g := State.tb) (fun _ _ _ => rfl) State.raise_tb (fun _ _ => rfl) (fun _ _ => rfl) s nmse aclr
@[simp] theorem State.figured_host (s : State) (p : Nat) (nmse aclr : Int) : (s.figured p nmse aclr).host = s.host :=
  State.figured_same (g := State.host) (fun _ _ _ => rfl) State.raise_host (fun _ _ => rfl) (fun _ _ => rfl) s nmse aclr
@[simp] theorem State.figured_tables (s : State) (p : Nat) (nmse aclr : Int) : (s.figured p nmse aclr).lin.tables = s.lin.tables :=
  State.figured_same (g := fun t => t.lin.tables) (fun _ _ _ => rfl) (fun _ _ _ _ => by simp) (fun _ _ => rfl) (fun _ _ => rfl) s nmse aclr

theorem State.rd_raise {s : State} {i u : Nat} (h : ck i u ∉ eventCounters) (code sub data : Nat) : (s.raise code sub data).rd i u = s.rd i u :=
  State.rd_raiseAt h _ _ _ _ _

/-- An entry of the Catalogue that is none of the counters of events. -/
theorem ck_notMem_eventCounters {i u : Nat} (hu : u < 256) (h : i ≠ Ix.EventsLost ∧ i ≠ Ix.FaultLogOverwrites) : ck i u ∉ eventCounters := by
  simp only [eventCounters, List.mem_cons, List.not_mem_nil, or_false, not_or]
  exact ⟨ck_ne_index hu (by decide) h.1, ck_ne_index hu (by decide) h.2⟩

/-- The entries that the use of a capture leaves alone. -/
theorem State.rd_figured {s : State} {p i u : Nat} (hp : p < 64) (hu : u < 256)
    (hi : i ∉ [Ix.LinNmse, Ix.LinAclr, Ix.EventsLost, Ix.FaultLogOverwrites]) (nmse aclr : Int) :
    (s.figured p nmse aclr).rd i u = s.rd i u := by
  simp only [List.mem_cons, List.not_mem_nil, or_false, not_or] at hi
  obtain ⟨hn, ha, hevent⟩ := hi
  have hp' : p + 1 < 256 := by omega
  exact State.figured_same (g := fun t => t.rd i u) (fun _ _ _ => rfl) (fun _ => State.rd_raise (ck_notMem_eventCounters hu hevent))
    (fun _ _ => State.rd_wr_ne (ck_ne_index hu hp' hn)) (fun _ _ => State.rd_wr_ne (ck_ne_index hu hp' ha)) s nmse aclr

theorem State.rd_linQuality {s : State} {i u : Nat} (h : ck i u ∉ eventCounters) (p : Nat) (nmse : Int) :
    (s.linQuality p nmse).rd i u = s.rd i u :=
  State.linQuality_same (g := fun t => t.rd i u) (fun _ _ _ => rfl) (fun _ => State.rd_raise h) s p nmse

theorem State.figured_nmse (s : State) {p : Nat} (hp : p < 64) (nmse aclr : Int) :
    (s.figured p nmse aclr).rd Ix.LinNmse (p + 1) = ofInt 16 nmse := by
  have hp' : p + 1 < 256 := by omega
  rw [State.figured, State.rd_linQuality (ck_notMem_eventCounters hp' (by decide)), State.wrI,
    State.rd_wr_ne (ck_ne_index hp' hp' (by decide)), State.wrI, State.rd_wr_same]

theorem State.figured_aclr (s : State) {p : Nat} (hp : p < 64) (nmse aclr : Int) :
    (s.figured p nmse aclr).rd Ix.LinAclr (p + 1) = ofInt 16 aclr := by
  have hp' : p + 1 < 256 := by omega
  rw [State.figured, State.rd_linQuality (ck_notMem_eventCounters hp' (by decide)), State.wrI, State.rd_wr_same]

/-- The corridor rests on the tables in force and the path's limits (R177, R178). -/
theorem State.linCorridor_congr {s t : State} {p : Nat} (htab : t.lin.tables = s.lin.tables) (hw : t.rd Ix.LinStructure 0 = s.rd Ix.LinStructure 0)
    (hlim : ∀ i ∈ [Ix.LinGainMin, Ix.LinGainMax, Ix.LinGainStep, Ix.LinPhaseStep], t.rd i (p + 1) = s.rd i (p + 1)) (cand : Tab Cplx) :
    t.linCorridor p cand = s.linCorridor p cand := by
  simp only [List.forall_mem_cons] at hlim
  obtain ⟨hmin, hmax, hgain, hphase, -⟩ := hlim
  have hentry : t.linEntry p = s.linEntry p := by
    funext tau i
    rw [State.linEntry, State.linEntry, htab]
  unfold State.linCorridor State.rdI
  rw [hentry, hw, hmin, hmax, hgain, hphase]

theorem State.figured_linCorridor (s : State) {p : Nat} (hp : p < 64) (nmse aclr : Int) (cand : Tab Cplx) :
    (s.figured p nmse aclr).linCorridor p cand = s.linCorridor p cand := by
  refine State.linCorridor_congr (by simp) (State.rd_figured hp (by decide) (by decide) nmse aclr) (fun i hi => ?_) cand
  have hi' : i ∉ [Ix.LinNmse, Ix.LinAclr, Ix.EventsLost, Ix.FaultLogOverwrites] := by
    revert i
    decide
  exact State.rd_figured hp (by omega) hi' nmse aclr

theorem State.addEpochs_congr {s t : State} (hh : t.host = s.host) (hr : t.rd Ix.Numerology 0 = s.rd Ix.Numerology 0) (n e : Nat) :
    t.addEpochs n e = s.addEpochs n e := by
  induction n generalizing e with
  | zero => rfl
  | succ n ih => rw [State.addEpochs, State.addEpochs, State.nextEpoch_congr hh hr, ih]

/-- The slot of an update rests on the clock, the time base, and the numerology of the epochs to come (R179). -/
theorem State.slotTwoEpochsOn_congr {s t : State} (hnow : t.now = s.now) (he : t.epoch = s.epoch) (htb : t.tb = s.tb)
    (hh : t.host = s.host) (hr : t.rd Ix.Numerology 0 = s.rd Ix.Numerology 0) : t.slotTwoEpochsOn = s.slotTwoEpochsOn := by
  simp only [State.slotTwoEpochsOn, State.slotStartFrom, hnow, he, htb, State.addEpochs_congr hh hr, State.nextEpoch_congr hh hr]

theorem State.figured_slotTwoEpochsOn (s : State) {p : Nat} (hp : p < 64) (nmse aclr : Int) :
    (s.figured p nmse aclr).slotTwoEpochsOn = s.slotTwoEpochsOn :=
  State.slotTwoEpochsOn_congr (by simp) (by simp) (by simp) (by simp) (State.rd_figured hp (by decide) (by decide) nmse aclr)

/-- A path adapts: its mode asks for it, and nothing holds or freezes it (R176, R180, R184, R185). -/
structure State.Adapts (s : State) (p : Nat) : Prop where
  asked : s.rd Ix.LinMode (p + 1) = 2
  clear : s.rd Ix.LinStatus (p + 1) = 0
  mode : s.mode ≠ 7
  sound : s.rd Ix.PathFault (p + 1) = 0

theorem State.Adapts.figured {s : State} {p : Nat} (h : s.Adapts p) (hp : p < 64) (nmse aclr : Int) : (s.figured p nmse aclr).Adapts p := by
  have hp' : p + 1 < 256 := by omega
  constructor
  · rw [State.rd_figured hp hp' (by decide), h.asked]
  · rw [State.rd_figured hp hp' (by decide), h.clear]
  · rw [State.mode, State.rd_figured hp (by decide) (by decide)]
    exact h.mode
  · rw [State.rd_figured hp hp' (by decide), h.sound]

/-- On a path that adapts, with no update on trial, the first candidate is on its way into force where it meets the corridor (R178, R179). -/
theorem State.linReady_commits {s t : State} {p : Nat} {nmse aclr : Int} {cand : Tab Cplx} {cap : LinCapture}
    (hc : (s.linPath p).capture = some cap) (hs : cap.spoiled = false) (hb : (s.linPath p).nmseBefore = none)
    (ht : t = s.figured p nmse aclr) (ha : t.Adapts p) (hk : t.linCorridor p cand = 0) (coefs : List Byte) :
    s.linReady p nmse aclr [cand] coefs
      = t.setLinPath p { t.linPath p with due := some ⟨t.slotTwoEpochsOn, cand, cap.seq, 0, nmse, false, coefs⟩ } := by
  obtain ⟨hasked, hclear, hmode, hsound⟩ := ha
  simp only [State.figured, hb] at ht
  simp only [State.linReady, hc, hs, hb, ← ht, Bool.false_eq_true, if_false]
  simp [State.rdBit, bitAt, hasked, hclear, hmode, hsound, hk, State.linTarget]

/-! LIN_RESUME (R180) -/

/-- HOLD of one path is cleared, and its reverts are counted afresh (R180). -/
theorem State.writeScalar_linResume (m : State) {p : Nat} (hp : p < 64) :
    m.writeScalar Ix.LinResume 0 p = .ok ((m.wrBit Ix.LinStatus (p + 1) 4 false).setLinPath p
      { (m.wrBit Ix.LinStatus (p + 1) 4 false).linPath p with reverts := 0 }) := by
  have hone : ¬(64 ≤ p ∧ p ≠ 0xFF) := by omega
  have hall : p ≠ 0xFF := by omega
  simp only [State.writeScalar, State.scalarAct, Ix.LinResume, Option.getD_some, State.linResume, if_neg hone, if_neg hall,
    List.foldl_cons, List.foldl_nil]
  rfl

/-- Settles O20, command by command: what each does where its condition holds is the lemma named for it. The slot of an update leaves two whole
epochs between, as log entry 15 reads R179; what the solve found is an operand (log entry 21). -/
theorem observationAndLinearisersRun : Obligations.ObservationAndLinearisersRun := by
  unfold Obligations.ObservationAndLinearisersRun
  refine ⟨?step, ?forward, ?reflected, ?spoiled, ?update, ?resume⟩
  case step =>
    intro s t r k p hm hc hk hs hnone ht hp hp' hi ho hl
    refine ⟨_, congrArg Host.Outcome.next (State.observationStep_begins hm hc hk hs hnone ht hp hp' hi ho hl), ?_, ?_, ?_, rfl⟩
    · rw [State.stepBegun_obs]
    · rw [State.stepBegun_obs, ht, State.obs_setObs_same]
    · exact State.stepBegun_fbsel t r p
  case forward =>
    intro s r p pFbin d samples hs hd hc _
    have hlin := State.forwardDone_lin hs hd hc pFbin samples
    have hobs := State.obs_of_lin (State.captureStored_lin s r p d samples) r
    have hpath := State.linPath_of_lin (State.captureStored_lin s r p d samples) p
    refine ⟨_, rfl, ?_, ?_, ?_, ?_⟩
    · rw [State.obs_of_lin hlin, State.forwardTaken_obs]
    · rw [State.obs_of_lin hlin, State.forwardTaken_obs, hobs]
    · rw [hlin, State.forwardTaken_fbsel]
    · rw [State.linPath_of_lin hlin, State.forwardTaken_linPath, hobs, hpath]
  case reflected =>
    intro s r p pFwd dFwd pRef d hs hd
    exact congrArg Host.Outcome.next (State.reflectedDone_weak hs hd pRef)
  case spoiled =>
    intro s p nmse aclr cands coefs cap hc hs
    exact congrArg Host.Outcome.next (State.linReady_spoiled hc hs nmse aclr cands coefs)
  case update =>
    intro s p nmse aclr cand coefs cap hc hs hasked hclear hmode hsound hp hb hk
    have hadapts : (s.figured p nmse aclr).Adapts p := State.Adapts.figured ⟨hasked, hclear, hmode, hsound⟩ hp nmse aclr
    have hcorridor := (s.figured_linCorridor hp nmse aclr cand).trans hk
    refine ⟨_, congrArg Host.Outcome.next (State.linReady_commits hc hs hb rfl hadapts hcorridor coefs), ?_, ?_, ?_, ?_⟩
    · rw [State.linPath_setLinPath_same, State.figured_slotTwoEpochsOn s hp]
    · exact s.figured_tables p nmse aclr
    · exact s.figured_nmse hp nmse aclr
    · exact s.figured_aclr hp nmse aclr
  case resume =>
    rintro s m w p rfl ho hp
    exact congrArg Host.Outcome.next (ho.runSame rfl (State.writeScalar_linResume _ hp) rfl rfl)

end Sys2Proof.Machine
end

section
/-! Folio slots, and the statement of 05_beamforming.md on their sealing (R136). -/
namespace Sys2Proof.Machine

theorem isSlot_of_lt {slot : Nat} (h : slot < 4) : isSlot slot = true := by simp [isSlot, h]

/-! What a seal leaves alone -/

/-- A value that is shown steps its change count, and no request (R56). -/
@[simp] theorem State.setDom_stalled (s : State) (index sub : Nat) (v : List Byte) : (s.setDom index sub v).host.stalled = s.host.stalled :=
  ite_ind (P := fun t : State => t.host.stalled = s.host.stalled) rfl rfl

@[simp] theorem State.setDom_performing (s : State) (index sub : Nat) (v : List Byte) :
    (s.setDom index sub v).host.performing = s.host.performing :=
  ite_ind (P := fun t : State => t.host.performing = s.host.performing) rfl rfl

/-- A part that no upset met, no element of the Catalogue, no value shown and no event touches stands through a seal. -/
theorem State.sealFolio_same {β : Type} {g : State → β} (hm : ∀ s a, g (State.meetUpset s a) = g s) (hw : ∀ s i u v, g (State.wr s i u v) = g s)
    (hd : ∀ s i u l, g (State.setDom s i u l) = g s) (hr : ∀ s c i u d b, g (State.raiseAt s c i u d b) = g s) (s : State) (slot : Nat) :
    g (s.sealFolio slot) = g s := by
  have hmet (t : State) : g ((List.range 16).foldl (fun s i => s.meetUpset (s.folioBase slot + 4 * i)) t) = g t :=
    foldl_same (fun _ _ => hm _ _) _ t
  have hset (t : State) (st : Nat) : g (t.setFolioState slot st) = g t :=
    ite_ind (P := fun u : State => g u = g t) (hw _ _ _ _) (hw _ _ _ _)
  have hraise (t : State) (code data : Nat) : g (t.raiseFolio code slot data) = g t :=
    ite_ind (P := fun u : State => g u = g t) (hr _ _ _ _ _ _) (hr _ _ _ _ _ _)
  unfold State.sealFolio
  extract_lets +onlyGivenNames met
  split
  · exact (hraise _ _ _).trans ((hset _ _).trans (hmet s))
  · extract_lets header done shown
    have hdone : g done = g s := (hset _ _).trans (hmet s)
    have hshown : g shown = g done := ite_ind (P := fun u : State => g u = g done) (hd _ _ _ _) rfl
    exact (hraise _ _ _).trans (hshown.trans hdone)

@[simp] theorem State.sealFolio_stalled (s : State) (slot : Nat) : (s.sealFolio slot).host.stalled = s.host.stalled :=
  State.sealFolio_same (g := fun t => t.host.stalled) (by simp) (by simp) (by simp) (by simp) s slot

@[simp] theorem State.sealFolio_performing (s : State) (slot : Nat) : (s.sealFolio slot).host.performing = s.host.performing :=
  State.sealFolio_same (g := fun t => t.host.performing) (by simp) (by simp) (by simp) (by simp) s slot

@[simp] theorem State.sealFolio_reset (s : State) (slot : Nat) : (s.sealFolio slot).reset_ = s.reset_ :=
  State.sealFolio_same (g := State.reset_) (by simp) (by simp) (by simp) (by simp) s slot

/-! The check of the header -/

theorem State.meetUpset_none {s : State} (h : s.mem.upsets = []) (a : Nat) : s.meetUpset a = s := by
  unfold State.meetUpset
  split
  case h_1 u _ hfound _ => simp [h] at hfound
  case h_2 => rfl

/-- Reading the words of a header meets no upset where none stands. -/
theorem State.meetUpset_header_none {s : State} (h : s.mem.upsets = []) (slot : Nat) (words : List Nat) :
    words.foldl (fun s i => s.meetUpset (s.folioBase slot + 4 * i)) s = s := by
  apply List.foldl_fixed'
  exact fun i => State.meetUpset_none h (s.folioBase slot + 4 * i)

/-- A numbered slot whose header passes is sealed, its header shown, and its layers and groups reported. -/
theorem State.sealFolio_passes {s : State} {slot : Nat} (hs : slot < 4) (hu : s.mem.upsets = []) (hc : s.folioCheck slot = none) :
    s.sealFolio slot = ((s.setFolioState slot 1).setDom Ix.FolioSlotHeader (slot + 1) (s.folioHeader slot)).raiseFolio 0x3001 slot
      (packData [f8 slot, f8 (folioLayers (s.folioHeader slot)), f16 (folioGroups (s.folioHeader slot))]) := by
  unfold State.sealFolio
  extract_lets +onlyGivenNames met
  have hmet : met = s := State.meetUpset_header_none hu slot _
  rw [hmet, hc]
  dsimp only
  rw [if_pos hs]

/-- A slot or static folio whose header fails is marked so, and the offset of the first failing field reported. -/
theorem State.sealFolio_fails {s : State} {slot off : Nat} (hu : s.mem.upsets = []) (hc : s.folioCheck slot = some off) :
    s.sealFolio slot = (s.setFolioState slot 3).raiseFolio 0x3002 slot (packData [f8 slot, f8 off]) := by
  unfold State.sealFolio
  extract_lets +onlyGivenNames met
  have hmet : met = s := State.meetUpset_header_none hu slot _
  rw [hmet, hc]

/-! The command -/

/-- A slot not in service takes the seal. -/
theorem State.writeScalar_folioSeal {m : State} {slot : Nat} (hs : isSlot slot = true) (hi : m.folioState slot ≠ 2) :
    m.writeScalar Ix.FolioSeal 0 slot = .ok (m.sealFolio slot) := by
  simp only [State.writeScalar, State.scalarAct, Ix.FolioSeal, Option.getD_some, State.folioSeal, hs, if_neg hi, Bool.not_true,
    Bool.false_eq_true, if_false]

/-- That a domain is asked for, and serves, leaves the folio's state as it is. -/
theorem State.folioState_metOn {s : State} {p d : Nat} (h : (s.met p).Serves d) (slot : Nat) :
    (s.metOn p d).folioState slot = (s.met p).folioState slot := by
  rw [State.metOn, State.needDomain_serves h]
  rfl

/-- The seal of a slot not in service ends the command. -/
theorem exec_folioSeal {s : State} {w : Caller} {slot : Nat} (hd : (s.met w.port).Serves 3) (ho : s.Orders w Ix.FolioSeal 0 slot)
    (hs : isSlot slot = true) (hi : (s.metOn w.port 3).folioState slot ≠ 2) :
    exec (.folioSeal w slot) s = .next (((s.metOn w.port 3).sealFolio slot).ended w Ix.FolioSeal 0 slot) := by
  have hmet : (s.met w.port).folioState slot ≠ 2 := by rwa [← State.folioState_metOn hd]
  have hearly : ∀ a, (s.met w.port).writeScalar Ix.FolioSeal 0 slot = .error a → earlyCode a.code = false := by
    intro a ha
    rw [State.writeScalar_folioSeal hs hmet] at ha
    cases ha
  refine congrArg Host.Outcome.next (ho.runOn rfl hd hearly (State.writeScalar_folioSeal hs hi) ?_ ?_ ?_)
  · simpa [State.metOn_host hd] using ho.attends.alone
  · simpa [State.metOn_host hd] using ho.attends.nothing
  · simpa [State.metOn_reset hd] using ho.attends.booted

/-- Settles O21: a slot not in service takes the seal (`exec_folioSeal`), and what the check of its header finds decides between
`State.sealFolio_passes` and `State.sealFolio_fails`. -/
theorem foliosAreSealed : Obligations.FoliosAreSealed := by
  unfold Obligations.FoliosAreSealed
  refine ⟨?passes, ?fails⟩
  case passes =>
    rintro s n w slot h rfl hd ho hs hi hu rfl hc
    rw [exec_folioSeal hd ho (isSlot_of_lt hs) hi, State.sealFolio_passes hs hu hc]
  case fails =>
    rintro s n w slot off rfl hd ho hs hi hu hc
    rw [exec_folioSeal hd ho hs hi, State.sealFolio_fails hu hc]

end Sys2Proof.Machine
end

section
/-! The Channel Library, and the statement of 06_channel_library_and_weights.md on its entries (R148, R150). -/
namespace Sys2Proof.Machine

/-- A read of a range through the codes changes nothing where no word is upset (R326). -/
theorem State.settle_none {s : State} (h : s.mem.upsets = []) (a n : Nat) : s.settle a n = s := by
  simp only [State.settle, h, List.filter_nil, List.foldl_nil]

/-- An effect that is performed is not refused, early or late (R69). -/
theorem notEarly_of_ok {r : Res} {t : State} (h : r = .ok t) : ∀ a, r = .error a → earlyCode a.code = false := by
  rintro a rfl
  cases h

/-! Estimates written (R148) -/

/-- The oldest write leaves the queue of estimates. -/
def State.writeTaken (s : State) (rest : List SoundingWrite) : State := { s with lib := { s.lib with writes := rest } }

/-- The header of an entry that one estimate alone fills (Table 6.1): the paths that heard it give the mean SNR. -/
def State.freshHeader (s : State) (x : SoundingWrite) (snr : List Int) : List Byte :=
  [1, 2] ++ leBytes 1 (2 * b2n x.saturated + b2n x.partial_) ++ leBytes 1 x.record ++ leBytes 2 (s.activeSubcarriers / 6) ++ [0, 0]
    ++ leBytes 8 (epochEntry x.epoch) ++ leBytes 8 (epochEntry x.epoch) ++ leBytes 2 (ofInt 16 (snr.sum.tdiv snr.length)) ++ [0, 0]
    ++ leBytes 4 ((s.numAt (s.entryBase x.entry + 28) 4 + 1) % 2 ^ 32) ++ s.prbsList.flatMap (leBytes 2) ++ List.replicate 24 0

/-- The points of an estimate that is not merged stand over zeros. -/
def State.pointsWritten (s : State) (x : SoundingWrite) : State :=
  x.points.foldl (fun t p => t.ownBytes (s.entryBase x.entry + 1024 + 256 * p.1) (p.2.flatMap cplxBytes))
    (s.zeroRange (s.entryBase x.entry + 1024) 559104)

/-- An estimate that is not merged, and that a path at least has heard, fills its entry. -/
theorem State.soundingWriteDone_fresh {s : State} {x : SoundingWrite} {rest : List SoundingWrite} (hw : s.lib.writes = x :: rest)
    (hm : x.merge = false) (hs : x.snr.filter (· != -32768) ≠ []) :
    s.soundingWriteDone = (((s.writeTaken rest).pointsWritten x).ownBytes (s.entryBase x.entry)
      (s.freshHeader x (x.snr.filter (· != -32768)) ++ bitmapBytes 144 x.prbs
        ++ (x.snr.map (fun y => if y = -32768 then 0 else y)).flatMap (fun y => leBytes 2 (ofInt 16 y)))).bump Ix.SoundingWritten 0 := by
  have heard : (x.snr.filter (· != -32768)).isEmpty = false := List.isEmpty_eq_false_iff.2 hs
  simp only [State.soundingWriteDone, hw, hm, heard, Bool.false_eq_true, if_false, Nat.zero_add]
  rfl

/-- A poisoned word met while merging makes the entry invalid, and the estimate is dropped. -/
theorem State.soundingWriteDone_poisoned {s : State} {x : SoundingWrite} {rest : List SoundingWrite} {a : Nat}
    (hw : s.lib.writes = x :: rest) (hm : x.merge = true) (hu : s.mem.upsets = [])
    (hp : s.firstPoison (s.entryBase x.entry) 336 = some a) :
    s.soundingWriteDone
      = (((s.writeTaken rest).consumePoison a).ownBytes (s.entryBase x.entry + 1) [3]).soundDropped x.record 3 x.entry := by
  have hsettle : (s.writeTaken rest).settle (s.entryBase x.entry) 336 = s.writeTaken rest :=
    State.settle_none (s := s.writeTaken rest) hu _ _
  have hpoison : (s.writeTaken rest).firstPoison (s.entryBase x.entry) 336 = some a := hp
  have hbase : (s.writeTaken rest).entryBase x.entry = s.entryBase x.entry := rfl
  simp only [State.soundingWriteDone, hw, hm, if_true]
  rw [← State.writeTaken, hbase, hsettle, hpoison]

/-! Entries of the host (R150) -/

/-- LIBRARY_VALIDATE of an entry whose header passes makes it valid, the host's own. -/
theorem State.libraryValidate_passes {m : State} {e : Nat} (he : e < m.rd Ix.LibraryEntries 0) (hu : m.mem.upsets = [])
    (hc : m.libraryCheck e = none) : m.libraryValidate e
      = .ok (m.ownBytes (m.entryBase e + 1) [2, BitVec.ofNat 8 (setBit (m.numAt (m.entryBase e + 2) 1) 3 true), 0xFF]) := by
  simp only [State.libraryValidate, if_neg (Nat.not_le.2 he), State.settle_none hu, hc]

/-- LIBRARY_VALIDATE of an entry whose header fails makes it invalid, and the offset of the first failing field is reported. -/
theorem State.libraryValidate_fails {m : State} {e off : Nat} (he : e < m.rd Ix.LibraryEntries 0) (hu : m.mem.upsets = [])
    (hc : m.libraryCheck e = some off) : m.libraryValidate e
      = .ok ((m.ownBytes (m.entryBase e + 1) [3]).raise 0x3403 0 (packData [f16 e, f8 off])) := by
  simp only [State.libraryValidate, if_neg (Nat.not_le.2 he), State.settle_none hu, hc]

/-- An entry that the Library has is validated, whatever its header. -/
theorem State.libraryValidate_ok {m : State} {e : Nat} (he : e < m.rd Ix.LibraryEntries 0) : ∃ t, m.libraryValidate e = .ok t := by
  simp only [State.libraryValidate, if_neg (Nat.not_le.2 he)]
  split
  · exact ⟨_, rfl⟩
  · exact ⟨_, rfl⟩

/-- LIBRARY_INVALIDATE of an entry that no job pins makes it invalid. -/
theorem State.libraryInvalidate_unpinned {m : State} {e : Nat} (he : e < m.rd Ix.LibraryEntries 0) (hp : m.pinnedBy e = none) :
    m.libraryInvalidate e = .ok (m.ownBytes (m.entryBase e + 1) [3]) := by
  rw [State.libraryInvalidate, if_neg (Nat.not_le.2 he), hp]

/-- That a domain is asked for, and serves, leaves the Catalogue as it is. -/
theorem State.rd_metOn {s : State} {p d : Nat} (h : (s.met p).Serves d) (i u : Nat) : (s.metOn p d).rd i u = (s.met p).rd i u := by
  rw [State.metOn, State.needDomain_serves h]
  rfl

theorem State.metOn_lib {s : State} {p d : Nat} (h : (s.met p).Serves d) : (s.metOn p d).lib = (s.met p).lib := by
  rw [State.metOn, State.needDomain_serves h]

/-- The validation of an entry that the Library has ends the command. -/
theorem exec_libraryValidate {s t : State} {w : Caller} {e : Nat} (hd : (s.met w.port).Serves 5) (ho : s.Orders w Ix.LibraryValidate 0 e)
    (he : e < (s.metOn w.port 5).rd Ix.LibraryEntries 0) (hv : (s.metOn w.port 5).libraryValidate e = .ok t)
    (hh : t.host = (s.metOn w.port 5).host) (hr : t.reset_ = (s.metOn w.port 5).reset_) :
    exec (.libraryValidate w e) s = .next (t.ended w Ix.LibraryValidate 0 e) := by
  rw [State.rd_metOn hd] at he
  obtain ⟨u, hu⟩ := State.libraryValidate_ok he
  exact congrArg Host.Outcome.next (ho.runOnSame rfl hd (notEarly_of_ok hu) hv hh hr)

/-- The invalidation of an entry that no job pins ends the command. -/
theorem exec_libraryInvalidate {s : State} {w : Caller} {e : Nat} (hd : (s.met w.port).Serves 5) (ho : s.Orders w Ix.LibraryInvalidate 0 e)
    (he : e < (s.metOn w.port 5).rd Ix.LibraryEntries 0) (hp : (s.metOn w.port 5).pinnedBy e = none) :
    exec (.libraryInvalidate w e) s = .next (((s.metOn w.port 5).ownBytes ((s.metOn w.port 5).entryBase e + 1) [3]).ended
      w Ix.LibraryInvalidate 0 e) := by
  have hmet : (s.met w.port).pinnedBy e = none := by rwa [State.pinnedBy, ← State.metOn_lib hd]
  have hearly := notEarly_of_ok (State.libraryInvalidate_unpinned (by rwa [← State.rd_metOn hd]) hmet)
  exact congrArg Host.Outcome.next
    (ho.runOnSame rfl hd hearly (State.libraryInvalidate_unpinned he hp) (State.ownBytes_host _ _ _) (State.ownBytes_reset _ _ _))

/-- Settles O23: the oldest estimate that is not merged fills its entry (`State.soundingWriteDone_fresh`), a merge that meets poison makes it invalid
(`State.soundingWriteDone_poisoned`); an entry of the host becomes what the check of its header finds (`State.libraryValidate_passes`,
`State.libraryValidate_fails`), or invalid where no job pins it (`exec_libraryInvalidate`). -/
theorem libraryEntriesChangeState : Obligations.LibraryEntriesChangeState := by
  unfold Obligations.LibraryEntriesChangeState
  refine ⟨?written, ?poisoned, ?passes, ?fails, ?invalidated⟩
  case written =>
    rintro s t x rest b snr hdr hw hm rfl rfl hs rfl rfl
    exact congrArg Host.Outcome.next (State.soundingWriteDone_fresh hw hm hs)
  case poisoned =>
    rintro s t x rest b a hw hm rfl hu hp rfl
    exact congrArg Host.Outcome.next (State.soundingWriteDone_poisoned hw hm hu hp)
  case passes =>
    rintro s n w e b rfl hd ho he hu rfl hc
    exact exec_libraryValidate hd ho he (State.libraryValidate_passes he hu hc) (by simp) (by simp)
  case fails =>
    rintro s n w e off rfl hd ho he hu hc
    exact exec_libraryValidate hd ho he (State.libraryValidate_fails he hu hc) (by simp) (by simp)
  case invalidated =>
    rintro s n w e rfl hd ho he hp
    exact exec_libraryInvalidate hd ho he hp

end Sys2Proof.Machine
end

section
/-! Weight jobs, and the statement of 06_channel_library_and_weights.md on their queue and their run (R153 to R155, R161, R162). -/
namespace Sys2Proof.Machine

/-! Submission (R153, R154) -/

/-- The job that a record asks for, as it enters the queue. -/
def queuedJob (l : List Byte) (accepted : Nat) : WeightJob := ⟨fieldLE l 10 2, l, 0, accepted, 0, [], 0xFF, 0xFF, [], [], []⟩

/-- What R153 and R154 ask of a job of this device alone: its fields, room in the queue, its slots, KEEP, its entries, and for COMMIT the
lead time and room for one more commit. -/
structure State.TakesJob (m : State) (j : WeightJob) (target : Nat) : Prop where
  alone : j.array = false
  sound : m.mem.upsets = []
  fields : m.jobField j = none
  room : m.lib.jobs.length < 8
  fresh : ∀ k ∈ m.lib.jobs, k.job ≠ j.job
  slots : ∀ k ∈ j.slots, m.folioState k ≠ 2 ∧ m.commitNames k = false ∧ thas k m.lib.slotLease = false
  keep : m.keepBad j = false
  valid : ∀ e ∈ j.entries, m.entryValid e j.first j.count = true
  lead : j.commit = true → m.leadMet false target = true ∧ m.host.commits.length < 8

/-- A job stands behind the earlier ones, and holds the leases of its slots. -/
def State.queueJob (m : State) (j : WeightJob) : State :=
  { m with lib := { m.lib with jobs := m.lib.jobs ++ [j], slotLease := j.slots.foldl (fun l k => tins k j.job l) m.lib.slotLease } }

/-- The commit that selects the slots of a job (R154). -/
def jobCommit (j : WeightJob) (target : Nat) : SealedCommit :=
  internalCommit (.weightJob j.job) target false false
    ((if j.dir = 1 then [] else [⟨Ix.DlFolioSelect, 0, .num j.dlSlot⟩]) ++ (if j.dir = 0 then [] else [⟨Ix.UlFolioSelect, 0, .num j.ulSlot⟩]))

/-- A job is queued, and with COMMIT its commit sealed. -/
def State.takeJob (m : State) (j : WeightJob) (target : Nat) : State :=
  if j.commit then (m.queueJob j).sealCommit (jobCommit j target) else m.queueJob j

theorem State.takeJob_uncommitted {m : State} {j : WeightJob} (hc : j.commit = false) (target : Nat) : m.takeJob j target = m.queueJob j := by
  rw [State.takeJob, hc, if_neg Bool.false_ne_true]

theorem State.takeJob_committed {m : State} {j : WeightJob} (hc : j.commit = true) (target : Nat) :
    m.takeJob j target = (m.queueJob j).sealCommit (jobCommit j target) := by
  rw [State.takeJob, if_pos hc]

/-- Reading the headers of a job's entries changes nothing where no word is upset. -/
theorem State.settle_headers_none {m : State} (h : m.mem.upsets = []) (l : List Nat) :
    l.foldl (fun s e => if e < s.rd Ix.LibraryEntries 0 then s.settle (s.entryBase e) 208 else s) m = m := by
  apply List.foldl_fixed'
  intro e
  rw [State.settle_none h, ite_self]

/-- A job that finds its number new, room, and slots and folios as it asks meets none of R153's refusals for the state. -/
theorem State.TakesJob.state {m : State} {j : WeightJob} {target : Nat} (h : m.TakesJob j target) :
    (m.lib.jobs.any (fun k => k.job == j.job) || decide (8 ≤ m.lib.jobs.length)
      || j.slots.any (fun k => m.folioState k == 2 || m.commitNames k) || m.keepBad j) = false := by
  have hnumber : m.lib.jobs.any (fun k => k.job == j.job) = false := by simpa using h.fresh
  have hroom : decide (8 ≤ m.lib.jobs.length) = false := decide_eq_false (Nat.not_le.2 h.room)
  have hslots : j.slots.any (fun k => m.folioState k == 2 || m.commitNames k) = false := by
    simpa using fun k hk => ⟨(h.slots k hk).1, (h.slots k hk).2.1⟩
  rw [hnumber, hroom, hslots, h.keep]
  rfl

/-- No slot that it writes is leased. -/
theorem State.TakesJob.free {m : State} {j : WeightJob} {target : Nat} (h : m.TakesJob j target) :
    j.slots.find? (fun k => thas k m.lib.slotLease) = none := by
  simpa using fun k hk => (h.slots k hk).2.2

/-- None of its entries is missing. -/
theorem State.TakesJob.entries {m : State} {j : WeightJob} {target : Nat} (h : m.TakesJob j target) :
    j.entries.any (fun e => !m.entryValid e j.first j.count) = false := by
  simpa using h.valid

/-- A job that R153 and R154 take is queued. -/
theorem State.TakesJob.weightJobSubmit {m : State} {l : List Byte} {j : WeightJob} {target : Nat} (hj : j = queuedJob l m.epoch)
    (ht : target = epochOfEntry (fieldLE l 24 8)) (h : m.TakesJob j target) : m.weightJobSubmit l = .ok (m.takeJob j target) := by
  have halone := h.alone
  have hfields := h.fields
  have hheaders : (if j.algorithm = 3 then m else j.entries.foldl (fun s e =>
      if e < s.rd Ix.LibraryEntries 0 then s.settle (s.entryBase e) 208 else s) m) = m := by
    rw [State.settle_headers_none h.sound, ite_self]
  have hstate := h.state
  have hfree := h.free
  have hentries := h.entries
  unfold State.weightJobSubmit
  rw [← queuedJob, ← hj, ← ht]
  dsimp only
  rw [hheaders]
  simp only [halone, hfields, hstate, hfree, hentries, Bool.false_eq_true, Bool.false_and, false_and, if_false]
  cases hc : j.commit
  case false =>
    simp only [State.takeJob, hc, Bool.false_and, Bool.false_eq_true, if_false]
    rfl
  case true =>
    obtain ⟨hlead, hroom⟩ := h.lead hc
    simp only [State.takeJob, hc, hlead, Nat.not_le.2 hroom, Bool.not_true, Bool.and_false, decide_false, Bool.false_eq_true, if_false,
      if_true]
    rfl

/-- The idle times of domains are nothing that a target's lead time rests on. -/
theorem State.leadMet_of_power {m : State} {x : PowerSys} (target : Nat) :
    ({ m with power := x } : State).leadMet false target = m.leadMet false target := by
  have hearliest : ({ m with power := x } : State).earliestCommit = m.earliestCommit := State.addEpochs_congr rfl rfl 3 m.epoch
  simp only [State.leadMet, hearliest, Bool.false_eq_true, if_false]

/-- Nor anything else that a job is judged by. -/
theorem State.TakesJob.of_power {m : State} {x : PowerSys} {j : WeightJob} {target : Nat}
    (h : ({ m with power := x } : State).TakesJob j target) : m.TakesJob j target where
  alone := h.alone
  sound := h.sound
  fields := h.fields
  room := h.room
  fresh := h.fresh
  slots := h.slots
  keep := h.keep
  valid := h.valid
  lead := by simpa only [State.leadMet_of_power] using h.lead

/-- A job that is taken once the domain serves is not refused before. -/
theorem State.TakesJob.met {s : State} {p d : Nat} {j : WeightJob} {target : Nat} (hs : (s.met p).Serves d)
    (h : (s.metOn p d).TakesJob j target) : (s.met p).TakesJob j target := by
  rw [State.metOn, State.needDomain_serves hs] at h
  exact h.of_power

/-! What taking a job leaves alone -/

/-- A part that neither the Library nor a sealed commit touches stands through the taking of a job. -/
theorem State.takeJob_same {β : Type} {g : State → β} (hl : ∀ s x, g { s with lib := x } = g s) (hs : ∀ s c, g (State.sealCommit s c) = g s)
    (m : State) (j : WeightJob) (target : Nat) : g (m.takeJob j target) = g m :=
  ite_ind (P := fun t : State => g t = g m) ((hs _ _).trans (hl _ _)) (hl _ _)

@[simp] theorem State.takeJob_stalled (m : State) (j : WeightJob) (target : Nat) : (m.takeJob j target).host.stalled = m.host.stalled :=
  State.takeJob_same (g := fun s => s.host.stalled) (fun _ _ => rfl) (fun _ _ => rfl) m j target
@[simp] theorem State.takeJob_performing (m : State) (j : WeightJob) (target : Nat) :
    (m.takeJob j target).host.performing = m.host.performing :=
  State.takeJob_same (g := fun s => s.host.performing) (fun _ _ => rfl) (fun _ _ => rfl) m j target
@[simp] theorem State.takeJob_reset (m : State) (j : WeightJob) (target : Nat) : (m.takeJob j target).reset_ = m.reset_ :=
  State.takeJob_same (g := State.reset_) (fun _ _ => rfl) (fun _ _ => rfl) m j target
@[simp] theorem State.takeJob_transferOf (m : State) (j : WeightJob) (target index sub : Nat) :
    (m.takeJob j target).transferOf index sub = m.transferOf index sub :=
  State.takeJob_same (g := fun s => s.transferOf index sub) (fun _ _ => rfl) (fun _ _ => rfl) m j target

/-! The response (R154) -/

/-- The response to a job without COMMIT is that of any write. -/
theorem State.jobTarget_uncommitted {m : State} {j : WeightJob} (hc : j.commit = false) (r : Request) :
    State.jobTarget r (m.queueJob j).done = (m.queueJob j).done := by
  have hlast : (m.queueJob j).lib.jobs.getLast? = some j := List.getLast?_concat
  simp only [State.jobTarget, State.done, hlast, hc, Bool.false_eq_true, if_false]
  split
  · split <;> rfl
  · rfl

/-- The response to a job with COMMIT carries the target of its commit. -/
theorem State.jobTarget_committed {m : State} {j : WeightJob} (hc : j.commit = true) (target : Nat) (w : Caller) (l : List Byte) :
    State.jobTarget (recordWrite w Ix.WeightJobSubmit l) ((m.queueJob j).sealCommit (jobCommit j target)).done
      = .answer { epoch := epochEntry target } ((m.queueJob j).sealCommit (jobCommit j target)) := by
  have hasks : (recordWrite w Ix.WeightJobSubmit l).op = 4 ∧ (recordWrite w Ix.WeightJobSubmit l).index = Ix.WeightJobSubmit := ⟨rfl, rfl⟩
  have hlast : (m.lib.jobs ++ [j]).getLast? = some j := List.getLast?_concat
  have hown : ((jobCommit j target).source == .weightJob j.job) = true := beq_self_eq_true _
  have hsealed : (m.host.commits ++ [jobCommit j target]).reverse.find? (fun c => c.source == .weightJob j.job)
      = some (jobCommit j target) := by
    rw [List.reverse_concat, List.find?_cons, hown]
  simp only [State.jobTarget, State.done, hasks, and_self, if_true, State.sealCommit, State.queueJob, hlast, hsealed, hc]
  rfl

/-- That a domain is asked for, and serves, leaves the epoch as it is. -/
theorem State.metOn_epoch {s : State} {p d : Nat} (h : (s.met p).Serves d) : (s.metOn p d).epoch = (s.met p).epoch := by
  rw [State.metOn, State.needDomain_serves h]

/-- A job that the device takes is answered as `State.jobTarget` says. -/
theorem State.OrdersRecord.submitJob {s t : State} {w : Caller} {l : List Byte} {j : WeightJob} {target : Nat} {a : Answer}
    (h : s.OrdersRecord w Ix.WeightJobSubmit l) (hs : (s.met w.port).Serves 4) (hj : j = queuedJob l (s.metOn w.port 4).epoch)
    (ht : target = epochOfEntry (fieldLE l 24 8)) (hk : (s.metOn w.port 4).TakesJob j target)
    (hq : t = (s.metOn w.port 4).takeJob j target)
    (ha : State.jobTarget (recordWrite w Ix.WeightJobSubmit l) t.done = .answer a t) :
    s.orderRecord w Ix.WeightJobSubmit l = t.respond (t.responseTo (recordWrite w Ix.WeightJobSubmit l) 0 false a) := by
  obtain ⟨e, he⟩ := h.accepts
  have hempty : t.transferOf Ix.WeightJobSubmit 0 = none := by
    rw [hq, State.takeJob_transferOf, State.transferOf, State.metOn_host hs]
    exact h.noTransfer
  have hacts : (s.met w.port).acting (some 4) (fun s => (s.weightJobSubmit l).map (fun t => t.cleared (recordWrite w Ix.WeightJobSubmit l)))
      = t.done := by
    have hmet : (s.met w.port).weightJobSubmit l = .ok ((s.met w.port).takeJob j target) :=
      (hk.met hs).weightJobSubmit (by rw [hj, State.metOn_epoch hs]) ht
    refine State.acting_on hs (notEarly_of_ok (by rw [hmet, Except.map])) ?_
    rw [State.metOn_def, hk.weightJobSubmit hj ht, ← hq, Except.map, State.cleared_none hempty]
  have hperform : (s.noteMaster w.port).perform (recordWrite w Ix.WeightJobSubmit l) = .answer a t := by
    rw [State.perform_record (e := e) (by rw [State.met_eq]; exact he), State.met_eq]
    exact (congrArg _ hacts).trans ha
  refine State.take_answers h.attends rfl rfl rfl hperform ?_ ?_ ?_
  · simpa [hq, State.metOn_host hs] using h.attends.alone
  · simpa [hq, State.metOn_host hs] using h.attends.nothing
  · simpa [hq, State.metOn_reset hs] using h.attends.booted

/-! The end of a job (R162) -/

@[simp] theorem State.failCommits_stalled (s : State) (pick : SealedCommit → Bool) (reason : Nat) :
    (s.failCommits pick reason).host.stalled = s.host.stalled :=
  foldl_same (g := fun s => s.host.stalled) (by simp) _ _
@[simp] theorem State.failCommits_performing (s : State) (pick : SealedCommit → Bool) (reason : Nat) :
    (s.failCommits pick reason).host.performing = s.host.performing :=
  foldl_same (g := fun s => s.host.performing) (by simp) _ _
@[simp] theorem State.failCommits_reset (s : State) (pick : SealedCommit → Bool) (reason : Nat) :
    (s.failCommits pick reason).reset_ = s.reset_ :=
  foldl_same (g := State.reset_) (by simp) _ _

@[simp] theorem State.failJob_stalled (s : State) (job reason at_ : Nat) : (s.failJob job reason at_).host.stalled = s.host.stalled := by
  unfold State.failJob
  split <;> simp [State.keepResult]
@[simp] theorem State.failJob_performing (s : State) (job reason at_ : Nat) :
    (s.failJob job reason at_).host.performing = s.host.performing := by
  unfold State.failJob
  split <;> simp [State.keepResult]
@[simp] theorem State.failJob_reset (s : State) (job reason at_ : Nat) : (s.failJob job reason at_).reset_ = s.reset_ := by
  unfold State.failJob
  split <;> simp [State.keepResult]

/-- WEIGHT_JOB_CANCEL of a job that this device may cancel fails it with CANCELLED. -/
theorem State.weightJobCancel_known {m : State} {job : Nat} {j : WeightJob} (hf : m.lib.jobs.find? (fun k => k.job == job) = some j)
    (hp : j.array = false ∨ m.pos = 0) : m.weightJobCancel job = .ok (m.failJob job 4 m.pos) := by
  have hmay : ¬(j.array = true ∧ m.pos ≠ 0) := by
    rintro ⟨harray, hpos⟩
    simp [harray, hpos] at hp
  simp only [State.weightJobCancel, hf, if_neg hmay]

/-- An exchange still incomplete `GramTimeout` after the start fails its job. -/
theorem State.gramTimeout_incomplete {s : State} {j : WeightJob} {rest : List WeightJob} (hj : s.lib.jobs = j :: rest) (hs : j.state = 2)
    (ht : j.startedAt + usec (s.rd Ix.GramTimeout 0) ≤ s.now) : s.gramTimeout = s.failJob j.job 3 s.pos := by
  simp only [State.gramTimeout, hj, hs, State.elapsed_of_le ht, and_self, if_true]

/-! The start of a job (R155, R156) -/

/-- The headers of a job's slots are written, which opens them. -/
def State.slotsOpened (s : State) (j : WeightJob) : State :=
  j.slots.foldl (fun s k => (s.ownBytes (folioSlotBase k) (s.jobHeader j k)).setFolioState k 0) s

/-- A job as it runs: what it takes note of at its start. -/
def State.started (t : State) (j : WeightJob) : WeightJob :=
  { j with startedAt := t.now, faulty := t.faultyPaths, keepDl := t.rd Ix.DlFolioSelect 0, keepUl := t.rd Ix.UlFolioSelect 0, state := 3 }

/-- An external job waits for its image alone. -/
theorem State.jobStart_external {s : State} {j : WeightJob} {rest : List WeightJob} (hj : s.lib.jobs = j :: rest) (hs : j.state = 0)
    (ha : j.algorithm = 3) : s.jobStart = (s.slotsOpened j).setJob ((s.slotsOpened j).started j) := by
  have hext : ((s.slotsOpened j).started j).algorithm = 3 := ha
  simp only [State.jobStart, hj, hs, ne_eq, not_true_eq_false, if_false]
  rw [← State.slotsOpened, ← State.started, if_pos hext]

/-- Reading the points of a job's entries changes nothing where no word is upset. -/
theorem State.settle_points_none {s : State} (h : s.mem.upsets = []) (l : List Nat) :
    l.foldl (fun s e => s.settle (s.entryBase e + 1024) 559104) s = s := by
  apply List.foldl_fixed'
  exact fun e => State.settle_none h _ _

/-- A job of this device alone that reads no poison has its total at once: its own Gram blocks. -/
theorem State.jobStart_alone {s t : State} {j : WeightJob} {rest : List WeightJob} (hj : s.lib.jobs = j :: rest) (hs : j.state = 0)
    (ht : t = s.slotsOpened j) (ha : j.algorithm ≠ 3) (h1 : j.array = false) (hu : t.mem.upsets = [])
    (hp : ∀ e ∈ j.entries, t.firstPoison (t.entryBase e + 1024) 559104 = none) :
    s.jobStart = t.setJob { t.started j with own := (t.jobGroups (t.started j)).map (t.ownGram (t.started j)),
                                             total := (t.jobGroups (t.started j)).map (t.ownGram (t.started j)) } := by
  have hown : ¬(t.started j).algorithm = 3 := ha
  have halone : (t.started j).array = false := h1
  have hclean : (t.started j).entries.findSome? (fun e => t.firstPoison (t.entryBase e + 1024) 559104) = none :=
    List.findSome?_eq_none_iff.2 hp
  simp only [State.jobStart, hj, hs, ne_eq, not_true_eq_false, if_false]
  rw [← State.slotsOpened, ← ht, ← State.started, if_neg hown, State.settle_points_none hu, hclean]
  simp only [halone, Bool.not_false, Bool.true_or, if_true]
  rfl

/-! The end of an external job (R155, R161) -/

/-- The image of an external job stands in each of its slots, and each is sealed. -/
def State.imagePlaced (s : State) (j : WeightJob) (img : List Byte) : State :=
  j.slots.foldl (fun s k => s.sealFolio k) (j.slots.foldl (fun s k => s.ownBytes (folioSlotBase k) img) s)

/-- A job gives up its pins and its leases. -/
def State.jobReleased (t : State) (j : WeightJob) : State :=
  { t with lib := { t.lib with jobs := t.lib.jobs.filter (fun k => k.job != j.job),
                               slotLease := t.lib.slotLease.filter (fun c => c.2 != j.job) } }

/-- JOB_DONE of an external job whose image is free of poison and passes the seal in every slot. -/
theorem State.jobDone_external {s t : State} {j : WeightJob} {rest : List WeightJob} (hj : s.lib.jobs = j :: rest) (hs : j.state = 3)
    (ha : j.algorithm = 3) (hu : s.mem.upsets = []) (hp : s.jobPoison j = none)
    (ht : t = s.imagePlaced j (s.bytesAt j.source (64 + min 0x8FFFC0 (s.numAt (j.source + 32) 4)))) (hk : ∀ k ∈ j.slots, t.folioState k ≠ 3)
    (micros : Nat) : s.jobDone micros = (((t.jobReleased j).keepResult ⟨j.job, 5, 0, j.accepted, (t.jobReleased j).epoch, 0, 0, micros⟩).bump
      Ix.WeightJobsDone 0).raise 0x3404 0 (packData [f16 j.job, fCount 0, fCount 0]) := by
  have hsealed : j.slots.any (fun k => t.folioState k == 3) = false := by simpa using hk
  simp only [State.jobDone, hj, hs, ha, ne_eq, not_true_eq_false, if_false, if_true, State.settle_none hu, hp]
  rw [← State.imagePlaced, ← ht]
  simp only [hsealed, Bool.false_eq_true, if_false]
  rfl

/-- Settles O24, command by command: a job is taken as R153 and R154 ask (`State.TakesJob.weightJobSubmit`) and answered with the target of its
commit where it has one (`State.jobTarget_committed`); what its cancel, its start, its end and its timeout do is the lemma named for each. -/
theorem weightJobsAreQueuedAndRun : Obligations.WeightJobsAreQueuedAndRun := by
  unfold Obligations.WeightJobsAreQueuedAndRun
  refine ⟨?submit, ?cancel, ?start, ?done, ?timeout⟩
  case submit =>
    rintro s n t w l j target rfl hd ho hj halone hsound hfields hroom hfresh hslots hkeep hvalid htarget rfl
    refine ⟨fun hc => ?uncommitted, ?committed⟩
    case uncommitted =>
      have htakes : (s.metOn w.port 4).TakesJob j target :=
        ⟨halone, hsound, hfields, hroom, hfresh, hslots, hkeep, hvalid, by simp [hc]⟩
      exact congrArg Host.Outcome.next
        (ho.submitJob hd hj htarget htakes (State.takeJob_uncommitted hc target).symm (State.jobTarget_uncommitted hc _))
    case committed =>
      rintro u q hc hlead hcommits rfl rfl
      have htakes : (s.metOn w.port 4).TakesJob j target :=
        ⟨halone, hsound, hfields, hroom, hfresh, hslots, hkeep, hvalid, fun _ => ⟨hlead, hcommits⟩⟩
      exact congrArg Host.Outcome.next
        (ho.submitJob hd hj htarget htakes (State.takeJob_committed hc target).symm (State.jobTarget_committed hc target w l))
  case cancel =>
    rintro s m w job j rfl ho hf hp
    refine congrArg Host.Outcome.next (ho.run rfl (State.weightJobCancel_known hf hp) ?_ ?_ ?_)
    · simpa using ho.attends.alone
    · simpa using ho.attends.nothing
    · simpa using ho.attends.booted
  case start =>
    rintro s t j k rest hj hs rfl rfl
    refine ⟨fun ha => congrArg Host.Outcome.next (State.jobStart_external hj hs ha), ?alone⟩
    case alone =>
      rintro own ha h1 hu hp rfl
      exact congrArg Host.Outcome.next (State.jobStart_alone hj hs rfl ha h1 hu hp)
  case done =>
    rintro s t u j img micros rest hj hs ha hu hp rfl rfl hk rfl
    exact congrArg Host.Outcome.next (State.jobDone_external hj hs ha hu hp rfl hk micros)
  case timeout =>
    intro s j rest hj hs ht
    exact congrArg Host.Outcome.next (State.gramTimeout_incomplete hj hs ht)

end Sys2Proof.Machine
end

section
/-! The sets of the Leakage Canceller, and the statement of 08_subband_duplex.md on their sealing, loading, training and tracking
(R196, R198 to R200, R203). -/
namespace Sys2Proof.Machine

/-! CANCEL_SET_SEAL (R196) -/

/-- A set that passes, and that no sealed commit selects, is sealed, does not load yet, and is reported. -/
theorem State.cancelSetSeal_passes {m : State} {slot : Nat} (hs : slot < 2) (hi : m.rd Ix.CancelSetState (slot + 1) ≠ 2)
    (hc : m.setCheck slot = none) (hn : m.setNamed slot = false) :
    m.cancelSetSeal slot = .ok ((m.wr Ix.CancelSetState (slot + 1) 1).raise 0x3C07 (slot + 1) (packData [f8 slot])) := by
  have hseal : m.sealSet slot = m.wr Ix.CancelSetState (slot + 1) 1 := if_neg (ne_true_of_eq_false hn)
  rw [State.cancelSetSeal, if_neg (Nat.not_le.2 hs), if_neg hi, hc, ← hseal]

/-- A set that fails is marked so, and the offset of its first failing field reported. -/
theorem State.cancelSetSeal_fails {m : State} {slot off : Nat} (hs : slot < 2) (hi : m.rd Ix.CancelSetState (slot + 1) ≠ 2)
    (hc : m.setCheck slot = some off) :
    m.cancelSetSeal slot = .ok ((m.wr Ix.CancelSetState (slot + 1) 3).raise 0x3C08 (slot + 1) (packData [f8 slot, f32 off])) := by
  rw [State.cancelSetSeal, if_neg (Nat.not_le.2 hs), if_neg hi, hc, State.setCancelState]

/-- A slot not in service takes the seal, whatever its set. -/
theorem State.cancelSetSeal_ok {m : State} {slot : Nat} (hs : slot < 2) (hi : m.rd Ix.CancelSetState (slot + 1) ≠ 2) :
    ∃ t, m.cancelSetSeal slot = .ok t := by
  rw [State.cancelSetSeal, if_neg (Nat.not_le.2 hs), if_neg hi]
  split
  · exact ⟨_, rfl⟩
  · exact ⟨_, rfl⟩

/-- The seal of a slot not in service ends the command. -/
theorem exec_cancelSetSeal {s t : State} {w : Caller} {slot : Nat} (hd : (s.met w.port).Serves 5) (ho : s.Orders w Ix.CancelSetSeal 0 slot)
    (hs : slot < 2) (hi : (s.metOn w.port 5).rd Ix.CancelSetState (slot + 1) ≠ 2) (hq : (s.metOn w.port 5).cancelSetSeal slot = .ok t)
    (hh : t.host = (s.metOn w.port 5).host) (hr : t.reset_ = (s.metOn w.port 5).reset_) :
    exec (.cancelSetSeal w slot) s = .next (t.ended w Ix.CancelSetSeal 0 slot) := by
  rw [State.rd_metOn hd] at hi
  obtain ⟨u, hu⟩ := State.cancelSetSeal_ok hs hi
  exact congrArg Host.Outcome.next (ho.runOnSame rfl hd (notEarly_of_ok hu) hq hh hr)

/-! CANCEL_SET_LOADED (R196) -/

/-- A slot's load is over. -/
def State.loadOver (s : State) (slot : Nat) : State :=
  { s with duplex := { s.duplex with loads := s.duplex.loads.filter (fun l => l.slot != slot) } }

/-- A slot with a load under way is among the loads. -/
theorem State.loads_any {s : State} {slot : Nat} (hl : ∃ l ∈ s.duplex.loads, l.slot = slot) :
    s.duplex.loads.any (fun l => l.slot == slot) = true := by
  simpa using hl

/-- A load without a poisoned word keeps the copy. -/
theorem State.cancelSetLoaded_clean {s : State} {slot : Nat} (hl : ∃ l ∈ s.duplex.loads, l.slot = slot) (hu : s.mem.upsets = [])
    (hp : s.firstPoison (s.setBase slot) setLength = none) :
    s.cancelSetLoaded slot = { s.loadOver slot with
      duplex := { (s.loadOver slot).duplex with copies := tins slot (s.setCopy slot) (s.loadOver slot).duplex.copies } } := by
  have hsettle : (s.loadOver slot).settle ((s.loadOver slot).setBase slot) setLength = s.loadOver slot :=
    State.settle_none (s := s.loadOver slot) hu _ _
  have hclean : (s.loadOver slot).firstPoison ((s.loadOver slot).setBase slot) setLength = none := hp
  simp only [State.cancelSetLoaded, State.loads_any hl, Bool.not_true, Bool.false_eq_true, if_false]
  rw [← State.loadOver, hsettle, hclean]
  rfl

/-- A load that meets a poisoned word reports it and keeps no copy. -/
theorem State.cancelSetLoaded_poisoned {s : State} {slot a : Nat} (hl : ∃ l ∈ s.duplex.loads, l.slot = slot) (hu : s.mem.upsets = [])
    (hp : s.firstPoison (s.setBase slot) setLength = some a) :
    s.cancelSetLoaded slot
      = ((s.loadOver slot).consumePoison a).raise 0x3C09 (slot + 1) (packData [f8 slot, f32 (a - s.setBase slot)]) := by
  have hsettle : (s.loadOver slot).settle ((s.loadOver slot).setBase slot) setLength = s.loadOver slot :=
    State.settle_none (s := s.loadOver slot) hu _ _
  have hpoison : (s.loadOver slot).firstPoison ((s.loadOver slot).setBase slot) setLength = some a := hp
  simp only [State.cancelSetLoaded, State.loads_any hl, Bool.not_true, Bool.false_eq_true, if_false]
  rw [← State.loadOver, hsettle, hpoison]
  rfl

/-! CANCEL_TRAIN (R198, R199) -/

/-- Training holds its leases. -/
def State.takeTrainLeases (s : State) : State := trainLeases.foldl (fun s r => s.takeLease r (s.functionOwner 2) none none) s

/-- A lease leaves the owner field of the device's functions as it is. -/
@[simp] theorem State.functionOwner_takeLease (s : State) (r owner : Nat) (e : Option Nat) (m : Option Master) (fn : Nat) :
    (s.takeLease r owner e m).functionOwner fn = s.functionOwner fn := rfl

/-- Leases taken one after the other by a function of the device have one owner. -/
theorem State.foldl_takeLease_owner {fn owner : Nat} (l : List Nat) {m : State} (h : m.functionOwner fn = owner) :
    l.foldl (fun s r => s.takeLease r (s.functionOwner fn) none none) m = l.foldl (fun s r => s.takeLease r owner none none) m := by
  induction l generalizing m with
  | nil => rfl
  | cons r l ih => rw [List.foldl_cons, List.foldl_cons, h, ih (by rw [State.functionOwner_takeLease, h])]

/-- Training's leases are the device's own (Table 11.10). -/
theorem State.takeTrainLeases_eq (m : State) :
    m.takeTrainLeases = trainLeases.foldl (fun s r => s.takeLease r (m.functionOwner 2) none none) m :=
  State.foldl_takeLease_owner trainLeases rfl

@[simp] theorem State.takeTrainLeases_host (s : State) : s.takeTrainLeases.host = s.host :=
  foldl_same (g := State.host) (f := fun s r => s.takeLease r (s.functionOwner 2) none none) (fun _ _ => rfl) _ _
@[simp] theorem State.takeTrainLeases_reset (s : State) : s.takeTrainLeases.reset_ = s.reset_ :=
  foldl_same (g := State.reset_) (f := fun s r => s.takeLease r (s.functionOwner 2) none none) (fun _ _ => rfl) _ _

/-- Training in Calibrate, of a slot neither in service nor selected, within R198's fields, in time, and with its resources free, is accepted. -/
theorem State.cancelTrain_takes {m : State} {l : List Byte} (hm : m.mode = 3) (ht : m.duplex.train = none) (hs : fieldLE l 0 1 < 2)
    (hi : m.rd Ix.CancelSetState (fieldLE l 0 1 + 1) ≠ 2) (hn : m.setNamed (fieldLE l 0 1) = false) (h14 : 14 ≤ fieldLE l 1 1)
    (he : m.epochOk (fieldLE l 8 8) = true) (hb : m.beyondLimit (epochOfEntry (fieldLE l 8 8)) = false)
    (hc : epLe m.earliestCommit (epochOfEntry (fieldLE l 8 8)) = true) (hl : ∀ r ∈ trainLeases, m.leaseOf r = none) :
    m.cancelTrain l = .ok { m.takeTrainLeases with duplex := { m.takeTrainLeases.duplex with
      train := some ⟨fieldLE l 0 1, fieldLE l 1 1, epochOfEntry (fieldLE l 8 8), 0⟩ } } := by
  have hidle : ¬(m.mode ≠ 3 ∨ m.duplex.train.isSome) := by simp [hm, ht]
  have hunused : ¬(fieldLE l 0 1 < 2 ∧ (m.rd Ix.CancelSetState (fieldLE l 0 1 + 1) = 2 ∨ m.setNamed (fieldLE l 0 1))) := by simp [hi, hn]
  have hepoch : ¬(!m.epochOk (fieldLE l 8 8) || m.beyondLimit (epochOfEntry (fieldLE l 8 8))) := by simp [he, hb]
  have hlate : ¬(!epLe m.earliestCommit (epochOfEntry (fieldLE l 8 8))) := by simp [hc]
  have hfree : trainLeases.findSome? m.leaseOf = none := List.findSome?_eq_none_iff.2 hl
  simp only [State.cancelTrain, if_neg hidle, if_neg hunused, if_neg (Nat.not_le.2 hs), if_neg (Nat.not_lt.2 h14), if_neg hepoch,
    if_neg hlate, hfree, State.takeTrainLeases]

/-- An accepted training ends the command. -/
theorem exec_cancelTrain {s t : State} {w : Caller} {l : List Byte} (ho : s.OrdersRecord w Ix.CancelTrain l)
    (hq : (s.met w.port).cancelTrain l = .ok t) (hh : t.host = (s.met w.port).host) (hr : t.reset_ = (s.met w.port).reset_) :
    exec (.cancelTrain w l) s = .next (t.govDemand.endedRecord w Ix.CancelTrain l) := by
  have hwrite : (s.met w.port).writeDomain Ix.CancelTrain 0 w.port l = .ok t.govDemand := by
    simp only [State.writeDomain, Ix.CancelTrain, hq, State.thenDemand, Except.map]
  exact congrArg Host.Outcome.next (ho.runSame rfl (by decide) hwrite (by rw [State.govDemand_host, hh]) (by rw [State.govDemand_reset, hr]))

/-! CANCEL_TRAIN_START (R199) -/

/-- The first stage begins, and the slot's earlier copy is dropped. -/
def State.trainOpened (s : State) (x : TrainSys) : State :=
  { s with duplex := { s.duplex with train := some { x with stage := 1 }, copies := tdel x.slot s.duplex.copies } }

/-- At START the slot is opened, empty but for the receive gains, and the first stage begins. -/
theorem State.cancelTrainStart_opens {s : State} {x : TrainSys} (hx : s.duplex.train = some x) (h0 : x.stage = 0)
    (he : epLe x.start s.epoch = true) :
    s.cancelTrainStart = (((((s.trainOpened x).zeroRange (s.setBase x.slot) setLength).ownBytes (s.setBase x.slot + 128)
      (allPaths.map (fun p => BitVec.ofNat 8 (s.rd Ix.RxGainFixed (p + 1))))).wr Ix.CancelSetState (x.slot + 1) 0).wr
        Ix.CancelTrainState 0 1) := by
  simp only [State.cancelTrainStart, hx, if_pos (And.intro h0 he)]
  rfl

/-! A part `g` of the state that memory, the counters and the events do not enter into stands through a device's own writes. -/

section
variable {β : Type} {g : State → β} (hm : ∀ s x, g { s with mem := x } = g s) (hb : ∀ s i u, g (State.bump s i u) = g s)
  (hr : ∀ s code sub data, g (State.raise s code sub data) = g s)
include hm

include hr in
theorem State.reportCorrected_same (s : State) (region : Nat) : g (s.reportCorrected region) = g s :=
  ite_ind (P := fun t : State => g t = g s) rfl ((hr _ _ _ _).trans (hm _ _))

include hb

theorem State.logEcc_same (s : State) (addr region syndrome kind : Nat) : g (s.logEcc addr region syndrome kind) = g s := by
  unfold State.logEcc
  split
  · exact hm _ _
  · dsimp only
    split
    · exact hm _ _
    · split
      · exact hm _ _
      · exact hb _ _ _

include hr

theorem State.countCorrected_same (s : State) (addr region syndrome kind : Nat) : g (s.countCorrected addr region syndrome kind) = g s :=
  calc g (s.countCorrected addr region syndrome kind)
    _ = g (State.logEcc _ addr region syndrome kind) := State.reportCorrected_same hm hr _ _
    _ = g { s.bump Ix.EccCorrected region with mem := _ } := State.logEcc_same hm hb _ _ _ _ _
    _ = g s := (hm _ _).trans (hb _ _ _)

theorem State.countUncorrectable_same (s : State) (addr region syndrome : Nat) : g (s.countUncorrectable addr region syndrome) = g s :=
  ((hr _ _ _ _).trans (State.logEcc_same hm hb _ _ _ _ _)).trans (hb _ _ _)

theorem State.meetUpset_same (s : State) (a : Nat) : g (s.meetUpset a) = g s := by
  unfold State.meetUpset
  split
  · split
    · exact (State.countCorrected_same hm hb hr _ _ _ _ _).trans (hm _ _)
    · split
      · rfl
      · exact (State.countUncorrectable_same hm hb hr _ _ _ _).trans ((hm _ _).trans (hm _ _))
  · rfl

theorem State.ownBytes_same (s : State) (a : Nat) (l : List Byte) : g (s.ownBytes a l) = g s :=
  ((hm _ _).trans (hm _ _)).trans
    (foldl_same (fun t _ => ite_ind (P := fun v : State => g v = g t) rfl (State.meetUpset_same hm hb hr t _)) _ s)

end

@[simp] theorem State.ownBytes_dom (s : State) (a : Nat) (l : List Byte) : (s.ownBytes a l).dom = s.dom :=
  State.ownBytes_same (g := State.dom) (fun _ _ => rfl) State.bump_dom State.raise_dom s a l

/-- A device's own write leaves what the Catalogue itself holds. -/
@[simp] theorem State.ownBytes_domVal (s : State) (a : Nat) (l : List Byte) (index sub : Nat) :
    (s.ownBytes a l).domVal index sub = s.domVal index sub := by
  simp only [State.domVal, State.ownBytes_dom]

/-! CANCEL_TRAIN_STAGE_DONE (R199, R200) -/

/-- What a stage solved, in the slot under training: its coefficients and the tiles it chose. -/
def State.stageStored (s : State) (x : TrainSys) (r : TrainResult) : State :=
  r.tiles.foldl (fun t c => t.ownBytes (s.setBase x.slot + c.1 % setLength) (leBytes 1 c.2))
    (r.coefs.foldl (fun t c => t.ownBytes (s.setBase x.slot + c.1 % setLength) (cplxBytes c.2)) s)

/-- A trained slot has the header of Table 8.2 and the subbands in force, and the figures of its verification are shown (R200). -/
def State.verified (t : State) (b : Nat) (r : TrainResult) : State :=
  r.figures.foldl State.verifyPath ((t.ownBytes b t.setHeader).ownBytes (b + 64) (t.domVal Ix.FlexSubbands 0))

/-- Training is over and holds no lease. -/
def State.trainOver (s : State) : State := ({ s with duplex := { s.duplex with train := none } } : State).freeTrainLeases

/-- CANCEL_TRAIN_DONE's data: the slot and the lowest figures of A and D. -/
def State.trainReport (t : State) (slot : Nat) (r : TrainResult) : Nat :=
  packData [f8 slot, f16 (ofInt 16 (t.lowestFigure (r.figures.map (·.2.1)))), f16 (ofInt 16 (t.lowestFigure (r.figures.map (·.2.2.1))))]

/-- A stage before the last stores what it solved, and the next begins. -/
theorem State.trainStageDone_next {s : State} {x : TrainSys} {r : TrainResult} (hx : s.duplex.train = some x) (h0 : x.stage ≠ 0)
    (h4 : x.stage < 4) (hp : r.poison = false) (hl : r.level = true) :
    s.trainStageDone r = ({ s.stageStored x r with duplex := { (s.stageStored x r).duplex with
      train := some { x with stage := x.stage + 1 } } } : State).wr Ix.CancelTrainState 0 (x.stage + 1) := by
  simp only [State.trainStageDone, hx, if_neg h0, hp, hl, Bool.not_true, Bool.false_eq_true, if_false, if_pos h4]
  rfl

/-- Verification, the last stage, seals the slot, frees the leases and reports the lowest figures. -/
theorem State.trainStageDone_seals {s u v : State} {x : TrainSys} {r : TrainResult} (hx : s.duplex.train = some x) (h4 : x.stage = 4)
    (hp : r.poison = false) (hl : r.level = true) (hv : v = ((s.stageStored x r).verified (s.setBase x.slot) r).trainOver)
    (hn : v.setNamed x.slot = false) (hu : u = (v.wr Ix.CancelSetState (x.slot + 1) 1).wr Ix.CancelTrainState 0 5) :
    s.trainStageDone r = u.raise 0x3C01 0 (u.trainReport x.slot r) := by
  have hbegun : x.stage ≠ 0 := by omega
  have hlast : ¬x.stage < 4 := by omega
  have hseal : v.sealSet x.slot = v.wr Ix.CancelSetState (x.slot + 1) 1 := if_neg (ne_true_of_eq_false hn)
  rw [hu, ← hseal, hv]
  simp only [State.trainStageDone, hx, if_neg hbegun, hp, hl, Bool.not_true, Bool.false_eq_true, if_false, if_neg hlast]
  rfl

/-- A failing training leaves its slot open, frees its leases and reports the stage and the reason. -/
theorem State.trainFails_reports {s : State} {x : TrainSys} (hx : s.duplex.train = some x) (reason : Nat) :
    s.trainFails reason = (((s.trainOver.wr Ix.CancelSetState (x.slot + 1) 0).wr Ix.CancelTrainState 0 6).raise 0x3C02 0
      (packData [f8 x.stage, f8 reason])) := by
  simp only [State.trainFails, hx]
  rfl

/-- A stage whose read was poisoned, or else whose captures held no usable level, fails the training. -/
theorem State.trainStageDone_fails {s : State} {x : TrainSys} {r : TrainResult} (hx : s.duplex.train = some x) (h0 : x.stage ≠ 0)
    (hr : r.poison = true ∨ r.level = false) : s.trainStageDone r = s.trainFails (if r.poison then 3 else 4) := by
  simp only [State.trainStageDone, hx, if_neg h0]
  cases hp : r.poison with
  | true => rfl
  | false =>
    have hl : r.level = false := hr.resolve_left (ne_true_of_eq_false hp)
    simp only [hl, Bool.not_false, if_true, Bool.false_eq_true, if_false]

/-! CANCEL_TRACK_READY (R203) -/

/-- The turn goes to the next course, and an update waits for the first slot two epochs on, with the sequence of the set it was measured with. -/
def State.trackDue (s : State) (bytes : Tab Byte) (edges : List (Nat × Nat)) : State :=
  { s with duplex := { s.duplex with nextCourse := (s.duplex.nextCourse + 1) % 4,
                                     due := some ⟨s.slotTwoEpochsOn, s.duplex.seq, bytes, edges⟩ } }

/-- The turn of the courses does not enter into the slot that an update waits for. -/
theorem State.linTarget_nextCourse (s : State) (c : Nat) :
    ({ s with duplex := { s.duplex with nextCourse := c } } : State).linTarget = s.slotTwoEpochsOn :=
  State.slotTwoEpochsOn_congr rfl rfl rfl rfl rfl

/-- The turn of the courses does not enter into the edge that a step meets. -/
theorem State.trackEdge_nextCourse (s : State) (c p : Nat) (trained old new : List Cplx) :
    ({ s with duplex := { s.duplex with nextCourse := c } } : State).trackEdge p trained old new = s.trackEdge p trained old new := rfl

/-- Nor into whether a path's tracking is frozen. -/
theorem State.trackFrozen_nextCourse (s : State) (c p : Nat) :
    ({ s with duplex := { s.duplex with nextCourse := c } } : State).trackFrozen p = s.trackFrozen p := rfl

/-- Where tracking is on and a set in service, what the captures give waits for its slot. -/
theorem State.trackReady_commits {s : State} (ha : s.rd Ix.CancelAdapt 0 = 1) (hs : s.setInService ≠ none) (solves : List TrackSolve) :
    ∃ bytes edges, s.trackReady solves = s.trackDue bytes edges := by
  have hruns : ¬(s.rd Ix.CancelAdapt 0 ≠ 1 ∨ s.setInService.isNone) := by simp [ha, hs]
  simp only [State.trackReady, if_neg hruns, State.linTarget_nextCourse, State.trackDue]
  exact ⟨_, _, rfl⟩

/-- The bytes of a path's and subband's coefficients, by their offset in the set (Table 8.2). -/
def trackBytes (y : TrackSolve) (coefs : List Cplx) : Tab Byte :=
  (coefs.flatMap cplxBytes).zipIdx.map (fun b => (4608 + 1024 * (8 * y.path + y.subband) + b.2, b.1))

/-- One solve of the course in turn that meets no edge at the whole step is committed with the whole step. -/
theorem State.trackReady_whole {s : State} {y : TrackSolve} {old : List Cplx} (ha : s.rd Ix.CancelAdapt 0 = 1) (hs : s.setInService ≠ none)
    (hc : courseOf y.path = s.duplex.nextCourse) (hb : y.subband < 8) (hl : y.coefs.length = 256) (hf : s.trackFrozen y.path = false)
    (ho : old = coefsOf s.duplex.current y.path y.subband)
    (he : s.trackEdge y.path (coefsOf s.duplex.trained y.path y.subband) old (trackMove 64 old y.coefs) = 0) :
    ∃ edges, s.trackReady [y] = s.trackDue (trackBytes y (trackMove 64 old y.coefs)) edges := by
  have hruns : ¬(s.rd Ix.CancelAdapt 0 ≠ 1 ∨ s.setInService.isNone) := by simp [ha, hs]
  have hwhole : alphas.find? (fun a => s.trackEdge y.path (coefsOf s.duplex.trained y.path y.subband) old (trackMove a old y.coefs) == 0)
      = some 64 := List.find?_cons_of_pos (by rw [he]; rfl)
  subst ho
  simp only [State.trackReady, if_neg hruns, State.trackEdge_nextCourse, State.trackFrozen_nextCourse, hc, hl, hf, decide_eq_true hb,
    beq_self_eq_true, Bool.not_false, Bool.and_self, List.filter_cons_of_pos, List.filter_nil, List.filterMap_cons, hwhole,
    List.filterMap_nil, List.flatMap_cons, List.flatMap_nil, List.append_nil, State.linTarget_nextCourse, State.trackDue, trackBytes]
  exact ⟨_, rfl⟩

/-- Settles O25, command by command: what each does where its condition holds is the lemma named for it. Of the seal, only the case in which no
commit selects the slot is stated; the slot of a tracking update leaves two whole epochs between, as log entry 15 reads R203, and the coefficients
of training and tracking are operands (log entry 21). -/
theorem cancellerSetsAreTrainedAndLoaded : Obligations.CancellerSetsAreTrainedAndLoaded := by
  unfold Obligations.CancellerSetsAreTrainedAndLoaded
  refine ⟨?passes, ?fails, ?loaded, ?train, ?start, ?stage, ?verification, ?failure, ?track, ?whole⟩
  case passes =>
    rintro s n w slot rfl hd ho hs hi hc hn
    exact exec_cancelSetSeal hd ho hs hi (State.cancelSetSeal_passes hs hi hc hn) (by simp) (by simp)
  case fails =>
    rintro s n w slot off rfl hd ho hs hi hc
    exact exec_cancelSetSeal hd ho hs hi (State.cancelSetSeal_fails hs hi hc) (by simp) (by simp)
  case loaded =>
    rintro s t slot hl hu rfl
    exact ⟨fun hp => congrArg Host.Outcome.next (State.cancelSetLoaded_clean hl hu hp),
      fun a hp => congrArg Host.Outcome.next (State.cancelSetLoaded_poisoned hl hu hp)⟩
  case train =>
    rintro s m t w l slot symbols start rfl ho rfl rfl rfl hm ht hs hi hn h14 he hb hc hl rfl
    rw [← State.takeTrainLeases_eq]
    exact exec_cancelTrain ho (State.cancelTrain_takes hm ht hs hi hn h14 he hb hc hl) (State.takeTrainLeases_host _)
      (State.takeTrainLeases_reset _)
  case start =>
    rintro s t x b hx h0 he rfl rfl
    exact congrArg Host.Outcome.next (State.cancelTrainStart_opens hx h0 he)
  case stage =>
    rintro s t x b r hx h0 h4 hp hl rfl rfl
    exact congrArg Host.Outcome.next (State.trainStageDone_next hx h0 h4 hp hl)
  case verification =>
    rintro s t a u v x b r hx h4 hp hl rfl rfl rfl rfl hv hn
    rw [State.ownBytes_domVal] at hv
    exact ⟨_, congrArg Host.Outcome.next (State.trainStageDone_seals hx h4 hp hl hv hn rfl)⟩
  case failure =>
    rintro s t x r hx h0 hr rfl
    exact congrArg Host.Outcome.next ((State.trainStageDone_fails hx h0 hr).trans (State.trainFails_reports hx _))
  case track =>
    intro s solves ha hs
    obtain ⟨bytes, edges, hdue⟩ := State.trackReady_commits ha hs solves
    exact ⟨_, _, congrArg Host.Outcome.next hdue, rfl, rfl, rfl, rfl⟩
  case whole =>
    intro s y old ha hs hc hb hl hf ho he
    obtain ⟨edges, hdue⟩ := State.trackReady_whole ha hs hc hb hl hf ho he
    exact ⟨_, _, congrArg Host.Outcome.next hdue, rfl, rfl⟩

end Sys2Proof.Machine
end

section
/-! Sends of the Sync Packet Engine, and the statement of 09_sync_packet_engine.md on them (R206, R217 to R220, R226). -/
namespace Sys2Proof.Machine

/-! SPE_TX_SEND (R217, R218) -/

/-- The instant that a timed record asks the packet's first sample for. -/
def State.sendStart (m : State) (l : List Byte) : Nat := m.tickOf (epochOfEntry (fieldLE l 8 8)) + nsec (fieldLE l 8 8 % 2 ^ 28)

/-- How long the packet of a record is on the air. -/
def State.sendSpan (m : State) (l : List Byte) : Nat := spePacketSamples m.speN (fieldLE l 2 1) (fieldLE l 4 2) * m.speSample

/-- The send that a timed record schedules, with the TIMESTAMP its sync word will leave at. -/
def State.timedSend (m : State) (l : List Byte) : SpeSend :=
  ⟨fieldLE l 0 1 % 4, fieldLE l 1 1, fieldLE l 2 1, fieldLE l 4 2, m.sendStart l, m.sendStart l + m.sendSpan l,
    m.stampFrom (m.sendStart l + 5 * m.speN * m.speSample) 600 (epochOfEntry (fieldLE l 8 8)), 0, 0, false⟩

/-- What R217 asks of a timed record in Listen: an SPE that runs and has no send, fields within Table 9.9, a START that lies ahead, no lease. -/
structure State.TakesSend (m : State) (l : List Byte) : Prop where
  runs : m.speState ≠ 0
  listen : m.mode = 2
  idle : m.spe.send = none
  type : fieldLE l 1 1 ≤ 7
  modulation : fieldLE l 2 1 ≤ 2
  length : fieldLE l 4 2 ≤ 2047
  timed : bitAt (fieldLE l 0 1) 7 = true
  stamp : m.stampOk (fieldLE l 8 8) = true
  ahead : epLe m.epoch (epochOfEntry (fieldLE l 8 8)) = true
  inTime : m.now + usec 20 ≤ m.sendStart l
  free : m.leaseOf 0x300 = none

/-- Listen is no mode of windows (R209). -/
theorem State.windowMode_listen {s : State} (h : s.mode = 2) : windowMode s.mode = false := by
  rw [h]
  rfl

/-- The state admits the record: none of R217's refusals for the state. -/
theorem State.TakesSend.state {m : State} {l : List Byte} (h : m.TakesSend l) : ¬(m.speState = 0 ∨ m.mode = 7 ∨ m.spe.send.isSome) := by
  simp [h.runs, h.listen, h.idle]

/-- The record is not too late. -/
theorem State.TakesSend.notLate {m : State} {l : List Byte} (h : m.TakesSend l) :
    (!epLe m.epoch (epochOfEntry (fieldLE l 8 8)) || decide (m.sendStart l < m.now + usec 20)) = false := by
  rw [h.ahead, decide_eq_false (Nat.not_lt.2 h.inTime)]
  rfl

/-- A timed record that R217 takes is scheduled. -/
theorem State.TakesSend.speTxSend {m : State} {l : List Byte} (h : m.TakesSend l) :
    m.speTxSend l = .ok ((m.setSpe { m.spe with send := some (m.timedSend l) }).wr Ix.SpeTxScheduled 0 (fieldLE l 8 8)) := by
  have hlate := h.notLate
  unfold State.sendStart at hlate
  simp only [State.speTxSend, if_neg h.state, if_neg (Nat.not_lt.2 h.type), if_neg (Nat.not_lt.2 h.modulation), if_neg (Nat.not_lt.2 h.length),
    h.timed, h.stamp, State.windowMode_listen h.listen, hlate, h.free, Bool.not_true, Bool.and_false, Bool.false_and,
    Bool.false_eq_true, if_false, if_true]
  rfl

/-- A scheduled send ends the command. -/
theorem exec_speTxSend {s : State} {w : Caller} {l : List Byte} (ho : s.OrdersRecord w Ix.SpeTxSend l) (h : (s.met w.port).TakesSend l) :
    exec (.speTxSend w l) s = .next (((((s.met w.port).setSpe { (s.met w.port).spe with send := some ((s.met w.port).timedSend l) }).wr
      Ix.SpeTxScheduled 0 (fieldLE l 8 8)).govDemand).endedRecord w Ix.SpeTxSend l) := by
  have hwrite : (s.met w.port).writeDomain Ix.SpeTxSend 0 w.port l
      = .ok (((s.met w.port).setSpe { (s.met w.port).spe with send := some ((s.met w.port).timedSend l) }).wr
        Ix.SpeTxScheduled 0 (fieldLE l 8 8)).govDemand := by
    simp only [State.writeDomain, Ix.SpeTxSend, h.speTxSend, State.thenDemand, Except.map]
  exact congrArg Host.Outcome.next (ho.runSame rfl (by decide) hwrite (by simp) (by simp))

/-! SPE_TX_CANCEL (R220) and SPE_RX_RELEASE (R226) -/

/-- A send that has not left the wait for TX-READY is dropped and reported, and the SPE's state stands. -/
theorem State.speAbort_waiting {s : State} {t : SpeSend} (hs : s.spe.send = some t) (hp : t.phase = 0) (reason : Nat) :
    s.speAbort reason = s.speDropSend.raise 0x4404 0 (packData [f8 t.buffer, f8 reason]) := by
  simp only [State.speAbort, hs, hp, if_true]

theorem State.writeScalar_speTxCancel (m : State) : m.writeScalar Ix.SpeTxCancel 0 1 = .ok (m.speAbort 2) := by
  simp only [State.writeScalar, State.scalarAct, Ix.SpeTxCancel, Option.getD_some, State.speTxCancel, if_true]

theorem State.writeScalar_speRxRelease (m : State) {k : Nat} (hk : k < 8) :
    m.writeScalar Ix.SpeRxRelease 0 k = .ok (m.wrBit Ix.SpeRxPending 0 k false) := by
  have hone : k ≠ 0xFF := by omega
  simp only [State.writeScalar, State.scalarAct, Ix.SpeRxRelease, Option.getD_some, State.speRxRelease, if_neg hone, if_pos hk]

theorem State.writeScalar_speRxRelease_all (m : State) : m.writeScalar Ix.SpeRxRelease 0 0xFF = .ok (m.wr Ix.SpeRxPending 0 0) := by
  simp only [State.writeScalar, State.scalarAct, Ix.SpeRxRelease, Option.getD_some, State.speRxRelease, if_true]

/-! SPE_TX_READY (R218) -/

/-- Without a reception there is none to abandon. -/
theorem State.speAbandonRecv_none {s : State} (h : s.spe.recv = none) (status : Nat) : s.speAbandonRecv status = s := by
  rw [State.speAbandonRecv, h]

/-- A send whose time comes takes an SPE that receives nothing to TX-READY. -/
theorem State.speTxReady_waits {s : State} {t : SpeSend} (hs : s.spe.send = some t) (hp : t.phase = 0) (ht : t.start ≤ s.now + usec 3)
    (hr : s.spe.recv = none) :
    s.speTxReady = (s.setSpe { s.spe with send := some { t with phase := 1 }, cand := none }).wr Ix.SpeState 0 3 := by
  simp only [State.speTxReady, hs, if_pos (And.intro hp ht), State.speAbandonRecv_none hr]

/-! SPE_TX_START (R206, R219) -/

/-- Where the main path's `MismatchFlag` is clear, an SPE outside diversity stays so (R207). -/
theorem State.speDiversity_of_matched {s : State} (hd : s.spe.diversity = false)
    (hm : s.rdB Ix.MismatchFlag (s.rd Ix.SpeMainPath 0 + 1) = false) : s.speDiversity = s := by
  simp only [State.speDiversity, hd, hm, if_true]

/-- The bytes that a send transmits. -/
def sendBuffer (t : SpeSend) : Nat := spe_Base + 0x8000 + 0x800 * t.buffer

/-- The path that a transmission outside diversity uses is shown (R207). -/
def State.antennaMain (s : State) : State := s.wr Ix.SpeAntennaInUse 0 (s.rd Ix.SpeMainPath 0)

/-- A packet leaves, or its time passes muted. -/
def State.packetSent (s : State) (t : SpeSend) (muted : Bool) : State :=
  (s.antennaMain.setSpe { s.spe with
      send := some { t with phase := 2, path := s.rd Ix.SpeMainPath 0, muted := muted },
      air := if muted then [] else speFrame s.speN (s.rd Ix.SpeSyncWord 0) t.length t.typ t.mod (s.bytesAt (sendBuffer t) t.length) }).wr
    Ix.SpeState 0 4

/-- A send in TX-READY whose air time has come, on a matched main path, with no word upset. -/
structure State.SendDue (s : State) (t : SpeSend) : Prop where
  send : s.spe.send = some t
  ready : t.phase = 1
  due : t.start ≤ s.now + usec 2
  single : s.spe.diversity = false
  matched : s.rdB Ix.MismatchFlag (s.rd Ix.SpeMainPath 0 + 1) = false
  sound : s.mem.upsets = []

/-- TX_START goes on with it. -/
theorem State.SendDue.goes {s : State} {t : SpeSend} (h : s.SendDue t) : ¬(t.phase ≠ 1 ∨ s.now + usec 2 < t.start) := by
  simpa [h.ready] using h.due

/-- Outside diversity it uses the main path (R207). -/
theorem State.SendDue.path {s : State} {t : SpeSend} (h : s.SendDue t) : s.speTxPath = s.rd Ix.SpeMainPath 0 := by
  simp only [State.speTxPath, h.single, Bool.false_eq_true, if_false]

/-- A clean buffer is sent where SYNP is locked, and else muted, counted and reported. -/
theorem State.SendDue.speTxStart_clean {s : State} {t : SpeSend} (h : s.SendDue t) (hp : s.firstPoison (sendBuffer t) t.length = none) :
    s.speTxStart = if s.synpLocked then s.packetSent t false
      else ((s.packetSent t true).bump Ix.SpeCounters 0x0D).raise 0x4403 0 (packData [f8 t.buffer]) := by
  have hclean : s.antennaMain.firstPoison (sendBuffer t) t.length = none := hp
  have hword : s.antennaMain.rd Ix.SpeSyncWord 0 = s.rd Ix.SpeSyncWord 0 := State.rd_wr_ne (by decide)
  have hformat : s.antennaMain.rd Ix.SpeFormat 0 = s.rd Ix.SpeFormat 0 := State.rd_wr_ne (by decide)
  have hsize : s.antennaMain.speN = s.speN := by
    unfold State.speN State.rdBit
    rw [hformat]
  have hlocked : s.antennaMain.synpLocked = s.synpLocked := rfl
  simp only [State.speTxStart, h.send, if_neg h.goes, State.speDiversity_of_matched h.single h.matched, h.path, State.settle_none h.sound]
  rw [← State.antennaMain, ← sendBuffer, hclean, hword, hsize, hlocked]
  cases s.synpLocked with
  | true => rfl
  | false => rfl

/-- A poisoned word of the buffer abandons the send. -/
theorem State.SendDue.speTxStart_poisoned {s : State} {t : SpeSend} {x : Nat} (h : s.SendDue t)
    (hp : s.firstPoison (sendBuffer t) t.length = some x) : s.speTxStart = (s.antennaMain.consumePoison x).speAbort 1 := by
  have hpoison : s.antennaMain.firstPoison (sendBuffer t) t.length = some x := hp
  simp only [State.speTxStart, h.send, if_neg h.goes, State.speDiversity_of_matched h.single h.matched, h.path, State.settle_none h.sound]
  rw [← State.antennaMain, ← sendBuffer, hpoison]

/-! SPE_TX_DONE (R219, R220) -/

/-- At the end of its ramp-down a packet that was sent is latched, counted and reported, and the SPE goes to its return state. -/
theorem State.speTxDone_sent {s : State} {t : SpeSend} (hs : s.spe.send = some t) (hp : t.phase = 2) (ht : t.finish + usec 2 ≤ s.now)
    (hm : t.muted = false) : s.speTxDone = ((((s.speDropSend.wr Ix.SpeLastTxTimestamp 0 t.stamp).bump Ix.SpeCounters 0x0C).raise 0x4402 0
      (packData [f8 t.buffer])).speReturn) := by
  have hover : ¬(t.phase ≠ 2 ∨ s.now < t.finish + usec 2) := by simpa [hp] using ht
  simp only [State.speTxDone, hs, if_neg hover, hm, Bool.false_eq_true, if_false, State.speCount]

/-- Settles O26, command by command: a timed record that R217 takes is scheduled (`State.TakesSend.speTxSend`); a send whose air time has come finds
its buffer clean or poisoned (`State.SendDue.speTxStart_clean`, `State.SendDue.speTxStart_poisoned`); what each other command does is the lemma named
for it. -/
theorem speSendsAreScheduledAndRun : Obligations.SpeSendsAreScheduledAndRun := by
  unfold Obligations.SpeSendsAreScheduledAndRun
  refine ⟨?send, ?cancel, ?release, ?releaseAll, ?ready, ?start, ?done⟩
  case send =>
    rintro s m w l t startV start span rfl ho hs hm hi htype hmod hlen htimed rfl hstamp hahead rfl htime hfree rfl rfl
    exact exec_speTxSend ho ⟨hs, hm, hi, htype, hmod, hlen, htimed, hstamp, hahead, htime, hfree⟩
  case cancel =>
    rintro s m w t rfl ho hs hp
    have hwrite := State.writeScalar_speTxCancel (s.met w.port)
    rw [State.speAbort_waiting hs hp] at hwrite
    exact congrArg Host.Outcome.next (ho.runSame rfl hwrite (by simp) (by simp))
  case release =>
    rintro s m w k rfl ho hk
    exact congrArg Host.Outcome.next (ho.runSame rfl (State.writeScalar_speRxRelease _ hk) (by simp) (by simp))
  case releaseAll =>
    rintro s m w rfl ho
    exact congrArg Host.Outcome.next (ho.runSame rfl (State.writeScalar_speRxRelease_all _) (by simp) (by simp))
  case ready =>
    intro s t hs hp ht hr
    exact congrArg Host.Outcome.next (State.speTxReady_waits hs hp ht hr)
  case start =>
    rintro s n t a p air hs hp ht hd rfl hm rfl hu rfl rfl
    have hdue : s.SendDue t := ⟨hs, hp, ht, hd, hm, hu⟩
    refine ⟨fun hl hc => ?onAir, fun hl hc => ?muted, fun x hx => ?poisoned⟩
    case onAir => exact congrArg Host.Outcome.next ((hdue.speTxStart_clean hc).trans (if_pos hl))
    case muted => exact congrArg Host.Outcome.next ((hdue.speTxStart_clean hc).trans (if_neg (ne_true_of_eq_false hl)))
    case poisoned => exact congrArg Host.Outcome.next (hdue.speTxStart_poisoned hx)
  case done =>
    rintro s n t hs hp ht hm rfl
    exact congrArg Host.Outcome.next (State.speTxDone_sent hs hp ht hm)

end Sys2Proof.Machine
end

section
/-! Detection and synchronisation, and the statement of 09_sync_packet_engine.md on them (R221, R222, R227 to R229). -/
namespace Sys2Proof.Machine

/-! SPE_DETECT (R221, R227, R228) -/

/-- A detection as it is kept: its instant and strength, and the instant its sync symbol would begin. -/
def State.detection (s : State) (d : SpeDetect) : SpeDetection := ⟨s.now, d.metric, s.now + (5 * s.speN - d.into) * s.speSample⟩

/-- A reception that has only its detection, outside diversity. -/
def startedRecv (x : SpeDetection) (p : Nat) : SpeRecv := ⟨x, p, false, false, false, 0, 0, 0, none⟩

/-- Outside diversity the main path is the one in use (R207). -/
theorem State.spePathNow_main {s : State} (hd : s.spe.diversity = false) : s.spePathNow = s.rd Ix.SpeMainPath 0 := by
  simp only [State.spePathNow, hd, Bool.false_eq_true, if_false]

/-- Outside diversity the receiver starts on the main path. -/
theorem State.speStart_main {s : State} (hd : s.spe.diversity = false) (x : SpeDetection) (d : SpeDetect) :
    s.speStart x d = s.antennaMain.setSpe { s.spe with recv := some (startedRecv x (s.rd Ix.SpeMainPath 0)), cand := none } := by
  have hselect : s.speSelect d = (false, s) := by simp only [State.speSelect, hd, Bool.not_false, if_true]
  have hsingle : s.antennaMain.spe.diversity = false := hd
  have hmain : s.antennaMain.rd Ix.SpeMainPath 0 = s.rd Ix.SpeMainPath 0 := State.rd_wr_ne (by decide)
  simp only [State.speStart, hselect, State.spePathNow_main hd]
  have hspe : s.antennaMain.spe = s.spe := rfl
  rw [← State.antennaMain, State.spePathNow_main hsingle, hmain, hspe, hd]
  rfl

/-- In Listen an SPE in RX has the antenna whatever its windows (R209). -/
theorem State.hasAntenna {s : State} (hs : s.speState = 2) (hm : s.mode = 2) :
    ¬(s.speState ≠ 2 ∨ (windowMode s.mode && !s.inSpeWindow s.epoch) = true) := by
  rw [State.windowMode_listen hm]
  simp [hs]

theorem State.speDetect_starts {s : State} (hs : s.speState = 2) (hm : s.mode = 2) (hr : s.spe.recv = none) (d : SpeDetect) :
    s.speDetect d = s.speStart (s.detection d) d := by
  simp only [State.speDetect, if_neg (State.hasAntenna hs hm), hr, State.detection]

/-- Before its sync word a reception gives way to a detection stronger by the capture margin, and is counted. -/
theorem State.speDetect_captures {s : State} {d : SpeDetect} {r : SpeRecv} (hs : s.speState = 2) (hm : s.mode = 2) (hr : s.spe.recv = some r)
    (hy : r.synced = false) (hc : r.det.metric + (s.rd Ix.SpeCaptureMargin 0 : Int) ≤ d.metric) :
    s.speDetect d = (s.bump Ix.SpeCounters 7).speStart (s.detection d) d := by
  simp only [State.speDetect, if_neg (State.hasAntenna hs hm), hr, hy, decide_eq_true hc, Bool.not_false, Bool.and_true, if_true,
    State.detection, State.speCount]

/-- Past its sync word, without late capture, a reception goes on, and the first detection meanwhile is the candidate. -/
theorem State.speDetect_candidate {s : State} {d : SpeDetect} {r : SpeRecv} (hs : s.speState = 2) (hm : s.mode = 2)
    (hr : s.spe.recv = some r) (hy : r.synced = true) (hl : s.rdB Ix.SpeLateCapture 0 = false) (hc : s.spe.cand = none) :
    s.speDetect d = s.setSpe { s.spe with cand := some (s.detection d) } := by
  simp only [State.speDetect, if_neg (State.hasAntenna hs hm), hr, hy, hl, hc, Bool.not_true, Bool.and_false, Bool.false_and, Bool.false_eq_true,
    if_false, if_true, State.detection]

/-! SPE_SYNC (R222, R223) and SPE_SYNC_WINDOW_EXPIRY (R222, R229) -/

theorem State.speSync_found {s : State} {f : SpeSyncFound} {r : SpeRecv} (hr : s.spe.recv = some r) (hs : s.speState = 2)
    (hy : r.synced = false) (hw : s.now ≤ s.speWindowEnd r.det.at_ + s.speTs)
    (he : bitErrors f.word (s.rd Ix.SpeSyncWord 0) ≤ s.rd Ix.SpeSyncErrors 0) :
    s.speSync f = s.setSpe { s.spe with recv := some { r with synced := true, stamp := f.stamp % 2 ^ 64, rssi := f.rssi, cfo := f.cfo } } := by
  simp only [State.speSync, hr, hs, hy, hw, he, and_self, if_true]

/-- A false detection with no candidate behind it leaves the receiver armed. -/
theorem State.speFalse_armed {s : State} {r : SpeRecv} (hr : s.spe.recv = some r) (hc : s.spe.cand = none) :
    s.speFalse = s.setSpe { s.spe with recv := none } := by
  simp only [State.speFalse, hr, hc]

/-- A detection that ends as false is counted, by its reason. -/
theorem State.speFalse_counted {s : State} {r : SpeRecv} (hr : s.spe.recv = some r) (hc : s.spe.cand = none) (k : Nat) :
    (s.speCount k).speFalse = (s.bump Ix.SpeCounters k).setSpe { s.spe with recv := none } := by
  have hrecv : (s.speCount k).spe.recv = some r := hr
  rw [State.speFalse_armed hrecv hc]
  rfl

theorem State.speSyncExpiry_false {s : State} {r : SpeRecv} (hr : s.spe.recv = some r) (hy : r.synced = false)
    (hw : s.speWindowEnd r.det.at_ ≤ s.now) (hc : s.spe.cand = none) :
    s.speSyncExpiry = (s.bump Ix.SpeCounters 4).setSpe { s.spe with recv := none } := by
  simp only [State.speSyncExpiry, hr, if_pos (And.intro hy hw), State.speFalse_counted hr hc]

/-- Settles O27: outside diversity a receiver starts on the main path (`State.speStart_main`), be it armed (`State.speDetect_starts`) or captured
before its sync word (`State.speDetect_captures`); what else a detection, a sync word and the end of the window do is the lemma named for it. -/
theorem speDetectsAndSynchronises : Obligations.SpeDetectsAndSynchronises := by
  unfold Obligations.SpeDetectsAndSynchronises
  refine ⟨?detect, ?sync, ?expiry⟩
  case detect =>
    rintro s d x hs hm hd rfl
    refine ⟨fun hr => ?starts, fun r hr hy hc => ?captures, fun r hr hy hl hc => ?candidate⟩
    case starts =>
      refine ⟨_, congrArg Host.Outcome.next ((State.speDetect_starts hs hm hr d).trans (State.speStart_main hd _ d)), ?antenna, rfl⟩
      case antenna => exact State.rd_wr_same s _ _ _
    case captures =>
      have hsingle : (s.bump Ix.SpeCounters 7).spe.diversity = false := hd
      have hmain : (s.bump Ix.SpeCounters 7).rd Ix.SpeMainPath 0 = s.rd Ix.SpeMainPath 0 := State.rd_bump_ne (by decide)
      have hstart := (State.speDetect_captures hs hm hr hy hc).trans (State.speStart_main hsingle _ d)
      refine ⟨_, congrArg Host.Outcome.next hstart, ?counter, ?started⟩
      case counter => exact (State.rd_wr_ne (by decide)).trans (State.rd_bump_same s _ _)
      case started =>
        rw [hmain]
        rfl
    case candidate => exact congrArg Host.Outcome.next (State.speDetect_candidate hs hm hr hy hl hc)
  case sync =>
    intro s f r hr hs hy hw he
    exact congrArg Host.Outcome.next (State.speSync_found hr hs hy hw he)
  case expiry =>
    intro s r hr hy hw hc
    exact congrArg Host.Outcome.next (State.speSyncExpiry_false hr hy hw hc)

end Sys2Proof.Machine
end

section
/-! Reception, diversity and SYNP, and the statement of 09_sync_packet_engine.md on them (R208, R215, R216, R224 to R226). -/
namespace Sys2Proof.Machine

/-! SPE_HEADER (R225) -/

/-- A good header of a packet with a payload is kept. -/
theorem State.speHeaderIn_kept {s : State} {r : SpeRecv} {h : Nat} (hr : s.spe.recv = some r) (hy : r.synced = true) (hn : r.header = none)
    (hlt : h < 2 ^ 32) (hcrc : h % 65536 = speHeaderCrc (bitsOf h 31 16)) (hmod : bitsOf h 17 16 ≠ 3) (hlen : bitsOf h 31 21 ≠ 0) :
    s.speHeaderIn h = s.setSpe { s.spe with recv := some { r with header := some h } } := by
  have hgood : ¬(h % 65536 ≠ speHeaderCrc (bitsOf h 31 16) ∨ bitsOf h 17 16 = 3) := by simp [hcrc, hmod]
  simp only [State.speHeaderIn, hr, hy, hn, Option.isSome_none, Bool.not_true, Bool.or_false, Bool.false_eq_true, if_false, if_neg hgood,
    if_neg hlen, Nat.mod_eq_of_lt hlt]

/-- A bad header is counted and ends the detection as false. -/
theorem State.speHeaderIn_bad {s : State} {r : SpeRecv} {h : Nat} (hr : s.spe.recv = some r) (hy : r.synced = true) (hn : r.header = none)
    (hc : s.spe.cand = none) (hbad : h % 65536 ≠ speHeaderCrc (bitsOf h 31 16) ∨ bitsOf h 17 16 = 3) :
    s.speHeaderIn h = (s.bump Ix.SpeCounters 3).setSpe { s.spe with recv := none } := by
  simp only [State.speHeaderIn, hr, hy, hn, Option.isSome_none, Bool.not_true, Bool.or_false, Bool.false_eq_true, if_false, if_pos hbad,
    State.speFalse_counted hr hc]

/-! SPE_RX (R225, R226) -/

/-- A packet longer than the buffer completes with LEN_OVF and the bytes that fit. -/
theorem State.speRx_overflow {s : State} {r : SpeRecv} {h : Nat} (hr : s.spe.recv = some r) (hh : r.header = some h)
    (hlen : s.rd Ix.SpeRxBufferSize 0 < bitsOf h 31 21) (payload : List Byte) (crc : Nat) :
    s.speRx payload crc = s.speComplete r 2 (sliceBytes payload 0 (s.rd Ix.SpeRxBufferSize 0)) false := by
  simp only [State.speRx, hr, hh, if_pos hlen]

/-- A packet that fits completes with OK or CRC_FAIL, as its CRC-32 says. -/
theorem State.speRx_fits {s : State} {r : SpeRecv} {h : Nat} (hr : s.spe.recv = some r) (hh : r.header = some h)
    (hlen : bitsOf h 31 21 ≤ s.rd Ix.SpeRxBufferSize 0) (payload : List Byte) (crc : Nat) :
    s.speRx payload crc = if crc = speCrc32 (sliceBytes payload 0 (bitsOf h 31 21))
      then s.speComplete r 0 (sliceBytes payload 0 (bitsOf h 31 21)) true
      else s.speComplete r 1 (sliceBytes payload 0 (bitsOf h 31 21)) false := by
  by_cases hcrc : crc = speCrc32 (sliceBytes payload 0 (bitsOf h 31 21))
  case pos => simp only [State.speRx, hr, hh, if_neg (Nat.not_lt.2 hlen), beq_iff_eq.2 hcrc, if_pos hcrc, if_true]
  case neg => simp only [State.speRx, hr, hh, if_neg (Nat.not_lt.2 hlen), beq_eq_false_iff_ne.2 hcrc, if_neg hcrc, Bool.false_eq_true, if_false]

/-- A device's own write leaves the SPE's own record. -/
@[simp] theorem State.ownBytes_spe (s : State) (a : Nat) (l : List Byte) : (s.ownBytes a l).spe = s.spe :=
  State.ownBytes_same (g := State.spe) (fun _ _ => rfl) State.bump_spe State.raise_spe s a l

/-- A packet heard outside diversity goes to the slot behind the last, where that is free, which becomes pending and is reported. -/
theorem State.speStore_next {s : State} {r : SpeRecv} {k : Nat} (hd : r.diversity = false) (hc : s.speByCal = false)
    (hk : k = (s.spe.lastSlot + 1) % 8) (hfree : s.rdBit Ix.SpeRxPending 0 k = false) (status : Nat) (payload : List Byte) :
    s.speStore r status payload
      = (((((s.ownBytes (spe_Base + 0x1000 * k) (s.speRecord r status payload.length)).ownBytes (spe_Base + 0x1000 * k + 0x40) payload).setSpe
          { s.spe with lastSlot := k, written := s.spe.written + 1 }).wrBit Ix.SpeRxPending 0 k true).raise 0x4401 0
        (packData [f8 k, f8 status, f16 (bitsOf (r.header.getD 0) 31 21)])) := by
  have hnext : ((List.range 8).map (fun j => (s.spe.lastSlot + 1 + j) % 8)).find? (fun j => !s.rdBit Ix.SpeRxPending 0 j) = some k := by
    rw [show List.range 8 = 0 :: [1, 2, 3, 4, 5, 6, 7] by rfl, List.map_cons, Nat.add_zero, ← hk]
    exact List.find?_cons_of_pos (by rw [hfree]; rfl)
  simp only [State.speStore, hd, hc, Bool.false_eq_true, if_false, hnext, State.ownBytes_spe]

/-! SPE_DIVERSITY_DWELL (R208) -/

/-- An armed receiver in diversity turns to the other alternate after its dwell. -/
theorem State.speDwell_turns {s t : State} (hs : s.speState = 2) (hd : s.spe.diversity = true) (hr : s.spe.recv = none)
    (hw : s.spe.dwellAt + 3 * s.speN / 4 * s.speSample ≤ s.now)
    (ht : t = s.setSpe { s.spe with alt := 1 - s.spe.alt, dwellAt := s.now }) :
    s.speDwell = t.wr Ix.SpeAntennaInUse 0 (s.rd Ix.SpeAltPath (1 - s.spe.alt + 1)) := by
  have hturns : s.speState = 2 ∧ s.spe.diversity = true ∧ s.spe.recv.isNone = true
      ∧ s.elapsed s.spe.dwellAt (3 * s.speN / 4 * s.speSample) = true := ⟨hs, hd, by rw [hr]; rfl, State.elapsed_of_le hw⟩
  have hpath : t.spePathNow = s.rd Ix.SpeAltPath (1 - s.spe.alt + 1) := by
    rw [ht]
    exact if_pos hd
  simp only [State.speDwell, if_pos hturns]
  rw [← ht, hpath]

/-! SPE_CFO_MOVE (R224) -/

/-- What SYNP holds after a move of `ppb`: no more than the step allows, and within the range. -/
def State.cfoMoved (s : State) (ppb : Int) : Int :=
  clampInt (-(s.rd Ix.SpeCfoRange 0 : Int)) (s.rd Ix.SpeCfoRange 0)
    (s.rdI 32 Ix.SpeCfoApplied 0 + clampInt (-(s.rd Ix.SpeCfoStepMax 0 : Int)) (s.rd Ix.SpeCfoStepMax 0) ppb)

/-- A move due is made within its limits, and reported where one of them reduced it. -/
theorem State.speCfoMove_due {s t : State} {at_ : Nat} {ppb : Int} (hm : s.spe.move = some (at_, ppb)) (ha : at_ ≤ s.now)
    (ht : t = (s.setSpe { s.spe with move := none, settleUntil := s.now + usec 4 }).wrI 32 Ix.SpeCfoApplied 0 (s.cfoMoved ppb)) :
    s.speCfoMove = if s.cfoMoved ppb = s.rdI 32 Ix.SpeCfoApplied 0 + ppb then t
      else t.raise 0x4406 0 (packData [fI32 (s.cfoMoved ppb)]) := by
  simp only [State.speCfoMove, hm, if_neg (Nat.not_lt.2 ha), ne_eq, ite_not]
  rw [ht]
  rfl

/-! SYNP_LOCK (R205, R215) -/

/-- Where it may run, an SPE that is OFF goes to its return state when SYNP locks. -/
theorem State.synpLock_returns {s : State} {since : Nat} (hl : s.spe.lockSince = some since) (hs : s.speState = 0)
    (ha : s.speAllowed = true) : s.synpLock = (s.setSpe { s.spe with locked := true, lockSince := none }).speReturn := by
  have hoff : (s.setSpe { s.spe with locked := true, lockSince := none }).speState = 0 := hs
  have hmay : (s.setSpe { s.spe with locked := true, lockSince := none }).speAllowed = true := ha
  simp only [State.synpLock, hl, hoff, hmay, decide_true, Bool.and_true, if_true]

/-- Settles O28, command by command: what each does where its condition holds is the lemma named for it, and where a completed packet goes is
`State.speStore_next`. Of the slots, only the case in which the one behind the last is free is stated, of headers those of packets with a payload. -/
theorem speReceivesAndFollows : Obligations.SpeReceivesAndFollows := by
  unfold Obligations.SpeReceivesAndFollows
  refine ⟨?header, ?badHeader, ?packet, ?store, ?dwell, ?move, ?lock⟩
  case header =>
    intro s r h hr hy hn hlt hcrc hmod hlen
    exact congrArg Host.Outcome.next (State.speHeaderIn_kept hr hy hn hlt hcrc hmod hlen)
  case badHeader =>
    intro s r h hr hy hn hc hbad
    exact congrArg Host.Outcome.next (State.speHeaderIn_bad hr hy hn hc hbad)
  case packet =>
    rintro s r h len payload crc hr hh rfl
    refine ⟨fun hlen hcrc => ?ok, fun hlen hcrc => ?crcFail, fun hlen => ?overflow⟩
    case ok => exact congrArg Host.Outcome.next ((State.speRx_fits hr hh hlen payload crc).trans (if_pos hcrc))
    case crcFail => exact congrArg Host.Outcome.next ((State.speRx_fits hr hh hlen payload crc).trans (if_neg hcrc))
    case overflow => exact congrArg Host.Outcome.next (State.speRx_overflow hr hh hlen payload crc)
  case store =>
    rintro s n r status payload k hd hc hk hfree rfl
    exact State.speStore_next hd hc hk hfree status payload
  case dwell =>
    intro s n hs hd hr hw hn
    exact congrArg Host.Outcome.next (State.speDwell_turns hs hd hr hw hn)
  case move =>
    rintro s n at_ ppb was moved total hm ha rfl rfl rfl hn
    exact congrArg Host.Outcome.next (State.speCfoMove_due hm ha hn)
  case lock =>
    intro s since hl hs ha
    exact congrArg Host.Outcome.next (State.synpLock_returns hl hs ha)

end Sys2Proof.Machine
end

section
/-! Reset sources, and the statement of 17_reset_boot_identity.md on them (R322, R373 to R378, R381, R416). -/
namespace Sys2Proof.Machine

/-! What is recorded when a source is asserted (R373, R377) -/

/-- The source stands in the reset-cause record, and among the sources held. -/
def State.sourceNoted (s : State) (bit : Nat) : State :=
  { (s.noteReset bit).noteReach bit with reset_ := { ((s.noteReset bit).noteReach bit).reset_ with
    held := s.reset_.held.filter (fun h => h.bit != bit) ++ [⟨bit, s.now, 0⟩] } }

/-- A power-on ends a thermal latch and counts releases anew (R376, R416). -/
def State.powerOnClears (s : State) (bit : Nat) : State :=
  let s := if bit = 0 then { s with therm := { s.therm with latched := false } } else s
  if bit = 0 then (s.wr Ix.ReleaseCount 1 0).wr Ix.ReleaseCount 2 0 else s

/-- The state that an asserted source leaves to the reset. -/
def State.resetNoted (s : State) (bit : Nat) : State := ((s.sourceNoted bit).powerOnClears bit).abortLoad

section
variable {β : Type} {g : State → β} (hw : ∀ s i u v, i = Ix.ReleaseCount ∨ i = Ix.TrimValid → u < 256 → g (State.wr s i u v) = g s)
include hw

theorem State.powerOnClears_same (ht : ∀ s x, g { s with therm := x } = g s) (s : State) (bit : Nat) : g (s.powerOnClears bit) = g s := by
  unfold State.powerOnClears
  split
  · exact (hw _ _ _ _ (.inl rfl) (by decide)).trans ((hw _ _ _ _ (.inl rfl) (by decide)).trans (ht _ _))
  · rfl

theorem State.abortLoad_same (hc : ∀ s x, g { s with cal := x } = g s) (s : State) : g s.abortLoad = g s := by
  unfold State.abortLoad
  split
  · exact ite_ind (P := fun t : State => g t = g s) rfl ((hw _ _ _ _ (.inr rfl) (by decide)).trans (hc _ _))
  · rfl

/-- What neither a power-on nor an aborted load of the trims touches stands as it was noted. -/
theorem State.resetNoted_same (ht : ∀ s x, g { s with therm := x } = g s) (hc : ∀ s x, g { s with cal := x } = g s) (s : State) (bit : Nat) :
    g (s.resetNoted bit) = g (s.sourceNoted bit) :=
  (State.abortLoad_same hw hc _).trans (State.powerOnClears_same hw ht _ _)

end

theorem State.resetNoted_reset (s : State) (bit : Nat) : (s.resetNoted bit).reset_ = (s.sourceNoted bit).reset_ :=
  State.resetNoted_same (g := State.reset_) (fun _ _ _ _ _ _ => rfl) (fun _ _ => rfl) (fun _ _ => rfl) s bit
theorem State.resetNoted_mem (s : State) (bit : Nat) : (s.resetNoted bit).mem = s.mem :=
  State.resetNoted_same (g := State.mem) (fun _ _ _ _ _ _ => rfl) (fun _ _ => rfl) (fun _ _ => rfl) s bit
theorem State.resetNoted_fuse (s : State) (bit : Nat) : (s.resetNoted bit).fuse = s.fuse :=
  State.resetNoted_same (g := State.fuse) (fun _ _ _ _ _ _ => rfl) (fun _ _ => rfl) (fun _ _ => rfl) s bit
theorem State.resetNoted_pending (s : State) (bit : Nat) : (s.resetNoted bit).pending = s.pending :=
  State.resetNoted_same (g := State.pending) (fun _ _ _ _ _ _ => rfl) (fun _ _ => rfl) (fun _ _ => rfl) s bit

/-- The record is as Table 17.3 gives it after the source (R377). -/
theorem State.rd_resetNoted_resetCause (s : State) (bit : Nat) :
    (s.resetNoted bit).rd Ix.ResetCause 0 = causeAfter (s.rd Ix.ResetCause 0) bit := by
  have hother : ∀ (s : State) (i u v : Nat), i = Ix.ReleaseCount ∨ i = Ix.TrimValid → u < 256 →
      (s.wr i u v).rd Ix.ResetCause 0 = s.rd Ix.ResetCause 0 := by
    rintro s i u v (rfl | rfl) hu
    · exact State.rd_wr_ne (ck_ne_index (by decide) hu (by decide))
    · exact State.rd_wr_ne (ck_ne_index (by decide) hu (by decide))
  exact (State.resetNoted_same (g := fun t => t.rd Ix.ResetCause 0) hother (fun _ _ => rfl) (fun _ _ => rfl) s bit).trans
    (State.rd_wr_same s _ _ _)

/-- The source asserted is among those held. -/
theorem State.resetNoted_holds (s : State) (bit : Nat) : (⟨bit, s.now, 0⟩ : ResetSource) ∈ (s.resetNoted bit).reset_.held := by
  rw [State.resetNoted_reset]
  exact List.mem_append_right _ (List.mem_singleton.2 rfl)

/-- With no reset in progress, the reach is that of the source. -/
theorem State.resetNoted_reach {s : State} (h : s.reset_.bootDone = true) (bit : Nat) :
    (s.resetNoted bit).reset_.reach = resetReach bit := by
  have hfresh : ((s.noteReset bit).reset_.bootDone || decide (resetReach bit ≤ (s.noteReset bit).reset_.reach)) = true :=
    Bool.or_eq_true_iff.2 (.inl h)
  rw [State.resetNoted_reset]
  exact if_pos hfresh

/-- The reach of a source is cold up to bit 4 of Table 17.2. -/
theorem resetReach_eq_one (bit : Nat) : resetReach bit = 1 ↔ bit ≤ 4 := by
  unfold resetReach
  split_ifs <;> omega

/-- A source that no latch holds off is noted, and the part is rebuilt for its reach. -/
theorem State.assertSource_eq {s : State} {bit : Nat} (h : ¬(s.therm.latched = true ∧ 1 < bit)) :
    s.assertSource bit = (s.resetNoted bit).rebuilt (decide ((s.resetNoted bit).reset_.reach = 1)) := by
  have hreach : (s.resetNoted bit).reset_ = ((s.sourceNoted bit).powerOnClears bit).reset_ :=
    State.abortLoad_same (g := State.reset_) (fun _ _ _ _ _ _ => rfl) (fun _ _ => rfl) _
  rw [hreach, State.assertSource, if_neg h]
  rfl

/-- A latched thermal shutdown ignores every source but power-on and a brown-out (R416). -/
theorem State.assertSource_latched {s : State} {bit : Nat} (hl : s.therm.latched = true) (hb : 1 < bit) : s.assertSource bit = s :=
  if_pos ⟨hl, hb⟩

/-! The part held in reset (Table 17.1) -/

/-- The part as held, before the values of the Catalogue that outlive the reset are shown. -/
def State.rebuiltParts (s : State) (cold : Bool) : State :=
  { State.reset with
    pending := s.pending, now := s.now, free := s.free, fuse := s.fuse, scan := s.scan, mem := s.mem.surviving cold,
    tb := { tickAt := s.now }, bias := { clears := s.bias.clears % 2 + (if s.therm.latched then 4 else 0) },
    therm := { latched := s.therm.latched },
    ev := { log := if cold then [] else s.ev.log }, power := { archInit := cold || s.power.archInit },
    cal := { shadow := if cold then [] else s.cal.shadow, coldAt := s.cal.coldAt }, reset_ := s.reset_.surviving cold }

/-- Values of the Catalogue are given back by their keys. -/
def State.restoreCat (s : State) (l : List (Nat × Nat)) : State := l.foldl (fun t c => t.wr (c.1 / 256) (c.1 % 256) c.2) s

/-- The domains that drive scanned balls are on. -/
def State.scannedOn (s : State) : State := scannedDomains.foldl (fun t d => t.wr Ix.DomainState (d + 1) 2) s

theorem State.rebuilt_eq (s : State) (cold : Bool) : s.rebuilt cold = if testMode s.scan.ir && !s.therm.latched
    then ((s.rebuiltParts cold).restoreCat (s.survivingCat cold)).scannedOn
    else (s.rebuiltParts cold).restoreCat (s.survivingCat cold) := rfl

/-- What the Catalogue does not enter into is that of the part held. -/
theorem State.rebuilt_same {β : Type} {g : State → β} (hw : ∀ s i u v, g (State.wr s i u v) = g s) (s : State) (cold : Bool) :
    g (s.rebuilt cold) = g (s.rebuiltParts cold) := by
  have hcat : g ((s.rebuiltParts cold).restoreCat (s.survivingCat cold)) = g (s.rebuiltParts cold) := foldl_same (fun _ _ => hw _ _ _ _) _ _
  rw [State.rebuilt_eq]
  exact ite_ind (P := fun t : State => g t = g (s.rebuiltParts cold)) ((foldl_same (fun _ _ => hw _ _ _ _) _ _).trans hcat) hcat

/-- The elements of the domains' states aside, the Catalogue is that of the part held with what outlives the reset. -/
theorem State.rd_rebuilt {i u : Nat} (hu : u < 256) (hi : i ≠ Ix.DomainState) (s : State) (cold : Bool) :
    (s.rebuilt cold).rd i u = ((s.rebuiltParts cold).restoreCat (s.survivingCat cold)).rd i u := by
  have hon : ∀ t : State, t.scannedOn.rd i u = t.rd i u := by
    intro t
    simp only [State.scannedOn, scannedDomains, List.foldl_cons, List.foldl_nil]
    iterate 8 rw [State.rd_wr_ne (ck_ne_index hu (by decide) hi)]
  rw [State.rebuilt_eq]
  exact ite_ind (P := fun t : State => t.rd i u = _) (hon _) rfl

theorem ck_div_mod (k : Nat) : ck (k / 256) (k % 256) = k := Nat.div_add_mod' k 256

theorem State.restoreCat_cons (s : State) (i : Nat) {u : Nat} (hu : u < 256) (v : Nat) (l : List (Nat × Nat)) :
    s.restoreCat ((ck i u, v) :: l) = (s.wr i u v).restoreCat l := by
  have hdiv : ck i u / 256 = i := by
    unfold ck
    omega
  have hmod : ck i u % 256 = u := by
    unfold ck
    omega
  rw [State.restoreCat, List.foldl_cons, hdiv, hmod, State.restoreCat]

/-- An element that is not given back is as it was. -/
theorem State.rd_restoreCat_of_unlisted {i u : Nat} {l : List (Nat × Nat)} (h : ∀ c ∈ l, c.1 ≠ ck i u) (s : State) :
    (s.restoreCat l).rd i u = s.rd i u := by
  induction l generalizing s with
  | nil => rfl
  | cons c l ih =>
    have hne : ck i u ≠ ck (c.1 / 256) (c.1 % 256) := by
      rw [ck_div_mod]
      exact (h c (by simp)).symm
    exact (ih (fun x hx => h x (by simp [hx])) _).trans (State.rd_wr_ne hne)

/-- The elements that a reset may leave besides the reset-cause record (Table 17.1). -/
def survivingKeys : List Nat :=
  [ck Ix.ReleaseCount 1, ck Ix.ReleaseCount 2, ck Ix.LastWakeSource 0, ck Ix.LastWakeEpoch 0, ck Ix.TrimValid 0, ck Ix.TrimCrc 0]

/-- The reset-cause record comes first among what survives. -/
theorem State.survivingCat_eq (s : State) (cold : Bool) :
    ∃ l, s.survivingCat cold = (ck Ix.ResetCause 0, s.rd Ix.ResetCause 0) :: l ∧ ∀ c ∈ l, c.1 ∈ survivingKeys := by
  refine ⟨_, rfl, fun c hc => ?_⟩
  obtain ⟨k, hk, rfl⟩ := List.mem_map.1 hc
  change k ∈ survivingKeys
  clear hc
  revert k
  cases cold
  · decide
  · decide

/-- The record of causes outlives every reset (R377). -/
theorem State.rd_rebuilt_resetCause (s : State) (cold : Bool) : (s.rebuilt cold).rd Ix.ResetCause 0 = s.rd Ix.ResetCause 0 := by
  obtain ⟨l, hl, hkeys⟩ := s.survivingCat_eq cold
  have hothers : ck Ix.ResetCause 0 ∉ survivingKeys := by decide
  rw [State.rd_rebuilt (by decide) (by decide), hl]
  rw [State.restoreCat_cons _ _ (by decide), State.rd_restoreCat_of_unlisted fun c hc he => hothers (he ▸ hkeys c hc), State.rd_wr_same]

/-- The mode is that of a device in reset. -/
theorem State.mode_rebuilt (s : State) (cold : Bool) : (s.rebuilt cold).mode = State.reset.mode := by
  obtain ⟨l, hl, hkeys⟩ := s.survivingCat_eq cold
  have hothers : ck Ix.ModeCurrent 0 ∉ ck Ix.ResetCause 0 :: survivingKeys := by decide
  rw [State.mode, State.rd_rebuilt (by decide) (by decide), State.rd_restoreCat_of_unlisted]
  · rfl
  · rw [hl]
    rintro c hc he
    obtain rfl | hc := List.mem_cons.1 hc
    · exact hothers (List.mem_cons.2 (.inl he.symm))
    · exact hothers (List.mem_cons_of_mem _ (he ▸ hkeys c hc))

theorem State.rebuilt_pending (s : State) (cold : Bool) : (s.rebuilt cold).pending = s.pending :=
  State.rebuilt_same (g := State.pending) (fun _ _ _ _ => rfl) s cold
theorem State.rebuilt_fuse (s : State) (cold : Bool) : (s.rebuilt cold).fuse = s.fuse :=
  State.rebuilt_same (g := State.fuse) (fun _ _ _ _ => rfl) s cold
theorem State.rebuilt_queue (s : State) (cold : Bool) : (s.rebuilt cold).ev.queue = [] :=
  State.rebuilt_same (g := fun t => t.ev.queue) (fun _ _ _ _ => rfl) s cold
theorem State.rebuilt_held (s : State) (cold : Bool) : (s.rebuilt cold).reset_.held = s.reset_.held :=
  State.rebuilt_same (g := fun t => t.reset_.held) (fun _ _ _ _ => rfl) s cold

/-- Of the memories, the flash is left, and the Archive after a warm reset (R322). -/
theorem State.byteAt_rebuilt (s : State) (cold : Bool) (a : Nat) : (s.rebuilt cold).byteAt a
    = if flashBase ≤ a ∨ cold = false ∧ a < 0x100000000 then s.byteAt a else unwrittenByte := by
  have hbytes : (s.rebuilt cold).mem = s.mem.surviving cold := State.rebuilt_same (g := State.mem) (fun _ _ _ _ => rfl) s cold
  rw [State.byteAt, hbytes]
  refine (tget_filter_key unwrittenByte a (fun k => decide (flashBase ≤ k) || (!cold && decide (k < 0x100000000))) s.mem.bytes).trans ?_
  simp [State.byteAt]

/-! A source asserted (R373, R374) -/

section
variable {s : State} {bit : Nat} (h : ¬(s.therm.latched = true ∧ 1 < bit))
include h

/-- A source of cold or warm reach holds the device. -/
theorem State.inReset_assertSource (hb : bit ≤ 9) : (s.assertSource bit).inReset = true := by
  rw [State.assertSource_eq h, State.inReset, State.rebuilt_held]
  exact List.any_eq_true.2 ⟨_, s.resetNoted_holds bit, decide_eq_true hb⟩

theorem State.rd_assertSource_resetCause : (s.assertSource bit).rd Ix.ResetCause 0 = causeAfter (s.rd Ix.ResetCause 0) bit := by
  rw [State.assertSource_eq h, State.rd_rebuilt_resetCause, State.rd_resetNoted_resetCause]

theorem State.mode_assertSource : (s.assertSource bit).mode = State.reset.mode := by
  rw [State.assertSource_eq h, State.mode_rebuilt]

theorem State.assertSource_queue : (s.assertSource bit).ev.queue = [] := by
  rw [State.assertSource_eq h, State.rebuilt_queue]

theorem State.assertSource_fuse : (s.assertSource bit).fuse = s.fuse := by
  rw [State.assertSource_eq h, State.rebuilt_fuse, State.resetNoted_fuse]

theorem State.assertSource_pending : (s.assertSource bit).pending = s.pending := by
  rw [State.assertSource_eq h, State.rebuilt_pending, State.resetNoted_pending]

/-- Every reset leaves the flash. -/
theorem State.byteAt_assertSource_flash {a : Nat} (ha : flashBase ≤ a) : (s.assertSource bit).byteAt a = s.byteAt a := by
  rw [State.assertSource_eq h, State.byteAt_rebuilt, if_pos (.inl ha), State.byteAt_of_mem (State.resetNoted_mem s bit)]

/-- A cold reset loses the Archive, and a warm one keeps it (R322). -/
theorem State.byteAt_assertSource_archive (hb : s.reset_.bootDone = true) {a : Nat} (ha : a < 0x100000000) :
    (s.assertSource bit).byteAt a = if bit ≤ 4 then unwrittenByte else s.byteAt a := by
  have hbelow : ¬flashBase ≤ a := by
    rw [flashBase]
    omega
  have hwarm : decide ((s.resetNoted bit).reset_.reach = 1) = decide (bit ≤ 4) := by
    rw [State.resetNoted_reach hb]
    exact decide_eq_decide.2 (resetReach_eq_one bit)
  rw [State.assertSource_eq h, State.byteAt_rebuilt, hwarm, State.byteAt_of_mem (State.resetNoted_mem s bit)]
  by_cases hcold : bit ≤ 4
  case pos => rw [if_pos hcold, if_neg (by simp [hbelow, hcold])]
  case neg => rw [if_neg hcold, if_pos (by simp [ha, hcold])]

end

/-- The commands that assert a source of their own, whose reach is cold or warm. -/
theorem exec_assertSource {c : Instr} {bit : Nat}
    (h : (c, bit) ∈ [(Instr.powerOn, 0), (.brownOut, 1), (.shadowUncorrectable, 2), (.rstNLow, 5), (.criticalParity, 7)]) (s : State) :
    exec c s = .next (s.assertSource bit) ∧ bit ≤ 9 := by
  simp only [List.mem_cons, List.not_mem_nil, or_false, Prod.mk.injEq] at h
  obtain ⟨rfl, rfl⟩ | ⟨rfl, rfl⟩ | ⟨rfl, rfl⟩ | ⟨rfl, rfl⟩ | ⟨rfl, rfl⟩ := h
  all_goals exact ⟨rfl, by decide⟩

/-- A watchdog not restarted within its period asserts its source (Table 17.2). -/
theorem State.keystoneWatchdog_due {s : State} {since : Nat} (hw : s.reset_.watchdogAt = some since)
    (ht : since + msec (s.rd Ix.WatchdogPeriod 0) ≤ s.now) : s.keystoneWatchdog = s.assertSource 6 := by
  simp only [State.keystoneWatchdog, hw, State.elapsed_of_le ht, if_true]

/-- A reset asked for by a command is asserted 100 µs after the response (R381). -/
theorem State.linkCommandAssert_due {s : State} {since bit : Nat} (hc : s.reset_.dueCmd = some (since, bit))
    (ht : since + usec 100 ≤ s.now) : s.linkCommandAssert = s.assertSource bit := by
  simp only [State.linkCommandAssert, hc, State.elapsed_of_le ht, if_true]

/-- Settles O52: what a source leaves is what it notes (`State.resetNoted`), rebuilt as Table 17.1 gives it (`State.rebuilt_eq`). That the Archive
reads as unwritten from the assertion of a cold reset on is the model's choice (log entry 2; R322 zeroes it at the release), and so is that the
commands that wait stay (log entry 6); that a latched thermal shutdown ignores the sources is R416. -/
theorem resetSourcesHoldTheDevice : Obligations.ResetSourcesHoldTheDevice := by
  unfold Obligations.ResetSourcesHoldTheDevice
  refine ⟨?asserted, ?watchdog, ?command, ?latched⟩
  case asserted =>
    intro s c bit hc hl
    obtain ⟨hexec, hbit⟩ := exec_assertSource hc s
    have h : ¬(s.therm.latched = true ∧ 1 < bit) := fun hboth => Bool.false_ne_true (hl.symm.trans hboth.1)
    exact ⟨_, hexec, State.inReset_assertSource h hbit, State.rd_assertSource_resetCause h, State.mode_assertSource h,
      State.assertSource_queue h, State.assertSource_fuse h, State.assertSource_pending h,
      fun _ ha => State.byteAt_assertSource_flash h ha, fun hb _ ha => State.byteAt_assertSource_archive h hb ha⟩
  case watchdog =>
    intro s since hw ht
    exact congrArg Host.Outcome.next (State.keystoneWatchdog_due hw ht)
  case command =>
    intro s since bit hc ht
    exact congrArg Host.Outcome.next (State.linkCommandAssert_due hc ht)
  case latched =>
    intro s bit hl hb
    exact State.assertSource_latched hl hb

end Sys2Proof.Machine
end

section
/-! Trims, rolling steps and calibration runs, and the statement of 10_calibration.md on them (R231, R239, R240, R248, R249). -/
namespace Sys2Proof.Machine

/-! TRIM_RECHECK (R231) -/

/-- A recheck that finds the shadow as fused shows its CRC. -/
theorem State.trimRecheck_fused {m : State} (hm : m.mode ≠ 0) (hc : trimCrcOf m.cal.shadow = m.fuse.trimCrc) :
    m.trimRecheck 1 = m.wr Ix.TrimCrc 0 (trimCrcOf m.cal.shadow) := by
  have hfused : m.trimCheck.1 = true := beq_iff_eq.2 hc
  simp only [State.trimRecheck, if_pos (And.intro trivial hm), hfused, if_true]
  rfl

/-! CAL_ROLL_STEP (R249) -/

/-- The count to the next step begins anew, and the turn goes to the path behind this one. -/
def State.rollTurn (s : State) (p : Nat) : State :=
  ({ s with cal := { s.cal with slotsLeft := s.rd Ix.CalRollInterval 0 } } : State).wr Ix.CalRollPath 0 ((p + 1) % 64)

/-- A step takes the calibration slot and the observation receiver of its course. -/
def State.rollLeased (s : State) (c : Nat) : State :=
  (s.takeLease 0x500 (s.functionOwner 4) none none).takeLease (0x400 + c) (s.functionOwner 4) none none

/-- A step on a path that begins at a slot boundary and ends at another. -/
def rollStep (kinds p start until_ : Nat) : CalRunSys :=
  { run := 0, array := false, targeted := false, kinds := kinds, paths := 2 ^ p, start := start, rolling := true, until_ := until_ }

/-- A step that is due goes to the next path in use, where its leases are free and its LO is locked. -/
theorem State.calRollStep_due {s : State} {p : Nat} (he : s.rdB Ix.CalRollEnable 0 = true) (hm : rollMode s.mode = true)
    (hl : s.cal.slotsLeft = 0) (hp : s.rollPath = some p) : ∃ until_, s.calRollStep
      = if (s.rollTurn p).leased 0x500 || (s.rollTurn p).leased (0x400 + courseOf p) then (s.rollTurn p).raise 0x4804 0 (packData [f8 p, f8 1])
        else if !(s.rollTurn p).loLocked (courseOf p) then (s.rollTurn p).raise 0x4804 0 (packData [f8 p, f8 2])
        else { (s.rollTurn p).rollLeased (courseOf p) with cal := { ((s.rollTurn p).rollLeased (courseOf p)).cal with
          step := some (rollStep ((s.rollTurn p).rd Ix.CalRollKinds 0) p ((s.rollTurn p).nextSlotStart s.epoch) until_) } } := by
  have hpath : State.rollPath { s with cal := { s.cal with slotsLeft := s.rd Ix.CalRollInterval 0 } } = some p := hp
  simp only [State.calRollStep, he, hm, hl, beq_self_eq_true, Bool.and_self, Bool.not_true, Bool.false_eq_true, if_false, hpath]
  exact ⟨_, rfl⟩

theorem State.rd_rollTurn {s : State} {i u : Nat} (hu : u < 256) (hi : i ≠ Ix.CalRollPath) (p : Nat) :
    (s.rollTurn p).rd i u = s.rd i u :=
  State.rd_wr_ne (ck_ne_index hu (by decide) hi)

theorem State.rollTurn_loLocked (s : State) (p : Nat) {c : Nat} (hc : c < 4) : (s.rollTurn p).loLocked c = s.loLocked c := by
  have hsource : (s.rollTurn p).loSource c = s.loSource c := State.rd_rollTurn (by omega) (by decide) p
  by_cases hs : s.loSource c < 4
  case pos =>
    have hstate : (s.rollTurn p).synState (s.loSource c) = s.synState (s.loSource c) := State.rd_rollTurn (by omega) (by decide) p
    rw [State.loLocked, State.loLocked, hsource, hstate]
  case neg =>
    rw [State.loLocked, State.loLocked, hsource, decide_eq_false hs, Bool.false_and, Bool.false_and]

/-- A turn of the rolling steps leaves the slots to come where they are. -/
theorem State.rollTurn_nextSlotStart (s : State) (p e : Nat) : (s.rollTurn p).nextSlotStart e = s.nextSlotStart e := by
  have hnumerology : (s.rollTurn p).rd Ix.Numerology 0 = s.rd Ix.Numerology 0 := State.rd_rollTurn (by decide) (by decide) p
  have hhost : (s.rollTurn p).host = s.host := rfl
  exact State.nextEpoch_congr hhost hnumerology _

/-- The path whose turn it is exists. -/
theorem State.rollPath_lt {s : State} {p : Nat} (h : s.rollPath = some p) : p < 64 := by
  obtain ⟨i, -, rfl⟩ := List.mem_map.1 (List.mem_of_find?_eq_some h)
  exact Nat.mod_lt _ (by decide)

/-! CAL_RUN (R239, R240) -/

/-- What R239 and R240 ask of a run of this device alone, with a START and no TARGET. -/
structure State.TakesRun (m : State) (l : List Byte) : Prop where
  calibrate : m.mode = 3
  idle : m.cal.run = none
  settled : m.cal.due = []
  trims : m.rd Ix.TrimValid 0 ≠ 0
  flags : fieldLE l 0 1 = 0
  someKind : 1 ≤ fieldLE l 1 1
  kinds : fieldLE l 1 1 < 16
  number : fieldLE l 2 2 ≠ 0
  path : ∃ p < 64, bitAt (fieldLE l 4 8) p = true ∧ m.rd Ix.PathEnable (p + 1) % 4 ≠ 0
  epoch : m.epochOk (fieldLE l 12 8) = true
  within : m.beyondLimit (epochOfEntry (fieldLE l 12 8)) = false
  noTarget : fieldLE l 20 8 = 0
  spare : fieldLE l 28 4 = 0
  window : bitAt (fieldLE l 1 1) 3 = true → m.speInLo = true
  inTime : epLe m.earliestCommit (epochOfEntry (fieldLE l 12 8)) = true
  free : ∀ r ∈ calLeases (fieldLE l 1 1), m.leaseOf r = none

/-- The run that a record asks for. -/
def askedRun (l : List Byte) : CalRunSys :=
  { run := fieldLE l 2 2, array := false, targeted := false, kinds := fieldLE l 1 1, paths := fieldLE l 4 8,
    start := epochOfEntry (fieldLE l 12 8) }

/-- The device holds a run's leases, and shows that it waits for START. -/
def State.runLeased (m : State) (kinds : Nat) : State :=
  ((calLeases kinds).foldl (fun s r => s.takeLease r (m.functionOwner 1) none none) m).wr Ix.CalRunState 0 1

theorem State.runLeased_same {β : Type} {g : State → β} (hl : ∀ s x, g { s with leases := x } = g s)
    (hw : ∀ s v, g (State.wr s Ix.CalRunState 0 v) = g s) (m : State) (kinds : Nat) : g (m.runLeased kinds) = g m :=
  (hw _ _).trans (foldl_same (fun _ _ => hl _ _) _ _)

/-- The run that a record asks for waits for START. -/
def State.runWaits (m : State) (l : List Byte) : State :=
  { m.runLeased (fieldLE l 1 1) with cal := { (m.runLeased (fieldLE l 1 1)).cal with run := some (askedRun l) } }

theorem State.runWaits_same {β : Type} {g : State → β} (hc : ∀ s x, g { s with cal := x } = g s) (hl : ∀ s x, g { s with leases := x } = g s)
    (hw : ∀ s v, g (State.wr s Ix.CalRunState 0 v) = g s) (m : State) (l : List Byte) : g (m.runWaits l) = g m :=
  (hc _ _).trans (State.runLeased_same hl hw _ _)

theorem State.runWaits_host (m : State) (l : List Byte) : (m.runWaits l).host = m.host :=
  State.runWaits_same (g := State.host) (fun _ _ => rfl) (fun _ _ => rfl) (fun _ _ => rfl) m l
theorem State.runWaits_reset (m : State) (l : List Byte) : (m.runWaits l).reset_ = m.reset_ :=
  State.runWaits_same (g := State.reset_) (fun _ _ => rfl) (fun _ _ => rfl) (fun _ _ => rfl) m l

/-- A run that is taken waits for START. -/
theorem State.TakesRun.calRun {m : State} {l : List Byte} (h : m.TakesRun l) : m.calRun l = .ok (m.runWaits l) := by
  have hidle : ¬(m.mode ≠ 3 ∨ (m.cal.run.isSome || m.cal.due.any (fun r => !r.rolling)) = true) := by
    simp [h.calibrate, h.idle, h.settled]
  have harray : bitAt 0 7 = false := rfl
  have hasap : bitAt 0 6 = false := rfl
  have htargeted : bitAt 0 5 = false := rfl
  have hkinds : ¬(fieldLE l 1 1 = 0 ∨ 31 < fieldLE l 1 1 ∨ 16 ≤ fieldLE l 1 1 ∧ True) := by
    have := h.someKind
    have := h.kinds
    omega
  have hpaths : allPaths.all (fun p => !bitAt (fieldLE l 4 8) p || m.rd Ix.PathEnable (p + 1) % 4 == 0) = false := by
    obtain ⟨p, hp, hbit, henabled⟩ := h.path
    exact List.all_eq_false.2 ⟨p, List.mem_range.2 hp, by simp [hbit, henabled]⟩
  have hwindow : (bitAt (fieldLE l 1 1) 3 && !m.speInLo) = false := by
    cases hbit : bitAt (fieldLE l 1 1) 3 with
    | false => rfl
    | true => rw [h.window hbit]; rfl
  have hfree : (calLeases (fieldLE l 1 1)).findSome? m.leaseOf = none := List.findSome?_eq_none_iff.2 h.free
  simp only [State.calRun, h.flags, harray, hasap, htargeted, if_neg hidle, Bool.false_and, Bool.false_eq_true, if_false, if_neg h.trims,
    Nat.zero_mod, ne_eq, not_true_eq_false, if_neg hkinds, if_neg h.number, hpaths, h.epoch, h.within, Bool.not_true, Bool.or_self,
    h.noTarget, bne_self_eq_false, Bool.not_false, Bool.and_false, h.spare, hwindow, h.inTime, hfree]
  rw [State.foldl_takeLease_owner _ rfl]
  rfl

/-- A run that is taken ends the command. -/
theorem exec_calRun {s m : State} {w : Caller} {l : List Byte} (hm : m = s.met w.port) (ho : s.OrdersRecord w Ix.CalRun l)
    (h : m.TakesRun l) : exec (.calRun w l) s = .next ((m.runWaits l).govDemand.endedRecord w Ix.CalRun l) := by
  have hwrite : m.writeDomain Ix.CalRun 0 w.port l = .ok (m.runWaits l).govDemand := by
    simp only [State.writeDomain, Ix.CalRun, h.calRun, State.thenDemand, Except.map]
  subst hm
  exact congrArg Host.Outcome.next (ho.runSame rfl (by decide) hwrite (by rw [State.govDemand_host, State.runWaits_host])
    (by rw [State.govDemand_reset, State.runWaits_reset]))

/-! CAL_RUN_CANCEL (R240) -/

section
variable {β : Type} {g : State → β} (hc : ∀ s x, g { s with cal := x } = g s) (hl : ∀ s x, g { s with leases := x } = g s)
  (hd : ∀ s x, g { s with duplex := x } = g s) (hw : ∀ s i u v, g (State.wr s i u v) = g s)
  (hr : ∀ s code sub data, g (State.raise s code sub data) = g s) (hf : ∀ s pick reason, g (State.failCommits s pick reason) = g s)

include hl in
theorem State.freeCalLeases_same (s : State) (r : CalRunSys) : g (s.freeCalLeases r) = g s :=
  ite_ind (P := fun t : State => g t = g s) ((hl _ _).trans (hl _ _)) (foldl_same (fun _ _ => hl _ _) _ _)

include hw in
theorem State.showCalStale_same (s : State) : g s.showCalStale = g s := foldl_same (fun _ _ => hw _ _ _ _) _ _

include hd hw in
theorem State.calSettled_same (s : State) : g s.calSettled = g s :=
  (foldl_same (fun _ _ => hw _ _ _ _) _ _).trans ((hd _ _).trans (State.showCalStale_same hw s))

include hc hl hd hw hr hf in
/-- What neither calibration, its leases, the Catalogue, the events nor the commits enter into stands when a run fails. -/
theorem State.calFails_same (s : State) (reason : Nat) : g (s.calFails reason) = g s := by
  unfold State.calFails
  dsimp only
  split
  · rfl
  · refine (State.calSettled_same hd hw _).trans ((hf _ _ _).trans ((hr _ _ _ _).trans ((hw _ _ _ _).trans ?_)))
    exact ite_ind (P := fun t : State => g t = g s) ((State.freeCalLeases_same hl _ _).trans (hc _ _)) (hc _ _)

end

theorem State.calFails_stalled (s : State) (reason : Nat) : (s.calFails reason).host.stalled = s.host.stalled :=
  State.calFails_same (g := fun t => t.host.stalled) (fun _ _ => rfl) (fun _ _ => rfl) (fun _ _ => rfl) (fun _ _ _ _ => rfl)
    (fun _ _ _ _ => by simp) State.failCommits_stalled s reason
theorem State.calFails_performing (s : State) (reason : Nat) : (s.calFails reason).host.performing = s.host.performing :=
  State.calFails_same (g := fun t => t.host.performing) (fun _ _ => rfl) (fun _ _ => rfl) (fun _ _ => rfl) (fun _ _ _ _ => rfl)
    (fun _ _ _ _ => by simp) State.failCommits_performing s reason
theorem State.calFails_reset (s : State) (reason : Nat) : (s.calFails reason).reset_ = s.reset_ :=
  State.calFails_same (g := State.reset_) (fun _ _ => rfl) (fun _ _ => rfl) (fun _ _ => rfl) (fun _ _ _ _ => rfl)
    State.raise_reset_ State.failCommits_reset s reason

/-- A cancel fails the run under way, or the one whose results wait, with CANCELLED, and ends the command. -/
theorem exec_calRunCancel {s : State} {w : Caller} (ho : s.Orders w Ix.CalRunCancel 0 1) :
    exec (.calRunCancel w 1) s = .next (((s.met w.port).calFails 2).ended w Ix.CalRunCancel 0 1) := by
  refine congrArg Host.Outcome.next (ho.run rfl rfl ?_ ?_ ?_)
  · rw [State.calFails_stalled, State.met_stalled, ho.attends.alone]
  · rw [State.calFails_performing, State.met_performing, ho.attends.nothing]
  · rw [State.calFails_reset, State.met_reset, ho.attends.booted]

/-! CAL_RUN_START (R240, R248) -/

/-- The run measures, from the course temperatures of this moment. -/
def State.runBegun (s : State) (r : CalRunSys) : State :=
  { s with cal := { s.cal with run := some { r with
    measuring := true, temps := (List.range 4).map (fun c => s.rdI 16 Ix.CalCourseTemp (c + 1)) } } }

/-- With no canceller set in service, what calibration measures makes none of its coefficients stale (R197). -/
theorem State.cancelStaleCal_none {s : State} (h : s.setInService = none) (paths : List Nat) : s.cancelStaleCal paths = s :=
  if_pos (by rw [h]; rfl)

/-- The set in service rests on `CancelSetState`. -/
theorem State.setInService_congr {s t : State} (h : ∀ k < 2, t.rd Ix.CancelSetState (k + 1) = s.rd Ix.CancelSetState (k + 1)) :
    t.setInService = s.setInService :=
  List.find?_congr fun k hk => by rw [h k (List.mem_range.1 hk)]

/-- What calibration shows of the Linearisers does not enter into another entry. -/
theorem State.rd_showCalStale {s : State} {i u : Nat} (hu : u < 256) (hi : i ≠ Ix.LinStatus) : s.showCalStale.rd i u = s.rd i u := by
  refine List.foldlRecOn (motive := fun t : State => t.rd i u = s.rd i u) allPaths _ rfl fun t ht p hp => ?_
  have hsub : p + 1 < 256 := by
    have := List.mem_range.1 hp
    omega
  exact (State.rd_wr_ne (ck_ne_index hu hsub hi)).trans ht

/-- At START the run begins to measure, and the paths it holds are shown. -/
theorem State.calRunStart_begins {s : State} {r : CalRunSys} (hr : s.cal.run = some r) (hm : r.measuring = false)
    (he : epLe r.start s.epoch = true) (hs : s.setInService = none) :
    s.calRunStart = ((s.runBegun r).wr Ix.CalRunState 0 2).showCalStale := by
  have hnone : ((s.runBegun r).wr Ix.CalRunState 0 2).showCalStale.setInService = none := by
    refine (State.setInService_congr fun k hk => ?_).trans hs
    rw [State.rd_showCalStale (by omega) (by decide), State.rd_wr_ne (ck_ne_index (by omega) (by decide) (by decide))]
    rfl
  simp only [State.calRunStart, hr, if_pos (And.intro hm he)]
  exact State.cancelStaleCal_none hnone _

/-- Settles O29, command by command: what each does where its condition holds is the lemma named for it. Of the runs, those of this device alone with
a START and no TARGET are stated; a cancel with nothing to cancel changes nothing, and is answered like any. -/
theorem calibrationRunsAndRechecks : Obligations.CalibrationRunsAndRechecks := by
  unfold Obligations.CalibrationRunsAndRechecks
  refine ⟨?recheck, ?roll, ?run, ?cancel, ?start⟩
  case recheck =>
    rintro s m w rfl ho hm hc
    have hwrite : (s.met w.port).writeScalar Ix.TrimRecheck 0 1 = .ok ((s.met w.port).wr Ix.TrimCrc 0 (trimCrcOf (s.met w.port).cal.shadow)) :=
      congrArg Except.ok (State.trimRecheck_fused hm hc)
    exact congrArg Host.Outcome.next (ho.runSame rfl hwrite (by simp) (by simp))
  case roll =>
    rintro s n p c he hm hl rfl hp rfl
    obtain ⟨until_, hstep⟩ := State.calRollStep_due he hm hl hp
    have hlocked : (s.rollTurn p).loLocked (courseOf p) = s.loLocked (courseOf p) :=
      State.rollTurn_loLocked s p (by have := State.rollPath_lt hp; rw [courseOf]; omega)
    have hfree : s.leased 0x500 = false → s.leased (0x400 + courseOf p) = false →
        ¬((s.rollTurn p).leased 0x500 || (s.rollTurn p).leased (0x400 + courseOf p)) = true := by
      intro h5 h4
      rw [Bool.or_eq_true_iff, not_or]
      exact ⟨ne_true_of_eq_false h5, ne_true_of_eq_false h4⟩
    refine ⟨fun hleased => ?leased, fun h5 h4 hlo => ?unlocked, fun h5 h4 hlo => ?claimed⟩
    case leased => exact congrArg Host.Outcome.next (hstep.trans (if_pos (Bool.or_eq_true_iff.2 hleased)))
    case unlocked =>
      exact congrArg Host.Outcome.next (hstep.trans ((if_neg (hfree h5 h4)).trans (if_pos (by rw [hlocked, hlo]; rfl))))
    case claimed =>
      exact ⟨_, _, congrArg Host.Outcome.next (hstep.trans ((if_neg (hfree h5 h4)).trans (if_neg (by rw [hlocked, hlo]; decide)))), rfl, rfl, rfl,
        State.rd_rollTurn (by decide) (by decide) p, State.rollTurn_nextSlotStart s p _, rfl⟩
  case run =>
    rintro s m t w l kinds paths start hm ho rfl rfl rfl hmode hrun hdue htrims hflags h1 h16 hnumber hpath he hb htarget hspare hwindow hc hl rfl
    exact exec_calRun hm ho ⟨hmode, hrun, hdue, htrims, hflags, h1, h16, hnumber, hpath, he, hb, htarget, hspare, hwindow, hc, hl⟩
  case cancel =>
    rintro s m w rfl ho
    exact exec_calRunCancel ho
  case start =>
    rintro s n r hr hm he hs rfl
    exact congrArg Host.Outcome.next (State.calRunStart_begins hr hm he hs)

end Sys2Proof.Machine
end

section
/-! Measurements and the end of a run, and the statement of 10_calibration.md on them (R232, R237, R240 to R242, R247). -/
namespace Sys2Proof.Machine

/-! CAL_MEASUREMENT_DONE (R241, R242) -/

/-- The run in Calibrate measures, and asked for this measurement of one of its paths. -/
structure State.Asked (s : State) (r : CalRunSys) (x : CalMeasure) : Prop where
  run : s.cal.run = some r
  calibrate : r.rolling = false
  measuring : r.measuring = true
  known : x.kind ∈ [1, 2, 4, 8]
  kind : r.kinds / x.kind % 2 = 1
  range : x.path < 64
  path : bitAt r.paths x.path = true

/-- The ratios of reciprocity, where they are what was measured, rest on enough signal (R237). -/
def State.snrFits (s : State) (x : CalMeasure) : Prop := x.kind = 8 → s.rdI 16 Ix.CalRecipMinSnr 0 ≤ x.snr

theorem State.snrFits.notWeak {s : State} {x : CalMeasure} (h : s.snrFits x) : ¬(x.kind = 8 ∧ x.snr < s.rdI 16 Ix.CalRecipMinSnr 0) :=
  fun hw => absurd (h hw.1) (not_le.2 hw.2)

section
variable {s : State} {r : CalRunSys} {x : CalMeasure} (h : s.Asked r x)
include h

theorem State.Asked.active : s.activeCal = some r := by
  rw [State.activeCal, h.run]
  rfl

theorem State.Asked.setActiveCal {t : CalRunSys} (ht : t.rolling = r.rolling) :
    s.setActiveCal t = { s with cal := { s.cal with run := some t } } := by
  rw [State.setActiveCal, ht, h.calibrate]
  rfl

/-- A measurement that was asked for is looked at. -/
theorem State.Asked.mine : (r.measuring && (x.kind == 1 || x.kind == 2 || x.kind == 4 || x.kind == 8 || x.kind == 16)
    && r.kinds / x.kind % 2 == 1 && (x.kind == 16 || (decide (x.path < 64) && bitAt r.paths x.path))) = true := by
  have hkind := h.known
  simp only [List.mem_cons, List.not_mem_nil, or_false] at hkind
  simp only [h.measuring, h.kind, decide_eq_true h.range, h.path, beq_self_eq_true, Bool.true_and, Bool.and_true, Bool.or_true,
    Bool.or_eq_true, beq_iff_eq]
  omega

theorem State.Asked.ne_sixteen : x.kind ≠ 16 := by
  have hkind := h.known
  simp only [List.mem_cons, List.not_mem_nil, or_false] at hkind
  omega

/-- A poisoned word fails the run (R232). -/
theorem State.Asked.calMeasured_poisoned (hp : x.poison = true) : s.calMeasured x = s.calFails 4 := by
  simp only [State.calMeasured, h.active, h.mine, hp, h.calibrate, Bool.not_true, Bool.false_eq_true, if_false, if_true]

/-- A measurement that lost the LO is repeated, once. -/
theorem State.Asked.calMeasured_lost (hp : x.poison = false) (hl : x.lost = true) : s.calMeasured x
    = if (x.kind, x.path) ∈ r.repeated then s.calReject r x.kind x.path 4 0
      else { s with cal := { s.cal with run := some { r with repeated := r.repeated ++ [(x.kind, x.path)] } } } := by
  simp only [State.calMeasured, h.active, h.mine, hp, hl, Bool.not_true, Bool.false_eq_true, if_false, if_true, List.contains_iff_mem]
  split
  · rfl
  · exact h.setActiveCal rfl

section
variable (hp : x.poison = false) (hl : x.lost = false)
include hp hl

/-- Reciprocity without enough signal is rejected (R237). -/
theorem State.Asked.calMeasured_weak (h8 : x.kind = 8) (hs : x.snr < s.rdI 16 Ix.CalRecipMinSnr 0) :
    s.calMeasured x = s.calReject r 8 x.path 3 x.snr := by
  simp only [State.calMeasured, h.active, h.mine, hp, hl, Bool.not_true, Bool.false_eq_true, if_false, if_pos (And.intro h8 hs)]

/-- Two results that disagree are rejected (R241). -/
theorem State.Asked.calMeasured_disagrees (hs : s.snrFits x) (hprofile : s.rd Ix.CalProfile 0 = 0) (hd : s.disagreements x ≠ []) :
    s.calMeasured x = s.calReject r x.kind x.path 1 (worstOf (s.disagreements x)) := by
  have hbad : (!(s.disagreements x).isEmpty) = true := by simpa using hd
  have hnative : ¬(s.rd Ix.CalProfile 0 = 1 ∧ x.kind ≠ 16) := by simp [hprofile]
  simp only [State.calMeasured, h.active, h.mine, hp, hl, Bool.not_true, Bool.false_eq_true, if_false, if_neg hs.notWeak, if_neg hnative, hbad,
    if_true]

/-- What agrees, or is not asked to under the WK1616 profile, is held to its limits (R242). -/
theorem State.Asked.calMeasured_agrees (hs : s.snrFits x) (hd : s.rd Ix.CalProfile 0 = 1 ∨ s.disagreements x = []) :
    s.calMeasured x = (s.limitBroken x).elim { s with cal := { s.cal with run := some { r with accepted := r.accepted ++ [s.accept x] } } }
      (s.calReject r x.kind x.path 2) := by
  have hgood : (if s.rd Ix.CalProfile 0 = 1 ∧ x.kind ≠ 16 then [] else s.disagreements x) = [] := by
    split
    · rfl
    · next hn => exact hd.resolve_left fun hprofile => hn ⟨hprofile, h.ne_sixteen⟩
  simp only [State.calMeasured, h.active, h.mine, hp, hl, Bool.not_true, Bool.false_eq_true, if_false, if_neg hs.notWeak, hgood, List.isEmpty_nil,
    if_neg h.ne_sixteen]
  cases s.limitBroken x with
  | some y => rfl
  | none => exact h.setActiveCal rfl

end
end

/-! CAL_RUN_COMPLETE (R247) -/

/-- A run without reciprocity has nothing to scale (R237). -/
theorem State.scaleRecip_none {r : CalRunSys} (h : ∀ a ∈ r.accepted, a.kind ≠ 8) (s : State) (peers : CalPeers) :
    s.scaleRecip r peers = (r, s) := by
  have hnone : r.accepted.filter (fun a => a.kind == 8) = [] := List.filter_eq_nil_iff.2 fun a ha => by simpa using h a ha
  simp only [State.scaleRecip, hnone, List.isEmpty_nil, if_true]

/-- Native acceptance holds no delay to the others' mean (Table 10.4). -/
theorem State.judgeDelays_native {s : State} (h : s.rd Ix.CalProfile 0 = 0) (r : CalRunSys) : s.judgeDelays r = (r, s) :=
  if_pos (.inl h)

/-- The run is over, and holds no lease. -/
def State.runOver (s : State) (r : CalRunSys) : State :=
  ((calLeases r.kinds).foldl State.freeLease { s with cal := { s.cal with run := none } }).wr Ix.CalRunState 0 3

theorem State.runOver_same {β : Type} {g : State → β} (hc : ∀ s x, g { s with cal := x } = g s) (hf : ∀ s a, g (State.freeLease s a) = g s)
    (hw : ∀ s v, g (State.wr s Ix.CalRunState 0 v) = g s) (s : State) (r : CalRunSys) : g (s.runOver r) = g s :=
  (hw _ _).trans ((foldl_same hf _ _).trans (hc _ _))

/-- The end of a run does not enter into the slot that its results wait for. -/
theorem State.runOver_slotTwoEpochsOn (s : State) (r : CalRunSys) : (s.runOver r).slotTwoEpochsOn = s.slotTwoEpochsOn :=
  State.slotTwoEpochsOn_congr (State.runOver_same (g := State.now) (fun _ _ => rfl) (fun _ _ => rfl) (fun _ _ => rfl) s r)
    (State.runOver_same (g := State.epoch) (fun _ _ => rfl) (fun _ _ => rfl) (fun _ _ => rfl) s r)
    (State.runOver_same (g := State.tb) (fun _ _ => rfl) (fun _ _ => rfl) (fun _ _ => rfl) s r)
    (State.runOver_same (g := State.host) (fun _ _ => rfl) (fun _ _ => rfl) (fun _ _ => rfl) s r)
    (State.runOver_same (g := fun t => t.rd Ix.Numerology 0) (fun _ _ => rfl) (fun _ _ => rfl)
      (fun _ _ => State.rd_wr_ne (ck_ne_index (by decide) (by decide) (by decide))) s r)

/-- A run that has measured gives up its leases, and its results wait for their slot. -/
theorem State.calComplete_native {s : State} {r : CalRunSys} (hr : s.cal.run = some r) (hroll : r.rolling = false)
    (hm : r.measuring = true) (hp : s.rd Ix.CalProfile 0 = 0) (ha : ∀ a ∈ r.accepted, a.kind ≠ 8) (peers : CalPeers) :
    s.calComplete peers = { s.runOver r with cal := { (s.runOver r).cal with
      due := (s.runOver r).cal.due ++ [{ r with due := s.slotTwoEpochsOn }] } } := by
  simp only [State.calComplete, hr, hm, if_true, State.scaleRecip_none ha, State.judgeDelays_native hp, State.calEnds, State.freeCalLeases,
    hroll, Bool.false_eq_true, if_false]
  rw [← State.runOver_slotTwoEpochsOn s r]
  rfl

/-- Settles O30: what comes of a measurement that was asked for is `State.Asked.calMeasured_…`, in the order of the refusals. The slot of the
results leaves two whole epochs between, which is the model's reading of R247 (log entry 15). -/
theorem calibrationMeasurementsAreJudged : Obligations.CalibrationMeasurementsAreJudged := by
  unfold Obligations.CalibrationMeasurementsAreJudged
  refine ⟨?measurement, ?complete⟩
  case measurement =>
    intro s r x hrun hroll hm hkind hasked hpath hbit
    have h : s.Asked r x := ⟨hrun, hroll, hm, hkind, hasked, hpath, hbit⟩
    refine ⟨fun hp => ?poisoned, fun hp hl hn => ?first, fun hp hl hm => ?second, fun hp hl h8 hs => ?weak, fun hp hl hs hd hb => ?disagrees,
      fun y hp hl hs hd hy => ?limit, fun hp hl hs hd hy => ?accepted⟩
    case poisoned => exact congrArg Host.Outcome.next (h.calMeasured_poisoned hp)
    case first => exact congrArg Host.Outcome.next ((h.calMeasured_lost hp hl).trans (if_neg hn))
    case second => exact congrArg Host.Outcome.next ((h.calMeasured_lost hp hl).trans (if_pos hm))
    case weak => exact congrArg Host.Outcome.next (h.calMeasured_weak hp hl h8 hs)
    case disagrees => exact congrArg Host.Outcome.next (h.calMeasured_disagrees hp hl hs hd hb)
    case limit => exact congrArg Host.Outcome.next ((h.calMeasured_agrees hp hl hs hd).trans (by rw [hy]; rfl))
    case accepted => exact congrArg Host.Outcome.next ((h.calMeasured_agrees hp hl hs hd).trans (by rw [hy]; rfl))
  case complete =>
    rintro s n r peers hrun hroll hm hp ha rfl
    exact congrArg Host.Outcome.next (State.calComplete_native hrun hroll hm hp ha peers)

end Sys2Proof.Machine
end

section
/-! The calibration store, and the statement of 10_calibration.md on it (R250, R251). -/
namespace Sys2Proof.Machine

/-! CAL_STORE_SAVE (R250, R251) -/

/-- That a domain is asked for, and serves, leaves the record of calibration as it is. -/
theorem State.metOn_cal {s : State} {p d : Nat} (h : (s.met p).Serves d) : (s.metOn p d).cal = (s.met p).cal := by
  rw [State.metOn, State.needDomain_serves h]

/-- The device takes a save without a canceller set: it has a mode, and neither saves nor is asked to (R251). -/
structure State.TakesSave (m : State) (mask : Nat) : Prop where
  mask : mask = 1 ∨ mask = 3
  mode : m.mode ≠ 0
  idle : m.cal.save = none
  unasked : m.cal.saveAsked = none

/-- A save that is taken starts, or waits for the end of the boot's reads (R439). -/
theorem State.TakesSave.calStoreSave {m : State} {mask : Nat} (h : m.TakesSave mask) : m.calStoreSave mask
    = .ok (if m.bootReading then ({ m with cal := { m.cal with saveAsked := some mask } } : State).wr Ix.CalStoreState 0 1
        else m.startSave mask) := by
  have hfree : ¬(m.mode = 0 ∨ m.cal.save.isSome ∨ m.cal.saveAsked.isSome) := by simp [h.mode, h.idle, h.unasked]
  have hmask : ¬(mask % 2 = 0 ∨ 15 < mask ∨ 12 ≤ mask) := by
    rcases h.mask with rfl | rfl <;> decide
  simp only [State.calStoreSave, if_neg hfree, if_neg hmask]
  exact (apply_ite Except.ok _ _ _).symm

/-- The bank a save goes to and its SEQUENCE: bank 0 and 1 where no bank is valid, else the bank that is not the newer, and one above that one's. -/
def State.SavesTo (m : State) (bank seq : Nat) : Prop :=
  m.newerBank = none ∧ bank = 0 ∧ seq = 1
    ∨ m.newerBank = some (1 - bank) ∧ bank < 2 ∧ seq = (m.rd Ix.CalStoreBankSeq (2 - bank) + 1) % 2 ^ 32

/-- The bank is erased, and the store is busy. -/
def State.bankErased (m : State) (bank : Nat) : State :=
  (((m.zeroRange (m.bankBase bank) 0x200000).wr Ix.CalStoreBankState (bank + 1) 0).wr Ix.CalStoreBankSeq (bank + 1) 0).wr Ix.CalStoreState 0 1

/-- The snapshot is on its way to the bank at an address. -/
def State.saving (m : State) (bank seq mask at_ : Nat) : State :=
  { m.bankErased bank with
    cal := { (m.bankErased bank).cal with save := some ⟨bank, seq, m.now, false, m.storeRecord mask seq⟩ },
    mem := { (m.bankErased bank).mem with saving := some at_, saveHit := false } }

theorem State.saving_host (m : State) (bank seq mask at_ : Nat) : (m.saving bank seq mask at_).host = m.host := by
  simp [State.saving, State.bankErased, State.zeroRange]
theorem State.saving_reset (m : State) (bank seq mask at_ : Nat) : (m.saving bank seq mask at_).reset_ = m.reset_ := by
  simp [State.saving, State.bankErased, State.zeroRange]

theorem State.SavesTo.bank_lt {m : State} {bank seq : Nat} (h : m.SavesTo bank seq) : bank < 2 := by
  rcases h with ⟨-, rfl, -⟩ | ⟨-, hlt, -⟩
  · decide
  · exact hlt

/-- Where the banks lie does not change. -/
theorem State.bankErased_bankBase (m : State) {bank : Nat} (h : bank < 2) (b : Nat) : (m.bankErased bank).bankBase b = m.bankBase b := by
  have hrd : (m.bankErased bank).rd Ix.CalStoreOffset 0 = m.rd Ix.CalStoreOffset 0 := by
    rw [State.bankErased, State.rd_wr_ne (ck_ne_index (by decide) (by decide) (by decide)),
      State.rd_wr_ne (ck_ne_index (by decide) (by omega) (by decide)), State.rd_wr_ne (ck_ne_index (by decide) (by omega) (by decide))]
    rfl
  rw [State.bankBase, State.bankBase, hrd]

/-- A save that meets no poison takes its snapshot and erases the older bank. -/
theorem State.startSave_saves {m : State} {mask bank seq : Nat} (hmask : mask = 1 ∨ mask = 3) (hu : m.mem.upsets = [])
    (hp : m.firstPoison m.calBase 86272 = none) (hb : m.SavesTo bank seq) : m.startSave mask
      = m.saving bank seq mask (m.bankBase bank) := by
  have hcanc : bitsOf mask 3 2 = 0 := by
    rcases hmask with rfl | rfl <;> decide
  rw [← State.bankErased_bankBase m hb.bank_lt]
  rcases hb with ⟨hnone, rfl, rfl⟩ | ⟨hnewer, hlt, rfl⟩
  case inl =>
    simp only [State.startSave, hnone, hcanc, if_true, State.settle_none hu, hp, Option.orElse_none]
    rfl
  case inr =>
    have hbank : 1 - (1 - bank) = bank := by omega
    have hsub : 1 - bank + 1 = 2 - bank := by omega
    simp only [State.startSave, hnewer, hcanc, if_true, State.settle_none hu, hp, Option.orElse_none, hbank, hsub]
    rfl

/-- A save that starts ends the command. -/
theorem exec_calStoreSave {s n t : State} {w : Caller} {mask : Nat} (hn : n = s.metOn w.port 5) (hd : (s.met w.port).Serves 5)
    (ho : s.Orders w Ix.CalStoreSave 0 mask) (hk : n.TakesSave mask) (hb : n.bootReading = false) (hq : n.startSave mask = t)
    (hh : t.host = n.host) (hr : t.reset_ = n.reset_) : exec (.calStoreSave w mask) s = .next (t.ended w Ix.CalStoreSave 0 mask) := by
  have hstarts : n.writeScalar Ix.CalStoreSave 0 mask = .ok t := by
    rw [← hq]
    exact hk.calStoreSave.trans (by rw [hb]; rfl)
  subst hn
  have hmet : (s.met w.port).TakesSave mask := ⟨hk.mask, by simpa only [State.mode, State.rd_metOn hd] using hk.mode,
    State.metOn_cal hd ▸ hk.idle, State.metOn_cal hd ▸ hk.unasked⟩
  exact congrArg Host.Outcome.next (ho.runOnSame rfl hd (notEarly_of_ok hmet.calStoreSave) hstarts hh hr)

/-! CAL_STORE_DONE and CAL_STORE_TIMEOUT (R251) -/

/-- Nothing is saved any more. -/
def State.saveOver (s : State) : State :=
  { s with cal := { s.cal with save := none }, mem := { s.mem with saving := none, saveHit := false } }

/-- A bank into which nothing was written meanwhile, and which reads back as written, holds the record and is valid. -/
theorem State.calStoreDone_verified {s n : State} {v : SaveSys} (hs : s.cal.save = some v) (hh : s.mem.saveHit = false)
    (hn : n = s.storeBytes (s.bankBase v.bank) v.record) : s.calStoreDone true
      = (((n.saveOver.wr Ix.CalStoreBankState (v.bank + 1) 1).wr Ix.CalStoreBankSeq (v.bank + 1) v.sequence).wr
          Ix.CalStoreState 0 0).raise 0x4806 0 (packData [f8 v.bank, f32 v.sequence]) := by
  simp only [State.calStoreDone, hs, hh, hn, Bool.not_true, Bool.false_eq_true, if_false, State.saveOver]

/-- A write into the bank while it is saved fails the save. -/
theorem State.calStoreDone_hit {s : State} {v : SaveSys} (hs : s.cal.save = some v) (hh : s.mem.saveHit = true) (b : Bool) :
    s.calStoreDone b = s.storeFails 2 := by
  simp only [State.calStoreDone, hs, hh, if_true]

/-- A bank that does not read back as written fails the save. -/
theorem State.calStoreDone_differs {s : State} {v : SaveSys} (hs : s.cal.save = some v) (hh : s.mem.saveHit = false) :
    s.calStoreDone false = s.storeFails 3 := by
  simp only [State.calStoreDone, hs, hh, Bool.not_false, Bool.false_eq_true, if_false, if_true]

/-- A save that is not done in its time fails. -/
theorem State.calStoreTimeout_due {s : State} {v : SaveSys} (hs : s.cal.save = some v)
    (ht : v.since + msec (s.rd Ix.CalStoreTimeout 0) ≤ s.now) : s.calStoreTimeout = s.storeFails 1 := by
  simp only [State.calStoreTimeout, hs, State.elapsed_of_le ht, if_true]

/-- Settles O31, command by command: what each does where its condition holds is the lemma named for it. An erased bank holds bytes as nothing has
written them, which read as 0 (log entry 2); that bank 0 and SEQUENCE 1 are taken where no bank is valid is the model's choice. -/
theorem calibrationIsStored : Obligations.CalibrationIsStored := by
  unfold Obligations.CalibrationIsStored
  refine ⟨?save, ?done, ?fails⟩
  case save =>
    rintro s n u w mask bank seq hn hd ho hmask hmode hidle hunasked hboot hu hp hb rfl
    exact ⟨_, exec_calStoreSave hn hd ho ⟨hmask, hmode, hidle, hunasked⟩ hboot (State.startSave_saves hmask hu hp hb)
      (n.saving_host bank seq mask _) (n.saving_reset bank seq mask _), rfl, rfl, rfl, rfl⟩
  case done =>
    rintro s n o q v hs hh hn rfl rfl
    exact congrArg Host.Outcome.next (State.calStoreDone_verified (n := n) hs hh hn)
  case fails =>
    intro s v b hs
    exact ⟨fun hh => congrArg Host.Outcome.next (State.calStoreDone_hit hs hh b),
      fun hh => congrArg Host.Outcome.next (State.calStoreDone_differs hs hh),
      fun ht => congrArg Host.Outcome.next (State.calStoreTimeout_due hs ht)⟩

end Sys2Proof.Machine
end

section
/-! One mason operation as a bundle of its own -/
namespace Sys2Proof.Machine

/-! A core as it is written and read -/

theorem tdel_tdel {α : Type} (k : Nat) (t : Tab α) : tdel k (tdel k t) = tdel k t := by
  simp only [tdel, List.filter_filter, Bool.and_self]

theorem tdel_tadd {α : Type} (k : Nat) (v : α) (t : Tab α) : tdel k (tadd k v t) = tdel k t := by
  induction t with
  | nil => simp [tadd, tdel]
  | cons c t ih =>
    obtain ⟨j, w⟩ := c
    unfold tadd
    split
    · simp [tdel]
    · simp only [tdel, List.filter_cons] at ih ⊢
      rw [ih]

theorem tins_tins {α : Type} (k : Nat) (v w : α) (t : Tab α) : tins k v (tins k w t) = tins k v t := by
  rw [tins, tins, tins, tdel_tadd, tdel_tdel]

@[simp] theorem State.core_setCore (s : State) (m : Nat) (c : MasonCore) : (s.setCore m c).core m = c := tget_tins_same _ _ _ _

@[simp] theorem State.setCore_setCore (s : State) (m : Nat) (c d : MasonCore) : (s.setCore m c).setCore m d = s.setCore m d := by
  simp only [State.setCore, tins_tins]

/-! The loop check -/

/-- The check of one loop: at its end with a count left, the count goes down, and control back while it is not the last. -/
def MasonCore.loopTry (c : MasonCore) (x : Nat) : MasonCore × Option Nat :=
  if (!(tget 0 x c.le == c.pc && tget 0 x c.lc != 0)) = true then (c, none)
  else if 1 < tget 0 x c.lc then ({ c with lc := tput 0 x (tget 0 x c.lc - 1) c.lc }, some (tget 0 x c.ls))
  else ({ c with lc := tput 0 x 0 c.lc }, none)

theorem MasonCore.loopTry_fst (c : MasonCore) (x : Nat) : (c.loopTry x).1 = { c with lc := (c.loopTry x).1.lc } := by
  unfold MasonCore.loopTry
  split_ifs <;> rfl

/-- The check looks at the address and the loop registers alone. -/
theorem MasonCore.loopTry_congr {c d : MasonCore} (hpc : d.pc = c.pc) (hle : d.le = c.le) (hlc : d.lc = c.lc) (hls : d.ls = c.ls) (x : Nat) :
    (d.loopTry x).1.lc = (c.loopTry x).1.lc ∧ (d.loopTry x).2 = (c.loopTry x).2 := by
  unfold MasonCore.loopTry
  rw [hpc, hle, hlc, hls]
  split_ifs
  · exact ⟨hlc, rfl⟩
  · exact ⟨rfl, rfl⟩
  · exact ⟨rfl, rfl⟩

theorem MasonCore.loopCheck_of_back {c : MasonCore} {t : Nat} (h : (c.loopTry 0).2 = some t) : c.loopCheck = ((c.loopTry 0).1, t) := by
  unfold MasonCore.loopCheck
  dsimp only
  split
  next u hu => exact Prod.ext rfl (Option.some.inj (hu.symm.trans h))
  next hu => exact absurd (hu.symm.trans h) (by simp)

theorem MasonCore.loopCheck_of_past {c : MasonCore} (h : (c.loopTry 0).2 = none) :
    c.loopCheck = (((c.loopTry 0).1.loopTry 1).1, ((c.loopTry 0).1.loopTry 1).2.getD ((c.pc + 16) % 2 ^ 16)) := by
  unfold MasonCore.loopCheck
  dsimp only
  split
  next u hu => exact absurd (hu.symm.trans h) (by simp)
  next hu => rfl

theorem MasonCore.loopCheck_fst (c : MasonCore) : c.loopCheck.1 = { c with lc := c.loopCheck.1.lc } := by
  have hfirst := c.loopTry_fst 0
  cases h : (c.loopTry 0).2 with
  | some t => rw [MasonCore.loopCheck_of_back h]; exact hfirst
  | none =>
    rw [MasonCore.loopCheck_of_past h]
    dsimp only
    rw [MasonCore.loopTry_fst, hfirst]

theorem MasonCore.loopCheck_congr {c d : MasonCore} (hpc : d.pc = c.pc) (hle : d.le = c.le) (hlc : d.lc = c.lc) (hls : d.ls = c.ls) :
    d.loopCheck.1.lc = c.loopCheck.1.lc ∧ d.loopCheck.2 = c.loopCheck.2 := by
  obtain ⟨hlc0, hback⟩ := MasonCore.loopTry_congr hpc hle hlc hls 0
  cases h : (c.loopTry 0).2 with
  | some t =>
    rw [MasonCore.loopCheck_of_back h, MasonCore.loopCheck_of_back (hback.trans h)]
    exact ⟨hlc0, rfl⟩
  | none =>
    rw [MasonCore.loopCheck_of_past h, MasonCore.loopCheck_of_past (hback.trans h), hpc]
    have hd := d.loopTry_fst 0
    have hc := c.loopTry_fst 0
    obtain ⟨hlc1, hnext⟩ := MasonCore.loopTry_congr (c := (c.loopTry 0).1) (d := (d.loopTry 0).1) (by rw [hd, hc]; exact hpc)
      (by rw [hd, hc]; exact hle) hlc0 (by rw [hd, hc]; exact hls) 1
    exact ⟨hlc1, by rw [hnext]⟩

/-- A core that differs from another beside the address and the loop registers steps as it does. -/
theorem MasonCore.stepped_of_same {c d : MasonCore} (hpc : d.pc = c.pc) (hle : d.le = c.le) (hlc : d.lc = c.lc) (hls : d.ls = c.ls) :
    d.stepped = { d with lc := c.stepped.lc, pc := c.stepped.pc, cycle := d.cycle + 1 } := by
  obtain ⟨hc, hn⟩ := MasonCore.loopCheck_congr hpc hle hlc hls
  simp only [MasonCore.stepped, hc, hn]

/-! What the acts of a bundle do -/

/-- What an act does to its core. -/
def MasonCore.acted (c : MasonCore) : MasonAct → MasonCore
  | .mac n l => { c with chain := tput zero8 n l c.chain }
  | .status hr ovf up => c.status hr ovf up
  | .post n v => { c with bundle := c.bundle ++ [⟨1, .ptr n v⟩] }
  | .branch t => { c with flow := some (t, 3) }
  | .rti => { c with flow := some (c.ira, 3), rti := true }
  | .get shelf addr len => { c with xfers := c.xfers ++ [⟨false, shelf, addr, len⟩] }
  | .put shelf addr len => { c with xfers := c.xfers ++ [⟨true, shelf, addr, len⟩] }
  | .loop _ _ _ | .lease _ _ _ | .unlease _ | .wait _ | .done _ => c

/-- What an act of a core does beside it: a change of SH is counted (R264), a lease that is no lock is taken or released (R275). -/
def State.beside (s : State) (m : Nat) (c : MasonCore) : MasonAct → State
  | .status _ _ up => if up && decide (c.sh < 39) then s.bump Ix.MasonScaleEvents (m + 1) else s
  | .lease r ticks _ => s.takeLease r (s.taskOwner c) (some (s.addEpochs ticks s.epoch)) (some (.mason m))
  | .unlease r => match s.leaseOf r with
    | some l => if l.owner = s.taskOwner c then s.freeLease r else s
    | none => s
  | _ => s

/-- An act after which control goes on as if it were none, on a core: no branch, no loop, no end of the task, no wait for a transfer, and no lock of a
memory word. -/
def MasonAct.GoesOn (c : MasonCore) : MasonAct → Prop
  | .mac _ _ | .status _ _ _ | .post _ _ | .get _ _ _ | .put _ _ _ => True
  | .lease r _ _ | .unlease r => lockOf r = none
  | .wait n => c.xfers.length ≤ n ∧ c.failed = 0
  | .branch _ | .rti | .loop _ _ _ | .done _ => False

/-- The resource an act leases or releases is no lock of a memory word. -/
def MasonAct.LocksNothing : MasonAct → Prop
  | .lease r _ _ | .unlease r => lockOf r = none
  | _ => True

theorem State.addEpochs_setCore (s : State) (m : Nat) (c : MasonCore) (n e : Nat) : (s.setCore m c).addEpochs n e = s.addEpochs n e :=
  State.addEpochs_congr (s := s) (t := s.setCore m c) rfl rfl n e

theorem State.coreAct_setCore {a : MasonAct} (h : a.LocksNothing) (s : State) (m : Nat) (c : MasonCore) :
    (s.setCore m c).coreAct m a = (s.beside m c a).setCore m (c.acted a) := by
  cases a with
  | mac | post | branch | rti | get | put =>
    simp only [State.coreAct, State.core_setCore, State.setCore_setCore, MasonCore.acted, State.beside]
  | loop | wait | done => rfl
  | status hr ovf up =>
    simp only [State.coreAct, State.core_setCore, State.setCore_setCore, MasonCore.acted, State.beside]
    split <;> rfl
  | lease r ticks pd =>
    have hlock : lockOf r = none := h
    simp only [State.coreAct, State.core_setCore, hlock, State.addEpochs_setCore]
    rfl
  | unlease r =>
    have hlock : lockOf r = none := h
    simp only [State.coreAct, State.core_setCore, MasonCore.acted, State.beside, State.releaseLease, hlock]
    have hlease : (s.setCore m c).leaseOf r = s.leaseOf r := rfl
    have howner : (s.setCore m c).taskOwner c = s.taskOwner c := rfl
    rw [hlease, howner]
    cases s.leaseOf r with
    | none => rfl
    | some l => dsimp only; split <;> rfl

/-- What the acts of a bundle do beside their core, one after the other. -/
def State.besides (s : State) (m : Nat) (c : MasonCore) : List MasonAct → State
  | [] => s
  | a :: l => (s.beside m c a).besides m (c.acted a) l

theorem State.foldl_coreAct (m : Nat) (l : List MasonAct) (h : ∀ a ∈ l, a.LocksNothing) (s : State) (c : MasonCore) :
    l.foldl (fun s a => s.coreAct m a) (s.setCore m c) = (s.besides m c l).setCore m (l.foldl MasonCore.acted c) := by
  induction l generalizing s c with
  | nil => rfl
  | cons a l ih =>
    rw [List.forall_mem_cons] at h
    rw [List.foldl_cons, State.coreAct_setCore h.1, ih h.2]
    rfl

/-- A core with the parts that acts change or look at, and those of another beside them; its bundle holds results. -/
def MasonCore.within (d e : MasonCore) (b : List MasonWrite) : MasonCore :=
  { e with chain := d.chain, st := d.st, sh := d.sh, flow := d.flow, rti := d.rti, xfers := d.xfers, ira := d.ira, task := d.task, bundle := b }

/-- The result that an act adds to its bundle. -/
def MasonAct.posted : MasonAct → List MasonWrite
  | .post n v => [⟨1, .ptr n v⟩]
  | _ => []

theorem MasonCore.acted_within (d e : MasonCore) (b : List MasonWrite) (a : MasonAct) :
    (d.within e b).acted a = (d.acted a).within e (b ++ a.posted) := by
  cases a with
  | post => rfl
  | mac | status | branch | rti | get | put | loop | lease | unlease | wait | done =>
    simp only [MasonAct.posted, List.append_nil]
    rfl

theorem MasonCore.foldl_acted_within (e : MasonCore) (l : List MasonAct) (d : MasonCore) (b : List MasonWrite) :
    l.foldl MasonCore.acted (d.within e b) = (l.foldl MasonCore.acted d).within e (b ++ l.flatMap MasonAct.posted) := by
  induction l generalizing d b with
  | nil => rw [List.foldl_nil, List.foldl_nil, List.flatMap_nil, List.append_nil]
  | cons a l ih => rw [List.foldl_cons, MasonCore.acted_within, ih, List.foldl_cons, List.flatMap_cons, List.append_assoc]

theorem State.besides_within (m : Nat) (e : MasonCore) (l : List MasonAct) (s : State) (d : MasonCore) (b : List MasonWrite) :
    s.besides m (d.within e b) l = s.besides m d l := by
  induction l generalizing s d b with
  | nil => rfl
  | cons a l ih =>
    have hbeside : s.beside m (d.within e b) a = s.beside m d a := by cases a <;> rfl
    rw [State.besides, MasonCore.acted_within, hbeside, ih, State.besides]

/-- The acts of a bundle leave the rest of their core as it is. -/
theorem MasonCore.foldl_acted_eq (l : List MasonAct) (c : MasonCore) :
    l.foldl MasonCore.acted c = (l.foldl MasonCore.acted c).within c (c.bundle ++ l.flatMap MasonAct.posted) :=
  MasonCore.foldl_acted_within c l c c.bundle

theorem MasonAct.GoesOn.locksNothing {c : MasonCore} {a : MasonAct} (h : a.GoesOn c) : a.LocksNothing := by
  cases a with
  | lease | unlease => exact h
  | mac | status | post | get | put | wait | branch | rti | loop | done => trivial

theorem doneOf_of_goesOn {c : MasonCore} {l : List MasonAct} (h : ∀ a ∈ l, a.GoesOn c) : doneOf l = none := by
  refine List.findSome?_eq_none_iff.2 fun a ha => ?_
  have hgoes := h a ha
  cases a with
  | done => cases hgoes
  | mac | status | post | get | put | lease | unlease | wait | branch | rti | loop => rfl

theorem loopOf_of_goesOn {c : MasonCore} {l : List MasonAct} (h : ∀ a ∈ l, a.GoesOn c) : loopOf l = none := by
  refine List.findSome?_eq_none_iff.2 fun a ha => ?_
  have hgoes := h a ha
  cases a with
  | loop => cases hgoes
  | mac | status | post | get | put | lease | unlease | wait | branch | rti | done => rfl

theorem waitOf_of_goesOn {c : MasonCore} {l : List MasonAct} (h : ∀ a ∈ l, a.GoesOn c) (n : Nat) (hn : waitOf l = some n) :
    c.xfers.length ≤ n ∧ c.failed = 0 := by
  obtain ⟨a, ha, hwait⟩ := List.exists_of_findSome?_eq_some hn
  have hgoes := h a ha
  cases a with
  | wait k => exact Option.some.inj hwait ▸ hgoes
  | mac | status | post | get | put | lease | unlease | branch | rti | loop | done => cases hwait

theorem MasonCore.foldl_acted_flow {c : MasonCore} {l : List MasonAct} (h : ∀ a ∈ l, a.GoesOn c) (d : MasonCore) :
    (l.foldl MasonCore.acted d).flow = d.flow := by
  induction l generalizing d with
  | nil => rfl
  | cons a l ih =>
    rw [List.forall_mem_cons] at h
    obtain ⟨hgoes, hrest⟩ := h
    rw [List.foldl_cons, ih hrest]
    cases a with
    | branch | rti => cases hgoes
    | mac | status | post | get | put | loop | lease | unlease | wait | done => rfl

/-! Results that land -/

theorem State.settleFlight_setCore (s : State) (m : Nat) (c : MasonCore) :
    (s.setCore m c).settleFlight m = (s.setCore m { c with flight := [] }).landDue m c.flight := by
  simp only [State.settleFlight, State.core_setCore, State.setCore_setCore]

theorem State.settleFlight_of_none {c : MasonCore} (h : c.flight = []) (s : State) (m : Nat) :
    (s.setCore m c).settleFlight m = s.setCore m c := by
  simp only [State.settleFlight, State.core_setCore, State.setCore_setCore, h, State.landDue]
  rw [← h]

theorem State.drain_of_none {c : MasonCore} (h : c.flight = []) (s : State) (m : Nat) : (s.setCore m c).drain m = s.setCore m c := by
  simp only [State.drain, State.core_setCore, State.setCore_setCore, h, List.foldl_nil]
  rw [State.settleFlight_of_none rfl, ← h]

/-- Does a result go to a register? -/
def MasonDest.isRegister : MasonDest → Bool
  | .store _ _ => false
  | _ => true

theorem State.landDue_due {w : MasonWrite} {c : MasonCore} (hd : w.due ≤ c.cycle) (hr : w.dest.isRegister = true) (s : State) (m : Nat)
    (l : List MasonWrite) : (s.setCore m c).landDue m (w :: l) = (s.setCore m (c.land l w.dest)).landDue m l := by
  obtain ⟨due, dest⟩ := w
  simp only [State.landDue, State.core_setCore, if_pos hd]
  cases dest with
  | store => cases hr
  | vec | acc | ptr | sys => simp only [State.setCore_setCore]

theorem State.landDue_later {w : MasonWrite} {c : MasonCore} (hd : c.cycle < w.due) (s : State) (m : Nat) (l : List MasonWrite) :
    (s.setCore m c).landDue m (w :: l) = (s.setCore m { c with flight := c.flight ++ [w] }).landDue m l := by
  simp only [State.landDue, State.core_setCore, if_neg (Nat.not_le.2 hd), State.setCore_setCore]

@[simp] theorem State.landDue_nil (s : State) (m : Nat) : s.landDue m [] = s := rfl

/-! The flow of control -/

theorem MasonCore.advance_of_no_flow {d : MasonCore} (h : d.flow = none) :
    d.advance none = ({ d with lc := d.loopCheck.1.lc, pc := d.loopCheck.2 }, false) := by
  have hcheck := MasonCore.loopCheck_fst d
  have hflow : d.loopCheck.1.flow = none := by rw [hcheck]; exact h
  simp only [MasonCore.advance, h, Option.any_none, Bool.or_false, Bool.false_eq_true, if_false, hflow]
  rw [hcheck]

/-- A core with a loop set, at the address that follows. -/
def MasonCore.looped (d : MasonCore) (x count body : Nat) : MasonCore := { (d.setLoop x count body).1 with pc := (d.setLoop x count body).2 }

theorem MasonCore.advance_of_loop {d : MasonCore} (h : d.flow = none) (x count body : Nat) :
    d.advance (some (x, count, body)) = (d.looped x count body, false) := by
  have hcheck := MasonCore.loopCheck_fst d
  have hflow : d.loopCheck.1.flow = none := by rw [hcheck]; exact h
  simp only [MasonCore.advance, h, Option.any_none, Bool.or_false, Bool.false_eq_true, if_false, hflow]
  rw [hcheck]
  simp only [MasonCore.looped, MasonCore.setLoop, h]

theorem MasonCore.advance_of_branch {d : MasonCore} {t : Nat} (h : d.flow = some (t, 3)) :
    d.advance none = ({ d with pc := (d.pc + 16) % 2 ^ 16, flow := some (t, 2) }, false) := by
  simp [MasonCore.advance, h]

theorem State.coreCycle_setCore (s : State) (m : Nat) {d : MasonCore} (h : d.cycle + 1 < 2 ^ 32) :
    (s.setCore m d).coreCycle m = (s.setCore m { d with cycle := d.cycle + 1 }).settleFlight m := by
  simp only [State.coreCycle, State.core_setCore, State.setCore_setCore, Nat.mod_eq_of_lt h]

/-! What a bundle leaves of its core -/

/-- A core whose bundle is empty, with results on their way. -/
def MasonCore.inTransit (d : MasonCore) (l : List MasonWrite) : MasonCore := { d with bundle := [], flight := l }

theorem MasonCore.inTransit_of_empty {d : MasonCore} (h : d.bundle = []) (l : List MasonWrite) : d.inTransit l = { d with flight := l } := by
  rw [MasonCore.inTransit, ← h]

theorem MasonCore.inTransit_of_none {d : MasonCore} (h : d.bundle = []) (hf : d.flight = []) : d.inTransit [] = d := by
  rw [MasonCore.inTransit_of_empty h, ← hf]

/-- The results of an operation that issues at a cycle (R265). -/
def OpResult.sent (r : OpResult) (at_ : Nat) : List MasonWrite :=
  (r.writes ++ r.acts.flatMap MasonAct.posted).map (fun w => { w with due := at_ + w.due })

/-- The acts of the operation have happened, and its results are on their way. -/
def MasonCore.setOut (c : MasonCore) (r : OpResult) : MasonCore := (r.acts.foldl MasonCore.acted c).inTransit (r.sent c.cycle)

/-- A core that sets results out steps as it does before. -/
theorem MasonCore.stepped_setOut (c : MasonCore) (r : OpResult) :
    (c.setOut r).stepped = (r.acts.foldl MasonCore.acted c.stepped).inTransit (r.sent c.cycle) := by
  have hstepped : c.stepped = c.within c.stepped c.bundle := rfl
  rw [hstepped, MasonCore.foldl_acted_within, MasonCore.setOut, MasonCore.foldl_acted_eq]
  rw [MasonCore.stepped_of_same (c := c)] <;> rfl

/-! The bundle -/

/-- A core whose bundle one operation has opened. -/
def MasonCore.opened (c : MasonCore) (slot : Nat) (r : OpResult) : MasonCore :=
  { c with bundle := r.writes, acts := r.acts, dests := r.dests, fault := r.fault, slot := slot + 1 }

/-- The poisoned word that an exception names is counted (R269). -/
def State.poisonMet (s : State) (m : Nat) : Option (Nat × Nat) → State
  | some x => if x.1 = 1 then s.consumePoison (shelfBase m + x.2) else s
  | none => s

theorem State.poisonMet_none (s : State) (m : Nat) : s.poisonMet m none = s := rfl

theorem State.poisonMet_word (s : State) (m w : Nat) : s.poisonMet m (some (1, w)) = s.consumePoison (shelfBase m + w) := by
  rw [State.poisonMet, if_pos rfl]

theorem State.poisonMet_of_ne {cause : Nat} (h : cause ≠ 1) (s : State) (m ea : Nat) : s.poisonMet m (some (cause, ea)) = s := if_neg h

/-- What the acts of an operation make of the core whose bundle it has opened. -/
theorem State.foldl_coreAct_opened {r : OpResult} (hl : ∀ a ∈ r.acts, a.LocksNothing) (s : State) (m : Nat) (c : MasonCore) (slot : Nat) :
    r.acts.foldl (fun s a => s.coreAct m a) (s.setCore m (c.opened slot r))
      = (s.besides m c r.acts).setCore m (r.acts.foldl MasonCore.acted (c.opened slot r)) := by
  rw [State.foldl_coreAct m r.acts hl]
  exact congrArg (fun t => State.setCore t m _) (State.besides_within m (c.opened slot r) r.acts s c r.writes)

/-- An exception empties the bundle, whatever it holds (R269). -/
theorem State.coreException_congr {c d : MasonCore} (h : d.emptied = c.emptied) (s : State) (m cause ea : Nat) :
    (s.setCore m d).coreException m cause ea = (s.setCore m c).coreException m cause ea := by
  simp only [State.coreException, State.core_setCore, State.setCore_setCore, h]

section
variable {s : State} {m : Nat} {c : MasonCore} (hb : s.Between m c)
include hb

theorem State.Between.task_isNone : c.task.isNone = false := by
  have htask := hb.task
  cases hc : c.task with
  | none => rw [hc] at htask; cases htask
  | some => rfl

/-- An operation that reads nothing opens its bundle alone and ends it. -/
theorem State.Between.issue_readsNone {slot : Nat} {f : State → MasonCore → OpResult} {r : OpResult} (hr : f s c = r) :
    s.issue (alone m) slot readsNone f = ((s.poisonMet m r.fault).setCore m (c.opened slot r)).endBundle m := by
  have hslot : ¬ slot < c.slot := by rw [hb.slot]; exact Nat.not_lt_zero _
  simp only [State.issue, alone, readsNone, hb.core, hb.task_isNone, Bool.false_eq_true, if_false, hslot, List.range_zero, List.foldl_nil, ite_self,
    Bool.false_and, hr, hb.bundle, hb.acts, hb.dests, hb.fault, List.nil_append, List.contains_nil]
  have hclash : (r.dests.any fun _ => false) = false := by simp
  cases hf : r.fault with
  | none =>
    simp only [hclash, Bool.false_eq_true, if_false]
    rw [MasonCore.opened, hf, State.poisonMet_none]
  | some x =>
    obtain ⟨cause, w⟩ := x
    rw [MasonCore.opened, hf]
    dsimp only
    split
    next v hv =>
      cases hv
      rw [State.poisonMet_word]
    next hother => rw [State.poisonMet_of_ne fun h => hother w (by rw [h])]

/-- Reading from the shelf changes nothing where no word is upset (R326). -/
theorem State.Between.issue_of_sound (hu : s.mem.upsets = []) (slot : Nat) (touch : MasonCore → Option (Nat × Nat))
    (f : State → MasonCore → OpResult) : s.issue (alone m) slot touch f = s.issue (alone m) slot readsNone f := by
  have hslot : ¬ slot < c.slot := by rw [hb.slot]; exact Nat.not_lt_zero _
  simp only [State.issue, alone, readsNone, hb.core, hslot, if_false, List.range_zero, List.foldl_nil, ite_self]
  cases touch c with
  | none => rfl
  | some x => simp only [State.shelfSettle, State.settle_none hu, ite_self]

/-- An exception of the operation: nothing of its bundle is written back (R269). -/
theorem State.Between.issue_faults {slot : Nat} {f : State → MasonCore → OpResult} {r : OpResult} {cause ea : Nat} (hr : f s c = r)
    (hf : r.fault = some (cause, ea)) :
    s.issue (alone m) slot readsNone f = ((s.poisonMet m (some (cause, ea))).setCore m c).coreException m cause ea := by
  have hopened : (c.opened slot r).fault = some (cause, ea) := hf
  rw [hb.issue_readsNone hr, hf]
  simp only [State.endBundle, State.core_setCore, hopened]
  have hsame : (c.opened slot r).emptied = c.emptied := rfl
  exact State.coreException_congr hsame _ m cause ea

/-- An operation without exception that does not wait issues its bundle. -/
theorem State.Between.issue_issues {slot : Nat} {f : State → MasonCore → OpResult} {r : OpResult} (hr : f s c = r) (hf : r.fault = none)
    (hw : ∀ n, waitOf r.acts = some n → c.xfers.length ≤ n ∧ c.failed = 0) :
    s.issue (alone m) slot readsNone f = (s.setCore m (c.opened slot r)).issueBundle m := by
  have hopened : (c.opened slot r).fault = none := hf
  have hacts : (c.opened slot r).acts = r.acts := rfl
  rw [hb.issue_readsNone hr, hf]
  simp only [State.poisonMet_none, State.endBundle, State.core_setCore, hopened, hacts]
  cases hwait : waitOf r.acts with
  | none => rfl
  | some n =>
    obtain ⟨hlen, hfailed⟩ := hw n hwait
    have hxfers : ¬ n < (c.opened slot r).xfers.length := Nat.not_lt.2 hlen
    have hnone : (c.opened slot r).failed = 0 := hfailed
    simp only [hxfers, hnone, ne_eq, not_true_eq_false, if_false]

/-- A core between bundles holds and awaits no result. -/
theorem State.Between.inTransit_nil : c.inTransit [] = c := MasonCore.inTransit_of_none hb.bundle hb.flight

/-- With its results set out, the core has emptied its bundle. -/
theorem State.Between.emptied_opened (slot : Nat) (r : OpResult) {d : MasonCore} (hd : r.acts.foldl MasonCore.acted (c.opened slot r) = d) :
    MasonCore.emptied { d with flight := d.flight ++ d.bundle.map (fun w => { w with due := d.cycle + w.due }) } = c.setOut r := by
  have hopened : c.opened slot r = c.within (c.opened slot r) r.writes := rfl
  rw [hopened, MasonCore.foldl_acted_within] at hd
  rw [← hd, MasonCore.setOut, MasonCore.foldl_acted_eq]
  simp only [MasonCore.within, MasonCore.opened, MasonCore.emptied, MasonCore.inTransit, OpResult.sent, hb.acts, hb.dests, hb.slot, hb.fault,
    hb.flight, List.nil_append]

variable {slot : Nat} {f : State → MasonCore → OpResult} {r : OpResult}

/-- An operation after which control goes on: its results are set out, its acts have happened, and a cycle passes (R265). -/
theorem State.Between.issue_goesOn {d : MasonCore} (hr : f s c = r) (hf : r.fault = none)
    (hw : ∀ n, waitOf r.acts = some n → c.xfers.length ≤ n ∧ c.failed = 0) (hdone : doneOf r.acts = none) (hl : ∀ a ∈ r.acts, a.LocksNothing)
    (hd : (c.setOut r).advance (loopOf r.acts) = (d, false)) (hcycle : d.cycle = c.cycle) :
    s.issue (alone m) slot readsNone f = ((s.besides m c r.acts).setCore m { d with cycle := c.cycle + 1 }).settleFlight m := by
  have hopened : (c.opened slot r).acts = r.acts := rfl
  rw [hb.issue_issues hr hf hw]
  simp only [State.issueBundle, State.core_setCore, hopened, State.foldl_coreAct_opened hl, hb.emptied_opened slot r rfl, hdone, hd,
    State.setCore_setCore, Bool.false_eq_true, if_false]
  rw [State.coreCycle_setCore _ _ (hcycle ▸ hb.cycle), hcycle]

/-- To the next bundle, by the loop check (R266). -/
theorem State.Between.issue_steps (hr : f s c = r) (hf : r.fault = none) (hg : ∀ a ∈ r.acts, a.GoesOn c) : s.issue (alone m) slot readsNone f
      = ((s.besides m c r.acts).setCore m ((r.acts.foldl MasonCore.acted c.stepped).inTransit (r.sent c.cycle))).settleFlight m := by
  have hloop := loopOf_of_goesOn hg
  have hflow : (r.acts.foldl MasonCore.acted c).flow = none := by
    rw [MasonCore.foldl_acted_flow hg]
    exact hb.flow
  have hd := MasonCore.advance_of_no_flow (d := c.setOut r) hflow
  have hcycle : (c.setOut r).cycle = c.cycle := by
    rw [MasonCore.setOut, MasonCore.foldl_acted_eq]
    rfl
  rw [← hloop] at hd
  rw [hb.issue_goesOn hr hf (waitOf_of_goesOn hg) (doneOf_of_goesOn hg) (fun a ha => (hg a ha).locksNothing) hd hcycle,
    ← MasonCore.stepped_setOut, ← hcycle]
  rfl

/-- To the first delay bundle of a branch (R265). -/
theorem State.Between.issue_branches {t : Nat} (hr : f s c = r) (hf : r.fault = none) (hacts : r.acts = [.branch t]) :
    s.issue (alone m) slot readsNone f = (s.setCore m ((c.branching t).inTransit (r.sent c.cycle))).settleFlight m := by
  have hout : c.setOut r = ({ c with flow := some (t, 3) } : MasonCore).inTransit (r.sent c.cycle) := by
    rw [MasonCore.setOut, hacts]
    rfl
  have hd : (c.setOut r).advance (loopOf r.acts) = ({ (c.branching t).inTransit (r.sent c.cycle) with cycle := c.cycle }, false) := by
    rw [hout, hacts]
    exact MasonCore.advance_of_branch (d := ({ c with flow := some (t, 3) } : MasonCore).inTransit (r.sent c.cycle)) rfl
  rw [hb.issue_goesOn hr hf (by simp [hacts, waitOf]) (by rw [hacts]; rfl) (by simp [hacts, MasonAct.LocksNothing]) hd rfl, hacts]
  rfl

/-- Back to where an interrupt or an exception came (R267). -/
theorem State.Between.issue_returns (hr : f s c = { acts := [.rti] }) :
    s.issue (alone m) slot readsNone f = s.setCore m { c.branching c.ira with rti := true } := by
  have hout : c.setOut { acts := [.rti] } = ({ c with flow := some (c.ira, 3), rti := true } : MasonCore).inTransit [] := rfl
  have hback : ({ c.branching c.ira with rti := true } : MasonCore).inTransit [] = { c.branching c.ira with rti := true } :=
    congrArg (fun d => ({ d.branching d.ira with rti := true } : MasonCore)) hb.inTransit_nil
  have hd : (c.setOut { acts := [.rti] }).advance none
      = ({ ({ c.branching c.ira with rti := true } : MasonCore).inTransit [] with cycle := c.cycle }, false) := by
    rw [hout]
    exact MasonCore.advance_of_branch (d := ({ c with flow := some (c.ira, 3), rti := true } : MasonCore).inTransit []) rfl
  rw [hb.issue_goesOn hr rfl (by simp [waitOf]) rfl (by simp [MasonAct.LocksNothing]) hd rfl]
  exact (State.settleFlight_of_none rfl s m).trans (congrArg (s.setCore m) hback)

/-- To the body of a loop, or past it (R266). -/
theorem State.Between.issue_loops {x count body : Nat} (hr : f s c = r) (hf : r.fault = none) (hwrites : r.writes = [])
    (hacts : r.acts = [.loop x count body]) : s.issue (alone m) slot readsNone f
      = s.setCore m { c.looped x count body with cycle := c.cycle + 1 } := by
  have hout : c.setOut r = c := by
    rw [MasonCore.setOut, OpResult.sent, hwrites, hacts]
    exact hb.inTransit_nil
  have hd : (c.setOut r).advance (loopOf r.acts) = (c.looped x count body, false) := by
    rw [hout, hacts]
    exact MasonCore.advance_of_loop hb.flow x count body
  rw [hb.issue_goesOn hr hf (by simp [hacts, waitOf]) (by rw [hacts]; rfl) (by simp [hacts, MasonAct.LocksNothing]) hd rfl, hacts]
  exact State.settleFlight_of_none (c := { c.looped x count body with cycle := c.cycle + 1 }) hb.flight s m

/-- The end of the task (R270). -/
theorem State.Between.issue_done {v : Nat} (hr : f s c = r) (hf : r.fault = none) (hwrites : r.writes = []) (hacts : r.acts = [.done v]) :
    s.issue (alone m) slot readsNone f = if v = 0 then (s.setCore m c).taskDone m else (s.setCore m c).taskFails m 6 := by
  have hout : c.setOut r = c := by
    rw [MasonCore.setOut, OpResult.sent, hwrites, hacts]
    exact hb.inTransit_nil
  have hnone : ∀ a ∈ r.acts, a.LocksNothing := by simp [hacts, MasonAct.LocksNothing]
  have hbeside : s.besides m c r.acts = s := by rw [hacts]; rfl
  have hopened : (c.opened slot r).acts = r.acts := rfl
  have hdone : doneOf r.acts = some v := by rw [hacts]; rfl
  rw [hb.issue_issues hr hf (by simp [hacts, waitOf])]
  simp only [State.issueBundle, State.core_setCore, hopened, State.foldl_coreAct_opened hnone, hbeside, hb.emptied_opened slot r rfl, hdone, hout,
    State.setCore_setCore, State.drain_of_none hb.flight]

/-- An XWAIT for fewer transfers than are outstanding: a cycle passes, and the bundle stays open (R268). -/
theorem State.Between.issue_stalls {n : Nat} (hr : f s c = r) (hf : r.fault = none) (hwrites : r.writes = []) (hdests : r.dests = [])
    (hacts : r.acts = [.wait n]) (hn : n < c.xfers.length) :
    s.issue (alone m) slot readsNone f = s.setCore m { c with slot := 2, cycle := c.cycle + 1 } := by
  have hopened : (c.opened slot r).fault = none := hf
  have hwait : waitOf (c.opened slot r).acts = some n := (congrArg waitOf hacts).trans rfl
  have hxfers : n < (c.opened slot r).xfers.length := hn
  have hstalled : { c.opened slot r with slot := 2, acts := (c.opened slot r).acts.filter (fun a => a != MasonAct.wait n), fault := none }
      = { c with slot := 2 } := by
    simp [MasonCore.opened, hwrites, hdests, hacts, hb.bundle, hb.acts, hb.dests, hb.fault]
  rw [hb.issue_readsNone hr, hf]
  simp only [State.poisonMet_none, State.endBundle, State.core_setCore, hopened, hwait, hxfers, if_true, State.setCore_setCore]
  refine (congrArg (fun d => (s.setCore m d).coreCycle m) hstalled).trans ?_
  exact (State.coreCycle_setCore s m (d := { c with slot := 2 }) hb.cycle).trans
    (State.settleFlight_of_none (c := { c with slot := 2, cycle := c.cycle + 1 }) hb.flight s m)

/-- An XWAIT that a failed transfer meets (R268). -/
theorem State.Between.issue_xferFault {n : Nat} (hr : f s c = r) (hf : r.fault = none) (hacts : r.acts = [.wait n]) (hn : c.xfers.length ≤ n)
    (hfailed : c.failed ≠ 0) :
    s.issue (alone m) slot readsNone f = (s.setCore m { c with failed := 0 }).coreException m 5 0 := by
  have hopened : (c.opened slot r).fault = none := hf
  have hwait : waitOf (c.opened slot r).acts = some n := (congrArg waitOf hacts).trans rfl
  have hxfers : ¬ n < (c.opened slot r).xfers.length := Nat.not_lt.2 hn
  have hmet : (c.opened slot r).failed ≠ 0 := hfailed
  rw [hb.issue_readsNone hr, hf]
  simp only [State.poisonMet_none, State.endBundle, State.core_setCore, hopened, hwait, hxfers, hmet, ne_eq, not_false_eq_true, if_false, if_true,
    State.setCore_setCore]
  have hsame : MasonCore.emptied { c.opened slot r with failed := 0, fault := none } = MasonCore.emptied { c with failed := 0 } := rfl
  exact State.coreException_congr hsame s m 5 0

end

end Sys2Proof.Machine
end

section
/-! What the results of one mason operation come to -/
namespace Sys2Proof.Machine

/-! Results in transit -/

theorem State.settleFlight_inTransit (s : State) (m : Nat) (d : MasonCore) (l : List MasonWrite) :
    (s.setCore m (d.inTransit l)).settleFlight m = (s.setCore m (d.inTransit [])).landDue m l :=
  State.settleFlight_setCore s m (d.inTransit l)

variable {s : State} {m : Nat} {d : MasonCore}

/-- A result that is due later stays on its way. -/
theorem State.landDue_stays {w : MasonWrite} (h : d.cycle < w.due) (k l : List MasonWrite) :
    (s.setCore m (d.inTransit k)).landDue m (w :: l) = (s.setCore m (d.inTransit (k ++ [w]))).landDue m l :=
  State.landDue_later (c := d.inTransit k) h s m l

theorem State.landDue_vec {due n : Nat} (h : due ≤ d.cycle) (x : List Cplx) (k l : List MasonWrite) :
    (s.setCore m (d.inTransit k)).landDue m (⟨due, .vec n x⟩ :: l)
      = (s.setCore m (({ d with v := tput zero8 n x d.v } : MasonCore).inTransit k)).landDue m l :=
  State.landDue_due (w := ⟨due, .vec n x⟩) (c := d.inTransit k) h rfl s m l

theorem State.landDue_ptr {due n : Nat} (h : due ≤ d.cycle) (v : Nat) (k l : List MasonWrite) :
    (s.setCore m (d.inTransit k)).landDue m (⟨due, .ptr n v⟩ :: l) = (s.setCore m ((d.setP n v).inTransit k)).landDue m l :=
  State.landDue_due (w := ⟨due, .ptr n v⟩) (c := d.inTransit k) h rfl s m l

/-- A core whose OVF a result sets. -/
def MasonCore.overflowed (c : MasonCore) (ovf : Bool) : MasonCore := if ovf then c.status 15 true false else c

@[simp] theorem MasonCore.overflowed_bundle (c : MasonCore) (ovf : Bool) : (c.overflowed ovf).bundle = c.bundle := by cases ovf <;> rfl

@[simp] theorem MasonCore.overflowed_flight (c : MasonCore) (ovf : Bool) : (c.overflowed ovf).flight = c.flight := by cases ovf <;> rfl

@[simp] theorem MasonCore.overflowed_cycle (c : MasonCore) (ovf : Bool) : (c.overflowed ovf).cycle = c.cycle := by cases ovf <;> rfl

variable {c : MasonCore} (hb : s.Between m c) {slot : Nat} {f : State → MasonCore → OpResult}
include hb

/-- ILLEGAL. -/
theorem State.Between.issue_illegal (hr : f s c = illegal) : s.issue (alone m) slot readsNone f = (s.setCore m c).coreException m 2 0 :=
  (hb.issue_faults hr rfl).trans (by rw [State.poisonMet_of_ne (by decide)])

/-- What sets OVF or not is an act that goes on. -/
theorem State.Between.issue_vecOp {n latency : Nat} {l : List Cplx} {ovf : Bool} (hr : f s c = vecOp n latency l ovf) :
    s.issue (alone m) slot readsNone f
      = (s.setCore m ((c.stepped.overflowed ovf).inTransit [⟨c.cycle + latency, .vec n l⟩])).settleFlight m := by
  rw [hb.issue_steps hr rfl (by cases ovf <;> simp [vecOp, MasonAct.GoesOn])]
  cases ovf <;> rfl

/-- A vector result of latency 1 is there for the next bundle (R265). -/
theorem State.Between.issue_vector {n : Nat} {l : List Cplx} {ovf : Bool} (hr : f s c = vecOp n 1 l ovf) :
    s.issue (alone m) slot readsNone f
      = s.setCore m { c.stepped.overflowed ovf with v := tput zero8 n l (c.stepped.overflowed ovf).v } := by
  have hcycle : c.cycle + 1 ≤ (c.stepped.overflowed ovf).cycle := by
    rw [MasonCore.overflowed_cycle]
    exact le_rfl
  rw [hb.issue_vecOp hr, State.settleFlight_inTransit, State.landDue_vec hcycle, State.landDue_nil, MasonCore.inTransit_of_none]
  · exact (MasonCore.overflowed_bundle _ _).trans hb.bundle
  · exact (MasonCore.overflowed_flight _ _).trans hb.flight

/-- A vector result of a longer latency is on its way. -/
theorem State.Between.issue_lateVector {n latency : Nat} {l : List Cplx} {ovf : Bool} (hlate : 1 < latency) (hr : f s c = vecOp n latency l ovf) :
    s.issue (alone m) slot readsNone f = s.setCore m { c.stepped.overflowed ovf with flight := [⟨c.cycle + latency, .vec n l⟩] } := by
  have hcycle : (c.stepped.overflowed ovf).cycle < c.cycle + latency := by
    rw [MasonCore.overflowed_cycle]
    exact Nat.add_lt_add_left hlate _
  rw [hb.issue_vecOp hr, State.settleFlight_inTransit, State.landDue_stays hcycle, State.landDue_nil, MasonCore.inTransit_of_empty]
  · rfl
  · exact (MasonCore.overflowed_bundle _ _).trans hb.bundle

/-- A scaled move into a vector: ST and SH follow at once, and a change of SH is counted (R263, R264). -/
theorem State.Between.issue_scaledMove {n : Nat} {x : ScaledMove} (hr : f s c = { vecOp n 2 x.lanes false with acts := [x.act] }) :
    s.issue (alone m) slot readsNone f = (if x.up && decide (c.sh < 39) then s.bump Ix.MasonScaleEvents (m + 1) else s).setCore m
      { c.stepped.status x.hr x.ovf x.up with flight := [⟨c.cycle + 2, .vec n x.lanes⟩] } := by
  have hcycle : (c.stepped.status x.hr x.ovf x.up).cycle < c.cycle + 2 := Nat.lt_succ_self _
  rw [hb.issue_steps hr rfl (by simp [ScaledMove.act, MasonAct.GoesOn])]
  refine (State.settleFlight_inTransit _ m (c.stepped.status x.hr x.ovf x.up) [⟨c.cycle + 2, .vec n x.lanes⟩]).trans ?_
  rw [State.landDue_stays hcycle, State.landDue_nil, MasonCore.inTransit_of_empty]
  · rfl
  · exact hb.bundle

/-- A product or a sum: chained at once for the MAC family, and on its way for others (R265). -/
theorem State.Between.issue_macOp {n : Nat} {l : List Cplx} (hr : f s c = macOp n l) : s.issue (alone m) slot readsNone f
    = s.setCore m { c.stepped with chain := tput zero8 n (l.map cwrap) c.chain, flight := [⟨c.cycle + 4, .acc n (l.map cwrap)⟩] } := by
  have hcycle : ({ c.stepped with chain := tput zero8 n (l.map cwrap) c.chain } : MasonCore).cycle < c.cycle + 4 := by
    show c.cycle + 1 < c.cycle + 4
    omega
  rw [hb.issue_steps hr rfl (by simp [macOp, MasonAct.GoesOn])]
  refine (State.settleFlight_inTransit s m ({ c.stepped with chain := tput zero8 n (l.map cwrap) c.chain } : MasonCore)
    [⟨c.cycle + 4, .acc n (l.map cwrap)⟩]).trans ?_
  rw [State.landDue_stays hcycle, State.landDue_nil, MasonCore.inTransit_of_empty]
  · rfl
  · exact hb.bundle

end Sys2Proof.Machine
end

section
/-! Vectors and products of the masons, and the statement of 11_masons.md on them (R260 to R265). -/
namespace Sys2Proof.Machine

section
variable {s : State} {m : Nat} {c : MasonCore} (hb : s.Between m c)
include hb

/-- A result per lane that saturates (R261). -/
theorem State.Between.satLanes_eq (f : AFormat) (g : Cplx → Cplx → Cplx) {a b : List Cplx} (ha : a = c.getV f.va.toNat)
    (hb' : b = c.getV f.vb.toNat) : satLanes (alone m) f g s = s.setCore m { c.stepped.overflowed ((lanes2 g a b).any satChanges) with
      v := tput zero8 f.vd.toNat ((lanes2 g a b).map csat) (c.stepped.overflowed ((lanes2 g a b).any satChanges)).v } :=
  hb.issue_vector (by rw [ha, hb'])

/-- A function per lane, of latency 6 (R262). -/
theorem State.Between.laneFunction_eq (f : AFormat) (g : Cplx → Cplx × Bool) {a : List Cplx} (ha : a = c.getV f.va.toNat) :
    laneFunction (alone m) f g s = s.setCore m { c.stepped.overflowed (a.any (fun x => (g x).2)) with
      flight := [⟨c.cycle + 6, .vec f.vd.toNat (a.map (fun x => (g x).1))⟩] } :=
  hb.issue_lateVector (by decide) (by rw [ha]; simp only [List.any_map, List.map_map]; rfl)

/-- An operation of the MAC family (R261, R265). -/
theorem State.Between.macLanes_eq (f : MFormat) (g : Cplx → Cplx → Cplx → Cplx) {z a b l : List Cplx} (hz : z = c.getChain f.acca.toNat)
    (ha : a = c.getV f.va.toNat) (hb' : b = c.getV f.vb.toNat)
    (hl : l = (List.range 8).map (fun i => cwrap (g (z.getD i czero) (a.getD i czero) (b.getD i czero)))) :
    macLanes (alone m) f g s
      = s.setCore m { c.stepped with chain := tput zero8 f.acca.toNat l c.chain, flight := [⟨c.cycle + 4, .acc f.acca.toNat l⟩] } := by
  have hwrapped : l = ((List.range 8).map (fun i => g (z.getD i czero) (a.getD i czero) (b.getD i czero))).map cwrap := by
    rw [hl, List.map_map]
    rfl
  rw [hwrapped]
  exact hb.issue_macOp (by rw [hz, ha, hb'])

/-- TAPM of an even VB: the product goes the way of the MAC family, and the pair of vectors has moved for the next bundle (R260). -/
theorem State.Between.tapm {f : MFormat} {l newer older : List Cplx} {d : MasonCore} (heven : f.vb.toNat % 2 = 0)
    (hl : l = (lanes2 cadd (c.getChain f.acca.toNat) (lanes2 cmul (c.getV f.va.toNat) (c.getV f.vb.toNat))).map cwrap)
    (hm : tapMove (c.getV f.vb.toNat) (c.getV (f.vb.toNat + 1)) = (newer, older))
    (hd : d = { c.stepped with chain := tput zero8 f.acca.toNat l c.chain, flight := [⟨c.cycle + 4, .acc f.acca.toNat l⟩] }) :
    s.issue (alone m) 1 readsNone (fun _ c => tapOp f c)
      = s.setCore m { d with v := tput zero8 (f.vb.toNat + 1) older (tput zero8 f.vb.toNat newer d.v) } := by
  have hop : tapOp f c = {
      writes := [⟨4, .acc f.acca.toNat l⟩, ⟨1, .vec f.vb.toNat newer⟩, ⟨1, .vec (f.vb.toNat + 1) older⟩]
      acts := [.mac f.acca.toNat l]
      dests := [nameAcc f.acca.toNat, nameV f.vb.toNat, nameV (f.vb.toNat + 1)] } := by
    simp only [tapOp, heven, Nat.zero_ne_one, if_false, hm, macOp, ← hl, List.cons_append, List.nil_append]
  have hlate : ({ c.stepped with chain := tput zero8 f.acca.toNat l c.chain } : MasonCore).cycle < c.cycle + 4 := by
    show c.cycle + 1 < c.cycle + 4
    omega
  rw [hb.issue_steps hop rfl (by simp [MasonAct.GoesOn])]
  refine (State.settleFlight_inTransit s m ({ c.stepped with chain := tput zero8 f.acca.toNat l c.chain } : MasonCore)
    [⟨c.cycle + 4, .acc f.acca.toNat l⟩, ⟨c.cycle + 1, .vec f.vb.toNat newer⟩, ⟨c.cycle + 1, .vec (f.vb.toNat + 1) older⟩]).trans ?_
  rw [State.landDue_stays hlate, State.landDue_vec (by exact le_rfl), State.landDue_vec (by exact le_rfl), State.landDue_nil,
    MasonCore.inTransit_of_empty, hd]
  · rfl
  · exact hb.bundle

theorem State.Between.tapm_odd {f : MFormat} (hodd : f.vb.toNat % 2 = 1) :
    s.issue (alone m) 1 readsNone (fun _ c => tapOp f c) = (s.setCore m c).coreException m 2 0 :=
  hb.issue_illegal (by simp only [tapOp, hodd, if_true])

end

/-- Settles O33, operation by operation: what a bundle of one operation comes to is the lemma named for its kind of result. -/
theorem masonVectorsAndProducts : Obligations.MasonVectorsAndProducts := by
  unfold Obligations.MasonVectorsAndProducts
  refine ⟨?vectors, ?products⟩
  case vectors =>
    rintro s m c f a b put late hb ha hb' rfl rfl
    refine ⟨?_, ?_, ?_, ?_, ?_, ?_, ?_, ?_⟩
    · exact congrArg Host.Outcome.next (hb.satLanes_eq f cadd ha hb')
    · exact congrArg Host.Outcome.next (hb.satLanes_eq f _ ha hb')
    · exact congrArg Host.Outcome.next (hb.satLanes_eq f (fun x _ => conj x) ha hb')
    · exact congrArg Host.Outcome.next (hb.issue_vector (ovf := false) (by rw [ha]))
    · exact congrArg Host.Outcome.next (hb.issue_vector (ovf := false) (by rw [ha]))
    · exact congrArg Host.Outcome.next (hb.laneFunction_eq f recipLane ha)
    · exact congrArg Host.Outcome.next (hb.laneFunction_eq f rsqrtLane ha)
    · rintro x rfl
      exact congrArg Host.Outcome.next (hb.issue_scaledMove rfl)
  case products =>
    rintro s m c f z a b put hb hz ha hb' rfl
    refine ⟨?_, ?_, ?_, ?_, ?_, ?_, ?_, ?_, ?_⟩
    · exact congrArg Host.Outcome.next (hb.macLanes_eq f _ hz ha hb' rfl)
    · exact congrArg Host.Outcome.next (hb.macLanes_eq f _ hz ha hb' rfl)
    · exact congrArg Host.Outcome.next (hb.macLanes_eq f _ hz ha hb' rfl)
    · exact congrArg Host.Outcome.next (hb.macLanes_eq f _ hz ha hb' rfl)
    · exact congrArg Host.Outcome.next (hb.macLanes_eq f _ hz ha hb' rfl)
    · exact congrArg Host.Outcome.next (hb.macLanes_eq f _ hz ha hb' rfl)
    · rintro l rfl
      exact congrArg Host.Outcome.next (hb.issue_macOp (by rw [hz]))
    · rintro l older d heven hl rfl hd
      exact congrArg Host.Outcome.next (hb.tapm heven (by rw [hl, hz, ha, hb']) (by rw [hb']; rfl) hd)
    · exact fun hodd => congrArg Host.Outcome.next (hb.tapm_odd hodd)

end Sys2Proof.Machine
end

section
/-! The reciprocals of the masons, and the statement of 11_masons.md that they are exact (R262) -/
namespace Sys2Proof.Machine

/-! The integer square root -/

/-- Bit after bit, the root keeps its bounds. -/
theorem isqrtFrom_bounds {n k r : Nat} (hle : r ^ 2 ≤ n) (hlt : n < (r + 2 ^ k) ^ 2) :
    isqrtFrom n k r ^ 2 ≤ n ∧ n < (isqrtFrom n k r + 1) ^ 2 := by
  induction k generalizing r with
  | zero => exact ⟨hle, hlt⟩
  | succ k ih =>
    rw [isqrtFrom]
    split
    next h =>
      refine ih (by rwa [pow_two]) ?_
      rwa [Nat.add_assoc, ← Nat.two_mul, ← Nat.pow_succ']
    next h => exact ih hle (by rw [pow_two]; exact Nat.lt_of_not_le h)

theorem isqrt_bounds (n : Nat) : isqrt n ^ 2 ≤ n ∧ n < (isqrt n + 1) ^ 2 := by
  refine isqrtFrom_bounds (Nat.zero_le n) ?_
  calc n < 2 ^ (Nat.log2 n + 1) := Nat.lt_log2_self
    _ ≤ 2 ^ ((Nat.log2 n / 2 + 1) * 2) := Nat.pow_le_pow_right (by decide) (by omega)
    _ = (0 + 2 ^ (Nat.log2 n / 2 + 1)) ^ 2 := by rw [Nat.zero_add, ← Nat.pow_mul]

/-- The root of a quotient, as a bound of the divisor. -/
theorem isqrt_div_bounds (n : Nat) {d : Nat} (hd : 0 < d) : isqrt (n / d) ^ 2 * d ≤ n ∧ n < (isqrt (n / d) + 1) ^ 2 * d := by
  obtain ⟨hle, hlt⟩ := isqrt_bounds (n / d)
  exact ⟨(Nat.le_div_iff_mul_le hd).1 hle, (Nat.div_lt_iff_lt_mul hd).1 hlt⟩

/-! The doublings -/

/-- Where 14 doublings are enough, the least number of steps that is. -/
theorem normShift_least {x bound step : Nat} (h : bound ≤ x * 2 ^ (14 / step * step)) :
    ∃ k ≤ 14 / step, normShift x bound step = k * step ∧ bound ≤ x * 2 ^ (k * step) ∧ ∀ j < k, x * 2 ^ (j * step) < bound := by
  have hfind : ((List.range (14 / step + 1)).find? (fun k => decide (bound ≤ x * 2 ^ (k * step)))).isSome = true :=
    List.find?_isSome.2 ⟨14 / step, List.mem_range.2 (Nat.lt_succ_self _), decide_eq_true h⟩
  obtain ⟨k, hk⟩ := Option.isSome_iff_exists.1 hfind
  obtain ⟨hbound, hmem, hleast⟩ := List.find?_range_eq_some.1 hk
  refine ⟨k, Nat.le_of_lt_succ (List.mem_range.1 hmem), ?_, of_decide_eq_true hbound, fun j hj => ?_⟩
  · rw [normShift, List.find?_map]
    exact congrArg (fun o => (o.map (· * step)).getD 14) hk
  · simpa using hleast j hj

/-! The lanes -/

theorem recipLane_of_nonpos {a : Cplx} (h : a.re ≤ 0) : recipLane a = (⟨32767, 15⟩, true) := if_pos h

theorem rsqrtLane_of_nonpos {a : Cplx} (h : a.re ≤ 0) : rsqrtLane a = (⟨32767, 15⟩, true) := if_pos h

theorem recipLane_exact {a : Cplx} (h : 0 < a.re) :
    ∃ k ≤ 14, (recipLane a).1.im = (k : Nat) ∧ 16384 ≤ a.re * 2 ^ k ∧ (∀ j < k, a.re * 2 ^ j < 16384)
      ∧ (recipLane a).1.re = min 32767 (2 ^ 29 / (a.re * 2 ^ k)) := by
  obtain ⟨x, hx⟩ := Int.eq_ofNat_of_zero_le h.le
  have hpos : 1 ≤ x := by omega
  obtain ⟨k, hk, hshift, hbound, hleast⟩ := normShift_least (x := x) (bound := 16384) (step := 1) (by omega)
  simp only [Nat.mul_one] at hshift hbound hleast
  have hlane : recipLane a = (⟨(min 32767 (2 ^ 29 / (x * 2 ^ k)) : Nat), k⟩, false) := by
    rw [recipLane, if_neg h.not_ge, hx]
    simp only [Int.toNat_natCast, hshift]
  rw [hlane, hx]
  dsimp only
  exact ⟨k, hk, rfl, by exact_mod_cast hbound, fun j hj => by exact_mod_cast hleast j hj, by push_cast; rfl⟩

theorem rsqrtLane_exact {a : Cplx} (h : 0 < a.re) :
    ∃ k ≤ 7, (rsqrtLane a).1.im = (k : Nat) ∧ 8192 ≤ a.re * 2 ^ (2 * k) ∧ (∀ j < k, a.re * 2 ^ (2 * j) < 8192)
      ∧ 0 ≤ (rsqrtLane a).1.re ∧ (rsqrtLane a).1.re ^ 2 * (a.re * 2 ^ (2 * k)) ≤ 2 ^ 42
      ∧ 2 ^ 42 < ((rsqrtLane a).1.re + 1) ^ 2 * (a.re * 2 ^ (2 * k)) := by
  obtain ⟨x, hx⟩ := Int.eq_ofNat_of_zero_le h.le
  have hpos : 1 ≤ x := by omega
  obtain ⟨k, hk, hshift, hbound, hleast⟩ := normShift_least (x := x) (bound := 8192) (step := 2) (by omega)
  simp only [Nat.mul_comm _ 2] at hshift hbound hleast
  obtain ⟨hle, hlt⟩ := isqrt_div_bounds (2 ^ 42) (d := x * 2 ^ (2 * k)) (by positivity)
  have hlane : rsqrtLane a = (⟨isqrt (2 ^ 42 / (x * 2 ^ (2 * k))), k⟩, false) := by
    rw [rsqrtLane, if_neg h.not_ge, hx]
    simp only [Int.toNat_natCast, hshift, Nat.mul_div_cancel_left k Nat.zero_lt_two]
  rw [hlane, hx]
  dsimp only
  exact ⟨k, hk, rfl, by exact_mod_cast hbound, fun j hj => by exact_mod_cast hleast j hj,
    Int.natCast_nonneg _, by exact_mod_cast hle, by exact_mod_cast hlt⟩

/-! The registers -/

theorem MasonCore.overflowed_ovf (c : MasonCore) : bitAt (c.overflowed true).st 7 = true := bitAt_setBit _ _

/-- A function per lane whose inputs are to be positive: each lane, and OVF where one is not. -/
theorem State.Between.laneFunction_lanes {s : State} {m : Nat} {c : MasonCore} (hb : s.Between m c) {f : AFormat} {g : Cplx → Cplx × Bool}
    {exact : Cplx → Cplx → Prop} {i : Instr} (hi : exec i s = .next (laneFunction (alone m) f g s))
    (hlen : (c.getV f.va.toNat).length = 8) (hnot : ∀ a : Cplx, a.re ≤ 0 → g a = (⟨32767, 15⟩, true))
    (hexact : ∀ a : Cplx, 0 < a.re → exact a (g a).1) :
    ∃ (t : State) (l : List Cplx), exec i s = .next t
      ∧ (t.core m).flight = [⟨c.cycle + 6, .vec f.vd.toNat l⟩] ∧ l.length = 8
      ∧ ((∃ a ∈ c.getV f.va.toNat, a.re ≤ 0) → bitAt (t.core m).st 7 = true)
      ∧ ∀ i < 8, ∀ a y : Cplx, a = (c.getV f.va.toNat).getD i czero → y = l.getD i czero →
        (a.re ≤ 0 → y = ⟨32767, 15⟩) ∧ (0 < a.re → exact a y) := by
  refine ⟨_, (c.getV f.va.toNat).map (fun x => (g x).1), hi.trans (congrArg Host.Outcome.next (hb.laneFunction_eq f g rfl)), ?_, ?_, ?_, ?_⟩
  · rw [State.core_setCore]
  · rw [List.length_map, hlen]
  · rintro ⟨a, ha, hneg⟩
    have hany : (c.getV f.va.toNat).any (fun x => (g x).2) = true := List.any_eq_true.2 ⟨a, ha, by rw [hnot a hneg]⟩
    rw [State.core_setCore, hany]
    exact c.stepped.overflowed_ovf
  · rintro i hi a y rfl rfl
    have hlt : i < (c.getV f.va.toNat).length := hlen ▸ hi
    simp only [List.getD_eq_getElem?_getD, List.getElem?_map, List.getElem?_eq_getElem hlt, Option.map_some, Option.getD_some]
    exact ⟨fun hneg => by rw [hnot _ hneg], hexact _⟩

/-- Settles O34: the least shift comes from `normShift_least`, the root's bounds from `isqrt_div_bounds`. -/
theorem reciprocalsAreExact : Obligations.ReciprocalsAreExact := by
  unfold Obligations.ReciprocalsAreExact
  intro s m c f hb hlen _
  exact ⟨hb.laneFunction_lanes rfl hlen (fun _ => recipLane_of_nonpos) (fun _ => recipLane_exact),
    hb.laneFunction_lanes rfl hlen (fun _ => rsqrtLane_of_nonpos) (fun _ => rsqrtLane_exact)⟩

end Sys2Proof.Machine
end

section
/-! Loads and stores of the masons, and the statements of 11_masons.md on them and on scaled moves (R255, R258, R263 to R265, R269) -/
namespace Sys2Proof.Machine

/-! Bytes of registers -/

theorem laneBytes_length (l : List Cplx) : (laneBytes l).length = 4 * l.length := by
  rw [laneBytes, List.length_flatMap, List.map_congr_left (g := fun _ => 4) fun x _ => by simp [cplxBytes], List.map_const', List.sum_replicate,
    smul_eq_mul, Nat.mul_comm]

theorem rawBytes_length (l : List Cplx) : (rawBytes l).length = 10 * l.length := by
  rw [rawBytes, List.length_flatMap, List.map_congr_left (g := fun _ => 10) fun x _ => by simp, List.map_const', List.sum_replicate,
    smul_eq_mul, Nat.mul_comm]

/-! Where an access goes -/

theorem badCircular_linear (f : LFormat) : badCircular f false = false := rfl

theorem badCircular_of_le {f : LFormat} (h : f.pn.toNat ≤ 7) : badCircular f true = false := by
  simp [badCircular, h]

/-- Aligned offsets stay on their side of the code window, whose end every alignment divides. -/
theorem MasonCore.window_le_at {c : MasonCore} {f : LFormat} {align : Nat} (hd : align ∣ 0x10000) (h : 0x10000 ≤ c.getP f.pn.toNat % 0x40000) :
    0x10000 ≤ c.at_ f align := by
  obtain ⟨k, hk⟩ := hd
  have hpos : 0 < align := by
    rcases Nat.eq_zero_or_pos align with h0 | h0
    · rw [h0, Nat.zero_mul] at hk
      omega
    · exact h0
  rw [hk, Nat.mul_comm] at h ⊢
  exact Nat.mul_le_mul_right align ((Nat.le_div_iff_mul_le hpos).2 h)

/-- An aligned access of the length of its alignment stays in the shelf. -/
theorem MasonCore.at_add_le {c : MasonCore} {f : LFormat} {align : Nat} (hpos : 0 < align) (hd : align ∣ 0x40000) :
    c.at_ f align + align ≤ 0x40000 := by
  obtain ⟨k, hk⟩ := hd
  have hlt : c.getP f.pn.toNat % 0x40000 / align < k :=
    (Nat.div_lt_iff_lt_mul hpos).2 ((Nat.mod_lt _ (by decide)).trans_eq (hk.trans (Nat.mul_comm _ _)))
  calc c.at_ f align + align = (c.getP f.pn.toNat % 0x40000 / align + 1) * align := by rw [MasonCore.at_, Nat.add_mul, Nat.one_mul]
    _ ≤ k * align := Nat.mul_le_mul_right align hlt
    _ = 0x40000 := by rw [hk, Nat.mul_comm]

/-! What a load or a store gives -/

theorem loadOp_of_sound {s : State} {m : Nat} {c : MasonCore} {f : LFormat} {circ : Bool} {align n name : Nat} {dest : List Byte → MasonDest}
    (hc : badCircular f circ = false) (hp : s.shelfPoison m (c.at_ f align) n = none) : loadOp s m c f circ align n name dest =
      { writes := [⟨3, dest (s.shelfBytes m (c.at_ f align) n)⟩], acts := [c.post f circ], dests := [name, nameP f.pn.toNat].eraseDups } := by
  simp only [loadOp, hc, Bool.false_eq_true, if_false, hp]

theorem loadOp_of_poison {s : State} {m x : Nat} {c : MasonCore} {f : LFormat} {circ : Bool} {align n name : Nat} {dest : List Byte → MasonDest}
    (hc : badCircular f circ = false) (hp : s.shelfPoison m (c.at_ f align) n = some x) :
    loadOp s m c f circ align n name dest = { fault := some (1, x) } := by
  simp only [loadOp, hc, Bool.false_eq_true, if_false, hp]

theorem storeOp_of_fits {c : MasonCore} {f : LFormat} {circ : Bool} {align : Nat} {bytes : List Byte} (acts : List MasonAct)
    (hc : badCircular f circ = false) (hw : 0x10000 ≤ c.at_ f align) (hl : c.at_ f align + bytes.length ≤ 0x40000) :
    storeOp c f circ align bytes acts =
      { writes := [⟨2, .store (c.at_ f align) bytes⟩], acts := c.post f circ :: acts, dests := [nameP f.pn.toNat] } := by
  simp only [storeOp, hc, Bool.false_eq_true, if_false, Nat.not_lt.2 hw, Nat.not_lt.2 hl]

theorem storeOp_of_code {c : MasonCore} {f : LFormat} {circ : Bool} {align : Nat} {bytes : List Byte} {acts : List MasonAct}
    (hc : badCircular f circ = false) (hw : c.at_ f align < 0x10000) : storeOp c f circ align bytes acts = { fault := some (3, c.at_ f align) } := by
  simp only [storeOp, hc, Bool.false_eq_true, if_false, hw, if_true]

/-! What their bundles come to -/

section
variable {s : State} {m : Nat} {c : MasonCore} (hb : s.Between m c) {slot : Nat} {f : State → MasonCore → OpResult}
include hb

/-- An access of the shelf: its result is on its way, and the pointer has its next value (R258, R265). -/
theorem State.Between.issue_access {latency n v : Nat} {d : MasonDest} {dests : List Nat} (hlate : 1 < latency)
    (hr : f s c = { writes := [⟨latency, d⟩], acts := [.post n v], dests := dests }) :
    s.issue (alone m) slot readsNone f = s.setCore m { c.stepped.setP n v with flight := [⟨c.cycle + latency, d⟩] } := by
  have hcycle : c.stepped.cycle < c.cycle + latency := Nat.add_lt_add_left hlate _
  have hacts : [MasonAct.post n v].foldl MasonCore.acted c.stepped = { c.stepped with bundle := c.stepped.bundle ++ [⟨1, .ptr n v⟩] } := rfl
  rw [hb.issue_steps hr rfl (by simp [MasonAct.GoesOn])]
  refine (State.settleFlight_inTransit s m c.stepped [⟨c.cycle + latency, d⟩, ⟨c.cycle + 1, .ptr n v⟩]).trans ?_
  rw [State.landDue_stays hcycle, State.landDue_ptr (by exact le_rfl), State.landDue_nil, MasonCore.inTransit_of_empty]
  · rfl
  · exact hb.bundle

/-- An access of a scaled move, whose status follows at once (R263, R264). -/
theorem State.Between.issue_scaledAccess {n v : Nat} {d : MasonDest} {dests : List Nat} {x : ScaledMove}
    (hr : f s c = { writes := [⟨2, d⟩], acts := [.post n v, x.act], dests := dests }) : s.issue (alone m) slot readsNone f
      = (if x.up && decide (c.sh < 39) then s.bump Ix.MasonScaleEvents (m + 1) else s).setCore m
        { (c.stepped.setP n v).status x.hr x.ovf x.up with flight := [⟨c.cycle + 2, d⟩] } := by
  have hcycle : (c.stepped.status x.hr x.ovf x.up).cycle < c.cycle + 2 := Nat.lt_succ_self _
  rw [hb.issue_steps hr rfl (by simp [ScaledMove.act, MasonAct.GoesOn])]
  refine (State.settleFlight_inTransit _ m (c.stepped.status x.hr x.ovf x.up) [⟨c.cycle + 2, d⟩, ⟨c.cycle + 1, .ptr n v⟩]).trans ?_
  rw [State.landDue_stays hcycle, State.landDue_ptr (by exact le_rfl), State.landDue_nil, MasonCore.inTransit_of_empty]
  · rfl
  · exact hb.bundle

/-- A load of words without a poison mark. -/
theorem State.Between.load (hu : s.mem.upsets = []) {g : LFormat} {circ : Bool} {align n name : Nat} {dest : List Byte → MasonDest} {d : MasonDest}
    (touch : MasonCore → Option (Nat × Nat)) (hc : badCircular g circ = false) (hp : s.shelfPoison m (c.at_ g align) n = none)
    (hd : d = dest (s.shelfBytes m (c.at_ g align) n)) :
    s.issue (alone m) slot touch (fun s c => loadOp s m c g circ align n name dest)
      = s.setCore m { c.stepped.setP g.pn.toNat (c.postModify circ g.pn.toNat (incOf g)) with flight := [⟨c.cycle + 3, d⟩] } := by
  rw [hb.issue_of_sound hu, hd]
  exact hb.issue_access (by decide) (loadOp_of_sound hc hp)

/-- A load that meets a word with the poison mark. -/
theorem State.Between.load_poison (hu : s.mem.upsets = []) {g : LFormat} {circ : Bool} {align n name x : Nat} {dest : List Byte → MasonDest}
    (touch : MasonCore → Option (Nat × Nat)) (hc : badCircular g circ = false) (hp : s.shelfPoison m (c.at_ g align) n = some x) :
    s.issue (alone m) slot touch (fun s c => loadOp s m c g circ align n name dest)
      = ((s.consumePoison (shelfBase m + x)).setCore m c).coreException m 1 x := by
  rw [hb.issue_of_sound hu]
  rw [hb.issue_faults (loadOp_of_poison hc hp) rfl, State.poisonMet_word]

/-- A store in the shelf, outside the code window. -/
theorem State.Between.store {g : LFormat} {circ : Bool} {align : Nat} {bytes : MasonCore → List Byte} (hd : align ∣ 0x10000)
    (hw : 0x10000 ≤ c.getP g.pn.toNat % 0x40000) (hc : badCircular g circ = false) (hl : c.at_ g align + (bytes c).length ≤ 0x40000) :
    s.issue (alone m) slot readsNone (fun _ c => storeOp c g circ align (bytes c) [])
      = s.setCore m { c.stepped.setP g.pn.toNat (c.postModify circ g.pn.toNat (incOf g)) with
        flight := [⟨c.cycle + 2, .store (c.at_ g align) (bytes c)⟩] } :=
  hb.issue_access (by decide) (storeOp_of_fits [] hc (MasonCore.window_le_at hd hw) hl)

/-- A store of a scaled move, outside the code window. -/
theorem State.Between.storeScaled_eq {g : LFormat} {circ : Bool} {x : ScaledMove} (hx : x = c.scaledMove (g.reg.toNat % 4))
    (hlen : x.lanes.length = 8) (hw : 0x10000 ≤ c.getP g.pn.toNat % 0x40000) (hc : badCircular g circ = false) :
    storeScaled circ (alone m) g s = (if x.up && decide (c.sh < 39) then s.bump Ix.MasonScaleEvents (m + 1) else s).setCore m
      { (c.stepped.setP g.pn.toNat (c.postModify circ g.pn.toNat (incOf g))).status x.hr x.ovf x.up with
        flight := [⟨c.cycle + 2, .store (c.at_ g 32) (laneBytes x.lanes)⟩] } := by
  have hfits : c.at_ g 32 + (laneBytes x.lanes).length ≤ 0x40000 := by
    rw [laneBytes_length, hlen]
    exact MasonCore.at_add_le (by decide) (by decide)
  subst hx
  exact hb.issue_scaledAccess (storeOp_of_fits [(c.scaledMove (g.reg.toNat % 4)).act] hc (MasonCore.window_le_at (by decide) hw) hfits)

end

/-- Settles O36: loads by `State.Between.load`, stores by `State.Between.store`, and the two exceptions by the results that raise them. -/
theorem masonsLoadAndStore : Obligations.MasonsLoadAndStore := by
  unfold Obligations.MasonsLoadAndStore
  refine ⟨?loads, ?stores⟩
  case loads =>
    rintro s m c f put hb hu rfl
    refine ⟨fun hp => ⟨?_, fun hn => ?_⟩, fun hp => ⟨?_, fun hn => ?_, ?_⟩, fun hp => ?_, fun x hp => ?_⟩
    · exact congrArg Host.Outcome.next (hb.load (dest := fun l => .vec f.reg.toNat (lanesOf l)) hu _ rfl hp rfl)
    · exact congrArg Host.Outcome.next (hb.load (dest := fun l => .vec f.reg.toNat (lanesOf l)) hu _ (badCircular_of_le hn) hp rfl)
    · exact congrArg Host.Outcome.next (hb.load (dest := fun l => .vec f.reg.toNat (List.replicate 8 (laneOf l))) hu _ rfl hp rfl)
    · exact congrArg Host.Outcome.next (hb.load (dest := fun l => .vec f.reg.toNat (List.replicate 8 (laneOf l))) hu _ (badCircular_of_le hn) hp rfl)
    · exact congrArg Host.Outcome.next (hb.load (dest := fun l => .ptr (pdNum f) (ofInt 40 (toInt 32 (leNat l)))) hu _ rfl hp rfl)
    · exact congrArg Host.Outcome.next (hb.load (dest := fun l => .acc (accNum f) (rawLanes l)) hu _ rfl hp rfl)
    · exact congrArg Host.Outcome.next (hb.load_poison (dest := fun l => .vec f.reg.toNat (lanesOf l)) hu _ rfl hp)
  case stores =>
    rintro s m c f next hb rfl
    refine ⟨fun hw hlen => ?_, fun hw => ?_, fun hw hlen hend => ?_, ?_, fun hw => ?_⟩
    · have hfits : c.at_ f 32 + (laneBytes (c.getV f.reg.toNat)).length ≤ 0x40000 := by
        rw [laneBytes_length, hlen]
        exact MasonCore.at_add_le (by decide) (by decide)
      exact ⟨congrArg Host.Outcome.next (hb.store (by decide) hw rfl hfits),
        fun hn => congrArg Host.Outcome.next (hb.store (by decide) hw (badCircular_of_le hn) hfits)⟩
    · have hfits : c.at_ f 4 + (leBytes 4 (c.getP (pdNum f))).length ≤ 0x40000 := by
        rw [leBytes_length]
        exact MasonCore.at_add_le (by decide) (by decide)
      exact congrArg Host.Outcome.next (hb.store (by decide) hw rfl hfits)
    · exact congrArg Host.Outcome.next (hb.store (by decide) hw rfl (by rwa [accNum, rawBytes_length, hlen]))
    · rintro x t hw hx hlen rfl
      exact ⟨congrArg Host.Outcome.next (hb.storeScaled_eq hx hlen hw rfl),
        fun hn => congrArg Host.Outcome.next (hb.storeScaled_eq hx hlen hw (badCircular_of_le hn))⟩
    · have hcode : c.at_ f 4 < 0x10000 := (Nat.div_mul_le_self _ _).trans_lt hw
      refine congrArg Host.Outcome.next ((hb.issue_faults (storeOp_of_code rfl hcode) rfl).trans ?_)
      rw [State.poisonMet_of_ne (by decide)]

end Sys2Proof.Machine
end

section
/-! The statement of 11_masons.md that scaled moves saturate (R263) -/
namespace Sys2Proof.Machine

theorem sat16_eq_max_min (x : Int) : sat16 x = max (-32768) (min 32767 x) := by
  simp only [sat16, clampInt]
  split_ifs <;> omega

theorem satChanges_iff (x : Cplx) : satChanges x = true ↔ x.re < -32768 ∨ 32767 < x.re ∨ x.im < -32768 ∨ 32767 < x.im := by
  simp only [satChanges, Bool.or_eq_true, bne_iff_ne, sat16_eq_max_min]
  omega

/-- A move saturates where a part of its accumulator, shifted, is outside 16 bits. -/
theorem MasonCore.scaledMove_ovf_iff (c : MasonCore) (n : Nat) : (c.scaledMove n).ovf = true ↔
    ∃ x ∈ c.getAcc n, x.re / 2 ^ c.sh < -32768 ∨ 32767 < x.re / 2 ^ c.sh ∨ x.im / 2 ^ c.sh < -32768 ∨ 32767 < x.im / 2 ^ c.sh := by
  simp only [MasonCore.scaledMove, List.any_map, List.any_eq_true, Function.comp_apply, satChanges_iff]

theorem MasonCore.scaledMove_lane {c : MasonCore} {n i : Nat} (h : i < (c.getAcc n).length) : (c.scaledMove n).lanes.getD i czero
    = ⟨max (-32768) (min 32767 (((c.getAcc n).getD i czero).re / 2 ^ c.sh)),
      max (-32768) (min 32767 (((c.getAcc n).getD i czero).im / 2 ^ c.sh))⟩ := by
  simp only [MasonCore.scaledMove, List.getD_eq_getElem?_getD, List.getElem?_map, List.getElem?_eq_getElem h, Option.map_some, Option.getD_some, csat,
    sat16_eq_max_min]

/-- OVF of a status: set by a saturation, and by nothing cleared; the headroom has the bits below. -/
theorem MasonCore.status_ovf_iff (c : MasonCore) (hr : Nat) (ovf up : Bool) :
    bitAt (c.status hr ovf up).st 7 = true ↔ bitAt c.st 7 = true ∨ ovf = true := by
  have hrest : bitAt (c.st - c.hr + min c.hr hr) 7 = bitAt c.st 7 := by
    simp only [bitAt, MasonCore.hr]
    have hsame : (c.st - c.st % 16 + min (c.st % 16) hr) / 2 ^ 7 = c.st / 2 ^ 7 := by omega
    rw [hsame]
  cases ovf with
  | true => exact iff_of_true (bitAt_setBit _ _) (Or.inr rfl)
  | false => simp [MasonCore.status, hrest]

/-- What a core shows after a scaled move: the lanes it wrote, and its OVF. -/
theorem MasonCore.scaledMove_shows {c d : MasonCore} {n : Nat} {x : ScaledMove} (hx : x = c.scaledMove n) (hlen : (c.getAcc n).length = 8)
    (hd : d.st = (c.status x.hr x.ovf x.up).st) :
    (∀ i < 8, ∀ z y : Cplx, z = (c.getAcc n).getD i czero → y = x.lanes.getD i czero →
      y = ⟨max (-32768) (min 32767 (z.re / 2 ^ c.sh)), max (-32768) (min 32767 (z.im / 2 ^ c.sh))⟩)
    ∧ (bitAt d.st 7 = true ↔ bitAt c.st 7 = true ∨ ∃ z ∈ c.getAcc n, z.re / 2 ^ c.sh < -32768 ∨ 32767 < z.re / 2 ^ c.sh
      ∨ z.im / 2 ^ c.sh < -32768 ∨ 32767 < z.im / 2 ^ c.sh) := by
  subst hx
  refine ⟨fun i hi z y hz hy => ?_, ?_⟩
  · rw [hy, hz]
    exact MasonCore.scaledMove_lane (hlen.symm ▸ hi)
  · rw [hd, MasonCore.status_ovf_iff, MasonCore.scaledMove_ovf_iff]

/-- Settles O35: what VMOVA and STA leave of the core is in the lemmas on their bundles, and what it shows in `MasonCore.scaledMove_shows`. -/
theorem scaledMovesSaturate : Obligations.ScaledMovesSaturate := by
  unfold Obligations.ScaledMovesSaturate
  rintro s m c f g moved hb rfl
  refine ⟨fun hlen => ?vmova, fun hlen hw => ?sta⟩
  case vmova =>
    refine ⟨_, (c.scaledMove f.acc.toNat).lanes, congrArg Host.Outcome.next (hb.issue_scaledMove rfl), ?_, ?_⟩
    · rw [State.core_setCore]
    · dsimp only
      rw [State.core_setCore]
      exact MasonCore.scaledMove_shows rfl hlen rfl
  case sta =>
    have hlanes : (c.scaledMove (g.reg.toNat % 4)).lanes.length = 8 := by simp only [MasonCore.scaledMove, List.length_map, hlen]
    refine ⟨_, (c.scaledMove (g.reg.toNat % 4)).lanes, congrArg Host.Outcome.next (hb.storeScaled_eq rfl hlanes hw rfl), ?_, ?_⟩
    · rw [State.core_setCore]
    · dsimp only
      rw [State.core_setCore]
      exact MasonCore.scaledMove_shows rfl hlen rfl

end Sys2Proof.Machine
end

section
/-! Control flow, transfers and leases of the masons, and the statement of 11_masons.md on them (R265 to R268, R270, R275) -/
namespace Sys2Proof.Machine

/-- A pointer result that is due lands. -/
theorem State.settleFlight_ptr {d : MasonCore} (hbundle : d.bundle = []) (hflight : d.flight = []) {due : Nat} (hdue : due ≤ d.cycle) (s : State)
    (m n v : Nat) : (s.setCore m (d.inTransit [⟨due, .ptr n v⟩])).settleFlight m = s.setCore m (d.setP n v) := by
  rw [State.settleFlight_inTransit, State.landDue_ptr hdue, State.landDue_nil, MasonCore.inTransit_of_none]
  · exact hbundle
  · exact hflight

section
variable {s : State} {m : Nat} {c : MasonCore} (hb : s.Between m c) {slot : Nat} {f : State → MasonCore → OpResult}
include hb

/-- An operation without results whose acts go on. -/
theorem State.Between.issue_silent {acts : List MasonAct} (hr : f s c = { acts := acts }) (hg : ∀ a ∈ acts, a.GoesOn c)
    (hp : acts.flatMap MasonAct.posted = []) :
    s.issue (alone m) slot readsNone f = (s.besides m c acts).setCore m (acts.foldl MasonCore.acted c.stepped) := by
  have hsent : ({ acts := acts } : OpResult).sent c.cycle = [] := by rw [OpResult.sent, hp]; rfl
  have hacted := MasonCore.foldl_acted_eq acts c.stepped
  have hbundle : (acts.foldl MasonCore.acted c.stepped).bundle = [] := by
    rw [hacted, hp, List.append_nil]
    exact hb.bundle
  have hflight : (acts.foldl MasonCore.acted c.stepped).flight = [] := by
    rw [hacted]
    exact hb.flight
  rw [hb.issue_steps hr rfl hg, hsent, State.settleFlight_of_none rfl, MasonCore.inTransit_of_none hbundle hflight]

/-- An operation that is one act which goes on. -/
theorem State.Between.issue_does {a : MasonAct} (hr : f s c = { acts := [a] }) (hg : a.GoesOn c) (hp : a.posted = []) :
    s.issue (alone m) slot readsNone f = (s.beside m c a).setCore m (c.stepped.acted a) :=
  hb.issue_silent hr (by simpa using hg) (by simpa using hp)

/-- An operation that touches no word of the shelf reads none. -/
theorem State.Between.issue_of_untouched {touch : MasonCore → Option (Nat × Nat)} (ht : touch c = none) :
    s.issue (alone m) slot touch f = s.issue (alone m) slot readsNone f := by
  have hslot : ¬ slot < c.slot := by rw [hb.slot]; exact Nat.not_lt_zero _
  simp only [State.issue, alone, readsNone, hb.core, hslot, if_false, List.range_zero, List.foldl_nil, ite_self, ht]

/-- A branch that writes nothing. -/
theorem State.Between.issue_jumps {t : Nat} (hr : f s c = { acts := [.branch t] }) :
    s.issue (alone m) slot readsNone f = s.setCore m (c.branching t) := by
  rw [hb.issue_branches hr rfl rfl]
  refine (State.settleFlight_of_none rfl s m).trans ?_
  exact congrArg (s.setCore m) (MasonCore.inTransit_of_none (d := c.branching t) hb.bundle hb.flight)

/-- A branch that leaves a pointer. -/
theorem State.Between.issue_calls {n t : Nat} {v : Int} (hr : f s c = { ptrOp n v with acts := [.branch t] }) :
    s.issue (alone m) slot readsNone f = s.setCore m ((c.branching t).setP n (ofInt 40 v)) := by
  rw [hb.issue_branches hr rfl rfl]
  exact State.settleFlight_ptr (d := c.branching t) hb.bundle hb.flight le_rfl s m n (ofInt 40 v)

/-- A pointer result alone. -/
theorem State.Between.issue_pointer {n : Nat} {v : Int} (hr : f s c = ptrOp n v) :
    s.issue (alone m) slot readsNone f = s.setCore m (c.stepped.setP n (ofInt 40 v)) := by
  rw [hb.issue_steps hr rfl (by simp [ptrOp])]
  exact State.settleFlight_ptr (d := c.stepped) hb.bundle hb.flight le_rfl s m n (ofInt 40 v)

/-- A lease that is granted, of what is no lock. -/
theorem State.Between.issue_leases {n r ticks : Nat} (hlock : lockOf r = none)
    (hr : f s c = { ptrOp n 0 with acts := [.lease r ticks n] }) : s.issue (alone m) slot readsNone f
      = (s.takeLease r (s.taskOwner c) (some (s.addEpochs ticks s.epoch)) (some (.mason m))).setCore m (c.stepped.setP n 0) := by
  rw [hb.issue_steps hr rfl (by simp [MasonAct.GoesOn, hlock])]
  exact State.settleFlight_ptr (d := c.stepped) hb.bundle hb.flight le_rfl _ m n 0

/-- A loop that is set: its registers, and where it goes. -/
theorem State.Between.loopOp_sets {g : CFormat} {n : MasonCore → Nat} {count : Nat} (hx : g.pd.toNat ≤ 1) (hn : n c = count)
    (hcount : count < 2 ^ 16) :
    ∃ d : MasonCore, loopOp (alone m) g n s = s.setCore m d ∧ d.lc = tput 0 g.pd.toNat count c.lc
      ∧ d.ls = tput 0 g.pd.toNat ((c.pc + 16) % 2 ^ 16) c.ls ∧ d.cycle = c.cycle + 1
      ∧ d.le = tput 0 g.pd.toNat (ofInt 16 (((c.pc + 16) % 2 ^ 16 : Nat) + 16 * (((g.imm.toNat % 2 ^ 12 : Nat) : Int) - 1))) c.le
      ∧ (count ≠ 0 → d.pc = (c.pc + 16) % 2 ^ 16) ∧ d.p = c.p ∧ d.v = c.v ∧ d.acc = c.acc := by
  refine ⟨{ c.looped g.pd.toNat count (g.imm.toNat % 2 ^ 12) with cycle := c.cycle + 1 }, ?_, ?_, rfl, rfl, rfl, fun h => if_neg h, rfl, rfl, rfl⟩
  · have hop : (if 1 < g.pd.toNat then illegal else { acts := [.loop g.pd.toNat (n c) (g.imm.toNat % 2 ^ 12)] } : OpResult)
        = { acts := [.loop g.pd.toNat count (g.imm.toNat % 2 ^ 12)] } := by rw [if_neg (Nat.not_lt.2 hx), hn]
    exact hb.issue_loops hop rfl rfl rfl
  · exact congrArg (fun k => tput 0 g.pd.toNat k c.lc) (Nat.mod_eq_of_lt hcount)

end

/-! The operations' results -/

theorem leaseOp_of_free {s : State} {r ticks : Nat} (hok : resourceOk r = true) (ht : ticks ≠ 0)
    (hd : r / 256 = 1 → s.dmaReserved (r % 256) = false) (hl : s.leaseOf r = none) (c : MasonCore) (n : Nat) :
    leaseOp s c n r ticks = { ptrOp n 0 with acts := [.lease r ticks n] } := by
  have hreserved : ¬ (r / 256 = 1 ∧ s.dmaReserved (r % 256) = true) := fun h => by simp [hd h.1] at h
  simp only [leaseOp, hok, beq_eq_false_iff_ne.2 ht, Bool.not_true, Bool.or_false, Bool.false_eq_true, if_false, hreserved, hl, Option.filter_none]

theorem leaseOp_of_held {s : State} {c : MasonCore} {r ticks : Nat} {l : Lease} (hok : resourceOk r = true) (ht : ticks ≠ 0)
    (hd : r / 256 = 1 → s.dmaReserved (r % 256) = false) (hl : s.leaseOf r = some l) (ho : l.owner ≠ s.taskOwner c) (n : Nat) :
    leaseOp s c n r ticks = ptrOp n (0x12 * 2 ^ 32 + (l.owner : Int)) := by
  have hreserved : ¬ (r / 256 = 1 ∧ s.dmaReserved (r % 256) = true) := fun h => by simp [hd h.1] at h
  have hother : (l.owner != s.taskOwner c) = true := bne_iff_ne.2 ho
  simp only [leaseOp, hok, beq_eq_false_iff_ne.2 ht, Bool.not_true, Bool.or_false, Bool.false_eq_true, if_false, hreserved, hl, Option.filter_some,
    hother, if_true]

theorem xputOp_of_bad {s : State} {m : Nat} {c : MasonCore} {f : CFormat} (h : xferBad c f.imm.toNat = true) : xputOp s m c f = illegal := by
  simp only [xputOp, h, if_true]

theorem xputOp_of_sound {s : State} {m : Nat} {c : MasonCore} {f : CFormat} (h : xferBad c f.imm.toNat = false)
    (hp : s.shelfPoison m (c.getP f.pd.toNat % 0x40000 / 4 * 4) f.imm.toNat = none) :
    xputOp s m c f = { acts := [.put (c.getP f.pd.toNat % 0x40000) (c.getP f.pa.toNat) f.imm.toNat] } := by
  simp only [xputOp, h, Bool.false_eq_true, if_false, hp]

/-- A release of the core's own lease. -/
theorem State.beside_unlease {s : State} {c : MasonCore} {r : Nat} {l : Lease} (hl : s.leaseOf r = some l) (ho : l.owner = s.taskOwner c) (m : Nat) :
    s.beside m c (.unlease r) = s.freeLease r := by
  simp only [State.beside, hl, ho, if_true]

/-- Settles O37: what each operation results in, and what such a result comes to. -/
theorem masonFlowAndTransfers : Obligations.MasonFlowAndTransfers := by
  unfold Obligations.MasonFlowAndTransfers
  refine ⟨?flow, ?transfers⟩
  case flow =>
    intro s m c f hb
    refine ⟨?loop, ?loopi, fun h => ?taken, fun h => ?notTaken, fun h => ?noCode, ?call, ?ret, ?rti, fun h => ?done, fun h => ?fails⟩
    case loop =>
      rintro count hx rfl
      obtain ⟨d, hd, hrest⟩ := hb.loopOp_sets (n := fun c => c.getP f.pa.toNat % 2 ^ 16) hx rfl (Nat.mod_lt _ (by decide))
      exact ⟨d, congrArg Host.Outcome.next hd, hrest⟩
    case loopi =>
      rintro count hx rfl
      have hlt : f.imm.toNat / 2 ^ 12 < 2 ^ 16 := by omega
      obtain ⟨d, hd, hlc, hls, hcycle, -, hrest⟩ := hb.loopOp_sets (n := fun _ => f.imm.toNat / 2 ^ 12) hx rfl hlt
      exact ⟨d, congrArg Host.Outcome.next hd, hlc, hls, hcycle, hrest⟩
    case taken => exact congrArg Host.Outcome.next (hb.issue_jumps (by simp only [h]))
    case notTaken => exact congrArg Host.Outcome.next (hb.issue_silent (acts := []) (by simp only [h]) (by simp) rfl)
    case noCode => exact congrArg Host.Outcome.next (hb.issue_illegal (by simp only [h]))
    case call => exact congrArg Host.Outcome.next (hb.issue_calls rfl)
    case ret => exact congrArg Host.Outcome.next (hb.issue_jumps rfl)
    case rti => exact congrArg Host.Outcome.next (hb.issue_returns rfl)
    case done => exact congrArg Host.Outcome.next ((hb.issue_done rfl rfl rfl rfl).trans (if_pos h))
    case fails => exact congrArg Host.Outcome.next ((hb.issue_done rfl rfl rfl rfl).trans (if_neg h))
  case transfers =>
    intro s m c f hb
    refine ⟨fun h => ?get, fun h hu hp => ?put, fun h => ⟨?badGet, ?badPut⟩, fun hn hf => ?waits, fun hn hf => ?failed, fun hn => ?stalls, ?lease,
      ?unlease⟩
    case get => exact congrArg Host.Outcome.next (hb.issue_does (a := .get _ _ _) (if_neg (by simp [h])) trivial rfl)
    case put =>
      exact congrArg Host.Outcome.next ((hb.issue_of_sound hu _ _ _).trans (hb.issue_does (a := .put _ _ _) (xputOp_of_sound h hp) trivial rfl))
    case badGet => exact congrArg Host.Outcome.next (hb.issue_illegal (by simp only [h, if_true]))
    case badPut =>
      have huntouched := hb.issue_of_untouched (slot := 2) (f := fun s c => xputOp s m c f)
        (touch := fun c => if xferBad c f.imm.toNat then none else some (c.getP f.pd.toNat % 0x40000 / 4 * 4, f.imm.toNat)) (if_pos h)
      exact congrArg Host.Outcome.next (huntouched.trans (hb.issue_illegal (xputOp_of_bad h)))
    case waits => exact congrArg Host.Outcome.next (hb.issue_does (a := .wait _) rfl ⟨hn, hf⟩ rfl)
    case failed => exact congrArg Host.Outcome.next (hb.issue_xferFault rfl rfl rfl hn hf)
    case stalls => exact congrArg Host.Outcome.next (hb.issue_stalls rfl rfl rfl rfl rfl hn)
    case lease =>
      rintro r ticks rfl rfl hok ht hd hlock
      exact ⟨fun hl => congrArg Host.Outcome.next (hb.issue_leases hlock (leaseOp_of_free hok ht hd hl c _)),
        fun l hl ho => congrArg Host.Outcome.next (hb.issue_pointer (leaseOp_of_held hok ht hd hl ho _))⟩
    case unlease =>
      rintro r l rfl hlock hl ho
      refine congrArg Host.Outcome.next ((hb.issue_does (a := .unlease _) rfl hlock rfl).trans ?_)
      exact congrArg (fun t => State.setCore t m c.stepped) (State.beside_unlease hl ho m)

end Sys2Proof.Machine
end

section
/-! Mason interrupts, the ends of transfers, re-runs and spares, and the statement of 11_masons.md on them (R267, R268, R272, R273) -/
namespace Sys2Proof.Machine

/-! Interrupts (R267) -/

theorem State.interruptEntry_taken {s : State} {m : Nat} {c : MasonCore} {t : MasonTask} (hb : s.Between m c) (ht : c.task = some t) (hi : t.irq ≠ 0)
    (he : bitAt c.ictl 15 = true) (hp : bitsOf c.ictl 10 8 &&& c.ictl % 8 ≠ 0) : s.interruptEntry m
      = (s.setCore m { c with ira := c.pc, ictl := setBit (setBit c.ictl 14 true) 15 false, pc := t.irq }).wr Ix.MasonState (m + 1) 4 := by
  have hie : c.ie = true := he
  have hpending : (bitsOf c.ictl 10 8 &&& c.ictl % 8 != 0) = true := bne_iff_ne.2 hp
  have hirq : (t.irq != 0) = true := bne_iff_ne.2 hi
  have hdrain : s.drain m = s.setCore m c := by
    have hcycle : c.flight.foldl (fun n w => max n w.due) c.cycle = c.cycle := by rw [hb.flight, List.foldl_nil]
    simp only [State.drain, hb.core, hcycle]
    exact State.settleFlight_of_none hb.flight s m
  simp only [State.interruptEntry, hb.core, ht, hie, hpending, hirq, hb.flow, hb.slot, hdrain, State.core_setCore, State.setCore_setCore,
    Option.isNone_none, beq_self_eq_true, Bool.and_self, if_true]

theorem State.timerCompare_reached {s : State} {m : Nat} {c : MasonCore} (hc : s.core m = c) (ht : c.task ≠ none) (hf : c.timed = false)
    (hr : c.tcmp ≤ c.cycle) : s.timerCompare m = s.setCore m { c with timed := true, ictl := setBit c.ictl 8 true } := by
  simp only [State.timerCompare, hc, Option.isSome_iff_ne_none.2 ht, hf, hr, and_self, if_true]

/-! The ends of transfers (R268) -/

/-- The target is there: the words cross. -/
theorem State.xferComplete_crosses {s u h : State} {m i d : Nat} {x : MasonXfer} (hx : (s.core m).xfers[i]? = some x)
    (hd : accessDomain x.addr = some d) (hn : s.needDomain d = (true, u)) (hs : u.slowHold x.addr x.len = (false, h)) (error : Bool) :
    s.xferComplete m i error = h.xferEnds m i x error := by
  simp only [State.xferComplete, hx, hd, hn, hs, Bool.not_true, Bool.false_and, Bool.false_eq_true, if_false]

/-- An address outside every region ends the transfer as an error does. -/
theorem State.xferComplete_nowhere {s : State} {m i : Nat} {x : MasonXfer} (hx : (s.core m).xfers[i]? = some x) (hd : accessDomain x.addr = none)
    (error : Bool) : s.xferComplete m i error = s.xferEnds m i x true := by
  simp only [State.xferComplete, hx, hd]

/-- A transfer that ends with an error: no word crosses, and it is kept as failed. -/
theorem State.xferEnds_error {s : State} {m : Nat} {c : MasonCore} (hc : s.core m = c) (hh : s.mem.codeHits = []) (i : Nat) (x : MasonXfer) :
    s.xferEnds m i x true = { s.setCore m { c with xfers := c.xfers.eraseIdx i, failed := c.failed + 1, ictl := setBit c.ictl 9 true } with
      mem := { s.mem with codeHits := [] } } := by
  simp only [State.xferEnds, if_true, hc, Bool.not_false, State.codeFaults]
  have hnone : ∀ d : MasonCore, (s.setCore m d).mem.codeHits = [] := fun _ => hh
  rw [hnone]
  rfl

/-! Re-runs (R272) -/

theorem State.endLeasesOf_none {s : State} (h : s.leases = []) (owner reason : Nat) : s.endLeasesOf owner reason = s := by
  rw [State.endLeasesOf, State.leasesOf, h]
  rfl

/-- A task that has passed its budget, with no lease of its own, is stopped. -/
theorem State.watchdog_overrun {s : State} {m : Nat} {t : MasonTask} (ht : (s.core m).task = some t) (hb : t.budget < (s.core m).cycle)
    (hl : s.leases = []) : s.watchdog m = s.stopTask m 2 := by
  simp only [State.watchdog, ht, hb, if_true, State.endLeasesOf_none hl]

theorem State.stopTask_reruns {s : State} {m k : Nat} {t : MasonTask} (ht : (s.core m).task = some t) (hr : t.rerunOf = none)
    (hk : s.idleSpare = some k) (reason : Nat) : s.stopTask m reason = (s.clearTask m).startTask k { t with rerunOf := some (m, reason) } := by
  simp only [State.stopTask, ht, hr, hk]

theorem State.stopTask_noSpare {s : State} {m : Nat} {t : MasonTask} (ht : (s.core m).task = some t) (hr : t.rerunOf = none)
    (hk : s.idleSpare = none) (reason : Nat) : s.stopTask m reason = s.taskFails m 7 := by
  simp only [State.stopTask, ht, hr, hk]

/-- A re-run that passes its budget too fails. -/
theorem State.stopTask_again {s : State} {m : Nat} {t : MasonTask} (ht : (s.core m).task = some t) (hr : t.rerunOf ≠ none) :
    s.stopTask m 2 = s.taskFails m 4 := by
  obtain ⟨r, hr⟩ := Option.ne_none_iff_exists'.1 hr
  simp only [State.stopTask, ht, hr, if_true]

/-! Retired cores (R273) -/

/-- A retired core that is not testing itself is reset, and does. -/
theorem State.masonRestore_ok {s : State} {m : Nat} (hm : m < 48) (hr : s.isRetired m = true) (ht : m ∉ s.mason.selftest) : s.masonRestore m
    = .ok { s.setCore m {} with mason := { (s.setCore m {}).mason with selftest := s.mason.selftest ++ [m] } } := by
  have htest : s.mason.selftest.contains m = false := by simpa using ht
  simp only [State.masonRestore, if_neg (Nat.not_le.2 hm), hr, htest, Bool.not_true, Bool.or_false, Bool.false_eq_true, if_false]

theorem State.selftestDone_running {s : State} {m : Nat} (h : m ∈ s.mason.selftest) (pass : Bool) : s.selftestDone m pass =
    if pass then ({ s with mason := { s.mason with selftest := s.mason.selftest.filter (· != m) } } : State).rejoin m
    else (({ s with mason := { s.mason with selftest := s.mason.selftest.filter (· != m) } } : State).setRetired m true).raise 0x4001 (m + 1)
      (packData [f8 m, f8 3]) := by
  have htest : s.mason.selftest.contains m = true := by simpa using h
  simp only [State.selftestDone, htest, Bool.not_true, Bool.false_eq_true, if_false]

/-- The command that restores a core. -/
theorem exec_masonRestore {s : State} {w : Caller} {m : Nat} (hd : (s.met w.port).Serves 4) (ho : s.Orders w Ix.MasonRestore 0 m) (hm : m < 48)
    (hr : (s.metOn w.port 4).isRetired m = true) (ht : m ∉ (s.metOn w.port 4).mason.selftest) :
    exec (.masonRestore w m) s = .next (({ (s.metOn w.port 4).setCore m {} with mason := { ((s.metOn w.port 4).setCore m {}).mason with
      selftest := (s.metOn w.port 4).mason.selftest ++ [m] } } : State).ended w Ix.MasonRestore 0 m) := by
  have hretired : (s.met w.port).isRetired m = true := by
    rwa [State.isRetired, State.rdBit, State.rd_metOn hd] at hr
  have htest : m ∉ (s.met w.port).mason.selftest := by
    rw [State.metOn, State.needDomain_serves hd] at ht
    exact ht
  exact congrArg Host.Outcome.next (ho.runOnSame rfl hd (notEarly_of_ok (State.masonRestore_ok hm hretired htest)) (State.masonRestore_ok hm hr ht)
    rfl rfl)

/-- Settles O38: each step of a core's life is the lemma named for what happens in it. -/
theorem masonTasksAreKept : Obligations.MasonTasksAreKept := by
  unfold Obligations.MasonTasksAreKept
  refine ⟨?interrupt, ?timer, ?crosses, ?nowhere, ?overrun, ?parity, ?again, ?restore, ?selftest⟩
  case interrupt =>
    exact fun s m c t hb ht hi he hp => congrArg Host.Outcome.next (State.interruptEntry_taken hb ht hi he hp)
  case timer =>
    exact fun s m c hc ht hf hr => congrArg Host.Outcome.next (State.timerCompare_reached hc ht hf hr)
  case crosses =>
    exact fun s u h m i d x hx hd hn hs => congrArg Host.Outcome.next (State.xferComplete_crosses hx hd hn hs false)
  case nowhere =>
    intro s m i c x hc hx hd hh b
    exact congrArg Host.Outcome.next ((State.xferComplete_nowhere (hc ▸ hx) hd b).trans (State.xferEnds_error hc hh i x))
  case overrun =>
    intro s m t ht hb hl hr
    have hstop := State.watchdog_overrun ht hb hl
    exact ⟨fun k hk => congrArg Host.Outcome.next (hstop.trans (State.stopTask_reruns ht hr hk 2)),
      fun hk => congrArg Host.Outcome.next (hstop.trans (State.stopTask_noSpare ht hr hk 2))⟩
  case parity =>
    exact fun s m t ht hr => ⟨fun k hk => congrArg Host.Outcome.next (State.stopTask_reruns ht hr hk 1),
      fun hk => congrArg Host.Outcome.next (State.stopTask_noSpare ht hr hk 1)⟩
  case again =>
    exact fun s m t ht hb hl hr => congrArg Host.Outcome.next ((State.watchdog_overrun ht hb hl).trans (State.stopTask_again ht hr))
  case restore =>
    rintro s n w m rfl hd ho hm hr ht
    exact exec_masonRestore hd ho hm hr ht
  case selftest =>
    rintro s u m hm rfl
    exact ⟨congrArg Host.Outcome.next (State.selftestDone_running hm false), congrArg Host.Outcome.next (State.selftestDone_running hm true)⟩

end Sys2Proof.Machine
end

section
/-! Kernels, user jobs and the expiry of leases, and the statement of 11_masons.md on them (R271, R275 to R277) -/
namespace Sys2Proof.Machine

/-! The device as a request finds it -/

theorem State.slotUsed_metOn {s : State} {p d : Nat} (h : (s.met p).Serves d) (slot : Nat) :
    (s.metOn p d).slotUsed slot = (s.met p).slotUsed slot := by
  rw [State.metOn, State.needDomain_serves h]
  rfl

theorem State.signedBy_metOn {s : State} {p d : Nat} (h : (s.met p).Serves d) (slot : Nat) (msg sig : List Byte) :
    (s.metOn p d).signedBy slot msg sig = (s.met p).signedBy slot msg sig := by
  rw [State.signedBy, State.signedBy, State.metOn_reset h]

/-! Records that are refused (R69, R70) -/

/-- A refused first segment abandons no transfer: the abort is recorded and answered. -/
theorem State.refuse_of_first {s : State} {r : Request} {a : Abort} (h : r.first = true) (dup : Bool) :
    s.refuse r dup a = (({ s with free := s.free + 1 } : State).recordAbort r a).respond
      ((({ s with free := s.free + 1 } : State).recordAbort r a).responseTo r a.code dup
        { epoch := (({ s with free := s.free + 1 } : State).recordAbort r a).abortEpoch r a }) := by
  simp [State.refuse, h]

/-- A record whose effect is refused before any domain is asked for. -/
theorem State.OrdersRecord.refused {s : State} {w : Caller} {index : Nat} {l : List Byte} {a : Abort} (h : s.OrdersRecord w index l)
    (hi : index ≠ Ix.BootImageLoad) (hf : (s.met w.port).writeDomain index 0 w.port l = .error a) (ha : earlyCode a.code = true) :
    s.orderRecord w index l = (s.met w.port).refuse (recordWrite w index l) false a := by
  obtain ⟨e, he⟩ := h.accepts
  have hmet : ({ s.noteMaster w.port with free := (s.noteMaster w.port).free + 1 } : State) = s.met w.port := State.met_eq s w.port
  have hacting : (s.noteMaster w.port).perform (recordWrite w index l) = .abort a (s.met w.port) := by
    rw [State.perform_record (e := e) (by rw [hmet]; exact he), hmet, State.acting, hf]
    simp only [Except.map, ha, if_true, State.jobTarget]
  have hidle : { (s.noteMaster w.port) with host := { (s.noteMaster w.port).host with performing := none } } = s.noteMaster w.port := by
    have := State.emptied (s.noteMaster w.port) (by simpa using h.attends.alone) (by simpa using h.attends.nothing)
    rw [← this]
  have hplain : ¬ ((recordWrite w index l).op = 4 ∧ (recordWrite w index l).index = Ix.BootImageLoad ∧ (recordWrite w index l).last = true
      ∧ (a.code = abRange ∨ a.code = abSignature)) := fun hload => hi hload.2.1
  have hone : (s.noteMaster w.port).performOne (recordWrite w index l) = (s.met w.port).refuse (recordWrite w index l) false a := by
    rw [State.performOne, hidle, hacting]
    dsimp only
    rw [State.imageRefused, if_neg hplain]
  have hrefuse := State.refuse_of_first (s := s.met w.port) (r := recordWrite w index l) (a := a) rfl false
  have harrive := State.arrive_of_performOne h.attends (r := recordWrite w index l) rfl rfl rfl (by rw [hone, hrefuse]; simpa using h.attends.alone)
    (by rw [hone, hrefuse]; simpa using h.attends.nothing)
  rw [State.orderRecord, State.take, harrive, hone]
  exact State.bootContinue_booted (by rw [hrefuse]; simpa using h.attends.booted)

/-! Kernels (R276) -/

theorem State.kernelLoad_verified {s : State} {l : List Byte} (hi : imageBad l = none) (hu : s.slotUsed (fieldLE l 4 1) = false)
    (hs : s.signedBy (fieldLE l 6 1) (Config.sm3 (l.take (l.length - 64))) (l.drop (l.length - 64)) = true) :
    s.kernelLoad l = .ok
      ((s.placeKernel (fieldLE l 4 1) l).raise 0x4006 (fieldLE l 4 1 + 1) (packData [f8 (fieldLE l 4 1), f32 (fieldLE l 8 4)])) := by
  simp only [State.kernelLoad, hi, hu, hs, Bool.not_true, Bool.false_eq_true, if_false]

theorem State.kernelLoad_unverified {s : State} {l : List Byte} (hi : imageBad l = none) (hu : s.slotUsed (fieldLE l 4 1) = false)
    (hs : s.signedBy (fieldLE l 6 1) (Config.sm3 (l.take (l.length - 64))) (l.drop (l.length - 64)) = false) :
    s.kernelLoad l = .error ⟨abSignature, 0⟩ := by
  simp only [State.kernelLoad, hi, hu, hs, Bool.not_false, Bool.false_eq_true, if_false, if_true]

theorem State.kernelUnload_unused {s : State} {slot : Nat} (h16 : 16 ≤ slot) (h32 : slot < 32) (hu : s.slotUsed slot = false) : s.kernelUnload slot
    = .ok (({ s with mason := { s.mason with kernels := tdel slot s.mason.kernels } } : State).wr Ix.MasonKernelVersion (slot + 1) 0) := by
  have huser : ¬ (slot < 16 ∨ 31 < slot) := by omega
  simp only [State.kernelUnload, huser, hu, Bool.false_eq_true, if_false]

/-- The command that loads a kernel whose signature verifies. -/
theorem exec_masonKernelLoad_verified {s : State} {w : Caller} {l : List Byte} (hd : (s.met w.port).Serves 5)
    (ho : s.OrdersRecord w Ix.MasonKernelLoad l) (hi : imageBad l = none) (hu : (s.metOn w.port 5).slotUsed (fieldLE l 4 1) = false)
    (hs : (s.metOn w.port 5).signedBy (fieldLE l 6 1) (Config.sm3 (l.take (l.length - 64))) (l.drop (l.length - 64)) = true) :
    exec (.masonKernelLoad (recordWrite w Ix.MasonKernelLoad l)) s = .next ((((s.metOn w.port 5).placeKernel (fieldLE l 4 1) l).raise 0x4006
      (fieldLE l 4 1 + 1) (packData [f8 (fieldLE l 4 1), f32 (fieldLE l 8 4)])).endedRecord w Ix.MasonKernelLoad l) := by
  have hearly := notEarly_of_ok
    (State.kernelLoad_verified hi ((State.slotUsed_metOn hd _).symm.trans hu) ((State.signedBy_metOn hd _ _ _).symm.trans hs))
  exact congrArg Host.Outcome.next
    (ho.runOnSame rfl (by decide) hd hearly (State.kernelLoad_verified hi hu hs) (by simp [State.placeKernel]) (by simp [State.placeKernel]))

/-- The command that loads a kernel whose signature does not verify. -/
theorem exec_masonKernelLoad_unverified {s : State} {w : Caller} {l : List Byte} (hd : (s.met w.port).Serves 5)
    (ho : s.OrdersRecord w Ix.MasonKernelLoad l) (hi : imageBad l = none) (hu : (s.metOn w.port 5).slotUsed (fieldLE l 4 1) = false)
    (hs : (s.metOn w.port 5).signedBy (fieldLE l 6 1) (Config.sm3 (l.take (l.length - 64))) (l.drop (l.length - 64)) = false) :
    exec (.masonKernelLoad (recordWrite w Ix.MasonKernelLoad l)) s
      = .next ((s.met w.port).refuse (recordWrite w Ix.MasonKernelLoad l) false ⟨abSignature, 0⟩) :=
  congrArg Host.Outcome.next (ho.refused (by decide)
    (State.kernelLoad_unverified hi ((State.slotUsed_metOn hd _).symm.trans hu) ((State.signedBy_metOn hd _ _ _).symm.trans hs)) rfl)

/-- The command that empties a kernel slot. -/
theorem exec_masonKernelUnload {s : State} {w : Caller} {slot : Nat} (hd : (s.met w.port).Serves 5) (ho : s.Orders w Ix.MasonKernelUnload 0 slot)
    (h16 : 16 ≤ slot) (h32 : slot < 32) (hu : (s.metOn w.port 5).slotUsed slot = false) :
    exec (.masonKernelUnload w slot) s = .next ((({ s.metOn w.port 5 with mason := { (s.metOn w.port 5).mason with
      kernels := tdel slot (s.metOn w.port 5).mason.kernels } } : State).wr Ix.MasonKernelVersion (slot + 1) 0).ended w Ix.MasonKernelUnload 0
      slot) := by
  have hearly := notEarly_of_ok (State.kernelUnload_unused h16 h32 ((State.slotUsed_metOn hd _).symm.trans hu))
  exact congrArg Host.Outcome.next (ho.runOnSame rfl hd hearly (State.kernelUnload_unused h16 h32 hu) (by simp) (by simp))

/-! User jobs (R271, R277) -/

/-- What a job is to meet: the mode, a kernel in its slot, its number free, room, its record, the lead time, the budgets. -/
structure State.TakesUserJob (s : State) (l : List Byte) : Prop where
  awake : s.mode ≠ 0
  kernel : s.kernel (fieldLE l 2 1) ≠ []
  free : s.userJobActive (fieldLE l 0 2) = false
  room : s.userJobs.length < 16
  record : s.jobBad l = none
  lead : epLe s.earliestCommit (epochOfEntry (fieldLE l 8 8)) = true
  fits : s.budgetFits l = true

/-- A job as it joins the active jobs. -/
def submittedJob (l : List Byte) : UserJob := ⟨fieldLE l 0 2, l, 0, epochOfEntry (fieldLE l 8 8), false, 0, 0, 0, 0, 0, false⟩

theorem State.jobSubmit_taken {s : State} {l : List Byte} (h : s.TakesUserJob l) :
    s.jobSubmit l = .ok { s with userJobs := s.userJobs ++ [submittedJob l] } := by
  have hkernel : (s.kernel (fieldLE l 2 1)).isEmpty = false := List.isEmpty_eq_false_iff.2 h.kernel
  have hstate : ¬ (s.mode = 0 ∨ (decide (16 ≤ fieldLE l 2 1) && decide (fieldLE l 2 1 < 32) && (s.kernel (fieldLE l 2 1)).isEmpty) = true
      ∨ s.userJobActive (fieldLE l 0 2) = true ∨ 16 ≤ s.userJobs.length) := by
    simp [h.awake, hkernel, h.free, h.room]
  simp only [State.jobSubmit, hstate, if_false, h.record, h.lead, h.fits, Bool.not_true, Bool.false_eq_true]
  rfl

/-- The idle times of domains are nothing that a job's budgets rest on. -/
theorem State.budgetFits_of_power {s : State} {x : PowerSys} (l : List Byte) : ({ s with power := x } : State).budgetFits l = s.budgetFits l := by
  have hcores : ({ s with power := x } : State).userCores = s.userCores := rfl
  have hoffset : ({ s with power := x } : State).epochOffset = s.epochOffset := rfl
  have hnumerology : ({ s with power := x } : State).rd Ix.Numerology 0 = s.rd Ix.Numerology 0 := rfl
  simp only [State.budgetFits, hcores, hoffset, hnumerology]

/-- A job that the device takes once its domain has been asked for, it takes before. -/
theorem State.TakesUserJob.met {s : State} {p d : Nat} {l : List Byte} (hd : (s.met p).Serves d) (h : (s.metOn p d).TakesUserJob l) :
    (s.met p).TakesUserJob l := by
  rw [State.metOn, State.needDomain_serves hd] at h
  exact ⟨h.awake, h.kernel, h.free, h.room, h.record, h.lead, (State.budgetFits_of_power l).symm.trans h.fits⟩

/-- The command that submits a job. -/
theorem exec_masonJobSubmit {s : State} {w : Caller} {l : List Byte} (hd : (s.met w.port).Serves 4) (ho : s.OrdersRecord w Ix.MasonJobSubmit l)
    (hj : (s.metOn w.port 4).TakesUserJob l) : exec (.masonJobSubmit w l) s
      = .next (({ s.metOn w.port 4 with userJobs := (s.metOn w.port 4).userJobs ++ [submittedJob l] } : State).endedRecord w Ix.MasonJobSubmit l) :=
  congrArg Host.Outcome.next
    (ho.runOnSame rfl (by decide) hd (notEarly_of_ok (State.jobSubmit_taken (hj.met hd))) (State.jobSubmit_taken hj) rfl rfl)

theorem State.jobCancel_active {s : State} {job : Nat} (h : s.userJobActive job = true) : s.jobCancel job
    = .ok { s with userJobs := s.userJobs.map (fun j => if j.job = job then { j with cancel := true } else j) } := by
  rw [State.jobCancel, if_pos h]

/-! Leases (R275) -/

theorem State.leaseExpiry_due {s : State} {r e : Nat} {l : Lease} (hl : s.leaseOf r = some l) (hx : l.expiry = some e)
    (he : epLe e s.epoch = true) : s.leaseExpiry r = s.endLease l 1 := by
  simp only [State.leaseExpiry, hl, hx, he, if_true]

/-- Settles O39: each command is performed at once on the state that meets it; a signature that does not verify is refused before any domain is asked
for (`State.OrdersRecord.refused`). -/
theorem kernelsAndUserJobs : Obligations.KernelsAndUserJobs := by
  unfold Obligations.KernelsAndUserJobs
  refine ⟨?load, ?unload, ?submit, ?cancel, ?expiry⟩
  case load =>
    rintro s n u w l slot ok rfl hd ho hi rfl hu hok rfl
    cases ok with
    | true => exact exec_masonKernelLoad_verified hd ho hi hu hok.symm
    | false => exact exec_masonKernelLoad_unverified hd ho hi hu hok.symm
  case unload =>
    rintro s n w slot rfl hd ho h16 h32 hu
    exact exec_masonKernelUnload hd ho h16 h32 hu
  case submit =>
    rintro s n w l job start rfl hd ho rfl rfl hmode hkernel hfree hroom hrecord hlead hfits
    exact exec_masonJobSubmit hd ho ⟨hmode, hkernel, hfree, hroom, hrecord, hlead, hfits⟩
  case cancel =>
    rintro s m w job rfl ho hactive
    exact congrArg Host.Outcome.next (ho.runSame rfl (State.jobCancel_active hactive) rfl rfl)
  case expiry =>
    exact fun s r e l hl hx he => congrArg Host.Outcome.next (State.leaseExpiry_due hl hx he)

end Sys2Proof.Machine
end

section
/-! Fused key slots, and the statement of 17_reset_boot_identity.md on them (R390). -/
namespace Sys2Proof.Machine

/-- Settles O6: what every command keeps of the fuses (`exec_keeps`). -/
theorem revokedKeySlotsStayRevoked : Obligations.RevokedKeySlotsStayRevoked := by
  unfold Obligations.RevokedKeySlotsStayRevoked
  exact fun s t c h => (exec_keeps h).fuse

end Sys2Proof.Machine
end

section
/-! The parts that a unit's commands change, and the statement of 00_scope.md that units keep to themselves (R89 to R92, R208, R224, R287 to R304,
R312, R403 to R407, R413 to R418). -/
namespace Sys2Proof.Machine

/-! Changes in some parts alone -/

theorem State.changesOnly.refl (s : State) (l : List Part) : s.changesOnly s l := fun p _ => by cases p <;> rfl

theorem State.changesOnly.trans {s t u : State} {l : List Part} (h : s.changesOnly t l) (k : t.changesOnly u l) : s.changesOnly u l := fun p hp => by
  have hst := h p hp
  have htu := k p hp
  cases p <;> exact Eq.trans htu hst

section
variable {s t : State} {l : List Part}

theorem State.changesOnly.wr (h : s.changesOnly t (.cat :: l)) (i u v : Nat) : s.changesOnly (t.wr i u v) (.cat :: l) :=
  h.trans fun p hp => by cases p with | cat => exact absurd List.mem_cons_self hp | _ => rfl

theorem State.changesOnly.setRadio (h : s.changesOnly t (.cat :: .radio :: l)) (x : RadioSys) :
    s.changesOnly { t with radio := x } (.cat :: .radio :: l) :=
  h.trans fun p hp => by cases p with | radio => exact absurd (by simp) hp | _ => rfl

theorem State.changesOnly.setLink (h : s.changesOnly t (.cat :: .link :: l)) (x : LinkSys) :
    s.changesOnly { t with link := x } (.cat :: .link :: l) :=
  h.trans fun p hp => by cases p with | link => exact absurd (by simp) hp | _ => rfl

theorem State.changesOnly.setBias (h : s.changesOnly t (.cat :: .bias :: l)) (x : BiasSys) :
    s.changesOnly { t with bias := x } (.cat :: .bias :: l) :=
  h.trans fun p hp => by cases p with | bias => exact absurd (by simp) hp | _ => rfl

theorem State.changesOnly.setTherm (h : s.changesOnly t (.cat :: .therm :: l)) (x : ThermSys) :
    s.changesOnly { t with therm := x } (.cat :: .therm :: l) :=
  h.trans fun p hp => by cases p with | therm => exact absurd (by simp) hp | _ => rfl

theorem State.changesOnly.setSpe (h : s.changesOnly t (.cat :: .spe :: l)) (x : SpeSys) : s.changesOnly (t.setSpe x) (.cat :: .spe :: l) :=
  h.trans fun p hp => by cases p with | spe => exact absurd (by simp) hp | _ => rfl

/-- An event changes the Catalogue's counters and the events. -/
theorem State.raise_changes (s : State) (code sub data : Nat) : s.changesOnly (s.raise code sub data) [.cat, .ev] := fun p hp => by
  cases p with
  | cat => exact absurd (by simp) hp
  | ev => exact absurd (by simp) hp
  | _ => simp only [State.same, State.raise_pending, State.raise_now, State.raise_epoch, State.raise_pos, State.raise_free, State.raise_dom,
      State.raise_loopEdges, State.raise_tb, State.raise_host, State.raise_modes, State.raise_mem, State.raise_leases, State.raise_dma,
      State.raise_fuse, State.raise_power, State.raise_reset_, State.raise_scan, State.raise_lib, State.raise_radio, State.raise_userJobs,
      State.raise_mix, State.raise_lin, State.raise_cal, State.raise_link, State.raise_bias, State.raise_duplex, State.raise_spe,
      State.raise_mason, State.raise_therm, State.raise_captureFills, State.raise_captureReady, State.raise_farLimits]

/-- A change of some parts is one of more. -/
theorem State.changesOnly.mono (h : s.changesOnly t l) {l' : List Part} (hl : ∀ p ∈ l, p ∈ l') : s.changesOnly t l' := fun p hp =>
  h p fun hm => hp (hl p hm)

theorem State.changesOnly.raise {x : Part} (h : s.changesOnly t (.cat :: x :: .ev :: l)) (code sub data : Nat) :
    s.changesOnly (t.raise code sub data) (.cat :: x :: .ev :: l) :=
  h.trans ((State.raise_changes t code sub data).mono (by simp))

variable (h : s.changesOnly t l)
include h

theorem State.changesOnly.foldl {α : Type} {f : State → α → State} (hf : ∀ u a, s.changesOnly u l → s.changesOnly (f u a) l) (x : List α) :
    s.changesOnly (x.foldl f t) l := by
  induction x generalizing t with
  | nil => exact h
  | cons a x ih => exact ih (hf t a h)

theorem State.changesOnly.ite {c : Prop} [Decidable c] {a : State} (ha : s.changesOnly a l) : s.changesOnly (if c then a else t) l := by
  split
  · exact ha
  · exact h

end

/-! The link -/

section
variable {s t : State} (h : s.changesOnly t [.cat, .link, .ev])
include h

theorem State.changesOnly.setPort (p : Nat) (v : PortSys) : s.changesOnly (t.setPort p v) [.cat, .link, .ev] := h.setLink _

theorem State.changesOnly.sendPacket (p : Nat) (k : OutPacket) : s.changesOnly (t.sendPacket p k) [.cat, .link, .ev] := h.setLink _

theorem State.changesOnly.enterPort (p st : Nat) : s.changesOnly (t.enterPort p st) [.cat, .link, .ev] := (h.wr _ _ _).setPort _ _

theorem State.changesOnly.clearLanes (p : Nat) : s.changesOnly (t.clearLanes p) [.cat, .link, .ev] :=
  (h.setPort _ _).foldl (fun _ _ hu => hu.wr _ _ _) _

theorem State.changesOnly.portBack (p : Nat) : s.changesOnly (t.portBack p) [.cat, .link, .ev] := (h.clearLanes p).enterPort _ _

theorem State.changesOnly.chainNorth : s.changesOnly t.chainNorth [.cat, .link, .ev] := by
  have hsent := fun v => h.ite (c := t.portActive 0 = true) (h.setPort 0 v)
  exact (hsent _).ite (((hsent _).wr _ _ _).raise _ _ _)

theorem State.changesOnly.portDown (p reason : Nat) : s.changesOnly (t.portDown p reason) [.cat, .link, .ev] := by
  unfold State.portDown
  refine h.ite ?_
  have hdown := fun x n e code d => ((((((h.portBack p).setLink x).wr Ix.LinkDownCount (p + 1) n).wr Ix.LinkDownReason (p + 1) reason).wr
    Ix.LinkLastDown (p + 1) e).raise code (p + 1) d)
  exact (hdown _ _ _ _ _).ite ((hdown _ _ _ _ _).setLink _).chainNorth

end

/-- DETECT_PULSE. -/
theorem State.detectPulse_changes (s : State) (p found : Nat) : s.changesOnly (s.detectPulse p found) [.cat, .link, .ev] := by
  unfold State.detectPulse
  have h := State.changesOnly.refl s [.cat, .link, .ev]
  exact h.ite ((h.setPort _ _).ite (((h.clearLanes p).enterPort _ _).wr _ _ _))

theorem State.trainDone_changes (s : State) (p : Nat) (phases : Bool) : s.changesOnly (s.trainDone p phases) [.cat, .link, .ev] := by
  unfold State.trainDone
  have h := State.changesOnly.refl s [.cat, .link, .ev]
  exact h.ite ((h.enterPort _ _).setPort _ _)

theorem State.portStateTimeout_changes (s : State) (p : Nat) : s.changesOnly (s.portStateTimeout p) [.cat, .link, .ev] := by
  unfold State.portStateTimeout
  have h := State.changesOnly.refl s [.cat, .link, .ev]
  split
  · exact h.ite (((h.portBack p).wr _ _ _).wr _ _ _)
  · exact h

theorem State.failedTimeout_changes (s : State) (p : Nat) : s.changesOnly (s.failedTimeout p) [.cat, .link, .ev] :=
  (State.changesOnly.refl s _).ite ((State.changesOnly.refl s _).portBack p)

theorem State.laneRejoin_changes (s : State) (p k : Nat) : s.changesOnly (s.laneRejoin p k) [.cat, .link, .ev] := by
  unfold State.laneRejoin
  have h := State.changesOnly.refl s [.cat, .link, .ev]
  exact h.ite (((h.setPort _ _).wr _ _ _).raise _ _ _)

theorem State.alignForce_changes (s : State) (p : Nat) : s.changesOnly (s.alignForce p) [.cat, .link, .ev] :=
  (State.changesOnly.refl s _).ite ((State.changesOnly.refl s _).setPort _ _)

theorem State.chainIn_changes (s : State) (p devices : Nat) : s.changesOnly (s.chainIn p devices) [.cat, .link, .ev] :=
  (State.changesOnly.refl s _).ite ((State.changesOnly.refl s _).setLink _).chainNorth

theorem State.resyncRetry_changes (s : State) (p : Nat) : s.changesOnly (s.resyncRetry p) [.cat, .link, .ev] := by
  unfold State.resyncRetry
  have h := State.changesOnly.refl s [.cat, .link, .ev]
  split
  · exact h.ite ((h.setPort _ _).sendPacket _ _)
  · exact h

theorem State.creditReturnSend_changes (s : State) (p : Nat) : s.changesOnly (s.creditReturnSend p) [.cat, .link, .ev] := by
  have h := State.changesOnly.refl s [.cat, .link, .ev]
  exact h.ite ((h.setPort _ _).sendPacket _ _)

theorem State.packetSend_changes (s : State) (p : Nat) : s.changesOnly (s.packetSend p) [.cat, .link, .ev] := by
  unfold State.packetSend
  have h := State.changesOnly.refl s [.cat, .link, .ev]
  have hready := fun x => h.setLink { s.link with ready := x }
  split
  · exact h
  · dsimp only
    split
    · exact hready _
    · refine State.changesOnly.setPort ?_ _ _
      unfold State.noteStart
      exact .ite (.ite (.ite ((hready _).setLink _) (((hready _).setLink _).setPort _ _)) (((hready _).setLink _).setPort _ _)) ((hready _).setLink _)

theorem State.echoInterval_changes (s : State) : s.changesOnly s.echoInterval [.cat, .link, .ev] := by
  unfold State.echoInterval
  have h := State.changesOnly.refl s [.cat, .link, .ev]
  have hport := fun v => h.setPort 0 v
  dsimp only
  split
  · exact h
  · split
    · exact (hport _).wr _ _ _
    · exact ((hport _).ite ((hport _).raise _ _ _)).sendPacket _ _

theorem State.frameMarker_changes (s : State) : s.changesOnly s.frameMarker [.cat, .link, .ev] :=
  (State.changesOnly.refl s _).ite (((State.changesOnly.refl s _).setLink _).sendPacket _ _)

/-! The bias outputs -/

section
variable {s t : State} (h : s.changesOnly t [.cat, .bias, .ev])
include h

theorem State.changesOnly.rangeDone (n : Nat) : s.changesOnly (t.rangeDone n) [.cat, .bias, .ev] :=
  (((((h.setBias _).wr _ _ _).wr _ _ _).wr _ _ _).wr _ _ _).raise _ _ _

theorem State.changesOnly.strobeChannel (n : Nat) : s.changesOnly (t.strobeChannel n) [.cat, .bias, .ev] := by
  unfold State.strobeChannel
  have hw := h.wr Ix.BiasStatus (n + 1) (setBit (t.rd Ix.BiasStatus (n + 1)) 1 false)
  dsimp only
  split
  · exact hw
  · split
    · exact hw.ite (hw.rangeDone n)
    · split
      · exact (hw.setBias _).wr _ _ _
      · split
        · exact hw.wr _ _ _
        · exact (hw.wr _ _ _).wr _ _ _

theorem State.changesOnly.strobeGroup (g : Nat) : s.changesOnly (t.strobeGroup g) [.cat, .bias, .ev] :=
  h.foldl (fun _ n hu => hu.strobeChannel n) _

theorem State.changesOnly.biasLapse : s.changesOnly t.biasLapse [.cat, .bias, .ev] := by
  unfold State.biasLapse
  split
  · exact h
  · exact h.foldl (fun _ n hu => hu.rangeDone n) _

theorem State.changesOnly.driveClear : s.changesOnly t.driveClear [.cat, .bias, .ev] :=
  h.foldl (fun _ _ hu => .ite (.ite ((hu.wr _ _ _).wr _ _ _) (hu.wr _ _ _)) hu) _

end

theorem State.bloadFalls_changes (s : State) : s.changesOnly s.bloadFalls [.cat, .bias, .ev] :=
  (State.changesOnly.refl s _).biasLapse.foldl (fun _ g hu => hu.strobeGroup g) _

theorem State.clearBegins_changes (s : State) (cause : Nat) : s.changesOnly (s.clearBegins cause) [.cat, .bias, .ev] := by
  have h := State.changesOnly.refl s [.cat, .bias, .ev]
  exact .ite ((h.setBias _).driveClear.biasLapse.raise _ _ _) h

theorem State.clearEnds_changes (s : State) (cause : Nat) : s.changesOnly (s.clearEnds cause) [.cat, .bias, .ev] := by
  have h := State.changesOnly.refl s [.cat, .bias, .ev]
  have hends := h.biasLapse.setBias
  exact .ite ((hends _).ite ((hends _).raise _ _ _)) h

theorem State.biasShort_changes (s : State) (n : Nat) : s.changesOnly (s.biasShort n) [.cat, .bias, .ev] := by
  have h := State.changesOnly.refl s [.cat, .bias, .ev]
  exact .ite (((h.wr _ _ _).wr _ _ _).raise _ _ _) h

theorem State.biasShortClear_changes (s : State) (n : Nat) : s.changesOnly (s.biasShortClear n) [.cat, .bias, .ev] := by
  have h := State.changesOnly.refl s [.cat, .bias, .ev]
  exact h.ite ((h.wr _ _ _).raise _ _ _)

/-! Thermal management -/

section
variable {s t : State} (h : s.changesOnly t [.cat, .therm, .ev])
include h

theorem State.changesOnly.setSensor (n : Nat) (v : SensorSys) : s.changesOnly (t.setSensor n v) [.cat, .therm, .ev] := h.setTherm _

theorem State.changesOnly.setReduction (n k red : Nat) : s.changesOnly (t.setReduction n k red) [.cat, .therm, .ev] := by
  unfold State.setReduction
  have hw := fun v => (h.setTherm { t.therm with reduction := tput 0 (n * 16 + k) red t.therm.reduction }).wr Ix.ThrottleReduction (k + 1) v
  exact .ite ((hw _).setTherm _) (.ite ((hw _).setTherm _) (hw _))

theorem State.changesOnly.stepUp (n : Nat) : s.changesOnly (t.stepUp n) [.cat, .therm, .ev] :=
  h.foldl (fun _ _ hu => .ite ((hu.setReduction _ _ _).raise _ _ _) hu) _

theorem State.changesOnly.stepDown (n : Nat) : s.changesOnly (t.stepDown n) [.cat, .therm, .ev] := h.foldl (fun _ _ hu => hu.setReduction _ _ _) _

end

theorem State.throttleGrace_changes (s : State) (n : Nat) : s.changesOnly (s.throttleGrace n) [.cat, .therm, .ev] := by
  unfold State.throttleGrace
  have h := State.changesOnly.refl s [.cat, .therm, .ev]
  dsimp only
  split
  · exact h
  · exact .ite (.ite (h.setSensor _ _) ((h.setSensor _ _).stepUp n)) h

theorem State.throttleStep_changes (s : State) (n : Nat) : s.changesOnly (s.throttleStep n) [.cat, .therm, .ev] := by
  have h := State.changesOnly.refl s [.cat, .therm, .ev]
  exact .ite (.ite (.ite h ((h.setSensor _ _).stepDown n)) ((h.setSensor _ _).stepUp n)) h

theorem State.tileMute_changes (s : State) (t : Nat) : s.changesOnly (s.tileMute t) [.cat, .therm, .ev] := by
  unfold State.tileMute
  have h := State.changesOnly.refl s [.cat, .therm, .ev]
  have hmuted := (h.wr Ix.TileMuted 0 (setBit (s.rd Ix.TileMuted 0) t true)).raise 0x6C04 (t + 1) (packData [f8 t, fFlag true])
  dsimp only
  split
  · exact .ite (hmuted.ite (hmuted.setTherm _)) h
  · exact h

theorem State.shutdownDeadline_changes (s : State) : s.changesOnly s.shutdownDeadline [.cat, .therm, .ev] := by
  have h := State.changesOnly.refl s [.cat, .therm, .ev]
  unfold State.shutdownDeadline
  split
  · refine h.ite ?_
    unfold State.shutdownActs
    split
    · exact h.setTherm _
    · exact h
  · exact h

/-! Courses and paths -/

section
variable {s t : State} (h : s.changesOnly t [.cat, .radio, .ev])
include h

theorem State.changesOnly.detectFault (p reason : Nat) : s.changesOnly (t.detectFault p reason) [.cat, .radio, .ev] := h.ite (h.setRadio _)

theorem State.changesOnly.loseLo (c : Nat) : s.changesOnly (t.loseLo c) [.cat, .radio, .ev] :=
  ((h.wr _ _ _).setRadio _).foldl (fun _ p hu => hu.detectFault p 3) _

end

theorem State.synLock_changes (s : State) (c : Nat) : s.changesOnly (s.synLock c) [.cat, .radio, .ev] := by
  have h := State.changesOnly.refl s [.cat, .radio, .ev]
  exact h.ite ((h.wr _ _ _).setRadio _)

theorem State.loBorrowSwitch_changes (s : State) (c : Nat) : s.changesOnly (s.loBorrowSwitch c) [.cat, .radio, .ev] := by
  unfold State.loBorrowSwitch
  have h := State.changesOnly.refl s [.cat, .radio, .ev]
  split
  · exact h
  · exact .ite (.ite (h.loseLo c) ((h.wr _ _ _).setRadio _)) h

theorem State.dcRange_changes (s : State) (p code : Nat) : s.changesOnly (s.dcRange p code) [.cat, .radio, .ev] := by
  unfold State.dcRange
  have h := State.changesOnly.refl s [.cat, .radio, .ev]
  split
  · exact h.ite ((h.setRadio _).raise _ _ _)
  · exact h

/-! The Sync Packet Engine -/

theorem State.speDwell_changes (s : State) : s.changesOnly s.speDwell [.cat, .spe, .ev] := by
  have h := State.changesOnly.refl s [.cat, .spe, .ev]
  exact h.ite ((h.setSpe _).wr _ _ _)

theorem State.speCfoMove_changes (s : State) : s.changesOnly s.speCfoMove [.cat, .spe, .ev] := by
  unfold State.speCfoMove
  have h := State.changesOnly.refl s [.cat, .spe, .ev]
  split
  · have hmoved := fun x v => (h.setSpe x).wr Ix.SpeCfoApplied 0 v
    exact .ite ((hmoved _ _).ite ((hmoved _ _).raise _ _ _)) h
  · exact h

/-- Settles O60: each command's meaning is built from writes of the Catalogue, of its own unit's record and events, which change these parts alone. -/
theorem unitsKeepToThemselves : Obligations.UnitsKeepToThemselves := by
  unfold Obligations.UnitsKeepToThemselves
  refine ⟨fun s t p n b c hc ht => ?link, fun s t n c hc ht => ?bias, fun s t n c hc ht => ?heat, fun s t n a c hc ht => ?radio,
    fun s t c hc ht => ?spe⟩ <;> simp only [List.mem_cons, List.not_mem_nil, or_false] at hc
  case link =>
    rcases hc with rfl | rfl | rfl | rfl | rfl | rfl | rfl | rfl | rfl | rfl | rfl | rfl | rfl <;> cases ht
    · exact s.detectPulse_changes p n
    · exact s.trainDone_changes p b
    · exact s.portStateTimeout_changes p
    · exact s.failedTimeout_changes p
    · exact (State.changesOnly.refl s _).portDown p 2
    · exact s.laneRejoin_changes p n
    · exact s.alignForce_changes p
    · exact s.chainIn_changes p n
    · exact s.resyncRetry_changes p
    · exact s.creditReturnSend_changes p
    · exact s.packetSend_changes p
    · exact s.echoInterval_changes
    · exact s.frameMarker_changes
  case bias =>
    rcases hc with rfl | rfl | rfl | rfl | rfl <;> cases ht
    · exact s.bloadFalls_changes
    · exact s.clearBegins_changes 1
    · exact s.clearEnds_changes 1
    · exact s.biasShort_changes n
    · exact s.biasShortClear_changes n
  case heat =>
    rcases hc with rfl | rfl | rfl | rfl <;> cases ht
    · exact s.throttleGrace_changes n
    · exact s.throttleStep_changes n
    · exact s.tileMute_changes n
    · exact s.shutdownDeadline_changes
  case radio =>
    rcases hc with rfl | rfl | rfl | rfl <;> cases ht
    · exact s.synLock_changes n
    · exact s.loBorrowSwitch_changes n
    · exact s.dcRange_changes n a
    · exact (State.changesOnly.refl s _).detectFault n 1
  case spe =>
    rcases hc with rfl | rfl <;> cases ht
    · exact s.speDwell_changes
    · exact s.speCfoMove_changes

end Sys2Proof.Machine
end

section
/-! DMA channels that wait for an append, and the statement of 15_dma.md on running channels (R343, R255). -/
namespace Sys2Proof.Machine

/-- A descriptor of NEXT 0 at the first address of the Shelf. -/
def shelfDesc : DmaDesc := decodeDesc 0x1300000000 []

/-- Channel 0 waits for an append at `shelfDesc`, its poll period long past, in a device where a task's code has been written and the task not
yet stopped. -/
def appendWaiting : State :=
  { State.reset with now := 10 ^ 9, cat := [(ck Ix.DmaState 1, 2), (0x600001, 2)], mem := { codeHits := [0] },
                     dma := { chans := [(0, { desc := some shelfDesc })] } }

/-- The state in which the channel has re-read NEXT: the time of the access is noted. -/
def appendRead : State := { appendWaiting with power := { appendWaiting.power with idleSince := tins 0 (10 ^ 9) [] } }

theorem appendRead_readWords : appendRead.readWords (.dma 0) 2 shelfDesc.addr = ([⟨0, false, false⟩, ⟨0, false, false⟩], appendRead) := rfl

/-- APPEND_POLL itself stops no task (R343). -/
theorem appendWaiting_keepsHits : (appendWaiting.appendPoll 0).mem.codeHits = [0] := rfl

/-- Refutes O49: of a channel that waits for an append the statement demands that APPEND_POLL also stop the tasks whose code had been written before,
and APPEND_POLL, which writes no word, stops none. -/
theorem not_dmaChannelsRun : ¬ Obligations.DmaChannelsRun := by
  unfold Obligations.DmaChannelsRun
  rintro ⟨-, -, -, -, -, hpoll⟩
  have hruns := (hpoll appendWaiting appendRead appendRead appendRead 0 0 _ shelfDesc _ _ rfl rfl rfl (by decide) rfl rfl appendRead_readWords
    rfl rfl rfl rfl rfl).2 rfl (by decide) rfl (by decide)
  have hsame := Host.Outcome.next.inj hruns
  have hhits := congrArg (fun s : State => s.mem.codeHits) hsame
  exact absurd (appendWaiting_keepsHits.symm.trans hhits) (by decide)

end Sys2Proof.Machine
end

section
/-! Domains that wake and sleep, and the statement of 16_power.md on them (R352, R362, R363). -/
namespace Sys2Proof.Machine

/-- A waking domain whose signals have all come is on (R352). -/
theorem State.domainReady_all {s t : State} {d : Nat} {w : DomainWake} (hw : s.power.wakes.find? (fun w => w.domain == d) = some w)
    (ht : t = ({ s with power := { s.power with wakes := s.power.wakes.filter (fun x => x.domain != d), idleSince := tins d s.now s.power.idleSince,
                                                archInit := s.power.archInit && d != 5 } } : State).wr Ix.DomainState (d + 1) 2) :
    s.domainReady d true true true
      = (if 8 ≤ d then t.ownLo (d - 8) else if d = 6 ∨ d = 7 then t.portStart (d - 6) else t).goOn := by
  have hgood : (if w.powerGood.isSome = true then w.powerGood else some s.now).isSome = true := by
    cases w.powerGood <;> rfl
  have hhigh : 8 ≤ d → ¬(d = 6 ∨ d = 7) := by omega
  simp only [State.domainReady, State.domainSignals, hw, hgood, Bool.or_true, Bool.true_or, Bool.and_true, and_self, if_true, ← ht]
  by_cases h8 : 8 ≤ d
  · simp only [h8, hhigh h8, if_true, if_false]
  · simp only [h8, if_false]

/-- Of the signals that have not come in time the first names the reason (R363). -/
theorem State.wakeTimeout_due {s : State} {d : Nat} {w : DomainWake} (hw : s.power.wakes.find? (fun w => w.domain == d) = some w)
    (ht : w.since + usec (s.rd Ix.DomainWakeTimeout 0) ≤ s.now) (hm : w.powerGood = none ∨ w.oscillator = false) :
    s.wakeTimeout d = s.wakeFails d (if w.powerGood = none then 1 else 2) := by
  simp only [State.wakeTimeout, hw, State.elapsed_of_le ht, if_true]
  cases hg : w.powerGood with
  | none => rfl
  | some g =>
    have ho : w.oscillator = false := hm.resolve_left (by simp [hg])
    simp [ho]

/-- ARCH that has not initialised 10 ms after power-good fails (R363). -/
theorem State.archInitLimit_due {s : State} {since t : Nat} (hw : s.power.wakes.find? (fun w => w.domain == 5) = some ⟨5, since, some t, true, false⟩)
    (ht : t + msec 10 ≤ s.now) : s.archInitLimit = s.wakeFails 5 3 := by
  simp only [State.archInitLimit, hw, State.elapsed_of_le ht, if_true]

/-- A demand domain that nothing needs and nothing has used for `DomainIdleOff` switches off (R362). -/
theorem State.idleOff_due {s : State} {d : Nat} (hd : d ∈ s.power.demand) (ho : s.domainOn d = true) (hm : s.modeNeeds s.mode d = false)
    (h4 : d ≠ 4) (ht : tget 0 d s.power.idleSince + usec (s.rd Ix.DomainIdleOff 0) ≤ s.now) : s.idleOff d = s.beginSwitchOff d := by
  have hdemand : s.power.demand.contains d = true := by simpa using hd
  have hmason : (d == 4) = false := by simpa using h4
  simp only [State.idleOff, hdemand, ho, hm, State.elapsed_of_le ht, hmason, Bool.false_and, Bool.not_false, Bool.and_self, if_true]

/-- Settles O50: each step is the lemma named for it. -/
theorem domainsWakeAndSleep : Obligations.DomainsWakeAndSleep := by
  unfold Obligations.DomainsWakeAndSleep
  refine ⟨?ready, ?timeout, ?arch, ?idle, ?off⟩
  case ready => exact fun s t d w hw ht => congrArg Host.Outcome.next (State.domainReady_all hw ht)
  case timeout =>
    exact fun s d w hw ht hm => congrArg (fun t : State => Host.Outcome.next (t.failStalled s d)) (State.wakeTimeout_due hw ht hm)
  case arch => exact fun s since t hw ht => congrArg (fun t : State => Host.Outcome.next (t.failStalled s 5)) (State.archInitLimit_due hw ht)
  case idle => exact fun s d hd ho hm h4 ht => congrArg Host.Outcome.next (State.idleOff_due hd ho hm h4 ht)
  case off =>
    rintro s t d hs rfl
    refine congrArg (fun t : State => Host.Outcome.next t.goOn) ?_
    rw [State.switchOffDone, if_pos hs]
    rfl

end Sys2Proof.Machine
end

section
/-! TIME and CREDIT packets received, and the statements of 13_link_packets_and_arrays.md on them (R302, R303, R312 to R314). -/
namespace Sys2Proof.Machine

/-! Ports and words -/

@[simp] theorem State.port_setPort (s : State) (p : Nat) (v : PortSys) : (s.setPort p v).port p = v := tget_tins_same _ _ _ _

/-- The words that are laid out one after another read back. -/
theorem fieldLE_words {l : List Nat} (h : ∀ w ∈ l, w < 2 ^ 32) {i : Nat} (hi : i < l.length) : fieldLE (l.flatMap (leBytes 4)) (4 * i) 4 = l[i] := by
  induction l generalizing i with
  | nil => exact absurd hi (Nat.not_lt_zero i)
  | cons w l ih =>
    rw [List.flatMap_cons]
    cases i with
    | zero => exact fieldLE_leBytes_append _ (h w (by simp))
    | succ i =>
      have hlater : 4 * (i + 1) - (leBytes 4 w).length = 4 * i := by
        rw [leBytes_length]
        omega
      rw [fieldLE_append_of_le (by rw [leBytes_length]; omega), hlater]
      exact ih (fun v hv => h v (List.mem_cons_of_mem _ hv)) (by simpa using hi)

/-- The words of a TIME packet (Table 13.5). -/
def timeWords (kind low : Nat) (l : List Nat) : List Nat := (kind * 2 ^ 24 + low) :: l

theorem timePayload_eq (kind low : Nat) (l : List Nat) : timePayload kind low l = (timeWords kind low l).flatMap (leBytes 4) := rfl

theorem timePayload_words (kind low : Nat) (l : List Nat) : ceilDiv (timePayload kind low l).length 4 = l.length + 1 := by
  have hlength : (timePayload kind low l).length = 4 * (l.length + 1) := by
    rw [timePayload_eq]
    simp only [timeWords, List.length_flatMap, leBytes_length, List.map_const', List.sum_replicate, List.length_cons, smul_eq_mul]
    omega
  rw [hlength, ceilDiv]
  omega

/-- The kind of a TIME packet and its words, as they read. -/
theorem timePayload_reads {kind low : Nat} {l : List Nat} (hk : kind < 256) (hlow : low < 2 ^ 24) (hl : ∀ w ∈ l, w < 2 ^ 32) :
    fieldLE (timePayload kind low l) (4 * 0) 4 / 2 ^ 24 = kind
    ∧ ∀ i (hi : i < l.length), fieldLE (timePayload kind low l) (4 * (i + 1)) 4 = l[i] := by
  have hwords : ∀ w ∈ timeWords kind low l, w < 2 ^ 32 := by
    intro w hw
    rcases List.mem_cons.1 hw with rfl | hw
    · omega
    · exact hl w hw
  refine ⟨?_, fun i hi => fieldLE_words hwords (Nat.succ_lt_succ hi)⟩
  rw [timePayload_eq, fieldLE_words hwords (Nat.succ_pos _)]
  simp only [timeWords, List.getElem_cons_zero]
  omega

theorem State.noteSeq_now (s : State) (p seq : Nat) : (s.noteSeq p seq).now = s.now :=
  State.noteSeq_same (g := State.now) (fun _ _ _ => rfl) (by simp) (by simp) s p seq

@[simp] theorem State.heard_now (s : State) (h : PacketHead) (typ words : Nat) : (s.heard h typ words).now = s.now :=
  (State.owe_same (g := State.now) (fun _ _ _ => rfl) _ _ _ _).trans (State.noteSeq_now s h.port h.seq)

/-! TIME packets (R312 to R314) -/

theorem State.route_time (s : State) (p e : Nat) {k : OutPacket} (h : k.typ = 8) : s.route p e k = s.timeIn p e k := by
  simp only [State.route, h]

theorem State.route_credit (s : State) (p e : Nat) {k : OutPacket} (h : k.typ = 11) : s.route p e k = s.creditIn p k := by
  simp only [State.route, h]

/-- A TIME packet that is taken acts by its kind. -/
theorem State.Hears.time {s : State} {h : PacketHead} {kind low n : Nat} {l : List Nat} (hn : l.length + 1 = n) (hh : s.Hears h 8 n) :
    s.headIn h 8 (timePayload kind low l)
      = (s.heard h 8 n).timeIn h.port (s.completeTag h.etag) (asSent h 8 (timePayload kind low l)) := by
  have hwords : ceilDiv (timePayload kind low l).length 4 = n := (timePayload_words kind low l).trans hn
  have hin := State.Hears.headIn (s := s) (h := h) (typ := 8) (l := timePayload kind low l) (by rwa [hwords])
  rw [hin, hwords, State.route_time _ _ _ rfl]

theorem State.timeIn_frame {s : State} {e low offset : Nat} {k : OutPacket} (hk : k.payload = timePayload 1 low [offset]) (hl : low < 2 ^ 24)
    (ho : offset < 2 ^ 32) : s.timeIn 0 e k = (s.passOn 1 k).frameIn 0 e offset := by
  obtain ⟨hkind, hword⟩ := timePayload_reads (kind := 1) (l := [offset]) (by decide) hl (by simpa using ho)
  have hoffset := hword 0 (by simp)
  simp only [State.timeIn, hk, hkind, if_true]
  exact congrArg _ hoffset

theorem State.timeIn_echoReq {s : State} {p e id : Nat} {k : OutPacket} (hk : k.payload = timePayload 2 0 [id]) (hi : id < 2 ^ 32) :
    s.timeIn p e k = s.echoReq p id := by
  obtain ⟨hkind, hword⟩ := timePayload_reads (kind := 2) (low := 0) (l := [id]) (by decide) (by decide) (by simpa using hi)
  have hid := hword 0 (by simp)
  simp only [State.timeIn, hk, hkind]
  exact congrArg _ hid

theorem State.timeIn_echoRsp {s : State} {p e id turn : Nat} {k : OutPacket} (hk : k.payload = timePayload 3 0 [id, turn]) (hi : id < 2 ^ 32)
    (ht : turn < 2 ^ 32) : s.timeIn p e k = s.echoRsp p id turn := by
  have hfits : ∀ w ∈ [id, turn], w < 2 ^ 32 := by
    intro w hw
    simp only [List.mem_cons, List.not_mem_nil, or_false] at hw
    rcases hw with rfl | rfl <;> assumption
  obtain ⟨hkind, hword⟩ := timePayload_reads (kind := 3) (low := 0) (l := [id, turn]) (by decide) (by decide) hfits
  have hid := hword 0 (by simp)
  have hturn := hword 1 (by simp)
  simp only [State.timeIn, hk, hkind]
  exact congrArg₂ _ hid hturn

theorem State.timeIn_ready {s : State} {e : Nat} {ready : Bool} {k : OutPacket} (hk : k.payload = timePayload 4 0 [b2n ready]) :
    s.timeIn 1 e k = s.readyIn e k.pos ready k := by
  obtain ⟨hkind, hword⟩ := timePayload_reads (kind := 4) (low := 0) (l := [b2n ready]) (by decide) (by decide) (by cases ready <;> decide)
  have hready : bitAt (fieldLE (timePayload 4 0 [b2n ready]) (4 * 1) 4) 0 = ready := by
    rw [hword 0 (by simp)]
    cases ready <;> rfl
  simp only [State.timeIn, hk, hkind, hready, if_true]

theorem epochOfEntry_halves {epoch : Nat} (h : epoch < 2 ^ 36) :
    epochOfEntry (epochEntry epoch % 2 ^ 32 + epochEntry epoch / 2 ^ 32 * 2 ^ 32) = epoch := by
  simp only [epochOfEntry, epochEntry]
  omega

theorem epochEntry_high {epoch : Nat} (h : epoch < 2 ^ 36) : epochEntry epoch / 2 ^ 32 < 2 ^ 32 := by
  rw [epochEntry]
  omega

theorem State.timeIn_decision {s : State} {e a b c : Nat} {k : OutPacket} (hk : k.payload = timePayload 5 0 [a, b, c]) (ha : a < 2 ^ 32)
    (hb : b < 2 ^ 32) (hc : c < 2 ^ 32) : s.timeIn 0 e k = s.decisionIn e (a % 256 == 1) (epochOfEntry (b + c * 2 ^ 32)) k := by
  have hfits : ∀ w ∈ [a, b, c], w < 2 ^ 32 := by
    intro w hw
    simp only [List.mem_cons, List.not_mem_nil, or_false] at hw
    rcases hw with rfl | rfl | rfl <;> assumption
  obtain ⟨hkind, hword⟩ := timePayload_reads (kind := 5) (low := 0) (l := [a, b, c]) (by decide) (by decide) hfits
  have ha' : fieldLE (timePayload 5 0 [a, b, c]) (4 * 1) 4 = a := hword 0 (by simp)
  have hb' : fieldLE (timePayload 5 0 [a, b, c]) (4 * 2) 4 = b := hword 1 (by simp)
  have hc' : fieldLE (timePayload 5 0 [a, b, c]) (4 * 3) 4 = c := hword 2 (by simp)
  simp only [State.timeIn, hk, hkind, ha', hb', hc', if_true]

theorem meanDelay_eq (l : List Int) : meanDelay l = l.sum / (l.length : Int) := by
  cases l <;> rfl

/-- The answer to the request outstanding, where its want was not reported (R313). -/
theorem State.echoRsp_awaited {s : State} {p id : Nat} (ho : (s.port p).echoOut = some id) (hd : (s.port p).echoDown = false) (turn : Nat)
    (d : Int) (l : List Int)
    (hdelay : d = (unitsPs ((s.now - (s.port p).echoSentAt : Nat) : Int) - (turn : Int)) / 2 + s.rdI 32 Ix.LinkDelayAdjust (p + 1))
    (hl : l = (((s.port p).delays ++ [d]).reverse.take 8).reverse) :
    s.echoRsp p id turn = (s.setPort p { s.port p with echoOut := none, echoMissed := 0, delays := l }).wrI 32 Ix.LinkDelay (p + 1)
      (l.sum / (l.length : Int)) := by
  have hkept : ({ s.port p with echoOut := none, echoMissed := 0, echoDown := false, delays := l } : PortSys)
      = { s.port p with echoOut := none, echoMissed := 0, delays := l } := by rw [← hd]
  have hquiet : ¬(s.port p).echoDown = true := by simp [hd]
  simp only [State.echoRsp, ho, if_true, ← hdelay, ← hl, meanDelay_eq, if_neg hquiet, hkept]

/-- Settles O43: a TIME packet is taken as `State.Hears.time` says, and its payload reads as it was laid out (`timePayload_reads`). -/
theorem timePacketsAct : Obligations.TimePacketsAct := by
  unfold Obligations.TimePacketsAct
  refine ⟨?frame, ?request, ?answer, ?ready, ?decision⟩
  case frame =>
    rintro s t h holdover offset hh hp ho rfl
    have hlow : b2n holdover < 2 ^ 24 := by cases holdover <;> decide
    refine congrArg Host.Outcome.next ((hh.time rfl).trans ?_)
    rw [hp]
    exact State.timeIn_frame rfl hlow ho
  case request =>
    rintro s t h id hh hi rfl
    refine congrArg Host.Outcome.next (((hh.time rfl).trans (State.timeIn_echoReq rfl hi)).trans ?_)
    rw [State.echoReq, ← State.heard_pos s h 8 2]
    simp only [State.heard_now]
    rfl
  case answer =>
    rintro s t h id turn d l hh hi ht rfl ho hd hdelay hl
    rw [← State.heard_now s h 8 3] at hdelay
    exact congrArg Host.Outcome.next (((hh.time rfl).trans (State.timeIn_echoRsp rfl hi ht)).trans (State.echoRsp_awaited ho hd turn d l hdelay hl))
  case ready =>
    intro s h ready hh hp h0
    refine congrArg Host.Outcome.next ((hh.time (n := 2) rfl).trans ?_)
    rw [hp, State.timeIn_ready rfl, State.readyIn, if_pos ((State.heard_pos s h 8 2).trans h0), State.heard_now]
    rfl
  case decision =>
    intro s h go epoch hh hp he
    refine congrArg Host.Outcome.next ((hh.time rfl).trans ?_)
    rw [hp, State.timeIn_decision rfl (by cases go <;> decide) (Nat.mod_lt _ (by decide)) (epochEntry_high he), epochOfEntry_halves he]
    cases go <;> rfl

/-! CREDIT packets (R302, R303) -/

theorem leBytes_four (v : Nat) : leBytes 4 v = leBytes 2 v ++ leBytes 2 (v / 256 / 256) := rfl

/-- Units that fit their fields. -/
def FitUnits (u : CreditUnits) : Prop := u.c1 < 65536 ∧ u.c2 < 65536 ∧ u.c3 < 65536

/-- The kind of a CREDIT packet and its units, as they read (R302). -/
theorem creditPayload_reads {kind : Nat} {u : CreditUnits} (hk : kind < 4) (hu : FitUnits u) :
    bitsOf (fieldLE (creditPayload kind u) 0 4) 31 30 = kind
    ∧ (⟨fieldLE (creditPayload kind u) 4 2, fieldLE (creditPayload kind u) 6 2, fieldLE (creditPayload kind u) 8 2⟩ : CreditUnits) = u := by
  obtain ⟨h1, h2, h3⟩ := hu
  have hpayload : creditPayload kind u
      = leBytes 4 (kind * 2 ^ 30) ++ (leBytes 2 u.c1 ++ (leBytes 2 u.c2 ++ (leBytes 2 u.c3 ++ leBytes 2 (u.c3 / 256 / 256)))) := by
    rw [creditPayload, creditPacket, Nat.mod_eq_of_lt h3, leBytes_four u.c3]
    simp only [List.append_assoc]
  have hword : fieldLE (creditPayload kind u) 0 4 = kind * 2 ^ 30 := by
    rw [hpayload]
    exact fieldLE_leBytes_append _ (by omega)
  have hc1 : fieldLE (creditPayload kind u) 4 2 = u.c1 := by
    rw [hpayload, fieldLE_append_of_le (by simp)]
    exact fieldLE_leBytes_append _ h1
  have hc2 : fieldLE (creditPayload kind u) 6 2 = u.c2 := by
    rw [hpayload, fieldLE_append_of_le (by simp), fieldLE_append_of_le (by simp)]
    exact fieldLE_leBytes_append _ h2
  have hc3 : fieldLE (creditPayload kind u) 8 2 = u.c3 := by
    rw [hpayload, fieldLE_append_of_le (by simp), fieldLE_append_of_le (by simp), fieldLE_append_of_le (by simp)]
    exact fieldLE_leBytes_append _ h3
  refine ⟨?_, by rw [hc1, hc2, hc3]⟩
  rw [hword, bitsOf]
  omega

/-- A CREDIT packet that is taken: its class is not credited, so nothing is owed for it. -/
theorem State.Hears.creditTaken {s : State} {h : PacketHead} (hh : s.Hears h 11 3) (kind : Nat) (u : CreditUnits) :
    s.headIn h 11 (creditPayload kind u) = (s.noteSeq h.port h.seq).creditIn h.port (asSent h 11 (creditPayload kind u)) := by
  have hwords : ceilDiv (creditPayload kind u).length 4 = 3 := by simp [creditPayload, creditPacket, ceilDiv]
  have hin := State.Hears.headIn (s := s) (h := h) (typ := 11) (l := creditPayload kind u) (by rwa [hwords])
  rw [hin, hwords, State.route_credit _ _ _ rfl, State.heard]
  exact congrArg (fun t : State => t.creditIn h.port (asSent h 11 (creditPayload kind u))) (State.owe_uncredited _ _ _)

section
variable {s : State} {p : Nat} {u : CreditUnits} {k : OutPacket} (hu : FitUnits u)
include hu

theorem State.creditIn_return (hk : k.payload = creditPayload 0 u) : s.creditIn p k = s.creditReturn p u := by
  obtain ⟨hkind, hunits⟩ := creditPayload_reads (kind := 0) (by decide) hu
  simp only [State.creditIn, hk, hkind, hunits]

theorem State.creditIn_resyncReq (hk : k.payload = creditPayload 1 u) : s.creditIn p k = s.resyncReq p := by
  obtain ⟨hkind, -⟩ := creditPayload_reads (kind := 1) (by decide) hu
  simp only [State.creditIn, hk, hkind]

theorem State.creditIn_resyncAck (hk : k.payload = creditPayload 2 u) : s.creditIn p k = s.resyncAck p := by
  obtain ⟨hkind, -⟩ := creditPayload_reads (kind := 2) (by decide) hu
  simp only [State.creditIn, hk, hkind]

theorem State.creditIn_resyncDone (hk : k.payload = creditPayload 3 u) : s.creditIn p k = s.resyncDone p u := by
  obtain ⟨hkind, hunits⟩ := creditPayload_reads (kind := 3) (by decide) hu
  simp only [State.creditIn, hk, hkind, hunits]

end

theorem noUnits_fit : FitUnits ⟨0, 0, 0⟩ := by simp [FitUnits]

/-- A count of a table after it has been written. -/
theorem tget_tput_eq (k v c : Nat) (t : Tab Nat) : tget 0 c (tput 0 k v t) = if c = k then v else tget 0 c t := by
  split
  · next h => rw [h, tget_tput_same]
  · next h => rw [tget_tput_ne h]

/-- The credit of the classes after units came back to the sender. -/
def addedCredit (u : CreditUnits) (t : Tab Nat) : Tab Nat :=
  let add := fun (c n : Nat) (t : Tab Nat) => tput 0 c (tget 0 c t + n) t
  add 1 u.c1 (add 2 u.c2 (add 3 u.c3 t))

theorem State.creditReturn_eq (s : State) (p : Nat) (u : CreditUnits) :
    s.creditReturn p u = s.setPort p { s.port p with credit := addedCredit u (s.port p).credit } := rfl

theorem tget_addedCredit (u : CreditUnits) (t : Tab Nat) (c : Nat) :
    tget 0 c (addedCredit u t) = tget 0 c t + (if c = 1 then u.c1 else if c = 2 then u.c2 else if c = 3 then u.c3 else 0) := by
  simp only [addedCredit, tget_tput_eq]
  by_cases h1 : c = 1
  · simp [h1]
  · by_cases h2 : c = 2
    · simp [h2]
    · by_cases h3 : c = 3 <;> simp [h1, h2, h3]

@[simp] theorem State.countResync_pos (s : State) (p : Nat) : (s.countResync p).pos = s.pos := by simp [State.countResync]
@[simp] theorem State.countResync_epoch (s : State) (p : Nat) : (s.countResync p).epoch = s.epoch := by simp [State.countResync]

/-- Settles O44: a CREDIT packet is taken as `State.Hears.creditTaken` says and reads as it was laid out (`creditPayload_reads`). -/
theorem creditsAreKept : Obligations.CreditsAreKept := by
  unfold Obligations.CreditsAreKept
  refine ⟨?received, ?retry, ?owed⟩
  case received =>
    rintro s t h u hh h1 h2 h3 rfl
    have hu : FitUnits u := ⟨h1, h2, h3⟩
    refine ⟨⟨addedCredit u ((s.noteSeq h.port h.seq).port h.port).credit, ?_, tget_addedCredit u _⟩, ?_, ?_, ?_⟩
    · exact congrArg Host.Outcome.next ((hh.creditTaken 0 u).trans (State.creditIn_return hu rfl))
    · refine congrArg Host.Outcome.next ((hh.creditTaken 1 _).trans ((State.creditIn_resyncReq (k := asSent h 11 _) noUnits_fit rfl).trans ?_))
      rw [← State.noteSeq_pos s h.port h.seq, ← State.noteSeq_epoch s h.port h.seq]
      rfl
    · refine congrArg Host.Outcome.next ((hh.creditTaken 2 _).trans ((State.creditIn_resyncAck (k := asSent h 11 _) noUnits_fit rfl).trans ?_))
      simp only [State.resyncAck, State.credit, State.countResync_pos, State.countResync_epoch]
      rw [← State.noteSeq_pos s h.port h.seq, ← State.noteSeq_epoch s h.port h.seq]
      rfl
    · rintro v rfl
      exact congrArg Host.Outcome.next ((hh.creditTaken 3 u).trans (State.creditIn_resyncDone hu rfl))
  case retry =>
    rintro s t p since ha hw hs rfl
    refine congrArg Host.Outcome.next ?_
    simp only [State.resyncRetry, hw, State.portActive_of_linkState ha, State.elapsed_of_le hs, and_self, if_true]
    rfl
  case owed =>
    rintro s p ha ⟨c, hc, hne⟩
    have howed : (s.port p).owed.any (fun c => c.2 != 0) = true := List.any_eq_true.2 ⟨c, hc, bne_iff_ne.2 hne⟩
    refine congrArg Host.Outcome.next ?_
    simp only [State.creditReturnSend, State.portActive_of_linkState ha, howed, and_self, if_true]
    rfl

end Sys2Proof.Machine
end

section
/-! Packets that start, and the statement of 13_link_packets_and_arrays.md on them (R302, R304, R312, R313, R319). -/
namespace Sys2Proof.Machine

/-! The packet that starts next (R304) -/

/-- The first number at which a function gives a value is the one that counts. -/
theorem findSome?_range {α : Type} {f : Nat → Option α} {n j : Nat} {b : α} (hj : j < n) (hf : f j = some b) (hn : ∀ i < j, f i = none) :
    (List.range n).findSome? f = some b := by
  induction n with
  | zero => exact absurd hj (Nat.not_lt_zero j)
  | succ n ih =>
    rw [List.range_succ, List.findSome?_append]
    rcases Nat.lt_succ_iff_lt_or_eq.1 hj with hlt | rfl
    · rw [ih hlt]
      rfl
    · have hnone : (List.range j).findSome? f = none := List.findSome?_eq_none_iff.2 fun i hi => hn i (List.mem_range.1 hi)
      simp [hnone, hf]

theorem precedence_lt (typ : Nat) : precedence typ < 8 := by
  unfold precedence
  split <;> decide

/-- A packet that may start, where each other that may has a lower precedence, starts next. -/
theorem State.nextPacket_first {s : State} {p : Nat} {k : OutPacket} {l : List OutPacket} (hk : k ∈ l) (hm : s.mayStart p k = true)
    (hothers : ∀ x ∈ l, s.mayStart p x = true → x = k ∨ precedence k.typ < precedence x.typ) : s.nextPacket p l = some k := by
  refine findSome?_range (precedence_lt k.typ) ?_ fun j hj => ?_
  · have honly : ∀ x ∈ l, (precedence x.typ == precedence k.typ && s.mayStart p x) = true → x = k := by
      intro x hx hstarts
      rw [Bool.and_eq_true, beq_iff_eq] at hstarts
      exact (hothers x hx hstarts.2).resolve_right (by omega)
    have hsome : (l.find? (fun x => precedence x.typ == precedence k.typ && s.mayStart p x)).isSome := by
      rw [List.find?_isSome]
      exact ⟨k, hk, by simp [hm]⟩
    obtain ⟨x, hx⟩ := Option.isSome_iff_exists.1 hsome
    rw [hx, honly x (List.mem_of_find?_eq_some hx) (by simpa using List.find?_some hx)]
  · rw [List.find?_eq_none]
    intro x hx hstarts
    rw [Bool.and_eq_true, beq_iff_eq] at hstarts
    rcases hothers x hx hstarts.2 with rfl | hlower <;> omega

theorem State.stamped_plain {s : State} {k : OutPacket} (h : k.typ ≠ 8) (p : Nat) : s.stamped p k = k := by
  rw [State.stamped, if_neg (fun h8 => h h8.1)]

theorem State.noteStart_plain {s : State} {k : OutPacket} (h : k.typ ≠ 8) (p : Nat) : s.noteStart p k = s := by
  rw [State.noteStart]
  exact if_pos h

/-- The packet that starts leaves the list, takes the next SEQ and its units (R298, R302). -/
theorem State.packetSend_starts {s : State} {p : Nat} {k : OutPacket} {l : List OutPacket} (ha : s.linkState p = 5)
    (hl : tget [] p s.link.ready = l) (hfits : ∀ x ∈ l, s.tooLarge p x = false) (hnext : s.nextPacket p l = some k) (h8 : k.typ ≠ 8) :
    s.packetSend p = ({ s with link := { s.link with ready := tins p (l.erase k) s.link.ready } } : State).setPort p { s.port p with
      credit := if packetClass k.typ = 0 then (s.port p).credit else tput 0 (packetClass k.typ) (tget 0 (packetClass k.typ) (s.port p).credit
        - packetUnits (ceilDiv k.payload.length 4)) (s.port p).credit
      txSeq := ((s.port p).txSeq + 1) % 256, sent := (s.port p).sent ++ [((s.port p).txSeq, k)], alignFill := false } := by
  have hall : l.filter (fun k => !s.tooLarge p k) = l := List.filter_eq_self.2 fun x hx => by simp [hfits x hx]
  have hsame : ∀ ready : Tab (List OutPacket), ({ s with link := { s.link with ready := ready } } : State).nextPacket p l = some k := fun _ => hnext
  have hport : ∀ ready : Tab (List OutPacket), ({ s with link := { s.link with ready := ready } } : State).port p = s.port p := fun _ => rfl
  simp only [State.packetSend, State.portActive_of_linkState ha, hl, hall, hsame, State.stamped_plain h8, State.noteStart_plain h8, hport, tins_tins,
    Bool.not_true, Bool.false_eq_true, if_false]

/-! Captures (R319) and TIME packets that leave (R312, R313) -/

/-- The oldest filled chunk of an ACTIVE port goes north. -/
theorem State.captureSend_sound {s t : State} {p chunk n a : Nat} {rest : List (Nat × Nat)} (ha : s.linkState p = 5)
    (hc : s.captureReady = (p, chunk) :: rest) (hn : n = 4 * s.rd Ix.CaptureChunk (p + 1)) (hat : a = captureRingBase p + chunk * n)
    (ht : t = s.settle a n) (hp : t.firstPoison a n = none) :
    s.captureSend p = (t.sendNow p 10 t.pos (leBytes 2 (tget 0 chunk (t.port p).captured * (0x100000 / n) + chunk)
      ++ leBytes 2 (t.rd Ix.CaptureStream (p + 1)) ++ t.bytesAt a n)).chunkFreed p chunk := by
  have hfind : s.captureReady.find? (fun c => c.1 == p) = some (p, chunk) := by simp [hc]
  have hbytes : s.chunkBytes p = n := hn.symm
  simp only [State.captureSend, hfind, State.portActive_of_linkState ha, hbytes, ← hat, ← ht, hp, Bool.not_true, Bool.false_eq_true, if_false]

/-- An echo request that is due leaves PORT-N, where none is unanswered. -/
theorem State.echoInterval_due {s : State} (ha : s.linkState 0 = 5) (ht : (s.port 0).echoAt + msec (s.rd Ix.EchoInterval 0) ≤ s.now)
    (hf : s.farAnswers 0 = true) (ho : (s.port 0).echoOut = none) (hd : (s.port 0).echoDown = false) :
    s.echoInterval = (s.setPort 0 { s.port 0 with
      echoId := ((s.port 0).echoId + 1) % 2 ^ 32, echoOut := some (((s.port 0).echoId + 1) % 2 ^ 32), echoSentAt := s.now, echoAt := s.now
      echoMissed := 0, echoDown := false }).sendNow 0 8 s.pos (timePayload 2 0 [((s.port 0).echoId + 1) % 2 ^ 32]) := by
  simp only [State.echoInterval, State.portActive_of_linkState ha, State.elapsed_of_le ht, hf, ho, hd, Option.isSome_none, Bool.not_true,
    Bool.or_self, Bool.false_eq_true, if_false]
  rfl

/-- The marker of a frame leaves PORT-S in the 200 µs before the frame. -/
theorem State.frameMarker_due {s : State} {f start : Nat} (ha : s.linkState 1 = 5)
    (hl : s.rd Ix.TimeLockState 0 = 2 ∨ s.rd Ix.TimeLockState 0 = 3) (hr : s.tb.running = true) (hf : f = (frameOf s.epoch + 1) % 67108864)
    (hs : start = s.tickOf (frameStart f)) (h200 : start ≤ s.now + usec 200) (hn : s.now < start) (hnew : s.link.frameSentFor ≠ some f) :
    s.frameMarker = ({ s with link := { s.link with frameSentFor := some f } } : State).sendPacket 1
      ⟨8, s.pos, frameStart f % 2 ^ 32, timePayload 1 (b2n (s.rd Ix.TimeLockState 0 == 3)) [(unitsPs ((start - s.now : Nat) : Int)).toNat]⟩ := by
  simp only [State.frameMarker, ← hf, ← hs]
  exact if_pos ⟨State.portActive_of_linkState ha, hl, hr, h200, hn, hnew⟩

/-- Settles O45: the packet that starts is the one that `State.nextPacket_first` names; the other steps are the lemmas named for them. -/
theorem packetsStartByPrecedence : Obligations.PacketsStartByPrecedence := by
  unfold Obligations.PacketsStartByPrecedence
  refine ⟨?packet, ?capture, ?echo, ?marker⟩
  case packet =>
    rintro s t p k l credit ha hl hfits hk hm hothers h8 rfl rfl
    exact congrArg Host.Outcome.next (State.packetSend_starts ha hl hfits (State.nextPacket_first hk hm hothers) h8)
  case capture => exact fun s t p chunk n a rest ha hc hn hat ht hp => congrArg Host.Outcome.next (State.captureSend_sound ha hc hn hat ht hp)
  case echo =>
    rintro s id ha ht hf ho hd rfl
    exact congrArg Host.Outcome.next (State.echoInterval_due ha ht hf ho hd)
  case marker =>
    rintro s f start lock ha rfl hl hr hf hs h200 hn hnew
    exact congrArg Host.Outcome.next (State.frameMarker_due ha hl hr hf hs h200 hn hnew)

end Sys2Proof.Machine
end

section
/-! Throttling, the orderly shutdown and the host's commands on faults, and the statement of 18_housekeeping_bias_thermal.md and
19_faults_and_continuity.md on them (R413 to R415, R418, R423 to R425). -/
namespace Sys2Proof.Machine

/-! Throttling (R413, R414) -/

section
variable {s : State} {n t : Nat} {v : SensorSys} (hv : s.sensor n = v)
include hv

/-- A sensor still above THROTTLE when its grace ends starts enforcement with a step (R413). -/
theorem State.throttleGrace_enforces (hg : v.graceAt = some t) (ht : t + msec (s.rd Ix.ThrottleGrace 0) ≤ s.now) (hm : s.rd Ix.ThrottleMode 0 = 1)
    (hc : v.counts = true) : s.throttleGrace n = (s.setSensor n { v with graceAt := none, enforce := true, stepAt := s.now }).stepUp n := by
  simp only [State.throttleGrace, hv, hg, State.elapsed_of_le ht, hm, hc, and_self, Bool.not_true, Bool.false_eq_true, if_false, if_true]

theorem State.throttleGrace_lapses (hg : v.graceAt = some t) (ht : t + msec (s.rd Ix.ThrottleGrace 0) ≤ s.now) (hc : v.counts = false) :
    s.throttleGrace n = s.setSensor n { v with graceAt := none } := by
  simp only [State.throttleGrace, hv, hg, State.elapsed_of_le ht, hc, and_false, Bool.not_true, Bool.false_eq_true, if_false]

/-- Every 100 ms the tiles of a sensor that enforces step up (R413). -/
theorem State.throttleStep_up (hm : s.rd Ix.ThrottleMode 0 = 1) (ht : v.stepAt + msec 100 ≤ s.now) (he : v.enforce = true) :
    s.throttleStep n = (s.setSensor n { v with stepAt := v.stepAt + msec 100 }).stepUp n := by
  simp [State.throttleStep, hv, hm, State.elapsed_of_le ht, he]

/-- They step down once the sensor has crossed back, while a tile's reduction is asked (R414). -/
theorem State.throttleStep_down (hm : s.rd Ix.ThrottleMode 0 = 1) (ht : v.stepAt + msec 100 ≤ s.now) (he : v.enforce = false)
    (hc : v.counts = false) (hr : ∃ t ∈ sensorTiles n, s.askedReduction n t ≠ 0) :
    s.throttleStep n = (s.setSensor n { v with stepAt := v.stepAt + msec 100 }).stepDown n := by
  have hasked : (sensorTiles n).any (fun t => s.askedReduction n t != 0) = true := by
    obtain ⟨t, hmem, hne⟩ := hr
    exact List.any_eq_true.2 ⟨t, hmem, bne_iff_ne.2 hne⟩
  simp [State.throttleStep, hv, hm, State.elapsed_of_le ht, he, hc, hasked]

end

/-- A tile at its floor for `ThrottleMuteDelay` is muted (R413). -/
theorem State.tileMute_due {s : State} {t since : Nat} (hf : s.therm.floorSince.find? (fun c => c.1 == t) = some (t, since))
    (hd : s.rd Ix.ThrottleMuteDelay 0 ≠ 65535) (ht : since + msec (s.rd Ix.ThrottleMuteDelay 0) ≤ s.now) (hm : s.rdBit Ix.TileMuted 0 t = false)
    (he : s.tileEnforced t = true) (h1 : s.rd Ix.ThrottleMode 0 = 1) (hs : isSlotStart s.epoch = false) :
    s.tileMute t = (s.wrBit Ix.TileMuted 0 t true).raise 0x6C04 (t + 1) (packData [f8 t, fFlag true]) := by
  have hgoes : ¬(s.rd Ix.ThrottleMuteDelay 0 = 65535 ∨ s.elapsed since (msec (s.rd Ix.ThrottleMuteDelay 0)) = false ∨ s.rdBit Ix.TileMuted 0 t = true
      ∨ s.tileEnforced t = false ∨ s.rd Ix.ThrottleMode 0 ≠ 1) := by
    simp [hd, State.elapsed_of_le ht, hm, he, h1]
  have hslot : isSlotStart ((s.wrBit Ix.TileMuted 0 t true).raise 0x6C04 (t + 1) (packData [f8 t, fFlag true])).epoch = false := by
    rw [State.raise_epoch]
    exact hs
  simp only [State.tileMute, hf, if_neg hgoes, hslot, Bool.false_and, Bool.false_eq_true, if_false]

/-! The orderly shutdown (R415) -/

theorem State.shutdownDeadline_due {s : State} {n since : Nat} (hs : s.therm.shut = some ⟨n, since, none⟩) (ht : since + msec 50 ≤ s.now) :
    s.shutdownDeadline = { s with therm := { s.therm with holdOff := true, shut := some ⟨n, since, some s.now⟩ } } := by
  simp only [State.shutdownDeadline, State.shutdownActs, hs, State.elapsed_of_le ht, Bool.true_or, if_true]

theorem State.shutdownBiasClear_due {s : State} {n since t : Nat} (hs : s.therm.shut = some ⟨n, since, some t⟩) (ht : t + usec 5 ≤ s.now) :
    s.shutdownBiasClear = (({ s with therm := { s.therm with shut := none } } : State).clearBegins 3).causeActive 1 := by
  simp only [State.shutdownBiasClear, hs, State.elapsed_of_le ht, if_true]

/-! Faults, leases and the log (R418, R423 to R425) -/

theorem State.detectFault_sound {s : State} {p : Nat} (hf : s.rd Ix.PathFault (p + 1) = 0) (hd : (s.path p).faultDue = 0) (reason : Nat) :
    s.detectFault p reason = s.setPath p { s.path p with faultDue := reason } := by
  rw [State.detectFault]
  exact if_pos ⟨hf, hd⟩

theorem State.writeScalar_pathFaultClear {m : State} {p : Nat} (hp : p < 64) (hf : m.rd Ix.PathFault (p + 1) ≠ 0) :
    m.writeScalar Ix.PathFaultClear 0 p = .ok (m.setPath p { m.path p with retestDue := true }) := by
  have hone : ¬(64 ≤ p ∧ p ≠ 0xFF) := by omega
  have hall : p ≠ 0xFF := by omega
  simp only [State.writeScalar, State.scalarAct, Ix.PathFaultClear, Option.getD_some, State.pathFaultClear, if_neg hone, if_neg hall,
    List.filter_cons, bne_iff_ne.2 hf, if_true, List.filter_nil, List.foldl_cons, List.foldl_nil]

/-- A DMA channel that has completed is left as it is when its lease ends (R350). -/
theorem State.dmaAbortWith_done {s : State} {n : Nat} (h : s.dmaState n = 3) (reason : Nat) : s.dmaAbortWith n reason = s := by
  simp [State.dmaAbortWith, h]

/-- The lease of a completed DMA channel, whose owner is no function of its own, ends: nothing but the lease goes (R425). -/
theorem State.endLease_done {s : State} {l : Lease} {r : Nat} (hl : s.leaseOf r = some l) (ho : l.owner / 0x1000000 ≠ 5) (hr : r / 256 = 1)
    (hd : s.dmaState (r % 256) = 3) (reason : Nat) : s.endLease l reason
      = (({ s with leases := s.leases.filter (fun x => x.resource != l.resource) } : State).bump Ix.LeaseEnds 0).raise 0x7003 0
          (packData [f16 l.resource, f8 reason, f8 (l.owner / 0x1000000), f16 l.owner]) := by
  have hres : l.resource = r := by simpa using List.find?_some hl
  simp [State.endLease, State.restoreResource, State.functionEnds, State.freeLease, hres, hr, State.dmaAbortWith_done hd, ho]

theorem State.writeScalar_leaseRevoke {m : State} {r : Nat} {l : Lease} (hl : m.leaseOf r = some l) :
    m.writeScalar Ix.LeaseRevoke 0 r = .ok (m.endLease l 4) := by
  simp only [State.writeScalar, State.scalarAct, Ix.LeaseRevoke, Option.getD_some, State.leaseRevoke, hl]

theorem State.writeScalar_faultLogClear (m : State) : m.writeScalar Ix.FaultLogClear 0 1 = .ok { m with ev := { m.ev with log := [] } } := by
  simp only [State.writeScalar, State.scalarAct, Ix.FaultLogClear, Option.getD_some, State.faultLogClear, if_true]

/-- Settles O58: each step is the lemma named for it; the host's commands are performed on the state that meets them. -/
theorem heatAndFaultsAreHandled : Obligations.HeatAndFaultsAreHandled := by
  unfold Obligations.HeatAndFaultsAreHandled
  refine ⟨?grace, ?step, ?mute, ?deadline, ?clears, ?driver, ?retest, ?revoke, ?log⟩
  case grace =>
    exact fun s n t v hv hg ht => ⟨fun hm hc => congrArg Host.Outcome.next (State.throttleGrace_enforces hv hg ht hm hc),
      fun hc => congrArg Host.Outcome.next (State.throttleGrace_lapses hv hg ht hc)⟩
  case step =>
    exact fun s n v hv hm ht => ⟨fun he => congrArg Host.Outcome.next (State.throttleStep_up hv hm ht he),
      fun he hc hr => congrArg Host.Outcome.next (State.throttleStep_down hv hm ht he hc hr)⟩
  case mute =>
    rintro s u t since hf hd ht hm he h1 hs rfl
    exact congrArg Host.Outcome.next (State.tileMute_due hf hd ht hm he h1 hs)
  case deadline => exact fun s n since hs ht => congrArg Host.Outcome.next (State.shutdownDeadline_due hs ht)
  case clears => exact fun s n since t hs ht => congrArg Host.Outcome.next (State.shutdownBiasClear_due hs ht)
  case driver => exact fun s p hf hd => congrArg Host.Outcome.next (State.detectFault_sound hf hd 1)
  case retest =>
    rintro s m w p rfl hp ho hf
    exact congrArg Host.Outcome.next (ho.runSame rfl (State.writeScalar_pathFaultClear hp hf) rfl rfl)
  case revoke =>
    rintro s m w r l rfl ho hl hown hr hd
    have hends := State.endLease_done hl hown hr hd 4
    have hact := (State.writeScalar_leaseRevoke hl).trans (congrArg Except.ok hends)
    exact congrArg Host.Outcome.next (ho.runSame rfl hact (by simp) (by simp))
  case log =>
    rintro s m w rfl ho
    exact congrArg Host.Outcome.next (ho.runSame rfl (State.writeScalar_faultLogClear _) rfl rfl)

end Sys2Proof.Machine
end

section
/-! Strobes, clears and limits of the bias outputs, and the statement of 18_housekeeping_bias_thermal.md on them (R403, R405, R407). -/
namespace Sys2Proof.Machine

/-! Bits and tables -/

/-- A number whose bit has been written, as its parts above and below the bit. -/
theorem setBit_eq (v i : Nat) (b : Bool) : setBit v i b = 2 ^ i * (2 * (v / 2 ^ i / 2) + b.toNat) + v % 2 ^ i := by
  have hv := Nat.div_add_mod v (2 ^ i)
  have hq := Nat.div_add_mod (v / 2 ^ i) 2
  have hsplit : v = 2 ^ i * (2 * (v / 2 ^ i / 2)) + v / 2 ^ i % 2 * 2 ^ i + v % 2 ^ i := by
    conv_lhs => rw [← hv, ← hq]
    ring
  have hcleared : v - v / 2 ^ i % 2 * 2 ^ i = 2 ^ i * (2 * (v / 2 ^ i / 2)) + v % 2 ^ i := by omega
  cases b
  · simp [setBit, hcleared]
  · simp only [setBit, hcleared, if_true, Bool.toNat_true]
    ring

theorem bitAt_eq_testBit (v i : Nat) : bitAt v i = v.testBit i := by
  rw [bitAt, Nat.testBit_eq_decide_div_mod_eq]
  rfl

/-- A bit reads as it was written, and every other bit as before. -/
theorem bitAt_setBit_eq (v i j : Nat) (b : Bool) : bitAt (setBit v i b) j = if j = i then b else bitAt v j := by
  have hlow : v % 2 ^ i < 2 ^ i := Nat.mod_lt _ (Nat.two_pow_pos i)
  have hv := Nat.div_add_mod v (2 ^ i)
  simp only [bitAt_eq_testBit]
  rw [setBit_eq, Nat.testBit_two_pow_mul_add _ hlow]
  rcases Nat.lt_trichotomy j i with hlt | rfl | hgt
  · simp [hlt, hlt.ne]
  · cases b <;> simp
  · obtain ⟨k, hk⟩ : ∃ k, j - i = k + 1 := ⟨j - i - 1, by omega⟩
    have hup : ∀ b : Bool, (2 * (v / 2 ^ i / 2) + b.toNat) / 2 = v / 2 ^ i / 2 := by
      intro b
      cases b
      · simp
      · rw [Bool.toNat_true]
        omega
    have hj : i + (k + 1) = j := by omega
    rw [if_neg (Nat.not_lt.2 hgt.le), if_neg hgt.ne', hk, Nat.testBit_succ, hup, ← Nat.testBit_succ, Nat.testBit_div_two_pow, Nat.add_comm, hj]

theorem State.rdBit_wrBit (s : State) (index sub i j : Nat) (b : Bool) :
    (s.wrBit index sub i b).rdBit index sub j = if j = i then b else s.rdBit index sub j := by
  rw [State.rdBit, State.wrBit, State.rd_wr_same, bitAt_setBit_eq]
  rfl

theorem thas_tdel_ne {α : Type} {k j : Nat} (h : j ≠ k) (t : Tab α) : thas j (tdel k t) = thas j t := by
  induction t with
  | nil => rfl
  | cons c t ih =>
    by_cases hc : c.1 = k
    · have hj : (k == j) = false := by simpa using h.symm
      simpa [thas, tdel, hc, hj] using ih
    · simpa [thas, tdel, hc] using congrArg (fun b => c.1 == j || b) ih

theorem thas_tadd_ne {α : Type} {k j : Nat} (h : j ≠ k) (v : α) (t : Tab α) : thas j (tadd k v t) = thas j t := by
  have hk : (k == j) = false := by simpa using h.symm
  induction t with
  | nil => simp [thas, tadd, hk]
  | cons c t ih =>
    unfold tadd
    split
    · simp [thas, hk]
    · simpa [thas] using congrArg (fun b => c.1 == j || b) ih

theorem thas_tins_ne {α : Type} {k j : Nat} (h : j ≠ k) (v : α) (t : Tab α) : thas j (tins k v t) = thas j t := by
  rw [tins, thas_tadd_ne h, thas_tdel_ne h]

theorem foldl_keeps {α β : Type} {P : β → Prop} {f : β → α → β} {l : List α} (hf : ∀ u, ∀ b ∈ l, P u → P (f u b)) {s : β} (hs : P s) :
    P (l.foldl f s) := by
  induction l generalizing s with
  | nil => exact hs
  | cons b l ih => exact ih (fun u x hx => hf u x (List.mem_cons_of_mem _ hx)) (hf s b List.mem_cons_self hs)

/-- An update in turn reaches what the update of one element gives, where every update keeps it and what it rests on. -/
theorem foldl_reaches {α β : Type} {P Q : β → Prop} {f : β → α → β} {l : List α} {a : α} (ha : a ∈ l) (hP : ∀ u, ∀ b ∈ l, P u → P (f u b))
    (hQ : ∀ u, ∀ b ∈ l, Q u → Q (f u b)) (hPQ : ∀ u, P u → Q (f u a)) {s : β} (hs : P s) : Q (l.foldl f s) := by
  induction l generalizing s with
  | nil => exact absurd ha List.not_mem_nil
  | cons b l ih =>
    rw [List.foldl_cons]
    rcases List.mem_cons.1 ha with rfl | hmem
    · exact foldl_keeps (fun u x hx => hQ u x (List.mem_cons_of_mem _ hx)) (hPQ s hs)
    · exact ih hmem (fun u x hx => hP u x (List.mem_cons_of_mem _ hx)) (fun u x hx => hQ u x (List.mem_cons_of_mem _ hx))
        (hP s b List.mem_cons_self hs)

/-! What the update of one channel leaves of another -/

/-- The entries of a channel that its strobes and clears read or write. -/
def channelEntries : List Nat := [Ix.BiasCode, Ix.BiasRange, Ix.BiasClearCode, Ix.BiasCodeNow, Ix.BiasRangeNow, Ix.BiasStatus]

/-- A channel's entries, its tuner's code, the clears and its place among the held are as in another state. -/
structure State.KeepsChannel (n : Nat) (s t : State) : Prop where
  entries : ∀ i ∈ channelEntries, t.rd i (n + 1) = s.rd i (n + 1)
  tuner : t.rd Ix.TunerCodeNow (n - 63) = s.rd Ix.TunerCodeNow (n - 63)
  held : thas n t.bias.held = thas n s.bias.held
  clears : t.bias.clears = s.bias.clears

theorem State.KeepsChannel.refl (n : Nat) (s : State) : State.KeepsChannel n s s := ⟨fun _ _ => rfl, rfl, rfl, rfl⟩

section
variable {n m : Nat} {s t : State} (h : State.KeepsChannel n s t) (hn : n < 144) (hm : m < 144) (hne : n ≠ m)
include h

include hn hm hne in
theorem State.KeepsChannel.wr {index : Nat} (hi : index ≠ Ix.TunerCodeNow) (v : Nat) : State.KeepsChannel n s (t.wr index (m + 1) v) := by
  refine ⟨fun i hi => ?_, ?_, h.held, h.clears⟩
  · have hkey : ck i (n + 1) ≠ ck index (m + 1) := by
      unfold ck
      omega
    exact (State.rd_wr_ne hkey).trans (h.entries i hi)
  · exact (State.rd_wr_ne (ck_ne_index (by omega) (by omega) hi.symm)).trans h.tuner

include hn hm hne in
theorem State.KeepsChannel.wrBit {index : Nat} (hi : index ≠ Ix.TunerCodeNow) (bit : Nat) (b : Bool) :
    State.KeepsChannel n s (t.wrBit index (m + 1) bit b) := h.wr hn hm hne hi _

include hne in
theorem State.KeepsChannel.hold (now : Nat) : State.KeepsChannel n s { t with bias := { t.bias with held := tins m now t.bias.held } } :=
  ⟨h.entries, h.tuner, (thas_tins_ne hne _ _).trans h.held, h.clears⟩

include hne in
theorem State.KeepsChannel.release : State.KeepsChannel n s { t with bias := { t.bias with held := tdel m t.bias.held } } :=
  ⟨h.entries, h.tuner, (thas_tdel_ne hne _).trans h.held, h.clears⟩

include hn in
theorem State.KeepsChannel.raise (code sub data : Nat) : State.KeepsChannel n s (t.raise code sub data) := by
  have hbias : ∀ i ∈ channelEntries, i ≠ Ix.EventsLost ∧ i ≠ Ix.FaultLogOverwrites := by decide
  refine ⟨fun i hi => ?_, ?_, (by rw [State.raise_bias]; exact h.held), (by rw [State.raise_bias]; exact h.clears)⟩
  · exact (State.rd_raise (ck_notMem_eventCounters (by omega) (hbias i hi)) _ _ _).trans (h.entries i hi)
  · exact (State.rd_raise (ck_notMem_eventCounters (by omega) (by decide)) _ _ _).trans h.tuner

end

section
variable {n m : Nat} {s : State} (hn : n < 144) (hm : m < 144) (hne : n ≠ m)
include hn hm hne

theorem State.rangeDone_keepsChannel {t : State} (h : State.KeepsChannel n s t) : State.KeepsChannel n s (t.rangeDone m) :=
  (((((h.release hne).wr hn hm hne (by decide) _).wr hn hm hne (by decide) _).wrBit hn hm hne (by decide) _ _).wrBit hn hm hne (by decide) _
    _).raise hn _ _ _

/-- The strobe of one channel leaves the others (R403). -/
theorem State.strobeChannel_keepsChannel : State.KeepsChannel n s (s.strobeChannel m) := by
  have hstrobed := (State.KeepsChannel.refl n s).wrBit (t := s) hn hm hne (index := Ix.BiasStatus) (by decide) 1 false
  unfold State.strobeChannel
  dsimp only
  split
  · exact hstrobed
  · split
    · split
      · exact State.rangeDone_keepsChannel hn hm hne hstrobed
      · exact hstrobed
    · split
      · exact (hstrobed.hold hne _).wrBit hn hm hne (by decide) _ _
      · split
        · exact hstrobed.wr hn hm hne (by decide) _
        · exact (hstrobed.wr hn hm hne (by decide) _).wrBit hn hm hne (by decide) _ _

end

theorem State.KeepsChannel.biasCode {n : Nat} {s t : State} (h : State.KeepsChannel n s t) : t.biasCode n = s.biasCode n := by
  rw [State.biasCode, State.biasCode, h.tuner, h.entries _ (by decide)]

theorem State.KeepsChannel.status {n : Nat} {s t : State} (h : State.KeepsChannel n s t) (bit : Nat) :
    t.rdBit Ix.BiasStatus (n + 1) bit = s.rdBit Ix.BiasStatus (n + 1) bit := by
  rw [State.rdBit, State.rdBit, h.entries _ (by decide)]

/-! Strobes (R403) -/

/-- A channel that a strobe loads with a code: neither clamped nor held, its range in force, no clear holding. -/
structure State.Loads (n c : Nat) (s : State) : Prop where
  clears : s.bias.clears = 0
  free : thas n s.bias.held = false
  clamp : s.rdBit Ix.BiasStatus (n + 1) 0 = false
  range : s.rd Ix.BiasRange (n + 1) = s.rd Ix.BiasRangeNow (n + 1)
  code : s.biasCode n = c

/-- A channel that has been loaded with a code, and could be again. -/
structure State.Loaded (n c : Nat) (s : State) : Prop where
  loads : s.Loads n c
  drives : s.rd Ix.BiasCodeNow (n + 1) = c
  armed : s.rdBit Ix.BiasStatus (n + 1) 1 = false
  cleared : s.rdBit Ix.BiasStatus (n + 1) 3 = false

theorem State.Loads.kept {n c : Nat} {s t : State} (h : s.Loads n c) (k : State.KeepsChannel n s t) : t.Loads n c :=
  ⟨k.clears.trans h.clears, k.held.trans h.free, (k.status 0).trans h.clamp,
    ((k.entries _ (by decide)).trans h.range).trans (k.entries _ (by decide)).symm, k.biasCode.trans h.code⟩

theorem State.Loaded.kept {n c : Nat} {s t : State} (h : s.Loaded n c) (k : State.KeepsChannel n s t) : t.Loaded n c :=
  ⟨h.loads.kept k, (k.entries _ (by decide)).trans h.drives, (k.status 1).trans h.armed, (k.status 3).trans h.cleared⟩

theorem State.Loads.strobed {n c : Nat} {s : State} (h : s.Loads n c) (hn : n < 144) : (s.strobeChannel n).Loaded n c := by
  have hother : ∀ (t : State) (i v : Nat), i ≠ Ix.BiasStatus → (t.wr Ix.BiasStatus (n + 1) v).rd i (n + 1) = t.rd i (n + 1) := fun t i v hi =>
    State.rd_wr_ne (ck_ne_index (by omega) (by omega) hi)
  have hcode : ∀ (t : State) (i v : Nat), i ≠ Ix.BiasCodeNow → (t.wr Ix.BiasCodeNow (n + 1) v).rd i (n + 1) = t.rd i (n + 1) := fun t i v hi =>
    State.rd_wr_ne (ck_ne_index (by omega) (by omega) hi)
  have hbiasCode : (s.wrBit Ix.BiasStatus (n + 1) 1 false).biasCode n = c := by
    rw [← h.code, State.biasCode, State.biasCode, State.wrBit, hother _ _ _ (by decide),
      State.rd_wr_ne (ck_ne_index (by omega) (by omega) (by decide))]
  have hstrobe : s.strobeChannel n
      = ((s.wrBit Ix.BiasStatus (n + 1) 1 false).wr Ix.BiasCodeNow (n + 1) c).wrBit Ix.BiasStatus (n + 1) 3 false := by
    have hclamp : (s.wrBit Ix.BiasStatus (n + 1) 1 false).rdBit Ix.BiasStatus (n + 1) 0 = false := by
      rw [State.rdBit_wrBit]
      exact h.clamp
    have hheld : thas n (s.wrBit Ix.BiasStatus (n + 1) 1 false).bias.held = false := h.free
    have hclears : (s.wrBit Ix.BiasStatus (n + 1) 1 false).bias.clears = 0 := h.clears
    have hrange : (s.wrBit Ix.BiasStatus (n + 1) 1 false).rd Ix.BiasRange (n + 1)
        = (s.wrBit Ix.BiasStatus (n + 1) 1 false).rd Ix.BiasRangeNow (n + 1) := by
      rw [State.wrBit, hother _ _ _ (by decide), hother _ _ _ (by decide)]
      exact h.range
    simp only [State.strobeChannel, hclamp, hheld, hrange, hclears, hbiasCode, ne_eq, not_true_eq_false, Bool.false_eq_true, if_false]
  have hstatus : ∀ bit, (s.strobeChannel n).rdBit Ix.BiasStatus (n + 1) bit
      = if bit = 3 then false else if bit = 1 then false else s.rdBit Ix.BiasStatus (n + 1) bit := by
    intro bit
    rw [hstrobe, State.rdBit_wrBit, State.rdBit, hcode _ _ _ (by decide), ← State.rdBit, State.rdBit_wrBit]
  have hentry : ∀ i, i ≠ Ix.BiasStatus → i ≠ Ix.BiasCodeNow → (s.strobeChannel n).rd i (n + 1) = s.rd i (n + 1) := by
    intro i hs hc
    rw [hstrobe, State.wrBit, hother _ _ _ hs, hcode _ _ _ hc, State.wrBit, hother _ _ _ hs]
  refine ⟨⟨?_, ?_, ?_, ?_, ?_⟩, ?_, (hstatus 1).trans rfl, (hstatus 3).trans rfl⟩
  · rw [hstrobe]
    exact h.clears
  · rw [hstrobe]
    exact h.free
  · exact (hstatus 0).trans h.clamp
  · exact ((hentry _ (by decide) (by decide)).trans h.range).trans (hentry _ (by decide) (by decide)).symm
  · have htuner : (s.strobeChannel n).rd Ix.TunerCodeNow (n - 63) = s.rd Ix.TunerCodeNow (n - 63) := by
      have hkey : ∀ (t : State) (i v : Nat), i ≠ Ix.TunerCodeNow → (t.wr i (n + 1) v).rd Ix.TunerCodeNow (n - 63) = t.rd Ix.TunerCodeNow (n - 63) :=
        fun t i v hi => State.rd_wr_ne (ck_ne_index (by omega) (by omega) hi.symm)
      rw [hstrobe, State.wrBit, hkey _ _ _ (by decide), hkey _ _ _ (by decide), State.wrBit, hkey _ _ _ (by decide)]
    rw [← h.code, State.biasCode, State.biasCode, htuner, hentry _ (by decide) (by decide)]
  · rw [hstrobe, State.wrBit, hother _ _ _ (by decide), State.rd_wr_same]

theorem State.Loads.strobe {n m c : Nat} {s : State} (h : s.Loads n c) (hn : n < 144) (hm : m < 144) : (s.strobeChannel m).Loads n c := by
  by_cases hne : n = m
  · exact hne ▸ (h.strobed hn).loads
  · exact h.kept (State.strobeChannel_keepsChannel hn hm hne)

theorem State.Loaded.strobe {n m c : Nat} {s : State} (h : s.Loaded n c) (hn : n < 144) (hm : m < 144) : (s.strobeChannel m).Loaded n c := by
  by_cases hne : n = m
  · exact hne ▸ h.loads.strobed hn
  · exact h.kept (State.strobeChannel_keepsChannel hn hm hne)

/-- The channels of a group. -/
theorem mem_groupChannels {g m : Nat} : m ∈ (List.range 16).map (· + 16 * g) ↔ m / 16 = g := by
  simp only [List.mem_map, List.mem_range]
  constructor
  · rintro ⟨k, hk, rfl⟩
    omega
  · rintro rfl
    exact ⟨m % 16, by omega, by omega⟩

theorem lt_of_mem_groupChannels {g m : Nat} (hg : g < 9) (hm : m ∈ (List.range 16).map (· + 16 * g)) : m < 144 := by
  have hgroup := mem_groupChannels.1 hm
  omega

section
variable {n c : Nat} {s : State} (hn : n < 144)
include hn

theorem State.Loads.strobeGroup {g : Nat} (h : s.Loads n c) (hg : g < 9) : (s.strobeGroup g).Loads n c := by
  rw [State.strobeGroup, State.forEach]
  exact foldl_keeps (P := State.Loads n c) (fun u m hm hu => hu.strobe hn (lt_of_mem_groupChannels hg hm)) h

theorem State.Loaded.strobeGroup {g : Nat} (h : s.Loaded n c) (hg : g < 9) : (s.strobeGroup g).Loaded n c := by
  rw [State.strobeGroup, State.forEach]
  exact foldl_keeps (P := State.Loaded n c) (fun u m hm hu => hu.strobe hn (lt_of_mem_groupChannels hg hm)) h

/-- A strobe of its group loads a channel. -/
theorem State.Loads.strobedGroup (h : s.Loads n c) : (s.strobeGroup (n / 16)).Loaded n c := by
  have hg : n / 16 < 9 := by omega
  rw [State.strobeGroup, State.forEach]
  exact foldl_reaches (P := State.Loads n c) (Q := State.Loaded n c) (a := n) (mem_groupChannels.2 rfl)
    (fun u m hm hu => hu.strobe hn (lt_of_mem_groupChannels hg hm)) (fun u m hm hu => hu.strobe hn (lt_of_mem_groupChannels hg hm))
    (fun u hu => hu.strobed hn) h

/-- BLOAD_N loads a channel of a group that it strobes: the strobes of other groups keep what is to be loaded and what is. -/
theorem State.bloadFalls_loads (hg : s.byBload (n / 16) = true) (h : s.Loads n c) : s.bloadFalls.Loaded n c := by
  have hlapse : s.biasLapse = s := by rw [State.biasLapse, if_pos h.clears]
  have hown : n / 16 ∈ (List.range 9).filter s.byBload := List.mem_filter.2 ⟨List.mem_range.2 (by omega), hg⟩
  have hgroup : ∀ g ∈ (List.range 9).filter s.byBload, g < 9 := fun g hm => List.mem_range.1 (List.mem_of_mem_filter hm)
  rw [State.bloadFalls, hlapse, State.forEach]
  exact foldl_reaches (P := State.Loads n c) (Q := State.Loaded n c) hown (fun u g hm hu => hu.strobeGroup hn (hgroup g hm))
    (fun u g hm hu => hu.strobeGroup hn (hgroup g hm)) (fun u hu => hu.strobedGroup hn) h

end

/-! Clears (R405) -/

/-- What a clear does to one channel that no range change holds: it drives its clear code, unless it is clamped. -/
def State.clearChannel (s : State) (n : Nat) : State :=
  if s.rdBit Ix.BiasStatus (n + 1) 0 then s
  else (s.wr Ix.BiasCodeNow (n + 1) (s.rd Ix.BiasClearCode (n + 1))).wrBit Ix.BiasStatus (n + 1) 3 true

theorem State.clearChannel_bias (s : State) (n : Nat) : (s.clearChannel n).bias = s.bias := by
  unfold State.clearChannel
  split <;> rfl

theorem State.driveClear_eq {s : State} (h : s.bias.held = []) : s.driveClear = allChannels.foldl State.clearChannel s := by
  have hgo : ∀ (l : List Nat) (u : State), u.bias.held = [] → l.foldl (fun s n =>
      if s.rdBit Ix.BiasStatus (n + 1) 0 then s
      else if thas n s.bias.held then s.wrBit Ix.BiasStatus (n + 1) 3 true
      else (s.wr Ix.BiasCodeNow (n + 1) (s.rd Ix.BiasClearCode (n + 1))).wrBit Ix.BiasStatus (n + 1) 3 true) u = l.foldl State.clearChannel u := by
    intro l
    induction l with
    | nil => exact fun _ _ => rfl
    | cons n l ih =>
      intro u hu
      have hfree : thas n u.bias.held = false := by rw [hu]; rfl
      have hbias := State.clearChannel_bias u n
      rw [State.clearChannel] at hbias
      rw [List.foldl_cons, List.foldl_cons]
      simp only [hfree, Bool.false_eq_true, if_false]
      rw [ih _ (by rw [hbias]; exact hu)]
      rfl
  exact hgo allChannels s h

theorem State.driveClear_bias {s : State} (h : s.bias.held = []) : s.driveClear.bias = s.bias := by
  rw [State.driveClear_eq h, foldl_same State.clearChannel_bias]

/-- A channel to be cleared to a code. -/
structure State.Clears (n c : Nat) (s : State) : Prop where
  clamp : s.rdBit Ix.BiasStatus (n + 1) 0 = false
  code : s.rd Ix.BiasClearCode (n + 1) = c

/-- A channel that has been. -/
structure State.Cleared (n c : Nat) (s : State) : Prop where
  clears : s.Clears n c
  drives : s.rd Ix.BiasCodeNow (n + 1) = c
  shown : s.rdBit Ix.BiasStatus (n + 1) 3 = true

theorem State.Clears.done {n c : Nat} {s : State} (h : s.Clears n c) (hn : n < 144) : (s.clearChannel n).Cleared n c := by
  have hkey : ∀ (t : State) (i j v : Nat), i ≠ j → (t.wr j (n + 1) v).rd i (n + 1) = t.rd i (n + 1) := fun t i j v hi =>
    State.rd_wr_ne (ck_ne_index (by omega) (by omega) hi)
  have hclear : s.clearChannel n = (s.wr Ix.BiasCodeNow (n + 1) c).wrBit Ix.BiasStatus (n + 1) 3 true := by
    simp only [State.clearChannel, h.clamp, h.code, Bool.false_eq_true, if_false]
  have hstatus : ∀ bit, (s.clearChannel n).rdBit Ix.BiasStatus (n + 1) bit = if bit = 3 then true else s.rdBit Ix.BiasStatus (n + 1) bit := by
    intro bit
    rw [hclear, State.rdBit_wrBit, State.rdBit, hkey _ _ _ _ (by decide), ← State.rdBit]
  refine ⟨⟨(hstatus 0).trans h.clamp, ?_⟩, ?_, (hstatus 3).trans rfl⟩
  · rw [hclear, State.wrBit, hkey _ _ _ _ (by decide), hkey _ _ _ _ (by decide)]
    exact h.code
  · rw [hclear, State.wrBit, hkey _ _ _ _ (by decide), State.rd_wr_same]

theorem State.clearChannel_keepsChannel {n m : Nat} {s : State} (hn : n < 144) (hm : m < 144) (hne : n ≠ m) :
    State.KeepsChannel n s (s.clearChannel m) := by
  unfold State.clearChannel
  split
  · exact State.KeepsChannel.refl n s
  · exact ((State.KeepsChannel.refl n s).wr hn hm hne (by decide) _).wrBit hn hm hne (by decide) _ _

theorem State.Clears.kept {n c : Nat} {s t : State} (h : s.Clears n c) (k : State.KeepsChannel n s t) : t.Clears n c :=
  ⟨(k.status 0).trans h.clamp, (k.entries _ (by decide)).trans h.code⟩

theorem State.Cleared.kept {n c : Nat} {s t : State} (h : s.Cleared n c) (k : State.KeepsChannel n s t) : t.Cleared n c :=
  ⟨h.clears.kept k, (k.entries _ (by decide)).trans h.drives, (k.status 3).trans h.shown⟩

theorem State.driveClear_clears {n c : Nat} {s : State} (hn : n < 144) (hh : s.bias.held = []) (h : s.Clears n c) : s.driveClear.Cleared n c := by
  have hchannel : ∀ {m : Nat}, m ∈ allChannels → m < 144 := fun hm => List.mem_range.1 hm
  rw [State.driveClear_eq hh]
  refine foldl_reaches (P := State.Clears n c) (Q := State.Cleared n c) (List.mem_range.2 hn) (fun u m hm hu => ?_) (fun u m hm hu => ?_)
    (fun u hu => hu.done hn) h
  · by_cases hne : n = m
    · exact hne ▸ (hu.done hn).clears
    · exact hu.kept (State.clearChannel_keepsChannel hn (hchannel hm) hne)
  · by_cases hne : n = m
    · exact hne ▸ hu.clears.done hn
    · exact hu.kept (State.clearChannel_keepsChannel hn (hchannel hm) hne)

/-- The state in which a condition that clears the outputs has been noted. -/
def State.clearNoted (s : State) (cause : Nat) : State :=
  { s with bias := { s.bias with clears := setBit s.bias.clears (cause - 1) true } }

theorem State.clearNoted_held {s : State} (h : s.bias.held = []) (cause : Nat) : (s.clearNoted cause).bias.held = [] := h

/-- With no channel in a range change, a clear that begins drives the clear codes, and nothing lapses. -/
theorem State.clearBegins_eq {s : State} {cause : Nat} (hc : bitAt s.bias.clears (cause - 1) = false) (hh : s.bias.held = []) :
    s.clearBegins cause = (s.clearNoted cause).driveClear.raise 0x6805 0 (packData [f8 cause, fFlag true]) := by
  have hlapse : ∀ u : State, u.bias.held = [] → u.biasLapse = u := by
    intro u hu
    unfold State.biasLapse
    split
    · rfl
    · rw [hu]
      rfl
  have hheld : (s.clearNoted cause).driveClear.bias.held = [] := by
    rw [State.driveClear_bias (State.clearNoted_held hh cause)]
    exact hh
  have hbegins : s.clearBegins cause = (s.clearNoted cause).driveClear.biasLapse.raise 0x6805 0 (packData [f8 cause, fFlag true]) := by
    rw [State.clearBegins, hc]
    rfl
  rw [hbegins, hlapse _ hheld]

theorem State.clearEnds_last {s : State} (hc : s.bias.clears = 1) (hh : s.bias.held = []) :
    s.clearEnds 1 = ({ s with bias := { s.bias with clears := 0 } } : State).raise 0x6805 0 (packData [f8 1, fFlag false]) := by
  have hlapse : s.biasLapse = s := by
    unfold State.biasLapse
    rw [hh]
    exact ite_self s
  have hbit : bitAt 1 (1 - 1) = true := rfl
  have hnone : setBit 1 (1 - 1) false = 0 := rfl
  simp only [State.clearEnds, hc, hlapse, hbit, hnone, Bool.not_true, Bool.false_eq_true, if_false, if_true]

/-- Settles O57: a strobe loads a channel and later strobes keep it so (`State.bloadFalls_loads`), and so for clears (`State.driveClear_clears`). -/
theorem biasOutputsFollow : Obligations.BiasOutputsFollow := by
  unfold Obligations.BiasOutputsFollow
  refine ⟨?load, ?clear, ?rise, ?short, ?shortEnds⟩
  case load =>
    intro s n hn hg hh hc hclamp hrange
    have hloaded := State.bloadFalls_loads hn hg ⟨hc, by rw [hh]; rfl, hclamp, hrange, rfl⟩
    exact ⟨_, rfl, hloaded.drives, hloaded.armed, hloaded.cleared⟩
  case clear =>
    intro s hc hh
    refine ⟨_, congrArg Host.Outcome.next (State.clearBegins_eq (cause := 1) hc hh), ?_, fun n hn hclamp => ?_⟩
    · rw [State.raise_bias]
      rw [State.driveClear_bias (State.clearNoted_held hh 1)]
      exact bitAt_setBit _ _
    · have hcleared := State.driveClear_clears (s := s.clearNoted 1) hn (State.clearNoted_held hh 1) ⟨hclamp, rfl⟩
      have hdone := hcleared.kept ((State.KeepsChannel.refl n _).raise hn 0x6805 0 (packData [f8 1, fFlag true]))
      exact ⟨hdone.drives, hdone.shown⟩
  case rise => exact fun s hc hh => congrArg Host.Outcome.next (State.clearEnds_last hc hh)
  case short =>
    intro s n hb
    refine congrArg Host.Outcome.next ?_
    rw [State.biasShort, hb]
    rfl
  case shortEnds =>
    intro s n hb
    refine congrArg Host.Outcome.next ?_
    rw [State.biasShortClear, if_pos hb]

end Sys2Proof.Machine
end

section
/-! Bring-up, ports that go down, lanes and bonds, and the statements of 12_link_physical.md on them (R287 to R295, R298, R302). -/
namespace Sys2Proof.Machine

theorem State.setPort_setPort (s : State) (p : Nat) (v w : PortSys) : (s.setPort p v).setPort p w = s.setPort p w := by
  simp only [State.setPort, tins_tins]

@[simp] theorem State.setPort_now (s : State) (p : Nat) (v : PortSys) : (s.setPort p v).now = s.now := rfl
@[simp] theorem State.linkState_setPort (s : State) (p q : Nat) (v : PortSys) : (s.setPort p v).linkState q = s.linkState q := rfl
@[simp] theorem State.lanesInService_setPort (s : State) (p q : Nat) (v : PortSys) : (s.setPort p v).lanesInService q = s.lanesInService q := rfl
@[simp] theorem State.setPort_fixed (s : State) (p : Nat) (v : PortSys) : (s.setPort p v).link.fixed = s.link.fixed := rfl

/-! Bring-up (R291, R292) -/

theorem State.detectPulse_due {s : State} {p : Nat} (hs : s.linkState p = 1) (ht : (s.port p).since + usec 100 ≤ s.now) (found : Nat) :
    s.detectPulse p found = if 8 ≤ (allLanes.filter (bitAt found)).length
      then ((s.clearLanes p).enterPort p 2).wr Ix.LinkRateInForce (p + 1) (((s.clearLanes p).enterPort p 2).profileRate p)
      else s.setPort p { s.port p with since := s.now } := by
  rw [State.detectPulse]
  exact if_pos ⟨hs, State.elapsed_of_le ht⟩

theorem State.trainDone_due {s : State} {p : Nat} (hs : s.linkState p = 2) (ht : (s.port p).since + usec 20 ≤ s.now) :
    s.trainDone p true = (s.enterPort p 3).setPort p
      { (s.enterPort p 3).port p with readySeen := false, readySent := false, ackAt := none, ackSeen := false } := by
  rw [State.trainDone]
  exact if_pos ⟨hs, rfl, State.elapsed_of_le ht⟩

/-- READY of the far end, once eight lanes are in service, leads to CAPS. -/
theorem State.lockIn_ready {s : State} {p : Nat} (hs : s.linkState p = 3) (hp : p = 0 ∨ s.link.fixed = true) (h8 : 8 ≤ (s.lanesInService p).length) :
    s.lockIn p true 0 [] = (s.setPort p { s.port p with readySeen := true, readySent := true }).enterPort p 4 := by
  have hnone : allLanes.filter (bitAt 0) = [] := by decide
  have hown : ((0 : Nat) != 0) = false := rfl
  simp only [State.lockIn, State.judgeReady, hs, hnone, List.foldl_nil, hown, Bool.or_true, Bool.or_false, State.linkState_setPort,
    State.lanesInService_setPort, State.setPort_fixed, State.port_setPort, State.setPort_setPort, hp, h8, and_self, if_true]

theorem filter_bitAt_two_pow {k : Nat} (h : k < 9) : allLanes.filter (bitAt (2 ^ k)) = [k] := by
  revert k
  decide

theorem filter_lane_length {k : Nat} (h : k < 9) : (allLanes.filter (· == k)).length = 1 := by
  revert k
  decide

theorem laneIx_lt {p k : Nat} (hp : p < 2) (hk : k < 9) : laneIx p k < 256 := by
  unfold laneIx
  omega

/-- A lane that has locked and shown its skew. -/
def State.laneLocked (s : State) (p k skew : Nat) : State := (s.wr Ix.LaneState (laneIx p k) 1).wr Ix.LaneSkew (laneIx p k) skew

section
variable {s : State} {p k : Nat} (hp : p < 2) (hk : k < 9)
include hp hk

theorem State.laneLocked_laneState {j : Nat} (hj : j < 9) (skew : Nat) :
    (s.laneLocked p k skew).rd Ix.LaneState (laneIx p j) = if j = k then 1 else s.rd Ix.LaneState (laneIx p j) := by
  rw [State.laneLocked, State.rd_wr_ne (ck_ne_index (laneIx_lt hp hj) (laneIx_lt hp hk) (by decide))]
  split
  · next h => rw [h, State.rd_wr_same]
  · next h => exact State.rd_wr_ne (ck_ne_sub (by unfold laneIx; omega))

theorem State.laneLocked_linkState (skew : Nat) : (s.laneLocked p k skew).linkState p = s.linkState p := by
  rw [State.linkState, State.laneLocked, State.rd_wr_ne (ck_ne_index (by omega) (laneIx_lt hp hk) (by decide)),
    State.rd_wr_ne (ck_ne_index (by omega) (laneIx_lt hp hk) (by decide)), State.linkState]

theorem State.laneLocked_lanesInService (hnone : s.lanesInService p = []) (skew : Nat) : ((s.laneLocked p k skew).lanesInService p).length = 1 := by
  have hbefore : ∀ j ∈ allLanes, (s.rd Ix.LaneState (laneIx p j) == 1) ≠ true := List.filter_eq_nil_iff.1 hnone
  have hnow : (s.laneLocked p k skew).lanesInService p = allLanes.filter (· == k) := by
    refine List.filter_congr fun j hj => ?_
    rw [State.laneLocked_laneState hp hk (List.mem_range.1 hj)]
    by_cases hjk : j = k
    · simp [hjk]
    · have hno := hbefore j hj
      simp [hjk] at hno ⊢
      exact hno
  rw [hnow, filter_lane_length hk]

/-- A first lane that locks is shown with its skew, and the port waits for more (R292). -/
theorem State.lockIn_lane {skew : Nat} (hs : s.linkState p = 3) (hskew : skew < 256) (hnone : s.lanesInService p = [])
    (hsent : (s.port p).readySent = false) :
    s.lockIn p false (2 ^ k) (List.replicate k 0 ++ [skew]) = (s.laneLocked p k skew).setPort p { s.port p with synced := true } := by
  have hown : (2 ^ k != 0) = true := bne_iff_ne.2 (Nat.two_pow_pos k).ne'
  have hlast : (List.replicate k 0 ++ [skew]).getD k 0 % 256 = skew := by
    rw [List.getD_append_right _ _ _ _ (by simp)]
    simpa using Nat.mod_eq_of_lt hskew
  have hport : (s.laneLocked p k skew).port p = s.port p := rfl
  have hfew : ¬(8 ≤ ((s.laneLocked p k skew).lanesInService p).length) := by
    rw [State.laneLocked_lanesInService hp hk hnone]
    decide
  have hlocked : (allLanes.filter (bitAt (2 ^ k))).foldl (fun s j => (s.wr Ix.LaneState (laneIx p j) 1).wr Ix.LaneSkew (laneIx p j)
      ((List.replicate k 0 ++ [skew]).getD j 0 % 256)) s = s.laneLocked p k skew := by
    rw [filter_bitAt_two_pow hk, List.foldl_cons, List.foldl_nil, hlast]
    rfl
  simp only [State.lockIn, hs, if_true, hlocked, State.judgeReady, State.linkState_setPort, State.lanesInService_setPort, State.port_setPort, hport,
    hfew, hsent, hown, Bool.or_false, Bool.or_true, and_false, false_and, Bool.false_eq_true, if_false]

end

/-! CAPS (R292, Table 12.6) -/

theorem sliceBytes_whole {l : List Byte} {n : Nat} (h : l.length = n) : sliceBytes l 0 n = l.take n := by
  subst h
  simp [sliceBytes]

section
variable {s : State} {p : Nat} {l : List Byte} (hs : s.linkState p = 4) (hl : l.length = 64)
include hs hl

theorem State.capsIn_refused {reason : Nat} (ho : (s.setDom Ix.LinkFarCaps (p + 1) (l.take 64)).capsOutcome p l = .error reason) :
    s.capsIn p l = ((((s.setDom Ix.LinkFarCaps (p + 1) (l.take 64)).clearLanes p).enterPort p 6).wr Ix.LinkDownReason (p + 1) 22).raise 0x5006 (p + 1)
      (packData [f8 p, f8 reason]) := by
  simp only [State.capsIn, hs, if_true, sliceBytes_whole hl, ho]

theorem State.capsIn_accepted {x : Nat × Nat} (ho : (s.setDom Ix.LinkFarCaps (p + 1) (l.take 64)).capsOutcome p l = .ok x) :
    s.capsIn p l = (s.setDom Ix.LinkFarCaps (p + 1) (l.take 64)).setPort p { (s.setDom Ix.LinkFarCaps (p + 1) (l.take 64)).port p with
      ackAt := some (((s.setDom Ix.LinkFarCaps (p + 1) (l.take 64)).port p).ackAt.getD s.now)
      ackSeen := ((s.setDom Ix.LinkFarCaps (p + 1) (l.take 64)).port p).ackSeen || bitAt (fieldLE l 2 1) 0 } := by
  have hnow : (s.setDom Ix.LinkFarCaps (p + 1) (l.take 64)).now = s.now := by
    unfold State.setDom
    split
    · rfl
    · simp
  have hack : ∀ a : Option Nat, (if a.isSome = true then a else some s.now) = some (a.getD s.now) := fun a => by cases a <;> rfl
  simp only [State.capsIn, hs, if_true, sliceBytes_whole hl, ho, hnow, hack]

end

theorem State.scramblerFrame_due {s : State} {p since : Nat} (hs : s.linkState p = 4) (ha : (s.port p).ackAt = some since)
    (hseen : (s.port p).ackSeen = true) (ht : since + 16 * bondTime (s.rd Ix.LinkRateInForce (p + 1)) ≤ s.now) :
    s.scramblerFrame p = s.linkUp p := by
  simp only [State.scramblerFrame, ha, hs, hseen, State.elapsed_of_le ht, and_self, if_true]

/-- Bring-up that does not end in time is counted, and begins again (R291). -/
theorem State.portStateTimeout_due {s : State} {p t : Nat} (ht : portTimeout (s.linkState p) = some t) (hd : (s.port p).since + t ≤ s.now) :
    s.portStateTimeout p = ((s.portBack p).bump Ix.LinkTrainFails (p + 1)).wr Ix.LinkDownReason (p + 1) (16 + s.linkState p) := by
  simp only [State.portStateTimeout, ht, State.elapsed_of_le hd, if_true]

theorem State.failedTimeout_due {s : State} {p : Nat} (hs : s.linkState p = 6) (hd : (s.port p).since + msec 10 ≤ s.now) :
    s.failedTimeout p = s.portBack p := by
  rw [State.failedTimeout, if_pos ⟨hs, State.elapsed_of_le hd⟩]

/-! Going down, and the host's commands (R295) -/

theorem State.portBack_changes (s : State) (p : Nat) : s.changesOnly (s.portBack p) [.cat, .link, .ev] := (State.changesOnly.refl s _).portBack p

/-- PORT-N goes down. -/
theorem State.portDown_north {s u : State} (ha : s.linkState 0 = 5) (reason : Nat)
    (hu : u = { s.portBack 0 with link := { (s.portBack 0).link with
      ready := tdel 0 (s.portBack 0).link.ready, mems := (s.portBack 0).link.mems.filter (fun m => m.port != 0) } }) :
    s.portDown 0 reason = (((u.bump Ix.LinkDownCount 1).wr Ix.LinkDownReason 1 reason).wrEpoch Ix.LinkLastDown 1 s.epoch).raise 0x5002 1
      (packData [f8 0, f8 reason]) := by
  have hepoch : (s.portBack 0).epoch = s.epoch := s.portBack_changes 0 .epoch (by decide)
  rw [State.portDown, if_pos (State.portActive_of_linkState ha)]
  dsimp only
  rw [← hu, if_neg (by decide), hepoch, Nat.zero_add]

theorem State.portToOff_changes (s : State) (p reason : Nat) : s.changesOnly (s.portToOff p reason) [.cat, .link, .ev] := by
  have hdown := (State.changesOnly.refl s [.cat, .link, .ev]).portDown p reason
  exact .ite ((hdown.clearLanes p).enterPort p 0) hdown

theorem State.writeScalar_linkRetrain (m : State) (p : Nat) : m.writeScalar Ix.LinkRetrain (p + 1) 1 = .ok (m.portDown p 4) := by
  simp only [State.writeScalar, State.scalarAct, Ix.LinkRetrain, Option.getD_some, State.linkRetrain, Nat.add_sub_cancel, if_true]

theorem State.writeScalar_linkEnable (m : State) (p v : Nat) : m.writeScalar Ix.LinkEnable (p + 1) v = .ok (m.linkEnabled p v) := by
  simp only [State.writeScalar, State.scalarAct, Ix.LinkEnable, Option.getD_some, Nat.add_sub_cancel]

theorem State.linkEnabled_off (m : State) (p : Nat) : m.linkEnabled p 0 = (m.wr Ix.LinkEnable (p + 1) 0).portToOff p 4 := by
  rw [State.linkEnabled]
  rfl

/-- An enabled port that is OFF and may run begins with DETECT (R291). -/
theorem State.linkEnabled_starts {m : State} {p : Nat} (hp : p < 2) (h0 : m.linkState p = 0)
    (hr : (m.wr Ix.LinkEnable (p + 1) 1).portMayRun p = true) : m.linkEnabled p 1 = (m.wr Ix.LinkEnable (p + 1) 1).enterPort p 1 := by
  have hstate : (m.wr Ix.LinkEnable (p + 1) 1).linkState p = 0 := (State.rd_wr_ne (ck_ne_index (by omega) (by omega) (by decide))).trans h0
  rw [State.linkEnabled]
  exact (if_neg (by decide)).trans (if_pos ⟨hstate, hr⟩)

/-- What a part outside the Catalogue, the link and the events keeps through a command of the link that the host gives. -/
theorem State.Orders.runLink {s t : State} {w : Caller} {index sub v : Nat} (h : s.Orders w index sub v) (hd : writeDomainCode index = none)
    (hf : (s.met w.port).writeScalar index sub v = .ok t) (hc : (s.met w.port).changesOnly t [.cat, .link, .ev]) :
    s.order w index sub v = t.ended w index sub v :=
  h.runSame hd hf (hc .host (by decide)) (hc .reset_ (by decide))

/-! Bonds (R288, R290) and lanes (R289) -/

section
variable {s t : State} {p : Nat} {l : List LaneBits}

theorem State.bondIn_nothing (h : s.receiveBond p l = (.nothing, t)) : s.bondIn p l = t := by
  simp only [State.bondIn, h]

theorem State.bondIn_control {m : List Byte} (h : s.receiveBond p l = (.control m, t)) : s.bondIn p l = t.controlIn p m := by
  simp only [State.bondIn, h]

theorem State.bondIn_data {align : Bool} {words : List Nat} (h : s.receiveBond p l = (.data align words, t)) :
    s.bondIn p l = t.dataBond p align words := by
  simp only [State.bondIn, h]

end

/-- Words that follow those of the packet in progress (R297). -/
theorem State.dataBond_follows {t : State} {p : Nat} (hd : (t.port p).discarding = false) (align : Bool) (words : List Nat) :
    t.dataBond p align words
      = State.feed (((t.port p).words ++ words).length + 1) p (t.setPort p { t.port p with words := (t.port p).words ++ words }) := by
  have hkept : ({ t.port p with discarding := false, words := (t.port p).words ++ words } : PortSys)
      = { t.port p with words := (t.port p).words ++ words } := by rw [← hd]
  have hgoes : ¬((t.port p).discarding && !align) = true := by simp [hd]
  have hfrom : (if (t.port p).discarding = true then [] else (t.port p).words) = (t.port p).words := if_neg (by simp [hd])
  simp only [State.dataBond, if_neg hgoes, hfrom, hkept]

/-- A failed lane with 4,096 good bricks returns to service (R289). -/
theorem State.laneRejoin_good {s : State} {p k : Nat} (ha : s.linkState p = 5) (hr : s.rd Ix.LaneRejoin 0 = 1)
    (hl : s.rd Ix.LaneState (laneIx p k) = 3) (hg : 4096 ≤ (tget {} k (s.port p).lanes).good) :
    s.laneRejoin p k = ((s.setPort p { s.port p with
      lanes := tins k { (tget {} k (s.port p).lanes) with good := 0, crcAt := [], lostHeaders := 0 } (s.port p).lanes }).wr Ix.LaneState
      (laneIx p k) 1).raise 0x5004 (laneIx p k) (packData [f8 p, f8 k]) := by
  have hrejoin : s.rdB Ix.LaneRejoin 0 = true := by simp [State.rdB, hr]
  rw [State.laneRejoin]
  exact if_pos ⟨State.portActive_of_linkState ha, hrejoin, hl, hg⟩

/-- The head whose PORT-N is not ACTIVE shows the size that PORT-S tells, with itself (R294). -/
theorem State.chainIn_head {s : State} {d : Nat} (ha : s.linkState 1 = 5) (hn : s.linkState 0 ≠ 5) (h1 : 1 ≤ d) (h4 : d ≤ 4) (h0 : s.pos = 0)
    (hs : s.rd Ix.LinkArraySize 0 ≠ d + 1) :
    s.chainIn 1 d = (({ s with link := { s.link with south := d } } : State).wr Ix.LinkArraySize 0 (d + 1)).raise 0x5008 0
      (packData [fCount (d + 1)]) := by
  have hactive := State.portActive_of_linkState ha
  have hsouth : ({ s with link := { s.link with south := d } } : State).devices = d + 1 := by
    have hstill : ({ s with link := { s.link with south := d } } : State).portActive 1 = true := hactive
    simp only [State.devices, hstill, if_true, Nat.add_comm]
  have hdown : s.portActive 0 = false := by simpa [State.portActive] using hn
  have hnorth : ({ s with link := { s.link with south := d } } : State).portActive 0 = false := hdown
  have hshown : ({ s with link := { s.link with south := d } } : State).pos = 0
      ∧ ({ s with link := { s.link with south := d } } : State).rd Ix.LinkArraySize 0 ≠ d + 1 := ⟨h0, hs⟩
  simp only [State.chainIn, hactive, h1, h4, and_self, if_true, State.chainNorth, hsouth, hnorth, Bool.false_eq_true, if_false]
  exact if_pos hshown

/-- Settles O40: each step is the lemma named for it; the host's commands change the Catalogue, the link and the events alone. -/
theorem linkPortsAndLanes : Obligations.LinkPortsAndLanes := by
  unfold Obligations.LinkPortsAndLanes
  refine ⟨?detect, ?train, ?ready, ?lane, ?caps, ?active, ?late, ?failed, ?clock, ?retrain, ?disable, ?enable, ?bond, ?rejoin, ?align, ?chain⟩
  case detect => exact fun s p found hs ht => congrArg Host.Outcome.next (State.detectPulse_due hs ht found)
  case train =>
    rintro s t p hs ht rfl
    exact congrArg Host.Outcome.next (State.trainDone_due hs ht)
  case ready =>
    rintro s t p hs hp h8 rfl
    exact congrArg Host.Outcome.next (State.lockIn_ready hs hp h8)
  case lane =>
    intro s p k skew hs hp hk hskew hnone hsent
    refine ⟨_, congrArg Host.Outcome.next (State.lockIn_lane hp hk hs hskew hnone hsent), ?_, State.rd_wr_same _ _ _ _, ?_⟩
    · exact (State.laneLocked_laneState hp hk hk skew).trans (if_pos rfl)
    · exact (State.laneLocked_linkState hp hk skew).trans hs
  case caps =>
    rintro s t p l hs rfl hl
    exact ⟨fun reason ho => congrArg Host.Outcome.next (State.capsIn_refused hs hl ho),
      fun x ho => congrArg Host.Outcome.next (State.capsIn_accepted hs hl ho)⟩
  case active => exact fun s p since _ hs ha hseen ht => congrArg Host.Outcome.next (State.scramblerFrame_due hs ha hseen ht)
  case late =>
    rintro s p st t rfl hst hd
    refine congrArg Host.Outcome.next (State.portStateTimeout_due (t := t) ?_ hd)
    rcases hst with ⟨hst, rfl⟩ | ⟨hst, rfl⟩ | ⟨hst, rfl⟩ <;> rw [hst] <;> rfl
  case failed => exact fun s p hs hd => congrArg Host.Outcome.next (State.failedTimeout_due hs hd)
  case clock =>
    rintro s t u ha rfl hu
    exact congrArg Host.Outcome.next (State.portDown_north ha 2 hu)
  case retrain =>
    rintro s m w p rfl hp ho
    exact congrArg Host.Outcome.next
      (ho.runLink rfl (State.writeScalar_linkRetrain _ p) ((State.changesOnly.refl _ _).portDown p 4))
  case disable =>
    rintro s m w p rfl hp ho
    exact congrArg Host.Outcome.next (ho.runLink rfl ((State.writeScalar_linkEnable _ p 0).trans (congrArg Except.ok (State.linkEnabled_off _ p)))
      (((State.changesOnly.refl _ _).wr _ _ _).trans (State.portToOff_changes _ p 4)))
  case enable =>
    rintro s m w p rfl hp ho h0 hr
    exact congrArg Host.Outcome.next
      (ho.runLink rfl ((State.writeScalar_linkEnable _ p 1).trans (congrArg Except.ok (State.linkEnabled_starts hp h0 hr)))
        (((State.changesOnly.refl _ _).wr _ _ _).enterPort p 1))
  case bond =>
    intro s p l
    refine ⟨s.bondIn p l, rfl, fun t h => State.bondIn_nothing h, fun t m h hv => ?_, fun t align words h hd => ?_⟩
    · have hcontrol := State.bondIn_control h
      simp only [State.controlIn, hv, ne_eq, not_true_eq_false, if_false] at hcontrol
      refine ⟨fun hk => ?_, fun hk => ?_, fun hk => ?_⟩ <;> simp only [hk] at hcontrol <;> exact hcontrol
    · exact (State.bondIn_data h).trans (State.dataBond_follows hd align words)
  case rejoin =>
    rintro s t p k ha hr hl hg rfl
    exact congrArg Host.Outcome.next (State.laneRejoin_good ha hr hl hg)
  case align =>
    intro s p ha
    refine congrArg Host.Outcome.next ?_
    rw [State.alignForce, if_pos (State.portActive_of_linkState ha)]
  case chain => exact fun s d ha hn h1 h4 h0 hs => congrArg Host.Outcome.next (State.chainIn_head ha hn h1 h4 h0 hs)

end Sys2Proof.Machine
end

section
/-! A port that enters ACTIVE, and the statement of 12_link_physical.md on it (R292, R298, R302). -/
namespace Sys2Proof.Machine

/-! The steps of a LINK_UP -/

/-- The state is entered, sequence numbers and credit start, nothing is ready. -/
def State.linkFresh (s : State) (p : Nat) : State :=
  let caps := s.domVal Ix.LinkFarCaps (p + 1)
  let s := s.enterPort p 5
  let units (c : Nat) : Nat := fieldLE caps (30 + 4 * c) 2
  let limit (c : Nat) : Nat := fieldLE caps (28 + 4 * c) 2
  let credit : Tab Nat := [(1, units 1), (2, units 2), (3, units 3)]
  let s := s.setPort p { s.port p with
    taking := true, words := [], discarding := false, rxSeq := 255, txSeq := 0, credit := credit, owed := [],
    held := false, waitAck := none, alignFill := false, sent := [], control := [], echoIn := [], echoOut := none, echoMissed := 0 }
  { s with link := { s.link with ready := tdel p s.link.ready },
           farLimits := [1, 2, 3].foldl (fun t c => tput 0 (p * 4 + c) (limit c) t) s.farLimits }

/-- The lanes that did not lock are failed. -/
def State.lanesJudged (s : State) (p : Nat) : State :=
  allLanes.foldl (fun s k => if s.rd Ix.LaneState (laneIx p k) = 0 then s.wr Ix.LaneState (laneIx p k) 2 else s) s

/-- The first ACTIVE of PORT-N fixes the position and the role (Table 12.6). -/
def State.positionFixed (s : State) (p : Nat) (caps : List Byte) : State :=
  match s.capsOutcome p caps with
  | .ok (pos, role) => if p = 0 ∧ s.link.fixed = false then { s with pos := pos, link := { s.link with fixed := true, role := role } } else s
  | .error _ => s

/-- The LINK_UP is counted and reported, and the array's size and budget judged. -/
def State.linkUpReported (s : State) (p : Nat) : State :=
  let s := if p = 1 then { s with link := { s.link with south := 0 } } else s
  let s := s.bump Ix.LinkUpCount (p + 1)
  let s := s.raise 0x5001 (p + 1) (packData [f8 p, f8 (s.rd Ix.LinkRateInForce (p + 1)), fCount (s.lanesInService p).length])
  s.chainNorth.budgetReport

theorem State.linkUp_eq (s : State) (p : Nat) :
    s.linkUp p = (((s.linkFresh p).lanesJudged p).positionFixed p (s.domVal Ix.LinkFarCaps (p + 1))).linkUpReported p := by
  unfold State.linkUp
  extract_lets caps entered units limit credit old opened link fresh judged link' placed
  have hjudged : judged = (s.linkFresh p).lanesJudged p := rfl
  have hplaced : placed = judged.positionFixed p caps := by
    clear_value judged
    unfold State.positionFixed
    simp only [placed]
    cases judged.capsOutcome p caps <;> rfl
  clear_value placed
  rw [hjudged] at hplaced
  exact congrArg (fun u : State => u.linkUpReported p) hplaced

/-! What the later steps keep of a port -/

/-- What a port that starts afresh holds, but for what it sends of itself. -/
structure PortFresh where
  state : Nat
  txSeq : Nat
  rxSeq : Nat
  credit : Tab Nat

def State.portFresh (s : State) (p : Nat) : PortFresh := ⟨s.linkState p, (s.port p).txSeq, (s.port p).rxSeq, (s.port p).credit⟩

/-- The position, the role and whether they are fixed. -/
def State.place (s : State) : Nat × Nat × Bool := (s.pos, s.link.role, s.link.fixed)

theorem State.portFresh_eq_iff {s : State} {p st tx rx : Nat} {l : Tab Nat} : s.portFresh p = ⟨st, tx, rx, l⟩
    ↔ s.linkState p = st ∧ (s.port p).txSeq = tx ∧ (s.port p).rxSeq = rx ∧ (s.port p).credit = l := by
  simp only [State.portFresh, PortFresh.mk.injEq]

theorem State.place_eq_iff {s : State} {pos role : Nat} {fixed : Bool} : s.place = (pos, role, fixed)
    ↔ s.pos = pos ∧ s.link.role = role ∧ s.link.fixed = fixed := by
  simp only [State.place, Prod.mk.injEq]

theorem State.raise_portFresh {p : Nat} (hp : p < 2) (s : State) (code sub data : Nat) : (s.raise code sub data).portFresh p = s.portFresh p := by
  have hstate : (s.raise code sub data).linkState p = s.linkState p := State.rd_raise (ck_notMem_eventCounters (by omega) (by decide)) _ _ _
  simp only [State.portFresh, hstate, State.port, State.raise_link]

theorem State.raise_place (s : State) (code sub data : Nat) : (s.raise code sub data).place = s.place := by simp [State.place]

theorem State.wr_portFresh {p index sub : Nat} (hp : p < 2) (hs : sub < 256) (hi : index ≠ Ix.LinkState) (s : State) (v : Nat) :
    (s.wr index sub v).portFresh p = s.portFresh p := by
  have hstate : (s.wr index sub v).linkState p = s.linkState p := State.rd_wr_ne (ck_ne_index (by omega) hs hi.symm)
  simp only [State.portFresh, hstate]
  rfl

theorem State.control_portFresh (s : State) (p q : Nat) (l : List (List Byte)) :
    (s.setPort q { s.port q with control := l }).portFresh p = s.portFresh p := by
  by_cases h : p = q
  · subst h
    simp only [State.portFresh, State.port_setPort, State.linkState_setPort]
  · have hport : (s.setPort q { s.port q with control := l }).port p = s.port p := tget_tins_ne h _
    simp only [State.portFresh, hport, State.linkState_setPort]

theorem State.budgetReport_same {β : Type} {g : State → β} (hr : ∀ s c u d, g (State.raise s c u d) = g s) (s : State) :
    g s.budgetReport = g s :=
  foldl_same (fun s north => by split <;> simp [hr]) _ s

theorem State.chainNorth_same {β : Type} {g : State → β} (hr : ∀ s c u d, g (State.raise s c u d) = g s)
    (hw : ∀ s v, g (State.wr s Ix.LinkArraySize 0 v) = g s)
    (hp : ∀ (s : State) l, g (s.setPort 0 { s.port 0 with control := l }) = g s) (s : State) : g s.chainNorth = g s := by
  unfold State.chainNorth
  extract_lets d far t
  have ht : g t = g s := ite_ind (P := fun u => g u = g s) (hp _ _) rfl
  split
  · exact (hr _ _ _ _).trans ((hw _ _).trans ht)
  · exact ht

theorem State.linkUpReported_same {β : Type} {g : State → β} {p : Nat} (hr : ∀ s c u d, g (State.raise s c u d) = g s)
    (hw : ∀ s v, g (State.wr s Ix.LinkArraySize 0 v) = g s) (hc : ∀ s, g (State.bump s Ix.LinkUpCount (p + 1)) = g s)
    (hp : ∀ (s : State) l, g (s.setPort 0 { s.port 0 with control := l }) = g s)
    (hs : ∀ s : State, g { s with link := { s.link with south := 0 } } = g s) (s : State) : g (s.linkUpReported p) = g s := by
  unfold State.linkUpReported
  extract_lets far t u v
  have ht : g t = g s := ite_ind (P := fun u => g u = g s) (hs _) rfl
  exact (State.budgetReport_same hr _).trans ((State.chainNorth_same hr hw hp _).trans ((hr _ _ _ _).trans ((hc _).trans ht)))

theorem State.lanesJudged_same {β : Type} {g : State → β} {p : Nat} (hw : ∀ s, ∀ k < 9, ∀ v, g (State.wr s Ix.LaneState (laneIx p k) v) = g s)
    (s : State) :
    g (s.lanesJudged p) = g s :=
  foldl_keeps (P := fun u => g u = g s) (fun u k hk hu => ite_ind (P := fun u => g u = g s) ((hw u k (List.mem_range.1 hk) 2).trans hu) hu) rfl

section
variable {p : Nat} (hp : p < 2) (s : State)
include hp

theorem State.linkUpReported_portFresh : (s.linkUpReported p).portFresh p = s.portFresh p :=
  State.linkUpReported_same (g := fun s => s.portFresh p) (State.raise_portFresh hp) (fun s v => State.wr_portFresh hp (by decide) (by decide) s v)
    (fun s => State.wr_portFresh hp (by omega) (by decide) s _) (fun s l => s.control_portFresh p 0 l) (fun _ => rfl) s

theorem State.lanesJudged_rd {i u : Nat} (hi : i ≠ Ix.LaneState) (hu : u < 256) : (s.lanesJudged p).rd i u = s.rd i u :=
  State.lanesJudged_same (g := fun s => s.rd i u) (fun _ _ hk _ => State.rd_wr_ne (ck_ne_index hu (laneIx_lt hp hk) hi)) s

theorem State.lanesJudged_portFresh : (s.lanesJudged p).portFresh p = s.portFresh p :=
  State.lanesJudged_same (g := fun s => s.portFresh p) (fun s _ hk v => State.wr_portFresh hp (laneIx_lt hp hk) (by decide) s v) s

end

theorem State.lanesJudged_place (s : State) (p : Nat) : (s.lanesJudged p).place = s.place :=
  State.lanesJudged_same (g := State.place) (fun _ _ _ _ => rfl) s

theorem State.linkUpReported_place (s : State) (p : Nat) : (s.linkUpReported p).place = s.place :=
  State.linkUpReported_same (g := State.place) State.raise_place (fun _ _ => rfl) (fun _ => rfl) (fun _ _ => rfl) (fun _ => rfl) s

theorem State.positionFixed_portFresh (s : State) (p : Nat) (caps : List Byte) : (s.positionFixed p caps).portFresh p = s.portFresh p := by
  unfold State.positionFixed
  split
  · exact ite_ind (P := fun u : State => u.portFresh p = s.portFresh p) rfl rfl
  · rfl

theorem State.positionFixed_first {s : State} {caps : List Byte} {pos role : Nat} (hf : s.link.fixed = false)
    (ho : s.capsOutcome 0 caps = .ok (pos, role)) : (s.positionFixed 0 caps).place = (pos, role, true) := by
  simp only [State.positionFixed, ho, hf, and_self, if_true, State.place]

/-- What Table 12.6 decides rests on the place of the device, the strap of its role and the rate in force alone. -/
theorem State.capsOutcome_same {s t : State} (p : Nat) (hplace : t.place = s.place) (hstraps : t.rd Ix.Straps 0 = s.rd Ix.Straps 0)
    (hrate : t.rd Ix.LinkRateInForce (p + 1) = s.rd Ix.LinkRateInForce (p + 1)) (m : List Byte) : t.capsOutcome p m = s.capsOutcome p m := by
  simp only [State.place, Prod.mk.injEq] at hplace
  obtain ⟨hpos, hrole, hfixed⟩ := hplace
  simp only [State.capsOutcome, hpos, hrole, hfixed, hstraps, hrate]

theorem State.linkFresh_portFresh (s : State) (p : Nat) : (s.linkFresh p).portFresh p = ⟨5, 0, 255,
    [(1, fieldLE (s.domVal Ix.LinkFarCaps (p + 1)) 34 2), (2, fieldLE (s.domVal Ix.LinkFarCaps (p + 1)) 38 2),
      (3, fieldLE (s.domVal Ix.LinkFarCaps (p + 1)) 42 2)]⟩ := by
  have hstate : (s.linkFresh p).linkState p = 5 := State.rd_wr_same _ _ _ _
  have hport : ∀ (t : State) (v : PortSys) (r : Tab (List OutPacket)) (f : Tab Nat),
      ({ t.setPort p v with link := { (t.setPort p v).link with ready := r }, farLimits := f } : State).port p = v :=
    fun t v _ _ => State.port_setPort t p v
  rw [State.portFresh, hstate, State.linkFresh]
  simp only [hport]

theorem State.linkFresh_place (s : State) (p : Nat) : (s.linkFresh p).place = s.place := rfl

theorem State.linkFresh_rd {s : State} {p i u : Nat} (hp : p < 2) (hi : i ≠ Ix.LinkState) (hu : u < 256) : (s.linkFresh p).rd i u = s.rd i u :=
  State.rd_wr_ne (ck_ne_index hu (by omega) hi)

/-- Settles O41: what the port holds as it starts (`State.linkFresh_portFresh`) the later steps of its LINK_UP keep, and the position is fixed by
the outcome of the CAPS message, on which nothing before has any effect. -/
theorem activePortsStartAfresh : Obligations.ActivePortsStartAfresh := by
  unfold Obligations.ActivePortsStartAfresh
  rintro s t p caps hp rfl rfl
  have hfresh : (s.linkUp p).portFresh p = (s.linkFresh p).portFresh p := by
    rw [State.linkUp_eq, State.linkUpReported_portFresh hp, State.positionFixed_portFresh, State.lanesJudged_portFresh hp]
  rw [State.linkFresh_portFresh] at hfresh
  obtain ⟨hstate, htx, hrx, hcredit⟩ := State.portFresh_eq_iff.1 hfresh
  refine ⟨hstate, htx, hrx, hcredit, fun pos role h0 hfixed ho => ?_⟩
  subst h0
  have hplace : ((s.linkFresh 0).lanesJudged 0).place = s.place := (State.lanesJudged_place _ 0).trans (s.linkFresh_place 0)
  have hsame := State.capsOutcome_same 0 hplace
    ((State.lanesJudged_rd hp _ (by decide) (by decide)).trans (State.linkFresh_rd hp (by decide) (by decide)))
    ((State.lanesJudged_rd hp _ (by decide) (by decide)).trans (State.linkFresh_rd hp (by decide) (by decide))) (s.domVal Ix.LinkFarCaps (0 + 1))
  obtain ⟨-, -, hopen⟩ := State.place_eq_iff.1 (hplace.trans (State.place_eq_iff.2 ⟨rfl, rfl, hfixed⟩))
  have hup : (s.linkUp 0).place = (pos, role, true) := by
    rw [State.linkUp_eq, State.linkUpReported_place]
    exact State.positionFixed_first hopen (hsame.trans ho)
  exact State.place_eq_iff.1 hup

end Sys2Proof.Machine
end

section
/-! Key slots, signatures and the test access port, and the statement of 17_reset_boot_identity.md on them (R390, R392, R394). -/
namespace Sys2Proof.Machine

/-! Revocations (R390) -/

/-- What a revocation is to meet: other slots in range, the device's own identity, a signer that is loaded and another than the slot, and a key
that is left. -/
structure State.TakesRevocation (s : State) (l : List Byte) : Prop where
  slot : fieldLE l 0 1 < 4
  signer : fieldLE l 1 1 < 4
  device : fieldLE l 8 8 = s.rd Ix.DeviceIdentity 0
  other : fieldLE l 1 1 ≠ fieldLE l 0 1
  loaded : s.keyState (fieldLE l 1 1) = 2
  left : ∃ k < 4, k ≠ fieldLE l 0 1 ∧ (s.fuse.keyHash.getD k none).isSome = true ∧ k ∉ s.fuse.revoked

/-- Such a revocation is carried out where its signature verifies. -/
theorem State.TakesRevocation.keyRevoke {s : State} {l : List Byte} (h : s.TakesRevocation l) :
    s.keyRevoke l = if Config.sm2Verify (tget [] (fieldLE l 1 1) s.reset_.loadedKeys) (l.take 16) (sliceBytes l 16 64) = false
      then .error ⟨abSignature, 0⟩ else .ok { s with reset_ := { s.reset_ with revoking := s.reset_.revoking ++ [fieldLE l 0 1] } } := by
  have hleft : ([0, 1, 2, 3] : List Nat).any (fun k => k != fieldLE l 0 1 && (s.fuse.keyHash.getD k none).isSome && !s.fuse.revoked.contains k)
      = true := by
    obtain ⟨k, hk, hne, hsome, hfree⟩ := h.left
    refine List.any_eq_true.2 ⟨k, ?_, ?_⟩
    · have hlist : ([0, 1, 2, 3] : List Nat) = List.range 4 := rfl
      rw [hlist]
      exact List.mem_range.2 hk
    · rw [hsome]
      simp [hne, hfree]
  have hgoes : ¬(fieldLE l 1 1 = fieldLE l 0 1 ∨ s.keyState (fieldLE l 1 1) ≠ 2 ∨ ([0, 1, 2, 3] : List Nat).any
      (fun k => k != fieldLE l 0 1 && (s.fuse.keyHash.getD k none).isSome && !s.fuse.revoked.contains k) = false) := by
    rw [hleft]
    simp [h.other, h.loaded]
  have hslot : ¬3 < fieldLE l 0 1 := Nat.not_lt.2 (Nat.le_of_lt_succ h.slot)
  have hsigner : ¬3 < fieldLE l 1 1 := Nat.not_lt.2 (Nat.le_of_lt_succ h.signer)
  have hdevice : ¬fieldLE l 8 8 ≠ s.rd Ix.DeviceIdentity 0 := not_not.2 h.device
  rw [State.keyRevoke]
  simp only [if_neg hslot, if_neg hsigner, if_neg hdevice, if_neg hgoes]

theorem mem_insertNat_self (n : Nat) (l : List Nat) : n ∈ insertNat n l := by
  induction l with
  | nil => exact List.mem_singleton.2 rfl
  | cons m l ih =>
    unfold insertNat
    split
    · exact List.mem_cons_self
    · split
      · next h => exact h ▸ List.mem_cons_self
      · exact List.mem_cons_of_mem _ ih

/-- A part that no write of the Catalogue touches stands as the slots are shown. -/
theorem State.showKeys_same {β : Type} {g : State → β} (hw : ∀ s i u v, g (State.wr s i u v) = g s) (s : State) : g s.showKeys = g s :=
  foldl_same (fun _ _ => hw _ _ _ _) _ s

theorem State.keyState_revoked {s : State} {k : Nat} (h : k ∈ s.fuse.revoked) : s.keyState k = 3 := by
  have hrevoked : s.fuse.revoked.contains k = true := by simpa using h
  rw [State.keyState, if_pos hrevoked]

/-- A revoked slot shows as revoked. -/
theorem State.showKeys_revoked {s : State} {k : Nat} (hk : k < 4) (h : k ∈ s.fuse.revoked) : s.showKeys.rd Ix.KeySlotState (k + 1) = 3 := by
  have hmem : k ∈ ([0, 1, 2, 3] : List Nat) := List.mem_range.2 hk
  have hreach := foldl_reaches (P := fun u : State => k ∈ u.fuse.revoked)
    (Q := fun u : State => k ∈ u.fuse.revoked ∧ u.rd Ix.KeySlotState (k + 1) = 3)
    (f := fun (u : State) j => u.wr Ix.KeySlotState (j + 1) (u.keyState j)) hmem (fun u j _ hu => hu) (fun u j _ hu => ⟨hu.1, ?_⟩)
    (fun u hu => ⟨hu, (State.rd_wr_same _ _ _ _).trans (State.keyState_revoked hu)⟩) h
  · exact hreach.2
  · by_cases hj : k = j
    · rw [hj, State.rd_wr_same]
      exact State.keyState_revoked (hj ▸ hu.1)
    · exact (State.rd_wr_ne (ck_ne_sub (by omega))).trans hu.2

/-- The state in which a slot's fuse has been blown. -/
def State.slotBlown (s : State) (slot : Nat) (rest : List Nat) : State :=
  { s with reset_ := { s.reset_ with revoking := rest, loadedKeys := tdel slot s.reset_.loadedKeys },
           fuse := { s.fuse with revoked := insertNat slot s.fuse.revoked } }

theorem State.keyRevoked_eq {s : State} {slot : Nat} {rest : List Nat} (h : s.reset_.revoking = slot :: rest) :
    s.keyRevoked = (s.slotBlown slot rest).showKeys.raise 0x6404 (slot + 1) (packData [f8 slot]) := by
  simp only [State.keyRevoked, h]
  rfl

/-! Reports and signatures (R392) -/

theorem State.signing_free {s : State} (ha : s.reset_.attestNonce = none) (hd : s.reset_.signDigest = none) : s.signing = false := by
  simp [State.signing, ha, hd]

theorem State.attestDone_ready {s : State} {nonce : List Byte} (h : s.reset_.attestNonce = some nonce) : s.attestDone
    = (({ s with free := s.free + 1, reset_ := { s.reset_ with attestNonce := none, sequence := (s.reset_.sequence + 1) % 2 ^ 32 } } : State).setDom
        Ix.AttestReport 0 (s.attestBody nonce ((s.reset_.sequence + 1) % 2 ^ 32)
          ++ sliceBytes (Config.sm2Sign s.free ([0x41, 0x54, 0x53, 0x54] ++ s.attestBody nonce ((s.reset_.sequence + 1) % 2 ^ 32))) 0 64)).raise
      0x6406 0 (packData [f32 ((s.reset_.sequence + 1) % 2 ^ 32)]) := by
  simp only [State.attestDone, h]

theorem State.signDone_ready {s : State} {d : List Byte} (h : s.reset_.signDigest = some d) : s.signDone
    = (({ s with free := s.free + 1, reset_ := { s.reset_ with signDigest := none } } : State).setDom Ix.IdentitySignature 0
        (sliceBytes (Config.sm2Sign s.free ([0x48, 0x53, 0x49, 0x47] ++ sliceBytes d 0 32)) 0 64)).raise 0x6407 0 0 := by
  simp only [State.signDone, h]

/-! The test access port (R394, Table 17.10) -/

theorem State.letGo_none {s : State} (h : s.reset_.held = []) (bit straps : Nat) : s.letGo bit straps = s := by
  simp [State.letGo, h]

/-- The last source lets go: the release sequence runs (R375, R376). -/
theorem State.letGo_last {s : State} {x : ResetSource} (h : s.reset_.held = [x]) (straps : Nat) :
    s.letGo x.bit straps = State.releaseSequence { s with reset_ := { s.reset_ with held := [] } } straps := by
  have hfree : State.inReset { s with reset_ := { s.reset_ with held := [] } } = false := rfl
  simp only [State.letGo, h, List.any_cons, List.any_nil, beq_self_eq_true, Bool.or_false, if_true, List.filter_cons, List.filter_nil,
    bne_self_eq_false, Bool.false_eq_true, if_false, hfree]

theorem State.scanOther_free {s : State} (h : s.reset_.held = []) (ir straps : Nat) : s.scanOther ir straps = s.setIr ir :=
  State.letGo_none (s := s.setIr ir) h 9 straps

/-- The cells take what is shifted in. -/
theorem State.scanPreload_free {s : State} (h : s.reset_.held = []) {l : List Bool} (hl : l.length = 243) (straps : Nat) :
    s.scanPreload l straps = ({ s with scan := { s.scan with cells := l } } : State).setIr 2 := by
  have htake : l.take 243 = l := List.take_of_length_le (Nat.le_of_eq hl)
  have hcells : l.take 243 ++ List.replicate (243 - (l.take 243).length) false = l := by
    rw [htake, hl, Nat.sub_self, List.replicate_zero, List.append_nil]
  simp only [State.scanPreload, hcells]
  exact State.scanOther_free (s := { s with scan := { s.scan with cells := l } }) h 2 straps

/-- The boundary scan stands through the assertion of a source. -/
theorem State.assertSource_scan {s : State} {bit : Nat} (h : ¬(s.therm.latched = true ∧ 1 < bit)) : (s.assertSource bit).scan = s.scan := by
  have hnoted : (s.resetNoted bit).scan = s.scan :=
    State.resetNoted_same (g := State.scan) (fun _ _ _ _ _ _ => rfl) (fun _ _ => rfl) (fun _ _ => rfl) s bit
  rw [State.assertSource_eq h]
  exact (State.rebuilt_same (g := State.scan) (fun _ _ _ _ => rfl) _ _).trans hnoted

theorem State.assertSource_held {s : State} {bit : Nat} (h : ¬(s.therm.latched = true ∧ 1 < bit)) :
    (⟨bit, s.now, 0⟩ : ResetSource) ∈ (s.assertSource bit).reset_.held := by
  rw [State.assertSource_eq h, State.rebuilt_held]
  exact s.resetNoted_holds bit

/-- A test-mode instruction asserts source 9, where it is not held yet. -/
theorem State.scanTest_asserts {s : State} (h : ∀ x ∈ s.reset_.held, x.bit ≠ 9) (ir : Nat) : s.scanTest ir = (s.setIr ir).assertSource 9 := by
  have hnone : (s.setIr ir).reset_.held.any (fun x => x.bit == 9) = false :=
    List.any_eq_false.2 fun x hx => by simpa using h x hx
  rw [State.scanTest]
  exact if_neg (by rw [hnone]; decide)

/-- What a test-mode instruction leaves. -/
theorem State.scanTest_holds {s : State} (hl : s.therm.latched = false) (h : ∀ x ∈ s.reset_.held, x.bit ≠ 9) (ir : Nat) :
    (s.scanTest ir).scan = (s.setIr ir).scan ∧ (⟨9, s.now, 0⟩ : ResetSource) ∈ (s.scanTest ir).reset_.held ∧ (s.scanTest ir).inReset = true := by
  have hcool : ¬((s.setIr ir).therm.latched = true ∧ 1 < 9) := fun hboth => Bool.false_ne_true (hl.symm.trans hboth.1)
  rw [State.scanTest_asserts h]
  exact ⟨State.assertSource_scan hcool, State.assertSource_held hcool, State.inReset_assertSource hcool (by decide)⟩

/-- Settles O55: the host's records are performed on the state that meets them, and each instruction of the test access port selects its register
(`State.setIr`) and asserts source 9 (`State.scanTest_holds`) or lets it go. -/
theorem keysSignAndTheTestPortSelects : Obligations.KeysSignAndTheTestPortSelects := by
  unfold Obligations.KeysSignAndTheTestPortSelects
  refine ⟨?revoke, ?revoked, ?requests, ?report, ?signature, ?free, ?test, ?bypass⟩
  case revoke =>
    rintro s m w l slot signer ok rfl ho rfl rfl h1 h2 hdevice hother hloaded hleft hok
    have hact := State.TakesRevocation.keyRevoke ⟨h1, h2, hdevice, hother, hloaded, hleft⟩
    rw [← hok] at hact
    cases ok with
    | true => exact congrArg Host.Outcome.next (ho.runSame rfl (by decide) hact rfl rfl)
    | false => exact congrArg Host.Outcome.next (ho.refused (by decide) hact rfl)
  case revoked =>
    intro s slot rest hr hslot
    have hrevoked : slot ∈ (s.slotBlown slot rest).fuse.revoked := mem_insertNat_self slot s.fuse.revoked
    refine ⟨_, congrArg Host.Outcome.next (State.keyRevoked_eq hr), ?_, ?_, ?_, ?_⟩
    · rw [State.raise_fuse, State.showKeys_same (g := State.fuse) (fun _ _ _ _ => rfl)]
      exact hrevoked
    · rw [State.rd_raise (ck_notMem_eventCounters (by omega) (by decide))]
      exact State.showKeys_revoked hslot hrevoked
    · rw [State.raise_reset_, State.showKeys_same (g := State.reset_) (fun _ _ _ _ => rfl)]
      rfl
    · rw [State.raise_reset_, State.showKeys_same (g := State.reset_) (fun _ _ _ _ => rfl)]
      rfl
  case requests =>
    rintro s m w l rfl ha hd
    have hfree := State.signing_free ha hd
    refine ⟨fun ho => ?_, fun ho => ?_⟩
    · exact congrArg Host.Outcome.next (ho.runSame rfl (by decide) (if_neg (by rw [hfree]; decide)) rfl rfl)
    · exact congrArg Host.Outcome.next (ho.runSame rfl (by decide) (if_neg (by rw [hfree]; decide)) rfl rfl)
  case report =>
    rintro s t nonce body n hn rfl rfl rfl
    exact congrArg Host.Outcome.next (State.attestDone_ready hn)
  case signature =>
    rintro s t d hd rfl
    exact congrArg Host.Outcome.next (State.signDone_ready hd)
  case free =>
    intro s straps hh
    refine ⟨fun c ir n hc => ?_, fun l hl => congrArg Host.Outcome.next (State.scanPreload_free hh hl straps)⟩
    simp only [List.mem_cons, List.not_mem_nil, or_false, Prod.mk.injEq] at hc
    rcases hc with ⟨rfl, rfl, rfl⟩ | ⟨rfl, rfl, rfl⟩ | ⟨rfl, rfl, rfl⟩
    · exact congrArg Host.Outcome.next (State.scanOther_free hh 1 straps)
    · exact congrArg Host.Outcome.next (State.scanOther_free hh 1 straps)
    · exact congrArg Host.Outcome.next (State.scanOther_free hh 255 straps)
  case test =>
    intro s c ir n hc hl hh
    obtain ⟨hscan, hheld, hreset⟩ := State.scanTest_holds hl hh ir
    have hexec : exec c s = .next (s.scanTest ir) ∧ (s.setIr ir).scan.register = n ∧ (s.setIr ir).scan.fromCells = decide (ir ≤ 6)
        ∧ (s.setIr ir).scan.highZ = decide (ir = 7) ∧ (s.setIr ir).scan.pulse = decide (ir = 4) ∧ (s.setIr ir).scan.train = decide (ir = 5) := by
      simp only [List.mem_cons, List.not_mem_nil, or_false, Prod.mk.injEq] at hc
      rcases hc with ⟨rfl, rfl, rfl⟩ | ⟨rfl, rfl, rfl⟩ | ⟨rfl, rfl, rfl⟩ | ⟨rfl, rfl, rfl⟩ | ⟨rfl, rfl, rfl⟩
      all_goals exact ⟨rfl, rfl, rfl, rfl, rfl, rfl⟩
    obtain ⟨hnext, hregister, hcells, hfloat, hpulse, htrain⟩ := hexec
    refine ⟨_, hnext, ?_, ?_, ?_, ?_, ?_, ?_, hheld, hreset⟩ <;> rw [hscan]
    · rfl
    · exact hregister
    · exact hcells
    · exact hfloat
    · exact hpulse
    · exact htrain
  case bypass =>
    intro s since straps hh
    exact congrArg Host.Outcome.next (State.letGo_last (s := s.setIr 255) hh straps)

end Sys2Proof.Machine
end

section
/-! Housekeeping frames that end a thermal clear, and the statement of 18_housekeeping_bias_thermal.md on converters (R397, R406, R415). -/
namespace Sys2Proof.Machine

/-- A number of no channel, whose entry of `BiasRangeNow` would have the key of the reading of die sensor 16. -/
def strayChannel : Nat := 0x3BC10

/-- HKA works and HKB does not; the THERMAL cause is active with no sensor above SHUTDOWN, so that the clear it holds ends with the next frame; and
the record of range changes holds one of `strayChannel`, long past its 20 µs. -/
def strayRange : State :=
  { State.reset with now := 10 ^ 9, cat := [(ck Ix.HkConverterState 1, 1), (ck Ix.SafeHoldCauses 0, 2)],
                     bias := { clears := 4, held := [(strayChannel, 0)] } }

/-- A frame of HKA in which die sensor 16 reads 0.1 °C. -/
def coolFrame : HkFrame := ⟨0, false, strayRange.fuse.bandgap, [(16, 1)], none, []⟩

theorem strayChannel_key : ck Ix.BiasRangeNow (strayChannel + 1) = ck Ix.TempReading (16 + 1) := by decide

/-- The range change that ends with the clear (R406) writes its range where the reading stood. -/
theorem strayRange_reading : (strayRange.hkReads coolFrame).rdI 16 Ix.TempReading (16 + 1) = 0 := by decide

/-- Refutes O56: in a state whose record of range changes holds a number of no channel, which no premise excludes, a frame that ends the thermal
clear also ends that range change, and the entry it writes has the key of the reading just shown (`strayChannel_key`). -/
theorem not_convertersAreJudged : ¬ Obligations.ConvertersAreJudged := by
  unfold Obligations.ConvertersAreJudged
  rintro ⟨hframe, -⟩
  obtain ⟨t, ht, hread, -⟩ := hframe strayRange coolFrame 16 1 (by decide) (by decide) rfl (by decide) rfl rfl rfl (by decide) (by decide) (by decide)
    (by decide) (by decide) (by decide) (by decide) (by decide) (by decide) rfl
  have hnext : strayRange.hkReads coolFrame = t := Host.Outcome.next.inj ht
  have hzero : (1 : Int) = 0 := (hread.symm.trans (by rw [← hnext])).trans strayRange_reading
  exact absurd hzero (by decide)

end Sys2Proof.Machine
end
section
/-! # What a reset of MASON, of the weight jobs, and of a course leaves as it stands (17_reset_boot_identity.md; R364, R382) -/
namespace Sys2Proof.Machine

section
variable {s t : State} (h : s.changesOnly t [.cat, .radio, .power])
include h

theorem State.changesOnly.setPower (x : PowerSys) : s.changesOnly { t with power := x } [.cat, .radio, .power] :=
  h.trans fun p hp => by cases p with | power => exact absurd (by simp) hp | _ => rfl

theorem State.changesOnly.courseOff (c : Nat) : s.changesOnly (t.courseOff c) [.cat, .radio, .power] := ((h.wr _ _ _).wr _ _ _).setRadio _

theorem State.changesOnly.ownLo (c : Nat) : s.changesOnly (t.ownLo c) [.cat, .radio, .power] :=
  (h.wr _ _ _).foldl (fun _ _ hu => hu.setRadio _) _

theorem State.changesOnly.endWindow (c : Nat) : s.changesOnly (t.endWindow c) [.cat, .radio, .power] := (h.setPower _).wr _ _ _

theorem State.changesOnly.switchOff (d : Nat) : s.changesOnly (t.switchOff d) [.cat, .radio, .power] := (h.setPower _).wr _ _ _

end

/-! MASON: with no task queued, cores that fail start nothing. -/

section
variable {β : Type} {g : State → β} (hm : ∀ s x, g { s with mason := x } = g s) (hj : ∀ s x, g { s with userJobs := x } = g s)
  (hl : ∀ s x, g { s with leases := x } = g s) (hk : ∀ s x, g { s with mem := x } = g s)
  (hw : ∀ (s : State) (m v : Nat), m < 48 → g (s.wr Ix.MasonState (m + 1) v) = g s)
  (hr : ∀ s code sub data, g (State.raise s code sub data) = g s)

theorem State.startNext_idle {s : State} (h : s.mason.queue = []) (m : Nat) : s.startNext m = s := by
  simp only [State.startNext, h, List.find?_nil, ite_self]

include hl hk in
theorem State.releaseLease_same (s : State) (r : Nat) : g (s.releaseLease r) = g s := by
  refine (hl _ _).trans ?_
  split
  · exact hk _ _
  · rfl

include hl hk in
theorem State.releaseLeasesOf_same (s : State) (owner : Nat) : g (s.releaseLeasesOf owner) = g s :=
  foldl_same (fun t (l : Lease) => State.releaseLease_same hl hk t l.resource) (s.leasesOf owner) s

include hm hj hl hk hr in
theorem State.endJob_same (s : State) (j : UserJob) (state : Nat) : g (s.endJob j state) = g s := by
  have hended : ∀ x y o, g (State.releaseLeasesOf { s with userJobs := x, mason := y } o) = g s := fun x y o =>
    (State.releaseLeasesOf_same hl hk _ o).trans ((hm { s with userJobs := x } y).trans (hj s x))
  exact ite_ind (P := fun t : State => g t = g s) ((hr _ _ _ _).trans (hended _ _ _)) (hended _ _ _)

include hm hj hl hk hr in
theorem State.jobTaskEnds_same (s : State) (job reason : Nat) : g (s.jobTaskEnds job reason) = g s := by
  unfold State.jobTaskEnds
  split
  · rfl
  · exact ite_ind (P := fun t : State => g t = g s) ((State.endJob_same hm hj hl hk hr _ _ _).trans (hj _ _)) (hj _ _)

include hm hw in
theorem State.clearTask_same (s : State) (m : Nat) (h48 : m < 48) : g (s.clearTask m) = g s :=
  ite_ind (P := fun t : State => g t = g s) (hm _ _) ((hw _ _ _ h48).trans (hm _ _))

theorem State.endJob_queue (s : State) (j : UserJob) (state : Nat) : (s.endJob j state).mason.queue = s.mason.queue := by
  have hreleased := fun u : State => State.releaseLeasesOf_same (g := fun t => t.mason.queue) (fun _ _ => rfl) (fun _ _ => rfl) u
    (s.ownerField 3 j.job)
  exact ite_ind (P := fun t : State => t.mason.queue = s.mason.queue) ((congrArg MasonSys.queue (State.raise_mason _ _ _ _)).trans (hreleased _))
    (hreleased _)

theorem State.jobTaskEnds_queue (s : State) (job reason : Nat) : (s.jobTaskEnds job reason).mason.queue = s.mason.queue := by
  unfold State.jobTaskEnds
  split
  · rfl
  · exact ite_ind (P := fun t : State => t.mason.queue = s.mason.queue) (State.endJob_queue _ _ _) rfl

theorem State.clearTask_queue (s : State) (m : Nat) : (s.clearTask m).mason.queue = s.mason.queue :=
  ite_ind (P := fun t : State => t.mason.queue = s.mason.queue) rfl rfl

/-- A task that fails while none is queued clears its core, is reported, and ends for its job. -/
theorem State.taskFails_idle {s : State} {m : Nat} {t : MasonTask} (h : s.mason.queue = []) (ht : (s.core m).task = some t) (reason : Nat) :
    s.taskFails m reason = ((s.clearTask m).raise 0x4004 0 (packData [f16 t.job, f8 m, f8 reason])).jobTaskEnds t.job reason := by
  have hq : (((s.clearTask m).raise 0x4004 0 (packData [f16 t.job, f8 m, f8 reason])).jobTaskEnds t.job reason).mason.queue = [] := by
    rw [State.jobTaskEnds_queue, State.raise_mason, State.clearTask_queue, h]
  simp only [State.taskFails, ht, State.startNext_idle hq]
  split <;> rfl

theorem State.taskFails_queue {s : State} (h : s.mason.queue = []) (m reason : Nat) : (s.taskFails m reason).mason.queue = [] := by
  cases ht : (s.core m).task with
  | none => rw [State.taskFails, ht]; exact h
  | some t => rw [State.taskFails_idle h ht, State.jobTaskEnds_queue, State.raise_mason, State.clearTask_queue, h]

include hm hj hl hk hw hr

theorem State.taskFails_same {s : State} {m : Nat} (h : s.mason.queue = []) (h48 : m < 48) (reason : Nat) : g (s.taskFails m reason) = g s := by
  cases ht : (s.core m).task with
  | none => rw [State.taskFails, ht]
  | some t =>
    rw [State.taskFails_idle h ht]
    exact (State.jobTaskEnds_same hm hj hl hk hr _ _ _).trans ((hr _ _ _ _).trans (State.clearTask_same hm hw s m h48))

/-- What neither MASON, the jobs, the leases, the memories, the state of the cores nor the events enter into stands when MASON is reset. -/
theorem State.masonsReset_same (s : State) : g s.masonsReset = g s := by
  have hcore : ∀ u : State, ∀ m ∈ allCores, u.mason.queue = [] ∧ g u = g s →
      ((u.taskFails m 7).setCore m {}).mason.queue = [] ∧ g ((u.taskFails m 7).setCore m {}) = g s := by
    intro u m hmem hu
    obtain ⟨hq, hg⟩ := hu
    have h48 : m < 48 := List.mem_range.1 hmem
    exact ⟨State.taskFails_queue hq m 7, (hm _ _).trans ((State.taskFails_same hm hj hl hk hw hr hq h48 7).trans hg)⟩
  unfold State.masonsReset
  exact (foldl_keeps hcore ⟨rfl, hm _ _⟩).2

end

section
variable {β : Type} {g : State → β} (hb : ∀ s x, g { s with lib := x } = g s)
  (hw : ∀ s v, g (State.wr s Ix.WeightJobsFailed 0 v) = g s) (hr : ∀ s code sub data, g (State.raise s code sub data) = g s)
  (hf : ∀ s pick reason, g (State.failCommits s pick reason) = g s)
include hb hw hr hf

theorem State.failJob_same (s : State) (job reason at_ : Nat) : g (s.failJob job reason at_) = g s := by
  unfold State.failJob
  split
  · rfl
  · exact (hr _ _ _ _).trans ((hf _ _ _).trans ((hw _ _).trans ((hb _ _).trans (hb _ _))))

/-- What neither the library, the count of failed jobs, the events nor the commits enter into stands when weight jobs are reset. -/
theorem State.jobsReset_same (s : State) (arrayOnly : Bool) : g (s.jobsReset arrayOnly) = g s :=
  foldl_same (fun t j => State.failJob_same hb hw hr hf t j 5 t.pos) _ s

end

end Sys2Proof.Machine
end
section
/-! # Resets end in order (17_reset_boot_identity.md; R374 to R377, R381, R382) -/
namespace Sys2Proof.Machine

/-! The sources that let go (R374, R375) -/

theorem exec_rstNHigh {s : State} {since : Nat} (h : s.reset_.held = [⟨5, since, 0⟩]) (straps : Nat) :
    exec (.rstNHigh straps) s = .next (State.releaseSequence { s with reset_ := { s.reset_ with held := [] } } straps) :=
  congrArg Host.Outcome.next (State.letGo_last h straps)

theorem State.sourceRelease_last {s : State} {since bit : Nat} (h : s.reset_.held = [⟨bit, since, 0⟩]) (h9 : bit < 9) (h5 : bit ≠ 5)
    (hover : since + (if bit ≤ 1 then msec 2 else usec 10) ≤ s.now) (straps : Nat) :
    s.sourceRelease bit straps = State.releaseSequence { s with reset_ := { s.reset_ with held := [] } } straps := by
  have hfind : s.reset_.held.find? (fun x => x.bit == bit) = some ⟨bit, since, 0⟩ := by
    rw [h]
    simp
  have hends : bit ≠ 5 ∧ bit ≠ 9 ∧ s.elapsed since (if bit ≤ 1 then msec 2 else usec 10) = true :=
    ⟨h5, by omega, State.elapsed_of_le hover⟩
  simp only [State.sourceRelease, if_neg (show ¬bit = 10 by omega), hfind, if_pos hends]
  exact State.letGo_last h straps

/-- A source that lets go while another one holds ends nothing but itself. -/
theorem exec_rstNHigh_other {s : State} {a b : Nat} (h : s.reset_.held = [⟨5, a, 0⟩, ⟨7, b, 0⟩]) (straps : Nat) :
    exec (.rstNHigh straps) s = .next { s with reset_ := { s.reset_ with held := [⟨7, b, 0⟩] } } := by
  have hheld : State.inReset { s with reset_ := { s.reset_ with held := [⟨7, b, 0⟩] } } = true := rfl
  have hgo : s.letGo 5 straps = { s with reset_ := { s.reset_ with held := [⟨7, b, 0⟩] } } := by
    have hany : s.reset_.held.any (fun x => x.bit == 5) = true := by rw [h]; rfl
    have hrest : s.reset_.held.filter (fun x => x.bit != 5) = [⟨7, b, 0⟩] := by rw [h]; rfl
    simp only [State.letGo, hany, hrest, if_true, hheld]
  exact congrArg Host.Outcome.next hgo

/-! Commands of resets (R377, R381) -/

/-- The state in which a reset is due. -/
def State.resetDue (s : State) (bit : Nat) : State := { s with reset_ := { s.reset_ with dueCmd := some (s.now, bit) } }

theorem State.writeScalar_resetRequest {m : State} (hfree : m.reset_.dueCmd = none) :
    m.writeScalar Ix.ResetRequest 0 0x5A01 = .ok (m.resetDue 4) ∧ m.writeScalar Ix.ResetRequest 0 0x5A02 = .ok (m.resetDue 8) := by
  simp [State.writeScalar, State.scalarAct, Ix.ResetRequest, State.resetRequest, State.resetDue, hfree]

/-- A command whose effect keeps what its end rests on ends at once. -/
theorem State.Orders.runStanding {s t : State} {w : Caller} {index sub v : Nat} (h : s.Orders w index sub v) (hd : writeDomainCode index = none)
    (hf : (s.met w.port).writeScalar index sub v = .ok t) (hn : t.host.stalled = (s.met w.port).host.stalled)
    (hq : t.host.performing = (s.met w.port).host.performing) (hb : t.reset_.bootDone = (s.met w.port).reset_.bootDone) :
    s.order w index sub v = t.ended w index sub v := by
  rw [State.met_stalled] at hn
  rw [State.met_performing] at hq
  rw [State.met_reset] at hb
  exact h.run hd hf (hn.trans h.attends.alone) (hq.trans h.attends.nothing) (hb.trans h.attends.booted)

theorem State.writeScalar_resetCauseClear (m : State) : m.writeScalar Ix.ResetCauseClear 0 1 = .ok (m.wr Ix.ResetCause 0 0) := by
  simp [State.writeScalar, State.scalarAct, Ix.ResetCauseClear, State.resetCauseClear]

/-! The reset of a domain (R382) -/

/-- What a command's end rests on: the requests that wait or are performed, and the record of resets. -/
def State.standing (s : State) : List Request × Option Request × ResetSys := (s.host.stalled, s.host.performing, s.reset_)

theorem State.changesOnly.standing {s t : State} {l : List Part} (h : s.changesOnly t l) (hh : Part.host ∉ l) (hr : Part.reset_ ∉ l) :
    t.standing = s.standing := by
  have hhost : t.host = s.host := h .host hh
  have hreset : t.reset_ = s.reset_ := h .reset_ hr
  rw [State.standing, hhost, hreset]
  rfl

theorem State.jobsReset_standing (s : State) (b : Bool) : (s.jobsReset b).standing = s.standing :=
  State.jobsReset_same (g := State.standing) (fun _ _ => rfl) (fun _ _ => rfl) (fun _ _ _ _ => by simp [State.standing])
    (fun t pick reason => by simp only [State.standing, State.failCommits_stalled, State.failCommits_performing, State.failCommits_reset]) s b

theorem State.masonsReset_standing (s : State) : s.masonsReset.standing = s.standing :=
  State.masonsReset_same (g := State.standing) (fun _ _ => rfl) (fun _ _ => rfl) (fun _ _ => rfl) (fun _ _ => rfl) (fun _ _ _ _ => rfl)
    (fun _ _ _ _ => by simp [State.standing]) s

theorem State.domainHeld_standing (s : State) (d : Nat) : (s.domainHeld d).standing = s.standing := by
  unfold State.domainHeld
  have hoff := fun x => ((State.changesOnly.refl s [.cat, .radio, .power]).setPower x).switchOff d
  have hmix := fun x => (hoff x).standing (by decide) (by decide)
  split
  · exact hmix _
  · split
    · exact (State.jobsReset_standing _ _).trans ((State.masonsReset_standing _).trans (hmix _))
    · split
      · exact (State.jobsReset_standing _ _).trans (((State.portToOff_changes _ _ _).standing (by decide) (by decide)).trans (hmix _))
      · split
        · exact (((((hoff _).courseOff _).ownLo _).endWindow _).setRadio _).standing (by decide) (by decide)
        · exact hmix _

/-- The state in which a domain is held: the source recorded, and on the list of those that hold. -/
def State.domainSource (s : State) (d : Nat) : State :=
  let t := s.wr Ix.ResetCause 0 (causeAfter (s.rd Ix.ResetCause 0) 10)
  { t with reset_ := { t.reset_ with held := t.reset_.held ++ [⟨10, s.now, d⟩] } }

theorem State.writeScalar_domainReset (m : State) {d : Nat} (h3 : 3 ≤ d) (h11 : d ≤ 11) :
    m.writeScalar Ix.DomainReset 0 d = .ok ((m.domainSource d).domainHeld d) := by
  have hd : ¬(d < 3 ∨ 11 < d) := by omega
  have hreset : m.domainReset d = .ok ((m.domainSource d).domainHeld d) := by rw [State.domainReset, if_neg hd]; rfl
  simp only [State.writeScalar, State.scalarAct, Ix.DomainReset, Option.getD_some, hreset]

theorem State.Orders.domainReset {s : State} {w : Caller} {d : Nat} (h : s.Orders w Ix.DomainReset 0 d) (h3 : 3 ≤ d) (h11 : d ≤ 11) :
    s.order w Ix.DomainReset 0 d = (((s.met w.port).domainSource d).domainHeld d).ended w Ix.DomainReset 0 d := by
  have hstanding := State.domainHeld_standing ((s.met w.port).domainSource d) d
  simp only [State.standing, Prod.mk.injEq] at hstanding
  obtain ⟨hstalled, hperforming, hreset⟩ := hstanding
  exact h.runStanding rfl (State.writeScalar_domainReset _ h3 h11) hstalled hperforming
    ((congrArg ResetSys.bootDone hreset).trans rfl)

theorem State.domainResetDone_serves {s : State} {d : Nat} (hd : d ∈ s.power.resetting)
    (hfree : ∀ h ∈ s.reset_.held, ¬(h.bit = 10 ∧ h.domain = d)) (hon : s.domainOn d = true) :
    s.domainResetDone d = State.raise { s with power := { s.power with
      resetting := s.power.resetting.filter (· != d), resuming := insertNat d s.power.resuming } } 0x6408 (d + 1) (packData [f8 d]) := by
  have hnone : s.reset_.held.any (fun h => h.bit == 10 && h.domain == d) = false := by
    rw [List.any_eq_false]
    intro x hx hboth
    rw [Bool.and_eq_true, beq_iff_eq, beq_iff_eq] at hboth
    exact hfree x hx hboth
  have hin : s.power.resetting.contains d = true := by simpa using hd
  simp only [State.domainResetDone, hin, hnone, hon, Bool.not_false, Bool.true_or, Bool.and_self, if_true]

end Sys2Proof.Machine
end
section
/-! # The release sequence of a cold reset (17_reset_boot_identity.md; R376, R379, R384) -/
namespace Sys2Proof.Machine

/-- What the release sequence settles: the straps sampled, the clock, the releases of cold resets, the time base, and the reach of the reset. -/
structure Sampled where
  straps : Nat
  clock : Nat
  releases : Nat
  now : Nat
  epoch : Nat
  tb : TimeBase
  reach : Nat

def State.sampled (s : State) : Sampled :=
  ⟨s.rd Ix.Straps 0, s.rd Ix.ClockSource 0, s.rd Ix.ReleaseCount 1, s.now, s.epoch, s.tb, s.reset_.reach⟩

theorem State.sampled_wr {s : State} {i u : Nat} (hu : u < 256) (hi : i ≠ Ix.Straps ∧ i ≠ Ix.ClockSource ∧ i ≠ Ix.ReleaseCount) (v : Nat) :
    (s.wr i u v).sampled = s.sampled := by
  obtain ⟨hstraps, hclock, hreleases⟩ := hi
  have hrd : ∀ j k : Nat, k < 256 → i ≠ j → (s.wr i u v).rd j k = s.rd j k := fun j k hk hij => State.rd_wr_ne (ck_ne_index hk hu hij.symm)
  simp only [State.sampled, hrd Ix.Straps 0 (by decide) hstraps, hrd Ix.ClockSource 0 (by decide) hclock, hrd Ix.ReleaseCount 1 (by decide) hreleases]
  rfl

theorem State.sampled_raise (s : State) (code sub data : Nat) : (s.raise code sub data).sampled = s.sampled := by
  have hstand : ∀ i ∈ [Ix.Straps, Ix.ClockSource, Ix.ReleaseCount], ∀ u < 256, (s.raise code sub data).rd i u = s.rd i u := by
    intro i hi u hu
    refine State.rd_raise (ck_notMem_eventCounters hu ?_) code sub data
    revert i
    decide
  simp only [State.sampled, hstand Ix.Straps (by decide) 0 (by decide), hstand Ix.ClockSource (by decide) 0 (by decide),
    hstand Ix.ReleaseCount (by decide) 1 (by decide), State.raise_now, State.raise_epoch, State.raise_tb, State.raise_reset_]

/-- Steps in turn that keep what the sequence settles keep it. -/
theorem foldl_sampled {α : Type} {f : State → α → State} {l : List α} (hf : ∀ u, ∀ a ∈ l, (f u a).sampled = u.sampled) (s : State) :
    (l.foldl f s).sampled = s.sampled :=
  foldl_keeps (P := fun u => u.sampled = s.sampled) (fun u a ha hu => (hf u a ha).trans hu) rfl

theorem State.trimLoad_sampled (s : State) : s.trimLoad.sampled = s.sampled := by
  unfold State.trimLoad
  have hcrc : ∀ (x : CalSys) (v : Nat), (State.wr { s with cal := x } Ix.TrimCrc 0 v).sampled = s.sampled := fun _ v =>
    State.sampled_wr (by decide) (by decide) v
  dsimp only
  split
  · exact (State.sampled_wr (by decide) (by decide) _).trans (hcrc _ _)
  · exact (State.sampled_raise _ _ _ _).trans ((State.sampled_wr (by decide) (by decide) _).trans (hcrc _ _))

theorem State.driveClear_sampled (s : State) : s.driveClear.sampled = s.sampled := by
  refine foldl_sampled (fun u n hn => ?_) s
  have h144 : n < 144 := List.mem_range.1 hn
  have hu : n + 1 < 256 := by omega
  have hstatus : ∀ (t : State) v, (t.wr Ix.BiasStatus (n + 1) v).sampled = t.sampled := fun t v => State.sampled_wr hu (by decide) v
  have hcode : ∀ (t : State) v, (t.wr Ix.BiasCodeNow (n + 1) v).sampled = t.sampled := fun t v => State.sampled_wr hu (by decide) v
  exact ite_ind (P := fun t : State => t.sampled = u.sampled) rfl
    (ite_ind (P := fun t : State => t.sampled = u.sampled) (hstatus _ _) ((hstatus _ _).trans (hcode _ _)))

theorem State.biasProfile_sampled (s : State) : s.biasProfile.sampled = s.sampled := by
  unfold State.biasProfile
  extract_lets t
  have hprofile : t.sampled = s.sampled := by
    refine foldl_sampled (fun u n hn => ?_) s
    have h144 : n < 144 := List.mem_range.1 hn
    have hkeeps : ∀ i ∈ [Ix.BiasRange, Ix.BiasRangeNow, Ix.BiasClearCode, Ix.BiasCode, Ix.BiasCodeNow, Ix.BiasStatus], ∀ (t : State) v,
        (t.wr i (n + 1) v).sampled = t.sampled := fun i hi t v => State.sampled_wr (by omega) (by revert i; decide) v
    simp only [hkeeps Ix.BiasRange (by decide), hkeeps Ix.BiasRangeNow (by decide), hkeeps Ix.BiasClearCode (by decide),
      hkeeps Ix.BiasCode (by decide), hkeeps Ix.BiasCodeNow (by decide), hkeeps Ix.BiasStatus (by decide)]
  exact ite_ind (P := fun t : State => t.sampled = s.sampled) hprofile ((State.driveClear_sampled _).trans hprofile)

theorem State.loadProfile_sampled (s : State) : s.loadProfile.sampled = s.sampled := by
  have henable : ∀ (t : State) (x : Nat → Nat), t.sampled = s.sampled →
      ([0, 1].foldl (fun u p => u.wr Ix.LinkEnable (p + 1) (x p)) t).sampled = s.sampled := fun t x ht =>
    (State.sampled_wr (by decide) (by decide) _).trans ((State.sampled_wr (by decide) (by decide) _).trans ht)
  unfold State.loadProfile
  exact ite_ind (P := fun t : State => t.sampled = s.sampled) ((State.sampled_raise _ _ _ _).trans (henable _ _ rfl)) (henable _ _ rfl)

theorem State.showFuses_sampled (s : State) : s.showFuses.sampled = s.sampled := by
  have hkeeps : ∀ i ∈ [Ix.DeviceGrade, Ix.DeviceIdentity, Ix.RemoteSensorType, Ix.TempWarn, Ix.TempThrottle, Ix.TempShutdown, Ix.CalStoreAutoApply,
      Ix.KeySlotState], ∀ u < 256, ∀ (t : State) v, (t.wr i u v).sampled = t.sampled := fun i hi u hu t v =>
    State.sampled_wr hu (by revert i; decide) v
  unfold State.showFuses
  extract_lets t₁ t₂ t₃ t₄ t₅
  have h₁ : t₁.sampled = s.sampled := (hkeeps _ (by decide) 0 (by decide) _ _).trans (hkeeps _ (by decide) 0 (by decide) _ _)
  have h₂ : t₂.sampled = t₁.sampled := ite_ind (P := fun t : State => t.sampled = t₁.sampled) rfl rfl
  have h₃ : t₃.sampled = t₂.sampled := foldl_sampled (fun u n hn => hkeeps _ (by decide) _ (by have := List.mem_range.1 hn; omega) _ _) t₂
  have h₄ : t₄.sampled = t₃.sampled := by
    show State.sampled (match t₃.fuse.tempWarn with | some l => _ | none => _) = _
    split
    · exact foldl_sampled (fun u n hn => hkeeps _ (by decide) _ (by have := List.mem_range.1 hn; omega) _ _) t₃
    · rfl
  have h₅ : t₅.sampled = t₄.sampled := ite_ind (P := fun t : State => t.sampled = t₄.sampled)
    (foldl_sampled (fun u n hn => by
      have hn8 : n < 8 := List.mem_range.1 hn
      have hu : n + 17 < 256 := by omega
      simp only [hkeeps Ix.TempWarn (by decide) _ hu, hkeeps Ix.TempThrottle (by decide) _ hu, hkeeps Ix.TempShutdown (by decide) _ hu]) t₄) rfl
  have hshown : ∀ u : State, u.showKeys.sampled = u.sampled := fun u => foldl_sampled (fun v k hk =>
    hkeeps _ (by decide) _ (by revert k; decide) _ _) u
  exact (hshown _).trans ((hkeeps _ (by decide) 0 (by decide) _ _).trans (h₅.trans (h₄.trans (h₃.trans (h₂.trans h₁)))))

theorem State.setSpare_sampled (s : State) {m : Nat} (hm : m < 48) (b : Bool) : (s.setSpare m b).sampled = s.sampled := by
  have hmask : ∀ v, (s.wr Ix.MasonSpareMask 0 v).sampled = s.sampled := State.sampled_wr (by decide) (by decide)
  have hshown : ∀ (t : State) v, (t.wr Ix.MasonState (m + 1) v).sampled = t.sampled := fun t => State.sampled_wr (by omega) (by decide)
  exact ite_ind (P := fun t : State => t.sampled = s.sampled) (hmask _) ((hshown _ _).trans (hmask _))

theorem State.lt_of_mem_freeCores {s : State} {m : Nat} (h : m ∈ s.freeCores) : m < 48 :=
  List.mem_range.1 (List.mem_reverse.1 (List.mem_of_mem_filter h))

theorem State.designateSpares_sampled (s : State) : s.designateSpares.sampled = s.sampled := by
  have hspares : ∀ (p : Nat → Bool) (n : Nat) (b : Bool), (((s.freeCores.filter p).take n).foldl (fun t m => t.setSpare m b) s).sampled = s.sampled :=
    fun p n b => foldl_sampled (fun u m hm =>
      u.setSpare_sampled (State.lt_of_mem_freeCores (List.mem_of_mem_filter (List.mem_of_mem_take hm))) b) s
  exact ite_ind (P := fun t : State => t.sampled = s.sampled) (hspares _ _ _) (hspares _ _ _)

theorem State.wakeFor_sampled (s : State) {d : Nat} (hd : d < 12) : (s.wakeFor d).sampled = s.sampled := by
  have hstate : ∀ v, (s.wr Ix.DomainState (d + 1) v).sampled = s.sampled := State.sampled_wr (by omega) (by decide)
  have hcount : ∀ (t : State) v, (t.wr Ix.DomainWakeCount (d + 1) v).sampled = t.sampled := fun t => State.sampled_wr (by omega) (by decide)
  exact ite_ind (P := fun t : State => t.sampled = s.sampled) ((hcount _ _).trans (hstate _)) rfl

theorem State.sampled_bump_releases (s : State) :
    (s.bump Ix.ReleaseCount 1).sampled = { s.sampled with releases := (s.rd Ix.ReleaseCount 1 + 1) % 2 ^ 32 } := by
  have hrd : ∀ i ∈ [Ix.Straps, Ix.ClockSource], (s.bump Ix.ReleaseCount 1).rd i 0 = s.rd i 0 := fun i hi =>
    State.rd_bump_ne (ck_ne_index (by decide) (by decide) (by revert i; decide))
  simp only [State.sampled, State.rd_bump_same, hrd Ix.Straps (by decide), hrd Ix.ClockSource (by decide)]
  rfl

/-- The boot of a cold reset counts the release, starts the time base at E[0:0.0.0], and sets `BootState` by the BOOT strap (R376, R387, R388). -/
theorem State.startBoot_cold {s : State} (hcold : s.reset_.reach = 1) (hboot : bitsOf (s.rd Ix.Straps 0) 6 4 < 4) :
    s.startBoot.sampled = { s.sampled with releases := (s.rd Ix.ReleaseCount 1 + 1) % 2 ^ 32, epoch := 0, tb := { running := true, tickAt := s.now } }
      ∧ s.startBoot.rd Ix.BootState 0 = if bitsOf (s.rd Ix.Straps 0) 6 4 = 1 ∨ bitsOf (s.rd Ix.Straps 0) 6 4 = 2 then 3 else 1 := by
  unfold State.startBoot
  extract_lets a cold b power c d e boot record f
  have ha : a.sampled = s.sampled :=
    (State.showFuses_sampled _).trans ((State.loadProfile_sampled _).trans (State.biasProfile_sampled s))
  clear_value a
  have hcold' : cold = true := beq_iff_eq.2 ((congrArg Sampled.reach ha).trans hcold)
  have hcount : a.rd Ix.ReleaseCount 1 = s.rd Ix.ReleaseCount 1 := congrArg Sampled.releases ha
  have hb : b.sampled = { s.sampled with releases := (s.rd Ix.ReleaseCount 1 + 1) % 2 ^ 32 } := by
    rw [← ha, ← hcount, ← State.sampled_bump_releases]
    simp only [b, hcold', if_true]
  have hnow : a.now = s.now := congrArg Sampled.now ha
  have hc : c.sampled = { b.sampled with epoch := 0, tb := { running := true, tickAt := s.now } } := by rw [← hnow]; rfl
  clear_value c
  have hd : d.sampled = c.sampled := State.designateSpares_sampled c
  have hdomain : ∀ k ∈ [1, 2, 5, 6, 7], k < 12 := by decide
  have he : e.sampled = d.sampled :=
    foldl_sampled (fun u k hk => ite_ind (P := fun t : State => t.sampled = u.sampled) rfl (u.wakeFor_sampled (hdomain k hk))) d
  clear_value e
  have hf : f.sampled = e.sampled := rfl
  have hall : f.sampled =
      { s.sampled with releases := (s.rd Ix.ReleaseCount 1 + 1) % 2 ^ 32, epoch := 0, tb := { running := true, tickAt := s.now } } := by
    rw [hf, he, hd, hc, hb]
  have hbits : boot = bitsOf (s.rd Ix.Straps 0) 6 4 :=
    congrArg (bitsOf · 6 4) ((congrArg Sampled.straps hf).symm.trans (congrArg Sampled.straps hall))
  clear_value f boot
  rw [hbits, if_neg (by omega)]
  exact ⟨(State.sampled_wr (by decide) (by decide) _).trans hall, State.rd_wr_same _ _ _ _⟩

/-- The state in which the straps are sampled and the clock that they select is taken. -/
def State.strapped (s : State) (straps : Nat) : State :=
  let t := { s with reset_ := { s.reset_ with straps := straps % 128 } }
  (t.wr Ix.Straps 0 (straps % 128)).wr Ix.ClockSource 0 (if bitsOf straps 3 2 = 3 then 1 else 0)

/-- The state in which the trims are loaded. -/
def State.trimmed (s : State) : State :=
  let t := s.trimLoad
  { t with reset_ := { t.reset_ with loadAt := some t.now } }

theorem State.releaseSequence_eq {s : State} (hl : s.therm.latched = false) (hcold : s.reset_.reach = 1) (straps : Nat) :
    s.releaseSequence straps = (s.strapped straps).trimmed.startBoot := by
  have hreach : (s.strapped straps).reset_.reach = 1 ∨ (s.strapped straps).rd Ix.TrimValid 0 = 0 := .inl hcold
  exact (if_neg (ne_true_of_eq_false hl)).trans (if_pos hreach)

theorem State.strapped_sampled (s : State) {straps : Nat} (h : straps < 128) :
    (s.strapped straps).sampled = { s.sampled with straps := straps, clock := if bitsOf straps 3 2 = 3 then 1 else 0 } := by
  have hne : ck Ix.Straps 0 ≠ ck Ix.ClockSource 0 := by decide
  have hclock : ck Ix.ReleaseCount 1 ≠ ck Ix.ClockSource 0 := by decide
  have hstraps : ck Ix.ReleaseCount 1 ≠ ck Ix.Straps 0 := by decide
  simp only [State.sampled, State.strapped, State.rd_wr_same, State.rd_wr_ne hne, State.rd_wr_ne hclock, State.rd_wr_ne hstraps, Nat.mod_eq_of_lt h]
  rfl

/-- The release sequence of a cold reset samples the straps, picks the clock, loads the trims and starts the boot (R376). -/
theorem State.releaseSequence_cold {s : State} (hl : s.therm.latched = false) (hcold : s.reset_.reach = 1) {straps : Nat} (h128 : straps < 128)
    (h4 : bitsOf straps 6 4 < 4) :
    (s.releaseSequence straps).sampled =
        ⟨straps, if bitsOf straps 3 2 = 3 then 1 else 0, (s.rd Ix.ReleaseCount 1 + 1) % 2 ^ 32, s.now, 0, { running := true, tickAt := s.now }, 1⟩
      ∧ (s.releaseSequence straps).rd Ix.BootState 0 = if bitsOf straps 6 4 = 1 ∨ bitsOf straps 6 4 = 2 then 3 else 1 := by
  rw [State.releaseSequence_eq hl hcold]
  have ht : (s.strapped straps).trimmed.sampled = _ := (State.trimLoad_sampled _).trans (s.strapped_sampled h128)
  generalize (s.strapped straps).trimmed = t at ht ⊢
  have hreach : t.reset_.reach = 1 := (congrArg Sampled.reach ht).trans hcold
  have hstraps : t.rd Ix.Straps 0 = straps := congrArg Sampled.straps ht
  have hcount : t.rd Ix.ReleaseCount 1 = s.rd Ix.ReleaseCount 1 := congrArg Sampled.releases ht
  have hnow : t.now = s.now := congrArg Sampled.now ht
  obtain ⟨hsampled, hboot⟩ := State.startBoot_cold hreach (hstraps.symm ▸ h4)
  rw [hstraps] at hboot
  rw [ht, hcount, hnow] at hsampled
  refine ⟨hsampled.trans ?_, hboot⟩
  rw [← hcold]
  rfl

/-- Settles O53: the release sequence runs at the last source, and what a cold reset samples and counts stands until the boot. -/
theorem theReleaseBeginsTheBoot : Obligations.TheReleaseBeginsTheBoot := by
  unfold Obligations.TheReleaseBeginsTheBoot
  refine ⟨fun s since straps h => exec_rstNHigh h straps,
    fun s since bit straps h h9 h5 hover => congrArg (fun t : State => Host.Outcome.next t) (State.sourceRelease_last h h9 h5 hover straps),
    fun s a b straps h => exec_rstNHigh_other h straps, ?_, ?_, ?_, ?_, ?_⟩
  · rintro s m w rfl hfree
    have hwrite := State.writeScalar_resetRequest hfree
    exact ⟨fun ho => congrArg Host.Outcome.next (ho.runStanding rfl hwrite.1 rfl rfl rfl),
      fun ho => congrArg Host.Outcome.next (ho.runStanding rfl hwrite.2 rfl rfl rfl)⟩
  · rintro s m w rfl ho
    exact congrArg Host.Outcome.next (ho.runSame rfl (State.writeScalar_resetCauseClear _) rfl rfl)
  · rintro s m t w d rfl ho h3 h11 rfl
    rw [← State.met_now s w.port]
    exact congrArg Host.Outcome.next (ho.domainReset h3 h11)
  · rintro s t d hd hfree hon rfl
    exact congrArg (fun t : State => Host.Outcome.next t.goOn) (State.domainResetDone_serves hd hfree hon)
  · rintro s t straps hl hcold h128 h4 rfl
    obtain ⟨hsampled, hboot⟩ := State.releaseSequence_cold hl hcold h128 h4
    exact ⟨congrArg Sampled.straps hsampled, congrArg Sampled.clock hsampled, congrArg Sampled.epoch hsampled,
      congrArg (fun r : Sampled => r.tb.running) hsampled, congrArg (fun r : Sampled => r.tb.tickAt) hsampled,
      congrArg Sampled.releases hsampled, hboot⟩

end Sys2Proof.Machine
end
section
/-! # Boot images are verified (17_reset_boot_identity.md; R386, R387, R388) -/
namespace Sys2Proof.Machine

/-! What the ECC of the memories counts as it is met (R332, R333): the counters of the regions, and those of the log and of the slow path. -/

section
variable {β : Type} {g : State → β} (hm : ∀ s a, g { s with mem := a } = g s)
  (hb : ∀ (s : State), ∀ i ∈ [Ix.EccCorrected, Ix.EccUncorrectable, Ix.EccLogOverflow, Ix.SlowPathReads], ∀ u < 256, g (s.bump i u) = g s)
  (hr : ∀ s code sub data, g (State.raise s code sub data) = g s)

theorem regionOf_lt {a r : Nat} (h : regionOf a = some r) : r < 256 := by
  grind [regionOf]

include hm hb

theorem State.logEcc_stands (s : State) (addr region syndrome kind : Nat) : g (s.logEcc addr region syndrome kind) = g s := by
  unfold State.logEcc
  split
  · exact hm _ _
  · dsimp only
    split
    · exact hm _ _
    · split
      · exact hm _ _
      · exact hb _ _ (by decide) 0 (by decide)

include hr

theorem State.countCorrected_stands (s : State) (addr : Nat) {region : Nat} (h : region < 256) (syndrome kind : Nat) :
    g (s.countCorrected addr region syndrome kind) = g s :=
  (State.reportCorrected_same hm hr _ _).trans ((State.logEcc_stands hm hb _ _ _ _ _).trans ((hm _ _).trans (hb _ _ (by decide) _ h)))

theorem State.countUncorrectable_stands (s : State) (addr : Nat) {region : Nat} (h : region < 256) (syndrome : Nat) :
    g (s.countUncorrectable addr region syndrome) = g s :=
  (hr _ _ _ _).trans ((State.logEcc_stands hm hb _ _ _ _ _).trans (hb _ _ (by decide) _ h))

theorem State.meetUpset_stands (s : State) (a : Nat) : g (s.meetUpset a) = g s := by
  unfold State.meetUpset
  split
  · next u r _ hregion =>
    have hlt := regionOf_lt hregion
    split
    · exact (State.countCorrected_stands hm hb hr _ _ hlt _ _).trans (hm _ _)
    · split
      · rfl
      · exact (State.countUncorrectable_stands hm hb hr _ _ hlt _).trans ((hm _ _).trans (hm _ _))
  · rfl

theorem State.decodePage_stands (s : State) (page : Nat) : g (s.decodePage page) = g s := by
  have hone : (1 : Nat) < 256 := by decide
  unfold State.decodePage
  dsimp only
  split
  · exact (hb _ _ (by decide) 0 (by decide)).trans
      ((foldl_same (fun t (u : Upset) => State.countCorrected_stands hm hb hr t u.addr hone u.syndrome (if u.light then 1 else 2)) _ _).trans
        (hm _ _))
  · exact foldl_same (fun t (u : Upset) => ite_ind (P := fun v : State => g v = g t) rfl
      ((State.countUncorrectable_stands hm hb hr _ _ hone _).trans ((hm _ _).trans (hm _ _)))) _ _

/-- What neither the memories, the counters of ECC nor the events enter into stands as a range is read. -/
theorem State.settle_stands (s : State) (a n : Nat) : g (s.settle a n) = g s :=
  foldl_same (fun t (u : Upset) => ite_ind (P := fun v : State => g v = g t) (State.decodePage_stands hm hb hr t (u.addr / 2048))
    (State.meetUpset_stands hm hb hr t u.addr)) _ s

end

/-! The image that is read (R386, R387) -/

section
variable {β : Type} {g : State → β} (hw : ∀ (s : State), ∀ i ∈ [Ix.BootState, Ix.BootSource, Ix.BootImageVersion, Ix.KeySlotState], ∀ u < 256, ∀ v,
    g (s.wr i u v) = g s) (hx : ∀ s x, g { s with reset_ := x } = g s) (hd : ∀ (s : State) index sub v, g (s.setDom index sub v) = g s)
include hw hx hd

theorem State.acceptImage_stands (s : State) (l : List Byte) (source : Nat) : g (s.acceptImage l source) = g s := by
  have hslot : ∀ k ∈ [0, 1, 2, 3], k + 1 < 256 := by decide
  have hshown : ∀ u : State, g u.showKeys = g u := fun u =>
    foldl_keeps (P := fun v : State => g v = g u) (fun v k hk hv => (hw v _ (by decide) _ (hslot k hk) _).trans hv) rfl
  exact (hshown _).trans ((hd _ _ _ _).trans ((hw _ _ (by decide) 0 (by decide) _).trans ((hw _ _ (by decide) 0 (by decide) _).trans
    ((hw _ _ (by decide) 0 (by decide) _).trans (hx _ _)))))

end

theorem State.setDom_rd (s : State) (index sub : Nat) (v : List Byte) (i u : Nat) : (s.setDom index sub v).rd i u = s.rd i u :=
  ite_ind (P := fun t : State => t.rd i u = s.rd i u) rfl rfl

/-- While ARCH does not serve the boot waits. -/
theorem State.bootContinue_waits {s : State} (h : s.domainOn 5 = false) : s.bootContinue = s := by
  rw [State.bootContinue, h]
  simp

theorem State.acceptImage_domainOn (s : State) (l : List Byte) (source : Nat) {d : Nat} (hd : d < 12) :
    (s.acceptImage l source).domainOn d = s.domainOn d :=
  State.acceptImage_stands (g := fun t : State => t.domainOn d)
    (fun t i hi u hu v => congrArg (· == 2) (State.rd_wr_ne (ck_ne_index (by omega) hu (by revert i; decide)))) (fun _ _ => rfl)
    (fun t index sub v => congrArg (· == 2) (t.setDom_rd index sub v _ _)) s l source

theorem State.raise_domainOn (s : State) (code sub data : Nat) {d : Nat} (hd : d < 12) : (s.raise code sub data).domainOn d = s.domainOn d :=
  congrArg (· == 2) (State.rd_raise (ck_notMem_eventCounters (by omega) (by decide)) code sub data)

theorem State.settle_domainOn (s : State) (a n : Nat) {d : Nat} (hd : d < 12) : (s.settle a n).domainOn d = s.domainOn d :=
  State.settle_stands (g := fun t : State => t.domainOn d) (fun _ _ => rfl)
    (fun t i hi u hu => congrArg (· == 2) (State.rd_bump_ne (ck_ne_index (by omega) hu (by revert i; decide))))
    (fun t code sub data => t.raise_domainOn code sub data hd) s a n

theorem State.settle_reset (s : State) (a n : Nat) : (s.settle a n).reset_ = s.reset_ :=
  State.settle_stands (g := State.reset_) (fun _ _ => rfl) (fun _ _ _ _ _ => rfl) State.raise_reset_ s a n

theorem State.imageAt_primary {s : State} (h : s.reset_.tryingImage = 0) : s.imageAt = flashBase + 0x00100000 := by
  rw [State.imageAt, h]
  rfl

/-- The boot has read an image of a sound length, no word of which is poisoned (R386). -/
structure State.ReadsImage (s t : State) (a total : Nat) : Prop where
  free : s.inReset = false
  booting : s.reset_.bootDone = false
  state : s.rd Ix.BootState 0 = 1
  core : s.domainOn 2 = true
  place : s.imageAt = a
  primary : s.reset_.tryingImage = 0
  length : total = s.numAt (a + 12) 4
  least : 1024 ≤ total
  most : total ≤ 3670016
  met : t = s.settle a total
  clean : t.rangePoisoned a total = false

theorem State.ReadsImage.done {s t : State} {a total : Nat} (h : s.ReadsImage t a total) :
    (t.imageFault (t.bytesAt a total) = none → s.imageReadDone = t.acceptImage (t.bytesAt a total) 0)
      ∧ ∀ r, t.imageFault (t.bytesAt a total) = some r → s.imageReadDone = t.nextImage r := by
  obtain ⟨hfree, hbooting, hstate, hcore, hplace, hprimary, hlength, hleast, hmost, hmet, hclean⟩ := h
  have hread : s.imageReadDone = match t.imageFault (t.bytesAt a total) with
      | some r => t.nextImage r
      | none => t.acceptImage (t.bytesAt a total) 0 := by
    subst hmet
    simp only [State.imageReadDone, hfree, hbooting, hstate, hcore, hplace, hprimary, ← hlength, and_self, hleast, hmost, if_true, hclean]
    rfl
  exact ⟨fun hf => by rw [hread, hf], fun r hf => by rw [hread, hf]⟩

theorem State.nextImage_fallback {s : State} (h : s.reset_.tryingImage = 0) (reason : Nat) : s.nextImage reason =
    (let v := s.raise 0x6402 0 (packData [f8 0, f8 reason]); { v with reset_ := { v.reset_ with tryingImage := 1, bootReadAt := v.now } }) := by
  simp only [State.nextImage, h]
  rfl

/-- Where the fallback fails too the device halts (R387). -/
theorem State.nextImage_halts {s : State} (h : s.reset_.tryingImage = 1) (reason : Nat) :
    s.nextImage reason = (s.raise 0x6402 0 (packData [f8 1, f8 reason])).wr Ix.BootState 0 6 := by
  simp only [State.nextImage, h]
  rfl

end Sys2Proof.Machine
end
section
/-! # A downloaded boot image, and the settlement (17_reset_boot_identity.md; R387) -/
namespace Sys2Proof.Machine

/-! A request that arrives while the boot is not complete -/

/-- The only request that waits is performed where it may be. -/
theorem State.pump_one {m : State} {r : Request} (halone : m.host.stalled = []) (hnothing : m.host.performing = none)
    (hmay : State.mayPerform { m with host := { m.host with stalled := [r] } } r = true)
    (hn : (m.performOne r).host.stalled = []) (hq : (m.performOne r).host.performing = none) :
    State.pump { m with host := { m.host with stalled := m.host.stalled ++ [r] } } = m.performOne r := by
  have htake : State.takeRequest { m with host := { m.host with stalled := [r] } } = some (r, { m with host := { m.host with stalled := [] } }) := by
    simp [State.takeRequest, hmay]
  have hidle : ({ m with host := { m.host with stalled := [], performing := none } } : State) = m := State.emptied m halone hnothing
  have hperform : State.performOne { m with host := { m.host with stalled := [], performing := some r } } r = m.performOne r := by
    have hreset : State.performOne { m with host := { m.host with stalled := [], performing := some r } } r
        = State.performOne { m with host := { m.host with stalled := [], performing := none } } r := rfl
    rw [hreset, hidle]
  rw [halone]
  simp only [State.pump, List.nil_append, List.length_singleton]
  rw [State.pumpFuel_take 3 (by exact hnothing) htake, State.pumpFuel_perform 2 rfl (by rw [hperform]; exact hq), hperform]
  exact State.pumpFuel_idle _ _ hn hq

/-- A request of the device's own that arrives alone, and that performing answers, is answered. -/
theorem State.arrive_alone {s t : State} {r : Request} {a : Answer} (hs : s.serving = true) (hpos : r.pos = s.pos) (halone : s.host.stalled = [])
    (hnothing : s.host.performing = none) (htag : r.tag ∉ s.host.forwarded.map (·.request.tag)) (hresp : s.host.responses = [])
    (he : (s.noteMaster r.port).perform r = .answer a t) (hn : t.host.stalled = []) (hq : t.host.performing = none) :
    s.arrive r = t.respond (t.responseTo r 0 false a) := by
  have halone' : (s.noteMaster r.port).host.stalled = [] := (s.noteMaster_stalled r.port).trans halone
  have hnothing' : (s.noteMaster r.port).host.performing = none := (s.noteMaster_performing r.port).trans hnothing
  have hown : r.pos = (s.noteMaster r.port).pos := hpos.trans (s.noteMaster_pos r.port).symm
  have hfree : (s.noteMaster r.port).tagTaken r = false := by
    simp only [State.tagTaken, State.tagsInFlight, State.ownRequests, halone', hnothing', State.noteMaster_forwarded]
    simpa using fun _ => htag
  have hmay : ∀ l, State.mayPerform { s.noteMaster r.port with host := { (s.noteMaster r.port).host with stalled := l } } r = true := by
    intro l
    simp [State.mayPerform, State.responseSpace, hresp]
  have hidle : ({ s.noteMaster r.port with host := { (s.noteMaster r.port).host with performing := none } } : State) = s.noteMaster r.port := by
    have hempty := State.emptied (s.noteMaster r.port) halone' hnothing'
    rw [← hempty]
  have hperform : (s.noteMaster r.port).performOne r = t.respond (t.responseTo r 0 false a) := by
    rw [State.performOne, hidle, he]
  have hreach : (s.noteMaster r.port).reaches r = true := by simp [State.reaches, hown]
  unfold State.arrive
  simp only [hs, Bool.not_true, Bool.false_eq_true, if_false, hfree, hreach, and_false]
  rw [if_neg (by simp [hown]), ← hperform]
  refine State.pump_one halone' hnothing' (hmay _) ?_ ?_ <;> rw [hperform]
  · exact (t.respond_stalled _).trans hn
  · exact (t.respond_performing _).trans hq

/-- A record that needs no domain, written alone to a device that serves, is answered, whether or not the boot is complete. -/
theorem State.arrive_record {s t : State} {w : Caller} {index : Nat} {l : List Byte} {e : Entry} (hs : s.serving = true) (hpos : w.pos = s.pos)
    (halone : s.host.stalled = []) (hnothing : s.host.performing = none) (htag : w.tag ∉ s.host.forwarded.map (·.request.tag))
    (hresp : s.host.responses = []) (he : (s.met w.port).Records e index l) (hd : writeDomainCode index = none) (hj : index ≠ Ix.WeightJobSubmit)
    (hf : (s.met w.port).writeDomain index 0 w.port l = .ok t) (hx : t.transferOf index 0 = none) (hn : t.host.stalled = [])
    (hq : t.host.performing = none) : s.arrive (recordWrite w index l) = t.endedRecord w index l := by
  have hm : ({ s.noteMaster w.port with free := (s.noteMaster w.port).free + 1 } : State) = s.met w.port := State.met_eq s w.port
  have hother : ¬((recordWrite w index l).op = 4 ∧ (recordWrite w index l).index = Ix.WeightJobSubmit) := fun h => hj h.2
  have hact : ((s.met w.port).writeDomain index 0 w.port l).map (fun u => u.cleared (recordWrite w index l)) = .ok t := by
    rw [hf]
    exact congrArg Except.ok (State.cleared_none hx)
  have hp : (s.noteMaster w.port).perform (recordWrite w index l) = .answer { epoch := epochEntry t.epoch } t := by
    rw [State.perform_record (e := e) (by rw [hm]; exact he), hm, hd, State.acting_ok hact]
    simp only [State.done, State.jobTarget, if_neg hother]
  exact State.arrive_alone hs hpos halone hnothing htag hresp hp hn hq

theorem State.respond_domainOn (s : State) (x : Response) (d : Nat) (hd : d < 12) : (s.respond x).domainOn d = s.domainOn d := by
  have hcount : (s.bump Ix.CatRequestCount 0).rd Ix.DomainState (d + 1) = s.rd Ix.DomainState (d + 1) :=
    State.rd_bump_ne (ck_ne_index (by omega) (by decide) (by decide))
  exact congrArg (· == 2) (ite_ind (P := fun t : State => t.rd Ix.DomainState (d + 1) = s.rd Ix.DomainState (d + 1)) hcount hcount)

theorem State.acceptImage_host (s : State) (l : List Byte) (source : Nat) :
    (s.acceptImage l source).host.stalled = s.host.stalled ∧ (s.acceptImage l source).host.performing = s.host.performing
      ∧ (s.acceptImage l source).host.transfers = s.host.transfers := by
  have hstand := State.acceptImage_stands (g := fun t : State => (t.host.stalled, t.host.performing, t.host.transfers)) (fun _ _ _ _ _ _ => rfl)
    (fun _ _ => rfl) (fun t index sub v => ite_ind (P := fun u : State => (u.host.stalled, u.host.performing, u.host.transfers) = _) rfl rfl)
    s l source
  simpa only [Prod.mk.injEq] using hstand

theorem State.writeDomain_bootImageLoad (m : State) (port : Nat) (l : List Byte) :
    m.writeDomain Ix.BootImageLoad 0 port l = m.bootImageLoad l port := by
  simp only [State.writeDomain, Ix.BootImageLoad]

theorem State.bootImageLoad_verifies {m : State} {l : List Byte} (h : m.imageFault l = none) (port : Nat) :
    m.bootImageLoad l port = .ok (m.acceptImage l (2 + port)) := by
  unfold State.bootImageLoad
  generalize m.imageFault l = fault at h
  subst h
  dsimp only

/-- A download that verifies is accepted, with its port as the source, and answered (R387). -/
theorem State.take_bootImageLoad {s : State} {w : Caller} {l : List Byte} {e : Entry} (hs : s.serving = true) (hpos : w.pos = s.pos)
    (halone : s.host.stalled = []) (hnothing : s.host.performing = none) (htag : w.tag ∉ s.host.forwarded.map (·.request.tag))
    (hresp : s.host.responses = []) (he : (s.met w.port).Records e Ix.BootImageLoad l) (harch : (s.met w.port).domainOn 5 = false)
    (hf : (s.met w.port).imageFault l = none) :
    s.take (recordWrite w Ix.BootImageLoad l) = ((s.met w.port).acceptImage l (2 + w.port)).endedRecord w Ix.BootImageLoad l := by
  obtain ⟨hstalled, hperforming, htransfers⟩ := State.acceptImage_host (s.met w.port) l (2 + w.port)
  have hwrite := (State.writeDomain_bootImageLoad (s.met w.port) w.port l).trans (State.bootImageLoad_verifies hf w.port)
  have hon := State.acceptImage_domainOn (s.met w.port) l (2 + w.port) (show 5 < 12 by decide)
  have hmet : (s.met w.port).transferOf Ix.BootImageLoad 0 = none := he.none
  generalize (s.met w.port).acceptImage l (2 + w.port) = t at *
  have hnone : t.transferOf Ix.BootImageLoad 0 = none := by
    rw [State.transferOf] at hmet ⊢
    rw [htransfers, hmet]
  have harrive : s.arrive (recordWrite w Ix.BootImageLoad l) = t.endedRecord w Ix.BootImageLoad l :=
    State.arrive_record hs hpos halone hnothing htag hresp he rfl (by decide) hwrite hnone (hstalled.trans ((s.met_stalled w.port).trans halone))
      (hperforming.trans ((s.met_performing w.port).trans hnothing))
  rw [State.take, harrive]
  exact State.bootContinue_waits ((State.respond_domainOn t _ 5 (by decide)).trans (hon.trans harch))

/-- Where no image is accepted nothing follows. -/
theorem State.bootContinue_halted (s : State) : (s.wr Ix.BootState 0 6).bootContinue = s.wr Ix.BootState 0 6 := by
  rw [State.bootContinue, State.rd_wr_same]
  simp

/-- Settles O54: an image that verifies is accepted, a fault of the primary leads to the fallback and one of the fallback to the halt. -/
theorem bootImagesAreVerified : Obligations.BootImagesAreVerified := by
  unfold Obligations.BootImagesAreVerified
  refine ⟨?_, ?_, ?_⟩
  · intro s t l total hfree hbooting hstate hcore harch hprimary hlength hleast hmost hmet hclean hl
    have hread : s.ReadsImage t (flashBase + 0x00100000) total :=
      ⟨hfree, hbooting, hstate, hcore, State.imageAt_primary hprimary, hprimary, hlength, hleast, hmost, hmet, hclean⟩
    have hdone := hread.done
    rw [← hl] at hdone
    obtain ⟨haccept, hnext⟩ := hdone
    have hwaits : t.domainOn 5 = false := by rw [hmet, State.settle_domainOn _ _ _ (by decide), harch]
    have hfirst : t.reset_.tryingImage = 0 := by rw [hmet, State.settle_reset, hprimary]
    refine ⟨_, rfl, fun hf => ?_, fun r hf => ?_⟩
    · rw [haccept hf]
      exact State.bootContinue_waits ((State.acceptImage_domainOn _ _ _ (by decide)).trans hwaits)
    · rw [hnext r hf, State.nextImage_fallback hfirst]
      exact State.bootContinue_waits ((State.raise_domainOn t _ _ _ (by decide)).trans hwaits)
  · intro s hfree hbooting hstate hfallback hover
    have hdue : s.bootReadTimeout = (s.raise 0x6402 0 (packData [f8 1, f8 4])).wr Ix.BootState 0 6 := by
      rw [← State.nextImage_halts hfallback]
      simp only [State.bootReadTimeout, hfree, hbooting, hstate, hfallback, State.elapsed_of_le hover]
      rfl
    exact congrArg Host.Outcome.next ((congrArg State.bootContinue hdue).trans (State.bootContinue_halted _))
  · rintro s m w l e rfl hs - hpos halone hnothing htag hresp he harch
    exact ⟨_, rfl, fun hf => State.take_bootImageLoad hs hpos halone hnothing htag hresp he harch hf⟩

end Sys2Proof.Machine
end
section
/-! # What the loss of the reference leaves as it stands (16_power.md; R364, R365)

On the loss a long row of units is reset. None of it changes the mode or the source of the time base, and none brings up a port that is OFF. -/
namespace Sys2Proof.Machine

/-- The second state has the mode and the time source of the first, and the ports that are OFF there are OFF. -/
structure State.Rests (s t : State) : Prop where
  mode : t.rd Ix.ModeCurrent 0 = s.rd Ix.ModeCurrent 0
  source : t.rd Ix.TimeSource 0 = s.rd Ix.TimeSource 0
  off : ∀ p < 2, s.linkState p = 0 → t.linkState p = 0

theorem State.Rests.refl (s : State) : s.Rests s := ⟨rfl, rfl, fun _ _ h => h⟩

section
variable {s t : State} (h : s.Rests t)
include h

theorem State.Rests.trans {u : State} (k : t.Rests u) : s.Rests u :=
  ⟨k.mode.trans h.mode, k.source.trans h.source, fun p hp ho => k.off p hp (h.off p hp ho)⟩

/-- What leaves the three entries as they stand. -/
theorem State.Rests.same {u : State} (hmode : u.rd Ix.ModeCurrent 0 = t.rd Ix.ModeCurrent 0) (hsource : u.rd Ix.TimeSource 0 = t.rd Ix.TimeSource 0)
    (hlink : ∀ p < 2, u.rd Ix.LinkState (p + 1) = t.rd Ix.LinkState (p + 1)) : s.Rests u :=
  h.trans ⟨hmode, hsource, fun p hp ho => (hlink p hp).trans ho⟩

theorem State.Rests.sameCat {u : State} (hc : u.cat = t.cat) : s.Rests u := by
  have hrd : ∀ i v, u.rd i v = t.rd i v := fun i v => by rw [State.rd, State.rd, hc]
  exact h.same (hrd _ _) (hrd _ _) fun p _ => hrd _ _

theorem State.Rests.wr (i : Nat) {u : Nat} (v : Nat) (hu : u < 256) (hi : i ≠ Ix.ModeCurrent ∧ i ≠ Ix.TimeSource ∧ i ≠ Ix.LinkState) :
    s.Rests (t.wr i u v) := by
  obtain ⟨hmode, hsource, hlink⟩ := hi
  exact h.same (State.rd_wr_ne (ck_ne_index (by decide) hu hmode.symm)) (State.rd_wr_ne (ck_ne_index (by decide) hu hsource.symm))
    fun p hp => State.rd_wr_ne (ck_ne_index (by omega) hu hlink.symm)

theorem State.Rests.raise (code sub data : Nat) : s.Rests (t.raise code sub data) := by
  have hrd : ∀ i u, u < 256 → i ≠ Ix.EventsLost ∧ i ≠ Ix.FaultLogOverwrites → (t.raise code sub data).rd i u = t.rd i u := fun i u hu hi =>
    State.rd_raise (ck_notMem_eventCounters hu hi) code sub data
  exact h.same (hrd _ _ (by decide) (by decide)) (hrd _ _ (by decide) (by decide)) fun p hp => hrd _ _ (by omega) (by decide)

theorem State.Rests.foldl {α : Type} {f : State → α → State} {l : List α} (hf : ∀ u, ∀ a ∈ l, s.Rests u → s.Rests (f u a)) : s.Rests (l.foldl f t) :=
  foldl_keeps hf h

theorem State.Rests.ite {c : Prop} [Decidable c] {a : State} (ha : s.Rests a) : s.Rests (if c then a else t) := ite_ind ha h

/-- Zero written into a later entry, at whatever subindex: a port that is OFF stays so. -/
theorem State.Rests.wrZero (i u : Nat) (hi : Ix.TimeSource < i) : s.Rests (t.wr i u 0) := by
  have hmode : ck Ix.ModeCurrent 0 ≠ ck i u := by unfold ck; simp only [Ix.TimeSource, Ix.ModeCurrent] at *; omega
  have hsource : ck Ix.TimeSource 0 ≠ ck i u := by unfold ck; simp only [Ix.TimeSource] at *; omega
  refine h.trans ⟨State.rd_wr_ne hmode, State.rd_wr_ne hsource, fun p hp ho => ?_⟩
  by_cases hk : ck Ix.LinkState (p + 1) = ck i u
  · have hdefault : ∀ q < 2, entryDefault Ix.LinkState (q + 1) = 0 := by decide
    show tget (entryDefault Ix.LinkState (p + 1)) (ck Ix.LinkState (p + 1)) (tput (entryDefault i u) (ck i u) 0 t.cat) = 0
    rw [hdefault p hp, hk]
    unfold tput
    split
    · exact tget_tdel_same _ _ _
    · exact tget_tadd_same _ _ _ _
  · exact (State.rd_wr_ne hk).trans ho

end

/-! Ports -/

theorem State.linkState_enterPort (s : State) (p st : Nat) : (s.enterPort p st).linkState p = st := State.rd_wr_same s Ix.LinkState (p + 1) st

theorem State.linkState_portToOff (s : State) (p reason : Nat) : (s.portToOff p reason).linkState p = 0 := by
  unfold State.portToOff
  extract_lets t
  split
  · next h => exact h
  · exact State.linkState_enterPort _ p 0

section
variable {β : Type} {g : State → β} {p : Nat} (hl : ∀ s x, g { s with link := x } = g s)
  (hw : ∀ (s : State), ∀ i ∈ [Ix.LinkDownCount, Ix.LinkDownReason, Ix.LinkLastDown, Ix.LinkState], ∀ v, g (s.wr i (p + 1) v) = g s)
  (hn : ∀ s v, g (State.wr s Ix.LinkArraySize 0 v) = g s) (hk : ∀ (s : State), ∀ k < 9, ∀ v, g (s.wr Ix.LaneState (laneIx p k) v) = g s)
  (hr : ∀ s code sub data, g (State.raise s code sub data) = g s)

include hl hk in
theorem State.clearLanes_same (s : State) : g (s.clearLanes p) = g s := by
  have hlane : ∀ u : State, ∀ k ∈ allLanes, g u = g s → g (u.wr Ix.LaneState (laneIx p k) 0) = g s := fun u k hm hu =>
    (hk u k (List.mem_range.1 hm) 0).trans hu
  unfold State.clearLanes
  exact foldl_keeps hlane (hl _ _)

include hl hw in
theorem State.enterPort_same (s : State) (st : Nat) : g (s.enterPort p st) = g s := (hl _ _).trans (hw _ _ (by decide) _)

include hl hw hn hk hr

/-- What neither a port's own entries, its lanes, the size of the array nor the events enter into stands as the port goes down (R295). -/
theorem State.portDown_same (s : State) (reason : Nat) : g (s.portDown p reason) = g s := by
  have hback : g (s.portBack p) = g s := (State.enterPort_same hl hw _ _).trans (State.clearLanes_same hl hk s)
  unfold State.portDown
  extract_lets a ready b c d
  have hd : g d = g s :=
    (hr _ _ _ _).trans ((hw _ _ (by decide) _).trans ((hw _ _ (by decide) _).trans ((hw _ _ (by decide) _).trans ((hl _ _).trans hback))))
  refine ite_ind (P := fun u : State => g u = g s) (ite_ind (P := fun u : State => g u = g s) ?_ hd) rfl
  exact (State.chainNorth_same hr hn (fun _ _ => hl _ _) _).trans ((hl _ _).trans hd)

theorem State.portToOff_same (s : State) (reason : Nat) : g (s.portToOff p reason) = g s := by
  have hdown := State.portDown_same hl hw hn hk hr s reason
  exact ite_ind (P := fun u : State => g u = g s) hdown
    ((State.enterPort_same hl hw _ _).trans ((State.clearLanes_same hl hk _).trans hdown))

end

/-- An entry that is none of a port's stands as the port is taken to OFF. -/
theorem State.rd_portToOff (s : State) {p i u : Nat} (hp : p < 2) (reason : Nat) (hu : u < 256)
    (hi : i ∉ [Ix.LinkDownCount, Ix.LinkDownReason, Ix.LinkLastDown, Ix.LinkArraySize, Ix.LaneState, Ix.EventsLost, Ix.FaultLogOverwrites])
    (hs : ck i u ≠ ck Ix.LinkState (p + 1)) : (s.portToOff p reason).rd i u = s.rd i u := by
  simp only [List.mem_cons, List.not_mem_nil, or_false, not_or] at hi
  obtain ⟨hcount, hreason, hlast, hsize, hlane, hlost, hlog⟩ := hi
  refine State.portToOff_same (g := fun t : State => t.rd i u) (fun _ _ => rfl) (fun t j hj v => ?_)
    (fun t v => State.rd_wr_ne (ck_ne_index hu (by decide) hsize)) (fun t k hk v => State.rd_wr_ne (ck_ne_index hu (laneIx_lt hp hk) hlane))
    (fun t code sub data => State.rd_raise (ck_notMem_eventCounters hu ⟨hlost, hlog⟩) code sub data) s reason
  have hsub : p + 1 < 256 := by omega
  simp only [List.mem_cons, List.not_mem_nil, or_false] at hj
  rcases hj with rfl | rfl | rfl | rfl
  · exact State.rd_wr_ne (ck_ne_index hu hsub hcount)
  · exact State.rd_wr_ne (ck_ne_index hu hsub hreason)
  · exact State.rd_wr_ne (ck_ne_index hu hsub hlast)
  · exact State.rd_wr_ne hs

/-- A port that is taken to OFF leaves the other as it stands. -/
theorem State.portToOff_rests (s : State) {p : Nat} (hp : p < 2) (reason : Nat) : s.Rests (s.portToOff p reason) := by
  refine ⟨s.rd_portToOff hp reason (by decide) (by decide) (ck_ne_index (by decide) (by omega) (by decide)),
    s.rd_portToOff hp reason (by decide) (by decide) (ck_ne_index (by decide) (by omega) (by decide)), fun q hq ho => ?_⟩
  by_cases hpq : q = p
  · rw [hpq, State.linkState_portToOff]
  · exact (s.rd_portToOff hp reason (by omega) (by decide) (ck_ne_sub (by omega))).trans ho

end Sys2Proof.Machine
end
section
/-! # The units that the loss of the reference resets (16_power.md; R364, R365) -/
namespace Sys2Proof.Machine

section
variable {β : Type} {g : State → β} (hm : ∀ s a, g { s with mem := a } = g s)
  (hb : ∀ (s : State), ∀ i ∈ [Ix.EccCorrected, Ix.EccUncorrectable, Ix.EccLogOverflow, Ix.SlowPathReads], ∀ u < 256, g (s.bump i u) = g s)
  (hr : ∀ s code sub data, g (State.raise s code sub data) = g s)
include hm hb hr

theorem State.ownBytes_stands (s : State) (a : Nat) (l : List Byte) : g (s.ownBytes a l) = g s :=
  ((hm _ _).trans (hm _ _)).trans
    (foldl_same (fun t _ => ite_ind (P := fun v : State => g v = g t) rfl (State.meetUpset_stands hm hb hr t _)) _ s)

end

section
variable {s t : State} (h : s.Rests t)
include h

/-! The Sync Packet Engine -/

theorem State.Rests.setSpe (v : SpeSys) : s.Rests (t.setSpe v) := h.sameCat rfl

theorem State.Rests.ownBytes (a : Nat) (l : List Byte) : s.Rests (t.ownBytes a l) := by
  have hrd : ∀ i u, u < 256 → i ∉ [Ix.EccCorrected, Ix.EccUncorrectable, Ix.EccLogOverflow, Ix.SlowPathReads, Ix.EventsLost, Ix.FaultLogOverwrites] →
      (t.ownBytes a l).rd i u = t.rd i u := by
    intro i u hu hi
    simp only [List.mem_cons, List.not_mem_nil, or_false, not_or] at hi
    obtain ⟨hcorrected, huncorrectable, hoverflow, hslow, hlost, hlog⟩ := hi
    refine State.ownBytes_stands (g := fun v : State => v.rd i u) (fun _ _ => rfl) (fun v j hj k hk => State.rd_bump_ne (ck_ne_index hu hk ?_))
      (fun v code sub data => State.rd_raise (ck_notMem_eventCounters hu ⟨hlost, hlog⟩) code sub data) t a l
    rintro rfl
    simp only [List.mem_cons, List.not_mem_nil, or_false] at hj
    tauto
  exact h.same (hrd _ _ (by decide) (by decide)) (hrd _ _ (by decide) (by decide)) fun p hp => hrd _ _ (by omega) (by decide)

theorem State.Rests.speCount {k : Nat} (hk : k < 256) : s.Rests (t.speCount k) := h.wr Ix.SpeCounters _ hk (by decide)

theorem State.Rests.speMissed (reason : Nat) : s.Rests (t.speMissed reason) := .ite (((h.setSpe _).setSpe _).raise _ _ _) (h.setSpe _)

theorem State.Rests.speStore (r : SpeRecv) (status : Nat) (payload : List Byte) : s.Rests (t.speStore r status payload) := by
  unfold State.speStore
  extract_lets v u
  have hu : s.Rests u := .ite h (h.setSpe _)
  clear_value u
  refine .ite ?_ (hu.setSpe _)
  split
  · exact (hu.speCount (by decide)).speMissed 3
  · exact ((((hu.ownBytes _ _).ownBytes _ _).setSpe _).wr Ix.SpeRxPending _ (by decide) (by decide)).raise _ _ _

theorem State.Rests.speDiversity : s.Rests t.speDiversity := by
  have hswitched := fun v a => ((h.setSpe v).wr Ix.SpeAntennaInUse (u := 0) a (by decide) (by decide)).raise
  exact .ite (hswitched _ _ _ _ _) h

theorem State.Rests.speReturn : s.Rests t.speReturn :=
  (h.wr Ix.SpeState _ (by decide) (by decide)).speDiversity.wr Ix.SpeAntennaInUse _ (by decide) (by decide)

theorem State.Rests.speAbandonRecv (status : Nat) : s.Rests (t.speAbandonRecv status) := by
  unfold State.speAbandonRecv
  split
  · exact h
  · have hcount := (h.setSpe { t.spe with recv := none }).speCount (k := if status = 3 then 6 else 0x0A) (by split <;> decide)
    exact .ite hcount (hcount.speStore _ _ _)

theorem State.Rests.speAbort (reason : Nat) : s.Rests (t.speAbort reason) := by
  unfold State.speAbort
  split
  · exact h
  · have hdrop := fun v => ((h.setSpe v).wr Ix.SpeTxScheduled (u := 0) 0 (by decide) (by decide)).raise 0x4404 0
    exact .ite (hdrop _ _).speReturn (hdrop _ _)

theorem State.Rests.speOff : s.Rests t.speOff := (((h.speAbandonRecv 4).speAbort 3).setSpe _).wr Ix.SpeState 0 (by decide) (by decide)

theorem State.Rests.synpStart : s.Rests t.synpStart := .ite (h.setSpe _) h

theorem State.Rests.speFollow : s.Rests t.speFollow := by
  unfold State.speFollow
  refine .ite (.ite ?_ (.ite h.synpStart h.speReturn)) (.ite (.ite h.speOff h) h.synpStart)
  split
  · exact .ite h (h.speAbort 3)
  · exact h

/-! MASON, jobs, calibration and training -/

theorem State.Rests.masonsReset : s.Rests t.masonsReset := by
  have hrd : ∀ i u, u < 256 → i ∉ [Ix.MasonState, Ix.EventsLost, Ix.FaultLogOverwrites] → t.masonsReset.rd i u = t.rd i u := by
    intro i u hu hi
    simp only [List.mem_cons, List.not_mem_nil, or_false, not_or] at hi
    obtain ⟨hstate, hevents⟩ := hi
    exact State.masonsReset_same (g := fun v : State => v.rd i u) (fun _ _ => rfl) (fun _ _ => rfl) (fun _ _ => rfl) (fun _ _ => rfl)
      (fun v m x hm => State.rd_wr_ne (ck_ne_index hu (by omega) hstate))
      (fun v code sub data => State.rd_raise (ck_notMem_eventCounters hu hevents) code sub data) t
  exact h.same (hrd _ _ (by decide) (by decide)) (hrd _ _ (by decide) (by decide)) fun p hp => hrd _ _ (by omega) (by decide)

theorem State.Rests.failCommits (pick : SealedCommit → Bool) (reason : Nat) : s.Rests (t.failCommits pick reason) := by
  unfold State.failCommits
  extract_lets gone host u
  have hu : s.Rests u := h.sameCat rfl
  exact hu.foldl fun v c _ hv => hv.raise _ _ _

theorem State.Rests.failJob (job reason at_ : Nat) : s.Rests (t.failJob job reason at_) := by
  unfold State.failJob
  split
  · exact h
  · next j _ =>
    extract_lets lib u v w x
    have hv : s.Rests v := h.sameCat rfl
    have hw : s.Rests w := hv.wr Ix.WeightJobsFailed _ (by decide) (by decide)
    exact (hw.failCommits _ _).raise _ _ _

theorem State.Rests.jobsReset (b : Bool) : s.Rests (t.jobsReset b) := h.foldl fun _ j _ hu => hu.failJob j 5 _

theorem State.Rests.freeLease (r : Nat) : s.Rests (t.freeLease r) := h.sameCat rfl

omit h in
theorem lt_of_mem_allPaths {p : Nat} (hp : p ∈ allPaths) : p < 64 := List.mem_range.1 hp

theorem State.Rests.showCalStale : s.Rests t.showCalStale := by
  unfold State.showCalStale
  exact h.foldl fun u p hp hu => hu.wr Ix.LinStatus _ (by have := lt_of_mem_allPaths hp; omega) (by decide)

theorem State.Rests.showStale : s.Rests t.showStale := by
  unfold State.showStale
  exact h.foldl fun u p hp hu => hu.wr Ix.CancelStatus _ (by have := lt_of_mem_allPaths hp; omega) (by decide)

theorem State.Rests.calSettled : s.Rests t.calSettled := State.Rests.showStale (h.showCalStale.sameCat rfl)

theorem State.Rests.freeCalLeases (r : CalRunSys) : s.Rests (t.freeCalLeases r) :=
  .ite (h.foldl fun _ x _ hu => hu.freeLease x) ((h.freeLease _).freeLease _)

theorem State.Rests.calFails (reason : Nat) : s.Rests (t.calFails reason) := by
  unfold State.calFails
  dsimp only
  split
  · exact h
  · refine State.Rests.calSettled (State.Rests.failCommits (State.Rests.raise (State.Rests.wr ?_ Ix.CalRunState 5 (by decide) (by decide)) _ _ _) _ _)
    exact ite_ind (State.Rests.freeCalLeases (h.sameCat (by rfl)) _) (h.sameCat (by rfl))

theorem State.Rests.calStepEnds : s.Rests t.calStepEnds := by
  unfold State.calStepEnds
  split
  · next r _ =>
    have hstep : s.Rests { t with cal := { t.cal with step := none } } := h.sameCat rfl
    exact (hstep.freeCalLeases r).calSettled
  · exact h

theorem State.Rests.freeTrainLeases : s.Rests t.freeTrainLeases := h.foldl fun _ r _ hu => hu.freeLease r

theorem State.Rests.trainFails (reason : Nat) : s.Rests (t.trainFails reason) := by
  unfold State.trainFails
  split
  · exact h
  · have htrain : s.Rests { t with duplex := { t.duplex with train := none } } := h.sameCat rfl
    exact ((htrain.freeTrainLeases.wrZero Ix.CancelSetState _ (by decide)).wr Ix.CancelTrainState 6 (by decide) (by decide)).raise _ _ _

/-! Domains, windows and the modes -/

theorem State.Rests.setModes (x : Modes) : s.Rests { t with modes := x } := h.sameCat rfl

theorem State.Rests.setPower (x : PowerSys) : s.Rests { t with power := x } := h.sameCat rfl

theorem State.Rests.courseOff {c : Nat} (hc : c < 4) : s.Rests (t.courseOff c) :=
  ((h.wr Ix.CourseState 0 (by omega) (by decide)).wr Ix.SynState 0 (by omega) (by decide)).sameCat rfl

/-- A domain that is none of a port's switches off. -/
theorem State.Rests.beginSwitchOff {d : Nat} (hd : d < 12) (hport : d ≠ 6 ∧ d ≠ 7) : s.Rests (t.beginSwitchOff d) := by
  unfold State.beginSwitchOff
  extract_lets st power u v w
  have hv : s.Rests v := (h.sameCat (u := u) rfl).wr Ix.DomainState 3 (by omega) (by decide)
  have hw : s.Rests w := by
    simp only [w, if_neg (show ¬(d = 6 ∨ d = 7) by omega)]
    exact hv
  exact h.ite (hw.ite (hw.courseOff (by omega)))

theorem State.Rests.endWindow {c : Nat} (hc : c < 4) : s.Rests (t.endWindow c) :=
  (h.setPower _).wr Ix.GovCourseDepth (u := c + 1) 0 (by omega) (by decide)

theorem State.Rests.failTarget (x : Target) (reason : Nat) : s.Rests (t.failTarget x reason) := by
  cases x <;> exact h.raise _ _ _

theorem State.Rests.abandonTransitions : s.Rests t.abandonTransitions := by
  have hdropped : s.Rests t.dropPending := by
    unfold State.dropPending
    split
    · exact (h.setModes _).failTarget _ _
    · exact h
  rw [State.abandonTransitions_eq]
  unfold State.dropUnderWay
  split
  · exact hdropped
  · exact .ite ((hdropped.setModes _).failTarget _ _) (hdropped.setModes _)

theorem State.Rests.nextSafeStep : s.Rests t.nextSafeStep := by
  cases ha : t.modes.abandoned with
  | none =>
    rw [State.nextSafeStep, ha]
    exact h
  | some x =>
    rw [State.nextSafeStep_ends ha]
    exact ((h.setModes _).failTarget _ _).speFollow

end

end Sys2Proof.Machine
end
section
/-! # The Governor wakes and holds, and the reference is lost (16_power.md; R358, R361, R364 to R366, R368) -/
namespace Sys2Proof.Machine

/-! The Sync Packet Engine leaves the transitions alone. -/

theorem State.changesOnly.symm {s t : State} {l : List Part} (h : s.changesOnly t l) : t.changesOnly s l := fun p hp => by
  have hst := h p hp
  cases p <;> exact Eq.symm hst

/-- A step that changes no other part takes nothing from what is changed so far, and adds nothing to it. -/
theorem State.changesOnly_step {u v : State} {l : List Part} (h : u.changesOnly v l) (s : State) : s.changesOnly v l = s.changesOnly u l :=
  propext ⟨fun k => k.trans h.symm, fun k => k.trans h⟩

section
variable {s t : State} (h : s.changesOnly t [.cat, .spe, .ev, .mem])
include h

theorem State.changesOnly.ownBytes (a : Nat) (l : List Byte) : s.changesOnly (t.ownBytes a l) [.cat, .spe, .ev, .mem] := by
  have hown := State.ownBytes_same (g := fun u => s.changesOnly u [.cat, .spe, .ev, .mem])
    (fun u x => State.changesOnly_step (fun p hp => by cases p with | mem => exact absurd (by decide) hp | _ => rfl) s)
    (fun u i k => State.changesOnly_step ((State.changesOnly.refl u _).wr i k _) s)
    (fun u code sub data => State.changesOnly_step ((State.changesOnly.refl u _).raise code sub data) s) t a l
  exact hown ▸ h

theorem State.changesOnly.speMissed (reason : Nat) : s.changesOnly (t.speMissed reason) [.cat, .spe, .ev, .mem] :=
  .ite (((h.setSpe _).setSpe _).raise _ _ _) (h.setSpe _)

theorem State.changesOnly.speStore (r : SpeRecv) (status : Nat) (payload : List Byte) :
    s.changesOnly (t.speStore r status payload) [.cat, .spe, .ev, .mem] := by
  unfold State.speStore
  extract_lets v u
  have hu : s.changesOnly u [.cat, .spe, .ev, .mem] := .ite h (h.setSpe _)
  clear_value u
  refine .ite ?_ (hu.setSpe _)
  split
  · exact (hu.wr _ _ _).speMissed 3
  · exact ((((hu.ownBytes _ _).ownBytes _ _).setSpe _).wr _ _ _).raise _ _ _

theorem State.changesOnly.speReturn : s.changesOnly t.speReturn [.cat, .spe, .ev, .mem] := by
  have hstate := h.wr Ix.SpeState 0
  have hswitched := fun x v a code sub data => (((hstate x).setSpe v).wr Ix.SpeAntennaInUse 0 a).raise code sub data
  exact (State.changesOnly.ite (hswitched _ _ _ _ _ _) (hstate _)).wr _ _ _

theorem State.changesOnly.speAbort (reason : Nat) : s.changesOnly (t.speAbort reason) [.cat, .spe, .ev, .mem] := by
  unfold State.speAbort
  split
  · exact h
  · have hdrop := fun v => ((h.setSpe v).wr Ix.SpeTxScheduled 0 0).raise 0x4404 0
    exact .ite (hdrop _ _).speReturn (hdrop _ _)

theorem State.changesOnly.speAbandonRecv (status : Nat) : s.changesOnly (t.speAbandonRecv status) [.cat, .spe, .ev, .mem] := by
  unfold State.speAbandonRecv
  split
  · exact h
  · exact .ite ((h.setSpe _).wr _ _ _) (((h.setSpe _).wr _ _ _).speStore _ _ _)

theorem State.changesOnly.speOff : s.changesOnly t.speOff [.cat, .spe, .ev, .mem] :=
  (((h.speAbandonRecv 4).speAbort 3).setSpe _).wr _ _ _

theorem State.changesOnly.speFollow : s.changesOnly t.speFollow [.cat, .spe, .ev, .mem] := by
  have hstart : s.changesOnly t.synpStart [.cat, .spe, .ev, .mem] := .ite (h.setSpe _) h
  unfold State.speFollow
  refine .ite (.ite ?_ (.ite hstart h.speReturn)) (.ite (.ite h.speOff h) hstart)
  split
  · exact .ite h (h.speAbort 3)
  · exact h

end

theorem State.nextSafeStep_underWay {s : State} (h : s.modes.underWay = none) : s.nextSafeStep.modes.underWay = none := by
  cases ha : s.modes.abandoned with
  | none =>
    rw [State.nextSafeStep, ha]
    exact h
  | some x =>
    rw [State.nextSafeStep_ends ha]
    generalize hu : State.failTarget _ x (preempted x) = u
    have hmodes : u.speFollow.modes = u.modes := (State.changesOnly.refl u _).speFollow .modes (by decide)
    rw [hmodes, ← hu, State.failTarget_modes]
    exact h

/-- Transitions end and Standby is due, unless it is the mode (R365). -/
theorem State.dropForStandby_modes {s t : State} (h : s.Rests t) :
    s.Rests t.dropForStandby ∧ t.dropForStandby.modes.underWay = none ∧ t.dropForStandby.modes.safeHoldDue = false
      ∧ t.dropForStandby.modes.standbyDue = (s.mode != 1) := by
  unfold State.dropForStandby
  extract_lets modes v
  have hv : s.Rests v := (State.Rests.abandonTransitions (h.setModes _)).nextSafeStep
  have hnone : v.modes.underWay = none := by
    refine State.nextSafeStep_underWay ?_
    rw [State.abandonTransitions_eq]
    exact State.dropUnderWay_underWay _
  clear_value v
  exact ⟨hv.setModes _, hnone, rfl, congrArg (· != 1) hv.mode⟩

/-! The loss of the reference (R365) -/

/-- Both ports OFF, the Sync Packet Engine before them. -/
def State.portsLost (s : State) : State := (s.speOff.portToOff 0 2).portToOff 1 2

/-- What ran on the reference has ended: MASON, jobs, calibration, training, the domains and the windows of the courses. -/
def State.unitsLost (s : State) : State :=
  let t := (((s.dropNorthRequests.masonsReset.jobsReset false).calFails 1).trainFails 1).calStepEnds
  [0, 1, 2, 3].foldl State.endWindow ([3, 4, 8, 9, 10, 11].foldl State.beginSwitchOff t)

/-- The time base runs free (R365). -/
def State.freeRunning (s : State) : State := if s.rd Ix.TimeSource 0 = 2 then s else s.wr Ix.TimeLockState 0 3

theorem State.refclkLoss_eq {s : State} (hmode : s.mode ≠ 0) (hclock : s.rd Ix.ClockSource 0 ≠ 2) :
    s.refclkLoss = ((s.portsLost.unitsLost.dropForStandby.holdArchive true).freeRunning).setClock 2 := by
  rw [State.refclkLoss, if_neg fun h => h.elim hmode hclock]
  rfl

theorem State.portsLost_rests (s : State) : s.Rests s.portsLost ∧ ∀ p < 2, s.portsLost.linkState p = 0 := by
  have hnorth : s.Rests (s.speOff.portToOff 0 2) := (State.Rests.refl s).speOff.trans (State.portToOff_rests _ (by decide) 2)
  have hsouth := State.portToOff_rests (s.speOff.portToOff 0 2) (p := 1) (by decide) 2
  refine ⟨hnorth.trans hsouth, fun p hp => ?_⟩
  interval_cases p
  · exact hsouth.off 0 (by decide) (State.linkState_portToOff _ _ _)
  · exact State.linkState_portToOff _ _ _

theorem State.unitsLost_rests (s : State) : s.Rests s.unitsLost := by
  have hdomain : ∀ d ∈ [3, 4, 8, 9, 10, 11], d < 12 ∧ d ≠ 6 ∧ d ≠ 7 := by decide
  have hcourse : ∀ c ∈ [0, 1, 2, 3], c < 4 := by decide
  have hdropped : s.Rests s.dropNorthRequests := (State.Rests.refl s).sameCat rfl
  have hended := ((((hdropped.masonsReset.jobsReset false).calFails 1).trainFails 1).calStepEnds)
  unfold State.unitsLost
  exact (hended.foldl fun u d hd hu => hu.beginSwitchOff (hdomain d hd).1 (hdomain d hd).2).foldl fun u c hc hu => hu.endWindow (hcourse c hc)

theorem State.freeRunning_rests (s : State) : s.Rests s.freeRunning :=
  .ite ((State.Rests.refl s).wr Ix.TimeLockState 3 (by decide) (by decide)) (State.Rests.refl s)

theorem State.setClock_rests (s : State) (v : Nat) : s.Rests (s.setClock v) :=
  ((State.Rests.refl s).wr Ix.ClockSource v (by decide) (by decide)).raise _ _ _

theorem State.freeRunning_changes (s : State) : s.changesOnly s.freeRunning [.cat, .ev] :=
  .ite ((State.changesOnly.refl s _).wr _ _ _) (State.changesOnly.refl s _)

theorem State.setClock_changes (s : State) (v : Nat) : s.changesOnly (s.setClock v) [.cat, .ev] :=
  ((State.changesOnly.refl s _).wr _ _ _).trans (State.raise_changes _ _ _ _)

theorem State.rd_setClock (s : State) {i u : Nat} (v : Nat) (h : ck i u ∉ eventCounters) :
    (s.setClock v).rd i u = (s.wr Ix.ClockSource 0 v).rd i u := State.rd_raise h _ _ _

/-- On the loss of the reference in use the device takes the ring oscillator, and what ran on the reference ends (R365). -/
theorem exec_refclkLoss {s : State} (hmode : s.mode ≠ 0) (hclock : s.rd Ix.ClockSource 0 ≠ 2) :
    ∃ t, exec .refclkLoss s = .next t ∧ t.rd Ix.ClockSource 0 = 2 ∧ t.power.archHeld = true ∧ t.linkState 0 = 0 ∧ t.linkState 1 = 0
      ∧ t.modes.underWay = none ∧ t.modes.safeHoldDue = false ∧ t.modes.standbyDue = (s.mode != 1)
      ∧ (s.rd Ix.TimeSource 0 ≠ 2 → t.rd Ix.TimeLockState 0 = 3) := by
  obtain ⟨hports, hoff⟩ := s.portsLost_rests
  have hunits := s.portsLost.unitsLost_rests
  obtain ⟨hdrop, hunder, hsafe, hstandby⟩ := State.dropForStandby_modes hunits
  have hexec : exec .refclkLoss s = .next (((s.portsLost.unitsLost.dropForStandby.holdArchive true).freeRunning).setClock 2) :=
    congrArg Host.Outcome.next (State.refclkLoss_eq hmode hclock)
  generalize s.portsLost.unitsLost.dropForStandby = u at *
  have hheld : s.portsLost.Rests (u.holdArchive true) := hdrop.sameCat rfl
  have hend : s.portsLost.Rests ((u.holdArchive true).freeRunning.setClock 2) :=
    (hheld.trans (State.freeRunning_rests _)).trans (State.setClock_rests _ 2)
  have hchanges := (State.freeRunning_changes (u.holdArchive true)).trans (State.setClock_changes _ 2)
  have hmodes : ((u.holdArchive true).freeRunning.setClock 2).modes = u.modes := hchanges .modes (by decide)
  have hpower : ((u.holdArchive true).freeRunning.setClock 2).power = (u.holdArchive true).power := hchanges .power (by decide)
  have htime : s.rd Ix.TimeSource 0 ≠ 2 → (u.holdArchive true).freeRunning.rd Ix.TimeLockState 0 = 3 := fun hsource => by
    have hkept : ¬(u.holdArchive true).rd Ix.TimeSource 0 = 2 := fun he => hsource (((hports.trans hheld).source).symm.trans he)
    rw [State.freeRunning, if_neg hkept, State.rd_wr_same]
  generalize (u.holdArchive true).freeRunning = v at *
  have hclk : (v.setClock 2).rd Ix.ClockSource 0 = 2 :=
    (State.rd_setClock v 2 (ck_notMem_eventCounters (by decide) (by decide))).trans (State.rd_wr_same _ _ _ _)
  have hlock : (v.setClock 2).rd Ix.TimeLockState 0 = v.rd Ix.TimeLockState 0 :=
    (State.rd_setClock v 2 (ck_notMem_eventCounters (by decide) (by decide))).trans
      (State.rd_wr_ne (ck_ne_index (by decide) (by decide) (by decide)))
  refine ⟨_, hexec, hclk, by rw [hpower]; rfl, hend.off 0 (by decide) (hoff 0 (by decide)), hend.off 1 (by decide) (hoff 1 (by decide)),
    by rw [hmodes, hunder], by rw [hmodes, hsafe], ?_, fun hsource => hlock.trans (htime hsource)⟩
  have hmode' : s.portsLost.mode = s.mode := hports.mode
  rw [hmodes, hstandby, hmode']

end Sys2Proof.Machine
end
section
/-! # Wakes, holds and the clock's return, and the settlement of the Governor and the reference (16_power.md; R358, R361, R364, R366, R368) -/
namespace Sys2Proof.Machine

theorem State.wakeDevice_awake {s : State} (h : s.rd Ix.GovDeviceDepth 0 ≠ 4) (source : Nat) : s.wakeDevice source = s := if_neg h

theorem State.plannedWake_due {s : State} {c t : Nat} {w : IdleWindow} (hw : s.window c = some w) (hu : w.until_ = some t)
    (ht : t ≤ s.now + wakeTime w.depth) (hd : s.rd Ix.GovDeviceDepth 0 ≠ 4) : s.plannedWake c = (s.wakeCourse c 3).govLate c := by
  simp only [State.plannedWake, hw, hu, State.wakeDevice_awake hd, ite_self, if_pos ht]

theorem State.dormantRequest_due {s : State} (hmode : s.mode = 1) (hen : s.rd Ix.GovDormantEnable 0 = 1) (hl : 50000 ≤ s.rd Ix.GovDeviceLatency 0)
    (hmax : s.rd Ix.GovDepthMax 0 = 5) (hidle : s.power.lastRequestAt + msec (s.rd Ix.GovDormantIdle 0) ≤ s.now) (hu : s.modes.underWay = none) :
    s.dormantRequest = s.beginTransition ⟨.mode 0, s.earliestAfter (msec 1), false, false, true, false⟩ := by
  have henabled : s.rdB Ix.GovDormantEnable 0 = true := by rw [State.rdB, hen]; rfl
  have hfree : s.modes.underWay.isNone = true := by rw [hu]; rfl
  exact if_pos ⟨hmode, henabled, hl, hmax, State.elapsed_of_le hidle, hfree⟩

/-! GOV_WAKE_NOW (R366) -/

/-- The device and every course, woken. -/
def State.allWoken (s : State) : State := ((((s.wakeDevice 4).wakeCourse 0 4).wakeCourse 1 4).wakeCourse 2 4).wakeCourse 3 4

theorem State.writeScalar_govWakeNow {m : State} (h : m.edgeLost = false) : m.writeScalar Ix.GovWakeNow 0 1 = .ok m.allWoken := by
  simp only [State.writeScalar, State.scalarAct, Ix.GovWakeNow, Option.getD_some, State.wakeNow, State.edgeWake, h, if_true]
  rfl

theorem State.allWoken_host (s : State) : s.allWoken.host = s.host := by
  have hdevice : (s.wakeDevice 4).host = s.host := by
    unfold State.wakeDevice
    split <;> simp
  simp [State.allWoken, hdevice]

theorem State.allWoken_reset (s : State) : s.allWoken.reset_ = s.reset_ := by
  have hdevice : (s.wakeDevice 4).reset_ = s.reset_ := by
    unfold State.wakeDevice
    split <;> simp
  simp [State.allWoken, hdevice]

/-! POWER_HOLD and POWER_RELEASE (R368) -/

/-- With no transition under way or abandoned, a request that changes the hold of a course begins: a hold at its epoch, a release at once. -/
theorem State.writeScalar_power {m : State} {c req e v : Nat} (hv : v = c * 256 + req) (hc : c < 4) (hreq : req = 0 ∨ req = 3)
    (hfrom : m.modeFrom ≠ 0 ∧ m.modeFrom ≠ 3) (hspe : req = 3 → m.rd Ix.SpeEnable 0 = 0 ∨ m.mainCourse ≠ c)
    (hheld : m.rdB Ix.PowerHold (c + 1) = (req == 0)) (hu : m.modes.underWay = none) (ha : m.modes.abandoned = none)
    (he : (if req = 3 then m.holdEpoch else m.epoch) = e) :
    m.writeScalar Ix.PowerRequest 0 v = .ok (m.beginTransition ⟨.power c req, e, false, false, true, false⟩) := by
  have hcourse : v / 256 = c := by omega
  have hcode : v % 256 = req := by omega
  have hform : ¬(3 < c ∨ req ≠ 0 ∧ req ≠ 3) := by omega
  have hmode : ¬(m.modeFrom = 0 ∨ m.modeFrom = 3) := fun h => h.elim hfrom.1 hfrom.2
  have hmain : ¬(req = 3 ∧ m.rdB Ix.SpeEnable 0 = true ∧ m.mainCourse = c) := by
    rintro ⟨h3, hon, hsame⟩
    rcases hspe h3 with hoff | hother
    · simp [State.rdB, hoff] at hon
    · exact hother hsame
  have hchange : ¬(if m.rdB Ix.PowerHold (c + 1) = true then 3 else 0) = req := by
    rw [hheld]
    rcases hreq with rfl | rfl <;> decide
  have hrequest : m.powerRequest v = .ok (m.beginTransition ⟨.power c req, e, false, false, true, false⟩) := by
    simp only [State.powerRequest, hcourse, hcode, if_neg hform, if_neg hmode, if_neg hmain, hu, if_neg hchange, he, ha, Option.isSome_none,
      Bool.false_eq_true, or_self, if_false]
  simp only [State.writeScalar, State.scalarAct, Ix.PowerRequest, Option.getD_some, hrequest]

theorem State.Orders.power {s : State} {w : Caller} {v : Nat} {x : Transition} (h : s.Orders w Ix.PowerRequest 0 v)
    (hw : (s.met w.port).writeScalar Ix.PowerRequest 0 v = .ok ((s.met w.port).beginTransition x)) :
    s.order w Ix.PowerRequest 0 v = ((s.met w.port).beginTransition x).ended w Ix.PowerRequest 0 v :=
  h.runSame rfl hw (State.beginTransition_host _ _) (State.beginTransition_reset _ _)

/-- Settles O51: wakes and holds take effect as the Governor gives, and the loss of the reference leaves the device on its own oscillator. -/
theorem theGovernorAndTheReference : Obligations.TheGovernorAndTheReference := by
  unfold Obligations.TheGovernorAndTheReference
  refine ⟨fun s c t w hw hu ht hd => congrArg Host.Outcome.next (State.plannedWake_due hw hu ht hd),
    fun s hmode hen hl hmax hidle hu => congrArg Host.Outcome.next (State.dormantRequest_due hmode hen hl hmax hidle hu), ?_, ?_, ?_,
    fun s hmode hclock => exec_refclkLoss hmode hclock, ?_⟩
  · rintro s m w rfl ho hedge
    exact congrArg Host.Outcome.next (ho.runSame rfl (State.writeScalar_govWakeNow hedge) (State.allWoken_host _)
      (State.allWoken_reset _))
  · rintro s m w c rfl hc ho h0 h3 hspe hheld hu ha
    have hfree : (s.met w.port).rdB Ix.PowerHold (c + 1) = (3 == 0) := by rw [State.rdB, hheld]; rfl
    exact congrArg Host.Outcome.next (ho.power (State.writeScalar_power rfl hc (.inr rfl) ⟨h0, h3⟩ (fun _ => hspe) hfree hu ha (if_pos rfl)))
  · rintro s m w c rfl hc ho h0 h3 hheld hu ha
    have hkept : (s.met w.port).rdB Ix.PowerHold (c + 1) = (0 == 0) := by rw [State.rdB, hheld]; rfl
    exact congrArg Host.Outcome.next (ho.power (
      State.writeScalar_power (c * 256).add_zero.symm hc (.inl rfl) ⟨h0, h3⟩ (fun h => absurd h (by decide)) hkept hu ha (if_neg (by decide))))
  · rintro s t hclock rfl
    have hreturn : s.clockReturn = State.portStart (State.portStart ((s.holdArchive false).setClock (s.holdArchive false).selectedClock) 0) 1 :=
      if_pos hclock
    exact congrArg (fun u : State => Host.Outcome.next u.goOn) hreturn

end Sys2Proof.Machine
end
